-- ==== Sys2Proof/Word.lean ====
section
/-!
DEFINITION. The word types of the Avtil A16 model: a register word, the time base, a stored sector, a byte.
-/
namespace Sys2Proof

/-- One register, 32 bits (R66). -/
abbrev Word := BitVec 32

/-- A 64-bit value: the time base (R60), an Exdun general register (R261). -/
abbrev Word64 := BitVec 64

/-- One byte. -/
abbrev Byte := BitVec 8

/-- The 512 data bits of a sector; byte n is bits [8n+7:8n] (R339). -/
abbrev Sector := BitVec 512

/-- A stored sector: 56 symbols of 10 bits, symbol k at bits [10k+9:10k] (R15). -/
abbrev Code := BitVec 560

end Sys2Proof
end

