-- ==== Sys2Proof/Machine/Bits.lean ====
section
/-!
DEFINITION. Bit fields, byte order and saturating arithmetic, written once for every meaning.
-/
namespace Sys2Proof.Machine

/-- Bits [hi:lo] of a number. -/
def bitsOf (n hi lo : Nat) : Nat := n / 2 ^ lo % 2 ^ (hi + 1 - lo)

/-- Bit `i` of a number. -/
def bitOf (n i : Nat) : Bool := n / 2 ^ i % 2 == 1

/-- `n` with bits [hi:lo] holding `v`, cut to the field's width. -/
def putBits (n hi lo v : Nat) : Nat :=
  n / 2 ^ (hi + 1) * 2 ^ (hi + 1) + v % 2 ^ (hi + 1 - lo) * 2 ^ lo + n % 2 ^ lo

/-- 1 for true, 0 for false. -/
def b2n (b : Bool) : Nat := if b then 1 else 0

/-- Addition that stays at the top of a field of `w` bits (R84). -/
def satAdd (w a b : Nat) : Nat := min (a + b) (2 ^ w - 1)

/-- Bitwise exclusive or of a list of numbers. -/
def xorAll (l : List Nat) : Nat := l.foldl Nat.xor 0

/-- The `n` low bytes of a number, least significant first (R161). -/
def bytesLE : Nat → Nat → List Nat
  | 0, _ => []
  | n + 1, v => v % 256 :: bytesLE n (v / 256)

/-- The number whose bytes, least significant first, are the list's. -/
def ofBytesLE : List Nat → Nat
  | [] => 0
  | b :: r => b % 256 + 256 * ofBytesLE r

/-- The numbers below `n` for which `p` holds, rising. -/
def below (n : Nat) (p : Nat → Bool) : List Nat := (List.range n).filter p

/-- How many bits of the low `n` are 1. -/
def popcount (n v : Nat) : Nat := (below n (bitOf v)).length

/-- A value of `w` bits read as two's complement. -/
def toSigned (w v : Nat) : Int := if bitOf v (w - 1) then (v : Int) - 2 ^ w else v

/-- An integer as `w` bits of two's complement. -/
def ofSigned (w : Nat) (i : Int) : Nat := (i % (2 ^ w : Int)).toNat

/-- Division rounded up. -/
def ceilDiv (a b : Nat) : Nat := (a + b - 1) / b

/-- The entry of a table at an index, 0 beyond its end. -/
def tbl (l : List Nat) (i : Nat) : Nat := l.getD i 0

end Sys2Proof.Machine
end

