-- ==== Sys2Proof/Machine/Crypto.lean ====
section
/-!
DEFINITION. CRC-32C (R316, R393), CRC-16 (R464), CRC-8 of the fuse records (R364), SHA-256 and HMAC-SHA-256 (R487).
-/
namespace Sys2Proof.Machine

/-- One bit of the reflected CRC-32C (R316). -/
def crcBit (c : Nat) : Nat := if c % 2 = 1 then Nat.xor (c / 2) 0x82F63B78 else c / 2

/-- One byte of the CRC-32C. -/
def crcByte (c b : Nat) : Nat :=
  crcBit (crcBit (crcBit (crcBit (crcBit (crcBit (crcBit (crcBit (Nat.xor c (b % 256)))))))))

/-- The CRC-32C register run over bytes from a start value, without inversion. -/
def crcRun (c : Nat) (l : List Nat) : Nat := l.foldl crcByte c

/-- CRC-32C with initial value 0xFFFF_FFFF and the result inverted (R393). -/
def crc32c (l : List Nat) : Nat := Nat.xor (crcRun 0xFFFFFFFF l) 0xFFFFFFFF

/-- The bytes of 32-bit words, least significant byte first. -/
def wordBytes (l : List Word) : List Nat := l.flatMap fun w => bytesLE 4 w.toNat

/-- One bit of the CRC-16 of the polynomial x^16 + x^12 + x^5 + 1, most significant bit first (R464). -/
def crc16Bit (c : Nat) : Nat := if 32768 ≤ c then Nat.xor (c * 2 % 65536) 0x1021 else c * 2

/-- CRC-16 with initial value 0xFFFF, over bytes, the most significant bit of each first (R464, log entry 119). -/
def crc16 (l : List Nat) : Nat :=
  l.foldl (fun c b => (List.range 8).foldl (fun x _ => crc16Bit x) (Nat.xor c (b % 256 * 256))) 0xFFFF

/-- CRC-8 of bits [63:8] of a fuse record, bit 63 first (R364). -/
def crc8 (rec : Nat) : Nat :=
  (List.range 56).foldl (fun c i =>
    let b := Nat.xor (c / 128) (if bitOf rec (63 - i) then 1 else 0)
    if b % 2 = 1 then Nat.xor (c * 2 % 256) 7 else c * 2 % 256) 0

/-! ### SHA-256

The manual names SHA-256 and no more (R487); its constants are computed here from what they are: the first 32 bits of the
fractions of square and cube roots of primes (log entry 106). -/

/-- The largest `r` below `2 ^ bits` with `r ^ e ≤ n`. -/
def rootBelow (bits e n : Nat) : Nat :=
  (List.range bits).foldr (fun i r => if (r + 2 ^ i) ^ e ≤ n then r + 2 ^ i else r) 0

/-- The primes below 312: the first 64. -/
def primes64 : List Nat :=
  (List.range 312).filter fun n => 2 ≤ n && (List.range n).all fun d => d < 2 || n < d * d || n % d != 0

/-- The first 32 bits of the fraction of the `e`-th root of `n`. -/
def rootFraction (e n : Nat) : Word := BitVec.ofNat 32 (rootBelow 36 e (n * 2 ^ (32 * e)))

/-- The eight words that run through the rounds. -/
structure Chain where
  a : Word
  b : Word
  c : Word
  d : Word
  e : Word
  f : Word
  g : Word
  h : Word
  deriving DecidableEq, Repr

/-- The words of a chain in order. -/
def Chain.words (x : Chain) : List Word := [x.a, x.b, x.c, x.d, x.e, x.f, x.g, x.h]

/-- A chain of the words that a list gives. -/
def chainOf (l : List Word) : Chain :=
  let w (k : Nat) : Word := l.getD k 0
  ⟨w 0, w 1, w 2, w 3, w 4, w 5, w 6, w 7⟩

/-- The chain before the first block. -/
def chain0 : Chain := chainOf ((primes64.take 8).map (rootFraction 2))

/-- A word turned right by three amounts, the three added without carry. -/
def turned (x : Word) (i j k : Nat) : Word := [i, j, k].foldl (fun y n => y ^^^ x.rotateRight n) 0

/-- A word turned by two amounts and shifted by a third. -/
def turnedShift (x : Word) (i j k : Nat) : Word := x.rotateRight i ^^^ x.rotateRight j ^^^ (x >>> k)

/-- The 64 words of a block's schedule, latest first, from its 16 words in that order. -/
def schedule (w : List Word) : List Word :=
  (List.range 48).foldl (fun l _ =>
    (turnedShift (l.getD 1 0) 17 19 10 + l.getD 6 0 + turnedShift (l.getD 14 0) 7 18 3 + l.getD 15 0) :: l) w

/-- A round, with its constant and its word of the schedule added. -/
def Chain.round (x : Chain) (kw : Word) : Chain :=
  let pick := (x.e &&& x.f) ||| (~~~x.e &&& x.g)
  let most := (x.a &&& (x.b ||| x.c)) ||| (x.b &&& x.c)
  let t := x.h + kw + pick + turned x.e 6 11 25
  { a := t + turned x.a 2 13 22 + most, b := x.a, c := x.b, d := x.c, e := x.d + t, f := x.e, g := x.f, h := x.g }

/-- A 32-bit word from four bytes, most significant first. -/
def wordBE (l : List Nat) : Word := BitVec.ofNat 32 (l.foldl (fun a b => a * 256 + b % 256) 0)

/-- A block of 64 bytes taken in, with the 64 round constants given. -/
def Chain.block (k : List Word) (x : Chain) (bytes : List Nat) : Chain :=
  let first := (List.range 16).map fun i => wordBE ((bytes.drop (60 - 4 * i)).take 4)
  let y := (k.zip (schedule first).reverse).foldl (fun z p => z.round (p.1 + p.2)) x
  chainOf (x.words.zipWith (· + ·) y.words)

/-- A message filled up to whole blocks: a bit 1, zeros, and its length in bits. -/
def filledUp (m : List Nat) : List Nat :=
  m ++ 0x80 :: List.replicate ((119 - m.length % 64) % 64) 0 ++ (bytesLE 8 (8 * m.length)).reverse

/-- SHA-256 of bytes, as 32 bytes. -/
def sha256 (m : List Nat) : List Nat :=
  let p := filledUp m
  let k := primes64.map (rootFraction 3)
  let x := (List.range (p.length / 64)).foldl (fun z i => z.block k (p.drop (64 * i))) chain0
  x.words.flatMap fun w => (bytesLE 4 w.toNat).reverse

/-- HMAC-SHA-256 under a key of at most 64 bytes. -/
def hmac256 (key msg : List Nat) : List Nat :=
  let k := key ++ List.replicate (64 - key.length) 0
  sha256 (k.map (Nat.xor 0x5C) ++ sha256 (k.map (Nat.xor 0x36) ++ msg))

end Sys2Proof.Machine
end

