-- ==== Sys2Proof/Machine/Ecc.lean ====
section
/-!
DEFINITION. The code of a stored sector: RS(56,52) over GF(2^10), its encoder and its two decode policies (R332 to
R339).
-/
namespace Sys2Proof.Machine

/-- Multiplication by α: x^10 = x^3 + 1 (R332). -/
def gfX (a : Nat) : Nat := if a < 512 then 2 * a else Nat.xor (2 * a) 0x409

/-- The product of two field elements, over the low `n` bits of the second. -/
def gfMulN : Nat → Nat → Nat → Nat
  | 0, _, _ => 0
  | n + 1, a, b => Nat.xor (if b % 2 = 1 then a else 0) (gfMulN n (gfX a) (b / 2))

/-- The product of two field elements. -/
def gfMul (a b : Nat) : Nat := gfMulN 10 a b

/-- `a` to the power `2^n - 2` ... by repeated squaring: the inverse is a^1022. -/
def gfInvN : Nat → Nat → Nat
  | 0, _ => 1
  | n + 1, sq => gfMul sq (gfInvN n (gfMul sq sq))

/-- The inverse of a field element: a^(2+4+...+512). -/
def gfInv (a : Nat) : Nat := gfInvN 9 (gfMul a a)

/-- α^e. -/
def gfPow : Nat → Nat
  | 0 => 1
  | e + 1 => gfX (gfPow e)

/-- Symbol `k` of a stored sector. -/
def symbol (c : Nat) (k : Nat) : Nat := c / 2 ^ (10 * k) % 1024

/-- The remainder register of the encoder after one more data symbol, highest power first (R333). -/
def encStep (r : Nat × Nat × Nat × Nat) (s : Nat) : Nat × Nat × Nat × Nat :=
  let fb := Nat.xor s r.2.2.2
  (gfMul fb 0x040, Nat.xor r.1 (gfMul fb 0x078), Nat.xor r.2.1 (gfMul fb 0x036), Nat.xor r.2.2.1 (gfMul fb 0x00F))

/-- The four check symbols of 520 sector bits, as 40 bits: s52 lowest (R333). -/
def checkSymbols (d : Nat) : Nat :=
  let r := (List.range 52).foldl (fun r k => encStep r (symbol d (51 - k))) (0, 0, 0, 0)
  r.1 + r.2.1 * 2 ^ 10 + r.2.2.1 * 2 ^ 20 + r.2.2.2 * 2 ^ 30

/-- The 520 bits of a sector: data and the metadata byte above them (R334). -/
def sectorBits (data : Sector) (metaByte : Nat) : Nat := data.toNat + metaByte % 256 * 2 ^ 512

/-- A stored sector from 520 bits. -/
def encodeBits (d : Nat) : Code := BitVec.ofNat 560 (d + checkSymbols d * 2 ^ 520)

/-- The metadata byte as stored: bits [6:4] are 0 (R182, R335). -/
def storedMeta (metaByte : Nat) : Nat := bitsOf metaByte 7 7 * 128 + bitsOf metaByte 3 0

/-- A sector encoded with its metadata byte (R335). -/
def encodeSector (data : Sector) (metaByte : Nat) : Code := encodeBits (sectorBits data (storedMeta metaByte))

/-- The all-zero codeword, with POISON 0 and TAG 0 (R249). -/
def zeroCode : Code := 0

/-- The power of x that symbol `k` stands at (R333). -/
def symPower (k : Nat) : Nat := if k < 52 then k + 4 else k - 52

/-- The symbol at a power of x. -/
def powerSym (e : Nat) : Nat := if e < 4 then 52 + e else e - 4

/-- c(x) by Horner's rule at the point α^j, highest power first. -/
def syndrome (c : Nat) (x : Nat) : Nat :=
  (List.range 56).foldl (fun acc i => Nat.xor (gfMul acc x) (symbol c (powerSym (55 - i)))) 0

/-- What a decode finds: clean, a corrected word with its symbols and magnitudes, or uncorrectable. -/
inductive Found where
  | clean
  | corrected (errs : List (Nat × Nat))
  | bad
  deriving DecidableEq, Repr

/-- The word with symbol `k` changed by `mag`. -/
def flip (c : Nat) (e : Nat × Nat) : Nat := Nat.xor c (e.2 * 2 ^ (10 * e.1))

/-- The single error that explains the syndromes, if one does. -/
def oneError (s0 s1 s2 s3 : Nat) : Option (Nat × Nat) :=
  if s0 = 0 then none else
  (List.range 56).findSome? fun e =>
    let x := gfPow e
    if gfMul s0 x = s1 ∧ gfMul s1 x = s2 ∧ gfMul s2 x = s3 then some (powerSym e, s0) else none

/-- The two errors that explain the syndromes, if two do, lower symbol first (R356). -/
def twoErrors (s0 s1 s2 s3 : Nat) : Option (List (Nat × Nat)) :=
  let a := Nat.xor (gfMul s0 s2) (gfMul s1 s1)
  let b := Nat.xor (gfMul s0 s3) (gfMul s1 s2)
  let d := Nat.xor (gfMul s1 s3) (gfMul s2 s2)
  if a = 0 then none else
  match (List.range 56).filter fun e =>
      let x := gfPow e
      Nat.xor (Nat.xor (gfMul a (gfMul x x)) (gfMul b x)) d == 0 with
  | [e1, e2] =>
    let x1 := gfPow e1
    let x2 := gfPow e2
    let y1 := gfMul (Nat.xor s1 (gfMul s0 x2)) (gfInv (Nat.xor x1 x2))
    let y2 := Nat.xor s0 y1
    if y1 = 0 ∨ y2 = 0 then none
    else if powerSym e1 < powerSym e2 then some [(powerSym e1, y1), (powerSym e2, y2)]
    else some [(powerSym e2, y2), (powerSym e1, y1)]
  | _ => none

/-- The errors a policy corrects in a word (R337): 0 is CORRECT2, 1 is CORRECT1_DETECT3. -/
def locate (policy : Nat) (c : Nat) : Found :=
  let s0 := syndrome c 1
  let s1 := syndrome c 2
  let s2 := syndrome c 4
  let s3 := syndrome c 8
  if s0 = 0 ∧ s1 = 0 ∧ s2 = 0 ∧ s3 = 0 then .clean else
  match oneError s0 s1 s2 s3 with
  | some e => .corrected [e]
  | none =>
    if policy = 0 then
      match twoErrors s0 s1 s2 s3 with
      | some es => .corrected es
      | none => .bad
    else .bad

/-- A decoded sector (R337 to R339). `bad` is uncorrectable; `code` the word to rewrite: the corrected codeword, or the
poisoned codeword with the data of R339. -/
structure Decoded where
  found : Found
  bad : Bool
  data : Sector
  metaByte : Nat
  code : Code
  deriving DecidableEq, Repr

/-- The decode of a stored sector under a policy. -/
def decodeSector (policy : Nat) (c : Code) : Decoded :=
  let f := locate policy c.toNat
  let w := match f with
    | .corrected es => es.foldl flip c.toNat
    | _ => c.toNat
  let m := w / 2 ^ 512 % 256
  if f = .bad ∨ bitsOf m 6 4 ≠ 0 then
    let m' := 128 + bitsOf (c.toNat / 2 ^ 512 % 256) 3 0
    ⟨.bad, true, BitVec.ofNat 512 c.toNat, m', encodeSector (BitVec.ofNat 512 c.toNat) m'⟩
  else ⟨f, false, BitVec.ofNat 512 w, m, BitVec.ofNat 560 w⟩

/-- The decode corrected at least one symbol. -/
def Decoded.corr (d : Decoded) : Bool := match d.found with | .corrected _ => true | _ => false

/-- The sector is poisoned or uncorrectable (R342). -/
def Decoded.poison (d : Decoded) : Bool := d.bad || bitOf d.metaByte 7

end Sys2Proof.Machine
end

