-- ==== Sys2Proof/Config.lean ====
section
/-!
DEFINITION. The free values: constants without a body for what the manual leaves open while the device goes on. Each is
applied to a number that says which value it is (the counter `free` of the state, or what it depends on), so nothing
can be proved of its value (log entry 6).
-/
namespace Sys2Proof.Config

/-- A value the manual does not state, one for each number. -/
opaque freeNat : Nat → Nat

/-- 32 bits the manual does not state. -/
opaque freeWord : Nat → Word

/-- A nonce drawn by the security island (R486): 256 bits nobody can predict. -/
opaque freeNonce : Nat → BitVec 256

/-- A choice the manual leaves to the device. -/
opaque freeBool : Nat → Bool

/-- Stored symbols the manual does not state: what a cut-short write leaves (R253), what a spare row holds (R35). -/
opaque freeCode : Nat → Code

end Sys2Proof.Config
end

