-- ==== Sys2Proof/Machine/FaultTable.lean ====
section
/-!
DEFINITION. The 256 fault sources: class, reaction, and whether a source is a condition (R442 to R445).
-/
namespace Sys2Proof.Machine

/-- The fault classes (R442). -/
inductive FaultClass where
  | info | corrected | deferred | recoverable | fatal
  deriving DecidableEq, Repr

/-- The fault reactions (R443); SAFE names its SAFE_CAUSE bit. -/
inductive Reaction where
  | none | throttle | fence (c : Nat) | safe (bit : Nat) | fatal
  deriving DecidableEq, Repr

/-- The sources the tables list; every other number is reserved (R444, R445). -/
def sourceListed (n : Nat) : Bool :=
  n ≤ 9 || (32 ≤ n && n ≤ 38) || (64 ≤ n && n ≤ 82) || (96 ≤ n && n ≤ 113) || (128 ≤ n && n ≤ 255)

/-- The class of a source (tables Global and link, Power, heat and store, Channel sources). -/
def sourceClass (n : Nat) : FaultClass :=
  if n ∈ [0, 1, 6, 7, 9, 64, 70, 81] then .fatal
  else if n ∈ [3, 5, 79, 106, 107, 109, 112] then .info
  else if n = 32 then .corrected
  else if 128 ≤ n ∧ n % 4 = 0 then .deferred
  else .recoverable

/-- The reaction a source takes for the UNIT bits of one raise (R443 to R445). -/
def sourceReaction (n bits : Nat) : Reaction :=
  if n ∈ [0, 1, 6, 7, 9, 64, 70, 81] then .fatal
  else if n ∈ [66, 68, 69, 72, 74, 75] then .throttle
  else if n = 96 then .safe 2
  else if n = 105 then .safe 0
  else if n = 108 then .safe 1
  else if n = 111 then .safe 3
  else if 128 ≤ n ∧ n % 4 = 0 ∧ bits / 2 % 2 = 1 then .fence ((n - 128) / 4)
  else if 128 ≤ n ∧ n % 4 = 3 then .fence ((n - 128) / 4)
  else .none

/-- A condition source: its LIVE bit is 1 while the condition holds (column Live, R444). -/
def sourceIsCondition (n : Nat) : Bool :=
  n ∈ [0, 1, 2, 3, 5, 34, 38, 76, 77, 78, 80, 82, 96, 103, 105, 108, 110, 111] || (64 ≤ n && n ≤ 75)

/-- The pin enables at reset, word r (R442): RECOVERABLE and FATAL sources. -/
def pinenReset (r : Nat) : Nat :=
  (List.range 32).foldl (fun a b =>
    let n := 32 * r + b
    if sourceListed n && (sourceClass n = .fatal || sourceClass n = .recoverable) then a + 2 ^ b else a) 0

end Sys2Proof.Machine
end

