-- ==== Sys2Proof/Machine/RegMap.lean ====
section
/-!
DEFINITION. The register map: every register of the manual with its place (R99, R100), privilege (R66), fields, access
codes, ranges (R69) and reset values, and one named field for each field of a table. Made from the register tables of
the chapters. `Reg` names follow the manual, without the index letters; the four words of a flow context are FLOW_W0 to
FLOW_W3.
-/
namespace Sys2Proof.Machine

/-- The access codes of a field (table Access codes, R66). -/
inductive Acc where
  | rw | ro | w1c | wo | mw | stg | lck | otw
  deriving DecidableEq, Repr

/-- The values a field's table allows (R69). -/
inductive Lim where
  | any
  | upTo (n : Nat)
  | range (lo hi : Nat)
  | zeroOr (lo hi : Nat)
  | among (l : List Nat)
  deriving DecidableEq, Repr

/-- A field of a register table: its bits, access code, allowed values and reset value. -/
structure FieldSpec where
  hi : Nat
  lo : Nat
  acc : Acc
  lim : Lim
  rst : Nat
  deriving DecidableEq, Repr

/-- Where the copies of a register lie: once (or `count` times at `stride`), once per module, once per channel. -/
inductive Span where
  | glb | mod | chan
  deriving DecidableEq, Repr

/-- The place of a register in the map. `base` is an offset within the block of a module or channel. -/
structure Place where
  span : Span
  base : Nat
  count : Nat
  stride : Nat
  deriving DecidableEq, Repr

/-- A field at a fixed place: an address and its bits. -/
structure Fld where
  addr : Nat
  hi : Nat
  lo : Nat
  deriving DecidableEq, Repr

/-- The registers of the device. -/
inductive Reg where
  | XPT_ADDR_MAP | GLB_ISL_CTL | GLB_ISL_STS | PWR_RAIL_LIM | PWR_RAIL_MEAS | PWR_DIE_PGOOD
  | GLB_TIME_LO | GLB_TIME_HI | GLB_TIME_CFG | GLB_ID | GLB_REV | GLB_CAP
  | POLL_SUMMARY | GLB_MODE | GLB_ACC_FAULT | GLB_ACC_LAST | GLB_ACC_COUNT | GLB_MODE_STS
  | CH_STATE | GLB_RET_CTX | UCI_CTL | UCI_STS | UCI_EQ | UCI_ERR_CFG
  | UCI_REPAIR_TX | UCI_REPAIR_RX | UCI_LINK_CNT | UCI_DROP_CNT | UCI_LPBK_CTL | UCI_LPBK_STS
  | UCI_LPBK_LANES_LO | UCI_LPBK_LANES_HI | XPT_STS | XPT_PRIV_EN | XPT_TIMEOUT_CNT | XPT_INJ_CTL
  | XPT_INJ_MATCH | XPT_PERR | FLOW_W0 | FLOW_W1 | FLOW_W2 | FLOW_W3
  | QOS_FLOOR_CFG | QOS_FLOOR | QOS_GUAR_SUM | QOS_DELIV | QOS_SCALE | QOS_ADMIT_STS
  | QOS_MISSES | QOS_SHORT_CNT | QOS_ARB_CFG | QOS_URG_CFG | QOS_URG_STS | QOS_THROTTLE
  | QOS_FENCE | GLB_DIE_RST | CH_FENCE_STS | CH_BUDGET_STS | LAG_CFG | LAG_STS
  | LAG_CTL | LAG_LOST_CNT | LAG_LOST | LAG_SLOT_TAG | LAG_SLOT_STS | EXD_CFG
  | EXD_STS | EXD_CTL | EXD_CNT | EXD_LAST | EXD_QCFG | EXD_QCTL
  | EXD_QDB | EXD_QSTS | EXD_QCNT | ECC_CFG | ECC_CORR_CNT | ECC_UE_CNT
  | ECC_SCRUB_CFG | ECC_SCRUB_STS | ECC_SCRUB_LAP | ECC_LOG_STS | ECC_LOG_POP | ECC_SPILL_STS
  | ECC_EXT | ECC_EXT_STS | ECC_INJ_CTL | ECC_SUSPECT | ECC_LOG_HOLD | ECC_LIFE_CORR
  | ECC_LIFE_UE | REF_CFG | REF_STS | REF_TRK_STS | REF_TRR_CNT | REF_TSETA
  | REF_TSETB | GLB_FPOINT_NEXT | CAL_CFG | CAL_CTL | CAL_REF_TEMP | CAL_LAST
  | CAL_COUNT | CAL_LAST_TIME_LO | CAL_LAST_TIME_HI | CAL_REC | VPT_STS | VPT_PROBE
  | THM_CFG | THM_MAX | THM_STEP | THM_CNT | THM_IMPL | THM_PERIOD
  | THM_TRIP | THM_DIE | THM_SENS | PWR_CAP | PWR_STS | PWR_EST
  | CAL_LDG_STS | CAL_LDG_IDX | CAL_LDG_CTL | CAL_LDG_ENT | CAL_TST_STS | CAL_TST_CNT
  | CAL_TST_IDX | CAL_TST_REC | CAL_FUSE_STS | CAL_FUSE_CTL | CAL_FUSE_REC_LO | CAL_FUSE_REC_HI
  | THM_WEAR_CFG | THM_WEAR_IDX | THM_WEAR_STS | FLT_STICKY | FLT_LIVE | FLT_PINEN
  | FLT_STS | FLT_CFG | FLT_INJ | FLT_DUMP_CFG | FLT_DUMP_STS | FLT_DUMP_CTL
  | FLT_DUMP_WIN | FLT_UNIT | FLT_CNT | FLT_FIRST_LO | FLT_FIRST_HI | AUTH_STS
  | AUTH_ASSIGN | AUTH_LAST_MOVE_LO | AUTH_LAST_MOVE_HI | AUTH_FWU_CTL | AUTH_FWU_SRC | CWY_CFG
  | CWY_STS | PKG_SUMMARY | CWY_PRESENT | CWY_MGR_STS | CWY_PKG_BUDGET | CWY_STACK
  | LC_STS | LC_CTL | LC_SESS_CTL | LC_CHAL | LC_RESP | LC_STRAP_OVR
  | LC_TRN_OVR | LC_AUD_STS | LC_AUD_IDX | LC_AUD_ENT | OBS_CNT_CFG | CH_CNT_CFG
  | OBS_CNT_LO | OBS_CNT_HI | CH_CNT_LO | CH_CNT_HI | OBS_SNAP_LO | OBS_SNAP_HI
  | CH_SNAP_LO | CH_SNAP_HI | OBS_CTL | OBS_SNAP_TIME_LO | OBS_SNAP_TIME_HI | OBS_SNAP_MISS
  | OBS_TAG_CFG | OBS_TAG_SEED | OBS_TAG_STS | CH_TAG_STS | OBS_TRC_CFG | OBS_TRC_CTL
  | OBS_TRC_STS | OBS_TRC_RD | OBS_TRC_WIN | OBS_TRC_MARK
  deriving DecidableEq, Repr

/-- The place of each register (R54 to R507). -/
def Reg.place : Reg → Place
  | .XPT_ADDR_MAP => ⟨.glb, 0x20040, 1, 4⟩
  | .GLB_ISL_CTL => ⟨.glb, 0x400, 57, 4⟩
  | .GLB_ISL_STS => ⟨.glb, 0x500, 57, 4⟩
  | .PWR_RAIL_LIM => ⟨.glb, 0x8800, 6, 8⟩
  | .PWR_RAIL_MEAS => ⟨.glb, 0x8804, 6, 8⟩
  | .PWR_DIE_PGOOD => ⟨.glb, 0x8840, 1, 4⟩
  | .GLB_TIME_LO => ⟨.glb, 0x20, 1, 4⟩
  | .GLB_TIME_HI => ⟨.glb, 0x24, 1, 4⟩
  | .GLB_TIME_CFG => ⟨.glb, 0x28, 1, 4⟩
  | .GLB_ID => ⟨.glb, 0x0, 1, 4⟩
  | .GLB_REV => ⟨.glb, 0x4, 1, 4⟩
  | .GLB_CAP => ⟨.glb, 0x8, 1, 4⟩
  | .POLL_SUMMARY => ⟨.glb, 0x10, 1, 4⟩
  | .GLB_MODE => ⟨.glb, 0x14, 1, 4⟩
  | .GLB_ACC_FAULT => ⟨.glb, 0x30, 1, 4⟩
  | .GLB_ACC_LAST => ⟨.glb, 0x34, 1, 4⟩
  | .GLB_ACC_COUNT => ⟨.glb, 0x38, 1, 4⟩
  | .GLB_MODE_STS => ⟨.glb, 0x40, 1, 4⟩
  | .CH_STATE => ⟨.chan, 0x0, 1, 4⟩
  | .GLB_RET_CTX => ⟨.glb, 0x48, 1, 4⟩
  | .UCI_CTL => ⟨.mod, 0x0, 1, 4⟩
  | .UCI_STS => ⟨.mod, 0x4, 1, 4⟩
  | .UCI_EQ => ⟨.mod, 0x8, 1, 4⟩
  | .UCI_ERR_CFG => ⟨.mod, 0xC, 1, 4⟩
  | .UCI_REPAIR_TX => ⟨.mod, 0x10, 1, 4⟩
  | .UCI_REPAIR_RX => ⟨.mod, 0x14, 1, 4⟩
  | .UCI_LINK_CNT => ⟨.mod, 0x18, 1, 4⟩
  | .UCI_DROP_CNT => ⟨.mod, 0x1C, 1, 4⟩
  | .UCI_LPBK_CTL => ⟨.mod, 0x30, 1, 4⟩
  | .UCI_LPBK_STS => ⟨.mod, 0x34, 1, 4⟩
  | .UCI_LPBK_LANES_LO => ⟨.mod, 0x38, 1, 4⟩
  | .UCI_LPBK_LANES_HI => ⟨.mod, 0x3C, 1, 4⟩
  | .XPT_STS => ⟨.glb, 0x20004, 1, 4⟩
  | .XPT_PRIV_EN => ⟨.glb, 0x20008, 1, 4⟩
  | .XPT_TIMEOUT_CNT => ⟨.glb, 0x2000C, 1, 4⟩
  | .XPT_INJ_CTL => ⟨.glb, 0x20080, 1, 4⟩
  | .XPT_INJ_MATCH => ⟨.glb, 0x20084, 1, 4⟩
  | .XPT_PERR => ⟨.glb, 0x20100, 12, 4⟩
  | .FLOW_W0 => ⟨.glb, 0x30000, 4096, 16⟩
  | .FLOW_W1 => ⟨.glb, 0x30004, 4096, 16⟩
  | .FLOW_W2 => ⟨.glb, 0x30008, 4096, 16⟩
  | .FLOW_W3 => ⟨.glb, 0x3000C, 4096, 16⟩
  | .QOS_FLOOR_CFG => ⟨.glb, 0x28000, 1, 4⟩
  | .QOS_FLOOR => ⟨.glb, 0x28004, 1, 4⟩
  | .QOS_GUAR_SUM => ⟨.glb, 0x28008, 1, 4⟩
  | .QOS_DELIV => ⟨.glb, 0x2800C, 1, 4⟩
  | .QOS_SCALE => ⟨.glb, 0x28010, 1, 4⟩
  | .QOS_ADMIT_STS => ⟨.glb, 0x28014, 1, 4⟩
  | .QOS_MISSES => ⟨.glb, 0x28018, 1, 4⟩
  | .QOS_SHORT_CNT => ⟨.glb, 0x2801C, 1, 4⟩
  | .QOS_ARB_CFG => ⟨.glb, 0x28020, 1, 4⟩
  | .QOS_URG_CFG => ⟨.glb, 0x28024, 1, 4⟩
  | .QOS_URG_STS => ⟨.glb, 0x28028, 1, 4⟩
  | .QOS_THROTTLE => ⟨.glb, 0x28030, 1, 4⟩
  | .QOS_FENCE => ⟨.glb, 0x28034, 1, 4⟩
  | .GLB_DIE_RST => ⟨.glb, 0x4C, 1, 4⟩
  | .CH_FENCE_STS => ⟨.chan, 0x20, 1, 4⟩
  | .CH_BUDGET_STS => ⟨.chan, 0x24, 1, 4⟩
  | .LAG_CFG => ⟨.chan, 0x1000, 1, 4⟩
  | .LAG_STS => ⟨.chan, 0x1004, 1, 4⟩
  | .LAG_CTL => ⟨.chan, 0x1008, 1, 4⟩
  | .LAG_LOST_CNT => ⟨.chan, 0x100C, 1, 4⟩
  | .LAG_LOST => ⟨.chan, 0x1200, 64, 4⟩
  | .LAG_SLOT_TAG => ⟨.chan, 0x1400, 64, 8⟩
  | .LAG_SLOT_STS => ⟨.chan, 0x1404, 64, 8⟩
  | .EXD_CFG => ⟨.chan, 0x2000, 1, 4⟩
  | .EXD_STS => ⟨.chan, 0x2004, 1, 4⟩
  | .EXD_CTL => ⟨.chan, 0x2008, 1, 4⟩
  | .EXD_CNT => ⟨.chan, 0x200C, 1, 4⟩
  | .EXD_LAST => ⟨.chan, 0x2010, 1, 4⟩
  | .EXD_QCFG => ⟨.chan, 0x2100, 8, 32⟩
  | .EXD_QCTL => ⟨.chan, 0x2104, 8, 32⟩
  | .EXD_QDB => ⟨.chan, 0x2108, 8, 32⟩
  | .EXD_QSTS => ⟨.chan, 0x210C, 8, 32⟩
  | .EXD_QCNT => ⟨.chan, 0x2110, 8, 32⟩
  | .ECC_CFG => ⟨.chan, 0x3000, 1, 4⟩
  | .ECC_CORR_CNT => ⟨.chan, 0x3004, 1, 4⟩
  | .ECC_UE_CNT => ⟨.chan, 0x3008, 1, 4⟩
  | .ECC_SCRUB_CFG => ⟨.chan, 0x3010, 1, 4⟩
  | .ECC_SCRUB_STS => ⟨.chan, 0x3014, 1, 4⟩
  | .ECC_SCRUB_LAP => ⟨.chan, 0x3018, 1, 4⟩
  | .ECC_LOG_STS => ⟨.chan, 0x3020, 1, 4⟩
  | .ECC_LOG_POP => ⟨.chan, 0x3024, 1, 4⟩
  | .ECC_SPILL_STS => ⟨.chan, 0x3028, 1, 4⟩
  | .ECC_EXT => ⟨.chan, 0x3030, 1, 4⟩
  | .ECC_EXT_STS => ⟨.chan, 0x3034, 1, 4⟩
  | .ECC_INJ_CTL => ⟨.chan, 0x3038, 1, 4⟩
  | .ECC_SUSPECT => ⟨.chan, 0x303C, 1, 4⟩
  | .ECC_LOG_HOLD => ⟨.chan, 0x3040, 8, 4⟩
  | .ECC_LIFE_CORR => ⟨.chan, 0x3060, 1, 4⟩
  | .ECC_LIFE_UE => ⟨.chan, 0x3064, 1, 4⟩
  | .REF_CFG => ⟨.chan, 0x4000, 1, 4⟩
  | .REF_STS => ⟨.chan, 0x4004, 1, 4⟩
  | .REF_TRK_STS => ⟨.chan, 0x4008, 1, 4⟩
  | .REF_TRR_CNT => ⟨.chan, 0x400C, 1, 4⟩
  | .REF_TSETA => ⟨.chan, 0x4010, 1, 4⟩
  | .REF_TSETB => ⟨.chan, 0x4014, 1, 4⟩
  | .GLB_FPOINT_NEXT => ⟨.glb, 0x44, 1, 4⟩
  | .CAL_CFG => ⟨.glb, 0x9000, 1, 4⟩
  | .CAL_CTL => ⟨.glb, 0x9004, 1, 4⟩
  | .CAL_REF_TEMP => ⟨.glb, 0x9008, 1, 4⟩
  | .CAL_LAST => ⟨.glb, 0x900C, 1, 4⟩
  | .CAL_COUNT => ⟨.glb, 0x9010, 1, 4⟩
  | .CAL_LAST_TIME_LO => ⟨.glb, 0x9014, 1, 4⟩
  | .CAL_LAST_TIME_HI => ⟨.glb, 0x9018, 1, 4⟩
  | .CAL_REC => ⟨.glb, 0x9100, 26, 4⟩
  | .VPT_STS => ⟨.chan, 0x5000, 1, 4⟩
  | .VPT_PROBE => ⟨.chan, 0x5004, 1, 4⟩
  | .THM_CFG => ⟨.glb, 0x8000, 1, 4⟩
  | .THM_MAX => ⟨.glb, 0x8004, 1, 4⟩
  | .THM_STEP => ⟨.glb, 0x8008, 1, 4⟩
  | .THM_CNT => ⟨.glb, 0x800C, 1, 4⟩
  | .THM_IMPL => ⟨.glb, 0x8010, 1, 4⟩
  | .THM_PERIOD => ⟨.glb, 0x8014, 1, 4⟩
  | .THM_TRIP => ⟨.glb, 0x8018, 1, 4⟩
  | .THM_DIE => ⟨.glb, 0x8100, 16, 4⟩
  | .THM_SENS => ⟨.glb, 0x8200, 176, 4⟩
  | .PWR_CAP => ⟨.glb, 0x8600, 1, 4⟩
  | .PWR_STS => ⟨.glb, 0x8604, 1, 4⟩
  | .PWR_EST => ⟨.glb, 0x8608, 1, 4⟩
  | .CAL_LDG_STS => ⟨.glb, 0x9200, 1, 4⟩
  | .CAL_LDG_IDX => ⟨.glb, 0x9204, 1, 4⟩
  | .CAL_LDG_CTL => ⟨.glb, 0x9208, 1, 4⟩
  | .CAL_LDG_ENT => ⟨.glb, 0x9220, 8, 4⟩
  | .CAL_TST_STS => ⟨.glb, 0x9300, 1, 4⟩
  | .CAL_TST_CNT => ⟨.glb, 0x9304, 1, 4⟩
  | .CAL_TST_IDX => ⟨.glb, 0x9308, 1, 4⟩
  | .CAL_TST_REC => ⟨.glb, 0x9310, 4, 4⟩
  | .CAL_FUSE_STS => ⟨.glb, 0x9400, 1, 4⟩
  | .CAL_FUSE_CTL => ⟨.glb, 0x9404, 1, 4⟩
  | .CAL_FUSE_REC_LO => ⟨.glb, 0x9408, 1, 4⟩
  | .CAL_FUSE_REC_HI => ⟨.glb, 0x940C, 1, 4⟩
  | .THM_WEAR_CFG => ⟨.glb, 0x8720, 1, 4⟩
  | .THM_WEAR_IDX => ⟨.glb, 0x8700, 4, 8⟩
  | .THM_WEAR_STS => ⟨.glb, 0x8704, 4, 8⟩
  | .FLT_STICKY => ⟨.glb, 0x4000, 8, 4⟩
  | .FLT_LIVE => ⟨.glb, 0x4020, 8, 4⟩
  | .FLT_PINEN => ⟨.glb, 0x4040, 8, 4⟩
  | .FLT_STS => ⟨.glb, 0x4060, 1, 4⟩
  | .FLT_CFG => ⟨.glb, 0x4064, 1, 4⟩
  | .FLT_INJ => ⟨.glb, 0x4070, 1, 4⟩
  | .FLT_DUMP_CFG => ⟨.glb, 0x4080, 1, 4⟩
  | .FLT_DUMP_STS => ⟨.glb, 0x4084, 1, 4⟩
  | .FLT_DUMP_CTL => ⟨.glb, 0x4088, 1, 4⟩
  | .FLT_DUMP_WIN => ⟨.glb, 0x4100, 64, 4⟩
  | .FLT_UNIT => ⟨.glb, 0x5000, 256, 16⟩
  | .FLT_CNT => ⟨.glb, 0x5004, 256, 16⟩
  | .FLT_FIRST_LO => ⟨.glb, 0x5008, 256, 16⟩
  | .FLT_FIRST_HI => ⟨.glb, 0x500C, 256, 16⟩
  | .AUTH_STS => ⟨.glb, 0x1000, 1, 4⟩
  | .AUTH_ASSIGN => ⟨.glb, 0x1004, 1, 4⟩
  | .AUTH_LAST_MOVE_LO => ⟨.glb, 0x1008, 1, 4⟩
  | .AUTH_LAST_MOVE_HI => ⟨.glb, 0x100C, 1, 4⟩
  | .AUTH_FWU_CTL => ⟨.glb, 0x1010, 1, 4⟩
  | .AUTH_FWU_SRC => ⟨.glb, 0x1014, 1, 4⟩
  | .CWY_CFG => ⟨.glb, 0xA000, 1, 4⟩
  | .CWY_STS => ⟨.glb, 0xA004, 1, 4⟩
  | .PKG_SUMMARY => ⟨.glb, 0xA010, 1, 4⟩
  | .CWY_PRESENT => ⟨.glb, 0xA014, 1, 4⟩
  | .CWY_MGR_STS => ⟨.glb, 0xA018, 1, 4⟩
  | .CWY_PKG_BUDGET => ⟨.glb, 0xA020, 1, 4⟩
  | .CWY_STACK => ⟨.glb, 0xA100, 16, 4⟩
  | .LC_STS => ⟨.glb, 0x2000, 1, 4⟩
  | .LC_CTL => ⟨.glb, 0x2004, 1, 4⟩
  | .LC_SESS_CTL => ⟨.glb, 0x2008, 1, 4⟩
  | .LC_CHAL => ⟨.glb, 0x2010, 8, 4⟩
  | .LC_RESP => ⟨.glb, 0x2030, 8, 4⟩
  | .LC_STRAP_OVR => ⟨.glb, 0x2060, 1, 4⟩
  | .LC_TRN_OVR => ⟨.glb, 0x2064, 1, 4⟩
  | .LC_AUD_STS => ⟨.glb, 0x2100, 1, 4⟩
  | .LC_AUD_IDX => ⟨.glb, 0x2104, 1, 4⟩
  | .LC_AUD_ENT => ⟨.glb, 0x2110, 8, 4⟩
  | .OBS_CNT_CFG => ⟨.glb, 0xC100, 64, 16⟩
  | .CH_CNT_CFG => ⟨.chan, 0x6000, 16, 16⟩
  | .OBS_CNT_LO => ⟨.glb, 0xC104, 64, 16⟩
  | .OBS_CNT_HI => ⟨.glb, 0xC108, 64, 16⟩
  | .CH_CNT_LO => ⟨.chan, 0x6004, 16, 16⟩
  | .CH_CNT_HI => ⟨.chan, 0x6008, 16, 16⟩
  | .OBS_SNAP_LO => ⟨.glb, 0xC800, 64, 8⟩
  | .OBS_SNAP_HI => ⟨.glb, 0xC804, 64, 8⟩
  | .CH_SNAP_LO => ⟨.chan, 0x6100, 16, 8⟩
  | .CH_SNAP_HI => ⟨.chan, 0x6104, 16, 8⟩
  | .OBS_CTL => ⟨.glb, 0xC000, 1, 4⟩
  | .OBS_SNAP_TIME_LO => ⟨.glb, 0xC008, 1, 4⟩
  | .OBS_SNAP_TIME_HI => ⟨.glb, 0xC00C, 1, 4⟩
  | .OBS_SNAP_MISS => ⟨.glb, 0xC010, 1, 4⟩
  | .OBS_TAG_CFG => ⟨.glb, 0xC020, 1, 4⟩
  | .OBS_TAG_SEED => ⟨.glb, 0xC024, 1, 4⟩
  | .OBS_TAG_STS => ⟨.glb, 0xC028, 1, 4⟩
  | .CH_TAG_STS => ⟨.chan, 0x6200, 1, 4⟩
  | .OBS_TRC_CFG => ⟨.glb, 0xC040, 1, 4⟩
  | .OBS_TRC_CTL => ⟨.glb, 0xC044, 1, 4⟩
  | .OBS_TRC_STS => ⟨.glb, 0xC048, 1, 4⟩
  | .OBS_TRC_RD => ⟨.glb, 0xC04C, 1, 4⟩
  | .OBS_TRC_WIN => ⟨.glb, 0xC050, 4, 4⟩
  | .OBS_TRC_MARK => ⟨.glb, 0xC060, 1, 4⟩

/-- The address of copy `u` (module or channel), index `i` of a register. -/
def adr (r : Reg) (u : Nat := 0) (i : Nat := 0) : Nat :=
  match r.place with
  | ⟨.glb, b, _, st⟩ => b + i * st
  | ⟨.mod, b, _, st⟩ => 0x10000 + u * 0x1000 + b + i * st
  | ⟨.chan, b, _, st⟩ => 0x100000 + u * 0x10000 + b + i * st

/-- The privileged registers: /PRV on the name line (R66). -/
def Reg.prv : Reg → Bool
  | .GLB_ISL_STS => false
  | .PWR_RAIL_MEAS => false
  | .PWR_DIE_PGOOD => false
  | .GLB_ID => false
  | .GLB_REV => false
  | .GLB_CAP => false
  | .UCI_STS => false
  | .UCI_EQ => false
  | .UCI_REPAIR_TX => false
  | .UCI_REPAIR_RX => false
  | .UCI_LPBK_STS => false
  | .UCI_LPBK_LANES_LO => false
  | .UCI_LPBK_LANES_HI => false
  | .XPT_STS => false
  | .LAG_STS => false
  | .THM_MAX => false
  | .THM_STEP => false
  | .THM_PERIOD => false
  | .THM_TRIP => false
  | .THM_DIE => false
  | .THM_SENS => false
  | .PWR_STS => false
  | .PWR_EST => false
  | _ => true

/-- The fields of each register. A reset value that a table takes from elsewhere stands as 0 here (`regReset`). -/
def Reg.fields : Reg → List FieldSpec
  | .XPT_ADDR_MAP => [⟨31, 31, .lck, .any, 0⟩, ⟨8, 8, .ro, .any, 0⟩, ⟨1, 0, .lck, .upTo 2, 0⟩]
  | .GLB_ISL_CTL => [⟨31, 31, .wo, .any, 0⟩, ⟨9, 8, .rw, .upTo 2, 0⟩, ⟨7, 0, .rw, .range 1 255, 16⟩]
  | .GLB_ISL_STS => [⟨31, 16, .ro, .any, 0⟩, ⟨15, 8, .ro, .any, 0⟩, ⟨3, 3, .ro, .any, 0⟩, ⟨2, 2, .ro, .any, 0⟩, ⟨1, 1, .ro, .any, 1⟩, ⟨0, 0, .ro, .any, 0⟩]
  | .PWR_RAIL_LIM => [⟨31, 16, .rw, .any, 0⟩, ⟨15, 0, .rw, .any, 0⟩]
  | .PWR_RAIL_MEAS => [⟨31, 31, .ro, .any, 0⟩, ⟨30, 30, .ro, .any, 0⟩, ⟨15, 0, .ro, .any, 0⟩]
  | .PWR_DIE_PGOOD => [⟨31, 16, .ro, .any, 0⟩, ⟨15, 0, .ro, .any, 0⟩]
  | .GLB_TIME_LO => [⟨31, 0, .rw, .any, 0⟩]
  | .GLB_TIME_HI => [⟨31, 0, .rw, .any, 0⟩]
  | .GLB_TIME_CFG => [⟨31, 31, .ro, .any, 0⟩, ⟨30, 30, .w1c, .any, 0⟩, ⟨12, 0, .rw, .upTo 5100, 0⟩]
  | .GLB_ID => [⟨31, 16, .ro, .any, 19289⟩, ⟨15, 0, .ro, .any, 40982⟩]
  | .GLB_REV => [⟨31, 28, .ro, .any, 0⟩, ⟨27, 24, .ro, .any, 0⟩, ⟨23, 20, .ro, .any, 0⟩, ⟨19, 16, .ro, .any, 0⟩, ⟨15, 8, .ro, .any, 0⟩, ⟨7, 0, .ro, .any, 0⟩]
  | .GLB_CAP => [⟨27, 16, .ro, .any, 0⟩, ⟨5, 4, .ro, .any, 0⟩]
  | .POLL_SUMMARY => [⟨31, 16, .ro, .any, 0⟩, ⟨15, 15, .ro, .any, 0⟩, ⟨14, 14, .ro, .any, 0⟩, ⟨13, 13, .ro, .any, 0⟩, ⟨12, 12, .ro, .any, 0⟩, ⟨11, 11, .ro, .any, 0⟩, ⟨10, 10, .w1c, .any, 0⟩, ⟨9, 9, .w1c, .any, 0⟩, ⟨8, 8, .w1c, .any, 0⟩, ⟨7, 7, .w1c, .any, 0⟩, ⟨6, 6, .w1c, .any, 0⟩, ⟨5, 5, .w1c, .any, 0⟩, ⟨4, 4, .w1c, .any, 0⟩, ⟨3, 3, .w1c, .any, 0⟩, ⟨2, 2, .w1c, .any, 0⟩, ⟨1, 1, .w1c, .any, 0⟩, ⟨0, 0, .w1c, .any, 0⟩]
  | .GLB_MODE => [⟨31, 28, .wo, .upTo 5, 0⟩, ⟨27, 27, .ro, .any, 0⟩, ⟨15, 12, .ro, .any, 0⟩, ⟨8, 8, .ro, .any, 0⟩, ⟨2, 0, .ro, .any, 1⟩]
  | .GLB_ACC_FAULT => [⟨4, 4, .w1c, .any, 0⟩, ⟨3, 3, .w1c, .any, 0⟩, ⟨2, 2, .w1c, .any, 0⟩, ⟨1, 1, .w1c, .any, 0⟩, ⟨0, 0, .w1c, .any, 0⟩]
  | .GLB_ACC_LAST => [⟨31, 26, .ro, .any, 0⟩, ⟨23, 2, .ro, .any, 0⟩, ⟨1, 1, .ro, .any, 0⟩, ⟨0, 0, .ro, .any, 0⟩]
  | .GLB_ACC_COUNT => [⟨31, 16, .ro, .any, 0⟩, ⟨15, 0, .ro, .any, 0⟩]
  | .GLB_MODE_STS => [⟨31, 31, .ro, .any, 0⟩, ⟨30, 30, .ro, .any, 0⟩, ⟨29, 29, .ro, .any, 0⟩, ⟨27, 24, .ro, .any, 0⟩, ⟨19, 16, .ro, .any, 0⟩, ⟨15, 0, .ro, .any, 0⟩]
  | .CH_STATE => [⟨31, 28, .wo, .upTo 6, 0⟩, ⟨27, 27, .ro, .any, 0⟩, ⟨23, 16, .ro, .any, 0⟩, ⟨15, 8, .ro, .any, 0⟩, ⟨2, 0, .ro, .any, 4⟩]
  | .GLB_RET_CTX => [⟨31, 31, .ro, .any, 0⟩, ⟨12, 8, .ro, .any, 0⟩, ⟨4, 0, .ro, .any, 0⟩]
  | .UCI_CTL => [⟨31, 31, .wo, .any, 0⟩, ⟨30, 30, .wo, .any, 0⟩, ⟨29, 29, .wo, .any, 0⟩, ⟨28, 28, .wo, .any, 0⟩, ⟨27, 27, .wo, .any, 0⟩, ⟨26, 26, .wo, .any, 0⟩, ⟨16, 16, .ro, .any, 0⟩, ⟨11, 8, .stg, .upTo 8, 6⟩, ⟨7, 4, .stg, .upTo 8, 2⟩, ⟨3, 3, .stg, .any, 1⟩, ⟨2, 2, .stg, .any, 1⟩, ⟨1, 0, .stg, .any, 0⟩]
  | .UCI_STS => [⟨31, 28, .ro, .any, 0⟩, ⟨27, 26, .ro, .any, 0⟩, ⟨25, 25, .ro, .any, 0⟩, ⟨24, 24, .ro, .any, 0⟩, ⟨23, 20, .ro, .any, 0⟩, ⟨19, 19, .ro, .any, 0⟩, ⟨18, 18, .ro, .any, 0⟩, ⟨17, 17, .ro, .any, 0⟩, ⟨16, 16, .ro, .any, 0⟩, ⟨15, 8, .ro, .any, 0⟩, ⟨7, 0, .ro, .any, 0⟩]
  | .UCI_EQ => [⟨31, 31, .ro, .any, 0⟩, ⟨23, 16, .ro, .any, 0⟩, ⟨15, 8, .ro, .any, 32⟩, ⟨7, 0, .ro, .any, 0⟩]
  | .UCI_ERR_CFG => [⟨31, 31, .ro, .any, 0⟩, ⟨15, 0, .stg, .range 1 65535, 64⟩]
  | .UCI_REPAIR_TX => [⟨31, 24, .ro, .any, 0⟩, ⟨23, 16, .ro, .any, 0⟩, ⟨15, 8, .ro, .any, 0⟩, ⟨7, 0, .ro, .any, 0⟩]
  | .UCI_REPAIR_RX => [⟨31, 24, .ro, .any, 0⟩, ⟨23, 16, .ro, .any, 0⟩, ⟨15, 8, .ro, .any, 0⟩, ⟨7, 0, .ro, .any, 0⟩]
  | .UCI_LINK_CNT => [⟨31, 16, .rw, .any, 0⟩, ⟨15, 0, .rw, .any, 0⟩]
  | .UCI_DROP_CNT => [⟨31, 24, .rw, .any, 0⟩, ⟨23, 16, .rw, .any, 0⟩, ⟨15, 0, .rw, .any, 0⟩]
  | .UCI_LPBK_CTL => [⟨31, 31, .wo, .any, 0⟩, ⟨30, 30, .wo, .any, 0⟩, ⟨13, 6, .rw, .range 1 255, 10⟩, ⟨5, 4, .rw, .any, 0⟩, ⟨1, 0, .rw, .any, 0⟩]
  | .UCI_LPBK_STS => [⟨31, 31, .ro, .any, 0⟩, ⟨30, 30, .ro, .any, 0⟩, ⟨29, 29, .ro, .any, 0⟩, ⟨23, 16, .ro, .any, 0⟩, ⟨15, 0, .ro, .any, 0⟩]
  | .UCI_LPBK_LANES_LO => [⟨31, 0, .ro, .any, 0⟩]
  | .UCI_LPBK_LANES_HI => [⟨31, 0, .ro, .any, 0⟩]
  | .XPT_STS => [⟨14, 0, .ro, .any, 0⟩]
  | .XPT_PRIV_EN => [⟨31, 31, .lck, .any, 0⟩, ⟨11, 0, .lck, .any, 4095⟩]
  | .XPT_TIMEOUT_CNT => [⟨31, 16, .rw, .any, 0⟩, ⟨15, 0, .rw, .any, 0⟩]
  | .XPT_INJ_CTL => [⟨31, 31, .rw, .any, 0⟩, ⟨27, 24, .rw, .among [1, 2, 3, 7, 8], 2⟩, ⟨23, 16, .rw, .range 1 255, 1⟩, ⟨15, 12, .rw, .among [0, 1, 2, 3, 4, 5, 6, 7, 8, 9, 10, 11, 15], 15⟩, ⟨11, 10, .rw, .upTo 2, 2⟩, ⟨7, 0, .ro, .any, 0⟩]
  | .XPT_INJ_MATCH => [⟨31, 31, .rw, .any, 0⟩, ⟨11, 0, .rw, .any, 0⟩]
  | .XPT_PERR => [⟨31, 31, .w1c, .any, 0⟩, ⟨27, 24, .ro, .any, 0⟩, ⟨23, 20, .ro, .any, 0⟩, ⟨15, 0, .rw, .any, 0⟩]
  | .FLOW_W0 => [⟨31, 30, .stg, .upTo 2, 0⟩, ⟨29, 28, .stg, .any, 0⟩, ⟨27, 24, .stg, .upTo 12, 0⟩, ⟨15, 0, .stg, .zeroOr 100 50000, 0⟩]
  | .FLOW_W1 => [⟨20, 0, .stg, .any, 0⟩]
  | .FLOW_W2 => [⟨31, 24, .stg, .range 1 255, 1⟩, ⟨20, 0, .stg, .any, 0⟩]
  | .FLOW_W3 => [⟨31, 31, .ro, .any, 0⟩, ⟨30, 30, .ro, .any, 0⟩, ⟨29, 16, .rw, .any, 0⟩, ⟨15, 0, .rw, .any, 0⟩]
  | .QOS_FLOOR_CFG => [⟨31, 31, .ro, .any, 0⟩, ⟨9, 8, .stg, .upTo 2, 2⟩, ⟨4, 4, .stg, .any, 0⟩, ⟨3, 0, .stg, .any, 8⟩]
  | .QOS_FLOOR => [⟨31, 31, .ro, .any, 0⟩, ⟨20, 0, .ro, .any, 0⟩]
  | .QOS_GUAR_SUM => [⟨20, 0, .ro, .any, 0⟩]
  | .QOS_DELIV => [⟨31, 31, .ro, .any, 0⟩, ⟨20, 0, .ro, .any, 0⟩]
  | .QOS_SCALE => [⟨31, 31, .ro, .any, 0⟩, ⟨26, 16, .ro, .any, 1024⟩, ⟨10, 0, .ro, .any, 1024⟩]
  | .QOS_ADMIT_STS => [⟨31, 31, .w1c, .any, 0⟩, ⟨30, 30, .ro, .any, 0⟩, ⟨27, 16, .ro, .any, 0⟩, ⟨15, 0, .rw, .any, 0⟩]
  | .QOS_MISSES => [⟨31, 0, .rw, .any, 0⟩]
  | .QOS_SHORT_CNT => [⟨31, 0, .rw, .any, 0⟩]
  | .QOS_ARB_CFG => [⟨31, 31, .ro, .any, 0⟩, ⟨5, 0, .stg, .upTo 40, 20⟩]
  | .QOS_URG_CFG => [⟨31, 31, .ro, .any, 0⟩, ⟨17, 16, .stg, .upTo 2, 0⟩, ⟨9, 8, .stg, .range 1 3, 2⟩, ⟨7, 0, .stg, .range 1 255, 10⟩]
  | .QOS_URG_STS => [⟨15, 8, .ro, .any, 0⟩, ⟨7, 0, .ro, .any, 0⟩]
  | .QOS_THROTTLE => [⟨3, 0, .rw, .any, 0⟩]
  | .QOS_FENCE => [⟨31, 31, .ro, .any, 0⟩, ⟨30, 30, .wo, .any, 0⟩, ⟨29, 29, .ro, .any, 0⟩, ⟨15, 0, .ro, .any, 0⟩]
  | .GLB_DIE_RST => [⟨31, 31, .wo, .any, 0⟩, ⟨30, 30, .ro, .any, 0⟩, ⟨29, 28, .ro, .any, 0⟩, ⟨3, 0, .rw, .any, 0⟩]
  | .CH_FENCE_STS => [⟨31, 31, .ro, .any, 0⟩, ⟨30, 30, .ro, .any, 0⟩, ⟨23, 20, .ro, .any, 0⟩, ⟨15, 8, .ro, .any, 0⟩, ⟨7, 0, .ro, .any, 0⟩]
  | .CH_BUDGET_STS => [⟨31, 16, .rw, .any, 0⟩, ⟨10, 0, .ro, .any, 1280⟩]
  | .LAG_CFG => [⟨31, 31, .ro, .any, 0⟩, ⟨30, 30, .stg, .any, 1⟩, ⟨29, 29, .stg, .any, 1⟩, ⟨23, 16, .stg, .range 1 64, 48⟩, ⟨9, 8, .stg, .any, 1⟩, ⟨5, 0, .stg, .range 1 32, 3⟩]
  | .LAG_STS => [⟨31, 26, .ro, .any, 3⟩, ⟨22, 16, .ro, .any, 0⟩, ⟨14, 8, .ro, .any, 0⟩, ⟨4, 0, .ro, .any, 0⟩]
  | .LAG_CTL => [⟨31, 31, .wo, .any, 0⟩, ⟨30, 30, .wo, .any, 0⟩, ⟨29, 29, .ro, .any, 0⟩]
  | .LAG_LOST_CNT => [⟨6, 0, .ro, .any, 0⟩]
  | .LAG_LOST => [⟨31, 0, .ro, .any, 0⟩]
  | .LAG_SLOT_TAG => [⟨31, 0, .ro, .any, 786432⟩]
  | .LAG_SLOT_STS => [⟨31, 29, .ro, .any, 0⟩, ⟨28, 28, .ro, .any, 0⟩, ⟨27, 27, .ro, .any, 0⟩, ⟨26, 26, .ro, .any, 0⟩, ⟨15, 0, .ro, .any, 0⟩]
  | .EXD_CFG => [⟨20, 16, .rw, .any, 0⟩, ⟨15, 0, .rw, .range 1 65535, 1000⟩]
  | .EXD_STS => [⟨31, 29, .ro, .any, 0⟩, ⟨28, 28, .ro, .any, 0⟩, ⟨27, 27, .ro, .any, 0⟩, ⟨26, 24, .ro, .any, 0⟩, ⟨20, 16, .ro, .any, 0⟩, ⟨10, 0, .ro, .any, 0⟩]
  | .EXD_CTL => [⟨31, 31, .wo, .any, 0⟩]
  | .EXD_CNT => [⟨31, 16, .rw, .any, 0⟩, ⟨15, 0, .rw, .any, 0⟩]
  | .EXD_LAST => [⟨31, 31, .ro, .any, 0⟩, ⟨30, 27, .ro, .any, 0⟩, ⟨26, 24, .ro, .any, 0⟩, ⟨23, 16, .ro, .any, 0⟩, ⟨10, 10, .ro, .any, 0⟩, ⟨9, 0, .ro, .any, 0⟩]
  | .EXD_QCFG => [⟨31, 28, .rw, .range 4 10, 4⟩, ⟨27, 16, .rw, .any, 0⟩, ⟨11, 0, .rw, .any, 0⟩]
  | .EXD_QCTL => [⟨31, 31, .rw, .any, 0⟩, ⟨30, 30, .wo, .any, 0⟩, ⟨29, 29, .wo, .any, 0⟩]
  | .EXD_QDB => [⟨9, 0, .wo, .any, 0⟩]
  | .EXD_QSTS => [⟨31, 31, .ro, .any, 1⟩, ⟨30, 30, .ro, .any, 0⟩, ⟨29, 20, .ro, .any, 0⟩, ⟨19, 10, .ro, .any, 0⟩]
  | .EXD_QCNT => [⟨31, 16, .rw, .any, 0⟩, ⟨15, 0, .rw, .any, 0⟩]
  | .ECC_CFG => [⟨31, 31, .ro, .any, 0⟩, ⟨30, 30, .stg, .any, 1⟩, ⟨29, 29, .stg, .any, 1⟩, ⟨28, 28, .stg, .any, 1⟩, ⟨27, 27, .stg, .any, 1⟩, ⟨20, 16, .stg, .range 1 31, 1⟩, ⟨11, 8, .stg, .zeroOr 2 15, 3⟩, ⟨0, 0, .stg, .any, 0⟩]
  | .ECC_CORR_CNT => [⟨31, 0, .rw, .any, 0⟩]
  | .ECC_UE_CNT => [⟨31, 0, .rw, .any, 0⟩]
  | .ECC_SCRUB_CFG => [⟨31, 31, .ro, .any, 0⟩, ⟨30, 30, .stg, .any, 1⟩, ⟨19, 0, .stg, .range 60 1048575, 86400⟩]
  | .ECC_SCRUB_STS => [⟨31, 31, .w1c, .any, 0⟩, ⟨30, 30, .ro, .any, 0⟩, ⟨25, 16, .ro, .any, 0⟩, ⟨15, 0, .rw, .any, 0⟩]
  | .ECC_SCRUB_LAP => [⟨31, 31, .ro, .any, 0⟩, ⟨19, 0, .ro, .any, 0⟩]
  | .ECC_LOG_STS => [⟨24, 16, .ro, .any, 0⟩, ⟨15, 0, .rw, .any, 0⟩]
  | .ECC_LOG_POP => [⟨31, 0, .ro, .any, 0⟩]
  | .ECC_SPILL_STS => [⟨31, 16, .ro, .any, 0⟩, ⟨14, 0, .ro, .any, 0⟩]
  | .ECC_EXT => [⟨31, 31, .ro, .any, 0⟩, ⟨30, 30, .ro, .any, 0⟩, ⟨16, 0, .rw, .any, 0⟩]
  | .ECC_EXT_STS => [⟨31, 31, .ro, .any, 0⟩, ⟨30, 30, .w1c, .any, 0⟩, ⟨17, 0, .ro, .any, 0⟩]
  | .ECC_INJ_CTL => [⟨31, 31, .rw, .any, 0⟩, ⟨27, 24, .rw, .any, 1⟩, ⟨23, 16, .rw, .range 1 255, 1⟩, ⟨7, 0, .ro, .any, 0⟩]
  | .ECC_SUSPECT => [⟨31, 31, .w1c, .any, 0⟩, ⟨20, 16, .ro, .any, 0⟩, ⟨13, 8, .ro, .any, 0⟩, ⟨7, 0, .ro, .any, 0⟩]
  | .ECC_LOG_HOLD => [⟨31, 0, .ro, .any, 0⟩]
  | .ECC_LIFE_CORR => [⟨31, 0, .ro, .any, 0⟩]
  | .ECC_LIFE_UE => [⟨31, 16, .ro, .any, 0⟩, ⟨15, 0, .ro, .any, 0⟩]
  | .REF_CFG => [⟨31, 31, .ro, .any, 0⟩, ⟨25, 24, .stg, .upTo 2, 0⟩, ⟨23, 16, .stg, .range 1 255, 10⟩, ⟨11, 0, .stg, .range 256 2048, 1024⟩]
  | .REF_STS => [⟨31, 30, .ro, .any, 0⟩, ⟨29, 29, .ro, .any, 0⟩, ⟨28, 28, .ro, .any, 0⟩, ⟨24, 16, .ro, .any, 0⟩, ⟨15, 8, .ro, .any, 0⟩]
  | .REF_TRK_STS => [⟨23, 16, .ro, .any, 0⟩]
  | .REF_TRR_CNT => [⟨31, 0, .rw, .any, 0⟩]
  | .REF_TSETA => [⟨31, 31, .ro, .any, 0⟩, ⟨30, 30, .ro, .any, 0⟩, ⟨23, 21, .ro, .any, 3⟩, ⟨20, 18, .ro, .any, 3⟩, ⟨17, 15, .ro, .any, 4⟩, ⟨14, 12, .ro, .any, 3⟩, ⟨11, 9, .ro, .any, 2⟩, ⟨8, 6, .ro, .any, 2⟩, ⟨5, 3, .ro, .any, 3⟩, ⟨2, 0, .ro, .any, 2⟩]
  | .REF_TSETB => [⟨31, 31, .ro, .any, 0⟩, ⟨30, 30, .ro, .any, 1⟩, ⟨23, 21, .ro, .any, 2⟩, ⟨20, 18, .ro, .any, 2⟩, ⟨17, 15, .ro, .any, 2⟩, ⟨14, 12, .ro, .any, 2⟩, ⟨11, 9, .ro, .any, 1⟩, ⟨8, 6, .ro, .any, 1⟩, ⟨5, 3, .ro, .any, 2⟩, ⟨2, 0, .ro, .any, 1⟩]
  | .GLB_FPOINT_NEXT => [⟨8, 8, .rw, .any, 0⟩]
  | .CAL_CFG => [⟨31, 31, .ro, .any, 0⟩, ⟨30, 30, .stg, .any, 1⟩, ⟨20, 16, .stg, .range 2 30, 10⟩, ⟨15, 8, .stg, .range 1 255, 10⟩, ⟨7, 0, .stg, .range 1 255, 10⟩]
  | .CAL_CTL => [⟨31, 31, .wo, .any, 0⟩, ⟨30, 30, .ro, .any, 0⟩, ⟨25, 24, .rw, .upTo 2, 0⟩]
  | .CAL_REF_TEMP => [⟨7, 0, .rw, .range 24 169, 89⟩]
  | .CAL_LAST => [⟨31, 31, .ro, .any, 0⟩, ⟨30, 27, .ro, .any, 0⟩, ⟨26, 24, .ro, .any, 0⟩, ⟨20, 16, .ro, .any, 0⟩, ⟨3, 0, .ro, .any, 0⟩]
  | .CAL_COUNT => [⟨31, 16, .rw, .any, 0⟩, ⟨15, 0, .rw, .any, 0⟩]
  | .CAL_LAST_TIME_LO => [⟨31, 0, .ro, .any, 0⟩]
  | .CAL_LAST_TIME_HI => [⟨31, 0, .ro, .any, 0⟩]
  | .CAL_REC => [⟨31, 31, .ro, .any, 0⟩, ⟨30, 30, .ro, .any, 0⟩, ⟨29, 29, .ro, .any, 0⟩, ⟨28, 28, .ro, .any, 0⟩, ⟨27, 0, .ro, .any, 0⟩]
  | .VPT_STS => [⟨31, 31, .ro, .any, 0⟩, ⟨30, 30, .ro, .any, 0⟩, ⟨23, 16, .ro, .any, 0⟩, ⟨15, 8, .ro, .any, 0⟩, ⟨7, 0, .ro, .any, 0⟩]
  | .VPT_PROBE => [⟨31, 31, .ro, .any, 0⟩, ⟨30, 30, .rw, .any, 0⟩, ⟨29, 24, .ro, .any, 0⟩, ⟨23, 16, .ro, .any, 0⟩, ⟨13, 0, .rw, .upTo 9147, 0⟩]
  | .THM_CFG => [⟨31, 31, .ro, .any, 0⟩, ⟨27, 24, .stg, .range 3 15, 6⟩, ⟨23, 16, .stg, .range 2 40, 8⟩, ⟨15, 8, .stg, .range 90 110, 110⟩, ⟨7, 0, .stg, .range 85 105, 105⟩]
  | .THM_MAX => [⟨31, 28, .ro, .any, 0⟩, ⟨27, 18, .ro, .any, 0⟩, ⟨15, 6, .ro, .any, 0⟩, ⟨5, 0, .ro, .any, 0⟩]
  | .THM_STEP => [⟨31, 28, .ro, .any, 0⟩, ⟨27, 24, .ro, .any, 0⟩, ⟨23, 20, .ro, .any, 0⟩, ⟨17, 16, .ro, .any, 0⟩]
  | .THM_CNT => [⟨31, 16, .rw, .any, 0⟩, ⟨15, 0, .rw, .any, 0⟩]
  | .THM_IMPL => [⟨31, 16, .ro, .any, 0⟩, ⟨15, 0, .w1c, .any, 0⟩]
  | .THM_PERIOD => [⟨31, 0, .ro, .any, 0⟩]
  | .THM_TRIP => [⟨31, 31, .ro, .any, 0⟩, ⟨30, 30, .ro, .any, 0⟩, ⟨24, 20, .ro, .any, 0⟩, ⟨9, 0, .ro, .any, 0⟩]
  | .THM_DIE => [⟨31, 31, .ro, .any, 0⟩, ⟨30, 30, .ro, .any, 0⟩, ⟨29, 20, .ro, .any, 0⟩, ⟨19, 10, .ro, .any, 0⟩, ⟨9, 0, .ro, .any, 0⟩]
  | .THM_SENS => [⟨31, 31, .ro, .any, 0⟩, ⟨30, 30, .ro, .any, 0⟩, ⟨9, 0, .ro, .any, 0⟩]
  | .PWR_CAP => [⟨31, 31, .ro, .any, 0⟩, ⟨26, 16, .stg, .range 400 1100, 600⟩, ⟨10, 0, .stg, .range 400 1100, 1100⟩]
  | .PWR_STS => [⟨31, 31, .ro, .any, 0⟩, ⟨30, 30, .ro, .any, 0⟩, ⟨26, 16, .ro, .any, 0⟩, ⟨10, 0, .ro, .any, 1100⟩]
  | .PWR_EST => [⟨31, 31, .ro, .any, 0⟩, ⟨10, 0, .ro, .any, 0⟩]
  | .CAL_LDG_STS => [⟨31, 31, .ro, .any, 0⟩, ⟨27, 16, .ro, .any, 0⟩, ⟨11, 0, .ro, .any, 0⟩]
  | .CAL_LDG_IDX => [⟨31, 31, .ro, .any, 0⟩, ⟨30, 30, .ro, .any, 0⟩, ⟨10, 0, .rw, .any, 0⟩]
  | .CAL_LDG_CTL => [⟨31, 28, .wo, .any, 0⟩, ⟨27, 27, .ro, .any, 0⟩, ⟨26, 24, .ro, .any, 0⟩, ⟨20, 16, .rw, .any, 0⟩, ⟨13, 0, .rw, .upTo 8959, 0⟩]
  | .CAL_LDG_ENT => [⟨31, 0, .ro, .any, 0⟩]
  | .CAL_TST_STS => [⟨31, 31, .ro, .any, 0⟩, ⟨30, 30, .ro, .any, 0⟩, ⟨29, 28, .ro, .any, 0⟩, ⟨27, 27, .ro, .any, 0⟩, ⟨26, 26, .ro, .any, 0⟩, ⟨10, 0, .ro, .any, 0⟩]
  | .CAL_TST_CNT => [⟨31, 16, .ro, .any, 0⟩, ⟨15, 0, .ro, .any, 0⟩]
  | .CAL_TST_IDX => [⟨31, 31, .ro, .any, 0⟩, ⟨9, 0, .rw, .any, 0⟩]
  | .CAL_TST_REC => [⟨31, 0, .ro, .any, 0⟩]
  | .CAL_FUSE_STS => [⟨27, 16, .ro, .any, 0⟩, ⟨11, 0, .ro, .any, 0⟩]
  | .CAL_FUSE_CTL => [⟨31, 31, .wo, .any, 0⟩, ⟨30, 30, .ro, .any, 0⟩, ⟨29, 29, .ro, .any, 0⟩, ⟨28, 26, .ro, .any, 0⟩, ⟨10, 0, .rw, .any, 0⟩]
  | .CAL_FUSE_REC_LO => [⟨31, 0, .ro, .any, 0⟩]
  | .CAL_FUSE_REC_HI => [⟨31, 0, .ro, .any, 0⟩]
  | .THM_WEAR_CFG => [⟨31, 31, .ro, .any, 0⟩, ⟨23, 16, .stg, .range 1 255, 48⟩, ⟨15, 8, .stg, .range 1 255, 32⟩, ⟨7, 0, .stg, .range 1 255, 16⟩]
  | .THM_WEAR_IDX => [⟨31, 0, .ro, .any, 0⟩]
  | .THM_WEAR_STS => [⟨31, 30, .ro, .any, 0⟩, ⟨19, 0, .ro, .any, 0⟩]
  | .FLT_STICKY => [⟨31, 0, .w1c, .any, 0⟩]
  | .FLT_LIVE => [⟨31, 0, .ro, .any, 0⟩]
  | .FLT_PINEN => [⟨31, 0, .rw, .any, 0⟩]
  | .FLT_STS => [⟨31, 31, .ro, .any, 0⟩, ⟨30, 30, .w1c, .any, 0⟩, ⟨23, 16, .ro, .any, 0⟩, ⟨15, 8, .ro, .any, 0⟩, ⟨1, 1, .ro, .any, 0⟩, ⟨0, 0, .ro, .any, 0⟩]
  | .FLT_CFG => [⟨3, 0, .rw, .range 1 15, 8⟩]
  | .FLT_INJ => [⟨31, 31, .wo, .any, 0⟩, ⟨30, 30, .rw, .any, 0⟩, ⟨23, 16, .rw, .any, 0⟩, ⟨4, 0, .rw, .any, 0⟩]
  | .FLT_DUMP_CFG => [⟨20, 16, .rw, .any, 31⟩, ⟨4, 0, .rw, .any, 0⟩]
  | .FLT_DUMP_STS => [⟨31, 31, .ro, .any, 0⟩, ⟨30, 30, .ro, .any, 0⟩, ⟨29, 28, .ro, .any, 0⟩, ⟨27, 26, .ro, .any, 0⟩, ⟨25, 24, .ro, .any, 0⟩, ⟨23, 23, .ro, .any, 0⟩, ⟨20, 16, .ro, .any, 0⟩, ⟨12, 8, .ro, .any, 0⟩, ⟨7, 0, .ro, .any, 0⟩]
  | .FLT_DUMP_CTL => [⟨31, 31, .ro, .any, 0⟩, ⟨30, 27, .ro, .any, 0⟩, ⟨25, 24, .rw, .upTo 2, 0⟩, ⟨11, 0, .rw, .any, 0⟩]
  | .FLT_DUMP_WIN => [⟨31, 0, .ro, .any, 0⟩]
  | .FLT_UNIT => [⟨31, 0, .w1c, .any, 0⟩]
  | .FLT_CNT => [⟨15, 0, .rw, .any, 0⟩]
  | .FLT_FIRST_LO => [⟨31, 0, .ro, .any, 0⟩]
  | .FLT_FIRST_HI => [⟨31, 0, .ro, .any, 0⟩]
  | .AUTH_STS => [⟨31, 31, .ro, .any, 0⟩, ⟨30, 30, .ro, .any, 0⟩, ⟨29, 28, .ro, .any, 0⟩, ⟨27, 16, .ro, .any, 0⟩, ⟨15, 8, .ro, .any, 0⟩, ⟨7, 4, .ro, .any, 0⟩, ⟨3, 0, .ro, .any, 0⟩]
  | .AUTH_ASSIGN => [⟨31, 31, .wo, .any, 0⟩, ⟨0, 0, .wo, .any, 0⟩]
  | .AUTH_LAST_MOVE_LO => [⟨31, 0, .ro, .any, 0⟩]
  | .AUTH_LAST_MOVE_HI => [⟨31, 0, .ro, .any, 0⟩]
  | .AUTH_FWU_CTL => [⟨31, 31, .wo, .any, 0⟩, ⟨30, 29, .ro, .any, 0⟩, ⟨28, 26, .ro, .any, 0⟩, ⟨25, 21, .rw, .any, 0⟩]
  | .AUTH_FWU_SRC => [⟨31, 20, .rw, .range 1 1024, 0⟩, ⟨19, 8, .rw, .any, 0⟩]
  | .CWY_CFG => [⟨31, 31, .ro, .any, 0⟩, ⟨30, 30, .wo, .any, 0⟩, ⟨27, 24, .stg, .range 1 15, 1⟩, ⟨15, 0, .stg, .any, 0⟩]
  | .CWY_STS => [⟨31, 31, .ro, .any, 0⟩, ⟨30, 30, .ro, .any, 0⟩, ⟨29, 29, .ro, .any, 0⟩, ⟨28, 28, .ro, .any, 0⟩, ⟨27, 24, .ro, .any, 15⟩, ⟨23, 16, .rw, .any, 0⟩, ⟨15, 0, .ro, .any, 0⟩]
  | .PKG_SUMMARY => [⟨31, 16, .ro, .any, 0⟩, ⟨15, 0, .w1c, .any, 0⟩]
  | .CWY_PRESENT => [⟨31, 16, .ro, .any, 0⟩, ⟨15, 0, .ro, .any, 0⟩]
  | .CWY_MGR_STS => [⟨31, 16, .ro, .any, 0⟩, ⟨15, 12, .ro, .any, 15⟩, ⟨11, 8, .ro, .any, 15⟩, ⟨7, 0, .ro, .any, 0⟩]
  | .CWY_PKG_BUDGET => [⟨31, 31, .ro, .any, 0⟩, ⟨14, 0, .stg, .range 400 17600, 17600⟩]
  | .CWY_STACK => [⟨31, 0, .ro, .any, 0⟩]
  | .LC_STS => [⟨31, 29, .ro, .any, 0⟩, ⟨28, 27, .ro, .any, 0⟩, ⟨26, 21, .ro, .any, 0⟩, ⟨20, 20, .ro, .any, 0⟩, ⟨19, 19, .ro, .any, 0⟩, ⟨18, 17, .ro, .any, 0⟩, ⟨16, 13, .ro, .any, 0⟩, ⟨12, 0, .ro, .any, 0⟩]
  | .LC_CTL => [⟨31, 29, .wo, .upTo 5, 0⟩, ⟨28, 28, .ro, .any, 0⟩, ⟨27, 26, .ro, .any, 0⟩]
  | .LC_SESS_CTL => [⟨31, 31, .wo, .any, 0⟩, ⟨30, 30, .wo, .any, 0⟩, ⟨29, 29, .wo, .any, 0⟩, ⟨25, 24, .rw, .range 1 2, 1⟩, ⟨9, 0, .rw, .range 10 600, 600⟩]
  | .LC_CHAL => [⟨31, 0, .ro, .any, 0⟩]
  | .LC_RESP => [⟨31, 0, .wo, .any, 0⟩]
  | .LC_STRAP_OVR => [⟨31, 31, .rw, .any, 0⟩, ⟨5, 5, .rw, .any, 0⟩, ⟨4, 4, .rw, .any, 0⟩, ⟨3, 0, .rw, .any, 0⟩]
  | .LC_TRN_OVR => [⟨31, 31, .rw, .any, 0⟩, ⟨4, 0, .rw, .range 6 16, 0⟩]
  | .LC_AUD_STS => [⟨31, 23, .ro, .any, 0⟩, ⟨22, 12, .ro, .any, 0⟩, ⟨11, 0, .ro, .any, 0⟩]
  | .LC_AUD_IDX => [⟨31, 31, .ro, .any, 0⟩, ⟨8, 0, .rw, .any, 0⟩]
  | .LC_AUD_ENT => [⟨31, 0, .ro, .any, 0⟩]
  | .OBS_CNT_CFG => [⟨31, 31, .rw, .any, 0⟩, ⟨30, 30, .rw, .any, 0⟩, ⟨29, 29, .rw, .any, 0⟩, ⟨28, 28, .rw, .any, 0⟩, ⟨27, 16, .rw, .any, 0⟩, ⟨15, 12, .rw, .upTo 11, 0⟩, ⟨7, 0, .rw, .any, 0⟩]
  | .CH_CNT_CFG => [⟨31, 31, .rw, .any, 0⟩, ⟨30, 30, .rw, .any, 0⟩, ⟨29, 29, .rw, .any, 0⟩, ⟨28, 28, .rw, .any, 0⟩, ⟨27, 16, .rw, .any, 0⟩, ⟨15, 12, .rw, .upTo 11, 0⟩, ⟨7, 0, .rw, .any, 0⟩]
  | .OBS_CNT_LO => [⟨31, 0, .rw, .any, 0⟩]
  | .OBS_CNT_HI => [⟨15, 0, .rw, .any, 0⟩]
  | .CH_CNT_LO => [⟨31, 0, .rw, .any, 0⟩]
  | .CH_CNT_HI => [⟨15, 0, .rw, .any, 0⟩]
  | .OBS_SNAP_LO => [⟨31, 0, .ro, .any, 0⟩]
  | .OBS_SNAP_HI => [⟨15, 0, .ro, .any, 0⟩]
  | .CH_SNAP_LO => [⟨31, 0, .ro, .any, 0⟩]
  | .CH_SNAP_HI => [⟨15, 0, .ro, .any, 0⟩]
  | .OBS_CTL => [⟨31, 31, .rw, .any, 0⟩, ⟨30, 30, .wo, .any, 0⟩, ⟨29, 29, .wo, .any, 0⟩, ⟨28, 28, .ro, .any, 0⟩, ⟨27, 27, .ro, .any, 0⟩]
  | .OBS_SNAP_TIME_LO => [⟨31, 0, .ro, .any, 0⟩]
  | .OBS_SNAP_TIME_HI => [⟨31, 0, .ro, .any, 0⟩]
  | .OBS_SNAP_MISS => [⟨31, 0, .ro, .any, 0⟩]
  | .OBS_TAG_CFG => [⟨31, 31, .rw, .any, 0⟩, ⟨4, 0, .rw, .upTo 20, 12⟩]
  | .OBS_TAG_SEED => [⟨31, 0, .rw, .any, 1⟩]
  | .OBS_TAG_STS => [⟨31, 16, .rw, .any, 0⟩, ⟨15, 0, .rw, .any, 0⟩]
  | .CH_TAG_STS => [⟨31, 16, .ro, .any, 0⟩, ⟨13, 0, .ro, .any, 0⟩]
  | .OBS_TRC_CFG => [⟨31, 31, .rw, .any, 1⟩, ⟨30, 30, .rw, .any, 0⟩, ⟨29, 22, .rw, .range 1 64, 16⟩, ⟨21, 14, .rw, .any, 0⟩, ⟨13, 1, .rw, .any, 2047⟩]
  | .OBS_TRC_CTL => [⟨31, 31, .wo, .any, 0⟩, ⟨30, 30, .wo, .any, 0⟩, ⟨29, 29, .wo, .any, 0⟩, ⟨28, 28, .ro, .any, 0⟩, ⟨24, 20, .rw, .any, 0⟩, ⟨11, 0, .rw, .any, 0⟩]
  | .OBS_TRC_STS => [⟨31, 31, .ro, .any, 0⟩, ⟨30, 30, .ro, .any, 0⟩, ⟨29, 27, .ro, .any, 0⟩, ⟨13, 0, .ro, .any, 0⟩]
  | .OBS_TRC_RD => [⟨31, 31, .ro, .any, 0⟩, ⟨13, 0, .rw, .any, 0⟩]
  | .OBS_TRC_WIN => [⟨31, 0, .ro, .any, 0⟩]
  | .OBS_TRC_MARK => [⟨31, 0, .wo, .any, 0⟩]

/-- Every register, in the order of the manual's chapters. -/
def Reg.all : List Reg :=
  [.XPT_ADDR_MAP, .GLB_ISL_CTL, .GLB_ISL_STS, .PWR_RAIL_LIM, .PWR_RAIL_MEAS, .PWR_DIE_PGOOD, .GLB_TIME_LO, .GLB_TIME_HI, .GLB_TIME_CFG, .GLB_ID, .GLB_REV, .GLB_CAP, .POLL_SUMMARY, .GLB_MODE, .GLB_ACC_FAULT, .GLB_ACC_LAST, .GLB_ACC_COUNT, .GLB_MODE_STS, .CH_STATE, .GLB_RET_CTX, .UCI_CTL, .UCI_STS, .UCI_EQ, .UCI_ERR_CFG, .UCI_REPAIR_TX, .UCI_REPAIR_RX, .UCI_LINK_CNT, .UCI_DROP_CNT, .UCI_LPBK_CTL, .UCI_LPBK_STS, .UCI_LPBK_LANES_LO, .UCI_LPBK_LANES_HI, .XPT_STS, .XPT_PRIV_EN, .XPT_TIMEOUT_CNT, .XPT_INJ_CTL, .XPT_INJ_MATCH, .XPT_PERR, .FLOW_W0, .FLOW_W1, .FLOW_W2, .FLOW_W3, .QOS_FLOOR_CFG, .QOS_FLOOR, .QOS_GUAR_SUM, .QOS_DELIV, .QOS_SCALE, .QOS_ADMIT_STS, .QOS_MISSES, .QOS_SHORT_CNT, .QOS_ARB_CFG, .QOS_URG_CFG, .QOS_URG_STS, .QOS_THROTTLE, .QOS_FENCE, .GLB_DIE_RST, .CH_FENCE_STS, .CH_BUDGET_STS, .LAG_CFG, .LAG_STS]
  ++ [.LAG_CTL, .LAG_LOST_CNT, .LAG_LOST, .LAG_SLOT_TAG, .LAG_SLOT_STS, .EXD_CFG, .EXD_STS, .EXD_CTL, .EXD_CNT, .EXD_LAST, .EXD_QCFG, .EXD_QCTL, .EXD_QDB, .EXD_QSTS, .EXD_QCNT, .ECC_CFG, .ECC_CORR_CNT, .ECC_UE_CNT, .ECC_SCRUB_CFG, .ECC_SCRUB_STS, .ECC_SCRUB_LAP, .ECC_LOG_STS, .ECC_LOG_POP, .ECC_SPILL_STS, .ECC_EXT, .ECC_EXT_STS, .ECC_INJ_CTL, .ECC_SUSPECT, .ECC_LOG_HOLD, .ECC_LIFE_CORR, .ECC_LIFE_UE, .REF_CFG, .REF_STS, .REF_TRK_STS, .REF_TRR_CNT, .REF_TSETA, .REF_TSETB, .GLB_FPOINT_NEXT, .CAL_CFG, .CAL_CTL, .CAL_REF_TEMP, .CAL_LAST, .CAL_COUNT, .CAL_LAST_TIME_LO, .CAL_LAST_TIME_HI, .CAL_REC, .VPT_STS, .VPT_PROBE, .THM_CFG, .THM_MAX, .THM_STEP, .THM_CNT, .THM_IMPL, .THM_PERIOD, .THM_TRIP, .THM_DIE, .THM_SENS, .PWR_CAP, .PWR_STS, .PWR_EST]
  ++ [.CAL_LDG_STS, .CAL_LDG_IDX, .CAL_LDG_CTL, .CAL_LDG_ENT, .CAL_TST_STS, .CAL_TST_CNT, .CAL_TST_IDX, .CAL_TST_REC, .CAL_FUSE_STS, .CAL_FUSE_CTL, .CAL_FUSE_REC_LO, .CAL_FUSE_REC_HI, .THM_WEAR_CFG, .THM_WEAR_IDX, .THM_WEAR_STS, .FLT_STICKY, .FLT_LIVE, .FLT_PINEN, .FLT_STS, .FLT_CFG, .FLT_INJ, .FLT_DUMP_CFG, .FLT_DUMP_STS, .FLT_DUMP_CTL, .FLT_DUMP_WIN, .FLT_UNIT, .FLT_CNT, .FLT_FIRST_LO, .FLT_FIRST_HI, .AUTH_STS, .AUTH_ASSIGN, .AUTH_LAST_MOVE_LO, .AUTH_LAST_MOVE_HI, .AUTH_FWU_CTL, .AUTH_FWU_SRC, .CWY_CFG, .CWY_STS, .PKG_SUMMARY, .CWY_PRESENT, .CWY_MGR_STS, .CWY_PKG_BUDGET, .CWY_STACK, .LC_STS, .LC_CTL, .LC_SESS_CTL, .LC_CHAL, .LC_RESP, .LC_STRAP_OVR, .LC_TRN_OVR, .LC_AUD_STS, .LC_AUD_IDX, .LC_AUD_ENT, .OBS_CNT_CFG, .CH_CNT_CFG, .OBS_CNT_LO, .OBS_CNT_HI, .CH_CNT_LO, .CH_CNT_HI, .OBS_SNAP_LO, .OBS_SNAP_HI]
  ++ [.CH_SNAP_LO, .CH_SNAP_HI, .OBS_CTL, .OBS_SNAP_TIME_LO, .OBS_SNAP_TIME_HI, .OBS_SNAP_MISS, .OBS_TAG_CFG, .OBS_TAG_SEED, .OBS_TAG_STS, .CH_TAG_STS, .OBS_TRC_CFG, .OBS_TRC_CTL, .OBS_TRC_STS, .OBS_TRC_RD, .OBS_TRC_WIN, .OBS_TRC_MARK]

/-- The index of a register's copy that lies at offset `off`, if one does. -/
def Place.index (p : Place) (off : Nat) : Option Nat :=
  if off < p.base then none
  else if (off - p.base) % p.stride = 0 ∧ (off - p.base) / p.stride < p.count then some ((off - p.base) / p.stride)
  else none

/-- The register of a span at an offset. -/
def findReg (sp : Span) (off : Nat) : List Reg → Option (Reg × Nat)
  | [] => none
  | r :: l =>
    if r.place.span = sp then
      match r.place.index off with
      | some i => some (r, i)
      | none => findReg sp off l
    else findReg sp off l

/-- The register at an address: the register, its module or channel, its index (R68, R99, R100). -/
def regAt (a : Nat) : Option (Reg × Nat × Nat) :=
  if 0x100000 ≤ a ∧ a < 0x300000 then
    (findReg .chan ((a - 0x100000) % 0x10000) Reg.all).map fun p => (p.1, (a - 0x100000) / 0x10000, p.2)
  else if 0x10000 ≤ a ∧ a < 0x1C000 then
    (findReg .mod ((a - 0x10000) % 0x1000) Reg.all).map fun p => (p.1, (a - 0x10000) / 0x1000, p.2)
  else
    (findReg .glb a Reg.all).map fun p => (p.1, 0, p.2)

end Sys2Proof.Machine

namespace Sys2Proof.Machine.F
open Sys2Proof.Machine

def XPT_ADDR_MAP_LOCK : Fld := ⟨adr .XPT_ADDR_MAP, 31, 31⟩
def XPT_ADDR_MAP_ANY_WRITTEN : Fld := ⟨adr .XPT_ADDR_MAP, 8, 8⟩
def XPT_ADDR_MAP_MODE : Fld := ⟨adr .XPT_ADDR_MAP, 1, 0⟩
def GLB_ISL_CTL_RESET_REQ (i : Nat) : Fld := ⟨adr .GLB_ISL_CTL 0 i, 31, 31⟩
def GLB_ISL_CTL_GATE (i : Nat) : Fld := ⟨adr .GLB_ISL_CTL 0 i, 9, 8⟩
def GLB_ISL_CTL_IDLE_THRESH (i : Nat) : Fld := ⟨adr .GLB_ISL_CTL 0 i, 7, 0⟩
def GLB_ISL_STS_RESET_COUNT (i : Nat) : Fld := ⟨adr .GLB_ISL_STS 0 i, 31, 16⟩
def GLB_ISL_STS_STRAIT_DROPS (i : Nat) : Fld := ⟨adr .GLB_ISL_STS 0 i, 15, 8⟩
def GLB_ISL_STS_CLK_SRC (i : Nat) : Fld := ⟨adr .GLB_ISL_STS 0 i, 3, 3⟩
def GLB_ISL_STS_LOCKED (i : Nat) : Fld := ⟨adr .GLB_ISL_STS 0 i, 2, 2⟩
def GLB_ISL_STS_IN_RESET (i : Nat) : Fld := ⟨adr .GLB_ISL_STS 0 i, 1, 1⟩
def GLB_ISL_STS_GATED (i : Nat) : Fld := ⟨adr .GLB_ISL_STS 0 i, 0, 0⟩
def PWR_RAIL_LIM_HI_MV (i : Nat) : Fld := ⟨adr .PWR_RAIL_LIM 0 i, 31, 16⟩
def PWR_RAIL_LIM_LO_MV (i : Nat) : Fld := ⟨adr .PWR_RAIL_LIM 0 i, 15, 0⟩
def PWR_RAIL_MEAS_VALID (i : Nat) : Fld := ⟨adr .PWR_RAIL_MEAS 0 i, 31, 31⟩
def PWR_RAIL_MEAS_PLAUSIBLE (i : Nat) : Fld := ⟨adr .PWR_RAIL_MEAS 0 i, 30, 30⟩
def PWR_RAIL_MEAS_MV (i : Nat) : Fld := ⟨adr .PWR_RAIL_MEAS 0 i, 15, 0⟩
def PWR_DIE_PGOOD_VPP_OK : Fld := ⟨adr .PWR_DIE_PGOOD, 31, 16⟩
def PWR_DIE_PGOOD_ARR_OK : Fld := ⟨adr .PWR_DIE_PGOOD, 15, 0⟩
def GLB_TIME_LO_TIME_LO : Fld := ⟨adr .GLB_TIME_LO, 31, 0⟩
def GLB_TIME_HI_TIME_HI : Fld := ⟨adr .GLB_TIME_HI, 31, 0⟩
def GLB_TIME_CFG_FREE_RUN : Fld := ⟨adr .GLB_TIME_CFG, 31, 31⟩
def GLB_TIME_CFG_DEGRADED : Fld := ⟨adr .GLB_TIME_CFG, 30, 30⟩
def GLB_TIME_CFG_SSC_PPM : Fld := ⟨adr .GLB_TIME_CFG, 12, 0⟩
def GLB_ID_VENDOR : Fld := ⟨adr .GLB_ID, 31, 16⟩
def GLB_ID_PART : Fld := ⟨adr .GLB_ID, 15, 0⟩
def GLB_REV_BASE_MAJOR : Fld := ⟨adr .GLB_REV, 31, 28⟩
def GLB_REV_BASE_MINOR : Fld := ⟨adr .GLB_REV, 27, 24⟩
def GLB_REV_CORE_MAJOR : Fld := ⟨adr .GLB_REV, 23, 20⟩
def GLB_REV_CORE_MINOR : Fld := ⟨adr .GLB_REV, 19, 16⟩
def GLB_REV_FW_MAJOR : Fld := ⟨adr .GLB_REV, 15, 8⟩
def GLB_REV_FW_MINOR : Fld := ⟨adr .GLB_REV, 7, 0⟩
def GLB_CAP_MODULE_USABLE : Fld := ⟨adr .GLB_CAP, 27, 16⟩
def GLB_CAP_MAX_RATE : Fld := ⟨adr .GLB_CAP, 5, 4⟩
def POLL_SUMMARY_CHANGE_SEQ : Fld := ⟨adr .POLL_SUMMARY, 31, 16⟩
def POLL_SUMMARY_FATAL : Fld := ⟨adr .POLL_SUMMARY, 15, 15⟩
def POLL_SUMMARY_SAFE : Fld := ⟨adr .POLL_SUMMARY, 14, 14⟩
def POLL_SUMMARY_FLT_ANY : Fld := ⟨adr .POLL_SUMMARY, 13, 13⟩
def POLL_SUMMARY_ERR_PIN : Fld := ⟨adr .POLL_SUMMARY, 12, 12⟩
def POLL_SUMMARY_SHORTFALL : Fld := ⟨adr .POLL_SUMMARY, 11, 11⟩
def POLL_SUMMARY_MODE_CHANGE : Fld := ⟨adr .POLL_SUMMARY, 10, 10⟩
def POLL_SUMMARY_CH_STATE : Fld := ⟨adr .POLL_SUMMARY, 9, 9⟩
def POLL_SUMMARY_COMPLETION : Fld := ⟨adr .POLL_SUMMARY, 8, 8⟩
def POLL_SUMMARY_ADMIT : Fld := ⟨adr .POLL_SUMMARY, 7, 7⟩
def POLL_SUMMARY_LINK : Fld := ⟨adr .POLL_SUMMARY, 6, 6⟩
def POLL_SUMMARY_CAL : Fld := ⟨adr .POLL_SUMMARY, 5, 5⟩
def POLL_SUMMARY_AUTH : Fld := ⟨adr .POLL_SUMMARY, 4, 4⟩
def POLL_SUMMARY_PKG : Fld := ⟨adr .POLL_SUMMARY, 3, 3⟩
def POLL_SUMMARY_AUDIT : Fld := ⟨adr .POLL_SUMMARY, 2, 2⟩
def POLL_SUMMARY_OBS : Fld := ⟨adr .POLL_SUMMARY, 1, 1⟩
def POLL_SUMMARY_DONE : Fld := ⟨adr .POLL_SUMMARY, 0, 0⟩
def GLB_MODE_REQ : Fld := ⟨adr .GLB_MODE, 31, 28⟩
def GLB_MODE_REQ_BUSY : Fld := ⟨adr .GLB_MODE, 27, 27⟩
def GLB_MODE_THROTTLE : Fld := ⟨adr .GLB_MODE, 15, 12⟩
def GLB_MODE_FPOINT : Fld := ⟨adr .GLB_MODE, 8, 8⟩
def GLB_MODE_MODE : Fld := ⟨adr .GLB_MODE, 2, 0⟩
def GLB_ACC_FAULT_STAGE_DISCARD : Fld := ⟨adr .GLB_ACC_FAULT, 4, 4⟩
def GLB_ACC_FAULT_ACC_TIMEOUT : Fld := ⟨adr .GLB_ACC_FAULT, 3, 3⟩
def GLB_ACC_FAULT_UNMAPPED_ACCESS : Fld := ⟨adr .GLB_ACC_FAULT, 2, 2⟩
def GLB_ACC_FAULT_PRIV_DENIED : Fld := ⟨adr .GLB_ACC_FAULT, 1, 1⟩
def GLB_ACC_FAULT_LOCK_VIOLATION : Fld := ⟨adr .GLB_ACC_FAULT, 0, 0⟩
def GLB_ACC_LAST_PATH : Fld := ⟨adr .GLB_ACC_LAST, 31, 26⟩
def GLB_ACC_LAST_ADDR : Fld := ⟨adr .GLB_ACC_LAST, 23, 2⟩
def GLB_ACC_LAST_WRITE : Fld := ⟨adr .GLB_ACC_LAST, 1, 1⟩
def GLB_ACC_LAST_VALID : Fld := ⟨adr .GLB_ACC_LAST, 0, 0⟩
def GLB_ACC_COUNT_PRIV_DENY_COUNT : Fld := ⟨adr .GLB_ACC_COUNT, 31, 16⟩
def GLB_ACC_COUNT_LOCK_VIOLATION_COUNT : Fld := ⟨adr .GLB_ACC_COUNT, 15, 0⟩
def GLB_MODE_STS_SHUTDOWN_DONE : Fld := ⟨adr .GLB_MODE_STS, 31, 31⟩
def GLB_MODE_STS_RESTORED : Fld := ⟨adr .GLB_MODE_STS, 30, 30⟩
def GLB_MODE_STS_FULL_TRAIN : Fld := ⟨adr .GLB_MODE_STS, 29, 29⟩
def GLB_MODE_STS_FAIL_STEP : Fld := ⟨adr .GLB_MODE_STS, 27, 24⟩
def GLB_MODE_STS_SAFE_CAUSE : Fld := ⟨adr .GLB_MODE_STS, 19, 16⟩
def GLB_MODE_STS_BRINGUP_US : Fld := ⟨adr .GLB_MODE_STS, 15, 0⟩
def CH_STATE_REQ (c : Nat) : Fld := ⟨adr .CH_STATE c, 31, 28⟩
def CH_STATE_REQ_BUSY (c : Nat) : Fld := ⟨adr .CH_STATE c, 27, 27⟩
def CH_STATE_HELD (c : Nat) : Fld := ⟨adr .CH_STATE c, 23, 16⟩
def CH_STATE_LAST_CAUSE (c : Nat) : Fld := ⟨adr .CH_STATE c, 15, 8⟩
def CH_STATE_STATE (c : Nat) : Fld := ⟨adr .CH_STATE c, 2, 0⟩
def GLB_RET_CTX_VALID : Fld := ⟨adr .GLB_RET_CTX, 31, 31⟩
def GLB_RET_CTX_CTX_B : Fld := ⟨adr .GLB_RET_CTX, 12, 8⟩
def GLB_RET_CTX_CTX_A : Fld := ⟨adr .GLB_RET_CTX, 4, 0⟩
def UCI_CTL_RETRAIN_REQ (m : Nat) : Fld := ⟨adr .UCI_CTL m, 31, 31⟩
def UCI_CTL_COMMIT (m : Nat) : Fld := ⟨adr .UCI_CTL m, 30, 30⟩
def UCI_CTL_MAKE_PRIMARY (m : Nat) : Fld := ⟨adr .UCI_CTL m, 29, 29⟩
def UCI_CTL_EXCLUDE (m : Nat) : Fld := ⟨adr .UCI_CTL m, 28, 28⟩
def UCI_CTL_FORCE_EXCLUDE (m : Nat) : Fld := ⟨adr .UCI_CTL m, 27, 27⟩
def UCI_CTL_INCLUDE (m : Nat) : Fld := ⟨adr .UCI_CTL m, 26, 26⟩
def UCI_CTL_PENDING (m : Nat) : Fld := ⟨adr .UCI_CTL m, 16, 16⟩
def UCI_CTL_PRESET48 (m : Nat) : Fld := ⟨adr .UCI_CTL m, 11, 8⟩
def UCI_CTL_PRESET32 (m : Nat) : Fld := ⟨adr .UCI_CTL m, 7, 4⟩
def UCI_CTL_EQ_AUTO (m : Nat) : Fld := ⟨adr .UCI_CTL m, 3, 3⟩
def UCI_CTL_AUTO_RETRAIN (m : Nat) : Fld := ⟨adr .UCI_CTL m, 2, 2⟩
def UCI_CTL_MAX_RATE (m : Nat) : Fld := ⟨adr .UCI_CTL m, 1, 0⟩
def UCI_STS_STAGE (m : Nat) : Fld := ⟨adr .UCI_STS m, 31, 28⟩
def UCI_STS_RATE (m : Nat) : Fld := ⟨adr .UCI_STS m, 27, 26⟩
def UCI_STS_PRIMARY (m : Nat) : Fld := ⟨adr .UCI_STS m, 25, 25⟩
def UCI_STS_EXCLUDED (m : Nat) : Fld := ⟨adr .UCI_STS m, 24, 24⟩
def UCI_STS_EXCL_CAUSE (m : Nat) : Fld := ⟨adr .UCI_STS m, 23, 20⟩
def UCI_STS_TRK_REPAIRED (m : Nat) : Fld := ⟨adr .UCI_STS m, 19, 19⟩
def UCI_STS_VLD_REPAIRED (m : Nat) : Fld := ⟨adr .UCI_STS m, 18, 18⟩
def UCI_STS_CLK_REPAIRED (m : Nat) : Fld := ⟨adr .UCI_STS m, 17, 17⟩
def UCI_STS_KY_PARTNER (m : Nat) : Fld := ⟨adr .UCI_STS m, 16, 16⟩
def UCI_STS_RETRAIN_COUNT (m : Nat) : Fld := ⟨adr .UCI_STS m, 15, 8⟩
def UCI_STS_ATTEMPTS (m : Nat) : Fld := ⟨adr .UCI_STS m, 7, 0⟩
def UCI_EQ_PARTNER_SET (m : Nat) : Fld := ⟨adr .UCI_EQ m, 31, 31⟩
def UCI_EQ_PRE (m : Nat) : Fld := ⟨adr .UCI_EQ m, 23, 16⟩
def UCI_EQ_MAIN (m : Nat) : Fld := ⟨adr .UCI_EQ m, 15, 8⟩
def UCI_EQ_POST (m : Nat) : Fld := ⟨adr .UCI_EQ m, 7, 0⟩
def UCI_ERR_CFG_PENDING (m : Nat) : Fld := ⟨adr .UCI_ERR_CFG m, 31, 31⟩
def UCI_ERR_CFG_RETRY_THRESH (m : Nat) : Fld := ⟨adr .UCI_ERR_CFG m, 15, 0⟩
def UCI_REPAIR_TX_G1_B (m : Nat) : Fld := ⟨adr .UCI_REPAIR_TX m, 31, 24⟩
def UCI_REPAIR_TX_G1_A (m : Nat) : Fld := ⟨adr .UCI_REPAIR_TX m, 23, 16⟩
def UCI_REPAIR_TX_G0_B (m : Nat) : Fld := ⟨adr .UCI_REPAIR_TX m, 15, 8⟩
def UCI_REPAIR_TX_G0_A (m : Nat) : Fld := ⟨adr .UCI_REPAIR_TX m, 7, 0⟩
def UCI_REPAIR_RX_G1_B (m : Nat) : Fld := ⟨adr .UCI_REPAIR_RX m, 31, 24⟩
def UCI_REPAIR_RX_G1_A (m : Nat) : Fld := ⟨adr .UCI_REPAIR_RX m, 23, 16⟩
def UCI_REPAIR_RX_G0_B (m : Nat) : Fld := ⟨adr .UCI_REPAIR_RX m, 15, 8⟩
def UCI_REPAIR_RX_G0_A (m : Nat) : Fld := ⟨adr .UCI_REPAIR_RX m, 7, 0⟩
def UCI_LINK_CNT_CRC_ERR (m : Nat) : Fld := ⟨adr .UCI_LINK_CNT m, 31, 16⟩
def UCI_LINK_CNT_REPLAYS (m : Nat) : Fld := ⟨adr .UCI_LINK_CNT m, 15, 0⟩
def UCI_DROP_CNT_SB_DISCARD (m : Nat) : Fld := ⟨adr .UCI_DROP_CNT m, 31, 24⟩
def UCI_DROP_CNT_SB_OVERRUN (m : Nat) : Fld := ⟨adr .UCI_DROP_CNT m, 23, 16⟩
def UCI_DROP_CNT_RSP_DISCARD (m : Nat) : Fld := ⟨adr .UCI_DROP_CNT m, 15, 0⟩
def UCI_LPBK_CTL_START (m : Nat) : Fld := ⟨adr .UCI_LPBK_CTL m, 31, 31⟩
def UCI_LPBK_CTL_STOP (m : Nat) : Fld := ⟨adr .UCI_LPBK_CTL m, 30, 30⟩
def UCI_LPBK_CTL_DURATION (m : Nat) : Fld := ⟨adr .UCI_LPBK_CTL m, 13, 6⟩
def UCI_LPBK_CTL_RATE (m : Nat) : Fld := ⟨adr .UCI_LPBK_CTL m, 5, 4⟩
def UCI_LPBK_CTL_MODE (m : Nat) : Fld := ⟨adr .UCI_LPBK_CTL m, 1, 0⟩
def UCI_LPBK_STS_VALID (m : Nat) : Fld := ⟨adr .UCI_LPBK_STS m, 31, 31⟩
def UCI_LPBK_STS_LPBK_ACTIVE (m : Nat) : Fld := ⟨adr .UCI_LPBK_STS m, 30, 30⟩
def UCI_LPBK_STS_PARTNER_REFUSED (m : Nat) : Fld := ⟨adr .UCI_LPBK_STS m, 29, 29⟩
def UCI_LPBK_STS_FAIL_LANES (m : Nat) : Fld := ⟨adr .UCI_LPBK_STS m, 23, 16⟩
def UCI_LPBK_STS_BIT_ERRORS (m : Nat) : Fld := ⟨adr .UCI_LPBK_STS m, 15, 0⟩
def UCI_LPBK_LANES_LO_LANES (m : Nat) : Fld := ⟨adr .UCI_LPBK_LANES_LO m, 31, 0⟩
def UCI_LPBK_LANES_HI_LANES (m : Nat) : Fld := ⟨adr .UCI_LPBK_LANES_HI m, 31, 0⟩
def XPT_STS_INFLIGHT : Fld := ⟨adr .XPT_STS, 14, 0⟩
def XPT_PRIV_EN_LOCK : Fld := ⟨adr .XPT_PRIV_EN, 31, 31⟩
def XPT_PRIV_EN_MODULES : Fld := ⟨adr .XPT_PRIV_EN, 11, 0⟩
def XPT_TIMEOUT_CNT_LATE_DISCARD : Fld := ⟨adr .XPT_TIMEOUT_CNT, 31, 16⟩
def XPT_TIMEOUT_CNT_TIMEOUTS : Fld := ⟨adr .XPT_TIMEOUT_CNT, 15, 0⟩
def XPT_INJ_CTL_ARM : Fld := ⟨adr .XPT_INJ_CTL, 31, 31⟩
def XPT_INJ_CTL_INJ_STATUS : Fld := ⟨adr .XPT_INJ_CTL, 27, 24⟩
def XPT_INJ_CTL_COUNT : Fld := ⟨adr .XPT_INJ_CTL, 23, 16⟩
def XPT_INJ_CTL_MODULE : Fld := ⟨adr .XPT_INJ_CTL, 15, 12⟩
def XPT_INJ_CTL_KIND : Fld := ⟨adr .XPT_INJ_CTL, 11, 10⟩
def XPT_INJ_CTL_INJECTED : Fld := ⟨adr .XPT_INJ_CTL, 7, 0⟩
def XPT_INJ_MATCH_FLOW_EN : Fld := ⟨adr .XPT_INJ_MATCH, 31, 31⟩
def XPT_INJ_MATCH_FLOW : Fld := ⟨adr .XPT_INJ_MATCH, 11, 0⟩
def XPT_PERR_VALID (i : Nat) : Fld := ⟨adr .XPT_PERR 0 i, 31, 31⟩
def XPT_PERR_CODE (i : Nat) : Fld := ⟨adr .XPT_PERR 0 i, 27, 24⟩
def XPT_PERR_CELL (i : Nat) : Fld := ⟨adr .XPT_PERR 0 i, 23, 20⟩
def XPT_PERR_COUNT (i : Nat) : Fld := ⟨adr .XPT_PERR 0 i, 15, 0⟩
def FLOW_W0_CLASS (i : Nat) : Fld := ⟨adr .FLOW_W0 0 i, 31, 30⟩
def FLOW_W0_PRIO (i : Nat) : Fld := ⟨adr .FLOW_W0 0 i, 29, 28⟩
def FLOW_W0_URG_SRC (i : Nat) : Fld := ⟨adr .FLOW_W0 0 i, 27, 24⟩
def FLOW_W0_LAT_TARGET (i : Nat) : Fld := ⟨adr .FLOW_W0 0 i, 15, 0⟩
def FLOW_W1_MIN_RATE (i : Nat) : Fld := ⟨adr .FLOW_W1 0 i, 20, 0⟩
def FLOW_W2_BURST (i : Nat) : Fld := ⟨adr .FLOW_W2 0 i, 31, 24⟩
def FLOW_W2_MAX_RATE (i : Nat) : Fld := ⟨adr .FLOW_W2 0 i, 20, 0⟩
def FLOW_W3_SHORTFALL (i : Nat) : Fld := ⟨adr .FLOW_W3 0 i, 31, 31⟩
def FLOW_W3_PENDING (i : Nat) : Fld := ⟨adr .FLOW_W3 0 i, 30, 30⟩
def FLOW_W3_LATE (i : Nat) : Fld := ⟨adr .FLOW_W3 0 i, 29, 16⟩
def FLOW_W3_MISSED (i : Nat) : Fld := ⟨adr .FLOW_W3 0 i, 15, 0⟩
def QOS_FLOOR_CFG_PENDING : Fld := ⟨adr .QOS_FLOOR_CFG, 31, 31⟩
def QOS_FLOOR_CFG_BAND_WORST : Fld := ⟨adr .QOS_FLOOR_CFG, 9, 8⟩
def QOS_FLOOR_CFG_ASSUME_F1 : Fld := ⟨adr .QOS_FLOOR_CFG, 4, 4⟩
def QOS_FLOOR_CFG_THROTTLE_MAX : Fld := ⟨adr .QOS_FLOOR_CFG, 3, 0⟩
def QOS_FLOOR_VALID : Fld := ⟨adr .QOS_FLOOR, 31, 31⟩
def QOS_FLOOR_FLOOR : Fld := ⟨adr .QOS_FLOOR, 20, 0⟩
def QOS_GUAR_SUM_SUM : Fld := ⟨adr .QOS_GUAR_SUM, 20, 0⟩
def QOS_DELIV_SHORTFALL : Fld := ⟨adr .QOS_DELIV, 31, 31⟩
def QOS_DELIV_DELIVERABLE : Fld := ⟨adr .QOS_DELIV, 20, 0⟩
def QOS_SCALE_BULK_CUT : Fld := ⟨adr .QOS_SCALE, 31, 31⟩
def QOS_SCALE_BE_SCALE : Fld := ⟨adr .QOS_SCALE, 26, 16⟩
def QOS_SCALE_RT_SCALE : Fld := ⟨adr .QOS_SCALE, 10, 0⟩
def QOS_ADMIT_STS_ADMIT_REJECT : Fld := ⟨adr .QOS_ADMIT_STS, 31, 31⟩
def QOS_ADMIT_STS_FLOOR_EXCEEDED : Fld := ⟨adr .QOS_ADMIT_STS, 30, 30⟩
def QOS_ADMIT_STS_LAST_FLOW : Fld := ⟨adr .QOS_ADMIT_STS, 27, 16⟩
def QOS_ADMIT_STS_REJECTS : Fld := ⟨adr .QOS_ADMIT_STS, 15, 0⟩
def QOS_MISSES_MISSES : Fld := ⟨adr .QOS_MISSES, 31, 0⟩
def QOS_SHORT_CNT_WINDOWS : Fld := ⟨adr .QOS_SHORT_CNT, 31, 0⟩
def QOS_ARB_CFG_PENDING : Fld := ⟨adr .QOS_ARB_CFG, 31, 31⟩
def QOS_ARB_CFG_STARVE_US : Fld := ⟨adr .QOS_ARB_CFG, 5, 0⟩
def QOS_URG_CFG_PENDING : Fld := ⟨adr .QOS_URG_CFG, 31, 31⟩
def QOS_URG_CFG_MODE : Fld := ⟨adr .QOS_URG_CFG, 17, 16⟩
def QOS_URG_CFG_LEVEL_1BIT : Fld := ⟨adr .QOS_URG_CFG, 9, 8⟩
def QOS_URG_CFG_STUCK_MS : Fld := ⟨adr .QOS_URG_CFG, 7, 0⟩
def QOS_URG_STS_STUCK : Fld := ⟨adr .QOS_URG_STS, 15, 8⟩
def QOS_URG_STS_LEVEL : Fld := ⟨adr .QOS_URG_STS, 7, 0⟩
def QOS_THROTTLE_HOST_STEP : Fld := ⟨adr .QOS_THROTTLE, 3, 0⟩
def QOS_FENCE_VALID : Fld := ⟨adr .QOS_FENCE, 31, 31⟩
def QOS_FENCE_GO : Fld := ⟨adr .QOS_FENCE, 30, 30⟩
def QOS_FENCE_BUSY : Fld := ⟨adr .QOS_FENCE, 29, 29⟩
def QOS_FENCE_LENGTH : Fld := ⟨adr .QOS_FENCE, 15, 0⟩
def GLB_DIE_RST_GO : Fld := ⟨adr .GLB_DIE_RST, 31, 31⟩
def GLB_DIE_RST_BUSY : Fld := ⟨adr .GLB_DIE_RST, 30, 30⟩
def GLB_DIE_RST_RESULT : Fld := ⟨adr .GLB_DIE_RST, 29, 28⟩
def GLB_DIE_RST_DIE : Fld := ⟨adr .GLB_DIE_RST, 3, 0⟩
def CH_FENCE_STS_FENCED (c : Nat) : Fld := ⟨adr .CH_FENCE_STS c, 31, 31⟩
def CH_FENCE_STS_LAYER_LOST (c : Nat) : Fld := ⟨adr .CH_FENCE_STS c, 30, 30⟩
def CH_FENCE_STS_CAUSE_DIE (c : Nat) : Fld := ⟨adr .CH_FENCE_STS c, 23, 20⟩
def CH_FENCE_STS_INTERNAL_WR (c : Nat) : Fld := ⟨adr .CH_FENCE_STS c, 15, 8⟩
def CH_FENCE_STS_FENCE_COUNT (c : Nat) : Fld := ⟨adr .CH_FENCE_STS c, 7, 0⟩
def CH_BUDGET_STS_STALL_VC (c : Nat) : Fld := ⟨adr .CH_BUDGET_STS c, 31, 16⟩
def CH_BUDGET_STS_BUDGET (c : Nat) : Fld := ⟨adr .CH_BUDGET_STS c, 10, 0⟩
def LAG_CFG_PENDING (c : Nat) : Fld := ⟨adr .LAG_CFG c, 31, 31⟩
def LAG_CFG_PROMOTE_EN (c : Nat) : Fld := ⟨adr .LAG_CFG c, 30, 30⟩
def LAG_CFG_IDLE_CLEAN (c : Nat) : Fld := ⟨adr .LAG_CFG c, 29, 29⟩
def LAG_CFG_DIRTY_MAX (c : Nat) : Fld := ⟨adr .LAG_CFG c, 23, 16⟩
def LAG_CFG_HIST_DECAY (c : Nat) : Fld := ⟨adr .LAG_CFG c, 9, 8⟩
def LAG_CFG_PROMOTE_THRESH (c : Nat) : Fld := ⟨adr .LAG_CFG c, 5, 0⟩
def LAG_STS_THRESH (c : Nat) : Fld := ⟨adr .LAG_STS c, 31, 26⟩
def LAG_STS_RESIDENT (c : Nat) : Fld := ⟨adr .LAG_STS c, 22, 16⟩
def LAG_STS_DIRTY (c : Nat) : Fld := ⟨adr .LAG_STS c, 14, 8⟩
def LAG_STS_PINNED (c : Nat) : Fld := ⟨adr .LAG_STS c, 4, 0⟩
def LAG_CTL_WRITEBACK_ALL (c : Nat) : Fld := ⟨adr .LAG_CTL c, 31, 31⟩
def LAG_CTL_DISCARD_FENCED (c : Nat) : Fld := ⟨adr .LAG_CTL c, 30, 30⟩
def LAG_CTL_BUSY (c : Nat) : Fld := ⟨adr .LAG_CTL c, 29, 29⟩
def LAG_LOST_CNT_COUNT (c : Nat) : Fld := ⟨adr .LAG_LOST_CNT c, 6, 0⟩
def LAG_LOST_LOCATOR (c : Nat) (i : Nat) : Fld := ⟨adr .LAG_LOST c i, 31, 0⟩
def LAG_SLOT_TAG_LOCATOR (c : Nat) (i : Nat) : Fld := ⟨adr .LAG_SLOT_TAG c i, 31, 0⟩
def LAG_SLOT_STS_STATE (c : Nat) (i : Nat) : Fld := ⟨adr .LAG_SLOT_STS c i, 31, 29⟩
def LAG_SLOT_STS_HELD (c : Nat) (i : Nat) : Fld := ⟨adr .LAG_SLOT_STS c i, 28, 28⟩
def LAG_SLOT_STS_REDIRTY (c : Nat) (i : Nat) : Fld := ⟨adr .LAG_SLOT_STS c i, 27, 27⟩
def LAG_SLOT_STS_PINNED (c : Nat) (i : Nat) : Fld := ⟨adr .LAG_SLOT_STS c i, 26, 26⟩
def LAG_SLOT_STS_IDLE_US (c : Nat) (i : Nat) : Fld := ⟨adr .LAG_SLOT_STS c i, 15, 0⟩
def EXD_CFG_PROXY_CH (c : Nat) : Fld := ⟨adr .EXD_CFG c, 20, 16⟩
def EXD_CFG_DEFAULT_BUDGET_US (c : Nat) : Fld := ⟨adr .EXD_CFG c, 15, 0⟩
def EXD_STS_STATE (c : Nat) : Fld := ⟨adr .EXD_STS c, 31, 29⟩
def EXD_STS_TEST_OK (c : Nat) : Fld := ⟨adr .EXD_STS c, 28, 28⟩
def EXD_STS_PROXY (c : Nat) : Fld := ⟨adr .EXD_STS c, 27, 27⟩
def EXD_STS_QUEUE (c : Nat) : Fld := ⟨adr .EXD_STS c, 26, 24⟩
def EXD_STS_PINS (c : Nat) : Fld := ⟨adr .EXD_STS c, 20, 16⟩
def EXD_STS_PC (c : Nat) : Fld := ⟨adr .EXD_STS c, 10, 0⟩
def EXD_CTL_ABORT (c : Nat) : Fld := ⟨adr .EXD_CTL c, 31, 31⟩
def EXD_CNT_NOT_DONE (c : Nat) : Fld := ⟨adr .EXD_CNT c, 31, 16⟩
def EXD_CNT_BUDGET_LAPSED (c : Nat) : Fld := ⟨adr .EXD_CNT c, 15, 0⟩
def EXD_LAST_VALID (c : Nat) : Fld := ⟨adr .EXD_LAST c, 31, 31⟩
def EXD_LAST_STATUS (c : Nat) : Fld := ⟨adr .EXD_LAST c, 30, 27⟩
def EXD_LAST_QUEUE (c : Nat) : Fld := ⟨adr .EXD_LAST c, 26, 24⟩
def EXD_LAST_CODE (c : Nat) : Fld := ⟨adr .EXD_LAST c, 23, 16⟩
def EXD_LAST_LOST (c : Nat) : Fld := ⟨adr .EXD_LAST c, 10, 10⟩
def EXD_LAST_INDEX (c : Nat) : Fld := ⟨adr .EXD_LAST c, 9, 0⟩
def EXD_QCFG_SIZE_LOG2 (c : Nat) (i : Nat) : Fld := ⟨adr .EXD_QCFG c i, 31, 28⟩
def EXD_QCFG_CPL_BASE (c : Nat) (i : Nat) : Fld := ⟨adr .EXD_QCFG c i, 27, 16⟩
def EXD_QCFG_DESC_BASE (c : Nat) (i : Nat) : Fld := ⟨adr .EXD_QCFG c i, 11, 0⟩
def EXD_QCTL_EN (c : Nat) (i : Nat) : Fld := ⟨adr .EXD_QCTL c i, 31, 31⟩
def EXD_QCTL_ABORT (c : Nat) (i : Nat) : Fld := ⟨adr .EXD_QCTL c i, 30, 30⟩
def EXD_QCTL_RESET_IDX (c : Nat) (i : Nat) : Fld := ⟨adr .EXD_QCTL c i, 29, 29⟩
def EXD_QDB_TAIL (c : Nat) (i : Nat) : Fld := ⟨adr .EXD_QDB c i, 9, 0⟩
def EXD_QSTS_PHASE (c : Nat) (i : Nat) : Fld := ⟨adr .EXD_QSTS c i, 31, 31⟩
def EXD_QSTS_BUSY (c : Nat) (i : Nat) : Fld := ⟨adr .EXD_QSTS c i, 30, 30⟩
def EXD_QSTS_HEAD (c : Nat) (i : Nat) : Fld := ⟨adr .EXD_QSTS c i, 29, 20⟩
def EXD_QSTS_TAIL (c : Nat) (i : Nat) : Fld := ⟨adr .EXD_QSTS c i, 19, 10⟩
def EXD_QCNT_DONE (c : Nat) (i : Nat) : Fld := ⟨adr .EXD_QCNT c i, 31, 16⟩
def EXD_QCNT_REFUSED (c : Nat) (i : Nat) : Fld := ⟨adr .EXD_QCNT c i, 15, 0⟩
def ECC_CFG_PENDING (c : Nat) : Fld := ⟨adr .ECC_CFG c, 31, 31⟩
def ECC_CFG_AUTO_RETIRE (c : Nat) : Fld := ⟨adr .ECC_CFG c, 30, 30⟩
def ECC_CFG_AUTO_SPARE (c : Nat) : Fld := ⟨adr .ECC_CFG c, 29, 29⟩
def ECC_CFG_PRIO_SCRUB (c : Nat) : Fld := ⟨adr .ECC_CFG c, 28, 28⟩
def ECC_CFG_SPILL_EN (c : Nat) : Fld := ⟨adr .ECC_CFG c, 27, 27⟩
def ECC_CFG_UE_THRESH (c : Nat) : Fld := ⟨adr .ECC_CFG c, 20, 16⟩
def ECC_CFG_CE_LAPS (c : Nat) : Fld := ⟨adr .ECC_CFG c, 11, 8⟩
def ECC_CFG_POLICY (c : Nat) : Fld := ⟨adr .ECC_CFG c, 0, 0⟩
def ECC_CORR_CNT_CORRECTED (c : Nat) : Fld := ⟨adr .ECC_CORR_CNT c, 31, 0⟩
def ECC_UE_CNT_UNCORRECTABLE (c : Nat) : Fld := ⟨adr .ECC_UE_CNT c, 31, 0⟩
def ECC_SCRUB_CFG_PENDING (c : Nat) : Fld := ⟨adr .ECC_SCRUB_CFG c, 31, 31⟩
def ECC_SCRUB_CFG_SCRUB_EN (c : Nat) : Fld := ⟨adr .ECC_SCRUB_CFG c, 30, 30⟩
def ECC_SCRUB_CFG_LAP_TARGET (c : Nat) : Fld := ⟨adr .ECC_SCRUB_CFG c, 19, 0⟩
def ECC_SCRUB_STS_LAP_OVERDUE (c : Nat) : Fld := ⟨adr .ECC_SCRUB_STS c, 31, 31⟩
def ECC_SCRUB_STS_PAUSED (c : Nat) : Fld := ⟨adr .ECC_SCRUB_STS c, 30, 30⟩
def ECC_SCRUB_STS_PROGRESS (c : Nat) : Fld := ⟨adr .ECC_SCRUB_STS c, 25, 16⟩
def ECC_SCRUB_STS_LAPS (c : Nat) : Fld := ⟨adr .ECC_SCRUB_STS c, 15, 0⟩
def ECC_SCRUB_LAP_VALID (c : Nat) : Fld := ⟨adr .ECC_SCRUB_LAP c, 31, 31⟩
def ECC_SCRUB_LAP_LAST_LAP (c : Nat) : Fld := ⟨adr .ECC_SCRUB_LAP c, 19, 0⟩
def ECC_LOG_STS_COUNT (c : Nat) : Fld := ⟨adr .ECC_LOG_STS c, 24, 16⟩
def ECC_LOG_STS_DROPS (c : Nat) : Fld := ⟨adr .ECC_LOG_STS c, 15, 0⟩
def ECC_LOG_POP_WORD0 (c : Nat) : Fld := ⟨adr .ECC_LOG_POP c, 31, 0⟩
def ECC_SPILL_STS_WRAPS (c : Nat) : Fld := ⟨adr .ECC_SPILL_STS c, 31, 16⟩
def ECC_SPILL_STS_WR_IDX (c : Nat) : Fld := ⟨adr .ECC_SPILL_STS c, 14, 0⟩
def ECC_EXT_VALID (c : Nat) : Fld := ⟨adr .ECC_EXT c, 31, 31⟩
def ECC_EXT_WRITTEN (c : Nat) : Fld := ⟨adr .ECC_EXT c, 30, 30⟩
def ECC_EXT_EXTENT (c : Nat) : Fld := ⟨adr .ECC_EXT c, 16, 0⟩
def ECC_EXT_STS_MAP_LOST (c : Nat) : Fld := ⟨adr .ECC_EXT_STS c, 31, 31⟩
def ECC_EXT_STS_MAP_FIXED (c : Nat) : Fld := ⟨adr .ECC_EXT_STS c, 30, 30⟩
def ECC_EXT_STS_WRITTEN_CNT (c : Nat) : Fld := ⟨adr .ECC_EXT_STS c, 17, 0⟩
def ECC_INJ_CTL_ARM (c : Nat) : Fld := ⟨adr .ECC_INJ_CTL c, 31, 31⟩
def ECC_INJ_CTL_CHK_SEL (c : Nat) : Fld := ⟨adr .ECC_INJ_CTL c, 27, 24⟩
def ECC_INJ_CTL_COUNT (c : Nat) : Fld := ⟨adr .ECC_INJ_CTL c, 23, 16⟩
def ECC_INJ_CTL_INJECTED (c : Nat) : Fld := ⟨adr .ECC_INJ_CTL c, 7, 0⟩
def ECC_SUSPECT_VALID (c : Nat) : Fld := ⟨adr .ECC_SUSPECT c, 31, 31⟩
def ECC_SUSPECT_LANE (c : Nat) : Fld := ⟨adr .ECC_SUSPECT c, 20, 16⟩
def ECC_SUSPECT_SYMBOL (c : Nat) : Fld := ⟨adr .ECC_SUSPECT c, 13, 8⟩
def ECC_SUSPECT_BANKS (c : Nat) : Fld := ⟨adr .ECC_SUSPECT c, 7, 0⟩
def ECC_LOG_HOLD_WORD (c : Nat) (i : Nat) : Fld := ⟨adr .ECC_LOG_HOLD c i, 31, 0⟩
def ECC_LIFE_CORR_CORRECTED (c : Nat) : Fld := ⟨adr .ECC_LIFE_CORR c, 31, 0⟩
def ECC_LIFE_UE_BOOT (c : Nat) : Fld := ⟨adr .ECC_LIFE_UE c, 31, 16⟩
def ECC_LIFE_UE_UNCORRECTABLE (c : Nat) : Fld := ⟨adr .ECC_LIFE_UE c, 15, 0⟩
def REF_CFG_PENDING (c : Nat) : Fld := ⟨adr .REF_CFG c, 31, 31⟩
def REF_CFG_MIN_BAND (c : Nat) : Fld := ⟨adr .REF_CFG c, 25, 24⟩
def REF_CFG_DOWN_MS (c : Nat) : Fld := ⟨adr .REF_CFG c, 23, 16⟩
def REF_CFG_TRK_THRESH (c : Nat) : Fld := ⟨adr .REF_CFG c, 11, 0⟩
def REF_STS_BAND (c : Nat) : Fld := ⟨adr .REF_STS c, 31, 30⟩
def REF_STS_TSET (c : Nat) : Fld := ⟨adr .REF_STS c, 29, 29⟩
def REF_STS_SELF_REF (c : Nat) : Fld := ⟨adr .REF_STS c, 28, 28⟩
def REF_STS_LAP_POS (c : Nat) : Fld := ⟨adr .REF_STS c, 24, 16⟩
def REF_STS_TEMP (c : Nat) : Fld := ⟨adr .REF_STS c, 15, 8⟩
def REF_TRK_STS_SAT_BANKS (c : Nat) : Fld := ⟨adr .REF_TRK_STS c, 23, 16⟩
def REF_TRR_CNT_TRR (c : Nat) : Fld := ⟨adr .REF_TRR_CNT c, 31, 0⟩
def REF_TSETA_VALID (c : Nat) : Fld := ⟨adr .REF_TSETA c, 31, 31⟩
def REF_TSETA_POINT (c : Nat) : Fld := ⟨adr .REF_TSETA c, 30, 30⟩
def REF_TSETA_TRP_C (c : Nat) : Fld := ⟨adr .REF_TSETA c, 23, 21⟩
def REF_TSETA_TWR_C (c : Nat) : Fld := ⟨adr .REF_TSETA c, 20, 18⟩
def REF_TSETA_TRCD_ROW_C (c : Nat) : Fld := ⟨adr .REF_TSETA c, 17, 15⟩
def REF_TSETA_TRCD_SEG_C (c : Nat) : Fld := ⟨adr .REF_TSETA c, 14, 12⟩
def REF_TSETA_TRP_AB (c : Nat) : Fld := ⟨adr .REF_TSETA c, 11, 9⟩
def REF_TSETA_TWR_AB (c : Nat) : Fld := ⟨adr .REF_TSETA c, 8, 6⟩
def REF_TSETA_TRCD_ROW_AB (c : Nat) : Fld := ⟨adr .REF_TSETA c, 5, 3⟩
def REF_TSETA_TRCD_SEG_AB (c : Nat) : Fld := ⟨adr .REF_TSETA c, 2, 0⟩
def REF_TSETB_VALID (c : Nat) : Fld := ⟨adr .REF_TSETB c, 31, 31⟩
def REF_TSETB_POINT (c : Nat) : Fld := ⟨adr .REF_TSETB c, 30, 30⟩
def REF_TSETB_TRP_C (c : Nat) : Fld := ⟨adr .REF_TSETB c, 23, 21⟩
def REF_TSETB_TWR_C (c : Nat) : Fld := ⟨adr .REF_TSETB c, 20, 18⟩
def REF_TSETB_TRCD_ROW_C (c : Nat) : Fld := ⟨adr .REF_TSETB c, 17, 15⟩
def REF_TSETB_TRCD_SEG_C (c : Nat) : Fld := ⟨adr .REF_TSETB c, 14, 12⟩
def REF_TSETB_TRP_AB (c : Nat) : Fld := ⟨adr .REF_TSETB c, 11, 9⟩
def REF_TSETB_TWR_AB (c : Nat) : Fld := ⟨adr .REF_TSETB c, 8, 6⟩
def REF_TSETB_TRCD_ROW_AB (c : Nat) : Fld := ⟨adr .REF_TSETB c, 5, 3⟩
def REF_TSETB_TRCD_SEG_AB (c : Nat) : Fld := ⟨adr .REF_TSETB c, 2, 0⟩
def GLB_FPOINT_NEXT_NEXT : Fld := ⟨adr .GLB_FPOINT_NEXT, 8, 8⟩
def CAL_CFG_PENDING : Fld := ⟨adr .CAL_CFG, 31, 31⟩
def CAL_CFG_AUTO_CAL : Fld := ⟨adr .CAL_CFG, 30, 30⟩
def CAL_CFG_DELTA_T : Fld := ⟨adr .CAL_CFG, 20, 16⟩
def CAL_CFG_MIN_GAP_MS : Fld := ⟨adr .CAL_CFG, 15, 8⟩
def CAL_CFG_COMMIT_S : Fld := ⟨adr .CAL_CFG, 7, 0⟩
def CAL_CTL_RUN : Fld := ⟨adr .CAL_CTL, 31, 31⟩
def CAL_CTL_BUSY : Fld := ⟨adr .CAL_CTL, 30, 30⟩
def CAL_CTL_KIND : Fld := ⟨adr .CAL_CTL, 25, 24⟩
def CAL_REF_TEMP_REF : Fld := ⟨adr .CAL_REF_TEMP, 7, 0⟩
def CAL_LAST_VALID : Fld := ⟨adr .CAL_LAST, 31, 31⟩
def CAL_LAST_RUN : Fld := ⟨adr .CAL_LAST, 30, 27⟩
def CAL_LAST_RESULT : Fld := ⟨adr .CAL_LAST, 26, 24⟩
def CAL_LAST_CH : Fld := ⟨adr .CAL_LAST, 20, 16⟩
def CAL_LAST_TIER_MASK : Fld := ⟨adr .CAL_LAST, 3, 0⟩
def CAL_COUNT_RUNS : Fld := ⟨adr .CAL_COUNT, 31, 16⟩
def CAL_COUNT_FAILED : Fld := ⟨adr .CAL_COUNT, 15, 0⟩
def CAL_LAST_TIME_LO_TIME : Fld := ⟨adr .CAL_LAST_TIME_LO, 31, 0⟩
def CAL_LAST_TIME_HI_TIME : Fld := ⟨adr .CAL_LAST_TIME_HI, 31, 0⟩
def CAL_REC_VALID (i : Nat) : Fld := ⟨adr .CAL_REC 0 i, 31, 31⟩
def CAL_REC_SLOT (i : Nat) : Fld := ⟨adr .CAL_REC 0 i, 30, 30⟩
def CAL_REC_PENDING (i : Nat) : Fld := ⟨adr .CAL_REC 0 i, 29, 29⟩
def CAL_REC_DEFAULTS (i : Nat) : Fld := ⟨adr .CAL_REC 0 i, 28, 28⟩
def CAL_REC_GEN (i : Nat) : Fld := ⟨adr .CAL_REC 0 i, 27, 0⟩
def VPT_STS_DUE (c : Nat) : Fld := ⟨adr .VPT_STS c, 31, 31⟩
def VPT_STS_RUNNING (c : Nat) : Fld := ⟨adr .VPT_STS c, 30, 30⟩
def VPT_STS_T_CAL (c : Nat) : Fld := ⟨adr .VPT_STS c, 23, 16⟩
def VPT_STS_SPARES (c : Nat) : Fld := ⟨adr .VPT_STS c, 15, 8⟩
def VPT_STS_MIN_WIN (c : Nat) : Fld := ⟨adr .VPT_STS c, 7, 0⟩
def VPT_PROBE_VALID (c : Nat) : Fld := ⟨adr .VPT_PROBE c, 31, 31⟩
def VPT_PROBE_EDGE (c : Nat) : Fld := ⟨adr .VPT_PROBE c, 30, 30⟩
def VPT_PROBE_CODE (c : Nat) : Fld := ⟨adr .VPT_PROBE c, 29, 24⟩
def VPT_PROBE_WIN (c : Nat) : Fld := ⟨adr .VPT_PROBE c, 23, 16⟩
def VPT_PROBE_COND (c : Nat) : Fld := ⟨adr .VPT_PROBE c, 13, 0⟩
def THM_CFG_PENDING : Fld := ⟨adr .THM_CFG, 31, 31⟩
def THM_CFG_DISTRUST : Fld := ⟨adr .THM_CFG, 27, 24⟩
def THM_CFG_RISE_RATE : Fld := ⟨adr .THM_CFG, 23, 16⟩
def THM_CFG_LIMIT_BASE : Fld := ⟨adr .THM_CFG, 15, 8⟩
def THM_CFG_LIMIT_CORE : Fld := ⟨adr .THM_CFG, 7, 0⟩
def THM_MAX_CORE_DIE : Fld := ⟨adr .THM_MAX, 31, 28⟩
def THM_MAX_CORE_MAX : Fld := ⟨adr .THM_MAX, 27, 18⟩
def THM_MAX_BASE_MAX : Fld := ⟨adr .THM_MAX, 15, 6⟩
def THM_MAX_BASE_SENSOR : Fld := ⟨adr .THM_MAX, 5, 0⟩
def THM_STEP_THERMAL : Fld := ⟨adr .THM_STEP, 31, 28⟩
def THM_STEP_POWER : Fld := ⟨adr .THM_STEP, 27, 24⟩
def THM_STEP_HEAT : Fld := ⟨adr .THM_STEP, 23, 20⟩
def THM_STEP_BASE_PERIOD : Fld := ⟨adr .THM_STEP, 17, 16⟩
def THM_CNT_RISE_EVENTS : Fld := ⟨adr .THM_CNT, 31, 16⟩
def THM_CNT_LIMIT_EVENTS : Fld := ⟨adr .THM_CNT, 15, 0⟩
def THM_IMPL_IMPL_LIVE : Fld := ⟨adr .THM_IMPL, 31, 16⟩
def THM_IMPL_IMPL : Fld := ⟨adr .THM_IMPL, 15, 0⟩
def THM_PERIOD_PERIOD : Fld := ⟨adr .THM_PERIOD, 31, 0⟩
def THM_TRIP_TRIPPED : Fld := ⟨adr .THM_TRIP, 31, 31⟩
def THM_TRIP_BACKSTOP : Fld := ⟨adr .THM_TRIP, 30, 30⟩
def THM_TRIP_DIE : Fld := ⟨adr .THM_TRIP, 24, 20⟩
def THM_TRIP_TEMP : Fld := ⟨adr .THM_TRIP, 9, 0⟩
def THM_DIE_DISTRUSTED (i : Nat) : Fld := ⟨adr .THM_DIE 0 i, 31, 31⟩
def THM_DIE_VALID (i : Nat) : Fld := ⟨adr .THM_DIE 0 i, 30, 30⟩
def THM_DIE_READING (i : Nat) : Fld := ⟨adr .THM_DIE 0 i, 29, 20⟩
def THM_DIE_ESTIMATE (i : Nat) : Fld := ⟨adr .THM_DIE 0 i, 19, 10⟩
def THM_DIE_IN_FORCE (i : Nat) : Fld := ⟨adr .THM_DIE 0 i, 9, 0⟩
def THM_SENS_VALID (i : Nat) : Fld := ⟨adr .THM_SENS 0 i, 31, 31⟩
def THM_SENS_PLAUSIBLE (i : Nat) : Fld := ⟨adr .THM_SENS 0 i, 30, 30⟩
def THM_SENS_VALUE (i : Nat) : Fld := ⟨adr .THM_SENS 0 i, 9, 0⟩
def PWR_CAP_PENDING : Fld := ⟨adr .PWR_CAP, 31, 31⟩
def PWR_CAP_FALLBACK : Fld := ⟨adr .PWR_CAP, 26, 16⟩
def PWR_CAP_CAP : Fld := ⟨adr .PWR_CAP, 10, 0⟩
def PWR_STS_SHARE_VALID : Fld := ⟨adr .PWR_STS, 31, 31⟩
def PWR_STS_SHARE_LAPSED : Fld := ⟨adr .PWR_STS, 30, 30⟩
def PWR_STS_SHARE : Fld := ⟨adr .PWR_STS, 26, 16⟩
def PWR_STS_EFFECTIVE : Fld := ⟨adr .PWR_STS, 10, 0⟩
def PWR_EST_VALID : Fld := ⟨adr .PWR_EST, 31, 31⟩
def PWR_EST_POWER : Fld := ⟨adr .PWR_EST, 10, 0⟩
def CAL_LDG_STS_FULL : Fld := ⟨adr .CAL_LDG_STS, 31, 31⟩
def CAL_LDG_STS_LIVE : Fld := ⟨adr .CAL_LDG_STS, 27, 16⟩
def CAL_LDG_STS_SKIPPED : Fld := ⟨adr .CAL_LDG_STS, 11, 0⟩
def CAL_LDG_IDX_VALID : Fld := ⟨adr .CAL_LDG_IDX, 31, 31⟩
def CAL_LDG_IDX_LIVE : Fld := ⟨adr .CAL_LDG_IDX, 30, 30⟩
def CAL_LDG_IDX_INDEX : Fld := ⟨adr .CAL_LDG_IDX, 10, 0⟩
def CAL_LDG_CTL_ACTION : Fld := ⟨adr .CAL_LDG_CTL, 31, 28⟩
def CAL_LDG_CTL_BUSY : Fld := ⟨adr .CAL_LDG_CTL, 27, 27⟩
def CAL_LDG_CTL_RESULT : Fld := ⟨adr .CAL_LDG_CTL, 26, 24⟩
def CAL_LDG_CTL_CH : Fld := ⟨adr .CAL_LDG_CTL, 20, 16⟩
def CAL_LDG_CTL_COND : Fld := ⟨adr .CAL_LDG_CTL, 13, 0⟩
def CAL_LDG_ENT_WORD (i : Nat) : Fld := ⟨adr .CAL_LDG_ENT 0 i, 31, 0⟩
def CAL_TST_STS_VALID : Fld := ⟨adr .CAL_TST_STS, 31, 31⟩
def CAL_TST_STS_RUNNING : Fld := ⟨adr .CAL_TST_STS, 30, 30⟩
def CAL_TST_STS_TIER : Fld := ⟨adr .CAL_TST_STS, 29, 28⟩
def CAL_TST_STS_PERMIT_WAIT : Fld := ⟨adr .CAL_TST_STS, 27, 27⟩
def CAL_TST_STS_PERMIT_TIMEOUT : Fld := ⟨adr .CAL_TST_STS, 26, 26⟩
def CAL_TST_STS_RECORDS : Fld := ⟨adr .CAL_TST_STS, 10, 0⟩
def CAL_TST_CNT_FAIL_ROWS : Fld := ⟨adr .CAL_TST_CNT, 31, 16⟩
def CAL_TST_CNT_DROPPED : Fld := ⟨adr .CAL_TST_CNT, 15, 0⟩
def CAL_TST_IDX_VALID : Fld := ⟨adr .CAL_TST_IDX, 31, 31⟩
def CAL_TST_IDX_INDEX : Fld := ⟨adr .CAL_TST_IDX, 9, 0⟩
def CAL_TST_REC_WORD (i : Nat) : Fld := ⟨adr .CAL_TST_REC 0 i, 31, 0⟩
def CAL_FUSE_STS_APPLIED : Fld := ⟨adr .CAL_FUSE_STS, 27, 16⟩
def CAL_FUSE_STS_IGNORED : Fld := ⟨adr .CAL_FUSE_STS, 11, 0⟩
def CAL_FUSE_CTL_CANCEL : Fld := ⟨adr .CAL_FUSE_CTL, 31, 31⟩
def CAL_FUSE_CTL_BUSY : Fld := ⟨adr .CAL_FUSE_CTL, 30, 30⟩
def CAL_FUSE_CTL_VALID : Fld := ⟨adr .CAL_FUSE_CTL, 29, 29⟩
def CAL_FUSE_CTL_RESULT : Fld := ⟨adr .CAL_FUSE_CTL, 28, 26⟩
def CAL_FUSE_CTL_RECORD : Fld := ⟨adr .CAL_FUSE_CTL, 10, 0⟩
def CAL_FUSE_REC_LO_REC : Fld := ⟨adr .CAL_FUSE_REC_LO, 31, 0⟩
def CAL_FUSE_REC_HI_REC : Fld := ⟨adr .CAL_FUSE_REC_HI, 31, 0⟩
def THM_WEAR_CFG_PENDING : Fld := ⟨adr .THM_WEAR_CFG, 31, 31⟩
def THM_WEAR_CFG_T3 : Fld := ⟨adr .THM_WEAR_CFG, 23, 16⟩
def THM_WEAR_CFG_T2 : Fld := ⟨adr .THM_WEAR_CFG, 15, 8⟩
def THM_WEAR_CFG_T1 : Fld := ⟨adr .THM_WEAR_CFG, 7, 0⟩
def THM_WEAR_IDX_INDEX (i : Nat) : Fld := ⟨adr .THM_WEAR_IDX 0 i, 31, 0⟩
def THM_WEAR_STS_LEVEL (i : Nat) : Fld := ⟨adr .THM_WEAR_STS 0 i, 31, 30⟩
def THM_WEAR_STS_HALF_CYCLES (i : Nat) : Fld := ⟨adr .THM_WEAR_STS 0 i, 19, 0⟩
def FLT_STICKY_STICKY (i : Nat) : Fld := ⟨adr .FLT_STICKY 0 i, 31, 0⟩
def FLT_LIVE_LIVE (i : Nat) : Fld := ⟨adr .FLT_LIVE 0 i, 31, 0⟩
def FLT_PINEN_PINEN (i : Nat) : Fld := ⟨adr .FLT_PINEN 0 i, 31, 0⟩
def FLT_STS_FATAL_VALID : Fld := ⟨adr .FLT_STS, 31, 31⟩
def FLT_STS_INJ_VALID : Fld := ⟨adr .FLT_STS, 30, 30⟩
def FLT_STS_FATAL_SRC : Fld := ⟨adr .FLT_STS, 23, 16⟩
def FLT_STS_LAST_INJ : Fld := ⟨adr .FLT_STS, 15, 8⟩
def FLT_STS_THERMTRIP_PIN : Fld := ⟨adr .FLT_STS, 1, 1⟩
def FLT_STS_ERR_PIN : Fld := ⟨adr .FLT_STS, 0, 0⟩
def FLT_CFG_THROTTLE_STEP : Fld := ⟨adr .FLT_CFG, 3, 0⟩
def FLT_INJ_GO : Fld := ⟨adr .FLT_INJ, 31, 31⟩
def FLT_INJ_REACT : Fld := ⟨adr .FLT_INJ, 30, 30⟩
def FLT_INJ_SOURCE : Fld := ⟨adr .FLT_INJ, 23, 16⟩
def FLT_INJ_UNIT_BIT : Fld := ⟨adr .FLT_INJ, 4, 0⟩
def FLT_DUMP_CFG_CH_B : Fld := ⟨adr .FLT_DUMP_CFG, 20, 16⟩
def FLT_DUMP_CFG_CH_A : Fld := ⟨adr .FLT_DUMP_CFG, 4, 0⟩
def FLT_DUMP_STS_DONE : Fld := ⟨adr .FLT_DUMP_STS, 31, 31⟩
def FLT_DUMP_STS_WRITING : Fld := ⟨adr .FLT_DUMP_STS, 30, 30⟩
def FLT_DUMP_STS_COPY_A : Fld := ⟨adr .FLT_DUMP_STS, 29, 28⟩
def FLT_DUMP_STS_COPY_B : Fld := ⟨adr .FLT_DUMP_STS, 27, 26⟩
def FLT_DUMP_STS_SUMMARY : Fld := ⟨adr .FLT_DUMP_STS, 25, 24⟩
def FLT_DUMP_STS_WRITER : Fld := ⟨adr .FLT_DUMP_STS, 23, 23⟩
def FLT_DUMP_STS_CHB_USED : Fld := ⟨adr .FLT_DUMP_STS, 20, 16⟩
def FLT_DUMP_STS_CHA_USED : Fld := ⟨adr .FLT_DUMP_STS, 12, 8⟩
def FLT_DUMP_STS_DUMP_MS : Fld := ⟨adr .FLT_DUMP_STS, 7, 0⟩
def FLT_DUMP_CTL_VALID : Fld := ⟨adr .FLT_DUMP_CTL, 31, 31⟩
def FLT_DUMP_CTL_STATUS : Fld := ⟨adr .FLT_DUMP_CTL, 30, 27⟩
def FLT_DUMP_CTL_SEL : Fld := ⟨adr .FLT_DUMP_CTL, 25, 24⟩
def FLT_DUMP_CTL_BLOCK : Fld := ⟨adr .FLT_DUMP_CTL, 11, 0⟩
def FLT_DUMP_WIN_WORD (i : Nat) : Fld := ⟨adr .FLT_DUMP_WIN 0 i, 31, 0⟩
def FLT_UNIT_UNIT (i : Nat) : Fld := ⟨adr .FLT_UNIT 0 i, 31, 0⟩
def FLT_CNT_COUNT (i : Nat) : Fld := ⟨adr .FLT_CNT 0 i, 15, 0⟩
def FLT_FIRST_LO_TIME (i : Nat) : Fld := ⟨adr .FLT_FIRST_LO 0 i, 31, 0⟩
def FLT_FIRST_HI_TIME (i : Nat) : Fld := ⟨adr .FLT_FIRST_HI 0 i, 31, 0⟩
def AUTH_STS_OWNER : Fld := ⟨adr .AUTH_STS, 31, 31⟩
def AUTH_STS_CONFLICT : Fld := ⟨adr .AUTH_STS, 30, 30⟩
def AUTH_STS_CURRENT : Fld := ⟨adr .AUTH_STS, 29, 28⟩
def AUTH_STS_BOUNCES : Fld := ⟨adr .AUTH_STS, 27, 16⟩
def AUTH_STS_HANDOVERS : Fld := ⟨adr .AUTH_STS, 15, 8⟩
def AUTH_STS_HB_E : Fld := ⟨adr .AUTH_STS, 7, 4⟩
def AUTH_STS_HB_W : Fld := ⟨adr .AUTH_STS, 3, 0⟩
def AUTH_ASSIGN_GO : Fld := ⟨adr .AUTH_ASSIGN, 31, 31⟩
def AUTH_ASSIGN_HALF : Fld := ⟨adr .AUTH_ASSIGN, 0, 0⟩
def AUTH_LAST_MOVE_LO_TIME : Fld := ⟨adr .AUTH_LAST_MOVE_LO, 31, 0⟩
def AUTH_LAST_MOVE_HI_TIME : Fld := ⟨adr .AUTH_LAST_MOVE_HI, 31, 0⟩
def AUTH_FWU_CTL_GO : Fld := ⟨adr .AUTH_FWU_CTL, 31, 31⟩
def AUTH_FWU_CTL_STATE : Fld := ⟨adr .AUTH_FWU_CTL, 30, 29⟩
def AUTH_FWU_CTL_RESULT : Fld := ⟨adr .AUTH_FWU_CTL, 28, 26⟩
def AUTH_FWU_CTL_CH : Fld := ⟨adr .AUTH_FWU_CTL, 25, 21⟩
def AUTH_FWU_SRC_LEN : Fld := ⟨adr .AUTH_FWU_SRC, 31, 20⟩
def AUTH_FWU_SRC_OFFSET : Fld := ⟨adr .AUTH_FWU_SRC, 19, 8⟩
def CWY_CFG_PENDING : Fld := ⟨adr .CWY_CFG, 31, 31⟩
def CWY_CFG_RESIGN : Fld := ⟨adr .CWY_CFG, 30, 30⟩
def CWY_CFG_TEST_CONC : Fld := ⟨adr .CWY_CFG, 27, 24⟩
def CWY_CFG_WIRE_Q : Fld := ⟨adr .CWY_CFG, 15, 0⟩
def CWY_STS_ROLE : Fld := ⟨adr .CWY_STS, 31, 31⟩
def CWY_STS_LINK_UP : Fld := ⟨adr .CWY_STS, 30, 30⟩
def CWY_STS_OUT_OF_SYNC : Fld := ⟨adr .CWY_STS, 29, 29⟩
def CWY_STS_BUDGET_LOW : Fld := ⟨adr .CWY_STS, 28, 28⟩
def CWY_STS_MANAGER : Fld := ⟨adr .CWY_STS, 27, 24⟩
def CWY_STS_DISCARDS : Fld := ⟨adr .CWY_STS, 23, 16⟩
def CWY_STS_SYNC_ERR : Fld := ⟨adr .CWY_STS, 15, 0⟩
def PKG_SUMMARY_PKG_SEQ : Fld := ⟨adr .PKG_SUMMARY, 31, 16⟩
def PKG_SUMMARY_ATTN : Fld := ⟨adr .PKG_SUMMARY, 15, 0⟩
def CWY_PRESENT_CAPABLE : Fld := ⟨adr .CWY_PRESENT, 31, 16⟩
def CWY_PRESENT_PRESENT : Fld := ⟨adr .CWY_PRESENT, 15, 0⟩
def CWY_MGR_STS_EPOCH : Fld := ⟨adr .CWY_MGR_STS, 31, 16⟩
def CWY_MGR_STS_OLD : Fld := ⟨adr .CWY_MGR_STS, 15, 12⟩
def CWY_MGR_STS_NEW : Fld := ⟨adr .CWY_MGR_STS, 11, 8⟩
def CWY_MGR_STS_TAKEOVERS : Fld := ⟨adr .CWY_MGR_STS, 7, 0⟩
def CWY_PKG_BUDGET_PENDING : Fld := ⟨adr .CWY_PKG_BUDGET, 31, 31⟩
def CWY_PKG_BUDGET_BUDGET : Fld := ⟨adr .CWY_PKG_BUDGET, 14, 0⟩
def CWY_STACK_POLL (i : Nat) : Fld := ⟨adr .CWY_STACK 0 i, 31, 0⟩
def LC_STS_STATE : Fld := ⟨adr .LC_STS, 31, 29⟩
def LC_STS_SESSION : Fld := ⟨adr .LC_STS, 28, 27⟩
def LC_STS_SESS_PATH : Fld := ⟨adr .LC_STS, 26, 21⟩
def LC_STS_CHAL_VALID : Fld := ⟨adr .LC_STS, 20, 20⟩
def LC_STS_LOCKOUT : Fld := ⟨adr .LC_STS, 19, 19⟩
def LC_STS_KEY_SET : Fld := ⟨adr .LC_STS, 18, 17⟩
def LC_STS_FAILS : Fld := ⟨adr .LC_STS, 16, 13⟩
def LC_STS_IDLE_LEFT : Fld := ⟨adr .LC_STS, 12, 0⟩
def LC_CTL_ADVANCE : Fld := ⟨adr .LC_CTL, 31, 29⟩
def LC_CTL_BUSY : Fld := ⟨adr .LC_CTL, 28, 28⟩
def LC_CTL_RESULT : Fld := ⟨adr .LC_CTL, 27, 26⟩
def LC_SESS_CTL_CHALLENGE : Fld := ⟨adr .LC_SESS_CTL, 31, 31⟩
def LC_SESS_CTL_OPEN : Fld := ⟨adr .LC_SESS_CTL, 30, 30⟩
def LC_SESS_CTL_CLOSE : Fld := ⟨adr .LC_SESS_CTL, 29, 29⟩
def LC_SESS_CTL_ROLE : Fld := ⟨adr .LC_SESS_CTL, 25, 24⟩
def LC_SESS_CTL_IDLE_S : Fld := ⟨adr .LC_SESS_CTL, 9, 0⟩
def LC_CHAL_WORD (i : Nat) : Fld := ⟨adr .LC_CHAL 0 i, 31, 0⟩
def LC_RESP_WORD (i : Nat) : Fld := ⟨adr .LC_RESP 0 i, 31, 0⟩
def LC_STRAP_OVR_EN : Fld := ⟨adr .LC_STRAP_OVR, 31, 31⟩
def LC_STRAP_OVR_MGR_CAPABLE : Fld := ⟨adr .LC_STRAP_OVR, 5, 5⟩
def LC_STRAP_OVR_MGR_EN : Fld := ⟨adr .LC_STRAP_OVR, 4, 4⟩
def LC_STRAP_OVR_STACK_ID : Fld := ⟨adr .LC_STRAP_OVR, 3, 0⟩
def LC_TRN_OVR_FORCE_FULL : Fld := ⟨adr .LC_TRN_OVR, 31, 31⟩
def LC_TRN_OVR_MIN_EYE : Fld := ⟨adr .LC_TRN_OVR, 4, 0⟩
def LC_AUD_STS_NEXT : Fld := ⟨adr .LC_AUD_STS, 31, 23⟩
def LC_AUD_STS_LOST : Fld := ⟨adr .LC_AUD_STS, 22, 12⟩
def LC_AUD_STS_WRAPS : Fld := ⟨adr .LC_AUD_STS, 11, 0⟩
def LC_AUD_IDX_VALID : Fld := ⟨adr .LC_AUD_IDX, 31, 31⟩
def LC_AUD_IDX_INDEX : Fld := ⟨adr .LC_AUD_IDX, 8, 0⟩
def LC_AUD_ENT_WORD (i : Nat) : Fld := ⟨adr .LC_AUD_ENT 0 i, 31, 0⟩
def OBS_CNT_CFG_EN (i : Nat) : Fld := ⟨adr .OBS_CNT_CFG 0 i, 31, 31⟩
def OBS_CNT_CFG_CHAIN (i : Nat) : Fld := ⟨adr .OBS_CNT_CFG 0 i, 30, 30⟩
def OBS_CNT_CFG_FLOW_EN (i : Nat) : Fld := ⟨adr .OBS_CNT_CFG 0 i, 29, 29⟩
def OBS_CNT_CFG_MOD_EN (i : Nat) : Fld := ⟨adr .OBS_CNT_CFG 0 i, 28, 28⟩
def OBS_CNT_CFG_FLOW (i : Nat) : Fld := ⟨adr .OBS_CNT_CFG 0 i, 27, 16⟩
def OBS_CNT_CFG_MODULE (i : Nat) : Fld := ⟨adr .OBS_CNT_CFG 0 i, 15, 12⟩
def OBS_CNT_CFG_EVENT (i : Nat) : Fld := ⟨adr .OBS_CNT_CFG 0 i, 7, 0⟩
def CH_CNT_CFG_EN (c : Nat) (i : Nat) : Fld := ⟨adr .CH_CNT_CFG c i, 31, 31⟩
def CH_CNT_CFG_CHAIN (c : Nat) (i : Nat) : Fld := ⟨adr .CH_CNT_CFG c i, 30, 30⟩
def CH_CNT_CFG_FLOW_EN (c : Nat) (i : Nat) : Fld := ⟨adr .CH_CNT_CFG c i, 29, 29⟩
def CH_CNT_CFG_MOD_EN (c : Nat) (i : Nat) : Fld := ⟨adr .CH_CNT_CFG c i, 28, 28⟩
def CH_CNT_CFG_FLOW (c : Nat) (i : Nat) : Fld := ⟨adr .CH_CNT_CFG c i, 27, 16⟩
def CH_CNT_CFG_MODULE (c : Nat) (i : Nat) : Fld := ⟨adr .CH_CNT_CFG c i, 15, 12⟩
def CH_CNT_CFG_EVENT (c : Nat) (i : Nat) : Fld := ⟨adr .CH_CNT_CFG c i, 7, 0⟩
def OBS_CNT_LO_VALUE (i : Nat) : Fld := ⟨adr .OBS_CNT_LO 0 i, 31, 0⟩
def OBS_CNT_HI_VALUE (i : Nat) : Fld := ⟨adr .OBS_CNT_HI 0 i, 15, 0⟩
def CH_CNT_LO_VALUE (c : Nat) (i : Nat) : Fld := ⟨adr .CH_CNT_LO c i, 31, 0⟩
def CH_CNT_HI_VALUE (c : Nat) (i : Nat) : Fld := ⟨adr .CH_CNT_HI c i, 15, 0⟩
def OBS_SNAP_LO_VALUE (i : Nat) : Fld := ⟨adr .OBS_SNAP_LO 0 i, 31, 0⟩
def OBS_SNAP_HI_VALUE (i : Nat) : Fld := ⟨adr .OBS_SNAP_HI 0 i, 15, 0⟩
def CH_SNAP_LO_VALUE (c : Nat) (i : Nat) : Fld := ⟨adr .CH_SNAP_LO c i, 31, 0⟩
def CH_SNAP_HI_VALUE (c : Nat) (i : Nat) : Fld := ⟨adr .CH_SNAP_HI c i, 15, 0⟩
def OBS_CTL_FREEZE : Fld := ⟨adr .OBS_CTL, 31, 31⟩
def OBS_CTL_SNAP : Fld := ⟨adr .OBS_CTL, 30, 30⟩
def OBS_CTL_CLEAR : Fld := ⟨adr .OBS_CTL, 29, 29⟩
def OBS_CTL_SNAP_VALID : Fld := ⟨adr .OBS_CTL, 28, 28⟩
def OBS_CTL_FROZEN : Fld := ⟨adr .OBS_CTL, 27, 27⟩
def OBS_SNAP_TIME_LO_TIME : Fld := ⟨adr .OBS_SNAP_TIME_LO, 31, 0⟩
def OBS_SNAP_TIME_HI_TIME : Fld := ⟨adr .OBS_SNAP_TIME_HI, 31, 0⟩
def OBS_SNAP_MISS_MISS : Fld := ⟨adr .OBS_SNAP_MISS, 31, 0⟩
def OBS_TAG_CFG_EN : Fld := ⟨adr .OBS_TAG_CFG, 31, 31⟩
def OBS_TAG_CFG_K : Fld := ⟨adr .OBS_TAG_CFG, 4, 0⟩
def OBS_TAG_SEED_SEED : Fld := ⟨adr .OBS_TAG_SEED, 31, 0⟩
def OBS_TAG_STS_DROPS : Fld := ⟨adr .OBS_TAG_STS, 31, 16⟩
def OBS_TAG_STS_NOREC : Fld := ⟨adr .OBS_TAG_STS, 15, 0⟩
def CH_TAG_STS_WRAPS (c : Nat) : Fld := ⟨adr .CH_TAG_STS c, 31, 16⟩
def CH_TAG_STS_WR_IDX (c : Nat) : Fld := ⟨adr .CH_TAG_STS c, 13, 0⟩
def OBS_TRC_CFG_WRAP : Fld := ⟨adr .OBS_TRC_CFG, 31, 31⟩
def OBS_TRC_CFG_TRIG_EN : Fld := ⟨adr .OBS_TRC_CFG, 30, 30⟩
def OBS_TRC_CFG_POST : Fld := ⟨adr .OBS_TRC_CFG, 29, 22⟩
def OBS_TRC_CFG_TRIG_SRC : Fld := ⟨adr .OBS_TRC_CFG, 21, 14⟩
def OBS_TRC_CFG_KINDS : Fld := ⟨adr .OBS_TRC_CFG, 13, 0⟩
def OBS_TRC_CTL_START : Fld := ⟨adr .OBS_TRC_CTL, 31, 31⟩
def OBS_TRC_CTL_STOP : Fld := ⟨adr .OBS_TRC_CTL, 30, 30⟩
def OBS_TRC_CTL_EXPORT : Fld := ⟨adr .OBS_TRC_CTL, 29, 29⟩
def OBS_TRC_CTL_EXP_VALID : Fld := ⟨adr .OBS_TRC_CTL, 28, 28⟩
def OBS_TRC_CTL_EXP_CH : Fld := ⟨adr .OBS_TRC_CTL, 24, 20⟩
def OBS_TRC_CTL_EXP_OFF : Fld := ⟨adr .OBS_TRC_CTL, 11, 0⟩
def OBS_TRC_STS_RUNNING : Fld := ⟨adr .OBS_TRC_STS, 31, 31⟩
def OBS_TRC_STS_FULL : Fld := ⟨adr .OBS_TRC_STS, 30, 30⟩
def OBS_TRC_STS_STOPPED_BY : Fld := ⟨adr .OBS_TRC_STS, 29, 27⟩
def OBS_TRC_STS_WR_POS : Fld := ⟨adr .OBS_TRC_STS, 13, 0⟩
def OBS_TRC_RD_VALID : Fld := ⟨adr .OBS_TRC_RD, 31, 31⟩
def OBS_TRC_RD_POS : Fld := ⟨adr .OBS_TRC_RD, 13, 0⟩
def OBS_TRC_WIN_WORD (i : Nat) : Fld := ⟨adr .OBS_TRC_WIN 0 i, 31, 0⟩
def OBS_TRC_MARK_MARK : Fld := ⟨adr .OBS_TRC_MARK, 31, 0⟩

end Sys2Proof.Machine.F
end

