-- ==== Sys2Proof/Machine/Status.lean ====
section
/-!
DEFINITION. The status codes, the modes, the channel states, the link stages and the slot states, with their encodings.
-/
namespace Sys2Proof.Machine

/-- Status codes (table Status codes, R176). -/
inductive Status where
  | ok | poison | retry | unavailable | retired | unmapped | priv | timeout | internal | ignored | empty
  deriving DecidableEq, Repr

/-- The encoding of a status. -/
def Status.code : Status → Nat
  | .ok => 0 | .poison => 1 | .retry => 2 | .unavailable => 3 | .retired => 4 | .unmapped => 5
  | .priv => 6 | .timeout => 7 | .internal => 8 | .ignored => 9 | .empty => 10

/-- The device modes (table Modes, R102). -/
inductive Mode where
  | reset | bringUp | active | selfRefresh | deepRetention | safe | shutdownTest | fatal
  deriving DecidableEq, Repr

/-- GLB_MODE.MODE (R97). -/
def Mode.code : Mode → Nat
  | .reset => 0 | .bringUp => 1 | .active => 2 | .selfRefresh => 3 | .deepRetention => 4 | .safe => 5
  | .shutdownTest => 6 | .fatal => 7

/-- The channel states (table Channel states, R113). -/
inductive ChState where
  | online | draining | quiesced | retraining | offline | retired
  deriving DecidableEq, Repr

/-- CH_STATE.STATE (R113). -/
def ChState.code : ChState → Nat
  | .online => 0 | .draining => 1 | .quiesced => 2 | .retraining => 3 | .offline => 4 | .retired => 5

/-- The stages of a module (table Link stages, R132). -/
inductive Stage where
  | reset | sbDetect | sbUp | mbInit | mbTrain | locked | capExchange | active | retrain | l1 | drain | excluded
  | loopback | trainError
  deriving DecidableEq, Repr

/-- UCI_STS.STAGE (R132). -/
def Stage.code : Stage → Nat
  | .reset => 0 | .sbDetect => 1 | .sbUp => 2 | .mbInit => 3 | .mbTrain => 4 | .locked => 5 | .capExchange => 6
  | .active => 7 | .retrain => 8 | .l1 => 9 | .drain => 10 | .excluded => 11 | .loopback => 12 | .trainError => 13

/-- The states of a Lagoon slot (table Slot states, R226). -/
inductive SlotState where
  | empty | filling | clean | dirty | cleaning | evicting | fenced
  deriving DecidableEq, Repr

/-- LAG_SLOT_STS.STATE (R226). -/
def SlotState.code : SlotState → Nat
  | .empty => 0 | .filling => 1 | .clean => 2 | .dirty => 3 | .cleaning => 4 | .evicting => 5 | .fenced => 6

/-- A slot that the manual calls dirty: DIRTY, CLEANING, EVICTING or FENCED (R226). -/
def SlotState.isDirty : SlotState → Bool
  | .dirty | .cleaning | .evicting | .fenced => true
  | .empty | .filling | .clean => false

/-- The REQ messages (table Messages, R159). -/
inductive ReqOp where
  | rd | wr | wrPart | wrZero | fence
  deriving DecidableEq, Repr

/-- The number of an access path (GLB_ACC_LAST.PATH, R98) is a plain number: 0-11, 12, 16-47, 48, 49. -/
abbrev PathNum := Nat

end Sys2Proof.Machine
end

