-- ==== Sys2Proof/Machine/Store.lean ====
section
/-!
DEFINITION. Sparse storage as plain data: a list of key and value pairs in one canonical form, keys strictly rising and
no entry equal to what an unlisted key reads as. The registers, the array and the pair holders are stores. `d` is what
an unlisted key reads as.
-/
namespace Sys2Proof.Machine

/-- A sparse store: pairs of a key and a value. -/
abbrev Store (α : Type) := List (Nat × α)

/-- What key `k` holds. -/
def Store.get {α : Type} (d : Nat → α) : Store α → Nat → α
  | [], k => d k
  | (k', v) :: r, k => if k = k' then v else Store.get d r k

/-- The store without the keys for which `p` holds: those keys read as unlisted again. -/
def Store.erase {α : Type} (p : Nat → Bool) : Store α → Store α
  | [] => []
  | (k, v) :: r => if p k then Store.erase p r else (k, v) :: Store.erase p r

/-- An entry put in its place. -/
def Store.insert {α : Type} : Store α → Nat → α → Store α
  | [], k, v => [(k, v)]
  | (k', v') :: r, k, v => if k < k' then (k, v) :: (k', v') :: r else (k', v') :: Store.insert r k v

/-- The store with `v` at key `k`, canonical form kept: an entry equal to the unlisted value is dropped. -/
def Store.set {α : Type} [DecidableEq α] (d : Nat → α) (m : Store α) (k : Nat) (v : α) : Store α :=
  if v = d k then Store.erase (fun j => j == k) m else Store.insert (Store.erase (fun j => j == k) m) k v

/-- The store for unlisted values `d`: entries that an unlisted key would hold by now are dropped. -/
def Store.rebase {α : Type} [DecidableEq α] (d : Nat → α) : Store α → Store α
  | [] => []
  | (k, v) :: r => if v = d k then Store.rebase d r else (k, v) :: Store.rebase d r

/-- Keys strictly rising above `b`, no entry equal to the unlisted value. -/
def Store.wfFrom {α : Type} [DecidableEq α] (d : Nat → α) : Option Nat → Store α → Bool
  | _, [] => true
  | b, (k, v) :: r =>
    (match b with | none => true | some x => decide (x < k)) && !decide (v = d k) && Store.wfFrom d (some k) r

/-- The canonical form. -/
def Store.wf {α : Type} [DecidableEq α] (d : Nat → α) (m : Store α) : Bool := Store.wfFrom d none m

end Sys2Proof.Machine
end

