-- ==== Sys2Proof/Syntax.lean ====
section
/-!
DEFINITION. The commands of the Avtil A16: one constructor of `Instr` for each row of the command table, with the
operands a sender or the outside world gives it. What an operand says of the outside (a training that fails, a
sensor's raw value, a parity error) is an input of the model: the block itself computes everything else.
-/
namespace Sys2Proof

/-- A half of the base die (R21). -/
inductive Half where
  | west | east
  deriving DecidableEq, Repr

/-- An access path of the registers (R89), with what decides the privilege of an access on it (R78): the sideband of a
module, the CTL channel of a module's cells with its PRIVREQ bit, a queue of an Exdun engine, firmware of a half. -/
inductive Path where
  | sb (m : Fin 12)
  | ctl (m : Fin 12) (privreq : Bool)
  | eng (c : Fin 32) (q : Fin 8)
  | fw (h : Half)
  deriving DecidableEq, Repr

/-- The operand fields of an Exdun instruction word beside its opcode (R293). -/
structure Fields where
  dst : BitVec 4
  src1 : BitVec 4
  src2 : BitVec 4
  hnd : BitVec 4
  mod : BitVec 8
  imm : BitVec 32
  deriving DecidableEq, Repr

/-- What a sweep of a channel's conductors finds (R392, R399): the widest passing window of every conductor and edge
not listed (none when `hi` is below `lo`), those listed by their place in the VP payload (R393), the data and spare
conductors that err in the check of step 7, those that err in the check after a failed drift run (R401), and the sense
trims found by channel bank. -/
structure Sweep where
  lo : BitVec 6
  hi : BitVec 6
  found : List (Fin 18248 × BitVec 6 × BitVec 6)
  erring : List (Fin 9100)
  recheck : List (Fin 9100)
  sense : List (Fin 128 × BitVec 5 × BitVec 4)
  deriving DecidableEq, Repr

/-- What the outside gives a BRING-UP (table Bring-up sequence, R110): the straps; the locks; what the fuse map, the
images, the calibration slots (two bits a record), the ledger positions and the channels' correction summaries check; which
sidebands are up at the end of step 5; the conductors that err after the restore; what full training finds, for every
channel and for those listed, at F0 (false) and F1 (true), the spine pairs it keeps and the commits that fail; the
channels whose zero-fill fails; the check and the raw values of step 11. `stallAt` names a step that never ends of its
own: BRINGUP_STEP_TIMEOUT then ends it. -/
structure BringUpEnv where
  strapsAgree : Bool
  stackId : BitVec 4
  mgrEn : Bool
  mgrCapable : Bool
  pllWest : Bool
  pllEast : Bool
  fusesAgree : Bool
  imageA : Bool
  imageB : Bool
  boots : Bool
  sbUp : BitVec 12
  badSlots : BitVec 52
  badEntries : List (Fin 2048)
  badSummary : BitVec 32
  badAudit : List (Fin 512)
  restoreErr : List (Fin 32 × Fin 9100)
  sweep : Sweep
  sweeps : List (Fin 32 × Bool × Sweep)
  pairs : BitVec 4
  commitFails : BitVec 26
  fillFails : BitVec 32
  sensorsOk : Bool
  railsOk : Bool
  scan : List (List (BitVec 10))
  stallAt : Option (Fin 13)
  deriving DecidableEq, Repr

/-- What the outside gives an exit to ACTIVE (R121, R122): which saved copies pass their checks (fields by context
channel A and B, the maps of each channel's two copies), whether both core PLLs relock, the conductors that err in the
check of the restored sample points, and which modules fail to leave L1 in 2 us (R152). -/
structure ExitEnv where
  fieldsA : Bool
  fieldsB : Bool
  mapA : BitVec 32
  mapB : BitVec 32
  plls : Bool
  restoreErr : List (Fin 32 × Fin 9100)
  l1Fails : BitVec 12
  deriving DecidableEq, Repr

/-- What a mainband training or a retrain meets at the partner (R135, R142, R144): its advertised maximum rate, the highest
rate at which the link-speed check passes (none: not even 16 GT/s), the failing data lanes of each direction, the failing
clock, valid and track lanes of each direction (2: more than its one spare repairs), whether the partner's adapter offers
a used option, and the data of an EQ_SET that the partner sends after the last step down of the rate, if it sends one. -/
structure LinkEnv where
  partnerMax : BitVec 2
  passes : Option (BitVec 2)
  lanesTx : BitVec 64
  lanesRx : BitVec 64
  clkTx : Fin 3
  clkRx : Fin 3
  vldTx : Fin 3
  vldRx : Fin 3
  trkTx : Fin 3
  trkRx : Fin 3
  offers : Bool
  lateSet : Option (BitVec 16)
  deriving DecidableEq, Repr

/-- What a calibration run finds (R398): which run ends (that of a channel, or that of CAL_CTL), what its sweep found,
and the raw values of a RAIL run (gain and offset of each rail) or a SENSOR run (the mean of each sensor). -/
structure CalEnv where
  run : Option (Fin 32)
  sweep : Sweep
  values : List (BitVec 16)
  deriving DecidableEq, Repr

/-- A finding of a shutdown test (R434 to R436): the physical row by its locator, or a conductor by CH, LAYER, CLASS
0b11 and ROW; the steps at which a conductor failed, the failing sector lanes of a row with the steps at which each failed,
the lowest failing bit and the failing bits; whether the ledger write that it leads to fails its check. -/
structure TestFind where
  loc : BitVec 32
  steps : BitVec 7
  lanes : List (Fin 32 × BitVec 7)
  bit : BitVec 15
  count : BitVec 16
  writeFails : Bool
  deriving DecidableEq, Repr

/-- A die's report that VDD_ARR, VPP or both are good again (R59). -/
structure PgoodReport where
  die : Fin 16
  arr : Bool
  vpp : Bool
  deriving DecidableEq, Repr

/-- A flit that failed its CRC at a module: one that it received, or one that it sent and has to send again (R143, R153). -/
structure LostFlit where
  module : Fin 12
  sent : Bool
  deriving DecidableEq, Repr

/-- A firmware update beside the image's own check words: whether its MRAM slot reads back right, and the version that the image
is (R479). -/
structure ImageCheck where
  mramOk : Bool
  major : BitVec 8
  minor : BitVec 8
  deriving DecidableEq, Repr

/-- The MRAM records written outside the ledger and the calibration store (R444). -/
inductive MramKind where
  | audit | summary | wear
  | fatal (copyFails : BitVec 2)
  deriving DecidableEq, Repr

/-- What a strait entry belongs to (R49): a credit or other item, a register access of a path, a transaction. -/
inductive Owner where
  | item
  | access (p : Path) (a : BitVec 24) (write : Bool) (tag : BitVec 14)
  | txn (m : Fin 12) (tag : BitVec 14)
  deriving DecidableEq, Repr

/-- A parity hit on a strait entry: the word and the bit that flip. -/
structure StraitHit where
  word : Nat
  bit : Fin 32
  deriving DecidableEq, Repr

/-- The commands, one constructor per row of the command table. -/
inductive Instr where
  /-- PWROK_RISE (R518): PWROK is taken high; RST_N is taken as rising no earlier than 1 ms later. -/
  | pwrokRise
  /-- PWROK_FALL (R103): PWROK is taken low and the device enters RESET from any mode, FATAL included. -/
  | pwrokFall
  /-- RST_N_RISE (R110): RST_N is taken as rising with PWROK high; the time base starts and BRING-UP runs its steps. -/
  | rstNRise (env : BringUpEnv)
  /-- RST_N_FALL (R103): RST_N is taken low and the device enters RESET from any mode except FATAL. -/
  | rstNFall
  /-- BRINGUP_STEP_TIMEOUT (R110): A bring-up step exceeds its bound and takes the failure consequence its row gives. -/
  | bringupStepTimeout (step : Fin 13) (which : BitVec 32)
  /-- CORE_PLL_LOCK_LOSS (R38): A core PLL loses lock; the common clock mux switches islands 53-56 to the other PLL. -/
  | corePllLockLoss (h : Half)
  /-- PLL_LOCK_TIMEOUT (R39): A core PLL's loss of lock lasts more than 2 us; PLL_LOCK is raised and the device enters FATAL. -/
  | pllLockTimeout (h : Half)
  /-- REFCLK_MEASURE (R40): Every 10 us the always-on island measures REFCLK and raises REFCLK_RANGE when it is out of range. -/
  | refclkMeasure (khz : Nat)
  /-- REFCLK_ABSENT (R65): REFCLK stops; the time base free-runs, FREE_RUN and DEGRADED are set. -/
  | refclkAbsent
  /-- REFCLK_RETURN (R65): REFCLK resumes and FREE_RUN returns to 0. -/
  | refclkReturn
  /-- REFCLK_LOSS_TIMEOUT (R42): REFCLK is absent for more than 1 us outside RESET and DEEP RETENTION; a fatal fault is raised. -/
  | refclkLossTimeout
  /-- SPINE_STOP_SELF_REFRESH (R46): A core die whose spine has stopped for 1 us without a self-refresh command enters self-refresh on its own. -/
  | spineStopSelfRefresh (d : Fin 16)
  /-- ISLAND_IDLE_GATE (R51): An AUTO island idle for 16 x IDLE_THRESH cycles stops its clock. -/
  | islandIdleGate (i : Fin 57)
  /-- ISLAND_WAKE (R51): An entry arriving in a strait restarts a gated AUTO island within 4 cycles. -/
  | islandWake (i : Fin 57)
  /-- ISLAND_RESET_REQ (R52): A RESET_REQ write to GLB_ISL_CTL is checked, straits close and the island is held in reset. -/
  | islandResetReq (p : Path) (i : Fin 57) (w : BitVec 32)
  /-- ISLAND_RESET_RELEASE (R53): The island reset is released, straits reopen with full credits and the write completes. -/
  | islandResetRelease (i : Fin 57)
  /-- CHANNEL_FIELDS_RESTORE (R478): Firmware restores the configuration and calibration of a reset channel island. -/
  | channelFieldsRestore (c : Fin 32)
  /-- ISLAND_GATE_WRITE (R52): A GATE write to GLB_ISL_CTL sets AUTO, ON or, when permitted, FORCED_OFF. -/
  | islandGateWrite (p : Path) (i : Fin 57) (w : BitVec 32)
  /-- STRAIT_ENTRY_WRITE (R47): A source holding a credit writes an entry into a strait and spends the credit. -/
  | straitEntryWrite (k : Fin 270) (words : List (BitVec 32)) (owner : Owner)
  /-- STRAIT_ENTRY_READ (R49): The destination reads a strait entry and checks its parity; a bad entry is discarded with STRAIT_PARITY. -/
  | straitEntryRead (k : Fin 270) (hit : Option StraitHit)
  /-- STRAIT_CREDIT_RETURN (R48): A credit returns to the strait's source after the destination has read an entry. -/
  | straitCreditReturn (k : Fin 270)
  /-- RAIL_SAMPLE (R56): A rail is sampled every 10 us and checked for plausibility and violation. -/
  | railSample (k : Fin 6) (mv : BitVec 16)
  /-- PWR_RAIL_LIM_WRITE (R58): A write sets a rail monitor's limits within the rail's limit window. -/
  | pwrRailLimWrite (p : Path) (k : Fin 6) (w : BitVec 32)
  /-- DIE_PGOOD_TRIP (R252): A die's power-good detector trips and the channels that depend on the die are fenced. -/
  | diePgoodTrip (d : Fin 16) (arr vpp : Bool)
  /-- DIE_PGOOD_RESTORE (R59): A die reports VDD_ARR or VPP good again and its PWR_DIE_PGOOD bit is set. -/
  | diePgoodRestore (d : PgoodReport)
  /-- GLB_TIME_LO_READ (R62): A read of GLB_TIME_LO latches the upper half into the shadow of its path. -/
  | glbTimeLoRead (p : Path)
  /-- GLB_TIME_HI_READ (R62): A read of GLB_TIME_HI returns the path's shadow, or the live upper half when no shadow is latched. -/
  | glbTimeHiRead (p : Path)
  /-- GLB_TIME_HI_WRITE (R63): A write of GLB_TIME_HI is held in the staging holder of its path. -/
  | glbTimeHiWrite (p : Path) (w : BitVec 32)
  /-- GLB_TIME_LO_WRITE (R63): A write of GLB_TIME_LO loads the time base with the held upper half, or with the upper half in force. -/
  | glbTimeLoWrite (p : Path) (w : BitVec 32)
  /-- WIDE_REGISTER_LO_READ (R85): A read of a low word latches the high word for the next high read on the same path. -/
  | wideRegisterLoRead (p : Path) (a : BitVec 24)
  /-- WIDE_REGISTER_HI_WRITE (R85): A write of a high word is held for the path until that path writes the low word. -/
  | wideRegisterHiWrite (p : Path) (a : BitVec 24) (w : BitVec 32)
  /-- WIDE_REGISTER_LO_WRITE (R85): A write of a low word applies together with any high word held on the same path. -/
  | wideRegisterLoWrite (p : Path) (a : BitVec 24) (w : BitVec 32)
  /-- REGISTER_WRITE (R66): A write to a register without behaviour of its own is checked for privilege, lock and range, then applied or staged. -/
  | registerWrite (p : Path) (a : BitVec 24) (w : BitVec 32)
  /-- MANAGEMENT_TICK (R73): The 10 us management tick applies global staged shadows and runs tick-timed firmware work. -/
  | managementTick
  /-- REGISTER_ACCESS_TIMEOUT (R92): A register access has no completion 10 us after arrival and is answered TIMEOUT. -/
  | registerAccessTimeout (p : Path) (a : BitVec 24) (write : Bool) (w : BitVec 32) (tag : BitVec 14)
  /-- POLL_SUMMARY_CLEAR (R95): A W1C write to POLL_SUMMARY clears the latches it names, unless a set arrives in the same cycle. -/
  | pollSummaryClear (p : Path) (w : BitVec 32) (again : BitVec 32)
  /-- ECC_LOG_POP (R358): A destructive read removes the oldest correction-log entry and copies it into the path's hold registers. -/
  | eccLogPop (p : Path) (c : Fin 32)
  /-- MODE_REQ_SELF_REFRESH (R118): GLB_MODE.REQ 0x1 is checked and, when accepted, runs the retention entry into SELF-REFRESH. -/
  | modeReqSelfRefresh (p : Path)
  /-- MODE_REQ_DEEP_RETENTION (R119): REQ 0x2 chooses the context channels and runs the full retention entry into DEEP RETENTION. -/
  | modeReqDeepRetention (p : Path)
  /-- MODE_REQ_ACTIVE (R122): REQ 0x3 returns the device to ACTIVE from SELF-REFRESH, DEEP RETENTION or SAFE. -/
  | modeReqActive (p : Path) (env : ExitEnv)
  /-- MODE_REQ_SHUTDOWN (R123): REQ 0x4 writes back, commits pending MRAM writes, enters SELF-REFRESH and sets SHUTDOWN_DONE. -/
  | modeReqShutdown (p : Path)
  /-- MODE_REQ_SHUTDOWN_TEST (R124): REQ 0x5 commits MRAM writes and enters SHUTDOWN-TEST. -/
  | modeReqShutdownTest (p : Path)
  /-- CH_REQ_DRAIN (R115): CH_STATE REQ DRAIN stops admission to the channel and starts the drain. -/
  | chReqDrain (p : Path) (c : Fin 32)
  /-- CH_REQ_RESUME (R115): REQ RESUME returns a QUIESCED or DRAINING channel to ONLINE and admits held requests. -/
  | chReqResume (p : Path) (c : Fin 32)
  /-- CH_REQ_RETRAIN (R115): REQ RETRAIN moves a QUIESCED channel to RETRAINING and starts a channel retrain. -/
  | chReqRetrain (p : Path) (c : Fin 32)
  /-- CH_REQ_OFFLINE (R115): REQ OFFLINE moves a QUIESCED channel to OFFLINE. -/
  | chReqOffline (p : Path) (c : Fin 32)
  /-- CH_REQ_RECOVER (R256): REQ RECOVER writes back FENCED slots, poisons lost rows and moves the channel to QUIESCED. -/
  | chReqRecover (p : Path) (c : Fin 32)
  /-- CH_REQ_RETIRE (R117): REQ RETIRE starts the CH_RETIRE ledger write. -/
  | chReqRetire (p : Path) (c : Fin 32)
  /-- DRAIN_COMPLETE (R243): Every admitted request of a draining channel is answered and every slot is EMPTY; the channel becomes QUIESCED. -/
  | drainComplete (c : Fin 32)
  /-- HELD_REQUEST_TIMEOUT (R114): A request held 20 us without its channel becoming ONLINE is answered UNAVAILABLE. -/
  | heldRequestTimeout (m : Fin 12) (tag : BitVec 14)
  /-- DRAIN_PIN_ABORT (R243): A program still running 50 us after DRAIN is aborted with code DRAIN. -/
  | drainPinAbort (c : Fin 32)
  /-- LEDGER_WRITE_DONE (R427): A repair-ledger write ends committed, or fails its check or its 2 ms bound. -/
  | ledgerWriteDone (ok : Bool)
  /-- SB_DETECT_TIMEOUT (R152): An 8 ms sideband detection attempt lapses and SB_DETECT restarts. -/
  | sbDetectTimeout (m : Fin 12)
  /-- SIDEBAND_UP (R133): A module's sideband comes up and serves Kyohus register messages. -/
  | sidebandUp (m : Fin 12)
  /-- SIDEBAND_LINK_FAIL (R133): A sideband fails its link management and the module is excluded with SB_LOST. -/
  | sidebandLinkFail (m : Fin 12)
  /-- MB_STAGE_TIMEOUT (R152): MB_INIT or MB_TRAIN exceeds 8 ms and the attempt ends in TRAIN_ERROR. -/
  | mbStageTimeout (m : Fin 12)
  /-- MAINBAND_TRAINING_DONE (R135): Mainband training passes the link-speed check, stepping the rate down as needed, and the module reaches LOCKED. -/
  | mainbandTrainingDone (m : Fin 12) (env : LinkEnv)
  /-- TRAIN_ERROR_RESTART (R132): After 100 us in TRAIN_ERROR the mainband restarts at MB_INIT. -/
  | trainErrorRestart (m : Fin 12)
  /-- MODULE_TRAIN_DEADLINE (R134): A module not ACTIVE 16 ms into step 8, or after 4 attempts, is excluded with TRAIN_FAIL. -/
  | moduleTrainDeadline (m : Fin 12)
  /-- KY_CAP (R136): A partner's KY_CAP is received; the version is checked and KY_PARTNER is set. -/
  | kyCap (m : Fin 12) (d : BitVec 64)
  /-- KY_CAP_TIMEOUT (R136): No KY_CAP arrives within 1 ms; transport 1.0 is assumed and KY_PARTNER is cleared. -/
  | kyCapTimeout (m : Fin 12)
  /-- REG_RD (R138): A sideband register read is served and answered by one REG_CPL. -/
  | regRd (m : Fin 12) (d : BitVec 64)
  /-- REG_WR (R138): A sideband register write is served and answered by one REG_CPL. -/
  | regWr (m : Fin 12) (d : BitVec 64)
  /-- EQ_SET (R142): A partner's EQ_SET applies its taps when allowed, and is otherwise answered IGNORED. -/
  | eqSet (m : Fin 12) (d : BitVec 64)
  /-- EQ_GET (R142): A partner's EQ_GET is answered with EQ_RSP giving the taps in force. -/
  | eqGet (m : Fin 12)
  /-- KY_LPBK (R150): A partner's KY_LPBK start or stop begins an echo loopback or ends the loopback running. -/
  | kyLpbk (m : Fin 12) (d : BitVec 64)
  /-- KY_LPBK_RSP (R150): A partner's KY_LPBK_RSP starts a far-end check, or ends it with PARTNER_REFUSED. -/
  | kyLpbkRsp (m : Fin 12) (status : BitVec 4)
  /-- KY_LPBK_RSP_TIMEOUT (R150): No KY_LPBK_RSP arrives within 1 ms and the loopback ends with PARTNER_REFUSED. -/
  | kyLpbkRspTimeout (m : Fin 12)
  /-- PARTNER_L1_REQUEST (R129): A partner requests L1 while the module is ACTIVE and the device refuses. -/
  | partnerL1Request (m : Fin 12)
  /-- PRIMARY_SB_LOSS_TIMEOUT (R140): The primary's sideband stays down 8 ms and the primary role passes to another module. -/
  | primarySbLossTimeout
  /-- FLIT_CRC_FAIL (R143): A received flit fails link-layer CRC and is counted; reaching RETRY_THRESH starts a retrain. -/
  | flitCrcFail (m : LostFlit)
  /-- RETRY_EXHAUSTED (R143): Link-layer retry fails 8 times in a row for one flit and a retrain starts. -/
  | retryExhausted (m : Fin 12)
  /-- RETRAIN_END (R143): A retrain ends after lane repair or a rate step, and the module returns to ACTIVE. -/
  | retrainEnd (m : Fin 12) (env : LinkEnv)
  /-- RETRAIN_TIMEOUT (R152): A retrain overruns its bound and steps the rate or excludes the module with LINK_FAIL. -/
  | retrainTimeout (m : Fin 12)
  /-- L1_EXIT_TIMEOUT (R152): A module does not leave L1 within 2 us and is excluded with LINK_FAIL. -/
  | l1ExitTimeout (m : Fin 12)
  /-- RETRAIN_REQ (R143): UCI_CTL.RETRAIN_REQ starts a retrain at MAX_RATE in force. -/
  | retrainReq (p : Path) (m : Fin 12) (w : BitVec 32)
  /-- COMMIT (R153): UCI_CTL.COMMIT applies the module's pending shadows without a retrain. -/
  | commitModule (p : Path) (m : Fin 12) (w : BitVec 32)
  /-- MAKE_PRIMARY (R140): UCI_CTL.MAKE_PRIMARY moves the primary role once the old primary's accepted accesses complete. -/
  | makePrimary (p : Path) (m : Fin 12) (w : BitVec 32)
  /-- EXCLUDE (R146): UCI_CTL.EXCLUDE starts the orderly exclusion drain of a module. -/
  | excludeModule (p : Path) (m : Fin 12) (w : BitVec 32)
  /-- FORCE_EXCLUDE (R146): UCI_CTL.FORCE_EXCLUDE excludes a module at once, discarding unsent responses. -/
  | forceExclude (p : Path) (m : Fin 12) (w : BitVec 32)
  /-- INCLUDE (R147): UCI_CTL.INCLUDE retrains an excluded module and returns it to ACTIVE. -/
  | includeModule (p : Path) (m : Fin 12) (w : BitVec 32)
  /-- EXCLUSION_DRAIN_END (R146): Every response of a draining module is sent and acknowledged; the module becomes EXCLUDED. -/
  | exclusionDrainEnd (m : Fin 12)
  /-- EXCLUSION_DRAIN_TIMEOUT (R146): The drain lapses after 60 us; remaining responses are discarded and the module is excluded. -/
  | exclusionDrainTimeout (m : Fin 12)
  /-- LPBK_START (R149): UCI_LPBK_CTL.START begins a loopback on an excluded module. -/
  | lpbkStart (p : Path) (m : Fin 12) (w : BitVec 32)
  /-- LPBK_STOP (R150): UCI_LPBK_CTL.STOP ends the running loopback and sets its result. -/
  | lpbkStop (p : Path) (m : Fin 12) (w : BitVec 32)
  /-- LOOPBACK_DURATION_END (R149): The loopback's DURATION lapses; results are set and the module returns to EXCLUDED. -/
  | loopbackDurationEnd (m : Fin 12) (lanes : BitVec 64) (errors : Nat)
  /-- RD (R177): An RD message is accepted, checked and given a device entry or an answer. -/
  | rd (m : Fin 12) (cell : Fin 15) (h : BitVec 128)
  /-- WR (R182): A WR message is accepted and checked, and writes one sector with its metadata. -/
  | wr (m : Fin 12) (cell : Fin 15) (h : BitVec 128) (data : BitVec 512)
  /-- WR_PART (R184): A WR_PART message is accepted and merges its enabled bytes into the stored sector. -/
  | wrPart (m : Fin 12) (cell : Fin 15) (h : BitVec 128) (data : BitVec 512) (be : BitVec 64)
  /-- WR_ZERO (R182): A WR_ZERO message is accepted and stores a zero sector with its TAG. -/
  | wrZero (m : Fin 12) (cell : Fin 15) (h : BitVec 128)
  /-- FENCE (R181): A FENCE message holds the performance of later requests of its scope until earlier ones are answered. -/
  | fence (m : Fin 12) (cell : Fin 15) (h : BitVec 128)
  /-- CREDIT (R167): A requester's CREDIT cell initialises or adds to the device's RSP and CTL counters. -/
  | credit (m : Fin 12) (cell : Fin 15) (h : BitVec 128)
  /-- CFG_RD (R173): A CTL register read is served ahead of REQ traffic and answered by CFG_CPL. -/
  | cfgRd (m : Fin 12) (cell : Fin 15) (h : BitVec 128)
  /-- CFG_WR (R173): A CTL register write applies within 200 ns and is answered by CFG_CPL. -/
  | cfgWr (m : Fin 12) (cell : Fin 15) (h : BitVec 128)
  /-- REQ_CREDIT_RETURN (R170): Freed REQ ingress cells are returned to the requester in CREDIT cells within 40 ns. -/
  | reqCreditReturn (m : Fin 12)
  /-- RESPONSE_TRANSMIT (R189): A formed response leaves its module's egress once RSP credit and an ACTIVE link allow. -/
  | responseTransmit (m : Fin 12)
  /-- REQUEST_DEADLINE (R188): A transaction has no response 50 us after acceptance and is answered TIMEOUT. -/
  | requestDeadline (m : Fin 12) (tag : BitVec 14)
  /-- XPT_INJ_ARM (R193): A write setting XPT_INJ_CTL.ARM arms transport answer injection. -/
  | xptInjArm (p : Path) (w : BitVec 32)
  /-- FLOW_CTX_WORD0_WRITE (R197): A write of context word 0 lands in the flow's shadow. -/
  | flowCtxWord0Write (p : Path) (f : BitVec 12) (w : BitVec 32)
  /-- FLOW_CTX_WORD1_WRITE (R197): A write of context word 1 lands in the flow's shadow. -/
  | flowCtxWord1Write (p : Path) (f : BitVec 12) (w : BitVec 32)
  /-- FLOW_CTX_WORD2_WRITE (R197): A write of context word 2 lands in the shadow and arms it. -/
  | flowCtxWord2Write (p : Path) (f : BitVec 12) (w : BitVec 32)
  /-- QOS_WINDOW_BOUNDARY (R202): The 1 us QoS boundary counts misses, computes D, applies and admits shadows, scales and refills buckets. -/
  | qosWindowBoundary
  /-- REQUEST_CLASSIFY (R201): The fabric takes a request from the module strait and classifies it against the cap and guarantee buckets. -/
  | requestClassify (m : Fin 12) (tag : BitVec 14)
  /-- URG_WIRE_CHANGE (R206): An URG wire level is taken after three agreeing samples. -/
  | urgWireChange (level : BitVec 8)
  /-- URG_STUCK_TIMEOUT (R206): An URG wire stays asserted beyond STUCK_MS and is treated as deasserted. -/
  | urgStuckTimeout (w : Fin 8)
  /-- FLOOR_RECOMPUTE (R211): Firmware recomputes QOS_FLOOR after a change in its inputs. -/
  | floorRecompute
  /-- QOS_THROTTLE_WRITE (R219): A write of HOST_STEP brings a new throttle step into force within 200 ns. -/
  | qosThrottleWrite (p : Path) (w : BitVec 32)
  /-- QOS_FENCE_GO (R220): QOS_FENCE.GO starts a device-wide fence. -/
  | qosFenceGo (p : Path)
  /-- BULK_STARVE_PROMOTE (R209): A bulk excess request reaches STARVE_US of age and moves into tier 2. -/
  | bulkStarvePromote (m : Fin 12) (tag : BitVec 14)
  /-- SCHEDULER_TAKE_UP (R229): The channel scheduler takes up a request and chooses a hit, a sector cycle or a promotion. -/
  | schedulerTakeUp (m : Fin 12) (tag : BitVec 14)
  /-- LAGOON_HIT (R222): A request to a resident row is served through a column port. -/
  | lagoonHit (m : Fin 12) (tag : BitVec 14)
  /-- SECTOR_CYCLE (R235): A request to a non-resident row is served by segment activation, transfer and precharge. -/
  | sectorCycle (m : Fin 12) (tag : BitVec 14)
  /-- VERTICAL_CYCLE_SCHEDULE (R236): Each row-move period the channel fills its vertical cycle from the highest claim that can use it. -/
  | verticalCycleSchedule (c : Fin 32)
  /-- MOVE_IN_TRANSFER_END (R529): A move-in's transfer ends and the promoting read is answered from the sector buffer. -/
  | moveInTransferEnd (c : Fin 32) (s : Fin 64)
  /-- MOVE_IN_DONE (R228): The row is written into the slot 10 ns after transfer and the slot becomes CLEAN. -/
  | moveInDone (c : Fin 32) (s : Fin 64)
  /-- MOVE_OUT_PRECHARGE (R228): A move-out issues its precharge; the slot becomes CLEAN, DIRTY or EMPTY. -/
  | moveOutPrecharge (c : Fin 32) (s : Fin 64)
  /-- HIST_DECAY (R230): Once per HIST_DECAY every history count halves. -/
  | histDecay (c : Fin 32)
  /-- ZERO_FILL_COMPLETE (R249): The last zero-fill move-out precharges; the extent is marked written and the triggering write proceeds. -/
  | zeroFillComplete (c : Fin 32)
  /-- REFRESH_INTERVAL_TICK (R373): A channel's refresh-interval tick brings four banks' refresh due and applies channel shadows. -/
  | refreshIntervalTick (c : Fin 32)
  /-- PER_BANK_REFRESH_ISSUE (R242): Once the close move-outs have precharged and the bank is free, its refresh is issued. -/
  | perBankRefreshIssue (c : Fin 32) (b : Fin 128)
  /-- PER_BANK_REFRESH_END (R242): A per-bank refresh ends after tRFCpb, the lap advances and promotions resume. -/
  | perBankRefreshEnd (c : Fin 32) (b : Fin 128)
  /-- GLB_DIE_RST_GO (R251): GLB_DIE_RST.GO puts a die's banks into self-refresh and resets its logic. -/
  | glbDieRstGo (p : Path) (d : Fin 16)
  /-- DIE_RESET_READY (R251): The reset die reports ready; banks leave self-refresh and RESULT is set. -/
  | dieResetReady
  /-- DIE_RESET_READY_TIMEOUT (R251): The die does not report ready within 5 us and its channels are fenced. -/
  | dieResetReadyTimeout
  /-- WRITEBACK_ALL (R258): LAG_CTL.WRITEBACK_ALL cleans every DIRTY slot of the channel. -/
  | writebackAll (p : Path) (c : Fin 32)
  /-- DISCARD_FENCED (R257): LAG_CTL.DISCARD_FENCED empties every FENCED slot and records its row in the lost list. -/
  | discardFenced (p : Path) (c : Fin 32)
  /-- LAG_ACTION_END (R258): A LAG_CTL action ends, BUSY clears and DONE is set. -/
  | lagActionEnd (c : Fin 32)
  /-- EXD_QDB_WRITE (R269): A doorbell write sets the queue's TAIL in force and makes descriptors pending. -/
  | exdQdbWrite (p : Path) (c : Fin 32) (q : Fin 8) (w : BitVec 32)
  /-- EXD_QCFG_WRITE (R268): A write of EXD_QCFG places a disabled queue's rings. -/
  | exdQcfgWrite (p : Path) (c : Fin 32) (q : Fin 8) (w : BitVec 32)
  /-- EXD_QCTL_EN_WRITE (R292): A write of EXD_QCTL.EN enables or disables a queue. -/
  | exdQctlEnWrite (p : Path) (c : Fin 32) (q : Fin 8) (en : Bool)
  /-- EXD_QCTL_ABORT (R289): EXD_QCTL.ABORT aborts the queue's running program and completes its pending descriptors. -/
  | exdQctlAbort (p : Path) (c : Fin 32) (q : Fin 8) (en : Bool)
  /-- EXD_QCTL_RESET_IDX (R292): RESET_IDX sets HEAD and TAIL to 0 and PHASE to 1. -/
  | exdQctlResetIdx (p : Path) (c : Fin 32) (q : Fin 8)
  /-- EXD_CTL_ABORT (R289): EXD_CTL.ABORT aborts the engine's running program. -/
  | exdCtlAbort (p : Path) (c : Fin 32)
  /-- DESCRIPTOR_READ (R274): An idle engine chooses a queue, reads descriptor HEAD, advances HEAD and checks it. -/
  | descriptorRead (c : Fin 32)
  /-- PROGRAM_FETCH_DONE (R274): The program is in the store; machine state is set and execution starts at PC 0. -/
  | programFetchDone (c : Fin 32)
  /-- COMPLETION_RECORD_WRITTEN (R271): The completion record write is performed or lost; EXD_LAST and COMPLETION are updated. -/
  | completionRecordWritten (c : Fin 32)
  /-- EXDUN_BUDGET_LAPSE (R287): A program's budget lapses and the program ends with BUDGET. -/
  | exdunBudgetLapse (c : Fin 32)
  /-- INSTRUCTION_WAIT_END (R298): A waiting instruction's wait ends and it completes. -/
  | instructionWaitEnd (c : Fin 32)
  /-- NOP (R300): nop does nothing. -/
  | nop (c : Fin 32) (f : Fields)
  /-- HALT (R300): halt ends the program with DONE. -/
  | halt (c : Fin 32) (f : Fields)
  /-- BR (R301): br checks its target and branches when taken. -/
  | br (c : Fin 32) (f : Fields)
  /-- WAIT (R302): wait waits IMM ns of the time base. -/
  | wait (c : Fin 32) (f : Fields)
  /-- TIME (R302): time reads the time base into gD. -/
  | time (c : Fin 32) (f : Fields)
  /-- LI (R303): li loads a sign-extended immediate. -/
  | li (c : Fin 32) (f : Fields)
  /-- LIH (R303): lih loads the upper 32 bits of gD. -/
  | lih (c : Fin 32) (f : Fields)
  /-- MOV (R303): mov copies gA to gD. -/
  | mov (c : Fin 32) (f : Fields)
  /-- ADD (R303): add adds two registers. -/
  | add (c : Fin 32) (f : Fields)
  /-- SUB (R303): sub subtracts two registers. -/
  | sub (c : Fin 32) (f : Fields)
  /-- ADDI (R303): addi adds a signed immediate. -/
  | addi (c : Fin 32) (f : Fields)
  /-- AND (R303): and ANDs two registers. -/
  | and (c : Fin 32) (f : Fields)
  /-- OR (R303): or ORs two registers. -/
  | or (c : Fin 32) (f : Fields)
  /-- XOR (R303): xor XORs two registers. -/
  | xor (c : Fin 32) (f : Fields)
  /-- SHL (R303): shl shifts left by IMM[5:0]. -/
  | shl (c : Fin 32) (f : Fields)
  /-- SHR (R303): shr shifts right logically by IMM[5:0]. -/
  | shr (c : Fin 32) (f : Fields)
  /-- CTZ (R303): ctz counts trailing zero bits. -/
  | ctz (c : Fin 32) (f : Fields)
  /-- POPC (R303): popc counts one bits. -/
  | popc (c : Fin 32) (f : Fields)
  /-- MUL (R303): mul writes the low 64 bits of a product. -/
  | mul (c : Fin 32) (f : Fields)
  /-- CMP (R304): cmp writes a predicate from a register comparison. -/
  | cmp (c : Fin 32) (f : Fields)
  /-- CMPI (R304): cmpi writes a predicate from a comparison with an immediate. -/
  | cmpi (c : Fin 32) (f : Fields)
  /-- ST_RD (R303): st.rd copies ST to gD. -/
  | stRd (c : Fin 32) (f : Fields)
  /-- ST_CLR (R305): st.clr clears selected ST bits. -/
  | stClr (c : Fin 32) (f : Fields)
  /-- LD_CFG (R306): ld.cfg makes one register read on the engine's path. -/
  | ldCfg (c : Fin 32) (f : Fields)
  /-- ST_CFG (R306): st.cfg makes one register write on the engine's path. -/
  | stCfg (c : Fin 32) (f : Fields)
  /-- ROW_LOAD (R309): row.load pins a row in a slot and binds a handle to it. -/
  | rowLoad (c : Fin 32) (f : Fields)
  /-- ROW_CLAIM (R310): row.claim pins a row without move-in and makes it 32 zero sectors. -/
  | rowClaim (c : Fin 32) (f : Fields)
  /-- ROW_REL (R311): row.rel releases the pin-table entries of selected handles. -/
  | rowRel (c : Fin 32) (f : Fields)
  /-- ROW_WB (R311): row.wb writes back a DIRTY pinned slot and leaves it open. -/
  | rowWb (c : Fin 32) (f : Fields)
  /-- ROW_LOC (R308): row.loc returns the locator of a handle's row. -/
  | rowLoc (c : Fin 32) (f : Fields)
  /-- SLOT_LDW (R312): slot.ldw decodes a sector and reads one word or its metadata. -/
  | slotLdw (c : Fin 32) (f : Fields)
  /-- SLOT_STW (R312): slot.stw merges one word or the metadata into a sector of a slot. -/
  | slotStw (c : Fin 32) (f : Fields)
  /-- ROW_COPY (R313): row.copy copies selected sectors between slots. -/
  | rowCopy (c : Fin 32) (f : Fields)
  /-- ROW_FILL (R313): row.fill fills selected sectors with a repeated word. -/
  | rowFill (c : Fin 32) (f : Fields)
  /-- ROW_ZERO (R313): row.zero zeroes selected sectors. -/
  | rowZero (c : Fin 32) (f : Fields)
  /-- ROW_BIT (R313): row.bit applies a bitwise operation to selected sectors. -/
  | rowBit (c : Fin 32) (f : Fields)
  /-- ROW_CMP (R315): row.cmp builds a match mask of sector keys. -/
  | rowCmp (c : Fin 32) (f : Fields)
  /-- ROW_POPC (R316): row.popc counts one bits in selected sectors. -/
  | rowPopc (c : Fin 32) (f : Fields)
  /-- ROW_CRC (R316): row.crc computes CRC-32C over selected sectors. -/
  | rowCrc (c : Fin 32) (f : Fields)
  /-- ROW_FERRY (R317): row.ferry copies a whole row to a row of another channel. -/
  | rowFerry (c : Fin 32) (f : Fields)
  /-- SEC_RDRAW (R320): sec.rdraw reads a sector's stored symbols into g7-g15. -/
  | secRdraw (c : Fin 32) (f : Fields)
  /-- SEC_WRRAW (R320): sec.wrraw writes or inverts chosen stored symbols of a sector. -/
  | secWrraw (c : Fin 32) (f : Fields)
  /-- REP_RETIRE (R324): rep.retire retires an addressable row through a ledger entry. -/
  | repRetire (c : Fin 32) (f : Fields)
  /-- REP_ROW (R324): rep.row copies a row to a free spare row and switches to it. -/
  | repRow (c : Fin 32) (f : Fields)
  /-- REP_COL (R325): rep.col walks a bank to bring a spare sector-column into use. -/
  | repCol (c : Fin 32) (f : Fields)
  /-- REP_COL_WALK_STEP (R325): One walk step of rep.col moves a row through the scrub buffer into the spare column. -/
  | repColWalkStep (c : Fin 32)
  /-- REF_ROW (R323): ref.row refreshes a row or its targeted-refresh neighbours. -/
  | refRow (c : Fin 32) (f : Fields)
  /-- EXT_INIT (R326): ext.init zero-fills an extent, or with CLEAR marks it unwritten. -/
  | extInit (c : Fin 32) (f : Fields)
  /-- VP_SPARE (R327): vp.spare replaces a conductor with its group's spare, or returns it to use. -/
  | vpSpare (c : Fin 32) (f : Fields)
  /-- VP_CHK (R327): vp.chk runs PRBS-31 cycles over one spare group of one layer. -/
  | vpChk (c : Fin 32) (f : Fields) (seen : BitVec 64)
  /-- VP_PT (R327): vp.pt sets one edge's sample-delay code of a conductor. -/
  | vpPt (c : Fin 32) (f : Fields)
  /-- STAT_RES (R328): stat.res reports whether and where a row is resident. -/
  | statRes (c : Fin 32) (f : Fields)
  /-- STAT_ACT (R328): stat.act reports a row's tracker count. -/
  | statAct (c : Fin 32) (f : Fields)
  /-- TST_WR (R329): tst.wr writes a raw test pattern to a row. -/
  | tstWr (c : Fin 32) (f : Fields)
  /-- TST_RD (R330): tst.rd reads a row and compares it with a test pattern. -/
  | tstRd (c : Fin 32) (f : Fields)
  /-- FIRMWARE_INSTRUCTION (R331): An opcode 0xF0-0xFF runs on q7 only and ends other programs with CLASS. -/
  | firmwareInstruction (c : Fin 32) (op : BitVec 8) (f : Fields)
  /-- RESERVED_OPCODE (R299): An instruction whose OPCODE is reserved issues and ends its program with exception ILLEGAL. -/
  | reservedOpcode (c : Fin 32) (op : BitVec 8) (f : Fields)
  /-- SCRUB_POINTER_ADVANCE (R350): The scrub pointer advances as scrub time allows, passing ineligible positions. -/
  | scrubPointerAdvance (c : Fin 32) (dt : Nat)
  /-- SCRUB_VISIT (R353): In an idle cycle the scrubber decodes every sector of a row and rewrites what it corrects or poisons. -/
  | scrubVisit (c : Fin 32)
  /-- SCRUB_LAP_OVERDUE (R352): A lap's scrub time reaches 9/8 of LAP_TARGET before it ends and LAP_OVERDUE is set. -/
  | scrubLapOverdue (c : Fin 32)
  /-- PRIORITY_SCRUB_VISIT (R354): A row from the priority scrub queue is visited in an idle cycle. -/
  | priorityScrubVisit (c : Fin 32)
  /-- LOG_SPILL_WRITE (R359): A correction-log entry beyond 128 is written to the spill ring. -/
  | logSpillWrite (c : Fin 32)
  /-- ECC_EXT_LOOKUP (R348): A write of ECC_EXT.EXTENT looks up whether the extent is written. -/
  | eccExtLookup (p : Path) (c : Fin 32) (w : BitVec 32)
  /-- ECC_INJ_ARM (R369): A write setting ECC_INJ_CTL.ARM arms check-symbol injection for host writes. -/
  | eccInjArm (p : Path) (c : Fin 32) (w : BitVec 32)
  /-- DIE_SELF_REFRESH (R384): A core die in self-refresh refreshes a bank on its own oscillator. -/
  | dieSelfRefresh (d : Fin 16) (b : Fin 256)
  /-- GLB_FPOINT_NEXT_WRITE (R387): A write of GLB_FPOINT_NEXT.NEXT sets the frequency point of the next exit when records allow. -/
  | glbFpointNextWrite (p : Path) (w : BitVec 32)
  /-- CAL_RUN_RAIL (R398): CAL_CTL RUN with KIND RAIL trims the six rail monitors. -/
  | calRunRail (p : Path)
  /-- CAL_RUN_SENSOR (R398): CAL_CTL RUN with KIND SENSOR computes sensor offsets under an installer session. -/
  | calRunSensor (p : Path)
  /-- CAL_RUN_COMMIT (R396): CAL_CTL RUN with KIND COMMIT commits every pending calibration record. -/
  | calRunCommit (p : Path)
  /-- CAL_RUN_END (R398): A calibration run ends and sets CAL_LAST, CAL_COUNT and POLL_SUMMARY.CAL. -/
  | calRunEnd (env : CalEnv)
  /-- CAL_RECORD_COMMIT (R395): Firmware writes a pending record to the slot not in force. -/
  | calRecordCommit (i : Fin 26)
  /-- CAL_COMMIT_DONE (R395): A commit's read-back check passes and the new slot comes into force, or it fails with CAL_WRITE. -/
  | calCommitDone (i : Fin 26) (ok : Bool)
  /-- CAL_COMMIT_TIMEOUT (R395): A commit does not finish within 20 ms and CAL_WRITE is raised. -/
  | calCommitTimeout (i : Fin 26)
  /-- DRIFT_RUN_START (R400): Firmware drains and retrains a channel whose drift run is due. -/
  | driftRunStart (c : Fin 32)
  /-- SUSPECT_CHECK (R403): Firmware checks suspect conductors with vp.chk and spares those that err. -/
  | suspectCheck (c : Fin 32) (err : BitVec 5)
  /-- VPT_PROBE_LOOKUP (R404): A write of VPT_PROBE.COND or EDGE looks up a conductor's code and window. -/
  | vptProbeLookup (p : Path) (c : Fin 32) (w : BitVec 32)
  /-- SENSOR_SAMPLE (R408): A die's sensors are converted, and estimate, distrust and throttle steps update. -/
  | sensorSample (d : Fin 17) (raw : List (BitVec 10))
  /-- BACKSTOP_TRIP (R421): A backstop comparator trips, drives THERMTRIP_N and brings the device into FATAL. -/
  | backstopTrip (d : Fin 17)
  /-- SHARE_LAPSE (R419): A manager share not renewed within 20 ms lapses and FALLBACK caps power. -/
  | shareLapse
  /-- THROTTLE_HOLD_EXPIRE (R443): The 10 ms THROTTLE hold after an event source's raise ends. -/
  | throttleHoldExpire (n : Fin 256)
  /-- LDG_REMOVE (R431): CAL_LDG_CTL REMOVE frees a ledger position. -/
  | ldgRemove (p : Path) (w : BitVec 32)
  /-- LDG_FUSE (R431): CAL_LDG_CTL FUSE programs a fuse record from a spare entry and removes the entry. -/
  | ldgFuse (p : Path) (w : BitVec 32)
  /-- LDG_RECORD_COND (R431): CAL_LDG_CTL RECORD_COND writes a COND_SPARE entry for a spared conductor. -/
  | ldgRecordCond (p : Path) (w : BitVec 32)
  /-- LEDGER_ACTION_END (R431): A ledger action ends, BUSY clears and RESULT is set. -/
  | ledgerActionEnd (ok : Bool)
  /-- FUSE_CANCEL (R432): CAL_FUSE_CTL CANCEL blows a fuse record's CANCEL bit. -/
  | fuseCancel (p : Path) (w : BitVec 32)
  /-- FUSE_CANCEL_END (R432): A CANCEL ends, BUSY clears and RESULT is set. -/
  | fuseCancelEnd (ok : Bool)
  /-- CAL_LDG_IDX_LOOKUP (R441): A write of CAL_LDG_IDX.INDEX loads the ledger entry at that position. -/
  | calLdgIdxLookup (p : Path) (w : BitVec 32)
  /-- CAL_TST_IDX_LOOKUP (R441): A write of CAL_TST_IDX.INDEX loads a test record. -/
  | calTstIdxLookup (p : Path) (w : BitVec 32)
  /-- CAL_FUSE_LOOKUP (R441): A write of CAL_FUSE_CTL.RECORD loads a fuse record. -/
  | calFuseLookup (p : Path) (w : BitVec 32)
  /-- TIER_TEST_START (R434): With its permit, firmware tests a tier's rows and conductors in SHUTDOWN-TEST. -/
  | tierTestStart (t : Fin 4) (found : List TestFind)
  /-- TEST_PERMIT_TIMEOUT (R433): A test permit not granted within 5 s is taken as granted. -/
  | testPermitTimeout
  /-- WEAR_SAMPLE (R439): Once per 1 ms a boundary temperature is taken and half-cycles are counted. -/
  | wearSample (b : Fin 4)
  /-- WEAR_CHECK (R440): At its level's interval firmware checks the conductors crossing a worn boundary. -/
  | wearCheck (c : Fin 32) (err : List (Fin 8960))
  /-- WEAR_RECORD_WRITE (R439): INDEX and HALF_CYCLES are written to MRAM once per hour. -/
  | wearRecordWrite
  /-- FLT_STICKY_CLEAR (R447): A W1C write clears sticky bits whose sources are not live or raised. -/
  | fltStickyClear (p : Path) (r : Fin 8) (w : BitVec 32) (again : List (Fin 32 × BitVec 32))
  /-- FLT_INJ_GO (R457): FLT_INJ.GO raises a source and optionally takes its reaction. -/
  | fltInjGo (p : Path) (w : BitVec 32)
  /-- FLT_DUMP_CTL_WRITE (R455): A write of FLT_DUMP_CTL selects a dump block and starts filling the window. -/
  | fltDumpCtlWrite (p : Path) (w : BitVec 32)
  /-- FLT_DUMP_WINDOW_FILLED (R455): The window holds the selected block and VALID and STATUS are set. -/
  | fltDumpWindowFilled
  /-- FLT_DUMP_CFG_WRITE (R458): A write of FLT_DUMP_CFG sets the dump channels when they lie in different tiers. -/
  | fltDumpCfgWrite (p : Path) (w : BitVec 32)
  /-- MGMT_HEARTBEAT (R462): A management core's heartbeat updates its epoch, and the arbiter decides the token. -/
  | mgmtHeartbeat (h : Half) (claim : Bool)
  /-- HEARTBEAT_LAPSE (R460): A half's heartbeat lapses after 10 ms and FW_WATCHDOG is raised. -/
  | heartbeatLapse (h : Half)
  /-- AUTH_ASSIGN (R463): A write of AUTH_ASSIGN gives the token to a half with a current heartbeat. -/
  | authAssign (p : Path) (w : BitVec 32)
  /-- CWY_HEARTBEAT (R467): A HEARTBEAT frame is received; shares, roles and time alignment update and it is forwarded. -/
  | cwyHeartbeat (src : BitVec 4) (payload : List (BitVec 8))
  /-- CWY_STATUS (R467): A STATUS frame is received and recorded in CWY_STACKs. -/
  | cwyStatus (src : BitVec 4) (payload : List (BitVec 8))
  /-- CWY_ANNOUNCE (R470): An ANNOUNCE frame is received; a takeover is recorded and the manager yields to a higher epoch. -/
  | cwyAnnounce (src : BitVec 4) (payload : List (BitVec 8))
  /-- CWY_PERMIT_REQ (R476): The manager receives a PERMIT_REQ and grants it when concurrency allows. -/
  | cwyPermitReq (dst src : BitVec 4) (kind tier : BitVec 8)
  /-- CWY_PERMIT (R433): A worker receives a PERMIT and starts the permitted work. -/
  | cwyPermit (dst src : BitVec 4) (kind tier : BitVec 8)
  /-- CWY_PERMIT_DONE (R476): The manager receives PERMIT_DONE and ends the permit. -/
  | cwyPermitDone (dst src : BitVec 4) (kind tier : BitVec 8)
  /-- CWY_FRAME_CUTOFF (R465): A frame not ended 1 us after its start is cut off and discarded. -/
  | cwyFrameCutoff
  /-- CWY_LINK_DOWN (R466): The Causeway sees no character for 10 us or too many code errors and goes down. -/
  | cwyLinkDown
  /-- CWY_LINK_UP (R466): After 100 us of clean idle characters the Causeway is up. -/
  | cwyLinkUp
  /-- CWY_HEARTBEAT_SEND (R467): Every 1 ms the manager computes shares and sends a HEARTBEAT. -/
  | cwyHeartbeatSend
  /-- CWY_STATUS_SEND (R467): Every 1 ms each stack sends its STATUS. -/
  | cwyStatusSend
  /-- MGR_LISTEN_END (R469): After 5 ms of listening a MGR_EN stack becomes manager or worker. -/
  | mgrListenEnd
  /-- MGR_TAKEOVER_TIMEOUT (R470): A capable worker hearing no HEARTBEAT for its timeout announces and becomes manager. -/
  | mgrTakeoverTimeout
  /-- STACK_ABSENT (R472): A stack not heard for 5 ms becomes absent. -/
  | stackAbsent (k : Fin 16)
  /-- RESIGN (R471): CWY_CFG.RESIGN makes a manager a worker. -/
  | resign (p : Path) (w : BitVec 32)
  /-- TEST_PERMIT_EXPIRY (R476): A test permit ends 2 s after its grant. -/
  | testPermitExpiry (k : Fin 16)
  /-- FWU_GO (R479): AUTH_FWU_CTL.GO starts a firmware update through its steps. -/
  | fwuGo (p : Path) (w : BitVec 32) (image : ImageCheck)
  /-- FWU_BOOT_TIMEOUT (R479): The restarted core presents no heartbeat within 100 ms and the update fails. -/
  | fwuBootTimeout
  /-- LC_ADVANCE (R482): LC_CTL.ADVANCE requests a life-cycle transition and blows its fuses. -/
  | lcAdvance (p : Path) (w : BitVec 32)
  /-- LC_TRANSITION_END (R482): The fuse read-back ends and the new state comes into force or FUSE_WRITE is raised. -/
  | lcTransitionEnd (bits : BitVec 5)
  /-- LC_CHALLENGE (R486): LC_SESS_CTL.CHALLENGE draws a nonce. -/
  | lcChallenge (p : Path) (w : BitVec 32)
  /-- LC_OPEN (R486): LC_SESS_CTL.OPEN compares the response and opens a session or counts a failure. -/
  | lcOpen (p : Path) (w : BitVec 32)
  /-- LC_CLOSE (R489): LC_SESS_CTL.CLOSE on the bound path ends the session. -/
  | lcClose (p : Path) (w : BitVec 32)
  /-- NONCE_LAPSE (R486): A nonce lapses 1 s after it is drawn. -/
  | nonceLapse
  /-- SESSION_IDLE_EXPIRY (R489): A session ends after IDLE_S seconds without an accepted access. -/
  | sessionIdleExpiry
  /-- LC_STRAP_OVR_WRITE (R491): A write of LC_STRAP_OVR with EN replaces the strap values at the next tick. -/
  | lcStrapOvrWrite (p : Path) (w : BitVec 32)
  /-- LC_TRN_OVR_WRITE (R492): A write of LC_TRN_OVR stores training overrides for the next BRING-UP. -/
  | lcTrnOvrWrite (p : Path) (w : BitVec 32)
  /-- LC_AUD_LOOKUP (R494): A write of LC_AUD_IDX.INDEX loads an audit entry. -/
  | lcAudLookup (p : Path) (w : BitVec 32)
  /-- OBS_FREEZE (R500): OBS_CTL.FREEZE stops or restarts every counter at instant T. -/
  | obsFreeze (p : Path) (w : BitVec 32)
  /-- OBS_SNAP (R500): OBS_CTL.SNAP copies every counter into the snapshot bank at instant T. -/
  | obsSnap (p : Path) (w : BitVec 32)
  /-- OBS_CLEAR (R500): OBS_CTL.CLEAR zeroes every counter at instant T. -/
  | obsClear (p : Path) (w : BitVec 32)
  /-- OBS_CONTROL_INSTANT (R500): Instant T, 100 ns after an OBS_CTL write, arrives and the freeze, snapshot or clear takes effect. -/
  | obsControlInstant
  /-- TAG_ENABLE (R502): Setting OBS_TAG_CFG.EN seeds each module's LFSR and starts tagging. -/
  | tagEnable (p : Path) (w : BitVec 32)
  /-- TAG_RECORD_WRITE (R503): A tagged request's record is written to its channel's tag ring in an idle cycle. -/
  | tagRecordWrite (c : Fin 32)
  /-- TRACE_START (R505): OBS_TRC_CTL.START starts the trace at position 0. -/
  | traceStart (p : Path) (w : BitVec 32)
  /-- TRACE_STOP (R505): OBS_TRC_CTL.STOP stops the trace. -/
  | traceStop (p : Path) (w : BitVec 32)
  /-- TRACE_POST_TRIGGER_STOP (R505): POST x 256 entries after the trigger are written and the trace stops. -/
  | tracePostTriggerStop
  /-- TRACE_EXPORT (R506): OBS_TRC_CTL.EXPORT writes the trace image to the host area. -/
  | traceExport (p : Path) (w : BitVec 32)
  /-- TRACE_EXPORT_END (R506): The export ends and EXP_VALID is set. -/
  | traceExportEnd
  /-- TRACE_WINDOW_READ (R506): A write of OBS_TRC_RD.POS copies a trace entry into the window. -/
  | traceWindowRead (p : Path) (w : BitVec 32)
  /-- TRACE_MARK (R504): A write of OBS_TRC_MARK writes a KIND 0x0C entry. -/
  | traceMark (p : Path) (w : BitVec 32)
  /-- CORE_PLL_RELOCK (R39): A core PLL that lost lock regains it before 2 us have passed, so no fatal fault follows and the PLL_LOCK condition ends. -/
  | corePllRelock (h : Half)
  /-- CORE_DIE_RESET_RELEASE (R251): After the 2 us hold of step 2 of the core-die reset, the base die releases the die's logic reset and waits for it to report ready. -/
  | coreDieResetRelease
  /-- MRAM_WRITE_END (R444): An MRAM write of an audit entry, correction summary, wear record or fatal summary ends in its read-back, or overruns 20 ms and raises MRAM_WRITE. -/
  | mramWriteEnd (kind : MramKind) (ok : Bool)
  /-- SIDEBAND_MESSAGE_DISCARD (R138): A sideband message failing parity, lacking its data or carrying an unknown KIND is discarded without an answer and counted in SB_DISCARD. -/
  | sidebandMessageDiscard (m : Fin 12)
  /-- CAUSEWAY_FRAME_DISCARD (R465): A Causeway frame with a bad CRC, an unknown TYPE or a wrong length is discarded and counted in DISCARDS. -/
  | causewayFrameDiscard
  deriving DecidableEq, Repr

end Sys2Proof
end

