-- ==== Sys2Proof/Machine/State.lean ====
section
/-!
DEFINITION. The state of the Avtil A16 as plain data: the registers, and what the manual gives the device beside them,
chapter by chapter; the reasons a step can stop; and the state of the part before power-up (`State.reset`).
-/
namespace Sys2Proof.Machine

/-- The reasons a step faults. None is used: no command of the block ends in a fault. -/
inductive Fault where
  /-- Raised by no command; it stands so that the type is closed. Safe. -/
  | unused
  deriving DecidableEq, Repr

/-- The reasons a step refuses a command. -/
inductive Refusal where
  /-- A command without a meaning yet. Safe: nothing is said of it. -/
  | notModelled (mnemonic : String)
  /-- FIRMWARE_INSTRUCTION on q7: the manual gives opcodes 0xF0-0xFF to firmware and does not say what they do (R331).
  Safe: the model stops where the device goes on. -/
  | firmwareInternal
  deriving DecidableEq, Repr

/-- A message, or a completion of a register access, that left the device. -/
inductive Out where
  | regCpl (m : Nat) (seq : Nat) (st : Status) (data : Word)
  | kyCap (m data : Nat)
  | eqRsp (m : Nat) (st : Status) (pre main post : Nat)
  | kyLpbk (m : Nat) (start : Bool) (duration rate : Nat)
  | kyLpbkRsp (m : Nat) (st : Status)
  | credit (m : Nat) (init : Bool) (ctl rsp req : Nat)
  | rdData (m : Nat) (tag : Nat) (st : Status) (corr zero late lagoon : Bool) (metaByte : Nat) (data : Sector)
  | ack (m : Nat) (tag : Nat) (st : Status) (late : Bool) (retryAfter : Nat)
  | cfgCpl (m : Nat) (tag : Nat) (st : Status) (data : Word)
  | access (path : PathNum) (addr : Nat) (write : Bool) (st : Status) (data : Word)
  | frame (bytes : List Nat)
  deriving DecidableEq, Repr

/-- What stays the same for the life of a part (GLB_REV, GLB_CAP, R94): its grade, usable modules and revisions. -/
structure Part where
  maxRate : Nat
  usable : Nat
  baseMinor : Nat
  coreMinor : Nat
  deriving DecidableEq, Repr

/-- The shadow of a register with staged fields: the word written and the path it came on (R73, R76). -/
structure Shadow where
  word : Word
  path : PathNum
  deriving DecidableEq, Repr

/-- The shadow of a flow context: words 0 to 2, armed by a write of word 2, the path of that write (R197). -/
structure FlowShadow where
  w0 : Word
  w1 : Word
  w2 : Word
  armed : Bool
  path : PathNum
  deriving DecidableEq, Repr

/-- How the completion of a register access leaves: REG_CPL with a SEQ, CFG_CPL with a tag, or to its maker. -/
inductive Answer where
  | sideband (m seq : Nat)
  | ctl (m tag : Nat)
  | engine
  | direct
  deriving DecidableEq, Repr

/-- A register access that has not completed: a RESET_REQ write during its island reset (R53), or one whose island
reset or strait lost it. -/
structure HeldAccess where
  path : PathNum
  addr : Nat
  write : Bool
  answer : Answer
  island : Nat
  deriving DecidableEq, Repr

/-- A strait: the entries waiting with their words, parity bits and owners, and the credits its source holds (R47). -/
structure StraitEntry where
  words : List Word
  parity : List Bool
  owner : Owner
  /-- its owner's tag has been freed: nothing is answered for it any more (R161) -/
  mute : Bool
  deriving DecidableEq, Repr

/-- One strait of the table Strait classes (R50); `used` counts the credits the source has spent. -/
structure Strait where
  entries : List StraitEntry
  used : Nat
  deriving DecidableEq, Repr

/-- A rail monitor: the previous sample and the lengths of the running violations and implausible runs (R56, R57). -/
structure Rail where
  prev : Option Nat
  below : Nat
  above : Nat
  impl : Nat
  deriving DecidableEq, Repr

/-- The pins as taken, and the straps and locks the always-on island holds. -/
structure Pins where
  pwrok : Bool
  rstN : Bool
  refclk : Bool
  thermtrip : Bool
  lockWest : Bool
  lockEast : Bool
  muxEast : Bool
  stackId : Nat
  mgrEn : Bool
  mgrCapable : Bool
  strapsBad : Bool
  /-- the last sample of the URG wires and the one before it (R206) -/
  urgRaw : Nat
  urgOld : Nat
  deriving DecidableEq, Repr

/-- A running loopback (R149, R150). -/
structure Lpbk where
  mode : Nat
  rate : Nat
  /-- waiting for the partner's KY_LPBK_RSP -/
  waiting : Bool
  deriving DecidableEq, Repr

/-- Where a REQ transaction stands between its acceptance and its response. -/
inductive TxnStage where
  | accepted
  | capWait
  | held (since : Nat)
  | queued
  | hit
  | sector
  /-- its row is to be promoted in a vertical cycle (R229, R236) -/
  | promoting
  /-- its promotion was refused by a refresh close: a sector cycle serves it after the refresh (R245) -/
  | afterRefresh
  | moveIn (slot : Nat)
  | waitFill
  | injTimeout
  | fence
  deriving DecidableEq, Repr

/-- What a WR_PART's sector read and merge left in the sector buffer: the data and metadata to write, and whether the
sector was poisoned (R239). -/
structure Merge where
  data : Sector
  metaByte : Nat
  poison : Bool
  deriving DecidableEq, Repr

/-- A REQ transaction the device holds (R162). `pre` marks those a running device-wide fence waits for (R220);
`answered` one whose deadline answered it while the channel still works on it (R188). -/
structure Txn where
  m : Nat
  tag : Nat
  op : ReqOp
  addr : Nat
  metaByte : Nat
  metaEn : Bool
  flow : Nat
  urg : Nat
  data : Sector
  be : BitVec 64
  t0 : Nat
  stage : TxnStage
  guaranteed : Bool
  starved : Bool
  inject : Bool
  pre : Bool
  launched : Bool
  answered : Bool
  /-- its row was retired when it came to a channel that admits no request: it waits for its RETIRED (R363) -/
  rowRetired : Bool
  /-- a WR_PART between its two sector cycles (R239) -/
  merged : Option Merge
  /-- its module was excluded since: its tag is free again and its response is discarded (R146, R161) -/
  orphan : Bool
  /-- it waited for a move-in of its row that has ended since: such accesses go in the order of their arrival (R245) -/
  filled : Bool
  deriving DecidableEq, Repr

/-- A REQ message whose cells wait in the ingress buffer of its module (R219): the transaction it spells, PRIVREQ as taken,
its cell, its size in cells, and whether the module was in service when it arrived (R148). -/
structure Waiting where
  txn : Txn
  priv : Bool
  cell : Nat
  size : Nat
  served : Bool
  deriving DecidableEq, Repr

/-- A module: its stage and sideband, the credit counters of both ends (R166), its egress and its windows. -/
structure Mod where
  stage : Stage
  sbUp : Bool
  /-- the device's INIT has been sent, a valid requester INIT has been taken (R167) -/
  initOut : Bool
  initIn : Bool
  /-- REQ and CTL cells the requester has spent and not had back; REQ cells freed and not yet returned (R170) -/
  reqUsed : Nat
  reqFreed : Nat
  ctlUsed : Nat
  /-- RSP and CTL cells the requester grants the device; none is unlimited (R167) -/
  rspCredit : Option Nat
  ctlCredit : Option Nat
  egress : List Out
  ctlOut : List Out
  /-- flits that failed CRC in the present 1 ms window, with the window's number (R143) -/
  crcWin : Nat
  crcCount : Nat
  /-- protocol errors in the present 1 ms window (R192) -/
  perrWin : Nat
  perrCount : Nat
  /-- the cell and the moment of an error that discards the rest of its flit, until a message of the next flit arrives
  (R191, R192) -/
  skip : Option (Nat × Nat)
  /-- messages that wait in the ingress buffer, and the REQ cells admitted in a window of 16 module-island cycles, with the
  window's number (R219) -/
  ingress : List Waiting
  admWin : Nat
  admCount : Nat
  /-- the training that runs was started by INCLUDE (R147); the retrain that runs by RETRAIN_REQ (R143) -/
  including : Bool
  lpbk : Option Lpbk
  deriving DecidableEq, Repr

/-- A Lagoon slot: its state, the locator of its row, REDIRTY, the time of its last access, its 32 stored sectors
and the snapshot of a running move-out (R226 to R228). -/
structure Slot where
  state : SlotState
  loc : Nat
  redirty : Bool
  last : Nat
  data : Store Code
  snap : Store Code
  deriving DecidableEq, Repr

/-- A zero-fill in progress: how many of its 16 move-outs are launched (R249). -/
structure Fill where
  extent : Nat
  launched : Nat
  deriving DecidableEq, Repr

/-- The walk of a rep.col: the bank, the sector-column and the spare that is to replace it, the physical rows walked, and
when the last step was (R325). -/
structure Walk where
  gbi : Nat
  sector : Nat
  spare : Nat
  rows : Nat
  lastStep : Nat
  deriving DecidableEq, Repr

/-- The phases of an engine (EXD_STS.STATE, R292). -/
inductive EngPhase where
  | idle | reading | fetching | running | ending
  deriving DecidableEq, Repr

/-- A set of ring indices of a queue (R269, R272, R528). -/
structure QSet where
  head : Nat
  tail : Nat
  phase : Bool
  deriving DecidableEq, Repr

/-- A descriptor as read (table Descriptor). -/
structure Desc where
  version : Nat
  test : Bool
  flow : Nat
  userId : Nat
  progOff : Nat
  progLen : Nat
  budget : Nat
  args : List Nat
  deriving DecidableEq, Repr

/-- An access or an operation of an engine, or of the trace export, that waits in a channel's scheduler (R275, R284,
R506). -/
structure Want where
  loc : Nat
  /-- a request, counted in the row's score (R229) -/
  request : Bool
  flow : Nat
  t0 : Nat
  /-- a close has refused its promotion (R245) -/
  refused : Bool
  /-- its read has launched the row's move-in: whether the transfer has ended (R529) -/
  moveIn : Option Bool
  /-- it waited for a move-in that has ended since (R245) -/
  filled : Bool
  /-- the row that it is to activate, and the units of the activation -/
  act : Option (Nat × Nat)
  /-- it waits for a column port -/
  port : Bool
  deriving DecidableEq, Repr

/-- A descriptor that an ABORT of its queue is still to read and complete (R289); `moves` says that its read moves HEAD. -/
structure Abort where
  queue : Nat
  index : Nat
  phase : Bool
  proxy : Bool
  moves : Bool
  deriving DecidableEq, Repr

/-- A completion record waiting to be written, with the flow its write is ranked with (R271, R284). -/
structure Record where
  flow : Nat
  status : Nat
  code : Nat
  queue : Nat
  index : Nat
  phase : Bool
  proxy : Bool
  fetched : Bool
  userId : Nat
  r0 : Nat
  r1 : Nat
  time : Nat
  endPc : Nat
  pred : Nat
  poison : Bool
  corr : Bool
  deriving DecidableEq, Repr

/-- A row that row.ferry has launched towards another channel: the destination, the row carried, gD (R317). -/
structure Ferry where
  loc : Nat
  row : Store Code
  dst : Nat
  deriving DecidableEq, Repr

/-- An Exdun engine: its machine state (table Machine state, R259), the program it runs and its queues' indices. -/
structure Eng where
  phase : EngPhase
  queue : Nat
  index : Nat
  qphase : Bool
  proxy : Bool
  desc : Desc
  g : Vector Word64 16
  h : Vector (Option (Fin 16)) 8
  pins : Vector (Option Nat) 16
  p : BitVec 4
  pc : Nat
  st : Word
  store : List Word64
  /-- channel and offset of the program held, while valid (R260) -/
  storeCh : Nat
  storeOff : Nat
  storeValid : Bool
  fetched : Bool
  /-- the program's sectors read so far, each with its poison (R274) -/
  got : List (Sector × Bool)
  /-- a parity error stands in the instruction store (R276, R286) -/
  storeBad : Bool
  /-- the time base at the issue of the first instruction (R287) -/
  start : Nat
  /-- time an instruction that waits was issued, and the time base value a `wait` ends at -/
  waiting : Option Nat
  /-- steps of a walk or an extent action done so far by the running instruction -/
  progress : Nat
  /-- the walk of a running rep.col (R325) -/
  walk : Option Walk
  /-- what the engine waits for in schedulers (R229, R284) -/
  wants : List Want
  /-- descriptors that an ABORT is still to complete, oldest first (R289) -/
  aborts : List Abort
  /-- the end of the ledger write that the running instruction waits for -/
  ledger : Option Bool
  /-- a ferry whose move-out at the destination is launched -/
  ferry : Option Ferry
  /-- the extent a running ext.init with CLEAR waits to clear, and since when (R326) -/
  clearing : Option (Nat × Nat)
  /-- records waiting to be written, oldest first (R271) -/
  records : List Record
  nextRR : Nat
  own : Vector QSet 8
  prx : Vector QSet 8
  deriving DecidableEq, Repr

/-- An activation-tracker entry of a bank: the physical index it follows, none while empty, and its count (R379). -/
structure TrkEntry where
  row : Option Nat
  count : Nat
  deriving DecidableEq, Repr

/-- A position the scrubber tracks across laps (R355, R361). -/
structure Position where
  loc : Nat
  sector : Nat
  symbol : Nat
  laps : Nat
  lastLap : Nat
  deriving DecidableEq, Repr

/-- The scrubber of a channel and its records: the pointer, the scrub time of the lap in ns, the number of the lap and
whether it has been set overdue, the priority queue, the tracked positions, the scrub buffer (R349 to R361). -/
structure Scrub where
  pointer : Nat
  time : Nat
  lap : Nat
  overdue : Bool
  queue : List Nat
  positions : List Position
  /-- banks in which a lane and symbol (lane x 64 + symbol) was corrected in this lap, as a mask (R355) -/
  suspects : Store Nat
  /-- the scrub buffer: the row it holds, corrected, until its move-out, and that row's sectors (R248) -/
  buffer : Option Nat
  bufData : Store Code
  /-- a row that native row action moves to a spare, with the spare row's number, until the switch (R324, R362) -/
  sparing : Option (Nat × Nat)
  deriving DecidableEq, Repr

/-- The correction log of a channel: entries oldest first, each eight words, and the next sequence number (R356 to
R359). -/
structure CorrLog where
  entries : List (List Word)
  seq : Nat
  deriving DecidableEq, Repr

/-- The refresh of a channel: the tick number and time, the banks due with the pinned slots that their close has cleaned, banks
in refresh, lap positions, the times since which the channel temperature has been low enough for Bands A and B, the
tracker tables, banks whose lap wrapped in self-refresh, ticks that fell in an island reset and are still to be issued
(R375), and banks whose lowest tracker count reached TRK_THRESH in the present lap (R242, R372 to R386). -/
structure Refresh where
  tick : Nat
  tickAt : Nat
  due : List (Nat × List Nat)
  busy : List Nat
  lap : Store Nat
  lowA : Option Nat
  lowB : Option Nat
  trackers : Store (List TrkEntry)
  wrapped : List Nat
  owed : Nat
  sat : List Nat
  deriving DecidableEq, Repr

/-- A run of a channel in progress (R398). -/
inductive ChRun where
  | retrain | drift
  deriving DecidableEq, Repr

/-- The vertical path of a channel: codes that vp.pt set until the next run, by payload offset of R393; window widths of
the last sweep; the conductor each spare group replaces; the run in progress; a drift run started by firmware that
still drains; the end of the last run (R391 to R403). -/
structure Vpt where
  codes : Store (Option Nat)
  windows : Store Nat
  spares : Store (Option Nat)
  run : Option ChRun
  drift : Bool
  /-- the suspect check marked the channel DUE (R403) -/
  mark : Bool
  lastRun : Option Nat
  deriving DecidableEq, Repr

/-- A channel: its state, Lagoon, history table (most recently used row first), fills, the time of the last vertical
cycle, the slots that a running LAG_CTL action has still to clean, refresh, extents, integrity, training and engine. -/
structure Chan where
  st : ChState
  drainAt : Option Nat
  slots : Store Slot
  hist : List (Nat × Nat)
  fills : List Fill
  lastVc : Nat
  /-- upsets that the scheduler has still to find, as the UNIT bits of CH_SCHED: slot state, tracker, queue (R445, log entry
  33) -/
  upset : Nat
  lagAct : Option (List Nat)
  /-- a RECOVER that waits for the reset of a core die to end (R251, R256, R385) -/
  recovering : Bool
  /-- firmware has still to restore its fields after a reset of its island (R478) -/
  toRestore : Bool
  /-- slots that the scrubber holds (R227) -/
  held : List Nat
  /-- the row-move period in which an activation last waited for budget (R240) -/
  stallAt : Option Nat
  /-- when the history counts last halved (R230) -/
  histAt : Nat
  /-- the valid-extent map in its two copies, and the parity bit of each 64-bit word of each copy (R344) -/
  extents : Store Bool
  extentsB : Store Bool
  parityA : Store Bool
  parityB : Store Bool
  refresh : Refresh
  scrub : Scrub
  log : CorrLog
  vpt : Vpt
  eng : Eng
  deriving DecidableEq, Repr

/-- Row and sector-column repairs in force, rows retired, and spares in use since RESET (R424). -/
structure Repairs where
  /-- locator of a repaired row to the locator of its spare row -/
  rows : Store (Option Nat)
  /-- global bank and spare sector-column to the sector-column it replaces -/
  cols : Store (Option Nat)
  retired : Store Bool
  /-- spares taken since RESET, and those that applied fuse records use -/
  used : Store Bool
  fused : Store Bool
  deriving DecidableEq, Repr

/-- A core-die reset in progress and its step (R251). -/
structure DieReset where
  die : Nat
  step : Nat
  deriving DecidableEq, Repr

/-- What a BRING-UP in progress still needs (R110): its environment, its start, the step it waits at, and the tiers whose
run of step 7 a fence has ended, as a mask (R402). -/
structure BringUp where
  env : BringUpEnv
  start : Nat
  waiting : Nat
  fenced : Nat
  /-- FORCE_FULL of the training override as it stood when the BRING-UP began (R492) -/
  force : Bool
  deriving DecidableEq, Repr

/-- What is kept for an exit from SELF-REFRESH or DEEP RETENTION: the channel states at entry, and the saved fields, queue
indices, maps and trackers (R118 to R122). -/
structure Retained where
  states : List ChState
  regs : Store Word
  queues : List (List QSet × List QSet)
  maps : List (Store Bool)
  trackers : List (Store (List TrkEntry))
  deriving DecidableEq, Repr

/-- Entry into FATAL: the mode before, whether injected, the time of entry, the time base then, the channels that were
usable for a copy as a mask, the writer, and the summary (R451 to R454). -/
structure Fatal where
  before : Mode
  injected : Bool
  entered : Nat
  base : Word64
  usable : Nat
  writing : Bool
  summary : List Byte
  deriving DecidableEq, Repr

/-- The fault collector beside its registers: THROTTLE holds by source (R443) and the two fatal-summary slots (R454). -/
structure Collector where
  holds : Store (Option Nat)
  fatal : Option Fatal
  summaries : List (List Byte)
  deriving DecidableEq, Repr

/-- The life-cycle fuses and keys, and the record fuses (R364, R481, R484). -/
structure Fuses where
  life : Nat
  installerKey : Option (List Byte)
  makerKey : Option (List Byte)
  /-- the key under which a firmware image carries its tag (R479) -/
  imageKey : List Byte
  records : Store Word64
  deriving DecidableEq, Repr

/-- A ledger entry as its eight words (R426). -/
abbrev Words := List Word

/-- Why an entry is written to the ledger: what its commit or failure brings about (R427). -/
inductive LedgerFor where
  | chRetire (c : Nat)
  | repRetire (c loc : Nat)
  | repRow (c spare : Nat)
  | repCol (c spare : Nat)
  | nativeRetire (loc : Nat)
  | nativeSpare (loc : Nat)
  | conductor
  deriving DecidableEq, Repr

/-- A ledger write that waits for its end: TYPE, SOURCE, TARGET and SPARE of its entry (R426). -/
structure LedgerJob where
  type : Nat
  source : Nat
  target : Nat
  spare : Nat
  why : LedgerFor
  deriving DecidableEq, Repr

/-- An accepted action of CAL_LDG_CTL (R431). -/
structure LedgerAct where
  action : Nat
  index : Nat
  ch : Nat
  cond : Nat
  deriving DecidableEq, Repr

/-- A slot of a calibration record (R393): its six header words (KIND, record and FORMAT; GEN; the payload's length; the
run's temperature; the commit's time in two words, held as one number), the payload by byte, and the check word, held as
what it differs by from the CRC-32C of the bytes before it: 0 when it matches. -/
structure CalSlot where
  head : Nat
  gen : Nat
  len : Nat
  temp : Nat
  time : Nat
  payload : Store Nat
  diff : Nat
  deriving DecidableEq, Repr

/-- The two slots of a calibration record. -/
structure CalRec where
  slotA : Option CalSlot
  slotB : Option CalSlot
  deriving DecidableEq, Repr

/-- The MRAM beside the registers: the repair ledger and the writes that wait, the calibration store with its commits in
progress (R393 to R396), test records (R436), the audit ring (R493), the registers' values that MRAM saves (R360, R439,
R441), records being written, firmware images (R479). -/
structure Mram where
  ledger : Store (Option Words)
  ledgerJobs : List LedgerJob
  ledgerAct : Option LedgerAct
  fuseCancel : Option Nat
  cal : Store CalRec
  calWrite : Store (Option CalSlot)
  /-- time of a record's last commit, and the temperature of the run whose results are pending -/
  calAt : Store (Option Nat)
  calTemp : Store Nat
  tests : List Words
  audit : Store Words
  auditWait : List Words
  auditSeq : Nat
  /-- sessions that RESET, DEEP RETENTION, FATAL or R483 ended, to be logged later (R493), oldest first: role, path and the
  time base of the end -/
  endedSession : List (Nat × PathNum × Word64)
  saved : Store Word
  summaryWrite : Option (Store Word)
  summaryAt : Option Nat
  wearWrite : Option (Store Word)
  wearAt : Option Nat
  imageB : Bool
  fwMajor : Nat
  fwMinor : Nat
  /-- the version of the image in the slot that is not in force, none while that slot is marked invalid (R479) -/
  fwOther : Option (Nat × Nat)
  deriving DecidableEq, Repr

/-- Activation-budget units charged: when, for which channel, to which die (R240, R410). -/
structure Charge where
  at_ : Nat
  chan : Nat
  die : Nat
  units : Nat
  deriving DecidableEq, Repr

/-- Heat and power beside their registers (R405 to R419): the sensors' last plausible values with their times, distrust
runs and tripping samples in a row by die, readings over time by die, when a die last was within 3 °C of its limit or
rose at the rate, when the thermal step last rose, last changed and last rose for rate, the last share. -/
structure Thermal where
  last : Store (Option (Nat × Nat))
  distrust : Store Nat
  trips : Store Nat
  history : Store (List (Nat × Nat))
  hotAt : Option Nat
  rateAt : Option Nat
  riseAt : Option Nat
  changeAt : Option Nat
  rateRiseAt : Option Nat
  shareAt : Option Nat
  charges : List Charge
  /-- the channel of each tier that last took of what the others leave unspent of the budget (R240) -/
  spareTaker : Store Nat
  deriving DecidableEq, Repr

/-- Wear of a boundary: the reference, the extreme and the direction, none before the first sample (R439). -/
structure Wear where
  ref : Nat
  ext : Nat
  up : Bool
  deriving DecidableEq, Repr

/-- Where a firmware update stands between its steps (table Firmware update, R479). -/
inductive FwuPhase where
  | permit | firstBoot | move | lastBoot
  deriving DecidableEq, Repr

/-- A firmware update that runs: since when it stands where it does, and the new image's version. -/
structure Fwu where
  phase : FwuPhase
  since : Nat
  major : Nat
  minor : Nat
  deriving DecidableEq, Repr

/-- Authority: the time of each half's last heartbeat, its heartbeats in a row that carried CLAIM 1 since the token
last moved, and a firmware update (R459 to R463, R479). -/
structure Auth where
  beatW : Option Nat
  beatE : Option Nat
  claimsW : Nat
  claimsE : Nat
  fwu : Option Fwu
  deriving DecidableEq, Repr

/-- A stack as the manager knows it from its STATUS: when it was last heard, DEMAND, FALLBACK, CHANGE_SEQ; `known` once
it has been heard (R467, R472 to R474). -/
structure Peer where
  known : Bool
  heard : Nat
  demand : Nat
  fallback : Nat
  seq : Nat
  deriving DecidableEq, Repr

/-- A permit asked for: the stack, KIND and tier (R476, R479). -/
structure Permit where
  stack : Nat
  kind : Nat
  tier : Nat
  deriving DecidableEq, Repr

/-- The Causeway: since when it listens, the last EPOCH heard or held, when a HEARTBEAT or ANNOUNCE was last heard, peers
by STACK_ID, permits waiting and granted with their time, when this stack last asked for one, the payload last sent of each type, the one stack whose
HEARTBEATs have been heard and since when, and the counts the time base has still to add or skip (R464 to R476). -/
structure Cwy where
  listening : Option Nat
  epoch : Nat
  lastBeat : Nat
  peers : Store Peer
  waiting : List Permit
  granted : List (Permit × Nat)
  askedAt : Nat
  sent : Store (List Nat)
  sole : Nat
  soleSince : Nat
  slew : Int
  slewAcc : Nat
  deriving DecidableEq, Repr

/-- Sessions (R485 to R489): the nonce and its time, the role and path bound, and what the time base read at the last
accepted access. -/
structure Life where
  nonce : Option Nat
  nonceRole : Nat
  session : Nat
  sessPath : PathNum
  lastUse : Nat
  fails : Nat
  lockout : Bool
  resp : Store Word
  /-- the fuse bits a transition in progress blows, and the role and path that asked for it (R482, R493) -/
  pendingBits : Nat
  pendingBy : Nat × PathNum
  /-- a strap override is in force (R491) -/
  override : Bool
  deriving DecidableEq, Repr

/-- What an instant T of the observation controls will do, with the time base at T (R500). -/
structure ObsInstant where
  due : Nat
  freeze : Option Bool
  snap : Bool
  clear : Bool
  deriving DecidableEq, Repr

/-- What a step gives observation: an event that counters may count, by channel or globally, with the module and flow
of its request (R497, R498); a trace entry (R504); the stop of the trace by FATAL (R505). -/
inductive ObsEv where
  | count (chan : Option Nat) (event n : Nat) (m flow : Option Nat)
  | entry (time kind arg data : Nat)
  | fatal
  deriving DecidableEq, Repr

/-- A tagged request and what its record holds so far (R503): deltas in ns from `t0`, none before a stage is reached. -/
structure TagRec where
  m : Nat
  tag : Nat
  kind : Nat
  flow : Nat
  addr : Nat
  t0 : Nat
  /-- time base at acceptance -/
  base : Nat
  ch : Nat
  dFabric : Option Nat
  dChannel : Option Nat
  dGrant : Option Nat
  dDone : Option Nat
  dRsp : Option Nat
  dSent : Option Nat
  status : Nat
  served : Nat
  guar : Bool
  late : Bool
  urg : Nat
  due : Bool
  deriving DecidableEq, Repr

/-- A trace export that runs: its channel, its offset in 4 KiB units, the sectors written so far, the trace buffer as it
stood when the export was accepted, and what its next write waits for (R506). -/
structure Export where
  chan : Nat
  offset : Nat
  next : Nat
  trace : Store Words
  wants : List Want
  deriving DecidableEq, Repr

/-- Observation beside its registers: what the running step gives it (none between steps), pending instants, the tag
LFSRs, tagged requests, the trace, the entries left after a trigger, a running export, and what follows (R497 to R506). -/
structure Obs where
  events : List ObsEv
  instants : List ObsInstant
  lfsr : Store Word
  tags : List TagRec
  trace : Store Words
  postLeft : Option Nat
  exporting : Option Export
  /-- the time base up to which the counters have counted -/
  counted : Nat
  /-- when the last snapshot was taken, and the counters written in the present cycle with its time (R500) -/
  snapAt : Option Nat
  written : List (Nat × Option Nat × Nat)
  /-- entries in the queue of the trace buffer at the time `fifoAt`, and entries lost since the last one written (R505) -/
  fifo : Nat
  fifoAt : Nat
  lost : Nat
  deriving DecidableEq, Repr

/-- The state of the device. -/
structure State where
  /-- commands waiting, first in first out -/
  pending : List Instr
  /-- messages that left the device, oldest first -/
  out : List Out
  /-- free values used so far -/
  free : Nat
  part : Part
  /-- time in ns since RST_N last rose (R60), the time base, and the accumulator of R64 -/
  now : Nat
  timeBase : Word64
  ppmAcc : Nat
  mode : Mode
  regs : Store Word
  shadows : Store (Option Shadow)
  flowShadows : Store (Option FlowShadow)
  /-- high words held for a path (R63, R85), high words latched for a path (R62, R85), hold registers (R87) -/
  holders : Store (Option Word)
  latches : Store (Option Word)
  popHold : Store Word
  heldAccesses : List HeldAccess
  /-- firmware's copies of the channel blocks' fields, taken at an island reset (R478) -/
  fieldCopies : Store Word
  pins : Pins
  straits : Store Strait
  rails : Store Rail
  mods : Vector Mod 12
  primary : Option Nat
  /-- the module that becomes primary once the old primary's accepted accesses have completed (R140) -/
  primaryNext : Option Nat
  txns : List Txn
  /-- time the device-wide fence started (R220) -/
  qosFence : Option Nat
  /-- guarantee and cap buckets, demand and served counts, by 2 x flow + half (R199, R200, R218) -/
  guar : Store Nat
  caps : Store Nat
  demand : Store Nat
  served : Store Nat
  urgSince : Store (Option Nat)
  floorStale : Bool
  chans : Vector Chan 32
  /-- the array by physical row and column; unlisted places hold what the manual does not state, apart from zero-filled
  service rows (log entry 4): a number for the contents since the last RESET, and the channels not yet zero-filled (R35) -/
  array : Store (Option Code)
  salt : Nat
  unfilled : Nat
  /-- entries into DEEP RETENTION that wrote rows 52 and 53 of a channel (key 2 x channel) and its rows 60 to 63 (the next
  key), since the last RESET: the device's own layout leaves what these rows then hold unstated (R118) -/
  ctxWrites : Store Nat
  /-- channels whose rows the shutdown test left with pattern 0b100, with the repairs then in force (table Tier test) -/
  patterned : Store (Option Repairs)
  repairs : Repairs
  /-- halves whose islands stopped when the loss of their core PLL's lock had lasted more than 2 µs (R39), as a mask -/
  stopped : Nat
  /-- islands whose reset by RESET_REQ runs (R53), as a mask -/
  resetting : Nat
  /-- dies that entered self-refresh on their own when their spine stopped (R46), as a mask -/
  ownSelf : Nat
  dieReset : Option DieReset
  bringUp : Option BringUp
  retained : Option Retained
  coll : Collector
  fuses : Fuses
  mram : Mram
  thermal : Thermal
  wear : Vector (Option Wear) 4
  /-- the calibration values in force by record (R393), and the run of CAL_CTL in progress: its KIND,
  and whether a commit of it failed (R398) -/
  calNow : Store (Store Nat)
  calRun : Option (Nat × Bool)
  /-- the least window in codes, taken from LC_TRN_OVR at BRING-UP (R392, R492) -/
  minEye : Nat
  /-- a parity error in always-on state that has still to be found (R444, log entry 33) -/
  aonUpset : Bool
  /-- the records whose failure set CAL_STORE and that have not been committed since, as a mask (R397) -/
  calBad : Nat
  auth : Auth
  cwy : Cwy
  life : Life
  obs : Obs
  deriving DecidableEq, Repr

/-- An EMPTY slot; its tag reads 0x000C_0000 (R258). -/
def Slot.empty : Slot := ⟨.empty, 0x000C0000, false, 0, [], []⟩

/-- Ring indices at their start: HEAD and TAIL 0, phase 1 (R272, R528). -/
def QSet.start : QSet := ⟨0, 0, true⟩

/-- No descriptor. -/
def Desc.none : Desc := ⟨0, false, 0, 0, 0, 0, 0, []⟩

/-- An idle engine (R259). -/
def Eng.reset : Eng :=
  { phase := .idle, queue := 0, index := 0, qphase := true, proxy := false, desc := Desc.none,
    g := Vector.replicate 16 0, h := Vector.replicate 8 none, pins := Vector.replicate 16 none, p := 0, pc := 0,
    st := 0, store := [], storeCh := 0, storeOff := 0, storeValid := false, fetched := false, got := [], storeBad := false, start := 0, waiting := none,
    progress := 0, walk := none, wants := [], aborts := [], ledger := none, ferry := none, clearing := none, records := [], nextRR := 0,
    own := Vector.replicate 8 QSet.start,    prx := Vector.replicate 8 QSet.start }

/-- A channel at reset: OFFLINE (R116), nothing resident, nothing written. -/
def Chan.reset : Chan :=
  { st := .offline, drainAt := none, slots := [], hist := [], fills := [], lastVc := 0, upset := 0, lagAct := none,
    recovering := false, toRestore := false, held := [],
    stallAt := none, histAt := 0, extents := [], extentsB := [], parityA := [], parityB := [],
    refresh := ⟨0, 0, [], [], [], none, none, [], [], 0, []⟩,
    scrub := ⟨0, 0, 0, false, [], [], [], none, [], none⟩,
    log := ⟨[], 0⟩,
    vpt := ⟨[], [], [], none, false, false, none⟩,
    eng := Eng.reset }

/-- No stack heard, nothing sent. -/
def Peer.none : Peer := ⟨false, 0, 0, 0, 0⟩

/-- The Causeway at reset. -/
def Cwy.reset : Cwy := ⟨none, 0, 0, [], [], [], 0, [], 16, 0, 0, 0⟩

/-- A module at reset: stage RESET, no sideband, no credit. -/
def Mod.reset : Mod :=
  { stage := .reset, sbUp := false, initOut := false, initIn := false, reqUsed := 0, reqFreed := 0, ctlUsed := 0,
    rspCredit := some 0, ctlCredit := some 0, egress := [], ctlOut := [], crcWin := 0, crcCount := 0, perrWin := 0,
    perrCount := 0, skip := none, ingress := [], admWin := 0, admCount := 0, including := false, lpbk := none }

/-- The part before power-up: mode RESET, the pins low, every register at its reset value, the fuses and the MRAM as
the assumption log names them (log entries 7 and 8). -/
def State.reset : State :=
  { pending := [], out := [], free := 0, part := ⟨3, 0xFFF, 0, 0⟩, now := 0, timeBase := 0, ppmAcc := 0,
    mode := .reset, regs := [], shadows := [], flowShadows := [], holders := [], latches := [], popHold := [],
    heldAccesses := [], fieldCopies := [], pins := ⟨false, false, true, false, false, false, false, 0, false, false, false, 0, 0⟩,
    straits := [], rails := [], mods := Vector.replicate 12 Mod.reset, primary := none, primaryNext := none, txns := [], qosFence := none,
    guar := [], caps := [], demand := [], served := [], urgSince := [], floorStale := false,
    chans := Vector.replicate 32 Chan.reset, array := [], salt := 1, unfilled := 0xFFFFFFFF, ctxWrites := [],
    patterned := [], repairs := ⟨[], [], [], [], []⟩, stopped := 0, resetting := 0, ownSelf := 0, dieReset := none,
    bringUp := none, retained := none, coll := ⟨[], none, []⟩,
    fuses := ⟨3, some (List.replicate 32 0), some (List.replicate 32 0), List.replicate 32 0, []⟩,
    mram := { ledger := [], ledgerJobs := [], ledgerAct := none, fuseCancel := none, cal := [], calWrite := [],
              calAt := [], calTemp := [], tests := [], audit := [], auditWait := [], auditSeq := 0,
              endedSession := [], saved := [], summaryWrite := none, summaryAt := none, wearWrite := none,
              wearAt := none, imageB := false, fwMajor := 1, fwMinor := 0, fwOther := some (1, 0) },
    thermal := ⟨[], [], [], [], none, none, none, none, none, none, [], []⟩,
    wear := Vector.replicate 4 none, calNow := [], calRun := none, minEye := 8, aonUpset := false, calBad := 0,
    auth := ⟨none, none, 0, 0, none⟩, cwy := Cwy.reset,
    life := ⟨none, 0, 0, 0, 0, 0, false, [], 0, (0, 0), false⟩,
    obs := ⟨[], [], [], [], [], none, none, 0, none, [], 0, 0, 0⟩ }

end Sys2Proof.Machine
end

