-- ==== Sys2Proof/Machine/Ops.lean ====
section
/-!
DEFINITION. The named operations every meaning is written over: registers and their fields, channels and modules, time,
messages, free values, the fault record (R446), the summary latches (R95), row locators (R14) and addresses (R24).
-/
namespace Sys2Proof.Machine

/-! ### Registers -/

/-- The default limits of rail `k`, low and high in mV (table Rails, R55). -/
def railLimits (k : Nat) : Nat × Nat :=
  [(713, 788), (1140, 1260), (700, 850), (713, 788), (998, 1103), (1710, 1890)].getD k (0, 0)

/-- The offset of the East fabric's copy of a mirrored register (R101) in the register store. -/
def eastOffset : Nat := 0x1000000

/-- The word of a field list at reset. -/
def fieldsReset (l : List FieldSpec) : Nat := l.foldl (fun a f => putBits a f.hi f.lo f.rst) 0

/-- The reset value of the register at an address (column Reset, R71); what a table takes from elsewhere is taken from
the part, or named here. -/
def regReset (p : Part) (a : Nat) : Word :=
  match regAt (a % eastOffset) with
  | none => 0
  | some (r, u, i) =>
    let base := fieldsReset r.fields
    BitVec.ofNat 32 (match r with
      | .PWR_RAIL_LIM => (railLimits i).2 * 65536 + (railLimits i).1
      | .GLB_REV => putBits (putBits 0x10100000 27 24 p.baseMinor) 19 16 p.coreMinor
      | .GLB_CAP => putBits (putBits 0 27 16 p.usable) 5 4 p.maxRate
      | .UCI_CTL => putBits base 1 0 p.maxRate
      | .EXD_CFG => putBits base 20 16 (if u < 8 then 31 else 0)
      | .FLT_PINEN => pinenReset i
      | .GLB_ISL_CTL => if i = 52 ∨ i = 53 ∨ i = 54 then putBits base 9 8 1 else base
      | .LC_TRN_OVR => 8
      | _ => base)

/-- The register at an address. -/
def State.reg (s : State) (a : Nat) : Word := s.regs.get (regReset s.part) a

/-- The state with a register written. -/
def State.setReg (s : State) (a : Nat) (w : Word) : State := { s with regs := s.regs.set (regReset s.part) a w }

/-- A field of a register. -/
def State.fld (s : State) (f : Fld) : Nat := bitsOf (s.reg f.addr).toNat f.hi f.lo

/-- The state with a field written. -/
def State.setFld (s : State) (f : Fld) (v : Nat) : State :=
  s.setReg f.addr (BitVec.ofNat 32 (putBits (s.reg f.addr).toNat f.hi f.lo v))

/-- A field of one bit as a Bool. -/
def State.flag (s : State) (f : Fld) : Bool := s.fld f != 0

/-- The state with a field of one bit written. -/
def State.setFlag (s : State) (f : Fld) (b : Bool) : State := s.setFld f (b2n b)

/-- A saturating counter raised by `k` (R84). -/
def State.bump (s : State) (f : Fld) (k : Nat := 1) : State := s.setFld f (satAdd (f.hi + 1 - f.lo) (s.fld f) k)

/-- The East copy of a field of a mirrored register (R101). -/
def Fld.east (f : Fld) : Fld := { f with addr := f.addr + eastOffset }

/-- The copy of a field that a half holds. -/
def Fld.inHalf (f : Fld) (h : Half) : Fld := match h with | .west => f | .east => f.east

/-- A field written in both copies. -/
def State.setBoth (s : State) (f : Fld) (v : Nat) : State := (s.setFld f v).setFld f.east v

/-- A counter raised in both copies. -/
def State.bumpBoth (s : State) (f : Fld) (k : Nat := 1) : State := (s.bump f k).bump f.east k

/-! ### Channels, modules, halves -/

/-- Channel `c`. -/
def State.chan (s : State) (c : Nat) : Chan := s.chans[c]?.getD Chan.reset

/-- The state with channel `c` replaced. -/
def State.setChan (s : State) (c : Nat) (x : Chan) : State := { s with chans := s.chans.setIfInBounds c x }

/-- The state with channel `c` changed by `f`. -/
def State.modChan (s : State) (c : Nat) (f : Chan → Chan) : State := s.setChan c (f (s.chan c))

/-- Module `m`. -/
def State.mod (s : State) (m : Nat) : Mod := s.mods[m]?.getD Mod.reset

/-- The state with module `m` replaced. -/
def State.setMod (s : State) (m : Nat) (x : Mod) : State := { s with mods := s.mods.setIfInBounds m x }

/-- The state with module `m` changed by `f`. -/
def State.modMod (s : State) (m : Nat) (f : Mod → Mod) : State := s.setMod m (f (s.mod m))

/-- The state with the engine of channel `c` changed by `f`. -/
def State.modEng (s : State) (c : Nat) (f : Eng → Eng) : State :=
  s.modChan c fun x => { x with eng := f x.eng }

/-- The half of a channel (R21). -/
def halfOfChan (c : Nat) : Half := if c ≤ 15 then .west else .east

/-- The half of a module (R21). -/
def halfOfMod (m : Nat) : Half := if m ≤ 5 then .west else .east

/-- 0 for West, 1 for East. -/
def halfNum : Half → Nat
  | .west => 0
  | .east => 1

/-- The other half. -/
def halfOther : Half → Half
  | .west => .east
  | .east => .west

/-- The number of an access path (GLB_ACC_LAST.PATH, R98). -/
def pathNum : Path → PathNum
  | .sb m => m.val
  | .ctl _ _ => 12
  | .eng c _ => 16 + c.val
  | .fw .west => 48
  | .fw .east => 49

/-- The half whose fabric copy serves an access (R101). -/
def pathHalf : Path → Half
  | .sb m => halfOfMod m.val
  | .ctl m _ => halfOfMod m.val
  | .eng c _ => halfOfChan c.val
  | .fw h => h

/-- Folding a change of the state over the numbers below `n`. -/
def State.each (s : State) (n : Nat) (f : Nat → State → State) : State :=
  (List.range n).foldl (fun t i => f i t) s

/-! ### Time, messages, free values -/

/-- The counts that a slew of `e` still to do adds (below 0: skips) in `n` opportunities (R475). -/
def slewBy (e : Int) (n : Nat) : Int := if 0 ≤ e then min e n else max e (-(n : Int))

/-- What the time base gains in `k` edges of its clock: one count each, the extra counts of R64, and the one count in
1,000 that an alignment adds or skips (R475). -/
def State.gain (s : State) (k : Nat) : Int :=
  (k + (s.ppmAcc + k * s.fld F.GLB_TIME_CFG_SSC_PPM) / 1000000 : Nat) + slewBy s.cwy.slew ((s.cwy.slewAcc + k) / 1000)

/-- `k` edges of the time-base clock (R60, R64, R475). -/
def State.advance (s : State) (k : Nat) : State :=
  let acc := s.ppmAcc + k * s.fld F.GLB_TIME_CFG_SSC_PPM
  let sa := s.cwy.slewAcc + k
  let d := slewBy s.cwy.slew (sa / 1000)
  { s with
    now := s.now + k
    timeBase := s.timeBase + BitVec.ofInt 64 (s.gain k)
    ppmAcc := acc % 1000000
    cwy := { s.cwy with slew := s.cwy.slew - d, slewAcc := sa % 1000 } }

/-- Time brought forward to the moment `t`, when it is not there yet. -/
def State.advanceTo (s : State) (t : Nat) : State := if s.now < t then s.advance (t - s.now) else s

/-- The least number from which on `p` holds, of the 2^`f` from `lo` on. -/
def leastFrom (p : Nat → Bool) : Nat → Nat → Nat
  | 0, lo => lo
  | f + 1, lo => if p (lo + 2 ^ f - 1) then leastFrom p f lo else leastFrom p f (lo + 2 ^ f)

/-- Time brought forward until the time base has gained `n` counts: by the fewest edges that gain as much, which differ
from `n` by less than one in a hundred. -/
def State.advanceGain (s : State) (n : Nat) : State :=
  s.advance (leastFrom (fun j => decide ((n : Int) ≤ s.gain j)) (Nat.log2 (n / 50 + 4) + 1) (n - n / 100 - 2))

/-- Time brought forward until the time base reaches the next multiple of `k` (R73). -/
def State.advanceToMultiple (s : State) (k : Nat) : State := s.advanceGain (k - s.timeBase.toNat % k)

/-- Counts of the time base since it read `t`; none when it has been written to less since (R63, log entry 111). -/
def State.countsSince (s : State) (t : Nat) : Nat := s.timeBase.toNat - t

/-- Time brought forward until the time base has counted `n` since it read `t`, when it has not yet. -/
def State.advanceSince (s : State) (t n : Nat) : State := s.advanceGain (n - s.countsSince t)

/-- A message leaves the device. -/
def State.emit (s : State) (o : Out) : State := { s with out := s.out ++ [o] }

/-- One more free value used. -/
def State.useFree (s : State) : State := { s with free := s.free + 1 }

/-- A latch of POLL_SUMMARY set (R95). -/
def State.latch (s : State) (f : Fld) : State := s.setFld f 1

/-! ### What observation is given -/

/-- An event of the running step given to observation; `commit` hands it on. -/
def State.note (s : State) (e : ObsEv) : State := { s with obs := { s.obs with events := s.obs.events ++ [e] } }

/-- An event of channel `c` that its counters may count (table Counter events). -/
def State.countCh (s : State) (c event : Nat) (n : Nat := 1) (m flow : Option Nat := none) : State :=
  s.note (.count (some c) event n m flow)

/-- An event that the global counters may count. -/
def State.countGl (s : State) (event : Nat) (n : Nat := 1) (m flow : Option Nat := none) : State :=
  s.note (.count none event n m flow)

/-- An event of the table Trace entries, at this moment. -/
def State.traceEv (s : State) (kind arg data : Nat) : State := s.note (.entry s.timeBase.toNat kind arg data)

/-! ### The fault record -/

/-- The sticky bit of source `n` (R444). -/
def stickyFld (n : Nat) : Fld := ⟨adr .FLT_STICKY 0 (n / 32), n % 32, n % 32⟩

/-- The live bit of source `n`. -/
def liveFld (n : Nat) : Fld := ⟨adr .FLT_LIVE 0 (n / 32), n % 32, n % 32⟩

/-- A raise recorded: sticky bit, UNIT bits, count, first time (R446). -/
def State.recordFault (s : State) (n bits : Nat) : State :=
  let s1 := if s.flag (stickyFld n) then s else
    (s.setReg (adr .FLT_FIRST_LO 0 n) (s.timeBase.setWidth 32)).setReg (adr .FLT_FIRST_HI 0 n)
      ((s.timeBase >>> 32).setWidth 32)
  let s2 := s1.setFlag (stickyFld n) true
  let s3 := s2.setReg (adr .FLT_UNIT 0 n) (s2.reg (adr .FLT_UNIT 0 n) ||| BitVec.ofNat 32 bits)
  (s3.bump (F.FLT_CNT_COUNT n)).traceEv 1 n bits

/-- A further cause of a condition that holds already: only its UNIT bits are kept (R446). -/
def State.addUnit (s : State) (n bits : Nat) : State :=
  s.setReg (adr .FLT_UNIT 0 n) (s.reg (adr .FLT_UNIT 0 n) ||| BitVec.ofNat 32 bits)

/-- The condition of a source ends. -/
def State.endCondition (s : State) (n : Nat) : State := s.setFlag (liveFld n) false

/-- Rail monitor `k`. -/
def State.rail (s : State) (k : Nat) : Rail := s.rails.get (fun _ => ⟨none, 0, 0, 0⟩) k

/-- VDD_IO is below its range, 1,140 to 1,260 mV, by its last sample: the outputs of its pins are released (R513). -/
def State.ioLow (s : State) : Bool := (s.rail 1).prev.any fun mv => mv < 1140

/-- THERMTRIP_N is driven low (R420, R421, R513). -/
def State.tripPin (s : State) : Bool := s.pins.thermtrip && !s.ioLow

/-- ERR_N is driven low: some source has its sticky bit and its pin enable at 1, outside RESET (R449, R513). -/
def State.errPin (s : State) : Bool :=
  s.mode != .reset && !s.ioLow && (List.range 8).any fun r => (s.reg (adr .FLT_STICKY 0 r) &&& s.reg (adr .FLT_PINEN 0 r)) != 0

/-- Some sticky bit is 1 (POLL_SUMMARY.FLT_ANY). -/
def State.fltAny (s : State) : Bool := (List.range 8).any fun r => s.reg (adr .FLT_STICKY 0 r) != 0

/-! ### Row locators and addresses -/

/-- A row locator (R14). -/
def mkLoc (ch layer bank cls row : Nat) : Nat :=
  ch * 2 ^ 27 + layer * 2 ^ 25 + bank * 2 ^ 20 + cls * 2 ^ 18 + row

/-- The channel of a locator. -/
def locCh (l : Nat) : Nat := bitsOf l 31 27
/-- The layer of a locator. -/
def locLayer (l : Nat) : Nat := bitsOf l 26 25
/-- The bank of a locator. -/
def locBank (l : Nat) : Nat := bitsOf l 24 20
/-- The class of a locator: 0 addressable, 1 spare, 2 service. -/
def locClass (l : Nat) : Nat := bitsOf l 19 18
/-- The row number of a locator. -/
def locRow (l : Nat) : Nat := bitsOf l 13 0
/-- The channel bank index of a locator (R11). -/
def locCbi (l : Nat) : Nat := 32 * locLayer l + locBank l
/-- The global bank index of a locator (R11). -/
def locGbi (l : Nat) : Nat := 128 * locCh l + locCbi l
/-- The die that holds the row (R10). -/
def locDie (l : Nat) : Nat := 4 * (locCh l / 8) + locLayer l

/-- The locator names a row (R14). -/
def locValid (l : Nat) : Bool :=
  l < 2 ^ 32 && bitsOf l 17 14 == 0 &&
    (match locClass l with
     | 0 => locRow l < 16384
     | 1 => locRow l < 128
     | 2 => locRow l < 64
     | _ => false)

/-- The extent of an addressable row within its channel (R30). -/
def locExtent (l : Nat) : Nat := 32768 * locLayer l + 16384 * (locBank l / 16) + locRow l

/-- The locators of an extent's 16 rows (R30). -/
def extentRows (ch e : Nat) : List Nat :=
  (List.range 16).map fun k => mkLoc ch (e / 32768) (16 * (e / 16384 % 2) + k) 0 (e % 16384)

/-- A sector in the array: its row's locator and its number within the row. -/
structure Place3 where
  loc : Nat
  sector : Nat
  deriving DecidableEq, Repr

/-- hash5 of R25. -/
def hash5 (a : Nat) : Nat :=
  xorAll [bitsOf a 20 16, bitsOf a 25 21, bitsOf a 30 26, bitsOf a 35 31, bitsOf a 36 36]

/-- hash3 of R25. -/
def hash3 (a : Nat) : Nat :=
  xorAll [bitsOf a 16 14, bitsOf a 19 17, bitsOf a 22 20, bitsOf a 25 23, bitsOf a 28 26, bitsOf a 31 29, bitsOf a 34 32]

/-- A user byte address under an interleave mode (table Interleave fields, R24). -/
def decompose (mode a : Nat) : Place3 :=
  match mode with
  | 0 => ⟨mkLoc (Nat.xor (bitsOf a 12 8) (hash5 a)) (bitsOf a 22 21) (bitsOf a 20 16) 0 (bitsOf a 36 23),
      bitsOf a 15 13 * 4 + bitsOf a 7 6⟩
  | 1 => ⟨mkLoc (bitsOf a 36 32) (bitsOf a 17 16) (bitsOf a 15 11) 0 (bitsOf a 31 18), bitsOf a 10 6⟩
  | _ => ⟨mkLoc (8 * bitsOf a 36 35 + Nat.xor (bitsOf a 10 8) (hash3 a)) (bitsOf a 20 19) (bitsOf a 18 14) 0
      (bitsOf a 34 21), bitsOf a 13 11 * 4 + bitsOf a 7 6⟩

/-- The user address of a sector under an interleave mode: the inverse of `decompose` (R25). -/
def compose (mode : Nat) (x : Place3) : Nat :=
  let ch := locCh x.loc
  let row := locRow x.loc
  let b := locBank x.loc
  let l := locLayer x.loc
  match mode with
  | 0 =>
    let a := row * 2 ^ 23 + l * 2 ^ 21 + b * 2 ^ 16 + x.sector / 4 * 2 ^ 13 + x.sector % 4 * 2 ^ 6
    a + Nat.xor ch (hash5 a) * 2 ^ 8
  | 1 => ch * 2 ^ 32 + row * 2 ^ 18 + l * 2 ^ 16 + b * 2 ^ 11 + x.sector * 2 ^ 6
  | _ =>
    let a := ch / 8 * 2 ^ 35 + row * 2 ^ 21 + l * 2 ^ 19 + b * 2 ^ 14 + x.sector / 4 * 2 ^ 11 + x.sector % 4 * 2 ^ 6
    a + Nat.xor (ch % 8) (hash3 a) * 2 ^ 8

/-- The first byte address of the service aperture (R31). -/
def apertureBase : Nat := 0x2000000000

/-- A byte address lies in the user range (R1). -/
def inUser (a : Nat) : Bool := a < apertureBase

/-- A byte address lies in the service aperture (R31). -/
def inAperture (a : Nat) : Bool := apertureBase ≤ a && a < apertureBase + 0x20000000

/-- An aperture byte address (table Service aperture fields, R31). -/
def decomposeAperture (a : Nat) : Place3 :=
  let o := a - apertureBase
  ⟨mkLoc (bitsOf o 28 24) (bitsOf o 17 16) (bitsOf o 15 11) 2 (bitsOf o 23 18), bitsOf o 10 6⟩

/-- The sector of a byte offset within a channel's 16 MiB service area (R31, R33). -/
def serviceAt (ch off : Nat) : Place3 := decomposeAperture (apertureBase + ch * 0x1000000 + off)

/-- The sector a byte address names, under the interleave mode in force. -/
def State.placeOf (s : State) (a : Nat) : Place3 :=
  if inUser a then decompose (s.fld F.XPT_ADDR_MAP_MODE) a else decomposeAperture a

/-! ### Spines and self-refresh -/

/-- The islands of a half have stopped for good with their core PLL's lock (R39). -/
def State.halfStopped (s : State) (h : Half) : Bool := bitOf s.stopped (halfNum h)

/-- A half's core PLL is locked. -/
def State.pllLocked (s : State) : Half → Bool
  | .west => s.pins.lockWest
  | .east => s.pins.lockEast

/-- The core PLLs run: outside RESET and DEEP RETENTION (R42, R118). -/
def State.clocked (s : State) : Bool := s.mode != .reset && s.mode != .deepRetention

/-- The base die drives the spine of tier `t` (R39, R46). -/
def State.spineRuns (s : State) (t : Nat) : Bool :=
  s.mode != .reset && s.mode != .selfRefresh && s.mode != .deepRetention && !s.halfStopped (halfOfChan (8 * t)) &&
    (List.range 8).any fun j => match (s.chan (8 * t + j)).st with
      | .online | .draining | .quiesced | .retraining => true
      | .offline | .retired => false

/-- A die reports both its rails good (R59). -/
def State.dieGood (s : State) (d : Nat) : Bool :=
  bitOf (s.fld F.PWR_DIE_PGOOD_ARR_OK) d && bitOf (s.fld F.PWR_DIE_PGOOD_VPP_OK) d

/-- Tier `t` is under test: its test has its permit and has not ended (R433). -/
def State.underTest (s : State) (t : Nat) : Bool :=
  s.flag F.CAL_TST_STS_RUNNING && s.fld F.CAL_TST_STS_TIER == t && !s.flag F.CAL_TST_STS_PERMIT_WAIT

/-- Core die `d` refreshes itself: its spine is held low, it entered self-refresh on its own, its logic is being reset, or
in SHUTDOWN-TEST its tier is not under test (R46, R251, R384, R433). -/
def State.dieAsleep (s : State) (d : Nat) : Bool :=
  s.mode != .reset && (!s.spineRuns (d / 4) || bitOf s.ownSelf d || (s.dieReset.map (·.die)) == some d ||
    (s.mode == .shutdownTest && !s.underTest (d / 4)))

/-- The banks of channel `c` are in self-refresh (REF_STS.SELF_REF). -/
def State.selfRef (s : State) (c : Nat) : Bool := (List.range 4).all fun l => s.dieAsleep (4 * (c / 8) + l)

end Sys2Proof.Machine
end

