-- ==== Sys2Proof/Machine/Pattern.lean ====
section
/-!
DEFINITION. The patterns of the row tests: constants, checkers and the PRBS-31 (R330).
-/
namespace Sys2Proof.Machine

/-- One step of the PRBS-31 register of x^31 + x^28 + 1: the bit that enters at its foot (log entry 15). -/
def prbsNext (x : Nat) : Nat := (2 * x + Nat.xor (bitsOf x 30 30) (bitsOf x 27 27)) % 2 ^ 31

/-- `n` bits of the sequence from register `x`, lowest first, and the register after them. -/
def prbsBits (n x : Nat) : Nat × Nat :=
  (List.range n).foldl (fun a k =>
    let y := prbsNext a.2
    (a.1 + y % 2 * 2 ^ k, y)) (0, x)

/-- Bit `n` of a checker: conductor plus edge, modulo 2 (R330). -/
def checkerBit (n : Nat) : Nat :=
  let b := n % 10
  (280 * (n / 560) + 5 * (n % 560 / 10) + b % 5 + (if b ≤ 4 then 0 else 1)) % 2

/-- A stored sector of a checker. -/
def checkerCode (j inv : Nat) : Code :=
  BitVec.ofNat 560 ((List.range 560).foldl (fun a k => a + (checkerBit (560 * j + k) + inv) % 2 * 2 ^ k) 0)

/-- The 32 stored sectors of a pattern (R330). -/
def patternRow (pat seed : Nat) : List Code :=
  match pat with
  | 0 => List.replicate 32 0
  | 1 => List.replicate 32 (BitVec.allOnes 560)
  | 2 => (List.range 32).map fun j => checkerCode j 0
  | 3 => (List.range 32).map fun j => checkerCode j 1
  | _ => ((List.range 32).foldl (fun (a : List Code × Nat) _ =>
      let r := prbsBits 560 a.2
      (a.1 ++ [BitVec.ofNat 560 r.1], r.2)) ([], if seed % 2 ^ 31 = 0 then 1 else seed % 2 ^ 31)).1

end Sys2Proof.Machine
end

