-- ==== Sys2Proof/Machine/Integrity.lean ====
section
/-!
DEFINITION. Stored sectors where they lie: the array through the repairs in force, the Lagoon slot that holds a row's
authoritative copy (R224), the valid-extent map (R344), and what a decode counts and logs (R340, R341, R356, R357).
-/
namespace Sys2Proof.Machine

/-- A place of a service row 0 to 47 of a channel that was zero-filled since RESET (R35). -/
def zeroKey (unfilled key : Nat) : Bool :=
  locClass (key / 64) == 2 && locRow (key / 64) < 48 && !bitOf unfilled (locCh (key / 64))

/-- The sector-column that holds sector `j` of a bank: `32 + k` when spare `k` replaces it (R13). The highest-numbered
spare stands. -/
def Repairs.col (r : Repairs) (gbi j : Nat) : Nat :=
  (List.range 8).foldl (fun a k => if r.cols.get (fun _ => none) (8 * gbi + k) = some j then 32 + k else a) j

/-- The row that a spare row stands for (R12). -/
def Repairs.rowOf (r : Repairs) (loc : Nat) : Option Nat := (r.rows.find? fun e => e.2 == some loc).map (·.1)

/-- A row is tested by the shutdown test, by its physical row: service rows 48-63 and the spares that replace them are
not (R434). -/
def Repairs.rowTested (r : Repairs) (loc : Nat) : Bool :=
  match locClass loc with
  | 0 => true
  | 1 => (match r.rowOf loc with
      | some x => !(locClass x == 2 && 48 ≤ locRow x)
      | none => true)
  | 2 => locRow loc < 48
  | _ => false

/-- The sector of a tested row that a place held under repairs `r`, when step 6 of the tier test wrote it. -/
def testSector (r : Repairs) (key : Nat) : Option Nat :=
  if r.rowTested (key / 64) then (List.range 32).find? fun j => r.col (locGbi (key / 64)) j == key % 64 else none

/-- What step 6 of the tier test left at a place of channel `c`: pattern 0b100, seeded with the row's own locator (table
Tier test). `patterned` keeps the repairs that were in force. -/
def testLeft (patterned : Store (Option Repairs)) (key : Nat) : Option Code :=
  match patterned.get (fun _ => none) (locCh (key / 64)) with
  | none => none
  | some r => (testSector r key).map fun j => (patternRow 4 (key / 64)).getD j 0

/-- What an unlisted place of the array holds: the pattern of a tier test, zeros once zero-filled, else nothing the
manual states (log entry 4). -/
def arrayDefault (unfilled : Nat) (patterned : Store (Option Repairs)) (key : Nat) : Option Code :=
  match testLeft patterned key with
  | some c => some c
  | none => if zeroKey unfilled key then some zeroCode else none

/-- Where `ctxWrites` counts the writes of a service row by entries into DEEP RETENTION: rows 52 and 53, rows 60 to 63. -/
def ctxKey (loc : Nat) : Option Nat :=
  if locClass loc ≠ 2 then none
  else if locRow loc = 52 ∨ locRow loc = 53 then some (2 * locCh loc)
  else if 60 ≤ locRow loc ∧ locRow loc < 64 then some (2 * locCh loc + 1)
  else none

/-- A number for what an unlisted place of the array holds: its key, the contents since the last RESET, and for a row that
an entry into DEEP RETENTION writes, how often one has (log entry 4). -/
def State.contents (s : State) (key : Nat) : Nat :=
  let n := match ctxKey (key / 64) with
    | some k => s.ctxWrites.get (fun _ => 0) k
    | none => 0
  (s.salt * 2 ^ 32 + n) * 2 ^ 64 + key

/-- A physical sector by its key. -/
def State.physAt (s : State) (key : Nat) : Code :=
  (s.array.get (arrayDefault s.unfilled s.patterned) key).getD (Config.freeCode (s.contents key))

/-- A physical sector written. -/
def State.setPhys (s : State) (key : Nat) (c : Code) : State :=
  { s with array := s.array.set (arrayDefault s.unfilled s.patterned) key (some c) }

/-- The physical row of a locator: the spare row that replaces it, when one does (R12). -/
def State.physRow (s : State) (loc : Nat) : Nat := (s.repairs.rows.get (fun _ => none) loc).getD loc

/-- The sector-column that holds sector `j` of a bank, through the repairs in force (R13). -/
def State.physCol (s : State) (gbi j : Nat) : Nat := s.repairs.col gbi j

/-- The key of a physical sector in the array. -/
def arrayKey (row col : Nat) : Nat := row * 64 + col

/-- The stored sector of the array, through the repairs in force. -/
def State.arrayAt (s : State) (x : Place3) : Code :=
  s.physAt (arrayKey (s.physRow x.loc) (s.physCol (locGbi x.loc) x.sector))

/-- The physical index of a row (R371). -/
def physIndex (loc : Nat) : Nat := tbl [0, 16384, 16512] (locClass loc) + locRow loc

/-- The spare column that a write of sector `j` of a physical row also writes: the walk of a rep.col of its bank has passed
the row (R325). -/
def State.walkPhys (s : State) (row j : Nat) : Option Nat :=
  (s.chan (locCh row)).eng.walk.bind fun w =>
    if w.gbi = locGbi row ∧ w.sector = j ∧ physIndex row < w.rows then some w.spare else none

/-- Sector `j` of a physical row written, through the column repairs in force (R13, R325). -/
def State.writePhys (s : State) (row j : Nat) (c : Code) : State :=
  let s1 := s.setPhys (arrayKey row (s.physCol (locGbi row) j)) c
  match s.walkPhys row j with
  | some k => s1.setPhys (arrayKey row (32 + k)) c
  | none => s1

/-- The spare column that a write of a sector also writes: the walk of a rep.col of its bank has passed its row (R325). -/
def State.walkSpare (s : State) (x : Place3) : Option Nat :=
  (s.chan (locCh x.loc)).eng.walk.bind fun w =>
    if w.gbi = locGbi x.loc ∧ w.sector = x.sector ∧ physIndex (s.physRow x.loc) < w.rows then some w.spare else none

/-- The array with a stored sector written, through the repairs in force. -/
def State.setArray (s : State) (x : Place3) (c : Code) : State :=
  let s1 := s.setPhys (arrayKey (s.physRow x.loc) (s.physCol (locGbi x.loc) x.sector)) c
  match s.walkSpare x with
  | some k => s1.setPhys (arrayKey (s.physRow x.loc) (32 + k)) c
  | none => s1

/-- Slot `i` of a channel. -/
def Chan.slot (x : Chan) (i : Nat) : Slot := x.slots.get (fun _ => Slot.empty) i

/-- A channel with slot `i` written. -/
def Chan.setSlot (x : Chan) (i : Nat) (v : Slot) : Chan := { x with slots := x.slots.set (fun _ => Slot.empty) i v }

/-- Slot `i` of channel `c`. -/
def State.slot (s : State) (c i : Nat) : Slot := (s.chan c).slot i

/-- The state with a slot written. -/
def State.setSlot (s : State) (c i : Nat) (v : Slot) : State := s.modChan c fun x => x.setSlot i v

/-- The slot a row is resident in (R224). -/
def Chan.findSlot (x : Chan) (loc : Nat) : Option Nat :=
  (List.range 64).find? fun i => (x.slot i).state != .empty && (x.slot i).loc == loc

/-- The slot a row is resident in. -/
def State.findSlot (s : State) (loc : Nat) : Option Nat := (s.chan (locCh loc)).findSlot loc

/-- A slot that holds its row's data: any state but EMPTY and FILLING. -/
def SlotState.holds : SlotState → Bool
  | .empty | .filling => false
  | .clean | .dirty | .cleaning | .evicting | .fenced => true

/-- A stored sector of a slot. -/
def Slot.sector (v : Slot) (j : Nat) : Code := v.data.get (fun _ => zeroCode) j

/-- A slot after a sector of it was written at `now`: CLEAN becomes DIRTY; a CLEANING slot takes REDIRTY (R228). -/
def Slot.write (v : Slot) (j : Nat) (c : Code) (now : Nat) : Slot :=
  { v with
    data := v.data.set (fun _ => zeroCode) j c, last := now,
    state := if v.state = .clean then .dirty else v.state,
    redirty := v.redirty || v.state == .cleaning }

/-- The row is in the scrub buffer of its channel, where it counts as resident (R248). -/
def State.buffered (s : State) (loc : Nat) : Bool := (s.chan (locCh loc)).scrub.buffer == some loc

/-- A sector of the authoritative copy of a row: the slot's while it is resident, the scrub buffer's while it is there, else
the array's (R224, R248). -/
def State.stored (s : State) (x : Place3) : Code :=
  match s.findSlot x.loc with
  | some i => if (s.slot (locCh x.loc) i).state.holds then (s.slot (locCh x.loc) i).sector x.sector else s.arrayAt x
  | none =>
    if s.buffered x.loc then (s.chan (locCh x.loc)).scrub.bufData.get (fun _ => zeroCode) x.sector else s.arrayAt x

/-- A sector of the row in the scrub buffer written. -/
def Scrub.put (b : Scrub) (j : Nat) (c : Code) : Scrub := { b with bufData := b.bufData.set (fun _ => zeroCode) j c }

/-- A sector of the authoritative copy written. -/
def State.setStored (s : State) (x : Place3) (c : Code) : State :=
  match s.findSlot x.loc with
  | some i =>
    let v := s.slot (locCh x.loc) i
    if v.state.holds then s.setSlot (locCh x.loc) i (v.write x.sector c s.now) else s.setArray x c
  | none =>
    if s.buffered x.loc then s.modChan (locCh x.loc) fun y => { y with scrub := y.scrub.put x.sector c } else s.setArray x c

/-- The offset of a service sector within its channel's 16 MiB (table Service aperture fields, R31). -/
def serviceOff (x : Place3) : Nat :=
  locRow x.loc * 2 ^ 18 + locLayer x.loc * 2 ^ 16 + locBank x.loc * 2 ^ 11 + x.sector * 64

/-- A write of the bytes that `be` enables meets a program of channel `c` that an engine holds. -/
def Eng.hit (e : Eng) (c off : Nat) (be : BitVec 64) : Bool :=
  e.storeValid && e.storeCh == c &&
    (List.range 64).any fun b => be.getLsbD b && e.storeOff ≤ off + b && off + b < e.storeOff + 8 * e.store.length

/-- A write of bytes of a service sector: an engine that holds a program of those bytes must read it anew (R276). -/
def State.storeHit (s : State) (x : Place3) (be : BitVec 64) : State :=
  if locClass x.loc = 2 then
    s.each 32 fun k t => if (t.chan k).eng.hit (locCh x.loc) (serviceOff x) be then
      t.modEng k fun e => { e with storeValid := false } else t
  else s

/-- A write of the bytes of a whole row. -/
def State.storeHitRow (s : State) (loc : Nat) : State :=
  if locClass loc = 2 then s.each 32 fun j t => t.storeHit ⟨loc, j⟩ (BitVec.allOnes 64) else s

/-- The zero-fill of the service rows 0 to 47 of channel `c` at step 10 of BRING-UP, through the repairs in force (R35,
R110): the spare rows that stand for such a row are listed, the service rows themselves read as zero from then on. -/
def State.fillService (s : State) (c : Nat) : State :=
  let bits := putBits s.unfilled c c 0
  let bare := s.array.erase fun k => locClass (k / 64) == 2 && locRow (k / 64) < 48 && locCh (k / 64) == c
  let s1 := { s with array := bare.rebase (arrayDefault bits s.patterned), unfilled := bits }
  (s.repairs.rows.filter fun e => locClass e.1 == 2 && locRow e.1 < 48 && locCh e.1 == c).foldl
    (fun t e => t.each 40 fun j u => u.setPhys (arrayKey (s.physRow e.1) j) zeroCode) s1

/-- The array at RESET: refreshed no more, it holds nothing the manual states (R35, R456). -/
def State.loseArray (s : State) : State :=
  { s with array := [], salt := s.salt + 1, unfilled := 0xFFFFFFFF, ctxWrites := [], patterned := [] }

/-- A whole row of the array as a slot's data. -/
def State.arrayRow (s : State) (loc : Nat) : Store Code :=
  (List.range 32).foldl (fun d j => d.set (fun _ => zeroCode) j (s.arrayAt ⟨loc, j⟩)) []

/-- The array with a whole row written. -/
def State.setArrayRow (s : State) (loc : Nat) (d : Store Code) : State :=
  s.each 32 fun j t => t.setArray ⟨loc, j⟩ (d.get (fun _ => zeroCode) j)

/-! ### Extents -/

/-- The bits of word `w` of a copy of the valid-extent map that are 1. -/
def mapOnes (copy : Store Bool) (w : Nat) : Nat := copy.countP fun e => e.1 / 64 == w && e.2

/-- Word `w` of a copy of the map and its parity bit have even parity (R344). -/
def mapPasses (copy parity : Store Bool) (w : Nat) : Bool :=
  mapOnes copy w % 2 == b2n (parity.get (fun _ => false) w)

/-- A bit of a copy of the map as a map word gives it: of the first copy, or of the other where the first fails (R347). -/
def Chan.mapBit (x : Chan) (e : Nat) : Bool :=
  (if mapPasses x.extents x.parityA (e / 64) then x.extents else x.extentsB).get (fun _ => false) e

/-- The extent of a row is written; service rows always are (R344). -/
def State.written (s : State) (loc : Nat) : Bool :=
  locClass loc != 0 || (s.chan (locCh loc)).mapBit (locExtent loc)

/-- The parity bit that word `w` of a copy of the map needs (R344). -/
def mapParity (copy : Store Bool) (w : Nat) : Bool := mapOnes copy w % 2 == 1

/-- A bit of both copies of the map written, with the parity of its word in each (R344). -/
def Chan.setMapBit (x : Chan) (e : Nat) (b : Bool) : Chan :=
  let a := x.extents.set (fun _ => false) e b
  let k := x.extentsB.set (fun _ => false) e b
  { x with
    extents := a, parityA := x.parityA.set (fun _ => false) (e / 64) (mapParity a (e / 64)),
    extentsB := k, parityB := x.parityB.set (fun _ => false) (e / 64) (mapParity k (e / 64)) }

/-- An extent marked written or unwritten, in both copies of the map. A mark of written raises ANY_WRITTEN (R27). -/
def State.markExtent (s : State) (c e : Nat) (w : Bool) : State :=
  let s1 := s.modChan c fun x => x.setMapBit e w
  let s2 := s1.setFld (F.ECC_EXT_STS_WRITTEN_CNT c) (s1.chan c).extents.length
  if w then s2.setFlag F.XPT_ADDR_MAP_ANY_WRITTEN true else s2

/-- The map as its words give it. -/
def Chan.mapSeen (x : Chan) : Store Bool :=
  (x.extentsB.filter fun e => !mapPasses x.extents x.parityA (e.1 / 64)).foldl (fun m e => m.set (fun _ => false) e.1 e.2)
    (x.extents.filter fun e => mapPasses x.extents x.parityA (e.1 / 64))

/-- The parity bits that a copy of the map needs. -/
def parities (m : Store Bool) : Store Bool :=
  m.foldl (fun p e => p.set (fun _ => false) (e.1 / 64) (mapParity m (e.1 / 64))) []

/-- A channel with a map in both copies. -/
def Chan.setMap (x : Chan) (m : Store Bool) : Chan :=
  { x with extents := m, extentsB := m, parityA := parities m, parityB := parities m }

/-- The row is retired (R363). -/
def State.rowRetired (s : State) (loc : Nat) : Bool := s.repairs.retired.get (fun _ => false) loc

/-! ### The correction log -/

/-- Who decodes, for the log: SOURCE, module, flow (R356). -/
structure DecodeFor where
  source : Nat
  module : Nat
  flow : Nat
  deriving DecidableEq, Repr

/-- The correction-log ring's fields that an entry carries beside time and sequence. -/
structure LogFields where
  loc : Nat
  kind : Nat
  source : Nat
  action : Nat
  nsym : Nat
  sector : Nat
  errs : List (Nat × Nat)
  module : Nat
  flow : Nat
  deriving DecidableEq, Repr

/-- Word 5 of a log entry: the symbols corrected, lower first (R356). -/
def logWord5 (errs : List (Nat × Nat)) : Nat :=
  match errs with
  | [] => 0xFC00FC00
  | [(k, m)] => k * 2 ^ 26 + m * 2 ^ 16 + 0xFC00
  | (k, m) :: (k', m') :: _ => k * 2 ^ 26 + m * 2 ^ 16 + k' * 2 ^ 10 + m'

/-- Word 4 of a log entry with COUNT `n`. -/
def logWord4 (x : LogFields) (policy n : Nat) : Nat :=
  x.kind * 2 ^ 28 + x.source * 2 ^ 24 + x.action * 2 ^ 20 + x.nsym * 2 ^ 18 + policy * 2 ^ 17 + n * 2 ^ 8 + x.sector

/-- The eight words of a new entry (table Log entry). -/
def State.logWords (s : State) (c : Nat) (x : LogFields) : List Word :=
  [BitVec.ofNat 32 (s.chan c).log.seq, s.timeBase.setWidth 32, (s.timeBase >>> 32).setWidth 32, BitVec.ofNat 32 x.loc,
    BitVec.ofNat 32 (logWord4 x (s.fld (F.ECC_CFG_POLICY c)) 1), BitVec.ofNat 32 (logWord5 x.errs),
    BitVec.ofNat 32 (x.module * 2 ^ 28 + x.flow % 4096 * 2 ^ 16), BitVec.ofNat 32 (s.fld (F.ECC_LIFE_UE_BOOT c))]

/-- Two entries agree in what R357 compares: locator, sector, kind, source and positions. -/
def logSame (a b : List Word) : Bool :=
  let w (l : List Word) (i : Nat) := (l.getD i 0).toNat
  w a 3 == w b 3 && w a 5 == w b 5 && bitsOf (w a 4) 31 24 == bitsOf (w b 4) 31 24 &&
    bitsOf (w a 4) 4 0 == bitsOf (w b 4) 4 0

/-- An entry with COUNT raised by one, saturating at 255 (R357). -/
def logMerge (l : List Word) : List Word :=
  let w := (l.getD 4 0).toNat
  l.set 4 (BitVec.ofNat 32 (putBits w 15 8 (satAdd 8 (bitsOf w 15 8) 1)))

/-- A new log entry: merged into the newest, entered, or dropped from a full ring (R357, R358). -/
def State.log (s : State) (c : Nat) (x : LogFields) : State :=
  let e := s.logWords c x
  let l := (s.chan c).log
  match l.entries.getLast? with
  | some n =>
    if logSame n e then s.modChan c fun y => { y with log := { l with entries := l.entries.dropLast ++ [logMerge n] } }
    else if l.entries.length ≥ 256 then s.bump (F.ECC_LOG_STS_DROPS c)
    else s.modChan c fun y => { y with log := { l with entries := l.entries ++ [e], seq := (l.seq + 1) % 2 ^ 32 } }
  | none => s.modChan c fun y => { y with log := { l with entries := [e], seq := (l.seq + 1) % 2 ^ 32 } }

/-- A ROW_ACTION entry of the correction log with its outcome (R356, R362). -/
def State.logRowAction (s : State) (loc outcome : Nat) : State :=
  s.log (locCh loc) ⟨loc, 3, 4, outcome, 0, 0, [], 15, 0⟩

/-- A row put into the priority scrub queue, unless it is there or the queue is full (R354). -/
def State.queueScrub (s : State) (loc : Nat) : State :=
  s.modChan (locCh loc) fun x =>
    if x.scrub.queue.contains loc || x.scrub.queue.length ≥ 16 then x
    else { x with scrub := { x.scrub with queue := x.scrub.queue ++ [loc] } }

/-- The row enters the priority scrub queue: PRIO_SCRUB is 1, the decode is not the scrubber's, the row is not queued and
the queue is not full (R354). -/
def State.queuesScrub (s : State) (loc source : Nat) : Bool :=
  let q := (s.chan (locCh loc)).scrub.queue
  source != 4 && s.flag (F.ECC_CFG_PRIO_SCRUB (locCh loc)) && !q.contains loc && q.length < 16

/-- What a decode counts, logs and raises (R340, R341). `act` is the log's ACTION of what is done to the sector; a decode
that does nothing to it and queues its row has ACTION 0x7 (R356). -/
def State.noteDecode (s : State) (x : Place3) (d : Decoded) (f : DecodeFor) (act : Nat) : State :=
  let c := locCh x.loc
  let action := if act = 0 ∧ s.queuesScrub x.loc f.source then 7 else act
  let errs := match d.found with | .corrected es => es | _ => []
  if d.bad then
    let s1 := (((s.countCh c 13 1 (if f.module < 12 then some f.module else none) (some f.flow)).bump (F.ECC_UE_CNT_UNCORRECTABLE c)).bump (F.ECC_LIFE_UE_UNCORRECTABLE c)).log c
      ⟨x.loc, 2, f.source, action, 3, x.sector, [], f.module, f.flow⟩
    let s3 := s1.recordFault (128 + 4 * c) 1
    if f.source ≠ 4 ∧ s.flag (F.ECC_CFG_PRIO_SCRUB c) then s3.queueScrub x.loc else s3
  else if d.corr then
    let s1 := (((s.countCh c 12).bump (F.ECC_CORR_CNT_CORRECTED c)).bump (F.ECC_LIFE_CORR_CORRECTED c)).log c
      ⟨x.loc, 1, f.source, action, errs.length, x.sector, errs, f.module, f.flow⟩
    if f.source ≠ 4 ∧ s.flag (F.ECC_CFG_PRIO_SCRUB c) then s1.queueScrub x.loc else s1
  else s

/-- A decode of a sector's authoritative copy with its bookkeeping. -/
def State.decodeStored (s : State) (x : Place3) (f : DecodeFor) : State × Decoded :=
  let d := decodeSector (s.fld (F.ECC_CFG_POLICY (locCh x.loc))) (s.stored x)
  (s.noteDecode x d f 0, d)

/-- What injection makes of a host write's codeword in channel `c` (R369), and the state with the injection counted. -/
def State.injectWrite (s : State) (c : Nat) (w : Code) : State × Code :=
  if s.flag (F.ECC_INJ_CTL_ARM c) then
    let sel := s.fld (F.ECC_INJ_CTL_CHK_SEL c)
    let mask := (List.range 4).foldl (fun a i => if bitOf sel i then a + 0x3FF * 2 ^ (520 + 10 * i) else a) 0
    let s1 := s.bump (F.ECC_INJ_CTL_INJECTED c)
    let s2 := if s1.fld (F.ECC_INJ_CTL_INJECTED c) = s1.fld (F.ECC_INJ_CTL_COUNT c)
      then s1.setFlag (F.ECC_INJ_CTL_ARM c) false else s1
    (s2, w ^^^ BitVec.ofNat 560 mask)
  else (s, w)

end Sys2Proof.Machine
end

