-- ==== Sys2Proof/Machine/React.lean ====
section
/-!
DEFINITION. Responses of the transport (R161, R188, R204), the end of fences (R181, R220), the end of a program (R262,
R286), a channel going OFFLINE (R253, R254), and the raise of a fault source with its reaction (R443 to R451).
-/
namespace Sys2Proof.Machine

/-! ### Responses -/

/-- The answer to a REQ transaction: an ACK, or an RD_DATA. -/
inductive Reply where
  | ack (st : Status) (retryAfter : Nat)
  | data (st : Status) (corr zero lagoon : Bool) (metaByte : Nat) (d : Sector)
  deriving DecidableEq, Repr

/-- Two records name one transaction. -/
def Txn.same (a b : Txn) : Bool :=
  a.m == b.m && a.tag == b.tag && a.t0 == b.t0 && a.answered == b.answered && a.orphan == b.orphan

/-- The byte address of a transaction. -/
def Txn.byteAddr (t : Txn) : Nat := t.addr * 64

/-- Where a transaction's sector lies: its address decomposed under the interleave mode in force now, also for a request
that a channel held when MODE changed (log entry 85). -/
def State.txnPlace (s : State) (t : Txn) : Place3 := s.placeOf t.byteAddr

/-- A transaction that holds an entry of channel `c`: every memory request but FENCE and those whose injected TIMEOUT is
outstanding, which take a device entry alone (R162, R163, R193). -/
def State.txnIn (s : State) (c : Nat) (t : Txn) : Bool :=
  t.op != .fence && t.stage != .injTimeout && locCh (s.txnPlace t).loc == c

/-- The state without a transaction. -/
def State.dropTxn (s : State) (t : Txn) : State := { s with txns := s.txns.filter fun u => !u.same t }

/-- The state with a transaction replaced. -/
def State.setTxn (s : State) (t u : Txn) : State := { s with txns := s.txns.map fun v => if v.same t then u else v }

/-- The transaction of a module and tag that the device still holds unanswered (R165). -/
def State.findTxn (s : State) (m tag : Nat) : Option Txn :=
  s.txns.find? fun t => t.m == m && t.tag == tag && !t.answered

/-- The device holds a transaction of the module whose tag is not free again (R161, R165). -/
def State.tagHeld (s : State) (m tag : Nat) : Bool :=
  s.txns.any fun t => t.m == m && t.tag == tag && !t.answered && !t.orphan

/-- Device entries in use (R162): transactions whose response is not formed. -/
def State.entries (s : State) : Nat := (s.txns.filter fun t => !t.answered).length

/-- A response formed now for a request accepted at `t0` is LATE (R204). -/
def State.isLate (s : State) (flow t0 : Nat) : Bool :=
  s.fld (F.FLOW_W0_LAT_TARGET flow) != 0 && s.fld (F.FLOW_W0_LAT_TARGET flow) < s.now - t0

/-- The message of a reply. -/
def Reply.out (r : Reply) (m tag : Nat) (late : Bool) : Out :=
  match r with
  | .ack st ra => .ack m tag st late ra
  | .data st corr zero lagoon mb d => .rdData m tag st corr zero late lagoon mb d

/-- The status a reply carries. -/
def Reply.status : Reply → Status
  | .ack st _ => st
  | .data st _ _ _ _ _ => st

/-- Counter events of a response (table Counter events). -/
def State.countStatus (s : State) (st : Status) (late : Bool) (m flow : Nat) : State :=
  let s1 := match st with
    | .retry => s.countGl 3 1 (some m) (some flow)
    | .unavailable => s.countGl 4 1 (some m) (some flow)
    | .timeout => s.countGl 5 1 (some m) (some flow)
    | _ => s
  if late then s1.countGl 6 1 (some m) (some flow) else s1

/-- The tagged request that a transaction is, changed (R503). -/
def State.tagMod (s : State) (t : Txn) (f : TagRec → TagRec) : State :=
  { s with obs := { s.obs with tags := s.obs.tags.map fun g =>
      if g.m = t.m ∧ g.tag = t.tag ∧ g.t0 = t.t0 then f g else g } }

/-- Word 0 of a tag record (table Tag record). -/
def TagRec.word0 (g : TagRec) : Nat := g.m * 2 ^ 28 + g.kind * 2 ^ 26 + g.flow % 4096 * 2 ^ 14 + g.tag % 2 ^ 14

/-- The response of a tagged request is formed: its record takes status, LATE and D_RSP; a request that no scheduler
took up leaves none and counts in NOREC (R503). -/
def State.tagAnswer (s : State) (t : Txn) (st : Status) (late : Bool) : State :=
  match s.obs.tags.find? fun g => g.m = t.m ∧ g.tag = t.tag ∧ g.t0 = t.t0 with
  | none => s
  | some g =>
    let d := s.now - t.t0
    let s1 := s.traceEv 7 (g.m * 2 ^ 20 + st.code * 2 ^ 16 + min d 0xFFFF) g.word0
    if g.dChannel.isNone then
      { s1.bump F.OBS_TAG_STS_NOREC with obs := { s1.obs with
          tags := s1.obs.tags.filter fun x => !(x.m == g.m && x.tag == g.tag && x.t0 == g.t0) } }
    else s1.tagMod t fun x => { x with status := st.code, late := late, dRsp := some d }

/-- The response of a tagged request left its module or was discarded: its record is due (R503). -/
def State.tagSent (s : State) (m tag : Nat) (sent : Bool) : State :=
  { s with obs := { s.obs with tags := s.obs.tags.map fun g =>
      if g.m = m ∧ g.tag = tag ∧ g.dRsp.isSome ∧ !g.due then
        { g with due := true, dSent := if sent then some (s.now - g.t0) else none } else g } }

/-- A response message put into the egress of its module; a module out of service sends none, nor one for a tag that an
exclusion freed: it is discarded and counted (R146, R161). -/
def State.toEgress (s : State) (m : Nat) (orphan : Bool) (o : Out) : State :=
  if orphan || s.flag (F.UCI_STS_EXCLUDED m) then
    (match o with | .rdData _ tag .. | .ack _ tag .. => s.tagSent m tag false | _ => s).bump (F.UCI_DROP_CNT_RSP_DISCARD m)
  else s.modMod m fun x => { x with egress := x.egress ++ [o] }

/-- An injection counted; ARM clears when INJECTED reaches COUNT (R193). -/
def State.countInject (s : State) : State :=
  let s1 := s.bumpBoth F.XPT_INJ_CTL_INJECTED
  if s1.fld F.XPT_INJ_CTL_COUNT ≤ s1.fld F.XPT_INJ_CTL_INJECTED then s1.setBoth F.XPT_INJ_CTL_ARM 0 else s1

/-- An injected POISON counts when it is the answer (R193, R194): a matching read that is answered otherwise does not. -/
def State.countPoison (s : State) (t : Txn) (st : Status) : State :=
  if t.inject && st == .poison then s.countInject else s

/-- The response of a transaction formed: its entry frees and the message enters the egress, or a result after TIMEOUT
is discarded and counted (R188, R189, R204). -/
def State.formReply (s : State) (t : Txn) (r : Reply) : State :=
  if t.answered then (s.dropTxn t).bumpBoth F.XPT_TIMEOUT_CNT_LATE_DISCARD
  else
    let late := s.isLate t.flow t.t0
    let s0 := s.countPoison t r.status
    let s1 := if late then s0.bumpBoth (F.FLOW_W3_LATE t.flow) else s0
    let k := 2 * t.flow + halfNum (halfOfMod t.m)
    let s1 := (s1.countStatus r.status late t.m t.flow).tagAnswer t r.status late
    let s2 := if t.op ≠ .fence ∧ (r.status = .ok ∨ r.status = .poison) then
      { s1 with served := s1.served.set (fun _ => 0) k (s1.served.get (fun _ => 0) k + 1) } else s1
    (s2.dropTxn t).toEgress t.m t.orphan (r.out t.m t.tag late)

/-- A request of a FENCE's scope (R181): the same module, and the FENCE's flow or any. META bit 0 is SCOPE. -/
def inScope (f t : Txn) : Bool := t.m == f.m && (bitOf f.metaByte 0 || t.flow == f.flow) && !t.answered

/-- The transactions received before one: those ahead of it in the list. -/
def State.before (s : State) (t : Txn) : List Txn := s.txns.takeWhile fun u => !u.same t

/-- Every FENCE whose scope is answered is answered OK; a device-wide fence whose requests are answered ends (R181,
R220). -/
def State.settle (s : State) : State :=
  let s1 := (s.txns.filter fun t => t.stage == .fence).foldl
    (fun s t => if (s.before t).any (inScope t) then s else s.formReply t (.ack .ok 0)) s
  match s1.qosFence with
  | some t0 =>
    if s1.txns.any fun t => t.pre && !t.answered then s1
    else
      let s2 := ((s1.setBoth F.QOS_FENCE_BUSY 0).setBoth F.QOS_FENCE_VALID 1).setBoth F.QOS_FENCE_LENGTH
        (min ((s1.now - t0) / 10) 0xFFFF)
      { s2 with qosFence := none }.latch F.POLL_SUMMARY_DONE
  | none => s1

/-- A response formed, with the fences it ends. -/
def State.reply (s : State) (t : Txn) (r : Reply) : State := (s.formReply t r).settle

/-! ### The end of a program -/

/-- The record of the program or descriptor the engine of channel `c` works on. -/
def State.makeRecord (s : State) (c status code : Nat) : Record :=
  let e := (s.chan c).eng
  let ran := e.phase == .running
  { flow := e.desc.flow, status := status, code := code, queue := e.queue, index := e.index, phase := e.qphase, proxy := e.proxy,
    fetched := e.fetched, userId := e.desc.userId,
    r0 := if ran then e.g[0].toNat else 0, r1 := if ran then e.g[1].toNat else 0,
    time := if ran then s.countsSince e.start / 10 % 2 ^ 32 else 0, endPc := if ran then e.pc else 0,
    pred := if ran then e.p.toNat else 0, poison := ran && bitOf e.st.toNat 8, corr := ran && bitOf e.st.toNat 9 }

/-- The UNIT bits that an outcome raises on CH_ENGINE, 0 for none (R286). -/
def engineFault (status code queue : Nat) : Nat :=
  if status = 1 ∧ code = 0x19 then 1
  else if status = 4 ∧ code = 6 then 2
  else if status = 2 ∧ queue = 7 then 4
  else if status = 3 ∧ code = 0x23 then 8
  else 0

/-- A channel does refresh-free work: it is in service. -/
def ChState.inService : ChState → Bool
  | .online | .draining | .quiesced | .retraining => true
  | .offline | .retired => false

/-- A ferry launched by channel `c`'s engine lands: the row is written, unless its destination was fenced; then the row
may or may not have been written, a free choice (R287, R317). The Bool says that it was written for certain. -/
def State.landFerry (s : State) (c : Nat) : State × Bool :=
  match (s.chan c).eng.ferry with
  | none => (s, false)
  | some x =>
    let s1 := s.modEng c fun e => { e with ferry := none }
    if (s.chan (locCh x.loc)).st.inService then
      ((s1.storeHitRow x.loc).setArrayRow x.loc x.row, true)
    else (if Config.freeBool s.free then (s1.useFree.storeHitRow x.loc).setArrayRow x.loc x.row else s1.useFree, false)

/-- An instruction that has started its transfer when the program is stopped is let finish (R287). -/
def State.finishFerry (s : State) (c : Nat) : State :=
  match (s.chan c).eng.ferry with
  | none => s
  | some x =>
    let r := s.landFerry c
    r.1.modEng c fun e => { e with g := e.g.setIfInBounds x.dst (if r.2 then 0 else 8) }

/-- A ledger write belongs to a rep.retire of channel `c`, which has done nothing yet (R288). -/
def LedgerJob.isRetire (c : Nat) (j : LedgerJob) : Bool :=
  match j.why with
  | .repRetire k _ => k == c
  | _ => false

/-- The ledger write of a rep.row or rep.col goes on when the program that asked for it ends: no instruction waits for it any more (log entry 14). -/
def LedgerJob.orphan (c : Nat) (j : LedgerJob) : LedgerJob :=
  match j.why with
  | .repRow k x => if k = c then { j with why := .repRow 32 x } else j
  | .repCol k x => if k = c then { j with why := .repCol 32 x } else j
  | _ => j

/-- The program of channel `c`'s engine ends: pins released, record waiting to be written (R262, R286). -/
def State.endProgram (s0 : State) (c status code : Nat) : State :=
  let s := s0.finishFerry c
  let r := s.makeRecord c status code
  let s1 := s.modEng c fun e =>
    { e with phase := .ending, records := e.records ++ [r], pins := Vector.replicate 16 none, h := Vector.replicate 8 none,
             waiting := none, progress := 0, walk := none, wants := [], ledger := none, clearing := none }
  let s1 := { s1 with mram := { s1.mram with ledgerJobs := (s1.mram.ledgerJobs.filter fun j => !j.isRetire c).map (LedgerJob.orphan c) } }
  let s1 := if (s.chan c).eng.phase = .running then
    s1.traceEv 6 (status * 2 ^ 20 + r.index * 2 ^ 8 + r.queue * 2 ^ 5 + c) r.userId else s1
  let bits := engineFault status code r.queue
  if bits = 0 then s1 else s1.recordFault (128 + 4 * c + 2) bits

/-- The engine works on a descriptor or program. -/
def Eng.busy (e : Eng) : Bool := e.phase == .reading || e.phase == .fetching || e.phase == .running

/-- The program of channel `c`, if one runs or is being read, is aborted with a code (R287). -/
def State.abortProgram (s : State) (c code : Nat) : State :=
  if (s.chan c).eng.busy then s.endProgram c 3 code else s

/-! ### A channel leaves service -/

/-- The tracker table of a bank emptied; it is no longer saturated (R379, R382). -/
def State.clearTracker (s : State) (c b : Nat) : State :=
  s.modChan c fun x => { x with refresh := { x.refresh with
    trackers := x.refresh.trackers.set (fun _ => []) b [], sat := x.refresh.sat.filter (· != b) } }

/-- Banks of channel `c` leave self-refresh: the wraps that their lap positions made on the core dies clear their tables
(R383, R386). -/
def State.handBack (s : State) (c : Nat) (p : Nat → Bool) : State :=
  let l := (s.chan c).refresh.wrapped.filter p
  let s1 := l.foldl (fun t b => t.clearTracker c b) s
  s1.modChan c fun x => { x with refresh := { x.refresh with wrapped := x.refresh.wrapped.filter fun b => !p b } }

/-- The dies of tier `t` that no longer refresh themselves hand back their banks (R386). -/
def State.wakeTier (s : State) (t : Nat) : State :=
  (List.range 8).foldl (fun u j => u.handBack (8 * t + j) fun b => !s.dieAsleep (4 * t + b / 32)) s

/-- The channel's state changed, with its cause (R115); the floor is to be recomputed when it enters or leaves OFFLINE
or RETIRED (R211); the dies of a tier whose spine starts leave self-refresh (R46, R386). -/
def State.setChState (s : State) (c : Nat) (st : ChState) (cause : Nat) : State :=
  let out (x : ChState) : Bool := x == .offline || x == .retired
  let stale := out (s.chan c).st != out st
  let s1 := s.modChan c fun x => { x with st := st, drainAt := none }
  let s2 := ((s1.setFld (F.CH_STATE_LAST_CAUSE c) cause).latch F.POLL_SUMMARY_CH_STATE).traceEv 3
    (cause * 2 ^ 16 + st.code * 2 ^ 8 + c) 0
  let s3 := { s2 with floorStale := s2.floorStale || stale }
  if s.spineRuns (c / 8) then s3 else s3.wakeTier (c / 8)

/-- A request reaches the scheduler of its channel (R498). -/
def State.toQueue (s : State) (t : Txn) : State :=
  (s.setTxn t { t with stage := .queued }).countCh (locCh (s.txnPlace t).loc) (if t.op = .rd then 2 else 3) 1 (some t.m)
    (some t.flow)

/-- A request is held under R114. -/
def Txn.isHeld (t : Txn) : Bool := match t.stage with | .held _ => true | _ => false

/-- The held requests of channel `c` are admitted: the channel is ONLINE (R114). -/
def State.admitHeld (s : State) (c : Nat) : State :=
  (s.txns.filter fun t => t.isHeld && s.txnIn c t).foldl State.toQueue s

/-- What a write whose downward transfer was launched leaves in the array when a fence or FATAL cuts it short: its old
content, the new, or symbols that decode as uncorrectable (R253). A free choice. -/
def State.cutShort (s : State) (t : Txn) : State :=
  let x := s.txnPlace t
  let f := Config.freeCode s.free
  let s1 := s.useFree
  let new := match t.merged with
    | some g => encodeSector g.data g.metaByte
    | none => encodeSector t.data t.metaByte
  if Config.freeBool s.free then (s1.storeHit x (BitVec.allOnes 64)).setArray x new
  else if (decodeSector 0 f).bad && (decodeSector 1 f).bad then (s1.storeHit x (BitVec.allOnes 64)).setArray x f
  else s1

/-- A WR_PART that behaves as WR, or a whole write (R184). -/
def Txn.wholeWrite (t : Txn) : Bool := t.op != .wrPart || (t.be == BitVec.allOnes 64 && t.metaEn)

/-- A transaction answered at a fence or at FATAL: INTERNAL for a write whose downward transfer was launched, else
UNAVAILABLE (R253, R451). A WR_PART's downward transfer follows its read and merge (R239). One answered TIMEOUT before
keeps that. -/
def State.cutOff (s : State) (c : Nat) (count : Bool) (t : Txn) : State :=
  if t.launched && t.op != .rd && (t.wholeWrite || t.merged.isSome) then
    if t.answered then (s.cutShort t).dropTxn t
    else ((if count then s.bump (F.CH_FENCE_STS_INTERNAL_WR c) else s).cutShort t).formReply t (.ack .internal 0)
  else if t.answered then s.dropTxn t
  else s.formReply t (.ack .unavailable 0)

/-- A slot at a fence (R254). -/
def Slot.atFence (v : Slot) : Slot :=
  match v.state with
  | .empty | .filling | .clean => Slot.empty
  | .dirty | .cleaning | .evicting | .fenced => { v with state := .fenced, redirty := false, snap := [] }

/-- A run ends (R398): CAL_LAST, CAL_COUNT, CAL_LAST_TIME and POLL_SUMMARY.CAL. -/
def State.endRun (s : State) (run result ch tiers : Nat) : State :=
  let w := 2 ^ 31 + run * 2 ^ 27 + result * 2 ^ 24 + ch * 2 ^ 16 + tiers
  let s1 := ((s.setReg (adr .CAL_LAST) (BitVec.ofNat 32 w)).setReg (adr .CAL_LAST_TIME_LO)
    (s.timeBase.setWidth 32)).setReg (adr .CAL_LAST_TIME_HI) ((s.timeBase >>> 32).setWidth 32)
  let s2 := s1.bump F.CAL_COUNT_RUNS
  ((if result = 0 then s2 else s2.bump F.CAL_COUNT_FAILED).latch F.POLL_SUMMARY_CAL).traceEv 11 0 w

/-- A tier must be trained in full: no valid VP record of it, or no valid SENSE record of one of its dies (step 4), the
training override said so as BRING-UP began (R492), or a fence ended its run (R402, log entry 100). -/
def State.mustTrain (s : State) (t : Nat) : Bool :=
  !s.flag (F.CAL_REC_VALID (2 * t)) || !s.flag (F.CAL_REC_VALID (2 * t + 1)) ||
    (List.range 4).any (fun l => !s.flag (F.CAL_REC_VALID (8 + 4 * t + l))) ||
    (match s.bringUp with
     | some b => b.force || bitOf b.fenced t
     | none => false)

/-- BRING-UP stands at step 7, whose run channel `c` takes part in (R398, VPT_STS.RUNNING). -/
def State.inStep7 (s : State) (c : Nat) : Bool :=
  s.mode == .bringUp && (s.chan c).st == .quiesced && s.bringUp.any fun b => b.waiting == 7 && !bitOf b.fenced (c / 8)

/-- A fence of a channel while step 7 of BRING-UP stands ends the run of its tier, the restore or the full training (R402,
log entry 100). -/
def State.fenceStep7 (s : State) (c : Nat) : State :=
  match s.bringUp with
  | some b =>
    if s.inStep7 c then
      { s with bringUp := some { b with fenced := b.fenced + 2 ^ (c / 8) } }.endRun (b2n (s.mustTrain (c / 8))) 4 0 (2 ^ (c / 8))
    else s
  | none => s

/-- A fence ends the run of CAL_CTL: RAIL, SENSOR or COMMIT; what a run found is dropped, and a commit being written goes on
(R402, log entry 117). -/
def State.fenceCtl (s : State) : State :=
  match s.calRun with
  | some r => ({ s with calRun := none }.setFlag F.CAL_CTL_BUSY false).endRun (4 + r.1) 4 0 0
  | none => s

/-- A fence ends the channel's calibration run with result FENCED (R402). -/
def State.fenceRun (s : State) (c : Nat) : State :=
  match (s.chan c).vpt.run with
  | none => (s.modChan c fun x => { x with vpt := { x.vpt with drift := false } }).fenceStep7 c
  | some r =>
    ((s.modChan c fun x => { x with vpt := { x.vpt with run := none, drift := false, lastRun := some s.now } }).setFlag
      (F.VPT_STS_RUNNING c) false).endRun (match r with | .retrain => 2 | .drift => 3) 4 c 0

/-- A ledger write belongs to a native row action of channel `c`. -/
def LedgerJob.isNative (c : Nat) (j : LedgerJob) : Bool :=
  match j.why with
  | .nativeRetire l | .nativeSpare l => locCh l == c
  | _ => false

/-- The native row actions of channel `c` that have not ended are abandoned (R362). -/
def State.abandonNative (s : State) (c : Nat) : State :=
  let l := s.mram.ledgerJobs.filter (LedgerJob.isNative c)
  let s1 := { s with mram := { s.mram with ledgerJobs := s.mram.ledgerJobs.filter fun j => !j.isNative c } }
  let s2 := l.foldl (fun t j => t.logRowAction j.target 10) s1
  match (s.chan c).scrub.sparing with
  | some x => (s2.modChan c fun y => { y with scrub := { y.scrub with sparing := none } }).logRowAction x.1 10
  | none => s2

/-- The channel enters OFFLINE: its program is aborted, its requests are answered, its slots are fenced (R114, R253,
R254, R277). A RETIRED channel stays RETIRED. -/
def State.chanOffline (s : State) (c cause : Nat) : State :=
  if (s.chan c).st = .retired ∨ (s.chan c).st = .offline then s else
  let s1 := ((s.abortProgram c 0x23).fenceRun c).fenceCtl.abandonNative c
  let s2 := (s1.txns.filter fun t => s1.txnIn c t).foldl (fun t x => t.cutOff c true x) s1
  let s3 := s2.modChan c fun x =>
    { x with slots := x.slots.foldl (fun d p => d.set (fun _ => Slot.empty) p.1 p.2.atFence) [],
             fills := [], lagAct := none,
             refresh := { x.refresh with due := x.refresh.due.map fun e => (e.1, []) }, held := [],
             scrub := { x.scrub with buffer := none, bufData := [] } }
  let s4 := s3.setFlag (F.LAG_CTL_BUSY c) false
  (s4.setChState c .offline cause).settle

/-! ### FATAL and the other reactions -/

/-- The islands of a half, the always-on island apart (R36). -/
def islandHalf (i : Nat) : Half :=
  if i < 32 then halfOfChan i else if i < 36 then (if i ≤ 33 then .west else .east)
  else if i < 48 then halfOfMod (i - 36) else if i = 48 ∨ i = 50 then .west else .east

/-- The half whose management core writes the dump (R452). -/
def State.dumpWriter (s : State) (src : Nat) : Half :=
  let holder : Half := if s.flag F.AUTH_STS_OWNER then .east else .west
  let unit := (s.reg (adr .FLT_UNIT 0 0)).toNat
  let named := src = 0 ∧ bitOf unit (halfNum holder) = true
  let missed := !(bitOf (s.fld F.AUTH_STS_CURRENT) (halfNum holder))
  if named ∨ src = 7 ∨ missed then halfOther holder else holder

/-- A session that ends with no entry now: it is logged at the next BRING-UP or exit (R493). A nonce that waits stays: of
the ends of a session only RESET lapses one (R486). -/
def State.dropSession (s : State) : State :=
  if s.life.session = 0 then s
  else { s with life := { s.life with session := 0 },
                mram := { s.mram with
                  endedSession := s.mram.endedSession ++ [(s.life.session, s.life.sessPath, s.timeBase)] } }

/-- An island has stopped with its half (R39): the channel, tier vertical, fabric and management islands. -/
def State.islandStopped (s : State) (i : Nat) : Bool :=
  (i < 36 || (48 ≤ i && i ≤ 51)) && s.halfStopped (islandHalf i)

/-- The half that holds the token (R459). -/
def State.holder (s : State) : Half := if s.flag F.AUTH_STS_OWNER then .east else .west

/-- A half's management core runs: its island is neither in reset nor without its clock (R39, R118). -/
def State.coreRuns (s : State) (h : Half) : Bool :=
  s.mode != .reset && s.mode != .deepRetention && !s.flag (F.GLB_ISL_STS_IN_RESET (50 + halfNum h)) && !s.halfStopped h

/-- MRAM can be written: that is global state, which firmware of the half that holds the token writes, and its core runs; what
falls due meanwhile waits (R459, R479). -/
def State.mramRuns (s : State) : Bool := s.coreRuns s.holder

/-- A channel can hold a dump copy: neither OFFLINE nor RETIRED, its island locked (R452). -/
def State.copyUsable (s : State) (c : Nat) : Bool :=
  (s.chan c).st.inService && s.flag (F.GLB_ISL_STS_LOCKED c) && !s.islandStopped c

/-- Entry into FATAL, steps 1 and 2 (table FATAL entry, R451): requests answered, engines stopped with no record, slots
kept; the summary is then being written. -/
def State.fatalEntry (s : State) (src : Nat) (injected : Bool) : State :=
  if s.mode = .reset ∨ s.mode = .fatal then s else
  let w := s.dumpWriter src
  let rec0 : Fatal := ⟨s.mode, injected, s.now, s.timeBase, (below 32 s.copyUsable).foldl (fun a c => a + 2 ^ c) 0, true, []⟩
  let s1 := { s with mode := .fatal, bringUp := none, coll := { s.coll with fatal := some rec0 } }
  let s2 := ((s1.setFlag F.FLT_STS_FATAL_VALID true).setFld F.FLT_STS_FATAL_SRC src).setFlag F.GLB_MODE_REQ_BUSY false
  let s3 := ((s2.setFlag F.FLT_DUMP_STS_WRITING true).setFld F.FLT_DUMP_STS_WRITER (halfNum w))
  let s4 := s3.txns.foldl (fun t x => t.cutOff (locCh (t.txnPlace x).loc) false x) s3
  let s5 := s4.each 32 fun c t => t.modEng c fun e =>
    { e with phase := .idle, records := [], aborts := [], ferry := none, clearing := none, waiting := none, walk := none, wants := [], pins := Vector.replicate 16 none }
  (s5.note .fatal).settle.dropSession

/-- A SAFE cause set: ACTIVE becomes SAFE, and programs of q6 and of TEST = 1 are aborted with MODE (R106, R107,
R277). -/
def State.setSafeCause (s : State) (bit : Nat) : State :=
  let v := s.fld F.GLB_MODE_STS_SAFE_CAUSE
  let s1 := if bitOf v bit then s else s.setFld F.GLB_MODE_STS_SAFE_CAUSE (v + 2 ^ bit)
  if s1.mode = .active then
    { s1 with mode := .safe }.each 32 fun c t =>
      let e := (t.chan c).eng
      if e.busy && (e.queue == 6 || e.desc.test) then t.endProgram c 3 0x24 else t
  else s1

/-- A SAFE cause resolved (R107). -/
def State.clearSafeCause (s : State) (bit : Nat) : State :=
  let v := s.fld F.GLB_MODE_STS_SAFE_CAUSE
  if bitOf v bit then s.setFld F.GLB_MODE_STS_SAFE_CAUSE (v - 2 ^ bit) else s

/-- The reaction of a source (R443). In FATAL no other reaction has an effect. -/
def State.react (s : State) (n : Nat) (r : Reaction) (injected : Bool) : State :=
  if s.mode = .fatal then s else
  match r with
  | .none => s
  | .throttle =>
    if injected || !sourceIsCondition n then
      { s with coll := { s.coll with holds := s.coll.holds.set (fun _ => Option.none) n (some s.now) } }
    else s
  | .fence c => s.chanOffline c 2
  | .safe b => s.setSafeCause b
  | .fatal => s.fatalEntry n injected

/-- An occurrence of a source: recorded, and its reaction taken (R443, R446). Nothing is recorded in RESET (R448). -/
def State.raise (s : State) (n bits : Nat) : State :=
  if s.mode = .reset then s else (s.recordFault n bits).react n (sourceReaction n bits) false

/-- A condition becomes present, or a further cause of it arises (R446). -/
def State.raiseCond (s : State) (n bits : Nat) : State :=
  if s.mode = .reset then s
  else if s.flag (liveFld n) then s.addUnit n bits
  else (s.setFlag (liveFld n) true).raise n bits

/-! ### Register-access faults -/

/-- A bit of GLB_ACC_FAULT set by an access, with GLB_ACC_LAST and the source REG_ACCESS (R98, R444). -/
def State.accFault (s : State) (bit : Nat) (path : PathNum) (addr : Nat) (write : Bool) : State :=
  let s1 := s.setReg (adr .GLB_ACC_FAULT) (s.reg (adr .GLB_ACC_FAULT) ||| BitVec.ofNat 32 (2 ^ bit))
  let s2 := s1.setReg (adr .GLB_ACC_LAST)
    (BitVec.ofNat 32 (path * 2 ^ 26 + addr % 2 ^ 24 / 4 * 4 + (if write then 2 else 0) + 1))
  s2.raiseCond 5 (2 ^ bit)

/-! ### Dies and tiers -/

/-- The channels fenced when a die loses power (table Fenced channels, R252). -/
def fencedBy (d c : Nat) : Bool :=
  if d ≤ 3 then c ≤ 7 else if d = 4 then 8 ≤ c
  else if d ≤ 7 then 8 ≤ c && c ≤ 15 else if d = 8 then 16 ≤ c
  else if d ≤ 11 then 16 ≤ c && c ≤ 23 else 24 ≤ c

/-- The channels that fence for die `d` (R252 to R255): OFFLINE with LAST_CAUSE 0x03, FENCED, CAUSE_DIE, the count, CH_VP
raised, and LAYER_LOST where the die held a layer, when its power was lost. -/
def State.fenceDie (s : State) (d : Nat) (lost : Bool) : State :=
  s.each 32 fun c t =>
    if !fencedBy d c || (t.chan c).st == .retired then t else
    let t1 := t.chanOffline c 3
    let t2 := ((t1.setFlag (F.CH_FENCE_STS_FENCED c) true).setFld (F.CH_FENCE_STS_CAUSE_DIE c) d).bump
      (F.CH_FENCE_STS_FENCE_COUNT c)
    let t3 := if lost && c / 8 == d / 4 then t2.setFlag (F.CH_FENCE_STS_LAYER_LOST c) true else t2
    t3.raise (128 + 4 * c + 1) 2

end Sys2Proof.Machine
end

