-- ==== Sys2Proof/Machine/Regs.lean ====
section
/-!
DEFINITION. What is common to every register access (R66 to R93): privilege, islands, what a read returns, range and
lock checks, staging, pairs, and the account of refused accesses.
-/
namespace Sys2Proof.Machine

/-- What a register access answers: the state after it, its status and the data read. -/
structure Res where
  st : State
  status : Status
  data : Word
  /-- the completion is held: the write of an accepted RESET_REQ waits for its island reset (R53) -/
  held : Bool
  deriving DecidableEq, Repr

/-- A completed write. -/
def done (s : State) : Res := ⟨s, .ok, 0, false⟩

/-- A write that completes IGNORED and changes nothing (R70). -/
def ignored (s : State) : Res := ⟨s, .ignored, 0, false⟩

/-! ### Who accesses -/

/-- An access by firmware, or by a program of q7 (R78, table Queue classes). -/
def isSecure : Path → Bool
  | .fw _ => true
  | .eng _ q => q.val == 7
  | _ => false

/-- The access is privileged (R78, R175, R263). -/
def State.privileged (s : State) : Path → Bool
  | .sb m => s.primary == some m.val
  | .ctl m pr => pr && bitOf (s.fld (F.XPT_PRIV_EN_MODULES.inHalf (halfOfMod m.val))) m.val
  | .eng _ q => q.val == 6
  | .fw _ => false

/-- The access passes the privilege check (R79). -/
def State.allowed (s : State) (p : Path) : Bool := isSecure p || s.privileged p

/-- The life-cycle state that the fuse bits give (R481); LC_STS.STATE. -/
def lifeState (bits : Nat) : Nat :=
  match bits with
  | 0 => 0 | 1 => 1 | 3 => 2 | 7 => 3 | 15 => 4 | _ => 5

/-- The life-cycle state in force. -/
def State.lifeState (s : State) : Nat := Machine.lifeState s.fuses.life

/-- A session of a role can be open in a life-cycle state (table Life-cycle states): 1 installer, 2 maker. -/
def sessionPermitted (st role : Nat) : Bool :=
  (role == 1 && (st == 2 || st == 3)) || (role == 2 && (st == 1 || st == 4))

/-- A session is open and the access comes on its path, or is secure (R80, R485). -/
def State.sessionOk (s : State) (p : Path) : Bool :=
  isSecure p || (s.life.session != 0 && s.life.sessPath == pathNum p)

/-- EXD_STS.TEST_OK (R437). -/
def State.testOk (s : State) : Bool := s.life.session != 0 && sessionPermitted s.lifeState s.life.session

/-- An access refused under R79 or R80. -/
def State.deny (s : State) (p : Path) (a : Nat) (write : Bool) : Res :=
  ⟨(s.accFault 1 (pathNum p) a write).bump F.GLB_ACC_COUNT_PRIV_DENY_COUNT, .priv, 0, false⟩

/-- A write refused under R81. -/
def State.lockViolation (s : State) (p : Path) (a : Nat) : Res :=
  ⟨(s.accFault 0 (pathNum p) a true).bump F.GLB_ACC_COUNT_LOCK_VIOLATION_COUNT, .ignored, 0, false⟩

/-! ### Where registers are held -/

/-- An address lies inside a block (table Register blocks, R99). -/
def inBlock (a : Nat) : Bool :=
  a < 0x3000 || (0x4000 ≤ a && a < 0xB000) || (0xC000 ≤ a && a < 0xD000) || (0x10000 ≤ a && a < 0x1C000) ||
    (0x20000 ≤ a && a < 0x40000) || (0x100000 ≤ a && a < 0x300000)

/-- The island that holds the block of an address, for an access served by half `h` (R99, R101). -/
def islandOf (h : Half) (a : Nat) : Nat :=
  if 0x100000 ≤ a then (a - 0x100000) / 0x10000
  else if 0x20000 ≤ a then 48 + halfNum h
  else if 0x10000 ≤ a then 36 + (a - 0x10000) / 0x1000
  else if 0xC000 ≤ a then 55
  else if 0xA000 ≤ a then 56
  else if 0x9000 ≤ a then 53
  else if 0x8000 ≤ a then 54
  else if 0x2000 ≤ a ∧ a < 0x3000 then 53
  else 52

/-- The block is mirrored in both fabric islands (R99, R101). -/
def isMirrored (a : Nat) : Bool := 0x20000 ≤ a && a < 0x40000

/-- An island does not serve its registers: in reset, FORCED_OFF, or off in DEEP RETENTION (R91, R102). In FATAL the
registers of a half that has stopped stay readable (R93, log entry 82). -/
def State.islandDown (s : State) (i : Nat) : Bool :=
  s.flag (F.GLB_ISL_STS_IN_RESET i) || s.fld (F.GLB_ISL_CTL_GATE i) == 2 || (s.mode == .deepRetention && i != 52)

/-- The clock of a gated AUTO island restarts: an entry, or a register access, reached it (R51, R91). -/
def State.wake (s : State) (i : Nat) : State :=
  if s.fld (F.GLB_ISL_CTL_GATE i) = 0 ∧ s.flag (F.GLB_ISL_STS_GATED i) then s.setFlag (F.GLB_ISL_STS_GATED i) false else s

/-- An island has no part in a dump (R39, R452). -/
def State.islandAbsent (s : State) (i : Nat) : Bool := s.islandDown i || s.islandStopped i

/-- The key of a register's copy that serves a half. XPT_ADDR_MAP has one authoritative copy, which both mirrors follow
(R29). -/
def regKey (h : Half) (a : Nat) : Nat :=
  if isMirrored a && a != 0x20040 then (match h with | .west => a | .east => a + eastOffset) else a

/-! ### What a read returns -/

/-- The minimum promotion score of a throttle step; none forbids promotion (table Throttle steps, R415). -/
def promotionMin (step : Nat) : Option Nat :=
  if step ≤ 3 then some 0 else if step ≤ 7 then some 4 else if step ≤ 11 then some 8
  else if step ≤ 13 then some 16 else none

/-- LAG_STS.THRESH: the promotion score in force (R229). -/
def State.thresh (s : State) (c : Nat) : Nat :=
  match promotionMin (s.fld F.GLB_MODE_THROTTLE) with
  | some n => max n (s.fld (F.LAG_CFG_PROMOTE_THRESH c))
  | none => 0x3F

/-- The activation budget of a window at the throttle step in force (R240, R415). -/
def State.budgetNow (s : State) : Nat := 80 * (16 - s.fld F.GLB_MODE_THROTTLE)

/-- A slot is pinned: an entry of the engine's pin table names it (R227, R261). -/
def Chan.pinned (x : Chan) (i : Nat) : Bool := x.eng.pins.toList.contains (some i)

/-- Entries of the pin table in use. -/
def Eng.pinCount (e : Eng) : Nat := (e.pins.toList.filter Option.isSome).length

/-- Slots for which `p` holds. -/
def Chan.countSlots (x : Chan) (p : Slot → Bool) : Nat := (x.slots.filter fun e => p e.2).length

/-- The queues are served from the proxy, whose rings are in force: the channel is OFFLINE and its proxy ONLINE (R278,
R292, R528). -/
def State.proxyNow (s : State) (c : Nat) : Bool :=
  (s.chan c).st == .offline && (s.chan (s.fld (F.EXD_CFG_PROXY_CH c))).st == .online

/-- The ring indices of a queue in force: the proxy set of q6 and q7 while PROXY is 1 (R528). -/
def State.qset (s : State) (c q : Nat) : QSet :=
  let e := (s.chan c).eng
  if s.proxyNow c && q ≥ 6 then e.prx[q]?.getD QSet.start else e.own[q]?.getD QSet.start

/-- EXD_STS.STATE (R292). -/
def EngPhase.code : EngPhase → Nat
  | .idle => 0 | .reading => 1 | .fetching => 2 | .running => 3 | .ending => 4

/-- Requests held by a channel under R114. -/
def State.heldCount (s : State) (c : Nat) : Nat :=
  (s.txns.filter fun t => s.txnIn c t && (match t.stage with | .held _ => true | _ => false)).length

/-- POLL_SUMMARY as read: CHANGE_SEQ and the latches as held, the levels as their conditions stand (R95). -/
def State.pollWord (s : State) : Nat :=
  let w := (s.reg (adr .POLL_SUMMARY)).toNat
  let lv := 32768 * b2n (s.mode == .fatal) + 16384 * b2n (s.mode == .safe) + 8192 * b2n s.fltAny +
    4096 * b2n s.errPin + 2048 * b2n (s.flag F.QOS_DELIV_SHORTFALL)
  w / 65536 * 65536 + lv + w % 2048

/-- The base of an address's pending staged value: a flow context's shadow serves its four words. -/
def State.isPending (s : State) (r : Reg) (a : Nat) : Bool :=
  match r with
  | .FLOW_W3 => (s.flowShadows.get (fun _ => none) ((a - 0x30000) / 16)).isSome
  | _ => (s.shadows.get (fun _ => none) a).isSome

/-- The bit where a register shows PENDING (R74), if it has it. -/
def pendingBit (r : Reg) : Option Nat :=
  match r with
  | .UCI_CTL => some 16
  | .FLOW_W3 => some 30
  | .UCI_ERR_CFG | .QOS_FLOOR_CFG | .QOS_ARB_CFG | .QOS_URG_CFG | .LAG_CFG | .ECC_CFG | .ECC_SCRUB_CFG | .REF_CFG
  | .CAL_CFG | .THM_CFG | .PWR_CAP | .THM_WEAR_CFG | .CWY_CFG | .CWY_PKG_BUDGET => some 31
  | _ => none

/-- The idle limit of a session in counts of the time base (R489). -/
def State.idleLimit (s : State) : Nat := 1000000000 * s.fld F.LC_SESS_CTL_IDLE_S

/-- Seconds left until a session's idle expiry (LC_STS.IDLE_LEFT). -/
def State.idleLeft (s : State) : Nat :=
  if s.life.session = 0 then 0 else ceilDiv (s.idleLimit - s.countsSince s.life.lastUse) 1000000000

/-- The word a read of register `r` (copy `u`, index `i`) returns to an access on path `p` served by half `h`: the word
held, with the fields that mirror other state composed from it. -/
def State.view (s : State) (p : PathNum) (h : Half) (r : Reg) (u i : Nat) : Word :=
  let a := adr r u i
  let w := (s.reg (regKey h a)).toNat
  let x := s.chan u
  let v : Nat := match r with
    | .GLB_TIME_LO => s.timeBase.toNat % 2 ^ 32
    | .GLB_TIME_HI => s.timeBase.toNat / 2 ^ 32
    | .POLL_SUMMARY => s.pollWord
    | .GLB_MODE => putBits w 2 0 s.mode.code
    | .CH_STATE => putBits (putBits w 2 0 x.st.code) 23 16 (min 255 (s.heldCount u))
    | .UCI_STS => putBits (putBits w 31 28 (s.mod u).stage.code) 25 25 (b2n (s.primary == some u))
    | .XPT_STS => s.entries
    | .QOS_FLOOR => if s.floorStale then putBits w F.QOS_FLOOR_VALID.hi F.QOS_FLOOR_VALID.lo 0 else w
    | .FLT_STS => putBits (putBits w 0 0 (b2n s.errPin)) 1 1 (b2n s.tripPin)
    | .CH_BUDGET_STS => putBits w 10 0 s.budgetNow
    | .LAG_STS => s.thresh u * 2 ^ 26 + x.slots.length * 2 ^ 16 + x.countSlots (fun v => v.state.isDirty) * 2 ^ 8 +
        x.eng.pinCount
    | .LAG_SLOT_TAG => (x.slot i).loc
    | .LAG_SLOT_STS =>
      let v := x.slot i
      v.state.code * 2 ^ 29 + b2n (x.held.contains i) * 2 ^ 28 + b2n v.redirty * 2 ^ 27 + b2n (x.pinned i) * 2 ^ 26 +
        (if v.state = .empty then 0 else min 0xFFFF ((s.now - v.last) / 1000))
    | .EXD_STS =>
      let e := x.eng
      e.phase.code * 2 ^ 29 + b2n s.testOk * 2 ^ 28 + b2n (s.proxyNow u) * 2 ^ 27 +
        (if e.busy then e.queue else 0) * 2 ^ 24 + e.pinCount * 2 ^ 16 + (if e.phase = .running then e.pc else 0)
    | .EXD_QSTS =>
      let q := s.qset u i
      b2n q.phase * 2 ^ 31 + b2n (x.eng.phase == .running && x.eng.queue == i) * 2 ^ 30 + q.head * 2 ^ 20 + q.tail * 2 ^ 10
    | .ECC_LOG_STS => putBits w 24 16 x.log.entries.length
    | .ECC_LOG_HOLD => (s.popHold.get (fun _ => 0) ((p * 32 + u) * 8 + i)).toNat
    | .ECC_SCRUB_STS => putBits (putBits w 25 16 (1024 * x.scrub.pointer / 2105344)) 30 30
        (b2n (!(s.flag (F.ECC_SCRUB_CFG_SCRUB_EN u) && x.st == .online && (s.mode == .active || s.mode == .safe))))
    | .VPT_STS => putBits w 30 30 (Nat.lor (w / 2 ^ 30 % 2) (b2n (s.inStep7 u)))
    | .REF_STS => putBits (putBits (putBits w 29 29 (s.fld F.GLB_MODE_FPOINT)) 28 28 (b2n (s.selfRef u))) 24 16
        (x.refresh.lap.get (fun _ => 0) 0)
    | .REF_TRK_STS => x.refresh.sat.length * 2 ^ 16
    | .CAL_LDG_STS => putBits (putBits w 31 31 (b2n (s.mram.ledger.length == 2048))) 27 16 s.mram.ledger.length
    | .LC_STS => s.lifeState * 2 ^ 29 + s.life.session * 2 ^ 27 +
        (if s.life.session = 0 then 0 else s.life.sessPath) * 2 ^ 21 + b2n s.life.nonce.isSome * 2 ^ 20 +
        b2n s.life.lockout * 2 ^ 19 + b2n s.fuses.makerKey.isSome * 2 ^ 18 + b2n s.fuses.installerKey.isSome * 2 ^ 17 +
        s.life.fails * 2 ^ 13 + s.idleLeft
    | _ => w
  BitVec.ofNat 32 (match pendingBit r with
    | some b => putBits v b b (b2n (s.isPending r a))
    | none => v)

/-! ### Pairs -/

/-- The key of what a path holds or latches at an address. -/
def pathKey (p : PathNum) (a : Nat) : Nat := p * 2 ^ 24 + a

/-- The high register of a pair whose low register is `r` (R85). -/
def pairHigh (r : Reg) : Option Reg :=
  match r with
  | .GLB_TIME_LO => some .GLB_TIME_HI
  | .UCI_LPBK_LANES_LO => some .UCI_LPBK_LANES_HI
  | .CAL_LAST_TIME_LO => some .CAL_LAST_TIME_HI
  | .CAL_FUSE_REC_LO => some .CAL_FUSE_REC_HI
  | .FLT_FIRST_LO => some .FLT_FIRST_HI
  | .AUTH_LAST_MOVE_LO => some .AUTH_LAST_MOVE_HI
  | .OBS_SNAP_TIME_LO => some .OBS_SNAP_TIME_HI
  | .OBS_CNT_LO => some .OBS_CNT_HI
  | .CH_CNT_LO => some .CH_CNT_HI
  | .OBS_SNAP_LO => some .OBS_SNAP_HI
  | .CH_SNAP_LO => some .CH_SNAP_HI
  | _ => none

/-- The register is the high half of a pair. -/
def isPairHigh (r : Reg) : Bool := Reg.all.any fun l => pairHigh l == some r

/-! ### Writes -/

/-- A field's value is one its table allows (R69). -/
def Lim.ok : Lim → Nat → Bool
  | .any, _ => true
  | .upTo n, v => v ≤ n
  | .range lo hi, v => lo ≤ v && v ≤ hi
  | .zeroOr lo hi, v => v == 0 || (lo ≤ v && v ≤ hi)
  | .among l, v => l.contains v

/-- The fields of a write that a check of R69 covers: those a write can change. -/
def FieldSpec.checked (f : FieldSpec) : Bool :=
  match f.acc with
  | .rw | .wo | .stg | .lck | .otw | .mw => true
  | .ro | .w1c => false

/-- Every field a write gives is in range (R69). -/
def inRange (r : Reg) (w : Nat) : Bool :=
  r.fields.all fun f => !f.checked || f.lim.ok (bitsOf w f.hi f.lo)

/-- What a write makes of the word held: RW, LCK and OTW fields take it, W1C bits clear, MW bits follow the mask; RO, WO
and staged fields are not touched (table Access codes, R66, R72). -/
def applyFields (r : Reg) (old w : Nat) : Nat :=
  r.fields.foldl (fun a f =>
    match f.acc with
    | .rw | .lck | .otw => putBits a f.hi f.lo (bitsOf w f.hi f.lo)
    | .w1c => (List.range (f.hi + 1 - f.lo)).foldl
        (fun a k => if bitOf w (f.lo + k) then putBits a (f.lo + k) (f.lo + k) 0 else a) a
    | .mw => (List.range 16).foldl
        (fun a k => if bitOf w (16 + k) then putBits a k k (b2n (bitOf w k)) else a) a
    | .ro | .wo | .stg => a) old

/-- A register with staged fields. -/
def hasStaged (r : Reg) : Bool := r.fields.any fun f => f.acc == .stg

/-- A register with a LOCK bit (R82). -/
def hasLock (r : Reg) : Bool := r.fields.any fun f => f.acc == .lck && f.hi == 31 && f.lo == 31

/-- A register's word written in every copy it has (R101). -/
def State.putReg (s : State) (r : Reg) (u i : Nat) (w : Nat) : State :=
  let a := adr r u i
  let s1 := s.setReg a (BitVec.ofNat 32 w)
  if isMirrored a && a != 0x20040 then s1.setReg (a + eastOffset) (BitVec.ofNat 32 w) else s1

/-- The word held of a register (West copy of a mirrored one). -/
def State.getReg (s : State) (r : Reg) (u i : Nat) : Nat := (s.reg (adr r u i)).toNat

/-- A write without an effect of its own, its checks passed: fields applied, staged fields in the shadow (R66, R73). A
mirrored register keeps each copy's read-only fields. -/
def State.plainWrite (s : State) (p : PathNum) (r : Reg) (u i : Nat) (w : Word) : State :=
  let a := adr r u i
  let s1 := s.setReg a (BitVec.ofNat 32 (applyFields r (s.reg a).toNat w.toNat))
  let s2 := if isMirrored a && a != 0x20040 then
      s1.setReg (a + eastOffset) (BitVec.ofNat 32 (applyFields r (s1.reg (a + eastOffset)).toNat w.toNat)) else s1
  if hasStaged r then { s2 with shadows := s2.shadows.set (fun _ => none) a (some ⟨w, p⟩) } else s2

/-- The shadow of a register applied: its staged fields take the shadow (R73), in every copy. -/
def applyStaged (r : Reg) (old w : Nat) : Nat :=
  r.fields.foldl (fun a f => if f.acc = .stg then putBits a f.hi f.lo (bitsOf w f.hi f.lo) else a) old

/-- The conditions on device state a staged write meets at its boundary (R76). -/
def shadowOk (_r : Reg) (_w : Nat) : Bool := true

/-- The shadow at an address applied, or discarded when its condition fails there (R73, R76). -/
def State.applyShadow (s : State) (a : Nat) : State :=
  match s.shadows.get (fun _ => none) a, regAt a with
  | some sh, some (r, u, i) =>
    let s1 := { s with shadows := s.shadows.set (fun _ => none) a none }
    if shadowOk r sh.word.toNat then s1.putReg r u i (applyStaged r (s1.getReg r u i) sh.word.toNat)
    else s1.accFault 4 sh.path a true
  | _, _ => s

/-- Every pending shadow at an address for which `dom` holds applied, as at one boundary (R73). -/
def State.applyShadows (s : State) (dom : Nat → Bool) : State :=
  ((s.shadows.map fun e => e.1).filter dom).foldl (fun t a => t.applyShadow a) s

/-- The staging domain of channel `c` (R73). -/
def domChan (c a : Nat) : Bool := 0x100000 + c * 0x10000 ≤ a && a < 0x110000 + c * 0x10000
/-- The staging domain of module `m`. -/
def domMod (m a : Nat) : Bool := 0x10000 + m * 0x1000 ≤ a && a < 0x11000 + m * 0x1000
/-- The QoS domain. -/
def domQos (a : Nat) : Bool := 0x28000 ≤ a && a < 0x40000
/-- The global domain: every other block. -/
def domGlobal (a : Nat) : Bool := a < 0x10000 || (0x20000 ≤ a && a < 0x28000)

/-- Registers for which `p` holds returned to their reset values, their shadows discarded (R53, R77). -/
def State.eraseRegs (s : State) (p : Nat → Bool) : State :=
  { s with regs := s.regs.erase p, shadows := s.shadows.erase p }

end Sys2Proof.Machine
end

