-- ==== Sys2Proof/Machine/Life.lean ====
section
/-!
DEFINITION. Roles and life cycle: sessions, the audit log, life-cycle transitions and the overrides (R481 to R495).
-/
namespace Sys2Proof.Machine

/-! ### The audit log -/

/-- An audit entry's words, for an event at a reading of the time base (table Audit entry). -/
def State.auditWords (s : State) (time : Word64) (event role path result addr data : Nat) : List Word :=
  let w := [BitVec.ofNat 32 s.mram.auditSeq,
    BitVec.ofNat 32 (event * 2 ^ 28 + role * 2 ^ 26 + path * 2 ^ 20 + result * 2 ^ 16 + s.fld (F.ECC_LIFE_UE_BOOT 0)),
    BitVec.ofNat 32 addr, BitVec.ofNat 32 data, time.setWidth 32, (time >>> 32).setWidth 32, 0]
  w ++ [BitVec.ofNat 32 (crc32c (wordBytes w))]

/-- An audit entry made for an event at a reading of the time base: it waits for its MRAM write (R493). -/
def State.auditOf (s : State) (time : Word64) (event role path result addr data : Nat) : State :=
  { s with mram := { s.mram with
      auditWait := s.mram.auditWait ++ [s.auditWords time event role path result addr data],
      auditSeq := s.mram.auditSeq + 1 } }

/-- An audit entry made for an event of this moment. -/
def State.audit (s : State) (event role path result addr data : Nat) : State :=
  s.auditOf s.timeBase event role path result addr data

/-- A descriptor with TEST = 1 is accepted: its entry names the open session, the channel, the queue and the descriptor's
index (R493). -/
def State.auditTest (s : State) (c queue index : Nat) : State :=
  s.audit 8 s.life.session s.life.sessPath 0 c (queue * 2 ^ 16 + index)

/-- The oldest waiting audit entry committed at the position NEXT, or its commit failed (R493). -/
def State.auditEnd (s : State) (ok : Bool) : State :=
  if !s.mramRuns then s else
  match s.mram.auditWait with
  | [] => s
  | e :: rest =>
    let s1 := { s with mram := { s.mram with auditWait := rest } }
    if ok then
      let n := s1.fld F.LC_AUD_STS_NEXT
      let s2 := { s1 with mram := { s1.mram with audit := s1.mram.audit.set (fun _ => []) n e } }
      let s3 := s2.setFld F.LC_AUD_STS_NEXT (n + 1)
      (if n = 511 then s3.bump F.LC_AUD_STS_WRAPS else s3).latch F.POLL_SUMMARY_AUDIT
    else (s1.raise 104 2).bump F.LC_AUD_STS_LOST

/-- The eight words a lookup of an audit position shows: 0 where it was never written or its CHECK fails (R494). -/
def State.auditAt (s : State) (n : Nat) : List Word :=
  let e := s.mram.audit.get (fun _ => []) n
  if e.length = 8 ∧ (e.getD 7 0).toNat = crc32c (wordBytes (e.take 7)) then e else List.replicate 8 0

/-- A write of LC_AUD_IDX.INDEX: the lookup (R494). -/
def State.wAudIdx (s : State) (p : PathNum) (w : Word) : Res :=
  let s1 := s.plainWrite p .LC_AUD_IDX 0 0 w
  let e := s1.auditAt (bitsOf w.toNat 8 0)
  done ((s1.each 8 fun k t => t.setReg (adr .LC_AUD_ENT 0 k) (e.getD k 0)).setFlag F.LC_AUD_IDX_VALID true)

/-! ### Sessions -/

/-- The session ended by an event of its own, logged now (R489, R493). -/
def State.endSession (s : State) (event : Nat) : State :=
  if s.life.session = 0 then s
  else { s.audit event s.life.session s.life.sessPath 0 0 0 with life := { s.life with session := 0 } }

/-- A failed attempt: LC_AUTH_FAIL, FAILS, and LOCKOUT at the eighth (R488). -/
def State.failAttempt (s : State) (p role : Nat) : State :=
  let s1 := (s.raise 112 0).audit 5 role p 9 0 0
  let n := min 8 (s.life.fails + 1)
  let s2 := { s1 with life := { s1.life with fails := n } }
  if n = 8 ∧ !s.life.lockout then { s2.audit 6 role p 9 0 0 with life := { s2.life with lockout := true } } else s2

/-- The key of a role, when it is blown (R484). -/
def State.roleKey (s : State) (role : Nat) : Option (List Byte) :=
  if role = 1 then s.fuses.installerKey else if role = 2 then s.fuses.makerKey else none

/-- The message a response covers (R487). -/
def State.sessionMessage (s : State) (role path : Nat) : List Nat :=
  ((List.range 8).flatMap fun k => bytesLE 4 (s.reg (adr .LC_CHAL 0 k)).toNat) ++ bytesLE 4 (s.reg (adr .GLB_ID)).toNat ++
    [role, path, s.lifeState, 0]

/-- The response words hold the HMAC-SHA-256 of the message under the role's key (R487). -/
def State.responseOk (s : State) (role path : Nat) : Bool :=
  match s.roleKey role with
  | none => false
  | some k =>
    ((List.range 8).flatMap fun i => bytesLE 4 (s.life.resp.get (fun _ => 0) i).toNat) ==
      hmac256 (k.map (·.toNat)) (s.sessionMessage role path)

/-- A nonce drawn into LC_CHAL (R486). -/
def State.drawNonce (s : State) (role : Nat) : State :=
  let n := Config.freeNonce s.free
  let s1 := s.useFree.each 8 fun k t => t.setReg (adr .LC_CHAL 0 k) ((n >>> (32 * k)).setWidth 32)
  { s1 with life := { s1.life with nonce := some s1.now, nonceRole := role } }

/-- CHALLENGE (R486, R488). -/
def State.challenge (s : State) (p : PathNum) (w : Word) : Res :=
  if s.life.session ≠ 0 ∨ s.life.lockout then ignored s
  else done ((s.plainWrite p .LC_SESS_CTL 0 0 w).drawNonce (bitsOf w.toNat 25 24))

/-- An OPEN that succeeds logs audit code 1 and binds the session to its role and its path (R487, R489). -/
def State.bindSession (s : State) (p : PathNum) (role : Nat) : State :=
  { s.audit 1 role p 0 0 0 with life := { s.life with session := role, sessPath := p, lastUse := s.timeBase.toNat } }

/-- An OPEN fails at once: no nonce waits, its ROLE is not the challenge's, or a session is open (R486). -/
def State.openFails (s : State) (w : Word) : Bool :=
  s.life.nonce.isNone || bitsOf w.toNat 25 24 != s.life.nonceRole || s.life.session != 0

/-- OPEN (R486 to R488). -/
def State.openSession (s : State) (p : PathNum) (w : Word) : Res :=
  let role := bitsOf w.toNat 25 24
  if s.openFails w then ⟨s.failAttempt p role, .ignored, 0, false⟩
  else
    let s1 := s.plainWrite p .LC_SESS_CTL 0 0 w
    let s2 := { s1 with life := { s1.life with nonce := none } }
    if sessionPermitted s2.lifeState role && s2.responseOk role p then
      done (s2.bindSession p role)
    else done (s2.failAttempt p role)

/-- CLOSE, accepted on the bound path only (R489). -/
def State.closeSession (s : State) (p : PathNum) (w : Word) : Res :=
  if s.life.session ≠ 0 ∧ s.life.sessPath = p then done ((s.plainWrite p .LC_SESS_CTL 0 0 w).endSession 2) else ignored s

/-- A write of LC_SESS_CTL. More than one action bit is refused (log entry 10). -/
def State.wSessCtl (s : State) (p : Path) (w : Word) : Res :=
  match p with
  | .eng _ _ | .fw _ => s.deny p (adr .LC_SESS_CTL) true
  | .sb _ | .ctl _ _ =>
    match bitsOf w.toNat 31 29 with
    | 4 => s.challenge (pathNum p) w
    | 2 => s.openSession (pathNum p) w
    | 1 => s.closeSession (pathNum p) w
    | 0 => done (s.plainWrite (pathNum p) .LC_SESS_CTL 0 0 w)
    | _ => ignored s

/-- A write of LC_SESS_CTL with a field out of range: an engine's is PRIV (R485), an OPEN that fails at once is a failed
attempt, its ROLE of 0b00 or 0b11 among the reasons (R486), any other is IGNORED (R69). -/
def State.wSessBad (s : State) (p : Path) (w : Word) : Res :=
  match p with
  | .eng _ _ | .fw _ => s.deny p (adr .LC_SESS_CTL) true
  | .sb _ | .ctl _ _ =>
    if bitsOf w.toNat 31 29 = 2 ∧ s.openFails w then ⟨s.failAttempt (pathNum p) (bitsOf w.toNat 25 24), .ignored, 0, false⟩
    else ignored s

/-- A write of a response word (R486). -/
def State.wResp (s : State) (i : Nat) (w : Word) : Res :=
  done { s with life := { s.life with resp := s.life.resp.set (fun _ => 0) i w } }

/-! ### Life-cycle transitions -/

/-- The role a transition requires: 0 none, 1 installer, 2 maker; none when the table has no such transition (R482). -/
def transitionRole (a b : Nat) : Option Nat :=
  match a, b with
  | 0, 1 => some 0
  | 1, 2 => some 2
  | 2, 3 => some 1
  | 2, 4 | 3, 4 => some 1
  | 2, 5 | 3, 5 => some 1
  | 1, 5 | 4, 5 => some 2
  | _, _ => none

/-- The fuse bits of a life-cycle state (table Life-cycle states). -/
def lifeBits (st : Nat) : Nat := tbl [0, 1, 3, 7, 15, 31] st

/-- Who asks for a transition: the role of the session on the path, or none, and the path (R493). -/
def State.asker (s : State) (p : PathNum) : Nat × PathNum :=
  (if s.life.sessPath = p then s.life.session else 0, p)

/-- A write of LC_CTL (R482). SAFE refuses a fuse operation (R108). -/
def State.wLcCtl (s : State) (p : Path) (w : Word) : Res :=
  let b := bitsOf w.toNat 31 29
  if b = 0 then done s
  else match transitionRole s.lifeState b with
    | none => ignored s
    | some role =>
      if s.flag F.LC_CTL_BUSY ∨ s.mode = .safe then ignored s
      else if role ≠ 0 ∧ !(isSecure p || (s.life.session == role && s.life.sessPath == pathNum p)) then
        s.deny p (adr .LC_CTL) true
      else if s.lifeState = 1 ∧ b = 2 ∧ s.fuses.installerKey.isNone then ignored s
      else done { s.setFlag F.LC_CTL_BUSY true with life := { s.life with
        pendingBits := lifeBits b, pendingBy := s.asker (pathNum p) } }

/-- The end of a transition: the bits read back decide the state in force; a bit once blown stays so (R482, R483). -/
def State.transitionEnd (s : State) (bits : Nat) : State :=
  if s.flag F.LC_CTL_BUSY then
    let old := s.lifeState
    let now := s.fuses.life ||| bits
    let ok := now == s.life.pendingBits
    let s1 := { s with fuses := { s.fuses with life := now } }
    let s2 := ((s1.setFlag F.LC_CTL_BUSY false).setFld F.LC_CTL_RESULT (b2n !ok)).latch F.POLL_SUMMARY_DONE
    let s3 := if ok then s2 else s2.raise 102 0
    let s4 := s3.audit 9 s3.life.pendingBy.1 s3.life.pendingBy.2 (if ok then 0 else 8) old s3.lifeState
    if s4.life.session ≠ 0 ∧ !sessionPermitted s4.lifeState s4.life.session then s4.dropSession else s4
  else s

/-! ### Overrides -/

/-- A write of LC_STRAP_OVR (R491). -/
def State.wStrapOvr (s : State) (p : Path) (w : Word) : Res :=
  if !s.sessionOk p then s.deny p (adr .LC_STRAP_OVR) true
  else if s.life.override ∧ !bitOf w.toNat 31 then ignored s
  else done (s.plainWrite (pathNum p) .LC_STRAP_OVR 0 0 w)

/-- A write of LC_TRN_OVR (R492). -/
def State.wTrnOvr (s : State) (p : Path) (w : Word) : Res :=
  if !s.sessionOk p then s.deny p (adr .LC_TRN_OVR) true
  else done (s.plainWrite (pathNum p) .LC_TRN_OVR 0 0 w)

/-- The strap override taken at a management tick: it replaces the straps and ends STRAP_DISAGREE (R491). -/
def State.strapTick (s : State) : State :=
  if s.flag F.LC_STRAP_OVR_EN then
    let s1 := { s with
      life := { s.life with override := true },
      pins := { s.pins with stackId := s.fld F.LC_STRAP_OVR_STACK_ID, mgrEn := s.flag F.LC_STRAP_OVR_MGR_EN,
                            mgrCapable := s.flag F.LC_STRAP_OVR_MGR_CAPABLE } }
    if s1.flag (liveFld 111) then (s1.endCondition 111).clearSafeCause 3 else s1
  else s

/-! ### Events -/

/-- A nonce lapses 1 s after it was drawn (R486). -/
def State.nonceLapse (s : State) : State :=
  match s.life.nonce with
  | some t => { s.advanceTo (t + 1000000000) with life := { s.life with nonce := none } }
  | none => s

/-- A session lapses after IDLE_S seconds of the time base with no accepted access (R489). -/
def State.idleExpiry (s : State) : State :=
  if s.life.session = 0 then s else (s.advanceSince s.life.lastUse s.idleLimit).endSession 4

/-- The idle count of the open session has lapsed in this cycle: the access that it served was its last (R489). -/
def State.lapseNow (s : State) : State :=
  if s.life.session ≠ 0 ∧ s.idleLimit ≤ s.countsSince s.life.lastUse then s.endSession 4
  else { s with life := { s.life with lastUse := s.timeBase.toNat } }

/-- What an accepted access does to the session bound to its path: a write is logged, and the idle count restarts unless
it lapses in this cycle (R489, R493). `open0` says that the session was open when the access arrived. -/
def State.noteAccess (s : State) (open0 : Bool) (p : PathNum) (write : Bool) (a : Nat) (w : Word) : State :=
  if open0 then
    (if write then s.audit 7 (if s.life.session = 0 then s.life.nonceRole else s.life.session) p 0 a w.toNat else s).lapseNow
  else s

end Sys2Proof.Machine
end

