-- ==== Sys2Proof/Machine/Links.lean ====
section
/-!
DEFINITION. The UCIe modules: training, the rate in force, lane repair, retrain, exclusion, the primary, equaliser and
loopbacks (R127 to R153).
-/
namespace Sys2Proof.Machine

/-- UNIT bit of a module. -/
def modBit (m : Nat) : Nat := 2 ^ m

/-- Module `m` put into a stage. LOCKED reads 1 in every stage but RESET, and 0 in DEEP RETENTION (R54). The floor is to be recomputed when it enters or leaves ACTIVE, RETRAIN or L1 (R211). -/
def State.setStage (s : State) (m : Nat) (g : Stage) : State :=
  let inM (x : Stage) : Bool := x == .active || x == .retrain || x == .l1
  let stale := inM (s.mod m).stage != inM g
  let s1 := if (s.mod m).stage = g then s else s.traceEv 8 (g.code * 16 + m) 0
  let s2 := s1.setFlag (F.GLB_ISL_STS_LOCKED (36 + m)) (g != .reset && s.mode != .deepRetention)
  { s2.modMod m (fun x => { x with stage := g }) with floorStale := s.floorStale || stale }

/-! ### The equaliser -/

/-- Taps PRE, MAIN, POST of a preset (table Equaliser presets, R141). -/
def preset (n : Nat) : Nat × Nat × Nat :=
  [(0, 32, 0), (0, 30, 2), (0, 28, 4), (0, 26, 6), (0, 24, 8), (2, 28, 2), (2, 26, 4), (4, 24, 4), (4, 20, 8)].getD n (0, 32, 0)

/-- The taps in force written. -/
def State.setTaps (s : State) (m pre post : Nat) (partner : Bool) : State :=
  (((s.setFlag (F.UCI_EQ_PARTNER_SET m) partner).setFld (F.UCI_EQ_PRE m) pre).setFld (F.UCI_EQ_MAIN m)
    (32 - pre - post)).setFld (F.UCI_EQ_POST m) post

/-- The preset of a rate put in force (R141): P0 at 16 and 24 GT/s. -/
def State.presetTaps (s : State) (m rate : Nat) : State :=
  let t := preset (if rate = 3 then s.fld (F.UCI_CTL_PRESET48 m) else if rate = 2 then s.fld (F.UCI_CTL_PRESET32 m) else 0)
  s.setTaps m t.1 t.2.2 false

/-- The taps follow the preset of the rate in force, unless a partner has set them (R141, R142). -/
def State.followPreset (s : State) (m : Nat) : State :=
  if s.flag (F.UCI_EQ_PARTNER_SET m) then s else s.presetTaps m (s.fld (F.UCI_STS_RATE m))

/-- A staging boundary of the module (R73, R143, R153): its shadows applied, a preset among them in force. -/
def State.moduleBoundary (s : State) (m : Nat) : State := (s.applyShadows (domMod m)).followPreset m

/-- The answer to EQ_SET or EQ_GET with the taps in force. -/
def State.eqAnswer (s : State) (m : Nat) (st : Status) : State :=
  s.emit (.eqRsp m st (s.fld (F.UCI_EQ_PRE m)) (s.fld (F.UCI_EQ_MAIN m)) (s.fld (F.UCI_EQ_POST m)))

/-- The taps of an EQ_SET taken and answered, or IGNORED (R142). -/
def State.eqTake (s : State) (m pre post : Nat) : State :=
  if (s.mod m).stage = .mbTrain ∧ 2 ≤ s.fld (F.UCI_STS_RATE m) ∧ s.flag (F.UCI_CTL_EQ_AUTO m) ∧ pre ≤ 4 ∧ post ≤ 8 then
    (s.setTaps m pre post true).eqAnswer m .ok
  else s.eqAnswer m .ignored

/-- EQ_SET (R142). -/
def State.eqSet (s : State) (m : Nat) (d : Nat) : State :=
  if (s.mod m).sbUp then s.eqTake m (bitsOf d 15 8) (bitsOf d 7 0) else s

/-- EQ_GET (R142). -/
def State.eqGet (s : State) (m : Nat) : State := if (s.mod m).sbUp then s.eqAnswer m .ok else s

/-! ### Exclusion -/

/-- A completion goes to the CTL channel of module `m`. -/
def Answer.onCtl (m : Nat) : Answer → Bool
  | .ctl k _ => k == m
  | .sideband _ _ | .engine | .direct => false

/-- A strait entry whose owner's tag an exclusion of module `m` frees: nothing is answered for it any more (R161). -/
def StraitEntry.muteOf (m : Nat) (e : StraitEntry) : StraitEntry :=
  match e.owner with
  | .txn k _ | .access (.ctl k _) _ _ _ => { e with mute := e.mute || k.val == m }
  | .access (.sb _) .. | .access (.eng _ _) .. | .access (.fw _) .. | .item => e

/-- Step 4 of the table Exclusion drain, for any cause (R146): unsent responses discarded and counted (an unsent CFG_CPL is
dropped uncounted, log entry 86), the credit state ended, every tag freed (R161), EXCLUDED set with its cause, UCI_EXCLUDED
raised. Requests that wait in the ingress buffer are still served, as are register accesses on their way; nothing is
answered for either (R146, R161). -/
def State.excludeMod (s : State) (m cause : Nat) : State :=
  let x := s.mod m
  let s0 := x.egress.foldl (fun t o => match o with | .rdData _ tag .. | .ack _ tag .. => t.tagSent m tag false | _ => t) s
  let s1 := s0.bump (F.UCI_DROP_CNT_RSP_DISCARD m) x.egress.length
  let s2 := (s1.setStage m (if x.sbUp then .excluded else .sbDetect)).modMod m fun y =>
    { y with egress := [], ctlOut := [], initOut := false, initIn := false, including := false, lpbk := none, skip := none,
             ingress := y.ingress.map fun w => { w with txn := { w.txn with orphan := true } } }
  let s2 := { s2 with
    txns := s2.txns.map fun (t : Txn) => if t.m = m then { t with orphan := true } else t,
    heldAccesses := s2.heldAccesses.filter fun h => !h.answer.onCtl m,
    straits := s2.straits.map fun (x : Nat × Strait) => (x.1, { x.2 with entries := x.2.entries.map (StraitEntry.muteOf m) }) }
  let s3 := (s2.setFlag (F.UCI_STS_EXCLUDED m) true).setFld (F.UCI_STS_EXCL_CAUSE m) cause
  (s3.latch F.POLL_SUMMARY_LINK).raiseCond 34 (modBit m)

/-- No usable module is excluded: a module that the part lacks is excluded by none of the rules that raise UCI_EXCLUDED (R134, R444). -/
def State.noneExcluded (s : State) : Bool :=
  (List.range 12).all fun m => !bitOf s.part.usable m || !s.flag (F.UCI_STS_EXCLUDED m)

/-- EXCLUDED cleared; UCI_EXCLUDED ends when no module is excluded any more. -/
def State.unexclude (s : State) (m : Nat) : State :=
  let s1 := s.setFlag (F.UCI_STS_EXCLUDED m) false
  if s1.noneExcluded then s1.endCondition 34 else s1

/-- The drain of a module has nothing left: its requests are answered and its responses sent (R146). A CFG_CPL is no
response to a request: the drain does not wait for it (log entry 86). -/
def State.drainDone (s : State) (m : Nat) : Bool :=
  !(s.txns.any fun t => t.m == m && !t.answered && !t.orphan) && (s.mod m).ingress.isEmpty && (s.mod m).egress.isEmpty

/-! ### Training -/

/-- The highest rate a training starts from, before the partner's limit: MAX_RATE and the grade (R135). -/
def State.topRate (s : State) (m : Nat) : Nat := min (s.fld (F.UCI_CTL_MAX_RATE m)) s.part.maxRate

/-- A mainband training started, from MB_INIT (R132). INCLUDE's training is no staging boundary (log entry 87). -/
def State.startTraining (s : State) (m attempt : Nat) : State :=
  (s.setStage m .mbInit).setFld (F.UCI_STS_ATTEMPTS m) attempt

/-- The lanes of a group that fail, as numbers. -/
def failLanes (mask lo : Nat) : List Nat := (below 32 fun i => bitOf mask (lo + i)).map (· + lo)

/-- Repairs beyond the limits of R144. -/
def repairExhausted (e : LinkEnv) : Bool :=
  [(e.lanesTx, 0), (e.lanesTx, 32), (e.lanesRx, 0), (e.lanesRx, 32)].any (fun p => (failLanes p.1.toNat p.2).length > 2) ||
    [e.clkTx, e.clkRx, e.vldTx, e.vldRx, e.trkTx, e.trkRx].any fun n => n.val == 2

/-- A repair register's word for a direction: two entries a group, bit 7 VALID (R153). -/
def repairWord (mask : Nat) : Nat :=
  let ent (l : List Nat) (k : Nat) : Nat := match l[k]? with | some n => 128 + n | none => 0
  let g0 := failLanes mask 0
  let g1 := failLanes mask 32
  ent g1 1 * 2 ^ 24 + ent g1 0 * 2 ^ 16 + ent g0 1 * 2 ^ 8 + ent g0 0

/-- How many lanes a training repairs. -/
def repairCount (e : LinkEnv) : Nat :=
  popcount 64 e.lanesTx.toNat + popcount 64 e.lanesRx.toNat + e.clkTx.val + e.clkRx.val + e.vldTx.val + e.vldRx.val +
    e.trkTx.val + e.trkRx.val

/-- The repairs a training found, recorded; each raises UCI_LANE_REPAIR and sets LINK (R144). -/
def State.recordRepairs (s : State) (m : Nat) (e : LinkEnv) : State :=
  let s1 := (s.setReg (adr .UCI_REPAIR_TX m) (BitVec.ofNat 32 (repairWord e.lanesTx.toNat))).setReg (adr .UCI_REPAIR_RX m)
    (BitVec.ofNat 32 (repairWord e.lanesRx.toNat))
  let s2 := ((s1.setFlag (F.UCI_STS_CLK_REPAIRED m) (e.clkTx.val + e.clkRx.val != 0)).setFlag
    (F.UCI_STS_VLD_REPAIRED m) (e.vldTx.val + e.vldRx.val != 0)).setFlag (F.UCI_STS_TRK_REPAIRED m)
    (e.trkTx.val + e.trkRx.val != 0)
  let s3 := s2.each (repairCount e) fun _ t => t.raise 32 (modBit m)
  if repairCount e = 0 then s3 else s3.latch F.POLL_SUMMARY_LINK

/-- `n` steps down of the rate, each raising UCI_RATE_DOWN and setting LINK (R135). -/
def State.rateDowns (s : State) (m n : Nat) : State :=
  if n = 0 then s else (s.each n fun _ t => t.raise 33 (modBit m)).latch F.POLL_SUMMARY_LINK

/-- The rate in force written; the floor is to be recomputed when it changed (R211). -/
def State.setRate (s : State) (m r : Nat) : State :=
  { s.setFld (F.UCI_STS_RATE m) r with floorStale := s.floorStale || s.fld (F.UCI_STS_RATE m) != r }

/-- The module PLL relocks for a change of lane rate: LOCKED reads 0 until the training it belongs to ends (GLB_ISL_STS,
R54, log entry 88). -/
def State.relock (s : State) (m : Nat) : State := s.setFlag (F.GLB_ISL_STS_LOCKED (36 + m)) false

/-- MB_TRAIN begins at a rate, from its preset (R135, R141, R142). -/
def State.trainAt (s : State) (m r : Nat) : State := (s.setRate m r).presetTaps m r

/-- The steps down of a training or retrain at rate `r0` whose link-speed check first passes at `r`: each is raised, and
MB_TRAIN starts again from the preset, which a partner's EQ_SET may replace (R135, R142). -/
def State.stepDown (s : State) (m r0 r : Nat) (e : LinkEnv) : State :=
  if r0 ≤ r then s
  else
    let s1 := (s.rateDowns m (r0 - r)).trainAt m r
    match e.lateSet with
    | some d => s1.eqTake m (bitsOf d.toNat 15 8) (bitsOf d.toNat 7 0)
    | none => s1

/-- A training or retrain that stands at rate `r0`: repairs, the steps down, then `next` on success or `fail` when the
check fails at 16 GT/s (R135, R143, R144). -/
def State.trainWith (s : State) (m r0 : Nat) (e : LinkEnv) (next fail : State → State) : State :=
  if repairExhausted e then s.excludeMod m 4 else
  let s1 := s.recordRepairs m e
  match e.passes with
  | none => fail (s1.stepDown m r0 0 e)
  | some hp => next (s1.stepDown m r0 hp.toNat e)

/-- A loopback ends with its results; mode 0b11 checks nothing (R151). -/
def State.lpbkEnd (s : State) (m : Nat) (refused : Bool) (lanes errors : Nat) : State :=
  match (s.mod m).lpbk with
  | none => s
  | some l =>
    let ln := if l.mode = 3 ∨ refused then 0 else lanes % 2 ^ 64
    let er := if l.mode = 3 ∨ refused then 0 else min errors 0xFFFF
    let s1 := (s.setStage m .excluded).modMod m fun x => { x with lpbk := none }
    let s2 := ((s1.setFlag (F.UCI_LPBK_STS_VALID m) true).setFlag (F.UCI_LPBK_STS_LPBK_ACTIVE m) false).setFlag
      (F.UCI_LPBK_STS_PARTNER_REFUSED m) refused
    let s3 := (s2.setFld (F.UCI_LPBK_STS_FAIL_LANES m) (popcount 64 ln)).setFld (F.UCI_LPBK_STS_BIT_ERRORS m) er
    (s3.setReg (adr .UCI_LPBK_LANES_LO m) (BitVec.ofNat 32 ln)).setReg (adr .UCI_LPBK_LANES_HI m)
      (BitVec.ofNat 32 (ln / 2 ^ 32))

/-- The module runs a loopback. -/
def State.looping (s : State) (m : Nat) : Bool := (s.mod m).lpbk.isSome

/-- An attempt failed: TRAIN_ERROR, or exclusion with TRAIN_FAIL at the fourth (R134, R147). A loopback whose training has
failed four times ends with nothing counted (log entry 89). -/
def State.attemptFailed (s : State) (m : Nat) : State :=
  if s.fld (F.UCI_STS_ATTEMPTS m) < 4 then s.setStage m .trainError
  else if s.looping m then s.lpbkEnd m false 0 0
  else s.excludeMod m 3

/-- The loopback of a module that has trained to its RATE runs (R150): mode 0b10 asks the partner first, and counts as
running while it waits for the answer (log entry 89). -/
def State.lpbkTrained (s : State) (m : Nat) (l : Lpbk) : State :=
  let s1 := (s.setStage m .loopback).modMod m fun x => { x with lpbk := some { l with waiting := l.mode == 2 } }
  if l.mode = 2 then s1.emit (.kyLpbk m true (s1.fld (F.UCI_LPBK_CTL_DURATION m)) l.rate) else s1

/-- KY_CAP as the device sends it (table Kyohus messages). -/
def kyCapData : Nat := 0x0310

/-- MAINBAND_TRAINING_DONE: the stage of the training that runs has ended (log entry 11). MB_INIT, at 4 GT/s, passes into
MB_TRAIN at the highest rate that both ends allow, or at a loopback's RATE, for which the module PLL relocks (R54); MB_TRAIN steps the rate down as needed and reaches LOCKED,
or begins the loopback; from LOCKED the adapters' exchange follows, and the device sends KY_CAP (R132, R135, R136, R150). -/
def State.trainingDone (s : State) (m : Nat) (e : LinkEnv) : State :=
  match (s.mod m).stage, (s.mod m).lpbk with
  | .mbInit, some l => ((s.setStage m .mbTrain).trainAt m l.rate).relock m
  | .mbInit, none => ((s.setStage m .mbTrain).trainAt m (min (s.topRate m) e.partnerMax.toNat)).relock m
  | .mbTrain, some l =>
    if repairExhausted e then (s.lpbkEnd m false 0 0).excludeMod m 4
    else if !(e.passes.any fun hp => l.rate ≤ hp.toNat) then (s.recordRepairs m e).attemptFailed m
    else (s.recordRepairs m e).lpbkTrained m l
  | .mbTrain, none => s.trainWith m (s.fld (F.UCI_STS_RATE m)) e (·.setStage m .locked) (·.attemptFailed m)
  | .locked, _ => if e.offers then (s.setStage m .capExchange).emit (.kyCap m kyCapData) else s.attemptFailed m
  | _, _ => s

/-- The module enters ACTIVE from CAP_EXCHANGE: the device sends its INIT; the counters start again (R167). -/
def State.enterActive (s : State) (m : Nat) : State :=
  let s1 := (s.setStage m .active).modMod m fun x =>
    { x with initOut := true, initIn := false, reqUsed := 0, reqFreed := 0, ctlUsed := 0, rspCredit := some 0,
             ctlCredit := some 0, egress := [], ctlOut := [], including := false, skip := none }
  (s1.unexclude m).emit (.credit m true 32 0 2048)

/-- A partner's KY_CAP in CAP_EXCHANGE (R136). -/
def State.kyCap (s : State) (m : Nat) (d : Nat) : State :=
  if (s.mod m).stage = .capExchange then
    let s1 := s.setFlag (F.UCI_STS_KY_PARTNER m) true
    if bitsOf d 7 4 = 1 then s1.enterActive m else s1.excludeMod m 6
  else s

/-- No KY_CAP within 1 ms: transport 1.0 is assumed (R136). -/
def State.kyCapTimeout (s : State) (m : Nat) : State :=
  if (s.mod m).stage = .capExchange then (s.setFlag (F.UCI_STS_KY_PARTNER m) false).enterActive m else s

/-- MB_INIT or MB_TRAIN exceeds 8 ms (R152). -/
def State.stageTimeout (s : State) (m : Nat) : State :=
  if (s.mod m).stage = .mbInit ∨ (s.mod m).stage = .mbTrain then s.attemptFailed m else s

/-- 100 us in TRAIN_ERROR: the mainband restarts (R132). -/
def State.trainRestart (s : State) (m : Nat) : State :=
  if (s.mod m).stage = .trainError then s.startTraining m (min 255 (s.fld (F.UCI_STS_ATTEMPTS m) + 1)) else s

/-- The module has reached ACTIVE, which a retrain or a drain follows (R134). -/
def Stage.reached : Stage → Bool
  | .active | .retrain | .drain | .l1 => true
  | _ => false

/-- The 16 ms of step 8, which runs from the end of step 6 on, lapse for a module that has not reached ACTIVE (R134). -/
def State.trainDeadline (s : State) (m : Nat) : State :=
  match s.bringUp with
  | some b =>
    if 7 ≤ b.waiting ∧ !(s.mod m).stage.reached ∧ !s.flag (F.UCI_STS_EXCLUDED m) ∧ bitOf s.part.usable m then
      s.excludeMod m 3 else s
  | none => s

/-! ### Loopbacks -/

/-- A loopback begins: VALID clears, LPBK_ACTIVE is 1 (R151). Modes 0b10 and 0b11 first train the mainband to RATE
(R150). -/
def State.lpbkBegin (s : State) (m mode rate : Nat) : State :=
  let s1 := ((s.modMod m fun x => { x with lpbk := some ⟨mode, rate, false⟩ }).setFlag
    (F.UCI_LPBK_STS_VALID m) false).setFlag (F.UCI_LPBK_STS_LPBK_ACTIVE m) true
  if 2 ≤ mode then s1.startTraining m 1 else s1.setStage m .loopback

/-- The loopback of a module sends and checks: it has trained, and its partner has agreed. -/
def State.lpbkRuns (s : State) (m : Nat) : Bool :=
  (s.mod m).stage == .loopback && ((s.mod m).lpbk.any fun l => !l.waiting)

/-- A running loopback is stopped before its DURATION: what it counted is not given to the model, so the counts are
free (log entry 12); one that has not started to check has counted nothing. -/
def State.lpbkStop (s : State) (m : Nat) : State :=
  if s.lpbkRuns m then
    { s.lpbkEnd m false (Config.freeNat s.free) (Config.freeNat (s.free + 1)) with free := s.free + 2 }
  else s.lpbkEnd m false 0 0

/-! ### The sideband -/

/-- The lowest-numbered module whose sideband is up. -/
def State.lowestUp (s : State) : Option Nat := (List.range 12).find? fun m => (s.mod m).sbUp

/-- A sideband comes up: SB_UP, or EXCLUDED when the module is excluded; the first one becomes primary when there is
none; in step 8 its mainband training starts (R133, R134, R140). -/
def State.sidebandUp (s : State) (m : Nat) : State :=
  if (s.mod m).stage = .sbDetect then
    let s1 := (s.modMod m fun x => { x with sbUp := true }).setStage m
      (if s.flag (F.UCI_STS_EXCLUDED m) then .excluded else .sbUp)
    let s2 := if s1.primary.isNone ∧ (s1.bringUp.map (·.waiting)).getD 12 ≥ 6 then { s1 with primary := some m } else s1
    match s2.bringUp with
    | some b => if 7 ≤ b.waiting ∧ !s2.flag (F.UCI_STS_EXCLUDED m) then s2.startTraining m 1 else s2
    | none => s2
  else s

/-- A sideband fails its link management (R133): the module is excluded with SB_LOST; a loopback that runs on an excluded
one ends; a session bound to it ends (R489). -/
def State.sidebandFail (s : State) (m : Nat) : State :=
  if (s.mod m).sbUp then
    let s0 := if s.flag (F.UCI_STS_EXCLUDED m) ∧ s.looping m then s.lpbkStop m else s
    let s1 := s0.modMod m fun x => { x with sbUp := false, lpbk := none }
    let s2 := if s1.flag (F.UCI_STS_EXCLUDED m) then s1.setStage m .sbDetect else s1.excludeMod m 9
    if s.life.session ≠ 0 ∧ s.life.sessPath = m then s2.endSession 3 else s2
  else s

/-- The primary's sideband stayed down: the role passes to the lowest module whose sideband is up (R140). -/
def State.primaryLoss (s : State) : State :=
  match s.primary with
  | some m =>
    if (s.mod m).sbUp then s
    else ({ s with primary := s.lowestUp }.raise 35 (modBit m)).latch F.POLL_SUMMARY_LINK
  | none => s

/-! ### Retrain -/

/-- A retrain started: a staging boundary of the module, at the rate in force, or from MAX_RATE (R143). The rate in
force stands though MAX_RATE has been lowered below it (log entry 121). -/
def State.startRetrain (s : State) (m : Nat) (top : Bool) : State :=
  let s1 := ((s.setStage m .retrain).bump (F.UCI_STS_RETRAIN_COUNT m)).moduleBoundary m
  if top ∧ s1.topRate m ≠ s1.fld (F.UCI_STS_RATE m) then (s1.trainAt m (s1.topRate m)).relock m else s1

/-- RETRAIN_END (R143, R144). -/
def State.retrainEnd (s : State) (m : Nat) (e : LinkEnv) : State :=
  if (s.mod m).stage = .retrain then
    let r := s.fld (F.UCI_STS_RATE m)
    let s1 := if e.partnerMax.toNat < r then s.trainAt m e.partnerMax.toNat else s
    s1.trainWith m (s1.fld (F.UCI_STS_RATE m)) e
      (fun t => (t.setStage m .active).latch F.POLL_SUMMARY_LINK) (fun t => t.excludeMod m 5)
  else s

/-- A retrain overruns its bound: the rate steps down, or at 16 GT/s the module is excluded with LINK_FAIL (R152). -/
def State.retrainTimeout (s : State) (m : Nat) : State :=
  if (s.mod m).stage = .retrain then
    let r := s.fld (F.UCI_STS_RATE m)
    if r = 0 then s.excludeMod m 5 else ((s.rateDowns m 1).trainAt m (r - 1)).relock m
  else s

/-- FLIT_CRC_FAIL: a flit fails link-layer CRC (R143, R153). One that the device sent is retransmitted on the partner's
request (log entry 11); one that it receives is counted, in ACTIVE and in DRAIN, and starts a retrain at every flit that
finds the window's count at RETRY_THRESH or above (log entry 90). -/
def State.crcFail (s : State) (m : Nat) (sent : Bool) : State :=
  if (s.mod m).stage = .active ∨ (s.mod m).stage = .drain then
    if sent then s.bump (F.UCI_LINK_CNT_REPLAYS m) else
    let w := s.timeBase.toNat / 1000000
    let n := if (s.mod m).crcWin = w then (s.mod m).crcCount + 1 else 1
    let s1 := ((s.bump (F.UCI_LINK_CNT_CRC_ERR m)).countGl 11 1 (some m)).modMod m fun x => { x with crcWin := w, crcCount := n }
    if (s.mod m).stage = .active ∧ s1.flag (F.UCI_CTL_AUTO_RETRAIN m) ∧ s1.fld (F.UCI_ERR_CFG_RETRY_THRESH m) ≤ n then
      s1.startRetrain m false else s1
  else s

/-- Link-layer retry failed 8 times for one flit (R143); in DRAIN no retrain is started (log entry 121). -/
def State.retryExhausted (s : State) (m : Nat) : State :=
  if (s.mod m).stage = .active then s.startRetrain m false else s

/-- L1 is not left within 2 us (R152). -/
def State.l1Timeout (s : State) (m : Nat) : State := if (s.mod m).stage = .l1 then s.excludeMod m 5 else s

/-! ### Loopback requests -/

/-- A partner's KY_LPBK: start puts an EXCLUDED module into echo, whatever its RATE, and stop ends the loopback that runs
(R150). -/
def State.kyLpbk (s : State) (m : Nat) (d : Nat) : State :=
  if !(s.mod m).sbUp then s
  else if bitOf d 14 then
    if (s.mod m).stage = .excluded then
      (s.emit (.kyLpbkRsp m .ok)).lpbkBegin m 3 (bitsOf d 5 4)
    else s.emit (.kyLpbkRsp m .ignored)
  else if s.looping m then s.lpbkStop m else s

/-- A partner's KY_LPBK_RSP, or its absence: the far-end check starts, or ends with PARTNER_REFUSED (R150). -/
def State.kyLpbkRsp (s : State) (m : Nat) (ok : Bool) : State :=
  match (s.mod m).lpbk with
  | some l =>
    if (s.mod m).stage = .loopback ∧ l.waiting then
      if ok then s.modMod m fun x => { x with lpbk := some { l with waiting := false } } else s.lpbkEnd m true 0 0
    else s
  | none => s

/-- A write of UCI_LPBK_CTL (R149, R150). START and STOP together are refused (log entry 10); a STOP while no loopback
runs completes OK and writes the fields (log entry 89). -/
def State.wLpbkCtl (s : State) (p : PathNum) (m : Nat) (w : Word) : Res :=
  let n := w.toNat
  if bitsOf n 5 4 > s.part.maxRate then ignored s
  else match bitsOf n 31 30 with
    | 0 => done (s.plainWrite p .UCI_LPBK_CTL m 0 w)
    | 1 =>
      let s1 := s.plainWrite p .UCI_LPBK_CTL m 0 w
      if s1.looping m then
        let told := (s1.mod m).stage == .loopback && ((s1.mod m).lpbk.any fun l => l.mode == 2)
        done ((if told then s1.emit (.kyLpbk m false 0 0) else s1).lpbkStop m)
      else done s1
    | 2 =>
      if (s.mod m).stage = .excluded then
        done ((s.plainWrite p .UCI_LPBK_CTL m 0 w).lpbkBegin m (bitsOf n 1 0) (bitsOf n 5 4))
      else ignored s
    | _ => ignored s

/-- The DURATION of a running loopback lapses: its results are set (R149 to R151). -/
def State.lpbkLapse (s : State) (m lanes errors : Nat) : State :=
  if s.lpbkRuns m then s.lpbkEnd m false lanes errors else s

/-! ### Exclusion drains and refusals -/

/-- EXCLUSION_DRAIN_END: the drain has nothing left (R146). -/
def State.drainEnd (s : State) (m : Nat) : State :=
  if (s.mod m).stage = .drain ∧ s.drainDone m then s.excludeMod m 1 else s

/-- EXCLUSION_DRAIN_TIMEOUT: 60 µs after step 1 what is unsent is discarded (R146, R152). -/
def State.drainTimeout (s : State) (m : Nat) : State := if (s.mod m).stage = .drain then s.excludeMod m 1 else s

/-- SB_DETECT_TIMEOUT: an attempt of 8 ms lapses and SB_DETECT restarts (R152): the stage is SB_DETECT as before. -/
def State.detectTimeout (s : State) (m : Nat) : State := if (s.mod m).stage = .sbDetect then s.setStage m .sbDetect else s

/-- PARTNER_L1_REQUEST: the device refuses; the module stays as it is (R129). -/
def State.refuseL1 (s : State) (_m : Nat) : State := s

/-! ### UCI_CTL -/

/-- Mm made primary, once the old primary's accepted accesses have completed (R140). -/
def State.makePrimary (s : State) (m : Nat) : State :=
  if s.heldAccesses.any fun h => some h.path == s.primary then { s with primaryNext := some m }
  else { s with primary := some m, primaryNext := none }

/-- A waiting MAKE_PRIMARY takes effect when no access of the old primary is held any more. -/
def State.settlePrimary (s : State) : State :=
  match s.primaryNext with
  | some m => s.makePrimary m
  | none => s

/-- A write of UCI_CTL (R153): one action at most, under its condition; staged fields land in the shadow. -/
def State.wUciCtl (s : State) (p : PathNum) (m : Nat) (w : Word) : Res :=
  let x := s.mod m
  let land := s.plainWrite p .UCI_CTL m 0 w
  if bitsOf w.toNat 1 0 = 3 ∧ s.part.maxRate ≠ 3 then ignored s
  else match bitsOf w.toNat 31 26 with
    | 0 => done land
    | 32 => if x.stage = .active then done (land.startRetrain m true) else ignored s
    | 16 => done (land.moduleBoundary m)
    | 8 => if x.sbUp then done (land.makePrimary m) else ignored s
    | 4 => if !s.flag (F.UCI_STS_EXCLUDED m) ∧ x.stage ≠ .drain then done (land.setStage m .drain) else ignored s
    | 2 => if !s.flag (F.UCI_STS_EXCLUDED m) ∧ x.stage ≠ .drain then done (land.excludeMod m 2) else ignored s
    | 1 =>
      if x.stage = .excluded ∧ s.flag (F.UCI_STS_EXCLUDED m) ∧ !s.looping m then
        done ((land.startTraining m 1).modMod m fun y => { y with including := true })
      else ignored s
    | _ => ignored s

/-- In FATAL, a write of UCI_CTL that sets MAKE_PRIMARY alone (R455). -/
def State.wUciCtlFatal (s : State) (m : Nat) (w : Word) : Res :=
  if bitsOf w.toNat 31 26 = 8 ∧ (s.mod m).sbUp then done (s.makePrimary m) else ignored s

end Sys2Proof.Machine
end

