-- ==== Sys2Proof/Machine/Repair.lean ====
section
/-!
DEFINITION. Repair: the spares and who uses them (R424), the ledger and its writes (R426 to R428), soft repair at
BRING-UP (R429, R430), the fuse map (R364 to R366), the actions of CAL_LDG_CTL and CAL_FUSE_CTL (R431, R432), and the
lookups of R441.
-/
namespace Sys2Proof.Machine

/-! ### Ledger entries -/

/-- The boot count (R360). -/
def State.boot (s : State) : Nat := s.fld (F.ECC_LIFE_UE_BOOT 0)

/-- A word of an entry as a number. -/
def entWord (e : Words) (k : Nat) : Nat := (e.getD k 0).toNat

/-- TYPE, TARGET and SPARE of an entry (table Ledger entry). -/
def entType (e : Words) : Nat := bitsOf (entWord e 0) 31 28
/-- TARGET of an entry. -/
def entTarget (e : Words) : Nat := entWord e 1
/-- SPARE of an entry. -/
def entSpare (e : Words) : Nat := entWord e 2

/-- The words of an entry made now (table Ledger entry). -/
def State.ledgerWords (s : State) (j : LedgerJob) : Words :=
  let w : Words := [BitVec.ofNat 32 (j.type * 2 ^ 28 + j.source * 2 ^ 24 + 2 ^ 16), BitVec.ofNat 32 j.target,
    BitVec.ofNat 32 j.spare, BitVec.ofNat 32 s.boot, s.timeBase.setWidth 32, (s.timeBase >>> 32).setWidth 32, 0]
  w ++ [BitVec.ofNat 32 (crc32c (wordBytes w))]

/-- The check word of an entry matches. -/
def entCheck (e : Words) : Bool := e.length == 8 && entWord e 7 == crc32c (wordBytes (e.take 7))

/-- The TARGET of a column, a conductor or a channel entry: CLASS 0b11 with a number in ROW. -/
def targetOf (ch layer bank n : Nat) : Nat := mkLoc ch layer bank 3 n

/-- No position is free (R426). -/
def State.ledgerFull (s : State) : Bool := s.mram.ledger.length == 2048

/-- The lowest free position. -/
def State.ledgerFree (s : State) : Option Nat :=
  (List.range 2048).find? fun p => (s.mram.ledger.get (fun _ => none) p).isNone

/-- Types that put a spare in a place's stead: ROW_SPARE, COL_SPARE and COND_SPARE (R427, R431). -/
def replacing (type : Nat) : Bool := type == 1 || type == 3 || type == 4

/-- The position of the earlier live entry that a new one of a type and target replaces: a target never has two live
entries of one type (R427, log entry 96). -/
def State.ledgerSame (s : State) (type target : Nat) : Option Nat :=
  (s.mram.ledger.find? fun p => match p.2 with
    | some e => entType e == type && entTarget e == target
    | none => false).map (·.1)

/-- A new entry of a type and target finds a position (R427). -/
def State.ledgerTakes (s : State) (type target : Nat) : Bool :=
  !s.ledgerFull || (s.ledgerSame type target).isSome

/-- A position written or freed. -/
def State.setLedger (s : State) (p : Nat) (e : Option Words) : State :=
  { s with mram := { s.mram with ledger := s.mram.ledger.set (fun _ => none) p e } }

/-- An entry written, where R427 places it: the lowest free position, the replaced entry freed; on a full ledger the
replaced entry's position; none when there is neither. -/
def State.ledgerPut (s : State) (j : LedgerJob) : Option State :=
  let e := some (s.ledgerWords j)
  match s.ledgerSame j.type j.target, s.ledgerFree with
  | some q, some n => some ((s.setLedger n e).setLedger q none)
  | some q, none => some (s.setLedger q e)
  | none, some n => some (s.setLedger n e)
  | none, none => none

/-- What a failed write leaves: on a full ledger the replaced entry is gone too (R427). -/
def State.ledgerLost (s : State) (j : LedgerJob) : State :=
  match s.ledgerSame j.type j.target, s.ledgerFree with
  | some q, none => s.setLedger q none
  | _, _ => s

/-- An entry to be written: its write waits for its end (LEDGER_WRITE_DONE). -/
def State.ledgerQueue (s : State) (j : LedgerJob) : State :=
  { s with mram := { s.mram with ledgerJobs := s.mram.ledgerJobs ++ [j] } }

/-! ### Spares -/

/-- The keys of the spares: a spare row's locator; a column's and a conductor's number above all locators. -/
def colKey (gbi k : Nat) : Nat := 2 ^ 32 + 8 * gbi + k
/-- The key of spare conductor `g` of channel `c`. -/
def condKey (c g : Nat) : Nat := 2 ^ 33 + 140 * c + g

/-- The key of the spare that an entry uses or marks bad. -/
def entSpareKey (e : Words) : Option Nat :=
  let t := entTarget e
  match entType e with
  | 1 => some (mkLoc (locCh t) (locLayer t) (locBank t) 1 (entSpare e))
  | 3 => some (colKey (locGbi t) (entSpare e))
  | 4 => some (condKey (locCh t) (entSpare e))
  | 6 => some t
  | _ => none

/-- A live ledger entry uses the spare or marks it bad. -/
def State.ledgerUses (s : State) (key : Nat) : Bool :=
  s.mram.ledger.any fun p => match p.2 with
    | some e => entSpareKey e == some key
    | none => false

/-- An entry that waits to be written uses the spare or marks it bad. -/
def State.waitingUses (s : State) (key : Nat) : Bool :=
  s.mram.ledgerJobs.any fun j => entSpareKey (s.ledgerWords j) == some key

/-- The locator of spare row `k` of the bank of `loc`. -/
def spareRow (loc k : Nat) : Nat := mkLoc (locCh loc) (locLayer loc) (locBank loc) 1 k

/-- Native row action is about to switch a row to the spare row (R362). -/
def State.sparingUses (s : State) (key : Nat) : Bool :=
  s.chans.toList.any fun x => match x.scrub.sparing with
    | some p => spareRow p.1 p.2 == key
    | none => false

/-- A spare is free (R424). -/
def State.spareFree (s : State) (key : Nat) : Bool :=
  !s.repairs.used.get (fun _ => false) key && !s.repairs.fused.get (fun _ => false) key && !s.ledgerUses key && !s.waitingUses key && !s.sparingUses key

/-- The lowest-numbered free spare row of a bank (R424). -/
def State.freeRow (s : State) (loc : Nat) : Option Nat := (List.range 128).find? fun k => s.spareFree (spareRow loc k)

/-- The lowest-numbered free spare sector-column of a bank. -/
def State.freeCol (s : State) (gbi : Nat) : Option Nat := (List.range 8).find? fun k => s.spareFree (colKey gbi k)

/-- The state with the repairs replaced. -/
def State.setRepairs (s : State) (r : Repairs) : State := { s with repairs := r }

/-- A spare marked as used since RESET. -/
def State.useSpare (s : State) (key : Nat) : State :=
  s.setRepairs { s.repairs with used := s.repairs.used.set (fun _ => false) key true }

/-- A spare that no repair uses any more (R424). -/
def State.leaveSpare (s : State) (key : Nat) : State :=
  s.setRepairs { s.repairs with used := s.repairs.used.set (fun _ => false) key false }

/-- Spare row `k` brought into use for the row `loc`; the spare that stood for the row before is left. -/
def State.spareForRow (s : State) (loc k : Nat) : State :=
  let s0 := match s.repairs.rows.get (fun _ => none) loc with
    | some old => s.leaveSpare old
    | none => s
  let s1 := s0.useSpare (spareRow loc k)
  s1.setRepairs { s1.repairs with rows := s1.repairs.rows.set (fun _ => none) loc (some (spareRow loc k)) }

/-- Spare column `k` brought into use for sector-column `j` of a bank; a spare that stood for `j` before steps back and is
left. -/
def State.spareForCol (s : State) (gbi j k : Nat) : State :=
  let s0 := (List.range 8).foldl (fun (t : State) i =>
    if t.repairs.cols.get (fun _ => none) (8 * gbi + i) = some j then t.leaveSpare (colKey gbi i) else t) s
  let s1 := s0.useSpare (colKey gbi k)
  let cols := (List.range 8).foldl (fun d i =>
    if d.get (fun _ => none) (8 * gbi + i) = some j then d.set (fun _ => none) (8 * gbi + i) none else d) s1.repairs.cols
  s1.setRepairs { s1.repairs with cols := cols.set (fun _ => none) (8 * gbi + k) (some j) }

/-- The conductor that spare group `g` of channel `c` replaces. -/
def State.replaced (s : State) (c g : Nat) : Option Nat := (s.chan c).vpt.spares.get (fun _ => none) g

/-- The group's spare put in place of a conductor, or taken back. SPARES counts those in use. -/
def State.setSpare (s : State) (c g : Nat) (n : Option Nat) : State :=
  let s1 := s.modChan c fun x => { x with vpt := { x.vpt with spares := x.vpt.spares.set (fun _ => none) g n } }
  s1.setFld (F.VPT_STS_SPARES c) (s1.chan c).vpt.spares.length

/-- The group's spare brought into use for conductor `n` (R18). -/
def State.spareForCond (s : State) (c n : Nat) : State := (s.useSpare (condKey c (n / 64))).setSpare c (n / 64) (some n)

/-- The group's spare can be brought into use for a conductor: it is free and replaces none (R18, R424). -/
def State.condFree (s : State) (c g : Nat) : Bool := (s.replaced c g).isNone && s.spareFree (condKey c g)

/-- A conductor spared by a run or a check, with its ledger entry (step 4 of the table Full training). -/
def State.spareCond (s : State) (c n source : Nat) : State :=
  (s.spareForCond c n).ledgerQueue ⟨4, source, targetOf c 0 0 n, n / 64, .conductor⟩

/-- A row retired (R363). -/
def State.retireRow (s : State) (loc : Nat) : State :=
  s.setRepairs { s.repairs with retired := s.repairs.retired.set (fun _ => false) loc true }

/-- The slot of a row that rep.retire or native action retires, emptied without write-back when the ledger write ends (R324,
R362, log entry 14): a move of it that runs comes to nothing, and a request that waits for its move-in is taken up again.
A slot that is pinned stays. -/
def State.emptyRetired (s : State) (loc : Nat) : State :=
  match s.findSlot loc with
  | some i =>
    let c := locCh loc
    if (s.chan c).pinned i then s
    else
      let t := s.setSlot c i Slot.empty
      { t with txns := t.txns.map fun u => if u.stage = .moveIn i ∧ s.txnIn c u then { u with stage := .queued } else u }
  | none => s

/-! ### The end of a ledger write -/

/-- The ledger write that channel `c`'s instruction waits for has ended. -/
def State.tellEngine (s : State) (c : Nat) (ok : Bool) : State :=
  s.modEng c fun e => if e.phase = .running ∧ e.waiting.isSome then { e with ledger := some ok } else e

/-- A channel enters RETIRED (R115): its held requests are answered RETIRED (R114). -/
def State.chanRetired (s : State) (c : Nat) : State :=
  let held := s.txns.filter fun t => s.txnIn c t && (match t.stage with | .held _ => true | _ => false)
  (held.foldl (fun t x => t.formReply x (.ack .retired 0)) (s.setChState c .retired 1)).settle

/-- What the end of a ledger write brings about (R117, R324, R325, R362, R427). -/
def State.ledgerOutcome (s : State) (why : LedgerFor) (ok : Bool) : State :=
  match why with
  | .chRetire c =>
    let s1 := s.setFlag (F.CH_STATE_REQ_BUSY c) false
    if ok ∧ ((s1.chan c).st = .quiesced ∨ (s1.chan c).st = .offline) then s1.chanRetired c else s1
  | .repRetire c loc =>
    let s1 := s.emptyRetired loc
    (if ok then s1.retireRow loc else s1).tellEngine c ok
  | .repRow c _ | .repCol c _ => s.tellEngine c ok
  | .nativeRetire loc =>
    (if ok then (s.emptyRetired loc).retireRow loc else s).logRowAction loc (if ok then 4 else 9)
  | .nativeSpare loc => s.logRowAction loc (if ok then 3 else 9)
  | .conductor => s

/-- LEDGER_WRITE_DONE: the oldest ledger write ends committed or failed (R427). -/
def State.ledgerWriteDone (s : State) (ok : Bool) : State :=
  if !s.mramRuns then s else
  match s.mram.ledgerJobs with
  | [] => s
  | j :: rest =>
    let s1 := { s with mram := { s.mram with ledgerJobs := rest } }
    match (if ok then s1.ledgerPut j else none) with
    | some s2 => s2.ledgerOutcome j.why true
    | none => ((s1.ledgerLost j).raise 101 0).ledgerOutcome j.why false

/-! ### The fuse map -/

/-- A fuse record's fields name what a table allows, for its TYPE (R364, R365). -/
def fuseInRange (r : Nat) : Bool :=
  match bitsOf r 61 60 with
  | 0 => bitsOf r 25 8 == 0 && (!bitOf r 47 || bitsOf r 46 33 < 64)
  | 1 => bitsOf r 25 8 == 0 && bitsOf r 32 26 == 0 && bitsOf r 38 33 == 0 && !bitOf r 47
  | 2 => bitsOf r 25 8 == 0 && bitsOf r 32 26 == 0 && bitsOf r 46 33 < 8960 && !bitOf r 47 && bitsOf r 52 48 == 0 &&
      bitsOf r 57 56 == 0
  | _ => false

/-- A record is applied (R365). -/
def fuseApplies (r : Nat) : Bool :=
  bitOf r 63 && !bitOf r 62 && fuseInRange r && bitsOf r 7 0 == crc8 r

/-- The channel a record names (R364). -/
def fuseChan (r : Nat) : Nat := 8 * (bitsOf r 59 56 / 4) + bitsOf r 55 53

/-- A locator in the record's bank. -/
def fuseLoc (r cls row : Nat) : Nat := mkLoc (fuseChan r) (bitsOf r 59 56 % 4) (bitsOf r 52 48) cls row

/-- A spare marked as one that an applied fuse record uses. -/
def State.fuseSpare (s : State) (key : Nat) : State :=
  let s1 := s.useSpare key
  s1.setRepairs { s1.repairs with fused := s1.repairs.fused.set (fun _ => false) key true }

/-- A record applied (R366). -/
def State.applyFuse (s : State) (r : Nat) : State :=
  match bitsOf r 61 60 with
  | 0 =>
    let loc := fuseLoc r (if bitOf r 47 then 2 else 0) (bitsOf r 46 33)
    (s.spareForRow loc (bitsOf r 32 26)).fuseSpare (spareRow loc (bitsOf r 32 26))
  | 1 =>
    let g := locGbi (fuseLoc r 0 0)
    (s.spareForCol g (bitsOf r 46 42) (bitsOf r 41 39)).fuseSpare (colKey g (bitsOf r 41 39))
  | _ =>
    let n := bitsOf r 46 33
    (s.spareForCond (fuseChan r) n).fuseSpare (condKey (fuseChan r) (n / 64))

/-- The fuse record at a number; an unprogrammed one reads 0. -/
def State.fuseRecord (s : State) (n : Nat) : Word64 := s.fuses.records.get (fun _ => 0) n

/-- The fuse map with a record written. -/
def State.setFuse (s : State) (n : Nat) (w : Word64) : State :=
  { s with fuses := { s.fuses with records := s.fuses.records.set (fun _ => 0) n w } }

/-- Step 3 of the table Bring-up sequence: records applied in ascending number; APPLIED and IGNORED (R365, R366). -/
def State.applyFuses (s : State) : State :=
  let l := s.fuses.records.map fun p => p.2.toNat
  let good := l.filter fuseApplies
  let bad := l.filter fun r => bitOf r 63 && !fuseApplies r
  ((good.foldl (fun t r => t.applyFuse r) s).setFld F.CAL_FUSE_STS_APPLIED good.length).setFld F.CAL_FUSE_STS_IGNORED
    bad.length

/-! ### Soft repair at BRING-UP -/

/-- Every field of an entry lies in its range (R430, table Ledger entry). -/
def entInRange (e : Words) : Bool :=
  let t := entTarget e
  let cls3 := locClass t == 3 && bitsOf t 17 14 == 0
  bitsOf (entWord e 0) 27 16 % 256 == 1 && bitsOf (entWord e 0) 15 0 == 0 &&
    (1 ≤ bitsOf (entWord e 0) 27 24 && bitsOf (entWord e 0) 27 24 ≤ 6) &&
    (match entType e with
     | 1 => locValid t && locClass t != 1 && entSpare e < 128
     | 2 => locValid t && locClass t == 0 && entSpare e == 0
     | 3 => cls3 && bitsOf t 13 0 < 32 && entSpare e < 8
     | 4 => cls3 && bitsOf t 26 20 == 0 && bitsOf t 13 0 < 8960 && entSpare e == bitsOf t 13 0 / 64
     | 5 => cls3 && bitsOf t 26 20 == 0 && bitsOf t 13 0 == 0 && entSpare e == 0
     | 6 => locValid t && locClass t == 1 && entSpare e == 0
     | _ => false)

/-- Where an entry stands in the order of application: BOOT, then TIME (R429). -/
def entOrder (e : Words) : Nat := bitsOf (entWord e 3) 15 0 * 2 ^ 64 + entWord e 5 * 2 ^ 32 + entWord e 4

/-- An entry put into a list sorted by `entOrder`. -/
def entInsert (x : Nat × Words) : List (Nat × Words) → List (Nat × Words)
  | [] => [x]
  | y :: r => if entOrder x.2 < entOrder y.2 then x :: y :: r else y :: entInsert x r

/-- The live entries in the order of R429. -/
def State.ledgerOrdered (s : State) : List (Nat × Words) :=
  (s.mram.ledger.filterMap fun p => p.2.map fun e => (p.1, e)).foldl (fun l x => entInsert x l) []

/-- A live entry marks the spare bad. -/
def State.spareBad (s : State) (key : Nat) : Bool :=
  s.mram.ledger.any fun p => match p.2 with
    | some e => entType e == 6 && entTarget e == key
    | none => false

/-- The spare of an entry cannot be used: a fuse record, an entry applied earlier in the step, or a SPARE_BAD entry has
it (R430). -/
def State.entBlocked (s : State) (taken : List Nat) (e : Words) : Bool :=
  match entType e, entSpareKey e with
  | 6, _ => false
  | _, some k => s.repairs.fused.get (fun _ => false) k || taken.contains k || s.spareBad k
  | _, none => false

/-- An entry applied (R429). -/
def State.applyEntry (s : State) (e : Words) : State :=
  let t := entTarget e
  match entType e with
  | 1 => s.spareForRow t (entSpare e)
  | 2 => s.retireRow t
  | 3 => s.spareForCol (locGbi t) (bitsOf t 13 0) (entSpare e)
  | 4 => s.spareForCond (locCh t) (bitsOf t 13 0)
  | 5 => s.setChState (locCh t) .retired 4
  | _ => s

/-- An entry skipped: LEDGER_ENTRY and SKIPPED (R430). -/
def State.skipEntry (s : State) : State := (s.raise 100 0).bump F.CAL_LDG_STS_SKIPPED

/-- Step 6 of the table Bring-up sequence (R429, R430). `bad` are the positions whose content fails its check. -/
def State.applyLedger (s : State) (bad : Nat → Bool) : State :=
  (s.ledgerOrdered.foldl (fun (a : State × List Nat) x =>
    if bad x.1 || !entCheck x.2 || !entInRange x.2 || a.1.entBlocked a.2 x.2 then (a.1.skipEntry, a.2)
    else (a.1.applyEntry x.2, (entSpareKey x.2).toList ++ a.2)) (s.setFld F.CAL_LDG_STS_SKIPPED 0, [])).1

/-! ### Ledger actions -/

/-- The fuse record that a ROW_SPARE, COL_SPARE or COND_SPARE entry becomes (R364, R431). -/
def fuseOf (e : Words) : Nat :=
  let t := entTarget e
  let place := (4 * (locCh t / 8) + (if entType e = 4 then 0 else locLayer t)) * 2 ^ 56 + locCh t % 8 * 2 ^ 53 +
    (if entType e = 4 then 0 else locBank t) * 2 ^ 48
  let r := 2 ^ 63 + place + (match entType e with
    | 1 => b2n (locClass t == 2) * 2 ^ 47 + locRow t * 2 ^ 33 + entSpare e * 2 ^ 26
    | 3 => 2 ^ 60 + bitsOf t 13 0 * 2 ^ 42 + entSpare e * 2 ^ 39
    | _ => 2 * 2 ^ 60 + bitsOf t 13 0 * 2 ^ 33)
  r + crc8 r

/-- The lowest fuse record whose 64 bits all read 0. -/
def State.freeFuse (s : State) : Option Nat := (List.range 2048).find? fun n => s.fuseRecord n == 0

/-- A write of CAL_LDG_CTL (R431, R441). -/
def State.wLdgCtl (s : State) (p : Path) (w : Word) : Res :=
  let n := w.toNat
  let act := bitsOf n 31 28
  if act = 0 ∨ 3 < act then ignored s
  else if (act = 1 ∨ act = 2) ∧ !s.sessionOk p then s.deny p (adr .CAL_LDG_CTL) true
  else if s.flag F.CAL_LDG_CTL_BUSY ∨ !(s.mode == .active || (act == 1 && s.mode == .safe)) then ignored s
  else
    let s1 := (s.plainWrite (pathNum p) .CAL_LDG_CTL 0 0 w).setFlag F.CAL_LDG_CTL_BUSY true
    done { s1 with mram := { s1.mram with
      ledgerAct := some ⟨act, s.fld F.CAL_LDG_IDX_INDEX, bitsOf n 20 16, bitsOf n 13 0⟩ } }

/-- An action ends with its RESULT (R431). -/
def State.ledgerResult (s : State) (r : Nat) : State :=
  let s1 := { s with mram := { s.mram with ledgerAct := none } }
  ((s1.setFlag F.CAL_LDG_CTL_BUSY false).setFld F.CAL_LDG_CTL_RESULT r).latch F.POLL_SUMMARY_DONE

/-- FUSE of an entry that can be fused (R431): on a match the entry is removed; a record that reads back wrong stays as
blown, which the manual does not state (a free value). -/
def State.ledgerFuse (s : State) (index : Nat) (e : Words) (ok : Bool) : State :=
  match s.freeFuse with
  | none => s.ledgerResult 2
  | some n =>
    if ok then ((s.setFuse n (BitVec.ofNat 64 (fuseOf e))).setLedger index none).ledgerResult 0
    else ((s.useFree.setFuse n (BitVec.ofNat 64 (Config.freeNat s.free))).raise 102 0).ledgerResult 5

/-- LEDGER_ACTION_END (R431). -/
def State.ledgerActionEnd (s : State) (ok : Bool) : State :=
  if !s.mramRuns then s else
  match s.mram.ledgerAct with
  | none => s
  | some a =>
    let entry := s.mram.ledger.get (fun _ => none) a.index
    if a.action = 3 then
      let j : LedgerJob := ⟨4, 6, targetOf a.ch 0 0 a.cond, a.cond / 64, .conductor⟩
      if s.replaced a.ch (a.cond / 64) ≠ some a.cond then s.ledgerResult 6
      else if !s.ledgerTakes 4 j.target then s.ledgerResult 7
      else match (if ok then s.ledgerPut j else none) with
        | some s1 => s1.ledgerResult 0
        | none => ((s.ledgerLost j).raise 101 0).ledgerResult 4
    else match entry with
      | none => s.ledgerResult 1
      | some e =>
        if a.action = 1 then
          if ok then (s.setLedger a.index none).ledgerResult 0 else (s.raise 101 0).ledgerResult 4
        else if replacing (entType e) then s.ledgerFuse a.index e ok
        else s.ledgerResult 3

/-- A write of CAL_FUSE_CTL: a lookup of RECORD, and CANCEL (R432, R441). -/
def State.wFuseCtl (s : State) (p : Path) (w : Word) : Res :=
  let n := bitsOf w.toNat 10 0
  let r := s.fuseRecord n
  let look (t : State) : State :=
    (((t.plainWrite (pathNum p) .CAL_FUSE_CTL 0 0 w).setReg (adr .CAL_FUSE_REC_LO) (r.setWidth 32)).setReg
      (adr .CAL_FUSE_REC_HI) ((r >>> 32).setWidth 32)).setFlag F.CAL_FUSE_CTL_VALID true
  if bitOf w.toNat 31 then
    if !s.sessionOk p then s.deny p (adr .CAL_FUSE_CTL) true
    else if s.mode ≠ .active ∨ s.flag F.CAL_FUSE_CTL_BUSY ∨ bitsOf r.toNat 63 62 ≠ 2 then ignored s
    else
      let s1 := (look s).setFlag F.CAL_FUSE_CTL_BUSY true
      done { s1 with mram := { s1.mram with fuseCancel := some n } }
  else done (look s)

/-- FUSE_CANCEL_END: the CANCEL bit is blown and reads back, or does not (R432). -/
def State.fuseCancelEnd (s : State) (ok : Bool) : State :=
  match s.mram.fuseCancel with
  | none => s
  | some n =>
    let s1 := { s with mram := { s.mram with fuseCancel := none } }
    let s2 := if ok then s1.setFuse n (s1.fuseRecord n ||| (1 <<< 62)) else s1
    ((s2.setFlag F.CAL_FUSE_CTL_BUSY false).setFld F.CAL_FUSE_CTL_RESULT (if ok then 0 else 5)).latch
      F.POLL_SUMMARY_DONE

/-! ### Lookups -/

/-- A write of CAL_LDG_IDX: the lookup of a position (R441). -/
def State.wLdgIdx (s : State) (p : PathNum) (w : Word) : Res :=
  let s1 := s.plainWrite p .CAL_LDG_IDX 0 0 w
  let e := s1.mram.ledger.get (fun _ => none) (bitsOf w.toNat 10 0)
  let s2 := s1.each 8 fun k t => t.setReg (adr .CAL_LDG_ENT 0 k) ((e.getD []).getD k 0)
  done ((s2.setFlag F.CAL_LDG_IDX_LIVE e.isSome).setFlag F.CAL_LDG_IDX_VALID true)

/-- The words a lookup of a test record shows: 0 beyond RECORDS and where the check fails (R436). -/
def State.testRecord (s : State) (n : Nat) : Words :=
  let e := s.mram.tests.getD n []
  if e.length = 4 ∧ entWord e 3 = crc32c (wordBytes (e.take 3)) then e else List.replicate 4 0

/-- A write of CAL_TST_IDX: the lookup of a test record (R441). -/
def State.wTstIdx (s : State) (p : PathNum) (w : Word) : Res :=
  let s1 := s.plainWrite p .CAL_TST_IDX 0 0 w
  let e := s1.testRecord (bitsOf w.toNat 9 0)
  done ((s1.each 4 fun k t => t.setReg (adr .CAL_TST_REC 0 k) (e.getD k 0)).setFlag F.CAL_TST_IDX_VALID true)

end Sys2Proof.Machine
end

