-- ==== Sys2Proof/Machine/Calib.lean ====
section
/-!
DEFINITION. Calibration and vertical-path training: the store and its commits (R393 to R397), what a sweep leaves in
force (R392, R399), the runs (R398 to R403) and the lookups of R404.
-/
namespace Sys2Proof.Machine

/-! ### The values in force -/

/-- The payload of a calibration record where nothing is listed: the defaults of the table Plausibility limits; for a
code, of which the manual gives no default, the middle code 31 (log entry 8). -/
def calDefault (i off : Nat) : Nat :=
  if i < 8 then (if off < 4 then 0 else 31)
  else if i < 24 then (if off % 2 = 0 then 16 else 8)
  else 0

/-- The payload in force of a record. -/
def State.calPayload (s : State) (i : Nat) : Store Nat := s.calNow.get (fun _ => []) i

/-- A byte of the payload in force. -/
def State.calByte (s : State) (i off : Nat) : Nat := (s.calPayload i).get (calDefault i) off

/-- The VP record of channel `c` at a frequency point (R393). -/
def vpRecord (c point : Nat) : Nat := 2 * (c / 8) + point

/-- The base of channel `c` in its VP payload (R393). -/
def vpBase (c : Nat) : Nat := 4 + 18248 * (c % 8)

/-- The place of an edge of a conductor in a channel's part of the payload: data and spares, then control (R393). -/
def condPlace (n edge : Nat) : Nat := if n < 9100 then 2 * n + edge else 18200 + (n - 9100)

/-- The sample code in force at a place: the one vp.pt set, or the trained one (R327, R402). -/
def State.codeAt (s : State) (c place : Nat) : Nat :=
  match (s.chan c).vpt.codes.get (fun _ => none) place with
  | some v => v
  | none => s.calByte (vpRecord c (s.fld F.GLB_MODE_FPOINT)) (vpBase c + place)

/-- The channel temperature, encoded under R406: the highest of its four layers (R376). -/
def State.chanTemp (s : State) (c : Nat) : Nat :=
  (List.range 4).foldl (fun m l => max m (s.fld (F.THM_DIE_IN_FORCE (4 * (c / 8) + l)))) 0

/-! ### The store -/

/-- Word 0 of a slot's header: KIND, the record and FORMAT (R393). -/
def slotHead (i : Nat) : Nat := (if i < 8 then 1 else if i < 24 then 2 else i - 21) * 2 ^ 24 + i * 2 ^ 16 + 1

/-- Word 2 of a slot's header: the payload's length in bytes (table Calibration records). -/
def slotLen (i : Nat) : Nat := if i < 8 then 145988 else if i < 24 then 512 else if i = 24 then 176 else 24

/-- A slot of record `i` with its header and a check word that matches (R393). -/
def CalSlot.made (i gen temp time : Nat) (payload : Store Nat) : CalSlot :=
  ⟨slotHead i, gen, slotLen i, temp, time, payload, 0⟩

/-- The bytes of a slot before its check word: the six words of the header, the payload (R393). -/
def CalSlot.bytes (i : Nat) (x : CalSlot) : List Nat :=
  ([x.head, x.gen, x.len, x.temp, x.time % 2 ^ 32, x.time / 2 ^ 32].flatMap (bytesLE 4)) ++
    (List.range (slotLen i)).map (x.payload.get (calDefault i))

/-- A slot's check word: the CRC-32C of the bytes before it, but for an error (R393). -/
def CalSlot.checkWord (i : Nat) (x : CalSlot) : Nat := Nat.xor (crc32c (x.bytes i)) x.diff

/-- A calibration record's slots; what the MRAM holds before any commit is named in log entry 8. -/
def calFactory : Nat → CalRec := fun i => ⟨some (CalSlot.made i 1 89 0 []), none⟩

/-- A record of the store. -/
def State.calRec (s : State) (i : Nat) : CalRec := s.mram.cal.get calFactory i

/-- The median of codes is below `v + 1` when more than half lie at `v` or below. -/
def medianCode (codes : List Nat) : Nat :=
  let n := codes.length
  ((List.range 64).find? fun v => n < 2 * ((codes.filter fun c => c ≤ v).length + 1)).getD 63

/-- A channel's codes of one edge, those of every data and spare conductor, and of every control conductor on the rising
edge, are plausible (table Plausibility limits). -/
def codesPlausible (codes : List Nat) : Bool :=
  let m := medianCode codes
  8 ≤ m && m ≤ 55 && (codes.filter fun c => 16 < c - m || 16 < m - c).length ≤ 140

/-- A payload passes the table Plausibility limits. -/
def payloadPlausible (i : Nat) (pl : Store Nat) : Bool :=
  let at_ (off : Nat) : Nat := pl.get (calDefault i) off
  if i < 8 then
    pl.isEmpty || (List.range 8).all fun j =>
      codesPlausible ((List.range 9148).map fun n => at_ (4 + 18248 * j + condPlace n 0)) &&
      codesPlausible ((List.range 9100).map fun n => at_ (4 + 18248 * j + condPlace n 1))
  else if i < 24 then (List.range 256).all fun b => 2 ≤ at_ (2 * b) && at_ (2 * b) ≤ 29
  else if i = 24 then (List.range 176).all fun k => (toSigned 8 (at_ k)).natAbs ≤ 40
  else (List.range 6).all fun k =>
    (toSigned 16 (at_ (4 * k) + 256 * at_ (4 * k + 1))).natAbs ≤ 500 &&
    (toSigned 16 (at_ (4 * k + 2) + 256 * at_ (4 * k + 3))).natAbs ≤ 20

/-- A slot is valid: its header matches its record, its check word matches and its payload is plausible (R394). -/
def slotValid (i : Nat) : Option CalSlot → Option CalSlot
  | none => none
  | some x =>
    if x.head == slotHead i && x.len == slotLen i && x.diff == 0 && payloadPlausible i x.payload then some x else none

/-- The valid slot with the higher GEN, with its number (R394). -/
def State.slotInForce (s : State) (i : Nat) : Option (Nat × CalSlot) :=
  match slotValid i (s.calRec i).slotA, slotValid i (s.calRec i).slotB with
  | some a, some b => if a.gen < b.gen then some (1, b) else some (0, a)
  | some a, none => some (0, a)
  | none, some b => some (1, b)
  | none, none => none

/-- An error in a slot that its check word shows. -/
def CalSlot.spoilt (x : CalSlot) : CalSlot := { x with diff := 1 }

/-- The slots that fail their check as BRING-UP reads them, two bits a record. -/
def State.spoilSlots (s : State) (bad : BitVec 52) : State :=
  s.each 26 fun i t =>
    let r := t.calRec i
    if bad.getLsbD (2 * i) || bad.getLsbD (2 * i + 1) then
      let r1 : CalRec := ⟨if bad.getLsbD (2 * i) then r.slotA.map (·.spoilt) else r.slotA,
        if bad.getLsbD (2 * i + 1) then r.slotB.map (·.spoilt) else r.slotB⟩
      { t with mram := { t.mram with cal := t.mram.cal.set calFactory i r1 } }
    else t

/-- The UNIT bit of CAL_STORE for a record (R444). -/
def calUnit (i : Nat) : Nat := if i < 8 then 1 else if i < 24 then 2 else if i = 24 then 4 else 8

/-- A record's slot put in force: VALID, SLOT, GEN, and its payload. -/
def State.forceSlot (s : State) (i slot : Nat) (x : CalSlot) : State :=
  let s1 := (((s.setFlag (F.CAL_REC_VALID i) true).setFld (F.CAL_REC_SLOT i) slot).setFlag (F.CAL_REC_DEFAULTS i)
    false).setFld (F.CAL_REC_GEN i) x.gen
  { s1 with calNow := s1.calNow.set (fun _ => []) i x.payload }

/-- Step 4 of the table Bring-up sequence for one record: the slot in force, or the defaults with CAL_STORE (R394). -/
def State.loadRecord (s : State) (i : Nat) : State :=
  match s.slotInForce i with
  | some (k, x) => s.forceSlot i k x
  | none =>
    let s1 := ((s.setFlag (F.CAL_REC_VALID i) false).setFlag (F.CAL_REC_DEFAULTS i) true)
    { s1 with calNow := s1.calNow.set (fun _ => []) i [], calBad := putBits s1.calBad i i 1 }.raiseCond 96 (calUnit i)

/-- CAL_STORE ends when every record whose failure set it has been committed since (R397). -/
def State.settleCalStore (s : State) : State :=
  if s.flag (liveFld 96) && s.calBad == 0 then (s.endCondition 96).clearSafeCause 2 else s

/-- GEN of the slot in force, 0 when none is (R393). -/
def State.genInForce (s : State) (i : Nat) : Nat :=
  let r := s.calRec i
  match (if s.fld (F.CAL_REC_SLOT i) = 0 then r.slotA else r.slotB) with
  | some x => if s.flag (F.CAL_REC_VALID i) then x.gen else 0
  | none => 0

/-- The slot that a commit of the record's values in force writes, with GEN one higher (R395). -/
def State.newSlot (s : State) (i : Nat) : CalSlot :=
  CalSlot.made i ((s.genInForce i + 1) % 2 ^ 32) (s.mram.calTemp.get (fun _ => 0) i) s.timeBase.toNat (s.calPayload i)

/-- The number of the slot that does not hold the record in force. -/
def State.otherSlot (s : State) (i : Nat) : Nat :=
  if s.flag (F.CAL_REC_VALID i) then 1 - s.fld (F.CAL_REC_SLOT i) else 0

/-- A payload written to the slot not in force, as MRAM holds it afterwards (R395). -/
def State.putSlot (s : State) (i : Nat) (x : CalSlot) : State :=
  let r := s.calRec i
  let r1 : CalRec := if s.otherSlot i = 0 then { r with slotA := some x } else { r with slotB := some x }
  { s with mram := { s.mram with cal := s.mram.cal.set calFactory i r1,
                                 calAt := s.mram.calAt.set (fun _ => none) i (some s.now) } }

/-- A commit passed its check: the new slot is in force (R395). Results that came into force since it began stay
pending. -/
def State.commitSlot (s : State) (i : Nat) (x : CalSlot) : State :=
  let now := s.calPayload i
  let s2 := (s.putSlot i x).forceSlot i (s.otherSlot i) x
  ({ s2 with calNow := s2.calNow.set (fun _ => []) i now, calBad := putBits s2.calBad i i 0 }.setFlag (F.CAL_REC_PENDING i) (now != x.payload)).settleCalStore

/-- A commit started: the record's pending values are being written (R395). -/
def State.commitStart (s : State) (i : Nat) : State :=
  if s.flag (F.CAL_REC_PENDING i) && (s.mram.calWrite.get (fun _ => none) i).isNone then
    { s with mram := { s.mram with calWrite := s.mram.calWrite.set (fun _ => none) i (some (s.newSlot i)) } }
  else s

/-- CAL_RECORD_COMMIT: firmware commits a pending record, no sooner than COMMIT_S after its last commit (R396). -/
def State.calRecordCommit (s : State) (i : Nat) : State :=
  if s.mramRuns && s.flag (F.CAL_REC_PENDING i) then
    (match s.mram.calAt.get (fun _ => none) i with
     | some t => s.advanceTo (t + 1000000000 * s.fld F.CAL_CFG_COMMIT_S)
     | none => s).commitStart i
  else s

/-- A slot as read back passes its check: it is valid (R394, R395). -/
def slotPasses (i : Nat) (x : CalSlot) : Bool := (slotValid i (some x)).isSome

/-- A commit that failed its check: the old record stays in force, a COMMIT run fails, and CAL_WRITE is raised (R395). -/
def State.commitFailed (s : State) (i : Nat) : State :=
  let s2 := { s with mram := { s.mram with calAt := s.mram.calAt.set (fun _ => none) i (some s.now) } }
  { s2 with calRun := s2.calRun.map fun (r : Nat × Bool) => (r.1, true) }.raise 97 0

/-- A slot written and read back: in force when it passes its check. A payload that is not plausible fails it, and the slot
holds it without being valid (R394, R395). -/
def State.checkSlot (s : State) (i : Nat) (x : CalSlot) : State :=
  if slotPasses i x then s.commitSlot i x else (s.putSlot i x).commitFailed i

/-- CAL_COMMIT_DONE: the commit passes its check, or fails with CAL_WRITE (R395, R397). -/
def State.calCommitDone (s : State) (i : Nat) (ok : Bool) : State :=
  match s.mram.calWrite.get (fun _ => none) i with
  | none => s
  | some x =>
    let s1 := { s with mram := { s.mram with calWrite := s.mram.calWrite.set (fun _ => none) i none } }
    if !ok then s1.commitFailed i else if s.mramRuns then s1.checkSlot i x else s

/-- Every pending record committed at once, as an ordered shutdown does (R396). -/
def State.commitPending (s : State) : State :=
  s.each 26 fun i t => if t.flag (F.CAL_REC_PENDING i) then
    { t with mram := { t.mram with calWrite := t.mram.calWrite.set (fun _ => none) i none } }.checkSlot i (t.newSlot i)
  else t

/-- Results of a run put in force and marked pending (R396). -/
def State.putResult (s : State) (i : Nat) (payload : Store Nat) (temp : Nat) : State :=
  { s with calNow := s.calNow.set (fun _ => []) i payload,
           mram := { s.mram with calTemp := s.mram.calTemp.set (fun _ => 0) i temp } }.setFlag (F.CAL_REC_PENDING i) true

/-! ### Sweeps -/

/-- The window a sweep found at a place: lowest and highest passing code. -/
def sweepWindow (x : Sweep) (place : Nat) : Nat × Nat :=
  match x.found.find? fun f => f.1.val == place with
  | some f => (f.2.1.toNat, f.2.2.toNat)
  | none => (x.lo.toNat, x.hi.toNat)

/-- The width of a window in codes. -/
def winWidth (w : Nat × Nat) : Nat := w.2 + 1 - w.1

/-- The trained code of a window: its midpoint, rounded down (R392). -/
def winCode (w : Nat × Nat) : Nat := (w.1 + w.2) / 2

/-- A window as a drift run sees it, which sweeps code `k` only over ±8 (R401). -/
def nearWindow (k : Nat) (w : Nat × Nat) : Nat × Nat := (max w.1 (k - 8), min w.2 (k + 8))

/-- The window that a run of channel `c` finds at a place: of all codes, or for a drift run about the code in force (R399,
R401). -/
def State.windowAt (s : State) (c : Nat) (drift : Bool) (x : Sweep) (k : Nat) : Nat × Nat :=
  if drift then nearWindow (s.codeAt c k) (sweepWindow x k) else sweepWindow x k

/-- A data or spare conductor has no window of the minimum eye on one of its edges (R392, step 4 of the table Full
training). -/
def State.noWindow (s : State) (c : Nat) (drift : Bool) (x : Sweep) (n : Nat) : Bool :=
  winWidth (s.windowAt c drift x (2 * n)) < s.minEye || winWidth (s.windowAt c drift x (2 * n + 1)) < s.minEye

/-- The data and spare conductors without a window. -/
def State.windowless (s : State) (c : Nat) (drift : Bool) (x : Sweep) : List Nat := below 9100 (s.noWindow c drift x)

/-- The narrowest window of a run. -/
def State.minWin (s : State) (c : Nat) (drift : Bool) (x : Sweep) : Nat :=
  (List.range 18248).foldl (fun m k => min m (winWidth (s.windowAt c drift x k))) 64

/-- A channel's part of a VP payload replaced by what a run found; a place without a window keeps its code, that of vp.pt
for a drift run (R401, R402). -/
def State.sweepPayload (s : State) (c i : Nat) (drift : Bool) (x : Sweep) : Store Nat :=
  let base := vpBase c
  let pl := s.calPayload i
  let keep (k : Nat) : Nat := if drift then s.codeAt c k else pl.get (calDefault i) (base + k)
  let mid := (List.range 18248).filterMap fun k =>
    let w := s.windowAt c drift x k
    let v := if winWidth w < s.minEye then keep k else winCode w
    if v = calDefault i (base + k) then none else some (base + k, v)
  pl.filter (fun e => e.1 < base) ++ mid ++ pl.filter (fun e => base + 18248 ≤ e.1)

/-- The widths that a run found, by place. -/
def State.sweepWidths (s : State) (c : Nat) (drift : Bool) (x : Sweep) : Store Nat :=
  (List.range 18248).filterMap fun k =>
    let w := winWidth (s.windowAt c drift x k)
    if w = 0 then none else some (k, w)

/-- A trim as a drift run finds it, which sweeps it only over ±4 (R401). -/
def nearTrim (drift : Bool) (old v : Nat) : Nat := if drift then max (old - 4) (min (old + 4) v) else v

/-- The sense trims that a run of channel `c` found, put into the SENSE records of its dies (R391, R393). -/
def State.putTrims (s : State) (c : Nat) (drift : Bool) (x : Sweep) (temp : Nat) : State :=
  x.sense.foldl (fun t f =>
    let i := 8 + 4 * (c / 8) + f.1.val / 32
    let b := 32 * (c % 8) + f.1.val % 32
    let put (pl : Store Nat) (off v : Nat) : Store Nat :=
      pl.set (calDefault i) off (nearTrim drift (pl.get (calDefault i) off) v)
    t.putResult i (put (put (t.calPayload i) (2 * b) f.2.1.toNat) (2 * b + 1) f.2.2.toNat) temp) s

/-- The spare group of a data or spare conductor (R18). -/
def condGroup (n : Nat) : Nat := if n < 8960 then n / 64 else n - 8960

/-- A data or spare conductor carries data: no spare replaces it, or it is a spare that replaces one (R18). -/
def State.condInUse (s : State) (c n : Nat) : Bool :=
  if n < 8960 then s.replaced c (n / 64) != some n else (s.replaced c (n - 8960)).isSome

/-- A conductor spared where its group's spare is free, with a ledger entry; else it stays in use. The second part tells
that it is in use and its spare is taken (step 4 of the table Full training). -/
def State.spareOne (s : State) (c source n : Nat) : State × Bool :=
  if !s.condInUse c n then (s, false)
  else if n < 8960 ∧ s.condFree c (n / 64) then (s.spareCond c n source, false)
  else (s, true)

/-- Conductors spared in ascending order; whether the spare of one was taken. -/
def State.spareList (s : State) (c source : Nat) (l : List Nat) : State × Bool :=
  l.foldl (fun a n => let r := a.1.spareOne c source n; (r.1, a.2 || r.2)) (s, false)

/-- Conductors spared where the group's spare is free; the others stay in use (step 4). -/
def State.spareAll (s : State) (c source : Nat) (l : List Nat) : State := (s.spareList c source l).1

/-- One spare group holds two conductors in use that err (R399). -/
def State.checkFails (s : State) (c : Nat) (erring : List Nat) : Bool :=
  let l := (erring.filter (s.condInUse c)).eraseDups
  l.any fun n => l.any fun m => n != m && condGroup n == condGroup m

/-- What a run found put in force for a channel at a frequency point: codes, widths, the narrowest window, and conductors
spared (steps 2 to 4 of the table Full training). The codes that vp.pt set end (R402). -/
def State.sweepCodes (s : State) (c point source temp : Nat) (drift : Bool) (x : Sweep) : State :=
  let i := vpRecord c point
  let s1 := (s.putResult i (s.sweepPayload c i drift x) temp).modChan c fun y =>
    { y with vpt := { y.vpt with codes := [], windows := s.sweepWidths c drift x } }
  (s1.setFld (F.VPT_STS_MIN_WIN c) (s.minWin c drift x)).spareAll c source (s.windowless c drift x)

/-- Steps 2 to 5 of the table Full training for a channel at a frequency point. -/
def State.sweepChannel (s : State) (c point source temp : Nat) (drift : Bool) (x : Sweep) : State :=
  (s.sweepCodes c point source temp drift x).putTrims c drift x temp

/-! ### Runs -/

/-- A drift run of the channel is due: DUE as a level, or the mark of a suspect check (R400, R403). -/
def State.updateDue (s : State) (c : Nat) : State :=
  let t := s.chanTemp c
  let t0 := 4 * s.fld (F.VPT_STS_T_CAL c)
  let d := 4 * s.fld F.CAL_CFG_DELTA_T
  s.setFlag (F.VPT_STS_DUE c) ((s.chan c).vpt.mark || decide (d ≤ t - t0) || decide (d ≤ t0 - t))

/-- DUE follows a change of DELTA_T that a staged write made (R400). -/
def State.settleDue (s before : State) : State :=
  if s.fld F.CAL_CFG_DELTA_T = before.fld F.CAL_CFG_DELTA_T then s else s.each 32 fun c t => t.updateDue c

/-- The run of a channel begins: RETRAINING, RUNNING, T_CAL (R398, R401). -/
def State.runStart (s : State) (c cause : Nat) (r : ChRun) : State :=
  let s1 := (s.setChState c .retraining cause).modChan c fun x =>
    { x with vpt := { x.vpt with run := some r, drift := false, mark := false } }
  ((s1.setFld (F.VPT_STS_T_CAL c) (s1.chanTemp c / 4)).setFlag (F.VPT_STS_RUNNING c) true).updateDue c

/-- A channel becomes ONLINE: held requests are admitted (R114, R115). -/
def State.chanOnline (s : State) (c cause : Nat) : State :=
  (s.setChState c .online cause).admitHeld c

/-- A channel stops admission: DRAINING (R115, R243). -/
def State.chanDrain (s : State) (c cause : Nat) : State :=
  (s.setChState c .draining cause).modChan c fun x => { x with drainAt := some s.now }

/-- The run of a channel is over. -/
def State.runOver (s : State) (c : Nat) : State :=
  ((s.modChan c fun x => { x with vpt := { x.vpt with run := none, lastRun := some s.now } }).setFlag
    (F.VPT_STS_RUNNING c) false).updateDue c

/-- What a failed run of a channel leaves: the windows it found and the conductors it spared; codes and trims stay as they
were (R399, R401). -/
def State.sweepFailed (s : State) (c : Nat) (drift : Bool) (x : Sweep) : State :=
  ((s.modChan c fun y => { y with vpt := { y.vpt with windows := s.sweepWidths c drift x } }).setFld (F.VPT_STS_MIN_WIN c)
    (s.minWin c drift x)).spareAll c 3 (s.windowless c drift x)

/-- A channel retrain ends (R399): RETRAINING becomes QUIESCED; a failed one leaves the codes in force. -/
def State.retrainRunEnd (s : State) (c : Nat) (x : Sweep) : State :=
  let s1 := s.sweepChannel c (s.fld F.GLB_MODE_FPOINT) 3 (s.fld (F.VPT_STS_T_CAL c)) false x
  let fail := s1.checkFails c (x.erring.map (·.val))
  let s2 := if fail then (s.sweepFailed c false x).raise (128 + 4 * c + 1) 1 else s1
  ((s2.runOver c).setChState c .quiesced 1).endRun 2 (b2n fail) c 0

/-- A drift run finds a conductor in use without a window whose group's spare is taken: it fails (R401). -/
def State.driftBlocked (s : State) (c : Nat) (x : Sweep) : Bool := (s.spareList c 3 (s.windowless c true x)).2

/-- A drift run ends (R401): the channel is resumed; a failed run restores what was in force, and a channel that then
fails the check enters OFFLINE with CH_VP. -/
def State.driftRunEnd (s : State) (c : Nat) (x : Sweep) : State :=
  let s1 := s.sweepChannel c (s.fld F.GLB_MODE_FPOINT) 3 (s.fld (F.VPT_STS_T_CAL c)) true x
  let s0 := s.sweepFailed c true x
  let bad := s0.checkFails c (x.recheck.map (·.val))
  let fail := s.driftBlocked c x || s1.checkFails c (x.erring.map (·.val))
  let s2 := ((if fail then s0 else s1).runOver c).endRun 3 (b2n fail) c 0
  if fail && bad then (s2.chanOffline c 5).raise (128 + 4 * c + 1) 32
  else (s2.setChState c .quiesced 5).chanOnline c 5

/-- The payload a RAIL run computes: gain and offset of each rail, low byte first (R393). -/
def railPayload (v : List (BitVec 16)) : Store Nat :=
  (List.range 12).foldl (fun d k => let n := (v.getD k 0).toNat
    (d.set (calDefault 25) (2 * k) (n % 256)).set (calDefault 25) (2 * k + 1) (n / 256)) []

/-- The offset of a sensor: the reference less the mean, in 0.25 °C (R398). -/
def sensorOffset (ref mean : Nat) : Int := 4 * (ref : Int) - mean

/-- The payload a SENSOR run computes. -/
def sensorPayload (ref : Nat) (v : List (BitVec 16)) : Store Nat :=
  (List.range 176).foldl (fun d k => d.set (calDefault 24) k (ofSigned 8 (sensorOffset ref (v.getD k 0).toNat))) []

/-- Every offset lies within ±10 °C (table Plausibility limits). -/
def sensorsPlausible (ref : Nat) (v : List (BitVec 16)) : Bool :=
  (List.range 176).all fun k => (sensorOffset ref (v.getD k 0).toNat).natAbs ≤ 40

/-- The run of CAL_CTL ends (R398); COMMIT ends when no commit is in progress. -/
def State.ctlRunEnd (s : State) (v : List (BitVec 16)) : State :=
  match s.calRun with
  | none => s
  | some (kind, failed) =>
    let s0 := { s with calRun := none }.setFlag F.CAL_CTL_BUSY false
    match kind with
    | 0 =>
      let pl := railPayload v
      if payloadPlausible 25 pl then (s0.putResult 25 pl 0).endRun 4 0 0 0 else s0.endRun 4 2 0 0
    | 1 =>
      let ref := s.fld F.CAL_REF_TEMP_REF
      if sensorsPlausible ref v then (s0.putResult 24 (sensorPayload ref v) ref).endRun 5 0 0 0 else s0.endRun 5 2 0 0
    | _ => if s.mram.calWrite.isEmpty then s0.endRun 6 (if failed then 3 else 0) 0 0 else s

/-- A die of the tier is being reset: the training traffic of its channels waits (R251). -/
def State.tierHeld (s : State) (t : Nat) : Bool := (s.dieReset.map fun r => r.die / 4) == some t

/-- CAL_RUN_END. -/
def State.calRunEnd (s : State) (e : CalEnv) : State :=
  match e.run with
  | none => s.ctlRunEnd e.values
  | some c =>
    if s.tierHeld (c.val / 8) then s
    else match (s.chan c.val).vpt.run with
    | some .retrain => s.retrainRunEnd c.val e.sweep
    | some .drift => s.driftRunEnd c.val e.sweep
    | none => s

/-- A write of CAL_CTL (R404). -/
def State.wCalCtl (s : State) (p : Path) (w : Word) : Res :=
  let kind := bitsOf w.toNat 25 24
  if kind = 3 then ignored s
  else if !bitOf w.toNat 31 then done (s.plainWrite (pathNum p) .CAL_CTL 0 0 w)
  else if kind = 1 ∧ !s.sessionOk p then s.deny p (adr .CAL_CTL) true
  else if s.flag F.CAL_CTL_BUSY ∨ !(s.mode == .active || s.mode == .safe) then ignored s
  else
    let s1 := (s.plainWrite (pathNum p) .CAL_CTL 0 0 w).setFlag F.CAL_CTL_BUSY true
    let s2 := { s1 with calRun := some (kind, false) }
    done (if kind = 2 then s2.each 26 fun i t => t.commitStart i else s2)

/-- When the least gap since the last run of a channel has passed (R400). -/
def State.gapEnd (s : State) (k : Nat) : Nat :=
  match (s.chan k).vpt.lastRun with
  | some t => t + 1000000 * s.fld F.CAL_CFG_MIN_GAP_MS
  | none => 0

/-- Channel `k` can start a drift run at `t`: it is due and ONLINE, the least gap has passed, and no channel of its tier is in
a drift run (R400). -/
def State.driftReady (s : State) (t k : Nat) : Bool :=
  s.flag (F.VPT_STS_DUE k) && (s.chan k).st == .online && s.gapEnd k ≤ t &&
    (List.range 8).all fun j =>
      let y := (s.chan (8 * (k / 8) + j)).vpt
      !y.drift && y.run != some .drift

/-- DRIFT_RUN_START: firmware starts the drift run that is due in channel `c`, unless a lower channel is to start first
(R400). -/
def State.driftRunStart (s : State) (c : Nat) : State :=
  let t := max s.now (s.gapEnd c)
  if s.coreRuns (halfOfChan c) && s.flag F.CAL_CFG_AUTO_CAL && (s.mode == .active || s.mode == .safe) && s.driftReady t c &&
      (List.range c).all (fun k => !s.driftReady t k) then
    ((s.advanceTo (s.gapEnd c)).chanDrain c 5).modChan c fun x => { x with vpt := { x.vpt with drift := true } }
  else s

/-- SUSPECT_CHECK: vp.chk of the suspect's five conductors; `err` says which erred (R355, R403). -/
def State.suspectCheck (s : State) (c : Nat) (err : BitVec 5) : State :=
  if s.coreRuns (halfOfChan c) && s.flag (F.ECC_SUSPECT_VALID c) && s.flag F.CAL_CFG_AUTO_CAL then
    let n := 280 * s.fld (F.ECC_SUSPECT_LANE c) + 5 * s.fld (F.ECC_SUSPECT_SYMBOL c)
    let l := (below 5 fun i => err.getLsbD i).map (n + ·)
    let s1 := if l.isEmpty then
        (s.modChan c fun x => { x with vpt := { x.vpt with mark := true } }).updateDue c
      else s.spareAll c 5 l
    s1.setFlag (F.ECC_SUSPECT_VALID c) false
  else s

/-- A write of VPT_PROBE: the code in force and the last width of a conductor's edge (R404). -/
def State.wVptProbe (s : State) (p : PathNum) (c : Nat) (w : Word) : Res :=
  let n := bitsOf w.toNat 13 0
  if 9147 < n then ignored s
  else
    let k := condPlace n (b2n (bitOf w.toNat 30))
    let s1 := s.plainWrite p .VPT_PROBE c 0 w
    done (((s1.setFld (F.VPT_PROBE_CODE c) (s1.codeAt c k)).setFld (F.VPT_PROBE_WIN c)
      ((s1.chan c).vpt.windows.get (fun _ => 0) k)).setFlag (F.VPT_PROBE_VALID c) true)

/-! ### Restore and full training at BRING-UP and at exits -/

/-- The channels of tier `t` that take part in training: step 6 left them QUIESCED and no fence has taken them since. -/
def State.tierChans (s : State) (t : Nat) : List Nat :=
  ((List.range 8).map (8 * t + ·)).filter fun c => (s.chan c).st == .quiesced

/-- A record committed at once, or its commit failed (step 8 of the table Full training). -/
def State.commitNow (s : State) (fails : BitVec 26) (i : Nat) : State :=
  if fails.getLsbD i then s.raise 97 0 else s.checkSlot i (s.newSlot i)

/-- What the outside finds in a sweep of channel `c` at a point. -/
def sweepFor (e : BringUpEnv) (c : Nat) (f1 : Bool) : Sweep :=
  match e.sweeps.find? fun x => x.1.val == c && x.2.1 == f1 with
  | some x => x.2.2
  | none => e.sweep

/-- Full training of one channel at both points: steps 2 to 5 at F0, steps 2 to 4 at F1; MIN_WIN is the narrowest window of
both sweeps. False when it fails, and then its results are not in force (R396, R399). -/
def State.fullChannel (s : State) (e : BringUpEnv) (c : Nat) : State × Bool :=
  let temp := s.chanTemp c / 4
  let x := sweepFor e c false
  let y := sweepFor e c true
  let s1 := (s.setFld (F.VPT_STS_T_CAL c) temp).modChan c fun z => { z with vpt := { z.vpt with lastRun := some s.now } }
  let s2 := (s1.sweepChannel c 0 3 temp false x).sweepCodes c 1 3 temp false y
  let ok := !s2.checkFails c (x.erring.map (·.val))
  let s3 := if ok then s2 else (s1.sweepFailed c false x).sweepFailed c false y
  ((s3.setFld (F.VPT_STS_MIN_WIN c) (min (s.minWin c false x) (s.minWin c false y))).updateDue c, ok)

/-- A channel that fails step 7: OFFLINE with CH_VP (R112, R399). -/
def State.trainFail (s : State) (c : Nat) : State := (s.setChState c .offline 4).raise (128 + 4 * c + 1) 1

/-- The records that full training of a tier commits (step 8 of the table Full training). -/
def tierRecords (t : Nat) : List Nat := [2 * t, 2 * t + 1] ++ (List.range 4).map fun l => 8 + 4 * t + l

/-- Full training of tier `t` (table Full training): its channels that fail, and the commit of its records. -/
def State.fullTier (s : State) (e : BringUpEnv) (t : Nat) (chans : List Nat) : State × List Nat :=
  let put (a : State) (i : Nat) : State :=
    a.putResult i ((a.calPayload i).set (calDefault i) 0 (b2n (e.pairs.getLsbD t))) (a.mram.calTemp.get (fun _ => 0) i)
  let r := chans.foldl (fun (a : State × List Nat) c =>
    let x := a.1.fullChannel e c
    if x.2 then (x.1, a.2) else (x.1.trainFail c, a.2 ++ [c])) (put (put s (2 * t)) (2 * t + 1), [])
  ((tierRecords t).foldl (fun a i => a.commitNow e.commitFails i) r.1, r.2)

/-- The conductors of channel `c` among those that err. -/
def errOf (l : List (Fin 32 × Fin 9100)) (c : Nat) : List Nat :=
  (l.filter fun x => x.1.val == c).map fun x => x.2.val

/-- The codes of the record in force loaded for a channel and checked as step 7 of the table Full training does; erring
conductors are spared; true when it passes (R388, R399). -/
def State.checkChannel (s : State) (err : List (Fin 32 × Fin 9100)) (c : Nat) : State × Bool :=
  let s1 := (s.modChan c fun x => { x with vpt := { x.vpt with codes := [] } }).spareAll c 3 (errOf err c)
  (s1, !s1.checkFails c (errOf err c))

/-- The restore run of a channel: T_CAL and the time of its last run set, its codes loaded and checked (R398, R399). -/
def State.restoreChannel (s : State) (err : List (Fin 32 × Fin 9100)) (c : Nat) : State × Bool :=
  let s1 := (s.modChan c fun x => { x with vpt := { x.vpt with lastRun := some s.now } }).setFld
    (F.VPT_STS_T_CAL c) (s.chanTemp c / 4)
  (s1.updateDue c).checkChannel err c

/-- Step 7 for tier `t`: restored, or trained in full, in whole or for the channels that fail the restore. The second
part tells whether it restored all, the third the channels that failed. -/
def State.step7Tier (s : State) (e : BringUpEnv) (t : Nat) : State × Bool × List Nat :=
  let cs := s.tierChans t
  if s.mustTrain t then let r := s.fullTier e t cs; (r.1, false, r.2)
  else
    let r := cs.foldl (fun (a : State × List Nat) c =>
      let x := a.1.restoreChannel e.restoreErr c
      if x.2 then (x.1, a.2) else (x.1, a.2 ++ [c])) (s, [])
    if r.2.isEmpty then (r.1, true, []) else let f := r.1.fullTier e t r.2; (f.1, false, f.2)

/-- A commit of the full training of tier `t` failed: its write, or its check (R395). -/
def State.commitLost (s : State) (e : BringUpEnv) (t : Nat) : Bool :=
  (tierRecords t).any fun i => e.commitFails.getLsbD i || s.flag (F.CAL_REC_PENDING i)

/-- The end of the full training of a tier: no window when a channel of it failed, else an MRAM write that failed, else
pass (R398, log entry 100). -/
def State.endFull (s : State) (e : BringUpEnv) (t : Nat) (bad : Bool) : State :=
  let lost := s.commitLost e t
  s.endRun 1 (if bad then 1 else if lost then 3 else 0) 0 (if bad || lost then 2 ^ t else 0)

/-- Step 7 of the table Bring-up sequence: every tier, with the flags RESTORED and FULL_TRAIN and the runs' ends, the
restore's first and then one for each tier trained in full; FORCE_FULL clears when the training it asked for has
committed (R492). RESTORED tells that some tier was restored (log entry 117). The second part tells whether a channel
failed. -/
def State.step7 (s : State) (e : BringUpEnv) : State × Bool :=
  let r := (List.range 4).foldl (fun (a : State × List (Nat × Bool × Bool)) t =>
    let x := a.1.step7Tier e t
    (x.1, a.2 ++ [(t, x.2.1, !x.2.2.isEmpty)])) (s, [])
  let trained := r.2.filter fun x => !x.2.1
  let full := trained.foldl (fun a x => a + 2 ^ x.1) 0
  let restored := r.2.any fun x => x.2.1
  let s1 := (r.1.setFlag F.GLB_MODE_STS_RESTORED restored).setFlag F.GLB_MODE_STS_FULL_TRAIN (full != 0)
  let forced := s1.bringUp.any (·.force) && (List.range 4).all fun t => !s1.commitLost e t
  let s1 := if forced then s1.setFlag F.LC_TRN_OVR_FORCE_FULL false else s1
  let s2 := s1.endRun 0 (b2n (full != 0)) 0 full
  (trained.foldl (fun t x => t.endFull e x.1 x.2.2) s2, trained.any fun x => x.2.2)

end Sys2Proof.Machine
end

