-- ==== Sys2Proof/Machine/Refresh.lean ====
section
/-!
DEFINITION. Activations: the budget (R240), the trackers and targeted refresh (R379 to R382); refresh by the base die
(R371 to R378) and by the core dies (R384, R46).
-/
namespace Sys2Proof.Machine

/-! ### Timing -/

/-- The row-move period in ns at the frequency point in force (R43). -/
def State.period (s : State) : Nat := if s.flag F.GLB_MODE_FPOINT then 16 else 8

/-- The refresh-interval tick of a band in ns (table Refresh by band). -/
def tREFI (band : Nat) : Nat := tbl [3900, 1950, 975] band

/-! ### The activation budget -/

/-- Units charged in the last 8 row-move periods to the tier of channel `c`, by it alone when `own` (R240). -/
def State.spent (s : State) (c : Nat) (own : Bool) : Nat :=
  (s.thermal.charges.filter fun x => x.at_ ≤ s.now && s.now < x.at_ + 8 * s.period && x.chan / 8 == c / 8 &&
    (!own || x.chan == c)).foldl (fun a x => a + x.units) 0

/-- The number of the present row-move period. -/
def State.periodNo (s : State) : Nat := s.now / s.period

/-- An activation of channel `c` waits for budget in the present period. -/
def State.stalledNow (s : State) (c : Nat) : Bool := (s.chan c).stallAt == some s.periodNo

/-- Channel `c` is next in turn for what the others leave unspent: no channel that waits for budget stands between the one
that took of it last and `c`, round the eight channels of the tier (R240, log entry 83). -/
def State.spareTurn (s : State) (c : Nat) : Bool :=
  let k := s.thermal.spareTaker.get (fun _ => 7) (c / 8)
  (((List.range 8).map fun j => 8 * (c / 8) + (k + 1 + j) % 8).takeWhile (· != c)).all fun d => !s.stalledNow d

/-- An activation of `units` fits the budget: the channel's eighth, or, in its turn, what the tier has left (R240). -/
def State.fitsBudget (s : State) (c units : Nat) : Bool :=
  s.spent c true + units ≤ s.budgetNow / 8 || (s.spent c false + units ≤ s.budgetNow && s.spareTurn c)

/-- Units charged now. What is older than 1 ms is of no account (R410). -/
def State.charge (s : State) (c layer units : Nat) : State :=
  { s with thermal := { s.thermal with
      charges := ⟨s.now, c, 4 * (c / 8) + layer, units⟩ :: s.thermal.charges.filter fun x => s.now < x.at_ + 1000000 } }

/-- A per-bank refresh charged: 4 units in each of 37 periods (R240); it too reaches the tier's vertical island (R51). -/
def State.chargeRefresh (s0 : State) (c layer : Nat) : State :=
  let s := s0.wake (32 + c / 8)
  { s with thermal := { s.thermal with
      charges := (List.range 37).map (fun k => ⟨s.now + k * s.period, c, 4 * (c / 8) + layer, 4⟩) ++
        s.thermal.charges.filter fun x => s.now < x.at_ + 1000000 } }

/-- An activation waits for budget in this period, which counts once (R240). `by_` is the module and the flow of the request or
program that it is for, as far as there is one (R498, log entry 120). -/
def State.stall (s : State) (c : Nat) (by_ : Option Nat × Option Nat := (none, none)) : State :=
  if s.stalledNow c then s
  else ((s.countCh c 9 1 by_.1 by_.2).bump (F.CH_BUDGET_STS_STALL_VC c)).modChan c fun x => { x with stallAt := some s.periodNo }

/-- What an activation takes beyond the channel's eighth makes the channel the last that took of the remainder. -/
def State.takeSpare (s : State) (c : Nat) : State :=
  if s.spent c true ≤ s.budgetNow / 8 then s
  else { s with thermal := { s.thermal with spareTaker := s.thermal.spareTaker.set (fun _ => 7) (c / 8) (c % 8) } }

/-! ### Trackers -/

/-- The 64 entries of a bank's table; an unlisted table is empty with every count 0. -/
def fullTable (l : List TrkEntry) : List TrkEntry := l ++ List.replicate (64 - l.length) ⟨none, 0⟩

/-- The lowest count of a table. -/
def minCount (l : List TrkEntry) : Nat := (l.map (·.count)).foldl min ((l.headD ⟨none, 0⟩).count)

/-- The entry that takes a new row: an empty one first, else the lowest count, the lowest number among equals. -/
def lowestEntry (l : List TrkEntry) : Nat :=
  let m := minCount l
  (l.findIdx? fun e => e.row.isNone).getD ((l.findIdx? fun e => e.count == m).getD 0)

/-- A table after an activation of a row, and whether it triggers a targeted refresh (R379). -/
def trackRow (thresh i : Nat) (l0 : List TrkEntry) : List TrkEntry × Bool :=
  let l := fullTable l0
  let k := (l.findIdx? fun e => e.row == some i).getD (lowestEntry l)
  let n := (l.getD k ⟨none, 0⟩).count + 1
  let l1 := l.set k ⟨some i, n⟩
  if thresh ≤ n then (l1.set k ⟨some i, minCount l1⟩, true) else (l1, false)

/-- The rows a targeted refresh of physical index `i` refreshes (R380). -/
def neighbours (i : Nat) : List Nat :=
  (if 2 ≤ i then [i - 2] else []) ++ (if 1 ≤ i then [i - 1] else []) ++ [i + 1, i + 2].filter (· ≤ 16575)

/-- A targeted refresh: its activations charged (R240, R380); counted when a tracker triggered it. -/
def State.targetedRefresh (s : State) (c layer i : Nat) (counted : Bool)
    (by_ : Option Nat × Option Nat := (none, none)) : State :=
  let s1 := s.charge c layer (4 * (neighbours i).length)
  let s2 := s1.countCh c 11 1 by_.1 by_.2
  if counted then s2.bump (F.REF_TRR_CNT_TRR c) else s2

/-- A bank whose lowest tracker count has reached the threshold is counted in SAT_BANKS until its lap wraps (R382). -/
def Chan.noteSat (x : Chan) (thresh b : Nat) : Chan :=
  if thresh ≤ minCount (fullTable (x.refresh.trackers.get (fun _ => []) b)) ∧ !x.refresh.sat.contains b then
    { x with refresh := { x.refresh with sat := b :: x.refresh.sat } }
  else x

/-- The banks of a channel that its tables show as saturated. -/
def Chan.noteSats (x : Chan) (thresh : Nat) : Chan :=
  x.refresh.trackers.foldl (fun y e => y.noteSat thresh e.1) x

/-- An activation of a physical row counted at that row (R241, R371, R379). -/
def State.track (s : State) (loc : Nat) (by_ : Option Nat × Option Nat := (none, none)) : State :=
  let c := locCh loc
  let i := physIndex loc
  let r := trackRow (s.fld (F.REF_CFG_TRK_THRESH c)) i ((s.chan c).refresh.trackers.get (fun _ => []) (locCbi loc))
  let s1 := (s.countCh c 8 1 by_.1 by_.2).modChan c fun x =>
    { x with refresh := { x.refresh with trackers := x.refresh.trackers.set (fun _ => []) (locCbi loc) r.1 } }.noteSat
      (s.fld (F.REF_CFG_TRK_THRESH c)) (locCbi loc)
  if r.2 then s1.targetedRefresh c (locLayer loc) i true by_ else s1

/-- An activation of a physical row, which reaches the tier's vertical island and wakes it (R51): charged, and counted at the physical row it is made on (R240, R241, R371, R379). -/
def State.activatePhys (s : State) (loc units : Nat) (by_ : Option Nat × Option Nat := (none, none)) : State :=
  (((s.wake (32 + locCh loc / 8)).charge (locCh loc) (locLayer loc) units).takeSpare (locCh loc)).track loc by_

/-- An activation of a row: of the spare row that replaces it, when one does. -/
def State.activate (s : State) (loc units : Nat) (by_ : Option Nat × Option Nat := (none, none)) : State :=
  s.activatePhys (s.physRow loc) units by_

/-- The activations of the zero-fill of the service rows 0 to 47 of channel `c`, one of each row, counted at the physical
rows they are made on (R35, R241, R379). No request shares a budget with them: they are not listed as charges (log entry
112). -/
def State.trackFill (s : State) (c : Nat) : State :=
  s.each 128 fun b t => t.each 48 fun v u => u.track (u.physRow (mkLoc c (b / 32) (b % 32) 2 v))

/-- Every table of a channel restarted with empty entries and counts at TRK_THRESH - 1 (R121). -/
def State.restartTrackers (s : State) (c : Nat) : State :=
  let e : TrkEntry := ⟨none, s.fld (F.REF_CFG_TRK_THRESH c) - 1⟩
  s.modChan c fun x => { x with refresh := { x.refresh with
    trackers := (List.range 128).map fun b => (b, List.replicate 64 e) } }

/-! ### Laps -/

/-- The lap position of a channel bank. -/
def Chan.lapPos (x : Chan) (b : Nat) : Nat := x.refresh.lap.get (fun _ => 0) b

/-- The lap position of a bank moved on (R372). -/
def Chan.lapMove (x : Chan) (b : Nat) : Chan :=
  { x with refresh := { x.refresh with lap := x.refresh.lap.set (fun _ => 0) b ((x.lapPos b + 1) % 448) } }

/-- One refresh of a bank by the base die: the lap position moves on; a wrap empties the bank's tracker table (R372,
R379). -/
def State.lapStep (s : State) (c b : Nat) : State :=
  let s1 := s.modChan c fun x => x.lapMove b
  if (s1.chan c).lapPos b = 0 then s1.clearTracker c b else s1

/-! ### Spines and self-refresh -/

/-- SPINE_STOP_SELF_REFRESH: a die whose spine stopped without a command enters self-refresh (R46). -/
def State.spineStop (s : State) (d : Nat) : State :=
  if s.clocked && !s.pllLocked (halfOfChan (8 * (d / 4))) && !bitOf s.ownSelf d then { s with ownSelf := s.ownSelf + 2 ^ d } else s

/-- DIE_SELF_REFRESH: one refresh that die `d`, while it is powered, makes of its bank `b`; a RETIRED channel is not
refreshed (R374, R384, R385). A wrap is noted for the exit, where it clears the bank's table (R383). -/
def State.dieSelfRefresh (s : State) (d b : Nat) : State :=
  let c := 8 * (d / 4) + b / 32
  let k := 32 * (d % 4) + b % 32
  if s.dieAsleep d && s.dieGood d && (s.chan c).st != .retired then
    s.modChan c fun x =>
      let y := x.lapMove k
      if y.lapPos k = 0 ∧ !y.refresh.wrapped.contains k then
        { y with refresh := { y.refresh with wrapped := k :: y.refresh.wrapped } } else y
  else s

/-! ### Bands -/

/-- The band a temperature (encoded under R406) gives (table Refresh by band). -/
def bandOf (t : Nat) : Nat := if t ≤ 596 then 0 else if t ≤ 636 then 1 else 2

/-- A moment since which something holds was `ms` milliseconds ago or earlier. -/
def State.heldFor (s : State) (since : Option Nat) (ms : Nat) : Bool :=
  match since with
  | some t => t + 1000000 * ms ≤ s.now
  | none => false

/-- The band in force from this tick on (R376, R377). -/
def State.nextBand (s : State) (c : Nat) : Nat :=
  let x := (s.chan c).refresh
  let cur := s.fld (F.REF_STS_BAND c)
  let lo := max (s.fld (F.REF_CFG_MIN_BAND c)) (bandOf (s.chanTemp c))
  let ms := s.fld (F.REF_CFG_DOWN_MS c)
  let ok (b : Nat) : Bool := lo ≤ b && (cur ≤ b || s.heldFor (if b = 0 then x.lowA else x.lowB) ms)
  if ok 0 then 0 else if ok 1 then 1 else 2

/-- What a new temperature means for the wait of R377: 82 °C and 92 °C. -/
def State.noteLow (s : State) (c : Nat) : State :=
  let t := s.chanTemp c
  let keep (lim : Nat) (o : Option Nat) : Option Nat := if t ≤ lim then some (o.getD s.now) else none
  s.modChan c fun x => { x with refresh := { x.refresh with lowA := keep 584 x.refresh.lowA, lowB := keep 624 x.refresh.lowB } }

/-! ### Refresh by the base die -/

/-- Bank (channel bank index) of the row in a slot. -/
def Slot.bank (v : Slot) : Nat := locCbi v.loc

/-- A bank whose close runs or that is in refresh: no promotion, no move-in (R242). -/
def Chan.closing (x : Chan) (b : Nat) : Bool := (x.refresh.due.any fun e => e.1 == b) || x.refresh.busy.contains b

/-- The base die refreshes bank `b` of channel `c`: the channel is not RETIRED, its spine runs, its clock runs, and the
bank's die does not refresh itself (R374, R385). -/
def State.refreshes (s : State) (c b : Nat) : Bool :=
  (s.chan c).st != .retired && s.spineRuns (c / 8) && !s.flag (F.GLB_ISL_STS_IN_RESET c) &&
    !s.dieAsleep (4 * (c / 8) + b / 32)

/-- The refresh timer of channel `c` runs, whatever its state (R77, R375): the array is not in self-refresh and the
channel's half has not stopped. -/
def State.timerRuns (s : State) (c : Nat) : Bool :=
  s.mode != .reset && s.mode != .selfRefresh && s.mode != .deepRetention && !s.halfStopped (halfOfChan c)

/-- The slot holds the row that native row action moves to a spare (R324, R362). -/
def Chan.sparingSlot (x : Chan) (i : Nat) : Bool :=
  match x.scrub.sparing with
  | some p => (x.slot i).state != .empty && (x.slot i).loc == p.1
  | none => false

/-- A slot that is pinned or held is not closed (R227), nor one whose row is being moved to a spare (R324). -/
def Chan.kept (x : Chan) (i : Nat) : Bool := x.pinned i || x.held.contains i || x.sparingSlot i

/-- The slots of a bank that a close has to write back: EVICTING those that are DIRTY and neither pinned nor held, CLEANING,
once each, those that stay open (R242 step 3). `once` are the latter that the close has cleaned. -/
def Chan.toClose (x : Chan) (b : Nat) (once : List Nat) (stay : Bool) : List Nat :=
  below 64 fun i => (x.slot i).state == .dirty && (x.slot i).bank == b && x.kept i == stay && !(stay && once.contains i)

/-- A slot that stays open noted as cleaned by the close of its bank. -/
def Chan.cleanedOnce (x : Chan) (b i : Nat) : Chan :=
  { x with refresh := { x.refresh with due := x.refresh.due.map fun d => if d.1 = b then (d.1, i :: d.2) else d } }

/-- Slots of a bank that are CLEAN and neither pinned nor held become EMPTY (R242, step 4). -/
def Chan.closeClean (x : Chan) (b : Nat) : Chan :=
  (List.range 64).foldl (fun y i =>
    if (y.slot i).state = .clean ∧ (y.slot i).bank = b ∧ !y.kept i then y.setSlot i Slot.empty else y) x

/-- A tick of channel `c`: its shadows apply, the band is decided, and of the four banks whose turn it is those come due
that the base die refreshes (R73, R373, R377). The timer of a channel that is FORCED_OFF runs, its shadows wait (R51, R77).
-/
def State.tickNow (s : State) (c : Nat) : State :=
  let s1 := if s.fld (F.GLB_ISL_CTL_GATE c) = 2 then s else s.applyShadows (domChan c)
  let s2 := (s1.setFld (F.REF_STS_BAND c) (s1.nextBand c)).setFld (F.REF_STS_TEMP c) (s1.chanTemp c / 4)
  s2.modChan c fun x =>
    let n := x.refresh.tick
    let banks := ((List.range 4).map fun l => 32 * l + n % 32).filter fun b => !x.closing b && s2.refreshes c b
    { x with refresh := { x.refresh with
        tick := n + 1, due := x.refresh.due ++ banks.map fun b => (b, []) } }.noteSats
      (s2.fld (F.REF_CFG_TRK_THRESH c))

/-- REFRESH_INTERVAL_TICK: the next tick of the channel; one that falls in a reset of its island is owed (R375). -/
def State.refreshTick (s : State) (c : Nat) : State :=
  if !s.timerRuns c then s else
  let s0 := s.advanceTo ((s.chan c).refresh.tickAt + tREFI (s.fld (F.REF_STS_BAND c)))
  let s1 := s0.modChan c fun x => { x with refresh := { x.refresh with tickAt := s0.now } }
  if s1.flag (F.GLB_ISL_STS_IN_RESET c) then
    s1.modChan c fun x => { x with refresh := { x.refresh with owed := x.refresh.owed + 1 } }
  else s1.tickNow c

/-- The ticks that fell in a reset of the channel's island are issued in order (R375). -/
def State.issueOwed (s : State) (c : Nat) : State :=
  (List.range (s.chan c).refresh.owed).foldl (fun t _ => t.tickNow c)
    (s.modChan c fun x => { x with refresh := { x.refresh with owed := 0 } })

/-- The close of a bank has nothing left to write back (R242, steps 3 and 5). -/
def Chan.closeDone (x : Chan) (b : Nat) : Bool :=
  (x.refresh.due.any fun e => e.1 == b && (x.toClose b e.2 true).isEmpty) && (x.toClose b [] false).isEmpty &&
    (List.range 64).all fun i =>
      let v := x.slot i
      v.bank != b || (match v.state with
        | .empty | .clean | .fenced | .dirty => true
        | .filling | .cleaning | .evicting => false)

/-- A refresh of the bank is due and its close is done: no other work takes the bank before it is issued (R236). -/
def State.refreshDue (s : State) (c b : Nat) : Bool := s.refreshes c b && (s.chan c).closeDone b

/-- The requests to bank `b` of channel `c` whose promotion a close refused are to be served by sector cycles (R245). -/
def State.afterClose (s : State) (c b : Nat) : State :=
  { s with txns := s.txns.map fun t =>
      if t.stage = .afterRefresh ∧ s.txnIn c t ∧ locCbi (s.txnPlace t).loc = b then { t with stage := .sector } else t }

/-- PER_BANK_REFRESH_END (R242, R245, R372). -/
def State.refreshEnd (s : State) (c b : Nat) : State :=
  if (s.chan c).refresh.busy.contains b then
    ((s.lapStep c b).modChan c fun x =>
      { x with refresh := { x.refresh with busy := x.refresh.busy.filter (· != b) } }).afterClose c b
  else s

/-! ### GLB_FPOINT_NEXT -/

/-- A write of GLB_FPOINT_NEXT (R387). -/
def State.wFpointNext (s : State) (p : PathNum) (w : Word) : Res :=
  let n := b2n (bitOf w.toNat 8)
  let ok := (List.range 4).all fun t =>
    s.flag (F.CAL_REC_VALID (2 * t + n)) || (List.range 8).all fun j =>
      (s.chan (8 * t + j)).st == .offline || (s.chan (8 * t + j)).st == .retired
  if n = s.fld F.GLB_MODE_FPOINT ∨ ok then done (s.plainWrite p .GLB_FPOINT_NEXT 0 0 w) else ignored s

end Sys2Proof.Machine
end

