-- ==== Sys2Proof/Machine/Thermal.lean ====
section
/-!
DEFINITION. Heat and power: sensors, the observer, distrust (R405 to R413), the thermal and power steps (R414 to R418),
the manager's share (R419), thermal trips (R420 to R422), and bond wear (R438 to R440).
-/
namespace Sys2Proof.Machine

/-! ### Sensors -/

/-- The sensors of a die, 16 the base die (table Sensor placement). -/
def dieSensors (d : Nat) : List Nat := if d = 16 then List.range 48 else (List.range 8).map (48 + 8 * d + ·)

/-- A whole number of °C encoded under R406. -/
def encC (t : Nat) : Nat := 4 * (t + 64)

/-- A raw value with its sensor's offset added (R406), not below 0. -/
def State.corrected (s : State) (k raw : Nat) : Nat :=
  ((raw : Int) + toSigned 8 (s.calByte 24 k)).toNat

/-- A corrected value is plausible (R407). -/
def State.plausible (s : State) (k v : Nat) : Bool :=
  76 ≤ v && v ≤ 816 && (match s.thermal.last.get (fun _ => none) k with
    | some (p, t) => s.now - t > 1100000 || (v - p ≤ 40 && p - v ≤ 40)
    | none => true)

/-- One sensor converted (R406, R407). -/
def State.sampleSensor (s : State) (k raw : Nat) : State :=
  let v := s.corrected k raw
  let ok := s.plausible k v
  let s1 := ((s.setFlag (F.THM_SENS_VALID k) true).setFlag (F.THM_SENS_PLAUSIBLE k) ok).setFld (F.THM_SENS_VALUE k)
    (min v 1023)
  if ok then { s1 with thermal := { s1.thermal with last := s1.thermal.last.set (fun _ => none) k (some (v, s1.now)) } }
  else s1

/-- The plausible values among sensors. -/
def State.plausibleOf (s : State) (l : List Nat) : List Nat :=
  (l.filter fun k => s.flag (F.THM_SENS_PLAUSIBLE k)).map fun k => s.fld (F.THM_SENS_VALUE k)

/-- The highest of a list of values, none for an empty list. -/
def highest (l : List Nat) : Option Nat := l.foldl (fun m v => some (max v (m.getD 0))) none

/-- The reading of a die (R409). -/
def State.reading (s : State) (d : Nat) : Option Nat := highest (s.plausibleOf (dieSensors d))

/-! ### The observer -/

/-- Units charged to the layers of die `d` in the last 1 ms (R410). -/
def State.unitsOf (s : State) (d : Nat) : Nat :=
  (s.thermal.charges.filter fun x => x.die == d && x.at_ ≤ s.now && s.now < x.at_ + 1000000).foldl (fun a x => a + x.units) 0

/-- A core die is distrusted. -/
def State.distrusted (s : State) (d : Nat) : Bool := bitOf (s.fld F.THM_IMPL_IMPL_LIVE) d

/-- The input a core-die neighbour gives an estimate (R410, R412). -/
def State.neighbourInput (s : State) (d : Nat) : Nat :=
  if s.distrusted d || !s.flag (F.THM_DIE_VALID d) then s.fld (F.THM_DIE_ESTIMATE d) else s.fld (F.THM_DIE_READING d)

/-- The inputs to die `d`'s estimate (R410). -/
def State.inputs (s : State) (d : Nat) : List Nat :=
  if d = 15 then [s.neighbourInput 14]
  else if d = 0 then s.neighbourInput 1 :: (highest (s.plausibleOf (List.range 8))).toList
  else [s.neighbourInput (d - 1), s.neighbourInput (d + 1)]

/-- The estimate of die `d` (R410), rounded down to 0.25 °C: 0.4 °C is 1.6 of those per 10^6 units. -/
def State.estimate (s : State) (d : Nat) : Nat :=
  let l := s.inputs d
  (l.foldl (· + ·) 0 * 10000000 + 16 * l.length * s.unitsOf d) / (10000000 * l.length)

/-- A core-die neighbour agrees with the model (R411). -/
def State.agrees (s : State) (d : Nat) : Bool :=
  let r := s.fld (F.THM_DIE_READING d)
  let e := s.fld (F.THM_DIE_ESTIMATE d)
  !s.distrusted d && s.flag (F.THM_DIE_VALID d) && r - e ≤ 12 && e - r ≤ 12

/-- Every neighbour of die `d` agrees (R411, R412). -/
def State.neighboursAgree (s : State) (d : Nat) : Bool :=
  if d = 0 then s.agrees 1 && !(s.plausibleOf (List.range 8)).isEmpty
  else if d = 15 then s.agrees 14
  else s.agrees (d - 1) && s.agrees (d + 1)

/-- Distrust of die `d` begun or ended (R412). -/
def State.setDistrust (s : State) (d : Nat) (on : Bool) : State :=
  let v := s.fld F.THM_IMPL_IMPL_LIVE
  if on then
    if bitOf v d then s
    else (((s.setFld F.THM_IMPL_IMPL_LIVE (v + 2 ^ d)).setFld F.THM_IMPL_IMPL
      (putBits (s.fld F.THM_IMPL_IMPL) d d 1)).setFlag (F.THM_DIE_DISTRUSTED d) true).raiseCond 78 (2 ^ d)
  else if bitOf v d then
    let s1 := (s.setFld F.THM_IMPL_IMPL_LIVE (v - 2 ^ d)).setFlag (F.THM_DIE_DISTRUSTED d) false
    if v = 2 ^ d then s1.endCondition 78 else s1
  else s

/-- The distrust rule at a sample with reading `r` and estimate `e` (R412): at once without a reading; at the third
sample in a row far below the estimate while the neighbours agree; ended when it is no longer far below. -/
def State.distrustStep (s : State) (d : Nat) (r : Option Nat) (e : Nat) : State :=
  let put (n : Nat) : State := { s with thermal := { s.thermal with distrust := s.thermal.distrust.set (fun _ => 0) d n } }
  match r with
  | none => (put 0).setDistrust d true
  | some v =>
    let low := decide (v + 4 * s.fld F.THM_CFG_DISTRUST < e)
    if !low then (put 0).setDistrust d false
    else if s.neighboursAgree d then
      let n := s.thermal.distrust.get (fun _ => 0) d + 1
      if 3 ≤ n then (put 3).setDistrust d true else put n
    else put 0

/-! ### Temperatures in force and maxima -/

/-- The temperature in force of a die, 16 the base die (R409, R413). -/
def State.inForce (s : State) (d : Nat) : Nat :=
  if d = 16 then s.fld F.THM_MAX_BASE_MAX else s.fld (F.THM_DIE_IN_FORCE d)

/-- The limit of a die, encoded (R408). -/
def State.limitOf (s : State) (d : Nat) : Nat :=
  encC (if d = 16 then s.fld F.THM_CFG_LIMIT_BASE else s.fld F.THM_CFG_LIMIT_CORE)

/-- The code of the sample period at a temperature (R408). -/
def periodCode (limit t : Nat) : Nat := if t + 20 ≤ limit then 0 else if t + 8 ≤ limit then 1 else 2

/-- The sample period of a die in ns (R408). -/
def State.samplePeriod (s : State) (d : Nat) : Nat :=
  tbl [1000000, 100000, 20000] (if d = 16 then s.fld F.THM_STEP_BASE_PERIOD else bitsOf (s.getReg .THM_PERIOD 0 0) (2 * d + 1) (2 * d))

/-- The period of a die set from its temperature in force. -/
def State.setPeriod (s : State) (d : Nat) : State :=
  let p := periodCode (s.limitOf d) (s.inForce d)
  if d = 16 then s.setFld F.THM_STEP_BASE_PERIOD p
  else s.setReg (adr .THM_PERIOD) (BitVec.ofNat 32 (putBits (s.getReg .THM_PERIOD 0 0) (2 * d + 1) (2 * d) p))

/-- THM_MAX after a sample: the core maximum, the base reading and its sensor. -/
def State.setMaxima (s : State) : State :=
  let core := (List.range 16).foldl (fun m d => max m (s.fld (F.THM_DIE_IN_FORCE d))) 0
  let die := ((List.range 16).find? fun d => s.fld (F.THM_DIE_IN_FORCE d) == core).getD 0
  let base := (s.reading 16).getD (s.fld F.THM_MAX_BASE_MAX)
  let k := ((List.range 48).find? fun k => s.flag (F.THM_SENS_PLAUSIBLE k) && s.fld (F.THM_SENS_VALUE k) == base).getD
    (s.fld F.THM_MAX_BASE_SENSOR)
  (((s.setFld F.THM_MAX_CORE_DIE die).setFld F.THM_MAX_CORE_MAX core).setFld F.THM_MAX_BASE_MAX base).setFld
    F.THM_MAX_BASE_SENSOR k

/-- Readings, estimate and temperature in force of core die `d` at a sample (R409 to R413). -/
def State.sampleDie (s : State) (d : Nat) : State :=
  if d = 16 then s else
  let r := s.reading d
  let e := min 1023 (s.estimate d)
  let s1 := s.distrustStep d r e
  (((s1.setFlag (F.THM_DIE_VALID d) r.isSome).setFld (F.THM_DIE_READING d) (r.getD 0)).setFld (F.THM_DIE_ESTIMATE d)
    e).setFld (F.THM_DIE_IN_FORCE d) (max e (r.getD 0))

/-! ### Steps -/

/-- HEAT follows the two steps (R414). -/
def State.setSteps (s : State) (thermal power : Nat) : State :=
  ((s.setFld F.THM_STEP_THERMAL thermal).setFld F.THM_STEP_POWER power).setFld F.THM_STEP_HEAT (max thermal power)

/-- The rate of a die reaches RISE_RATE: its rise since the latest earlier sample at least 1 ms old (R417). -/
def State.fastRise (s : State) (d : Nat) : Bool :=
  match (s.thermal.history.get (fun _ => []) d).find? fun h => h.1 + 1000000 ≤ s.now with
  | some (t, v) => s.fld F.THM_CFG_RISE_RATE * (s.now - t) ≤ (s.inForce d - v) * 1000000
  | none => false

/-- A moment lies within the last `n` ns. -/
def State.within (s : State) (o : Option Nat) (n : Nat) : Bool :=
  match o with
  | some t => s.now < t + n
  | none => false

/-- Some die is less than 3 °C below its limit. -/
def State.someHot (s : State) : Bool := (List.range 17).any fun d => s.limitOf d < s.inForce d + 12

/-- The floor below which THROTTLE sources hold the thermal step: while one is live, and for 10 ms after a raise of one
taken as an event (R443, R457). -/
def State.throttleFloor (s : State) : Nat :=
  if (below 256 fun n => s.flag (liveFld n) && sourceReaction n 0 == .throttle).isEmpty &&
      !(s.coll.holds.any fun e => match e.2 with | some t => s.now < t + 10000000 | none => false) then 0
  else s.fld F.FLT_CFG_THROTTLE_STEP

/-- The thermal step at a sample of die `d` (R416, R417). -/
def State.thermalStep (s : State) (d : Nat) : State :=
  let step := s.fld F.THM_STEP_THERMAL
  let th := s.thermal
  let atLimit := decide (s.limitOf d ≤ s.inForce d)
  let fast := s.fastRise d
  let byLimit := atLimit && !s.within th.riseAt 100000 && step < 15
  let byRate := fast && !s.within th.rateRiseAt 1000000 && step < 15
  let rise := byLimit || byRate
  let fall := !rise && 0 < step && !atLimit && !fast && !s.within th.hotAt 1000000 && !s.someHot &&
    !s.within th.rateAt 1000000 && !s.within th.changeAt 1000000 && s.throttleFloor < step
  let now := some s.now
  let s1 := { s with thermal := { th with
    hotAt := if s.someHot then now else th.hotAt, rateAt := if fast then now else th.rateAt,
    riseAt := if rise then now else th.riseAt, rateRiseAt := if byRate then now else th.rateRiseAt,
    changeAt := if rise || fall then now else th.changeAt } }
  let s2 := s1.setSteps (if rise then step + 1 else if fall then step - 1 else step) (s1.fld F.THM_STEP_POWER)
  let s3 := if byRate then (s2.bump F.THM_CNT_RISE_EVENTS).raise 79 (2 ^ d) else s2
  let s4 := if byLimit then s3.bump F.THM_CNT_LIMIT_EVENTS else s3
  if step = 15 && atLimit then s4.raiseCond 80 (2 ^ d)
  else if s4.flag (liveFld 80) && !((List.range 17).any fun k => s4.limitOf k ≤ s4.inForce k) then s4.endCondition 80
  else s4

/-- The thermal step raised to the floor of the THROTTLE sources; once FATAL is taken, no more (R443). -/
def State.holdFloor (s : State) : State :=
  let n := s.throttleFloor
  if s.mode = .fatal ∨ n ≤ s.fld F.THM_STEP_THERMAL then s
  else { s with thermal := { s.thermal with changeAt := some s.now, riseAt := some s.now } }.setSteps n (s.fld F.THM_STEP_POWER)

/-- THROTTLE_HOLD_EXPIRE: the hold after a raise of source `n` ends (R443). -/
def State.holdExpire (s : State) (n : Nat) : State :=
  match s.coll.holds.get (fun _ => none) n with
  | some t =>
    let s1 := s.advanceTo (t + 10000000)
    { s1 with coll := { s1.coll with holds := s1.coll.holds.set (fun _ => none) n none } }
  | none => s

/-! ### Trips -/

/-- THERMTRIP_N driven low and the trip recorded; THM_TRIP raised: its reaction is FATAL (R420, R421). Every bank is
commanded into self-refresh. -/
def State.trip (s : State) (d : Nat) (backstop : Bool) (temp : Nat) : State :=
  let s1 := { s with pins := { s.pins with thermtrip := true } }
  if s.mode = .reset then s1
  else
    let s2 := (((s1.setFlag F.THM_TRIP_TRIPPED true).setFlag F.THM_TRIP_BACKSTOP backstop).setFld F.THM_TRIP_DIE d).setFld
      F.THM_TRIP_TEMP temp
    { s2 with ownSelf := 0xFFFF }.raise 81 (2 ^ d)

/-- The trip rule at a sample (R420): 110 °C for a core die, 115 °C for the base die, twice in a row. -/
def State.tripStep (s : State) (d : Nat) : State :=
  let hot := decide (encC (if d = 16 then 115 else 110) ≤ s.inForce d)
  let n := if hot then s.thermal.trips.get (fun _ => 0) d + 1 else 0
  let s1 := { s with thermal := { s.thermal with trips := s.thermal.trips.set (fun _ => 0) d (min n 2) } }
  if 2 ≤ n && !s.flag F.THM_TRIP_TRIPPED then s1.trip d false (s.inForce d) else s1

/-- BACKSTOP_TRIP (R421). -/
def State.backstopTrip (s : State) (d : Nat) : State := s.trip d true 0

/-! ### A sample of a die -/

/-- The die's temperature kept for the rate: the latest sample at least 1 ms old and every later one. -/
def State.keepHistory (s : State) (d : Nat) : State :=
  let l := s.thermal.history.get (fun _ => []) d
  let young := l.takeWhile fun h => s.now < h.1 + 1000000
  { s with thermal := { s.thermal with
      history := s.thermal.history.set (fun _ => []) d ((s.now, s.inForce d) :: (young ++ (l.drop young.length).take 1)) } }

/-- PWR_EST: what the device measures it draws is not given to the model (a free value, log entry 13). -/
def State.measure (s : State) : State :=
  (s.setReg (adr .PWR_EST) (BitVec.ofNat 32 (2 ^ 31 + Config.freeNat s.free % 2048))).useFree

/-- SENSOR_SAMPLE: the sensors of die `d` are converted (R406 to R420). -/
def State.sensorSample (s : State) (d : Nat) (raw : List (BitVec 10)) : State :=
  if s.mode = .reset ∨ s.mode = .deepRetention then s else
  let s0 := match s.thermal.history.get (fun _ => []) d with
    | h :: _ => s.advanceTo (h.1 + s.samplePeriod d)
    | [] => s
  let s1 := { s0 with thermal := { s0.thermal with hotAt := if s0.someHot then some s0.now else s0.thermal.hotAt } }
  let s2 := ((dieSensors d).zip raw).foldl (fun t p => t.sampleSensor p.1 p.2.toNat) s1
  let s3 := ((s2.sampleDie d).setMaxima).setPeriod d
  let s4 := (s3.thermalStep d).keepHistory d
  let s5 := if d = 16 then s4.measure else (List.range 8).foldl (fun t j =>
    ((t.noteLow (8 * (d / 4) + j)).updateDue (8 * (d / 4) + j))) s4
  s5.tripStep d

/-! ### Power -/

/-- The power ceilings of the throttle steps in units of 0.1 W (table Throttle steps). -/
def powerCeiling (step : Nat) : Nat :=
  tbl [1100, 1053, 1007, 960, 913, 867, 820, 773, 727, 680, 633, 587, 540, 493, 447, 400] step

/-- The power step of a cap: the lowest step whose ceiling does not exceed it (R418). -/
def powerStep (cap : Nat) : Nat := ((List.range 16).find? fun k => powerCeiling k ≤ cap).getD 15

/-- The effective cap (R418). -/
def State.effective (s : State) : Nat :=
  let cap := s.fld F.PWR_CAP_CAP
  if s.flag F.PWR_STS_SHARE_LAPSED then min cap (s.fld F.PWR_CAP_FALLBACK)
  else if s.flag F.PWR_STS_SHARE_VALID then min cap (s.fld F.PWR_STS_SHARE)
  else cap

/-- EFFECTIVE follows the cap and the share. -/
def State.setEffective (s : State) : State := s.setFld F.PWR_STS_EFFECTIVE s.effective

/-- The power step recomputed at a management tick (R418). -/
def State.powerTick (s : State) : State :=
  let s1 := s.setEffective
  s1.setSteps (s1.fld F.THM_STEP_THERMAL) (powerStep (s1.fld F.PWR_STS_EFFECTIVE))

/-- A share received (R419). -/
def State.setShare (s : State) (v : Nat) : State :=
  let s1 := ((s.setFld F.PWR_STS_SHARE v).setFlag F.PWR_STS_SHARE_VALID true).setFlag F.PWR_STS_SHARE_LAPSED false
  { s1.endCondition 82 with thermal := { s1.thermal with shareAt := some s1.now } }.setEffective

/-- SHARE_LAPSE: the share was not renewed within 20 ms (R419). -/
def State.shareLapse (s : State) : State :=
  match s.thermal.shareAt with
  | some t =>
    if s.flag F.PWR_STS_SHARE_VALID then
      let s1 := ((s.advanceTo (t + 20000000)).setFlag F.PWR_STS_SHARE_VALID false).setFlag F.PWR_STS_SHARE_LAPSED true
      ({ s1 with thermal := { s1.thermal with shareAt := none } }.setEffective).raiseCond 82 0
    else s
  | none => s

/-! ### Bond wear -/

/-- The temperature of a boundary (table Tier boundaries). -/
def State.boundaryTemp (s : State) (b : Nat) : Nat :=
  if b = 0 then max (s.inForce 16) (s.inForce 0) else max (s.inForce (4 * b - 1)) (s.inForce (4 * b))

/-- The level of an index (R440). -/
def State.wearLevel (s : State) (idx : Nat) : Nat :=
  ([s.fld F.THM_WEAR_CFG_T1, s.fld F.THM_WEAR_CFG_T2, s.fld F.THM_WEAR_CFG_T3].filter fun t => t * 65536 ≤ idx).length

/-- LEVEL of a boundary follows its index; BOND_WEAR while one is at level 3 (R440). -/
def State.setLevel (s : State) (b : Nat) : State :=
  let n := s.wearLevel (s.fld (F.THM_WEAR_IDX_INDEX b))
  let s1 := s.setFld (F.THM_WEAR_STS_LEVEL b) n
  if n = 3 then (if s.fld (F.THM_WEAR_STS_LEVEL b) = 3 then s1 else s1.raiseCond 103 (2 ^ b))
  else if s1.flag (liveFld 103) && !((List.range 4).any fun k => s1.fld (F.THM_WEAR_STS_LEVEL k) == 3) then
    s1.endCondition 103
  else s1

/-- Every LEVEL follows a change of the thresholds that a staged write made (R440). -/
def State.settleLevels (s before : State) : State :=
  if s.reg (adr .THM_WEAR_CFG) = before.reg (adr .THM_WEAR_CFG) then s
  else (List.range 4).foldl (fun t b => t.setLevel b) s

/-- The levels of the indices that BRING-UP restored; a boundary at level 3 enters it (R439, R440). -/
def State.restoreLevels (s : State) : State :=
  (List.range 4).foldl (fun t b => (t.setFld (F.THM_WEAR_STS_LEVEL b) 0).setLevel b) s

/-- WEAR_SAMPLE (R439). -/
def State.wearSample (s : State) (b : Fin 4) : State :=
  if s.mode = .reset ∨ s.mode = .deepRetention then s else
  let t := s.boundaryTemp b.val
  let put (w : Wear) : State := { s with wear := s.wear.set b.val (some w) }
  match s.wear[b.val] with
  | none => put ⟨t, t, true⟩
  | some w =>
    if (if w.up then w.ext < t else t < w.ext) then put { w with ext := t }
    else if (w.ext - t) + (t - w.ext) < 20 then s
    else
      let range := (w.ext - w.ref) + (w.ref - w.ext)
      let s1 := put ⟨w.ext, t, !w.up⟩
      if 80 < range then
        ((s1.bump (F.THM_WEAR_STS_HALF_CYCLES b.val)).bump (F.THM_WEAR_IDX_INDEX b.val) (range * range / 400)).setLevel b.val
      else s1

/-- The highest level among the boundaries that a tier crosses (R440). -/
def State.tierLevel (s : State) (t : Nat) : Nat :=
  (List.range (t + 1)).foldl (fun m b => max m (s.fld (F.THM_WEAR_STS_LEVEL b))) 0

/-- WEAR_CHECK: vp.chk of every group of a channel; the conductors that err, themselves or in the spare that replaces them
(R327, R440). -/
def State.wearCheck (s : State) (c : Nat) (err : List Nat) : State :=
  if s.coreRuns (halfOfChan c) && s.flag F.CAL_CFG_AUTO_CAL && s.mode == .active && (s.chan c).st == .online && 0 < s.tierLevel (c / 8) then
    err.foldl (fun t n =>
      if t.condFree c (n / 64) then t.spareCond c n 5
      else t.raise (128 + 4 * c + 1) 8) s
  else s

/-- Registers whose values MRAM saves, read as they stand. -/
def State.snapshot (s : State) (l : List Nat) : Store Word := (l.map fun a => (a, s.reg a))

/-- Wear registers. -/
def wearRegs : List Nat := (List.range 4).flatMap fun b => [adr .THM_WEAR_IDX 0 b, adr .THM_WEAR_STS 0 b]

/-- Values saved in MRAM. -/
def State.save (s : State) (l : Store Word) : State :=
  { s with mram := { s.mram with saved := l.foldl (fun d p => d.set (regReset s.part) p.1 p.2) s.mram.saved } }

/-- WEAR_RECORD_WRITE: INDEX and HALF_CYCLES are being written, once per hour (R439). -/
def State.wearRecordWrite (s : State) : State :=
  if s.mode = .reset ∨ s.mode = .deepRetention ∨ s.mram.wearWrite.isSome ∨ !s.mramRuns then s else
  let s1 := match s.mram.wearAt with
    | some t => s.advanceTo (t + 3600000000000)
    | none => s
  { s1 with mram := { s1.mram with wearWrite := some (s1.snapshot wearRegs), wearAt := some s1.now } }

/-- A write of THM_WEAR_CFG: T1 < T2 < T3 (R441). -/
def State.wWearCfg (s : State) (p : PathNum) (w : Word) : Res :=
  let n := w.toNat
  if bitsOf n 7 0 < bitsOf n 15 8 ∧ bitsOf n 15 8 < bitsOf n 23 16 then done (s.plainWrite p .THM_WEAR_CFG 0 0 w) else ignored s

end Sys2Proof.Machine
end

