-- ==== Sys2Proof/Machine/Transport.lean ====
section
/-!
DEFINITION. The Wethen Transport: the cells taken from a module, credits, the request checks, entries, injection,
deadlines and the responses that leave (R154 to R194); tagging of accepted requests (R502, R503).
-/
namespace Sys2Proof.Machine

/-! ### Protocol errors and cells -/

/-- A protocol error on module `m` (R191, R192): XPT_PERRm, XPT_PROTOCOL, and exclusion at 256 within 1 ms. -/
def State.protocolError (s : State) (m cell code : Nat) : State :=
  let w := s.timeBase.toNat / 1000000
  let n := if (s.mod m).perrWin = w then (s.mod m).perrCount + 1 else 1
  let s1 := if s.flag (F.XPT_PERR_VALID m) then s else
    ((s.setBoth (F.XPT_PERR_CODE m) code).setBoth (F.XPT_PERR_CELL m) cell).setBoth (F.XPT_PERR_VALID m) 1
  let s2 := ((s1.bumpBoth (F.XPT_PERR_COUNT m)).modMod m fun x => { x with perrWin := w, perrCount := n }).raise 36 (modBit m)
  if n = 256 ∧ !s2.flag (F.UCI_STS_EXCLUDED m) then s2.excludeMod m 7 else s2

/-- CLASS and OP values of the messages a requester sends (table Messages). -/
def requesterOp (b : Nat) : Bool := [0x00, 0x01, 0x21, 0x22, 0x23, 0x24, 0x25, 0x61, 0x62].contains b

/-- The stages in which flits arrive and messages are served or answered UNAVAILABLE, whether or not the module is excluded
(R148). -/
def Stage.receives : Stage → Bool
  | .active | .drain | .excluded | .loopback | .trainError => true
  | .reset | .sbDetect | .sbUp | .mbInit | .mbTrain | .locked | .capExchange | .retrain | .l1 => false

/-- Messages that arrive on the module are served or answered: in those stages, and on an excluded module whatever STAGE
reads (R148). -/
def State.receives (s : State) (m : Nat) : Bool := (s.mod m).stage.receives || s.flag (F.UCI_STS_EXCLUDED m)

/-- The stages in which a module's credits count and its responses leave. -/
def Stage.carries : Stage → Bool
  | .active | .drain => true
  | _ => false

/-- Credit of a message spent by the requester and freed at once: its cells leave the ingress buffer (R170). -/
def State.spendReq (s : State) (m n : Nat) : State :=
  s.modMod m fun x => { x with reqUsed := x.reqUsed + n, reqFreed := x.reqFreed + n }

/-- REQ cells that arrive: their credit is spent (R166); those of a message that is discarded leave the ingress buffer at
once (R170). -/
def State.arriveReq (s : State) (m n : Nat) : State := s.modMod m fun x => { x with reqUsed := x.reqUsed + n }

/-- A protocol error that discards the rest of the flit from its cell on (R191, R192). -/
def State.flitError (s : State) (m cell code : Nat) : State :=
  (s.modMod m fun x => { x with skip := some (cell, s.now) }).protocolError m cell code

/-- A cell that an earlier error of its flit discards: one behind the offending cell at the same moment (R192, log entry
91). -/
def State.skipped (s : State) (m cell : Nat) : Bool := (s.mod m).skip.any fun e => decide (e.1 < cell) && e.2 == s.now

/-- The cells of a flit come in ascending order: a cell that lies no later than the offending one opens the next flit,
where parsing resumes (R192, log entry 91). -/
def State.resumeFlit (s : State) (m cell : Nat) : State :=
  if (s.mod m).skip.any fun e => decide (cell ≤ e.1) then s.modMod m fun x => { x with skip := none } else s

/-- A cell arrives: its module's island runs, and its flit is counted with its first cell (R51, R498). -/
def State.flitAt (s : State) (m cell : Nat) : State :=
  let t := (s.wake (36 + m)).resumeFlit m cell
  if cell = 0 then t.countGl 9 1 (some m) else t

/-- The cells of a message that an earlier error discards are dropped: those of a REQ message go back (R170). -/
def State.dropCells (s : State) (m size b : Nat) : State :=
  if b / 32 = 1 && (s.mod m).stage.carries then s.spendReq m size else s

/-- A first cell whose CLASS and OP no requester sends: UNKNOWN, or HALF for a pair of half-cells whose second half is
neither empty nor of the first half's CLASS (R191, log entry 91). -/
def State.unknownCell (s : State) (m cell h : Nat) : State :=
  let pair := h % 256 == 0x42 || h % 256 == 0x71
  if pair && bitsOf h 127 64 != 0 && bitsOf h 71 69 != bitsOf h 7 5 then s.protocolError m cell 3
  else s.flitError m cell 1

/-- A message of `size` cells starting at `cell` with its first cell `h`, taken as the message of CLASS and OP `b`
(R157 to R168, R191). The flag says that it goes on to be served; otherwise it was discarded, or is no such message. -/
def State.takeMessage (s1 : State) (m cell size b h : Nat) : State × Bool :=
  let x := s1.mod m
  if !s1.receives m then (s1, false)
  else if s1.skipped m cell then (if h % 256 = b then (s1.dropCells m size b, false) else (s1, false))
  else
  let s0 := s1.flitAt m cell
  if h % 256 ≠ b then (if requesterOp (h % 256) then (s1, false) else (s0.unknownCell m cell h, false))
  else if 15 < cell + size then ((if b / 32 = 1 then s0.spendReq m size else s0).flitError m cell 2, false)
  else if !x.stage.carries || b / 32 = 0 then (s0, true)
  else if !x.initOut then (s0.protocolError m cell 6, false)
  else if !x.initIn then ((if b / 32 = 1 then s0.spendReq m size else s0).protocolError m cell 6, false)
  else if b / 32 = 1 then
    if 2048 < x.reqUsed + size then (s0.protocolError m cell 4, false) else (s0.arriveReq m size, true)
  else if 32 < x.ctlUsed + 1 then (s0.protocolError m cell 4, false)
  else (s0.modMod m fun y => { y with ctlUsed := y.ctlUsed + 1 }, true)

/-! ### Tagging -/

/-- The LFSR of R502 after one advance. -/
def lfsrNext (x : Word) : Word := if x.toNat % 2 = 1 then (x >>> 1) ^^^ 0x80200003#32 else x >>> 1

/-- KIND of a tag record. -/
def tagKind : ReqOp → Nat
  | .rd | .fence => 0
  | .wr => 1
  | .wrPart => 2
  | .wrZero => 3

/-- An accepted request counted, and tagged when the LFSR of its module says so and an entry is free (R498, R502,
R503). -/
def State.tagRequest (s : State) (t : Txn) : State :=
  if t.op = .fence then s else
  let s0 := s.countGl 2 1 (some t.m) (some t.flow)
  if !s0.flag F.OBS_TAG_CFG_EN then s0 else
  let x := lfsrNext (s0.obs.lfsr.get (fun _ => 1) t.m)
  let s1 := { s0 with obs := { s0.obs with lfsr := s0.obs.lfsr.set (fun _ => 1) t.m x } }
  if x.toNat % 2 ^ s1.fld F.OBS_TAG_CFG_K ≠ 0 then s1
  else if 256 ≤ s1.obs.tags.length then s1.bump F.OBS_TAG_STS_DROPS
  else
    let g : TagRec :=
      { m := t.m, tag := t.tag, kind := tagKind t.op, flow := t.flow, addr := t.addr, t0 := t.t0,
        base := s.timeBase.toNat, ch := locCh (s.txnPlace t).loc, dFabric := none, dChannel := none, dGrant := none,
        dDone := none, dRsp := none, dSent := none, status := 0, served := 3, guar := false, late := false, urg := 0,
        due := false }
    ({ s1 with obs := { s1.obs with tags := s1.obs.tags ++ [g] } }).countGl 0x10 1 (some t.m) (some t.flow)

/-! ### The request checks -/

/-- The transaction a header cell spells (table Request header cell). -/
def State.headerTxn (s : State) (m : Nat) (op : ReqOp) (h : Nat) (data : Sector) (be : BitVec 64) : Txn :=
  { m := m, tag := bitsOf h 21 8, op := op, addr := if op = .fence then 0 else bitsOf h 81 48,
    metaByte := if op = .wrZero then bitsOf h 43 40 else bitsOf h 47 40,
    metaEn := op != .wrPart || bitOf h 37, flow := bitsOf h 35 24, urg := bitsOf h 23 22, data := data, be := be,
    t0 := s.now, stage := .accepted, guaranteed := false, starved := false, inject := false, pre := false,
    launched := false, answered := false, rowRetired := false, merged := none, orphan := false, filled := false }

/-- PRIVREQ as taken from a module (R175). -/
def State.privTaken (s : State) (m h : Nat) : Bool :=
  bitOf h 36 && bitOf (s.fld (F.XPT_PRIV_EN_MODULES.inHalf (halfOfMod m))) m

/-- The service area permits the access of a privileged request (table Service areas). -/
def serviceAllows (op : ReqOp) (row : Nat) : Bool := if op = .rd then row < 60 else row < 48

/-- Device entries of a module in use. -/
def State.entriesOf (s : State) (m : Nat) : Nat := (s.txns.filter fun t => t.m == m && !t.answered).length

/-- A device entry is available to a module (R162, R164): one of its 1,024, or one of the 4,096 shared. -/
def State.entryFree (s : State) (m : Nat) : Bool :=
  s.entriesOf m < 1024 || ((List.range 12).foldl (fun a k => a + (s.entriesOf k - 1024)) 0) < 4096

/-- A channel entry is available (R162, R164). -/
def State.chanEntryFree (s : State) (c : Nat) : Bool := (s.txns.filter (s.txnIn c)).length < 512

/-- A request answered on the spot. -/
def State.answerNow (s : State) (t : Txn) (st : Status) : State := s.formReply t (.ack st 0)

/-- RETRY with the device's estimate, which the manual does not give: a free value (R164). -/
def State.answerRetry (s : State) (t : Txn) : State := s.useFree.formReply t (.ack .retry (Config.freeNat s.free % 256))

/-- A request answered at a module that carries no credits: the ACK leaves at once (R148). -/
def State.answerOutside (s : State) (t : Txn) (st : Status) : State :=
  (((s.countStatus st false t.m t.flow).tagAnswer t st false).tagSent t.m t.tag true).emit (.ack t.m t.tag st false 0)

/-- The device mode serves memory requests (R102). -/
def State.serves (s : State) : Bool := s.mode == .active || s.mode == .safe

/-- A sector counted in its flow's demand (R200). -/
def State.countDemand (s : State) (t : Txn) : State :=
  let k := 2 * t.flow + halfNum (halfOfMod t.m)
  { s with demand := s.demand.set (fun _ => 0) k (s.demand.get (fun _ => 0) k + 1) }

/-- A request takes its entry, by the strait into the fabric of its half (R51); it counts in its flow's demand. -/
def State.enter (s0 : State) (t : Txn) : State :=
  let s := s0.wake (48 + halfNum (halfOfMod t.m))
  let s1 := { s with txns := s.txns ++ [t] }
  if t.op = .fence then s1 else s1.countDemand t

/-- A write of the user range that takes a device entry raises ANY_WRITTEN, whatever its later answer; an injected one
does not (R27). -/
def State.userWrite (s : State) (t : Txn) : State :=
  if t.op ≠ .rd ∧ inUser t.byteAddr then s.setFlag F.XPT_ADDR_MAP_ANY_WRITTEN true else s

/-- Injection armed matches a request (R193). -/
def State.injMatches (s : State) (t : Txn) : Bool :=
  let f (x : Fld) := s.fld (x.inHalf (halfOfMod t.m))
  f F.XPT_INJ_CTL_ARM == 1 && t.op != .fence &&
    (f F.XPT_INJ_CTL_MODULE == 15 || f F.XPT_INJ_CTL_MODULE == t.m) &&
    (match f F.XPT_INJ_CTL_KIND with | 0 => t.op == .rd | 1 => t.op != .rd | _ => true) &&
    (f F.XPT_INJ_MATCH_FLOW_EN == 0 || f F.XPT_INJ_MATCH_FLOW == t.flow)

/-- Steps 4 to 7 of the table Request checks, for a request that takes a device entry and a channel entry. Steps 5 and 6
apply to one that matched injection as well, and it is then no injected answer (log entry 92). -/
def State.checkEntry (s : State) (t : Txn) : State :=
  let c := locCh (s.txnPlace t).loc
  if !s.entryFree t.m || !s.chanEntryFree c then s.answerRetry t
  else
    let gone := s.rowRetired (s.txnPlace t).loc
    let s1 := if t.inject then s else s.userWrite t
    match (s.chan c).st with
    | .offline => s1.answerNow t .unavailable
    | .retired => s1.answerNow t .retired
    | .online => if gone then s1.answerNow t .retired else s1.enter t
    | .draining | .quiesced | .retraining => s1.enter { t with rowRetired := gone }

/-- What an injected answer makes of a matching request (R193, R194). -/
def State.inject (s : State) (t : Txn) : State :=
  match s.fld (F.XPT_INJ_CTL_INJ_STATUS.inHalf (halfOfMod t.m)) with
  | 1 => s.checkEntry { t with inject := true }
  | 2 => s.countInject.formReply t (.ack .retry 0)
  | 3 => s.countInject.formReply t (.ack .unavailable 0)
  | 7 => if s.entryFree t.m then s.countInject.enter { t with stage := .injTimeout } else s.answerRetry t
  | _ => s.countInject.formReply t (.ack .internal 0)

/-- Step 1 of R177: the module was not in service when the message arrived, or the mode serves no memory requests; at a
module that carries no credits the ACK leaves at once (R102, R148, log entry 110). -/
def State.turnAway (s : State) (t : Txn) : State :=
  if (s.mod t.m).stage.carries || (s.mod t.m).stage == .retrain || (s.mod t.m).stage == .l1 || t.orphan then
    s.answerNow t .unavailable
  else s.answerOutside t .unavailable

/-- The checks of R177 on an accepted REQ message; `served` says that its module was in service when it arrived: it
is then served though the module has gone to RETRAIN, L1 or DRAIN or is excluded meanwhile (R146, log entry 110). -/
def State.accept (s0 : State) (t : Txn) (priv served : Bool) : State :=
  let s := s0.tagRequest t
  if !served || !s.serves then s.turnAway t
  else if t.op = .fence then
    if s.entryFree t.m then (s.enter { t with stage := .fence }).settle else s.answerRetry t
  else if !inUser t.byteAddr && !inAperture t.byteAddr then s.answerNow t .unmapped
  else if inAperture t.byteAddr && (!priv || !serviceAllows t.op (locRow (s.txnPlace t).loc)) then s.answerNow t .priv
  else if s.injMatches t then s.inject t
  else s.checkEntry t

/-! ### Ingress -/

/-- The number of the present window of 16 module-island cycles of a module: 512 unit intervals at its rate in force
(R219). -/
def State.admWindow (s : State) (m : Nat) : Nat := s.now * tbl [16, 24, 32, 48] (s.fld (F.UCI_STS_RATE m)) / 512

/-- REQ cells that the module has admitted in the present window. -/
def State.admitted (s : State) (m : Nat) : Nat :=
  if (s.mod m).admWin = s.admWindow m then (s.mod m).admCount else 0

/-- The ingress of the module admits `n` more REQ cells in the present window (R219, R415). -/
def State.windowTakes (s : State) (m n : Nat) : Bool :=
  s.fld F.GLB_MODE_THROTTLE == 0 || s.admitted m + n ≤ 15 * (16 - s.fld F.GLB_MODE_THROTTLE)

/-- REQ cells admitted: they leave the ingress buffer, and their credit is to go back unless an exclusion ended it (R169,
R170); they count in the present window (R219). -/
def State.admitCells (s : State) (m n : Nat) (orphan : Bool) : State :=
  s.modMod m fun y =>
    { y with reqFreed := if orphan then y.reqFreed else y.reqFreed + n, admWin := s.admWindow m,
             admCount := s.admitted m + n }

/-- A REQ message admitted: it is discarded for a repeated tag (R165) or accepted at this moment. -/
def State.letIn (s : State) (x : Waiting) : State :=
  let s1 := s.admitCells x.txn.m x.size x.txn.orphan
  if s1.tagHeld x.txn.m x.txn.tag && !x.txn.orphan then s1.protocolError x.txn.m x.cell 5
  else s1.accept { x.txn with t0 := s1.now } x.priv x.served

/-- The oldest messages in a module's ingress buffer that the present window admits (R219). -/
def State.drainIngress (s : State) (m : Nat) : State :=
  (s.mod m).ingress.foldl (fun t x =>
    match (t.mod m).ingress with
    | [] => t
    | y :: rest => if y = x ∧ t.windowTakes m x.size then (t.modMod m fun z => { z with ingress := rest }).letIn x else t) s

/-- A REQ message of `size` cells (R156, R177): it waits in the ingress buffer behind others, or when the window admits no
more cells. A module that carries no credits has no such limit. -/
def State.request (s : State) (m cell size b h : Nat) (op : ReqOp) (data : Sector) (be : BitVec 64) : State :=
  let r := s.takeMessage m cell size b h
  if !r.2 then r.1
  else
    let x : Waiting :=
      ⟨r.1.headerTxn m op h data be, r.1.privTaken m h, cell, size,
        (r.1.mod m).stage == .active && !r.1.flag (F.UCI_STS_EXCLUDED m)⟩
    if !(r.1.mod m).stage.carries then r.1.accept x.txn x.priv x.served
    else
      let s1 := r.1.drainIngress m
      if (s1.mod m).ingress.isEmpty && s1.windowTakes m size then s1.letIn x
      else s1.modMod m fun y => { y with ingress := y.ingress ++ [x] }

/-! ### Credits -/

/-- A requester's CREDIT cell (R167 to R169). -/
def State.takeCredit (s : State) (m cell h : Nat) : State :=
  let r := s.takeMessage m cell 1 0x01 h
  if !r.2 || !(s.mod m).stage.carries then r.1 else
  let rsp := bitsOf h 31 20
  let ctl := bitsOf h 39 32
  if bitOf h 40 then
    if rsp < 160 ∨ ctl < 2 then r.1.protocolError m cell 7
    else r.1.modMod m fun x =>
      { x with initIn := true, rspCredit := if rsp = 0xFFF then none else some rsp,
               ctlCredit := if ctl = 0xFF then none else some ctl }
  else r.1.modMod m fun x =>
    { x with rspCredit := x.rspCredit.map (· + rsp), ctlCredit := x.ctlCredit.map (· + ctl) }

/-- REQ_CREDIT_RETURN: what the present window admits leaves the ingress buffer, and freed cells go back in one CREDIT cell
of at most 4,095 (R170, R219); none in DRAIN (R146). -/
def State.reqCreditReturn (s0 : State) (m : Nat) : State :=
  let s := s0.drainIngress m
  let n := min 4095 (s.mod m).reqFreed
  if n = 0 ∨ (s.mod m).stage ≠ .active then s
  else (s.modMod m fun x => { x with reqUsed := x.reqUsed - n, reqFreed := x.reqFreed - n }).emit (.credit m false 0 0 n)

/-- A counter of credits less what a message costs; none is unlimited. -/
def lessCredit (c : Option Nat) (n : Nat) : Option Nat := c.map (· - n)

/-- A counter of credits covers a cost. -/
def hasCredit (c : Option Nat) (n : Nat) : Bool :=
  match c with
  | none => true
  | some k => n ≤ k

/-- An ACK message. -/
def Out.isAck : Out → Bool
  | .ack .. => true
  | _ => false

/-- The messages that leave with the next credit, and their cost in cells: an RD_DATA costs five; two ACKs that follow
each other share a cell, and so do two CFG_CPL (R156, R159). -/
def firstMessages : List Out → List Out × Nat
  | a :: b :: _ => if a.isAck then (if b.isAck then ([a, b], 1) else ([a], 1)) else ([a], 5)
  | [a] => ([a], if a.isAck then 1 else 5)
  | [] => ([], 0)

/-- A response leaves: its tag record is due (R503). -/
def State.sendRsp (s : State) (m : Nat) (o : Out) : State :=
  let s1 := s.emit o
  match o with
  | .rdData _ tag .. | .ack _ tag .. => s1.tagSent m tag true
  | _ => s1

/-- RESPONSE_TRANSMIT: a CTL message that is ready leaves ahead of RSP messages; its CTL credit is returned (R170, R171,
R189). -/
def State.transmit (s : State) (m : Nat) : State :=
  let x := s.mod m
  if !x.stage.carries || !x.initIn then s
  else if !x.ctlOut.isEmpty && hasCredit x.ctlCredit 1 then
    let l := x.ctlOut.take 2
    let s1 := s.modMod m fun y =>
      { y with ctlOut := y.ctlOut.drop 2, ctlCredit := lessCredit y.ctlCredit 1, ctlUsed := y.ctlUsed - l.length }
    (((l.foldl State.emit s1).emit (.credit m false l.length 0 0))).countGl 0xA 1 (some m)
  else
    let f := firstMessages x.egress
    if f.1.isEmpty || !hasCredit x.rspCredit f.2 then s
    else
      let s1 := s.modMod m fun y =>
        { y with egress := y.egress.drop f.1.length, rspCredit := lessCredit y.rspCredit f.2 }
      (f.1.foldl (fun t o => t.sendRsp m o) s1).countGl 0xA 1 (some m)

/-! ### Deadlines and injection -/

/-- The channel works on the transaction: its channel entry outlives a TIMEOUT (R188). -/
def TxnStage.working : TxnStage → Bool
  | .hit | .sector | .promoting | .afterRefresh | .moveIn _ | .waitFill => true
  | .accepted | .capWait | .held _ | .queued | .injTimeout | .fence => false

/-- The deadline of a transaction (R188). An injected TIMEOUT raises no fault and counts nowhere (R194). -/
def State.requestDeadline (s : State) (m tag : Nat) : State :=
  match s.findTxn m tag with
  | none => s
  | some t =>
    let s1 := s.advanceTo (t.t0 + 50000)
    if t.stage = .injTimeout then s1.reply t (.ack .timeout 0)
    else
      let s2 := if t.stage.working then s1.setTxn t { t with answered := true } else s1
      ((s2.reply t (.ack .timeout 0)).bumpBoth F.XPT_TIMEOUT_CNT_TIMEOUTS).raise 37 (modBit m)

/-- A write of XPT_INJ_CTL (R193, R194). -/
def State.wInjCtl (s : State) (p : PathNum) (w : Word) : Res :=
  let n := w.toNat
  if bitOf n 31 && bitsOf n 27 24 == 1 && bitsOf n 11 10 != 0 then ignored s
  else
    let s1 := if bitOf n 31 && !s.flag F.XPT_INJ_CTL_ARM then s.setBoth F.XPT_INJ_CTL_INJECTED 0 else s
    done (s1.plainWrite p .XPT_INJ_CTL 0 0 w)

end Sys2Proof.Machine
end

