-- ==== Sys2Proof/Machine/Qos.lean ====
section
/-!
DEFINITION. Flows, deadlines and guarantees: classification, urgency and rank, the QoS boundary, the floor, the URG
wires, the device-wide fence (R195 to R221); requests held by a channel (R114).
-/
namespace Sys2Proof.Machine

/-! ### Flow contexts -/

/-- The address of word `k` of flow context `f` (R196). -/
def flowAddr (f k : Nat) : Nat := 0x30000 + 16 * f + 4 * k

/-- The flow that an address lies in. -/
def flowOf (a : Nat) : Nat := (a - 0x30000) / 16

/-- CLASS of a flow. -/
def State.flowClass (s : State) (f : Nat) : Nat := s.fld (F.FLOW_W0_CLASS f)
/-- MIN_RATE of a flow. -/
def State.minRate (s : State) (f : Nat) : Nat := s.fld (F.FLOW_W1_MIN_RATE f)
/-- MAX_RATE of a flow. -/
def State.maxRate (s : State) (f : Nat) : Nat := s.fld (F.FLOW_W2_MAX_RATE f)

/-- The flows whose context differs from its reset value; every other flow has no rate, cap or count. -/
def State.flows (s : State) : List Nat :=
  ((s.regs.filter fun e => 0x30000 ≤ e.1 && e.1 < 0x40000).map fun e => flowOf e.1).eraseDups

/-- The sum of MIN_RATE over the flows for which `p` holds. -/
def State.sumRates (s : State) (p : Nat → Bool) : Nat :=
  (s.flows.filter p).foldl (fun a f => a + s.minRate f) 0

/-- QOS_GUAR_SUM as held. -/
def State.putSum (s : State) : State := s.setBoth F.QOS_GUAR_SUM_SUM (s.sumRates fun _ => true)

/-- A write of a word of a flow context lands in its shadow, which starts from the values in force; word 2 arms it
(R197). -/
def State.wFlow (s : State) (p : PathNum) (f k : Nat) (w : Word) : Res :=
  let old := (s.flowShadows.get (fun _ => none) f).getD
    ⟨s.reg (flowAddr f 0), s.reg (flowAddr f 1), s.reg (flowAddr f 2), false, p⟩
  let sh : FlowShadow := match k with
    | 0 => { old with w0 := w }
    | 1 => { old with w1 := w }
    | _ => { old with w2 := w, armed := true, path := p }
  done { s with flowShadows := s.flowShadows.set (fun _ => none) f (some sh) }

/-- A flow's shadow taken away. -/
def State.dropShadow (s : State) (f : Nat) : State :=
  { s with flowShadows := s.flowShadows.set (fun _ => none) f none }

/-- A shadow discarded at the boundary (R76). -/
def State.discardFlow (s : State) (f : Nat) (sh : FlowShadow) : State :=
  (s.dropShadow f).accFault 4 sh.path (flowAddr f 2) true

/-- A shadow applied as a whole (R197). -/
def State.applyFlow (s : State) (f : Nat) (sh : FlowShadow) : State :=
  (((s.dropShadow f).putReg .FLOW_W0 0 f (applyStaged .FLOW_W0 0 sh.w0.toNat)).putReg .FLOW_W1 0 f
    (applyStaged .FLOW_W1 0 sh.w1.toNat)).putReg .FLOW_W2 0 f (applyStaged .FLOW_W2 0 sh.w2.toNat)

/-- MIN_RATE that a shadow gives. -/
def FlowShadow.minRate (x : FlowShadow) : Nat := bitsOf x.w1.toNat 20 0

/-- MAX_RATE of a shadow is 0 or at least its MIN_RATE (R198). -/
def FlowShadow.ok (x : FlowShadow) : Bool := bitsOf x.w2.toNat 20 0 == 0 || x.minRate ≤ bitsOf x.w2.toNat 20 0

/-- The armed shadows, in ascending flow number. -/
def State.armed (s : State) : List (Nat × FlowShadow) :=
  s.flowShadows.filterMap fun e => match e.2 with
    | some sh => if sh.armed then some (e.1, sh) else none
    | none => none

/-! ### Requests at their channel -/

/-- A request arrives at its channel island, by the straits on its way, which restart gated clocks (R51, R113, R114). -/
def State.arrive (s0 : State) (t : Txn) : State :=
  let c := locCh (s0.txnPlace t).loc
  let s := (s0.wake (48 + halfNum (halfOfChan c))).wake c
  match (s.chan c).st with
  | .online => s.toQueue t
  | .draining | .quiesced | .retraining =>
    (s.setTxn t { t with stage := .held s.now }).countCh c 0xF 1 (some t.m) (some t.flow)
  | .offline => s.reply t (.ack .unavailable 0)
  | .retired => s.reply t (.ack .retired 0)

/-- HELD_REQUEST_TIMEOUT: 20 us after its arrival a held request is answered UNAVAILABLE (R114). -/
def State.heldTimeout (s : State) (m tag : Nat) : State :=
  match s.findTxn m tag with
  | none => s
  | some t =>
    match t.stage with
    | .held since => (s.advanceTo (since + 20000)).reply t (.ack .unavailable 0)
    | _ => s

/-! ### Urgency and rank -/

/-- Wire `w` counts as asserted: its level, unless it is stuck (R206). -/
def State.wireUp (s : State) (w : Nat) : Nat :=
  b2n (bitOf (s.fld F.QOS_URG_STS_LEVEL) w && !bitOf (s.fld F.QOS_URG_STS_STUCK) w)

/-- The level that a flow's wire or pair gives (R205). -/
def State.wireLevel (s : State) (f : Nat) : Nat :=
  let src := s.fld (F.FLOW_W0_URG_SRC f)
  match s.fld F.QOS_URG_CFG_MODE with
  | 1 => if 1 ≤ src ∧ src ≤ 8 then s.wireUp (src - 1) * s.fld F.QOS_URG_CFG_LEVEL_1BIT else 0
  | 2 => if 9 ≤ src ∧ src ≤ 12 then 2 * s.wireUp (2 * (src - 9) + 1) + s.wireUp (2 * (src - 9)) else 0
  | _ => 0

/-- The schedule level of an age against a target (R203). -/
def scheduleLevel (age target : Nat) : Nat :=
  if target = 0 then 0 else if 9 * target ≤ 10 * age then 3 else if 3 * target ≤ 4 * age then 2
  else if target ≤ 2 * age then 1 else 0

/-- The urgency of a flow's request of a given age and header level (R203). -/
def State.urgency (s : State) (f urg age : Nat) : Nat :=
  max urg (max (scheduleLevel age (s.fld (F.FLOW_W0_LAT_TARGET f))) (s.wireLevel f))

/-- The urgency of a waiting transaction by itself. -/
def State.txnUrg (s : State) (t : Txn) : Nat := s.urgency t.flow t.urg (s.now - t.t0)

/-- The tier of a waiting transaction by itself, 1 to 3 (R207, R209). -/
def State.txnTier (s : State) (t : Txn) : Nat :=
  if t.guaranteed then 1 else if s.flowClass t.flow = 2 ∧ !t.starved then 3 else 2

/-- Two transactions that R178 orders: of one module, to one sector. -/
def sameSector (t u : Txn) : Bool := t.op != .fence && u.op != .fence && t.m == u.m && t.addr == u.addr

/-- The transactions that wait for `t` under R178: later ones to its sector. -/
def State.waiters (s : State) (t : Txn) : List Txn :=
  ((s.txns.dropWhile fun u => !u.same t).drop 1).filter (sameSector t)

/-- The order number of CLASS within a tier: real-time, best-effort, bulk. -/
def classOrder (k : Nat) : Nat := if k = 1 then 0 else if k = 0 then 1 else 2

/-- The rank of a transaction, lower first (R207, R208): tier, urgency, CLASS, PRIO, age. -/
def State.rank (s : State) (t : Txn) : List Nat :=
  let l := t :: s.waiters t
  let tier := (l.map s.txnTier).foldl min 3
  let urg := (l.map s.txnUrg).foldl max 0
  let prio := 3 - s.fld (F.FLOW_W0_PRIO t.flow)
  if tier = 3 then [3, prio, t.t0, 0, 0] else [tier, 3 - urg, classOrder (s.flowClass t.flow), prio, t.t0]

/-- Lexicographic order of ranks. -/
def rankLt : List Nat → List Nat → Bool
  | a :: as, b :: bs => a < b || (a == b && rankLt as bs)
  | _, _ => false

/-- A transaction put into a list by rank, behind its equals. -/
def State.insertRank (s : State) (t : Txn) : List Txn → List Txn
  | [] => [t]
  | u :: r => if rankLt (s.rank t) (s.rank u) then t :: u :: r else u :: s.insertRank t r

/-- Transactions in the order of R207. -/
def State.ranked (s : State) (l : List Txn) : List Txn := l.foldl (fun a t => s.insertRank t a) []

/-- The transaction waits for an ext.init with CLEAR that was issued before it was accepted (R326). -/
def State.clearWaits (s : State) (t : Txn) : Bool :=
  let x := s.txnPlace t
  t.op != .fence && locClass x.loc == 0 && (match (s.chan (locCh x.loc)).eng.clearing with
    | some e => e.1 == locExtent x.loc && decide (e.2 ≤ t.t0)
    | none => false)

/-! ### What waits in a scheduler -/

/-- What claimant `k` waits for: the engine of channel `k`, or the trace export, claimant 32. -/
def State.wants (s : State) (k : Nat) : List Want :=
  if k < 32 then (s.chan k).eng.wants else (match s.obs.exporting with | some x => x.wants | none => [])

/-- The state with what claimant `k` waits for changed. -/
def State.modWants (s : State) (k : Nat) (f : List Want → List Want) : State :=
  if k < 32 then s.modEng k fun e => { e with wants := f e.wants }
  else { s with obs := { s.obs with exporting := s.obs.exporting.map fun x => { x with wants := f x.wants } } }

/-- What claimants wait for in channel `c`, each with its claimant. -/
def State.waitingOn (s : State) (c : Nat) : List (Nat × Want) :=
  (List.range 33).flatMap fun k => ((s.wants k).filter fun w => locCh w.loc == c).map fun w => (k, w)

/-- The transaction and an access of a claimant waited for the same move-in, and the access came first (R245). -/
def Want.aheadOf (w : Want) (loc t0 : Nat) : Bool := w.filled && w.loc == loc && decide (w.t0 < t0)

/-- An access that waited for a move-in goes after those that waited for it before: in the order of arrival (R245). -/
def State.fillBehind (s : State) (t : Txn) : Bool :=
  t.filled && ((s.before t).any (fun u => u.filled && u.op != .fence && !u.answered && (s.txnPlace u).loc == (s.txnPlace t).loc) ||
    (s.waitingOn (locCh (s.txnPlace t).loc)).any fun x => x.2.aheadOf (s.txnPlace t).loc t.t0)

/-- Performance of a transaction must wait: for an earlier one to its sector, be that one's answer only an injected
TIMEOUT (R178, R194, log entry 113), for a FENCE, for a device-wide fence (R181, R220), for an ext.init (R326), or for
those before it at a move-in (R245). -/
def State.blocked (s : State) (t : Txn) : Bool :=
  (s.before t).any (fun u => sameSector u t || (u.stage == .fence && inScope u t)) || (s.qosFence.isSome && !t.pre) ||
    s.clearWaits t || s.fillBehind t

/-! ### Classification -/

/-- The key of a flow's bucket in the half of a module. -/
def bucket (t : Txn) : Nat := 2 * t.flow + halfNum (halfOfMod t.m)

/-- A request as the fabric would classify it now: guaranteed when its bucket holds enough (R201). -/
def State.prospect (s : State) (t : Txn) : Txn := { t with guaranteed := decide (16 ≤ s.guar.get (fun _ => 0) (bucket t)) }

/-- None of the transactions for which `p` holds ranks before `t` (R207). -/
def State.leads (s : State) (t : Txn) (p : Txn → Bool) : Bool :=
  (s.txns.filter p).all fun u => !rankLt (s.rank u) (s.rank t)

/-- The request is first in the order of R207 among those that wait in the fabric for the strait into its channel island. -/
def State.fabricTurn (s : State) (t : Txn) : Bool :=
  (s.txns.filter fun u => u.stage == .accepted && s.txnIn (locCh (s.txnPlace t).loc) u).all fun u =>
    !rankLt (s.rank (s.prospect u)) (s.rank (s.prospect t))

/-- REQUEST_CLASSIFY: the fabric takes the request, whose turn it is, from the module strait and classifies it (R201,
R207). -/
def State.classify (s : State) (m tag : Nat) : State :=
  match s.findTxn m tag with
  | none => s
  | some t =>
    if t.stage ≠ .accepted ∨ !s.fabricTurn t then s else
    let k := bucket t
    let cap := s.caps.get (fun _ => 0) k
    if s.maxRate t.flow ≠ 0 ∧ cap < 16 then s.setTxn t { t with stage := .capWait }
    else
      let s1 := if s.maxRate t.flow = 0 then s else { s with caps := s.caps.set (fun _ => 0) k (cap - 16) }
      let g := s1.guar.get (fun _ => 0) k
      let guaranteed := decide (16 ≤ g)
      let s2 := if guaranteed then { s1 with guar := s1.guar.set (fun _ => 0) k (g - 16) } else s1
      let s3 := s2.countGl (if guaranteed then 7 else 8) 1 (some m) (some t.flow)
      let s4 := if halfOfMod m = halfOfChan (locCh (s.txnPlace t).loc) then s3 else
        s3.countGl 0xD 1 (some m) (some t.flow)
      let u := { t with guaranteed := guaranteed }
      ((s4.setTxn t u).tagMod t fun g => { g with dFabric := some (s.now - t.t0), guar := guaranteed }).arrive u

/-- BULK_STARVE_PROMOTE: a bulk excess request reaches STARVE_US of age (R209). -/
def State.starve (s : State) (m tag : Nat) : State :=
  match s.findTxn m tag with
  | none => s
  | some t =>
    let us := s.fld F.QOS_ARB_CFG_STARVE_US
    if us ≠ 0 ∧ t.op ≠ .fence ∧ !t.guaranteed ∧ s.flowClass t.flow = 2 then
      (s.advanceTo (t.t0 + 1000 * us)).setTxn t { t with starved := true }
    else s

/-! ### Capacity, the floor, what is deliverable -/

/-- The capacity of a channel at step 0 (table Guarantee capacity). -/
def chanCapacity (f1 : Bool) (band : Nat) : Nat :=
  if f1 then tbl [16000, 15000, 13000, 13000] band else tbl [32000, 30000, 26000, 26000] band

/-- The capacity of a module at step 0, by its rate. -/
def modCapacity (rate : Nat) : Nat := tbl [24000, 36000, 48000, 72000] rate

/-- The sum of `f` over the numbers below `n` for which `p` holds. -/
def sumBelow (n : Nat) (p : Nat → Bool) (f : Nat → Nat) : Nat := (below n p).foldl (fun a k => a + f k) 0

/-- QOS_FLOOR.FLOOR (R211). -/
def State.floorValue (s : State) : Nat :=
  let c := sumBelow 32 (fun c => match (s.chan c).st with | .offline | .retired => false | _ => true)
    (fun _ => chanCapacity (s.flag F.QOS_FLOOR_CFG_ASSUME_F1) (s.fld F.QOS_FLOOR_CFG_BAND_WORST))
  let m := sumBelow 12 (fun m => match (s.mod m).stage with | .active | .retrain | .l1 => true | _ => false)
    (fun m => modCapacity (s.fld (F.UCI_STS_RATE m)))
  min c m * (16 - s.fld F.QOS_FLOOR_CFG_THROTTLE_MAX) / 16

/-- FLOOR_EXCEEDED as a level (R213). -/
def State.putExceeded (s : State) : State :=
  s.setBoth F.QOS_ADMIT_STS_FLOOR_EXCEEDED (b2n (s.fld F.QOS_FLOOR_FLOOR < s.fld F.QOS_GUAR_SUM_SUM))

/-- FLOOR is VALID: written, and no recomputation of it is due (R211, log entry 93). -/
def State.floorValid (s : State) : Bool := s.flag F.QOS_FLOOR_VALID && !s.floorStale

/-- FLOOR_RECOMPUTE (R211). -/
def State.floorRecompute (s : State) : State :=
  if s.floorStale then
    let s1 := (s.setBoth F.QOS_FLOOR_FLOOR s.floorValue).setBoth F.QOS_FLOOR_VALID 1
    { s1.putExceeded with floorStale := false }
  else s

/-- The deliverable bandwidth D (R215). -/
def State.deliverable (s : State) : Nat :=
  let c := sumBelow 32 (fun c => (s.chan c).st == .online)
    (fun c => chanCapacity (s.flag F.GLB_MODE_FPOINT) (s.fld (F.REF_STS_BAND c)))
  let m := sumBelow 12 (fun m => (s.mod m).stage == .active) (fun m => modCapacity (s.fld (F.UCI_STS_RATE m)))
  min c m * (16 - s.fld F.GLB_MODE_THROTTLE) / 16

/-! ### The QoS boundary -/

/-- A flow misses the window that ends now (R218). -/
def State.missed (s : State) (f : Nat) : Bool :=
  let n := s.served.get (fun _ => 0) (2 * f) + s.served.get (fun _ => 0) (2 * f + 1)
  16 * n + 16 < s.minRate f && s.txns.any fun t => !t.answered && t.flow == f && t.t0 + 1000 < s.now

/-- Step 1 of the table Boundary sequence. -/
def State.countMisses (s : State) : State :=
  if !s.serves then s else
  (s.flows.filter s.missed).foldl (fun t f => (t.bumpBoth (F.FLOW_W3_MISSED f)).bumpBoth F.QOS_MISSES_MISSES) s

/-- Step 2: D of the new window. -/
def State.putDeliverable (s : State) : State := s.setBoth F.QOS_DELIV_DELIVERABLE s.deliverable

/-- Step 3: the staged registers of the QoS domain, and the armed shadows that do not raise MIN_RATE (R198). A new
QOS_FLOOR_CFG asks for a new FLOOR (R211). -/
def State.applyLower (s : State) : State :=
  let cfg := s.reg (adr .QOS_FLOOR_CFG)
  let s1 := s.applyShadows domQos
  let s2 := { s1 with floorStale := s1.floorStale || s1.reg (adr .QOS_FLOOR_CFG) != cfg }
  (s2.armed.filter fun e => !e.2.ok || e.2.minRate ≤ s2.minRate e.1).foldl
    (fun t e => if e.2.ok then t.applyFlow e.1 e.2 else t.discardFlow e.1 e.2) s2

/-- A raise refused (R212). -/
def State.refuseFlow (s : State) (f : Nat) (sh : FlowShadow) : State :=
  ((((s.discardFlow f sh).setBoth F.QOS_ADMIT_STS_ADMIT_REJECT 1).setBoth F.QOS_ADMIT_STS_LAST_FLOW f).bumpBoth
    F.QOS_ADMIT_STS_REJECTS).latch F.POLL_SUMMARY_ADMIT

/-- Step 4: the armed shadows that raise MIN_RATE, in ascending flow number (R212). -/
def State.admitRaises (s : State) : State :=
  s.armed.foldl (fun t e =>
    let sum := t.sumRates (fun _ => true) - t.minRate e.1 + e.2.minRate
    if t.floorValid ∧ sum ≤ t.fld F.QOS_FLOOR_FLOOR then t.applyFlow e.1 e.2 else t.refuseFlow e.1 e.2) s

/-- BULK_CUT, BE_SCALE and RT_SCALE for sums of MIN_RATE by class and D (table Shortfall policy). -/
def shortfall (rt be bulk d : Nat) : Bool × Nat × Nat :=
  if rt + be + bulk ≤ d then (false, 1024, 1024)
  else if rt + be ≤ d then (true, 1024, 1024)
  else if rt ≤ d then (true, 1024 * (d - rt) / be, 1024)
  else (true, 0, 1024 * d / rt)

/-- The effective rate of a flow under the scales in force (R216). -/
def State.effRate (s : State) (f : Nat) : Nat :=
  match s.flowClass f with
  | 1 => s.minRate f * s.fld F.QOS_SCALE_RT_SCALE / 1024
  | 0 => s.minRate f * s.fld F.QOS_SCALE_BE_SCALE / 1024
  | _ => if s.flag F.QOS_SCALE_BULK_CUT then 0 else s.minRate f

/-- Step 5: the scales, SHORTFALL and its windows (R216, R217). -/
def State.putScales (s : State) : State :=
  let sum (k : Nat) : Nat := s.sumRates fun f => if k = 2 then 2 ≤ s.flowClass f else s.flowClass f == k
  let d := s.fld F.QOS_DELIV_DELIVERABLE
  let r := shortfall (sum 1) (sum 0) (sum 2) d
  let s1 := ((s.setBoth F.QOS_SCALE_BULK_CUT (b2n r.1)).setBoth F.QOS_SCALE_BE_SCALE r.2.1).setBoth F.QOS_SCALE_RT_SCALE r.2.2
  let s2 := s1.flows.foldl (fun t f => t.setBoth (F.FLOW_W3_SHORTFALL f) (b2n (t.effRate f < t.minRate f))) s1
  let s3 := if s.flag F.QOS_DELIV_SHORTFALL = r.1 then s2 else s2.traceEv 0xA (b2n r.1) d
  let s4 := s3.setBoth F.QOS_DELIV_SHORTFALL (b2n r.1)
  if r.1 then (s4.bumpBoth F.QOS_SHORT_CNT_WINDOWS).countGl 0xE else s4

/-- The share of a rate in a half, by the demand of the ended window (R200). -/
def State.share (s : State) (f rate half : Nat) : Nat :=
  let w := s.demand.get (fun _ => 0) (2 * f)
  let e := s.demand.get (fun _ => 0) (2 * f + 1)
  let west := if w + e = 0 then rate / 2 else rate * w / (w + e)
  if half = 0 then west else rate - west

/-- Step 6: one bucket pair refilled (R199). -/
def State.refill (s : State) (f half : Nat) : State :=
  let k := 2 * f + half
  let g := s.share f (s.effRate f) half
  let c := s.share f (s.maxRate f) half
  { s with guar := s.guar.set (fun _ => 0) k (min (s.guar.get (fun _ => 0) k + g) (g * s.fld (F.FLOW_W2_BURST f))),
           caps := s.caps.set (fun _ => 0) k (min (s.caps.get (fun _ => 0) k + c) (c + 15)) }

/-- The flows whose buckets hold something, beside those of a context of their own. -/
def State.bucketFlows (s : State) : List Nat :=
  (s.flows ++ (s.guar.map fun (e : Nat × Nat) => e.1 / 2) ++ (s.caps.map fun (e : Nat × Nat) => e.1 / 2)).eraseDups

/-- Step 6 (R199, R200); the demand and service counts of the new window start. -/
def State.refillAll (s : State) : State :=
  { s.bucketFlows.foldl (fun t f => (t.refill f 0).refill f 1) s with demand := [], served := [] }

/-- Requests that waited for their cap are classified again (R201). -/
def State.releaseCapped (s : State) : State :=
  { s with txns := s.txns.map fun t => if t.stage = .capWait then { t with stage := .accepted } else t }

/-- What a 1 µs accounting window does as it begins (R73, R199, R200, R211, R218). -/
def State.qosWindow (s : State) : State :=
  let s1 := ((s.countMisses.putDeliverable).applyLower).admitRaises
  (s1.putSum.putExceeded.putScales.refillAll).releaseCapped

/-- QOS_WINDOW_BOUNDARY: the next multiple of 1 us of the time base, and the table Boundary sequence (R73, R202). -/
def State.qosBoundary (s : State) : State := (s.advanceToMultiple 1000).qosWindow

/-! ### URG wires -/

/-- The level of wire `w` after a sample: a new one is taken when three samples in a row agree, in MODE 0b10 those of both
wires of its pair (R206). -/
def State.urgTaken (s : State) (sample w : Nat) : Bool :=
  let agree (k : Nat) : Bool := bitOf sample k == bitOf s.pins.urgRaw k && bitOf sample k == bitOf s.pins.urgOld k
  let taken := if s.fld F.QOS_URG_CFG_MODE = 2 then agree (w / 2 * 2) && agree (w / 2 * 2 + 1) else agree w
  if taken then bitOf sample w else bitOf (s.fld F.QOS_URG_STS_LEVEL) w

/-- URG_WIRE_CHANGE: the wires are sampled, and the levels taken that three samples in a row agree on (R206, log entry
94). A wire seen deasserted is no longer stuck. -/
def State.urgWires (s : State) (sample : Nat) : State :=
  let level := (List.range 8).foldl (fun a w => if s.urgTaken sample w then a + 2 ^ w else a) 0
  let since (w : Nat) := s.urgSince.get (fun _ => none) w
  let s1 := s.setBoth F.QOS_URG_STS_LEVEL level
  let s2 := { s1 with
    pins := { s1.pins with urgRaw := sample, urgOld := s.pins.urgRaw },
    urgSince := (List.range 8).foldl (fun d w =>
      d.set (fun _ => none) w (if bitOf level w then some ((since w).getD s.now) else none)) [] }
  let stuck := (s.fld F.QOS_URG_STS_STUCK) &&& level
  let s3 := s2.setBoth F.QOS_URG_STS_STUCK stuck
  if stuck = 0 ∧ s.flag (liveFld 38) then s3.endCondition 38 else s3

/-- URG_STUCK_TIMEOUT: a wire stays asserted longer than STUCK_MS (R206). -/
def State.urgStuck (s : State) (w : Nat) : State :=
  match s.urgSince.get (fun _ => none) w with
  | none => s
  | some t =>
    if bitOf (s.fld F.QOS_URG_STS_STUCK) w then s else
    let s1 := s.advanceTo (t + 1000000 * s.fld F.QOS_URG_CFG_STUCK_MS)
    (s1.setBoth F.QOS_URG_STS_STUCK (s1.fld F.QOS_URG_STS_STUCK + 2 ^ w)).raiseCond 38 (2 ^ w)

/-! ### The device-wide fence -/

/-- A write of QOS_FENCE (R220): GO starts the fence; a GO while it runs is refused. -/
def State.wQosFence (s : State) (w : Word) : Res :=
  if !bitOf w.toNat 30 then done s
  else if s.flag F.QOS_FENCE_BUSY then ignored s
  else
    let s1 := (s.setBoth F.QOS_FENCE_VALID 0).setBoth F.QOS_FENCE_BUSY 1
    let s2 := { s1 with qosFence := some s1.now, txns := s1.txns.map fun (t : Txn) => { t with pre := (!t.answered) } }
    done s2.settle

end Sys2Proof.Machine
end

