-- ==== Sys2Proof/Machine/Lagoon.lean ====
section
/-!
DEFINITION. The Lagoon and row scheduling: the three ways to serve a request, slots and their moves, the vertical-path
cycle, zero-fill, drain, recovery and the reset of a core die (R222 to R258).
-/
namespace Sys2Proof.Machine

/-! ### The valid-extent map in use -/

/-- The two copies of the map agree in word `w`. -/
def Chan.mapAgrees (x : Chan) (w : Nat) : Bool :=
  (List.range 64).all fun k => x.extents.get (fun _ => false) (64 * w + k) == x.extentsB.get (fun _ => false) (64 * w + k)

/-- Word `w` of a copy of the map rewritten from another. -/
def mapCopy (dst src : Store Bool) (w : Nat) : Store Bool :=
  (List.range 64).foldl (fun d k => d.set (fun _ => false) (64 * w + k) (src.get (fun _ => false) (64 * w + k))) dst

/-- Word `w` of the first copy of the map, which fails parity, rewritten from the second (R347). -/
def Chan.repairA (x : Chan) (w : Nat) : Chan :=
  let d := mapCopy x.extents x.extentsB w
  { x with extents := d, parityA := x.parityA.set (fun _ => false) w (mapParity d w) }

/-- Word `w` of the second copy of the map, which fails parity, rewritten from the first (R347). -/
def Chan.repairB (x : Chan) (w : Nat) : Chan :=
  let d := mapCopy x.extentsB x.extents w
  { x with extentsB := d, parityB := x.parityB.set (fun _ => false) w (mapParity d w) }

/-- The log entry of a map word, with its NSYM (R347, R356). -/
def mapEntry (c nsym : Nat) : LogFields := ⟨mkLoc c 0 0 0 0, 5, 6, 0, nsym, 0, [], 15, 0⟩

/-- A map word of channel `c` is lost: MAP_LOST, an entry of the log, CH_UE, whose reaction is OFFLINE (R347). -/
def State.mapLost (s : State) (c : Nat) : State :=
  ((s.setFlag (F.ECC_EXT_STS_MAP_LOST c) true).log c (mapEntry c 3)).raise (128 + 4 * c) 2

/-- A use of the map word of an extent, which reads both copies: a copy that fails parity is rewritten from the other; a
word is lost when both fail, or when both pass and differ (R347). -/
def State.useMapWord (s : State) (c e : Nat) : State :=
  let w := e / 64
  let x := s.chan c
  let fixed (f : Chan → Chan) : State := ((s.modChan c f).setFlag (F.ECC_EXT_STS_MAP_FIXED c) true).log c (mapEntry c 1)
  match mapPasses x.extents x.parityA w, mapPasses x.extentsB x.parityB w with
  | true, true => if x.mapAgrees w then s else s.mapLost c
  | true, false => fixed fun y => y.repairB w
  | false, true => fixed fun y => y.repairA w
  | false, false => s.mapLost c

/-- The map word of an addressable row used. -/
def State.useMap (s : State) (loc : Nat) : State :=
  if locClass loc = 0 then s.useMapWord (locCh loc) (locExtent loc) else s

/-! ### Banks and budget -/

/-- A bank of channel `c` (channel bank index) is busy: in refresh, in a slot's move, in a launched sector cycle, or in
a zero-fill whose move-outs have been launched (log entry 9). -/
def State.bankBusy (s : State) (c b : Nat) : Bool :=
  let x := s.chan c
  x.refresh.busy.contains b ||
    (x.slots.any fun e => e.2.bank == b && (match e.2.state with
      | .filling | .cleaning | .evicting => true
      | .empty | .clean | .dirty | .fenced => false)) ||
    (s.chans.toList.any fun k => match k.eng.ferry with
      | some f => locCh f.loc == c && locCbi f.loc == b
      | none => false) ||
    (s.txns.any fun t => t.launched && s.txnIn c t && locCbi (s.txnPlace t).loc == b) ||
    (x.fills.any fun f => ((extentRows c f.extent).take f.launched).any fun l => locCbi l == b)

/-- A refresh of a bank issued: it is charged, counted and occupies the bank (R240, R242). -/
def State.refreshBegin (s : State) (c b : Nat) (f : Chan → Chan) : State :=
  ((s.chargeRefresh c (b / 32)).countCh c 10).modChan c fun x =>
    let y := f x
    { y with refresh := { y.refresh with due := y.refresh.due.filter (fun e => e.1 != b), busy := b :: y.refresh.busy } }

/-- PER_BANK_REFRESH_ISSUE: a close that is done, on a bank that nothing else occupies (R242, R373, R374). In FATAL, where
no slot is written back and none changes, the refresh is issued without the close (R451). -/
def State.refreshIssue (s : State) (c b : Nat) : State :=
  if s.mode = .fatal then
    (if s.refreshes c b && ((s.chan c).refresh.due.any fun e => e.1 == b) && !(s.chan c).refresh.busy.contains b then
      s.refreshBegin c b id else s)
  else if s.refreshDue c b && !s.bankBusy c b then s.refreshBegin c b fun x => x.closeClean b
  else s

/-- The channel's rows can be activated: its path runs, it is in service, the row's die takes commands, its bank is free and
no refresh of it is due (R236, R252, R385). -/
def State.bankOpen (s : State) (loc : Nat) : Bool :=
  let c := locCh loc
  (match (s.chan c).st with
   | .online | .draining | .quiesced | .retraining => true
   | .offline | .retired => false) && !s.dieAsleep (locDie loc) && !s.bankBusy c (locCbi loc) && !s.refreshDue c (locCbi loc)

/-- A WR_PART's sector read has activated and its sector write has not transferred (R239). -/
def Txn.midPart (t : Txn) : Bool := t.stage == .sector && !t.wholeWrite && (t.launched || t.merged.isSome)

/-- A sector cycle to the row runs, or a WR_PART of it stands between its two (R224, R239). -/
def State.rowInCycle (s : State) (loc : Nat) : Bool :=
  s.txns.any fun t => t.stage == .sector && (t.launched || t.merged.isSome) && s.txnIn (locCh loc) t &&
    (s.txnPlace t).loc == loc

/-- Another request is between the sector read and the sector write of a WR_PART to the sector of `t` (R239). -/
def State.partAhead (s : State) (t : Txn) : Bool :=
  s.txns.any fun u => u.midPart && !u.same t && s.txnPlace u == s.txnPlace t

/-- Native row action moves the row to a spare: requests to it wait until the switch (R324, R362). -/
def State.rowSparing (s : State) (loc : Nat) : Bool := (s.chan (locCh loc)).scrub.sparing.any fun x => x.1 == loc

/-- Access to a row waits: it is in the scrub buffer or moved to a spare, its slot is FILLING or held, or, for a write,
EVICTING (R245, R246, R248, R324). -/
def State.rowWaits (s : State) (loc : Nat) (write : Bool) : Bool :=
  s.buffered loc || s.rowSparing loc || (match s.findSlot loc with
    | some i => (s.chan (locCh loc)).held.contains i || (match (s.slot (locCh loc) i).state with
      | .filling => true
      | .evicting => write
      | .empty | .clean | .dirty | .cleaning | .fenced => false)
    | none => false)

/-! ### Slots -/

/-- The slots of a channel in one state, neither pinned nor held (R227). -/
def Chan.freeSlots (x : Chan) (st : SlotState) : List Nat :=
  below 64 fun i => (x.slot i).state == st && !x.kept i

/-- Of some slots, the one that has gone longest without an access. -/
def Chan.oldest (x : Chan) (l : List Nat) : Option Nat :=
  l.foldl (fun a i => match a with
    | none => some i
    | some j => if (x.slot i).last < (x.slot j).last then some i else some j) none

/-- The victim of R231: an EMPTY slot, else the oldest CLEAN, else the oldest DIRTY slot; of several alike the
lowest-numbered (log entry 114). -/
def Chan.victim (x : Chan) : Option Nat :=
  match (x.freeSlots .empty).head? with
  | some i => some i
  | none =>
    match x.oldest (x.freeSlots .clean) with
    | some i => some i
    | none => x.oldest (x.freeSlots .dirty)

/-- A row leaves the history table (R230). -/
def Chan.forget (x : Chan) (loc : Nat) : Chan := { x with hist := x.hist.filter fun e => e.1 != loc }

/-- The history count of a row. -/
def Chan.histCount (x : Chan) (loc : Nat) : Nat := ((x.hist.find? fun e => e.1 == loc).map (·.2)).getD 0

/-- A served sector cycle to a row: its count grows, a new row takes the entry of the least recently used (R230). -/
def Chan.histBump (x : Chan) (loc : Nat) : Chan :=
  let n := x.histCount loc
  { x with hist := (loc, min 63 (n + 1)) :: ((x.hist.filter fun e => e.1 != loc).take 255) }

/-- The period after which the history counts halve, in ns: LAG_CFG.HIST_DECAY (R230, R258). -/
def State.histPeriod (s : State) (c : Nat) : Nat := 500 * 2 ^ s.fld (F.LAG_CFG_HIST_DECAY c)

/-- HIST_DECAY: a period after the last time, every count halves (R230). -/
def State.histDecay (s : State) (c : Nat) : State :=
  let s1 := s.advanceTo ((s.chan c).histAt + s.histPeriod c)
  s1.modChan c fun x => { x with hist := x.hist.map fun e => (e.1, e.2 / 2), histAt := s1.now }

/-- A sector cycle to a row served: counted in the history table (R230). -/
def State.cycleServed (s : State) (loc : Nat) : State := s.modChan (locCh loc) fun y => y.histBump loc

/-- The transaction waits in its bank's queue for the array: nothing has been launched for it (R229). -/
def Txn.waitsForRow (t : Txn) : Bool :=
  match t.stage with
  | .queued | .promoting | .afterRefresh => true
  | .sector => !t.launched && t.merged.isNone
  | _ => false

/-- The requests to a row that becomes resident are taken up again (R224, R245). -/
def State.requeueRow (s : State) (loc : Nat) : State :=
  { s with txns := s.txns.map fun t =>
      if t.waitsForRow && s.txnIn (locCh loc) t && (s.txnPlace t).loc == loc then { t with stage := .queued } else t }

/-- A move-in of a row launched into slot `i` (R228, R230, R240). -/
def State.launchMoveIn (s : State) (c i loc : Nat) (by_ : Option Nat × Option Nat := (none, none)) : State :=
  (((s.activate loc 4 by_).countCh c 6 1 by_.1 by_.2).requeueRow loc).modChan c fun x =>
    (x.forget loc).setSlot i ⟨.filling, loc, false, s.now, [], []⟩

/-- A move-out of slot `i` launched: the slot goes to `st` with its snapshot taken (R228). -/
def State.launchMoveOut (s : State) (c i : Nat) (st : SlotState) (by_ : Option Nat × Option Nat := (none, none)) : State :=
  let v := s.slot c i
  ((s.activate v.loc 4 by_).countCh c 7 1 by_.1 by_.2).setSlot c i { v with state := st, redirty := false, snap := v.data }

/-- MOVE_OUT_PRECHARGE: the snapshot is in the array; the slot becomes CLEAN, DIRTY or EMPTY (R228). In FATAL slots keep
their states, and none is written back (R451). -/
def State.moveOutPrecharge (s : State) (c i : Nat) : State :=
  let v := s.slot c i
  if s.mode = .fatal then s else
  match v.state with
  | .evicting => (s.setArrayRow v.loc v.snap).setSlot c i Slot.empty
  | .cleaning => (s.setArrayRow v.loc v.snap).setSlot c i
      { v with state := if v.redirty then .dirty else .clean, redirty := false, snap := [] }
  | .empty | .filling | .clean | .dirty | .fenced => s

/-! ### Performing a request -/

/-- Bytes of `new` where `be` is 1, of `old` elsewhere (R184). -/
def mergeBytes (old new : Sector) (be : BitVec 64) : Sector :=
  let mask : Sector := (List.range 64).foldl (fun a j => if be.getLsbD j then a ||| (255#512 <<< (8 * j)) else a) 0
  (new &&& mask) ||| (old &&& ~~~mask)

/-- The tagged request's data is read or written (R503): `served` is 0 hit, 1 sector cycle, 2 row move. -/
def State.tagDone (s : State) (t : Txn) (served : Nat) : State :=
  s.tagMod t fun g => { g with dDone := some (s.now - t.t0), served := served,
                               dGrant := some (g.dGrant.getD (s.now - t.t0)),
                               urg := if g.dGrant.isSome then g.urg else s.txnUrg t }

/-- A slot's last access (R231). -/
def State.touch (s : State) (loc : Nat) : State :=
  match s.findSlot loc with
  | some i => s.modChan (locCh loc) fun x => x.setSlot i { x.slot i with last := s.now }
  | none => s

/-- An RD performed on the authoritative copy (R183, R339). An injected POISON leaves memory as it is (R194). -/
def State.performRead (s : State) (t : Txn) (served : Nat) (lagoon : Bool) : State :=
  let x := s.txnPlace t
  let r := ((s.touch x.loc).tagDone t served).decodeStored x ⟨1, t.m, t.flow⟩
  let d := r.2
  r.1.reply t (.data (if d.poison || t.inject then .poison else .ok) d.corr false lagoon
    (if t.inject then putBits d.metaByte 7 7 1 else d.metaByte) d.data)

/-- The sector that a WR_PART reads, merged with what it brings (R184, R239). -/
def State.partRead (s : State) (t : Txn) : State × Merge :=
  let r := s.decodeStored (s.txnPlace t) ⟨2, t.m, t.flow⟩
  let d := r.2
  let mb := if t.metaEn then t.metaByte else d.metaByte
  (r.1, ⟨mergeBytes d.data t.data t.be, if d.poison then putBits mb 7 7 1 else mb, d.poison⟩)

/-- The merged sector of a WR_PART written (R184, R239). -/
def State.partWrite (s : State) (t : Txn) (g : Merge) : State :=
  let x := s.txnPlace t
  let w := s.injectWrite (locCh x.loc) (encodeSector g.data g.metaByte)
  ((w.1.storeHit x t.be).setStored x w.2).reply t (.ack (if g.poison then .poison else .ok) 0)

/-- A write performed on the authoritative copy (R182 to R184). A WR_PART that has read and merged its sector writes what
it merged (R239). -/
def State.performWrite (s : State) (t : Txn) (served : Nat) : State :=
  let x := s.txnPlace t
  let s0 := s.tagDone t served
  if t.wholeWrite then
    let w := s0.injectWrite (locCh x.loc) (encodeSector t.data t.metaByte)
    ((w.1.storeHit x (BitVec.allOnes 64)).setStored x w.2).reply t (.ack .ok 0)
  else match t.merged with
    | some g => s0.partWrite t g
    | none =>
      let r := s0.partRead t
      r.1.partWrite t r.2

/-- A request performed. -/
def State.perform (s : State) (t : Txn) (served : Nat) (lagoon : Bool) : State :=
  if t.op = .rd then s.performRead t served lagoon else s.performWrite t served

/-- The transaction of a module and tag at a stage for which `p` holds, the oldest first. -/
def State.findAt (s : State) (m tag : Nat) (p : TxnStage → Bool) : Option Txn :=
  s.txns.find? fun t => t.m == m && t.tag == tag && p t.stage

/-! ### Take-up -/

/-- Requests to a row that programs and the trace export wait for in the row's channel: one whose move-in has been launched
waits in the bank's queue no more (R229). -/
def State.progWants (s : State) (loc : Nat) : Nat :=
  ((s.waitingOn (locCh loc)).filter fun x => x.2.request && x.2.loc == loc && x.2.moveIn.isNone).length

/-- Requests to a row that wait in its bank's queue, of hosts and of programs, and the row's history count (R229). -/
def State.score (s : State) (loc : Nat) : Nat :=
  (s.txns.filter fun t => t.waitsForRow && s.txnIn (locCh loc) t && (s.txnPlace t).loc == loc).length + s.progWants loc +
    (s.chan (locCh loc)).histCount loc

/-- The row is to be promoted, a victim apart (R229). -/
def State.promotes (s : State) (loc : Nat) : Bool :=
  let c := locCh loc
  s.flag (F.LAG_CFG_PROMOTE_EN c) && (promotionMin (s.fld F.GLB_MODE_THROTTLE)).isSome && s.thresh c ≤ s.score loc

/-- How a request to a row that is not resident is to be served: by a sector cycle, by a promotion, or, when a close of the
row's bank refuses the promotion, by a sector cycle after the refresh (R229, R245). -/
def State.wayOf (s : State) (loc : Nat) : TxnStage :=
  if s.promotes loc && (s.chan (locCh loc)).victim.isSome then
    (if (s.chan (locCh loc)).closing (locCbi loc) then .afterRefresh else .promoting)
  else .sector

/-- A request to a row of an unwritten extent (R185, R232, R249): a read returns zeros, a write starts the zero-fill; a
request after the start waits. -/
def State.takeUnwritten (s : State) (c e : Nat) (t : Txn) : State :=
  if (s.chan c).fills.any fun f => f.extent == e then s.setTxn t { t with stage := .waitFill }
  else if t.op = .rd then
    s.reply t (.data (if t.inject then .poison else .ok) false true false (if t.inject then 128 else 0) 0)
  else ((s.setTxn t { t with stage := .waitFill }).countCh c 0xE 1 (some t.m) (some t.flow)).modChan c fun x =>
    { x with fills := x.fills ++ [⟨e, 0⟩] }

/-- SCHEDULER_TAKE_UP of a transaction that may be performed (R222, R229, R245). -/
def State.takeUp (s : State) (t : Txn) : State :=
  let x := s.txnPlace t
  let c := locCh x.loc
  let s1 := s.tagMod t fun g => { g with dChannel := some (g.dChannel.getD (s.now - t.t0)) }
  if t.rowRetired then s1.reply t (.ack .retired 0)
  else if t.op = .wrPart ∧ t.be = 0 ∧ !t.metaEn then s1.reply t (.ack .ok 0)
  else
    let s2 := s1.useMap x.loc
    if (s2.chan c).st = .offline then s2
    else if s2.rowWaits x.loc (t.op != .rd) then s2
    else if !s2.written x.loc then s2.takeUnwritten c (locExtent x.loc) t
    else s2.setTxn t { t with stage := if (s2.findSlot x.loc).isSome then .hit else s2.wayOf x.loc }

/-- The request is first in the order of R207 among those of its bank that can be taken up. -/
def State.bankTurn (s : State) (t : Txn) : Bool :=
  s.leads t fun u => u.stage == .queued && s.txnIn (locCh (s.txnPlace t).loc) u &&
    locCbi (s.txnPlace u).loc == locCbi (s.txnPlace t).loc && !s.blocked u && !s.rowWaits (s.txnPlace u).loc (u.op != .rd)

/-- SCHEDULER_TAKE_UP, in the order of R207 (R229). -/
def State.schedulerTakeUp (s : State) (m tag : Nat) : State :=
  match s.findAt m tag (· == .queued) with
  | none => s
  | some t => if s.blocked t || !s.bankTurn t then s else s.takeUp t

/-- The slot of a request's row serves it through a column port. -/
def State.servable (s : State) (t : Txn) : Bool :=
  !s.blocked t && (s.findSlot (s.txnPlace t).loc).isSome && !s.rowWaits (s.txnPlace t).loc (t.op != .rd)

/-- The rank of program traffic of a flow, issued at `t0`: excess traffic of its flow (R207, R209, R284). -/
def State.progRank (s : State) (flow t0 : Nat) : List Nat :=
  let prio := 3 - s.fld (F.FLOW_W0_PRIO flow)
  let us := s.fld F.QOS_ARB_CFG_STARVE_US
  if s.flowClass flow = 2 ∧ (us = 0 ∨ s.now < t0 + 1000 * us) then [3, prio, t0, 0, 0]
  else [2, 3 - s.urgency flow 0 (s.now - t0), classOrder (s.flowClass flow), prio, t0]

/-- The rank of what a claimant waits for. -/
def State.wantRank (s : State) (w : Want) : List Nat := s.progRank w.flow w.t0

/-- A claimant waits for a column port, and its row's slot can serve it. -/
def State.portWant (s : State) (w : Want) : Bool := w.port && (s.findSlot w.loc).isSome && !s.rowWaits w.loc true

/-- The requests of a channel that a column port can serve. -/
def State.portHosts (s : State) (c : Nat) : List Txn :=
  s.txns.filter fun u => u.stage == .hit && s.txnIn c u && s.servable u

/-- The request is first in the order of R207 among those of its channel that a column port can serve, and no program's
access that waits for a port ranks before it. -/
def State.portTurn (s : State) (t : Txn) : Bool :=
  let c := locCh (s.txnPlace t).loc
  ((s.portHosts c).all fun u => !rankLt (s.rank u) (s.rank t)) &&
    (s.waitingOn c).all fun x => !s.portWant x.2 || !rankLt (s.wantRank x.2) (s.rank t)

/-- An access of a claimant to a resident row takes a column port: no request of a host ranks before it, none that waited
before it for the row's move-in is left (R207, R245, R284). -/
def State.progPort (s : State) (w : Want) : Bool :=
  let c := locCh w.loc
  ((s.portHosts c).all fun u => !rankLt (s.rank u) (s.wantRank w)) &&
    (!w.filled || (!(s.txns.any fun u => u.filled && u.op != .fence && !u.answered && (s.txnPlace u).loc == w.loc && decide (u.t0 ≤ w.t0)) &&
      !((s.waitingOn c).any fun x => x.2.aheadOf w.loc w.t0)))

/-- The slot holds its row no longer, or closes before a write could reach it: the request is taken up again (R245). -/
def State.hitGone (s : State) (t : Txn) : Bool :=
  let loc := (s.txnPlace t).loc
  match s.findSlot loc with
  | none => true
  | some i => (match (s.slot (locCh loc) i).state with
    | .filling => true
    | .evicting => t.op != .rd
    | .empty | .clean | .dirty | .cleaning | .fenced => false)

/-- LAGOON_HIT: the request is served through a column port, in the order of R207 (R222, R245). A row that has closed
since, or a write to an EVICTING slot, waits again; a held slot is waited for (R246). -/
def State.lagoonHit (s : State) (m tag : Nat) : State :=
  match s.findAt m tag (· == .hit) with
  | none => s
  | some t =>
    if s.blocked t then s
    else if s.hitGone t then s.setTxn t { t with stage := .queued }
    else if s.servable t && s.portTurn t then
      (s.countCh (locCh (s.txnPlace t).loc) 4 1 (some t.m) (some t.flow)).perform t 0 true
    else s

/-- The end of a sector cycle of a transaction (R222, R230, R239): a WR_PART's read leaves the merged sector in the sector
buffer, to be written in a cycle of its own; any other performs the request. -/
def State.sectorTransfer (s : State) (t : Txn) : State :=
  let x := s.txnPlace t
  let s1 := (s.countCh (locCh x.loc) 5 1 (some t.m) (some t.flow)).cycleServed x.loc
  if !t.wholeWrite && t.merged.isNone then
    let r := s1.partRead t
    r.1.setTxn t { t with launched := false, merged := some r.2 }
  else s1.perform t 1 false

/-- SECTOR_CYCLE: the sector cycle launched in a vertical cycle for the transaction ends (R222, R235). -/
def State.sectorCycle (s : State) (m tag : Nat) : State :=
  match s.findAt m tag (· == .sector) with
  | none => s
  | some t => if t.launched then s.sectorTransfer t else s

/-! ### Move-ins -/

/-- What every claimant waits for, changed. -/
def State.mapWants (s : State) (f : Want → Want) : State := s.each 33 fun k t => t.modWants k (List.map f)

/-- A program's read that launched the row's move-in can be answered: the transfer has ended (R245, R529). -/
def Want.transferred (loc : Nat) (w : Want) : Want :=
  if w.loc = loc ∧ w.moveIn = some false then { w with moveIn := some true } else w

/-- An access that waits for the row's move-in as it ends, but the read that launched it (R245). -/
def Want.filledBy (loc : Nat) (w : Want) : Want :=
  if w.loc = loc ∧ w.moveIn ≠ some true then { w with filled := true, moveIn := none } else w

/-- MOVE_IN_TRANSFER_END: the read that caused the promotion is answered from the sector buffer, a host's now, a program's
when its wait ends (R245, R529). -/
def State.moveInTransferEnd (s : State) (c i : Nat) : State :=
  if (s.slot c i).state = .filling ∧ s.mode ≠ .fatal then
    let s1 := s.mapWants (Want.transferred (s.slot c i).loc)
    match s1.txns.find? fun t => t.stage == .moveIn i && s1.txnIn c t && t.op == .rd with
    | some t => s1.performRead t 2 false
    | none => s1
  else s

/-- A request that waits for a row's move-in, taken up again when it ends, in its order of arrival (R245). -/
def State.fillTxn (s : State) (c i loc : Nat) (t : Txn) : Txn :=
  if s.txnIn c t ∧ t.op ≠ .fence ∧ (t.stage = .moveIn i ∨ (t.stage = .queued ∧ (s.txnPlace t).loc = loc)) then
    { t with stage := .queued, filled := true } else t

/-- MOVE_IN_DONE: the row is in the slot, which is CLEAN; the accesses that waited are taken up again (R228, R245). -/
def State.moveInDone (s : State) (c i : Nat) : State :=
  if (s.slot c i).state = .filling ∧ s.mode ≠ .fatal then
    let s1 := s.moveInTransferEnd c i
    let v := s1.slot c i
    let s2 := (s1.setSlot c i { v with state := .clean, data := s1.arrayRow v.loc, last := s1.now }).mapWants
      (Want.filledBy v.loc)
    { s2 with txns := s2.txns.map (s2.fillTxn c i v.loc) }
  else s

/-! ### The vertical-path cycle -/

/-- The next vertical cycle of channel `c` begins: a row operation or a scrub that held slots has ended (R234, R246). -/
def State.nextCycle (s : State) (c : Nat) : State :=
  let s1 := s.advanceTo ((s.chan c).lastVc + s.period)
  s1.modChan c fun x => { x with lastVc := s1.now, held := [] }

/-- A claim on a vertical cycle, and the claim below it when the first could not use the cycle (R236). -/
def orClaim (a : State × Bool) (f : State → State × Bool) : State × Bool := if a.2 then a else f a.1

/-- The first of a list of claims of one kind that can use the cycle. -/
def firstClaim {α : Type} (f : State → α → State × Bool) (l : List α) (s : State) : State × Bool :=
  l.foldl (fun a x => orClaim a fun t => f t x) (s, false)

/-- A claim that needs an activation of `units` on a row: made when the bank and the budget allow it; a wait for budget is
counted and leaves the cycle to others (R236, R240). -/
def State.claimOn (s : State) (loc units : Nat) (f : State → State) (by_ : Option Nat × Option Nat := (none, none)) :
    State × Bool :=
  if !s.bankOpen loc then (s, false)
  else if !s.fitsBudget (locCh loc) units then (s.stall (locCh loc) by_, false)
  else (f s, true)

/-- The move-out of a slot that no operation holds (R228, R246). -/
def State.cleanSlot (s : State) (c : Nat) (st : SlotState) (i : Nat) (by_ : Option Nat × Option Nat := (none, none)) :
    State × Bool :=
  if (s.chan c).held.contains i then (s, false)
  else s.claimOn (s.slot c i).loc 4 (fun t => t.launchMoveOut c i st by_) by_

/-- One bank's part of claim 1: its DIRTY slots EVICTING, or CLEANING each once where pinned or held, in ascending slot
number (R242 step 3, log entry 114). -/
def State.closeBank (s : State) (c : Nat) (e : Nat × List Nat) : State × Bool :=
  let x := s.chan c
  orClaim (firstClaim (fun t i => t.cleanSlot c .evicting i) (x.toClose e.1 [] false) s) <|
    firstClaim (fun t i =>
      let r := t.cleanSlot c .cleaning i
      if r.2 then (r.1.modChan c fun y => y.cleanedOnce e.1 i, true) else r)
      (x.toClose e.1 e.2 true)

/-- Claim 1 (R236, R242 step 3): a write-back of a bank that comes due, of several banks the one first due (log entry
114). -/
def State.closeClaim (s : State) (c : Nat) : State × Bool :=
  firstClaim (fun u e => u.closeBank c e) (s.chan c).refresh.due s

/-- One zero-fill's part of claim 2: its next move-out, which writes the all-zero row (log entry 97); a retired row is
passed over (R249, R346). -/
def State.fillNext (s : State) (c : Nat) (f : Fill) : State × Bool :=
  let loc := (extentRows c f.extent).getD f.launched 0
  let step (t : State) : State := t.modChan c fun y =>
    { y with fills := y.fills.map fun g => if g.extent = f.extent then { g with launched := g.launched + 1 } else g }
  if 16 ≤ f.launched then (s, false)
  else if s.rowRetired loc then (step s, false)
  else s.claimOn loc 4 fun t => step (((t.activate loc 4).countCh c 7).setArrayRow loc [])

/-- Claim 2 (R236, R249): the next move-out of a zero-fill. -/
def State.fillClaim (s : State) (c : Nat) : State × Bool := firstClaim (fun t f => t.fillNext c f) (s.chan c).fills s

/-- What a vertical cycle has taken so far for requests: its direction (true up), its lanes, the segments activated (row
locator and segment), and whether a row move has taken it whole. -/
structure Cycle where
  st : State
  dir : Option Bool
  lanes : List Nat
  acts : List (Nat × Nat)
  full : Bool
  deriving DecidableEq, Repr

/-- A transaction's work granted in a vertical cycle; a tag record notes its first grant, with its urgency then (R503). -/
def State.grantTxn (s : State) (t u : Txn) : State :=
  (s.setTxn t u).tagMod t fun g =>
    { g with dGrant := some (g.dGrant.getD (s.now - t.t0)), urg := if g.dGrant.isSome then g.urg else s.txnUrg t }

/-- The module and the flow of a request, for the filters of the counters (R498). -/
def Txn.by_ (t : Txn) : Option Nat × Option Nat := (some t.m, some t.flow)

/-- A sector cycle put into a vertical cycle of channel `c`, when direction, lane, segment, bank and budget allow (R234,
R235, R240). A WR_PART reads first and writes once it has merged (R239). -/
def packSector (c : Nat) (k : Cycle) (t : Txn) : Cycle :=
  let x := k.st.txnPlace t
  let up := t.op == .rd || (!t.wholeWrite && t.merged.isNone)
  let seg := (x.loc, x.sector / 8)
  let grant (s : State) : State := s.grantTxn t { t with launched := true }
  if (k.dir.getD up) != up || k.lanes.contains x.sector then k
  else if k.acts.contains seg then { k with st := grant k.st, lanes := x.sector :: k.lanes }
  else if k.acts.any fun a => locCbi a.1 == locCbi x.loc then k
  else if !k.st.bankOpen x.loc then k
  else if !k.st.fitsBudget c 1 then { k with st := k.st.stall c t.by_ }
  else ⟨grant (k.st.activate x.loc 1 t.by_), some up, x.sector :: k.lanes, seg :: k.acts, k.full⟩

/-- A promotion in a vertical cycle: the move-in, or the DIRTY victim's move-out first (R231, R236). Without a victim the
request is served by a sector cycle, with its bank closing by one after the refresh (R229, R245). -/
def State.promote (s : State) (t : Txn) : State × Bool :=
  let loc := (s.txnPlace t).loc
  let c := locCh loc
  match (s.chan c).victim with
  | none => (s.setTxn t { t with stage := .sector }, false)
  | some i =>
    if (s.chan c).closing (locCbi loc) then (s.setTxn t { t with stage := .afterRefresh }, false)
    else if (s.slot c i).state = .dirty then
      if (s.chan c).slots.any fun e => e.2.state == .evicting then (s, false) else s.cleanSlot c .evicting i t.by_
    else if s.rowInCycle loc then (s, false)
    else s.claimOn loc 4 (fun u => (u.grantTxn t { t with stage := .moveIn i }).launchMoveIn c i loc t.by_) t.by_

/-- A request's work put into a vertical cycle: a row move takes the whole cycle, sector cycles share it (R234, R235). -/
def packOne (c : Nat) (k : Cycle) (t : Txn) : Cycle :=
  if k.full then k
  else if t.stage = .promoting then
    if !k.lanes.isEmpty then k
    else
      let r := k.st.promote t
      { k with st := r.1, full := r.2 }
  else packSector c k t

/-- What a claimant waits for can use a vertical cycle of its channel now (R224, R236, R239, R240). -/
def State.canTake (s : State) (w : Want) : Bool :=
  match w.act with
  | some a => !s.rowInCycle a.1 && !s.buffered a.1 && s.bankOpen a.1 && s.fitsBudget (locCh w.loc) a.2
  | none => false

/-- No operation of a program or of the trace export that can use the vertical cycle ranks before a request (R207, R284). -/
def State.beforeProgs (s : State) (c : Nat) (t : Txn) : Bool :=
  (s.waitingOn c).all fun x => !rankLt (s.wantRank x.2) (s.rank t) || !s.canTake x.2

/-- The requests of channel `c` that wait for a vertical cycle, in the order of R207. -/
def State.waitingCycles (s : State) (c : Nat) : List Txn :=
  s.ranked (s.txns.filter fun t => (t.stage == .sector || t.stage == .promoting) && !t.launched && s.txnIn c t &&
    !s.blocked t && !s.partAhead t && !s.buffered (s.txnPlace t).loc && (s.findSlot (s.txnPlace t).loc).isNone &&
    s.written (s.txnPlace t).loc)

/-- Claim 3 (R236): transfers for requests, and the row moves they need, as far as no program's operation ranks before
them. -/
def State.requestClaim (s : State) (c : Nat) : State × Bool :=
  let k := ((s.waitingCycles c).filter (s.beforeProgs c)).foldl (packOne c) ⟨s, none, [], [], false⟩
  (k.st, k.full || !k.lanes.isEmpty)

/-- The scrub buffer released (R248). -/
def State.bufferFree (s : State) (c : Nat) : State :=
  s.modChan c fun x => { x with scrub := { x.scrub with buffer := none, bufData := [] } }

/-- The content of a row in its authoritative copy decoded and corrected, poison kept, written to spare row `k` of its bank
(R324, R342). -/
def State.copyToSpare (s : State) (loc k : Nat) (f : DecodeFor) : State :=
  s.each 32 fun j t =>
    let r := t.decodeStored ⟨loc, j⟩ f
    r.1.writePhys (spareRow loc k) j r.2.code

/-- A row's content written to spare row `k` of its bank, and the row switched to it (R324). A row that is resident or in
the scrub buffer is not activated (R241); a slot that holds it stays open. -/
def State.moveToSpare (s : State) (loc k : Nat) (f : DecodeFor) : State :=
  let s1 := if (s.findSlot loc).isSome || s.buffered loc then s else (s.activate loc 4).countCh (locCh loc) 6
  (((s1.copyToSpare loc k f).activate (spareRow loc k) 4).countCh (locCh loc) 7).spareForRow loc k

/-- Native row action's move to a spare in the vertical cycle it takes: the row switched, its ledger entry asked for (R324,
R362). -/
def State.spareOut (s : State) (c loc k : Nat) : State :=
  let t := (s.moveToSpare loc k ⟨4, 15, 0⟩).ledgerQueue ⟨1, 2, loc, k, .nativeSpare loc⟩
  (if s.buffered loc then t.bufferFree c else t).modChan c fun x => { x with scrub := { x.scrub with sparing := none } }

/-- The corrected row in the scrub buffer is moved out and released, to its spare row where native row action replaces it; a
resident row that is to be replaced is written to its spare (R248, R362). The move-out is taken as done when it is
launched (log entry 98). -/
def State.bufferOut (s : State) (c : Nat) : State × Bool :=
  match (s.chan c).scrub.sparing, (s.chan c).scrub.buffer with
  | some x, _ => s.claimOn x.1 4 fun t => t.spareOut c x.1 x.2
  | none, none => (s, false)
  | none, some loc => s.claimOn loc 4 fun t =>
      (((t.activate loc 4).countCh c 7).setArrayRow loc (s.chan c).scrub.bufData).bufferFree c

/-- A request waits for the row in the scrub buffer, or for one that is moved to a spare: its move-out is one that a request
needs (R236, R248, R324). -/
def State.bufferWanted (s : State) (c : Nat) : Bool :=
  (s.txns.any fun t => s.txnIn c t && (s.buffered (s.txnPlace t).loc || s.rowSparing (s.txnPlace t).loc)) ||
    (s.waitingOn c).any fun x => s.buffered x.2.loc || s.rowSparing x.2.loc

/-- The move-out of the scrub buffer that a request needs. -/
def State.bufferClaim (s : State) (c : Nat) : State × Bool := if s.bufferWanted c then s.bufferOut c else (s, false)

/-- The DIRTY slot that has gone longest without an access (R233). -/
def Chan.dirtyOldest (x : Chan) : List Nat :=
  match x.oldest (below 64 fun i => (x.slot i).state == .dirty) with
  | some i => [i]
  | none => []

/-- A slot put into a list by its last access, behind its equals. -/
def Chan.insertAge (x : Chan) (i : Nat) : List Nat → List Nat
  | [] => [i]
  | j :: r => if (x.slot i).last < (x.slot j).last then i :: j :: r else j :: x.insertAge i r

/-- The DIRTY slots in the order in which an idle cycle tries them: longest without an access first (R233, log entry
114). -/
def Chan.dirtyByAge (x : Chan) : List Nat :=
  (below 64 fun i => (x.slot i).state == .dirty).foldl (fun l i => x.insertAge i l) []

/-- The slots of a drain or of WRITEBACK_ALL that this cycle may clean (R233, R243, R258). -/
def State.commandedClaim (s : State) (c : Nat) : State × Bool :=
  let x := s.chan c
  let drain := if x.st = .draining then x.freeSlots .dirty else []
  orClaim (firstClaim (fun t i => t.cleanSlot c .evicting i) drain s) <|
    firstClaim (fun t i =>
      let r := t.cleanSlot c .cleaning i
      if r.2 then (r.1.modChan c fun y => { y with lagAct := y.lagAct.map fun l => l.filter (· != i) }, true) else r)
      ((x.lagAct.getD []).filter fun i => (x.slot i).state == .dirty)

/-- Claim 4 (R233, R236): cleaning beyond DIRTY_MAX. -/
def State.forcedClean (s : State) (c : Nat) : State × Bool :=
  let x := s.chan c
  if s.fld (F.LAG_CFG_DIRTY_MAX c) < x.countSlots (fun v => v.state.isDirty) then
    firstClaim (fun t i => t.cleanSlot c .cleaning i) x.dirtyOldest s
  else (s, false)

/-- Of claim 5, the cleaning of DIRTY slots in an idle cycle and the move-out of the scrub buffer (R233, R236). -/
def State.idleClean (s : State) (c : Nat) : State × Bool :=
  orClaim (s.bufferOut c) fun t =>
    if t.flag (F.LAG_CFG_IDLE_CLEAN c) then firstClaim (fun u i => u.cleanSlot c .cleaning i) (t.chan c).dirtyByAge t
    else (t, false)

/-- Claims 1 to 3 (R236). -/
def State.upperClaims (s : State) (c : Nat) : State × Bool :=
  orClaim (orClaim (orClaim (s.closeClaim c) (·.fillClaim c)) (·.requestClaim c)) (·.bufferClaim c)

/-- Claims 1 to 4 (R236): what the scrubber leaves a cycle to. -/
def State.workClaims (s : State) (c : Nat) : State × Bool :=
  orClaim (orClaim (s.upperClaims c) (·.commandedClaim c)) (·.forcedClean c)

/-! ### Programs in the vertical cycles -/

/-- A host request that waits can use this vertical cycle. -/
def State.canUse (s : State) (t : Txn) : Bool :=
  let loc := (s.txnPlace t).loc
  s.bankOpen loc && s.fitsBudget (locCh loc) (if t.stage = .promoting then 4 else 1)

/-- An operation of claimant `k` takes the vertical cycle of channel `c`: neither a close nor a zero-fill can use it, nor
can a host request or another claimant's operation that ranks before it (R207, R236, R284). -/
def State.progTurn (s : State) (k c flow t0 : Nat) : Bool :=
  !(s.closeClaim c).2 && !(s.fillClaim c).2 &&
    ((s.waitingCycles c).all fun t => !rankLt (s.rank t) (s.progRank flow t0) || !s.canUse t) &&
    (s.waitingOn c).all fun x => x.1 == k || !rankLt (s.wantRank x.2) (s.progRank flow t0) || !s.canTake x.2

/-- What a step of a program comes to that may have to wait: it goes on, or it waits with what was done. -/
inductive Turn where
  | go (s : State)
  | wait (s : State)
  deriving DecidableEq, Repr

/-- What claimant `k` waits for at a row. -/
def State.wantOf (s : State) (k loc : Nat) : Option Want := (s.wants k).find? fun w => w.loc == loc

/-- What claimant `k` waits for at a row, noted anew. -/
def State.putWant (s : State) (k : Nat) (w : Want) : State :=
  s.modWants k fun l => w :: l.filter fun x => x.loc != w.loc

/-- Claimant `k` waits no more at a row. -/
def State.dropWant (s : State) (k loc : Nat) : State := s.modWants k fun l => l.filter fun x => x.loc != loc

/-- A wait at a row that begins: of an operation, or of a request that counts in the row's score. -/
def newWant (loc : Nat) (request : Bool) (flow t0 : Nat) : Want :=
  ⟨loc, request, flow, t0, false, none, false, none, false⟩

/-- The cycle that an operation waits for, noted with what claimant `k` waits for at the row. -/
def State.waitCycle (s : State) (k row : Nat) (w : Want) (units : Nat) : Turn :=
  .wait (s.putWant k { w with act := some (row, units) })

/-- A vertical-path operation of claimant `k`, of `n` cycles with an activation of `units` each, on row `row`, for what `w`
waits for: it goes on in the cycle it takes, or waits for its turn, the row's bank or the budget (R224, R236, R239, R240,
R284). -/
def State.progCycle (s : State) (k row n units : Nat) (w : Want) : Turn :=
  let c := locCh row
  let s1 := s.nextCycle c
  if !s1.progTurn k c w.flow w.t0 || s1.rowInCycle row || s1.buffered row || !s1.bankOpen row then s.waitCycle k row w (n * units)
  else if !s1.fitsBudget c (n * units) then (s.stall c (none, some w.flow)).waitCycle k row w (n * units)
  else .go (s1.each (n - 1) fun _ t => t.nextCycle c)

/-- `n` sector cycles to a row: activated, counted, entered in the history (R222, R230, R240). -/
def State.cyclesAt (s : State) (loc n : Nat) (by_ : Option Nat × Option Nat := (none, none)) : State :=
  s.each n fun _ t => ((t.activate loc 1 by_).countCh (locCh loc) 5 1 by_.1 by_.2).cycleServed loc

/-- A row brought into a slot for a program: the move-in launched, or the DIRTY victim's move-out first; the program waits
(R231, R245). A read that launches it is answered at the end of its transfer (R529). -/
def State.bringIn (s : State) (k : Nat) (w : Want) (write : Bool) : State :=
  let c := locCh w.loc
  match (s.chan c).victim with
  | none => s
  | some i =>
    if (s.slot c i).state = .dirty then
      if (s.chan c).slots.any fun e => e.2.state == .evicting then s
      else match s.progCycle k (s.slot c i).loc 1 4 w with
        | .wait t => t
        | .go t => t.launchMoveOut c i .evicting (none, some w.flow)
    else match s.progCycle k w.loc 1 4 w with
      | .wait t => t
      | .go t => (t.launchMoveIn c i w.loc (none, some w.flow)).putWant k { w with moveIn := if write then none else some false }

/-- How an access of a claimant to a row that is not resident is to be served (R229, R245, R320): never by a promotion when
`may` is false; one that a close refused takes its sector cycle once the refresh has ended. -/
def State.progWay (s : State) (w : Want) (may : Bool) : TxnStage :=
  if w.refused then (if (s.chan (locCh w.loc)).closing (locCbi w.loc) then .afterRefresh else .sector)
  else if may then s.wayOf w.loc
  else .sector

/-- An access served through a column port, or a wait for one. -/
def State.progHit (s : State) (k : Nat) (w : Want) : Turn :=
  if s.progPort w then .go (((s.dropWant k w.loc).touch w.loc).countCh (locCh w.loc) 4 1 none (some w.flow))
  else .wait (s.putWant k { w with port := true })

/-- An access served by `n` sector cycles, or a wait for them. -/
def State.progSector (s : State) (k n : Nat) (w : Want) : Turn :=
  match s.progCycle k w.loc n 1 w with
  | .wait t => .wait t
  | .go t => .go ((t.dropWant k w.loc).cyclesAt w.loc n (none, some w.flow))

/-- An access of claimant `k` to a sector of the row of `w`, in the three ways of R222: a hit, `n` sector cycles, or a
promotion that it waits for (R222, R229, R245, R275, R284, R529). -/
def State.progServe (s : State) (k n : Nat) (write may : Bool) (w : Want) : Turn :=
  if w.moveIn = some true ∧ !write ∧ (s.findSlot w.loc).isSome then .go (s.dropWant k w.loc)
  else if s.rowWaits w.loc write then .wait s
  else if (s.findSlot w.loc).isSome then s.progHit k w
  else match s.progWay w may with
    | .promoting => .wait (s.bringIn k w write)
    | .afterRefresh => .wait (s.putWant k { w with refused := true })
    | _ => s.progSector k n w

/-- An access of claimant `k`, issued at `t0`, tried: while it waits it keeps the time of its first try (R229, R284). -/
def State.progAccess (s : State) (k loc n flow t0 : Nat) (write may : Bool) : Turn :=
  let w := { (s.wantOf k loc).getD (newWant loc true flow t0) with request := true, flow := flow, act := none, port := false }
  (s.putWant k w).progServe k n write may w

/-! ### The trace export -/

/-- Sector `k` of the image of a trace buffer, four entries of 16 bytes each (R506). -/
def traceSector (trace : Store Words) (k : Nat) : Sector :=
  (List.range 16).foldl (fun a j =>
    a ||| ((((trace.get (fun _ => []) (4 * k + j / 4)).getD (j % 4) 0).setWidth 512) <<< (32 * j))) 0

/-- The place of the next sector of an export. -/
def Export.place (x : Export) : Place3 := serviceAt x.chan (4096 * x.offset + 64 * x.next)

/-- The next sector of an export written, in the way it was given, or a wait for it. -/
def exportWrite (x : Export) : Turn → State
  | .wait t => t
  | .go t =>
    let u := (t.storeHit x.place (BitVec.allOnes 64)).setStored x.place (encodeSector (traceSector x.trace x.next) 0)
    { u with obs := { u.obs with exporting := u.obs.exporting.map fun y => { y with next := y.next + 1 } } }

/-- The next sector write of an export to channel `c`, excess traffic of flow 0 (R222, R506). The writes wait while the
channel admits none. -/
def State.exportNext (s : State) (c : Nat) : State :=
  match s.obs.exporting with
  | some x =>
    if x.chan = c ∧ x.next < 4096 ∧ (s.chan c).st = .online then
      exportWrite x (s.progAccess 32 x.place.loc 1 0 s.now true true)
    else s
  | none => s

/-! ### The schedule -/

/-- The next vertical cycle of channel `c` is a program's: it takes it when its wait ends (R207, R284). -/
def State.progLeads (s : State) (c : Nat) : Bool :=
  let t := s.nextCycle c
  (t.waitingOn c).any fun x => x.1 < 32 && t.canTake x.2 && t.progTurn x.1 c x.2.flow x.2.t0

/-- The next vertical cycle of channel `c`, filled from the highest claim that can use it (R234, R236). -/
def State.fillCycle (s : State) (c : Nat) : State :=
  let r := orClaim ((s.nextCycle c).workClaims c) (·.idleClean c)
  if r.2 then r.1 else r.1.countCh c 0x11

/-- VERTICAL_CYCLE_SCHEDULE: the next vertical cycle of channel `c`: that of a program, which it is left to, of the trace
export, or of the claims (R234, R236, R506). In FATAL no slot is written back (R451). A parity error in the scheduler's state
is found first: CH_SCHED (R445). -/
def State.verticalCycle (s : State) (c : Nat) : State :=
  if (s.chan c).upset ≠ 0 then (s.modChan c fun x => { x with upset := 0 }).raise (128 + 4 * c + 3) (s.chan c).upset
  else if s.mode = .fatal ∨ s.progLeads c then s
  else
    let t := s.exportNext c
    if (t.chan c).lastVc = (s.chan c).lastVc then t.fillCycle c else t

/-! ### Zero-fill -/

/-- ZERO_FILL_COMPLETE: the extent is marked written; the requests that waited are taken up again (R249). -/
def State.zeroFillComplete (s : State) (c : Nat) : State :=
  if s.mode = .fatal then s else
  match (s.chan c).fills.find? fun f => f.launched == 16 with
  | none => s
  | some f =>
    let s0 := s.useMapWord c f.extent
    if (s0.chan c).st = .offline then s0 else
    let s1 := (s0.markExtent c f.extent true).modChan c fun x =>
      { x with fills := x.fills.filter fun g => g.extent != f.extent }
    { s1 with txns := s1.txns.map fun t =>
        if t.stage = .waitFill ∧ s1.txnIn c t ∧ locExtent (s1.txnPlace t).loc = f.extent then { t with stage := .queued }
        else t }

/-! ### Drain, recovery, discard -/

/-- Nothing of the channel is left to serve or write back, so that it can be QUIESCED (R115, R243). -/
def State.drained (s : State) (c : Nat) : Bool :=
  let x := s.chan c
  !(s.txns.any fun t => s.txnIn c t && !t.isHeld) && x.fills.isEmpty && x.scrub.buffer.isNone && x.scrub.sparing.isNone &&
    !x.eng.busy && x.eng.records.isEmpty && x.eng.aborts.isEmpty && x.eng.pinCount == 0 &&
    x.slots.all fun e => e.2.state == .clean || e.2.state == .empty

/-- DRAIN_COMPLETE: the channel becomes QUIESCED with every slot EMPTY; a drift run that drained for it starts (R115,
R243, R400). -/
def State.drainComplete (s : State) (c : Nat) : State :=
  if (s.chan c).st = .draining ∧ s.drained c then
    let s1 := (s.setChState c .quiesced ((s.fld (F.CH_STATE_LAST_CAUSE c)))).modChan c fun x => { x with slots := [] }
    if (s.chan c).vpt.drift then s1.runStart c 5 .drift else s1
  else s

/-- DRAIN_PIN_ABORT: a program still running 50 us after the DRAIN is aborted with code DRAIN (R243, R277). -/
def State.drainPinAbort (s : State) (c : Nat) : State :=
  match (s.chan c).st, (s.chan c).drainAt with
  | .draining, some t => if (s.chan c).eng.busy then (s.advanceTo (t + 50000)).abortProgram c 0x21 else s
  | _, _ => s

/-- A row stored with 32 poisoned sectors: data 0, metadata 0x80 (R256). -/
def poisonRow : Store Code :=
  (List.range 32).foldl (fun d j => d.set (fun _ => zeroCode) j (encodeSector 0 0x80)) []

/-- A vertical cycle of channel `c` for a row move that the budget allows: those in which it does not pass, counted in
STALL_VC (R234, R240). -/
def State.moveCycle (s : State) (c : Nat) : State :=
  (s.nextCycle c).each 8 fun _ t => if t.fitsBudget c 4 then t else (t.stall c).nextCycle c

/-- A row moved out to the array in a vertical cycle of its own, when the device writes rows back by a sequence of its own
(R118, R234, R240, R256). -/
def State.putBack (s : State) (loc : Nat) (d : Store Code) : State :=
  ((((s.moveCycle (locCh loc)).activate loc 4).countCh (locCh loc) 7)).setArrayRow loc d

/-- What RECOVER writes to the array, one row in a vertical cycle: the FENCED slots' rows, and the lost rows with every sector
poisoned; the lost list is then empty (R256). -/
def State.recoverRows (s : State) (c : Nat) : State :=
  let s1 := (s.chan c).slots.foldl (fun t e => if e.2.state = .fenced then t.putBack e.2.loc e.2.data else t) s
  let lost := (List.range (s.fld (F.LAG_LOST_CNT_COUNT c))).map fun i => s.fld (F.LAG_LOST_LOCATOR c i)
  let s2 := lost.foldl (fun t l =>
    ((t.storeHitRow l).putBack l poisonRow).log c ⟨l, 4, 5, 2, 0, 0, [], 15, 0⟩) s1
  (List.range 64).foldl (fun t i => t.setFld (F.LAG_LOST_LOCATOR c i) 0) (s2.setFld (F.LAG_LOST_CNT_COUNT c) 0)

/-- RECOVER may return the channel (R115, R255, R347). -/
def State.recoverable (s : State) (c : Nat) : Bool :=
  !s.flag (F.CH_FENCE_STS_LAYER_LOST c) && !s.flag (F.ECC_EXT_STS_MAP_LOST c) && !s.flag (F.GLB_ISL_STS_IN_RESET c) &&
    (List.range 16).all fun d => d < 4 || 4 * (c / 8) < d || s.dieGood d

/-- The spine of a channel's tier runs for it, 64 row-move periods without data, and the tier's dies leave self-refresh before
a row of it is written (R46, R385, R386). -/
def State.wakeSpine (s : State) (c : Nat) : State :=
  if s.spineRuns (c / 8) then s
  else
    let t := ((s.modChan c fun x => { x with st := .quiesced }).wakeTier (c / 8)).advance (64 * s.period)
    t.modChan c fun x => { x with st := .offline }

/-- RECOVER of an OFFLINE channel: its rows are written, its slots emptied, and it becomes QUIESCED (R256). -/
def State.recoverNow (s : State) (c : Nat) : State :=
  ((((s.wakeSpine c).recoverRows c).modChan c fun y => { y with slots := [] }).setFlag (F.CH_FENCE_STS_FENCED c)
    false).setChState c .quiesced 1

/-- An accepted RECOVER: carried out, or, while a core die of the channel's tier is in reset and its banks refresh themselves,
once that reset ends (R251, R256, R385). -/
def State.recover (s : State) (c : Nat) : State :=
  if (s.dieReset.map fun r => r.die / 4) = some (c / 8) then
    (s.modChan c fun x => { x with recovering := true }).setFlag (F.CH_STATE_REQ_BUSY c) true
  else s.recoverNow c

/-- The RECOVERs of a tier that waited for the reset of its die (R251, R256). -/
def State.recoverTier (s : State) (t : Nat) : State :=
  s.each 8 fun j u =>
    let c := 8 * t + j
    if (u.chan c).recovering then
      let v := (u.modChan c fun x => { x with recovering := false }).setFlag (F.CH_STATE_REQ_BUSY c) false
      if v.serves ∧ (v.chan c).st = .offline ∧ v.recoverable c then v.recoverNow c else v
    else u

/-- DISCARD_FENCED: every FENCED slot emptied, its row recorded in the lost list (R257). -/
def State.discardFenced (s : State) (c : Nat) : State :=
  (List.range 64).foldl (fun t i =>
    let v := t.slot c i
    if v.state = .fenced then
      let n := t.fld (F.LAG_LOST_CNT_COUNT c)
      ((if n < 64 then (t.setFld (F.LAG_LOST_LOCATOR c n) v.loc).setFld (F.LAG_LOST_CNT_COUNT c) (n + 1) else t)).setSlot c i
        Slot.empty
    else t) s

/-- A write of LAG_CTL (R258). -/
def State.wLagCtl (s : State) (c : Nat) (w : Word) : Res :=
  let begin_ (t : State) (l : List Nat) : Res :=
    done ((t.modChan c fun x => { x with lagAct := some l }).setFlag (F.LAG_CTL_BUSY c) true)
  let st := (s.chan c).st
  if s.flag (F.LAG_CTL_BUSY c) then ignored s
  else match bitsOf w.toNat 31 30 with
    | 0 => done s
    | 2 => if st = .online ∨ st = .draining then
        begin_ s (below 64 fun i => ((s.chan c).slot i).state == .dirty) else ignored s
    | 1 => if st = .offline then begin_ (s.discardFenced c) [] else ignored s
    | _ => ignored s

/-- LAG_ACTION_END: what the action had to clean is written back; BUSY clears and POLL_SUMMARY.DONE is set (R258). -/
def State.lagActionEnd (s : State) (c : Nat) : State :=
  let x := s.chan c
  match x.lagAct with
  | none => s
  | some l =>
    if (l.any fun i => (x.slot i).state == .dirty) || (x.slots.any fun e => e.2.state == .cleaning) then s
    else ((s.modChan c fun y => { y with lagAct := none }).setFlag (F.LAG_CTL_BUSY c) false).latch F.POLL_SUMMARY_DONE

/-! ### Reset of a core die -/

/-- Channel `c` lets a die of its tier be reset (R250). -/
def ChState.resettable : ChState → Bool
  | .quiesced | .retraining | .offline | .retired => true
  | .online | .draining => false

/-- A write of GLB_DIE_RST (R251). -/
def State.wDieRst (s : State) (p : PathNum) (w : Word) : Res :=
  if !bitOf w.toNat 31 then done (s.plainWrite p .GLB_DIE_RST 0 0 w)
  else
    let d := bitsOf w.toNat 3 0
    if s.serves && !s.flag F.GLB_DIE_RST_BUSY && (List.range 8).all fun j => (s.chan (8 * (d / 4) + j)).st.resettable then
      done { (s.plainWrite p .GLB_DIE_RST 0 0 w).setFlag F.GLB_DIE_RST_BUSY true with dieReset := some ⟨d, 2⟩ }
    else ignored s

/-- CORE_DIE_RESET_RELEASE: after the hold of step 2 the logic reset is released (table Core-die reset). -/
def State.dieResetRelease (s : State) : State :=
  match s.dieReset with
  | some r => if r.step = 2 then { s.advanceTo (s.now + 2000) with dieReset := some { r with step := 3 } } else s
  | none => s

/-- The end of a core-die reset with its RESULT (R251). -/
def State.dieResetEnd (s : State) (result : Nat) : State :=
  let s1 := { s with dieReset := none }
  ((s1.setFlag F.GLB_DIE_RST_BUSY false).setFld F.GLB_DIE_RST_RESULT result).latch F.POLL_SUMMARY_DONE

/-- DIE_RESET_READY: the die reports ready; its banks leave self-refresh (R251, R386). -/
def State.dieResetReady (s : State) : State :=
  match s.dieReset with
  | some r =>
    if r.step = 3 then
      ((List.range 8).foldl (fun t j => t.handBack (8 * (r.die / 4) + j) fun b => b / 32 == r.die % 4)
        (s.dieResetEnd 1)).recoverTier (r.die / 4)
    else s
  | none => s

/-- DIE_RESET_READY_TIMEOUT: the die is treated as one whose power-good detector tripped (R251, R252). -/
def State.dieResetTimeout (s : State) : State :=
  match s.dieReset with
  | some r => if r.step = 3 then ((s.dieResetEnd 2).fenceDie r.die true).recoverTier (r.die / 4) else s
  | none => s

end Sys2Proof.Machine
end

