-- ==== Sys2Proof/Machine/Scrub.lean ====
section
/-!
DEFINITION. The scrubber, native row action, the spill of the correction log, the lookups and the injection of
integrity (R348 to R370).
-/
namespace Sys2Proof.Machine

/-! ### Laps -/

/-- Positions of a lap (R349). -/
def lapLength : Nat := 2105344

/-- The row at a position of channel `c` (R349). -/
def scrubRow (c p : Nat) : Nat :=
  let r := p / 128
  let b := p % 128
  if r < 16384 then mkLoc c (b / 32) (b % 32) 0 r else mkLoc c (b / 32) (b % 32) 2 (r - 16384)

/-- The row is held by a pinned slot (R321). -/
def State.rowPinned (s : State) (loc : Nat) : Bool :=
  match s.findSlot loc with
  | some i => (s.chan (locCh loc)).pinned i
  | none => false

/-- The scrubber visits the row (R321, R349, R363). -/
def State.eligible (s : State) (loc : Nat) : Bool :=
  !s.rowRetired loc && s.written loc && !s.rowPinned loc

/-- Scrub time advances (R351). -/
def State.scrubRuns (s : State) (c : Nat) : Bool :=
  s.flag (F.ECC_SCRUB_CFG_SCRUB_EN c) && (s.chan c).st == .online && s.serves

/-- The state with the scrubber of channel `c` changed. -/
def State.modScrub (s : State) (c : Nat) (f : Scrub → Scrub) : State :=
  s.modChan c fun x => { x with scrub := f x.scrub }

/-- The pointer may pass the position it stands at (R350). -/
def State.mayPass (s : State) (c : Nat) : Bool :=
  let x := (s.chan c).scrub
  x.pointer * (s.fld (F.ECC_SCRUB_CFG_LAP_TARGET c) * 1000000000) < lapLength * x.time

/-- The end of a lap (R352). -/
def State.lapEnd (s : State) (c : Nat) : State :=
  let s1 := (s.setFld (F.ECC_SCRUB_LAP_LAST_LAP c) (min 0xFFFFF ((s.chan c).scrub.time / 1000000000))).setFlag
    (F.ECC_SCRUB_LAP_VALID c) true
  (s1.bump (F.ECC_SCRUB_STS_LAPS c)).modScrub c fun x =>
    { x with pointer := 0, time := 0, lap := x.lap + 1, overdue := false, suspects := [] }

/-- The pointer moved past one position; past the last one the lap ends. -/
def State.passOne (s : State) (c : Nat) : State :=
  if lapLength ≤ (s.chan c).scrub.pointer + 1 then s.lapEnd c
  else s.modScrub c fun x => { x with pointer := x.pointer + 1 }

/-- The pointer moved past ineligible positions as far as scrub time allows; each look at a position of an addressable row
uses its map word (R347). -/
def State.passIneligible (s : State) (c : Nat) : Nat → State
  | 0 => s
  | n + 1 =>
    let loc := scrubRow c (s.chan c).scrub.pointer
    if s.mayPass c then
      let t := s.useMap loc
      if t.scrubRuns c && !t.eligible loc then (t.passOne c).passIneligible c n else t
    else s

/-- SCRUB_POINTER_ADVANCE: `dt` ns of scrub time pass (R350, R351). -/
def State.scrubAdvance (s : State) (c dt : Nat) : State :=
  if s.scrubRuns c then
    let s1 := s.modScrub c fun x => { x with time := x.time + dt }
    s1.passIneligible c (lapLength - (s1.chan c).scrub.pointer)
  else s

/-- SCRUB_LAP_OVERDUE (R352). -/
def State.lapOverdue (s : State) (c : Nat) : State :=
  if s.scrubRuns c && !(s.chan c).scrub.overdue then
    (s.modScrub c fun x => { x with
      overdue := true, time := max x.time (s.fld (F.ECC_SCRUB_CFG_LAP_TARGET c) * 1125000000) }).setFlag
      (F.ECC_SCRUB_STS_LAP_OVERDUE c) true
  else s

/-! ### A visit -/

/-- A corrected position entered in the table of R361, most recent first. -/
def Scrub.track (x : Scrub) (loc sector symbol : Nat) : Scrub :=
  let same (q : Position) : Bool := q.loc == loc && q.sector == sector && q.symbol == symbol
  let laps := match x.positions.find? same with
    | some q => if q.lastLap = x.lap then q.laps else if q.lastLap + 1 = x.lap then q.laps + 1 else 1
    | none => 1
  { x with positions := (⟨loc, sector, symbol, laps, x.lap⟩ :: x.positions.filter fun q => !same q).take 256 }

/-- A corrected lane and symbol counted by bank; at 8 banks it becomes the suspect, and CH_VP is raised (R355). -/
def State.noteSuspect (s : State) (c bank lane symbol : Nat) : State :=
  let k := lane * 64 + symbol
  let mask := Nat.lor ((s.chan c).scrub.suspects.get (fun _ => 0) k) (2 ^ bank)
  let s1 := s.modScrub c fun x => { x with suspects := x.suspects.set (fun _ => 0) k mask }
  let n := popcount 128 mask
  if 8 ≤ n ∧ !s1.flag (F.ECC_SUSPECT_VALID c) then
    ((((s1.setFld (F.ECC_SUSPECT_LANE c) lane).setFld (F.ECC_SUSPECT_SYMBOL c) symbol).setFld (F.ECC_SUSPECT_BANKS c)
      (min n 255)).setFlag (F.ECC_SUSPECT_VALID c) true).raise (128 + 4 * c + 1) 4
  else s1

/-- What a visit has found so far: sectors uncorrectable, and positions corrected. -/
structure Visit where
  st : State
  bad : Nat
  found : List (Nat × Nat)
  deriving DecidableEq, Repr

/-- One sector of a visit: decoded, rewritten, counted, tracked (R353). -/
def visitSector (loc : Nat) (v : Visit) (j : Nat) : Visit :=
  let s := v.st
  let c := locCh loc
  let x : Place3 := ⟨loc, j⟩
  let d := decodeSector (s.fld (F.ECC_CFG_POLICY c)) (s.stored x)
  if d.bad then ⟨(s.noteDecode x d ⟨4, 15, 0⟩ 2).setStored x d.code, v.bad + 1, v.found⟩
  else match d.found with
    | .corrected es =>
      let s1 := (s.noteDecode x d ⟨4, 15, 0⟩ 1).setStored x d.code
      let s2 := es.foldl (fun t e =>
        (t.modScrub c fun y => y.track loc j e.1).noteSuspect c (locCbi loc) j e.1) s1
      ⟨s2, v.bad, v.found ++ es.map fun e => (j, e.1)⟩
    | _ => v

/-- The second condition of R361: a position corrected in CE_LAPS laps in a row, the suspect apart. -/
def State.repeated (s : State) (loc : Nat) (found : List (Nat × Nat)) : Bool :=
  let c := locCh loc
  let n := s.fld (F.ECC_CFG_CE_LAPS c)
  n != 0 && found.any fun p =>
    !(s.flag (F.ECC_SUSPECT_VALID c) && s.fld (F.ECC_SUSPECT_LANE c) == p.1 && s.fld (F.ECC_SUSPECT_SYMBOL c) == p.2) &&
      (s.chan c).scrub.positions.any fun q => q.loc == loc && q.sector == p.1 && q.symbol == p.2 && n ≤ q.laps

/-- Native row action (R362). `ue` says that the first condition of R361 caused it. A row that is to be replaced is moved to
its spare in a vertical cycle of its own, until which requests to it wait (R234, R324). -/
def State.rowAction (s : State) (loc : Nat) (ue : Bool) : State :=
  let c := locCh loc
  let spare := if s.flag (F.ECC_CFG_AUTO_SPARE c) then s.freeRow loc else none
  if s.mode = .safe then s.logRowAction loc 5
  else match spare with
    | some k =>
      if s.ledgerTakes 1 loc then s.modScrub c fun x => { x with sparing := some (loc, k) }
      else s.logRowAction loc 6
    | none =>
      if s.ledgerFull then s.logRowAction loc 6
      else if ue && s.flag (F.ECC_CFG_AUTO_RETIRE c) && locClass loc == 0 then
        s.ledgerQueue ⟨2, 2, loc, 0, .nativeRetire loc⟩
      else s.logRowAction loc 8

/-- A row put where the scrubber checks it: held in its slot, or moved into the scrub buffer (R227, R248). -/
def State.scrubTake (s : State) (loc : Nat) : State :=
  match s.findSlot loc with
  | some i => s.modChan (locCh loc) fun x => { x with held := i :: x.held }
  | none => ((s.activate loc 4).countCh (locCh loc) 6).modScrub (locCh loc) fun x =>
      { x with buffer := some loc, bufData := s.arrayRow loc }

/-- A row released from the scrub buffer: nothing in it was to be corrected (R248). -/
def State.scrubRelease (s : State) (c : Nat) : State := s.modScrub c fun x => { x with buffer := none, bufData := [] }

/-- A scrub visit of a row, and native row action after it (R248, R353, R361). A row that is not resident is released at
once when nothing was found in it; corrected, it stays in the scrub buffer until it is moved out. -/
def State.visit (s : State) (loc : Nat) : State :=
  let c := locCh loc
  let v := (List.range 32).foldl (visitSector loc) ⟨s.scrubTake loc, 0, []⟩
  let s1 := if v.bad = 0 ∧ v.found = [] then v.st.scrubRelease c else v.st
  let ue := decide (s.fld (F.ECC_CFG_UE_THRESH c) ≤ v.bad)
  if ue || s1.repeated loc v.found then s1.rowAction loc ue else s1

/-- A row can be visited now, when native row action has no move to a spare left: its slot is in no move and no request waits
for its channel's column ports; or the scrub buffer is free, the row's bank can be activated within the budget, and no WR_PART is at work on the row (R239, R248,
R350). -/
def State.visitable (s : State) (loc : Nat) : Bool :=
  (s.chan (locCh loc)).scrub.sparing.isNone && (match s.findSlot loc with
  | some i => (match (s.slot (locCh loc) i).state with
    | .clean | .dirty | .cleaning =>
      (s.portHosts (locCh loc)).isEmpty && (s.waitingOn (locCh loc)).all fun x => !s.portWant x.2
    | .empty | .filling | .evicting | .fenced => false)
  | none => (s.chan (locCh loc)).scrub.buffer.isNone && !s.rowInCycle loc && s.bankOpen loc && s.fitsBudget (locCh loc) 4)

/-- The next vertical cycle of a channel, when neither a program, nor the trace export, nor a claim that `claims` tries takes
it (R207, R236). None is taken in FATAL (R451). -/
def State.leftCycle (s : State) (c : Nat) (claims : State → State × Bool) : Option State :=
  let t := s.exportNext c
  let r := claims (s.nextCycle c)
  if s.mode = .fatal ∨ s.progLeads c ∨ (t.chan c).lastVc ≠ (s.chan c).lastVc ∨ r.2 then none else some r.1

/-- The next vertical cycle of a channel, when claims 1 to 4 leave it (R236, R350). -/
def State.idleCycle (s : State) (c : Nat) : Option State := s.leftCycle c fun t => t.workClaims c

/-- SCRUB_VISIT: the row at the pointer, in an idle cycle, when scrub time allows to pass it and no row is queued for
priority scrub (R350, R353, R354). -/
def State.scrubVisit (s : State) (c : Nat) : State :=
  match s.idleCycle c with
  | none => s
  | some s1 =>
    let loc := scrubRow c (s1.chan c).scrub.pointer
    if s1.scrubRuns c && (s1.chan c).scrub.queue.isEmpty && s1.mayPass c then
      let t := s1.useMap loc
      if !t.scrubRuns c then t
      else if t.eligible loc && t.visitable loc then (t.visit loc).passOne c else s
    else s

/-- PRIORITY_SCRUB_VISIT: the oldest row of the priority queue, in an idle cycle (R354); a row no longer eligible is passed
over. -/
def State.priorityVisit (s : State) (c : Nat) : State :=
  match (s.chan c).scrub.queue with
  | [] => s
  | loc :: rest =>
    let drop (t : State) : State := t.modScrub c fun x => { x with queue := rest }
    if !s.scrubRuns c then s
    else if !(s.useMap loc).scrubRuns c then s.useMap loc
    else if !(s.useMap loc).eligible loc then drop (s.useMap loc)
    else match (s.useMap loc).idleCycle c with
      | none => s.useMap loc
      | some t => if t.visitable loc then (drop t).visit loc else s.useMap loc

/-! ### Rings in the service region -/

/-- A sector with eight words in one of its halves. -/
def putEntry (old : Sector) (half : Nat) (ws : List Word) : Sector :=
  let new : Sector := (List.range 8).foldl (fun a k =>
    a ||| ((ws.getD k 0).setWidth 512 <<< (256 * half + 32 * k))) 0
  let keep : Sector := (BitVec.allOnes 256).setWidth 512 <<< (256 * (1 - half))
  (old &&& keep) ||| new

/-- An entry of 32 bytes written at offset `off` of the service area of channel `c`: the sector's other half stays (R359,
R503). -/
def State.putRing (s : State) (c off : Nat) (ws : List Word) : State :=
  let x := serviceAt c (off / 64 * 64)
  let d := decodeSector (s.fld (F.ECC_CFG_POLICY c)) (s.stored x)
  (s.storeHit x (if off / 32 % 2 = 0 then 0xFFFFFFFF else 0xFFFFFFFF00000000)).setStored x
    (encodeSector (putEntry d.data (off / 32 % 2) ws) d.metaByte)

/-- The write of a sector by two sector cycles, of a row that is not resident, or through a column port, in a vertical cycle
that has begun: a read, a merge and a write of the whole sector (R222, R239, R240). None while it has to wait. -/
def State.ringCycles (s : State) (loc : Nat) : Option State :=
  if s.rowWaits loc true then none
  else if (s.findSlot loc).isSome then some ((s.touch loc).countCh (locCh loc) 4)
  else if s.rowInCycle loc || !s.bankOpen loc || !s.fitsBudget (locCh loc) 2 then none
  else some (s.cyclesAt loc 2)

/-- The vertical cycle that a spill write takes: an idle one, or, from 248 entries, one that claims 1 to 3 leave (R236,
R359). -/
def State.spillCycle (s : State) (c : Nat) : Option State :=
  if 248 ≤ (s.chan c).log.entries.length then
    s.leftCycle c fun t => t.upperClaims c
  else s.idleCycle c

/-- The oldest entry `e` written to the spill ring by the cycles it was given, if any (R359). -/
def State.spillTo (s : State) (c off : Nat) (e : List Word) (rest : List (List Word)) : Option State → State
  | none => s
  | some t =>
    let i := t.fld (F.ECC_SPILL_STS_WR_IDX c)
    let s1 := (t.putRing c off e).modChan c fun x => { x with log := { x.log with entries := rest } }
    let s2 := s1.setFld (F.ECC_SPILL_STS_WR_IDX c) ((i + 1) % 32768)
    if i = 32767 then s2.bump (F.ECC_SPILL_STS_WRAPS c) else s2

/-- LOG_SPILL_WRITE: the oldest entry beyond 128 moves to the spill ring (R359). -/
def State.logSpill (s : State) (c : Nat) : State :=
  match (s.chan c).log.entries with
  | [] => s
  | e :: rest =>
    let off := 0xC00000 + 32 * s.fld (F.ECC_SPILL_STS_WR_IDX c)
    if s.coreRuns (halfOfChan c) ∧ 128 ≤ rest.length ∧ s.flag (F.ECC_CFG_SPILL_EN c) ∧ ((s.chan c).st = .online ∨ (s.chan c).st = .draining) then
      s.spillTo c off e rest ((s.spillCycle c).bind fun t => t.ringCycles (serviceAt c off).loc)
    else s

/-- A read of ECC_LOG_POP (R87, R358). -/
def State.popLog (s : State) (p : PathNum) (c : Nat) : Res :=
  match (s.chan c).log.entries with
  | [] => ⟨s, .empty, 0, false⟩
  | e :: rest =>
    let s1 := s.modChan c fun x => { x with log := { x.log with entries := rest } }
    let s2 := s1.each 8 fun k t =>
      { t with popHold := t.popHold.set (fun _ => 0) ((p * 32 + c) * 8 + k) (e.getD k 0) }
    ⟨s2, .ok, e.getD 0 0, false⟩

/-! ### Lookups and injection -/

/-- A write of ECC_EXT (R348). -/
def State.wExt (s : State) (p : PathNum) (c : Nat) (w : Word) : Res :=
  let e := bitsOf w.toNat 16 0
  let s1 := (s.plainWrite p .ECC_EXT c 0 w).useMapWord c e
  done ((s1.setFlag (F.ECC_EXT_WRITTEN c) ((s1.chan c).mapBit e)).setFlag (F.ECC_EXT_VALID c) true)

/-- A write of ECC_INJ_CTL (R369). -/
def State.wEccInj (s : State) (p : PathNum) (c : Nat) (w : Word) : Res :=
  if bitOf w.toNat 31 && bitsOf w.toNat 27 24 == 0 then ignored s
  else
    let s1 := if bitOf w.toNat 31 && !s.flag (F.ECC_INJ_CTL_ARM c) then s.setFld (F.ECC_INJ_CTL_INJECTED c) 0 else s
    done (s1.plainWrite p .ECC_INJ_CTL c 0 w)

end Sys2Proof.Machine
end

