-- ==== Sys2Proof/Machine/Engine.lean ====
section
/-!
DEFINITION. The Exdun engines: queues and rings, the life of a program from descriptor to completion record, aborts and
the budget (R259 to R292).
-/
namespace Sys2Proof.Machine

/-! ### Rings -/

/-- Entries of a queue's rings (R268). -/
def State.ringSize (s : State) (c q : Nat) : Nat := 2 ^ s.fld (F.EXD_QCFG_SIZE_LOG2 c q)

/-- The host area of a channel ends here (R33). -/
def hostAreaEnd : Nat := 0xC00000

/-- A word of EXD_QCFG places both rings in the host area, apart from each other (R268). -/
def ringsOk (w : Nat) : Bool :=
  let n := 2 ^ bitsOf w 31 28
  let d := 4096 * bitsOf w 11 0
  let k := 4096 * bitsOf w 27 16
  d + 64 * n ≤ hostAreaEnd && k + 32 * n ≤ hostAreaEnd && (d + 64 * n ≤ k || k + 32 * n ≤ d)

/-- The indices of queue `q` in force changed by `f` (R528). -/
def State.modQset (s : State) (c q : Nat) (f : QSet → QSet) : State :=
  if s.proxyNow c && q ≥ 6 then
    s.modEng c fun e => { e with prx := e.prx.setIfInBounds q (f (e.prx[q]?.getD QSet.start)) }
  else s.modEng c fun e => { e with own := e.own.setIfInBounds q (f (e.own[q]?.getD QSet.start)) }

/-- HEAD advanced by one modulo N; the lap phase inverts at the wrap (R269, R272). -/
def QSet.next (n : Nat) (x : QSet) : QSet :=
  if n ≤ x.head + 1 then { x with head := 0, phase := !x.phase } else { x with head := x.head + 1 }

/-- Descriptors of a queue pend (R269). -/
def State.pends (s : State) (c q : Nat) : Bool :=
  s.flag (F.EXD_QCTL_EN c q) && (s.qset c q).head != (s.qset c q).tail

/-! ### Queue registers -/

/-- A write of EXD_QCFG (R268). -/
def State.wQcfg (s : State) (p : PathNum) (c q : Nat) (w : Word) : Res :=
  if s.flag (F.EXD_QCTL_EN c q) || !ringsOk w.toNat then ignored s else done (s.plainWrite p .EXD_QCFG c q w)

/-- A doorbell write (R269). -/
def State.wQdb (s : State) (c q : Nat) (w : Word) : Res :=
  let tail := bitsOf w.toNat 9 0
  if !s.flag (F.EXD_QCTL_EN c q) || s.ringSize c q ≤ tail then ignored s
  else done (s.modQset c q fun x => { x with tail := tail })

/-- RESET_IDX: both sets return to their start values (R292, R528). Descriptors that an ABORT is still to complete are
completed all the same; HEAD no longer moves for them (log entry 99). -/
def State.resetIdx (s : State) (c q : Nat) : State :=
  s.modEng c fun e => { e with
    own := e.own.setIfInBounds q QSet.start, prx := e.prx.setIfInBounds q QSet.start,
    aborts := e.aborts.map fun a => if a.queue = q then { a with moves := false } else a }

/-- The record of a descriptor that an ABORT of its queue completes: what the descriptor gives and nothing of a program
(R289). Its write is ranked with the descriptor's own flow (R284). -/
def abortRecord (a : Abort) (d : Desc) : Record :=
  { flow := d.flow, status := 3, code := 0x22, queue := a.queue, index := a.index, phase := a.phase, proxy := a.proxy,
    fetched := false, userId := d.userId, r0 := 0, r1 := 0, time := 0, endPc := 0, pred := 0, poison := false, corr := false }

/-- The 512 bits of a descriptor as a descriptor (table Descriptor). -/
def descOf (d : Sector) : Desc :=
  let n := d.toNat
  { version := bitsOf n 7 0, test := bitOf n 8, flow := bitsOf n 27 16, userId := bitsOf n 63 32,
    progOff := bitsOf n 87 64, progLen := bitsOf n 107 96, budget := bitsOf n 143 128,
    args := (List.range 5).map fun k => bitsOf n (255 + 64 * k) (192 + 64 * k) }

/-- A descriptor as read: one that reads as POISON is ranked with flow 0 (R284). -/
def descRead (d : Decoded) : Desc := if d.poison then { descOf d.data with flow := 0 } else descOf d.data

/-- A channel whose service area gives an engine no data: it is OFFLINE or RETIRED (R113, R274). -/
def State.ringGone (s : State) (ch : Nat) : Bool := !(s.chan ch).st.inService

/-- What a read that gets no data leaves: fields of 0, and no POISON (R274). -/
def noData : Decoded := ⟨.clean, false, 0, 0, 0⟩

/-- A sector of a service area decoded for an engine: on behalf of a program, SOURCE 3 (R356). -/
def State.engineDecode (s : State) (ch off flow : Nat) : State × Decoded :=
  s.decodeStored (serviceAt ch (off / 64 * 64)) ⟨3, 15, flow⟩

/-- What a read of an engine comes to: a sector, or a wait with what was launched. -/
inductive Fetch where
  | got (s : State) (d : Decoded)
  | wait (s : State)
  deriving DecidableEq, Repr

/-- A sector of the service area of channel `ch` read by the engine of channel `k` through the scheduler. No instruction
issues it: its urgency runs from its first try (R275, R284, log entry 115). -/
def State.engineRead (s : State) (k ch off flow : Nat) : Fetch :=
  match s.progAccess k (serviceAt ch (off / 64 * 64)).loc 1 flow s.now false true with
  | .wait t => .wait t
  | .go t =>
    let r := t.engineDecode ch off flow
    .got r.1 r.2

/-- The channel whose service area holds the rings and programs of a queue's indices set. -/
def State.areaOf (s : State) (c : Nat) (proxy : Bool) : Nat := if proxy then s.fld (F.EXD_CFG_PROXY_CH c) else c

/-- The offset of descriptor `i` of queue `q` (R268). -/
def State.descOff (s : State) (c q i : Nat) : Nat := 4096 * s.fld (F.EXD_QCFG_DESC_BASE c q) + 64 * i

/-- HEAD of queue `q` advanced; EXD_LAST.VALID clears (R269, R291). -/
def State.takeHead (s : State) (c q : Nat) : State :=
  (s.modQset c q (QSet.next (s.ringSize c q))).setFlag (F.EXD_LAST_VALID c) false

/-- Descriptors that pend in a queue. -/
def State.pendingCount (s : State) (c q : Nat) : Nat :=
  let x := s.qset c q
  (x.tail + s.ringSize c q - x.head) % s.ringSize c q

/-- The descriptors of a queue up to TAIL, from HEAD on, as an ABORT is to complete them (R289). -/
def State.abortList (s : State) (c q : Nat) : List Abort :=
  let x := s.qset c q
  let n := s.ringSize c q
  (List.range (s.pendingCount c q)).map fun k =>
    ⟨q, (x.head + k) % n, if x.head + k < n then x.phase else !x.phase, s.proxyNow c && q ≥ 6, true⟩

/-- Descriptors of a queue that an earlier ABORT is still to complete. -/
def Eng.aborting (e : Eng) (q : Nat) : Nat := (e.aborts.filter fun a => a.queue == q && a.moves).length

/-- ABORT of a queue: its program ends; its pending descriptors up to TAIL are to be read and completed (R289). -/
def State.abortQueue (s : State) (c q : Nat) : State :=
  let s1 := if (s.chan c).eng.busy && (s.chan c).eng.queue == q then s.endProgram c 3 0x22 else s
  s1.modEng c fun e => { e with aborts := e.aborts ++ (s1.abortList c q).drop (e.aborting q) }

/-- HEAD of the set of indices that an ABORT found a descriptor in, moved past it. -/
def State.passHead (s : State) (c : Nat) (a : Abort) : State :=
  if !a.moves then s
  else
    let n := s.ringSize c a.queue
    (s.modEng c fun e =>
      if a.proxy then { e with prx := e.prx.setIfInBounds a.queue ((e.prx[a.queue]?.getD QSet.start).next n) }
      else { e with own := e.own.setIfInBounds a.queue ((e.own[a.queue]?.getD QSet.start).next n) }).setFlag
        (F.EXD_LAST_VALID c) false

/-- The descriptor that an ABORT completes: its record waits to be written (R289). -/
def State.abortDone (s : State) (c : Nat) (a : Abort) (d : Desc) : State :=
  (s.passHead c a).modEng c fun e => { e with
    phase := if e.phase = .idle then .ending else e.phase, records := e.records ++ [abortRecord a d],
    aborts := e.aborts.drop 1 }

/-- The next descriptor that an ABORT completes, read through the scheduler (R275, R289). -/
def State.abortNext (s : State) (c : Nat) (a : Abort) : State :=
  let ch := s.areaOf c a.proxy
  let off := s.descOff c a.queue a.index
  if s.ringGone ch then (s.dropWant c (serviceAt ch off).loc).abortDone c a Desc.none
  else match s.engineRead c ch off 0 with
    | .wait t => t
    | .got t d => t.abortDone c a (descRead d)

/-- A write of EXD_QCTL (R266, R289, R292). -/
def State.wQctl (s : State) (p : PathNum) (c q : Nat) (w : Word) : Res :=
  let n := w.toNat
  let e := (s.chan c).eng
  if bitOf n 29 && (bitOf n 31 || s.flag (F.EXD_QCTL_EN c q)) then ignored s
  else if !bitOf n 31 && s.flag (F.EXD_QCTL_EN c q) && e.busy && e.queue == q then ignored s
  else
    let s1 := if bitOf n 30 then s.abortQueue c q else s
    let s2 := s1.plainWrite p .EXD_QCTL c q w
    done (if bitOf n 29 then s2.resetIdx c q else s2)

/-- A write of EXD_CTL: ABORT of the running program, of q7 by a secure access only (R289, R290). -/
def State.wExdCtl (s : State) (p : Path) (c : Nat) (w : Word) : Res :=
  let e := (s.chan c).eng
  if !bitOf w.toNat 31 then done s
  else if e.busy && e.queue == 7 && !isSecure p then s.deny p (adr .EXD_CTL c) true
  else done (s.abortProgram c 0x20)

/-- A write of EXD_CFG: the channel's own number is out of range for PROXY_CH (R278, R292). -/
def State.wExdCfg (s : State) (p : PathNum) (c : Nat) (w : Word) : Res :=
  if bitsOf w.toNat 20 16 = c then ignored s else done (s.plainWrite p .EXD_CFG c 0 w)

/-! ### Service -/

/-- The queue is served in the mode and the state of the channel (table Engine service, R277, R278); in
BRING-UP and SHUTDOWN-TEST the row of the mode counts, whatever the channel's state (log entry 121). -/
def State.queueServed (s : State) (c q : Nat) : Bool :=
  match s.mode with
  | .bringUp | .shutdownTest => q == 7 && (s.chan c).st != .retired && ((s.chan c).st != .offline || s.proxyNow c)
  | .active | .safe =>
    (match (s.chan c).st with
     | .online => true
     | .offline => 6 ≤ q && s.proxyNow c
     | .draining | .quiesced | .retraining | .retired => false)
  | .reset | .selfRefresh | .deepRetention | .fatal => false

/-- The queues in the order the engine takes them: q7, q6, then q0 to q5 in round robin (R267). -/
def queueOrder (rr : Nat) : List Nat := [7, 6] ++ (List.range 6).map fun k => (rr + k) % 6

/-- The queue the engine takes next. -/
def State.nextQueue (s : State) (c : Nat) : Option Nat :=
  (queueOrder (s.chan c).eng.nextRR).find? fun q => s.queueServed c q && s.pends c q

/-- The first refusal code of the table Refusal codes that a descriptor meets; none when it passes. -/
def State.refusal (s : State) (q : Nat) (d : Desc) (poison : Bool) : Option Nat :=
  if d.version ≠ 1 then some 1
  else if d.progLen = 0 ∨ 2048 < d.progLen then some 2
  else if d.progOff % 8 ≠ 0 ∨ hostAreaEnd < d.progOff + 8 * d.progLen then some 3
  else if d.test ∧ (q < 6 ∨ !s.testOk) then some 4
  else if (s.mode = .safe ∧ (q = 6 ∨ d.test)) ∨ (d.test ∧ s.mode ≠ .active ∧ s.mode ≠ .shutdownTest) then some 5
  else if poison then some 6
  else none

/-- Step 1 begins: the queue is chosen, HEAD moves on, and the descriptor is to be read (R267, R274). -/
def State.beginRead (s : State) (c q : Nat) : State :=
  (s.takeHead c q).modEng c fun e => { e with
    phase := .reading, queue := q, index := (s.qset c q).head, qphase := (s.qset c q).phase,
    proxy := s.proxyNow c && q ≥ 6, fetched := false, desc := Desc.none,
    nextRR := if q < 6 then (q + 1) % 6 else e.nextRR }

/-- A descriptor checked: refused with a code, or its program is fetched next. One with TEST = 1 that is accepted is logged
(R493). -/
def State.settleDescriptor (s : State) (c : Nat) : Option Nat → State
  | some code => s.endProgram c 4 code
  | none =>
    let e := (s.chan c).eng
    (if e.desc.test then s.auditTest c e.queue e.index else s).modEng c fun e => { e with phase := .fetching, got := [] }

/-- The descriptor read, and checked (steps 1 and 2 of the table Program life). -/
def State.checkDescriptor (s : State) (c : Nat) (d : Decoded) : State :=
  let s1 := s.modEng c fun e => { e with desc := descRead d }
  s1.settleDescriptor c (s1.refusal (s1.chan c).eng.queue (descRead d) d.poison)

/-- The descriptor that the engine reads, tried: while it waits the engine reads it (EXD_STS.STATE 0b001); where its read
gets no data, the program ends with code FENCE (R274, R292). -/
def State.readDescriptor (s : State) (c : Nat) : State :=
  let e := (s.chan c).eng
  let ch := s.areaOf c e.proxy
  if s.ringGone ch then s.endProgram c 3 0x23
  else match s.engineRead c ch (s.descOff c e.queue e.index) 0 with
    | .wait t => t
    | .got t d => t.checkDescriptor c d

/-- A queue chosen by an idle engine, if one is served. -/
def State.serveNext (s : State) (c : Nat) : Option Nat → State
  | none => s
  | some q => (s.beginRead c q).readDescriptor c

/-- DESCRIPTOR_READ (steps 1 and 2 of the table Program life): first the descriptors that an ABORT is to complete (R289). -/
def State.descriptorRead (s : State) (c : Nat) : State :=
  match (s.chan c).eng.aborts with
  | a :: _ => s.abortNext c a
  | [] =>
    match (s.chan c).eng.phase with
    | .idle => s.serveNext c (s.nextQueue c)
    | .reading => s.readDescriptor c
    | .fetching | .running | .ending => s

/-! ### The program -/

/-- The `k`th instruction word of a program at `off`, from sectors read. -/
def progWord (sectors : List (Sector × Bool)) (off k : Nat) : Word64 :=
  let a := off % 64 + 8 * k
  BitVec.ofNat 64 (bitsOf ((sectors.getD (a / 64) (0, false)).1).toNat (8 * (a % 64) + 63) (8 * (a % 64)))

/-- The offsets of the sectors that a program occupies. -/
def progSectors (off len : Nat) : List Nat :=
  (List.range (ceilDiv (off % 64 + 8 * len) 64)).map fun k => off / 64 * 64 + 64 * k

/-- The sectors of a program read in order until one has to wait; whether all are read. -/
def State.readSectors (s : State) (k ch flow : Nat) : List Nat → State × Bool
  | [] => (s, true)
  | o :: r => match s.engineRead k ch o flow with
    | .wait t => (t, false)
    | .got t d => (t.modEng k fun e => { e with got := e.got ++ [(d.data, d.poison)] }).readSectors k ch flow r

/-- Step 4: the machine state set, the budget started (R259, R287). -/
def State.startProgram (s : State) (c : Nat) : State :=
  let e := (s.chan c).eng
  (s.modEng c fun e => { e with
    phase := .running, pc := 0, st := 0, p := 0, start := s.timeBase.toNat, waiting := none, progress := 0, ledger := none,
    g := (List.range 5).foldl (fun g k => g.setIfInBounds k (BitVec.ofNat 64 (e.desc.args.getD k 0))) (Vector.replicate 16 0),
    h := Vector.replicate 8 none, pins := Vector.replicate 16 none }).traceEv 5
    (e.index * 2 ^ 8 + e.queue * 2 ^ 5 + c) e.desc.userId

/-- A program whose sectors are all read is put into the store; one of them that meets POISON leaves none there (R274). -/
def State.storeProgram (s : State) (c ch : Nat) : State :=
  let e := (s.chan c).eng
  if e.got.any (·.2) then (s.modEng c fun e => { e with storeValid := false, got := [] }).endProgram c 4 6
  else (s.modEng c fun e => { e with
    store := (List.range e.desc.progLen).map (progWord e.got e.desc.progOff), storeCh := ch, storeBad := false,
    storeOff := e.desc.progOff, storeValid := true, fetched := true, got := [] }).startProgram c

/-- PROGRAM_FETCH_DONE: the program is read into the store, or the store is reused (R274, R276). A read that gets no data
ends it with code FENCE; while a sector's read waits, the fetch waits with the sectors it has. -/
def State.programFetchDone (s : State) (c : Nat) : State :=
  let e := (s.chan c).eng
  if e.phase ≠ .fetching then s
  else
    let ch := s.areaOf c e.proxy
    if e.storeValid ∧ e.storeCh = ch ∧ e.storeOff = e.desc.progOff ∧ e.store.length = e.desc.progLen then s.startProgram c
    else if s.ringGone ch then s.endProgram c 3 0x23
    else
      let r := s.readSectors c ch e.desc.flow ((progSectors e.desc.progOff e.desc.progLen).drop e.got.length)
      if r.2 then r.1.storeProgram c ch else r.1

/-! ### The completion record -/

/-- The eight words of a completion record (table Completion record). -/
def Record.words (r : Record) : List Word :=
  let w0 := b2n r.phase + r.status * 2 ^ 4 + r.code * 2 ^ 8 + r.queue * 2 ^ 16 + r.index * 2 ^ 20 + b2n r.fetched * 2 ^ 30
  let w7 := r.endPc + r.pred * 2 ^ 12 + b2n r.poison * 2 ^ 16 + b2n r.corr * 2 ^ 17
  [w0, r.userId, r.r0 % 2 ^ 32, r.r0 / 2 ^ 32, r.r1 % 2 ^ 32, r.r1 / 2 ^ 32, r.time, w7].map (BitVec.ofNat 32)

/-- EXD_LAST and the counters after a record (R271, R291, R292). -/
def State.noteRecord (s : State) (c : Nat) (r : Record) (lost : Bool) : State :=
  let s1 := s.setReg (adr .EXD_LAST c) (BitVec.ofNat 32
    (2 ^ 31 + r.status * 2 ^ 27 + r.queue * 2 ^ 24 + r.code * 2 ^ 16 + b2n lost * 2 ^ 10 + r.index))
  let s2 := if r.status = 0 then s1.bump (F.EXD_QCNT_DONE c r.queue) else s1.bump (F.EXD_CNT_NOT_DONE c)
  let s3 := if r.status = 4 then s2.bump (F.EXD_QCNT_REFUSED c r.queue) else s2
  (if r.status = 2 then s3.bump (F.EXD_CNT_BUDGET_LAPSED c) else s3).latch F.POLL_SUMMARY_COMPLETION

/-- The oldest record taken from its engine; an engine that waits for its records only is then idle. -/
def State.popRecord (s : State) (c : Nat) (rest : List Record) : State :=
  s.modEng c fun e => { e with
    records := rest, phase := if rest = [] ∧ e.phase = .ending then .idle else e.phase }

/-- The oldest record written at an offset of channel `ch` in the cycles taken for it, or a wait for them (R271). -/
def State.recordIn (c : Nat) (r : Record) (rest : List Record) (ch off : Nat) : Turn → State
  | .wait t => t
  | .go t => ((t.popRecord c rest).putRing ch off r.words).noteRecord c r false

/-- The oldest record written at an offset of channel `ch`, or lost when that channel is fenced or OFFLINE (R271). Its write
is ranked with its own descriptor's flow, its urgency from its first try (R284, log entry 115). -/
def State.recordTo (s : State) (c : Nat) (r : Record) (rest : List Record) (ch off : Nat) : State :=
  if s.ringGone ch then ((s.dropWant c (serviceAt ch off).loc).popRecord c rest).noteRecord c r true
  else State.recordIn c r rest ch off (s.progAccess c (serviceAt ch off).loc 2 r.flow s.now true true)

/-- COMPLETION_RECORD_WRITTEN: the oldest record goes to its entry of its queue's completion ring (R268, R271). -/
def State.recordWritten (s : State) (c : Nat) : State :=
  match (s.chan c).eng.records with
  | [] => s
  | r :: rest => s.recordTo c r rest (s.areaOf c r.proxy)
      (4096 * s.fld (F.EXD_QCFG_CPL_BASE c r.queue) + 32 * r.index)

/-- EXDUN_BUDGET_LAPSE: the budget runs on the time base (R287). -/
def State.budgetLapse (s : State) (c : Nat) : State :=
  let e := (s.chan c).eng
  if e.phase ≠ .running then s
  else
    let us := if e.desc.budget = 0 then s.fld (F.EXD_CFG_DEFAULT_BUDGET_US c) else e.desc.budget
    (s.advanceSince e.start (1000 * us)).endProgram c 2 0

end Sys2Proof.Machine
end

