-- ==== Sys2Proof/Machine/Operands.lean ====
section
/-!
DEFINITION. Operands of Exdun instructions: the instruction word and its fields (R260, R293, R294), general registers,
predicates, handles and pins (R261), row locators and their checks (R281, R295, R297).
-/
namespace Sys2Proof.Machine

/-! ### The instruction word -/

/-- The word of an instruction (table Instruction format, R260). -/
def wordOf (op : BitVec 8) (f : Fields) : Word64 :=
  op ++ f.dst ++ f.src1 ++ f.src2 ++ f.hnd ++ f.mod ++ f.imm

/-- OPCODE of a word. -/
def opOf (w : Word64) : BitVec 8 := w.extractLsb' 56 8

/-- The fields of a word. -/
def fieldsOf (w : Word64) : Fields :=
  { dst := w.extractLsb' 52 4, src1 := w.extractLsb' 48 4, src2 := w.extractLsb' 44 4, hnd := w.extractLsb' 40 4,
    mod := w.extractLsb' 32 8, imm := w.extractLsb' 0 32 }

/-- Which of DST, SRC1, SRC2, HND, MOD and IMM an entry names; the others must be 0 (R294). -/
structure Uses where
  d : Bool := false
  a : Bool := false
  b : Bool := false
  n : Bool := false
  m : Bool := false
  i : Bool := false

end Sys2Proof.Machine

namespace Sys2Proof

/-- A field as a number. -/
abbrev Fields.d (f : Fields) : Nat := f.dst.toNat
/-- SRC1. -/
abbrev Fields.a (f : Fields) : Nat := f.src1.toNat
/-- SRC2. -/
abbrev Fields.b (f : Fields) : Nat := f.src2.toNat
/-- HND. -/
abbrev Fields.n (f : Fields) : Nat := f.hnd.toNat
/-- MOD. -/
abbrev Fields.m (f : Fields) : Nat := f.mod.toNat
/-- IMM, zero-extended (uimm). -/
abbrev Fields.u (f : Fields) : Nat := f.imm.toNat
/-- IMM, sign-extended to 64 bits (simm). -/
def Fields.simm (f : Fields) : Word64 := f.imm.signExtend 64

/-- The fields that an entry does not name are 0, and HND names one of h0 to h7 (R294). -/
def Fields.only (f : Fields) (x : Machine.Uses) : Bool :=
  (x.d || f.dst == 0) && (x.a || f.src1 == 0) && (x.b || f.src2 == 0) && (if x.n then f.hnd.toNat < 8 else f.hnd == 0) &&
    (x.m || f.mod == 0) && (x.i || f.imm == 0)

end Sys2Proof

namespace Sys2Proof.Machine

/-! ### Registers -/

/-- The engine of channel `c`. -/
abbrev State.eng (s : State) (c : Nat) : Eng := (s.chan c).eng

/-- A general register. -/
def State.g (s : State) (c r : Nat) : Word64 := (s.eng c).g[r]?.getD 0

/-- A general register written. -/
def State.setG (s : State) (c r : Nat) (v : Word64) : State := s.modEng c fun e => { e with g := e.g.setIfInBounds r v }

/-- A predicate. -/
def State.pred (s : State) (c k : Nat) : Bool := (s.eng c).p.getLsbD k

/-- A predicate written. -/
def State.setPred (s : State) (c k : Nat) (b : Bool) : State :=
  s.modEng c fun e => { e with p := BitVec.ofNat 4 (putBits e.p.toNat k k (b2n b)) }

/-! ### Handles and pins -/

/-- The pin-table entry a handle names. -/
def Eng.entry (e : Eng) (n : Nat) : Option (Fin 16) := e.h[n]?.getD none

/-- The slot a pin-table entry holds. -/
def Eng.pin (e : Eng) (k : Nat) : Option Nat := e.pins[k]?.getD none

/-- The slot of a handle; none when it is unbound (R295). -/
def State.hslot (s : State) (c n : Nat) : Option Nat := (s.eng c).entry n |>.bind fun k => (s.eng c).pin k.val

/-- A row operation names the row of a handle's slot. -/
def State.hloc (s : State) (c n : Nat) : Nat := (s.slot c ((s.hslot c n).getD 0)).loc

/-- The entry that holds a slot. -/
def Eng.pinFind (e : Eng) (i : Nat) : Option (Fin 16) :=
  (List.finRange 16).find? fun k => e.pin k.val == some i

/-- The first free entry. -/
def Eng.pinFree (e : Eng) : Option (Fin 16) := (List.finRange 16).find? fun k => e.pin k.val == none

/-- The row is in the pin table already (R309). -/
def State.pinnedRow (s : State) (c loc : Nat) : Option (Fin 16) :=
  match s.findSlot loc with
  | some i => (s.eng c).pinFind i
  | none => none

/-- Handle `n` bound to entry `k`. -/
def State.bindH (s : State) (c n : Nat) (k : Fin 16) : State :=
  s.modEng c fun e => { e with h := e.h.setIfInBounds n (some k) }

/-- A slot pinned in a free entry, and the handle bound to it (R261). -/
def State.pinSlot (s : State) (c n i : Nat) : State :=
  match (s.eng c).pinFree with
  | some k => (s.modEng c fun e => { e with pins := e.pins.setIfInBounds k.val (some i) }).bindH c n k
  | none => s

/-- The entries bound to the handles of a mask released, with every handle bound to them (R311). -/
def Eng.release (e : Eng) (mask : Nat) : Eng :=
  let ks := (below 8 (bitOf mask)).filterMap e.entry
  { e with
    pins := ks.foldl (fun p k => p.setIfInBounds k.val none) e.pins,
    h := e.h.map fun x => match x with
      | some k => if ks.contains k then none else some k
      | none => none }

/-! ### Locators -/

/-- Service rows below this number are in the read reach of a queue (R281). -/
def readReach (q : Nat) : Nat := if q = 7 then 64 else if q = 6 then 60 else 48

/-- Service rows below this number are in the write reach of a queue (R281). -/
def writeReach (q : Nat) : Nat := if q = 7 then 64 else 48

/-- A row lies in a reach; a spare row only for test instructions (R281, R297). -/
def inReach (reach loc : Nat) (spares : Bool) : Bool :=
  match locClass loc with
  | 0 => true
  | 1 => spares
  | 2 => locRow loc < reach
  | _ => false

/-- The exception a locator operand raises for a row of the program's own channel, LOCATOR, RETIRED or AREA, in the order
of R295; none when it passes. -/
def State.locFault (s : State) (c reach : Nat) (v : Word64) (spares : Bool) : Option Nat :=
  let l := v.toNat
  if !locValid l || locCh l != c then some 0x14
  else if s.rowRetired l then some 0x15
  else if !inReach reach l spares then some 0x16
  else none

/-- The channel is OFFLINE. -/
def State.chanOut (s : State) (c : Nat) : Bool := (s.chan c).st == .offline

end Sys2Proof.Machine
end

