-- ==== Sys2Proof/Decode.lean ====
section
/-!
DEFINITION. From words to commands. No row of the command table gives bits, so no word spells a command of its own
(`decodeTableWord`). An instruction word of an Exdun program spells the command that issues it: `decodeExdun` and
`encodeExdun` (R260, R293, R299).
-/
namespace Sys2Proof

/-- The command that a word spells by the bits of the command table: no row gives bits. -/
def decodeTableWord (_nbits _w : Nat) : Option Instr := none

/-- The command that issues the instruction word `w` on the engine of channel `c` (tables Instruction format and Opcode
map, R293, R299, R331). What vp.chk finds on its conductors is no part of the word. -/
def decodeExdun (c : Fin 32) (w : Word64) (seen : BitVec 64) : Instr :=
  let f := Machine.fieldsOf w
  match (Machine.opOf w).toNat with
  | 0x00 => .nop c f
  | 0x01 => .halt c f
  | 0x02 => .br c f
  | 0x03 => .wait c f
  | 0x04 => .time c f
  | 0x10 => .li c f
  | 0x11 => .lih c f
  | 0x12 => .mov c f
  | 0x13 => .add c f
  | 0x14 => .sub c f
  | 0x15 => .addi c f
  | 0x16 => .and c f
  | 0x17 => .or c f
  | 0x18 => .xor c f
  | 0x19 => .shl c f
  | 0x1A => .shr c f
  | 0x1B => .ctz c f
  | 0x1C => .popc c f
  | 0x1D => .mul c f
  | 0x20 => .cmp c f
  | 0x21 => .cmpi c f
  | 0x24 => .stRd c f
  | 0x25 => .stClr c f
  | 0x30 => .ldCfg c f
  | 0x31 => .stCfg c f
  | 0x40 => .rowLoad c f
  | 0x41 => .rowClaim c f
  | 0x42 => .rowRel c f
  | 0x43 => .rowWb c f
  | 0x44 => .rowLoc c f
  | 0x45 => .slotLdw c f
  | 0x46 => .slotStw c f
  | 0x50 => .rowCopy c f
  | 0x51 => .rowFill c f
  | 0x52 => .rowZero c f
  | 0x53 => .rowBit c f
  | 0x54 => .rowCmp c f
  | 0x55 => .rowPopc c f
  | 0x56 => .rowCrc c f
  | 0x57 => .rowFerry c f
  | 0x60 => .secRdraw c f
  | 0x61 => .secWrraw c f
  | 0x70 => .repRetire c f
  | 0x71 => .repRow c f
  | 0x72 => .repCol c f
  | 0x73 => .refRow c f
  | 0x74 => .extInit c f
  | 0x78 => .vpSpare c f
  | 0x79 => .vpChk c f seen
  | 0x7A => .vpPt c f
  | 0x90 => .statRes c f
  | 0x91 => .statAct c f
  | 0xA0 => .tstWr c f
  | 0xA1 => .tstRd c f
  | n => if 0xF0 ≤ n then .firmwareInstruction c (Machine.opOf w) f else .reservedOpcode c (Machine.opOf w) f

/-- The instruction word that a command issues, with its channel; none for a command that is no instruction. -/
def encodeExdun (i : Instr) : Option (Fin 32 × Word64) :=
  match i with
  | .nop c f => some (c, Machine.wordOf 0x00 f)
  | .halt c f => some (c, Machine.wordOf 0x01 f)
  | .br c f => some (c, Machine.wordOf 0x02 f)
  | .wait c f => some (c, Machine.wordOf 0x03 f)
  | .time c f => some (c, Machine.wordOf 0x04 f)
  | .li c f => some (c, Machine.wordOf 0x10 f)
  | .lih c f => some (c, Machine.wordOf 0x11 f)
  | .mov c f => some (c, Machine.wordOf 0x12 f)
  | .add c f => some (c, Machine.wordOf 0x13 f)
  | .sub c f => some (c, Machine.wordOf 0x14 f)
  | .addi c f => some (c, Machine.wordOf 0x15 f)
  | .and c f => some (c, Machine.wordOf 0x16 f)
  | .or c f => some (c, Machine.wordOf 0x17 f)
  | .xor c f => some (c, Machine.wordOf 0x18 f)
  | .shl c f => some (c, Machine.wordOf 0x19 f)
  | .shr c f => some (c, Machine.wordOf 0x1A f)
  | .ctz c f => some (c, Machine.wordOf 0x1B f)
  | .popc c f => some (c, Machine.wordOf 0x1C f)
  | .mul c f => some (c, Machine.wordOf 0x1D f)
  | .cmp c f => some (c, Machine.wordOf 0x20 f)
  | .cmpi c f => some (c, Machine.wordOf 0x21 f)
  | .stRd c f => some (c, Machine.wordOf 0x24 f)
  | .stClr c f => some (c, Machine.wordOf 0x25 f)
  | .ldCfg c f => some (c, Machine.wordOf 0x30 f)
  | .stCfg c f => some (c, Machine.wordOf 0x31 f)
  | .rowLoad c f => some (c, Machine.wordOf 0x40 f)
  | .rowClaim c f => some (c, Machine.wordOf 0x41 f)
  | .rowRel c f => some (c, Machine.wordOf 0x42 f)
  | .rowWb c f => some (c, Machine.wordOf 0x43 f)
  | .rowLoc c f => some (c, Machine.wordOf 0x44 f)
  | .slotLdw c f => some (c, Machine.wordOf 0x45 f)
  | .slotStw c f => some (c, Machine.wordOf 0x46 f)
  | .rowCopy c f => some (c, Machine.wordOf 0x50 f)
  | .rowFill c f => some (c, Machine.wordOf 0x51 f)
  | .rowZero c f => some (c, Machine.wordOf 0x52 f)
  | .rowBit c f => some (c, Machine.wordOf 0x53 f)
  | .rowCmp c f => some (c, Machine.wordOf 0x54 f)
  | .rowPopc c f => some (c, Machine.wordOf 0x55 f)
  | .rowCrc c f => some (c, Machine.wordOf 0x56 f)
  | .rowFerry c f => some (c, Machine.wordOf 0x57 f)
  | .secRdraw c f => some (c, Machine.wordOf 0x60 f)
  | .secWrraw c f => some (c, Machine.wordOf 0x61 f)
  | .repRetire c f => some (c, Machine.wordOf 0x70 f)
  | .repRow c f => some (c, Machine.wordOf 0x71 f)
  | .repCol c f => some (c, Machine.wordOf 0x72 f)
  | .refRow c f => some (c, Machine.wordOf 0x73 f)
  | .extInit c f => some (c, Machine.wordOf 0x74 f)
  | .vpSpare c f => some (c, Machine.wordOf 0x78 f)
  | .vpChk c f _ => some (c, Machine.wordOf 0x79 f)
  | .vpPt c f => some (c, Machine.wordOf 0x7A f)
  | .statRes c f => some (c, Machine.wordOf 0x90 f)
  | .statAct c f => some (c, Machine.wordOf 0x91 f)
  | .tstWr c f => some (c, Machine.wordOf 0xA0 f)
  | .tstRd c f => some (c, Machine.wordOf 0xA1 f)
  | .firmwareInstruction c op f | .reservedOpcode c op f => some (c, Machine.wordOf op f)
  | _ => none

end Sys2Proof
end

