-- ==== Sys2Proof/Machine/Flags.lean ====
section
/-!
DEFINITION. ST, the status of an Exdun program (table Machine state): POISON_SEEN, CORR_SEEN, CFG_STATUS; the result word of
maintenance instructions (R322); the comparisons that write predicates (R304).
-/
namespace Sys2Proof.Machine

/-- ST after decodes that corrected or met poison (R285, R305, R313). -/
def State.seen (s : State) (c : Nat) (corr poison : Bool) : State :=
  s.modEng c fun e => { e with
    st := e.st ||| (if corr then 0x200#32 else 0) ||| (if poison then 0x100#32 else 0) }

/-- ST after a sector was decoded. -/
def State.seenOf (s : State) (c : Nat) (d : Decoded) : State := s.seen c d.corr d.poison

/-- ST.CFG_STATUS after a register access (R306). -/
def State.setCfgStatus (s : State) (c : Nat) (st : Status) : State :=
  s.modEng c fun e => { e with st := BitVec.ofNat 32 (putBits e.st.toNat 3 0 st.code) }

/-- st.clr: the bits of ST that IMM selects cleared (R305). -/
def stClear (st : Word) (imm : Nat) : Word :=
  let a := if bitOf imm 9 then putBits st.toNat 9 9 0 else st.toNat
  let b := if bitOf imm 8 then putBits a 8 8 0 else a
  BitVec.ofNat 32 (if bitOf imm 0 then putBits b 3 0 0 else b)

/-- The maintenance result word (R322). -/
def resultWord (st : Status) (reason value : Nat) : Word64 :=
  BitVec.ofNat 64 (value % 2 ^ 16 * 2 ^ 8 + reason * 2 ^ 4 + st.code)

/-- The comparison of a condition (R304). -/
def compareBy (cond : Nat) (x y : Word64) : Bool :=
  match cond with
  | 0 => x == y
  | 1 => x != y
  | 2 => x.ult y
  | 3 => !x.ult y
  | 4 => x.slt y
  | _ => !x.slt y

end Sys2Proof.Machine
end

