-- ==== Sys2Proof/Machine/Exdun.lean ====
section
/-!
DEFINITION. How an Exdun instruction issues, waits, completes or ends its program (R283, R286, R295, R298, R301), and what
the control, scalar and slot instructions do (R300 to R312).
-/
namespace Sys2Proof.Machine

/-! ### Issue and completion -/

/-- What an attempt of an instruction comes to: it completes, branches, waits with what it has done so far, raises an
exception, or the program has ended. -/
inductive Att where
  | done (s : State)
  | goto (s : State) (pc : Nat)
  | wait (s : State)
  | exc (code : Nat)
  | ended (s : State)
  deriving DecidableEq, Repr

/-- A check of the order of R295: the exception it raises, or what follows. -/
def Att.when (b : Bool) (code : Nat) (k : Att) : Att := if b then .exc code else k

/-- The check of a locator, or what follows. -/
def Att.loc (x : Option Nat) (k : Att) : Att :=
  match x with
  | some code => .exc code
  | none => k

/-- Instructions of the program (PROG_LEN). -/
def Eng.len (e : Eng) : Nat := e.store.length

/-- The instruction's waiting is over. -/
def State.calm (s : State) (c : Nat) : State :=
  s.modEng c fun e => { e with waiting := none, progress := 0, walk := none, wants := [], ledger := none, clearing := none }

/-- What an attempt makes of the state. An instruction at PROG_LEN - 1 that completes and is no taken branch ends the
program with PC (R301). A program that an instruction itself ended stays ended. -/
def State.settleAtt (s : State) (c : Nat) : Att → State
  | .done t =>
    if (t.eng c).phase ≠ .running then t
    else
      let t1 := t.calm c
      if (t1.eng c).len ≤ (t1.eng c).pc + 1 then t1.endProgram c 1 0x18
      else t1.modEng c fun e => { e with pc := e.pc + 1 }
  | .goto t pc => (t.calm c).modEng c fun e => { e with pc := pc }
  | .wait t =>
    if (t.eng c).phase ≠ .running then t
    else t.modEng c fun e => { e with waiting := some (e.waiting.getD t.now) }
  | .exc code => s.endProgram c 1 code
  | .ended t => t

/-- The engine runs, waits for nothing, and the word at PC is this one. -/
def State.atWord (s : State) (c : Nat) (op : BitVec 8) (f : Fields) : Bool :=
  let e := s.eng c
  e.phase == .running && e.waiting.isNone && e.store[e.pc]? == some (wordOf op f)

/-- The engine can issue the instruction: its store has no parity error. -/
def State.issuable (s : State) (c : Nat) (op : BitVec 8) (f : Fields) : Bool := s.atWord c op f && !(s.eng c).storeBad

/-- A parity error in the instruction store: the program ends with exception STORE_PARITY, and the store is read anew (R276,
R286). -/
def State.storeParity (s : State) (c : Nat) : State := (s.modEng c fun e => { e with storeValid := false }).endProgram c 1 0x19

/-- An instruction issued, when the engine can issue it. -/
def State.issue (s : State) (c : Nat) (op : BitVec 8) (f : Fields) (k : State → Att) : State :=
  if s.issuable c op f then
    let s1 := s.countCh c 0x10 1 none (some (s.eng c).desc.flow)
    s1.settleAtt c (k s1)
  else if s.atWord c op f then s.storeParity c
  else s

/-- The class of the program's queue permits maintenance instructions (R264). -/
def State.mayM (s : State) (c : Nat) : Bool := 6 ≤ (s.eng c).queue

/-- The program may run test instructions (R265). -/
def State.mayT (s : State) (c : Nat) : Bool := (s.eng c).desc.test

/-! ### Control -/

/-- nop. -/
def State.aNop (s : State) (_c : Nat) (f : Fields) : Att := .when (!f.only {}) 0x10 (.done s)

/-- halt. -/
def State.aHalt (s : State) (c : Nat) (f : Fields) : Att := .when (!f.only {}) 0x10 (.ended (s.endProgram c 0 0))

/-- br: the target is checked whether or not the branch is taken (R301). -/
def State.aBr (s : State) (c : Nat) (f : Fields) : Att :=
  let k := f.m
  .when (!f.only { a := true, m := true, i := true } || 2 < k || 4 ≤ f.a || (k == 0 && f.a != 0) || 2048 ≤ f.u) 0x10 <|
  .when (decide ((s.eng c).len ≤ f.u)) 0x18 <|
  let taken := match k with | 0 => true | 1 => s.pred c f.a | _ => !s.pred c f.a
  if taken then .goto s f.u else .done s

/-- wait: IMM ns of the time base from its issue (R302). -/
def State.aWait (s : State) (c : Nat) (f : Fields) : Att :=
  .when (!f.only { i := true }) 0x10 <|
  if f.u = 0 then .done s
  else match (s.eng c).waiting with
    | none => .wait (s.modEng c fun e => { e with progress := s.timeBase.toNat })
    | some _ => .done (s.advanceSince (s.eng c).progress f.u)

/-- time. -/
def State.aTime (s : State) (c : Nat) (f : Fields) : Att :=
  .when (!f.only { d := true }) 0x10 (.done (s.setG c f.d s.timeBase))

/-! ### Scalar and status -/

/-- An instruction gD, gA, gB with its operation. -/
def State.aGGG (s : State) (c : Nat) (f : Fields) (op : Word64 → Word64 → Word64) : Att :=
  .when (!f.only { d := true, a := true, b := true }) 0x10 (.done (s.setG c f.d (op (s.g c f.a) (s.g c f.b))))

/-- An instruction gD, gA. -/
def State.aGG (s : State) (c : Nat) (f : Fields) (op : Word64 → Word64) : Att :=
  .when (!f.only { d := true, a := true }) 0x10 (.done (s.setG c f.d (op (s.g c f.a))))

/-- li. -/
def State.aLi (s : State) (c : Nat) (f : Fields) : Att :=
  .when (!f.only { d := true, i := true }) 0x10 (.done (s.setG c f.d f.simm))

/-- lih: gD[63:32] = IMM. -/
def State.aLih (s : State) (c : Nat) (f : Fields) : Att :=
  .when (!f.only { d := true, i := true }) 0x10
    (.done (s.setG c f.d (f.imm ++ (s.g c f.d).setWidth 32)))

/-- addi. -/
def State.aAddi (s : State) (c : Nat) (f : Fields) : Att :=
  .when (!f.only { d := true, a := true, i := true }) 0x10 (.done (s.setG c f.d (s.g c f.a + f.simm)))

/-- shl and shr by IMM[5:0]. -/
def State.aShift (s : State) (c : Nat) (f : Fields) (op : Word64 → Nat → Word64) : Att :=
  .when (!f.only { d := true, a := true, i := true } || 64 ≤ f.u) 0x10 (.done (s.setG c f.d (op (s.g c f.a) f.u)))

/-- Trailing zero bits; 64 of zero. -/
def ctz64 (x : Word64) : Word64 :=
  BitVec.ofNat 64 (((List.range 64).find? fun k => x.getLsbD k).getD 64)

/-- One bits. -/
def popc64 (x : Word64) : Word64 := BitVec.ofNat 64 (popcount 64 x.toNat)

/-- cmp. -/
def State.aCmp (s : State) (c : Nat) (f : Fields) : Att :=
  .when (!f.only { d := true, a := true, b := true, m := true } || 4 ≤ f.d || 6 ≤ f.m) 0x10
    (.done (s.setPred c f.d (compareBy f.m (s.g c f.a) (s.g c f.b))))

/-- cmpi. -/
def State.aCmpi (s : State) (c : Nat) (f : Fields) : Att :=
  .when (!f.only { d := true, a := true, m := true, i := true } || 4 ≤ f.d || 6 ≤ f.m) 0x10
    (.done (s.setPred c f.d (compareBy f.m (s.g c f.a) f.simm)))

/-- st.rd. -/
def State.aStRd (s : State) (c : Nat) (f : Fields) : Att :=
  .when (!f.only { d := true }) 0x10 (.done (s.setG c f.d ((s.eng c).st.setWidth 64)))

/-- st.clr: IMM has bits 9, 8 and 0 only. -/
def State.aStClr (s : State) (c : Nat) (f : Fields) : Att :=
  .when (!f.only { i := true } || (f.imm &&& ~~~0x301#32) != 0) 0x10
    (.done (s.modEng c fun e => { e with st := stClear e.st f.u }))

/-! ### Zero-fill and slots -/

/-- An instruction issues that writes an addressable row or starts a zero-fill: ANY_WRITTEN rises (R27). -/
def State.writeIssued (s : State) (loc : Nat) : State :=
  if locClass loc = 0 then s.setFlag F.XPT_ADDR_MAP_ANY_WRITTEN true else s

/-- The attempt of an instruction that writes a row: it has issued unless it ends in an exception (R27). -/
def Att.andWrites (a : Att) (loc : Nat) : Att :=
  match a with
  | .done t => .done (t.writeIssued loc)
  | .wait t => .wait (t.writeIssued loc)
  | .goto .. | .exc _ | .ended _ => a

/-- The zero-fill of an extent started by an instruction, unless it runs (R27, R249, R282). -/
def State.startFill (s : State) (c e : Nat) : State :=
  let s1 := s.setFlag F.XPT_ADDR_MAP_ANY_WRITTEN true
  if (s.chan c).fills.any fun f => f.extent == e then s1
  else (s1.countCh c 0xE).modChan c fun x => { x with fills := x.fills ++ [⟨e, 0⟩] }

/-- The time at which the program's present instruction was issued. -/
def State.issuedAt (s : State) (c : Nat) : Nat := (s.eng c).waiting.getD s.now

/-- A vertical-path operation of the program of channel `c`, ranked with its flow from the issue of its instruction (R284). -/
def State.ownCycle (s : State) (c loc n units : Nat) : Turn :=
  s.progCycle c loc n units (newWant loc false (s.eng c).desc.flow (s.issuedAt c))

/-- A sector access of an instruction of the program of channel `c`, which never promotes its row (R320). -/
def State.ownAccess (s : State) (c loc n : Nat) (write : Bool) : Turn :=
  s.progAccess c loc n (s.eng c).desc.flow (s.issuedAt c) write false

/-- The zero-fill of an extent runs: what comes after its start waits (R245, R249). -/
def State.fillRuns (s : State) (loc : Nat) : Bool :=
  !s.written loc && (s.chan (locCh loc)).fills.any fun f => f.extent == locExtent loc

/-- A cycle that an attempt takes before it goes on, or a wait. -/
def Att.cycle (x : Turn) (k : State → Att) : Att :=
  match x with
  | .wait t => .wait t
  | .go t => k t

/-- What a row's slot comes to: the slot, or a wait with what was launched. -/
inductive Got where
  | slot (s : State) (i : Nat)
  | wait (s : State)
  deriving DecidableEq, Repr

/-- A cycle taken on the way to a slot; what it launches is waited for. -/
def Got.launch (x : Turn) (k : State → State) : Got :=
  match x with
  | .wait t => .wait t
  | .go t => .wait (k t)

/-- A victim slot for a row, ready to take it: EMPTY or CLEAN; a DIRTY victim's move-out is launched first (R231). -/
def State.freeVictim (s : State) (c : Nat) : Got :=
  match (s.chan c).victim with
  | none => .wait s
  | some i =>
    let v := s.slot c i
    if v.state = .dirty then
      if (s.chan c).slots.any fun e => e.2.state == .evicting then .wait s
      else Got.launch (s.ownCycle c v.loc 1 4) fun t => t.launchMoveOut c i .evicting
    else .slot s i

/-- The slot that holds a row for row.load: a resident one once its move has ended, a victim filled with the zero row for
an unwritten extent, or a victim with the move-in launched (R309); a zero-fill that runs is waited for (R249). -/
def State.obtain (s : State) (c loc : Nat) : Got :=
  if s.rowWaits loc true || s.fillRuns loc then .wait s
  else match s.findSlot loc with
    | some i => .slot (s.touch loc) i
    | none =>
      match s.freeVictim c with
      | .wait t => .wait t
      | .slot t i =>
        if !t.written loc then .slot (t.modChan c fun x => (x.forget loc).setSlot i ⟨.clean, loc, false, t.now, [], []⟩) i
        else if (t.chan c).closing (locCbi loc) then .wait t
        else Got.launch (t.ownCycle c loc 1 4) fun u => u.launchMoveIn c i loc (none, some (s.eng c).desc.flow)

/-- The checks of row.load and row.claim up to the pin table: ILLEGAL, the locator, CHANNEL, PIN_LIMIT. -/
def State.loadChecks (s : State) (c : Nat) (f : Fields) (reach : Nat) (offOk : Bool) (k : Nat → Att) : Att :=
  let v := s.g c f.a
  .when (!f.only { a := true, n := true }) 0x10 <|
  .loc (s.locFault c reach v false) <|
  .when (s.chanOut c && !offOk) 0x17 <|
  .when ((s.pinnedRow c v.toNat).isNone && (s.eng c).pinCount == 16) 0x13 (k v.toNat)

/-- The row is resident in a FENCED slot. -/
def State.fencedRow (s : State) (loc : Nat) : Bool :=
  match s.findSlot loc with
  | some i => (s.slot (locCh loc) i).state == .fenced
  | none => false

/-- row.load (R309). -/
def State.aRowLoad (s : State) (c : Nat) (f : Fields) : Att :=
  s.loadChecks c f (readReach (s.eng c).queue) (s.fencedRow (s.g c f.a).toNat) fun loc =>
  match s.pinnedRow c loc with
  | some k => .done (s.bindH c f.n k)
  | none =>
    let s1 := if s.chanOut c then s else s.useMap loc
    if (s1.eng c).phase ≠ .running then .ended s1
    else match s1.obtain c loc with
      | .wait t => .wait t
      | .slot t i => .done (t.pinSlot c f.n i)

/-- A slot whose row becomes 32 zero sectors (R310). -/
def Slot.claim (v : Slot) (now : Nat) : Slot := { v with state := .dirty, data := [], last := now }

/-- The claimed row in a slot: zeroed, pinned and bound. -/
def State.claimSlot (s : State) (c n loc i : Nat) : State :=
  let s1 := (s.storeHitRow loc).setSlot c i ((s.slot c i).claim s.now)
  match (s1.eng c).pinFind i with
  | some k => s1.bindH c n k
  | none => s1.pinSlot c n i

/-- row.claim (R310): no move-in; an unwritten extent is zero-filled first; a sector cycle to the row, or a move-out of its
slot, is waited for (R224, R228). -/
def State.aRowClaim (s : State) (c : Nat) (f : Fields) : Att :=
  s.loadChecks c f (writeReach (s.eng c).queue) false fun loc =>
  let s1 := s.useMap loc
  if (s1.eng c).phase ≠ .running then .ended s1
  else if !s1.written loc then .wait (s1.startFill c (locExtent loc))
  else if s1.rowWaits loc true || s1.rowInCycle loc then .wait s1
  else match s1.findSlot loc with
    | some i => if (s1.slot c i).state = .cleaning then .wait s1 else .done (s1.claimSlot c f.n loc i)
    | none =>
      match s1.freeVictim c with
      | .wait t => .wait t
      | .slot t i => .done (((t.requeueRow loc).modChan c fun x =>
          (x.forget loc).setSlot i ⟨.clean, loc, false, t.now, [], []⟩).claimSlot c f.n loc i)

/-- row.rel (R311). -/
def State.aRowRel (s : State) (c : Nat) (f : Fields) : Att :=
  .when (!f.only { i := true } || 256 ≤ f.u) 0x10 (.done (s.modEng c fun e => e.release f.u))

/-- The row of a handle has been retired since it was pinned: an access to it raises RETIRED (R281, R363). -/
def State.handleRetired (s : State) (c n : Nat) : Bool := s.rowRetired (s.hloc c n)

/-- row.wb (R311). -/
def State.aRowWb (s : State) (c : Nat) (f : Fields) : Att :=
  .when (!f.only { n := true }) 0x10 <|
  .when (s.hslot c f.n).isNone 0x12 <|
  .when (s.handleRetired c f.n && (s.eng c).progress == 0) 0x15 <|
  .when (s.chanOut c) 0x17 <|
  let i := (s.hslot c f.n).getD 0
  let v := s.slot c i
  if (s.eng c).progress = 1 then (if v.state = .cleaning then .wait s else .done s)
  else if v.state ≠ .dirty then .done s
  else if (s.chan c).held.contains i then .wait s
  else .cycle (s.ownCycle c v.loc 1 4) fun t =>
    .wait ((t.launchMoveOut c i .cleaning).modEng c fun e => { e with progress := 1 })

/-- row.loc. -/
def State.aRowLoc (s : State) (c : Nat) (f : Fields) : Att :=
  .when (!f.only { d := true, n := true }) 0x10 <|
  .when (s.hslot c f.n).isNone 0x12 (.done (s.setG c f.d (BitVec.ofNat 64 (s.hloc c f.n))))

/-- The sector that slot.ldw and slot.stw name: IMM[7:3], with gB[4:0] added when INDEXED (R312). -/
def State.wordSector (s : State) (c : Nat) (f : Fields) : Nat :=
  if bitOf f.m 1 then (f.u / 8 + (s.g c f.b).toNat) % 32 else f.u / 8 % 32

/-- Fields that slot.ldw and slot.stw do not allow (R312). -/
def wordBad (f : Fields) : Bool :=
  4 ≤ f.mod.toNat || 256 ≤ f.imm.toNat || (!bitOf f.mod.toNat 1 && f.src2 != 0) ||
    (bitOf f.mod.toNat 0 && f.imm.toNat % 8 != 0)

/-- Who decodes for a program: SOURCE 3 with the flow of its descriptor (R356). -/
def State.progFor (s : State) (c : Nat) : DecodeFor := ⟨3, 15, (s.eng c).desc.flow⟩

/-- Word `w` of a sector. -/
def sectorWord (d : Sector) (w : Nat) : Word64 := d.extractLsb' (64 * w) 64

/-- A sector with word `w` replaced. -/
def putWord (d : Sector) (w : Nat) (v : Word64) : Sector :=
  (d &&& ~~~((BitVec.allOnes 64).setWidth 512 <<< (64 * w))) ||| (v.setWidth 512 <<< (64 * w))

/-- slot.ldw (R312). -/
def State.aSlotLdw (s : State) (c : Nat) (f : Fields) : Att :=
  .when (!f.only { d := true, b := true, n := true, m := true, i := true } || wordBad f) 0x10 <|
  .when (s.hslot c f.n).isNone 0x12 <|
  .when (s.handleRetired c f.n) 0x15 <|
  .when (s.chanOut c && (s.slot c ((s.hslot c f.n).getD 0)).state != .fenced) 0x17 <|
  let x : Place3 := ⟨s.hloc c f.n, s.wordSector c f⟩
  let r := (s.touch x.loc).decodeStored x (s.progFor c)
  .done ((r.1.seenOf c r.2).setG c f.d
    (if bitOf f.m 0 then BitVec.ofNat 64 r.2.metaByte else sectorWord r.2.data (f.u % 8)))

/-- slot.stw (R312). -/
def State.aSlotStw (s : State) (c : Nat) (f : Fields) : Att :=
  .when (!f.only { a := true, b := true, n := true, m := true, i := true } || wordBad f) 0x10 <|
  .when (s.hslot c f.n).isNone 0x12 <|
  .when (s.handleRetired c f.n) 0x15 <|
  .when (!inReach (writeReach (s.eng c).queue) (s.hloc c f.n) false) 0x16 <|
  .when (s.chanOut c) 0x17 <|
  let x : Place3 := ⟨s.hloc c f.n, s.wordSector c f⟩
  let s1 := s.useMap x.loc
  if (s1.eng c).phase ≠ .running then .ended s1
  else if !s1.written x.loc then .wait (s1.startFill c (locExtent x.loc))
  else
    let r := s1.decodeStored x (s1.progFor c)
    let d := r.2
    let v := s.g c f.a
    let w := f.u % 8
    let code := if bitOf f.m 0 then
        encodeSector d.data (v.toNat % 16 + 128 * b2n (bitOf v.toNat 7 || d.poison))
      else encodeSector (putWord d.data w v) (if d.poison then putBits d.metaByte 7 7 1 else d.metaByte)
    let be : BitVec 64 := if bitOf f.m 0 then 0 else 0xFF#64 <<< (8 * w)
    .done (((r.1.seenOf c d).storeHit x be).setStored x code)

end Sys2Proof.Machine
end

