-- ==== Sys2Proof/Machine/RowOps.lean ====
section
/-!
DEFINITION. Row-wide instructions and row.ferry (R313 to R317), raw sector access (R318 to R321), statistics (R328) and the
test instructions (R329, R330).
-/
namespace Sys2Proof.Machine

/-! ### Row-wide instructions -/

/-- The sectors a mask selects. -/
def maskSectors (mask : Nat) : List Nat := below 32 (bitOf mask)

/-- Selected sectors of a row decoded in ascending order, with ST set by what they meet (R313). -/
def State.readRow (s : State) (c loc mask : Nat) : State × List Decoded :=
  (maskSectors mask).foldl (fun a j =>
    let r := a.1.decodeStored ⟨loc, j⟩ (a.1.progFor c)
    (r.1.seenOf c r.2, a.2 ++ [r.2])) (if mask = 0 then s else s.touch loc, [])

/-- Selected sectors of a row written, with the codewords listed in ascending sector order. -/
def State.writeRow (s : State) (loc mask : Nat) (codes : List Code) : State :=
  ((maskSectors mask).zip codes).foldl (fun t x =>
    (t.storeHit ⟨loc, x.1⟩ (BitVec.allOnes 64)).setStored ⟨loc, x.1⟩ x.2) s

/-- The checks of a row-wide instruction on its fields and handles: ILLEGAL, HANDLE, RETIRED, CHANNEL (R314, R363). -/
def State.rowChecks (s : State) (c : Nat) (bad : Bool) (hs : List Nat) (k : Att) : Att :=
  .when bad 0x10 <| .when (hs.any fun n => (s.hslot c n).isNone) 0x12 <| .when (hs.any (s.handleRetired c)) 0x15 <|
  .when (s.chanOut c) 0x17 k

/-- A row-wide write: RETIRED, AREA on the destination before CHANNEL, nothing for an empty mask, the map word of an addressable
destination used, the zero-fill of an unwritten extent first (R281, R282, R313, R347). -/
def State.rowDest (s : State) (c : Nat) (bad : Bool) (hs : List Nat) (dest mask : Nat) (k : State → Att) : Att :=
  .when bad 0x10 <| .when (hs.any fun n => (s.hslot c n).isNone) 0x12 <| .when (hs.any (s.handleRetired c)) 0x15 <|
  .when (!inReach (writeReach (s.eng c).queue) (s.hloc c dest) false) 0x16 <|
  .when (s.chanOut c) 0x17 <|
  if mask = 0 then .done s
  else
    let s1 := s.useMap (s.hloc c dest)
    if (s1.eng c).phase ≠ .running then .ended s1
    else if !s1.written (s.hloc c dest) then .wait (s1.startFill c (locExtent (s.hloc c dest)))
    else k s1

/-- row.copy. -/
def State.aRowCopy (s : State) (c : Nat) (f : Fields) : Att :=
  s.rowDest c (!f.only { a := true, n := true, i := true } || 8 ≤ f.a) [f.n, f.a] f.n f.u fun t =>
  let r := t.readRow c (t.hloc c f.a) f.u
  .done (r.1.writeRow (t.hloc c f.n) f.u (r.2.map fun d => encodeSector d.data d.metaByte))

/-- A sector of one word repeated eight times. -/
def repeatWord (v : Word64) : Sector :=
  (List.range 8).foldl (fun a k => a ||| (v.setWidth 512 <<< (64 * k))) 0

/-- row.fill. -/
def State.aRowFill (s : State) (c : Nat) (f : Fields) : Att :=
  s.rowDest c (!f.only { a := true, n := true, m := true, i := true } || 16 ≤ f.m) [f.n] f.n f.u fun t =>
  .done (t.writeRow (t.hloc c f.n) f.u
    ((maskSectors f.u).map fun _ => encodeSector (repeatWord (t.g c f.a)) f.m))

/-- row.zero. -/
def State.aRowZero (s : State) (c : Nat) (f : Fields) : Att :=
  s.rowDest c (!f.only { n := true, i := true }) [f.n] f.n f.u fun t =>
  .done (t.writeRow (t.hloc c f.n) f.u ((maskSectors f.u).map fun _ => zeroCode))

/-- The operation of row.bit (table Row-wide instructions). -/
def bitOp (k : Nat) (a b : Sector) : Sector :=
  match k with
  | 0 => a &&& b
  | 1 => a ||| b
  | 2 => a ^^^ b
  | 3 => a &&& ~~~b
  | _ => ~~~a

/-- A sector of row.bit: TAG from A, POISON from A or B. -/
def bitSector (k : Nat) (a : Decoded) (b : Option Decoded) : Code :=
  let poison := a.poison || (match b with | some x => x.poison | none => false)
  encodeSector (bitOp k a.data (match b with | some x => x.data | none => 0)) (a.metaByte % 16 + 128 * b2n poison)

/-- row.bit; NOT has one source. -/
def State.aRowBit (s : State) (c : Nat) (f : Fields) : Att :=
  let one := f.m == 4
  s.rowDest c (!f.only { a := true, b := true, n := true, m := true, i := true } || 8 ≤ f.a || 8 ≤ f.b || 4 < f.m ||
      (one && f.src2 != 0)) (if one then [f.n, f.a] else [f.n, f.a, f.b]) f.n f.u fun t =>
  let r := t.readRow c (t.hloc c f.a) f.u
  if one then .done (r.1.writeRow (t.hloc c f.n) f.u (r.2.map fun x => bitSector 4 x none))
  else
    let q := r.1.readRow c (t.hloc c f.b) f.u
    .done (q.1.writeRow (t.hloc c f.n) f.u (List.zipWith (fun x y => bitSector f.m x (some y)) r.2 q.2))

/-- The match mask of row.cmp (R315). -/
def matchMask (mask w : Nat) (ne : Bool) (key kmask : Word64) (ds : List Decoded) : Nat :=
  ((maskSectors mask).zip ds).foldl (fun a x =>
    if x.2.poison then a
    else if ((sectorWord x.2.data w ^^^ key) &&& kmask == 0) != ne then a + 2 ^ x.1 else a) 0

/-- row.cmp (R315). -/
def State.aRowCmp (s : State) (c : Nat) (f : Fields) : Att :=
  s.rowChecks c (!f.only { d := true, a := true, b := true, n := true, m := true, i := true } || 16 ≤ f.m) [f.n] <|
  let r := s.readRow c (s.hloc c f.n) f.u
  .done (r.1.setG c f.d (BitVec.ofNat 64 (matchMask f.u (f.m % 8) (bitOf f.m 3) (s.g c f.a) (s.g c f.b) r.2)))

/-- row.popc (R316). -/
def State.aRowPopc (s : State) (c : Nat) (f : Fields) : Att :=
  s.rowChecks c (!f.only { d := true, n := true, i := true }) [f.n] <|
  let r := s.readRow c (s.hloc c f.n) f.u
  .done (r.1.setG c f.d (BitVec.ofNat 64 (r.2.foldl (fun a d => a + popcount 512 d.data.toNat) 0)))

/-- row.crc: the CRC-32C register run on from gA[31:0] over the data bytes (R316). -/
def State.aRowCrc (s : State) (c : Nat) (f : Fields) : Att :=
  s.rowChecks c (!f.only { d := true, a := true, n := true, i := true }) [f.n] <|
  let r := s.readRow c (s.hloc c f.n) f.u
  .done (r.1.setG c f.d (BitVec.ofNat 64
    (r.2.foldl (fun a d => crcRun a (bytesLE 64 d.data.toNat)) ((s.g c f.a).toNat % 2 ^ 32))))

/-! ### row.ferry -/

/-- The whole row carried by a ferry written into a resident slot or launched towards the array (R317). -/
def State.ferryWrite (s : State) (c dst loc : Nat) (f : Fields) : Att :=
  let k := locCh loc
  let s1 := s.useMap loc
  if (s1.chan k).st ≠ .online then .done (s1.setG c dst (resultWord .unavailable 0 0))
  else if !s1.written loc then .wait (s1.startFill k (locExtent loc))
  else if s1.rowWaits loc true then .wait s1
  else
    let read (t : State) : State × List Code :=
      let r := t.readRow c (t.hloc c f.n) 0xFFFFFFFF
      (r.1, r.2.map fun d => encodeSector d.data d.metaByte)
    if (s1.findSlot loc).isSome then
      .done (((read s1).1.writeRow loc 0xFFFFFFFF (read s1).2).setG c dst (resultWord .ok 0 0))
    else .cycle (s1.ownCycle c loc 1 4) fun t =>
      let row := ((List.range 32).zip (read t).2).foldl (fun (d : Store Code) x => d.set (fun _ => zeroCode) x.1 x.2) []
      .wait ((((read t).1.activate loc 4).countCh k 7).modEng c fun e =>
        { e with ferry := some ⟨loc, row, dst⟩, progress := 2 })

/-- row.ferry (R317). It issues, crosses, and completes at the end of its wait. -/
def State.aRowFerry (s : State) (c : Nat) (f : Fields) : Att :=
  if (s.eng c).progress = 2 then
    let r := s.landFerry c
    .done (r.1.setG c f.d (resultWord (if r.2 then .ok else .internal) 0 0))
  else if (s.eng c).progress = 1 then s.ferryWrite c f.d (s.g c f.a).toNat f
  else
    let l := (s.g c f.a).toNat
    .when (!f.only { d := true, a := true, n := true }) 0x10 <|
    .when (s.hslot c f.n).isNone 0x12 <|
    .when (!locValid l) 0x14 <|
    .when (decide (locCh l = c)) 0x10 <|
    .when (s.rowRetired l || s.handleRetired c f.n) 0x15 <|
    .when (!inReach (writeReach (s.eng c).queue) l false) 0x16 <|
    .when ((s.chan (locCh l)).st != .online ||
      (s.chanOut c && (s.slot c ((s.hslot c f.n).getD 0)).state != .fenced)) 0x17 <|
    .wait ((s.writeIssued l).modEng c fun e => { e with progress := 1 })

/-! ### Raw sector access -/

/-- The image that g7 to g15 hold: its low 560 bits (R318). -/
def State.image (s : State) (c : Nat) : Code :=
  BitVec.ofNat 560 ((List.range 9).foldl (fun a k => a + (s.g c (7 + k)).toNat * 2 ^ (64 * k)) 0)

/-- An image put into g7 to g15; bits [575:560] become 0 (R318). -/
def State.putImage (s : State) (c : Nat) (w : Code) : State :=
  s.each 9 fun k t => t.setG c (7 + k) ((w >>> (64 * k)).setWidth 64)

/-- The checks of a raw instruction (R319); `offOk` says that it may go on while its channel is OFFLINE (R279). -/
def State.rawChecks (s : State) (c : Nat) (bad : Bool) (reach : Nat) (v : Word64) (offOk : Bool) (k : Nat → Att) : Att :=
  .when bad 0x10 <| .when (!s.mayM c) 0x11 <| .loc (s.locFault c reach v false) <|
  .when (s.chanOut c && !offOk) 0x17 (k v.toNat)

/-- sec.rdraw (R320). A program of an OFFLINE channel may read a FENCED slot (R279). -/
def State.aSecRdraw (s : State) (c : Nat) (f : Fields) : Att :=
  s.rawChecks c (!f.only { a := true, i := true } || 32 ≤ f.u) (readReach (s.eng c).queue) (s.g c f.a)
    (s.fencedRow (s.g c f.a).toNat) fun loc =>
  let s1 := if s.chanOut c then s else s.useMap loc
  let x : Place3 := ⟨loc, f.u⟩
  if (s1.eng c).phase ≠ .running then .ended s1
  else if s1.fillRuns loc then .wait s1
  else if !s1.written loc then .done (s1.putImage c zeroCode)
  else .cycle (s1.ownAccess c loc 1 false) fun t => .done (t.putImage c (t.stored x))

/-- The stored sector that sec.wrraw makes of the old one (R320). -/
def rawMerge (old image : Code) (m sel : Nat) : Code :=
  let low : Code := (BitVec.allOnes 520).setWidth 560
  let a := if bitOf m 0 then (image &&& low) ||| (old &&& ~~~low) else old
  let b := if bitOf m 1 then (image &&& ~~~low) ||| (a &&& low) else a
  if bitOf m 2 then
    (List.range 4).foldl (fun w i => if bitOf sel i then w ^^^ (0x3FF#560 <<< (520 + 10 * i)) else w) b
  else b

/-- Fields that sec.wrraw does not allow (R320). -/
def wrrawBad (m u : Nat) : Bool :=
  m == 0 || 8 ≤ m || (bitOf m 1 && bitOf m 2) || (bitOf m 2 && bitsOf u 11 8 == 0) ||
    (!bitOf m 2 && bitsOf u 11 8 != 0) || bitsOf u 7 5 != 0 || 4096 ≤ u

/-- sec.wrraw (R320). -/
def State.aSecWrraw (s : State) (c : Nat) (f : Fields) : Att :=
  s.rawChecks c (!f.only { a := true, m := true, i := true } || wrrawBad f.m f.u) (writeReach (s.eng c).queue)
    (s.g c f.a) false fun loc =>
  let s1 := s.useMap loc
  let x : Place3 := ⟨loc, f.u % 32⟩
  let put (t : State) : State :=
    (t.storeHit x (BitVec.allOnes 64)).setStored x (rawMerge (t.stored x) (t.image c) f.m (bitsOf f.u 11 8))
  if (s1.eng c).phase ≠ .running then .ended s1
  else if !s1.written loc then .wait (s1.startFill c (locExtent loc))
  else .cycle (s1.ownAccess c loc 2 true) fun t => .done (put t)

/-! ### Statistics -/

/-- stat.res (R328). -/
def State.aStatRes (s : State) (c : Nat) (f : Fields) : Att :=
  let v := s.g c f.a
  .when (!f.only { d := true, a := true }) 0x10 <|
  .loc (s.locFault c (readReach (s.eng c).queue) v false) <|
  let r := match s.findSlot v.toNat with
    | none => 0
    | some i => 1 + (s.slot c i).state.code * 2 + b2n ((s.chan c).pinned i) * 16 + b2n ((s.chan c).held.contains i) * 32 + i * 256
  .done (s.setG c f.d (BitVec.ofNat 64 r))

/-- The count a bank's tracker holds for a row (R328, R379). -/
def State.trackerCount (s : State) (loc : Nat) : Nat :=
  let t := (s.chan (locCh loc)).refresh.trackers.get (fun _ => []) (locCbi loc)
  ((t.find? fun e => e.row == some (physIndex (s.physRow loc))).map (·.count)).getD 0

/-- stat.act (R328). -/
def State.aStatAct (s : State) (c : Nat) (f : Fields) : Att :=
  let v := s.g c f.a
  .when (!f.only { d := true, a := true }) 0x10 <|
  .when (!s.mayM c) 0x11 <|
  .loc (s.locFault c (readReach (s.eng c).queue) v false) <|
  .done (s.setG c f.d (BitVec.ofNat 64 (s.trackerCount v.toNat % 2 ^ 16)))

/-! ### Test patterns -/

/-- The row is pinned by the program (R329). -/
def State.testPinned (s : State) (c : Nat) (v : Word64) : Bool := locCh v.toNat == c && (s.pinnedRow c v.toNat).isSome

/-- A test instruction: its checks, the row's slot emptied without write-back, its bank activated (R329). -/
def State.testRow (s : State) (c : Nat) (f : Fields) (x : Uses) (reach : Nat) (k : State → Nat → Att) : Att :=
  let v := s.g c f.a
  .when (!f.only x || 4 < f.m || (f.m != 4 && f.src2 != 0) || s.testPinned c v) 0x10 <|
  .when (!s.mayT c) 0x11 <|
  .loc (s.locFault c reach v true) <|
  .when (s.chanOut c) 0x17 <|
  let loc := v.toNat
  let moving := match s.findSlot loc with
    | some i => (match (s.slot c i).state with
      | .filling | .cleaning | .evicting => true
      | .empty | .clean | .dirty | .fenced => false)
    | none => false
  if moving || s.rowWaits loc true then .wait s
  else .cycle (s.ownCycle c loc 1 4) fun t =>
    let t1 := match t.findSlot loc with
      | some i => t.setSlot c i Slot.empty
      | none => t
    k (t1.activate loc 4) loc

/-- tst.wr (R329, R330). -/
def State.aTstWr (s : State) (c : Nat) (f : Fields) : Att :=
  (s.testRow c f { a := true, b := true, m := true } (writeReach (s.eng c).queue) fun t loc =>
    .done ((((patternRow f.m (s.g c f.b).toNat).zip (List.range 32)).foldl
      (fun u x => u.setArray ⟨loc, x.2⟩ x.1) ((t.storeHitRow loc).countCh c 7)))).andWrites (s.g c f.a).toNat

/-- What tst.rd reports of a row against a pattern: FAIL, the differing bits, the lowest one (R330). -/
def testReport (row want : List Code) : Nat :=
  let d := (List.zipWith (fun a b => (a ^^^ b).toNat) row want)
  let bits := d.foldl (fun a x => a + popcount 560 x) 0
  if bits = 0 then 0
  else
    let low := ((List.range 32).findSome? fun j =>
      ((List.range 560).find? fun k => bitOf (d.getD j 0) k).map fun k => 560 * j + k).getD 0
    2 ^ 63 + min bits 32767 * 2 ^ 48 + low

/-- tst.rd (R329, R330). -/
def State.aTstRd (s : State) (c : Nat) (f : Fields) : Att :=
  s.testRow c f { d := true, a := true, b := true, m := true } (readReach (s.eng c).queue) fun t loc =>
  .done (t.setG c f.d (BitVec.ofNat 64
    (testReport ((List.range 32).map fun j => t.arrayAt ⟨loc, j⟩) (patternRow f.m (s.g c f.b).toNat))))

end Sys2Proof.Machine
end

