-- ==== Sys2Proof/Machine/Maint.lean ====
section
/-!
DEFINITION. Maintenance and training instructions (R322 to R327): retirement, soft repair, targeted refresh, extents,
vertical-path steps; and the end of an instruction's wait (R298).
-/
namespace Sys2Proof.Machine

/-- The checks of a maintenance instruction on a row: ILLEGAL, CLASS, the locator, AREA where the instruction allows no
such class, CHANNEL (R323). -/
def State.maintChecks (s : State) (c : Nat) (bad : Bool) (v : Word64) (service : Bool) (k : Nat → Att) : Att :=
  .when bad 0x10 <| .when (!s.mayM c) 0x11 <| .loc (s.locFault c (readReach (s.eng c).queue) v false) <|
  .when (locClass v.toNat == 2 && !service) 0x16 <| .when (s.chanOut c) 0x17 (k v.toNat)

/-- A maintenance instruction completes with its result word. -/
def State.result (s : State) (c : Nat) (f : Fields) (st : Status) (reason value : Nat) : Att :=
  .done (s.setG c f.d (resultWord st reason value))

/-- What the end of a ledger write makes of an instruction that waits for it: OK, or INTERNAL with reason 0x6. -/
def State.ledgerEnd (s : State) (c : Nat) (f : Fields) (good bad : Nat) : Att :=
  match (s.eng c).ledger with
  | none => .wait s
  | some true => s.result c f .ok 0 good
  | some false => s.result c f .internal 6 bad

/-- The row's slot is in a move. -/
def State.moving (s : State) (loc : Nat) : Bool :=
  match s.findSlot loc with
  | some i => (match (s.slot (locCh loc) i).state with
    | .filling | .cleaning | .evicting => true
    | .empty | .clean | .dirty | .fenced => false)
  | none => false

/-- The engine's progress set. -/
def State.setProgress (s : State) (c n : Nat) : State := s.modEng c fun e => { e with progress := n }

/-- rep.retire (R324). The row's slot is emptied when the ledger write ends, so that a cancelled instruction has no effect
(R288). -/
def State.aRepRetire (s : State) (c : Nat) (f : Fields) : Att :=
  if (s.eng c).progress = 1 then s.ledgerEnd c f 0 0
  else s.maintChecks c (!f.only { d := true, a := true }) (s.g c f.a) false fun loc =>
    if s.mode = .safe then s.result c f .ignored 1 0
    else if s.ledgerFull then s.result c f .ignored 2 0
    else if s.rowPinned loc then s.result c f .ignored 3 0
    else if s.moving loc then .wait s
    else .wait ((s.ledgerQueue ⟨2, 1, loc, 0, .repRetire c loc⟩).setProgress c 1)

/-- ST after the sectors of a row were decoded for a move (R285). -/
def State.seenRow (s : State) (c loc : Nat) : State :=
  (List.range 32).foldl (fun t j =>
    t.seenOf c (decodeSector (s.fld (F.ECC_CFG_POLICY c)) (s.stored ⟨loc, j⟩))) s

/-- rep.row (R324). -/
def State.aRepRow (s : State) (c : Nat) (f : Fields) : Att :=
  if (s.eng c).progress ≠ 0 then s.ledgerEnd c f ((s.eng c).progress - 1) ((s.eng c).progress - 1)
  else s.maintChecks c (!f.only { d := true, a := true }) (s.g c f.a) true fun loc =>
    if s.mode = .safe then s.result c f .ignored 1 0
    else if !s.ledgerTakes 1 loc then s.result c f .ignored 2 0
    else match s.freeRow loc with
      | none => s.result c f .ignored 4 0
      | some k =>
        if s.moving loc || s.rowWaits loc true then .wait s
        else .cycle (s.ownCycle c loc (if (s.findSlot loc).isSome then 1 else 2) 4) fun t =>
          .wait ((((t.seenRow c loc).moveToSpare loc k (t.progFor c)).ledgerQueue
            ⟨1, 1, loc, k, .repRow c k⟩).setProgress c (1 + k))

/-! ### rep.col -/

/-- The physical row of a bank at a physical index (R371). -/
def physRowAt (loc i : Nat) : Nat :=
  let at_ (cls row : Nat) : Nat := mkLoc (locCh loc) (locLayer loc) (locBank loc) cls row
  if i < 16384 then at_ 0 i else if i < 16512 then at_ 1 (i - 16384) else at_ 2 (i - 16512)

/-- rep.col before and after its walk; its progress is 1 + the spare column once the column is switched (R325). -/
def State.aRepCol (s : State) (c : Nat) (f : Fields) : Att :=
  let p := (s.eng c).progress
  if p ≠ 0 then s.ledgerEnd c f (p - 1) (p - 1)
  else if (s.eng c).walk.isSome then .wait s
  else s.maintChecks c (!f.only { d := true, a := true, i := true } || 32 ≤ f.u) (s.g c f.a) true fun loc =>
    if s.mode = .safe then s.result c f .ignored 1 0
    else if !s.ledgerTakes 3 (targetOf (locCh loc) (locLayer loc) (locBank loc) f.u) then s.result c f .ignored 2 0
    else match s.freeCol (locGbi loc) with
      | none => s.result c f .ignored 4 0
      | some k => .wait (s.modEng c fun e => { e with walk := some ⟨locGbi loc, f.u, k, 0, s.now⟩ })

/-- The row that a physical row holds the content of, as it is addressed: for a spare row the one it stands for; none for a
row that a spare replaces and for a spare not in use (R12, R356). -/
def State.addressed (s : State) (row : Nat) : Option Nat :=
  if locClass row = 1 then s.repairs.rowOf row else if s.physRow row = row then some row else none

/-- The walk after the next row: the row moved through the scrub buffer, its sector `j` corrected and written to the spare
column as well; its two row activations are charged (R240, R325). What the decode finds is logged at the row as addressed (R356); the content
of a row that nobody addresses is logged nowhere (log entry 116). -/
def State.walkRow (s : State) (c row : Nat) (w : Walk) : State :=
  let d := decodeSector (s.fld (F.ECC_CFG_POLICY c)) (s.physAt (arrayKey row (s.physCol w.gbi w.sector)))
  let s0 := (s.activatePhys row 4).activatePhys row 4
  let s1 := match s.addressed row with
    | some loc => (s0.noteDecode ⟨loc, w.sector⟩ d (s.progFor c) 0).seenOf c d
    | none => s0
  (s1.setPhys (arrayKey row (32 + w.spare)) d.code).modEng c fun e =>
    { e with walk := some { w with rows := w.rows + 1, lastStep := s1.now } }

/-- The walk is over: the core die switches the column to the spare, which already holds it, and the ledger write is asked
for (R13, R325). -/
def State.walkEnd (s : State) (c loc : Nat) (w : Walk) : State :=
  ((((s.modEng c fun e => { e with walk := none }).spareForCol w.gbi w.sector w.spare).ledgerQueue
    ⟨3, 1, targetOf (locCh loc) (locLayer loc) (locBank loc) w.sector, w.spare, .repCol c w.spare⟩).setProgress c (1 + w.spare))

/-- REP_COL_WALK_STEP: at least 16 row-move periods after the last, the next row of the walk, when the scrub buffer, its
bank and the budget are free for it; after the last one the switch (R325). -/
def State.repColStep (s : State) (c : Nat) : State :=
  match (s.eng c).walk, (s.eng c).store[(s.eng c).pc]? with
  | some w, some v =>
    let loc := (s.g c (fieldsOf v).a).toNat
    let row := physRowAt loc w.rows
    let s0 := s.advanceTo (w.lastStep + 16 * s.period)
    if (s.chan c).scrub.buffer.isSome then s
    else match s0.ownCycle c row 2 4 with
      | .wait _ => s
      | .go t =>
        let s1 := t.walkRow c row w
        if w.rows + 1 < 16576 then s1 else s1.walkEnd c loc w
  | _, _ => s

/-! ### Refresh and extents -/

/-- ref.row (R323): its activations wait for the row's bank, and never for the budget (R238, R240). -/
def State.aRefRow (s : State) (c : Nat) (f : Fields) : Att :=
  s.maintChecks c (!f.only { d := true, a := true, m := true } || 2 ≤ f.m) (s.g c f.a) true fun loc =>
  let i := physIndex (s.physRow loc)
  if !s.bankOpen loc then .wait s
  else if f.m = 0 then (s.charge c (locLayer loc) 4).result c f .ok 0 1
  else (s.targetedRefresh c (locLayer loc) i false).result c f .ok 0 (neighbours i).length

/-- Slots of channel `c` that hold a row of an extent. -/
def State.extentSlots (s : State) (c e : Nat) : List Nat :=
  below 64 fun i =>
    let v := s.slot c i
    v.state != .empty && locClass v.loc == 0 && locExtent v.loc == e

/-- A sector cycle to the extent runs, or a row of it is in the scrub buffer: CLEAR cuts neither short (R326). -/
def State.extentInCycle (s : State) (c e : Nat) : Bool :=
  let inExt (loc : Nat) : Bool := locCh loc == c && locClass loc == 0 && locExtent loc == e
  (s.txns.any fun t => t.stage == .sector && (t.launched || t.merged.isSome) && s.txnIn c t && inExt (s.txnPlace t).loc) ||
    (match (s.chan c).scrub.buffer with | some loc => inExt loc | none => false)

/-- The earlier requests to an extent that becomes unwritten are taken up again (R232). -/
def State.requeueExtent (s : State) (c e : Nat) : State :=
  { s with txns := s.txns.map fun t =>
      if (t.waitsForRow || t.stage == .hit) && s.txnIn c t && locClass (s.txnPlace t).loc == 0 &&
        locExtent (s.txnPlace t).loc == e then { t with stage := .queued } else t }

/-- ext.init with CLEAR (R326). -/
def State.extClear (s : State) (c e : Nat) (f : Fields) : Att :=
  let l := s.extentSlots c e
  if (s.eng c).progress = 0 ∧ l.any (fun i => (s.chan c).pinned i) then s.result c f .ignored 3 0
  else if (l.any fun i => (match (s.slot c i).state with
      | .filling | .cleaning | .evicting => true
      | .empty | .clean | .dirty | .fenced => (s.chan c).held.contains i)) || s.extentInCycle c e ||
      ((s.chan c).fills.any fun x => x.extent == e) then
    .wait (s.modEng c fun x => { x with progress := 1, clearing := some (e, (x.clearing.map (·.2)).getD s.now) })
  else (((l.foldl (fun t i => t.setSlot c i Slot.empty) s).requeueExtent c e).markExtent c e false).result c f .ok 0
    l.length

/-- ext.init (R326). -/
def State.aExtInit (s : State) (c : Nat) (f : Fields) : Att :=
  s.maintChecks c (!f.only { d := true, a := true, m := true } || 2 ≤ f.m) (s.g c f.a) false fun loc =>
  let s1 := s.useMap loc
  let e := locExtent loc
  if (s1.eng c).phase ≠ .running then .ended s1
  else if f.m = 1 then s1.extClear c e f
  else if s1.written loc then s1.result c f .ok 0 (s1.eng c).progress
  else .wait ((s1.startFill c e).setProgress c 1)

/-! ### Vertical-path steps -/

/-- vp.spare (R327). VALUE is the group also where the step is IGNORED (log entry 75, DEDUCED). -/
def State.aVpSpare (s : State) (c : Nat) (f : Fields) : Att :=
  .when (!f.only { d := true, m := true, i := true } || 2 ≤ f.m || 8960 ≤ f.u) 0x10 <|
  .when (!s.mayM c) 0x11 <|
  let g := f.u / 64
  if f.m = 0 then
    (if (s.replaced c g).isSome then s.result c f .ignored 5 g
     else (s.spareForCond c f.u).result c f .ok 0 g)
  else if s.replaced c g ≠ some f.u then s.result c f .ignored 5 g
  else ((s.setSpare c g none).leaveSpare (condKey c g)).result c f .ok 0 g

/-- vp.chk: which conductors of the group saw an error is an input of the model (R327). -/
def State.aVpChk (s : State) (c : Nat) (f : Fields) (seen : Word64) : Att :=
  .when (!f.only { d := true, i := true } || 140 ≤ f.u % 256 || 1024 ≤ f.u) 0x10 <|
  .when (!s.mayM c) 0x11 (.done (s.setG c f.d seen))

/-- vp.pt (R327). -/
def State.aVpPt (s : State) (c : Nat) (f : Fields) : Att :=
  .when (!f.only { d := true, a := true, m := true, i := true } || 2 ≤ f.m || 8960 ≤ f.u) 0x10 <|
  .when (!s.mayM c) 0x11 <|
  let place := condPlace f.u f.m
  (s.modChan c fun x => { x with vpt := { x.vpt with
    codes := x.vpt.codes.set (fun _ => none) place (some ((s.g c f.a).toNat % 64)) } }).result c f .ok 0 (s.codeAt c place)

/-! ### Reserved and firmware opcodes -/

/-- An OPCODE that the table Opcode map lists, or a firmware one. -/
def opKnown (op : Nat) : Bool :=
  op ≤ 4 || (0x10 ≤ op && op ≤ 0x1D) || op == 0x20 || op == 0x21 || op == 0x24 || op == 0x25 || op == 0x30 || op == 0x31 ||
    (0x40 ≤ op && op ≤ 0x46) || (0x50 ≤ op && op ≤ 0x57) || op == 0x60 || op == 0x61 || (0x70 ≤ op && op ≤ 0x74) ||
    (0x78 ≤ op && op ≤ 0x7A) || op == 0x90 || op == 0x91 || op == 0xA0 || op == 0xA1 || 0xF0 ≤ op

/-- A reserved opcode: ILLEGAL (R299). A listed opcode is no instruction of this kind. -/
def State.reserved (s : State) (c : Nat) (op : BitVec 8) (f : Fields) : State :=
  if opKnown op.toNat then s else s.issue c op f fun _ => .exc 0x10

/-! ### The end of a wait -/

/-- An attempt of the instruction at PC, of those that can wait. -/
def State.retry (s : State) (c : Nat) (op : Nat) (f : Fields) : Att :=
  match op with
  | 0x03 => s.aWait c f
  | 0x40 => s.aRowLoad c f
  | 0x41 => s.aRowClaim c f
  | 0x43 => s.aRowWb c f
  | 0x46 => s.aSlotStw c f
  | 0x50 => s.aRowCopy c f
  | 0x51 => s.aRowFill c f
  | 0x52 => s.aRowZero c f
  | 0x53 => s.aRowBit c f
  | 0x57 => s.aRowFerry c f
  | 0x60 => s.aSecRdraw c f
  | 0x61 => s.aSecWrraw c f
  | 0x70 => s.aRepRetire c f
  | 0x71 => s.aRepRow c f
  | 0x72 => s.aRepCol c f
  | 0x73 => s.aRefRow c f
  | 0x74 => s.aExtInit c f
  | 0xA0 => s.aTstWr c f
  | 0xA1 => s.aTstRd c f
  | _ => .wait s

/-- The engine as its instruction is tried again: of what it waits for only its requests stand (R229). -/
def State.calmWants (s : State) (c : Nat) : State :=
  s.modEng c fun e => { e with wants := (e.wants.filter (·.request)).map fun w => { w with act := none, port := false } }

/-- INSTRUCTION_WAIT_END: the instruction that waits is attempted again, and completes when nothing holds it (R298). -/
def State.waitEnd (s : State) (c : Nat) : State :=
  let e := s.eng c
  match e.store[e.pc]? with
  | some w =>
    if e.phase = .running ∧ e.waiting.isSome then
      (s.calmWants c).settleAtt c ((s.calmWants c).retry c (opOf w).toNat (fieldsOf w)) else s
  | none => s

end Sys2Proof.Machine
end

