-- ==== Sys2Proof/Machine/Faults.lean ====
section
/-!
DEFINITION. The fault registers, injection, and the dump: its layout, its copies in the service region, the summary and the
window (R447, R449 to R458).
-/
namespace Sys2Proof.Machine

/-! ### Fault registers -/

/-- A write of FLT_STICKY: a bit clears unless its source is live (R447). -/
def State.wSticky (s : State) (r : Nat) (w : Word) : Res :=
  let a := adr .FLT_STICKY 0 r
  done (s.setReg a (s.reg a &&& ~~~(w &&& ~~~s.reg (adr .FLT_LIVE 0 r))))

/-- The sources of word `r` that are raised in the cycle of a clear, each with its UNIT bits: a bit that was 1 stays 1, so that
the first time stands (R446, R447). `before` is the state before the clear. -/
def State.raiseAgain (s before : State) (r : Nat) (again : List (Fin 32 × BitVec 32)) : State :=
  again.foldl (fun t x =>
    let n := 32 * r + x.1.val
    if !sourceListed n then t
    else
      let t1 := if before.flag (stickyFld n) then t.setFlag (stickyFld n) true else t
      if sourceIsCondition n then t1.raiseCond n x.2.toNat else t1.raise n x.2.toNat) s

/-- A write of FLT_PINEN: reserved bits read 0, the bits of FATAL-class sources read 1 (R444, R449). -/
def State.wPinen (s : State) (r : Nat) (w : Word) : Res :=
  let v := (List.range 32).foldl (fun a b =>
    let n := 32 * r + b
    if sourceListed n && (sourceClass n == .fatal || bitOf w.toNat b) then a + 2 ^ b else a) 0
  done (s.setReg (adr .FLT_PINEN 0 r) (BitVec.ofNat 32 v))

/-- A reaction that injection may take (R457). -/
def Reaction.injectable : Reaction → Bool
  | .throttle | .fence _ | .fatal => true
  | .none | .safe _ => false

/-- A write of FLT_INJ (R457). -/
def State.wFltInj (s : State) (p : Path) (w : Word) : Res :=
  let n := bitsOf w.toNat 23 16
  let bits := 2 ^ bitsOf w.toNat 4 0
  let r := sourceReaction n bits
  let react := bitOf w.toNat 30
  let s1 := s.plainWrite (pathNum p) .FLT_INJ 0 0 w
  if !bitOf w.toNat 31 then done s1
  else if !sourceListed n || (react && !r.injectable) then ignored s
  else if react && r == .fatal && !s.sessionOk p then s.deny p (adr .FLT_INJ) true
  else
    let s2 := ((s1.recordFault n bits).setFlag F.FLT_STS_INJ_VALID true).setFld F.FLT_STS_LAST_INJ n
    done (if react then s2.react n r true else s2)

/-- A write of FLT_DUMP_CFG (R458). -/
def State.wDumpCfg (s : State) (p : PathNum) (w : Word) : Res :=
  if bitsOf w.toNat 20 16 / 8 = bitsOf w.toNat 4 0 / 8 then ignored s else done (s.plainWrite p .FLT_DUMP_CFG 0 0 w)

/-! ### The dump -/

/-- A number put in its place in a sorted list. -/
def insertNat (x : Nat) : List Nat → List Nat
  | [] => [x]
  | y :: r => if x ≤ y then x :: y :: r else y :: insertNat x r

/-- Ascending order. -/
def sortNat (l : List Nat) : List Nat := l.foldl (fun a x => insertNat x a) []

/-- A register that no register image holds: a write-only one, the pop register, the source records, the dump window, the
flow contexts (R453). -/
def notDumped (r : Reg) : Bool :=
  r ∈ ([.EXD_QDB, .AUTH_ASSIGN, .LC_RESP, .OBS_TRC_MARK, .ECC_LOG_POP, .FLT_UNIT, .FLT_CNT, .FLT_FIRST_LO, .FLT_FIRST_HI,
    .FLT_DUMP_WIN, .FLOW_W0, .FLOW_W1, .FLOW_W2, .FLOW_W3] : List Reg)

/-- The addresses of the registers of a span, ascending. -/
def imageAddrs (channel : Bool) (c : Nat) : List Nat :=
  sortNat ((Reg.all.filter fun r => !notDumped r).flatMap fun r =>
    let n := r.place.count
    match r.place.span with
    | .glb => if channel then [] else (List.range n).map fun i => adr r 0 i
    | .mod => if channel then [] else (List.range 12).flatMap fun u => (List.range n).map fun i => adr r u i
    | .chan => if channel then (List.range n).map fun i => adr r c i else [])

/-- A register image: address and value of each register whose island serves it, ended by an all-ones address when it
does not fill its `n` entries (R453). -/
def State.image' (s : State) (h : Half) (addrs : List Nat) (n : Nat) : List Nat × Nat :=
  let l := addrs.filter fun a => !s.islandAbsent (islandOf h a)
  let e := (l.take n).flatMap fun a =>
    match regAt a with
    | some (r, u, i) => [a, (s.view (48 + halfNum h) h r u i).toNat]
    | none => [a, 0]
  let k := e.length / 2
  (if k < n then e ++ [0xFFFFFFFF, 0] ++ List.replicate (2 * (n - k - 1)) 0 else e, k)

/-- The words of the fault image: sticky, live and pin-enable words, and the records of all sources. -/
def State.faultImage (s : State) : List Nat :=
  ((List.range 8).map fun r => (s.reg (adr .FLT_STICKY 0 r)).toNat) ++
  ((List.range 8).map fun r => (s.reg (adr .FLT_LIVE 0 r)).toNat) ++
  ((List.range 8).map fun r => (s.reg (adr .FLT_PINEN 0 r)).toNat) ++ List.replicate 24 0

/-- The record of a source: UNIT, CNT, FIRST_LO, FIRST_HI. -/
def State.sourceRecord (s : State) (n : Nat) : List Nat :=
  [(s.reg (adr .FLT_UNIT 0 n)).toNat, (s.reg (adr .FLT_CNT 0 n)).toNat, (s.reg (adr .FLT_FIRST_LO 0 n)).toNat,
    (s.reg (adr .FLT_FIRST_HI 0 n)).toNat]

/-- Channel `c`'s section: its register image and its correction log; zeros when its island does not serve it. -/
def State.chanSection (s : State) (h : Half) (c : Nat) : List Nat :=
  if s.islandAbsent c then List.replicate 4096 0
  else
    let log := ((s.chan c).log.entries.take 256).flatMap fun e => e.map (·.toNat)
    (s.image' h (imageAddrs true c) 1024).1 ++ (log ++ List.replicate (2048 - log.length) 0)

/-- The trace buffer as it lies, position 0 first; a position never written reads 0 (R504). -/
def State.traceImage (s : State) : List Nat :=
  (List.range 16384).flatMap fun p =>
    let e := s.obs.trace.get (fun _ => []) p
    (List.range 4).map fun k => (e.getD k 0).toNat

/-- The body of a dump copy as words, from byte 64 on (table Dump body), with the entries of the global image. -/
def State.dumpBody (s : State) (h : Half) : List Nat × Nat :=
  let g := s.image' h (imageAddrs false 0) 8192
  (s.faultImage ++ ((List.range 256).flatMap s.sourceRecord) ++ List.replicate 960 0 ++ g.1 ++
    List.replicate 14336 0 ++ ((List.range 32).flatMap (s.chanSection h)) ++ s.traceImage, g.2)

/-- CRC-32C over words, least significant byte first. -/
def crcWords (l : List Nat) : Nat := crc32c (l.flatMap (bytesLE 4))

/-- The 16 words of a header before its body (table Dump header): KIND 0 copy A, 1 copy B, 2 summary. -/
def State.dumpHeader (s : State) (f : Fatal) (kind ch entries : Nat) (body : List Nat) : List Nat :=
  let w := s.fld F.FLT_DUMP_STS_WRITER
  let valid := (below 32 fun c => !s.islandAbsent c).foldl (fun a c => a + 2 ^ c) 0
  let straps := s.pins.stackId + 16 * b2n s.pins.mgrEn + 32 * b2n s.pins.mgrCapable
  let base := f.base.toNat
  let h := [0x5044594B, 0x00400001, if kind = 2 then 0x100 else 0xE0000,
    s.boot + s.fld F.FLT_STS_FATAL_SRC * 2 ^ 16 + (b2n f.injected * 128 + f.before.code) * 2 ^ 24,
    base % 2 ^ 32, base / 2 ^ 32, s.timeBase.toNat % 2 ^ 32, s.timeBase.toNat / 2 ^ 32,
    (s.reg (adr .GLB_ID)).toNat, (s.reg (adr .GLB_REV)).toNat,
    w * 128 + kind * 32 + ch + straps * 2 ^ 8 + (if kind = 2 then 1 else 7) * 2 ^ 16,
    if kind = 2 then 0 else valid, entries, 0, crcWords body]
  h ++ [crcWords h]

/-- The body of the fatal summary as words, bytes 64 to 255 (table Fatal summary). -/
def State.summaryBody (s : State) : List Nat :=
  let states := (List.range 32).map fun c =>
    (s.chan c).st.code + 8 * s.fld (F.CH_FENCE_STS_FENCED c) + 16 * s.fld (F.CH_FENCE_STS_LAYER_LOST c)
  (s.faultImage.take 16) ++ s.sourceRecord (s.fld F.FLT_STS_FATAL_SRC) ++
    ((List.range 16).map fun d => (s.reg (adr .THM_DIE 0 d)).toNat) ++
    ((List.range 8).map fun k => ofBytesLE ((states.drop (4 * k)).take 4)) ++
    [(s.reg (adr .THM_MAX)).toNat, (s.reg (adr .THM_TRIP)).toNat, (s.reg (adr .PWR_STS)).toNat, s.pollWord]

/-- The summary's 256 bytes. -/
def State.summaryBytes (s : State) (f : Fatal) : List Byte :=
  let b := s.summaryBody
  ((s.dumpHeader f 2 0 0 b ++ b).flatMap (bytesLE 4)).map (BitVec.ofNat 8)

/-- Bytes of a summary as a number. -/
def summaryField (l : List Byte) (lo n : Nat) : Nat := ofBytesLE (((l.drop lo).take n).map (·.toNat))

/-- BOOT, then TIME_FATAL: what makes a summary newer (R454). -/
def summaryAge (l : List Byte) : Nat := summaryField l 12 2 * 2 ^ 64 + summaryField l 16 8

/-- The newer valid summary. -/
def Collector.newest (x : Collector) : Option (List Byte) :=
  x.summaries.foldl (fun a l => match a with
    | none => some l
    | some b => if summaryAge b < summaryAge l then some l else some b) none

/-- The summary written to the slot that does not hold the newer one (R454). -/
def Collector.put (x : Collector) (l : List Byte) : Collector := { x with summaries := x.newest.toList ++ [l] }

/-- The channel that takes a copy: the configured one, else the lowest in a tier other than `other`'s, among those usable at
entry (R452). -/
def Fatal.copyChan (f : Fatal) (c other : Nat) : Option Nat :=
  if bitOf f.usable c then some c else (List.range 32).find? fun k => bitOf f.usable k && k / 8 != other / 8

/-- Words written as sectors of metadata 0 from offset `off` of a channel's service area. -/
def State.writeWords (s : State) (c off : Nat) (l : List Nat) : State :=
  s.each (ceilDiv l.length 16) fun k t =>
    let d : Nat := ofBytesLE (((l.drop (16 * k)).take 16).flatMap (bytesLE 4))
    t.setStored (serviceAt c (off + 64 * k)) (encodeSector (BitVec.ofNat 512 d) 0)

/-- A copy written in its channel and checked, or no usable channel (R452): the field's value and the channel. A copy that
fails its check raises DUMP_WRITE. -/
def State.writeCopy (s : State) (f : Fatal) (kind : Nat) (ch : Option Nat) (fail : Bool) : State × Nat × Nat :=
  match ch with
  | none => (s, 3, 0)
  | some c =>
    let b := s.dumpBody (if s.flag F.FLT_DUMP_STS_WRITER then .east else .west)
    let t := s.writeWords c 0xE00000 (s.dumpHeader f kind c b.2 b.1 ++ b.1)
    if fail then (t.recordFault 113 (2 ^ kind), 2, c) else (t, 1, c)

/-- Steps 4 and 5 of the table FATAL entry; `fails` names the copies that fail their check (bit 0 A, bit 1 B). After a
thermal trip no copy is written: the device is in self-refresh (R420). -/
def State.writeCopies (s : State) (f : Fatal) (fails : BitVec 2) : State :=
  let a := s.fld F.FLT_DUMP_CFG_CH_A
  let b := s.fld F.FLT_DUMP_CFG_CH_B
  let s1 := if s.fld F.FLT_STS_FATAL_SRC = 81 ∨ s.flag F.THM_TRIP_TRIPPED then s
    else
      let ca := f.copyChan a b
      let x := s.writeCopy f 0 ca (fails.getLsbD 0)
      let y := x.1.writeCopy f 1 (f.copyChan b (ca.getD a)) (fails.getLsbD 1)
      (((y.1.setFld F.FLT_DUMP_STS_COPY_A x.2.1).setFld F.FLT_DUMP_STS_CHA_USED x.2.2).setFld F.FLT_DUMP_STS_COPY_B
        y.2.1).setFld F.FLT_DUMP_STS_CHB_USED y.2.2
  ((s1.setFlag F.FLT_DUMP_STS_WRITING false).setFlag F.FLT_DUMP_STS_DONE true).setFld F.FLT_DUMP_STS_DUMP_MS
    (min 255 ((s.now - f.entered) / 1000000))

/-- MRAM_WRITE_END of the fatal summary: step 3 ends, then the copies are written (R451, R452, R454). -/
def State.fatalWriteEnd (s : State) (ok : Bool) (fails : BitVec 2) : State :=
  match s.coll.fatal with
  | none => s
  | some f =>
    if !f.writing then s
    else
      let b := s.summaryBytes f
      let s1 := { s with coll := { s.coll with fatal := some { f with writing := false, summary := b } } }
      let s2 := if ok then
          { s1 with coll := s1.coll.put b }.setFld F.FLT_DUMP_STS_SUMMARY 1
        else ((s1.recordFault 104 1).recordFault 113 4).setFld F.FLT_DUMP_STS_SUMMARY 2
      s2.writeCopies f fails

/-! ### The dump window -/

/-- A write of FLT_DUMP_CTL (R455). A summary has block 0 only; SEL 0b11 is out of range. -/
def State.wDumpCtl (s : State) (p : PathNum) (w : Word) : Res :=
  let sel := bitsOf w.toNat 25 24
  if sel = 3 ∨ (sel = 2 ∧ bitsOf w.toNat 11 0 ≠ 0) ∨ 3583 < bitsOf w.toNat 11 0 then ignored s
  else done ((s.plainWrite p .FLT_DUMP_CTL 0 0 w).setFlag F.FLT_DUMP_CTL_VALID false)

/-- The window filled with words and its STATUS set. -/
def State.setWindow (s : State) (st : Status) (l : List Nat) : State :=
  ((s.each 64 fun k t => t.setReg (adr .FLT_DUMP_WIN 0 k) (BitVec.ofNat 32 (l.getD k 0))).setFld
    F.FLT_DUMP_CTL_STATUS st.code).setFlag F.FLT_DUMP_CTL_VALID true

/-- FLT_DUMP_WINDOW_FILLED (R455). A window already filled is left. A copy that failed its check was written, and is shown. -/
def State.windowFilled (s : State) : State :=
  if s.flag F.FLT_DUMP_CTL_VALID then s
  else
    let sel := s.fld F.FLT_DUMP_CTL_SEL
    let block := s.fld F.FLT_DUMP_CTL_BLOCK
    if sel = 2 then
      match s.coll.newest with
      | none => s.setWindow .unavailable []
      | some b => s.setWindow .ok ((List.range 64).map fun k => summaryField b (4 * k) 4)
    else
      let code := if sel = 0 then s.fld F.FLT_DUMP_STS_COPY_A else s.fld F.FLT_DUMP_STS_COPY_B
      let c := if sel = 0 then s.fld F.FLT_DUMP_STS_CHA_USED else s.fld F.FLT_DUMP_STS_CHB_USED
      if (code ≠ 1 ∧ code ≠ 2) ∨ !s.copyUsable c then s.setWindow .unavailable []
      else
        let ds := (List.range 4).map fun k =>
          decodeSector (s.fld (F.ECC_CFG_POLICY c)) (s.stored (serviceAt c (0xE00000 + 256 * block + 64 * k)))
        s.setWindow (if ds.any (·.bad) then .poison else .ok)
          (ds.flatMap fun d => (List.range 16).map fun k => bitsOf d.data.toNat (32 * k + 31) (32 * k))

end Sys2Proof.Machine
end

