-- ==== Sys2Proof/Machine/Islands.lean ====
section
/-!
DEFINITION. The islands of the base die: clocks and REFCLK (R36 to R46), straits (R47 to R50), gating and island resets
(R51 to R54, R478), the rails and the dies' power-good (R55 to R59, R252).
-/
namespace Sys2Proof.Machine

/-! ### Clocks -/

/-- The islands whose clock source is the core PLL of a half: the half's own islands, and 53-56 while the mux selects
it (R36, R38). -/
def State.clockedBy (s : State) (h : Half) (i : Nat) : Bool :=
  if i < 36 ∨ (48 ≤ i ∧ i ≤ 51) then islandHalf i == h
  else 53 ≤ i && (if s.flag (F.GLB_ISL_STS_CLK_SRC i) then Half.east else Half.west) == h

/-- LOCKED of the islands that a half's core PLL clocks. -/
def State.setLocked (s : State) (h : Half) (b : Bool) : State :=
  s.each 57 fun i t => if s.clockedBy h i then t.setFlag (F.GLB_ISL_STS_LOCKED i) b else t

/-- The lock of a half's core PLL taken. -/
def State.setPll (s : State) (h : Half) (b : Bool) : State :=
  { s with pins := match h with
    | .west => { s.pins with lockWest := b }
    | .east => { s.pins with lockEast := b } }

/-- A half's core PLL takes or loses its lock, and with it the islands it clocks (R37, GLB_ISL_STS). -/
def State.lockPll (s : State) (h : Half) (b : Bool) : State := (s.setPll h b).setLocked h b

/-- The common clock mux: when the PLL it selects loses lock it switches to the other, whether or not that one is locked
at that moment (R38, log entry 73). -/
def State.switchMux (s : State) (h : Half) : State :=
  if s.clockedBy h 53 then
    { s with pins := { s.pins with muxEast := h == Half.west } }.each 57 fun i t =>
      if 53 ≤ i then (t.setFlag (F.GLB_ISL_STS_CLK_SRC i) (h == Half.west)).setFlag (F.GLB_ISL_STS_LOCKED i)
        (s.pllLocked (halfOther h)) else t
  else s

/-- CORE_PLL_LOCK_LOSS (R38). -/
def State.pllLoss (s : State) (h : Half) : State :=
  if s.clocked ∧ s.pllLocked h then (s.lockPll h false).switchMux h else s

/-- A half's islands and spines stop: its PLL's loss of lock is fatal (R39). -/
def State.stopHalf (s : State) (h : Half) : State :=
  if s.halfStopped h then s else { s with stopped := s.stopped + 2 ^ halfNum h }

/-- PLL_LOCK_TIMEOUT: the loss of lock has lasted more than 2 µs (R39). -/
def State.pllTimeout (s : State) (h : Half) : State :=
  if s.clocked ∧ !s.pllLocked h then (s.stopHalf h).raiseCond 0 (2 ^ halfNum h) else s

/-- The spines of a half run again: its dies that entered self-refresh on their own leave it (R46, R386, log entry 84). What a
thermal trip commanded into self-refresh stays there (R420). -/
def State.wakeHalf (s : State) (h : Half) : State :=
  if s.pins.thermtrip then s else
  (List.range 4).foldl (fun t k =>
    if halfOfChan (8 * k) = h then { t with ownSelf := putBits t.ownSelf (4 * k + 3) (4 * k) 0 }.wakeTier k else t) s

/-- CORE_PLL_RELOCK: the lock is back before 2 µs have passed; PLL_LOCK ends when both PLLs are locked. A half that has
stopped stays stopped (R39). The spines of the half run again, so its dies that entered self-refresh on their own leave it
(R46, R386, log entry 84). -/
def State.pllRelock (s : State) (h : Half) : State :=
  if s.clocked ∧ !s.pllLocked h ∧ !s.halfStopped h then
    let s1 := s.lockPll h true
    let s2 := if s1.pins.lockWest ∧ s1.pins.lockEast then s1.endCondition 0 else s1
    s2.wakeHalf h
  else s

/-- REFCLK_MEASURE: REFCLK_RANGE holds while the measured frequency lies outside 99.0 to 101.0 MHz (R40). -/
def State.refMeasure (s : State) (khz : Nat) : State :=
  if s.mode = .reset then s
  else if khz < 99000 ∨ 101000 < khz then s.raiseCond 2 0 else s.endCondition 2

/-- The time base begins to run free: FREE_RUN, DEGRADED, TIME_DEGRADED (R65). -/
def State.freeRun (s : State) : State :=
  ((s.setFlag F.GLB_TIME_CFG_FREE_RUN true).setFlag F.GLB_TIME_CFG_DEGRADED true).raiseCond 3 0

/-- REFCLK_ABSENT: the time base runs free (R65); in RESET it stands still and runs free from its start
(`State.rstNRise`). -/
def State.refAbsent (s : State) : State :=
  if s.pins.refclk then
    let s1 := { s with pins := { s.pins with refclk := false } }
    if s1.mode = .reset then s1 else s1.freeRun
  else s

/-- REFCLK_RETURN (R65). -/
def State.refReturn (s : State) : State :=
  if s.pins.refclk then s
  else (({ s with pins := { s.pins with refclk := true } }.setFlag F.GLB_TIME_CFG_FREE_RUN false).endCondition 3).endCondition 1

/-- REFCLK_LOSS_TIMEOUT: absent for more than 1 µs in a mode that needs it (R42). -/
def State.refTimeout (s : State) : State :=
  if !s.pins.refclk ∧ s.clocked then s.raiseCond 1 0 else s

/-! ### Straits -/

/-- The source and the destination island of strait `k` (table Strait classes). 0-23 module (into the fabric, out of
it), 24-87 channel (into the channel, out of it), 88-91 bridge (West to East, East to West), 92-155 vertical (into the
tier island, out of it), 156-269 control (into the island, out of it). -/
def straitEnds (k : Nat) : Nat × Nat :=
  let way (d src dst : Nat) : Nat × Nat := if d = 0 then (src, dst) else (dst, src)
  if k < 24 then
    let m := k / 2
    way (k % 2) (36 + m) (48 + halfNum (halfOfMod m))
  else if k < 88 then
    let c := (k - 24) / 2
    way (k % 2) (48 + halfNum (halfOfChan c)) c
  else if k < 92 then way ((k - 88) / 2) 48 49
  else if k < 156 then
    let c := (k - 92) / 2
    way (k % 2) c (32 + c / 8)
  else
    let i := (k - 156) / 2
    way (k % 2) (if 52 ≤ i then 52 else 50 + halfNum (islandHalf i)) i

/-- The class of a strait: module, channel, bridge, vertical, control (STRAIT_PARITY's UNIT bits). -/
def straitClass (k : Nat) : Nat := if k < 24 then 0 else if k < 88 then 1 else if k < 92 then 2 else if k < 156 then 3 else 4

/-- The depth of a strait (table Strait classes). -/
def straitDepth (k : Nat) : Nat := tbl [16, 8, 8, 4, 4] (straitClass k)

/-- The words of an entry of a strait: 240, 256, 1,600, 2,240 or 8 bytes (table Strait classes). -/
def straitWords (k : Nat) : Nat := tbl [60, 64, 400, 560, 2] (straitClass k)

/-- Strait `k`. -/
def State.strait (s : State) (k : Nat) : Strait := s.straits.get (fun _ => ⟨[], 0⟩) k

/-- The state with strait `k` replaced. -/
def State.setStrait (s : State) (k : Nat) (x : Strait) : State :=
  { s with straits := s.straits.set (fun _ => ⟨[], 0⟩) k x }

/-- A strait is closed: an island at an end is in reset (table Island reset sequence, step 2). -/
def State.straitClosed (s : State) (k : Nat) : Bool :=
  s.flag (F.GLB_ISL_STS_IN_RESET (straitEnds k).1) || s.flag (F.GLB_ISL_STS_IN_RESET (straitEnds k).2)

/-- Even parity of a word (R49). -/
def evenParity (w : Word) : Bool := popcount 32 w.toNat % 2 == 1

/-- STRAIT_ENTRY_WRITE: the source spends a credit and writes an entry (R47). -/
def State.straitWrite (s : State) (k : Nat) (words : List Word) (o : Owner) : State :=
  let x := s.strait k
  if s.straitClosed k ∨ straitDepth k ≤ x.used ∨ straitWords k < words.length then s
  else s.setStrait k ⟨x.entries ++ [⟨words, words.map evenParity, o, false⟩], x.used + 1⟩

/-- How an access on a path is answered. -/
def answerOf (p : Path) (tag : Nat) : Answer :=
  match p with
  | .sb m => .sideband m.val (tag % 256)
  | .ctl m _ => .ctl m.val tag
  | .eng _ _ => .engine
  | .fw _ => .direct

/-- A register access completes: the message of its path (R137, R173); an engine's instruction and a direct command have
their completion elsewhere. -/
def State.complete (s : State) (path addr : Nat) (write : Bool) (a : Answer) (st : Status) (data : Word) : State :=
  match a with
  | .sideband m seq => if (s.mod m).sbUp then s.emit (.regCpl m seq st data) else s
  | .ctl m tag =>
    if s.flag (F.UCI_STS_EXCLUDED m) then s
    else s.modMod m fun x => { x with ctlOut := x.ctlOut ++ [.cfgCpl m tag st data] }
  | .engine => s
  | .direct => s.emit (.access path addr write st data)

/-- The address of ld.cfg and st.cfg (R306). -/
def State.cfgAddr (s : State) (c : Nat) (f : Fields) : Nat :=
  (f.u + (if f.m = 1 then (s.g c f.a).toNat % 2 ^ 32 else 0)) % 2 ^ 32

/-- The engine of channel `c` runs a ld.cfg or a st.cfg of an address: its fields (R306). -/
def State.cfgAt (s : State) (c : Fin 32) (a : Nat) (write : Bool) : Option Fields :=
  match (s.eng c).store[(s.eng c).pc]? with
  | some w =>
    if (s.eng c).phase = .running ∧ opOf w = (if write then 0x31#8 else 0x30#8) ∧ s.cfgAddr c (fieldsOf w) = a then
      some (fieldsOf w)
    else none
  | none => none

/-- The access of a running ld.cfg or st.cfg completes with a status, and the instruction with it: a ld.cfg takes the data
read, 0 unless the status is OK (R92, R306). -/
def State.cfgEnd (s : State) (c : Fin 32) (f : Fields) (write : Bool) (st : Status) (data : Word) : State :=
  let s1 := { s with heldAccesses := s.heldAccesses.filter fun h => !(h.answer == Answer.engine && h.path == 16 + c.val) }
  let s2 := if write then s1 else s1.setG c f.d (if st = .ok then data.setWidth 64 else 0)
  s2.settleAtt c (.done (s2.setCfgStatus c st))

/-- A register access that a strait carried completes: an engine's ends its instruction, another is answered on its path
(R49, R53, R306). -/
def State.straitEnd (s : State) (p : Path) (a : Nat) (write : Bool) (tag : Nat) (st : Status) (data : Word) : State :=
  match p with
  | .eng c _ => (match s.cfgAt c a write with
    | some f => s.cfgEnd c f write st data
    | none => s)
  | .sb _ | .ctl _ _ | .fw _ => s.complete (pathNum p) a write (answerOf p tag) st data

/-- The request that a strait entry belongs to: one whose tag an exclusion freed, for an entry from before it (R161). -/
def State.straitTxn (s : State) (m tag : Nat) (mute : Bool) : Option Txn :=
  s.txns.find? fun t => t.m == m && t.tag == tag && !t.answered && t.orphan == mute

/-- What a lost entry's owner is answered (R49, R53). -/
def State.loseOwner (s : State) (e : StraitEntry) (st : Status) : State :=
  match e.owner with
  | .item => s
  | .access p a write tag => if e.mute then s else s.straitEnd p a.toNat write tag.toNat st 0
  | .txn m tag =>
    match s.straitTxn m.val tag.toNat e.mute with
    | some t => s.reply t (.ack st 0)
    | none => s

/-- The words of an entry as read, with a parity hit. -/
def hitWords (l : List Word) (hit : Option StraitHit) : List Word :=
  match hit with
  | none => l
  | some h => l.set h.word (l.getD h.word 0 ^^^ (1 <<< h.bit.val))

/-- STRAIT_ENTRY_READ: the oldest entry is read and its parity checked (R48, R49); a destination whose clock is stopped
reads nothing (R51). -/
def State.straitRead (s : State) (k : Nat) (hit : Option StraitHit) : State :=
  let x := s.strait k
  match x.entries with
  | [] => s
  | e :: rest =>
    if s.straitClosed k ∨ s.flag (F.GLB_ISL_STS_GATED (straitEnds k).2) then s
    else
      let s1 := s.setStrait k { x with entries := rest }
      if (hitWords e.words hit).map evenParity = e.parity then s1
      else (s1.raise 4 (2 ^ straitClass k)).loseOwner e .internal

/-- STRAIT_CREDIT_RETURN: the source regains the credit of an entry that has been read (R47, R48). -/
def State.straitCredit (s : State) (k : Nat) : State :=
  let x := s.strait k
  if x.entries.length < x.used then s.setStrait k { x with used := x.used - 1 } else s

/-- Straits with an end at an island. -/
def straitsAt (i : Nat) : List Nat := (List.range 270).filter fun k => (straitEnds k).1 == i || (straitEnds k).2 == i

/-- Every strait into an island is empty (R51). -/
def State.quietIn (s : State) (i : Nat) : Bool :=
  (straitsAt i).all fun k => (straitEnds k).2 != i || (s.strait k).entries.isEmpty

/-! ### Gating -/

/-- Channel `c` has work for its scheduler, Lagoon, engine or ECC (R51): a request, a transfer, a fill, a run, a program,
a record or an abort that waits, a row queued for scrubbing or moving to a spare, a counter that counts. -/
def State.chanWorks (s : State) (c : Nat) : Bool :=
  let x := s.chan c
  s.txns.any (fun t => s.txnIn c t) || x.eng.phase != .idle || !x.eng.records.isEmpty || !x.fills.isEmpty ||
    !x.eng.aborts.isEmpty || x.scrub.sparing.isSome || x.lagAct.isSome || x.vpt.run.isSome || !x.refresh.due.isEmpty || !x.scrub.queue.isEmpty || x.scrub.buffer.isSome ||
    (List.range 16).any (fun k => s.flag (F.CH_CNT_CFG_EN c k)) ||
    x.slots.any fun e => e.2.state == .filling || e.2.state == .cleaning || e.2.state == .evicting

/-- Module `m` has work: requests, messages that wait or are to be sent, or a link that is neither at rest nor out of use. -/
def State.modWorks (s : State) (m : Nat) : Bool :=
  let x := s.mod m
  s.txns.any (fun t => t.m == m) || !x.ingress.isEmpty || !x.egress.isEmpty || !x.ctlOut.isEmpty || x.lpbk.isSome ||
    (match x.stage with
     | .mbInit | .mbTrain | .locked | .capExchange | .retrain | .drain | .loopback | .trainError => true
     | .reset | .sbDetect | .sbUp | .active | .l1 | .excluded => false)

/-- Firmware, the MRAM and the fuses have something to finish. -/
def State.mramWorks (s : State) : Bool :=
  !s.mram.ledgerJobs.isEmpty || s.mram.ledgerAct.isSome || s.mram.fuseCancel.isSome || !s.mram.calWrite.isEmpty ||
    !s.mram.auditWait.isEmpty || s.mram.summaryWrite.isSome || s.mram.wearWrite.isSome ||
    (s.coll.fatal.map (·.writing)) == some true || s.life.pendingBits != 0

/-- Island `i` has work (R51): what the state holds that its clock would still carry on. -/
def State.islandWorks (s : State) (i : Nat) : Bool :=
  if i < 32 then s.chanWorks i
  else if i < 36 then (List.range 8).any fun j => s.chanWorks (8 * (i - 32) + j)
  else if i < 48 then s.modWorks (i - 36)
  else if i < 50 then
    (List.range 6).any (fun m => s.modWorks (6 * (i - 48) + m)) ||
      (List.range 16).any (fun j => s.txns.any fun t => s.txnIn (16 * (i - 48) + j) t) || s.qosFence.isSome
  else if i < 52 then
    s.mramWorks || s.calRun.isSome || s.dieReset.isSome || s.bringUp.isSome || s.auth.fwu.isSome || !s.heldAccesses.isEmpty
  else if i = 53 then s.mramWorks
  else if i = 55 then
    !s.obs.instants.isEmpty || !s.obs.tags.isEmpty || s.obs.exporting.isSome || s.flag F.OBS_TRC_STS_RUNNING ||
      (List.range 64).any fun k => s.flag (F.OBS_CNT_CFG_EN k)
  else i = 56 && (s.cwy.listening.isSome || !s.cwy.waiting.isEmpty)

/-- ISLAND_IDLE_GATE: an AUTO island without work stops its clock (R51). -/
def State.idleGate (s : State) (i : Nat) : State :=
  if s.mode ≠ .reset ∧ s.fld (F.GLB_ISL_CTL_GATE i) = 0 ∧ !s.flag (F.GLB_ISL_STS_IN_RESET i) ∧ s.quietIn i ∧
      !s.islandWorks i then
    s.setFlag (F.GLB_ISL_STS_GATED i) true
  else s

/-- ISLAND_WAKE (R51). -/
def State.islandWake (s : State) (i : Nat) : State := if s.quietIn i then s else s.wake i

/-! ### Island resets -/

/-- A channel is out of traffic: QUIESCED, OFFLINE or RETIRED. -/
def ChState.quiet : ChState → Bool
  | .quiesced | .offline | .retired => true
  | .online | .draining | .retraining => false

/-- A RESET_REQ is permitted (table Permitted gating and reset). -/
def State.resetPermitted (s : State) (p : Path) (i : Nat) : Bool :=
  if i < 32 then (s.chan i).st.quiet && (s.chan i).countSlots (fun v => v.state.isDirty) == 0
  else if i < 36 then (List.range 8).all fun j => (s.chan (8 * (i - 32) + j)).st.quiet
  else if i < 48 then s.flag (F.UCI_STS_EXCLUDED (i - 36))
  else if i < 50 then
    (List.range 6).all (fun m => s.flag (F.UCI_STS_EXCLUDED (6 * (i - 48) + m))) &&
      (List.range 16).all fun j => match (s.chan (16 * (i - 48) + j)).st with
        | .online | .draining => false
        | .quiesced | .retraining | .offline | .retired => true
  else if i < 52 then
    (match p with
     | .fw h => halfNum h != i - 50 && s.fld F.AUTH_STS_OWNER == halfNum h
     | .sb _ | .ctl _ _ | .eng _ _ => false)
  else 55 ≤ i

/-- FORCED_OFF is permitted (table Permitted gating and reset). -/
def State.offPermitted (s : State) (i : Nat) : Bool :=
  if i < 32 then (s.chan i).st == .retired
  else if i < 36 then (List.range 8).all fun j => match (s.chan (8 * (i - 32) + j)).st with
    | .offline | .retired => true
    | .online | .draining | .quiesced | .retraining => false
  else if i < 48 then s.flag (F.UCI_STS_EXCLUDED (i - 36))
  else 55 ≤ i

/-- Registers of a channel block whose fields firmware keeps a copy of: its configuration; counters, results and Exdun queues
are not among them (R478). -/
def restored : Reg → Bool
  | .LAG_CFG | .EXD_CFG | .ECC_CFG | .ECC_SCRUB_CFG | .ECC_EXT | .ECC_INJ_CTL | .REF_CFG | .VPT_PROBE | .CH_CNT_CFG => true
  | _ => false

/-- The word of a channel register as last written: its staged fields as they stand in the shadow, if one waits. -/
def State.lastWritten (s : State) (r : Reg) (a : Nat) : Word :=
  match s.shadows.get (fun _ => none) a with
  | some sh => BitVec.ofNat 32 (applyStaged r (s.reg a).toNat sh.word.toNat)
  | none => s.reg a

/-- The registers of channel `c` with an address each, of which firmware keeps copies. -/
def restoredRegs (c : Nat) : List (Reg × Nat) :=
  (Reg.all.filter restored).flatMap fun r => (List.range r.place.count).map fun i => (r, adr r c i)

/-- The copies firmware has of the fields of channel `c` (R478). -/
def State.copyFields (s : State) (c : Nat) : State :=
  let copies := (restoredRegs c).foldl
    (fun (m : Store Word) x => m.set (regReset s.part) x.2 (s.lastWritten x.1 x.2)) s.fieldCopies
  { s with fieldCopies := copies }

/-- A counter that a register's writable fields hold: it is neither saved nor restored (R120, R478). -/
def isCounter (r : Reg) : Bool :=
  r ∈ ([.UCI_LINK_CNT, .UCI_DROP_CNT, .XPT_TIMEOUT_CNT, .XPT_PERR, .FLOW_W3, .QOS_ADMIT_STS, .QOS_MISSES, .QOS_SHORT_CNT,
    .CH_BUDGET_STS, .EXD_CNT, .EXD_QCNT, .ECC_CORR_CNT, .ECC_UE_CNT, .ECC_SCRUB_STS, .ECC_LOG_STS, .REF_TRR_CNT,
    .CAL_COUNT, .THM_CNT, .CWY_STS, .OBS_TAG_STS, .OBS_CNT_LO, .OBS_CNT_HI, .CH_CNT_LO, .CH_CNT_HI] : List Reg)

/-- A register with its RW, MW, LCK and STG fields taken from a saved word: what step 4 of the table Retention entry and
firmware's copy of a channel block keep (R118, R478). -/
def savedFields (r : Reg) (old w : Nat) : Nat :=
  if isCounter r then old
  else r.fields.foldl (fun a f => match f.acc with
    | .rw | .mw | .lck | .stg => putBits a f.hi f.lo (bitsOf w f.hi f.lo)
    | .ro | .wo | .w1c | .otw => a) old

/-- Fields and registers of a channel block that an island reset leaves: the lost list (R53, R257). -/
def keptInReset (c a : Nat) : Bool :=
  match regAt a with
  | some (.LAG_LOST_CNT, u, _) | some (.LAG_LOST, u, _) => u == c
  | _ => false

/-- What an island reset makes of channel `c` (R53, R117, R280, R478): OFFLINE unless RETIRED, slots empty, requests
answered UNAVAILABLE, the engine and its queues at their start; map, trackers, log ring and lost list stay, so does what
lies on the core dies (lap positions, repairs), and LAYER_LOST and MAP_LOST clear only at RESET (R255, R347). -/
def State.resetChannel (s : State) (c : Nat) : State :=
  let x := s.chan c
  let s1 := (s.txns.filter fun t => s.txnIn c t && !t.answered).foldl (fun t y => t.reply y (.ack .unavailable 0)) s
  let s2 := ({ s1 with txns := s1.txns.filter fun t => !s1.txnIn c t }.copyFields c).abandonNative c
  let s3 := if x.st = .retired ∨ x.st = .offline then s2 else s2.setChState c .offline 0
  let lost := s3.flag (F.CH_FENCE_STS_LAYER_LOST c)
  let mapLost := s3.flag (F.ECC_EXT_STS_MAP_LOST c)
  let boot := s3.boot
  let s4 := ((s3.eraseRegs fun a => domChan c a && !keptInReset c a).setFlag (F.CH_FENCE_STS_LAYER_LOST c) lost).setFlag
    (F.ECC_EXT_STS_MAP_LOST c) mapLost
  let s5 := (s4.setReg (adr .ECC_LIFE_CORR c 0) (s4.mram.saved.get (regReset s4.part) (adr .ECC_LIFE_CORR c 0))).setReg
    (adr .ECC_LIFE_UE c 0) (s4.mram.saved.get (regReset s4.part) (adr .ECC_LIFE_UE c 0))
  let s6 := (s5.setFld (F.ECC_LIFE_UE_BOOT c) boot).setFld (F.ECC_EXT_STS_WRITTEN_CNT c) x.extents.length
  let hold := s6.popHold.erase fun k => k / 8 % 32 == c
  { s6 with popHold := hold }.modChan c fun y =>
    { y with slots := [], hist := [], histAt := s6.now, fills := [], lagAct := none, drainAt := none, held := [], stallAt := none,
             recovering := false, toRestore := true, scrub := { Chan.reset.scrub with lap := y.scrub.lap },
             vpt := ⟨[], [], y.vpt.spares, none, false, false, none⟩,
             eng := Eng.reset }

/-- What an island reset makes of a module (R53, R133): its registers but the exclusion, its sideband, its queues; a
session bound to its sideband ends (R489). -/
def State.resetModule (s : State) (m : Nat) : State :=
  let cause := s.fld (F.UCI_STS_EXCL_CAUSE m)
  let s1 := (((s.setStage m .reset).eraseRegs (domMod m)).setFlag (F.UCI_STS_EXCLUDED m) true).setFld
    (F.UCI_STS_EXCL_CAUSE m) cause
  let s2 := s1.setMod m Mod.reset
  if s2.life.session ≠ 0 ∧ s2.life.sessPath = m then s2.endSession 3 else s2

/-- What an island reset makes of a fabric: its copy of the mirrored blocks, the buckets and counts of its half, and the
shadows of the mirrored blocks, of which the model holds one for both copies (log entry 80); XPT_ADDR_MAP follows the
authoritative copy (R29, R53, R77, R101). The LOCK of XPT_PRIV_EN returns to 0 only at RESET (R82, log entry 81). -/
def State.resetFabric (s : State) (h : Half) : State :=
  let mine (k : Nat) : Bool := match h with
    | .west => isMirrored k
    | .east => isMirrored (k - eastOffset) && eastOffset ≤ k
  let odd (k : Nat) : Bool := k % 2 == halfNum h
  let lock := F.XPT_PRIV_EN_LOCK.inHalf h
  { s with regs := s.regs.erase fun k => mine k && k != 0x20040,
           shadows := s.shadows.erase isMirrored, flowShadows := [],
           guar := s.guar.erase odd, caps := s.caps.erase odd, demand := s.demand.erase odd,
           served := s.served.erase odd }.setFlag lock (s.flag lock)

/-- What an island reset makes of an island (R53). -/
def State.resetIsland (s : State) (i : Nat) : State :=
  if i < 32 then s.resetChannel i
  else if i < 36 then s
  else if i < 48 then s.resetModule (i - 36)
  else if i < 50 then s.resetFabric (if i = 48 then .west else .east)
  else if i = 50 then { s with auth := { s.auth with claimsW := 0 } }
  else if i = 51 then { s with auth := { s.auth with claimsE := 0 } }
  else if i = 55 then
    { s.eraseRegs (fun a => 0xC000 ≤ a && a < 0xD000) with
        obs := ⟨s.obs.events, [], [], [], [], none, none, s.obs.counted, none, [], 0, 0, 0⟩ }
  else if i = 56 then
    { s.eraseRegs (fun a => 0xA000 ≤ a && a < 0xB000) with cwy := { Cwy.reset with lastBeat := s.now } }
  else s

/-- Entries waiting at an island's straits discarded, counted, their owners answered UNAVAILABLE (R53). -/
def State.dropStraits (s : State) (i : Nat) : State :=
  (straitsAt i).foldl (fun t k =>
    let x := t.strait k
    let t1 := (t.setStrait k { x with entries := [] }).bump (F.GLB_ISL_STS_STRAIT_DROPS i) x.entries.length
    x.entries.foldl (fun u e => u.loseOwner e .unavailable) t1) s

/-- Steps 2 to 4 of the table Island reset sequence. -/
def State.startIslandReset (s : State) (i : Nat) : State :=
  { ((s.dropStraits i).resetIsland i).setFlag (F.GLB_ISL_STS_IN_RESET i) true with resetting := putBits s.resetting i i 1 }

/-- A write of GLB_ISL_CTLi: a GATE change, an island reset, or both (R52, R54). The write of an accepted RESET_REQ is
held until the reset has run (R53). -/
def State.wIslCtl (s : State) (p : Path) (i : Nat) (w : Word) (a : Answer) : Res :=
  let n := w.toNat
  let gate := bitsOf n 9 8
  let req := bitOf n 31
  if gate = 3 ∨ bitsOf n 7 0 = 0 ∨ (52 ≤ i ∧ i ≤ 54 ∧ gate ≠ 1) ∨ (gate = 2 ∧ !s.offPermitted i) ∨
      (req ∧ (s.flag (F.GLB_ISL_STS_IN_RESET i) ∨ !s.resetPermitted p i)) then ignored s
  else
    let s1 := s.plainWrite (pathNum p) .GLB_ISL_CTL 0 i w
    let s2 := if gate = 2 then s1.setFlag (F.GLB_ISL_STS_GATED i) true
      else if gate = 1 ∨ s.fld (F.GLB_ISL_CTL_GATE i) = 2 then s1.setFlag (F.GLB_ISL_STS_GATED i) false else s1
    if req then
      let s3 := s2.startIslandReset i
      ⟨{ s3 with heldAccesses := s3.heldAccesses ++ [⟨pathNum p, adr .GLB_ISL_CTL 0 i, true, a, i⟩] }, .ok, 0, true⟩
    else done s2

/-- Steps 5 and 6 for the island itself: its clock starts unless it is forced off, its straits have full credits,
IN_RESET ends and RESET_COUNT counts; a channel issues the ticks it owes (R375); a usable module's sideband is detected
anew (R53, R133, R134). -/
def State.leaveReset (s : State) (i : Nat) : State :=
  let s1 := (straitsAt i).foldl (fun t k => t.setStrait k ⟨[], 0⟩) { s with resetting := putBits s.resetting i i 0 }
  let s2 := (s1.setFlag (F.GLB_ISL_STS_IN_RESET i) false).bump (F.GLB_ISL_STS_RESET_COUNT i)
  let s3 := if s2.fld (F.GLB_ISL_CTL_GATE i) = 2 then s2 else s2.setFlag (F.GLB_ISL_STS_GATED i) false
  if i < 32 then s3.issueOwed i
  else if 36 ≤ i ∧ i < 48 ∧ bitOf s.part.usable (i - 36) then s3.setStage (i - 36) .sbDetect else s3

/-- ISLAND_RESET_RELEASE: steps 5 and 6 of the table Island reset sequence, for an island that a RESET_REQ resets. -/
def State.islandRelease (s : State) (i : Nat) : State :=
  if s.mode ≠ .reset ∧ s.flag (F.GLB_ISL_STS_IN_RESET i) ∧ bitOf s.resetting i then
    let s3 := s.leaveReset i
    let mine := s3.heldAccesses.filter fun h => h.island == i
    let s4 := mine.foldl (fun t h => t.complete h.path h.addr h.write h.answer .ok 0)
      { s3 with heldAccesses := s3.heldAccesses.filter fun h => h.island != i }
    s4.settlePrimary
  else s

/-- One register of a channel block with the fields that firmware keeps of it put back (R478). -/
def State.putFields (s t : State) (a : Nat) : State :=
  match regAt a with
  | some (r, _, _) =>
    t.setReg a (BitVec.ofNat 32 (savedFields r (t.reg a).toNat (s.fieldCopies.get (regReset s.part) a).toNat))
  | none => t

/-- The calibration of channel `c` loaded again after a reset of its island: both timing sets, and the spare conductors in
use, which the reset left (R387, R478). -/
def State.reloadCal (s : State) (c : Nat) : State :=
  (if (s.chan c).st = .retired then s
   else (s.setFlag (F.REF_TSETA_VALID c) true).setFlag (F.REF_TSETB_VALID c) true).setFld (F.VPT_STS_SPARES c)
    (s.chan c).vpt.spares.length

/-- CHANNEL_FIELDS_RESTORE: after a reset of the channel's island, firmware writes back the fields it keeps of the channel,
and loads its calibration: step 7 of the table Island reset sequence. Counters and results are not restored (R478). -/
def State.fieldsRestore (s : State) (c : Nat) : State :=
  if s.mode = .reset ∨ s.flag (F.GLB_ISL_STS_IN_RESET c) ∨ !(s.chan c).toRestore then s
  else ((restoredRegs c).foldl (fun t x => s.putFields t x.2) (s.modChan c fun x => { x with toRestore := false })).reloadCal c

/-! ### Rails -/

/-- The nominal voltage of a rail in mV (table Rails). -/
def railNominal (k : Nat) : Nat := tbl [750, 1200, 750, 750, 1050, 1800] k

/-- The limit window of a rail in mV (table Rails). -/
def railWindow (k : Nat) : Nat × Nat :=
  [(675, 825), (1080, 1320), (650, 900), (675, 825), (945, 1155), (1620, 1980)].getD k (0, 0)

/-- A sample is implausible (R57). -/
def railImplausible (k mv : Nat) (prev : Option Nat) : Bool :=
  mv * 2 < railNominal k || railNominal k * 3 < mv * 2 ||
    (match prev with
     | none => false
     | some v => railNominal k < 10 * (max mv v - min mv v))

/-- The state with a rail monitor replaced. -/
def State.setRail (s : State) (k : Nat) (x : Rail) : State := { s with rails := s.rails.set (fun _ => ⟨none, 0, 0, 0⟩) k x }

/-- No rail has three implausible samples in a row. -/
def State.railsPlausible (s : State) : Bool := (List.range 6).all fun k => (s.rail k).impl < 3

/-- A sample as its register shows it. -/
def State.railTaken (s : State) (k mv : Nat) (ok : Bool) : State :=
  ((s.setFlag (F.PWR_RAIL_MEAS_VALID k) true).setFlag (F.PWR_RAIL_MEAS_PLAUSIBLE k) ok).setFld (F.PWR_RAIL_MEAS_MV k) mv

/-- A monitor after a plausible sample: violations of the two limits are counted until a sample lies within both. -/
def State.railAfter (s : State) (k mv : Nat) : Rail :=
  let x := s.rail k
  if mv < s.fld (F.PWR_RAIL_LIM_LO_MV k) then ⟨some mv, x.below + 1, x.above, 0⟩
  else if s.fld (F.PWR_RAIL_LIM_HI_MV k) < mv then ⟨some mv, x.below, x.above + 1, 0⟩ else ⟨some mv, 0, 0, 0⟩

/-- RAIL_IMPLAUSIBLE ends when no rail has three implausible samples in a row. -/
def State.settleRails (s : State) : State :=
  if s.flag (liveFld 76) ∧ s.railsPlausible then s.endCondition 76 else s

/-- RAIL_SAMPLE (R56, R57). The always-on island samples rail 0, the thermal island the others. -/
def State.railSample (s : State) (k mv : Nat) : State :=
  if s.mode = .reset ∨ s.islandDown (if k = 0 then 52 else 54) then s else
  let x := s.rail k
  if railImplausible k mv x.prev then
    let s2 := (s.railTaken k mv false).setRail k { x with prev := some mv, impl := x.impl + 1 }
    if x.impl = 2 then s2.raiseCond 76 (2 ^ k) else s2
  else
    let y := s.railAfter k mv
    let s3 := ((s.railTaken k mv true).setRail k y).settleRails
    if mv < s.fld (F.PWR_RAIL_LIM_LO_MV k) then
      if 3 ≤ y.below + y.above then s3.raiseCond (64 + k) 0 else s3
    else if s.fld (F.PWR_RAIL_LIM_HI_MV k) < mv then
      if 3 ≤ y.below + y.above then s3.raiseCond (70 + k) 0 else s3
    else (s3.endCondition (64 + k)).endCondition (70 + k)

/-- A write of PWR_RAIL_LIMk (R58). -/
def State.wRailLim (s : State) (p : PathNum) (k : Nat) (w : Word) : Res :=
  let lo := bitsOf w.toNat 15 0
  let hi := bitsOf w.toNat 31 16
  let r := railWindow k
  if r.1 ≤ lo ∧ lo < hi ∧ hi ≤ r.2 then done (s.plainWrite p .PWR_RAIL_LIM 0 k w) else ignored s

/-! ### Power-good -/

/-- A bit of a field set or cleared. -/
def State.setFldBit (s : State) (f : Fld) (i : Nat) (b : Bool) : State := s.setFld f (putBits (s.fld f) i i (b2n b))

/-- DIE_PGOOD_TRIP: a die's detector trips on VDD_ARR, on VPP or on both; the channels that depend on it are fenced
(R59, R252). -/
def State.pgoodTrip (s : State) (d : Nat) (arr vpp : Bool) : State :=
  if s.mode = .reset ∨ !(arr || vpp) then s else
  let s1 := if arr then s.setFldBit F.PWR_DIE_PGOOD_ARR_OK d false else s
  let s2 := if vpp then s1.setFldBit F.PWR_DIE_PGOOD_VPP_OK d false else s1
  let was := bitOf (s.fld F.PWR_DIE_PGOOD_ARR_OK) d && bitOf (s.fld F.PWR_DIE_PGOOD_VPP_OK) d
  let s3 := s2.raiseCond 77 (2 ^ d)
  if was then s3.fenceDie d true else s3

/-- DIE_PGOOD_RESTORE: the die reports VDD_ARR, VPP or both good again; DIE_PGOOD ends when every die reports both
(R59). -/
def State.pgoodRestore (s : State) (d : Nat) (arr vpp : Bool) : State :=
  if s.mode = .reset ∨ !(arr || vpp) then s else
  let s0 := if arr then s.setFldBit F.PWR_DIE_PGOOD_ARR_OK d true else s
  let s1 := if vpp then s0.setFldBit F.PWR_DIE_PGOOD_VPP_OK d true else s0
  if s1.flag (liveFld 77) ∧ (List.range 16).all (fun k => s1.dieGood k) then s1.endCondition 77 else s1

end Sys2Proof.Machine
end

