-- ==== Sys2Proof/Machine/Authority.lean ====
section
/-!
DEFINITION. Authority within the device: heartbeats and the token (R459 to R463), the frames the Causeway sends and the
permits a stack asks for (R464, R467, R476), and the firmware update (R479).
-/
namespace Sys2Proof.Machine

/-! ### Frames and permits -/

/-- A frame as it goes on the ring: DST and SRC, TYPE, LEN, the payload, and the CRC of the bytes before it, low byte first
(table Causeway frame, R3, log entry 119). -/
def frameBytes (type dst src : Nat) (payload : List Nat) : List Nat :=
  let l := [dst * 16 + src, type, payload.length] ++ payload
  l ++ bytesLE 2 (crc16 l)

/-- A frame sent on the Causeway, and the payload kept as the last of its type (R464, R465, R467). -/
def State.sendFrame (s : State) (type dst : Nat) (payload : List Nat) : State :=
  { s with cwy := { s.cwy with sent := s.cwy.sent.set (fun _ => []) type payload } }.emit
    (.frame (frameBytes type dst s.pins.stackId payload))

/-- The stack is the manager of its package (R469). -/
def State.isManager (s : State) : Bool := s.flag F.CWY_STS_ROLE

/-- The package has a manager: this stack, or one it has heard. -/
def State.hasManager (s : State) : Bool := s.isManager || s.fld F.CWY_STS_MANAGER != 0xF

/-! ### The token -/

/-- AUTH_STS.CURRENT of a half (R460). -/
def State.beatCurrent (s : State) (h : Half) : Bool := bitOf (s.fld F.AUTH_STS_CURRENT) (halfNum h)

/-- Heartbeats in a row of a half that carried CLAIM 1; 0 says that the last carried CLAIM 0 (R460, R462). -/
def State.claimRun (s : State) : Half → Nat
  | .west => s.auth.claimsW
  | .east => s.auth.claimsE

/-- The run of a half written. -/
def State.setClaims (s : State) (h : Half) (n : Nat) : State :=
  { s with auth := match h with
    | .west => { s.auth with claimsW := n }
    | .east => { s.auth with claimsE := n } }

/-- The time of a half's heartbeat written. -/
def State.setBeat (s : State) (h : Half) (t : Option Nat) : State :=
  { s with auth := match h with
    | .west => { s.auth with beatW := t }
    | .east => { s.auth with beatE := t } }

/-- The time of a half's last heartbeat. -/
def State.beatAt (s : State) : Half → Option Nat
  | .west => s.auth.beatW
  | .east => s.auth.beatE

/-- CURRENT of a half set or cleared. -/
def State.setCurrent (s : State) (h : Half) (b : Bool) : State := s.setFldBit F.AUTH_STS_CURRENT (halfNum h) b

/-- The token moves to a half (R462): OWNER, AUTH_HANDOVER, HANDOVERS, AUTH_LAST_MOVE, POLL_SUMMARY.AUTH. The half that
loses it starts its run of claims anew. -/
def State.moveToken (s : State) (h : Half) : State :=
  let s1 := ((s.setFld F.AUTH_STS_OWNER (halfNum h)).setClaims (halfOther h) 0).raise 107 0
  let s2 := (s1.bump F.AUTH_STS_HANDOVERS).setReg (adr .AUTH_LAST_MOVE_LO) (s.timeBase.setWidth 32)
  ((s2.setReg (adr .AUTH_LAST_MOVE_HI) ((s.timeBase >>> 32).setWidth 32)).latch F.POLL_SUMMARY_AUTH).traceEv 9 1
    (halfNum h)

/-- What the arbiter does at a heartbeat (table Token arbitration, R462). -/
def State.arbitrate (s : State) : State :=
  let h := s.holder
  let o := halfOther h
  if s.beatCurrent h then
    if s.claimRun h = 0 then (if s.beatCurrent o ∧ 0 < s.claimRun o then s.moveToken o else s)
    else if s.beatCurrent o ∧ 3 ≤ s.claimRun o then (s.setFlag F.AUTH_STS_CONFLICT true).raiseCond 105 0
    else s
  else if s.beatCurrent o then s.moveToken o
  else s

/-! ### Firmware update -/

/-- The update that runs, put into a phase now. -/
def State.setFwu (s : State) (p : FwuPhase) : State :=
  match s.auth.fwu with
  | some f => { s with auth := { s.auth with fwu := some { f with phase := p, since := s.now } } }
  | none => s

/-- An update ends: STATE, RESULT, POLL_SUMMARY.DONE (R479). -/
def State.endFwu (s : State) (st result : Nat) : State :=
  { ((s.setFld F.AUTH_FWU_CTL_STATE st).setFld F.AUTH_FWU_CTL_RESULT result).latch F.POLL_SUMMARY_DONE with
      auth := { s.auth with fwu := none } }

/-- A restart of a half's management core: an island reset; the core presents CLAIM 0 (R463, R479). -/
def State.restartCore (s : State) (h : Half) : State := (s.setClaims h 0).startIslandReset (50 + halfNum h)

/-- Step 3 of the table Firmware update: the other half's core restarts. -/
def State.fwuRestart (s : State) : State := (s.restartCore (halfOther s.holder)).setFwu .firstBoot

/-- A permit reaches this stack: the test of the tier may start, or the update goes on with step 3 (R433, R479). -/
def State.takePermit (s : State) (kind tier : Nat) : State :=
  if kind = 0 then
    if s.flag F.CAL_TST_STS_RUNNING ∧ s.fld F.CAL_TST_STS_TIER = tier then
      (s.setFlag F.CAL_TST_STS_PERMIT_WAIT false).wakeTier tier
    else s
  else if kind = 1 then
    (match s.auth.fwu with
     | some f => if f.phase = .permit then s.fwuRestart else s
     | none => s)
  else s

/-- The permit that waits longest may be granted: tests up to TEST_CONC at once, one restart at a time (R476, R479). -/
def State.grantable (s : State) (p : Permit) : Bool :=
  let n := (s.cwy.granted.filter fun g => g.1.kind == p.kind).length
  if p.kind = 0 then n < s.fld F.CWY_CFG_TEST_CONC else n < 1

/-- The manager grants the first permit it can (R476). -/
def State.grantOne (s : State) : State :=
  match s.cwy.waiting.find? s.grantable with
  | none => s
  | some p =>
    let s1 := { s with cwy := { s.cwy with waiting := s.cwy.waiting.erase p, granted := s.cwy.granted ++ [(p, s.now)] } }
    if p.stack = s.pins.stackId then s1.takePermit p.kind p.tier else s1.sendFrame 5 p.stack [p.kind, p.tier]

/-- The manager grants what it can. -/
def State.grantAll (s : State) : State := s.each s.cwy.waiting.length fun _ t => t.grantOne

/-- PERMIT_DONE sent to the manager; a manager ends its own permit (R476). -/
def State.permitDone (s : State) (kind tier : Nat) : State :=
  if s.isManager then
    let l := s.cwy.granted.filter fun g => !(g.1.stack == s.pins.stackId && g.1.kind == kind)
    { s with cwy := { s.cwy with granted := l } }.grantAll
  else if s.hasManager then s.sendFrame 6 (s.fld F.CWY_STS_MANAGER) [kind, tier]
  else s

/-- A permit asked for: of the manager by PERMIT_REQ, or of this stack itself when it is the manager (R433, R479). -/
def State.askPermit (s0 : State) (kind tier : Nat) : State :=
  let s := { s0 with cwy := { s0.cwy with askedAt := s0.now } }
  if s.isManager then
    let p : Permit := ⟨s.pins.stackId, kind, tier⟩
    { s with cwy := { s.cwy with waiting := s.cwy.waiting ++ [p] } }.grantAll
  else s.sendFrame 4 (s.fld F.CWY_STS_MANAGER) [kind, tier]

/-- The bytes of the image that AUTH_FWU_SRC names, as the holder reads them in channel CH; none when the channel is OFFLINE or
RETIRED or a sector of it decodes uncorrectable (R479, step 1). -/
def State.imageBytes (s : State) (ch : Nat) : Option (List Nat) :=
  let off := 4096 * s.fld F.AUTH_FWU_SRC_OFFSET
  let l := (List.range (16 * s.fld F.AUTH_FWU_SRC_LEN)).map fun k =>
    decodeSector (s.fld (F.ECC_CFG_POLICY ch)) (s.stored (serviceAt ch (off + 64 * k)))
  if s.ringGone ch || l.any (·.bad) then none else some (l.flatMap fun d => bytesLE 64 d.data.toNat)

/-- The image's CRC-32C, the four bytes before its tag, is that of every byte before it (R479, log entry 119). -/
def imageCrcOk (l : List Nat) : Bool :=
  let n := l.length - 36
  36 ≤ l.length && ofBytesLE ((l.drop n).take 4) == crc32c (l.take n)

/-- The image's last 32 bytes are the HMAC-SHA-256 tag of every byte before them under the image key (R479, log entry 119). -/
def State.imageTagOk (s : State) (l : List Nat) : Bool :=
  let n := l.length - 32
  l.drop n == hmac256 (s.fuses.imageKey.map (·.toNat)) (l.take n)

/-- The RESULT of the checks of step 1: 1 CRC, 2 TAG, 0 when both pass (R479). -/
def State.imageResult (s : State) (ch : Nat) : Nat :=
  match s.imageBytes ch with
  | none => 1
  | some l => if !imageCrcOk l then 1 else if !s.imageTagOk l then 2 else 0

/-- A write of AUTH_FWU_CTL (R479): GO reads and checks the image, writes it to the slot not in force and goes on to the
restart of the other half's core, with a permit on a package with a manager. -/
def State.wFwuCtl (s : State) (p : PathNum) (w : Word) (x : ImageCheck) : Res :=
  let land := s.plainWrite p .AUTH_FWU_CTL 0 0 w
  if !bitOf w.toNat 31 then done land
  else if s.mode ≠ .active ∨ s.fld F.AUTH_FWU_CTL_STATE = 1 ∨
      hostAreaEnd < 4096 * s.fld F.AUTH_FWU_SRC_OFFSET + 1024 * s.fld F.AUTH_FWU_SRC_LEN then ignored s
  else
    let s1 := (land.setFld F.AUTH_FWU_CTL_STATE 1).setFld F.AUTH_FWU_CTL_RESULT 0
    let bad := s1.imageResult (bitsOf w.toNat 25 21)
    if bad ≠ 0 then done (s1.endFwu 3 bad)
    else if !x.mramOk then done (s1.endFwu 3 3)
    else
      let s2 := { s1 with
        auth := { s1.auth with fwu := some ⟨.permit, s1.now, x.major.toNat, x.minor.toNat⟩ }
        mram := { s1.mram with fwOther := some (x.major.toNat, x.minor.toNat) } }
      done (if s2.hasManager then s2.askPermit 1 0 else s2.fwuRestart)

/-- Step 6: the new slot is in force (R479). -/
def State.fwuFinish (s : State) (f : Fwu) : State :=
  let s1 := { s with mram := { s.mram with
    imageB := !s.mram.imageB, fwMajor := f.major, fwMinor := f.minor, fwOther := some (s.mram.fwMajor, s.mram.fwMinor) } }
  ((s1.setFld F.GLB_REV_FW_MAJOR f.major).setFld F.GLB_REV_FW_MINOR f.minor).endFwu 2 0

/-- What a heartbeat of a half does to an update that runs (table Firmware update): the restarted core is back; the token
has moved, so that the old holder's core restarts; that core is back. -/
def State.fwuStep (s : State) (h : Half) : State :=
  match s.auth.fwu with
  | none => s
  | some f =>
    match f.phase with
    | .permit => s
    | .firstBoot => if h = halfOther s.holder then s.setFwu .move else s
    | .move => s
    | .lastBoot => if h = halfOther s.holder then (s.permitDone 1 0).fwuFinish f else s

/-- The token has moved in step 4: step 5 restarts the old holder's core (R479). -/
def State.fwuMoved (s before : State) : State :=
  match s.auth.fwu with
  | none => s
  | some f => if f.phase = .move ∧ s.holder ≠ before.holder then (s.restartCore before.holder).setFwu .lastBoot else s

/-- The field that counts a half's heartbeats (R460). -/
def beatFld : Half → Fld
  | .west => F.AUTH_STS_HB_W
  | .east => F.AUTH_STS_HB_E

/-- A heartbeat of a half and its CLAIM taken note of (R460, R462). -/
def State.noteBeat (s : State) (h : Half) (claim : Bool) : State :=
  (((s.setFld (beatFld h) (s.fld (beatFld h) + 1)).setBeat h (some s.now)).setCurrent h true).setClaims h
    (if claim then s.claimRun h + 1 else 0)

/-- MGMT_HEARTBEAT (R460, R462): the half's epoch, its claim, then the arbiter. -/
def State.heartbeat (s : State) (h : Half) (claim : Bool) : State :=
  if !s.coreRuns h then s
  else
    let t := (s.noteBeat h claim).fwuStep h
    t.arbitrate.fwuMoved t

/-- HEARTBEAT_LAPSE: no heartbeat of a half for more than 10 ms, in DEEP RETENTION too, where the cores are off (R460). -/
def State.heartbeatLapse (s : State) (h : Half) : State :=
  match s.beatAt h with
  | some t =>
    if s.beatCurrent h ∧ s.mode ≠ .reset then
      (((s.advanceTo (t + 10000000)).setCurrent h false).setClaims h 0).raise 8 (2 ^ halfNum h)
    else s
  | none => s

/-- A write of AUTH_ASSIGN (R463). -/
def State.wAuthAssign (s : State) (w : Word) : Res :=
  if !bitOf w.toNat 31 then done s
  else
    let h : Half := if bitOf w.toNat 0 then .east else .west
    if !s.beatCurrent h then ignored s
    else
      let s1 := if s.holder = h then s else s.moveToken h
      if s1.flag (liveFld 105) then
        done (((s1.restartCore (halfOther h)).setFlag F.AUTH_STS_CONFLICT false).endCondition 105 |>.clearSafeCause 0)
      else done s1

/-- A global-state write by the half that does not hold the token is bounced (R461). -/
def State.bounce (s : State) (h : Half) : Res :=
  ignored (((s.raise 106 (2 ^ halfNum h)).bump F.AUTH_STS_BOUNCES).latch F.POLL_SUMMARY_AUTH)

/-- FWU_BOOT_TIMEOUT: the restarted core presents no heartbeat within 100 ms; it is restarted from the old image, and the
new slot is marked invalid (R479). -/
def State.fwuBootTimeout (s : State) : State :=
  match s.auth.fwu with
  | some f =>
    if f.phase = .firstBoot then
      let s1 := { s with mram := { s.mram with fwOther := none } }
      (((s1.advanceTo (f.since + 100000000)).restartCore (halfOther s1.holder)).endFwu 3 4).permitDone 1 0
    else s
  | none => s

end Sys2Proof.Machine
end

