-- ==== Sys2Proof/Machine/Causeway.lean ====
section
/-!
DEFINITION. The Causeway: frames received and forwarded (R464 to R468), managers and workers (R469 to R473), the package
budget (R474), time alignment (R475) and the manager's permits (R476).
-/
namespace Sys2Proof.Machine

/-- The Causeway island runs (R468). -/
def State.cwyRuns (s : State) : Bool := s.clocked && !s.islandDown 56

/-- A peer of the package. -/
def State.peer (s : State) (k : Nat) : Peer := s.cwy.peers.get (fun _ => Peer.none) k

/-- The state with a peer replaced. -/
def State.setPeer (s : State) (k : Nat) (x : Peer) : State :=
  { s with cwy := { s.cwy with peers := s.cwy.peers.set (fun _ => Peer.none) k x } }

/-- Bytes [lo, lo + n) of a payload as a number (R3). -/
def payloadAt (l : List Nat) (lo n : Nat) : Nat := ofBytesLE ((l.drop lo).take n)

/-- A frame discarded (R465). -/
def State.discardFrame (s : State) : State := if s.cwyRuns then s.bump F.CWY_STS_DISCARDS else s

/-- A frame passed on, its CRC computed anew (R467). -/
def State.forward (s : State) (type dst src : Nat) (l : List Nat) : State := s.emit (.frame (frameBytes type dst src l))

/-- What an island 56 that does not run makes of a frame: in DEEP RETENTION the repeater carries it on as it is (R468). -/
def State.repeatFrame (s : State) (type dst src : Nat) (l : List Nat) : State :=
  if s.mode = .deepRetention then s.forward type dst src l else s

/-- A frame whose length disagrees with its TYPE (R465); the repeater does not look at it (R468). -/
def State.badLength (s : State) (type dst src : Nat) (l : List Nat) : State :=
  if s.cwyRuns then s.discardFrame else s.repeatFrame type dst src l

/-! ### Who manages -/

/-- MGR_AMBIGUOUS: two managers, or two stacks with one STACK_ID (R471). What was heard before no longer counts. -/
def State.ambiguous (s : State) : State :=
  ({ s with cwy := { s.cwy with sole := 16, soleSince := s.now } }.raiseCond 108 0).latch F.POLL_SUMMARY_PKG

/-- MGR_AMBIGUOUS clears at a HEARTBEAT once HEARTBEATs of exactly one stack have been heard for 10 ms (R471). -/
def State.soleCheck (s : State) : State :=
  if s.flag (liveFld 108) ∧ s.cwy.sole < 16 ∧ s.cwy.soleSince + 10000000 ≤ s.now then
    ((s.endCondition 108).clearSafeCause 1).latch F.POLL_SUMMARY_PKG
  else s

/-- A HEARTBEAT of stack `k` heard. -/
def State.heardBeat (s : State) (k : Nat) : State :=
  (if s.cwy.sole = k then s else { s with cwy := { s.cwy with sole := k, soleSince := s.now } }).soleCheck

/-- The stack becomes a worker: PKG_SUMMARY and BUDGET_LOW are the manager's, and so are the permits (R471, R473). -/
def State.becomeWorker (s : State) : State :=
  let s1 := ((s.setFlag F.CWY_STS_ROLE false).setFlag F.CWY_STS_BUDGET_LOW false).setReg (adr .PKG_SUMMARY) 0
  { (s1.setFld F.CWY_STS_MANAGER 0xF).latch F.POLL_SUMMARY_PKG with
      cwy := { s1.cwy with waiting := [], granted := [], listening := none } }

/-- The stack becomes manager with an EPOCH (R469, R470). -/
def State.becomeManager (s : State) (epoch : Nat) : State :=
  let s1 := (s.setFlag F.CWY_STS_ROLE true).setFld F.CWY_STS_MANAGER s.pins.stackId
  { (s1.setFld F.CWY_MGR_STS_EPOCH epoch).latch F.POLL_SUMMARY_PKG with
      cwy := { s1.cwy with epoch := epoch, listening := none, slew := 0, slewAcc := 0 } }

/-- A takeover recorded: MGR_TAKEOVER, CWY_MGR_STS, POLL_SUMMARY.PKG (R470). -/
def State.noteTakeover (s : State) (old new : Nat) : State :=
  ((((s.setFld F.CWY_MGR_STS_OLD old).setFld F.CWY_MGR_STS_NEW new).bump F.CWY_MGR_STS_TAKEOVERS |>.raise 109 0).latch
    F.POLL_SUMMARY_PKG).traceEv 9 2 new

/-! ### Frames on the ring -/

/-- A HEARTBEAT's payload without CORR, which the stacks it passes change. -/
def beatKey (type : Nat) (l : List Nat) : List Nat := if type = 1 then l.take 12 ++ l.drop 16 else l

/-- A frame with this stack's SRC is one it sent: it agrees with the last it sent of its type. -/
def State.sentIt (s : State) (type : Nat) (l : List Nat) : Bool :=
  let m := s.cwy.sent.get (fun _ => []) type
  !m.isEmpty && beatKey type m == beatKey type l

/-- A HEARTBEAT as passed on: CORR gains the residence time, at most 80 ns and otherwise free, and WIRE_Q (R465,
R467). -/
def State.forwardBeat (s : State) (dst src : Nat) (l : List Nat) : State :=
  let corr := payloadAt l 12 4 + Config.freeNat s.free % 321 + s.fld F.CWY_CFG_WIRE_Q
  s.useFree.forward 1 dst src (l.take 12 ++ bytesLE 4 (corr % 2 ^ 32) ++ l.drop 16)

/-- What becomes of a frame received (R465, R471): its own is removed, a foreign one with its SRC is ambiguous; a frame
for this stack is taken, a broadcast taken and passed on, any other passed on. -/
def State.frameIn (s : State) (type dst src : Nat) (l : List Nat) (take : State → State) : State :=
  let pass (t : State) : State := if type = 1 then t.forwardBeat dst src l else t.forward type dst src l
  if !s.cwyRuns then s.repeatFrame type dst src l
  else if src = s.pins.stackId then
    if s.sentIt type l then (if type = 1 then s.heardBeat src else s) else s.ambiguous
  else if dst = 0xF then pass (take s)
  else if dst = s.pins.stackId then take s
  else pass s

/-! ### Time alignment -/

/-- A worker's time base against the manager's at a HEARTBEAT (R475), in units of 0.25 ns; SYNC_ERR takes whole
nanoseconds, rounded down. -/
def State.align (s : State) (l : List Nat) : State :=
  let e4 : Int := 4 * (s.timeBase.toNat : Int) - (4 * payloadAt l 4 8 + payloadAt l 12 4 + s.fld F.CWY_CFG_WIRE_Q : Nat)
  let e := e4 / 4
  let s1 := (s.setFld F.CWY_STS_SYNC_ERR (ofSigned 16 (max (-32768) (min 32767 e)))).setFlag F.CWY_STS_OUT_OF_SYNC
    (decide (80 < e4.natAbs))
  if e4 < -4000 then
    { s1 with timeBase := s1.timeBase + BitVec.ofInt 64 (-e), cwy := { s1.cwy with slew := 0 } }
  else
    let d : Int := if 8 < e4 then -((e4 - 5) / 4) else if e4 < -8 then (-e4 - 5) / 4 else 0
    { s1 with cwy := { s1.cwy with slew := d } }

/-! ### Frames received -/

/-- A HEARTBEAT taken by a worker: its manager, EPOCH, share and time (R467, R471, R475). -/
def State.workerBeat (s : State) (src : Nat) (l : List Nat) : State :=
  let s1 := (s.setFld F.CWY_STS_MANAGER src).setFld F.CWY_MGR_STS_EPOCH (payloadAt l 0 4)
  let s2 := { s1 with cwy := { s1.cwy with epoch := payloadAt l 0 4, lastBeat := s1.now, listening := none } }
  (s2.setShare (payloadAt l (16 + 2 * s.pins.stackId) 2)).align l

/-- A HEARTBEAT of another stack taken (R469, R471). -/
def State.takeBeat (s : State) (src : Nat) (l : List Nat) : State :=
  let s1 := s.heardBeat src
  if s1.isManager then
    if s1.cwy.epoch < payloadAt l 0 4 then s1.becomeWorker.workerBeat src l
    else if s1.cwy.epoch = payloadAt l 0 4 then s1.ambiguous
    else s1
  else s1.workerBeat src l

/-- CWY_HEARTBEAT: a payload of another length is discarded. -/
def State.cwyHeartbeat (s : State) (src : Nat) (l : List Nat) : State :=
  if l.length ≠ 48 then s.badLength 1 0xF src l else s.frameIn 1 0xF src l fun t => t.takeBeat src l

/-- An ATTN bit set; PKG_SEQ counts when it rises (R473). -/
def State.setAttn (s : State) (k : Nat) : State :=
  if !s.isManager ∨ bitOf (s.fld F.PKG_SUMMARY_ATTN) k then s
  else (s.setFldBit F.PKG_SUMMARY_ATTN k true).setFld F.PKG_SUMMARY_PKG_SEQ (s.fld F.PKG_SUMMARY_PKG_SEQ + 1)

/-- A STATUS taken (R467, R472 to R474). -/
def State.takeStatus (s : State) (src : Nat) (l : List Nat) : State :=
  let x := s.peer src
  let poll := payloadAt l 0 4
  let here := bitOf (s.fld F.CWY_PRESENT_PRESENT) src
  let s1 := s.setPeer src ⟨true, s.now, payloadAt l 4 2, payloadAt l 6 2, poll / 65536⟩
  let s2 := ((s1.setReg (adr .CWY_STACK 0 src) (BitVec.ofNat 32 poll)).setFldBit F.CWY_PRESENT_PRESENT src true).setFldBit
    F.CWY_PRESENT_CAPABLE src (bitOf (payloadAt l 10 1) 0)
  let s3 := if here then s2 else s2.latch F.POLL_SUMMARY_PKG
  if !here ∨ (x.known ∧ x.seq ≠ poll / 65536) then s3.setAttn src else s3

/-- CWY_STATUS. -/
def State.cwyStatus (s : State) (src : Nat) (l : List Nat) : State :=
  if l.length ≠ 12 then s.badLength 2 0xF src l else s.frameIn 2 0xF src l fun t => t.takeStatus src l

/-- An ANNOUNCE taken (R470, R471). -/
def State.takeAnnounce (s : State) (src : Nat) (epoch : Nat) : State :=
  let old := s.fld F.CWY_STS_MANAGER
  let s1 := { s.noteTakeover old src with cwy := { s.cwy with lastBeat := s.now } }
  let follow (t : State) : State :=
    { (t.setFld F.CWY_STS_MANAGER src).setFld F.CWY_MGR_STS_EPOCH epoch with cwy := { t.cwy with epoch := epoch } }
  if s1.isManager then
    if s1.cwy.epoch < epoch then follow s1.becomeWorker
    else if s1.cwy.epoch = epoch then s1.ambiguous
    else s1
  else follow s1

/-- CWY_ANNOUNCE. -/
def State.cwyAnnounce (s : State) (src : Nat) (l : List Nat) : State :=
  if l.length ≠ 4 then s.badLength 3 0xF src l else s.frameIn 3 0xF src l fun t => t.takeAnnounce src (payloadAt l 0 4)

/-- CWY_PERMIT_REQ: the manager queues the request and grants what it can (R476). -/
def State.cwyPermitReq (s : State) (dst src kind tier : Nat) : State :=
  s.frameIn 4 dst src [kind, tier] fun t =>
    if t.isManager ∧ kind ≤ 1 then
      let p : Permit := ⟨src, kind, tier⟩
      { t with cwy := { t.cwy with waiting := t.cwy.waiting ++ [p] } }.grantAll
    else t

/-- CWY_PERMIT (R433, R479). -/
def State.cwyPermit (s : State) (dst src kind tier : Nat) : State :=
  s.frameIn 5 dst src [kind, tier] fun t => t.takePermit kind tier

/-- Permits of a stack and kind ended. -/
def State.endPermit (s : State) (stack kind : Nat) : State :=
  let l := s.cwy.granted.filter fun g => !(g.1.stack == stack && g.1.kind == kind)
  { s with cwy := { s.cwy with granted := l } }.grantAll

/-- CWY_PERMIT_DONE (R476). -/
def State.cwyPermitDone (s : State) (dst src kind tier : Nat) : State :=
  s.frameIn 6 dst src [kind, tier] fun t => if t.isManager then t.endPermit src kind else t

/-- TEST_PERMIT_EXPIRY: a permit of KIND 0 ends 2 s after its grant (R476). -/
def State.permitExpiry (s : State) (k : Nat) : State :=
  match s.cwy.granted.find? fun g => g.1.stack == k && g.1.kind == 0 with
  | some g => (s.advanceTo (g.2 + 2000000000)).endPermit k 0
  | none => s

/-! ### The link -/

/-- A trace entry of the link going down or up; the manual states no DATA for it (a free value). -/
def State.traceLink (s : State) (arg : Nat) : State := s.useFree.traceEv 9 arg (Config.freeWord s.free).toNat

/-- CWY_LINK_DOWN (R466). -/
def State.cwyDown (s : State) : State :=
  if s.cwyRuns ∧ !s.flag (liveFld 110) then
    (((s.setFlag F.CWY_STS_LINK_UP false).raiseCond 110 0).latch F.POLL_SUMMARY_PKG).traceLink 3
  else s

/-- CWY_LINK_UP (R466). -/
def State.cwyUp (s : State) : State :=
  if s.cwyRuns ∧ !s.flag F.CWY_STS_LINK_UP then
    (((s.setFlag F.CWY_STS_LINK_UP true).endCondition 110).latch F.POLL_SUMMARY_PKG).traceLink 4
  else s

/-! ### What the stack sends -/

/-- DEMAND of this stack in units of 0.1 W (R474). -/
def State.demandNow (s : State) : Nat := max 400 (min (s.fld F.PWR_CAP_CAP) (s.fld F.PWR_EST_POWER + 100))

/-- The payload of STATUS (table Causeway messages). -/
def State.statusPayload (s : State) : List Nat :=
  bytesLE 4 s.pollWord ++ bytesLE 2 s.demandNow ++ bytesLE 2 (s.fld F.PWR_CAP_FALLBACK) ++
    bytesLE 2 (s.fld F.THM_MAX_CORE_MAX) ++ [b2n s.pins.mgrCapable + 2 * b2n (s.mode == .shutdownTest), 0]

/-- CWY_STATUS_SEND: the stack sends its STATUS, and counts it as heard (R467, R473). -/
def State.statusSend (s : State) : State :=
  if s.cwyRuns then (s.sendFrame 2 0xF s.statusPayload).takeStatus s.pins.stackId s.statusPayload else s

/-- Stacks the manager takes as present: those whose STATUS it hears, and itself. -/
def State.presentStacks (s : State) : List Nat :=
  (List.range 16).filter fun k => bitOf (s.fld F.CWY_PRESENT_PRESENT) k || k == s.pins.stackId

/-- The demand of a stack last reported; the manager's own stands as it is until it has reported one. -/
def State.demandOf (s : State) (k : Nat) : Nat :=
  if k = s.pins.stackId ∧ !(s.peer k).known then s.demandNow else max 400 (s.peer k).demand

/-- What the present stacks may share: BUDGET less the FALLBACKs of the absent ones that have been heard (R474). -/
def State.budgetLeft (s : State) : Int :=
  let gone := (List.range 16).filter fun k => (s.peer k).known && !s.presentStacks.contains k
  (s.fld F.CWY_PKG_BUDGET_BUDGET : Int) - (gone.map fun k => (s.peer k).fallback).sum

/-- The share of stack `k` (R474). -/
def State.shareOf (s : State) (k : Nat) : Nat :=
  let l := s.presentStacks
  let n := l.length
  if !l.contains k then (s.peer k).fallback
  else if s.budgetLeft < 400 * n then 400
  else
    let rest := (s.budgetLeft - 400 * n).toNat
    let sum := (l.map fun j => s.demandOf j - 400).sum
    min 1100 (400 + (if sum = 0 then rest / n else rest * (s.demandOf k - 400) / sum))

/-- CWY_HEARTBEAT_SEND: the manager computes the shares and sends a HEARTBEAT; its own share takes effect (R467, R474). -/
def State.beatSend (s : State) : State :=
  if s.cwyRuns ∧ s.isManager then
    let s1 := s.setFlag F.CWY_STS_BUDGET_LOW (decide (s.budgetLeft < 400 * s.presentStacks.length))
    let l := bytesLE 4 s.cwy.epoch ++ bytesLE 8 s.timeBase.toNat ++ bytesLE 4 0 ++
      (List.range 16).flatMap fun k => bytesLE 2 (s.shareOf k)
    (s1.sendFrame 1 0xF l).setShare (s.shareOf s.pins.stackId)
  else s

/-! ### Roles over time -/

/-- MGR_LISTEN_END: 5 ms without a HEARTBEAT make the stack manager with EPOCH 1 (R469). -/
def State.listenEnd (s : State) : State :=
  match s.cwy.listening with
  | some t => ((s.advanceTo (t + 5000000)).becomeManager 1).beatSend
  | none => s

/-- MGR_TAKEOVER_TIMEOUT (R470). -/
def State.takeover (s : State) : State :=
  if s.cwyRuns ∧ s.mode ≠ .bringUp ∧ !s.isManager ∧ s.cwy.listening.isNone ∧ s.pins.mgrCapable then
    let s1 := s.advanceTo (s.cwy.lastBeat + 50000000 + 2000000 * s.pins.stackId)
    let e := (s1.cwy.epoch + 1) % 2 ^ 32
    let old := s1.fld F.CWY_STS_MANAGER
    ((s1.sendFrame 3 0xF (bytesLE 4 e)).becomeManager e).noteTakeover old s1.pins.stackId
  else s

/-- STACK_ABSENT: a stack's STATUS has not been heard for 5 ms (R472, R473). -/
def State.stackAbsent (s : State) (k : Nat) : State :=
  if s.cwyRuns ∧ bitOf (s.fld F.CWY_PRESENT_PRESENT) k ∧ k ≠ s.pins.stackId then
    let s1 := (s.advanceTo ((s.peer k).heard + 5000000)).setFldBit F.CWY_PRESENT_PRESENT k false
    ((s1.setReg (adr .CWY_STACK 0 k) 0).setAttn k).latch F.POLL_SUMMARY_PKG
  else s

/-- A write of CWY_CFG: RESIGN makes a manager a worker; it waits a takeover time before it would announce itself again
(R471). -/
def State.wCwyCfg (s : State) (p : PathNum) (w : Word) : Res :=
  let s1 := s.plainWrite p .CWY_CFG 0 0 w
  if bitOf w.toNat 30 ∧ s1.isManager then
    let s2 := s1.becomeWorker
    done { s2 with cwy := { s2.cwy with lastBeat := s2.now } }
  else done s1

end Sys2Proof.Machine
end

