-- ==== Sys2Proof/Machine/TierTest.lean ====
section
/-!
DEFINITION. The shutdown self-test (R433 to R436): permits, the tier test, the repairs it decides and its records.
-/
namespace Sys2Proof.Machine

/-! ### The run of the test -/

/-- A tier's turn: on a package with a manager it waits for its permit; else its dies leave self-refresh (R433). -/
def State.nextTier (s : State) (t : Nat) : State :=
  let s1 := s.setFld F.CAL_TST_STS_TIER t
  if s1.hasManager then (s1.setFlag F.CAL_TST_STS_PERMIT_WAIT true).askPermit 0 t
  else (s1.setFlag F.CAL_TST_STS_PERMIT_WAIT false).wakeTier t

/-- The test starts: its registers and its record area are cleared (R436). -/
def State.startTest (s : State) : State :=
  let s1 := ((s.setReg (adr .CAL_TST_STS) 0).setReg (adr .CAL_TST_CNT) 0).setFlag F.CAL_TST_STS_RUNNING true
  { s1 with mram := { s1.mram with tests := [] } }.nextTier 0

/-- TEST_PERMIT_TIMEOUT: a permit not granted within 5 s is taken as granted (R433). -/
def State.permitTimeout (s : State) : State :=
  if s.mode = .shutdownTest ∧ s.flag F.CAL_TST_STS_PERMIT_WAIT then
    (((s.advanceTo (s.cwy.askedAt + 5000000000)).setFlag F.CAL_TST_STS_PERMIT_WAIT false).setFlag
      F.CAL_TST_STS_PERMIT_TIMEOUT true).wakeTier (s.fld F.CAL_TST_STS_TIER)
  else s

/-! ### What is tested -/

/-- A channel is tested: it is not RETIRED, nor OFFLINE with LAYER_LOST (R434). -/
def State.tested (s : State) (c : Nat) : Bool :=
  match (s.chan c).st with
  | .retired => false
  | .offline => !s.flag (F.CH_FENCE_STS_LAYER_LOST c)
  | .online | .draining | .quiesced | .retraining => true

/-- What step 6 leaves in the tested rows of a channel: pattern 0b100, seeded with each row's own locator (table Tier
test). Row repairs are bypassed, sector-column repairs are in force (R434). -/
def State.patternChannel (s : State) (c : Nat) : State :=
  let marks := s.patterned.set (fun _ => none) c (some s.repairs)
  let bare := s.array.erase fun k => locCh (k / 64) == c && (testSector s.repairs k).isSome
  { s with array := bare.rebase (arrayDefault s.unfilled marks), patterned := marks }

/-- The steps at which a finding failed, in the failing lanes for which `count` holds; a conductor's are its own. -/
def findSteps (f : TestFind) (count : Nat → Bool) : Nat :=
  (f.lanes.filter fun x => count x.1.val).foldl (fun a x => Nat.lor a x.2.toNat) f.steps.toNat

/-- A finding that the test can make: of the tier, in a tested channel, of a conductor at step 1 or of a tested row with
failing lanes at steps 2 to 6. -/
def State.findingOk (s : State) (t : Nat) (f : TestFind) : Bool :=
  let l := f.loc.toNat
  locCh l / 8 == t && s.tested (locCh l) &&
    (if locClass l = 3 then bitOf f.steps.toNat 1 && locRow l < 8960 && bitsOf l 17 14 == 0
     else locValid l && s.repairs.rowTested l && f.steps == 0 && !f.lanes.isEmpty &&
       f.lanes.all fun x => bitsOf x.2.toNat 6 2 != 0 && bitsOf x.2.toNat 1 0 == 0)

/-! ### Repairs -/

/-- A decision's ACTION with the state after it (table Test repairs). -/
structure Decided where
  st : State
  action : Nat
  deriving DecidableEq, Repr

/-- A ledger entry of the test: the action; 0x7 on a full ledger, where nothing is written; 0x8 when the write fails its
check (R427, R435, R436). -/
def State.testEntry (s : State) (fails : Bool) (type target spare action : Nat) : Decided :=
  let j : LedgerJob := ⟨type, 4, target, spare, .conductor⟩
  match s.ledgerPut j with
  | some s1 => if fails then ⟨(s.ledgerLost j).raise 101 0, 8⟩ else ⟨s1, action⟩
  | none => ⟨s, 7⟩

/-- Order 1: an erring conductor is spared at once when its group's spare is free. -/
def State.decideCond (s : State) (f : TestFind) : Decided :=
  let c := locCh f.loc.toNat
  let n := locRow f.loc.toNat
  if s.condFree c (n / 64) then (s.spareForCond c n).testEntry f.writeFails 4 (targetOf c 0 0 n) (n / 64) 4
  else ⟨s, 6⟩

/-- The findings of a bank's rows. -/
def bankFinds (l : List TestFind) (g : Nat) : List TestFind :=
  l.filter fun f => locClass f.loc.toNat != 3 && locGbi f.loc.toNat == g

/-- A row fails in a lane. -/
def findFails (f : TestFind) (j : Nat) : Bool := f.lanes.any fun x => x.1.val == j

/-- Order 2: the lanes of a bank that fail in 16 or more rows get a spare column; without a free one, none (action 0x6). The
lanes so decided with their actions. The write of a lane's entry fails when it does for the first of its findings. -/
def State.decideLanes (s : State) (l : List TestFind) (g : Nat) : State × List (Nat × Nat) :=
  (List.range 32).foldl (fun (a : State × List (Nat × Nat)) j =>
    let finds := (bankFinds l g).filter fun f => findFails f j
    if finds.length < 16 then a
    else match a.1.freeCol g with
      | none => (a.1, a.2 ++ [(j, 6)])
      | some k =>
        let loc := targetOf (g / 128) (g % 128 / 32) (g % 32) j
        let r := a.1.testEntry ((finds.head?.map (·.writeFails)) == some true) 3 loc k 3
        (r.st, a.2 ++ [(j, r.action)])) (s, [])

/-- The lowest spare row of a bank that is free and did not fail. -/
def State.goodSpare (s : State) (l : List TestFind) (loc : Nat) : Option Nat :=
  (List.range 128).find? fun k =>
    s.spareFree (spareRow loc k) && !(l.any fun f => f.loc.toNat == spareRow loc k)

/-- Order 4: a row gets a spare row; without one an addressable row is retired, a service row left. -/
def State.decideRow (s : State) (l : List TestFind) (fails : Bool) (loc : Nat) : Decided :=
  match s.goodSpare l loc with
  | some k => s.testEntry fails 1 loc k 1
  | none => if locClass loc = 0 then s.testEntry fails 2 loc 0 2 else ⟨s, 6⟩

/-- Orders 3 to 7 for one row finding, which failed at the steps `steps`. `l` are the findings that still count. -/
def State.decideFind (s : State) (l : List TestFind) (f : TestFind) (steps : Nat) : Decided :=
  let loc := f.loc.toNat
  if locClass loc = 1 then
    let r := s.testEntry f.writeFails 6 loc 0 5
    match s.repairs.rowOf loc with
    | some row => ⟨(r.st.decideRow l f.writeFails row).st, r.action⟩
    | none => r
  else if (s.repairs.rows.get (fun _ => none) loc).isSome ∨ s.rowRetired loc then ⟨s, 0⟩
  else if bitsOf steps 5 2 ≠ 0 then s.decideRow l f.writeFails loc
  else match s.goodSpare l loc with
    | some k => s.testEntry f.writeFails 1 loc k 1
    | none => ⟨s, 9⟩

/-- Where a row finding stands in the order of the table Test repairs: 3, 4 (with 7), 5, 6. -/
def State.findOrder (s : State) (f : TestFind) (steps : Nat) : Nat :=
  if locClass f.loc.toNat = 1 then (if (s.repairs.rowOf f.loc.toNat).isSome then 3 else 6)
  else if bitsOf steps 5 2 ≠ 0 then 4 else 5

/-! ### Records -/

/-- The highest temperature in force of a tier's dies, in °C + 64. -/
def State.tierTemp (s : State) (t : Nat) : Nat :=
  ((List.range 4).foldl (fun a l => max a (s.inForce (4 * t + l))) 0) / 4

/-- A result record written, or counted as dropped (R436). -/
def State.testNote (s : State) (t : Nat) (f : TestFind) (action : Nat) : State :=
  let cond := locClass f.loc.toNat == 3
  let step := ((List.range 7).find? fun k => bitOf (findSteps f fun _ => true) k).getD 0
  let w : Words := [f.loc, BitVec.ofNat 32 (step * 2 ^ 28 + action * 2 ^ 24 + s.tierTemp t % 256 * 2 ^ 16 +
      (if cond then 0 else f.bit.toNat)), BitVec.ofNat 32 (f.count.toNat * 2 ^ 16 + s.boot)]
  let e := w ++ [BitVec.ofNat 32 (crc32c (wordBytes w))]
  let s1 := if s.mram.tests.length < 1024 then
      { s with mram := { s.mram with tests := s.mram.tests ++ [e] } }.setFld F.CAL_TST_STS_RECORDS (s.mram.tests.length + 1)
    else s.bump F.CAL_TST_CNT_DROPPED
  if cond then s1 else s1.bump F.CAL_TST_CNT_FAIL_ROWS

/-- The ACTION of a row that fails only in lanes which order 2 has decided: that of the lowest of them (log entry 118). -/
def laneAction (f : TestFind) (decided : List (Nat × Nat)) : Nat :=
  ((decided.find? fun d => findFails f d.1).map (·.2)).getD 0

/-- The repairs of one bank in the order of the table, and its records (R435, R436). The failures in a lane that order 2 has
decided count for no row; a row is judged by the steps at which its other lanes failed (log entry 118). -/
def State.testBank (s : State) (t : Nat) (l : List TestFind) (g : Nat) : State :=
  let r := s.decideLanes l g
  let counts (j : Nat) : Bool := !(r.2.any fun d => d.1 == j)
  let rows := bankFinds l g
  let counted := rows.filter fun f => findSteps f counts != 0
  let failing := rows.filter fun f => findSteps f (fun j => !(r.2.any fun d => d.1 == j && d.2 == 3)) != 0
  let s1 := (rows.filter fun f => findSteps f counts == 0).foldl (fun u f => u.testNote t f (laneAction f r.2)) r.1
  [3, 4, 5, 6].foldl (fun u k =>
    (counted.filter fun f => u.findOrder f (findSteps f counts) == k).foldl (fun v f =>
      let d := v.decideFind failing f (findSteps f counts)
      d.st.testNote t f d.action) u) s1

/-- The test of one tier: steps 1 to 7 of the table Tier test. -/
def State.runTier (s : State) (t : Nat) (found : List TestFind) : State :=
  let l := found.filter (s.findingOk t)
  let conds := l.filter fun f => locClass f.loc.toNat == 3
  let s1 := conds.foldl (fun u f =>
    let d := u.decideCond f
    d.st.testNote t f d.action) s
  let s2 := (List.range 8).foldl (fun u j => if u.tested (8 * t + j) then u.patternChannel (8 * t + j) else u) s1
  let banks := ((l.filter fun f => locClass f.loc.toNat != 3).map fun f => locGbi f.loc.toNat).eraseDups
  banks.foldl (fun u g => u.testBank t l g) s2

/-- The ordered shutdown has ended: SHUTDOWN_DONE, REQ_BUSY, POLL_SUMMARY.DONE (R123, R124). -/
def State.shutdownDone (s : State) : State :=
  ((s.setFlag F.GLB_MODE_STS_SHUTDOWN_DONE true).setFlag F.GLB_MODE_REQ_BUSY false).latch F.POLL_SUMMARY_DONE

/-- TIER_TEST_START: with its permit the tier under test is tested; then the next one's turn comes, or the test ends
(R124, R433, R434). -/
def State.tierTest (s : State) (t : Nat) (found : List TestFind) : State :=
  if s.mode = .shutdownTest ∧ s.flag F.CAL_TST_STS_RUNNING ∧ s.fld F.CAL_TST_STS_TIER = t ∧
      !s.flag F.CAL_TST_STS_PERMIT_WAIT then
    let s1 := s.runTier t found
    let s2 := if s1.hasManager then s1.permitDone 0 t else s1
    if t < 3 then s2.nextTier (t + 1)
    else ((s2.setFlag F.CAL_TST_STS_RUNNING false).setFlag F.CAL_TST_STS_VALID true).shutdownDone
  else s

end Sys2Proof.Machine
end

