-- ==== Sys2Proof/Machine/Observe.lean ====
section
/-!
DEFINITION. Observation: what the counters and the trace make of a step (R497 to R499, R504, R505), the controls of OBS_CTL
(R500, R501), tagging and its records (R502, R503), and the trace's controls (R505, R506).
-/
namespace Sys2Proof.Machine

/-! ### Counters -/

/-- What the filters of an event may be (table Counter events): 0 none, 1 the module only, 2 both. -/
def eventFilter (e : Nat) : Nat :=
  if (2 ≤ e ∧ e ≤ 8) ∨ e = 0xD ∨ e = 0x10 then 2 else if 9 ≤ e ∧ e ≤ 0xB then 1 else 0

/-- A write of a counter's configuration is taken (R498, R499). `i` is its number within its bank. -/
def cntCfgOk (i w : Nat) : Bool :=
  let e := bitsOf w 7 0
  let chain := bitOf w 30
  e ≤ 0x11 && (!chain || (i % 2 == 1 && e == 0)) && (!bitOf w 29 || eventFilter e == 2) &&
    (!bitOf w 28 || 1 ≤ eventFilter e)

/-- A write of OBS_CNT_CFGk or CH_CNT_CFGk. -/
def State.wCntCfg (s : State) (p : PathNum) (r : Reg) (u i : Nat) (w : Word) : Res :=
  if cntCfgOk i w.toNat then done (s.plainWrite p r u i w) else ignored s

/-- An event meets the filters of a configuration word. -/
def filterOk (w : Nat) (m flow : Option Nat) : Bool :=
  (!bitOf w 28 || m == some (bitsOf w 15 12)) && (!bitOf w 29 || flow == some (bitsOf w 27 16))

/-- The occurrences that a counter of a channel, or a global one, adds for the events given and `dt` ns of the time base
(R497). `us` are the microseconds that ended while the throttle step stood above 0. -/
def countFor (chan : Option Nat) (w : Nat) (events : List ObsEv) (dt us : Nat) : Nat :=
  let e := bitsOf w 7 0
  if !bitOf w 31 then 0
  else if e = 1 then dt
  else if e = 0xF ∧ chan.isNone then us
  else events.foldl (fun a x => match x with
    | .count c ev n m flow => if c = chan ∧ ev = e ∧ filterOk w m flow then a + n else a
    | .entry .. | .fatal => a) 0

/-- The channel of a counter configuration's address, none for a global counter; nothing for any other address. -/
def cntOf (a : Nat) : Option (Option Nat × Nat) :=
  match regAt a with
  | some (.OBS_CNT_CFG, _, i) => some (none, i)
  | some (.CH_CNT_CFG, u, i) => some (some u, i)
  | _ => none

/-- The registers of a counter's value. -/
def cntRegs (c : Option Nat) (i : Nat) : Nat × Nat :=
  match c with
  | none => (adr .OBS_CNT_LO 0 i, adr .OBS_CNT_HI 0 i)
  | some u => (adr .CH_CNT_LO u i, adr .CH_CNT_HI u i)

/-- The 48 bits of a counter. -/
def State.cntValue (s : State) (c : Option Nat) (i : Nat) : Nat :=
  (s.reg (cntRegs c i).1).toNat + 2 ^ 32 * ((s.reg (cntRegs c i).2).toNat % 2 ^ 16)

/-- A counter written. -/
def State.setCnt (s : State) (c : Option Nat) (i v : Nat) : State :=
  (s.setReg (cntRegs c i).1 (BitVec.ofNat 32 v)).setReg (cntRegs c i).2 (BitVec.ofNat 32 (v / 2 ^ 32 % 2 ^ 16))

/-- One counter brought up, while its island runs (R51); a chained one adds the wraps of the counter below it, which `a` names with its wraps
(R499). -/
def State.countOne (s : State) (events : List ObsEv) (dt us : Nat) (a : State × Nat × Nat) (x : Nat × Word) :
    State × Nat × Nat :=
  match cntOf x.1 with
  | none => a
  | some (c, i) =>
    let n := if s.islandAbsent (c.getD 55) then 0
      else if bitOf x.2.toNat 30 then (if a.2.1 = x.1 ∧ i % 2 = 1 then a.2.2 else 0)
      else countFor c x.2.toNat events dt us
    let v := s.cntValue c i + n
    (if n = 0 then a.1 else a.1.setCnt c i (v % 2 ^ 48), x.1 + 16, v / 2 ^ 48)

/-- The counters brought up to the reading `t` of the time base with the events given. They count as they were set, and at the
throttle step that stood, in the cycles of the step, which are those of `before` (R497). -/
def State.runCounters (s before : State) (t : Nat) (events : List ObsEv) : State :=
  let dt := t - s.obs.counted
  let us := if before.fld F.GLB_MODE_THROTTLE = 0 then 0 else t / 1000 - s.obs.counted / 1000
  let s1 := { s with obs := { s.obs with counted := max t s.obs.counted } }
  if s.flag F.OBS_CTL_FROZEN then s1
  else ((before.regs.filter fun e => (cntOf e.1).isSome).foldl (fun a x => s.countOne events dt us a x) (s1, 0, 0)).1

/-! ### Trace -/

/-- The trace stops, with its cause; every stop but that of a STOP write sets POLL_SUMMARY.OBS (R505). -/
def State.stopTrace (s : State) (by_ : Nat) : State :=
  let s1 := (s.setFlag F.OBS_TRC_STS_RUNNING false).setFld F.OBS_TRC_STS_STOPPED_BY by_
  let s2 := { s1 with obs := { s1.obs with postLeft := none } }
  if by_ = 1 then s2 else s2.latch F.POLL_SUMMARY_OBS

/-- An entry written at WR_POS (R504); a full buffer without WRAP stops the trace (R505). After a trigger, entries count
down and none follows the last. -/
def State.putEntry (s : State) (time kind arg data : Nat) : State :=
  if s.obs.postLeft = some 0 then s else
  let p := s.fld F.OBS_TRC_STS_WR_POS
  let w : Words := [BitVec.ofNat 32 time, BitVec.ofNat 32 (time / 2 ^ 32), BitVec.ofNat 32 (kind * 2 ^ 24 + arg % 2 ^ 24),
    BitVec.ofNat 32 data]
  let s1 := { s with obs := { s.obs with
    trace := s.obs.trace.set (fun _ => []) p w, postLeft := s.obs.postLeft.map (· - 1) } }
  let s2 := s1.setFld F.OBS_TRC_STS_WR_POS (p + 1)
  if p = 16383 then
    let s3 := s2.setFlag F.OBS_TRC_STS_FULL true
    if s3.flag F.OBS_TRC_CFG_WRAP then s3 else s3.stopTrace 2
  else s2

/-- The trigger: source TRIG_SRC is raised while TRIG_EN is 1 (R505). -/
def State.trigger (s : State) (kind arg : Nat) : State :=
  if kind = 1 ∧ s.flag F.OBS_TRC_CFG_TRIG_EN ∧ arg % 256 = s.fld F.OBS_TRC_CFG_TRIG_SRC ∧ s.obs.postLeft.isNone ∧
      s.flag F.OBS_TRC_STS_RUNNING then
    { s with obs := { s.obs with postLeft := some (256 * s.fld F.OBS_TRC_CFG_POST) } }
  else s

/-- An entry on its way through the queue of 64, which gives the buffer one entry in 1 ns; one that finds it full is lost, and
the next is preceded by one of KIND 0x0D (R505, log entry 120). -/
def State.queueEntry (s : State) (time kind arg data : Nat) : State :=
  let n := s.obs.fifo - (s.now - s.obs.fifoAt)
  let lost := s.obs.lost
  if 64 ≤ n then
    { s with obs := { s.obs with fifo := n, fifoAt := s.now, lost := lost + 1 } }.countGl 0x11
  else
    let s1 := { s with obs := { s.obs with fifo := n + 1, fifoAt := s.now, lost := 0 } }
    (if lost = 0 then s1 else s1.putEntry time 0xD 0 lost).putEntry time kind arg data

/-- What the trace makes of an event of the step, while the observation island runs (R51). -/
def State.traceOne (s : State) (e : ObsEv) : State :=
  if !s.flag F.OBS_TRC_STS_RUNNING ∨ s.islandAbsent 55 then s
  else match e with
    | .count .. => s
    | .fatal => s.stopTrace 4
    | .entry time kind arg data =>
      (if bitOf (s.fld F.OBS_TRC_CFG_KINDS) kind then s.queueEntry time kind arg data else s).trigger kind arg

/-! ### OBS_CTL -/

/-- A write of OBS_CTL: what it asks takes effect 100 ns of the time base later; SNAP clears SNAP_VALID (R86, R500). -/
def State.wObsCtl (s : State) (p : PathNum) (w : Word) : Res :=
  let n := w.toNat
  let x : ObsInstant := ⟨s.timeBase.toNat + 100, some (bitOf n 31), bitOf n 30, bitOf n 29⟩
  let land := s.plainWrite p .OBS_CTL 0 0 w
  let s1 := if bitOf n 30 then land.setFlag F.OBS_CTL_SNAP_VALID false else land
  done { s1 with obs := { s1.obs with instants := s1.obs.instants ++ [x] } }

/-- The lower register of a counter's snapshot entry; the upper one follows it. -/
def snapReg (c : Option Nat) (i : Nat) : Nat :=
  match c with
  | none => adr .OBS_SNAP_LO 0 i
  | some u => adr .CH_SNAP_LO u i

/-- A counter copied into its snapshot entry; a channel whose island is down reads 0 (R500, R501). -/
def State.snapOne (s : State) (c : Option Nat) (i : Nat) : State :=
  let v := match c with
    | some u => if s.islandDown u then 0 else s.cntValue c i
    | none => s.cntValue c i
  (s.setReg (snapReg c i) (BitVec.ofNat 32 v)).setReg (snapReg c i + 4) (BitVec.ofNat 32 (v / 2 ^ 32))

/-- Every counter: the 64 global ones and the 16 of each channel. -/
def allCounters : List (Option Nat × Nat) :=
  (List.range 64).map (fun i => (none, i)) ++ (List.range 32).flatMap fun c => (List.range 16).map fun i => (some c, i)

/-- SNAP at T, which the time base read `t` (R500, R501). -/
def State.snapshotAt (s : State) (t : Nat) : State :=
  let s0 := { s with obs := { s.obs with snapAt := some s.now } }
  let s1 := allCounters.foldl (fun t x => t.snapOne x.1 x.2) s0
  let miss := (below 32 s.islandDown).foldl (fun a c => a + 2 ^ c) 0
  (((s1.setReg (adr .OBS_SNAP_TIME_LO) (BitVec.ofNat 32 t)).setReg (adr .OBS_SNAP_TIME_HI)
    (BitVec.ofNat 32 (t / 2 ^ 32))).setReg (adr .OBS_SNAP_MISS) (BitVec.ofNat 32 miss)).setFlag F.OBS_CTL_SNAP_VALID true

/-- A counter written in the present cycle. -/
def State.writtenNow (s : State) (c : Option Nat) (i : Nat) : Bool := s.obs.written.contains (s.now, c, i)

/-- CLEAR at T: a counter written in the cycle of T keeps the written value (R500). -/
def State.clearCounters (s : State) : State :=
  allCounters.foldl (fun t x => if s.writtenNow x.1 x.2 then t else t.setCnt x.1 x.2 0) s

/-- A counter was written: in the cycle of T its snapshot holds the written value (R500). -/
def State.cntWritten (s : State) (c : Option Nat) (i : Nat) : State :=
  let s1 := { s with obs := { s.obs with written := (s.now, c, i) :: s.obs.written.filter fun x => x.1 == s.now } }
  if s.obs.snapAt = some s.now then s1.snapOne c i else s1

/-- An instant T: what comes before it is counted; a snapshot comes before a clear (R500). -/
def State.instantAt (s before : State) (x : ObsInstant) : State :=
  let s1 := s.runCounters before x.due []
  let s2 := if x.snap then s1.snapshotAt x.due else s1
  let s3 := if x.clear then s2.clearCounters else s2
  match x.freeze with
  | some b => s3.setFlag F.OBS_CTL_FROZEN b
  | none => s3

/-- The instants that the time base has reached, in order: they come before what else happens at this moment (R500). -/
def State.passInstants (s before : State) : State :=
  let due (x : ObsInstant) : Bool := x.due ≤ s.timeBase.toNat
  (s.obs.instants.filter due).foldl (fun t x => t.instantAt before x)
    { s with obs := { s.obs with instants := s.obs.instants.filter fun x => !due x } }

/-- OBS_CONTROL_INSTANT: the time base reaches the earliest instant T (R500). -/
def State.obsInstant (s : State) : State :=
  match s.obs.instants with
  | [] => s
  | x :: _ => if s.timeBase.toNat < x.due then s.advanceGain (x.due - s.timeBase.toNat) else s

/-! ### Every step -/

/-- Observation takes the events of the step from `before` (R496, R497): instants that have come, the trace, the counters.
Time that a write of the time base gave it passes uncounted. -/
def State.observe (s before : State) : State :=
  let l := s.obs.events
  let s0 := { s with obs := { s.obs with
    events := [], counted := if s.now = before.now then s.timeBase.toNat else s.obs.counted } }
  let s1 := l.foldl (fun t e => t.traceOne e) (s0.passInstants before)
  { s1 with obs := { s1.obs with events := [] } }.runCounters before s.timeBase.toNat (l ++ s1.obs.events)

/-! ### Tagging -/

/-- Each module's LFSR seeded, when EN of OBS_TAG_CFG has gone from 0, in `before`, to 1 (R502). -/
def State.seedTags (s before : State) : State :=
  if !before.flag F.OBS_TAG_CFG_EN ∧ s.flag F.OBS_TAG_CFG_EN then
    let seed (m : Nat) : Word :=
      let v := s.reg (adr .OBS_TAG_SEED) ^^^ BitVec.ofNat 32 m
      if v = 0 then 1 else v
    let l := (List.range 12).foldl (fun (d : Store Word) m => d.set (fun _ => 1) m (seed m)) s.obs.lfsr
    { s with obs := { s.obs with lfsr := l } }
  else s

/-- A write of OBS_TAG_CFG (R502). -/
def State.wTagCfg (s : State) (p : PathNum) (w : Word) : Res := done ((s.plainWrite p .OBS_TAG_CFG 0 0 w).seedTags s)

/-- A delta of a tag record: 0xFFFF when its stage was not reached, or was reached too late (R503). -/
def delta (o : Option Nat) : Nat := min 0xFFFF (o.getD 0xFFFF)

/-- The eight words of a tag record (table Tag record). -/
def State.tagWords (s : State) (g : TagRec) : List Nat :=
  [g.word0, g.addr % 2 ^ 32, g.base % 2 ^ 32, g.base / 2 ^ 32, delta g.dChannel * 2 ^ 16 + delta g.dFabric,
    delta g.dDone * 2 ^ 16 + delta g.dGrant, delta g.dSent * 2 ^ 16 + delta g.dRsp,
    g.status * 2 ^ 28 + g.served * 2 ^ 26 + b2n g.guar * 2 ^ 25 + b2n g.late * 2 ^ 24 + g.urg * 2 ^ 22 + g.ch * 2 ^ 16 +
      s.boot]

/-- Where the next tag record of channel `c` lies in its service area (R503). -/
def State.tagOff (s : State) (c : Nat) : Nat := 0xD80000 + 32 * s.fld (F.CH_TAG_STS_WR_IDX c)

/-- A sector written by observation, which changes no slot's state: in a slot that holds its row CLEAN and in the array, else
where the authoritative copy is (R496, log entry 120). -/
def State.setQuiet (s : State) (x : Place3) (d : Code) : State :=
  match s.findSlot x.loc with
  | some i =>
    let v := s.slot (locCh x.loc) i
    if v.state = .clean then
      (s.setSlot (locCh x.loc) i { v with data := v.data.set (fun _ => zeroCode) x.sector d }).setArray x d
    else s.setStored x d
  | none => s.setStored x d

/-- A tag record written at WR_IDX of its channel's ring, the sector's other record kept (R503). -/
def State.putTag (s : State) (c : Nat) (g : TagRec) : State :=
  let i := s.fld (F.CH_TAG_STS_WR_IDX c)
  let off := s.tagOff c
  let x := serviceAt c (off / 64 * 64)
  let d := decodeSector (s.fld (F.ECC_CFG_POLICY c)) (s.stored x)
  let s0 := s.storeHit x (if off / 32 % 2 = 0 then 0xFFFFFFFF else 0xFFFFFFFF00000000)
  let s1 := (s0.setQuiet x (encodeSector (Sys2Proof.Machine.putEntry d.data (off / 32 % 2) ((s.tagWords g).map (BitVec.ofNat 32)))
    d.metaByte)).setFld (F.CH_TAG_STS_WR_IDX c) (i + 1)
  let s2 := if i = 16383 then s1.bump (F.CH_TAG_STS_WRAPS c) else s1
  if (i + 1) % 4096 = 0 then s2.latch F.POLL_SUMMARY_OBS else s2

/-- The oldest tag record due in channel `c`. -/
def State.tagDue (s : State) (c : Nat) : Option TagRec := s.obs.tags.find? fun g => g.due && g.ch == c

/-- The state without a tag record. -/
def State.dropTag (s : State) (g : TagRec) : State := { s with obs := { s.obs with tags := s.obs.tags.erase g } }

/-- The record `g` written by the cycles it was given, if any (R503). -/
def State.tagTo (s : State) (c : Nat) (g : TagRec) : Option State → State
  | none => s
  | some t => (t.dropTag g).putTag c g

/-- An idle vertical cycle that writes the row `loc` of channel `c`, when the row can take a write: one bank, one activation. It
is no request: it enters no history and touches no slot (R496, log entry 120). -/
def State.rowCycle (s : State) (c loc : Nat) : Option State :=
  if s.rowWaits loc true || s.rowInCycle loc || !s.bankOpen loc || !s.fitsBudget c 1 then none
  else some ((s.activate loc 1).countCh c 5)

/-- The cycle of the write of a tag record (R236, R496). -/
def State.tagCycles (s : State) (c : Nat) : Option State :=
  (s.idleCycle c).bind fun t => t.rowCycle c (serviceAt c (t.tagOff c)).loc

/-- TAG_RECORD_WRITE: the oldest record due in channel `c` is written, or discarded when the channel is not ONLINE (R236,
R503, log entry 33). -/
def State.tagWrite (s : State) (c : Nat) : State :=
  match s.tagDue c with
  | none => s
  | some g => if (s.chan c).st ≠ .online then (s.dropTag g).bump F.OBS_TAG_STS_DROPS else s.tagTo c g (s.tagCycles c)

/-! ### The trace's controls -/

/-- The export image lies wholly within the host area (R506). -/
def exportOk (off : Nat) : Bool := 4096 * off + 0x40000 ≤ hostAreaEnd

/-- A write of OBS_TRC_CTL: START, STOP or EXPORT (R505, R506). More than one of them is refused (log entry 10). -/
def State.wTrcCtl (s : State) (p : PathNum) (w : Word) : Res :=
  let n := w.toNat
  let land := s.plainWrite p .OBS_TRC_CTL 0 0 w
  match bitsOf n 31 29 with
  | 0 => done land
  | 4 =>
    let s1 := ((land.setFlag F.OBS_TRC_STS_RUNNING true).setFlag F.OBS_TRC_STS_FULL false).setFld F.OBS_TRC_STS_WR_POS 0
    done { s1 with obs := { s1.obs with postLeft := none, lost := 0 } }
  | 2 => done (if s.flag F.OBS_TRC_STS_RUNNING then land.stopTrace 1 else land)
  | 1 =>
    if s.flag F.OBS_TRC_STS_RUNNING ∨ !exportOk (bitsOf n 11 0) ∨ s.obs.exporting.isSome then ignored s
    else
      let s1 := land.setFlag F.OBS_TRC_CTL_EXP_VALID false
      done { s1 with obs := { s1.obs with exporting := some ⟨bitsOf n 24 20, bitsOf n 11 0, 0, s1.obs.trace, []⟩ } }
  | _ => ignored s

/-- TRACE_POST_TRIGGER_STOP: the entries after the trigger are written (R505). -/
def State.postStop (s : State) : State :=
  if s.flag F.OBS_TRC_STS_RUNNING ∧ s.obs.postLeft = some 0 then s.stopTrace 3 else s

/-- TRACE_EXPORT_END: every sector of the image is written to the host area (R506). -/
def State.exportEnd (s : State) : State :=
  match s.obs.exporting with
  | none => s
  | some x =>
    if x.next = 4096 then
      (({ s with obs := { s.obs with exporting := none } }).setFlag F.OBS_TRC_CTL_EXP_VALID true).latch F.POLL_SUMMARY_DONE
    else s

/-- A write of OBS_TRC_RD.POS: the window read (R506). -/
def State.wTrcRd (s : State) (p : PathNum) (w : Word) : Res :=
  let s1 := s.plainWrite p .OBS_TRC_RD 0 0 w
  let e := s.obs.trace.get (fun _ => []) (bitsOf w.toNat 13 0)
  done ((s1.each 4 fun k t => t.setReg (adr .OBS_TRC_WIN 0 k) (e.getD k 0)).setFlag F.OBS_TRC_RD_VALID true)

/-- A write of OBS_TRC_MARK (R504). -/
def State.wTrcMark (s : State) (w : Word) : Res := done (s.traceEv 0xC 0 w.toNat)

end Sys2Proof.Machine
end

