-- ==== Sys2Proof/Machine/Modes.lean ====
section
/-!
DEFINITION. Modes, bring-up, channel requests, retention and shutdown (R102 to R126): RESET and the pins (R103, R518), the
steps of BRING-UP (R110), the requests of CH_STATE (R115, R117) and of GLB_MODE (R97, R105), and the commit of MRAM
writes at an ordered shutdown (R123).
-/
namespace Sys2Proof.Machine

/-! ### RESET -/

/-- The part of a register that MRAM holds, so that RESET and DEEP RETENTION leave it: the training override, the audit
ring's place, the last test's outcome (R436, R492, R493). The rest is at its reset value, 0. -/
def mramPart (a : Nat) (w : Word) : Word :=
  match regAt a with
  | some (.LC_TRN_OVR, _, _) | some (.CAL_TST_CNT, _, _) => w
  | some (.LC_AUD_STS, _, _) => w &&& 0xFF800FFF#32
  | some (.CAL_TST_STS, _, _) => w &&& 0x800007FF#32
  | _ => 0

/-- MRAM holds a part of a register. -/
def inMram (a : Nat) : Bool :=
  match regAt a with
  | some (.LC_TRN_OVR, _, _) | some (.LC_AUD_STS, _, _) | some (.CAL_TST_STS, _, _) | some (.CAL_TST_CNT, _, _) => true
  | _ => false

/-- The registers that a part of each remains of. -/
def State.keepParts (s : State) (keep : Nat → Bool) (part : Nat → Word → Word) : Store Word :=
  (s.regs.filter fun e => keep e.1).foldl (fun m e => m.set (regReset s.part) e.1 (part e.1 e.2)) []

/-- The MRAM at RESET: what was committed stays; writes that were in progress or waited are lost (R125). -/
def State.mramAtReset (s : State) : Mram :=
  let m := s.dropSession.mram
  { m with ledgerJobs := [], ledgerAct := none, fuseCancel := none, calWrite := [], calAt := [], calTemp := [],
           auditWait := [], auditSeq := m.auditSeq - m.auditWait.length, summaryWrite := none, summaryAt := none,
           wearWrite := none, wearAt := none }

/-- The device enters RESET (R103): every register and every buffer returns to its reset value; fuses, MRAM and the part
stay; the array is refreshed no more (R456). A backstop's THERMTRIP_N stays asserted until PWROK falls (R422). -/
def State.enterReset (s : State) : State :=
  let r := State.reset
  let kept := s.keepParts inMram mramPart
  let t : State := { r with
    pending := s.pending, out := s.out, free := s.free, part := s.part, fuses := s.fuses, mram := s.mramAtReset,
    regs := kept, salt := s.salt, coll := { r.coll with summaries := s.coll.summaries },
    pins := { r.pins with pwrok := s.pins.pwrok, rstN := s.pins.rstN, refclk := s.pins.refclk,
                          thermtrip := s.pins.thermtrip && s.pins.pwrok } }
  t.loseArray

/-- PWROK_FALL: RESET from any mode, FATAL included; THERMTRIP_N is released (R103, R422). -/
def State.pwrokFall (s : State) : State :=
  let s1 := { s with pins := { s.pins with pwrok := false, thermtrip := false } }
  if s.mode = .reset then s1 else s1.enterReset

/-- PWROK_RISE (R109, R518). -/
def State.pwrokRise (s : State) : State := { s with pins := { s.pins with pwrok := true } }

/-- RST_N_FALL: RESET from any mode but FATAL, which ignores it (R103, R104). -/
def State.rstNFall (s : State) : State :=
  let s1 := { s with pins := { s.pins with rstN := false } }
  if s.mode = .reset ∨ s.mode = .fatal then s1 else s1.enterReset

/-! ### The steps of BRING-UP -/

/-- A step failed for some channel, module or record: FAIL_STEP keeps the lowest (GLB_MODE_STS). -/
def State.failStep (s : State) (k : Nat) : State :=
  let v := s.fld F.GLB_MODE_STS_FAIL_STEP
  if v = 0 ∨ k < v then s.setFld F.GLB_MODE_STS_FAIL_STEP k else s

/-- `f` done when `b` holds, and the step marked as failed. -/
def State.failWhen (s : State) (b : Bool) (k : Nat) (f : State → State) : State := if b then (f s).failStep k else s

/-- Step 1: the straps (R110, R519). -/
def State.bring1 (s : State) (e : BringUpEnv) : State :=
  let p := if e.strapsAgree then { s.pins with stackId := e.stackId.toNat, mgrEn := e.mgrEn, mgrCapable := e.mgrCapable }
    else { s.pins with stackId := 15, mgrEn := false, mgrCapable := false, strapsBad := true }
  { s with pins := p }.failWhen (!e.strapsAgree) 1 (·.raiseCond 111 0)

/-- Islands leave reset as BRING-UP reaches the step that first uses them (log entry 2). -/
def State.release (s : State) (l : List Nat) : State :=
  l.foldl (fun t i => t.setFlag (F.GLB_ISL_STS_IN_RESET i) false) s

/-- The islands that leave reset with the core PLLs' clocks: all but the modules' and the always-on one. -/
def clockedIslands : List Nat := (List.range 57).filter fun i => i < 36 || (48 ≤ i && i != 52)

/-- Step 2: the core PLLs lock; one that does not is a fatal fault, and its half stands still (R37, R39, R110). -/
def State.bring2 (s : State) (e : BringUpEnv) : State :=
  let s1 := (s.lockPll .west e.pllWest).lockPll .east e.pllEast
  if e.pllWest && e.pllEast then s1.release clockedIslands
  else
    let s2 := if e.pllWest then s1 else s1.stopHalf .west
    let s3 := if e.pllEast then s2 else s2.stopHalf .east
    (s3.raiseCond 0 (b2n (!e.pllWest) + 2 * b2n (!e.pllEast))).failStep 2

/-- Step 3: the fuse map read and its repairs latched (R365, R481). -/
def State.bring3 (s : State) (e : BringUpEnv) : State :=
  if e.fusesAgree then s.applyFuses else (s.failStep 3).raise 6 0

/-- The registers that the correction summary and the wear record restore (R360, R439). -/
def summaryRegs : List Nat := (List.range 32).flatMap fun c => [adr .ECC_LIFE_CORR c 0, adr .ECC_LIFE_UE c 0]

/-- Registers taken from their records in MRAM. -/
def State.fromMram (s : State) (l : List Nat) : State :=
  l.foldl (fun t a => t.setReg a (s.mram.saved.get (regReset s.part) a)) s

/-- BOOT written for every channel. -/
def State.setBoot (s : State) (n : Nat) : State := s.each 32 fun c t => t.setFld (F.ECC_LIFE_UE_BOOT c) n

/-- The correction summary of each channel restored, and its BOOT counted; a summary that fails its check is taken as zero
counts and BOOT 1 (R360). -/
def State.restoreSummary (s : State) (bad : BitVec 32) : State :=
  let s1 := (s.fromMram summaryRegs).each 32 fun c t =>
    if bad.getLsbD c then
      ((t.setReg (adr .ECC_LIFE_CORR c) 0).setReg (adr .ECC_LIFE_UE c) 0).setFld (F.ECC_LIFE_UE_BOOT c) 1
    else t.setFld (F.ECC_LIFE_UE_BOOT c) (t.fld (F.ECC_LIFE_UE_BOOT c) + 1)
  if bad = 0 then s1 else s1.raise 98 2

/-- The image in force is bad and the other is good: the device falls back to the other, with its version (R110). -/
def State.fallBack (s : State) (e : BringUpEnv) : State :=
  let bad := if s.mram.imageB then !e.imageB else !e.imageA
  match s.mram.fwOther with
  | some v =>
    if bad then
      { s with mram := { s.mram with imageB := !s.mram.imageB, fwMajor := v.1, fwMinor := v.2,
                                     fwOther := some (s.mram.fwMajor, s.mram.fwMinor) } }
    else s
  | none => s

/-- No image can be booted: both are bad, or the one in force is while the other slot is marked invalid (R110, R479). -/
def State.noImage (s : State) (e : BringUpEnv) : Bool :=
  (!e.imageA && !e.imageB) || (s.mram.fwOther.isNone && (if s.mram.imageB then !e.imageB else !e.imageA))

/-- Audit entries whose content fails its check as BRING-UP reads it: a lookup of one reads 0 (R494, R512). -/
def State.spoilAudit (s : State) (bad : List (Fin 512)) : State :=
  bad.foldl (fun t n =>
    let e := t.mram.audit.get (fun _ => []) n.val
    if e.isEmpty then t
    else { t with mram := { t.mram with audit := t.mram.audit.set (fun _ => []) n.val (e.set 7 (e.getD 7 0 ^^^ 1)) } }) s

/-- Step 4: the MRAM records (R110, R394). No good image is fatal. -/
def State.bring4 (s : State) (e : BringUpEnv) : State :=
  if s.noImage e then (s.failStep 4).raise 7 1
  else
    let s1 := (s.failWhen (!e.imageA || !e.imageB) 4 (·.raise 99 (b2n (!e.imageA) + 2 * b2n (!e.imageB)))).fallBack e
    let s2 := (s1.spoilSlots e.badSlots).each 26 fun i t => t.loadRecord i
    let s3 := s2.failWhen (s2.calBad != 0) 4 id
    ((s3.spoilAudit e.badAudit).fromMram wearRegs).restoreLevels.restoreSummary e.badSummary |>.failWhen (e.badSummary != 0) 4 id

/-- The sessions that ended are logged now, each with the time of its end (R493). -/
def State.logEnded (s : State) : State :=
  s.mram.endedSession.foldl (fun t e => t.auditOf e.2.2 3 e.1 e.2.1 Status.unavailable.code 0 0)
    { s with mram := { s.mram with endedSession := [] } }

/-- Both management cores present their first heartbeats; the token goes to West when its is current (R459, R460). -/
def State.bootCores (s : State) : State :=
  let s1 := (s.heartbeat .west false).heartbeat .east false
  s1.setFld F.AUTH_STS_OWNER (b2n (!s1.beatCurrent .west))

/-- Step 5: the cores boot, the token is given, sidebands are detected and the primary is chosen (R134, R140, R459). -/
def State.bring5 (s : State) (e : BringUpEnv) : State :=
  if !e.boots then (s.failStep 5).raise 7 2
  else
    let s1 := (s.bootCores.release ((List.range 12).map (36 + ·))).each 12 fun m t =>
      if !bitOf t.part.usable m then (t.setFlag (F.UCI_STS_EXCLUDED m) true).setFld (F.UCI_STS_EXCL_CAUSE m) 8
      else
        let u := t.setStage m .sbDetect
        if e.sbUp.getLsbD m then u.sidebandUp m else u
    { s1 with primary := s1.lowestUp }.logEnded

/-- Step 6: the ledger's entries in force but those that are skipped, or every channel RETIRED in a scrapped part (R429,
R481); the other channels leave OFFLINE for the steps to come. -/
def State.bring6With (s : State) (skip : Nat → Bool) : State :=
  let s1 := if s.lifeState = 5 then s.each 32 fun c t => t.setChState c .retired 4 else s.applyLedger skip
  let s2 := s1.failWhen (s1.fld F.CAL_LDG_STS_SKIPPED != 0) 6 id
  s2.each 32 fun c t => if (t.chan c).st = .retired then t else t.setChState c .quiesced 4

/-- Step 6: entries that fail their check are skipped. -/
def State.bring6 (s : State) (e : BringUpEnv) : State := s.bring6With fun p => e.badEntries.any fun q => q.val == p

/-- Step 6 exceeds its bound in the channels that `which` names: their entries are skipped too, with a fault of each
channel (R110). -/
def State.bring6Late (s : State) (e : BringUpEnv) (which : Nat) : State :=
  let late (p : Nat) : Bool := match s.mram.ledger.get (fun _ => none) p with
    | some x => bitOf which (locCh (entTarget x))
    | none => false
  (((s.bring6With fun p => (e.badEntries.any fun q => q.val == p) || late p)).each 32 fun c t =>
    if bitOf which c && (t.chan c).st == .quiesced then t.raise (128 + 4 * c + 3) 8 else t).failStep 6

/-- Step 8 begins: the mainbands whose sidebands are up train (R134). -/
def State.bring8 (s : State) : State :=
  s.each 12 fun m t =>
    if bitOf t.part.usable m ∧ (t.mod m).stage = .sbUp ∧ !t.flag (F.UCI_STS_EXCLUDED m) then t.startTraining m 1 else t

/-- Step 9: every extent unwritten (R110, R126). -/
def State.bring9 (s : State) : State :=
  (s.each 32 fun c t => (t.modChan c fun x => x.setMap []).setFld (F.ECC_EXT_STS_WRITTEN_CNT c) 0).setFlag
    F.XPT_ADDR_MAP_ANY_WRITTEN false

/-- Step 11: sensor offsets and rail monitors against stored calibration, and the first full scan (R110). -/
def State.bring11 (s : State) (e : BringUpEnv) : State :=
  let s0 := s.failWhen (!e.sensorsOk) 11 fun t => { t with calBad := putBits t.calBad 24 24 1 }.raiseCond 96 (calUnit 24)
  let s1 := s0.failWhen (!e.railsOk) 11 fun t => { t with calBad := putBits t.calBad 25 25 1 }.raiseCond 96 (calUnit 25)
  s1.each 17 fun d t => t.sensorSample d (e.scan.getD d [])

/-- Both timing sets loaded, for every channel not RETIRED (R387). -/
def State.loadTimings (s : State) : State :=
  s.each 32 fun c t => if (t.chan c).st = .retired then t
    else (t.setFlag (F.REF_TSETA_VALID c) true).setFlag (F.REF_TSETB_VALID c) true

/-- Step 7: the vertical path restored or trained (R398, R399). -/
def State.bring7 (s : State) (e : BringUpEnv) : State :=
  let r := s.step7 e
  r.1.loadTimings.failWhen r.2 7 id

/-- Step 10: service rows 0 to 47 zero-filled; a channel that fails enters OFFLINE (R35, R110). -/
def State.bring10 (s : State) (e : BringUpEnv) : State :=
  s.each 32 fun c t =>
    if (t.chan c).st ≠ .quiesced then t
    else if e.fillFails.getLsbD c then (t.chanOffline c 4).failStep 10
    else (t.fillService c).trackFill c

/-- Every usable module has reached ACTIVE or is excluded: step 8 has ended. -/
def State.modulesSettled (s : State) : Bool :=
  (List.range 12).all fun m => !bitOf s.part.usable m || s.flag (F.UCI_STS_EXCLUDED m) || (s.mod m).stage.reached

/-- Step 12: channels come ONLINE, the firmware revision is set, the device enters ACTIVE, or SAFE while a SAFE cause is
set (R103, R110), with the thermal and the power step at 0 (R414); a stack that may manage begins to listen (R469). -/
def State.bring12 (s : State) (b : BringUp) : State :=
  let bad := (List.range 12).any fun m => bitOf s.part.usable m && s.flag (F.UCI_STS_EXCLUDED m)
  let s1 := (s.failWhen bad 8 id).each 32 fun c t => if (t.chan c).st = .quiesced then t.chanOnline c 4 else t
  let s2 := (s1.setFld F.GLB_REV_FW_MAJOR s1.mram.fwMajor).setFld F.GLB_REV_FW_MINOR s1.mram.fwMinor
  let s3 := (s2.setSteps 0 0).setFld F.GLB_MODE_STS_BRINGUP_US (min 0xFFFF ((s2.now - b.start) / 10000))
  let cwy := { s3.cwy with listening := if s3.pins.mgrEn then some s3.now else none, lastBeat := s3.now }
  let mode : Mode := if s3.fld F.GLB_MODE_STS_SAFE_CAUSE = 0 then .active else .safe
  { s3 with mode := mode, bringUp := none, floorStale := true, cwy := cwy }

/-- Step 8 has ended for every module: step 12 (R110). -/
def State.bringCheck (s : State) : State :=
  match s.bringUp with
  | some b => if b.waiting = 8 ∧ s.mode = .bringUp ∧ s.modulesSettled then s.bring12 b else s
  | none => s

/-- One step of the table Bring-up sequence. -/
def State.bringStep (s : State) (e : BringUpEnv) (k : Nat) : State :=
  match k with
  | 1 => s.bring1 e
  | 2 => s.bring2 e
  | 3 => s.bring3 e
  | 4 => s.bring4 e
  | 5 => s.bring5 e
  | 6 => s.bring6 e
  | 7 => s.bring7 e
  | 8 => s.bring8
  | 9 => s.bring9
  | 10 => s.bring10 e
  | 11 => s.bring11 e
  | _ => s

/-- The order in which the model runs the steps: 8 runs on beside the others, and step 12 waits for it (R110). -/
def bringOrder : List Nat := [1, 2, 3, 4, 5, 6, 8, 9, 11, 7, 10]

/-- The step that BRING-UP stands at. -/
def State.bringAt (s : State) (k : Nat) : State := { s with bringUp := s.bringUp.map fun b => { b with waiting := k } }

/-- The steps of a list run in order: FATAL ends them, and one that never ends of its own stops them. -/
def State.bringRun (s : State) (e : BringUpEnv) : List Nat → State
  | [] => (s.bringAt 8).bringCheck
  | k :: rest =>
    if s.mode ≠ .bringUp then s
    else if e.stallAt.map (·.val) = some k ∧ k ≠ 8 then s.bringAt k
    else ((s.bringAt k).bringStep e k).bringRun e rest

/-- Every die reports its rails good: PWROK is high only when all six are in range (R59, R109). -/
def State.diesGood (s : State) : State :=
  (s.setFld F.PWR_DIE_PGOOD_ARR_OK 0xFFFF).setFld F.PWR_DIE_PGOOD_VPP_OK 0xFFFF

/-- BRING-UP at its first step, with the time base at 0 (R60, R110). -/
def State.beginBringUp (s : State) (e : BringUpEnv) (eye : Nat) : State :=
  { s with mode := .bringUp, now := 0, timeBase := 0, ppmAcc := 0, minEye := eye,
           bringUp := some ⟨e, 0, 1, 0, s.flag F.LC_TRN_OVR_FORCE_FULL⟩ }

/-- The device out of RESET: its always-on island runs, its dies report good rails, and BRING-UP begins (R518). -/
def State.outOfReset (s : State) (e : BringUpEnv) : State :=
  ((s.release [52]).setFlag (F.GLB_ISL_STS_LOCKED 52) true).diesGood.beginBringUp e (s.fld F.LC_TRN_OVR_MIN_EYE)

/-- RST_N_RISE: with PWROK high the device leaves RESET; the time base starts, free while REFCLK is absent, and BRING-UP
runs (R60, R65, R103, R110, R518). -/
def State.rstNRise (s : State) (e : BringUpEnv) : State :=
  let s1 := { s with pins := { s.pins with rstN := true } }
  if s.mode = .reset ∧ s.pins.pwrok then
    (if s.pins.refclk then s1.outOfReset e else (s1.outOfReset e).freeRun).bringRun e bringOrder
  else s1

/-- What the table Bring-up sequence gives a step that exceeds its bound; `which` names the channels it concerns. Of step 4
the table does not say which record an overrun fails: both images are taken as bad (log entry 95). -/
def State.bringFail (s : State) (e : BringUpEnv) (k which : Nat) : State :=
  let chans (f : Nat → State → State) (t : State) : State :=
    t.each 32 fun c u => if bitOf which c && (u.chan c).st == .quiesced then f c u else u
  match k with
  | 1 => s.bring1 { e with strapsAgree := false }
  | 2 => s.bring2 { e with pllWest := !bitOf which 0, pllEast := !bitOf which 1 && bitOf which 0 }
  | 3 => s.bring3 { e with fusesAgree := false }
  | 4 => s.bring4 { e with imageA := false, imageB := false }
  | 5 => s.bring5 { e with boots := false }
  | 6 => s.bring6Late e which
  | 7 => (chans (fun c u => u.trainFail c) (s.bring7 e)).failStep 7
  | 9 => s.bring9.failStep 9
  | 10 => (chans (fun c u => u.chanOffline c 4) (s.bring10 e)).failStep 10
  | 11 => s.bring11 { e with sensorsOk := false, railsOk := false }
  | _ => s

/-- BRINGUP_STEP_TIMEOUT: the step that BRING-UP stands at exceeds its bound; the steps after it run on (R110). Of step 8
the modules named that are not ACTIVE are excluded. -/
def State.bringTimeout (s : State) (k which : Nat) : State :=
  match s.bringUp with
  | some b =>
    if s.mode ≠ .bringUp ∨ b.waiting ≠ k then s
    else if k = 8 then (s.each 12 fun m t => if bitOf which m then t.trainDeadline m else t).bringCheck
    else
      let e := { b.env with stallAt := none }
      let s1 := { s with bringUp := some { b with env := e } }.bringFail e k which
      s1.bringRun e ((bringOrder.dropWhile (· != k)).drop 1)
  | none => s

/-! ### Requests of CH_STATE -/

/-- A write of CH_STATE.REQ (R115, R117): accepted and carried out, or IGNORED. -/
def State.wChState (s : State) (c : Nat) (w : Word) : Res :=
  let st := (s.chan c).st
  let r := bitsOf w.toNat 31 28
  if r = 0 then done s
  else if !s.serves ∨ s.flag (F.CH_STATE_REQ_BUSY c) ∨ (s.mode = .safe ∧ r ≠ 1 ∧ r ≠ 2) then ignored s
  else match r with
    | 1 => if st = .online then done (s.chanDrain c 1) else ignored s
    | 2 => if st = .quiesced ∨ st = .draining then
        done ((s.chanOnline c 1).modChan c fun x => { x with vpt := { x.vpt with drift := false } }) else ignored s
    | 3 => if st = .quiesced then done (s.runStart c 1 .retrain) else ignored s
    | 4 => if st = .quiesced then done (s.chanOffline c 1) else ignored s
    | 5 => if st = .offline ∧ s.recoverable c then done (s.recover c) else ignored s
    | 6 => if (st = .quiesced ∨ st = .offline) ∧ s.ledgerTakes 5 (targetOf c 0 0 0) then
        done ((s.setFlag (F.CH_STATE_REQ_BUSY c) true).ledgerQueue ⟨5, 6, targetOf c 0 0 0, 0, .chRetire c⟩) else ignored s
    | _ => ignored s

/-! ### Entry into retention -/

/-- Step 1 of the table Retention entry: every pending shadow applied (R77). -/
def State.applyAll (s : State) : State :=
  (((((s.applyShadows fun _ => true).settleDue s).settleLevels s).each 12 fun m t => t.followPreset m).putDeliverable.applyLower.admitRaises).putSum.putExceeded

/-- A native move to a spare that waits for its cycle is made. -/
def State.spareLeft (s : State) (c : Nat) : State :=
  match (s.chan c).scrub.sparing with
  | some x => (s.moveCycle c).spareOut c x.1 x.2
  | none => s

/-- Step 2: every dirty slot of a channel, and the row in its scrub buffer, written back; every slot EMPTY. Refreshes that
were issued end (R372); what the channel had begun for a request begins again. -/
def State.emptySlots (s : State) (c : Nat) : State :=
  let s0 := (s.chan c).refresh.busy.foldl (fun t b => t.lapStep c b) (s.spareLeft c)
  let s1 := (s.chan c).slots.foldl (fun t e => if e.2.state.isDirty then t.putBack e.2.loc e.2.data else t) s0
  let s2 := match (s1.chan c).scrub.buffer with
    | some loc => s1.putBack loc (s1.chan c).scrub.bufData
    | none => s1
  let s3 := s2.modChan c fun x =>
    { x with slots := [], fills := [], held := [], refresh := { x.refresh with due := [], busy := [] },
             scrub := { x.scrub with buffer := none, bufData := [] } }
  { s3 with txns := s3.txns.map fun t =>
      if s3.txnIn c t && t.stage.working && !t.answered then { t with stage := .queued, launched := false, merged := none }
      else t }

/-- Step 6: the mainbands of ACTIVE modules enter L1. -/
def State.parkLinks (s : State) : State :=
  s.each 12 fun m t => if (t.mod m).stage = .active then t.setStage m .l1 else t

/-- An audit entry, a ledger write: everything that waits for MRAM is committed (R123, R396, R439, R360). -/
def State.commitMram (s : State) : State :=
  let s1 := s.each s.mram.ledgerJobs.length fun _ t => t.ledgerWriteDone true
  let s1 := if s1.mram.ledgerAct.isSome then s1.ledgerActionEnd true else s1
  let s2 := (s1.commitPending).each s1.mram.auditWait.length fun _ t => t.auditEnd true
  let s3 := (s2.save (s2.snapshot summaryRegs)).save (s2.snapshot wearRegs)
  { s3 with mram := { s3.mram with summaryWrite := none, wearWrite := none, summaryAt := some s3.now, wearAt := some s3.now } }

/-- A mode request is refused because of what runs (R105). A program that has ended counts as not running while its record is
still to be written; an entry into DEEP RETENTION then drops the record (log entry 121). -/
def State.entryHeld (s : State) : Bool :=
  (List.range 32).any fun c =>
    let x := s.chan c
    x.eng.busy || x.st == .draining || x.st == .retraining ||
      (List.range 8).any fun q => s.queueServed c q && s.pends c q

/-- Some slot is FENCED (R105). -/
def State.someFenced (s : State) : Bool :=
  (List.range 32).any fun c => (s.chan c).slots.any fun e => e.2.state == .fenced

/-- What is noted at an entry: the channel states, nothing saved yet. -/
def State.noteEntry (s : State) : State :=
  { s with retained := some ⟨(List.range 32).map fun c => (s.chan c).st, [], [], [], []⟩ }

/-- Steps 1, 2, 5 and 6 of the table Retention entry (R118). -/
def State.enterSelfRefresh (s : State) : State :=
  let s1 := (List.range 32).foldl (fun t c => t.emptySlots c) s.noteEntry.applyAll
  { s1.parkLinks with mode := .selfRefresh, ownSelf := 0 }

/-- A channel that can hold a context (R119). -/
def State.ctxUsable (s : State) (c : Nat) : Bool := (s.chan c).st == .online || (s.chan c).st == .quiesced

/-- The lowest channel that can hold a context in a tier other than that of channel `other`. -/
def State.ctxOther (s : State) (other : Nat) : Option Nat :=
  (List.range 32).find? fun k => s.ctxUsable k && k / 8 != other / 8

/-- The context channels of an entry into DEEP RETENTION (R119). -/
def State.context (s : State) : Option (Nat × Nat) :=
  let a := s.fld F.FLT_DUMP_CFG_CH_A
  let b := s.fld F.FLT_DUMP_CFG_CH_B
  if s.ctxUsable a then (if s.ctxUsable b then some (a, b) else (s.ctxOther a).map fun k => (a, k))
  else if s.ctxUsable b then (s.ctxOther b).map fun k => (k, b)
  else match (List.range 32).find? s.ctxUsable with
    | some k => (s.ctxOther k).map fun j => (k, j)
    | none => none

/-- Registers that DEEP RETENTION leaves whole: those of the always-on island, XPT_ADDR_MAP (R29), the wear indices, which
MRAM holds (R439), what RECOVER writes anew (R257), and what follows state that lasts: the taps, the timing sets, the
rails' power-good (log entry 16). -/
def keptWhole (a : Nat) : Bool :=
  a == 0x20040 || (a < eastOffset && islandOf .west a == 52) ||
  (match regAt a with
   | some (.THM_WEAR_IDX, _, _) | some (.THM_WEAR_STS, _, _) | some (.LAG_LOST_CNT, _, _) | some (.LAG_LOST, _, _)
   | some (.UCI_EQ, _, _) | some (.PWR_DIE_PGOOD, _, _) | some (.REF_TSETA, _, _) | some (.REF_TSETB, _, _) => true
   | _ => false)

/-- The part of a register that DEEP RETENTION leaves: whole, what MRAM holds of it, the fence and the lost layer (R255),
the lost map (R347), a module's stage, rate, exclusion and repairs, the spares in use, the boot count. Counters and
results are not among them (R120). -/
def deepPart (a : Nat) (w : Word) : Word :=
  if keptWhole a then w
  else match regAt a with
    | some (.CH_FENCE_STS, _, _) => w &&& 0xC0F00000#32
    | some (.ECC_EXT_STS, _, _) => w &&& 0x80000000#32
    | some (.UCI_STS, _, _) => w &&& 0xFFFF0000#32
    | some (.VPT_STS, _, _) => w &&& 0x0000FF00#32
    | some (.ECC_LIFE_UE, c, _) => BitVec.ofNat 32 (putBits 0 (F.ECC_LIFE_UE_BOOT c).hi (F.ECC_LIFE_UE_BOOT c).lo
        (bitsOf w.toNat (F.ECC_LIFE_UE_BOOT c).hi (F.ECC_LIFE_UE_BOOT c).lo))
    | _ => mramPart a w

/-- DEEP RETENTION leaves something of a register. -/
def keptInDeep (a : Nat) : Bool :=
  keptWhole a || inMram a ||
  (match regAt a with
   | some (.CH_FENCE_STS, _, _) | some (.ECC_EXT_STS, _, _) | some (.UCI_STS, _, _) | some (.VPT_STS, _, _)
   | some (.ECC_LIFE_UE, _, _) => true
   | _ => false)

/-- Service rows that an entry writes in a layout of the device's own: rows 52 and 53 of the channels whose map is saved,
rows 60 to 63 of the context channels (R118). What they then hold is not stated. -/
def ctxRow (s : State) (x : Nat × Nat) (loc : Nat) : Bool :=
  locClass loc == 2 && ((s.ctxUsable (locCh loc) && (locRow loc == 52 || locRow loc == 53)) ||
    ((locCh loc == x.1 || locCh loc == x.2) && 60 ≤ locRow loc))

/-- The rows that an entry writes are written once more: what they hold now is not stated (log entry 4). -/
def State.countCtx (s : State) (x : Nat × Nat) : State :=
  let up (m : Store Nat) (k : Nat) : Store Nat := m.set (fun _ => 0) k (m.get (fun _ => 0) k + 1)
  let maps := (below 32 s.ctxUsable).foldl (fun m c => up m (2 * c)) s.ctxWrites
  { s with ctxWrites := up (up maps (2 * x.1 + 1)) (2 * x.2 + 1), array := s.array.erase fun k => ctxRow s x (k / 64) }

/-- Steps 3 and 4 of the table Retention entry: maps, trackers, fields and queue indices saved, the last to the context
channels, whose numbers GLB_RET_CTX records (R118, R119, R383). -/
def State.saveContext (s : State) (x : Nat × Nat) : State :=
  let s1 := ((s.setFlag F.GLB_RET_CTX_VALID true).setFld F.GLB_RET_CTX_CTX_A x.1).setFld F.GLB_RET_CTX_CTX_B x.2
  let l := s1.retained.getD ⟨[], [], [], [], []⟩
  let saved : Retained := { l with
    states := (List.range 32).map fun c => (s1.chan c).st
    regs := s1.regs.filter fun e => !keptInDeep e.1
    queues := (List.range 32).map fun c => ((s1.chan c).eng.own.toList, (s1.chan c).eng.prx.toList)
    maps := (List.range 32).map fun c => (s1.chan c).mapSeen
    trackers := (List.range 32).map fun c => (s1.chan c).refresh.trackers }
  { s1 with retained := some saved }.countCtx x

/-- A channel whose island is off: its state, what its core dies hold and its conductor spares remain. -/
def Chan.powerOff (x : Chan) : Chan :=
  { Chan.reset with
    st := x.st
    refresh := { Chan.reset.refresh with lap := x.refresh.lap, wrapped := x.refresh.wrapped }
    vpt := { Chan.reset.vpt with spares := x.vpt.spares } }

/-- Step 7: islands 0 to 51 and 53 to 56 off (R118, R120). A session ends and is logged at the exit (R489, R493). -/
def State.powerOff (s : State) : State :=
  let s0 := (s.dropSession.lockPll .west false).lockPll .east false
  let s1 := s0.each 12 fun m t => t.setFlag (F.GLB_ISL_STS_LOCKED (36 + m)) false
  { s1 with
    mode := .deepRetention, regs := s1.keepParts keptInDeep deepPart, shadows := [], flowShadows := [],
    holders := s1.holders.erase fun k => islandOf .west (k % 2 ^ 24) != 52,
    latches := s1.latches.erase fun k => islandOf .west (k % 2 ^ 24) != 52,
    popHold := [], fieldCopies := [], straits := [], rails := [], qosFence := none, guar := [], caps := [], demand := [],
    served := [], urgSince := [], floorStale := true, chans := s1.chans.map Chan.powerOff, calNow := [], calRun := none,
    cwy := Cwy.reset, obs := { State.reset.obs with events := s1.obs.events, counted := s1.obs.counted },
    thermal := State.reset.thermal,
    mram := { s1.mram with ledgerAct := none, fuseCancel := none, calWrite := [], calTemp := [] } }

/-- Entry into DEEP RETENTION from ACTIVE or SELF-REFRESH (R118). -/
def State.enterDeep (s : State) (x : Nat × Nat) : State :=
  let s1 := if s.mode = .selfRefresh then s.applyAll else s.enterSelfRefresh
  (s1.saveContext x).powerOff

/-! ### Exits -/

/-- What an exit leaves: the mode (SAFE while a cause is set, R106), REQ_BUSY, POLL_SUMMARY.DONE, SHUTDOWN_DONE. -/
def State.exitDone (s : State) : State :=
  let safe := s.fld F.GLB_MODE_STS_SAFE_CAUSE != 0
  let s1 := { s with mode := if safe then .safe else .active, retained := none }.setFlag F.GLB_MODE_REQ_BUSY false
  (if safe then s1 else s1.setFlag F.GLB_MODE_STS_SHUTDOWN_DONE false).latch F.POLL_SUMMARY_DONE

/-- The restored sample points of every channel checked: one that fails enters OFFLINE with CH_VP (R388, R389); its
LAST_CAUSE is log entry 117. `run` tells the restore of an exit from DEEP RETENTION, which is a run (R398), from the check
of a frequency change, which is none. -/
def State.checkPoints (s : State) (e : ExitEnv) (run : Bool) : State :=
  s.each 32 fun c t =>
    if !(t.chan c).st.inService then t
    else
      let r := if run then t.restoreChannel e.restoreErr c else t.checkChannel e.restoreErr c
      if r.2 then r.1 else (r.1.chanOffline c 4).raise (128 + 4 * c + 1) 16

/-- Exit as from SELF-REFRESH (R122): the frequency point of NEXT, spines restarted, self-refresh left, the mainbands
woken; a module that fails to leave L1 stays there until its bound (R152). -/
def State.wake' (s : State) (e : ExitEnv) (check : Bool) : State :=
  let change := s.fld F.GLB_FPOINT_NEXT_NEXT != s.fld F.GLB_MODE_FPOINT
  let s1 := s.setFld F.GLB_MODE_FPOINT (s.fld F.GLB_FPOINT_NEXT_NEXT)
  let s2 := if check || change then s1.checkPoints e check else s1
  let s3 := { s2 with ownSelf := 0, floorStale := true }.each 32 fun c t =>
    (t.handBack c fun _ => true).modChan c fun x => { x with refresh := { x.refresh with tickAt := s.now }, lastVc := s.now }
  s3.each 12 fun m t =>
    if (t.mod m).stage = .l1 ∧ !e.l1Fails.getLsbD m then t.setStage m .active else t

/-- The saved fields and queue indices restored from a copy that passes its check, or CTX_RESTORE (R121). -/
def State.restoreFields (s : State) (e : ExitEnv) (l : Retained) : State :=
  if e.fieldsA || e.fieldsB then
    let s1 := l.regs.foldl (fun t x => match regAt (x.1 % eastOffset) with
      | some (r, _, _) => t.setReg x.1 (BitVec.ofNat 32 (savedFields r (t.reg x.1).toNat x.2.toNat))
      | none => t) s
    (s1.seedTags s).each 32 fun c t => match l.queues[c]? with
      | some q => t.modEng c fun g => { g with
          own := Vector.ofFn fun k : Fin 8 => q.1.getD k.val QSet.start
          prx := Vector.ofFn fun k : Fin 8 => q.2.getD k.val QSet.start }
      | none => t
  else s.raise 98 1

/-- The extent map of a channel put back, with its count of written extents. -/
def State.putMap (s : State) (c : Nat) (m : Store Bool) : State :=
  (s.modChan c fun x => x.setMap m).setFld (F.ECC_EXT_STS_WRITTEN_CNT c) m.length

/-- The trackers of a channel put back; a bank whose table is saturated is counted so (R382, R383). -/
def State.putTrackers (s : State) (c : Nat) (t : Store (List TrkEntry)) : State :=
  s.modChan c fun x => { x with refresh := { x.refresh with trackers := t } }.noteSats (s.fld (F.REF_CFG_TRK_THRESH c))

/-- The extent map and trackers of channel `c` restored; a channel whose copies all fail enters OFFLINE with MAP_LOST and
CH_UE (R121). -/
def State.restoreMap (s : State) (e : ExitEnv) (l : Retained) (c : Nat) : State :=
  let st := l.states.getD c .retired
  if st = .retired then s
  else if e.mapA.getLsbD c || e.mapB.getLsbD c then
    let s1 := s.putMap c (l.maps.getD c [])
    if st = .offline then s1.restartTrackers c else s1.putTrackers c (l.trackers.getD c [])
  else
    let s1 := ((s.chanOffline c 2).setFlag (F.ECC_EXT_STS_MAP_LOST c) true).raise (128 + 4 * c) 4
    if st = .offline then s1.restartTrackers c else s1

/-- The tiers of the channels that were in service in `before` and are not now, as a mask. -/
def State.lostTiers (s before : State) : Nat :=
  (below 4 fun t => (List.range 8).any fun j =>
    (before.chan (8 * t + j)).st.inService && !(s.chan (8 * t + j)).st.inService).foldl (fun a t => a + 2 ^ t) 0

/-- Exit from DEEP RETENTION (R121): islands on, PLLs locked, the vertical path restored from stored calibration, fields,
indices, maps and trackers read back; then as from SELF-REFRESH. The run of the restore ends with the tiers of the
channels that fail it: they enter OFFLINE, and only BRING-UP trains in full (R389, R398, log entry 100). RESTORED is set at every
such exit (log entry 117). -/
def State.exitDeep (s : State) (e : ExitEnv) : State :=
  let s0 := (s.lockPll .west e.plls).lockPll .east e.plls
  let s1 := s0.each 12 fun m t => t.setFlag (F.GLB_ISL_STS_LOCKED (36 + m)) ((t.mod m).stage != .reset)
  if !e.plls then ((s1.stopHalf .west).stopHalf .east).raiseCond 0 3
  else
    let l := s1.retained.getD ⟨[], [], [], [], []⟩
    let boot := s1.boot
    let s2 := ((s1.each 26 fun i t => t.loadRecord i).fromMram summaryRegs).setBoot boot
    let s3 := (s2.restoreFields e l)
    let s4 := s3.each 32 fun c t => t.restoreMap e l c
    let s5 := { s4 with mode := .selfRefresh,
                        cwy := { s4.cwy with listening := if s4.pins.mgrEn then some s4.now else none, lastBeat := s4.now } }
    let s6 := s5.wake' e true
    let bad := s6.lostTiers s5
    ((s6.setFlag F.GLB_MODE_STS_RESTORED true).endRun 0 (b2n (bad != 0)) 0 bad).logEnded.exitDone

/-- Exit from SELF-REFRESH (R122). -/
def State.exitSelfRefresh (s : State) (e : ExitEnv) : State := (s.wake' e false).exitDone

/-! ### Requests of GLB_MODE -/

/-- The modes that a request leaves (table Mode transitions). -/
def reqFrom (r : Nat) (m : Mode) : Bool :=
  match r, m with
  | 1, .active | 2, .active | 2, .selfRefresh | 3, .selfRefresh | 3, .deepRetention | 3, .safe | 4, .active | 4, .safe
  | 5, .active => true
  | _, _ => false

/-- A request of GLB_MODE is accepted (R97, R103, R105). -/
def State.reqOk (s : State) (r : Nat) : Bool :=
  reqFrom r s.mode && !s.flag F.GLB_MODE_REQ_BUSY &&
    (if r = 3 then s.mode != .safe || s.fld F.GLB_MODE_STS_SAFE_CAUSE == 0
     else !s.entryHeld && (r == 5 || !s.someFenced) && (r != 2 || s.context.isSome))

/-- Ordered shutdown without test (R123). -/
def State.shutdown (s : State) : State :=
  let s1 := s.enterSelfRefresh.commitMram
  s1.shutdownDone

/-- Ordered shutdown with test, steps 1 to 4 (R124). -/
def State.shutdownTest (s : State) : State :=
  let s1 := { s.commitMram.setFlag F.GLB_MODE_REQ_BUSY true with mode := .shutdownTest }
  s1.startTest

/-- An accepted request carried out. The device stays busy only with a shutdown test: every other change has finished when
the write completes. -/
def State.modeChange (s : State) (r : Nat) (e : ExitEnv) : State :=
  match r with
  | 1 => s.enterSelfRefresh.latch F.POLL_SUMMARY_DONE
  | 2 => match s.context with
    | some x => (s.enterDeep x).latch F.POLL_SUMMARY_DONE
    | none => s
  | 3 =>
    if s.mode = .selfRefresh then s.exitSelfRefresh e
    else if s.mode = .deepRetention then s.exitDeep e
    else s.exitDone
  | 4 => s.shutdown
  | 5 => s.shutdownTest
  | _ => s

/-- A write of GLB_MODE (R97). -/
def State.wGlbMode (s : State) (w : Word) (e : ExitEnv) : Res :=
  let r := bitsOf w.toNat 31 28
  if r = 0 then done s else if s.reqOk r then done (s.modeChange r e) else ignored s

end Sys2Proof.Machine
end

