-- ==== Sys2Proof/Machine/Access.lean ====
section
/-!
DEFINITION. Register accesses (R62 to R101, R137 to R139, R173 to R175): reads and writes as one operation over every
register, the paths that bring them, and the ways they are answered.
-/
namespace Sys2Proof.Machine

/-- What the outside gives the writes that ask for a mode change or a firmware update. -/
structure Given where
  exit : ExitEnv
  image : ImageCheck
  deriving DecidableEq, Repr

/-- The outside of a write that comes as a plain register access: every check passes. -/
def Given.plain : Given :=
  ⟨⟨true, true, BitVec.allOnes 32, BitVec.allOnes 32, true, [], 0⟩, ⟨true, 1, 0⟩⟩

/-! ### Whether an access is served -/

/-- The status of an access that the device mode does not serve (table Modes, R102; R93, R101). -/
def State.modeStatus (s : State) (p : Path) : Option Status :=
  match s.mode, p with
  | .fatal, .sb _ | .deepRetention, .sb _ | .selfRefresh, .sb _ | .selfRefresh, .fw _ | .shutdownTest, .sb _
  | .shutdownTest, .fw _ | .shutdownTest, .eng _ _ => none
  | .fatal, _ | .deepRetention, _ | .selfRefresh, _ | .shutdownTest, _ => some .unavailable
  | .reset, _ | .bringUp, _ | .active, _ | .safe, _ => none

/-- The islands an access needs: the one that holds the block, both fabrics for a write of a mirrored one (R91, R101). -/
def accessIslands (h : Half) (a : Nat) (write : Bool) : List Nat :=
  if isMirrored a && write then [48, 49] else [islandOf h a]

/-- The status of an access that is refused before its register is looked at (R68, R91), or none. -/
def State.refused (s : State) (p : Path) (a : Nat) (write : Bool) : Option Status :=
  match s.modeStatus p with
  | some st => some st
  | none =>
    if a % 4 ≠ 0 ∨ !inBlock a then some .unmapped
    else if (accessIslands (pathHalf p) a write).any s.islandDown then some .unavailable
    else none

/-! ### Reads -/

/-- A read of a register that passed its checks: a pop, the halves of a pair, or the word in force (R62, R85, R87). -/
def State.readReg (s : State) (p : Path) (r : Reg) (u i : Nat) : Res :=
  let n := pathNum p
  let v := s.view n (pathHalf p) r u i
  if r = .ECC_LOG_POP then s.popLog n u
  else match pairHigh r with
    | some hi =>
      ⟨{ s with latches := s.latches.set (fun _ => none) (pathKey n (adr hi u i)) (some (s.view n (pathHalf p) hi u i)) },
        .ok, v, false⟩
    | none =>
      if isPairHigh r then
        match s.latches.get (fun _ => none) (pathKey n (adr r u i)) with
        | some w => ⟨{ s with latches := s.latches.set (fun _ => none) (pathKey n (adr r u i)) none }, .ok, w, false⟩
        | none => ⟨s, .ok, v, false⟩
      else ⟨s, .ok, v, false⟩

/-! ### Writes -/

/-- What path `n` holds for the high half of a pair. -/
def State.held (s : State) (n : PathNum) (a : Nat) : Option Word := s.holders.get (fun _ => none) (pathKey n a)

/-- The holder of a path set or emptied. -/
def State.setHeld (s : State) (n : PathNum) (a : Nat) (w : Option Word) : State :=
  { s with holders := s.holders.set (fun _ => none) (pathKey n a) w }

/-- A write of the high half of a pair: held for the path (R63, R85). -/
def State.writeHigh (s : State) (n : PathNum) (r : Reg) (u i : Nat) (w : Word) : Res :=
  done (s.setHeld n (adr r u i) (some w))

/-! ### The management tick -/

/-- The correction summary is written when it differs from what MRAM holds and 1 s has passed (R360), by the core of the half that
holds the token (R459). -/
def State.summaryTick (s : State) : State :=
  let due := match s.mram.summaryAt with
    | none => true
    | some t => decide (t + 1000000000 ≤ s.now)
  if s.mramRuns && s.mram.summaryWrite.isNone && due && summaryRegs.any (fun a => s.reg a != s.mram.saved.get (regReset s.part) a) then
    { s with mram := { s.mram with summaryWrite := some (s.snapshot summaryRegs), summaryAt := some s.now } }
  else s

/-- A management tick: global shadows are applied, then the work of the management cores that runs at ticks: strap
override (R73, R491), power step (R418), correction summary (R360). A parity error of always-on state
that is found raises AON_PARITY, whose reaction is FATAL, and ends it (R444, log entry 33). -/
def State.tickWork (s : State) : State :=
  let s1 := ((s.applyShadows domGlobal).settleDue s).settleLevels s
  if s.aonUpset then { s1 with aonUpset := false }.raise 9 0
  else if s.mode = .deepRetention ∨ s.mode = .fatal then s1 else s1.strapTick.powerTick.summaryTick

/-- The tick and the window boundary that a write of the time base gives which moved it past a multiple of 10,000 ns or of
1,000 ns (R73, log entry 103). -/
def State.ticksPast (s before : State) : State :=
  let past (k : Nat) : Bool := s.timeBase.toNat / k != before.timeBase.toNat / k
  let s1 := if past 1000 && s.mode != .deepRetention then s.qosWindow else s
  if past 10000 then s1.tickWork else s1

/-- A write of GLB_TIME_LO: the time base takes the written lower half and the held upper half, or its own (R63). -/
def State.writeTimeLo (s : State) (n : PathNum) (w : Word) : Res :=
  let a := adr .GLB_TIME_HI
  let hi : Word := (s.held n a).getD ((s.timeBase >>> 32).setWidth 32)
  done ({ s.setHeld n a none with timeBase := hi ++ w }.ticksPast s)

/-- A write of the low half of another pair, with what the path holds of the high half (R85). -/
def State.writeLow (s : State) (n : PathNum) (r hi : Reg) (u i : Nat) (w : Word) : Res :=
  let a := adr hi u i
  match s.held n a with
  | some h => done (((s.plainWrite n r u i w).plainWrite n hi u i h).setHeld n a none)
  | none => done (s.plainWrite n r u i w)

/-- A write of a counter, by its low half (R85, R500). -/
def State.wCnt (s : State) (n : PathNum) (r hi : Reg) (c : Option Nat) (u i : Nat) (w : Word) : Res :=
  let x := s.writeLow n r hi u i w
  { x with st := x.st.cntWritten c i }

/-- Every channel is out of traffic: MODE of XPT_ADDR_MAP may change though something was written (R27). -/
def State.allOut (s : State) : Bool := (List.range 32).all fun c => (s.chan c).st.quiet

/-- A write of XPT_ADDR_MAP (R27). -/
def State.wAddrMap (s : State) (n : PathNum) (w : Word) : Res :=
  if bitsOf w.toNat 1 0 ≠ s.fld F.XPT_ADDR_MAP_MODE ∧ s.flag F.XPT_ADDR_MAP_ANY_WRITTEN ∧ !s.allOut then ignored s
  else done (s.plainWrite n .XPT_ADDR_MAP 0 0 w)

/-- A write of GLB_ACC_FAULT: REG_ACCESS ends with its last bit (R98, R444). -/
def State.wAccFault (s : State) (n : PathNum) (w : Word) : Res :=
  let s1 := s.plainWrite n .GLB_ACC_FAULT 0 0 w
  done (if s1.reg (adr .GLB_ACC_FAULT) = 0 then s1.endCondition 5 else s1)

/-- A write of PWR_RAIL_LIM, reserved to a session (R58, R80). -/
def State.wRailLimOf (s : State) (p : Path) (i : Nat) (w : Word) : Res :=
  if s.sessionOk p then s.wRailLim (pathNum p) i w else s.deny p (adr .PWR_RAIL_LIM 0 i) true

/-- A write of a queue's register: those of q7 are secure (R266). -/
def State.secureQueue (s : State) (p : Path) (r : Reg) (u q : Nat) (k : Res) : Res :=
  if q = 7 ∧ !isSecure p then s.deny p (adr r u q) true else k

/-- A write that passed the checks common to all registers: the effect its register's chapter gives it, or the fields
alone. -/
def State.writeReg (s : State) (p : Path) (r : Reg) (u i : Nat) (w : Word) (g : Given) (ans : Answer) : Res :=
  let n := pathNum p
  match r with
  | .GLB_TIME_LO => s.writeTimeLo n w
  | .GLB_MODE => s.wGlbMode w g.exit
  | .GLB_ACC_FAULT => s.wAccFault n w
  | .GLB_DIE_RST => s.wDieRst n w
  | .GLB_ISL_CTL => s.wIslCtl p i w ans
  | .GLB_FPOINT_NEXT => s.wFpointNext n w
  | .AUTH_ASSIGN => s.wAuthAssign w
  | .AUTH_FWU_CTL => s.wFwuCtl n w g.image
  | .LC_SESS_CTL => s.wSessCtl p w
  | .LC_RESP => s.wResp i w
  | .LC_CTL => s.wLcCtl p w
  | .LC_STRAP_OVR => s.wStrapOvr p w
  | .LC_TRN_OVR => s.wTrnOvr p w
  | .LC_AUD_IDX => s.wAudIdx n w
  | .FLT_STICKY => s.wSticky i w
  | .FLT_PINEN => s.wPinen i w
  | .FLT_INJ => s.wFltInj p w
  | .FLT_DUMP_CFG => s.wDumpCfg n w
  | .FLT_DUMP_CTL => s.wDumpCtl n w
  | .PWR_RAIL_LIM => s.wRailLimOf p i w
  | .CAL_CTL => s.wCalCtl p w
  | .CAL_LDG_CTL => s.wLdgCtl p w
  | .CAL_FUSE_CTL => s.wFuseCtl p w
  | .CAL_LDG_IDX => s.wLdgIdx n w
  | .CAL_TST_IDX => s.wTstIdx n w
  | .THM_WEAR_CFG => s.wWearCfg n w
  | .CWY_CFG => s.wCwyCfg n w
  | .UCI_CTL => s.wUciCtl n u w
  | .UCI_LPBK_CTL => s.wLpbkCtl n u w
  | .XPT_ADDR_MAP => s.wAddrMap n w
  | .XPT_INJ_CTL => s.wInjCtl n w
  | .QOS_FENCE => s.wQosFence w
  | .FLOW_W0 => s.wFlow n i 0 w
  | .FLOW_W1 => s.wFlow n i 1 w
  | .FLOW_W2 => s.wFlow n i 2 w
  | .CH_STATE => s.wChState u w
  | .LAG_CTL => s.wLagCtl u w
  | .EXD_QCFG => s.secureQueue p .EXD_QCFG u i (s.wQcfg n u i w)
  | .EXD_QCTL => s.secureQueue p .EXD_QCTL u i (s.wQctl n u i w)
  | .EXD_QDB => s.secureQueue p .EXD_QDB u i (s.wQdb u i w)
  | .EXD_QCNT => s.secureQueue p .EXD_QCNT u i (done (s.plainWrite n .EXD_QCNT u i w))
  | .EXD_QSTS => s.secureQueue p .EXD_QSTS u i (done (s.plainWrite n .EXD_QSTS u i w))
  | .EXD_CTL => s.wExdCtl p u w
  | .EXD_CFG => s.wExdCfg n u w
  | .ECC_LOG_POP => ignored s
  | .ECC_EXT => s.wExt n u w
  | .ECC_INJ_CTL => s.wEccInj n u w
  | .VPT_PROBE => s.wVptProbe n u w
  | .OBS_CNT_CFG => s.wCntCfg n .OBS_CNT_CFG u i w
  | .CH_CNT_CFG => s.wCntCfg n .CH_CNT_CFG u i w
  | .OBS_CNT_LO => s.wCnt n .OBS_CNT_LO .OBS_CNT_HI none u i w
  | .CH_CNT_LO => s.wCnt n .CH_CNT_LO .CH_CNT_HI (some u) u i w
  | .OBS_CTL => s.wObsCtl n w
  | .OBS_TAG_CFG => s.wTagCfg n w
  | .OBS_TRC_CTL => s.wTrcCtl n w
  | .OBS_TRC_RD => s.wTrcRd n w
  | .OBS_TRC_MARK => s.wTrcMark w
  | r =>
    if isPairHigh r then s.writeHigh n r u i w
    else match pairHigh r with
      | some hi => s.writeLow n r hi u i w
      | none => done (s.plainWrite n r u i w)

/-- A write in FATAL: FLT_DUMP_CTL, and MAKE_PRIMARY of UCI_CTL (R93, R455, R140). -/
def State.writeFatal (s : State) (p : Path) (r : Reg) (u : Nat) (w : Word) : Res :=
  match r with
  | .FLT_DUMP_CTL => s.wDumpCtl (pathNum p) w
  | .UCI_CTL => s.wUciCtlFatal u w
  | _ => ignored s

/-- A write of firmware that the token does not permit: a global-state register written by the half that does not hold
it (R461). -/
def State.bounces (s : State) (p : Path) (a : Nat) : Bool :=
  match p with
  | .fw h => (a < 0x10000 || (0x20000 ≤ a && a < 0x40000)) && decide (s.holder ≠ h)
  | .sb _ | .ctl _ _ | .eng _ _ => false

/-- A register whose LOCK is 1 (R81). -/
def State.locked (s : State) (r : Reg) (a : Nat) : Bool := hasLock r && bitOf (s.reg a).toNat 31

/-- A write with a field out of range is IGNORED (R69), after what its register refuses a path: the registers of q7 one
that is not secure (R266), LC_SESS_CTL an engine (R485). -/
def State.outOfRange (s : State) (p : Path) (r : Reg) (u i : Nat) (w : Word) : Res :=
  match r with
  | .EXD_QCFG | .EXD_QCTL | .EXD_QDB | .EXD_QCNT | .EXD_QSTS => s.secureQueue p r u i (ignored s)
  | .LC_SESS_CTL => s.wSessBad p w
  | _ => ignored s

/-- The checks common to the writes of all registers, then the write (R69, R70, R81, R93, R461). -/
def State.writeChecked (s : State) (p : Path) (a : Nat) (r : Reg) (u i : Nat) (w : Word) (g : Given) (ans : Answer) : Res :=
  if s.mode = .fatal then s.writeFatal p r u w
  else if s.bounces p a then s.bounce (pathHalf p)
  else if s.locked r a then s.lockViolation p a
  else if !inRange r w.toNat then s.outOfRange p r u i w
  else s.writeReg p r u i w g ans

/-! ### Accesses -/

/-- An access to a named register (R79, R90). -/
def State.accessReg (s : State) (p : Path) (a : Nat) (r : Reg) (u i : Nat) (write : Bool) (w : Word) (g : Given)
    (ans : Answer) : Res :=
  if r.prv && !s.allowed p then s.deny p a write
  else if write then
    let x := s.writeChecked p a r u i w g ans
    if x.status = .ok then { x with st := x.st.traceEv 4 (a / 4) w.toNat } else x
  else s.readReg p r u i

/-- A register access of a path at an address: served, or refused (R66 to R93). A write of an address that no register
names is IGNORED in FATAL, as every write there is (R68, R93). -/
def State.access (s : State) (p : Path) (a : Nat) (write : Bool) (w : Word) (g : Given) (ans : Answer) : Res :=
  match s.refused p a write with
  | some .unmapped => ⟨s.accFault 2 (pathNum p) a write, .unmapped, 0, false⟩
  | some st => ⟨s, st, 0, false⟩
  | none =>
    let s1 := (accessIslands (pathHalf p) a write).foldl State.wake s
    let open0 := s.life.session != 0 && s.life.sessPath == pathNum p
    let x := match regAt a with
      | none => if write ∧ s.mode = .fatal then ignored s1 else done s1
      | some (r, u, i) => s1.accessReg p a r u i write w g ans
    if x.status = .ok then { x with st := x.st.noteAccess open0 (pathNum p) write a w } else x

/-! ### The paths -/

/-- The completion of an access: sent on its path, unless the write of an accepted RESET_REQ is held until its island
reset has run (R53, R90). -/
def finish (p : Path) (a : Nat) (write : Bool) (ans : Answer) (x : Res) : State :=
  if x.held then x.st
  else x.st.complete (pathNum p) a write ans x.status (if x.status = .ok then x.data else 0)

/-- A path is there whose accesses are served: the sideband is up, the module is in service, the core runs, the engine
runs (R89, R133, R148). -/
def State.pathUp (s : State) (p : Path) : Bool :=
  s.mode != .reset &&
    (match p with
     | .sb m => (s.mod m).sbUp
     | .ctl m _ => (s.mod m).stage == .active && !s.flag (F.UCI_STS_EXCLUDED m)
     | .eng c _ => (s.chan c).eng.phase == .running
     | .fw h => s.coreRuns h)

/-- CTL accesses still arrive on a module that is out of service: each is answered UNAVAILABLE (R148). -/
def State.outOfService (s : State) : Path → Bool
  | .ctl m _ => s.mode != .reset && s.receives m
  | .sb _ | .eng _ _ | .fw _ => false

/-- A register access commanded on a path, with what the outside gives its effect; the completion goes to the path. -/
def State.direct (s : State) (p : Path) (a : Nat) (write : Bool) (w : Word) (g : Given := Given.plain) : State :=
  if s.pathUp p then finish p a write .direct (s.access p a write w g .direct)
  else if s.outOfService p then s.complete (pathNum p) a write .direct .unavailable 0
  else s

/-- A register write commanded on a path. -/
def State.writeOn (s : State) (p : Path) (r : Reg) (u i : Nat) (w : Word) : State := s.direct p (adr r u i) true w

/-! ### The sideband -/

/-- Register requests a module holds: those whose completion is held (R138). -/
def State.sbHeld (s : State) (m : Nat) : Nat :=
  (s.heldAccesses.filter fun h => match h.answer with | .sideband k _ => k == m | _ => false).length

/-- A REG_RD or REG_WR message: answered by one REG_CPL; a fifth held at once is discarded (R137, R138). -/
def State.sideband (s : State) (m : Fin 12) (d : Nat) (write : Bool) : State :=
  if s.mode = .reset ∨ !(s.mod m).sbUp then s
  else if 4 ≤ s.sbHeld m then s.bump (F.UCI_DROP_CNT_SB_OVERRUN m)
  else
    let a := 4 * bitsOf d 31 10
    let ans : Answer := .sideband m (bitsOf d 7 0)
    finish (.sb m) a write ans (s.access (.sb m) a write (BitVec.ofNat 32 (bitsOf d 63 32)) Given.plain ans)

/-- SIDEBAND_MESSAGE_DISCARD (R138). -/
def State.sidebandDiscard (s : State) (m : Nat) : State :=
  if s.mode ≠ .reset ∧ (s.mod m).sbUp then s.bump (F.UCI_DROP_CNT_SB_DISCARD m) else s

/-! ### The CTL channel -/

/-- A CFG_RD or CFG_WR message at `cell` of module `m` (R173 to R175); at a module out of service it is answered
UNAVAILABLE at once (R148). -/
def State.ctlMessage (s : State) (m : Fin 12) (cell : Nat) (h : Nat) (write : Bool) : State :=
  let x := s.takeMessage m cell 1 (if write then 0x62 else 0x61) h
  if !x.2 then x.1
  else
    let a := 4 * bitsOf h 61 40
    let tag := bitsOf h 21 8
    let outside := (s.mod m).stage ≠ .active ∨ s.flag (F.UCI_STS_EXCLUDED m)
    if outside ∧ (s.mod m).stage.carries = false then x.1.emit (.cfgCpl m tag .unavailable 0)
    else
      let p : Path := .ctl m (bitOf h 36)
      if outside then x.1.complete (pathNum p) a write (.ctl m tag) .unavailable 0
      else finish p a write (.ctl m tag) (x.1.access p a write (BitVec.ofNat 32 (bitsOf h 127 96)) Given.plain (.ctl m tag))

/-! ### ld.cfg and st.cfg -/

/-- An engine waits for the completion of its own access (R53). -/
def State.engHeld (s : State) (c : Nat) : Bool :=
  s.heldAccesses.any fun h => h.answer == .engine && h.path == 16 + c

/-- ld.cfg: one register read on the engine's path (R306). -/
def State.aLdCfg (s : State) (c : Fin 32) (f : Fields) : Att :=
  .when (!f.only { d := true, a := true, m := true, i := true } || 1 < f.m || (f.m == 0 && f.a != 0)) 0x10 <|
    let p : Path := .eng c (Fin.ofNat 8 (s.eng c).queue)
    let x := s.access p (s.cfgAddr c f) false 0 Given.plain .engine
    .done ((x.st.setG c f.d (if x.status = .ok then x.data.setWidth 64 else 0)).setCfgStatus c x.status)

/-- st.cfg: one register write on the engine's path. The write of an accepted RESET_REQ completes when its island reset
has run; the completion is OK (R53, R306). -/
def State.aStCfg (s : State) (c : Fin 32) (f : Fields) : Att :=
  .when (!f.only { a := true, b := true, m := true, i := true } || 1 < f.m || (f.m == 0 && f.a != 0)) 0x10 <|
    if (s.eng c).progress = 1 then
      (if s.engHeld c then .wait s else .done (s.setCfgStatus c .ok))
    else
      let p : Path := .eng c (Fin.ofNat 8 (s.eng c).queue)
      let x := s.access p (s.cfgAddr c f) true ((s.g c f.b).setWidth 32) Given.plain .engine
      if x.held then .wait (x.st.setProgress c 1)
      else .done (x.st.setCfgStatus c x.status)

/-- INSTRUCTION_WAIT_END: of st.cfg, and of the other instructions that wait (R298). -/
def State.waitOver (s : State) (c : Fin 32) : State :=
  let e := s.eng c
  match e.store[e.pc]? with
  | some w =>
    if e.phase = .running ∧ e.waiting.isSome ∧ opOf w = 0x31#8 then s.settleAtt c (s.aStCfg c (fieldsOf w)) else s.waitEnd c
  | none => s

/-! ### Accesses that do not complete -/

/-- REGISTER_ACCESS_TIMEOUT: answered TIMEOUT; a write may or may not have applied, a free choice (R92). -/
def State.accessTimeout (s : State) (p : Path) (a : Nat) (write : Bool) (w : Word) (tag : Nat) : State :=
  if s.mode = .reset then s
  else
    let s1 := s.useFree
    let s2 := if write ∧ Config.freeBool s.free then (s1.access p a true w Given.plain .direct).st else s1
    let s3 := s2.accFault 3 (pathNum p) a write
    match p with
    | .eng c _ => (match s.cfgAt c a write with
      | some f => s3.cfgEnd c f write .timeout 0
      | none => s)
    | .sb _ | .ctl _ _ | .fw _ => s3.complete (pathNum p) a write (answerOf p tag) .timeout 0

/-! ### Accesses in straits -/

/-- The data of a register access that a strait entry carries: its second word (R47, log entry 104). -/
def StraitEntry.data (e : StraitEntry) : Word := e.words.getD 1 0

/-- A register access that a strait has brought to the island of its register is carried out there and completes; an
engine's write that is held lets its st.cfg wait (R53, R306). -/
def State.straitServe (s : State) (p : Path) (a : Nat) (write : Bool) (tag : Nat) (e : StraitEntry) : State :=
  let x := s.access p a write e.data Given.plain (answerOf p tag)
  if e.mute then x.st
  else if x.held then
    (match p with
     | .eng c _ => if (s.cfgAt c a write).isSome then x.st.settleAtt c (.wait (x.st.setProgress c 1)) else x.st
     | .sb _ | .ctl _ _ | .fw _ => x.st)
  else x.st.straitEnd p a write tag x.status (if x.status = .ok then x.data else 0)

/-- An entry that passed its parity check reaches its destination: a register access is carried out at the island of its
register; a request that has reached the fabric is classified there when its turn has come (R201), and one that has
reached its channel is there; any other item goes on by the commands of its chapter (R47, R48). -/
def State.straitReach (s : State) (k : Nat) (e : StraitEntry) : State :=
  match e.owner with
  | .access p a write tag =>
    if (accessIslands (pathHalf p) a.toNat write).contains (straitEnds k).2 then
      s.straitServe p a.toNat write tag.toNat e
    else s
  | .txn m tag => if (straitEnds k).2 = 48 ∨ (straitEnds k).2 = 49 then s.classify m tag.toNat else s
  | .item => s

/-- STRAIT_ENTRY_READ: the oldest entry leaves the strait; a good one reaches its destination (R47, R49). -/
def State.straitTake (s : State) (k : Nat) (hit : Option StraitHit) : State :=
  let t := s.straitRead k hit
  match (s.strait k).entries with
  | [] => t
  | e :: rest =>
    if (t.strait k).entries.length = rest.length ∧ (hitWords e.words hit).map evenParity = e.parity then t.straitReach k e
    else t

/-- POLL_SUMMARY_CLEAR: a write of POLL_SUMMARY, with the latches that are set in the same cycle (R83, R95, R96). -/
def State.pollClear (s : State) (p : Path) (w again : Word) : State :=
  let s1 := s.direct p (adr .POLL_SUMMARY) true w
  let a := adr .POLL_SUMMARY
  let n : Word := again &&& 0x7FF#32
  if s.mode = .reset then s1
  else
    let s2 := if s.reg a &&& ~~~s1.reg a &&& n = 0 then s1
      else s1.setFld F.POLL_SUMMARY_CHANGE_SEQ (s1.fld F.POLL_SUMMARY_CHANGE_SEQ + 1)
    s2.setReg a (s2.reg a ||| n)

end Sys2Proof.Machine
end

