-- ==== Sys2Proof/Machine/Commit.lean ====
section
/-!
DEFINITION. The management tick, the ends of MRAM writes, and `commit`: what the always-on island makes of every command
once its own effect is done (throttle step R219, R414, R443; POLL_SUMMARY R95, R96; counters and trace R497, R504).
-/
namespace Sys2Proof.Machine

/-- MANAGEMENT_TICK (R73). -/
def State.managementTick (s : State) : State :=
  if s.mode = .reset then s
  else
    (s.advanceToMultiple 10000).tickWork

/-- A record that was being written to MRAM is saved, or MRAM_WRITE is raised with its UNIT bit (R444). -/
def State.recordEnd (s : State) (l : Option (Store Word)) (ok : Bool) (bits : Nat) : State :=
  match l with
  | none => s
  | some x => if ok then s.save x else s.raise 104 bits

/-- MRAM_WRITE_END (R360, R439, R444, R454, R493). A write waits while the core of the half that holds the token does not run
(R459); the fatal summary has a writer of its own (R452). -/
def State.mramWriteEnd (s : State) (kind : MramKind) (ok : Bool) : State :=
  match kind with
  | .fatal fails => s.fatalWriteEnd ok fails
  | .audit => s.auditEnd ok
  | .summary => if !s.mramRuns then s else { s with mram := { s.mram with summaryWrite := none } }.recordEnd s.mram.summaryWrite ok 4
  | .wear => if !s.mramRuns then s else { s with mram := { s.mram with wearWrite := none } }.recordEnd s.mram.wearWrite ok 8

/-- The throttle step in force: the highest of HOST_STEP, the step of Heat and Power, and 8 in SAFE (R219, R414). -/
def State.stepInForce (s : State) : Nat :=
  max (max (s.fld F.QOS_THROTTLE_HOST_STEP) (s.fld F.THM_STEP_HEAT)) (if s.mode = .safe then 8 else 0)

/-- GLB_MODE.THROTTLE follows the step in force. -/
def State.setThrottle (s : State) : State := s.holdFloor.setFld F.GLB_MODE_THROTTLE s.holdFloor.stepInForce

/-- What GLB_MODE shows: the mode (BRING-UP is what it leaves RESET with, R97), frequency point and step. -/
def State.modeShown (s : State) : Nat × Nat × Nat :=
  ((if s.mode = .reset then Mode.bringUp.code else s.mode.code), s.fld F.GLB_MODE_FPOINT, s.fld F.GLB_MODE_THROTTLE)

/-- MODE_CHANGE, and its trace entry, when GLB_MODE shows something else (R95, R504). -/
def State.noteMode (s before : State) : State :=
  let x := s.modeShown
  if x = before.modeShown then s
  else (s.latch F.POLL_SUMMARY_MODE_CHANGE).traceEv 2 (x.2.2 * 4096 + x.2.1 * 256 + x.1) 0

/-- CHANGE_SEQ counts the step when a level or a latch rose in it, once (R96). -/
def State.countChange (s before : State) : State :=
  let rose := Nat.land (s.pollWord % 65536) (Nat.xor 0xFFFF (before.pollWord % 65536))
  if rose = 0 ∨ s.fld F.POLL_SUMMARY_CHANGE_SEQ ≠ before.fld F.POLL_SUMMARY_CHANGE_SEQ then s
  else s.setFld F.POLL_SUMMARY_CHANGE_SEQ (s.fld F.POLL_SUMMARY_CHANGE_SEQ + 1)

/-- The state after a command whose own effect made `after` of `before`: BRING-UP goes on to its step 12 when its last
module has settled (R110). Nothing counts in RESET. -/
def commit (before after : State) : State :=
  if after.mode = .reset then { after with obs := { after.obs with events := [] } }
  else ((after.bringCheck.setThrottle.noteMode before).observe before).countChange before

/-- A command carried out: the next state. -/
def finished (before after : State) : Host.Outcome State Fault Refusal := .next (commit before after)

/-- A word with one of its fields replaced: the word of a register write, with the bits that make it the command. -/
def withBits (w : Word) (hi lo v : Nat) : Word := BitVec.ofNat 32 (putBits w.toNat hi lo v)

/-- The word of a write of CAL_CTL that sets RUN, with its KIND (R404). -/
def calRun (kind : Nat) : Word := BitVec.ofNat 32 (2 ^ 31 + kind * 2 ^ 24)

end Sys2Proof.Machine
end

