-- ==== Sys2Proof/Machine/ExecFault.lean ====
section
/-!
DEFINITION. The meanings of the commands about fault registers, injection and the dump (R442 to R458).
-/
namespace Sys2Proof.Machine

/-- FLT_STICKY_CLEAR (R447): A W1C write clears sticky bits whose sources are not live or raised. -/
def execFltStickyClear (p : Path) (r : Fin 8) (w : BitVec 32) (again : List (Fin 32 × BitVec 32)) (s : State) : Host.Outcome State Fault Refusal :=
  finished s ((s.writeOn p .FLT_STICKY 0 r w).raiseAgain s r again)

/-- FLT_INJ_GO (R457): FLT_INJ.GO raises a source and optionally takes its reaction. -/
def execFltInjGo (p : Path) (w : BitVec 32) (s : State) : Host.Outcome State Fault Refusal :=
  finished s (s.writeOn p .FLT_INJ 0 0 (withBits w 31 31 1))

/-- FLT_DUMP_CTL_WRITE (R455): A write of FLT_DUMP_CTL selects a dump block and starts filling the window. -/
def execFltDumpCtlWrite (p : Path) (w : BitVec 32) (s : State) : Host.Outcome State Fault Refusal :=
  finished s (s.writeOn p .FLT_DUMP_CTL 0 0 w)

/-- FLT_DUMP_WINDOW_FILLED (R455): The window holds the selected block and VALID and STATUS are set. -/
def execFltDumpWindowFilled (s : State) : Host.Outcome State Fault Refusal := finished s s.windowFilled

/-- FLT_DUMP_CFG_WRITE (R458): A write of FLT_DUMP_CFG sets the dump channels when they lie in different tiers. -/
def execFltDumpCfgWrite (p : Path) (w : BitVec 32) (s : State) : Host.Outcome State Fault Refusal :=
  finished s (s.writeOn p .FLT_DUMP_CFG 0 0 w)

end Sys2Proof.Machine
end

