-- ==== Sys2Proof/Machine/ExecFlow.lean ====
section
/-!
DEFINITION. The meanings of the commands about flows and service guarantees (R195 to R221).
-/
namespace Sys2Proof.Machine

/-- FLOW_CTX_WORD0_WRITE (R197): A write of context word 0 lands in the flow's shadow. -/
def execFlowCtxWord0Write (p : Path) (f : BitVec 12) (w : BitVec 32) (s : State) : Host.Outcome State Fault Refusal :=
  finished s (s.writeOn p .FLOW_W0 0 f.toNat w)

/-- FLOW_CTX_WORD1_WRITE (R197): A write of context word 1 lands in the flow's shadow. -/
def execFlowCtxWord1Write (p : Path) (f : BitVec 12) (w : BitVec 32) (s : State) : Host.Outcome State Fault Refusal :=
  finished s (s.writeOn p .FLOW_W1 0 f.toNat w)

/-- FLOW_CTX_WORD2_WRITE (R197): A write of context word 2 lands in the shadow and arms it. -/
def execFlowCtxWord2Write (p : Path) (f : BitVec 12) (w : BitVec 32) (s : State) : Host.Outcome State Fault Refusal :=
  finished s (s.writeOn p .FLOW_W2 0 f.toNat w)

/-- QOS_WINDOW_BOUNDARY (R202): The 1 us QoS boundary counts misses, computes D, applies and admits shadows, scales
and refills buckets. -/
def execQosWindowBoundary (s : State) : Host.Outcome State Fault Refusal := finished s s.qosBoundary

/-- REQUEST_CLASSIFY (R201): The fabric takes a request from the module strait and classifies it against the cap and
guarantee buckets. -/
def execRequestClassify (m : Fin 12) (tag : BitVec 14) (s : State) : Host.Outcome State Fault Refusal :=
  finished s (s.classify m tag.toNat)

/-- URG_WIRE_CHANGE (R206): An URG wire level is taken after three agreeing samples. -/
def execUrgWireChange (level : BitVec 8) (s : State) : Host.Outcome State Fault Refusal :=
  finished s (s.urgWires level.toNat)

/-- URG_STUCK_TIMEOUT (R206): An URG wire stays asserted beyond STUCK_MS and is treated as deasserted. -/
def execUrgStuckTimeout (w : Fin 8) (s : State) : Host.Outcome State Fault Refusal := finished s (s.urgStuck w)

/-- FLOOR_RECOMPUTE (R211): Firmware recomputes QOS_FLOOR after a change in its inputs. -/
def execFloorRecompute (s : State) : Host.Outcome State Fault Refusal := finished s s.floorRecompute

/-- QOS_THROTTLE_WRITE (R219): A write of HOST_STEP brings a new throttle step into force within 200 ns. -/
def execQosThrottleWrite (p : Path) (w : BitVec 32) (s : State) : Host.Outcome State Fault Refusal :=
  finished s (s.writeOn p .QOS_THROTTLE 0 0 w)

/-- QOS_FENCE_GO (R220): QOS_FENCE.GO starts a device-wide fence. -/
def execQosFenceGo (p : Path) (s : State) : Host.Outcome State Fault Refusal :=
  finished s (s.writeOn p .QOS_FENCE 0 0 0x40000000#32)

/-- BULK_STARVE_PROMOTE (R209): A bulk excess request reaches STARVE_US of age and moves into tier 2. -/
def execBulkStarvePromote (m : Fin 12) (tag : BitVec 14) (s : State) : Host.Outcome State Fault Refusal :=
  finished s (s.starve m tag.toNat)

end Sys2Proof.Machine
end

