-- ==== Sys2Proof/Machine/ExecHeat.lean ====
section
/-!
DEFINITION. The meanings of the commands about heat, power and bond wear (R405 to R421, R437 to R441).
-/
namespace Sys2Proof.Machine

/-- SENSOR_SAMPLE (R408): A die's sensors are converted, and estimate, distrust and throttle steps update. -/
def execSensorSample (d : Fin 17) (raw : List (BitVec 10)) (s : State) : Host.Outcome State Fault Refusal :=
  finished s (s.sensorSample d raw)

/-- BACKSTOP_TRIP (R421): A backstop comparator trips, drives THERMTRIP_N and brings the device into FATAL. -/
def execBackstopTrip (d : Fin 17) (s : State) : Host.Outcome State Fault Refusal := finished s (s.backstopTrip d)

/-- SHARE_LAPSE (R419): A manager share not renewed within 20 ms lapses and FALLBACK caps power. -/
def execShareLapse (s : State) : Host.Outcome State Fault Refusal := finished s s.shareLapse

/-- THROTTLE_HOLD_EXPIRE (R443): The 10 ms THROTTLE hold after an event source's raise ends. -/
def execThrottleHoldExpire (n : Fin 256) (s : State) : Host.Outcome State Fault Refusal := finished s (s.holdExpire n)

/-- WEAR_SAMPLE (R439): Once per 1 ms a boundary temperature is taken and half-cycles are counted. -/
def execWearSample (b : Fin 4) (s : State) : Host.Outcome State Fault Refusal := finished s (s.wearSample b)

/-- WEAR_CHECK (R440): At its level's interval firmware checks the conductors crossing a worn boundary. -/
def execWearCheck (c : Fin 32) (err : List (Fin 8960)) (s : State) : Host.Outcome State Fault Refusal :=
  finished s (s.wearCheck c (err.map (·.val)))

/-- WEAR_RECORD_WRITE (R439): INDEX and HALF_CYCLES are written to MRAM once per hour. -/
def execWearRecordWrite (s : State) : Host.Outcome State Fault Refusal := finished s s.wearRecordWrite

end Sys2Proof.Machine
end

