-- ==== Sys2Proof/Machine/ExecLagoon.lean ====
section
/-!
DEFINITION. The meanings of the commands about the Lagoon, row scheduling, drains, zero-fill and the reset of a core die (R222 to R258).
-/
namespace Sys2Proof.Machine

/-- SCHEDULER_TAKE_UP (R229): The channel scheduler takes up a request and chooses a hit, a sector cycle or a
promotion. -/
def execSchedulerTakeUp (m : Fin 12) (tag : BitVec 14) (s : State) : Host.Outcome State Fault Refusal :=
  finished s (s.schedulerTakeUp m tag.toNat)

/-- LAGOON_HIT (R222): A request to a resident row is served through a column port. -/
def execLagoonHit (m : Fin 12) (tag : BitVec 14) (s : State) : Host.Outcome State Fault Refusal :=
  finished s (s.lagoonHit m tag.toNat)

/-- SECTOR_CYCLE (R235): A request to a non-resident row is served by segment activation, transfer and precharge. -/
def execSectorCycle (m : Fin 12) (tag : BitVec 14) (s : State) : Host.Outcome State Fault Refusal :=
  finished s (s.sectorCycle m tag.toNat)

/-- VERTICAL_CYCLE_SCHEDULE (R236): Each row-move period the channel fills its vertical cycle from the highest claim
that can use it. -/
def execVerticalCycleSchedule (c : Fin 32) (s : State) : Host.Outcome State Fault Refusal :=
  finished s (s.verticalCycle c)

/-- MOVE_IN_TRANSFER_END (R529): A move-in's transfer ends and the promoting read is answered from the sector buffer.
-/
def execMoveInTransferEnd (c : Fin 32) (k : Fin 64) (s : State) : Host.Outcome State Fault Refusal :=
  finished s (s.moveInTransferEnd c k)

/-- MOVE_IN_DONE (R228): The row is written into the slot 10 ns after transfer and the slot becomes CLEAN. -/
def execMoveInDone (c : Fin 32) (k : Fin 64) (s : State) : Host.Outcome State Fault Refusal :=
  finished s (s.moveInDone c k)

/-- MOVE_OUT_PRECHARGE (R228): A move-out issues its precharge; the slot becomes CLEAN, DIRTY or EMPTY. -/
def execMoveOutPrecharge (c : Fin 32) (k : Fin 64) (s : State) : Host.Outcome State Fault Refusal :=
  finished s (s.moveOutPrecharge c k)

/-- HIST_DECAY (R230): Once per HIST_DECAY every history count halves. -/
def execHistDecay (c : Fin 32) (s : State) : Host.Outcome State Fault Refusal := finished s (s.histDecay c)

/-- ZERO_FILL_COMPLETE (R249): The last zero-fill move-out precharges; the extent is marked written and the triggering
write proceeds. -/
def execZeroFillComplete (c : Fin 32) (s : State) : Host.Outcome State Fault Refusal :=
  finished s (s.zeroFillComplete c)

/-- GLB_DIE_RST_GO (R251): GLB_DIE_RST.GO puts a die's banks into self-refresh and resets its logic. -/
def execGlbDieRstGo (p : Path) (d : Fin 16) (s : State) : Host.Outcome State Fault Refusal :=
  finished s (s.writeOn p .GLB_DIE_RST 0 0 (BitVec.ofNat 32 (2 ^ 31 + d.val)))

/-- CORE_DIE_RESET_RELEASE (R251): After the 2 us hold of step 2 of the core-die reset, the base die releases the
die's logic reset and waits for it to report ready. -/
def execCoreDieResetRelease (s : State) : Host.Outcome State Fault Refusal := finished s s.dieResetRelease

/-- DIE_RESET_READY (R251): The reset die reports ready; banks leave self-refresh and RESULT is set. -/
def execDieResetReady (s : State) : Host.Outcome State Fault Refusal := finished s s.dieResetReady

/-- DIE_RESET_READY_TIMEOUT (R251): The die does not report ready within 5 us and its channels are fenced. -/
def execDieResetReadyTimeout (s : State) : Host.Outcome State Fault Refusal := finished s s.dieResetTimeout

/-- WRITEBACK_ALL (R258): LAG_CTL.WRITEBACK_ALL cleans every DIRTY slot of the channel. -/
def execWritebackAll (p : Path) (c : Fin 32) (s : State) : Host.Outcome State Fault Refusal :=
  finished s (s.writeOn p .LAG_CTL c 0 0x80000000#32)

/-- DISCARD_FENCED (R257): LAG_CTL.DISCARD_FENCED empties every FENCED slot and records its row in the lost list. -/
def execDiscardFenced (p : Path) (c : Fin 32) (s : State) : Host.Outcome State Fault Refusal :=
  finished s (s.writeOn p .LAG_CTL c 0 0x40000000#32)

/-- LAG_ACTION_END (R258): A LAG_CTL action ends, BUSY clears and DONE is set. -/
def execLagActionEnd (c : Fin 32) (s : State) : Host.Outcome State Fault Refusal := finished s (s.lagActionEnd c)

end Sys2Proof.Machine
end

