-- ==== Sys2Proof/Machine/ExecLife.lean ====
section
/-!
DEFINITION. The meanings of the commands about roles and life cycle (R481 to R495).
-/
namespace Sys2Proof.Machine

/-- LC_ADVANCE (R482): LC_CTL.ADVANCE requests a life-cycle transition and blows its fuses. -/
def execLcAdvance (p : Path) (w : BitVec 32) (s : State) : Host.Outcome State Fault Refusal :=
  finished s (s.writeOn p .LC_CTL 0 0 w)

/-- LC_TRANSITION_END (R482): The fuse read-back ends and the new state comes into force or FUSE_WRITE is raised. -/
def execLcTransitionEnd (bits : BitVec 5) (s : State) : Host.Outcome State Fault Refusal :=
  finished s (s.transitionEnd bits.toNat)

/-- LC_CHALLENGE (R486): LC_SESS_CTL.CHALLENGE draws a nonce. -/
def execLcChallenge (p : Path) (w : BitVec 32) (s : State) : Host.Outcome State Fault Refusal :=
  finished s (s.writeOn p .LC_SESS_CTL 0 0 (withBits w 31 29 4))

/-- LC_OPEN (R486): LC_SESS_CTL.OPEN compares the response and opens a session or counts a failure. -/
def execLcOpen (p : Path) (w : BitVec 32) (s : State) : Host.Outcome State Fault Refusal :=
  finished s (s.writeOn p .LC_SESS_CTL 0 0 (withBits w 31 29 2))

/-- LC_CLOSE (R489): LC_SESS_CTL.CLOSE on the bound path ends the session. -/
def execLcClose (p : Path) (w : BitVec 32) (s : State) : Host.Outcome State Fault Refusal :=
  finished s (s.writeOn p .LC_SESS_CTL 0 0 (withBits w 31 29 1))

/-- NONCE_LAPSE (R486): A nonce lapses 1 s after it is drawn. -/
def execNonceLapse (s : State) : Host.Outcome State Fault Refusal := finished s s.nonceLapse

/-- SESSION_IDLE_EXPIRY (R489): A session ends after IDLE_S seconds without an accepted access. -/
def execSessionIdleExpiry (s : State) : Host.Outcome State Fault Refusal := finished s s.idleExpiry

/-- LC_STRAP_OVR_WRITE (R491): A write of LC_STRAP_OVR with EN replaces the strap values at the next tick. -/
def execLcStrapOvrWrite (p : Path) (w : BitVec 32) (s : State) : Host.Outcome State Fault Refusal :=
  finished s (s.writeOn p .LC_STRAP_OVR 0 0 w)

/-- LC_TRN_OVR_WRITE (R492): A write of LC_TRN_OVR stores training overrides for the next BRING-UP. -/
def execLcTrnOvrWrite (p : Path) (w : BitVec 32) (s : State) : Host.Outcome State Fault Refusal :=
  finished s (s.writeOn p .LC_TRN_OVR 0 0 w)

/-- LC_AUD_LOOKUP (R494): A write of LC_AUD_IDX.INDEX loads an audit entry. -/
def execLcAudLookup (p : Path) (w : BitVec 32) (s : State) : Host.Outcome State Fault Refusal :=
  finished s (s.writeOn p .LC_AUD_IDX 0 0 w)

end Sys2Proof.Machine
end

