-- ==== Sys2Proof/Machine/ExecLink.lean ====
section
/-!
DEFINITION. The meanings of the commands about the UCIe attachment: sidebands, mainbands, actions of UCI_CTL, loopbacks (R127 to R153).
-/
namespace Sys2Proof.Machine

/-- SB_DETECT_TIMEOUT (R152): An 8 ms sideband detection attempt lapses and SB_DETECT restarts. -/
def execSbDetectTimeout (m : Fin 12) (s : State) : Host.Outcome State Fault Refusal := finished s (s.detectTimeout m)

/-- SIDEBAND_UP (R133): A module's sideband comes up and serves Kyohus register messages. -/
def execSidebandUp (m : Fin 12) (s : State) : Host.Outcome State Fault Refusal := finished s (s.sidebandUp m)

/-- SIDEBAND_LINK_FAIL (R133): A sideband fails its link management and the module is excluded with SB_LOST. -/
def execSidebandLinkFail (m : Fin 12) (s : State) : Host.Outcome State Fault Refusal := finished s (s.sidebandFail m)

/-- MB_STAGE_TIMEOUT (R152): MB_INIT or MB_TRAIN exceeds 8 ms and the attempt ends in TRAIN_ERROR. -/
def execMbStageTimeout (m : Fin 12) (s : State) : Host.Outcome State Fault Refusal := finished s (s.stageTimeout m)

/-- MAINBAND_TRAINING_DONE (R135): Mainband training passes the link-speed check, stepping the rate down as needed,
and the module reaches LOCKED. -/
def execMainbandTrainingDone (m : Fin 12) (env : LinkEnv) (s : State) : Host.Outcome State Fault Refusal :=
  finished s (s.trainingDone m env)

/-- TRAIN_ERROR_RESTART (R132): After 100 us in TRAIN_ERROR the mainband restarts at MB_INIT. -/
def execTrainErrorRestart (m : Fin 12) (s : State) : Host.Outcome State Fault Refusal := finished s (s.trainRestart m)

/-- MODULE_TRAIN_DEADLINE (R134): A module not ACTIVE 16 ms into step 8, or after 4 attempts, is excluded with
TRAIN_FAIL. -/
def execModuleTrainDeadline (m : Fin 12) (s : State) : Host.Outcome State Fault Refusal :=
  finished s (s.trainDeadline m)

/-- KY_CAP (R136): A partner's KY_CAP is received; the version is checked and KY_PARTNER is set. -/
def execKyCap (m : Fin 12) (d : BitVec 64) (s : State) : Host.Outcome State Fault Refusal :=
  finished s (s.kyCap m d.toNat)

/-- KY_CAP_TIMEOUT (R136): No KY_CAP arrives within 1 ms; transport 1.0 is assumed and KY_PARTNER is cleared. -/
def execKyCapTimeout (m : Fin 12) (s : State) : Host.Outcome State Fault Refusal := finished s (s.kyCapTimeout m)

/-- REG_RD (R138): A sideband register read is served and answered by one REG_CPL. -/
def execRegRd (m : Fin 12) (d : BitVec 64) (s : State) : Host.Outcome State Fault Refusal :=
  finished s (s.sideband m d.toNat false)

/-- REG_WR (R138): A sideband register write is served and answered by one REG_CPL. -/
def execRegWr (m : Fin 12) (d : BitVec 64) (s : State) : Host.Outcome State Fault Refusal :=
  finished s (s.sideband m d.toNat true)

/-- SIDEBAND_MESSAGE_DISCARD (R138): A sideband message failing parity, lacking its data or carrying an unknown KIND
is discarded without an answer and counted in SB_DISCARD. -/
def execSidebandMessageDiscard (m : Fin 12) (s : State) : Host.Outcome State Fault Refusal :=
  finished s (s.sidebandDiscard m)

/-- EQ_SET (R142): A partner's EQ_SET applies its taps when allowed, and is otherwise answered IGNORED. -/
def execEqSet (m : Fin 12) (d : BitVec 64) (s : State) : Host.Outcome State Fault Refusal :=
  finished s (s.eqSet m d.toNat)

/-- EQ_GET (R142): A partner's EQ_GET is answered with EQ_RSP giving the taps in force. -/
def execEqGet (m : Fin 12) (s : State) : Host.Outcome State Fault Refusal := finished s (s.eqGet m)

/-- KY_LPBK (R150): A partner's KY_LPBK start or stop begins an echo loopback or ends the loopback running. -/
def execKyLpbk (m : Fin 12) (d : BitVec 64) (s : State) : Host.Outcome State Fault Refusal :=
  finished s (s.kyLpbk m d.toNat)

/-- KY_LPBK_RSP (R150): A partner's KY_LPBK_RSP starts a far-end check, or ends it with PARTNER_REFUSED. -/
def execKyLpbkRsp (m : Fin 12) (status : BitVec 4) (s : State) : Host.Outcome State Fault Refusal :=
  finished s (s.kyLpbkRsp m (status == 0))

/-- KY_LPBK_RSP_TIMEOUT (R150): No KY_LPBK_RSP arrives within 1 ms and the loopback ends with PARTNER_REFUSED. -/
def execKyLpbkRspTimeout (m : Fin 12) (s : State) : Host.Outcome State Fault Refusal :=
  finished s (s.kyLpbkRsp m false)

/-- PARTNER_L1_REQUEST (R129): A partner requests L1 while the module is ACTIVE and the device refuses. -/
def execPartnerL1Request (m : Fin 12) (s : State) : Host.Outcome State Fault Refusal := finished s (s.refuseL1 m)

/-- PRIMARY_SB_LOSS_TIMEOUT (R140): The primary's sideband stays down 8 ms and the primary role passes to another
module. -/
def execPrimarySbLossTimeout (s : State) : Host.Outcome State Fault Refusal := finished s s.primaryLoss

/-- FLIT_CRC_FAIL (R143): A received flit fails link-layer CRC and is counted; reaching RETRY_THRESH starts a retrain.
-/
def execFlitCrcFail (m : LostFlit) (s : State) : Host.Outcome State Fault Refusal :=
  finished s (s.crcFail m.module m.sent)

/-- RETRY_EXHAUSTED (R143): Link-layer retry fails 8 times in a row for one flit and a retrain starts. -/
def execRetryExhausted (m : Fin 12) (s : State) : Host.Outcome State Fault Refusal := finished s (s.retryExhausted m)

/-- RETRAIN_END (R143): A retrain ends after lane repair or a rate step, and the module returns to ACTIVE. -/
def execRetrainEnd (m : Fin 12) (env : LinkEnv) (s : State) : Host.Outcome State Fault Refusal :=
  finished s (s.retrainEnd m env)

/-- RETRAIN_TIMEOUT (R152): A retrain overruns its bound and steps the rate or excludes the module with LINK_FAIL. -/
def execRetrainTimeout (m : Fin 12) (s : State) : Host.Outcome State Fault Refusal := finished s (s.retrainTimeout m)

/-- L1_EXIT_TIMEOUT (R152): A module does not leave L1 within 2 us and is excluded with LINK_FAIL. -/
def execL1ExitTimeout (m : Fin 12) (s : State) : Host.Outcome State Fault Refusal := finished s (s.l1Timeout m)

/-- RETRAIN_REQ (R143): UCI_CTL.RETRAIN_REQ starts a retrain at MAX_RATE in force. -/
def execRetrainReq (p : Path) (m : Fin 12) (w : BitVec 32) (s : State) : Host.Outcome State Fault Refusal :=
  finished s (s.writeOn p .UCI_CTL m 0 (withBits w 31 26 32))

/-- COMMIT (R153): UCI_CTL.COMMIT applies the module's pending shadows without a retrain. -/
def execCommitModule (p : Path) (m : Fin 12) (w : BitVec 32) (s : State) : Host.Outcome State Fault Refusal :=
  finished s (s.writeOn p .UCI_CTL m 0 (withBits w 31 26 16))

/-- MAKE_PRIMARY (R140): UCI_CTL.MAKE_PRIMARY moves the primary role once the old primary's accepted accesses
complete. -/
def execMakePrimary (p : Path) (m : Fin 12) (w : BitVec 32) (s : State) : Host.Outcome State Fault Refusal :=
  finished s (s.writeOn p .UCI_CTL m 0 (withBits w 31 26 8))

/-- EXCLUDE (R146): UCI_CTL.EXCLUDE starts the orderly exclusion drain of a module. -/
def execExcludeModule (p : Path) (m : Fin 12) (w : BitVec 32) (s : State) : Host.Outcome State Fault Refusal :=
  finished s (s.writeOn p .UCI_CTL m 0 (withBits w 31 26 4))

/-- FORCE_EXCLUDE (R146): UCI_CTL.FORCE_EXCLUDE excludes a module at once, discarding unsent responses. -/
def execForceExclude (p : Path) (m : Fin 12) (w : BitVec 32) (s : State) : Host.Outcome State Fault Refusal :=
  finished s (s.writeOn p .UCI_CTL m 0 (withBits w 31 26 2))

/-- INCLUDE (R147): UCI_CTL.INCLUDE retrains an excluded module and returns it to ACTIVE. -/
def execIncludeModule (p : Path) (m : Fin 12) (w : BitVec 32) (s : State) : Host.Outcome State Fault Refusal :=
  finished s (s.writeOn p .UCI_CTL m 0 (withBits w 31 26 1))

/-- EXCLUSION_DRAIN_END (R146): Every response of a draining module is sent and acknowledged; the module becomes
EXCLUDED. -/
def execExclusionDrainEnd (m : Fin 12) (s : State) : Host.Outcome State Fault Refusal := finished s (s.drainEnd m)

/-- EXCLUSION_DRAIN_TIMEOUT (R146): The drain lapses after 60 us; remaining responses are discarded and the module is
excluded. -/
def execExclusionDrainTimeout (m : Fin 12) (s : State) : Host.Outcome State Fault Refusal :=
  finished s (s.drainTimeout m)

/-- LPBK_START (R149): UCI_LPBK_CTL.START begins a loopback on an excluded module. -/
def execLpbkStart (p : Path) (m : Fin 12) (w : BitVec 32) (s : State) : Host.Outcome State Fault Refusal :=
  finished s (s.writeOn p .UCI_LPBK_CTL m 0 (withBits w 31 30 2))

/-- LPBK_STOP (R150): UCI_LPBK_CTL.STOP ends the running loopback and sets its result. -/
def execLpbkStop (p : Path) (m : Fin 12) (w : BitVec 32) (s : State) : Host.Outcome State Fault Refusal :=
  finished s (s.writeOn p .UCI_LPBK_CTL m 0 (withBits w 31 30 1))

/-- LOOPBACK_DURATION_END (R149): The loopback's DURATION lapses; results are set and the module returns to EXCLUDED.
-/
def execLoopbackDurationEnd (m : Fin 12) (lanes : BitVec 64) (errors : Nat) (s : State) :
    Host.Outcome State Fault Refusal :=
  finished s (s.lpbkLapse m lanes.toNat errors)

end Sys2Proof.Machine
end

