-- ==== Sys2Proof/Machine/ExecObs.lean ====
section
/-!
DEFINITION. The meanings of the commands about counters, tagging and trace (R496 to R507).
-/
namespace Sys2Proof.Machine

/-- OBS_FREEZE (R500): OBS_CTL.FREEZE stops or restarts every counter at instant T. -/
def execObsFreeze (p : Path) (w : BitVec 32) (s : State) : Host.Outcome State Fault Refusal :=
  finished s (s.writeOn p .OBS_CTL 0 0 (withBits w 30 29 0))

/-- OBS_SNAP (R500): OBS_CTL.SNAP copies every counter into the snapshot bank at instant T. -/
def execObsSnap (p : Path) (w : BitVec 32) (s : State) : Host.Outcome State Fault Refusal :=
  finished s (s.writeOn p .OBS_CTL 0 0 (withBits w 30 30 1))

/-- OBS_CLEAR (R500): OBS_CTL.CLEAR zeroes every counter at instant T. -/
def execObsClear (p : Path) (w : BitVec 32) (s : State) : Host.Outcome State Fault Refusal :=
  finished s (s.writeOn p .OBS_CTL 0 0 (withBits w 29 29 1))

/-- OBS_CONTROL_INSTANT (R500): Instant T, 100 ns after an OBS_CTL write, arrives and the freeze, snapshot or clear
takes effect. -/
def execObsControlInstant (s : State) : Host.Outcome State Fault Refusal := finished s s.obsInstant

/-- TAG_ENABLE (R502): Setting OBS_TAG_CFG.EN seeds each module's LFSR and starts tagging. -/
def execTagEnable (p : Path) (w : BitVec 32) (s : State) : Host.Outcome State Fault Refusal :=
  finished s (s.writeOn p .OBS_TAG_CFG 0 0 (withBits w 31 31 1))

/-- TAG_RECORD_WRITE (R503): A tagged request's record is written to its channel's tag ring in an idle cycle. -/
def execTagRecordWrite (c : Fin 32) (s : State) : Host.Outcome State Fault Refusal := finished s (s.tagWrite c)

/-- TRACE_START (R505): OBS_TRC_CTL.START starts the trace at position 0. -/
def execTraceStart (p : Path) (w : BitVec 32) (s : State) : Host.Outcome State Fault Refusal :=
  finished s (s.writeOn p .OBS_TRC_CTL 0 0 (withBits w 31 29 4))

/-- TRACE_STOP (R505): OBS_TRC_CTL.STOP stops the trace. -/
def execTraceStop (p : Path) (w : BitVec 32) (s : State) : Host.Outcome State Fault Refusal :=
  finished s (s.writeOn p .OBS_TRC_CTL 0 0 (withBits w 31 29 2))

/-- TRACE_POST_TRIGGER_STOP (R505): POST x 256 entries after the trigger are written and the trace stops. -/
def execTracePostTriggerStop (s : State) : Host.Outcome State Fault Refusal := finished s s.postStop

/-- TRACE_EXPORT (R506): OBS_TRC_CTL.EXPORT writes the trace image to the host area. -/
def execTraceExport (p : Path) (w : BitVec 32) (s : State) : Host.Outcome State Fault Refusal :=
  finished s (s.writeOn p .OBS_TRC_CTL 0 0 (withBits w 31 29 1))

/-- TRACE_EXPORT_END (R506): The export ends and EXP_VALID is set. -/
def execTraceExportEnd (s : State) : Host.Outcome State Fault Refusal := finished s s.exportEnd

/-- TRACE_WINDOW_READ (R506): A write of OBS_TRC_RD.POS copies a trace entry into the window. -/
def execTraceWindowRead (p : Path) (w : BitVec 32) (s : State) : Host.Outcome State Fault Refusal :=
  finished s (s.writeOn p .OBS_TRC_RD 0 0 w)

/-- TRACE_MARK (R504): A write of OBS_TRC_MARK writes a KIND 0x0C entry. -/
def execTraceMark (p : Path) (w : BitVec 32) (s : State) : Host.Outcome State Fault Refusal :=
  finished s (s.writeOn p .OBS_TRC_MARK 0 0 w)

end Sys2Proof.Machine
end

