-- ==== Sys2Proof/Machine/ExecPackage.lean ====
section
/-!
DEFINITION. The meanings of the commands about authority, the Causeway and firmware updates (R459 to R480).
-/
namespace Sys2Proof.Machine

/-- MGMT_HEARTBEAT (R462): A management core's heartbeat updates its epoch, and the arbiter decides the token. -/
def execMgmtHeartbeat (h : Half) (claim : Bool) (s : State) : Host.Outcome State Fault Refusal :=
  finished s (s.heartbeat h claim)

/-- HEARTBEAT_LAPSE (R460): A half's heartbeat lapses after 10 ms and FW_WATCHDOG is raised. -/
def execHeartbeatLapse (h : Half) (s : State) : Host.Outcome State Fault Refusal := finished s (s.heartbeatLapse h)

/-- AUTH_ASSIGN (R463): A write of AUTH_ASSIGN gives the token to a half with a current heartbeat. -/
def execAuthAssign (p : Path) (w : BitVec 32) (s : State) : Host.Outcome State Fault Refusal :=
  finished s (s.writeOn p .AUTH_ASSIGN 0 0 (withBits w 31 31 1))

/-- CWY_HEARTBEAT (R467): A HEARTBEAT frame is received; shares, roles and time alignment update and it is forwarded.
-/
def execCwyHeartbeat (src : BitVec 4) (payload : List (BitVec 8)) (s : State) : Host.Outcome State Fault Refusal :=
  finished s (s.cwyHeartbeat src.toNat (payload.map (·.toNat)))

/-- CWY_STATUS (R467): A STATUS frame is received and recorded in CWY_STACKs. -/
def execCwyStatus (src : BitVec 4) (payload : List (BitVec 8)) (s : State) : Host.Outcome State Fault Refusal :=
  finished s (s.cwyStatus src.toNat (payload.map (·.toNat)))

/-- CWY_ANNOUNCE (R470): An ANNOUNCE frame is received; a takeover is recorded and the manager yields to a higher
epoch. -/
def execCwyAnnounce (src : BitVec 4) (payload : List (BitVec 8)) (s : State) : Host.Outcome State Fault Refusal :=
  finished s (s.cwyAnnounce src.toNat (payload.map (·.toNat)))

/-- CWY_PERMIT_REQ (R476): The manager receives a PERMIT_REQ and grants it when concurrency allows. -/
def execCwyPermitReq (dst src : BitVec 4) (kind tier : BitVec 8) (s : State) : Host.Outcome State Fault Refusal :=
  finished s (s.cwyPermitReq dst.toNat src.toNat kind.toNat tier.toNat)

/-- CWY_PERMIT (R433): A worker receives a PERMIT and starts the permitted work. -/
def execCwyPermit (dst src : BitVec 4) (kind tier : BitVec 8) (s : State) : Host.Outcome State Fault Refusal :=
  finished s (s.cwyPermit dst.toNat src.toNat kind.toNat tier.toNat)

/-- CWY_PERMIT_DONE (R476): The manager receives PERMIT_DONE and ends the permit. -/
def execCwyPermitDone (dst src : BitVec 4) (kind tier : BitVec 8) (s : State) : Host.Outcome State Fault Refusal :=
  finished s (s.cwyPermitDone dst.toNat src.toNat kind.toNat tier.toNat)

/-- CWY_FRAME_CUTOFF (R465): A frame not ended 1 us after its start is cut off and discarded. -/
def execCwyFrameCutoff (s : State) : Host.Outcome State Fault Refusal := finished s s.discardFrame

/-- CAUSEWAY_FRAME_DISCARD (R465): A Causeway frame with a bad CRC, an unknown TYPE or a wrong length is discarded and
counted in DISCARDS. -/
def execCausewayFrameDiscard (s : State) : Host.Outcome State Fault Refusal := finished s s.discardFrame

/-- CWY_LINK_DOWN (R466): The Causeway sees no character for 10 us or too many code errors and goes down. -/
def execCwyLinkDown (s : State) : Host.Outcome State Fault Refusal := finished s s.cwyDown

/-- CWY_LINK_UP (R466): After 100 us of clean idle characters the Causeway is up. -/
def execCwyLinkUp (s : State) : Host.Outcome State Fault Refusal := finished s s.cwyUp

/-- CWY_HEARTBEAT_SEND (R467): Every 1 ms the manager computes shares and sends a HEARTBEAT. -/
def execCwyHeartbeatSend (s : State) : Host.Outcome State Fault Refusal := finished s s.beatSend

/-- CWY_STATUS_SEND (R467): Every 1 ms each stack sends its STATUS. -/
def execCwyStatusSend (s : State) : Host.Outcome State Fault Refusal := finished s s.statusSend

/-- MGR_LISTEN_END (R469): After 5 ms of listening a MGR_EN stack becomes manager or worker. -/
def execMgrListenEnd (s : State) : Host.Outcome State Fault Refusal := finished s s.listenEnd

/-- MGR_TAKEOVER_TIMEOUT (R470): A capable worker hearing no HEARTBEAT for its timeout announces and becomes manager.
-/
def execMgrTakeoverTimeout (s : State) : Host.Outcome State Fault Refusal := finished s s.takeover

/-- STACK_ABSENT (R472): A stack not heard for 5 ms becomes absent. -/
def execStackAbsent (k : Fin 16) (s : State) : Host.Outcome State Fault Refusal := finished s (s.stackAbsent k)

/-- RESIGN (R471): CWY_CFG.RESIGN makes a manager a worker. -/
def execResign (p : Path) (w : BitVec 32) (s : State) : Host.Outcome State Fault Refusal :=
  finished s (s.writeOn p .CWY_CFG 0 0 (withBits w 30 30 1))

/-- TEST_PERMIT_EXPIRY (R476): A test permit ends 2 s after its grant. -/
def execTestPermitExpiry (k : Fin 16) (s : State) : Host.Outcome State Fault Refusal := finished s (s.permitExpiry k)

/-- FWU_GO (R479): AUTH_FWU_CTL.GO starts a firmware update through its steps. -/
def execFwuGo (p : Path) (w : BitVec 32) (image : ImageCheck) (s : State) : Host.Outcome State Fault Refusal :=
  finished s (s.direct p (adr .AUTH_FWU_CTL) true (withBits w 31 31 1) ⟨Given.plain.exit, image⟩)

/-- FWU_BOOT_TIMEOUT (R479): The restarted core presents no heartbeat within 100 ms and the update fails. -/
def execFwuBootTimeout (s : State) : Host.Outcome State Fault Refusal := finished s s.fwuBootTimeout

end Sys2Proof.Machine
end

