-- ==== Sys2Proof/Machine/ExecPower.lean ====
section
/-!
DEFINITION. The meanings of the commands about clocks, islands, straits, rails and the dies' power-good (R36 to R59).
-/
namespace Sys2Proof.Machine

/-- PWROK_RISE (R518): PWROK is taken high; RST_N is taken as rising no earlier than 1 ms later. -/
def execPwrokRise (s : State) : Host.Outcome State Fault Refusal := finished s s.pwrokRise

/-- PWROK_FALL (R103): PWROK is taken low and the device enters RESET from any mode, FATAL included. -/
def execPwrokFall (s : State) : Host.Outcome State Fault Refusal := finished s s.pwrokFall

/-- RST_N_RISE (R110): RST_N is taken as rising with PWROK high; the time base starts and BRING-UP runs its steps. -/
def execRstNRise (env : BringUpEnv) (s : State) : Host.Outcome State Fault Refusal := finished s (s.rstNRise env)

/-- RST_N_FALL (R103): RST_N is taken low and the device enters RESET from any mode except FATAL. -/
def execRstNFall (s : State) : Host.Outcome State Fault Refusal := finished s s.rstNFall

/-- BRINGUP_STEP_TIMEOUT (R110): A bring-up step exceeds its bound and takes the failure consequence its row gives. -/
def execBringupStepTimeout (step : Fin 13) (which : BitVec 32) (s : State) : Host.Outcome State Fault Refusal :=
  finished s (s.bringTimeout step which.toNat)

/-- CORE_PLL_LOCK_LOSS (R38): A core PLL loses lock; the common clock mux switches islands 53-56 to the other PLL. -/
def execCorePllLockLoss (h : Half) (s : State) : Host.Outcome State Fault Refusal := finished s (s.pllLoss h)

/-- PLL_LOCK_TIMEOUT (R39): A core PLL's loss of lock lasts more than 2 us; PLL_LOCK is raised and the device enters
FATAL. -/
def execPllLockTimeout (h : Half) (s : State) : Host.Outcome State Fault Refusal := finished s (s.pllTimeout h)

/-- CORE_PLL_RELOCK (R39): A core PLL that lost lock regains it before 2 us have passed, so no fatal fault follows and
the PLL_LOCK condition ends. -/
def execCorePllRelock (h : Half) (s : State) : Host.Outcome State Fault Refusal := finished s (s.pllRelock h)

/-- REFCLK_MEASURE (R40): Every 10 us the always-on island measures REFCLK and raises REFCLK_RANGE when it is out of
range. -/
def execRefclkMeasure (khz : Nat) (s : State) : Host.Outcome State Fault Refusal := finished s (s.refMeasure khz)

/-- REFCLK_ABSENT (R65): REFCLK stops; the time base free-runs, FREE_RUN and DEGRADED are set. -/
def execRefclkAbsent (s : State) : Host.Outcome State Fault Refusal := finished s s.refAbsent

/-- REFCLK_RETURN (R65): REFCLK resumes and FREE_RUN returns to 0. -/
def execRefclkReturn (s : State) : Host.Outcome State Fault Refusal := finished s s.refReturn

/-- REFCLK_LOSS_TIMEOUT (R42): REFCLK is absent for more than 1 us outside RESET and DEEP RETENTION; a fatal fault is
raised. -/
def execRefclkLossTimeout (s : State) : Host.Outcome State Fault Refusal := finished s s.refTimeout

/-- SPINE_STOP_SELF_REFRESH (R46): A core die whose spine has stopped for 1 us without a self-refresh command enters
self-refresh on its own. -/
def execSpineStopSelfRefresh (d : Fin 16) (s : State) : Host.Outcome State Fault Refusal := finished s (s.spineStop d)

/-- ISLAND_IDLE_GATE (R51): An AUTO island idle for 16 x IDLE_THRESH cycles stops its clock. -/
def execIslandIdleGate (i : Fin 57) (s : State) : Host.Outcome State Fault Refusal := finished s (s.idleGate i)

/-- ISLAND_WAKE (R51): An entry arriving in a strait restarts a gated AUTO island within 4 cycles. -/
def execIslandWake (i : Fin 57) (s : State) : Host.Outcome State Fault Refusal := finished s (s.islandWake i)

/-- ISLAND_RESET_REQ (R52): A RESET_REQ write to GLB_ISL_CTL is checked, straits close and the island is held in
reset. -/
def execIslandResetReq (p : Path) (i : Fin 57) (w : BitVec 32) (s : State) : Host.Outcome State Fault Refusal :=
  finished s (s.writeOn p .GLB_ISL_CTL 0 i (withBits w 31 31 1))

/-- ISLAND_RESET_RELEASE (R53): The island reset is released, straits reopen with full credits and the write
completes. -/
def execIslandResetRelease (i : Fin 57) (s : State) : Host.Outcome State Fault Refusal :=
  finished s (s.islandRelease i)

/-- CHANNEL_FIELDS_RESTORE (R478): Firmware restores the configuration and calibration of a reset channel island. -/
def execChannelFieldsRestore (c : Fin 32) (s : State) : Host.Outcome State Fault Refusal :=
  finished s (s.fieldsRestore c)

/-- ISLAND_GATE_WRITE (R52): A GATE write to GLB_ISL_CTL sets AUTO, ON or, when permitted, FORCED_OFF. -/
def execIslandGateWrite (p : Path) (i : Fin 57) (w : BitVec 32) (s : State) : Host.Outcome State Fault Refusal :=
  finished s (s.writeOn p .GLB_ISL_CTL 0 i (withBits w 31 31 0))

/-- STRAIT_ENTRY_WRITE (R47): A source holding a credit writes an entry into a strait and spends the credit. -/
def execStraitEntryWrite (k : Fin 270) (words : List (BitVec 32)) (owner : Owner) (s : State) :
    Host.Outcome State Fault Refusal :=
  finished s (s.straitWrite k words owner)

/-- STRAIT_ENTRY_READ (R49): The destination reads a strait entry and checks its parity; a bad entry is discarded with
STRAIT_PARITY. -/
def execStraitEntryRead (k : Fin 270) (hit : Option StraitHit) (s : State) : Host.Outcome State Fault Refusal :=
  finished s (s.straitTake k hit)

/-- STRAIT_CREDIT_RETURN (R48): A credit returns to the strait's source after the destination has read an entry. -/
def execStraitCreditReturn (k : Fin 270) (s : State) : Host.Outcome State Fault Refusal :=
  finished s (s.straitCredit k)

/-- RAIL_SAMPLE (R56): A rail is sampled every 10 us and checked for plausibility and violation. -/
def execRailSample (k : Fin 6) (mv : BitVec 16) (s : State) : Host.Outcome State Fault Refusal :=
  finished s (s.railSample k mv.toNat)

/-- PWR_RAIL_LIM_WRITE (R58): A write sets a rail monitor's limits within the rail's limit window. -/
def execPwrRailLimWrite (p : Path) (k : Fin 6) (w : BitVec 32) (s : State) : Host.Outcome State Fault Refusal :=
  finished s (s.writeOn p .PWR_RAIL_LIM 0 k w)

/-- DIE_PGOOD_TRIP (R252): A die's power-good detector trips and the channels that depend on the die are fenced. -/
def execDiePgoodTrip (d : Fin 16) (arr vpp : Bool) (s : State) : Host.Outcome State Fault Refusal :=
  finished s (s.pgoodTrip d arr vpp)

/-- DIE_PGOOD_RESTORE (R59): A die reports VDD_ARR or VPP good again and its PWR_DIE_PGOOD bit is set. -/
def execDiePgoodRestore (d : PgoodReport) (s : State) : Host.Outcome State Fault Refusal :=
  finished s (s.pgoodRestore d.die d.arr d.vpp)

end Sys2Proof.Machine
end

