-- ==== Sys2Proof/Machine/ExecQueues.lean ====
section
/-!
DEFINITION. The meanings of the commands about Exdun queues, descriptors and programs (R259 to R292).
-/
namespace Sys2Proof.Machine

/-- EXD_QDB_WRITE (R269): A doorbell write sets the queue's TAIL in force and makes descriptors pending. -/
def execExdQdbWrite (p : Path) (c : Fin 32) (q : Fin 8) (w : BitVec 32) (s : State) :
    Host.Outcome State Fault Refusal :=
  finished s (s.writeOn p .EXD_QDB c q w)

/-- EXD_QCFG_WRITE (R268): A write of EXD_QCFG places a disabled queue's rings. -/
def execExdQcfgWrite (p : Path) (c : Fin 32) (q : Fin 8) (w : BitVec 32) (s : State) :
    Host.Outcome State Fault Refusal :=
  finished s (s.writeOn p .EXD_QCFG c q w)

/-- EXD_QCTL_EN_WRITE (R292): A write of EXD_QCTL.EN enables or disables a queue. -/
def execExdQctlEnWrite (p : Path) (c : Fin 32) (q : Fin 8) (en : Bool) (s : State) :
    Host.Outcome State Fault Refusal :=
  finished s (s.writeOn p .EXD_QCTL c q (BitVec.ofNat 32 (2 ^ 31 * b2n en)))

/-- EXD_QCTL_ABORT (R289): EXD_QCTL.ABORT aborts the queue's running program and completes its pending descriptors. -/
def execExdQctlAbort (p : Path) (c : Fin 32) (q : Fin 8) (en : Bool) (s : State) : Host.Outcome State Fault Refusal :=
  finished s (s.writeOn p .EXD_QCTL c q (BitVec.ofNat 32 (2 ^ 31 * b2n en + 2 ^ 30)))

/-- EXD_QCTL_RESET_IDX (R292): RESET_IDX sets HEAD and TAIL to 0 and PHASE to 1. -/
def execExdQctlResetIdx (p : Path) (c : Fin 32) (q : Fin 8) (s : State) : Host.Outcome State Fault Refusal :=
  finished s (s.writeOn p .EXD_QCTL c q 0x20000000#32)

/-- EXD_CTL_ABORT (R289): EXD_CTL.ABORT aborts the engine's running program. -/
def execExdCtlAbort (p : Path) (c : Fin 32) (s : State) : Host.Outcome State Fault Refusal :=
  finished s (s.writeOn p .EXD_CTL c 0 0x80000000#32)

/-- DESCRIPTOR_READ (R274): An idle engine chooses a queue, reads descriptor HEAD, advances HEAD and checks it. -/
def execDescriptorRead (c : Fin 32) (s : State) : Host.Outcome State Fault Refusal := finished s (s.descriptorRead c)

/-- PROGRAM_FETCH_DONE (R274): The program is in the store; machine state is set and execution starts at PC 0. -/
def execProgramFetchDone (c : Fin 32) (s : State) : Host.Outcome State Fault Refusal :=
  finished s (s.programFetchDone c)

/-- COMPLETION_RECORD_WRITTEN (R271): The completion record write is performed or lost; EXD_LAST and COMPLETION are
updated. -/
def execCompletionRecordWritten (c : Fin 32) (s : State) : Host.Outcome State Fault Refusal :=
  finished s (s.recordWritten c)

/-- EXDUN_BUDGET_LAPSE (R287): A program's budget lapses and the program ends with BUDGET. -/
def execExdunBudgetLapse (c : Fin 32) (s : State) : Host.Outcome State Fault Refusal := finished s (s.budgetLapse c)

/-- INSTRUCTION_WAIT_END (R298): A waiting instruction's wait ends and it completes. -/
def execInstructionWaitEnd (c : Fin 32) (s : State) : Host.Outcome State Fault Refusal := finished s (s.waitOver c)

end Sys2Proof.Machine
end

