-- ==== Sys2Proof/Machine/ExecRefresh.lean ====
section
/-!
DEFINITION. The meanings of the commands about refresh, row hammer, calibration and vertical training (R372 to R404).
-/
namespace Sys2Proof.Machine

/-- REFRESH_INTERVAL_TICK (R373): A channel's refresh-interval tick brings four banks' refresh due and applies channel
shadows. -/
def execRefreshIntervalTick (c : Fin 32) (s : State) : Host.Outcome State Fault Refusal :=
  finished s (s.refreshTick c)

/-- PER_BANK_REFRESH_ISSUE (R242): Once the close move-outs have precharged and the bank is free, its refresh is
issued. -/
def execPerBankRefreshIssue (c : Fin 32) (b : Fin 128) (s : State) : Host.Outcome State Fault Refusal :=
  finished s (s.refreshIssue c b)

/-- PER_BANK_REFRESH_END (R242): A per-bank refresh ends after tRFCpb, the lap advances and promotions resume. -/
def execPerBankRefreshEnd (c : Fin 32) (b : Fin 128) (s : State) : Host.Outcome State Fault Refusal :=
  finished s (s.refreshEnd c b)

/-- DIE_SELF_REFRESH (R384): A core die in self-refresh refreshes a bank on its own oscillator. -/
def execDieSelfRefresh (d : Fin 16) (b : Fin 256) (s : State) : Host.Outcome State Fault Refusal :=
  finished s (s.dieSelfRefresh d b)

/-- GLB_FPOINT_NEXT_WRITE (R387): A write of GLB_FPOINT_NEXT.NEXT sets the frequency point of the next exit when
records allow. -/
def execGlbFpointNextWrite (p : Path) (w : BitVec 32) (s : State) : Host.Outcome State Fault Refusal :=
  finished s (s.writeOn p .GLB_FPOINT_NEXT 0 0 w)

/-- CAL_RUN_RAIL (R398): CAL_CTL RUN with KIND RAIL trims the six rail monitors. -/
def execCalRunRail (p : Path) (s : State) : Host.Outcome State Fault Refusal :=
  finished s (s.writeOn p .CAL_CTL 0 0 (calRun 0))

/-- CAL_RUN_SENSOR (R398): CAL_CTL RUN with KIND SENSOR computes sensor offsets under an installer session. -/
def execCalRunSensor (p : Path) (s : State) : Host.Outcome State Fault Refusal :=
  finished s (s.writeOn p .CAL_CTL 0 0 (calRun 1))

/-- CAL_RUN_COMMIT (R396): CAL_CTL RUN with KIND COMMIT commits every pending calibration record. -/
def execCalRunCommit (p : Path) (s : State) : Host.Outcome State Fault Refusal :=
  finished s (s.writeOn p .CAL_CTL 0 0 (calRun 2))

/-- CAL_RUN_END (R398): A calibration run ends and sets CAL_LAST, CAL_COUNT and POLL_SUMMARY.CAL. -/
def execCalRunEnd (env : CalEnv) (s : State) : Host.Outcome State Fault Refusal := finished s (s.calRunEnd env)

/-- CAL_RECORD_COMMIT (R395): Firmware writes a pending record to the slot not in force. -/
def execCalRecordCommit (i : Fin 26) (s : State) : Host.Outcome State Fault Refusal :=
  finished s (s.calRecordCommit i)

/-- CAL_COMMIT_DONE (R395): A commit's read-back check passes and the new slot comes into force, or it fails with
CAL_WRITE. -/
def execCalCommitDone (i : Fin 26) (ok : Bool) (s : State) : Host.Outcome State Fault Refusal :=
  finished s (s.calCommitDone i ok)

/-- CAL_COMMIT_TIMEOUT (R395): A commit does not finish within 20 ms and CAL_WRITE is raised. -/
def execCalCommitTimeout (i : Fin 26) (s : State) : Host.Outcome State Fault Refusal :=
  finished s (s.calCommitDone i false)

/-- DRIFT_RUN_START (R400): Firmware drains and retrains a channel whose drift run is due. -/
def execDriftRunStart (c : Fin 32) (s : State) : Host.Outcome State Fault Refusal := finished s (s.driftRunStart c)

/-- SUSPECT_CHECK (R403): Firmware checks suspect conductors with vp.chk and spares those that err. -/
def execSuspectCheck (c : Fin 32) (err : BitVec 5) (s : State) : Host.Outcome State Fault Refusal :=
  finished s (s.suspectCheck c err)

/-- VPT_PROBE_LOOKUP (R404): A write of VPT_PROBE.COND or EDGE looks up a conductor's code and window. -/
def execVptProbeLookup (p : Path) (c : Fin 32) (w : BitVec 32) (s : State) : Host.Outcome State Fault Refusal :=
  finished s (s.writeOn p .VPT_PROBE c 0 w)

end Sys2Proof.Machine
end

