-- ==== Sys2Proof/Machine/ExecRegs.lean ====
section
/-!
DEFINITION. The meanings of the commands about register accesses, the management tick and the mode and channel requests (R60 to R125).
-/
namespace Sys2Proof.Machine

/-- GLB_TIME_LO_READ (R62): A read of GLB_TIME_LO latches the upper half into the shadow of its path. -/
def execGlbTimeLoRead (p : Path) (s : State) : Host.Outcome State Fault Refusal :=
  finished s (s.direct p (adr .GLB_TIME_LO) false 0)

/-- GLB_TIME_HI_READ (R62): A read of GLB_TIME_HI returns the path's shadow, or the live upper half when no shadow is
latched. -/
def execGlbTimeHiRead (p : Path) (s : State) : Host.Outcome State Fault Refusal :=
  finished s (s.direct p (adr .GLB_TIME_HI) false 0)

/-- GLB_TIME_HI_WRITE (R63): A write of GLB_TIME_HI is held in the staging holder of its path. -/
def execGlbTimeHiWrite (p : Path) (w : BitVec 32) (s : State) : Host.Outcome State Fault Refusal :=
  finished s (s.writeOn p .GLB_TIME_HI 0 0 w)

/-- GLB_TIME_LO_WRITE (R63): A write of GLB_TIME_LO loads the time base with the held upper half, or with the upper
half in force. -/
def execGlbTimeLoWrite (p : Path) (w : BitVec 32) (s : State) : Host.Outcome State Fault Refusal :=
  finished s (s.writeOn p .GLB_TIME_LO 0 0 w)

/-- WIDE_REGISTER_LO_READ (R85): A read of a low word latches the high word for the next high read on the same path.
-/
def execWideRegisterLoRead (p : Path) (a : BitVec 24) (s : State) : Host.Outcome State Fault Refusal :=
  finished s (s.direct p a.toNat false 0)

/-- WIDE_REGISTER_HI_WRITE (R85): A write of a high word is held for the path until that path writes the low word. -/
def execWideRegisterHiWrite (p : Path) (a : BitVec 24) (w : BitVec 32) (s : State) :
    Host.Outcome State Fault Refusal :=
  finished s (s.direct p a.toNat true w)

/-- WIDE_REGISTER_LO_WRITE (R85): A write of a low word applies together with any high word held on the same path. -/
def execWideRegisterLoWrite (p : Path) (a : BitVec 24) (w : BitVec 32) (s : State) :
    Host.Outcome State Fault Refusal :=
  finished s (s.direct p a.toNat true w)

/-- REGISTER_WRITE (R66): A write to a register without behaviour of its own is checked for privilege, lock and range,
then applied or staged. -/
def execRegisterWrite (p : Path) (a : BitVec 24) (w : BitVec 32) (s : State) : Host.Outcome State Fault Refusal :=
  finished s (s.direct p a.toNat true w)

/-- MANAGEMENT_TICK (R73): The 10 us management tick applies global staged shadows and runs tick-timed firmware work.
-/
def execManagementTick (s : State) : Host.Outcome State Fault Refusal := finished s s.managementTick

/-- REGISTER_ACCESS_TIMEOUT (R92): A register access has no completion 10 us after arrival and is answered TIMEOUT. -/
def execRegisterAccessTimeout (p : Path) (a : BitVec 24) (write : Bool) (w : BitVec 32) (tag : BitVec 14) (s : State) :
    Host.Outcome State Fault Refusal :=
  finished s (s.accessTimeout p a.toNat write w tag.toNat)

/-- POLL_SUMMARY_CLEAR (R95): A W1C write to POLL_SUMMARY clears the latches it names, unless a set arrives in the
same cycle. -/
def execPollSummaryClear (p : Path) (w : BitVec 32) (again : BitVec 32) (s : State) :
    Host.Outcome State Fault Refusal :=
  finished s (s.pollClear p w again)

/-- ECC_LOG_POP (R358): A destructive read removes the oldest correction-log entry and copies it into the path's hold
registers. -/
def execEccLogPop (p : Path) (c : Fin 32) (s : State) : Host.Outcome State Fault Refusal :=
  finished s (s.direct p (adr .ECC_LOG_POP c) false 0)

/-- MODE_REQ_SELF_REFRESH (R118): GLB_MODE.REQ 0x1 is checked and, when accepted, runs the retention entry into SELF-
REFRESH. -/
def execModeReqSelfRefresh (p : Path) (s : State) : Host.Outcome State Fault Refusal :=
  finished s (s.writeOn p .GLB_MODE 0 0 0x10000000#32)

/-- MODE_REQ_DEEP_RETENTION (R119): REQ 0x2 chooses the context channels and runs the full retention entry into DEEP
RETENTION. -/
def execModeReqDeepRetention (p : Path) (s : State) : Host.Outcome State Fault Refusal :=
  finished s (s.writeOn p .GLB_MODE 0 0 0x20000000#32)

/-- MODE_REQ_ACTIVE (R122): REQ 0x3 returns the device to ACTIVE from SELF-REFRESH, DEEP RETENTION or SAFE. -/
def execModeReqActive (p : Path) (env : ExitEnv) (s : State) : Host.Outcome State Fault Refusal :=
  finished s (s.direct p (adr .GLB_MODE) true 0x30000000#32 ⟨env, Given.plain.image⟩)

/-- MODE_REQ_SHUTDOWN (R123): REQ 0x4 writes back, commits pending MRAM writes, enters SELF-REFRESH and sets
SHUTDOWN_DONE. -/
def execModeReqShutdown (p : Path) (s : State) : Host.Outcome State Fault Refusal :=
  finished s (s.writeOn p .GLB_MODE 0 0 0x40000000#32)

/-- MODE_REQ_SHUTDOWN_TEST (R124): REQ 0x5 commits MRAM writes and enters SHUTDOWN-TEST. -/
def execModeReqShutdownTest (p : Path) (s : State) : Host.Outcome State Fault Refusal :=
  finished s (s.writeOn p .GLB_MODE 0 0 0x50000000#32)

/-- CH_REQ_DRAIN (R115): CH_STATE REQ DRAIN stops admission to the channel and starts the drain. -/
def execChReqDrain (p : Path) (c : Fin 32) (s : State) : Host.Outcome State Fault Refusal :=
  finished s (s.writeOn p .CH_STATE c 0 0x10000000#32)

/-- CH_REQ_RESUME (R115): REQ RESUME returns a QUIESCED or DRAINING channel to ONLINE and admits held requests. -/
def execChReqResume (p : Path) (c : Fin 32) (s : State) : Host.Outcome State Fault Refusal :=
  finished s (s.writeOn p .CH_STATE c 0 0x20000000#32)

/-- CH_REQ_RETRAIN (R115): REQ RETRAIN moves a QUIESCED channel to RETRAINING and starts a channel retrain. -/
def execChReqRetrain (p : Path) (c : Fin 32) (s : State) : Host.Outcome State Fault Refusal :=
  finished s (s.writeOn p .CH_STATE c 0 0x30000000#32)

/-- CH_REQ_OFFLINE (R115): REQ OFFLINE moves a QUIESCED channel to OFFLINE. -/
def execChReqOffline (p : Path) (c : Fin 32) (s : State) : Host.Outcome State Fault Refusal :=
  finished s (s.writeOn p .CH_STATE c 0 0x40000000#32)

/-- CH_REQ_RECOVER (R256): REQ RECOVER writes back FENCED slots, poisons lost rows and moves the channel to QUIESCED.
-/
def execChReqRecover (p : Path) (c : Fin 32) (s : State) : Host.Outcome State Fault Refusal :=
  finished s (s.writeOn p .CH_STATE c 0 0x50000000#32)

/-- CH_REQ_RETIRE (R117): REQ RETIRE starts the CH_RETIRE ledger write. -/
def execChReqRetire (p : Path) (c : Fin 32) (s : State) : Host.Outcome State Fault Refusal :=
  finished s (s.writeOn p .CH_STATE c 0 0x60000000#32)

/-- DRAIN_COMPLETE (R243): Every admitted request of a draining channel is answered and every slot is EMPTY; the
channel becomes QUIESCED. -/
def execDrainComplete (c : Fin 32) (s : State) : Host.Outcome State Fault Refusal := finished s (s.drainComplete c)

/-- HELD_REQUEST_TIMEOUT (R114): A request held 20 us without its channel becoming ONLINE is answered UNAVAILABLE. -/
def execHeldRequestTimeout (m : Fin 12) (tag : BitVec 14) (s : State) : Host.Outcome State Fault Refusal :=
  finished s (s.heldTimeout m tag.toNat)

/-- DRAIN_PIN_ABORT (R243): A program still running 50 us after DRAIN is aborted with code DRAIN. -/
def execDrainPinAbort (c : Fin 32) (s : State) : Host.Outcome State Fault Refusal := finished s (s.drainPinAbort c)

/-- LEDGER_WRITE_DONE (R427): A repair-ledger write ends committed, or fails its check or its 2 ms bound. -/
def execLedgerWriteDone (ok : Bool) (s : State) : Host.Outcome State Fault Refusal :=
  finished s (s.ledgerWriteDone ok)

/-- MRAM_WRITE_END (R444): An MRAM write of an audit entry, correction summary, wear record or fatal summary ends in
its read-back, or overruns 20 ms and raises MRAM_WRITE. -/
def execMramWriteEnd (kind : MramKind) (ok : Bool) (s : State) : Host.Outcome State Fault Refusal :=
  finished s (s.mramWriteEnd kind ok)

end Sys2Proof.Machine
end

