-- ==== Sys2Proof/Machine/ExecRepair.lean ====
section
/-!
DEFINITION. The meanings of the commands about the ledger, the fuse records and the shutdown test (R422 to R436).
-/
namespace Sys2Proof.Machine

/-- LDG_REMOVE (R431): CAL_LDG_CTL REMOVE frees a ledger position. -/
def execLdgRemove (p : Path) (w : BitVec 32) (s : State) : Host.Outcome State Fault Refusal :=
  finished s (s.writeOn p .CAL_LDG_CTL 0 0 (withBits w 31 28 1))

/-- LDG_FUSE (R431): CAL_LDG_CTL FUSE programs a fuse record from a spare entry and removes the entry. -/
def execLdgFuse (p : Path) (w : BitVec 32) (s : State) : Host.Outcome State Fault Refusal :=
  finished s (s.writeOn p .CAL_LDG_CTL 0 0 (withBits w 31 28 2))

/-- LDG_RECORD_COND (R431): CAL_LDG_CTL RECORD_COND writes a COND_SPARE entry for a spared conductor. -/
def execLdgRecordCond (p : Path) (w : BitVec 32) (s : State) : Host.Outcome State Fault Refusal :=
  finished s (s.writeOn p .CAL_LDG_CTL 0 0 (withBits w 31 28 3))

/-- LEDGER_ACTION_END (R431): A ledger action ends, BUSY clears and RESULT is set. -/
def execLedgerActionEnd (ok : Bool) (s : State) : Host.Outcome State Fault Refusal :=
  finished s (s.ledgerActionEnd ok)

/-- FUSE_CANCEL (R432): CAL_FUSE_CTL CANCEL blows a fuse record's CANCEL bit. -/
def execFuseCancel (p : Path) (w : BitVec 32) (s : State) : Host.Outcome State Fault Refusal :=
  finished s (s.writeOn p .CAL_FUSE_CTL 0 0 (withBits w 31 31 1))

/-- FUSE_CANCEL_END (R432): A CANCEL ends, BUSY clears and RESULT is set. -/
def execFuseCancelEnd (ok : Bool) (s : State) : Host.Outcome State Fault Refusal := finished s (s.fuseCancelEnd ok)

/-- CAL_LDG_IDX_LOOKUP (R441): A write of CAL_LDG_IDX.INDEX loads the ledger entry at that position. -/
def execCalLdgIdxLookup (p : Path) (w : BitVec 32) (s : State) : Host.Outcome State Fault Refusal :=
  finished s (s.writeOn p .CAL_LDG_IDX 0 0 w)

/-- CAL_TST_IDX_LOOKUP (R441): A write of CAL_TST_IDX.INDEX loads a test record. -/
def execCalTstIdxLookup (p : Path) (w : BitVec 32) (s : State) : Host.Outcome State Fault Refusal :=
  finished s (s.writeOn p .CAL_TST_IDX 0 0 w)

/-- CAL_FUSE_LOOKUP (R441): A write of CAL_FUSE_CTL.RECORD loads a fuse record. -/
def execCalFuseLookup (p : Path) (w : BitVec 32) (s : State) : Host.Outcome State Fault Refusal :=
  finished s (s.writeOn p .CAL_FUSE_CTL 0 0 (withBits w 31 31 0))

/-- TIER_TEST_START (R434): With its permit, firmware tests a tier's rows and conductors in SHUTDOWN-TEST. -/
def execTierTestStart (t : Fin 4) (found : List TestFind) (s : State) : Host.Outcome State Fault Refusal :=
  finished s (s.tierTest t found)

/-- TEST_PERMIT_TIMEOUT (R433): A test permit not granted within 5 s is taken as granted. -/
def execTestPermitTimeout (s : State) : Host.Outcome State Fault Refusal := finished s s.permitTimeout

end Sys2Proof.Machine
end

