-- ==== Sys2Proof/Machine/ExecRow.lean ====
section
/-!
DEFINITION. The meanings of the commands about the row, slot, sector, maintenance and test instructions of Exdun (R307 to R330).
-/
namespace Sys2Proof.Machine

/-- ROW_LOAD (R309): row.load pins a row in a slot and binds a handle to it. -/
def execRowLoad (c : Fin 32) (f : Fields) (s : State) : Host.Outcome State Fault Refusal :=
  finished s (s.issue c 0x40 f fun t => t.aRowLoad c f)

/-- ROW_CLAIM (R310): row.claim pins a row without move-in and makes it 32 zero sectors. -/
def execRowClaim (c : Fin 32) (f : Fields) (s : State) : Host.Outcome State Fault Refusal :=
  finished s (s.issue c 0x41 f fun t => t.aRowClaim c f)

/-- ROW_REL (R311): row.rel releases the pin-table entries of selected handles. -/
def execRowRel (c : Fin 32) (f : Fields) (s : State) : Host.Outcome State Fault Refusal :=
  finished s (s.issue c 0x42 f fun t => t.aRowRel c f)

/-- ROW_WB (R311): row.wb writes back a DIRTY pinned slot and leaves it open. -/
def execRowWb (c : Fin 32) (f : Fields) (s : State) : Host.Outcome State Fault Refusal :=
  finished s (s.issue c 0x43 f fun t => t.aRowWb c f)

/-- ROW_LOC (R308): row.loc returns the locator of a handle's row. -/
def execRowLoc (c : Fin 32) (f : Fields) (s : State) : Host.Outcome State Fault Refusal :=
  finished s (s.issue c 0x44 f fun t => t.aRowLoc c f)

/-- SLOT_LDW (R312): slot.ldw decodes a sector and reads one word or its metadata. -/
def execSlotLdw (c : Fin 32) (f : Fields) (s : State) : Host.Outcome State Fault Refusal :=
  finished s (s.issue c 0x45 f fun t => t.aSlotLdw c f)

/-- SLOT_STW (R312): slot.stw merges one word or the metadata into a sector of a slot. -/
def execSlotStw (c : Fin 32) (f : Fields) (s : State) : Host.Outcome State Fault Refusal :=
  finished s (s.issue c 0x46 f fun t => t.aSlotStw c f)

/-- ROW_COPY (R313): row.copy copies selected sectors between slots. -/
def execRowCopy (c : Fin 32) (f : Fields) (s : State) : Host.Outcome State Fault Refusal :=
  finished s (s.issue c 0x50 f fun t => t.aRowCopy c f)

/-- ROW_FILL (R313): row.fill fills selected sectors with a repeated word. -/
def execRowFill (c : Fin 32) (f : Fields) (s : State) : Host.Outcome State Fault Refusal :=
  finished s (s.issue c 0x51 f fun t => t.aRowFill c f)

/-- ROW_ZERO (R313): row.zero zeroes selected sectors. -/
def execRowZero (c : Fin 32) (f : Fields) (s : State) : Host.Outcome State Fault Refusal :=
  finished s (s.issue c 0x52 f fun t => t.aRowZero c f)

/-- ROW_BIT (R313): row.bit applies a bitwise operation to selected sectors. -/
def execRowBit (c : Fin 32) (f : Fields) (s : State) : Host.Outcome State Fault Refusal :=
  finished s (s.issue c 0x53 f fun t => t.aRowBit c f)

/-- ROW_CMP (R315): row.cmp builds a match mask of sector keys. -/
def execRowCmp (c : Fin 32) (f : Fields) (s : State) : Host.Outcome State Fault Refusal :=
  finished s (s.issue c 0x54 f fun t => t.aRowCmp c f)

/-- ROW_POPC (R316): row.popc counts one bits in selected sectors. -/
def execRowPopc (c : Fin 32) (f : Fields) (s : State) : Host.Outcome State Fault Refusal :=
  finished s (s.issue c 0x55 f fun t => t.aRowPopc c f)

/-- ROW_CRC (R316): row.crc computes CRC-32C over selected sectors. -/
def execRowCrc (c : Fin 32) (f : Fields) (s : State) : Host.Outcome State Fault Refusal :=
  finished s (s.issue c 0x56 f fun t => t.aRowCrc c f)

/-- ROW_FERRY (R317): row.ferry copies a whole row to a row of another channel. -/
def execRowFerry (c : Fin 32) (f : Fields) (s : State) : Host.Outcome State Fault Refusal :=
  finished s (s.issue c 0x57 f fun t => t.aRowFerry c f)

/-- SEC_RDRAW (R320): sec.rdraw reads a sector's stored symbols into g7-g15. -/
def execSecRdraw (c : Fin 32) (f : Fields) (s : State) : Host.Outcome State Fault Refusal :=
  finished s (s.issue c 0x60 f fun t => t.aSecRdraw c f)

/-- SEC_WRRAW (R320): sec.wrraw writes or inverts chosen stored symbols of a sector. -/
def execSecWrraw (c : Fin 32) (f : Fields) (s : State) : Host.Outcome State Fault Refusal :=
  finished s (s.issue c 0x61 f fun t => t.aSecWrraw c f)

/-- REP_RETIRE (R324): rep.retire retires an addressable row through a ledger entry. -/
def execRepRetire (c : Fin 32) (f : Fields) (s : State) : Host.Outcome State Fault Refusal :=
  finished s (s.issue c 0x70 f fun t => t.aRepRetire c f)

/-- REP_ROW (R324): rep.row copies a row to a free spare row and switches to it. -/
def execRepRow (c : Fin 32) (f : Fields) (s : State) : Host.Outcome State Fault Refusal :=
  finished s (s.issue c 0x71 f fun t => t.aRepRow c f)

/-- REP_COL (R325): rep.col walks a bank to bring a spare sector-column into use. -/
def execRepCol (c : Fin 32) (f : Fields) (s : State) : Host.Outcome State Fault Refusal :=
  finished s (s.issue c 0x72 f fun t => t.aRepCol c f)

/-- REP_COL_WALK_STEP (R325): One walk step of rep.col moves a row through the scrub buffer into the spare column. -/
def execRepColWalkStep (c : Fin 32) (s : State) : Host.Outcome State Fault Refusal := finished s (s.repColStep c)

/-- REF_ROW (R323): ref.row refreshes a row or its targeted-refresh neighbours. -/
def execRefRow (c : Fin 32) (f : Fields) (s : State) : Host.Outcome State Fault Refusal :=
  finished s (s.issue c 0x73 f fun t => t.aRefRow c f)

/-- EXT_INIT (R326): ext.init zero-fills an extent, or with CLEAR marks it unwritten. -/
def execExtInit (c : Fin 32) (f : Fields) (s : State) : Host.Outcome State Fault Refusal :=
  finished s (s.issue c 0x74 f fun t => t.aExtInit c f)

/-- VP_SPARE (R327): vp.spare replaces a conductor with its group's spare, or returns it to use. -/
def execVpSpare (c : Fin 32) (f : Fields) (s : State) : Host.Outcome State Fault Refusal :=
  finished s (s.issue c 0x78 f fun t => t.aVpSpare c f)

/-- VP_CHK (R327): vp.chk runs PRBS-31 cycles over one spare group of one layer. -/
def execVpChk (c : Fin 32) (f : Fields) (seen : BitVec 64) (s : State) : Host.Outcome State Fault Refusal :=
  finished s (s.issue c 0x79 f fun t => t.aVpChk c f seen)

/-- VP_PT (R327): vp.pt sets one edge's sample-delay code of a conductor. -/
def execVpPt (c : Fin 32) (f : Fields) (s : State) : Host.Outcome State Fault Refusal :=
  finished s (s.issue c 0x7A f fun t => t.aVpPt c f)

/-- STAT_RES (R328): stat.res reports whether and where a row is resident. -/
def execStatRes (c : Fin 32) (f : Fields) (s : State) : Host.Outcome State Fault Refusal :=
  finished s (s.issue c 0x90 f fun t => t.aStatRes c f)

/-- STAT_ACT (R328): stat.act reports a row's tracker count. -/
def execStatAct (c : Fin 32) (f : Fields) (s : State) : Host.Outcome State Fault Refusal :=
  finished s (s.issue c 0x91 f fun t => t.aStatAct c f)

/-- TST_WR (R329): tst.wr writes a raw test pattern to a row. -/
def execTstWr (c : Fin 32) (f : Fields) (s : State) : Host.Outcome State Fault Refusal :=
  finished s (s.issue c 0xA0 f fun t => t.aTstWr c f)

/-- TST_RD (R330): tst.rd reads a row and compares it with a test pattern. -/
def execTstRd (c : Fin 32) (f : Fields) (s : State) : Host.Outcome State Fault Refusal :=
  finished s (s.issue c 0xA1 f fun t => t.aTstRd c f)

end Sys2Proof.Machine
end

