-- ==== Sys2Proof/Machine/ExecScalar.lean ====
section
/-!
DEFINITION. The meanings of the commands about the control, scalar, status and register instructions of Exdun (R299 to R306).
-/
namespace Sys2Proof.Machine

/-- NOP (R300): nop does nothing. -/
def execNop (c : Fin 32) (f : Fields) (s : State) : Host.Outcome State Fault Refusal :=
  finished s (s.issue c 0x00 f fun t => t.aNop c f)

/-- HALT (R300): halt ends the program with DONE. -/
def execHalt (c : Fin 32) (f : Fields) (s : State) : Host.Outcome State Fault Refusal :=
  finished s (s.issue c 0x01 f fun t => t.aHalt c f)

/-- BR (R301): br checks its target and branches when taken. -/
def execBr (c : Fin 32) (f : Fields) (s : State) : Host.Outcome State Fault Refusal :=
  finished s (s.issue c 0x02 f fun t => t.aBr c f)

/-- WAIT (R302): wait waits IMM ns of the time base. -/
def execWait (c : Fin 32) (f : Fields) (s : State) : Host.Outcome State Fault Refusal :=
  finished s (s.issue c 0x03 f fun t => t.aWait c f)

/-- TIME (R302): time reads the time base into gD. -/
def execTime (c : Fin 32) (f : Fields) (s : State) : Host.Outcome State Fault Refusal :=
  finished s (s.issue c 0x04 f fun t => t.aTime c f)

/-- LI (R303): li loads a sign-extended immediate. -/
def execLi (c : Fin 32) (f : Fields) (s : State) : Host.Outcome State Fault Refusal :=
  finished s (s.issue c 0x10 f fun t => t.aLi c f)

/-- LIH (R303): lih loads the upper 32 bits of gD. -/
def execLih (c : Fin 32) (f : Fields) (s : State) : Host.Outcome State Fault Refusal :=
  finished s (s.issue c 0x11 f fun t => t.aLih c f)

/-- MOV (R303): mov copies gA to gD. -/
def execMov (c : Fin 32) (f : Fields) (s : State) : Host.Outcome State Fault Refusal :=
  finished s (s.issue c 0x12 f fun t => t.aGG c f fun x => x)

/-- ADD (R303): add adds two registers. -/
def execAdd (c : Fin 32) (f : Fields) (s : State) : Host.Outcome State Fault Refusal :=
  finished s (s.issue c 0x13 f fun t => t.aGGG c f fun x y => x + y)

/-- SUB (R303): sub subtracts two registers. -/
def execSub (c : Fin 32) (f : Fields) (s : State) : Host.Outcome State Fault Refusal :=
  finished s (s.issue c 0x14 f fun t => t.aGGG c f fun x y => x - y)

/-- ADDI (R303): addi adds a signed immediate. -/
def execAddi (c : Fin 32) (f : Fields) (s : State) : Host.Outcome State Fault Refusal :=
  finished s (s.issue c 0x15 f fun t => t.aAddi c f)

/-- AND (R303): and ANDs two registers. -/
def execAnd (c : Fin 32) (f : Fields) (s : State) : Host.Outcome State Fault Refusal :=
  finished s (s.issue c 0x16 f fun t => t.aGGG c f fun x y => x &&& y)

/-- OR (R303): or ORs two registers. -/
def execOr (c : Fin 32) (f : Fields) (s : State) : Host.Outcome State Fault Refusal :=
  finished s (s.issue c 0x17 f fun t => t.aGGG c f fun x y => x ||| y)

/-- XOR (R303): xor XORs two registers. -/
def execXor (c : Fin 32) (f : Fields) (s : State) : Host.Outcome State Fault Refusal :=
  finished s (s.issue c 0x18 f fun t => t.aGGG c f fun x y => x ^^^ y)

/-- SHL (R303): shl shifts left by IMM[5:0]. -/
def execShl (c : Fin 32) (f : Fields) (s : State) : Host.Outcome State Fault Refusal :=
  finished s (s.issue c 0x19 f fun t => t.aShift c f fun x n => x <<< n)

/-- SHR (R303): shr shifts right logically by IMM[5:0]. -/
def execShr (c : Fin 32) (f : Fields) (s : State) : Host.Outcome State Fault Refusal :=
  finished s (s.issue c 0x1A f fun t => t.aShift c f fun x n => x >>> n)

/-- CTZ (R303): ctz counts trailing zero bits. -/
def execCtz (c : Fin 32) (f : Fields) (s : State) : Host.Outcome State Fault Refusal :=
  finished s (s.issue c 0x1B f fun t => t.aGG c f ctz64)

/-- POPC (R303): popc counts one bits. -/
def execPopc (c : Fin 32) (f : Fields) (s : State) : Host.Outcome State Fault Refusal :=
  finished s (s.issue c 0x1C f fun t => t.aGG c f popc64)

/-- MUL (R303): mul writes the low 64 bits of a product. -/
def execMul (c : Fin 32) (f : Fields) (s : State) : Host.Outcome State Fault Refusal :=
  finished s (s.issue c 0x1D f fun t => t.aGGG c f fun x y => x * y)

/-- CMP (R304): cmp writes a predicate from a register comparison. -/
def execCmp (c : Fin 32) (f : Fields) (s : State) : Host.Outcome State Fault Refusal :=
  finished s (s.issue c 0x20 f fun t => t.aCmp c f)

/-- CMPI (R304): cmpi writes a predicate from a comparison with an immediate. -/
def execCmpi (c : Fin 32) (f : Fields) (s : State) : Host.Outcome State Fault Refusal :=
  finished s (s.issue c 0x21 f fun t => t.aCmpi c f)

/-- ST_RD (R303): st.rd copies ST to gD. -/
def execStRd (c : Fin 32) (f : Fields) (s : State) : Host.Outcome State Fault Refusal :=
  finished s (s.issue c 0x24 f fun t => t.aStRd c f)

/-- ST_CLR (R305): st.clr clears selected ST bits. -/
def execStClr (c : Fin 32) (f : Fields) (s : State) : Host.Outcome State Fault Refusal :=
  finished s (s.issue c 0x25 f fun t => t.aStClr c f)

/-- LD_CFG (R306): ld.cfg makes one register read on the engine's path. -/
def execLdCfg (c : Fin 32) (f : Fields) (s : State) : Host.Outcome State Fault Refusal :=
  finished s (s.issue c 0x30 f fun t => t.aLdCfg c f)

/-- ST_CFG (R306): st.cfg makes one register write on the engine's path. -/
def execStCfg (c : Fin 32) (f : Fields) (s : State) : Host.Outcome State Fault Refusal :=
  finished s (s.issue c 0x31 f fun t => t.aStCfg c f)

/-- RESERVED_OPCODE (R299): An instruction whose OPCODE is reserved issues and ends its program with exception
ILLEGAL. -/
def execReservedOpcode (c : Fin 32) (op : BitVec 8) (f : Fields) (s : State) : Host.Outcome State Fault Refusal :=
  finished s (s.reserved c op f)

/-- FIRMWARE_INSTRUCTION (R331): An opcode 0xF0-0xFF runs on q7 only and ends other programs with CLASS. -/
def execFirmwareInstruction (c : Fin 32) (op : BitVec 8) (f : Fields) (s : State) : Host.Outcome State Fault Refusal :=
  if op.toNat < 0xF0 || !s.issuable c op f then finished s s
  else if (s.eng c).queue = 7 then .refused .firmwareInternal
  else finished s (s.issue c op f fun _ => .exc 0x11)

end Sys2Proof.Machine
end

