-- ==== Sys2Proof/Machine/ExecStored.lean ====
section
/-!
DEFINITION. The meanings of the commands about stored data: scrubbing, the correction log, the extent map, injection (R332 to R371).
-/
namespace Sys2Proof.Machine

/-- SCRUB_POINTER_ADVANCE (R350): The scrub pointer advances as scrub time allows, passing ineligible positions. -/
def execScrubPointerAdvance (c : Fin 32) (dt : Nat) (s : State) : Host.Outcome State Fault Refusal :=
  finished s (s.scrubAdvance c dt)

/-- SCRUB_VISIT (R353): In an idle cycle the scrubber decodes every sector of a row and rewrites what it corrects or
poisons. -/
def execScrubVisit (c : Fin 32) (s : State) : Host.Outcome State Fault Refusal := finished s (s.scrubVisit c)

/-- SCRUB_LAP_OVERDUE (R352): A lap's scrub time reaches 9/8 of LAP_TARGET before it ends and LAP_OVERDUE is set. -/
def execScrubLapOverdue (c : Fin 32) (s : State) : Host.Outcome State Fault Refusal := finished s (s.lapOverdue c)

/-- PRIORITY_SCRUB_VISIT (R354): A row from the priority scrub queue is visited in an idle cycle. -/
def execPriorityScrubVisit (c : Fin 32) (s : State) : Host.Outcome State Fault Refusal :=
  finished s (s.priorityVisit c)

/-- LOG_SPILL_WRITE (R359): A correction-log entry beyond 128 is written to the spill ring. -/
def execLogSpillWrite (c : Fin 32) (s : State) : Host.Outcome State Fault Refusal := finished s (s.logSpill c)

/-- ECC_EXT_LOOKUP (R348): A write of ECC_EXT.EXTENT looks up whether the extent is written. -/
def execEccExtLookup (p : Path) (c : Fin 32) (w : BitVec 32) (s : State) : Host.Outcome State Fault Refusal :=
  finished s (s.writeOn p .ECC_EXT c 0 w)

/-- ECC_INJ_ARM (R369): A write setting ECC_INJ_CTL.ARM arms check-symbol injection for host writes. -/
def execEccInjArm (p : Path) (c : Fin 32) (w : BitVec 32) (s : State) : Host.Outcome State Fault Refusal :=
  finished s (s.writeOn p .ECC_INJ_CTL c 0 (withBits w 31 31 1))

end Sys2Proof.Machine
end

