-- ==== Sys2Proof/Machine/ExecTransport.lean ====
section
/-!
DEFINITION. The meanings of the commands about the Wethen Transport (R154 to R194).
-/
namespace Sys2Proof.Machine

/-- RD (R177): An RD message is accepted, checked and given a device entry or an answer. -/
def execRd (m : Fin 12) (cell : Fin 15) (h : BitVec 128) (s : State) : Host.Outcome State Fault Refusal :=
  finished s (s.request m cell 1 0x21 h.toNat .rd 0 0)

/-- WR (R182): A WR message is accepted and checked, and writes one sector with its metadata. -/
def execWr (m : Fin 12) (cell : Fin 15) (h : BitVec 128) (data : BitVec 512) (s : State) :
    Host.Outcome State Fault Refusal :=
  finished s (s.request m cell 5 0x22 h.toNat .wr data (BitVec.allOnes 64))

/-- WR_PART (R184): A WR_PART message is accepted and merges its enabled bytes into the stored sector. -/
def execWrPart (m : Fin 12) (cell : Fin 15) (h : BitVec 128) (data : BitVec 512) (be : BitVec 64) (s : State) :
    Host.Outcome State Fault Refusal :=
  finished s (s.request m cell 6 0x23 h.toNat .wrPart data be)

/-- WR_ZERO (R182): A WR_ZERO message is accepted and stores a zero sector with its TAG. -/
def execWrZero (m : Fin 12) (cell : Fin 15) (h : BitVec 128) (s : State) : Host.Outcome State Fault Refusal :=
  finished s (s.request m cell 1 0x24 h.toNat .wrZero 0 (BitVec.allOnes 64))

/-- FENCE (R181): A FENCE message holds the performance of later requests of its scope until earlier ones are
answered. -/
def execFence (m : Fin 12) (cell : Fin 15) (h : BitVec 128) (s : State) : Host.Outcome State Fault Refusal :=
  finished s (s.request m cell 1 0x25 h.toNat .fence 0 0)

/-- CREDIT (R167): A requester's CREDIT cell initialises or adds to the device's RSP and CTL counters. -/
def execCredit (m : Fin 12) (cell : Fin 15) (h : BitVec 128) (s : State) : Host.Outcome State Fault Refusal :=
  finished s (s.takeCredit m cell h.toNat)

/-- CFG_RD (R173): A CTL register read is served ahead of REQ traffic and answered by CFG_CPL. -/
def execCfgRd (m : Fin 12) (cell : Fin 15) (h : BitVec 128) (s : State) : Host.Outcome State Fault Refusal :=
  finished s (s.ctlMessage m cell h.toNat false)

/-- CFG_WR (R173): A CTL register write applies within 200 ns and is answered by CFG_CPL. -/
def execCfgWr (m : Fin 12) (cell : Fin 15) (h : BitVec 128) (s : State) : Host.Outcome State Fault Refusal :=
  finished s (s.ctlMessage m cell h.toNat true)

/-- REQ_CREDIT_RETURN (R170): Freed REQ ingress cells are returned to the requester in CREDIT cells within 40 ns. -/
def execReqCreditReturn (m : Fin 12) (s : State) : Host.Outcome State Fault Refusal :=
  finished s (s.reqCreditReturn m)

/-- RESPONSE_TRANSMIT (R189): A formed response leaves its module's egress once RSP credit and an ACTIVE link allow.
-/
def execResponseTransmit (m : Fin 12) (s : State) : Host.Outcome State Fault Refusal := finished s (s.transmit m)

/-- REQUEST_DEADLINE (R188): A transaction has no response 50 us after acceptance and is answered TIMEOUT. -/
def execRequestDeadline (m : Fin 12) (tag : BitVec 14) (s : State) : Host.Outcome State Fault Refusal :=
  finished s (s.requestDeadline m tag.toNat)

/-- XPT_INJ_ARM (R193): A write setting XPT_INJ_CTL.ARM arms transport answer injection. -/
def execXptInjArm (p : Path) (w : BitVec 32) (s : State) : Host.Outcome State Fault Refusal :=
  finished s (s.writeOn p .XPT_INJ_CTL 0 0 (withBits w 31 31 1))

end Sys2Proof.Machine
end

