-- ==== Sys2Proof/Machine/Dispatch.lean ====
section
/-!
DEFINITION. The command table: one arm per constructor of `Instr`, each a direct call of its meaning.
-/
namespace Sys2Proof.Machine

/-- The effect of a command on everything but the queue. -/
def exec (i : Instr) (s : State) : Host.Outcome State Fault Refusal :=
  match i with
  | .pwrokRise => Sys2Proof.Machine.execPwrokRise s
  | .pwrokFall => Sys2Proof.Machine.execPwrokFall s
  | .rstNRise env => Sys2Proof.Machine.execRstNRise env s
  | .rstNFall => Sys2Proof.Machine.execRstNFall s
  | .bringupStepTimeout step which => Sys2Proof.Machine.execBringupStepTimeout step which s
  | .corePllLockLoss h => Sys2Proof.Machine.execCorePllLockLoss h s
  | .pllLockTimeout h => Sys2Proof.Machine.execPllLockTimeout h s
  | .refclkMeasure khz => Sys2Proof.Machine.execRefclkMeasure khz s
  | .refclkAbsent => Sys2Proof.Machine.execRefclkAbsent s
  | .refclkReturn => Sys2Proof.Machine.execRefclkReturn s
  | .refclkLossTimeout => Sys2Proof.Machine.execRefclkLossTimeout s
  | .spineStopSelfRefresh d => Sys2Proof.Machine.execSpineStopSelfRefresh d s
  | .islandIdleGate n => Sys2Proof.Machine.execIslandIdleGate n s
  | .islandWake n => Sys2Proof.Machine.execIslandWake n s
  | .islandResetReq p n w => Sys2Proof.Machine.execIslandResetReq p n w s
  | .islandResetRelease n => Sys2Proof.Machine.execIslandResetRelease n s
  | .channelFieldsRestore c => Sys2Proof.Machine.execChannelFieldsRestore c s
  | .islandGateWrite p n w => Sys2Proof.Machine.execIslandGateWrite p n w s
  | .straitEntryWrite k words owner => Sys2Proof.Machine.execStraitEntryWrite k words owner s
  | .straitEntryRead k hit => Sys2Proof.Machine.execStraitEntryRead k hit s
  | .straitCreditReturn k => Sys2Proof.Machine.execStraitCreditReturn k s
  | .railSample k mv => Sys2Proof.Machine.execRailSample k mv s
  | .pwrRailLimWrite p k w => Sys2Proof.Machine.execPwrRailLimWrite p k w s
  | .diePgoodTrip d arr vpp => Sys2Proof.Machine.execDiePgoodTrip d arr vpp s
  | .diePgoodRestore d => Sys2Proof.Machine.execDiePgoodRestore d s
  | .glbTimeLoRead p => Sys2Proof.Machine.execGlbTimeLoRead p s
  | .glbTimeHiRead p => Sys2Proof.Machine.execGlbTimeHiRead p s
  | .glbTimeHiWrite p w => Sys2Proof.Machine.execGlbTimeHiWrite p w s
  | .glbTimeLoWrite p w => Sys2Proof.Machine.execGlbTimeLoWrite p w s
  | .wideRegisterLoRead p a => Sys2Proof.Machine.execWideRegisterLoRead p a s
  | .wideRegisterHiWrite p a w => Sys2Proof.Machine.execWideRegisterHiWrite p a w s
  | .wideRegisterLoWrite p a w => Sys2Proof.Machine.execWideRegisterLoWrite p a w s
  | .registerWrite p a w => Sys2Proof.Machine.execRegisterWrite p a w s
  | .managementTick => Sys2Proof.Machine.execManagementTick s
  | .registerAccessTimeout p a write w tag => Sys2Proof.Machine.execRegisterAccessTimeout p a write w tag s
  | .pollSummaryClear p w again => Sys2Proof.Machine.execPollSummaryClear p w again s
  | .eccLogPop p c => Sys2Proof.Machine.execEccLogPop p c s
  | .modeReqSelfRefresh p => Sys2Proof.Machine.execModeReqSelfRefresh p s
  | .modeReqDeepRetention p => Sys2Proof.Machine.execModeReqDeepRetention p s
  | .modeReqActive p env => Sys2Proof.Machine.execModeReqActive p env s
  | .modeReqShutdown p => Sys2Proof.Machine.execModeReqShutdown p s
  | .modeReqShutdownTest p => Sys2Proof.Machine.execModeReqShutdownTest p s
  | .chReqDrain p c => Sys2Proof.Machine.execChReqDrain p c s
  | .chReqResume p c => Sys2Proof.Machine.execChReqResume p c s
  | .chReqRetrain p c => Sys2Proof.Machine.execChReqRetrain p c s
  | .chReqOffline p c => Sys2Proof.Machine.execChReqOffline p c s
  | .chReqRecover p c => Sys2Proof.Machine.execChReqRecover p c s
  | .chReqRetire p c => Sys2Proof.Machine.execChReqRetire p c s
  | .drainComplete c => Sys2Proof.Machine.execDrainComplete c s
  | .heldRequestTimeout m tag => Sys2Proof.Machine.execHeldRequestTimeout m tag s
  | .drainPinAbort c => Sys2Proof.Machine.execDrainPinAbort c s
  | .ledgerWriteDone ok => Sys2Proof.Machine.execLedgerWriteDone ok s
  | .sbDetectTimeout m => Sys2Proof.Machine.execSbDetectTimeout m s
  | .sidebandUp m => Sys2Proof.Machine.execSidebandUp m s
  | .sidebandLinkFail m => Sys2Proof.Machine.execSidebandLinkFail m s
  | .mbStageTimeout m => Sys2Proof.Machine.execMbStageTimeout m s
  | .mainbandTrainingDone m env => Sys2Proof.Machine.execMainbandTrainingDone m env s
  | .trainErrorRestart m => Sys2Proof.Machine.execTrainErrorRestart m s
  | .moduleTrainDeadline m => Sys2Proof.Machine.execModuleTrainDeadline m s
  | .kyCap m d => Sys2Proof.Machine.execKyCap m d s
  | .kyCapTimeout m => Sys2Proof.Machine.execKyCapTimeout m s
  | .regRd m d => Sys2Proof.Machine.execRegRd m d s
  | .regWr m d => Sys2Proof.Machine.execRegWr m d s
  | .eqSet m d => Sys2Proof.Machine.execEqSet m d s
  | .eqGet m => Sys2Proof.Machine.execEqGet m s
  | .kyLpbk m d => Sys2Proof.Machine.execKyLpbk m d s
  | .kyLpbkRsp m status => Sys2Proof.Machine.execKyLpbkRsp m status s
  | .kyLpbkRspTimeout m => Sys2Proof.Machine.execKyLpbkRspTimeout m s
  | .partnerL1Request m => Sys2Proof.Machine.execPartnerL1Request m s
  | .primarySbLossTimeout => Sys2Proof.Machine.execPrimarySbLossTimeout s
  | .flitCrcFail m => Sys2Proof.Machine.execFlitCrcFail m s
  | .retryExhausted m => Sys2Proof.Machine.execRetryExhausted m s
  | .retrainEnd m env => Sys2Proof.Machine.execRetrainEnd m env s
  | .retrainTimeout m => Sys2Proof.Machine.execRetrainTimeout m s
  | .l1ExitTimeout m => Sys2Proof.Machine.execL1ExitTimeout m s
  | .retrainReq p m w => Sys2Proof.Machine.execRetrainReq p m w s
  | .commitModule p m w => Sys2Proof.Machine.execCommitModule p m w s
  | .makePrimary p m w => Sys2Proof.Machine.execMakePrimary p m w s
  | .excludeModule p m w => Sys2Proof.Machine.execExcludeModule p m w s
  | .forceExclude p m w => Sys2Proof.Machine.execForceExclude p m w s
  | .includeModule p m w => Sys2Proof.Machine.execIncludeModule p m w s
  | .exclusionDrainEnd m => Sys2Proof.Machine.execExclusionDrainEnd m s
  | .exclusionDrainTimeout m => Sys2Proof.Machine.execExclusionDrainTimeout m s
  | .lpbkStart p m w => Sys2Proof.Machine.execLpbkStart p m w s
  | .lpbkStop p m w => Sys2Proof.Machine.execLpbkStop p m w s
  | .loopbackDurationEnd m lanes errors => Sys2Proof.Machine.execLoopbackDurationEnd m lanes errors s
  | .rd m cell h => Sys2Proof.Machine.execRd m cell h s
  | .wr m cell h data => Sys2Proof.Machine.execWr m cell h data s
  | .wrPart m cell h data be => Sys2Proof.Machine.execWrPart m cell h data be s
  | .wrZero m cell h => Sys2Proof.Machine.execWrZero m cell h s
  | .fence m cell h => Sys2Proof.Machine.execFence m cell h s
  | .credit m cell h => Sys2Proof.Machine.execCredit m cell h s
  | .cfgRd m cell h => Sys2Proof.Machine.execCfgRd m cell h s
  | .cfgWr m cell h => Sys2Proof.Machine.execCfgWr m cell h s
  | .reqCreditReturn m => Sys2Proof.Machine.execReqCreditReturn m s
  | .responseTransmit m => Sys2Proof.Machine.execResponseTransmit m s
  | .requestDeadline m tag => Sys2Proof.Machine.execRequestDeadline m tag s
  | .xptInjArm p w => Sys2Proof.Machine.execXptInjArm p w s
  | .flowCtxWord0Write p f w => Sys2Proof.Machine.execFlowCtxWord0Write p f w s
  | .flowCtxWord1Write p f w => Sys2Proof.Machine.execFlowCtxWord1Write p f w s
  | .flowCtxWord2Write p f w => Sys2Proof.Machine.execFlowCtxWord2Write p f w s
  | .qosWindowBoundary => Sys2Proof.Machine.execQosWindowBoundary s
  | .requestClassify m tag => Sys2Proof.Machine.execRequestClassify m tag s
  | .urgWireChange level => Sys2Proof.Machine.execUrgWireChange level s
  | .urgStuckTimeout w => Sys2Proof.Machine.execUrgStuckTimeout w s
  | .floorRecompute => Sys2Proof.Machine.execFloorRecompute s
  | .qosThrottleWrite p w => Sys2Proof.Machine.execQosThrottleWrite p w s
  | .qosFenceGo p => Sys2Proof.Machine.execQosFenceGo p s
  | .bulkStarvePromote m tag => Sys2Proof.Machine.execBulkStarvePromote m tag s
  | .schedulerTakeUp m tag => Sys2Proof.Machine.execSchedulerTakeUp m tag s
  | .lagoonHit m tag => Sys2Proof.Machine.execLagoonHit m tag s
  | .sectorCycle m tag => Sys2Proof.Machine.execSectorCycle m tag s
  | .verticalCycleSchedule c => Sys2Proof.Machine.execVerticalCycleSchedule c s
  | .moveInTransferEnd c k => Sys2Proof.Machine.execMoveInTransferEnd c k s
  | .moveInDone c k => Sys2Proof.Machine.execMoveInDone c k s
  | .moveOutPrecharge c k => Sys2Proof.Machine.execMoveOutPrecharge c k s
  | .histDecay c => Sys2Proof.Machine.execHistDecay c s
  | .zeroFillComplete c => Sys2Proof.Machine.execZeroFillComplete c s
  | .refreshIntervalTick c => Sys2Proof.Machine.execRefreshIntervalTick c s
  | .perBankRefreshIssue c b => Sys2Proof.Machine.execPerBankRefreshIssue c b s
  | .perBankRefreshEnd c b => Sys2Proof.Machine.execPerBankRefreshEnd c b s
  | .glbDieRstGo p d => Sys2Proof.Machine.execGlbDieRstGo p d s
  | .dieResetReady => Sys2Proof.Machine.execDieResetReady s
  | .dieResetReadyTimeout => Sys2Proof.Machine.execDieResetReadyTimeout s
  | .writebackAll p c => Sys2Proof.Machine.execWritebackAll p c s
  | .discardFenced p c => Sys2Proof.Machine.execDiscardFenced p c s
  | .lagActionEnd c => Sys2Proof.Machine.execLagActionEnd c s
  | .exdQdbWrite p c q w => Sys2Proof.Machine.execExdQdbWrite p c q w s
  | .exdQcfgWrite p c q w => Sys2Proof.Machine.execExdQcfgWrite p c q w s
  | .exdQctlEnWrite p c q en => Sys2Proof.Machine.execExdQctlEnWrite p c q en s
  | .exdQctlAbort p c q en => Sys2Proof.Machine.execExdQctlAbort p c q en s
  | .exdQctlResetIdx p c q => Sys2Proof.Machine.execExdQctlResetIdx p c q s
  | .exdCtlAbort p c => Sys2Proof.Machine.execExdCtlAbort p c s
  | .descriptorRead c => Sys2Proof.Machine.execDescriptorRead c s
  | .programFetchDone c => Sys2Proof.Machine.execProgramFetchDone c s
  | .completionRecordWritten c => Sys2Proof.Machine.execCompletionRecordWritten c s
  | .exdunBudgetLapse c => Sys2Proof.Machine.execExdunBudgetLapse c s
  | .instructionWaitEnd c => Sys2Proof.Machine.execInstructionWaitEnd c s
  | .nop c f => Sys2Proof.Machine.execNop c f s
  | .halt c f => Sys2Proof.Machine.execHalt c f s
  | .br c f => Sys2Proof.Machine.execBr c f s
  | .wait c f => Sys2Proof.Machine.execWait c f s
  | .time c f => Sys2Proof.Machine.execTime c f s
  | .li c f => Sys2Proof.Machine.execLi c f s
  | .lih c f => Sys2Proof.Machine.execLih c f s
  | .mov c f => Sys2Proof.Machine.execMov c f s
  | .add c f => Sys2Proof.Machine.execAdd c f s
  | .sub c f => Sys2Proof.Machine.execSub c f s
  | .addi c f => Sys2Proof.Machine.execAddi c f s
  | .and c f => Sys2Proof.Machine.execAnd c f s
  | .or c f => Sys2Proof.Machine.execOr c f s
  | .xor c f => Sys2Proof.Machine.execXor c f s
  | .shl c f => Sys2Proof.Machine.execShl c f s
  | .shr c f => Sys2Proof.Machine.execShr c f s
  | .ctz c f => Sys2Proof.Machine.execCtz c f s
  | .popc c f => Sys2Proof.Machine.execPopc c f s
  | .mul c f => Sys2Proof.Machine.execMul c f s
  | .cmp c f => Sys2Proof.Machine.execCmp c f s
  | .cmpi c f => Sys2Proof.Machine.execCmpi c f s
  | .stRd c f => Sys2Proof.Machine.execStRd c f s
  | .stClr c f => Sys2Proof.Machine.execStClr c f s
  | .ldCfg c f => Sys2Proof.Machine.execLdCfg c f s
  | .stCfg c f => Sys2Proof.Machine.execStCfg c f s
  | .rowLoad c f => Sys2Proof.Machine.execRowLoad c f s
  | .rowClaim c f => Sys2Proof.Machine.execRowClaim c f s
  | .rowRel c f => Sys2Proof.Machine.execRowRel c f s
  | .rowWb c f => Sys2Proof.Machine.execRowWb c f s
  | .rowLoc c f => Sys2Proof.Machine.execRowLoc c f s
  | .slotLdw c f => Sys2Proof.Machine.execSlotLdw c f s
  | .slotStw c f => Sys2Proof.Machine.execSlotStw c f s
  | .rowCopy c f => Sys2Proof.Machine.execRowCopy c f s
  | .rowFill c f => Sys2Proof.Machine.execRowFill c f s
  | .rowZero c f => Sys2Proof.Machine.execRowZero c f s
  | .rowBit c f => Sys2Proof.Machine.execRowBit c f s
  | .rowCmp c f => Sys2Proof.Machine.execRowCmp c f s
  | .rowPopc c f => Sys2Proof.Machine.execRowPopc c f s
  | .rowCrc c f => Sys2Proof.Machine.execRowCrc c f s
  | .rowFerry c f => Sys2Proof.Machine.execRowFerry c f s
  | .secRdraw c f => Sys2Proof.Machine.execSecRdraw c f s
  | .secWrraw c f => Sys2Proof.Machine.execSecWrraw c f s
  | .repRetire c f => Sys2Proof.Machine.execRepRetire c f s
  | .repRow c f => Sys2Proof.Machine.execRepRow c f s
  | .repCol c f => Sys2Proof.Machine.execRepCol c f s
  | .repColWalkStep c => Sys2Proof.Machine.execRepColWalkStep c s
  | .refRow c f => Sys2Proof.Machine.execRefRow c f s
  | .extInit c f => Sys2Proof.Machine.execExtInit c f s
  | .vpSpare c f => Sys2Proof.Machine.execVpSpare c f s
  | .vpChk c f seen => Sys2Proof.Machine.execVpChk c f seen s
  | .vpPt c f => Sys2Proof.Machine.execVpPt c f s
  | .statRes c f => Sys2Proof.Machine.execStatRes c f s
  | .statAct c f => Sys2Proof.Machine.execStatAct c f s
  | .tstWr c f => Sys2Proof.Machine.execTstWr c f s
  | .tstRd c f => Sys2Proof.Machine.execTstRd c f s
  | .firmwareInstruction c op f => Sys2Proof.Machine.execFirmwareInstruction c op f s
  | .reservedOpcode c op f => Sys2Proof.Machine.execReservedOpcode c op f s
  | .scrubPointerAdvance c dt => Sys2Proof.Machine.execScrubPointerAdvance c dt s
  | .scrubVisit c => Sys2Proof.Machine.execScrubVisit c s
  | .scrubLapOverdue c => Sys2Proof.Machine.execScrubLapOverdue c s
  | .priorityScrubVisit c => Sys2Proof.Machine.execPriorityScrubVisit c s
  | .logSpillWrite c => Sys2Proof.Machine.execLogSpillWrite c s
  | .eccExtLookup p c w => Sys2Proof.Machine.execEccExtLookup p c w s
  | .eccInjArm p c w => Sys2Proof.Machine.execEccInjArm p c w s
  | .dieSelfRefresh d b => Sys2Proof.Machine.execDieSelfRefresh d b s
  | .glbFpointNextWrite p w => Sys2Proof.Machine.execGlbFpointNextWrite p w s
  | .calRunRail p => Sys2Proof.Machine.execCalRunRail p s
  | .calRunSensor p => Sys2Proof.Machine.execCalRunSensor p s
  | .calRunCommit p => Sys2Proof.Machine.execCalRunCommit p s
  | .calRunEnd env => Sys2Proof.Machine.execCalRunEnd env s
  | .calRecordCommit n => Sys2Proof.Machine.execCalRecordCommit n s
  | .calCommitDone n ok => Sys2Proof.Machine.execCalCommitDone n ok s
  | .calCommitTimeout n => Sys2Proof.Machine.execCalCommitTimeout n s
  | .driftRunStart c => Sys2Proof.Machine.execDriftRunStart c s
  | .suspectCheck c err => Sys2Proof.Machine.execSuspectCheck c err s
  | .vptProbeLookup p c w => Sys2Proof.Machine.execVptProbeLookup p c w s
  | .sensorSample d raw => Sys2Proof.Machine.execSensorSample d raw s
  | .backstopTrip d => Sys2Proof.Machine.execBackstopTrip d s
  | .shareLapse => Sys2Proof.Machine.execShareLapse s
  | .throttleHoldExpire n => Sys2Proof.Machine.execThrottleHoldExpire n s
  | .ldgRemove p w => Sys2Proof.Machine.execLdgRemove p w s
  | .ldgFuse p w => Sys2Proof.Machine.execLdgFuse p w s
  | .ldgRecordCond p w => Sys2Proof.Machine.execLdgRecordCond p w s
  | .ledgerActionEnd ok => Sys2Proof.Machine.execLedgerActionEnd ok s
  | .fuseCancel p w => Sys2Proof.Machine.execFuseCancel p w s
  | .fuseCancelEnd ok => Sys2Proof.Machine.execFuseCancelEnd ok s
  | .calLdgIdxLookup p w => Sys2Proof.Machine.execCalLdgIdxLookup p w s
  | .calTstIdxLookup p w => Sys2Proof.Machine.execCalTstIdxLookup p w s
  | .calFuseLookup p w => Sys2Proof.Machine.execCalFuseLookup p w s
  | .tierTestStart t found => Sys2Proof.Machine.execTierTestStart t found s
  | .testPermitTimeout => Sys2Proof.Machine.execTestPermitTimeout s
  | .wearSample b => Sys2Proof.Machine.execWearSample b s
  | .wearCheck c err => Sys2Proof.Machine.execWearCheck c err s
  | .wearRecordWrite => Sys2Proof.Machine.execWearRecordWrite s
  | .fltStickyClear p r w again => Sys2Proof.Machine.execFltStickyClear p r w again s
  | .fltInjGo p w => Sys2Proof.Machine.execFltInjGo p w s
  | .fltDumpCtlWrite p w => Sys2Proof.Machine.execFltDumpCtlWrite p w s
  | .fltDumpWindowFilled => Sys2Proof.Machine.execFltDumpWindowFilled s
  | .fltDumpCfgWrite p w => Sys2Proof.Machine.execFltDumpCfgWrite p w s
  | .mgmtHeartbeat h claim => Sys2Proof.Machine.execMgmtHeartbeat h claim s
  | .heartbeatLapse h => Sys2Proof.Machine.execHeartbeatLapse h s
  | .authAssign p w => Sys2Proof.Machine.execAuthAssign p w s
  | .cwyHeartbeat src payload => Sys2Proof.Machine.execCwyHeartbeat src payload s
  | .cwyStatus src payload => Sys2Proof.Machine.execCwyStatus src payload s
  | .cwyAnnounce src payload => Sys2Proof.Machine.execCwyAnnounce src payload s
  | .cwyPermitReq dst src kind tier => Sys2Proof.Machine.execCwyPermitReq dst src kind tier s
  | .cwyPermit dst src kind tier => Sys2Proof.Machine.execCwyPermit dst src kind tier s
  | .cwyPermitDone dst src kind tier => Sys2Proof.Machine.execCwyPermitDone dst src kind tier s
  | .cwyFrameCutoff => Sys2Proof.Machine.execCwyFrameCutoff s
  | .cwyLinkDown => Sys2Proof.Machine.execCwyLinkDown s
  | .cwyLinkUp => Sys2Proof.Machine.execCwyLinkUp s
  | .cwyHeartbeatSend => Sys2Proof.Machine.execCwyHeartbeatSend s
  | .cwyStatusSend => Sys2Proof.Machine.execCwyStatusSend s
  | .mgrListenEnd => Sys2Proof.Machine.execMgrListenEnd s
  | .mgrTakeoverTimeout => Sys2Proof.Machine.execMgrTakeoverTimeout s
  | .stackAbsent k => Sys2Proof.Machine.execStackAbsent k s
  | .resign p w => Sys2Proof.Machine.execResign p w s
  | .testPermitExpiry k => Sys2Proof.Machine.execTestPermitExpiry k s
  | .fwuGo p w image => Sys2Proof.Machine.execFwuGo p w image s
  | .fwuBootTimeout => Sys2Proof.Machine.execFwuBootTimeout s
  | .lcAdvance p w => Sys2Proof.Machine.execLcAdvance p w s
  | .lcTransitionEnd bits => Sys2Proof.Machine.execLcTransitionEnd bits s
  | .lcChallenge p w => Sys2Proof.Machine.execLcChallenge p w s
  | .lcOpen p w => Sys2Proof.Machine.execLcOpen p w s
  | .lcClose p w => Sys2Proof.Machine.execLcClose p w s
  | .nonceLapse => Sys2Proof.Machine.execNonceLapse s
  | .sessionIdleExpiry => Sys2Proof.Machine.execSessionIdleExpiry s
  | .lcStrapOvrWrite p w => Sys2Proof.Machine.execLcStrapOvrWrite p w s
  | .lcTrnOvrWrite p w => Sys2Proof.Machine.execLcTrnOvrWrite p w s
  | .lcAudLookup p w => Sys2Proof.Machine.execLcAudLookup p w s
  | .obsFreeze p w => Sys2Proof.Machine.execObsFreeze p w s
  | .obsSnap p w => Sys2Proof.Machine.execObsSnap p w s
  | .obsClear p w => Sys2Proof.Machine.execObsClear p w s
  | .obsControlInstant => Sys2Proof.Machine.execObsControlInstant s
  | .tagEnable p w => Sys2Proof.Machine.execTagEnable p w s
  | .tagRecordWrite c => Sys2Proof.Machine.execTagRecordWrite c s
  | .traceStart p w => Sys2Proof.Machine.execTraceStart p w s
  | .traceStop p w => Sys2Proof.Machine.execTraceStop p w s
  | .tracePostTriggerStop => Sys2Proof.Machine.execTracePostTriggerStop s
  | .traceExport p w => Sys2Proof.Machine.execTraceExport p w s
  | .traceExportEnd => Sys2Proof.Machine.execTraceExportEnd s
  | .traceWindowRead p w => Sys2Proof.Machine.execTraceWindowRead p w s
  | .traceMark p w => Sys2Proof.Machine.execTraceMark p w s
  | .corePllRelock h => Sys2Proof.Machine.execCorePllRelock h s
  | .coreDieResetRelease => Sys2Proof.Machine.execCoreDieResetRelease s
  | .mramWriteEnd kind ok => Sys2Proof.Machine.execMramWriteEnd kind ok s
  | .sidebandMessageDiscard m => Sys2Proof.Machine.execSidebandMessageDiscard m s
  | .causewayFrameDiscard => Sys2Proof.Machine.execCausewayFrameDiscard s

end Sys2Proof.Machine
end

