-- ==== Sys2Proof/Safety.lean ====
section
/-!
DEFINITION. What the claims are stated in: sound states, a register write that reaches its register and what is left
of it, an instruction that its engine may issue, and what follows every command.
-/
namespace Sys2Proof.Machine

/-! ### Sound states -/

/-- The array is in its canonical form: places strictly rising, none listed that holds what it would hold unlisted. -/
def Memory.wf (s : State) : Bool := s.array.wf (arrayDefault s.unfilled s.patterned)

/-- The sparse stores that registers and sectors live in are in their canonical form. -/
def State.canonical (s : State) : Bool :=
  s.regs.wf (regReset s.part) && Memory.wf s && s.shadows.wf (fun _ => none) && s.holders.wf (fun _ => none) &&
    s.latches.wf (fun _ => none)

/-- Where a sector of the array lies, through the repairs in force. -/
def State.physKey (s : State) (x : Place3) : Nat := arrayKey (s.physRow x.loc) (s.physCol (locGbi x.loc) x.sector)

/-- The places of the array that a write of a sector reaches: its own, and the spare column it is being copied to while a
column walk runs over it (R325). -/
def State.places (s : State) (x : Place3) : List Nat :=
  s.physKey x :: ((s.walkSpare x).map fun k => arrayKey (s.physRow x.loc) (32 + k)).toList

/-! ### Register writes -/

/-- A write reaches its register and nothing common to all registers stops it: a path is there, the mode serves it, the
islands it needs are up and none of them is gated, the access is privileged where the register asks for it, the token
permits it, no LOCK holds, every field is in range (R69, R70, R79, R81, R91, R461). -/
def State.granted (s : State) (p : Path) (r : Reg) (u i : Nat) (w : Word) : Bool :=
  s.pathUp p && s.mode != .fatal && s.refused p (adr r u i) true == none && regAt (adr r u i) == some (r, u, i) &&
    ((accessIslands (pathHalf p) (adr r u i) true).all fun k => !s.flag (F.GLB_ISL_STS_GATED k)) &&
    (!r.prv || s.allowed p) && !s.bounces p (adr r u i) && !s.locked r (adr r u i) && inRange r w.toNat

/-- What a write that was taken leaves, when its own effect left `t`: its trace entry, and the session that it keeps
open (R489, R504). -/
def State.taken (s : State) (p : Path) (a : Nat) (w : Word) (t : State) : State :=
  (t.traceEv 4 (a / 4) w.toNat).noteAccess (s.life.session != 0 && s.life.sessPath == pathNum p) (pathNum p) true a w

/-- What a write leaves that was taken and has completed OK on its path, when its own effect left `t`. -/
def State.answered (s : State) (p : Path) (a : Nat) (w : Word) (t : State) : State :=
  (s.taken p a w t).emit (.access (pathNum p) a true .ok 0)

/-- What a write leaves that completes IGNORED: its answer (R70). -/
def State.turnedAway (s : State) (p : Path) (a : Nat) : State := s.emit (.access (pathNum p) a true .ignored 0)

/-- A register that no chapter gives an effect of its own: a write of it changes its fields and nothing else (R66). -/
def plainReg (r : Reg) : Bool :=
  match r with
  | .GLB_TIME_LO | .GLB_MODE | .GLB_ACC_FAULT | .GLB_DIE_RST | .GLB_ISL_CTL | .GLB_FPOINT_NEXT | .AUTH_ASSIGN
  | .AUTH_FWU_CTL | .LC_SESS_CTL | .LC_RESP | .LC_CTL | .LC_STRAP_OVR | .LC_TRN_OVR | .LC_AUD_IDX | .FLT_STICKY
  | .FLT_PINEN | .FLT_INJ | .FLT_DUMP_CFG | .FLT_DUMP_CTL | .PWR_RAIL_LIM | .CAL_CTL | .CAL_LDG_CTL | .CAL_FUSE_CTL
  | .CAL_LDG_IDX | .CAL_TST_IDX | .THM_WEAR_CFG | .CWY_CFG | .UCI_CTL | .UCI_LPBK_CTL | .XPT_ADDR_MAP | .XPT_INJ_CTL
  | .QOS_FENCE | .FLOW_W0 | .FLOW_W1 | .FLOW_W2 | .CH_STATE | .LAG_CTL | .EXD_QCFG | .EXD_QCTL | .EXD_QDB
  | .EXD_QCNT | .EXD_QSTS | .EXD_CTL | .EXD_CFG | .ECC_LOG_POP | .ECC_EXT | .ECC_INJ_CTL | .VPT_PROBE | .OBS_CNT_CFG
  | .CH_CNT_CFG | .OBS_CTL | .OBS_TAG_CFG | .OBS_TRC_CTL | .OBS_TRC_RD | .OBS_TRC_MARK => false
  | r => (pairHigh r).isNone && !isPairHigh r

/-- The lower half of a wide register that no chapter gives an effect of its own (R63, R500). -/
def plainPair (r : Reg) : Bool := r != .GLB_TIME_LO && r != .OBS_CNT_LO && r != .CH_CNT_LO

/-- Registers that refuse a path before the range of a field is looked at: those of q7, and LC_SESS_CTL (R266, R485). -/
def refusesFirst (r : Reg) : Bool :=
  match r with
  | .EXD_QCFG | .EXD_QCTL | .EXD_QDB | .EXD_QCNT | .EXD_QSTS | .LC_SESS_CTL => true
  | _ => false

/-- A read reaches its register and is answered OK: a path is there, the mode serves it, the island that holds it is up
and not gated, the access is privileged where the register asks for it (R62, R79, R91). -/
def State.readable (s : State) (p : Path) (r : Reg) (u i : Nat) : Bool :=
  s.pathUp p && s.refused p (adr r u i) false == none && regAt (adr r u i) == some (r, u, i) &&
    ((accessIslands (pathHalf p) (adr r u i) false).all fun k => !s.flag (F.GLB_ISL_STS_GATED k)) && (!r.prv || s.allowed p)

/-- What a served read leaves that returned `d`, when its own effect left `t`: its answer, and the session that it keeps
open (R489). -/
def State.readDone (s : State) (p : Path) (a : Nat) (d : Word) (t : State) : State :=
  (t.noteAccess (s.life.session != 0 && s.life.sessPath == pathNum p) (pathNum p) false a 0).emit
    (.access (pathNum p) a false .ok d)

/-- A path of the host, on which a session can be opened (R485). -/
def hostPath : Path → Bool
  | .sb _ | .ctl _ _ => true
  | .fw _ | .eng _ _ => false

/-! ### Requests -/

/-- A REQ message of `size` cells starting at a cell of an ACTIVE module is well formed: no earlier error of its flit
discards it, CLASS and OP are those of `b`, it ends within its flit, both INITs have passed and its cells are covered by
credits (R158, R166 to R168, R192). -/
def State.wellSent (s : State) (m cell size b h : Nat) : Bool :=
  (s.mod m).stage == .active && !s.skipped m cell && h % 256 == b && decide (cell + size ≤ 15) && (s.mod m).initOut &&
    (s.mod m).initIn && decide ((s.mod m).reqUsed + size ≤ 2048)

/-- What the arrival of a well-formed REQ message leaves: its module's island running, its flit counted and its credits
spent (R51, R166, R498). -/
def State.arrivedReq (s : State) (m cell size : Nat) : State := (s.flitAt m cell).arriveReq m size

/-- It is taken at once: its module is not excluded, nothing waits before it, the window admits its cells and its TAG is not
in flight (R148, R165, R219). -/
def State.takesReq (s : State) (m cell size b h : Nat) : Bool :=
  s.wellSent m cell size b h && !s.flag (F.UCI_STS_EXCLUDED m) && (s.mod m).ingress.isEmpty && s.windowTakes m size && !s.tagHeld m (bitsOf h 21 8)

/-- What taking it leaves (R170, R219). -/
def State.afterReq (s : State) (m cell size : Nat) : State := (s.arrivedReq m cell size).admitCells m size false

/-- The command of a REQ message of each OP, the cells it takes, its CLASS and OP, and the data and enables it carries
(table Messages, R182, R184). -/
def reqCmd (op : ReqOp) (m : Fin 12) (cell : Fin 15) (h : BitVec 128) (d : BitVec 512) (be : BitVec 64) : Instr :=
  match op with
  | .rd => .rd m cell h
  | .wr => .wr m cell h d
  | .wrPart => .wrPart m cell h d be
  | .wrZero => .wrZero m cell h
  | .fence => .fence m cell h

def reqSize : ReqOp → Nat
  | .rd | .wrZero | .fence => 1
  | .wr => 5
  | .wrPart => 6

def reqCode : ReqOp → Nat
  | .rd => 0x21
  | .wr => 0x22
  | .wrPart => 0x23
  | .wrZero => 0x24
  | .fence => 0x25

def reqData (op : ReqOp) (d : Sector) : Sector :=
  match op with
  | .wr | .wrPart => d
  | .rd | .wrZero | .fence => 0

def reqMask (op : ReqOp) (be : BitVec 64) : BitVec 64 :=
  match op with
  | .wr | .wrZero => BitVec.allOnes 64
  | .wrPart => be
  | .rd | .fence => 0

/-- The address of a request is open to it: the user range, or a service row that a privileged one may reach (R177). -/
def State.opens (s : State) (t : Txn) (priv : Bool) : Bool :=
  inUser t.byteAddr || (inAperture t.byteAddr && priv && serviceAllows t.op (locRow (s.txnPlace t).loc))

/-- A request passes the checks of R177 and of its channel: the device serves requests, it names the user range, or a
service row open to it, injection passes it by, an entry is free, its channel is ONLINE and its row is not retired. -/
def State.admits (s : State) (t : Txn) (priv : Bool) : Bool :=
  s.serves && (inUser t.byteAddr || inAperture t.byteAddr) &&
    (inUser t.byteAddr || (priv && serviceAllows t.op (locRow (s.txnPlace t).loc))) && !s.injMatches t &&
    s.entryFree t.m && s.chanEntryFree (locCh (s.txnPlace t).loc) && !t.inject &&
    (s.chan (locCh (s.txnPlace t).loc)).st == .online && !s.rowRetired (s.txnPlace t).loc

/-! ### Exdun programs -/

/-- The state in which an instruction of channel `c` has issued and is attempted: its issue is counted with the program's FLOW (R498). -/
def State.issued (s : State) (c : Nat) : State := s.countCh c 0x10 1 none (some (s.eng c).desc.flow)

/-- The engine can issue the instruction, and it is not the last of its program (R301). -/
def State.canIssue (s : State) (c : Nat) (op : BitVec 8) (f : Fields) : Bool :=
  s.issuable c op f && decide ((s.chan c).eng.store.length > (s.chan c).eng.pc + 1)

/-- What a completed instruction leaves, when its own effect left `t`: nothing is waited for and the PC names the next
instruction (R301). -/
def State.passed (t : State) (c : Nat) : State := (t.calm c).modEng c fun e => { e with pc := e.pc + 1 }

/-- What an instruction that waits leaves: since when it waits (R298). -/
def State.waits (t : State) (c : Nat) : State := t.modEng c fun e => { e with waiting := some (e.waiting.getD t.now) }

/-! ### What follows every command -/

/-- A state without its registers, its observation and its notes of heat: what `commit` leaves alone. -/
def State.core (s : State) : State := { s with regs := [], obs := State.reset.obs, thermal := State.reset.thermal }

/-- A register that an instant T of the observation controls writes: OBS_CTL and the snapshot (R500). -/
def SnapWrites (a : Nat) : Prop :=
  a = adr .OBS_CTL ∨ a = adr .OBS_SNAP_TIME_LO ∨ a = adr .OBS_SNAP_TIME_HI ∨ a = adr .OBS_SNAP_MISS ∨
    ∃ x ∈ allCounters, a = snapReg x.1 x.2 ∨ a = snapReg x.1 x.2 + 4

/-- A register that observation may write: POLL_SUMMARY, OBS_TRC_STS, the values of the counters, and those of `SnapWrites`. -/
def ObsWrites (a : Nat) : Prop :=
  a = adr .POLL_SUMMARY ∨ a = adr .OBS_TRC_STS ∨ SnapWrites a ∨ ∃ c i, a = (cntRegs c i).1 ∨ a = (cntRegs c i).2

/-- A register that `commit` may write: GLB_MODE and THM_STEP, and those of observation. -/
def CommitWrites (a : Nat) : Prop := a = adr .GLB_MODE ∨ a = adr .THM_STEP ∨ ObsWrites a

/-- GLB_MODE.THROTTLE shows the step in force, while the device is out of RESET (R219). -/
def State.throttleShown (s : State) : Prop := s.mode ≠ .reset → s.fld F.GLB_MODE_THROTTLE = s.stepInForce

end Sys2Proof.Machine
end

