-- ==== Sys2Proof/WellFormed.lean ====
section
/-!
DEFINITION. Well-formed commands: what the manual says of an operand that its type does not say. The machine's step takes
any command; these checks say which of them a sender can form.
-/
namespace Sys2Proof

/-- The bits of a field are 0. -/
def bitsZero (n hi lo : Nat) : Bool := Machine.bitsOf n hi lo == 0

/-- A register address names the low word of a pair. -/
def wideLow (a : Nat) : Bool :=
  match Machine.regAt a with
  | some (r, _, _) => (Machine.pairHigh r).isSome
  | none => false

/-- A register address names the high word of a pair. -/
def wideHigh (a : Nat) : Bool :=
  match Machine.regAt a with
  | some (r, _, _) => Machine.isPairHigh r
  | none => false

/-- The first cell of a message carries its own CLASS and OP, or one that no requester sends (R157, R191). A message that
does not end within its flit is one a sender can form: a protocol error (R191). -/
def cellIs (h : BitVec 128) (b : Nat) : Bool := h.toNat % 256 == b || !Machine.requesterOp (h.toNat % 256)

/-- A command is well-formed. -/
def Instr.wf (i : Instr) : Bool :=
  match i with
  | .pwrokRise | .pwrokFall => true
  -- R110, R405: the check of step 11 gives the raw values of all 17 dies
  | .rstNRise env =>
    env.scan.length == 17 && (List.range 17).all fun d => (env.scan.getD d []).length == (Machine.dieSensors d).length
  | .rstNFall | .bringupStepTimeout .. | .corePllLockLoss .. | .pllLockTimeout .. | .refclkMeasure .. | .refclkAbsent
  | .refclkReturn | .refclkLossTimeout | .spineStopSelfRefresh .. | .islandIdleGate .. | .islandWake ..
  | .islandResetReq .. | .islandResetRelease .. | .channelFieldsRestore .. | .islandGateWrite .. => true
  -- R47, R50: no longer than an entry of the strait
  | .straitEntryWrite k words _ => decide (words.length ≤ Machine.straitWords k)
  | .straitEntryRead .. | .straitCreditReturn .. | .railSample .. | .pwrRailLimWrite .. | .diePgoodTrip ..
  | .diePgoodRestore .. | .glbTimeLoRead .. | .glbTimeHiRead .. | .glbTimeHiWrite .. | .glbTimeLoWrite .. => true
  -- R85: a low word
  | .wideRegisterLoRead _ a => wideLow a.toNat
  -- R85: a high word
  | .wideRegisterHiWrite _ a _ => wideHigh a.toNat
  -- R85: a low word
  | .wideRegisterLoWrite _ a _ => wideLow a.toNat
  | .registerWrite .. | .managementTick | .registerAccessTimeout .. | .pollSummaryClear .. | .eccLogPop ..
  | .modeReqSelfRefresh .. | .modeReqDeepRetention .. | .modeReqActive .. | .modeReqShutdown ..
  | .modeReqShutdownTest .. | .chReqDrain .. | .chReqResume .. | .chReqRetrain .. | .chReqOffline ..
  | .chReqRecover .. | .chReqRetire .. | .drainComplete .. | .heldRequestTimeout .. | .drainPinAbort ..
  | .ledgerWriteDone .. | .sbDetectTimeout .. | .sidebandUp .. | .sidebandLinkFail .. | .mbStageTimeout ..
  | .mainbandTrainingDone .. | .trainErrorRestart .. | .moduleTrainDeadline .. => true
  -- R136: reserved bits 0
  | .kyCap _ d => bitsZero d.toNat 63 10
  | .kyCapTimeout .. => true
  -- R138: reserved bits 0
  | .regRd _ d => bitsZero d.toNat 63 32 && bitsZero d.toNat 9 8
  -- R138: reserved bits 0
  | .regWr _ d => bitsZero d.toNat 9 8
  -- R142: reserved bits 0
  | .eqSet _ d => bitsZero d.toNat 63 16
  | .eqGet .. => true
  -- R150: reserved bits 0
  | .kyLpbk _ d => bitsZero d.toNat 63 15 && bitsZero d.toNat 3 0
  | .kyLpbkRsp .. | .kyLpbkRspTimeout .. | .partnerL1Request .. | .primarySbLossTimeout | .flitCrcFail ..
  | .retryExhausted .. | .retrainEnd .. | .retrainTimeout .. | .l1ExitTimeout .. | .retrainReq .. | .commitModule ..
  | .makePrimary .. | .excludeModule .. | .forceExclude .. | .includeModule .. | .exclusionDrainEnd ..
  | .exclusionDrainTimeout .. | .lpbkStart .. | .lpbkStop .. | .loopbackDurationEnd .. => true
  -- R157, R191: CLASS and OP of the message, or of none
  | .rd _ _ h => cellIs h 0x21
  | .wr _ _ h _ => cellIs h 0x22
  | .wrPart _ _ h _ _ => cellIs h 0x23
  | .wrZero _ _ h => cellIs h 0x24
  | .fence _ _ h => cellIs h 0x25
  | .credit _ _ h => cellIs h 0x01
  | .cfgRd _ _ h => cellIs h 0x61
  | .cfgWr _ _ h => cellIs h 0x62
  | .reqCreditReturn .. | .responseTransmit .. | .requestDeadline .. | .xptInjArm .. | .flowCtxWord0Write ..
  | .flowCtxWord1Write .. | .flowCtxWord2Write .. | .qosWindowBoundary | .requestClassify .. | .urgWireChange ..
  | .urgStuckTimeout .. | .floorRecompute | .qosThrottleWrite .. | .qosFenceGo .. | .bulkStarvePromote ..
  | .schedulerTakeUp .. | .lagoonHit .. | .sectorCycle .. | .verticalCycleSchedule .. | .moveInTransferEnd ..
  | .moveInDone .. | .moveOutPrecharge .. | .histDecay .. | .zeroFillComplete .. | .refreshIntervalTick ..
  | .perBankRefreshIssue .. | .perBankRefreshEnd .. | .glbDieRstGo .. | .dieResetReady | .dieResetReadyTimeout
  | .writebackAll .. | .discardFenced .. | .lagActionEnd .. | .exdQdbWrite .. | .exdQcfgWrite .. | .exdQctlEnWrite ..
  | .exdQctlAbort .. | .exdQctlResetIdx .. | .exdCtlAbort .. | .descriptorRead .. | .programFetchDone ..
  | .completionRecordWritten .. | .exdunBudgetLapse .. | .instructionWaitEnd .. | .nop .. | .halt .. | .br ..
  | .wait .. | .time .. | .li .. | .lih .. | .mov .. | .add .. | .sub .. | .addi .. | .and .. | .or .. | .xor ..
  | .shl .. | .shr .. | .ctz .. | .popc .. | .mul .. | .cmp .. | .cmpi .. | .stRd .. | .stClr .. | .ldCfg ..
  | .stCfg .. | .rowLoad .. | .rowClaim .. | .rowRel .. | .rowWb .. | .rowLoc .. | .slotLdw .. | .slotStw ..
  | .rowCopy .. | .rowFill .. | .rowZero .. | .rowBit .. | .rowCmp .. | .rowPopc .. | .rowCrc .. | .rowFerry ..
  | .secRdraw .. | .secWrraw .. | .repRetire .. | .repRow .. | .repCol .. | .repColWalkStep .. | .refRow ..
  | .extInit .. | .vpSpare .. | .vpChk .. | .vpPt .. | .statRes .. | .statAct .. | .tstWr .. | .tstRd .. => true
  -- R331
  | .firmwareInstruction _ op _ => decide (0xF0 ≤ op.toNat)
  -- R299
  | .reservedOpcode _ op _ => !Machine.opKnown op.toNat
  | .scrubPointerAdvance .. | .scrubVisit .. | .scrubLapOverdue .. | .priorityScrubVisit .. | .logSpillWrite ..
  | .eccExtLookup .. | .eccInjArm .. | .dieSelfRefresh .. | .glbFpointNextWrite .. | .calRunRail ..
  | .calRunSensor .. | .calRunCommit .. => true
  -- R398: no values, gain and offset of 6 rails, or the means of 176 sensors
  | .calRunEnd env => env.run.isSome || env.values.length == 0 || env.values.length == 12 || env.values.length == 176
  | .calRecordCommit .. | .calCommitDone .. | .calCommitTimeout .. | .driftRunStart .. | .suspectCheck ..
  | .vptProbeLookup .. => true
  -- R405: one raw value for each sensor of the die
  | .sensorSample d raw => raw.length == (Machine.dieSensors d).length
  | .backstopTrip .. | .shareLapse | .throttleHoldExpire .. | .ldgRemove .. | .ldgFuse .. | .ldgRecordCond ..
  | .ledgerActionEnd .. | .fuseCancel .. | .fuseCancelEnd .. | .calLdgIdxLookup .. | .calTstIdxLookup ..
  | .calFuseLookup .. | .tierTestStart .. | .testPermitTimeout | .wearSample .. | .wearCheck .. | .wearRecordWrite
  | .fltStickyClear .. | .fltInjGo .. | .fltDumpCtlWrite .. | .fltDumpWindowFilled | .fltDumpCfgWrite ..
  | .mgmtHeartbeat .. | .heartbeatLapse .. | .authAssign .. => true
  -- R467
  | .cwyHeartbeat _ payload => payload.length == 48
  -- R467
  | .cwyStatus _ payload => payload.length == 12
  -- R467, R470
  | .cwyAnnounce _ payload => payload.length == 4
  | .cwyPermitReq .. | .cwyPermit .. | .cwyPermitDone .. | .cwyFrameCutoff | .cwyLinkDown | .cwyLinkUp
  | .cwyHeartbeatSend | .cwyStatusSend | .mgrListenEnd | .mgrTakeoverTimeout | .stackAbsent .. | .resign ..
  | .testPermitExpiry .. | .fwuGo .. | .fwuBootTimeout | .lcAdvance .. | .lcTransitionEnd .. | .lcChallenge ..
  | .lcOpen .. | .lcClose .. | .nonceLapse | .sessionIdleExpiry | .lcStrapOvrWrite .. | .lcTrnOvrWrite ..
  | .lcAudLookup .. | .obsFreeze .. | .obsSnap .. | .obsClear .. | .obsControlInstant | .tagEnable ..
  | .tagRecordWrite .. | .traceStart .. | .traceStop .. | .tracePostTriggerStop | .traceExport .. | .traceExportEnd
  | .traceWindowRead .. | .traceMark .. | .corePllRelock .. | .coreDieResetRelease | .mramWriteEnd ..
  | .sidebandMessageDiscard .. | .causewayFrameDiscard => true

end Sys2Proof
end

