-- ==== Sys2Proof/Certificates/Slice0/Obligations.lean ====
section
/-!
DEFINITION. The statements for the provers. Each docstring says what its statement claims and names the rules it rests
on, and the log entries of the model's own choices that it shows.
-/
open Sys2Proof Sys2Proof.Machine

/-- PWROK rising is noted; PWROK falling enters RESET from every other mode and releases THERMTRIP, and in RESET only
notes the pin and releases THERMTRIP; RST_N falling enters RESET from every mode but FATAL and RESET, where it is only
noted. Answers a next state for: pwrokRise, pwrokFall, rstNFall. (R518, R103, R104, R422.) -/
def Obligations.PinsTakenAsTheyChange : Prop :=
  (∀ s, exec .pwrokRise s = .next (commit s { s with pins := { s.pins with pwrok := true } })) ∧
  (∀ s, s.mode ≠ .reset →
    exec .pwrokFall s = .next (commit s (State.enterReset { s with pins := { s.pins with pwrok := false, thermtrip := false } }))) ∧
  (∀ s, s.mode ≠ .reset → s.mode ≠ .fatal →
    exec .rstNFall s = .next (commit s (State.enterReset { s with pins := { s.pins with rstN := false } }))) ∧
  (∀ s, s.mode = .fatal ∨ s.mode = .reset →
    exec .rstNFall s = .next (commit s { s with pins := { s.pins with rstN := false } })) ∧
  (∀ s, s.mode = .reset →
    exec .pwrokFall s = .next (commit s { s with pins := { s.pins with pwrok := false, thermtrip := false } }))

/-- Entering RESET keeps the fuses, the part, the queue, the messages sent (log entry 5), the ledger and the
calibration store; it drops transactions, shadows, straits and the array's listed content; every channel is OFFLINE
with an empty Lagoon, both copies of its extent map empty and a reset engine; every module is at reset; every register
that MRAM does not keep, or keeps in part only, holds its reset value. (R103, R116, R456, R484.) -/
def Obligations.ResetLeavesWhatLasts : Prop :=
  ∀ s : State, let t := s.enterReset
    t.mode = .reset ∧ t.fuses = s.fuses ∧ t.part = s.part ∧ t.pending = s.pending ∧ t.out = s.out ∧ t.txns = [] ∧
    t.shadows = [] ∧ t.straits = [] ∧ t.array = [] ∧ t.mram.ledger = s.mram.ledger ∧ t.mram.cal = s.mram.cal ∧
    (∀ c : Fin 32, (t.chan c).st = .offline ∧ (t.chan c).slots = [] ∧ (t.chan c).extents = [] ∧
      (t.chan c).extentsB = [] ∧ (t.chan c).eng = Eng.reset) ∧
    (∀ m : Fin 12, t.mod m = Mod.reset) ∧
    (∀ a, inMram a = false → t.reg a = regReset s.part a)

/-- Loss of a core PLL's lock switches the common mux; its timeout stops the half and raises the fatal PLL fault;
relock of a half not stopped locks it and wakes its dies (log entry 84), and ends the condition where the other half
is locked too; a half stopped stays stopped. REFCLK measured outside 99.0 to 101.0 MHz raises REFCLK_RANGE and inside
ends it. REFCLK absent sets FREE_RUN and DEGRADED and raises its fault, and in RESET is only noted; its return clears
FREE_RUN; absence past the limit is fatal. A core die whose spine's PLL is unlocked goes to self-refresh on its own.
Answers a next state for: corePllLockLoss, pllLockTimeout, corePllRelock, refclkMeasure, refclkAbsent, refclkReturn,
refclkLossTimeout, spineStopSelfRefresh. (R38, R39, R40, R42, R46.) -/
def Obligations.ClocksAndReference : Prop :=
  (∀ h s, s.clocked = true → s.pllLocked h = true →
    exec (.corePllLockLoss h) s = .next (commit s ((s.lockPll h false).switchMux h))) ∧
  (∀ h s, s.clocked = true → s.pllLocked h = false →
    exec (.pllLockTimeout h) s = .next (commit s ((s.stopHalf h).raiseCond 0 (2 ^ halfNum h)))) ∧
  (∀ h (s : State), (s.stopHalf h).halfStopped h = true) ∧
  (∀ h s, s.clocked = true → s.pllLocked h = false → s.halfStopped h = false → s.pllLocked (halfOther h) = true →
    exec (.corePllRelock h) s = .next (commit s (((s.lockPll h true).endCondition 0).wakeHalf h))) ∧
  (∀ h s, s.clocked = true → s.pllLocked h = false → s.halfStopped h = false → s.pllLocked (halfOther h) = false →
    exec (.corePllRelock h) s = .next (commit s ((s.lockPll h true).wakeHalf h))) ∧
  (∀ h s, s.halfStopped h = true → exec (.corePllRelock h) s = .next (commit s s)) ∧
  (∀ khz s, s.mode ≠ .reset → (khz < 99000 ∨ 101000 < khz) →
    exec (.refclkMeasure khz) s = .next (commit s (s.raiseCond 2 0))) ∧
  (∀ khz s, s.mode ≠ .reset → 99000 ≤ khz → khz ≤ 101000 →
    exec (.refclkMeasure khz) s = .next (commit s (s.endCondition 2))) ∧
  (∀ s, s.pins.refclk = true → s.mode ≠ .reset →
    exec .refclkAbsent s = .next (commit s
      (((({ s with pins := { s.pins with refclk := false } } : State).setFlag F.GLB_TIME_CFG_FREE_RUN true).setFlag
        F.GLB_TIME_CFG_DEGRADED true).raiseCond 3 0))) ∧
  (∀ s, s.pins.refclk = false →
    exec .refclkReturn s = .next (commit s
      (((({ s with pins := { s.pins with refclk := true } } : State).setFlag F.GLB_TIME_CFG_FREE_RUN false).endCondition
        3).endCondition 1))) ∧
  (∀ s, s.pins.refclk = false → s.clocked = true →
    exec .refclkLossTimeout s = .next (commit s (s.raiseCond 1 0))) ∧
  (∀ s, s.pins.refclk = true → s.mode = .reset →
    exec .refclkAbsent s = .next (commit s { s with pins := { s.pins with refclk := false } })) ∧
  (∀ (d : Fin 16) s, s.clocked = true → s.pllLocked (halfOfChan (8 * (d.val / 4))) = false → bitOf s.ownSelf d = false →
    exec (.spineStopSelfRefresh d) s = .next (commit s { s with ownSelf := s.ownSelf + 2 ^ d.val }))

/-- With a command at the front of the queue, step is exec of that command on the state whose queue is the rest. On an
empty queue one edge of the time base passes outside RESET, with what every command does as it ends, and nothing
changes in RESET (log entry 1: the idle step is the model's choice). Every command but FIRMWARE_INSTRUCTION has a next
state in every state. (R60.) -/
def Obligations.StepTakesTheFrontCommand : Prop :=
  (∀ (i : Instr) (rest : List Instr) (s : State), step { s with pending := i :: rest } = exec i { s with pending := rest }) ∧
  (∀ s : State, s.pending = [] → s.mode ≠ .reset → step s = .next (commit s (s.advance 1))) ∧
  (∀ s : State, s.pending = [] → s.mode = .reset → step s = .next s) ∧
  (∀ (i : Instr) (s : State), (∀ c op f, i ≠ .firmwareInstruction c op f) → ∃ t, exec i s = .next t)

/-- If a state out of RESET shows in GLB_MODE.THROTTLE the highest of HOST_STEP, the step of Heat and Power, and 8 in
SAFE, then so does every state that a step makes of it, whatever command the step carries out. If the registers, the
array, the shadows and the holding registers of a state are in canonical form (log entry 4: keys rising, none listed
that reads as unlisted), then so are those of every state that a step makes of it. (R219, R414.) -/
def Obligations.EveryStepKeepsTheInvariants : Prop :=
  ∀ s t : State, step s = .next t → (s.throttleShown → t.throttleShown) ∧ (s.canonical = true → t.canonical = true)

/-- State.reset shows its throttle step, has every sparse store in canonical form, is in RESET with an empty queue,
reads every register as its reset value, and has every channel OFFLINE with an idle engine and no slot in use. Reset
values the manual does not give are those of log entries 7 and 8. (R66, R116.) -/
def Obligations.TheStateBeforePowerUp : Prop :=
  State.reset.throttleShown ∧ State.reset.canonical = true ∧ State.reset.mode = .reset ∧ State.reset.pending = [] ∧
  (∀ a, State.reset.reg a = regReset State.reset.part a) ∧ (∀ c : Fin 32, State.reset.chan c = Chan.reset) ∧
  (∀ c : Fin 32, (State.reset.chan c).st = .offline ∧ (State.reset.chan c).eng.phase = .idle ∧ (State.reset.chan c).slots = [])

/-- A quiet island without work gates under AUTO, and one that is not quiet wakes; a permitted RESET_REQ starts the
island reset and holds the write's completion (log entry 69); GATE writes apply as AUTO (an island that was FORCED_OFF
has its clock again), as ON, or as FORCED_OFF on an island other than 52 to 54 that permits it; a GATE write with the
code 3 or IDLE_THRESH 0, not ON on islands 52 to 54, or FORCED_OFF where it is not permitted, and a RESET_REQ of an
island in reset or not permitted, complete IGNORED; the release of an island that a RESET_REQ resets empties its
straits, starts its clock unless it is forced off, counts, gives a channel the refresh ticks it owes and a usable
module SB_DETECT, and completes the held writes; a release of an island not so reset does nothing; the restore puts
back the kept fields of a channel, and no result or status beside them, once after its reset (straight in force: log
entry 51), and does nothing without one. Answers a next state for: islandIdleGate, islandWake, islandResetReq,
islandGateWrite, islandResetRelease, channelFieldsRestore. (R51, R52, R53, R478.) -/
def Obligations.IslandsGateAndReset : Prop :=
  (∀ (i : Fin 57) s, s.mode ≠ .reset → s.fld (F.GLB_ISL_CTL_GATE i) = 0 → s.flag (F.GLB_ISL_STS_IN_RESET i) = false →
    s.quietIn i = true → s.islandWorks i = false →
    exec (.islandIdleGate i) s = .next (commit s (s.setFlag (F.GLB_ISL_STS_GATED i) true))) ∧
  (∀ (i : Fin 57) s, s.fld (F.GLB_ISL_CTL_GATE i) = 0 → s.flag (F.GLB_ISL_STS_GATED i) = true → s.quietIn i = false →
    exec (.islandWake i) s = .next (commit s (s.setFlag (F.GLB_ISL_STS_GATED i) false))) ∧
  (∀ p (i : Fin 57) w v s, v = withBits w 31 31 1 → s.granted p .GLB_ISL_CTL 0 i v = true →
    bitsOf v.toNat 9 8 = 1 → bitsOf v.toNat 7 0 ≠ 0 → s.flag (F.GLB_ISL_STS_IN_RESET i) = false →
    s.resetPermitted p i = true →
    exec (.islandResetReq p i w) s = .next (commit s (s.taken p (adr .GLB_ISL_CTL 0 i) v
      (let t := ((s.plainWrite (pathNum p) .GLB_ISL_CTL 0 i v).setFlag (F.GLB_ISL_STS_GATED i) false).startIslandReset i
       { t with heldAccesses := t.heldAccesses ++ [⟨pathNum p, adr .GLB_ISL_CTL 0 i, true, .direct, i⟩] })))) ∧
  (∀ p (i : Fin 57) w v s, v = withBits w 31 31 0 → s.granted p .GLB_ISL_CTL 0 i v = true →
    bitsOf v.toNat 9 8 = 1 → bitsOf v.toNat 7 0 ≠ 0 →
    exec (.islandGateWrite p i w) s = .next (commit s (s.answered p (adr .GLB_ISL_CTL 0 i) v
      ((s.plainWrite (pathNum p) .GLB_ISL_CTL 0 i v).setFlag (F.GLB_ISL_STS_GATED i) false)))) ∧
  (∀ p (i : Fin 57) w v s, v = withBits w 31 31 0 → s.granted p .GLB_ISL_CTL 0 i v = true →
    bitsOf v.toNat 9 8 = 2 → bitsOf v.toNat 7 0 ≠ 0 → s.offPermitted i = true → (i.val < 52 ∨ 54 < i.val) →
    exec (.islandGateWrite p i w) s = .next (commit s (s.answered p (adr .GLB_ISL_CTL 0 i) v
      ((s.plainWrite (pathNum p) .GLB_ISL_CTL 0 i v).setFlag (F.GLB_ISL_STS_GATED i) true)))) ∧
  (∀ (i : Fin 57) s, s.mode ≠ .reset → s.flag (F.GLB_ISL_STS_IN_RESET i) = true → bitOf s.resetting i = true →
    exec (.islandResetRelease i) s = .next (commit s
      (let u := (((straitsAt i).foldl (fun (t : State) k => t.setStrait k ⟨[], 0⟩)
          { s with resetting := putBits s.resetting i i 0 }).setFlag (F.GLB_ISL_STS_IN_RESET i) false).bump
          (F.GLB_ISL_STS_RESET_COUNT i)
       let g := if u.fld (F.GLB_ISL_CTL_GATE i) = 2 then u else u.setFlag (F.GLB_ISL_STS_GATED i) false
       let v := if i.val < 32 then g.issueOwed i
         else if 36 ≤ i.val ∧ i.val < 48 ∧ bitOf s.part.usable (i - 36) then g.setStage (i - 36) .sbDetect else g
       ((v.heldAccesses.filter fun h : HeldAccess => h.island == i.val).foldl
         (fun (t : State) (h : HeldAccess) => t.complete h.path h.addr h.write h.answer .ok 0)
         { v with heldAccesses := v.heldAccesses.filter fun h : HeldAccess => h.island != i.val }).settlePrimary))) ∧
  (∀ (i : Fin 57) s, bitOf s.resetting i = false → exec (.islandResetRelease i) s = .next (commit s s)) ∧
  (∀ p (i : Fin 57) w v s, v = withBits w 31 31 0 → s.granted p .GLB_ISL_CTL 0 i v = true →
    bitsOf v.toNat 9 8 = 0 → bitsOf v.toNat 7 0 ≠ 0 → (i.val < 52 ∨ 54 < i.val) →
    exec (.islandGateWrite p i w) s = .next (commit s (s.answered p (adr .GLB_ISL_CTL 0 i) v
      (let t := s.plainWrite (pathNum p) .GLB_ISL_CTL 0 i v
       if s.fld (F.GLB_ISL_CTL_GATE i) = 2 then t.setFlag (F.GLB_ISL_STS_GATED i) false else t)))) ∧
  (∀ p (i : Fin 57) w v s, v = withBits w 31 31 0 → s.granted p .GLB_ISL_CTL 0 i v = true →
    ((52 ≤ i.val ∧ i.val ≤ 54 ∧ bitsOf v.toNat 9 8 ≠ 1) ∨ (bitsOf v.toNat 9 8 = 2 ∧ s.offPermitted i = false)) →
    exec (.islandGateWrite p i w) s = .next (commit s (s.turnedAway p (adr .GLB_ISL_CTL 0 i)))) ∧
  (∀ p (i : Fin 57) w v w' s, v = withBits w 31 31 0 → s.granted p .GLB_ISL_CTL 0 i w' = true →
    (bitsOf v.toNat 9 8 = 3 ∨ bitsOf v.toNat 7 0 = 0) →
    exec (.islandGateWrite p i w) s = .next (commit s (s.turnedAway p (adr .GLB_ISL_CTL 0 i)))) ∧
  (∀ p (i : Fin 57) w v s, v = withBits w 31 31 1 → s.granted p .GLB_ISL_CTL 0 i v = true →
    (s.flag (F.GLB_ISL_STS_IN_RESET i) = true ∨ s.resetPermitted p i = false) →
    exec (.islandResetReq p i w) s = .next (commit s (s.turnedAway p (adr .GLB_ISL_CTL 0 i)))) ∧
  (∀ (c : Fin 32) s, s.mode ≠ .reset → s.flag (F.GLB_ISL_STS_IN_RESET c) = false → (s.chan c).toRestore = true →
    exec (.channelFieldsRestore c) s = .next (commit s (((restoredRegs c).foldl (fun t x => s.putFields t x.2)
      (s.modChan c fun x => { x with toRestore := false })).reloadCal c))) ∧
  (∀ (c : Fin 32) s, (s.chan c).toRestore = false → exec (.channelFieldsRestore c) s = .next (commit s s)) ∧
  (∀ (s t : State) r u i a, regAt a = some (r, u, i) → s.putFields t a = t.setReg a (BitVec.ofNat 32
    (savedFields r (t.reg a).toNat (s.fieldCopies.get (regReset s.part) a).toNat)))

/-- A write to an open strait with a credit left adds an entry with its parity and spends a credit; without a credit
nothing is written. A read takes the oldest entry of a strait whose destination has its clock: with good parity it
goes on to what it carries (an access that has come to its last island is carried out there and a request that reached
the fabric is classified: log entry 104; an item is only taken off), with bad parity it raises STRAIT_PARITY and its
owner is lost with INTERNAL: a request is answered, an access of a sideband or CTL path completes with the status, an
engine's access ends its ld.cfg or st.cfg with it. A gated destination reads nothing. The credit of an entry read
returns. No entry is dropped for lack of space. Answers a next state for: straitEntryWrite, straitEntryRead,
straitCreditReturn. (R47, R48, R49, R53, R306, R51.) -/
def Obligations.StraitsSpendAndReturnCredits : Prop :=
  (∀ (k : Fin 270) words o s, s.straitClosed k = false → (s.strait k).used < straitDepth k →
    words.length ≤ straitWords k →
    exec (.straitEntryWrite k words o) s = .next (commit s (s.setStrait k
      ⟨(s.strait k).entries ++ [⟨words, words.map evenParity, o, false⟩], (s.strait k).used + 1⟩))) ∧
  (∀ (k : Fin 270) words o s, straitDepth k ≤ (s.strait k).used →
    exec (.straitEntryWrite k words o) s = .next (commit s s)) ∧
  (∀ (k : Fin 270) hit e rest s, s.straitClosed k = false → s.flag (F.GLB_ISL_STS_GATED (straitEnds k).2) = false →
    (s.strait k).entries = e :: rest → (hitWords e.words hit).map evenParity = e.parity →
    exec (.straitEntryRead k hit) s = .next (commit s ((s.setStrait k ⟨rest, (s.strait k).used⟩).straitReach k e)) ∧
      (e.owner = .item → exec (.straitEntryRead k hit) s = .next (commit s (s.setStrait k ⟨rest, (s.strait k).used⟩)))) ∧
  (∀ (k : Fin 270) e p (a : BitVec 24) w tag (s : State) x, e.owner = .access p a w tag → e.mute = false →
    (accessIslands (pathHalf p) a.toNat w).contains (straitEnds k).2 = true →
    x = s.access p a.toNat w e.data Given.plain (answerOf p tag.toNat) → x.held = false →
    s.straitReach k e = x.st.straitEnd p a.toNat w tag.toNat x.status (if x.status = .ok then x.data else 0)) ∧
  (∀ (k : Fin 270) e (m : Fin 12) (tag : BitVec 14) (s : State), e.owner = .txn m tag →
    (straitEnds k).2 = 48 ∨ (straitEnds k).2 = 49 → s.straitReach k e = s.classify m tag.toNat) ∧
  (∀ e p (a : BitVec 24) w (tag : BitVec 14) st (s : State), e.owner = .access p a w tag → e.mute = false →
    s.loseOwner e st = s.straitEnd p a.toNat w tag.toNat st 0) ∧
  (∀ (m : Fin 12) a w tag st d (s : State),
    s.straitEnd (.sb m) a w tag st d = s.complete m a w (.sideband m (tag % 256)) st d) ∧
  (∀ (m : Fin 12) pr a w tag st d (s : State),
    s.straitEnd (.ctl m pr) a w tag st d = s.complete 12 a w (.ctl m tag) st d) ∧
  (∀ (c : Fin 32) q a w tag st d f (s : State), s.cfgAt c a w = some f →
    s.straitEnd (.eng c q) a w tag st d = s.cfgEnd c f w st d) ∧
  (∀ e (m : Fin 12) (tag : BitVec 14) t st (s : State), e.owner = .txn m tag → s.straitTxn m tag.toNat e.mute = some t →
    s.loseOwner e st = s.reply t (.ack st 0)) ∧
  (∀ (k : Fin 270) hit e rest s, s.straitClosed k = false → s.flag (F.GLB_ISL_STS_GATED (straitEnds k).2) = false →
    (s.strait k).entries = e :: rest → (hitWords e.words hit).map evenParity ≠ e.parity →
    exec (.straitEntryRead k hit) s = .next (commit s
      (((s.setStrait k ⟨rest, (s.strait k).used⟩).raise 4 (2 ^ straitClass k)).loseOwner e .internal))) ∧
  (∀ (k : Fin 270) hit s, s.flag (F.GLB_ISL_STS_GATED (straitEnds k).2) = true → (s.strait k).entries ≠ [] →
    exec (.straitEntryRead k hit) s = .next (commit s s)) ∧
  (∀ (k : Fin 270) s, (s.strait k).entries.length < (s.strait k).used →
    exec (.straitCreditReturn k) s = .next (commit s (s.setStrait k
      ⟨(s.strait k).entries, (s.strait k).used - 1⟩)))

/-- An implausible sample counts and the third in a row raises RAIL_MON_IMPLAUSIBLE; a plausible sample inside its
limits ends violations; the third in a row outside the limits (log entry 52: the two sides count together) raises the
rail's undervoltage fault where it is itself below LO_MV and its overvoltage fault where it is above HI_MV.
PWR_RAIL_LIM writes apply inside the window and complete IGNORED outside it. A tripped power-good detector clears the
bit of its rail and fences a die that was good; a detector that reports its rail good again sets that rail's bit only,
and the condition ends when all dies are good. Answers a next state for: railSample, pwrRailLimWrite, diePgoodTrip,
diePgoodRestore. (R56, R57, R58, R59, R252.) -/
def Obligations.RailsAreSampledAndJudged : Prop :=
  (∀ (k : Fin 6) (mv : BitVec 16) s, s.mode ≠ .reset → s.islandDown (if k.val = 0 then 52 else 54) = false →
    railImplausible k mv.toNat (s.rail k).prev = true → (s.rail k).impl ≠ 2 →
    exec (.railSample k mv) s = .next (commit s ((s.railTaken k mv.toNat false).setRail k
      { s.rail k with prev := some mv.toNat, impl := (s.rail k).impl + 1 }))) ∧
  (∀ (k : Fin 6) (mv : BitVec 16) s, s.mode ≠ .reset → s.islandDown (if k.val = 0 then 52 else 54) = false →
    railImplausible k mv.toNat (s.rail k).prev = true → (s.rail k).impl = 2 →
    exec (.railSample k mv) s = .next (commit s (((s.railTaken k mv.toNat false).setRail k
      { s.rail k with prev := some mv.toNat, impl := 3 }).raiseCond 76 (2 ^ k.val)))) ∧
  (∀ (k : Fin 6) (mv : BitVec 16) s, s.mode ≠ .reset → s.islandDown (if k.val = 0 then 52 else 54) = false →
    railImplausible k mv.toNat (s.rail k).prev = false →
    s.fld (F.PWR_RAIL_LIM_LO_MV k) ≤ mv.toNat → mv.toNat ≤ s.fld (F.PWR_RAIL_LIM_HI_MV k) →
    exec (.railSample k mv) s = .next (commit s
      (((((s.railTaken k mv.toNat true).setRail k ⟨some mv.toNat, 0, 0, 0⟩).settleRails).endCondition
        (64 + k)).endCondition (70 + k)))) ∧
  (∀ (k : Fin 6) (mv : BitVec 16) s, s.mode ≠ .reset → s.islandDown (if k.val = 0 then 52 else 54) = false →
    railImplausible k mv.toNat (s.rail k).prev = false → mv.toNat < s.fld (F.PWR_RAIL_LIM_LO_MV k) →
    2 ≤ (s.rail k).below + (s.rail k).above →
    exec (.railSample k mv) s = .next (commit s
      (((s.railTaken k mv.toNat true).setRail k ⟨some mv.toNat, (s.rail k).below + 1, (s.rail k).above,
        0⟩).settleRails.raiseCond (64 + k) 0))) ∧
  (∀ (k : Fin 6) (mv : BitVec 16) s, s.mode ≠ .reset → s.islandDown (if k.val = 0 then 52 else 54) = false →
    railImplausible k mv.toNat (s.rail k).prev = false → s.fld (F.PWR_RAIL_LIM_LO_MV k) ≤ mv.toNat →
    s.fld (F.PWR_RAIL_LIM_HI_MV k) < mv.toNat → 2 ≤ (s.rail k).below + (s.rail k).above →
    exec (.railSample k mv) s = .next (commit s
      (((s.railTaken k mv.toNat true).setRail k ⟨some mv.toNat, (s.rail k).below, (s.rail k).above + 1,
        0⟩).settleRails.raiseCond (70 + k) 0))) ∧
  (∀ p (k : Fin 6) w s, s.granted p .PWR_RAIL_LIM 0 k w = true → s.sessionOk p = true → (railWindow k).1 ≤ bitsOf w.toNat 15 0 →
    bitsOf w.toNat 15 0 < bitsOf w.toNat 31 16 → bitsOf w.toNat 31 16 ≤ (railWindow k).2 →
    exec (.pwrRailLimWrite p k w) s = .next (commit s (s.answered p (adr .PWR_RAIL_LIM 0 k) w
      (s.plainWrite (pathNum p) .PWR_RAIL_LIM 0 k w)))) ∧
  (∀ p (k : Fin 6) w s, s.granted p .PWR_RAIL_LIM 0 k w = true → s.sessionOk p = true →
    (bitsOf w.toNat 15 0 < (railWindow k).1 ∨ bitsOf w.toNat 31 16 ≤ bitsOf w.toNat 15 0 ∨
      (railWindow k).2 < bitsOf w.toNat 31 16) →
    exec (.pwrRailLimWrite p k w) s = .next (commit s (s.turnedAway p (adr .PWR_RAIL_LIM 0 k)))) ∧
  (∀ (d : Fin 16) arr vpp s, s.mode ≠ .reset → (arr || vpp) = true →
    exec (.diePgoodTrip d arr vpp) s = .next (commit s
      (let u := (if vpp then (fun t : State => t.setFldBit F.PWR_DIE_PGOOD_VPP_OK d false) else id)
        (if arr then s.setFldBit F.PWR_DIE_PGOOD_ARR_OK d false else s)
       if s.dieGood d then (u.raiseCond 77 (2 ^ d.val)).fenceDie d true else u.raiseCond 77 (2 ^ d.val)))) ∧
  (∀ (d : PgoodReport) s t, s.mode ≠ .reset → (d.arr || d.vpp) = true →
    t = (if d.vpp then (fun u : State => u.setFldBit F.PWR_DIE_PGOOD_VPP_OK d.die true) else id)
      (if d.arr then s.setFldBit F.PWR_DIE_PGOOD_ARR_OK d.die true else s) →
    exec (.diePgoodRestore d) s = .next (commit s
      (if t.flag (liveFld 77) = true ∧ ((List.range 16).all fun k => t.dieGood k) = true then t.endCondition 77 else t)))

/-- A read of GLB_TIME_LO latches the upper half for its path; the next read of GLB_TIME_HI on that path returns it
and empties the latch (log entry 59), and without one the live half is returned. A write of GLB_TIME_HI is held for
its path, replacing what was held; a write of GLB_TIME_LO loads the held half of its own path and empties the holder,
or keeps the time base's upper half where its path holds none, and has the tick and window work of the instants it
passes (log entry 103); what another path holds is never loaded. Answers a next state for: glbTimeLoRead,
glbTimeHiRead, glbTimeHiWrite, glbTimeLoWrite. (R62, R63, R73.) -/
def Obligations.TheTimeBaseIsReadAndWrittenInPairs : Prop :=
  (∀ p s, s.readable p .GLB_TIME_LO 0 0 = true →
    exec (.glbTimeLoRead p) s = .next (commit s (s.readDone p (adr .GLB_TIME_LO) (s.timeBase.setWidth 32)
      { s with latches := s.latches.set (fun _ => none) (pathKey (pathNum p) (adr .GLB_TIME_HI)) (some
                            ((s.timeBase >>> 32).setWidth 32)) }))) ∧
  (∀ p x s, s.readable p .GLB_TIME_HI 0 0 = true →
    s.latches.get (fun _ => none) (pathKey (pathNum p) (adr .GLB_TIME_HI)) = some x →
    exec (.glbTimeHiRead p) s = .next (commit s (s.readDone p (adr .GLB_TIME_HI) x
      { s with latches := s.latches.set (fun _ => none) (pathKey (pathNum p) (adr .GLB_TIME_HI)) none }))) ∧
  (∀ p s, s.readable p .GLB_TIME_HI 0 0 = true →
    s.latches.get (fun _ => none) (pathKey (pathNum p) (adr .GLB_TIME_HI)) = none →
    exec (.glbTimeHiRead p) s = .next (commit s (s.readDone p (adr .GLB_TIME_HI) ((s.timeBase >>> 32).setWidth 32) s))) ∧
  (∀ p w s, s.granted p .GLB_TIME_HI 0 0 w = true →
    exec (.glbTimeHiWrite p w) s = .next (commit s (s.answered p (adr .GLB_TIME_HI) w
      (s.setHeld (pathNum p) (adr .GLB_TIME_HI) (some w))))) ∧
  (∀ p w x s, s.granted p .GLB_TIME_LO 0 0 w = true → s.held (pathNum p) (adr .GLB_TIME_HI) = some x →
    exec (.glbTimeLoWrite p w) s = .next (commit s (s.answered p (adr .GLB_TIME_LO) w
      (({ s.setHeld (pathNum p) (adr .GLB_TIME_HI) none with timeBase := x ++ w } : State).ticksPast s)))) ∧
  (∀ p w s, s.granted p .GLB_TIME_LO 0 0 w = true → s.held (pathNum p) (adr .GLB_TIME_HI) = none →
    exec (.glbTimeLoWrite p w) s = .next (commit s (s.answered p (adr .GLB_TIME_LO) w
      (({ s.setHeld (pathNum p) (adr .GLB_TIME_HI) none with
        timeBase := (s.timeBase >>> 32).setWidth 32 ++ w } : State).ticksPast s)))) ∧
  (∀ t s : State, t.timeBase.toNat / 1000 = s.timeBase.toNat / 1000 → t.ticksPast s = t) ∧
  (∀ t s : State, t.timeBase.toNat / 10000 ≠ s.timeBase.toNat / 10000 → t.mode ≠ .deepRetention →
    t.ticksPast s = t.qosWindow.tickWork)

/-- A read of a low word latches the high word for its path. A write of a high word is held for its path. A write of a
low word applies with what its path holds of the high word, which is then no longer held, or alone where it holds
nothing; of a counter it applies the same way and the counter goes on from the value written (log entry 54 and 120:
what the counter then counts is the model's order). Answers a next state for: wideRegisterLoRead, wideRegisterHiWrite,
wideRegisterLoWrite. (R85, R500.) -/
def Obligations.WideRegistersWorkInPairs : Prop :=
  (∀ p (a : BitVec 24) r hi u i s, pairHigh r = some hi → a.toNat = adr r u i → s.readable p r u i = true →
    exec (.wideRegisterLoRead p a) s = .next (commit s (s.readDone p (adr r u i) (s.view (pathNum p) (pathHalf p) r u i)
      { s with latches := s.latches.set (fun _ => none) (pathKey (pathNum p) (adr hi u i)) (some
                            (s.view (pathNum p) (pathHalf p) hi u i)) }))) ∧
  (∀ p (a : BitVec 24) w r u i s, isPairHigh r = true → a.toNat = adr r u i → s.granted p r u i w = true →
    exec (.wideRegisterHiWrite p a w) s = .next (commit s (s.answered p (adr r u i) w
      (s.setHeld (pathNum p) (adr r u i) (some w))))) ∧
  (∀ p (a : BitVec 24) w r hi u i s x, pairHigh r = some hi → plainPair r = true → a.toNat = adr r u i →
    s.granted p r u i w = true → s.held (pathNum p) (adr hi u i) = some x →
    exec (.wideRegisterLoWrite p a w) s = .next (commit s (s.answered p (adr r u i) w
      (((s.plainWrite (pathNum p) r u i w).plainWrite (pathNum p) hi u i x).setHeld (pathNum p) (adr hi u i) none)))) ∧
  (∀ p (a : BitVec 24) w r hi u i s, pairHigh r = some hi → plainPair r = true → a.toNat = adr r u i →
    s.granted p r u i w = true → s.held (pathNum p) (adr hi u i) = none →
    exec (.wideRegisterLoWrite p a w) s = .next (commit s (s.answered p (adr r u i) w
      (s.plainWrite (pathNum p) r u i w)))) ∧
  (∀ p (a : BitVec 24) w (k : Fin 64) s, a.toNat = adr .OBS_CNT_LO 0 k → s.granted p .OBS_CNT_LO 0 k w = true →
    exec (.wideRegisterLoWrite p a w) s = .next (commit s (s.answered p (adr .OBS_CNT_LO 0 k) w
      ((s.writeLow (pathNum p) .OBS_CNT_LO .OBS_CNT_HI 0 k w).st.cntWritten none k)))) ∧
  (∀ p (a : BitVec 24) w (c : Fin 32) (k : Fin 16) s, a.toNat = adr .CH_CNT_LO c k →
    s.granted p .CH_CNT_LO c k w = true →
    exec (.wideRegisterLoWrite p a w) s = .next (commit s (s.answered p (adr .CH_CNT_LO c k) w
      ((s.writeLow (pathNum p) .CH_CNT_LO .CH_CNT_HI c k w).st.cntWritten (some c.val) k)))) ∧
  (∀ p r hi u i w x (s : State), s.held p (adr hi u i) = some x →
    (s.writeLow p r hi u i w).st = ((s.plainWrite p r u i w).plainWrite p hi u i x).setHeld p (adr hi u i) none)

/-- A write that reaches a plain register applies its fields and completes OK; a misaligned or unmapped address, a
mode that does not serve the path, an island that is down, an address without a register inside a block, a missing
privilege, a LOCK and a reserved or out-of-range value each give the completion and the account the manual gives. The
order of these checks is the model's (log entry 60), as is the IGNORED of an address without a register in FATAL (log
entry 82). At the registers whose own refusal comes before the range of the value (those of the secure queue 7), a
path that is not secure gets PRIV also for a value out of range. (R66, R67, R68, R69, R70, R79, R81, R91, R93, R461,
R266, R485.) -/
def Obligations.RegisterWritesAreServedOrRefused : Prop :=
  (∀ p (a : BitVec 24) w r u i s, plainReg r = true → a.toNat = adr r u i → s.granted p r u i w = true →
    exec (.registerWrite p a w) s = .next (commit s (s.answered p (adr r u i) w (s.plainWrite (pathNum p) r u i w)))) ∧
  (∀ p (a : BitVec 24) w s, s.pathUp p = true → s.modeStatus p = none → (a.toNat % 4 ≠ 0 ∨ inBlock a.toNat = false) →
    exec (.registerWrite p a w) s = .next (commit s ((s.accFault 2 (pathNum p) a.toNat true).emit
      (.access (pathNum p) a.toNat true .unmapped 0)))) ∧
  (∀ p (a : BitVec 24) w s st, s.pathUp p = true → s.modeStatus p = some st → st ≠ .unmapped →
    exec (.registerWrite p a w) s = .next (commit s (s.emit (.access (pathNum p) a.toNat true st 0)))) ∧
  (∀ p (a : BitVec 24) w s, s.pathUp p = true → s.modeStatus p = none → a.toNat % 4 = 0 → inBlock a.toNat = true →
    (accessIslands (pathHalf p) a.toNat true).any s.islandDown = true →
    exec (.registerWrite p a w) s = .next (commit s (s.emit (.access (pathNum p) a.toNat true .unavailable 0)))) ∧
  (∀ p (a : BitVec 24) w s, s.pathUp p = true → s.refused p a.toNat true = none → regAt a.toNat = none →
    ((accessIslands (pathHalf p) a.toNat true).all fun k => !s.flag (F.GLB_ISL_STS_GATED k)) = true → s.mode = .fatal →
    exec (.registerWrite p a w) s = .next (commit s (s.turnedAway p a.toNat))) ∧
  (∀ p (a : BitVec 24) w s, s.pathUp p = true → s.refused p a.toNat true = none → regAt a.toNat = none →
    ((accessIslands (pathHalf p) a.toNat true).all fun k => !s.flag (F.GLB_ISL_STS_GATED k)) = true → s.mode ≠ .fatal →
    exec (.registerWrite p a w) s = .next (commit s
      ((s.noteAccess (s.life.session != 0 && s.life.sessPath == pathNum p) (pathNum p) true a.toNat w).emit
        (.access (pathNum p) a.toNat true .ok 0)))) ∧
  (∀ p (a : BitVec 24) w r u i s, s.pathUp p = true → s.refused p a.toNat true = none → regAt a.toNat = some (r, u, i) →
    ((accessIslands (pathHalf p) a.toNat true).all fun k => !s.flag (F.GLB_ISL_STS_GATED k)) = true →
    r.prv = true → s.allowed p = false →
    exec (.registerWrite p a w) s = .next (commit s
      (((s.accFault 1 (pathNum p) a.toNat true).bump F.GLB_ACC_COUNT_PRIV_DENY_COUNT).emit
        (.access (pathNum p) a.toNat true .priv 0)))) ∧
  (∀ p (a : BitVec 24) w r u i s, s.pathUp p = true → s.refused p a.toNat true = none → regAt a.toNat = some (r, u, i) →
    ((accessIslands (pathHalf p) a.toNat true).all fun k => !s.flag (F.GLB_ISL_STS_GATED k)) = true →
    (r.prv = false ∨ s.allowed p = true) → s.mode ≠ .fatal → s.bounces p a.toNat = false → s.locked r a.toNat = true →
    exec (.registerWrite p a w) s = .next (commit s
      (((s.accFault 0 (pathNum p) a.toNat true).bump F.GLB_ACC_COUNT_LOCK_VIOLATION_COUNT).emit
        (.access (pathNum p) a.toNat true .ignored 0)))) ∧
  (∀ p (a : BitVec 24) w r u i s, s.pathUp p = true → s.refused p a.toNat true = none → regAt a.toNat = some (r, u, i) →
    ((accessIslands (pathHalf p) a.toNat true).all fun k => !s.flag (F.GLB_ISL_STS_GATED k)) = true →
    (r.prv = false ∨ s.allowed p = true) → s.mode ≠ .fatal → s.bounces p a.toNat = false → s.locked r a.toNat = false →
    inRange r w.toNat = false → refusesFirst r = false →
    exec (.registerWrite p a w) s = .next (commit s (s.turnedAway p a.toNat))) ∧
  (∀ p (a : BitVec 24) w r u s, s.pathUp p = true → s.refused p a.toNat true = none → regAt a.toNat = some (r, u, 7) →
    ((accessIslands (pathHalf p) a.toNat true).all fun k => !s.flag (F.GLB_ISL_STS_GATED k)) = true →
    (r.prv = false ∨ s.allowed p = true) → s.mode ≠ .fatal → s.bounces p a.toNat = false → s.locked r a.toNat = false →
    inRange r w.toNat = false → refusesFirst r = true → r ≠ .LC_SESS_CTL → isSecure p = false →
    exec (.registerWrite p a w) s = .next (commit s
      (((s.accFault 1 (pathNum p) (adr r u 7) true).bump F.GLB_ACC_COUNT_PRIV_DENY_COUNT).emit
        (.access (pathNum p) a.toNat true .priv 0))))

/-- At a management tick out of RESET, DEEP RETENTION and FATAL time stands at the next 10 us boundary, the global
shadows are applied, with DUE brought up to date where DELTA_T changed and the wear LEVELs where their thresholds
changed, and the strap override, the power step and the correction summary run in that order. In DEEP RETENTION and
FATAL only the shadows are applied (log entry 49: the model's choice). An upset of the always-on island's registers is
found at the tick and raises AON_PARITY, and the rest of the work waits for the next one (log entry 33). (R73, R491,
R418, R360, R444.) -/
def Obligations.ManagementWorkRunsAtTicks : Prop :=
  (∀ s u : State, s.mode ≠ .reset → s.mode ≠ .deepRetention → s.mode ≠ .fatal → s.aonUpset = false →
    u = s.advanceToMultiple 10000 →
    exec .managementTick s = .next (commit s
      (((u.applyShadows domGlobal).settleDue u).settleLevels u).strapTick.powerTick.summaryTick)) ∧
  (∀ s u : State, (s.mode = .deepRetention ∨ s.mode = .fatal) → s.aonUpset = false → u = s.advanceToMultiple 10000 →
    exec .managementTick s = .next (commit s (((u.applyShadows domGlobal).settleDue u).settleLevels u))) ∧
  (∀ s u v : State, s.mode ≠ .reset → s.aonUpset = true → u = s.advanceToMultiple 10000 →
    v = ((u.applyShadows domGlobal).settleDue u).settleLevels u →
    exec .managementTick s = .next (commit s (({ v with aonUpset := false } : State).raise 9 0)))

/-- An access that does not complete is answered TIMEOUT and noted, and its write may or may not have applied, a free
choice (log entry 62); the ld.cfg of an engine that it was gets 0 and the status TIMEOUT and completes; ones written
to POLL_SUMMARY clear latches, except those set again in the same cycle, which read 1 and count in CHANGE_SEQ (log
entry 63); a pop of the correction log returns its oldest entry, fills the holding registers of its path and removes
it, and on an empty log completes EMPTY. Answers a next state for: registerAccessTimeout, pollSummaryClear, eccLogPop.
(R92, R83, R95, R96, R87, R358, R306.) -/
def Obligations.OtherAccessesHaveTheirOwnEffects : Prop :=
  (∀ p (a : BitVec 24) w (tag : BitVec 14) s, s.mode ≠ .reset → (∀ c q, p ≠ .eng c q) →
    exec (.registerAccessTimeout p a false w tag) s = .next (commit s
      ((s.useFree.accFault 3 (pathNum p) a.toNat false).complete (pathNum p) a.toNat false (answerOf p tag.toNat) .timeout 0))) ∧
  (∀ p (a : BitVec 24) w (tag : BitVec 14) s, s.mode ≠ .reset → (∀ c q, p ≠ .eng c q) →
    exec (.registerAccessTimeout p a true w tag) s = .next (commit s
      (((if Config.freeBool s.free then (s.useFree.access p a.toNat true w Given.plain .direct).st else s.useFree).accFault 3
        (pathNum p) a.toNat true).complete (pathNum p) a.toNat true (answerOf p tag.toNat) .timeout 0))) ∧
  (∀ (c : Fin 32) q (a : BitVec 24) w (tag : BitVec 14) f s u v, s.mode ≠ .reset → s.cfgAt c a.toNat false = some f →
    v = s.useFree.accFault 3 (16 + c.val) a.toNat false →
    u = ({ v with
      heldAccesses := v.heldAccesses.filter fun h => !(h.answer == Answer.engine && h.path == 16 + c.val) } : State).setG
        c f.d 0 →
    exec (.registerAccessTimeout (.eng c q) a false w tag) s = .next (commit s
      (u.settleAtt c (.done (u.setCfgStatus c .timeout))))) ∧
  (∀ p w (again : BitVec 32) s t, s.granted p .POLL_SUMMARY 0 0 w = true →
    t = s.answered p (adr .POLL_SUMMARY) w (s.plainWrite (pathNum p) .POLL_SUMMARY 0 0 w) →
    exec (.pollSummaryClear p w again) s = .next (commit s
      (let u := if s.reg (adr .POLL_SUMMARY) &&& ~~~t.reg (adr .POLL_SUMMARY) &&& (again &&& 0x7FF#32) = 0 then t
         else t.setFld F.POLL_SUMMARY_CHANGE_SEQ (t.fld F.POLL_SUMMARY_CHANGE_SEQ + 1)
       u.setReg (adr .POLL_SUMMARY) (u.reg (adr .POLL_SUMMARY) ||| (again &&& 0x7FF#32))))) ∧
  (∀ p (c : Fin 32) e rest s, s.readable p .ECC_LOG_POP c 0 = true → (s.chan c).log.entries = e :: rest →
    exec (.eccLogPop p c) s = .next (commit s (s.readDone p (adr .ECC_LOG_POP c) (e.getD 0 0)
      ((s.modChan c fun x => { x with log := { x.log with entries := rest } }).each 8 fun k t =>
        { t with popHold := t.popHold.set (fun _ => 0) ((pathNum p * 32 + c) * 8 + k) (e.getD k 0) })))) ∧
  (∀ p (c : Fin 32) s, s.readable p .ECC_LOG_POP c 0 = true → (s.chan c).log.entries = [] →
    exec (.eccLogPop p c) s = .next (commit s (s.emit (.access (pathNum p) (adr .ECC_LOG_POP c) false .empty 0))))

/-- RST_N rising with PWROK good leaves RESET for BRING-UP with the time base at 0 (free running where REFCLK is
absent) and runs the steps in the order of the model (log entries 2 and 30); a step that hangs leaves BRING-UP waiting
there, with the always-on island locked, every die's power good, the straps latched and FORCE_FULL taken as it read at
the start; without PWROK it is only noted. A step that stands past its time fails and the steps after it run; at the
module step the modules named miss their deadline, and when all are settled BRING-UP ends in ACTIVE or SAFE. Answers a
next state for: rstNRise, bringupStepTimeout. (R110, R60, R65, R518, R519, R492.) -/
def Obligations.BringUpRunsItsSteps : Prop :=
  (∀ e s u, s.mode = .reset → s.pins.pwrok = true →
    u = ({ s with pins := { s.pins with rstN := true } } : State).outOfReset e →
    u.mode = .bringUp ∧ u.timeBase = 0 ∧ u.pins = { s.pins with rstN := true } ∧
    (s.pins.refclk = true → exec (.rstNRise e) s = .next (commit s (u.bringRun e bringOrder))) ∧
    (s.pins.refclk = false → exec (.rstNRise e) s = .next (commit s (u.freeRun.bringRun e bringOrder)))) ∧
  (∀ (e : BringUpEnv) s, s.mode = .reset → s.pins.pwrok = true → s.pins.refclk = true → e.stallAt = some 1 →
    ∃ t, exec (.rstNRise e) s = .next t ∧ t.mode = .bringUp ∧ t.pins = { s.pins with rstN := true } ∧ t.now = 0 ∧
      t.timeBase = 0 ∧ t.bringUp = some ⟨e, 0, 1, 0, s.flag F.LC_TRN_OVR_FORCE_FULL⟩ ∧ t.flag (F.GLB_ISL_STS_LOCKED 52) = true ∧
      t.fld F.PWR_DIE_PGOOD_ARR_OK = 0xFFFF ∧ t.fld F.PWR_DIE_PGOOD_VPP_OK = 0xFFFF) ∧
  (∀ (e : BringUpEnv) s, s.mode = .reset → s.pins.pwrok = true → s.pins.refclk = true → e.stallAt = some 2 →
    e.strapsAgree = true →
    ∃ t, exec (.rstNRise e) s = .next t ∧ t.mode = .bringUp ∧ t.bringUp = some ⟨e, 0, 2, 0, s.flag F.LC_TRN_OVR_FORCE_FULL⟩ ∧
      t.pins = { s.pins with rstN := true, stackId := e.stackId.toNat, mgrEn := e.mgrEn, mgrCapable := e.mgrCapable }) ∧
  (∀ e s, s.pins.pwrok = false →
    exec (.rstNRise e) s = .next (commit s { s with pins := { s.pins with rstN := true } })) ∧
  (∀ (k : Fin 13) (which : BitVec 32) b s, s.bringUp = some b → s.mode = .bringUp → b.waiting = k.val → k.val ≠ 8 →
    exec (.bringupStepTimeout k which) s = .next (commit s
      ((({ s with bringUp := some { b with env := { b.env with stallAt := none } } } : State).bringFail
        { b.env with stallAt := none } k.val which.toNat).bringRun { b.env with stallAt := none }
          ((bringOrder.dropWhile (· != k.val)).drop 1)))) ∧
  (∀ (k : Fin 13) (which : BitVec 32) b s, s.bringUp = some b → s.mode = .bringUp → b.waiting = k.val → k.val = 8 →
    exec (.bringupStepTimeout k which) s = .next (commit s
      (s.each 12 fun m t => if bitOf which.toNat m then t.trainDeadline m else t).bringCheck)) ∧
  (∀ (which : BitVec 32) b s u, s.bringUp = some b → s.mode = .bringUp → b.waiting = 8 →
    u = s.each 12 (fun m t => if bitOf which.toNat m then t.trainDeadline m else t) → u.bringUp = some b →
    u.mode = .bringUp → u.modulesSettled = true →
    ∃ t, exec (.bringupStepTimeout 8 which) s = .next t ∧ (t.mode = .active ∨ t.mode = .safe) ∧ t.bringUp = none)

/-- An accepted request enters SELF-REFRESH (no die on its own any more) or DEEP RETENTION (shadows, straits and runs
dropped; the context's channels: log entry 57), returns to ACTIVE or SAFE from SELF-REFRESH, DEEP RETENTION or SAFE,
or shuts down: without test SHUTDOWN_DONE reads 1 (the MRAM commits of the sequence succeed: log entry 56), with test
SHUTDOWN-TEST runs at tier 0 (after a permit where the package has a manager); each completes OK. A refused request of
any kind completes IGNORED and changes nothing. Answers a next state for: modeReqSelfRefresh, modeReqDeepRetention,
modeReqActive, modeReqShutdown, modeReqShutdownTest. (R97, R103, R105, R118, R119, R121, R122, R123, R124.) -/
def Obligations.ModeRequestsChangeTheMode : Prop :=
  (∀ p s, s.granted p .GLB_MODE 0 0 0x10000000#32 = true → s.reqOk 1 = true →
    exec (.modeReqSelfRefresh p) s = .next (commit s (s.answered p (adr .GLB_MODE) 0x10000000#32
      (s.enterSelfRefresh.latch F.POLL_SUMMARY_DONE)))) ∧
  (∀ p x s, s.granted p .GLB_MODE 0 0 0x20000000#32 = true → s.reqOk 2 = true → s.context = some x →
    exec (.modeReqDeepRetention p) s = .next (commit s (s.answered p (adr .GLB_MODE) 0x20000000#32
      ((s.enterDeep x).latch F.POLL_SUMMARY_DONE)))) ∧
  (∀ p e s, s.granted p .GLB_MODE 0 0 0x30000000#32 = true → s.reqOk 3 = true → s.mode = .selfRefresh →
    exec (.modeReqActive p e) s = .next (commit s (s.answered p (adr .GLB_MODE) 0x30000000#32 (s.exitSelfRefresh e)))) ∧
  (∀ p e s, s.granted p .GLB_MODE 0 0 0x30000000#32 = true → s.reqOk 3 = true → s.mode = .deepRetention →
    exec (.modeReqActive p e) s = .next (commit s (s.answered p (adr .GLB_MODE) 0x30000000#32 (s.exitDeep e)))) ∧
  (∀ p e s, s.granted p .GLB_MODE 0 0 0x30000000#32 = true → s.reqOk 3 = true → s.mode = .safe →
    exec (.modeReqActive p e) s = .next (commit s (s.answered p (adr .GLB_MODE) 0x30000000#32 s.exitDone))) ∧
  (∀ p s, s.granted p .GLB_MODE 0 0 0x40000000#32 = true → s.reqOk 4 = true →
    exec (.modeReqShutdown p) s = .next (commit s (s.answered p (adr .GLB_MODE) 0x40000000#32
      s.enterSelfRefresh.commitMram.shutdownDone))) ∧
  (∀ p s, s.granted p .GLB_MODE 0 0 0x50000000#32 = true → s.reqOk 5 = true →
    exec (.modeReqShutdownTest p) s = .next (commit s (s.answered p (adr .GLB_MODE) 0x50000000#32
      ({ s.commitMram.setFlag F.GLB_MODE_REQ_BUSY true with mode := .shutdownTest } : State).startTest))) ∧
  (∀ p s, s.granted p .GLB_MODE 0 0 0x10000000#32 = true → s.reqOk 1 = true →
    ∃ t, exec (.modeReqSelfRefresh p) s = .next t ∧ t.mode = .selfRefresh ∧ t.ownSelf = 0) ∧
  (∀ p s, s.granted p .GLB_MODE 0 0 0x20000000#32 = true → s.reqOk 2 = true →
    ∃ t, exec (.modeReqDeepRetention p) s = .next t ∧ t.mode = .deepRetention ∧ t.shadows = [] ∧ t.straits = [] ∧
      t.calRun = none) ∧
  (∀ p e s, s.granted p .GLB_MODE 0 0 0x30000000#32 = true → s.reqOk 3 = true → s.mode ≠ .deepRetention →
    ∃ t, exec (.modeReqActive p e) s = .next t ∧ (t.mode = .active ∨ t.mode = .safe) ∧ t.retained = none) ∧
  (∀ p s, s.granted p .GLB_MODE 0 0 0x40000000#32 = true → s.reqOk 4 = true →
    s.enterSelfRefresh.commitMram.bringUp = none →
    ∃ t, exec (.modeReqShutdown p) s = .next t ∧ t.flag F.GLB_MODE_STS_SHUTDOWN_DONE = true) ∧
  (∀ p s u, s.granted p .GLB_MODE 0 0 0x50000000#32 = true → s.reqOk 5 = true →
    u = ({ s.commitMram.setFlag F.GLB_MODE_REQ_BUSY true with mode := .shutdownTest } : State) →
    u.hasManager = false →
    ∃ t, exec (.modeReqShutdownTest p) s = .next t ∧ t.mode = .shutdownTest ∧
      t.flag F.CAL_TST_STS_RUNNING = true ∧ t.fld F.CAL_TST_STS_TIER = 0) ∧
  (∀ p s, s.granted p .GLB_MODE 0 0 0x10000000#32 = true → s.reqOk 1 = false →
    exec (.modeReqSelfRefresh p) s = .next (commit s (s.turnedAway p (adr .GLB_MODE)))) ∧
  (∀ p s, s.granted p .GLB_MODE 0 0 0x20000000#32 = true → s.reqOk 2 = false →
    exec (.modeReqDeepRetention p) s = .next (commit s (s.turnedAway p (adr .GLB_MODE)))) ∧
  (∀ p e s, s.granted p .GLB_MODE 0 0 0x30000000#32 = true → s.reqOk 3 = false →
    exec (.modeReqActive p e) s = .next (commit s (s.turnedAway p (adr .GLB_MODE)))) ∧
  (∀ p s, s.granted p .GLB_MODE 0 0 0x40000000#32 = true → s.reqOk 4 = false →
    exec (.modeReqShutdown p) s = .next (commit s (s.turnedAway p (adr .GLB_MODE)))) ∧
  (∀ p s, s.granted p .GLB_MODE 0 0 0x50000000#32 = true → s.reqOk 5 = false →
    exec (.modeReqShutdownTest p) s = .next (commit s (s.turnedAway p (adr .GLB_MODE))))

/-- DRAIN, RESUME, RETRAIN, OFFLINE, RECOVER and RETIRE are accepted in the states, modes and conditions of the table
Channel transitions: DRAIN leaves the channel DRAINING from now, RESUME ONLINE, RETRAIN RETRAINING with its run,
OFFLINE OFFLINE, RECOVER QUIESCED at once or, while a die of the channel's tier is in reset, with REQ_BUSY set until
that reset ends, and RETIRE queues its ledger entry with REQ_BUSY set; DRAIN, OFFLINE and RECOVER outside them
complete IGNORED. Answers a next state for: chReqDrain, chReqResume, chReqRetrain, chReqOffline, chReqRecover,
chReqRetire. (R115, R117, R255, R256.) -/
def Obligations.ChannelRequestsChangeTheState : Prop :=
  (∀ p (c : Fin 32) s, s.granted p .CH_STATE c 0 0x10000000#32 = true → s.serves = true →
    s.flag (F.CH_STATE_REQ_BUSY c) = false → (s.chan c).st = .online →
    exec (.chReqDrain p c) s = .next (commit s (s.answered p (adr .CH_STATE c) 0x10000000#32 (s.chanDrain c 1)))) ∧
  (∀ p (c : Fin 32) s, s.granted p .CH_STATE c 0 0x20000000#32 = true → s.serves = true →
    s.flag (F.CH_STATE_REQ_BUSY c) = false → ((s.chan c).st = .quiesced ∨ (s.chan c).st = .draining) →
    exec (.chReqResume p c) s = .next (commit s (s.answered p (adr .CH_STATE c) 0x20000000#32
      ((s.chanOnline c 1).modChan c fun x => { x with vpt := { x.vpt with drift := false } })))) ∧
  (∀ p (c : Fin 32) s, s.granted p .CH_STATE c 0 0x30000000#32 = true → s.mode = .active →
    s.flag (F.CH_STATE_REQ_BUSY c) = false → (s.chan c).st = .quiesced →
    exec (.chReqRetrain p c) s = .next (commit s (s.answered p (adr .CH_STATE c) 0x30000000#32 (s.runStart c 1 .retrain)))) ∧
  (∀ p (c : Fin 32) s, s.granted p .CH_STATE c 0 0x40000000#32 = true → s.mode = .active →
    s.flag (F.CH_STATE_REQ_BUSY c) = false → (s.chan c).st = .quiesced →
    exec (.chReqOffline p c) s = .next (commit s (s.answered p (adr .CH_STATE c) 0x40000000#32 (s.chanOffline c 1)))) ∧
  (∀ p (c : Fin 32) s, s.granted p .CH_STATE c 0 0x50000000#32 = true → s.mode = .active →
    s.flag (F.CH_STATE_REQ_BUSY c) = false → (s.chan c).st = .offline → s.recoverable c = true →
    exec (.chReqRecover p c) s = .next (commit s (s.answered p (adr .CH_STATE c) 0x50000000#32 (s.recover c)))) ∧
  (∀ p (c : Fin 32) s, s.granted p .CH_STATE c 0 0x60000000#32 = true → s.mode = .active →
    s.flag (F.CH_STATE_REQ_BUSY c) = false → ((s.chan c).st = .quiesced ∨ (s.chan c).st = .offline) →
    s.ledgerTakes 5 (targetOf c 0 0 0) = true →
    exec (.chReqRetire p c) s = .next (commit s (s.answered p (adr .CH_STATE c) 0x60000000#32
      ((s.setFlag (F.CH_STATE_REQ_BUSY c) true).ledgerQueue ⟨5, 6, targetOf c 0 0 0, 0, .chRetire c⟩)))) ∧
  (∀ p (c : Fin 32) s, s.granted p .CH_STATE c 0 0x10000000#32 = true →
    (s.serves = false ∨ s.flag (F.CH_STATE_REQ_BUSY c) = true ∨ (s.chan c).st ≠ .online) →
    exec (.chReqDrain p c) s = .next (commit s (s.turnedAway p (adr .CH_STATE c)))) ∧
  (∀ p (c : Fin 32) s, s.granted p .CH_STATE c 0 0x40000000#32 = true →
    (s.mode ≠ .active ∨ s.flag (F.CH_STATE_REQ_BUSY c) = true ∨ (s.chan c).st ≠ .quiesced) →
    exec (.chReqOffline p c) s = .next (commit s (s.turnedAway p (adr .CH_STATE c)))) ∧
  (∀ p (c : Fin 32) s, s.granted p .CH_STATE c 0 0x50000000#32 = true →
    (s.mode ≠ .active ∨ s.flag (F.CH_STATE_REQ_BUSY c) = true ∨ (s.chan c).st ≠ .offline ∨ s.recoverable c = false) →
    exec (.chReqRecover p c) s = .next (commit s (s.turnedAway p (adr .CH_STATE c)))) ∧
  (∀ (s : State) (c : Fin 32) x k, ((s.setChState c x k).chan c).st = x) ∧
  (∀ (s : State) (c : Fin 32) k, ((s.chanDrain c k).chan c).st = .draining ∧
    ((s.chanDrain c k).chan c).drainAt = some s.now) ∧
  (∀ (s : State) (c : Fin 32) k, ((s.chanOnline c k).chan c).st = .online) ∧
  (∀ (s : State) (c : Fin 32) k r, ((s.runStart c k r).chan c).st = .retraining ∧
    ((s.runStart c k r).chan c).vpt.run = some r) ∧
  (∀ (s : State) (c : Fin 32) k, (s.chan c).st ≠ .retired → (s.chan c).st ≠ .offline →
    ((s.chanOffline c k).chan c).st = .offline) ∧
  (∀ (s : State) (c : Fin 32), (s.dieReset.map fun r => r.die / 4) ≠ some (c.val / 8) →
    ((s.recover c).chan c).st = .quiesced) ∧
  (∀ (s : State) (c : Fin 32), (s.dieReset.map fun r => r.die / 4) = some (c.val / 8) →
    s.recover c = (s.modChan c fun x => { x with recovering := true }).setFlag (F.CH_STATE_REQ_BUSY c) true)

/-- When the drain of a channel is complete it becomes QUIESCED with no slot in use, and goes on to a drift run where
one waits for it; a request held 20 us is answered UNAVAILABLE; a program that still pins a slot 50 us after DRAIN is
aborted. Answers a next state for: drainComplete, heldRequestTimeout, drainPinAbort. (R114, R115, R243, R277, R400.)
-/
def Obligations.ChannelsDrainAndLetGo : Prop :=
  (∀ (c : Fin 32) s, (s.chan c).st = .draining → s.drained c = true → (s.chan c).vpt.drift = false →
    exec (.drainComplete c) s = .next (commit s ((s.setChState c .quiesced (s.fld (F.CH_STATE_LAST_CAUSE c))).modChan c
      fun x => { x with slots := [] }))) ∧
  (∀ (c : Fin 32) s, (s.chan c).st = .draining → s.drained c = true → (s.chan c).vpt.drift = true →
    exec (.drainComplete c) s = .next (commit s (((s.setChState c .quiesced (s.fld (F.CH_STATE_LAST_CAUSE c))).modChan c
      fun x => { x with slots := [] }).runStart c 5 .drift))) ∧
  (∀ (m : Fin 12) (tag : BitVec 14) t since s, s.findTxn m tag.toNat = some t → t.stage = .held since →
    exec (.heldRequestTimeout m tag) s = .next (commit s ((s.advanceTo (since + 20000)).reply t (.ack .unavailable 0)))) ∧
  (∀ (c : Fin 32) t0 s, (s.chan c).st = .draining → (s.chan c).drainAt = some t0 → (s.chan c).eng.busy = true →
    exec (.drainPinAbort c) s = .next (commit s ((s.advanceTo (t0 + 50000)).abortProgram c 0x21)))

/-- While the core of the token's holder runs, a committed ledger entry lands in the ledger and has its outcome (a
retired channel or row, the engine that waits, the log entry of the native action); a lost one raises the ledger
fault. A retired row's slot is emptied as its entry commits, for rep.retire as the write ends, committed or not (log
entries 14 and 77). An audit entry lands at NEXT, which advances; the correction summary and the wear record are
saved; a failed write raises MRAM_WRITE with its unit. The fatal summary is kept or its failure recorded, and the
copies are written (which of them fail is the command's operand: log entry 44). While that core does not run, none of
the firmware's writes ends; the fatal summary does not wait for it. Answers a next state for: ledgerWriteDone,
mramWriteEnd. (R125, R324, R360, R362, R363, R396, R427, R439, R444, R454, R459, R493.) -/
def Obligations.WritesToMramEnd : Prop :=
  (∀ j rest s t, s.mramRuns = true → s.mram.ledgerJobs = j :: rest →
    ({ s with mram := { s.mram with ledgerJobs := rest } } : State).ledgerPut j = some t →
    exec (.ledgerWriteDone true) s = .next (commit s (t.ledgerOutcome j.why true))) ∧
  (∀ j rest s, s.mramRuns = true → s.mram.ledgerJobs = j :: rest →
    exec (.ledgerWriteDone false) s = .next (commit s
      (((({ s with mram := { s.mram with ledgerJobs := rest } } : State).ledgerLost j).raise 101 0).ledgerOutcome j.why
        false))) ∧
  (∀ e rest s t, s.mramRuns = true → s.mram.auditWait = e :: rest → s.fld F.LC_AUD_STS_NEXT ≠ 511 →
    t = ({ s with mram := { s.mram with auditWait := rest,
                                         audit := s.mram.audit.set (fun _ => []) (s.fld F.LC_AUD_STS_NEXT) e } } : State) →
    exec (.mramWriteEnd .audit true) s = .next (commit s ((t.setFld F.LC_AUD_STS_NEXT (s.fld F.LC_AUD_STS_NEXT + 1)).latch
      F.POLL_SUMMARY_AUDIT))) ∧
  (∀ e rest s, s.mramRuns = true → s.mram.auditWait = e :: rest →
    exec (.mramWriteEnd .audit false) s = .next (commit s
      ((({ s with mram := { s.mram with auditWait := rest } } : State).raise 104 2).bump F.LC_AUD_STS_LOST))) ∧
  (∀ l s, s.mramRuns = true → s.mram.summaryWrite = some l →
    exec (.mramWriteEnd .summary true) s = .next (commit s
      (({ s with mram := { s.mram with summaryWrite := none } } : State).save l))) ∧
  (∀ l s, s.mramRuns = true → s.mram.wearWrite = some l →
    exec (.mramWriteEnd .wear true) s = .next (commit s
      (({ s with mram := { s.mram with wearWrite := none } } : State).save l))) ∧
  (∀ l s, s.mramRuns = true → s.mram.summaryWrite = some l →
    exec (.mramWriteEnd .summary false) s = .next (commit s
      (({ s with mram := { s.mram with summaryWrite := none } } : State).raise 104 4))) ∧
  (∀ l s, s.mramRuns = true → s.mram.wearWrite = some l →
    exec (.mramWriteEnd .wear false) s = .next (commit s
      (({ s with mram := { s.mram with wearWrite := none } } : State).raise 104 8))) ∧
  (∀ f k s t, s.coll.fatal = some f → f.writing = true →
    t = ({ s with coll := { s.coll with fatal := some { f with writing := false, summary := s.summaryBytes f } } } : State) →
    exec (.mramWriteEnd (.fatal k) true) s = .next (commit s
      ((({ t with coll := t.coll.put (s.summaryBytes f) } : State).setFld F.FLT_DUMP_STS_SUMMARY 1).writeCopies f k))) ∧
  (∀ f k s t, s.coll.fatal = some f → f.writing = true →
    t = ({ s with coll := { s.coll with fatal := some { f with writing := false, summary := s.summaryBytes f } } } : State) →
    exec (.mramWriteEnd (.fatal k) false) s = .next (commit s
      ((((t.recordFault 104 1).recordFault 113 4).setFld F.FLT_DUMP_STS_SUMMARY 2).writeCopies f k))) ∧
  (∀ ok s, s.mramRuns = false → exec (.ledgerWriteDone ok) s = .next (commit s s) ∧
    exec (.mramWriteEnd .audit ok) s = .next (commit s s) ∧ exec (.mramWriteEnd .summary ok) s = .next (commit s s) ∧
    exec (.mramWriteEnd .wear ok) s = .next (commit s s)) ∧
  (∀ (s : State) c, s.ledgerOutcome (.repRow c 0) true = s.tellEngine c true ∧
    s.ledgerOutcome (.repCol c 0) false = s.tellEngine c false ∧ s.ledgerOutcome .conductor true = s) ∧
  (∀ (s : State) l, s.ledgerOutcome (.nativeRetire l) true = ((s.emptyRetired l).retireRow l).logRowAction l 4 ∧
    s.ledgerOutcome (.nativeRetire l) false = s.logRowAction l 9 ∧
    s.ledgerOutcome (.nativeSpare l) true = s.logRowAction l 3 ∧ s.ledgerOutcome (.nativeSpare l) false = s.logRowAction l 9) ∧
  (∀ (s : State) c l, s.ledgerOutcome (.repRetire c l) true = ((s.emptyRetired l).retireRow l).tellEngine c true ∧
    s.ledgerOutcome (.repRetire c l) false = (s.emptyRetired l).tellEngine c false) ∧
  (∀ (s : State) (c : Fin 32) t, t = s.setFlag (F.CH_STATE_REQ_BUSY c) false → s.ledgerOutcome (.chRetire c) false = t ∧
    ((t.chan c).st = .quiesced ∨ (t.chan c).st = .offline → s.ledgerOutcome (.chRetire c) true = t.chanRetired c))

/-- A sideband that comes up sets its stage and becomes primary where there is none; a failing one excludes its module
and ends the session bound to it; the primary moves when its sideband stays lost; a message discarded is counted.
REG_RD and REG_WR access their register and are answered, a write of a plain register that takes it with OK and a
served read with OK and its value, and a fifth held at once is discarded and counted. Answers a next state for:
sbDetectTimeout, sidebandUp, sidebandLinkFail, primarySbLossTimeout, sidebandMessageDiscard, regRd, regWr. (R133,
R134, R138, R139, R140, R152, R489.) -/
def Obligations.SidebandsComeUpAndGoDown : Prop :=
  (∀ (m : Fin 12) s, (s.mod m).stage = .sbDetect →
    exec (.sbDetectTimeout m) s = .next (commit s (s.setStage m .sbDetect))) ∧
  (∀ (m : Fin 12) s, (s.mod m).stage = .sbDetect → s.flag (F.UCI_STS_EXCLUDED m) = false → s.bringUp = none →
    exec (.sidebandUp m) s = .next (commit s
      (let t := (s.modMod m fun x => { x with sbUp := true }).setStage m .sbUp
       if s.primary = none then { t with primary := some m.val } else t))) ∧
  (∀ (m : Fin 12) s, (s.mod m).sbUp = true → s.flag (F.UCI_STS_EXCLUDED m) = false →
    exec (.sidebandLinkFail m) s = .next (commit s
      (let t := (s.modMod m fun x => { x with sbUp := false, lpbk := none }).excludeMod m 9
       if s.life.session ≠ 0 ∧ s.life.sessPath = m.val then t.endSession 3 else t))) ∧
  (∀ m s, s.primary = some m → (s.mod m).sbUp = false →
    exec .primarySbLossTimeout s = .next (commit s
      ((({ s with primary := s.lowestUp } : State).raise 35 (modBit m)).latch F.POLL_SUMMARY_LINK))) ∧
  (∀ (m : Fin 12) s, s.mode ≠ .reset → (s.mod m).sbUp = true →
    exec (.sidebandMessageDiscard m) s = .next (commit s (s.bump (F.UCI_DROP_CNT_SB_DISCARD m)))) ∧
  (∀ (m : Fin 12) (d : BitVec 64) s, s.mode ≠ .reset → (s.mod m).sbUp = true → s.sbHeld m < 4 →
    exec (.regRd m d) s = .next (commit s
      (finish (.sb m) (4 * bitsOf d.toNat 31 10) false (.sideband m (bitsOf d.toNat 7 0)) (s.access (.sb m)
        (4 * bitsOf d.toNat 31 10) false (BitVec.ofNat 32 (bitsOf d.toNat 63 32)) Given.plain
        (.sideband m (bitsOf d.toNat 7 0)))))) ∧
  (∀ (m : Fin 12) (d : BitVec 64) s, s.mode ≠ .reset → (s.mod m).sbUp = true → s.sbHeld m < 4 →
    exec (.regWr m d) s = .next (commit s
      (finish (.sb m) (4 * bitsOf d.toNat 31 10) true (.sideband m (bitsOf d.toNat 7 0)) (s.access (.sb m)
        (4 * bitsOf d.toNat 31 10) true (BitVec.ofNat 32 (bitsOf d.toNat 63 32)) Given.plain
        (.sideband m (bitsOf d.toNat 7 0)))))) ∧
  (∀ (m : Fin 12) (d : BitVec 64) s, s.mode ≠ .reset → (s.mod m).sbUp = true → 4 ≤ s.sbHeld m →
    exec (.regRd m d) s = .next (commit s (s.bump (F.UCI_DROP_CNT_SB_OVERRUN m))) ∧
    exec (.regWr m d) s = .next (commit s (s.bump (F.UCI_DROP_CNT_SB_OVERRUN m)))) ∧
  (∀ (m : Fin 12) (d : BitVec 64) r u i w s, plainReg r = true → 4 * bitsOf d.toNat 31 10 = adr r u i →
    w = BitVec.ofNat 32 (bitsOf d.toNat 63 32) → s.granted (.sb m) r u i w = true → s.sbHeld m < 4 →
    exec (.regWr m d) s = .next (commit s ((s.taken (.sb m) (adr r u i) w
      (s.plainWrite (pathNum (.sb m)) r u i w)).emit (.regCpl m (bitsOf d.toNat 7 0) .ok 0)))) ∧
  (∀ (m : Fin 12) (d : BitVec 64) r u i s, plainReg r = true → 4 * bitsOf d.toNat 31 10 = adr r u i →
    s.readable (.sb m) r u i = true → s.sbHeld m < 4 →
    exec (.regRd m d) s = .next (commit s ((s.noteAccess (s.life.session != 0 && s.life.sessPath == pathNum (.sb m))
      (pathNum (.sb m)) false (adr r u i) 0).emit
        (.regCpl m (bitsOf d.toNat 7 0) .ok (s.view (pathNum (.sb m)) (pathHalf (.sb m)) r u i)))))

/-- MB_INIT that ends goes on to MB_TRAIN at the highest rate both sides have, with LOCKED 0 until its clock locks
again at another rate; MB_TRAIN records repairs and is LOCKED at the rate that the speed check passes, with
UCI_RATE_DOWN for each step down; with every rate failed it counts an attempt at 16 GT/s, and a repair that is
exhausted excludes; LOCKED goes to the capability exchange, where the device sends KY_CAP, or counts an attempt where
the partner declines what is needed; a stage timeout restarts from MB_INIT and excludes (or ends a loopback) after its
attempts; the bring-up deadline excludes a usable module that has not come ACTIVE; KY_CAP or its timeout brings the
module ACTIVE, and another major version excludes it with KY_PARTNER set; a partner's L1 request is not taken up; a
module that does not leave L1 is excluded. Answers a next state for: mbStageTimeout, mainbandTrainingDone,
trainErrorRestart, moduleTrainDeadline, kyCap, kyCapTimeout, partnerL1Request, l1ExitTimeout. (R132, R134, R135, R136,
R144, R147, R152, R167, R54.) -/
def Obligations.MainbandsTrain : Prop :=
  (∀ (m : Fin 12) s, ((s.mod m).stage = .mbInit ∨ (s.mod m).stage = .mbTrain) → s.fld (F.UCI_STS_ATTEMPTS m) < 4 →
    exec (.mbStageTimeout m) s = .next (commit s (s.setStage m .trainError))) ∧
  (∀ (m : Fin 12) s, ((s.mod m).stage = .mbInit ∨ (s.mod m).stage = .mbTrain) → 4 ≤ s.fld (F.UCI_STS_ATTEMPTS m) →
    s.looping m = false → exec (.mbStageTimeout m) s = .next (commit s (s.excludeMod m 3))) ∧
  (∀ (m : Fin 12) s, ((s.mod m).stage = .mbInit ∨ (s.mod m).stage = .mbTrain) → 4 ≤ s.fld (F.UCI_STS_ATTEMPTS m) →
    s.looping m = true → exec (.mbStageTimeout m) s = .next (commit s (s.lpbkEnd m false 0 0))) ∧
  (∀ (m : Fin 12) e s, (s.mod m).stage = .mbInit → (s.mod m).lpbk = none →
    exec (.mainbandTrainingDone m e) s = .next (commit s
      (((s.setStage m .mbTrain).trainAt m (min (s.topRate m) e.partnerMax.toNat)).relock m))) ∧
  (∀ (m : Fin 12) e r s, (s.mod m).stage = .mbTrain → (s.mod m).lpbk = none → repairExhausted e = false →
    e.passes = some r → s.fld (F.UCI_STS_RATE m) ≤ r.toNat →
    exec (.mainbandTrainingDone m e) s = .next (commit s ((s.recordRepairs m e).setStage m .locked))) ∧
  (∀ (m : Fin 12) e r r0 s, (s.mod m).stage = .mbTrain → (s.mod m).lpbk = none → repairExhausted e = false →
    e.passes = some r → e.lateSet = none → r0 = s.fld (F.UCI_STS_RATE m) → r.toNat < r0 →
    exec (.mainbandTrainingDone m e) s = .next (commit s
      ((((s.recordRepairs m e).rateDowns m (r0 - r.toNat)).trainAt m r.toNat).setStage m .locked))) ∧
  (∀ (m : Fin 12) e s, (s.mod m).stage = .mbTrain → (s.mod m).lpbk = none → repairExhausted e = true →
    exec (.mainbandTrainingDone m e) s = .next (commit s (s.excludeMod m 4))) ∧
  (∀ (m : Fin 12) e r0 s, (s.mod m).stage = .mbTrain → (s.mod m).lpbk = none → repairExhausted e = false →
    e.passes = none → e.lateSet = none → r0 = s.fld (F.UCI_STS_RATE m) → 0 < r0 →
    exec (.mainbandTrainingDone m e) s = .next (commit s
      ((((s.recordRepairs m e).rateDowns m r0).trainAt m 0).attemptFailed m))) ∧
  (∀ (m : Fin 12) e s, (s.mod m).stage = .locked → e.offers = true →
    exec (.mainbandTrainingDone m e) s = .next (commit s ((s.setStage m .capExchange).emit (.kyCap m.val 0x0310)))) ∧
  (∀ (m : Fin 12) e s, (s.mod m).stage = .locked → e.offers = false →
    exec (.mainbandTrainingDone m e) s = .next (commit s (s.attemptFailed m))) ∧
  (∀ (m : Fin 12) s, (s.mod m).stage = .trainError →
    exec (.trainErrorRestart m) s = .next (commit s
      ((s.setStage m .mbInit).setFld (F.UCI_STS_ATTEMPTS m) (min 255 (s.fld (F.UCI_STS_ATTEMPTS m) + 1))))) ∧
  (∀ (m : Fin 12) b s, s.bringUp = some b → 7 ≤ b.waiting → (s.mod m).stage ≠ .active → (s.mod m).stage ≠ .retrain →
    (s.mod m).stage ≠ .drain → (s.mod m).stage ≠ .l1 → s.flag (F.UCI_STS_EXCLUDED m) = false →
    bitOf s.part.usable m = true →
    exec (.moduleTrainDeadline m) s = .next (commit s (s.excludeMod m 3))) ∧
  (∀ (m : Fin 12) (d : BitVec 64) s, (s.mod m).stage = .capExchange → bitsOf d.toNat 7 4 = 1 →
    exec (.kyCap m d) s = .next (commit s ((s.setFlag (F.UCI_STS_KY_PARTNER m) true).enterActive m))) ∧
  (∀ (m : Fin 12) (d : BitVec 64) s, (s.mod m).stage = .capExchange → bitsOf d.toNat 7 4 ≠ 1 →
    exec (.kyCap m d) s = .next (commit s ((s.setFlag (F.UCI_STS_KY_PARTNER m) true).excludeMod m 6))) ∧
  (∀ (m : Fin 12) s, (s.mod m).stage = .capExchange →
    exec (.kyCapTimeout m) s = .next (commit s ((s.setFlag (F.UCI_STS_KY_PARTNER m) false).enterActive m))) ∧
  (∀ (m : Fin 12) s, exec (.partnerL1Request m) s = .next (commit s s)) ∧
  (∀ (m : Fin 12) s, (s.mod m).stage = .l1 →
    exec (.l1ExitTimeout m) s = .next (commit s (s.excludeMod m 5)))

/-- EQ_SET in MB_TRAIN at 24 GT/s or more with EQ_AUTO and values in range sets the taps and is answered OK, else
IGNORED; EQ_GET is answered; a flit of the device's that fails CRC at the partner counts a replay; a failed flit
counts in ACTIVE and DRAIN, and in ACTIVE starts a retrain while the window's count is at or above RETRY_THRESH (log
entry 90); a retrain keeps its rate, steps down to the rate that passes with UCI_RATE_DOWN for each step, or excludes
when no rate passes or a repair is exhausted; its timeout steps a rate down or excludes at 16 GT/s. Answers a next
state for: eqSet, eqGet, flitCrcFail, retryExhausted, retrainEnd, retrainTimeout. (R141, R142, R143, R152.) -/
def Obligations.LinksRetrainAndEqualise : Prop :=
  (∀ (m : Fin 12) (d : BitVec 64) s, (s.mod m).sbUp = true → (s.mod m).stage = .mbTrain →
    2 ≤ s.fld (F.UCI_STS_RATE m) → s.flag (F.UCI_CTL_EQ_AUTO m) = true → bitsOf d.toNat 15 8 ≤ 4 →
    bitsOf d.toNat 7 0 ≤ 8 →
    exec (.eqSet m d) s = .next (commit s
      ((s.setTaps m (bitsOf d.toNat 15 8) (bitsOf d.toNat 7 0) true).eqAnswer m .ok))) ∧
  (∀ (m : Fin 12) (d : BitVec 64) s, (s.mod m).sbUp = true →
    ((s.mod m).stage ≠ .mbTrain ∨ s.fld (F.UCI_STS_RATE m) < 2 ∨ s.flag (F.UCI_CTL_EQ_AUTO m) = false ∨
      4 < bitsOf d.toNat 15 8 ∨ 8 < bitsOf d.toNat 7 0) →
    exec (.eqSet m d) s = .next (commit s (s.eqAnswer m .ignored))) ∧
  (∀ (m : Fin 12) s, (s.mod m).sbUp = true → exec (.eqGet m) s = .next (commit s (s.eqAnswer m .ok))) ∧
  (∀ (m : Fin 12) s, (s.mod m).stage = .active →
    exec (.flitCrcFail ⟨m, true⟩) s = .next (commit s (s.bump (F.UCI_LINK_CNT_REPLAYS m)))) ∧
  (∀ (m : Fin 12) n s t, (s.mod m).stage = .drain →
    n = (if (s.mod m).crcWin = s.timeBase.toNat / 1000000 then (s.mod m).crcCount + 1 else 1) →
    t = (((s.bump (F.UCI_LINK_CNT_CRC_ERR m)).countGl 11 1 (some m.val)).modMod m fun x =>
      { x with crcWin := s.timeBase.toNat / 1000000, crcCount := n }) →
    exec (.flitCrcFail ⟨m, false⟩) s = .next (commit s t)) ∧
  (∀ (m : Fin 12) n s t, (s.mod m).stage = .active →
    n = (if (s.mod m).crcWin = s.timeBase.toNat / 1000000 then (s.mod m).crcCount + 1 else 1) →
    t = (((s.bump (F.UCI_LINK_CNT_CRC_ERR m)).countGl 11 1 (some m.val)).modMod m fun x =>
      { x with crcWin := s.timeBase.toNat / 1000000, crcCount := n }) →
    exec (.flitCrcFail ⟨m, false⟩) s = .next (commit s
      (if t.flag (F.UCI_CTL_AUTO_RETRAIN m) ∧ t.fld (F.UCI_ERR_CFG_RETRY_THRESH m) ≤ n then t.startRetrain m false
       else t))) ∧
  (∀ (m : Fin 12) s, (s.mod m).stage = .active →
    exec (.retryExhausted m) s = .next (commit s (s.startRetrain m false))) ∧
  (∀ (m : Fin 12) e r s, (s.mod m).stage = .retrain → repairExhausted e = false → e.passes = some r →
    s.fld (F.UCI_STS_RATE m) ≤ e.partnerMax.toNat → s.fld (F.UCI_STS_RATE m) ≤ r.toNat →
    exec (.retrainEnd m e) s = .next (commit s
      (((s.recordRepairs m e).setStage m .active).latch F.POLL_SUMMARY_LINK))) ∧
  (∀ (m : Fin 12) e r r0 s, (s.mod m).stage = .retrain → repairExhausted e = false → e.passes = some r →
    s.fld (F.UCI_STS_RATE m) ≤ e.partnerMax.toNat → e.lateSet = none → r0 = s.fld (F.UCI_STS_RATE m) → r.toNat < r0 →
    exec (.retrainEnd m e) s = .next (commit s
      (((((s.recordRepairs m e).rateDowns m (r0 - r.toNat)).trainAt m r.toNat).setStage m .active).latch
        F.POLL_SUMMARY_LINK))) ∧
  (∀ (m : Fin 12) e r0 s, (s.mod m).stage = .retrain → repairExhausted e = false → e.passes = none →
    s.fld (F.UCI_STS_RATE m) ≤ e.partnerMax.toNat → e.lateSet = none → r0 = s.fld (F.UCI_STS_RATE m) → 0 < r0 →
    exec (.retrainEnd m e) s = .next (commit s
      ((((s.recordRepairs m e).rateDowns m r0).trainAt m 0).excludeMod m 5))) ∧
  (∀ (m : Fin 12) e s, (s.mod m).stage = .retrain → repairExhausted e = true →
    exec (.retrainEnd m e) s = .next (commit s
      ((if e.partnerMax.toNat < s.fld (F.UCI_STS_RATE m) then s.trainAt m e.partnerMax.toNat else s).excludeMod m 4))) ∧
  (∀ (m : Fin 12) s, (s.mod m).stage = .retrain → s.fld (F.UCI_STS_RATE m) = 0 →
    exec (.retrainTimeout m) s = .next (commit s (s.excludeMod m 5))) ∧
  (∀ (m : Fin 12) r s, (s.mod m).stage = .retrain → s.fld (F.UCI_STS_RATE m) = r + 1 →
    exec (.retrainTimeout m) s = .next (commit s (((s.rateDowns m 1).trainAt m r).relock m)))

/-- RETRAIN_REQ, COMMIT, MAKE_PRIMARY, EXCLUDE, FORCE_EXCLUDE and INCLUDE take effect in the stages the manual gives;
RETRAIN_REQ and EXCLUDE outside them complete IGNORED; an exclusion drain that ends or times out excludes the module.
What the shared operations do is said too: a stage set is the module's stage; an exclusion leaves EXCLUDED (SB_DETECT
without sideband), nothing to send, the requests it had received still to be served with their answers discarded (log
entry 110), EXCLUDED and its cause set and its fault raised; a retrain counts and is a staging boundary; INCLUDE
trains from MB_INIT (no staging boundary: log entry 87); MAKE_PRIMARY takes effect at once or after the accesses held
by the primary. Answers a next state for: retrainReq, commitModule, makePrimary, excludeModule, forceExclude,
includeModule, exclusionDrainEnd, exclusionDrainTimeout. (R140, R143, R146, R147, R153.) -/
def Obligations.ModuleActionsAreTaken : Prop :=
  (∀ p (m : Fin 12) w v s, v = withBits w 31 26 32 → s.granted p .UCI_CTL m 0 v = true →
    (bitsOf v.toNat 1 0 ≠ 3 ∨ s.part.maxRate = 3) → (s.mod m).stage = .active →
    exec (.retrainReq p m w) s = .next (commit s (s.answered p (adr .UCI_CTL m) v
      ((s.plainWrite (pathNum p) .UCI_CTL m 0 v).startRetrain m true)))) ∧
  (∀ p (m : Fin 12) w v s, v = withBits w 31 26 16 → s.granted p .UCI_CTL m 0 v = true →
    (bitsOf v.toNat 1 0 ≠ 3 ∨ s.part.maxRate = 3) →
    exec (.commitModule p m w) s = .next (commit s (s.answered p (adr .UCI_CTL m) v
      ((s.plainWrite (pathNum p) .UCI_CTL m 0 v).moduleBoundary m)))) ∧
  (∀ p (m : Fin 12) w v s, v = withBits w 31 26 8 → s.granted p .UCI_CTL m 0 v = true →
    (bitsOf v.toNat 1 0 ≠ 3 ∨ s.part.maxRate = 3) → (s.mod m).sbUp = true →
    exec (.makePrimary p m w) s = .next (commit s (s.answered p (adr .UCI_CTL m) v
      ((s.plainWrite (pathNum p) .UCI_CTL m 0 v).makePrimary m)))) ∧
  (∀ p (m : Fin 12) w v s, v = withBits w 31 26 4 → s.granted p .UCI_CTL m 0 v = true →
    (bitsOf v.toNat 1 0 ≠ 3 ∨ s.part.maxRate = 3) → s.flag (F.UCI_STS_EXCLUDED m) = false → (s.mod m).stage ≠ .drain →
    exec (.excludeModule p m w) s = .next (commit s (s.answered p (adr .UCI_CTL m) v
      ((s.plainWrite (pathNum p) .UCI_CTL m 0 v).setStage m .drain)))) ∧
  (∀ p (m : Fin 12) w v s, v = withBits w 31 26 2 → s.granted p .UCI_CTL m 0 v = true →
    (bitsOf v.toNat 1 0 ≠ 3 ∨ s.part.maxRate = 3) → s.flag (F.UCI_STS_EXCLUDED m) = false → (s.mod m).stage ≠ .drain →
    exec (.forceExclude p m w) s = .next (commit s (s.answered p (adr .UCI_CTL m) v
      ((s.plainWrite (pathNum p) .UCI_CTL m 0 v).excludeMod m 2)))) ∧
  (∀ p (m : Fin 12) w v s, v = withBits w 31 26 1 → s.granted p .UCI_CTL m 0 v = true →
    (bitsOf v.toNat 1 0 ≠ 3 ∨ s.part.maxRate = 3) → s.flag (F.UCI_STS_EXCLUDED m) = true →
    (s.mod m).stage = .excluded → s.looping m = false →
    exec (.includeModule p m w) s = .next (commit s (s.answered p (adr .UCI_CTL m) v
      (((s.plainWrite (pathNum p) .UCI_CTL m 0 v).startTraining m 1).modMod m fun x => { x with including := true })))) ∧
  (∀ p (m : Fin 12) w v s, v = withBits w 31 26 32 → s.granted p .UCI_CTL m 0 v = true → (s.mod m).stage ≠ .active →
    exec (.retrainReq p m w) s = .next (commit s (s.turnedAway p (adr .UCI_CTL m)))) ∧
  (∀ p (m : Fin 12) w v s, v = withBits w 31 26 4 → s.granted p .UCI_CTL m 0 v = true →
    (s.flag (F.UCI_STS_EXCLUDED m) = true ∨ (s.mod m).stage = .drain) →
    exec (.excludeModule p m w) s = .next (commit s (s.turnedAway p (adr .UCI_CTL m)))) ∧
  (∀ (m : Fin 12) s, (s.mod m).stage = .drain → s.drainDone m = true →
    exec (.exclusionDrainEnd m) s = .next (commit s (s.excludeMod m 1))) ∧
  (∀ (m : Fin 12) s, (s.mod m).stage = .drain →
    exec (.exclusionDrainTimeout m) s = .next (commit s (s.excludeMod m 1))) ∧
  (∀ (s : State) (m : Fin 12) g, ((s.setStage m g).mod m).stage = g) ∧
  (∀ (s : State) (m : Fin 12) k, k < 16 → ∃ u : State, s.excludeMod m k = u.raiseCond 34 (modBit m) ∧
    (u.mod m).stage = (if (s.mod m).sbUp then .excluded else .sbDetect) ∧ (u.mod m).egress = [] ∧
    (u.mod m).ingress = ((s.mod m).ingress.map fun w => { w with txn := { w.txn with orphan := true } }) ∧
    u.flag (F.UCI_STS_EXCLUDED m) = true ∧ u.fld (F.UCI_STS_EXCL_CAUSE m) = k) ∧
  (∀ (s : State) (m : Fin 12), s.startRetrain m false =
    ((s.setStage m .retrain).bump (F.UCI_STS_RETRAIN_COUNT m)).moduleBoundary m) ∧
  (∀ (s : State) (m : Fin 12) k, s.startTraining m k = (s.setStage m .mbInit).setFld (F.UCI_STS_ATTEMPTS m) k) ∧
  (∀ (s : State) (m : Fin 12), s.moduleBoundary m = (s.applyShadows (domMod m)).followPreset m) ∧
  (∀ (s : State) (m : Fin 12), ((s.heldAccesses.any fun h => some h.path == s.primary) = false →
      s.makePrimary m = { s with primary := some m.val, primaryNext := none }) ∧
    ((s.heldAccesses.any fun h => some h.path == s.primary) = true →
      s.makePrimary m = { s with primaryNext := some m.val }))

/-- A partner's KY_LPBK start on an EXCLUDED module, whatever its rate (log entry 89), trains from MB_INIT to its rate
and is answered OK, else IGNORED; START of UCI_LPBK_CTL enters LOOPBACK at once in modes 0b00 and 0b01 and trains
first in the others; MB_INIT goes on to MB_TRAIN at the loopback's rate and, where that passes, to LOOPBACK with the
repairs it made recorded, in mode 0b10 after asking the partner; where it does not pass, an attempt fails with its
repairs recorded, and an exhausted repair ends the loopback and excludes with cause 4; the partner's answer lets the
loopback run, a refusal or its timeout ends it; STOP and the end of the duration end it with lanes and errors
recorded, and the module is EXCLUDED again; START at a higher rate or another stage is IGNORED. Answers a next state
for: kyLpbk, kyLpbkRsp, kyLpbkRspTimeout, lpbkStart, mainbandTrainingDone, lpbkStop, loopbackDurationEnd. (R144, R149,
R150, R151.) -/
def Obligations.LoopbacksRun : Prop :=
  (∀ (m : Fin 12) (d : BitVec 64) s, (s.mod m).sbUp = true → bitOf d.toNat 14 = true → (s.mod m).stage = .excluded →
    exec (.kyLpbk m d) s = .next (commit s (((((s.emit (.kyLpbkRsp m.val .ok)).modMod m fun x =>
      { x with lpbk := some ⟨3, bitsOf d.toNat 5 4, false⟩ }).setFlag (F.UCI_LPBK_STS_VALID m) false).setFlag
      (F.UCI_LPBK_STS_LPBK_ACTIVE m) true).startTraining m 1))) ∧
  (∀ (m : Fin 12) (d : BitVec 64) s, (s.mod m).sbUp = true → bitOf d.toNat 14 = true →
    (s.mod m).stage ≠ .excluded →
    exec (.kyLpbk m d) s = .next (commit s (s.emit (.kyLpbkRsp m.val .ignored)))) ∧
  (∀ (m : Fin 12) (d : BitVec 64) s, (s.mod m).sbUp = true → bitOf d.toNat 14 = false → s.looping m = true →
    exec (.kyLpbk m d) s = .next (commit s (s.lpbkStop m))) ∧
  (∀ (m : Fin 12) l s, (s.mod m).stage = .loopback → (s.mod m).lpbk = some l → l.waiting = true →
    exec (.kyLpbkRsp m 0) s = .next (commit s (s.modMod m fun x => { x with lpbk := some { l with waiting := false } }))) ∧
  (∀ (m : Fin 12) (st : BitVec 4) l s, (s.mod m).stage = .loopback → (s.mod m).lpbk = some l → l.waiting = true → st ≠ 0 →
    exec (.kyLpbkRsp m st) s = .next (commit s (s.lpbkEnd m true 0 0))) ∧
  (∀ (m : Fin 12) l s, (s.mod m).stage = .loopback → (s.mod m).lpbk = some l → l.waiting = true →
    exec (.kyLpbkRspTimeout m) s = .next (commit s (s.lpbkEnd m true 0 0))) ∧
  (∀ p (m : Fin 12) w v s, v = withBits w 31 30 2 → s.granted p .UCI_LPBK_CTL m 0 v = true →
    bitsOf v.toNat 5 4 ≤ s.part.maxRate → (s.mod m).stage = .excluded → bitsOf v.toNat 1 0 < 2 →
    exec (.lpbkStart p m w) s = .next (commit s (s.answered p (adr .UCI_LPBK_CTL m) v
      (((((s.plainWrite (pathNum p) .UCI_LPBK_CTL m 0 v).modMod m fun x =>
        { x with lpbk := some ⟨bitsOf v.toNat 1 0, bitsOf v.toNat 5 4, false⟩ }).setFlag (F.UCI_LPBK_STS_VALID m)
        false).setFlag (F.UCI_LPBK_STS_LPBK_ACTIVE m) true).setStage m .loopback)))) ∧
  (∀ p (m : Fin 12) w v s, v = withBits w 31 30 2 → s.granted p .UCI_LPBK_CTL m 0 v = true →
    bitsOf v.toNat 5 4 ≤ s.part.maxRate → (s.mod m).stage = .excluded → 2 ≤ bitsOf v.toNat 1 0 →
    exec (.lpbkStart p m w) s = .next (commit s (s.answered p (adr .UCI_LPBK_CTL m) v
      (((((s.plainWrite (pathNum p) .UCI_LPBK_CTL m 0 v).modMod m fun x =>
        { x with lpbk := some ⟨bitsOf v.toNat 1 0, bitsOf v.toNat 5 4, false⟩ }).setFlag (F.UCI_LPBK_STS_VALID m)
        false).setFlag (F.UCI_LPBK_STS_LPBK_ACTIVE m) true).startTraining m 1)))) ∧
  (∀ (m : Fin 12) e l s, (s.mod m).stage = .mbInit → (s.mod m).lpbk = some l →
    exec (.mainbandTrainingDone m e) s = .next (commit s (((s.setStage m .mbTrain).trainAt m l.rate).relock m))) ∧
  (∀ (m : Fin 12) e l s, (s.mod m).stage = .mbTrain → (s.mod m).lpbk = some l → repairExhausted e = true →
    exec (.mainbandTrainingDone m e) s = .next (commit s ((s.lpbkEnd m false 0 0).excludeMod m 4))) ∧
  (∀ (m : Fin 12) e l s, (s.mod m).stage = .mbTrain → (s.mod m).lpbk = some l → repairExhausted e = false →
    (∀ r, e.passes = some r → r.toNat < l.rate) →
    exec (.mainbandTrainingDone m e) s = .next (commit s ((s.recordRepairs m e).attemptFailed m))) ∧
  (∀ (m : Fin 12) e l r s, (s.mod m).stage = .mbTrain → (s.mod m).lpbk = some l → repairExhausted e = false →
    e.passes = some r → l.rate ≤ r.toNat → l.mode ≠ 2 →
    exec (.mainbandTrainingDone m e) s = .next (commit s (((s.recordRepairs m e).setStage m .loopback).modMod m fun x =>
      { x with lpbk := some { l with waiting := false } }))) ∧
  (∀ (m : Fin 12) e l r s u, (s.mod m).stage = .mbTrain → (s.mod m).lpbk = some l → repairExhausted e = false →
    e.passes = some r → l.rate ≤ r.toNat → l.mode = 2 →
    u = (((s.recordRepairs m e).setStage m .loopback).modMod m fun x =>
      { x with lpbk := some { l with waiting := true } }) →
    exec (.mainbandTrainingDone m e) s = .next (commit s
      (u.emit (.kyLpbk m.val true (u.fld (F.UCI_LPBK_CTL_DURATION m)) l.rate)))) ∧
  (∀ p (m : Fin 12) w v s, v = withBits w 31 30 2 → s.granted p .UCI_LPBK_CTL m 0 v = true →
    (s.part.maxRate < bitsOf v.toNat 5 4 ∨ (s.mod m).stage ≠ .excluded) →
    exec (.lpbkStart p m w) s = .next (commit s (s.turnedAway p (adr .UCI_LPBK_CTL m)))) ∧
  (∀ p (m : Fin 12) w v l s, v = withBits w 31 30 1 → s.granted p .UCI_LPBK_CTL m 0 v = true →
    bitsOf v.toNat 5 4 ≤ s.part.maxRate → (s.mod m).lpbk = some l →
    exec (.lpbkStop p m w) s = .next (commit s (s.answered p (adr .UCI_LPBK_CTL m) v
      (let t := s.plainWrite (pathNum p) .UCI_LPBK_CTL m 0 v
       (if (s.mod m).stage = .loopback ∧ l.mode = 2 then t.emit (.kyLpbk m.val false 0 0) else t).lpbkStop m)))) ∧
  (∀ (m : Fin 12) (lanes : BitVec 64) errors l s, (s.mod m).stage = .loopback → (s.mod m).lpbk = some l →
    l.waiting = false →
    exec (.loopbackDurationEnd m lanes errors) s = .next (commit s (s.lpbkEnd m false lanes.toNat errors))) ∧
  (∀ (s : State) (m : Fin 12) l r n e, (s.mod m).lpbk = some l →
    ((s.lpbkEnd m r n e).mod m).stage = .excluded ∧ ((s.lpbkEnd m r n e).mod m).lpbk = none) ∧
  (∀ (s : State) (m : Fin 12), s.lpbkRuns m = false → s.lpbkStop m = s.lpbkEnd m false 0 0)

/-- An RD, WR, WR_PART, WR_ZERO or FENCE message that is taken and passes every request check is tagged and enters the
device with the operands of its cells; a well sent one that the window of the throttle step has no room for waits in
the ingress buffer with its credits, and is judged there by the state its module had when it arrived (log entry 110).
Answers a next state for: rd, wr, wrPart, wrZero, fence. (R156, R158, R162, R165, R166, R168, R177, R178, R181, R182,
R184, R200.) -/
def Obligations.RequestsTakeTheirEntries : Prop :=
  (∀ (m : Fin 12) (cell : Fin 15) (h : BitVec 128) t s, s.takesReq m cell 1 0x21 h.toNat = true →
    t = (s.afterReq m cell 1).headerTxn m .rd h.toNat 0 0 →
    ((s.afterReq m cell 1).tagRequest t).admits t ((s.afterReq m cell 1).privTaken m h.toNat) = true →
    exec (.rd m cell h) s = .next (commit s (((s.afterReq m cell 1).tagRequest t).enter t))) ∧
  (∀ (m : Fin 12) (cell : Fin 15) (h : BitVec 128) d t s, s.takesReq m cell 5 0x22 h.toNat = true →
    t = (s.afterReq m cell 5).headerTxn m .wr h.toNat d (BitVec.allOnes 64) →
    ((s.afterReq m cell 5).tagRequest t).admits t ((s.afterReq m cell 5).privTaken m h.toNat) = true →
    exec (.wr m cell h d) s = .next (commit s ((((s.afterReq m cell 5).tagRequest t).userWrite t).enter t))) ∧
  (∀ (m : Fin 12) (cell : Fin 15) (h : BitVec 128) d be t s, s.takesReq m cell 6 0x23 h.toNat = true →
    t = (s.afterReq m cell 6).headerTxn m .wrPart h.toNat d be →
    ((s.afterReq m cell 6).tagRequest t).admits t ((s.afterReq m cell 6).privTaken m h.toNat) = true →
    exec (.wrPart m cell h d be) s = .next (commit s ((((s.afterReq m cell 6).tagRequest t).userWrite t).enter t))) ∧
  (∀ (m : Fin 12) (cell : Fin 15) (h : BitVec 128) t s, s.takesReq m cell 1 0x24 h.toNat = true →
    t = (s.afterReq m cell 1).headerTxn m .wrZero h.toNat 0 (BitVec.allOnes 64) →
    ((s.afterReq m cell 1).tagRequest t).admits t ((s.afterReq m cell 1).privTaken m h.toNat) = true →
    exec (.wrZero m cell h) s = .next (commit s ((((s.afterReq m cell 1).tagRequest t).userWrite t).enter t))) ∧
  (∀ (m : Fin 12) (cell : Fin 15) (h : BitVec 128) t u s, s.takesReq m cell 1 0x25 h.toNat = true →
    u = s.afterReq m cell 1 → t = u.headerTxn m .fence h.toNat 0 0 → u.serves = true → u.entryFree m = true →
    exec (.fence m cell h) s = .next (commit s (u.enter { t with stage := .fence }).settle)) ∧
  (∀ (m : Fin 12) (cell : Fin 15) (h : BitVec 128) d be u s, s.wellSent m cell 6 0x23 h.toNat = true →
    (s.mod m).ingress = [] → s.windowTakes m 6 = false → u = s.arrivedReq m cell 6 →
    exec (.wrPart m cell h d be) s = .next (commit s (u.modMod m fun y => { y with
      ingress := y.ingress ++ [⟨u.headerTxn m .wrPart h.toNat d be, u.privTaken m h.toNat, cell, 6,
        !s.flag (F.UCI_STS_EXCLUDED m)⟩] })))

/-- A memory request that is taken (RD, WR, WR_PART, WR_ZERO or FENCE) is answered UNAVAILABLE where the device does
not serve. A FENCE without a free entry gets RETRY. Of the others, one outside the address ranges gets UNMAPPED, one
to the service aperture that is not privileged or whose row does not take its operation PRIV; one that passes these
and that no injected answer meets gets RETRY without a free entry of the device or its channel (with a free hint, log
entry 36), UNAVAILABLE at an OFFLINE channel, RETIRED at a retired channel or, on an ONLINE one, a retired row, and
enters a DRAINING, QUIESCED or RETRAINING channel, where it is held. (R102, R115, R164, R177.) -/
def Obligations.RequestsAreRefusedInOrder : Prop :=
  ∀ (op : ReqOp) (m : Fin 12) (cell : Fin 15) (h : BitVec 128) (d : BitVec 512) (be : BitVec 64) t u p s,
    s.takesReq m cell (reqSize op) (reqCode op) h.toNat = true →
    t = (s.afterReq m cell (reqSize op)).headerTxn m op h.toNat (reqData op d) (reqMask op be) →
    u = (s.afterReq m cell (reqSize op)).tagRequest t → p = (s.afterReq m cell (reqSize op)).privTaken m h.toNat →
    (u.serves = false → exec (reqCmd op m cell h d be) s = .next (commit s (u.formReply t (.ack .unavailable 0)))) ∧
    (op = .fence → u.serves = true → u.entryFree m = false → exec (reqCmd op m cell h d be) s =
      .next (commit s (u.useFree.formReply t (.ack .retry (Config.freeNat u.free % 256))))) ∧
    (op ≠ .fence → u.serves = true →
      (inUser t.byteAddr = false → inAperture t.byteAddr = false →
        exec (reqCmd op m cell h d be) s = .next (commit s (u.formReply t (.ack .unmapped 0)))) ∧
      (inAperture t.byteAddr = true → (p = false ∨ serviceAllows op (locRow (u.txnPlace t).loc) = false) →
        exec (reqCmd op m cell h d be) s = .next (commit s (u.formReply t (.ack .priv 0)))) ∧
      (u.opens t p = true → u.injMatches t = false →
        ((u.entryFree m = false ∨ u.chanEntryFree (locCh (u.txnPlace t).loc) = false) →
          exec (reqCmd op m cell h d be) s =
            .next (commit s (u.useFree.formReply t (.ack .retry (Config.freeNat u.free % 256))))) ∧
        (u.entryFree m = true → u.chanEntryFree (locCh (u.txnPlace t).loc) = true →
          ((u.chan (locCh (u.txnPlace t).loc)).st = .offline → exec (reqCmd op m cell h d be) s =
            .next (commit s ((u.userWrite t).formReply t (.ack .unavailable 0)))) ∧
          ((u.chan (locCh (u.txnPlace t).loc)).st = .retired ∨
              ((u.chan (locCh (u.txnPlace t).loc)).st = .online ∧ u.rowRetired (u.txnPlace t).loc = true) →
            exec (reqCmd op m cell h d be) s = .next (commit s ((u.userWrite t).formReply t (.ack .retired 0)))) ∧
          ((u.chan (locCh (u.txnPlace t).loc)).st = .draining ∨ (u.chan (locCh (u.txnPlace t).loc)).st = .quiesced ∨
              (u.chan (locCh (u.txnPlace t).loc)).st = .retraining →
            exec (reqCmd op m cell h d be) s =
              .next (commit s ((u.userWrite t).enter { t with rowRetired := u.rowRetired (u.txnPlace t).loc }))))))

/-- A memory request of any operation and data with an unknown CLASS or OP or past the end of its flit is discarded
with its error, and with it the rest of the flit (log entry 91); a half cell that breaks its layout, a request before
the requester's INIT, beyond its credits or with a TAG in flight is discarded with the error of its kind (which of
them spends credits: log entry 34); in the rest of a discarded flit nothing is taken, and the credits of a request
there are spent and come back. A CFG_RD or CFG_WR cell is treated the same way: unknown, before either INIT, beyond
the CTL credits, or in the rest of a discarded flit. (R158, R165, R166, R167, R168, R170, R191, R192.) -/
def Obligations.BadMessagesAreProtocolErrors : Prop :=
  (∀ (op : ReqOp) (m : Fin 12) (cell : Fin 15) (h : BitVec 128) (d : BitVec 512) (be : BitVec 64) u s,
    (s.mod m).stage = .active → u = s.flitAt m cell →
    (s.skipped m cell = true → h.toNat % 256 = reqCode op →
      exec (reqCmd op m cell h d be) s = .next (commit s (s.spendReq m (reqSize op)))) ∧
    (s.skipped m cell = false →
      (requesterOp (h.toNat % 256) = false → h.toNat % 256 ≠ 0x42 → h.toNat % 256 ≠ 0x71 →
        exec (reqCmd op m cell h d be) s = .next (commit s (u.flitError m cell 1))) ∧
      ((h.toNat % 256 = 0x42 ∨ h.toNat % 256 = 0x71) → bitsOf h.toNat 127 64 ≠ 0 →
        bitsOf h.toNat 71 69 ≠ bitsOf h.toNat 7 5 →
        exec (reqCmd op m cell h d be) s = .next (commit s (u.protocolError m cell 3))) ∧
      (h.toNat % 256 = reqCode op → 15 < cell.val + reqSize op →
        exec (reqCmd op m cell h d be) s = .next (commit s ((u.spendReq m (reqSize op)).flitError m cell 2))) ∧
      (h.toNat % 256 = reqCode op → cell.val + reqSize op ≤ 15 →
        ((s.mod m).initOut = false →
          exec (reqCmd op m cell h d be) s = .next (commit s (u.protocolError m cell 6))) ∧
        ((s.mod m).initOut = true → (s.mod m).initIn = false →
          exec (reqCmd op m cell h d be) s = .next (commit s ((u.spendReq m (reqSize op)).protocolError m cell 6))) ∧
        ((s.mod m).initOut = true → (s.mod m).initIn = true → 2048 < (s.mod m).reqUsed + reqSize op →
          exec (reqCmd op m cell h d be) s = .next (commit s (u.protocolError m cell 4)))) ∧
      (s.wellSent m cell (reqSize op) (reqCode op) h.toNat = true → (s.mod m).ingress = [] →
        s.windowTakes m (reqSize op) = true → s.tagHeld m (bitsOf h.toNat 21 8) = true →
        exec (reqCmd op m cell h d be) s =
          .next (commit s (((u.arriveReq m (reqSize op)).admitCells m (reqSize op) false).protocolError m cell 5))))) ∧
  (∀ (m : Fin 12) (cell : Fin 15) (h : BitVec 128) i b u s, (i = .cfgRd m cell h ∧ b = 0x61 ∨ i = .cfgWr m cell h ∧ b = 0x62) →
    (s.mod m).stage = .active → u = s.flitAt m cell →
    (s.skipped m cell = true → exec i s = .next (commit s s)) ∧
    (s.skipped m cell = false →
      (requesterOp (h.toNat % 256) = false → h.toNat % 256 ≠ 0x42 → h.toNat % 256 ≠ 0x71 →
        exec i s = .next (commit s (u.flitError m cell 1))) ∧
      (h.toNat % 256 = b →
        (((s.mod m).initOut = false ∨ (s.mod m).initIn = false) →
          exec i s = .next (commit s (u.protocolError m cell 6))) ∧
        ((s.mod m).initOut = true → (s.mod m).initIn = true → 32 ≤ (s.mod m).ctlUsed →
          exec i s = .next (commit s (u.protocolError m cell 4)))))) ∧
  (∀ (s : State) (m : Fin 12) (cell code : Nat),
    s.flitError m cell code = (s.modMod m fun x => { x with skip := some (cell, s.now) }).protocolError m cell code)

/-- A valid INIT sets the requester's grants and one below the minimums is INIT_LOW; later CREDIT cells add; a CREDIT
cell 0 begins a new flit; freed REQ cells return in cells of at most 4,095, after the requests that wait in the
ingress buffer have been taken as the window allows; ready CTL messages leave before responses, two to a cell (log
entry 35), each spending its credits; responses leave in order, spending theirs, and none leaves without them. Answers
a next state for: credit, reqCreditReturn, responseTransmit. (R51, R167, R168, R169, R170, R171.) -/
def Obligations.CreditsAreGivenAndSpent : Prop :=
  (∀ (m : Fin 12) (cell : Fin 15) (h : BitVec 128) s, (s.mod m).stage = .active → h.toNat % 256 = 1 →
    s.skipped m cell = false → bitOf h.toNat 40 = true → 160 ≤ bitsOf h.toNat 31 20 → 2 ≤ bitsOf h.toNat 39 32 →
    exec (.credit m cell h) s = .next (commit s ((s.flitAt m cell).modMod m fun x =>
      { x with
        initIn := true
        rspCredit := if bitsOf h.toNat 31 20 = 0xFFF then none else some (bitsOf h.toNat 31 20)
        ctlCredit := if bitsOf h.toNat 39 32 = 0xFF then none else some (bitsOf h.toNat 39 32) }))) ∧
  (∀ (m : Fin 12) (cell : Fin 15) (h : BitVec 128) s, (s.mod m).stage = .active → h.toNat % 256 = 1 →
    s.skipped m cell = false → bitOf h.toNat 40 = true → (bitsOf h.toNat 31 20 < 160 ∨ bitsOf h.toNat 39 32 < 2) →
    exec (.credit m cell h) s = .next (commit s
      ((s.flitAt m cell).protocolError m cell 7))) ∧
  (∀ (m : Fin 12) (cell : Fin 15) (h : BitVec 128) s, (s.mod m).stage = .active → h.toNat % 256 = 1 →
    s.skipped m cell = false → bitOf h.toNat 40 = false →
    exec (.credit m cell h) s = .next (commit s ((s.flitAt m cell).modMod m fun x =>
      { x with
        rspCredit := x.rspCredit.map (· + bitsOf h.toNat 31 20)
        ctlCredit := x.ctlCredit.map (· + bitsOf h.toNat 39 32) }))) ∧
  (∀ (m : Fin 12) s u, u = s.drainIngress m → (u.mod m).stage = .active → (u.mod m).reqFreed ≠ 0 →
    exec (.reqCreditReturn m) s = .next (commit s
      ((u.modMod m fun x => { x with reqUsed := x.reqUsed - min 4095 (u.mod m).reqFreed,
                                     reqFreed := x.reqFreed - min 4095 (u.mod m).reqFreed }).emit
        (.credit m.val false 0 0 (min 4095 (u.mod m).reqFreed))))) ∧
  (∀ (m : Fin 12) s, (s.mod m).stage.carries = true → (s.mod m).initIn = true → (s.mod m).ctlOut ≠ [] →
    hasCredit (s.mod m).ctlCredit 1 = true →
    exec (.responseTransmit m) s = .next (commit s
      (((((s.mod m).ctlOut.take 2).foldl State.emit (s.modMod m fun y =>
        { y with ctlOut := y.ctlOut.drop 2, ctlCredit := lessCredit y.ctlCredit 1,
                 ctlUsed := y.ctlUsed - ((s.mod m).ctlOut.take 2).length })).emit
          (.credit m.val false ((s.mod m).ctlOut.take 2).length 0 0)).countGl 0xA 1 (some m.val)))) ∧
  (∀ (m : Fin 12) l n s, (s.mod m).stage.carries = true → (s.mod m).initIn = true → (s.mod m).ctlOut = [] →
    firstMessages (s.mod m).egress = (l, n) → l ≠ [] → hasCredit (s.mod m).rspCredit n = true →
    exec (.responseTransmit m) s = .next (commit s
      ((l.foldl (fun t o => t.sendRsp m o) (s.modMod m fun y =>
        { y with egress := y.egress.drop l.length, rspCredit := lessCredit y.rspCredit n })).countGl 0xA 1 (some m.val)))) ∧
  (∀ (m : Fin 12) s, (s.mod m).ctlOut = [] →
    hasCredit (s.mod m).rspCredit (firstMessages (s.mod m).egress).2 = false →
    exec (.responseTransmit m) s = .next (commit s s))

/-- A CFG_RD or CFG_WR message at an ACTIVE module that is not excluded, with both INITs done and a CTL credit left,
outside the rest of a discarded flit, spends a CTL credit, accesses the register it names on the path of its module
and PRIVREQ, and is answered on that path: a served read of a plain register with OK and its value, a granted write of
one with its fields applied and OK, each as a CFG_CPL queued for the module. Answers a next state for: cfgRd, cfgWr.
(R173, R174, R175.) -/
def Obligations.ConfigurationMessagesAccessRegisters : Prop :=
  (∀ (m : Fin 12) (cell : Fin 15) (h : BitVec 128) t s, (s.mod m).stage = .active → s.flag (F.UCI_STS_EXCLUDED m) = false →
      (s.mod m).initOut = true → (s.mod m).initIn = true → (s.mod m).ctlUsed < 32 → s.skipped m cell = false →
      t = ((s.flitAt m cell).modMod m fun y => { y with ctlUsed := y.ctlUsed + 1 }) →
      (h.toNat % 256 = 0x61 →
        exec (.cfgRd m cell h) s = .next (commit s
          (finish (.ctl m (bitOf h.toNat 36)) (4 * bitsOf h.toNat 61 40) false (.ctl m (bitsOf h.toNat 21 8))
            (t.access (.ctl m (bitOf h.toNat 36)) (4 * bitsOf h.toNat 61 40) false (BitVec.ofNat 32 (bitsOf h.toNat 127 96))
              Given.plain (.ctl m (bitsOf h.toNat 21 8)))))) ∧
      (h.toNat % 256 = 0x62 →
        exec (.cfgWr m cell h) s = .next (commit s
          (finish (.ctl m (bitOf h.toNat 36)) (4 * bitsOf h.toNat 61 40) true (.ctl m (bitsOf h.toNat 21 8))
            (t.access (.ctl m (bitOf h.toNat 36)) (4 * bitsOf h.toNat 61 40) true (BitVec.ofNat 32 (bitsOf h.toNat 127 96))
              Given.plain (.ctl m (bitsOf h.toNat 21 8))))))) ∧
  (∀ (m : Fin 12) (cell : Fin 15) (h : BitVec 128) t r u i w p s, (s.mod m).stage = .active → s.flag (F.UCI_STS_EXCLUDED m) = false →
      (s.mod m).initOut = true → (s.mod m).initIn = true → (s.mod m).ctlUsed < 32 → s.skipped m cell = false →
      t = ((s.flitAt m cell).modMod m fun y => { y with ctlUsed := y.ctlUsed + 1 }) →
    p = .ctl m (bitOf h.toNat 36) → plainReg r = true → 4 * bitsOf h.toNat 61 40 = adr r u i →
    w = BitVec.ofNat 32 (bitsOf h.toNat 127 96) →
    (h.toNat % 256 = 0x61 → t.readable p r u i = true → exec (.cfgRd m cell h) s = .next (commit s
      ((t.noteAccess (t.life.session != 0 && t.life.sessPath == pathNum p) (pathNum p) false (adr r u i) w).complete
        (pathNum p) (adr r u i) false (.ctl m (bitsOf h.toNat 21 8)) .ok (t.view (pathNum p) (pathHalf p) r u i)))) ∧
    (h.toNat % 256 = 0x62 → t.granted p r u i w = true → exec (.cfgWr m cell h) s = .next (commit s
      ((t.taken p (adr r u i) w (t.plainWrite (pathNum p) r u i w)).complete (pathNum p) (adr r u i) true
        (.ctl m (bitsOf h.toNat 21 8)) .ok 0)))) ∧
  (∀ (s : State) (m : Fin 12) n a wr tag st d, s.flag (F.UCI_STS_EXCLUDED m) = false →
    s.complete n a wr (.ctl m tag) st d = s.modMod m fun x => { x with ctlOut := x.ctlOut ++ [.cfgCpl m tag st d] })

/-- 50 us after its acceptance a request without a response is answered TIMEOUT and counted, once, also while its
channel works on it; an injected timeout is answered without the count; arming transport injection clears INJECTED
where it was not armed, and an ARM with a reserved combination completes IGNORED. Answers a next state for:
requestDeadline, xptInjArm. (R188, R193, R194.) -/
def Obligations.DeadlinesAndInjection : Prop :=
  (∀ (m : Fin 12) (tag : BitVec 14) t s, s.findTxn m tag.toNat = some t → t.stage ≠ .injTimeout → t.stage.working = false →
    exec (.requestDeadline m tag) s = .next (commit s
      ((((s.advanceTo (t.t0 + 50000)).reply t (.ack .timeout 0)).bumpBoth F.XPT_TIMEOUT_CNT_TIMEOUTS).raise 37
        (modBit m)))) ∧
  (∀ (m : Fin 12) (tag : BitVec 14) t s, s.findTxn m tag.toNat = some t → t.stage.working = true →
    exec (.requestDeadline m tag) s = .next (commit s
      (((((s.advanceTo (t.t0 + 50000)).setTxn t { t with answered := true }).reply t (.ack .timeout 0)).bumpBoth
        F.XPT_TIMEOUT_CNT_TIMEOUTS).raise 37 (modBit m)))) ∧
  (∀ (m : Fin 12) (tag : BitVec 14) t s, s.findTxn m tag.toNat = some t → t.stage = .injTimeout →
    exec (.requestDeadline m tag) s = .next (commit s ((s.advanceTo (t.t0 + 50000)).reply t (.ack .timeout 0)))) ∧
  (∀ p w v s, v = withBits w 31 31 1 → s.granted p .XPT_INJ_CTL 0 0 v = true →
    (bitsOf v.toNat 27 24 ≠ 1 ∨ bitsOf v.toNat 11 10 = 0) →
    exec (.xptInjArm p w) s = .next (commit s (s.answered p (adr .XPT_INJ_CTL) v
      ((if s.flag F.XPT_INJ_CTL_ARM then s else s.setBoth F.XPT_INJ_CTL_INJECTED 0).plainWrite (pathNum p) .XPT_INJ_CTL 0 0
        v)))) ∧
  (∀ p w v s, v = withBits w 31 31 1 → s.granted p .XPT_INJ_CTL 0 0 v = true →
    bitsOf v.toNat 27 24 = 1 → bitsOf v.toNat 11 10 ≠ 0 →
    exec (.xptInjArm p w) s = .next (commit s (s.turnedAway p (adr .XPT_INJ_CTL))))

/-- Words 0 to 2 of a flow context go to its shadow, which word 2 arms; HOST_STEP is written; a device-wide fence
marks the requests it waits for and is refused while one runs. Answers a next state for: flowCtxWord0Write,
flowCtxWord1Write, flowCtxWord2Write, qosThrottleWrite, qosFenceGo. (R76, R197, R219, R220.) -/
def Obligations.FlowContextsAndTheHostSteer : Prop :=
  (∀ p (f : BitVec 12) w old s, s.granted p .FLOW_W0 0 f.toNat w = true →
    old = (s.flowShadows.get (fun _ => none) f.toNat).getD ⟨s.reg (flowAddr f.toNat 0), s.reg (flowAddr f.toNat 1),
      s.reg (flowAddr f.toNat 2), false, pathNum p⟩ →
    exec (.flowCtxWord0Write p f w) s = .next (commit s (s.answered p (adr .FLOW_W0 0 f.toNat) w
      { s with flowShadows := s.flowShadows.set (fun _ => none) f.toNat (some { old with w0 := w }) }))) ∧
  (∀ p (f : BitVec 12) w old s, s.granted p .FLOW_W1 0 f.toNat w = true →
    old = (s.flowShadows.get (fun _ => none) f.toNat).getD ⟨s.reg (flowAddr f.toNat 0), s.reg (flowAddr f.toNat 1),
      s.reg (flowAddr f.toNat 2), false, pathNum p⟩ →
    exec (.flowCtxWord1Write p f w) s = .next (commit s (s.answered p (adr .FLOW_W1 0 f.toNat) w
      { s with flowShadows := s.flowShadows.set (fun _ => none) f.toNat (some { old with w1 := w }) }))) ∧
  (∀ p (f : BitVec 12) w old s, s.granted p .FLOW_W2 0 f.toNat w = true →
    old = (s.flowShadows.get (fun _ => none) f.toNat).getD ⟨s.reg (flowAddr f.toNat 0), s.reg (flowAddr f.toNat 1),
      s.reg (flowAddr f.toNat 2), false, pathNum p⟩ →
    exec (.flowCtxWord2Write p f w) s = .next (commit s (s.answered p (adr .FLOW_W2 0 f.toNat) w
      { s with flowShadows := s.flowShadows.set (fun _ => none) f.toNat
                (some { old with w2 := w, armed := true, path := pathNum p }) }))) ∧
  (∀ p w s, s.granted p .QOS_THROTTLE 0 0 w = true →
    exec (.qosThrottleWrite p w) s = .next (commit s (s.answered p (adr .QOS_THROTTLE) w
      (s.plainWrite (pathNum p) .QOS_THROTTLE 0 0 w)))) ∧
  (∀ p t s, s.granted p .QOS_FENCE 0 0 0x40000000#32 = true → s.flag F.QOS_FENCE_BUSY = false →
    t = (s.setBoth F.QOS_FENCE_VALID 0).setBoth F.QOS_FENCE_BUSY 1 →
    exec (.qosFenceGo p) s = .next (commit s (s.answered p (adr .QOS_FENCE) 0x40000000#32
      ({ t with qosFence := some t.now, txns := t.txns.map fun (x : Txn) => { x with pre := !x.answered } } : State).settle))) ∧
  (∀ p s, s.granted p .QOS_FENCE 0 0 0x40000000#32 = true → s.flag F.QOS_FENCE_BUSY = true →
    exec (.qosFenceGo p) s = .next (commit s (s.turnedAway p (adr .QOS_FENCE))))

/-- A window boundary runs the boundary sequence in the order of the manual (log entry 39); the fabric serves the
request of the highest rank that waits; one over its cap waits, one with a guaranteed token spends it and one without
is excess; a bulk excess request is promoted at starvation age; the floor is recomputed when stale; an urgency level
is taken where three samples agree (the model's two notices: log entry 94) and, with both wires of a pair, both agree,
unless masked; a wire held too long is masked and raises URG_STUCK. Answers a next state for: qosWindowBoundary,
requestClassify, bulkStarvePromote, floorRecompute, urgWireChange, urgStuckTimeout. (R199, R200, R201, R202, R206,
R209, R211, R212, R214, R215, R216, R218.) -/
def Obligations.QosWindowsAndClassification : Prop :=
  (∀ s, exec .qosWindowBoundary s = .next (commit s
    ((((s.advanceToMultiple 1000).countMisses.putDeliverable.applyLower.admitRaises).putSum.putExceeded.putScales.refillAll
      ).releaseCapped))) ∧
  (∀ (m : Fin 12) (tag : BitVec 14) t s, s.findTxn m tag.toNat = some t → t.stage = .accepted → s.fabricTurn t = true →
    s.maxRate t.flow ≠ 0 → s.caps.get (fun _ => 0) (bucket t) < 16 →
    exec (.requestClassify m tag) s = .next (commit s (s.setTxn t { t with stage := .capWait }))) ∧
  (∀ (m : Fin 12) (tag : BitVec 14) t s, s.findTxn m tag.toNat = some t → t.stage = .accepted → s.fabricTurn t = true → s.maxRate t.flow = 0 →
    s.guar.get (fun _ => 0) (bucket t) < 16 →
    exec (.requestClassify m tag) s = .next (commit s
      (let u := s.countGl 8 1 (some m.val) (some t.flow)
       let v := if halfOfMod m = halfOfChan (locCh (s.txnPlace t).loc) then u else u.countGl 0xD 1 (some m.val) (some t.flow)
       ((v.setTxn t { t with guaranteed := false }).tagMod t fun g =>
         { g with dFabric := some (s.now - t.t0), guar := false }).arrive { t with guaranteed := false }))) ∧
  (∀ (m : Fin 12) (tag : BitVec 14) t s, s.findTxn m tag.toNat = some t → t.stage = .accepted → s.fabricTurn t = true → s.maxRate t.flow = 0 →
    16 ≤ s.guar.get (fun _ => 0) (bucket t) →
    exec (.requestClassify m tag) s = .next (commit s
      (let w : State := { s with guar := s.guar.set (fun _ => 0) (bucket t) (s.guar.get (fun _ => 0) (bucket t) - 16) }
       let u := w.countGl 7 1 (some m.val) (some t.flow)
       let v := if halfOfMod m = halfOfChan (locCh (s.txnPlace t).loc) then u else u.countGl 0xD 1 (some m.val) (some t.flow)
       ((v.setTxn t { t with guaranteed := true }).tagMod t fun g =>
         { g with dFabric := some (s.now - t.t0), guar := true }).arrive { t with guaranteed := true }))) ∧
  (∀ (m : Fin 12) (tag : BitVec 14) t s, s.findTxn m tag.toNat = some t → s.fld F.QOS_ARB_CFG_STARVE_US ≠ 0 →
    t.op ≠ .fence → t.guaranteed = false → s.flowClass t.flow = 2 →
    exec (.bulkStarvePromote m tag) s = .next (commit s
      ((s.advanceTo (t.t0 + 1000 * s.fld F.QOS_ARB_CFG_STARVE_US)).setTxn t { t with starved := true }))) ∧
  (∀ s, s.floorStale = true →
    exec .floorRecompute s = .next (commit s
      { ((s.setBoth F.QOS_FLOOR_FLOOR s.floorValue).setBoth F.QOS_FLOOR_VALID 1).putExceeded with floorStale := false })) ∧
  (∀ (m : Fin 12) (tag : BitVec 14) t s, s.findTxn m tag.toNat = some t → t.stage = .accepted → s.fabricTurn t = false →
    exec (.requestClassify m tag) s = .next (commit s s)) ∧
  (∀ (x : BitVec 8) level s, s.fld F.QOS_URG_STS_STUCK = 0 → s.flag (liveFld 38) = false →
    level = (List.range 8).foldl (fun a w => if s.urgTaken x.toNat w then a + 2 ^ w else a) 0 →
    exec (.urgWireChange x) s = .next (commit s
      (({ s.setBoth F.QOS_URG_STS_LEVEL level with
          pins := { s.pins with urgRaw := x.toNat, urgOld := s.pins.urgRaw }
          urgSince := (List.range 8).foldl (fun d w => d.set (fun _ => none) w
            (if bitOf level w then some ((s.urgSince.get (fun _ => none) w).getD s.now) else none)) [] } :
              State).setBoth F.QOS_URG_STS_STUCK 0))) ∧
  (∀ (w : Fin 8) t0 t s, s.urgSince.get (fun _ => none) w.val = some t0 → bitOf (s.fld F.QOS_URG_STS_STUCK) w = false →
    t = s.advanceTo (t0 + 1000000 * s.fld F.QOS_URG_CFG_STUCK_MS) →
    exec (.urgStuckTimeout w) s = .next (commit s
      ((t.setBoth F.QOS_URG_STS_STUCK (t.fld F.QOS_URG_STS_STUCK + 2 ^ w.val)).raiseCond 38 (2 ^ w.val))))

/-- The request of the highest rank that nothing blocks becomes a Lagoon hit where its row is resident, a promotion
where its score, the program's requests and a victim allow, one that waits for its refresh where a close refuses it, a
sector access otherwise; a read of an unwritten extent whose zero-fill has not started returns zeros without touching
the array; a blocked or lower-ranked request stays (a later request also behind an injected TIMEOUT to its sector: log
entry 113). (R222, R229, R231, R232, R235, R245, R249, R178.) -/
def Obligations.SchedulersTakeRequestsUp : Prop :=
  (∀ (m : Fin 12) (tag : BitVec 14) t u x c s, s.findAt m tag.toNat (· == .queued) = some t → s.blocked t = false →
    s.bankTurn t = true → t.rowRetired = false → ¬ (t.op = .wrPart ∧ t.be = 0 ∧ t.metaEn = false) → x = s.txnPlace t →
    c = locCh x.loc →
    u = (s.tagMod t fun g => { g with dChannel := some (g.dChannel.getD (s.now - t.t0)) }).useMap x.loc →
    (u.chan c).st ≠ .offline → u.rowWaits x.loc (t.op != .rd) = false → u.written x.loc = true →
    (∀ i, u.findSlot x.loc = some i →
      exec (.schedulerTakeUp m tag) s = .next (commit s (u.setTxn t { t with stage := .hit }))) ∧
    (u.findSlot x.loc = none → ((u.chan c).victim = none ∨ u.promotes x.loc = false) →
      exec (.schedulerTakeUp m tag) s = .next (commit s (u.setTxn t { t with stage := .sector }))) ∧
    (∀ i, u.findSlot x.loc = none → (u.chan c).victim = some i → u.promotes x.loc = true →
      (u.chan c).closing (locCbi x.loc) = false →
      exec (.schedulerTakeUp m tag) s = .next (commit s (u.setTxn t { t with stage := .promoting }))) ∧
    (∀ i, u.findSlot x.loc = none → (u.chan c).victim = some i → u.promotes x.loc = true →
      (u.chan c).closing (locCbi x.loc) = true →
      exec (.schedulerTakeUp m tag) s = .next (commit s (u.setTxn t { t with stage := .afterRefresh })))) ∧
  (∀ (m : Fin 12) (tag : BitVec 14) t u x c s, s.findAt m tag.toNat (· == .queued) = some t → s.blocked t = false →
    s.bankTurn t = true → t.rowRetired = false → t.op = .rd → t.inject = false → x = s.txnPlace t → c = locCh x.loc →
    u = (s.tagMod t fun g => { g with dChannel := some (g.dChannel.getD (s.now - t.t0)) }).useMap x.loc →
    (u.chan c).st ≠ .offline → u.rowWaits x.loc false = false → u.written x.loc = false →
    ((u.chan c).fills.any fun f => f.extent == locExtent x.loc) = false →
    exec (.schedulerTakeUp m tag) s = .next (commit s (u.reply t (.data .ok false true false 0 0)))) ∧
  (∀ (m : Fin 12) (tag : BitVec 14) t s, s.findAt m tag.toNat (· == .queued) = some t →
    (s.blocked t = true ∨ s.bankTurn t = false) →
    exec (.schedulerTakeUp m tag) s = .next (commit s s))

/-- A hit is performed in its slot and counted, in its bank's turn; one whose row left the Lagoon, or a write whose
slot is EVICTING, queues again. A sector request that a vertical cycle has launched transfers: a read is answered, a
write lands, a WR_PART reads and merges first and writes in a cycle of its own; one not launched waits. The claim of
requests in a cycle launches the waiting ones that no program goes before, in the order of their rank: each needs the
cycle's direction and a free place of its sector's lane; it joins a row part already activated, or activates its row
where its bank is open, has no other row in the cycle and the budget has one unit left, which is charged; without the
budget the stall is noted. A promotion in a cycle with nothing in it falls back to a sector access without a victim,
waits for a close, or launches its move-in, 4 units, where its victim is not DIRTY; a full cycle takes nothing more,
and a promotion joins no cycle that has a sector in it. Answers a next state for: lagoonHit, sectorCycle. (R182, R183,
R184, R207, R222, R230, R234, R235, R236, R239, R240, R245.) -/
def Obligations.RequestsArePerformed : Prop :=
  (∀ (m : Fin 12) (tag : BitVec 14) t s, s.findAt m tag.toNat (· == .hit) = some t → s.blocked t = false →
    s.servable t = true → s.portTurn t = true →
    exec (.lagoonHit m tag) s = .next (commit s
      ((s.countCh (locCh (s.txnPlace t).loc) 4 1 (some t.m) (some t.flow)).perform t 0 true))) ∧
  (∀ (m : Fin 12) (tag : BitVec 14) t s, s.findAt m tag.toNat (· == .hit) = some t → s.blocked t = false →
    s.findSlot (s.txnPlace t).loc = none →
    exec (.lagoonHit m tag) s = .next (commit s (s.setTxn t { t with stage := .queued }))) ∧
  (∀ (m : Fin 12) (tag : BitVec 14) t i s, s.findAt m tag.toNat (· == .hit) = some t → s.blocked t = false →
    s.findSlot (s.txnPlace t).loc = some i → (s.slot (locCh (s.txnPlace t).loc) i).state = .evicting → t.op ≠ .rd →
    exec (.lagoonHit m tag) s = .next (commit s (s.setTxn t { t with stage := .queued }))) ∧
  (∀ (m : Fin 12) (tag : BitVec 14) t u x s, s.findAt m tag.toNat (· == .sector) = some t → t.launched = true →
    x = s.txnPlace t → u = (s.countCh (locCh x.loc) 5 1 (some t.m) (some t.flow)).cycleServed x.loc →
    (t.op = .rd → exec (.sectorCycle m tag) s = .next (commit s (u.performRead t 1 false))) ∧
    (t.op ≠ .rd → (t.wholeWrite = true ∨ t.merged ≠ none) →
      exec (.sectorCycle m tag) s = .next (commit s (u.performWrite t 1))) ∧
    (t.wholeWrite = false → t.merged = none →
      exec (.sectorCycle m tag) s = .next (commit s ((u.partRead t).1.setTxn t
        { t with launched := false, merged := some (u.partRead t).2 })))) ∧
  (∀ (m : Fin 12) (tag : BitVec 14) t s, s.findAt m tag.toNat (· == .sector) = some t → t.launched = false →
    exec (.sectorCycle m tag) s = .next (commit s s)) ∧
  (∀ (c : Nat) (s : State), (s.requestClaim c).1 =
      (((s.waitingCycles c).filter (s.beforeProgs c)).foldl (packOne c) ⟨s, none, [], [], false⟩).st ∧
    ((s.requestClaim c).2 = true ↔
      (((s.waitingCycles c).filter (s.beforeProgs c)).foldl (packOne c) ⟨s, none, [], [], false⟩).full = true ∨
      (((s.waitingCycles c).filter (s.beforeProgs c)).foldl (packOne c) ⟨s, none, [], [], false⟩).lanes ≠ [])) ∧
  (∀ (c : Nat) (k : Cycle) t x up seg, k.full = false → t.stage = .sector → x = k.st.txnPlace t → seg = (x.loc, x.sector / 8) →
    up = (t.op == .rd || (!t.wholeWrite && t.merged.isNone)) →
    ((k.dir = some (!up) ∨ x.sector ∈ k.lanes) → packOne c k t = k) ∧
    (k.dir ≠ some (!up) → x.sector ∉ k.lanes →
      (seg ∈ k.acts → packOne c k t =
        { k with st := k.st.grantTxn t { t with launched := true }, lanes := x.sector :: k.lanes }) ∧
      (seg ∉ k.acts → ((∃ a ∈ k.acts, locCbi a.1 = locCbi x.loc) ∨ k.st.bankOpen x.loc = false) → packOne c k t = k) ∧
      (seg ∉ k.acts → (∀ a ∈ k.acts, locCbi a.1 ≠ locCbi x.loc) → k.st.bankOpen x.loc = true →
        (k.st.fitsBudget c 1 = false → packOne c k t = { k with st := k.st.stall c (some t.m, some t.flow) }) ∧
        (k.st.fitsBudget c 1 = true → packOne c k t =
          ⟨(k.st.activate x.loc 1 (some t.m, some t.flow)).grantTxn t { t with launched := true }, some up,
            x.sector :: k.lanes, seg :: k.acts, false⟩)))) ∧
  (∀ (c : Nat) (k : Cycle) t, k.full = true ∨ (t.stage = .promoting ∧ k.lanes ≠ []) → packOne c k t = k) ∧
  (∀ (c : Nat) (k : Cycle) t loc, k.full = false → t.stage = .promoting → k.lanes = [] → loc = (k.st.txnPlace t).loc →
    ((k.st.chan (locCh loc)).victim = none →
      packOne c k t = { k with st := k.st.setTxn t { t with stage := .sector }, full := false }) ∧
    (∀ i, (k.st.chan (locCh loc)).victim = some i → (k.st.chan (locCh loc)).closing (locCbi loc) = true →
      packOne c k t = { k with st := k.st.setTxn t { t with stage := .afterRefresh }, full := false }) ∧
    (∀ i, (k.st.chan (locCh loc)).victim = some i → (k.st.chan (locCh loc)).closing (locCbi loc) = false →
      (k.st.slot (locCh loc) i).state ≠ .dirty → k.st.rowInCycle loc = false → k.st.bankOpen loc = true →
      k.st.fitsBudget (locCh loc) 4 = true →
      packOne c k t = { k with
        st := (k.st.grantTxn t { t with stage := .moveIn i }).launchMoveIn (locCh loc) i loc (some t.m, some t.flow), full := true }))

/-- With no upset, out of FATAL and where no program goes first, a vertical cycle takes up a step of an export that
takes it whole, else it goes to the first of the claims, in the placement order, that can use it, and an idle one is
counted; in FATAL, or where a program goes first (log entry 102: the program's cycle comes by its instruction), it
does nothing; an upset of the scheduler's records raises CH_SCHED (log entry 33). A move-in's transfer that ends
serves the read that caused it, a host's or a program's; its end fills the slot with the array's row and frees the
requests that waited, in their order of arrival; a move-out's precharge writes its snapshot back, emptying an EVICTING
slot and leaving a CLEANING one CLEAN or DIRTY by REDIRTY; in FATAL none of these happens; history halves after its
period; a finished zero-fill marks its extent written and releases its requests. Answers a next state for:
verticalCycleSchedule, moveInTransferEnd, moveInDone, moveOutPrecharge, histDecay, zeroFillComplete. (R228, R230,
R233, R234, R236, R245, R249, R445, R451, R506, R529.) -/
def Obligations.SlotsFillAndEmpty : Prop :=
  (∀ (c : Fin 32) s u a b d e f g h, (s.chan c).upset = 0 → s.mode ≠ .fatal → s.progLeads c = false → u = s.exportNext c →
    a = (u.nextCycle c).closeClaim c → b = a.1.fillClaim c → d = b.1.requestClaim c →
    e = d.1.bufferClaim c → f = e.1.commandedClaim c → g = f.1.forcedClean c → h = g.1.idleClean c →
    ((u.chan c).lastVc ≠ (s.chan c).lastVc → exec (.verticalCycleSchedule c) s = .next (commit s u)) ∧
    ((u.chan c).lastVc = (s.chan c).lastVc →
      (a.2 = true → exec (.verticalCycleSchedule c) s = .next (commit s a.1)) ∧
      (a.2 = false → b.2 = true → exec (.verticalCycleSchedule c) s = .next (commit s b.1)) ∧
      (a.2 = false → b.2 = false → d.2 = true → exec (.verticalCycleSchedule c) s = .next (commit s d.1)) ∧
      (a.2 = false → b.2 = false → d.2 = false → e.2 = true → exec (.verticalCycleSchedule c) s = .next (commit s e.1)) ∧
      (a.2 = false → b.2 = false → d.2 = false → e.2 = false → f.2 = true →
        exec (.verticalCycleSchedule c) s = .next (commit s f.1)) ∧
      (a.2 = false → b.2 = false → d.2 = false → e.2 = false → f.2 = false → g.2 = true →
        exec (.verticalCycleSchedule c) s = .next (commit s g.1)) ∧
      (a.2 = false → b.2 = false → d.2 = false → e.2 = false → f.2 = false → g.2 = false → h.2 = true →
        exec (.verticalCycleSchedule c) s = .next (commit s h.1)) ∧
      (a.2 = false → b.2 = false → d.2 = false → e.2 = false → f.2 = false → g.2 = false → h.2 = false →
        exec (.verticalCycleSchedule c) s = .next (commit s (h.1.countCh c 0x11))))) ∧
  (∀ (c : Fin 32) s, (s.chan c).upset = 0 → (s.mode = .fatal ∨ s.progLeads c = true) →
    exec (.verticalCycleSchedule c) s = .next (commit s s)) ∧
  (∀ (c : Fin 32) s, (s.chan c).upset ≠ 0 → exec (.verticalCycleSchedule c) s = .next (commit s
    ((s.modChan c fun x => { x with upset := 0 }).raise (128 + 4 * c + 3) (s.chan c).upset))) ∧
  (∀ (c : Fin 32) (k : Fin 64) u s, (s.slot c k).state = .filling → s.mode ≠ .fatal →
    u = s.mapWants (Want.transferred (s.slot c k).loc) →
    (∀ t, (u.txns.find? fun y => y.stage == .moveIn k && u.txnIn c y && y.op == .rd) = some t →
      exec (.moveInTransferEnd c k) s = .next (commit s (u.performRead t 2 false))) ∧
    ((u.txns.find? fun y => y.stage == .moveIn k && u.txnIn c y && y.op == .rd) = none →
      exec (.moveInTransferEnd c k) s = .next (commit s u))) ∧
  (∀ (c : Fin 32) (k : Fin 64) u v s, (s.slot c k).state = .filling → s.mode ≠ .fatal → u = s.moveInTransferEnd c k →
    v = (u.setSlot c k { u.slot c k with state := .clean, data := u.arrayRow (u.slot c k).loc, last := u.now }).mapWants
      (Want.filledBy (u.slot c k).loc) →
    exec (.moveInDone c k) s = .next (commit s { v with txns := v.txns.map (v.fillTxn c k (u.slot c k).loc) })) ∧
  (∀ (v : State) (c i loc : Nat) t,
    ((v.txnIn c t = true ∧ t.op ≠ .fence ∧ (t.stage = .moveIn i ∨ (t.stage = .queued ∧ (v.txnPlace t).loc = loc))) →
      v.fillTxn c i loc t = { t with stage := .queued, filled := true }) ∧
    (¬ (v.txnIn c t = true ∧ t.op ≠ .fence ∧ (t.stage = .moveIn i ∨ (t.stage = .queued ∧ (v.txnPlace t).loc = loc))) →
      v.fillTxn c i loc t = t)) ∧
  (∀ (c : Fin 32) (k : Fin 64) s, s.mode ≠ .fatal → (s.slot c k).state = .evicting →
    exec (.moveOutPrecharge c k) s = .next (commit s
      ((s.setArrayRow (s.slot c k).loc (s.slot c k).snap).setSlot c k Slot.empty))) ∧
  (∀ (c : Fin 32) (k : Fin 64) s, s.mode ≠ .fatal → (s.slot c k).state = .cleaning →
    exec (.moveOutPrecharge c k) s = .next (commit s
      ((s.setArrayRow (s.slot c k).loc (s.slot c k).snap).setSlot c k
        { s.slot c k with state := if (s.slot c k).redirty then .dirty else .clean, redirty := false, snap := [] }))) ∧
  (∀ (c : Fin 32) (k : Fin 64) s, s.mode = .fatal →
    exec (.moveOutPrecharge c k) s = .next (commit s s) ∧ exec (.moveInTransferEnd c k) s = .next (commit s s) ∧
    exec (.moveInDone c k) s = .next (commit s s)) ∧
  (∀ (c : Fin 32) s u, u = s.advanceTo ((s.chan c).histAt + 500 * 2 ^ s.fld (F.LAG_CFG_HIST_DECAY c)) →
    exec (.histDecay c) s = .next (commit s (u.modChan c fun x =>
      { x with hist := x.hist.map fun e => (e.1, e.2 / 2), histAt := u.now }))) ∧
  (∀ (c : Fin 32) f u s, s.mode ≠ .fatal → (s.chan c).fills.find? (fun f => f.launched == 16) = some f →
    ((s.useMapWord c f.extent).chan c).st ≠ .offline →
    u = (((s.useMapWord c f.extent).markExtent c f.extent true).modChan c fun x =>
      { x with fills := x.fills.filter fun g => g.extent != f.extent }) →
    exec (.zeroFillComplete c) s = .next (commit s
      { u with txns := u.txns.map fun t =>
                if t.stage = .waitFill ∧ u.txnIn c t ∧ locExtent (u.txnPlace t).loc = f.extent then
                  { t with stage := .queued } else t }))

/-- GO of GLB_DIE_RST with every channel of the tier out of traffic starts a die reset, which is released 2 us on,
becomes ready and hands channels back, or times out and fences the die; either end lets the RECOVERs of the tier that
waited go on; WRITEBACK_ALL and DISCARD_FENCED are accepted in their states; DISCARD_FENCED elsewhere completes
IGNORED; a LAG_CTL action ends when its slots are done. Answers a next state for: glbDieRstGo, coreDieResetRelease,
dieResetReady, dieResetReadyTimeout, writebackAll, discardFenced, lagActionEnd. (R250, R251, R252, R253, R255, R256,
R257, R258.) -/
def Obligations.DiesAreResetAndSlotsCommanded : Prop :=
  (∀ p (d : Fin 16) v s, v = BitVec.ofNat 32 (2 ^ 31 + d.val) → s.granted p .GLB_DIE_RST 0 0 v = true → s.serves = true →
    s.flag F.GLB_DIE_RST_BUSY = false →
    (∀ j < 8, (s.chan (8 * (d.val / 4) + j)).st.resettable = true) →
    exec (.glbDieRstGo p d) s = .next (commit s (s.answered p (adr .GLB_DIE_RST) v
      { (s.plainWrite (pathNum p) .GLB_DIE_RST 0 0 v).setFlag F.GLB_DIE_RST_BUSY true with dieReset := some ⟨d.val, 2⟩ }))) ∧
  (∀ r s, s.dieReset = some r → r.step = 2 →
    exec .coreDieResetRelease s = .next (commit s
      { s.advanceTo (s.now + 2000) with dieReset := some { r with step := 3 } })) ∧
  (∀ r s, s.dieReset = some r → r.step = 3 →
    exec .dieResetReady s = .next (commit s
      (((List.range 8).foldl (fun t j => t.handBack (8 * (r.die / 4) + j) fun b => b / 32 == r.die % 4)
        (s.dieResetEnd 1)).recoverTier (r.die / 4)))) ∧
  (∀ r s, s.dieReset = some r → r.step = 3 →
    exec .dieResetReadyTimeout s = .next (commit s (((s.dieResetEnd 2).fenceDie r.die true).recoverTier (r.die / 4)))) ∧
  (∀ p (c : Fin 32) s, s.granted p .LAG_CTL c 0 0x80000000#32 = true → s.flag (F.LAG_CTL_BUSY c) = false →
    ((s.chan c).st = .online ∨ (s.chan c).st = .draining) →
    exec (.writebackAll p c) s = .next (commit s (s.answered p (adr .LAG_CTL c) 0x80000000#32
      ((s.modChan c fun x => { x with lagAct := some (below 64 fun i => ((s.chan c).slot i).state == .dirty) }).setFlag
        (F.LAG_CTL_BUSY c) true)))) ∧
  (∀ p (c : Fin 32) s, s.granted p .LAG_CTL c 0 0x40000000#32 = true → s.flag (F.LAG_CTL_BUSY c) = false →
    (s.chan c).st = .offline →
    exec (.discardFenced p c) s = .next (commit s (s.answered p (adr .LAG_CTL c) 0x40000000#32
      (((s.discardFenced c).modChan c fun x => { x with lagAct := some [] }).setFlag (F.LAG_CTL_BUSY c) true)))) ∧
  (∀ p (c : Fin 32) s, s.granted p .LAG_CTL c 0 0x40000000#32 = true →
    (s.flag (F.LAG_CTL_BUSY c) = true ∨ (s.chan c).st ≠ .offline) →
    exec (.discardFenced p c) s = .next (commit s (s.turnedAway p (adr .LAG_CTL c)))) ∧
  (∀ (c : Fin 32) l s, (s.chan c).lagAct = some l → (l.any fun i => ((s.chan c).slot i).state == .dirty) = false →
    ((s.chan c).slots.any fun e => e.2.state == .cleaning) = false →
    exec (.lagActionEnd c) s = .next (commit s
      (((s.modChan c fun y => { y with lagAct := none }).setFlag (F.LAG_CTL_BUSY c) false).latch F.POLL_SUMMARY_DONE)))

/-- The authoritative copy of a sector, the slot's where its row is resident, the scrub buffer's while the row is
there and the array's otherwise, reads as written after a write; every other sector at a place that the write does not
reach (its own, and the spare column a running rep.col copies it to) reads as before; no register changes. (R12, R13,
R224, R228.) -/
def Obligations.AStoredSectorReadsBackAndNoOtherChanges : Prop :=
  (∀ (s : State) x c, (s.setStored x c).stored x = c) ∧
  (∀ (s : State) x y c, y.loc ≠ x.loc → s.physKey y ∉ s.places x → (s.setStored x c).stored y = s.stored y) ∧
  (∀ (s : State) x y c, y.loc = x.loc → y.sector ≠ x.sector → s.physKey y ∉ s.places x →
    (s.setStored x c).stored y = s.stored y) ∧
  (∀ (s : State) x, s.walkSpare x = none → s.places x = [s.physKey x]) ∧
  (∀ (s : State) x c, (s.setStored x c).regs = s.regs)

/-- EXD_QDB moves the tail of an enabled queue within its ring, EXD_QCFG applies to a disabled queue with rings that
fit, EXD_QCTL enables, aborts and resets indices, EXD_CTL aborts the program; EXD_QDB, EXD_QCFG, RESET_IDX, and a
disabling EXD_QCTL write (with ABORT or without) while the queue's program runs complete IGNORED outside their
condition, EXD_CTL.ABORT without a program does nothing, and each write of queue 7 by a path without secure access, or
EXD_CTL.ABORT of its program, completes PRIV. A program aborted leaves its engine ENDING with its completion record
added; ABORT of a queue lists the descriptors that pend (log entry 99), after ending the queue's program if it runs.
Answers a next state for: exdQdbWrite, exdQcfgWrite, exdQctlEnWrite, exdQctlAbort, exdQctlResetIdx, exdCtlAbort.
(R266, R268, R269, R289, R290, R292.) -/
def Obligations.QueuesAreSetUpAndRung : Prop :=
  (∀ p (c : Fin 32) (q : Fin 8) w s, s.granted p .EXD_QDB c q w = true → (q.val ≠ 7 ∨ isSecure p = true) →
    s.flag (F.EXD_QCTL_EN c q) = true → bitsOf w.toNat 9 0 < s.ringSize c q →
    exec (.exdQdbWrite p c q w) s = .next (commit s (s.answered p (adr .EXD_QDB c q) w
      (s.modQset c q fun x => { x with tail := bitsOf w.toNat 9 0 })))) ∧
  (∀ p (c : Fin 32) (q : Fin 8) w s, s.granted p .EXD_QDB c q w = true → (q.val ≠ 7 ∨ isSecure p = true) →
    (s.flag (F.EXD_QCTL_EN c q) = false ∨ s.ringSize c q ≤ bitsOf w.toNat 9 0) →
    exec (.exdQdbWrite p c q w) s = .next (commit s (s.turnedAway p (adr .EXD_QDB c q)))) ∧
  (∀ p (c : Fin 32) (q : Fin 8) w s, s.granted p .EXD_QCFG c q w = true → (q.val ≠ 7 ∨ isSecure p = true) →
    s.flag (F.EXD_QCTL_EN c q) = false → ringsOk w.toNat = true →
    exec (.exdQcfgWrite p c q w) s = .next (commit s (s.answered p (adr .EXD_QCFG c q) w
      (s.plainWrite (pathNum p) .EXD_QCFG c q w)))) ∧
  (∀ p (c : Fin 32) (q : Fin 8) w s, s.granted p .EXD_QCFG c q w = true → (q.val ≠ 7 ∨ isSecure p = true) →
    (s.flag (F.EXD_QCTL_EN c q) = true ∨ ringsOk w.toNat = false) →
    exec (.exdQcfgWrite p c q w) s = .next (commit s (s.turnedAway p (adr .EXD_QCFG c q)))) ∧
  (∀ p (c : Fin 32) (q : Fin 8) en v s, v = BitVec.ofNat 32 (2 ^ 31 * b2n en) → s.granted p .EXD_QCTL c q v = true →
    (q.val ≠ 7 ∨ isSecure p = true) →
    (en = true ∨ s.flag (F.EXD_QCTL_EN c q) = false ∨ (s.chan c).eng.busy = false ∨ (s.chan c).eng.queue ≠ q.val) →
    exec (.exdQctlEnWrite p c q en) s = .next (commit s (s.answered p (adr .EXD_QCTL c q) v
      (s.plainWrite (pathNum p) .EXD_QCTL c q v)))) ∧
  (∀ p (c : Fin 32) (q : Fin 8) en v s, v = BitVec.ofNat 32 (2 ^ 31 * b2n en + 2 ^ 30) →
    s.granted p .EXD_QCTL c q v = true → (q.val ≠ 7 ∨ isSecure p = true) →
    (en = true ∨ s.flag (F.EXD_QCTL_EN c q) = false ∨ (s.chan c).eng.busy = false ∨ (s.chan c).eng.queue ≠ q.val) →
    exec (.exdQctlAbort p c q en) s = .next (commit s (s.answered p (adr .EXD_QCTL c q) v
      ((s.abortQueue c q).plainWrite (pathNum p) .EXD_QCTL c q v)))) ∧
  (∀ p (c : Fin 32) (q : Fin 8) s, s.granted p .EXD_QCTL c q 0x20000000#32 = true → (q.val ≠ 7 ∨ isSecure p = true) →
    s.flag (F.EXD_QCTL_EN c q) = false →
    exec (.exdQctlResetIdx p c q) s = .next (commit s (s.answered p (adr .EXD_QCTL c q) 0x20000000#32
      ((s.plainWrite (pathNum p) .EXD_QCTL c q 0x20000000#32).modEng c fun e =>
        { e with own := e.own.setIfInBounds q QSet.start, prx := e.prx.setIfInBounds q QSet.start,
                 aborts := e.aborts.map fun a => if a.queue = q.val then { a with moves := false } else a })))) ∧
  (∀ p (c : Fin 32) (q : Fin 8) s, s.granted p .EXD_QCTL c q 0x20000000#32 = true → (q.val ≠ 7 ∨ isSecure p = true) →
    s.flag (F.EXD_QCTL_EN c q) = true →
    exec (.exdQctlResetIdx p c q) s = .next (commit s (s.turnedAway p (adr .EXD_QCTL c q)))) ∧
  (∀ p (c : Fin 32) (q : Fin 8) v s, v = 0#32 ∨ v = 0x40000000#32 → s.granted p .EXD_QCTL c q v = true →
    (q.val ≠ 7 ∨ isSecure p = true) → s.flag (F.EXD_QCTL_EN c q) = true → (s.chan c).eng.busy = true →
    (s.chan c).eng.queue = q.val →
    (v = 0#32 → exec (.exdQctlEnWrite p c q false) s = .next (commit s (s.turnedAway p (adr .EXD_QCTL c q)))) ∧
    (v = 0x40000000#32 → exec (.exdQctlAbort p c q false) s = .next (commit s (s.turnedAway p (adr .EXD_QCTL c q))))) ∧
  (∀ p (c : Fin 32) s, s.granted p .EXD_CTL c 0 0x80000000#32 = true →
    ((s.chan c).eng.busy = false ∨ (s.chan c).eng.queue ≠ 7 ∨ isSecure p = true) →
    exec (.exdCtlAbort p c) s = .next (commit s (s.answered p (adr .EXD_CTL c) 0x80000000#32 (s.abortProgram c 0x20)))) ∧
  (∀ p (c : Fin 32) (q : Fin 8) r i w s,
    (i = .exdQdbWrite p c q w ∧ r = .EXD_QDB ∨ i = .exdQcfgWrite p c q w ∧ r = .EXD_QCFG ∨
      i = .exdQctlEnWrite p c q true ∧ r = .EXD_QCTL ∧ w = 0x80000000#32 ∨
      i = .exdQctlEnWrite p c q false ∧ r = .EXD_QCTL ∧ w = 0#32 ∨
      i = .exdQctlAbort p c q true ∧ r = .EXD_QCTL ∧ w = 0xC0000000#32 ∨
      i = .exdQctlAbort p c q false ∧ r = .EXD_QCTL ∧ w = 0x40000000#32 ∨
      i = .exdQctlResetIdx p c q ∧ r = .EXD_QCTL ∧ w = 0x20000000#32) →
    s.granted p r c q w = true → q.val = 7 → isSecure p = false →
    exec i s = .next (commit s (((s.accFault 1 (pathNum p) (adr r c q) true).bump F.GLB_ACC_COUNT_PRIV_DENY_COUNT).emit
      (.access (pathNum p) (adr r c q) true .priv 0)))) ∧
  (∀ p (c : Fin 32) s, s.granted p .EXD_CTL c 0 0x80000000#32 = true → (s.chan c).eng.busy = true →
    (s.chan c).eng.queue = 7 → isSecure p = false →
    exec (.exdCtlAbort p c) s = .next (commit s
      (((s.accFault 1 (pathNum p) (adr .EXD_CTL c) true).bump F.GLB_ACC_COUNT_PRIV_DENY_COUNT).emit
        (.access (pathNum p) (adr .EXD_CTL c) true .priv 0)))) ∧
  (∀ (s : State) (c : Fin 32) k, (s.chan c).eng.busy = false → s.abortProgram c k = s) ∧
  (∀ (s : State) (c : Fin 32) k, (s.chan c).eng.busy = true → s.abortProgram c k = s.endProgram c 3 k) ∧
  (∀ (s : State) (c q : Nat), ((s.chan c).eng.busy && (s.chan c).eng.queue == q) = true →
    s.abortQueue c q = (s.endProgram c 3 0x22).modEng c fun e =>
      { e with aborts := e.aborts ++ ((s.endProgram c 3 0x22).abortList c q).drop (e.aborting q) }) ∧
  (∀ (s : State) (c q : Nat), ((s.chan c).eng.busy && (s.chan c).eng.queue == q) = false →
    s.abortQueue c q = s.modEng c fun e => { e with aborts := e.aborts ++ (s.abortList c q).drop (e.aborting q) }) ∧
  (∀ (s : State) (c : Fin 32) st k, ((s.endProgram c st k).chan c).eng.phase = .ending ∧
    ((s.endProgram c st k).chan c).eng.records =
      ((s.finishFerry c).chan c).eng.records ++ [(s.finishFerry c).makeRecord c st k])

/-- An engine completes the descriptors of an ABORT first, each read through the scheduler and completed with its own
USER_ID, or without its fields where its ring is gone (log entries 76 and 99). An idle engine with a queue to serve
begins to read the descriptor at its head; a reading engine waits where a host request waits (its urgency from the
first try: log entry 115), goes on to the fetch, a test program noted in the audit log, or refuses the descriptor with
its code, and is ended ABORTED with FENCE where its ring is gone, as is a fetch; in any other phase nothing is read. A
program already held is not read again; a fetch keeps the sectors it has while the next one waits, and one read with
poison is refused; a program starts from the initial machine state with its arguments; completion records are written
to the ring with the descriptor's own FLOW, waiting for their turn, or lost with the channel; the budget ends a
program as counted on the time base (log entry 111), and a waiting instruction is tried again (its data may be there
before: log entry 101). Answers a next state for: descriptorRead, programFetchDone, completionRecordWritten,
exdunBudgetLapse, instructionWaitEnd. (R259, R267, R269, R271, R274, R275, R276, R284, R287, R289, R291, R493.) -/
def Obligations.EnginesRunTheirPrograms : Prop :=
  (∀ (c : Fin 32) s u ch off, (s.chan c).eng.aborts = [] →
    ((s.chan c).eng.phase = .reading ∧ u = s ∨
      (s.chan c).eng.phase = .idle ∧ ∃ q, s.nextQueue c = some q ∧ u = s.beginRead c q) →
    ch = (if (u.chan c).eng.proxy then u.fld (F.EXD_CFG_PROXY_CH c) else c.val) →
    off = 4096 * u.fld (F.EXD_QCFG_DESC_BASE c (u.chan c).eng.queue) + 64 * (u.chan c).eng.index →
    (u.ringGone ch = true → exec (.descriptorRead c) s = .next (commit s (u.endProgram c 3 0x23))) ∧
    (u.ringGone ch = false →
      (∀ t, u.engineRead c ch off 0 = .wait t → exec (.descriptorRead c) s = .next (commit s t)) ∧
      (∀ t x d v q, u.engineRead c ch off 0 = .got t x → d = descRead x →
        v = t.modEng c (fun e => { e with desc := d }) → q = (v.chan c).eng.queue →
        (v.refusal q d x.poison = none →
          exec (.descriptorRead c) s = .next (commit s
            ((if (v.chan c).eng.desc.test then v.auditTest c q (v.chan c).eng.index else v).modEng c fun e =>
              { e with phase := .fetching, got := [] }))) ∧
        (∀ code, v.refusal q d x.poison = some code →
          exec (.descriptorRead c) s = .next (commit s (v.endProgram c 4 code)))))) ∧
  (∀ (s : State) (c : Fin 32) q, ((s.beginRead c q).chan c).eng.phase = .reading ∧
    ((s.beginRead c q).chan c).eng.queue = q ∧ ((s.beginRead c q).chan c).eng.index = (s.qset c q).head ∧
    ((s.beginRead c q).chan c).eng.proxy = (s.proxyNow c && decide (6 ≤ q))) ∧
  (∀ (c : Fin 32) s, (s.chan c).eng.aborts = [] →
    ((s.chan c).eng.phase = .idle ∧ s.nextQueue c = none ∨ (s.chan c).eng.phase = .fetching ∨
      (s.chan c).eng.phase = .running ∨ (s.chan c).eng.phase = .ending) →
    exec (.descriptorRead c) s = .next (commit s s)) ∧
  (∀ (c : Fin 32) a rest ch off s, (s.chan c).eng.aborts = a :: rest →
    ch = (if a.proxy then s.fld (F.EXD_CFG_PROXY_CH c) else c.val) →
    off = 4096 * s.fld (F.EXD_QCFG_DESC_BASE c a.queue) + 64 * a.index →
    (s.ringGone ch = true →
      exec (.descriptorRead c) s = .next (commit s ((s.dropWant c (serviceAt ch off).loc).abortDone c a Desc.none))) ∧
    (∀ t, s.ringGone ch = false → s.engineRead c ch off 0 = .wait t →
      exec (.descriptorRead c) s = .next (commit s t)) ∧
    (∀ t x, s.ringGone ch = false → s.engineRead c ch off 0 = .got t x →
      exec (.descriptorRead c) s = .next (commit s (t.abortDone c a (descRead x))))) ∧
  (∀ (s : State) (c : Fin 32) a d, (((s.abortDone c a d).chan c).eng.records =
      ((s.passHead c a).chan c).eng.records ++ [abortRecord a d]) ∧
    (abortRecord a d).status = 3 ∧ (abortRecord a d).code = 0x22 ∧ (abortRecord a d).queue = a.queue ∧
    (abortRecord a d).index = a.index ∧ (abortRecord a d).userId = d.userId) ∧
  (∀ (c : Fin 32) s, (s.chan c).eng.phase = .fetching → (s.chan c).eng.proxy = false →
    (s.chan c).eng.storeValid = true → (s.chan c).eng.storeCh = c.val →
    (s.chan c).eng.storeOff = (s.chan c).eng.desc.progOff →
    (s.chan c).eng.store.length = (s.chan c).eng.desc.progLen →
    exec (.programFetchDone c) s = .next (commit s (s.startProgram c))) ∧
  (∀ (c : Fin 32) (s : State) k, k < 5 →
    ((s.startProgram c).chan c).eng.phase = .running ∧ ((s.startProgram c).chan c).eng.pc = 0 ∧
    ((s.startProgram c).chan c).eng.st = 0 ∧ ((s.startProgram c).chan c).eng.p = 0 ∧
    ((s.startProgram c).chan c).eng.start = s.timeBase.toNat ∧
    (s.startProgram c).g c k = BitVec.ofNat 64 ((s.chan c).eng.desc.args.getD k 0) ∧
    (∀ j, 5 ≤ j → (s.startProgram c).g c j = 0) ∧ (∀ j, (s.startProgram c).hslot c j = none)) ∧
  (∀ (c : Fin 32) s ch l, (s.chan c).eng.phase = .fetching → (s.chan c).eng.storeValid = false →
    ch = (if (s.chan c).eng.proxy then s.fld (F.EXD_CFG_PROXY_CH c) else c.val) →
    l = (progSectors (s.chan c).eng.desc.progOff (s.chan c).eng.desc.progLen).drop (s.chan c).eng.got.length →
    (s.ringGone ch = true → exec (.programFetchDone c) s = .next (commit s (s.endProgram c 3 0x23))) ∧
    (∀ t, s.ringGone ch = false → s.readSectors c ch (s.chan c).eng.desc.flow l = (t, false) →
      exec (.programFetchDone c) s = .next (commit s t)) ∧
    (∀ t, s.ringGone ch = false → s.readSectors c ch (s.chan c).eng.desc.flow l = (t, true) →
      ((t.chan c).eng.got.any (fun x => x.2) = true → exec (.programFetchDone c) s = .next (commit s
        ((t.modEng c fun e => { e with storeValid := false, got := [] }).endProgram c 4 6))) ∧
      ((t.chan c).eng.got.any (fun x => x.2) = false →
        exec (.programFetchDone c) s = .next (commit s ((t.modEng c fun e => { e with
          store := (List.range (t.chan c).eng.desc.progLen).map (progWord (t.chan c).eng.got (t.chan c).eng.desc.progOff),
          storeCh := ch, storeBad := false, storeOff := (t.chan c).eng.desc.progOff, storeValid := true, fetched := true,
          got := [] }).startProgram c))))) ∧
  (∀ (s : State) (k ch flow o : Nat) r,
    (∀ t, s.engineRead k ch o flow = .wait t → s.readSectors k ch flow (o :: r) = (t, false)) ∧
    (∀ t x, s.engineRead k ch o flow = .got t x → s.readSectors k ch flow (o :: r) =
      (t.modEng k fun e => { e with got := e.got ++ [(x.data, x.poison)] }).readSectors k ch flow r) ∧
    s.readSectors k ch flow [] = (s, true)) ∧
  (∀ (c : Fin 32) s r rest off, (s.chan c).eng.records = r :: rest → r.proxy = false →
    off = 4096 * s.fld (F.EXD_QCFG_CPL_BASE c r.queue) + 32 * r.index → (s.chan c).st = .online →
    (∀ t, s.progAccess c (serviceAt c off).loc 2 r.flow s.now true true = .go t →
      exec (.completionRecordWritten c) s = .next (commit s (((t.popRecord c rest).putRing c off r.words).noteRecord c r false))) ∧
    (∀ t, s.progAccess c (serviceAt c off).loc 2 r.flow s.now true true = .wait t →
      exec (.completionRecordWritten c) s = .next (commit s t))) ∧
  (∀ (c : Fin 32) s r rest off, (s.chan c).eng.records = r :: rest → r.proxy = false →
    ((s.chan c).st = .offline ∨ (s.chan c).st = .retired) →
    off = 4096 * s.fld (F.EXD_QCFG_CPL_BASE c r.queue) + 32 * r.index →
    exec (.completionRecordWritten c) s = .next (commit s (((s.dropWant c (serviceAt c off).loc).modEng c fun e => { e with
      records := rest, phase := if rest = [] ∧ e.phase = .ending then .idle else e.phase }).noteRecord c r true))) ∧
  (∀ (c : Fin 32) s us, (s.chan c).eng.phase = .running →
    us = (if (s.chan c).eng.desc.budget = 0 then s.fld (F.EXD_CFG_DEFAULT_BUDGET_US c) else (s.chan c).eng.desc.budget) →
    exec (.exdunBudgetLapse c) s =
      .next (commit s ((s.advanceSince (s.chan c).eng.start (1000 * us)).endProgram c 2 0))) ∧
  (∀ (c : Fin 32) s w, (s.chan c).eng.phase = .running → (s.chan c).eng.waiting.isSome = true →
    (s.chan c).eng.store[(s.chan c).eng.pc]? = some w → opOf w ≠ 0x31#8 →
    exec (.instructionWaitEnd c) s =
      .next (commit s ((s.calmWants c).settleAtt c ((s.calmWants c).retry c (opOf w).toNat (fieldsOf w)))))

/-- Each of the fourteen scalar instructions with valid operand fields writes the value the table gives to gD and
passes on to the next instruction; with a field that it leaves reserved not zero, or a shift of 64 or more, it ends
its program with ILLEGAL, and so does a reserved opcode. Answers a next state for: li, lih, mov, add, sub, addi, and,
or, xor, shl, shr, ctz, popc, mul, reservedOpcode. (R259, R294, R295, R303.) -/
def Obligations.ScalarInstructionsWriteTheirRegister : Prop :=
  (∀ (c : Fin 32) f s, s.canIssue c 0x10 f = true → f.only { d := true, i := true } = true →
    exec (.li c f) s = .next (commit s (((s.issued c).setG c f.d (f.imm.signExtend 64)).passed c))) ∧
  (∀ (c : Fin 32) f s, s.canIssue c 0x11 f = true → f.only { d := true, i := true } = true →
    exec (.lih c f) s = .next (commit s
      (((s.issued c).setG c f.d (f.imm ++ (s.g c f.d).extractLsb' 0 32)).passed c))) ∧
  (∀ (c : Fin 32) f s, s.canIssue c 0x12 f = true → f.only { d := true, a := true } = true →
    exec (.mov c f) s = .next (commit s (((s.issued c).setG c f.d (s.g c f.a)).passed c))) ∧
  (∀ (c : Fin 32) f s, s.canIssue c 0x13 f = true → f.only { d := true, a := true, b := true } = true →
    exec (.add c f) s = .next (commit s (((s.issued c).setG c f.d (s.g c f.a + s.g c f.b)).passed c))) ∧
  (∀ (c : Fin 32) f s, s.canIssue c 0x14 f = true → f.only { d := true, a := true, b := true } = true →
    exec (.sub c f) s = .next (commit s (((s.issued c).setG c f.d (s.g c f.a - s.g c f.b)).passed c))) ∧
  (∀ (c : Fin 32) f s, s.canIssue c 0x15 f = true → f.only { d := true, a := true, i := true } = true →
    exec (.addi c f) s = .next (commit s (((s.issued c).setG c f.d (s.g c f.a + f.imm.signExtend 64)).passed c))) ∧
  (∀ (c : Fin 32) f s, s.canIssue c 0x16 f = true → f.only { d := true, a := true, b := true } = true →
    exec (.and c f) s = .next (commit s (((s.issued c).setG c f.d (s.g c f.a &&& s.g c f.b)).passed c))) ∧
  (∀ (c : Fin 32) f s, s.canIssue c 0x17 f = true → f.only { d := true, a := true, b := true } = true →
    exec (.or c f) s = .next (commit s (((s.issued c).setG c f.d (s.g c f.a ||| s.g c f.b)).passed c))) ∧
  (∀ (c : Fin 32) f s, s.canIssue c 0x18 f = true → f.only { d := true, a := true, b := true } = true →
    exec (.xor c f) s = .next (commit s (((s.issued c).setG c f.d (s.g c f.a ^^^ s.g c f.b)).passed c))) ∧
  (∀ (c : Fin 32) f s, s.canIssue c 0x19 f = true → f.only { d := true, a := true, i := true } = true → f.u < 64 →
    exec (.shl c f) s = .next (commit s (((s.issued c).setG c f.d (s.g c f.a <<< f.u)).passed c))) ∧
  (∀ (c : Fin 32) f s, s.canIssue c 0x1A f = true → f.only { d := true, a := true, i := true } = true → f.u < 64 →
    exec (.shr c f) s = .next (commit s (((s.issued c).setG c f.d (s.g c f.a >>> f.u)).passed c))) ∧
  (∀ (c : Fin 32) f s k, s.canIssue c 0x1B f = true → f.only { d := true, a := true } = true →
    (∀ j, j < k → (s.g c f.a).getLsbD j = false) → (k = 64 ∨ (s.g c f.a).getLsbD k = true) →
    exec (.ctz c f) s = .next (commit s (((s.issued c).setG c f.d (BitVec.ofNat 64 k)).passed c))) ∧
  (∀ (c : Fin 32) f s, s.canIssue c 0x1C f = true → f.only { d := true, a := true } = true →
    exec (.popc c f) s = .next (commit s (((s.issued c).setG c f.d
      (BitVec.ofNat 64 ((List.range 64).countP fun k => (s.g c f.a).getLsbD k))).passed c))) ∧
  (∀ (c : Fin 32) f s, s.canIssue c 0x1D f = true → f.only { d := true, a := true, b := true } = true →
    exec (.mul c f) s = .next (commit s (((s.issued c).setG c f.d (s.g c f.a * s.g c f.b)).passed c))) ∧
  (∀ (c : Fin 32) f op i (ok : Bool) s, (op, i, ok) ∈ [
      (0x10#8, Instr.li c f, f.only { d := true, i := true }), (0x11#8, .lih c f, f.only { d := true, i := true }),
      (0x12#8, .mov c f, f.only { d := true, a := true }),
      (0x13#8, .add c f, f.only { d := true, a := true, b := true }),
      (0x14#8, .sub c f, f.only { d := true, a := true, b := true }),
      (0x15#8, .addi c f, f.only { d := true, a := true, i := true }),
      (0x16#8, .and c f, f.only { d := true, a := true, b := true }),
      (0x17#8, .or c f, f.only { d := true, a := true, b := true }),
      (0x18#8, .xor c f, f.only { d := true, a := true, b := true }),
      (0x19#8, .shl c f, f.only { d := true, a := true, i := true } && decide (f.u < 64)),
      (0x1A#8, .shr c f, f.only { d := true, a := true, i := true } && decide (f.u < 64)),
      (0x1B#8, .ctz c f, f.only { d := true, a := true }), (0x1C#8, .popc c f, f.only { d := true, a := true }),
      (0x1D#8, .mul c f, f.only { d := true, a := true, b := true })] →
    ok = false → s.issuable c op f = true →
    exec i s = .next (commit s ((s.issued c).endProgram c 1 0x10))) ∧
  (∀ (c : Fin 32) op f s, s.issuable c op f = true → opKnown op.toNat = false →
    exec (.reservedOpcode c op f) s = .next (commit s ((s.issued c).endProgram c 1 0x10)))

/-- When a write of a plain register completes OK, every register but that one, its East copy and those that follow
every command reads as before; the register holds its fields as written; all of the state but registers, shadows, the
answer sent and the account of the open session is as before, and that account too when no session is open on the
path. (R66, R81.) -/
def Obligations.APlainRegisterWriteLeavesTheRest : Prop :=
  ∀ p (a : BitVec 24) w r u i (s t : State), plainReg r = true → a.toNat = adr r u i → s.granted p r u i w = true →
    s.bringUp = none → exec (.registerWrite p a w) s = .next t →
    (∀ b, b ≠ adr r u i → b ≠ adr r u i + eastOffset → ¬ CommitWrites b → t.reg b = s.reg b) ∧
    (¬ CommitWrites (adr r u i) →
      t.reg (adr r u i) = BitVec.ofNat 32 (applyFields r (s.reg (adr r u i)).toNat w.toNat)) ∧
    t.core = ({ s with
      shadows := t.shadows, life := t.life, mram := t.mram
      out := s.out ++ [.access (pathNum p) (adr r u i) true .ok 0] } : State).core ∧
    ((s.life.session = 0 ∨ s.life.sessPath ≠ pathNum p) → t.life = s.life ∧ t.mram = s.mram)

/-- After a scalar instruction that completes, the channel differs only in its engine's general registers and PC (and
the engine waits for nothing and wants no access), every general register but gD is as before, every register but
those that follow every command reads as before, and everything else of the state is as before. (R259, R295, R303.) -/
def Obligations.ScalarInstructionsLeaveTheRest : Prop :=
  ∀ (c : Fin 32) (f : Fields) (op : BitVec 8) (i : Instr) (ok : Bool) (s t : State),
    (op, i, ok) ∈ [
      (0x10#8, Instr.li c f, f.only { d := true, i := true }), (0x11#8, .lih c f, f.only { d := true, i := true }),
      (0x12#8, .mov c f, f.only { d := true, a := true }),
      (0x13#8, .add c f, f.only { d := true, a := true, b := true }),
      (0x14#8, .sub c f, f.only { d := true, a := true, b := true }),
      (0x15#8, .addi c f, f.only { d := true, a := true, i := true }),
      (0x16#8, .and c f, f.only { d := true, a := true, b := true }),
      (0x17#8, .or c f, f.only { d := true, a := true, b := true }),
      (0x18#8, .xor c f, f.only { d := true, a := true, b := true }),
      (0x19#8, .shl c f, f.only { d := true, a := true, i := true } && decide (f.u < 64)),
      (0x1A#8, .shr c f, f.only { d := true, a := true, i := true } && decide (f.u < 64)),
      (0x1B#8, .ctz c f, f.only { d := true, a := true }), (0x1C#8, .popc c f, f.only { d := true, a := true }),
      (0x1D#8, .mul c f, f.only { d := true, a := true, b := true })] →
    ok = true → s.canIssue c op f = true → s.bringUp = none → exec i s = .next t →
    t.core = ((s.setChan c { s.chan c with eng := { s.eng c with
      g := (t.eng c).g, pc := (s.eng c).pc + 1, waiting := none, progress := 0, walk := none, wants := [], ledger := none, clearing := none } })).core ∧
    (∀ k, k ≠ f.d → t.g c k = s.g c k) ∧ (∀ a, ¬ CommitWrites a → t.reg a = s.reg a)

/-- nop, halt, br (taken, not taken, out of the program), wait (its time counted on the time base: log entry 111),
time, cmp and cmpi with the six conditions, st.rd, st.clr, ld.cfg and st.cfg have the effect of their tables; an
instruction that would pass the end of its program ends it with PC. Answers a next state for: nop, halt, br, wait,
instructionWaitEnd, time, cmp, cmpi, stRd, stClr, ldCfg, stCfg. (R295, R299, R300, R301, R302, R304, R305, R306.) -/
def Obligations.ControlComparisonAndStatusInstructions : Prop :=
  (∀ (c : Fin 32) f s, s.canIssue c 0x00 f = true → f.only {} = true →
    exec (.nop c f) s = .next (commit s ((s.issued c).passed c))) ∧
  (∀ (c : Fin 32) f s, s.issuable c 0x00 f = true → f.only {} = true →
    (s.chan c).eng.store.length ≤ (s.chan c).eng.pc + 1 →
    exec (.nop c f) s = .next (commit s (((s.issued c).calm c).endProgram c 1 0x18))) ∧
  (∀ (c : Fin 32) f s, s.issuable c 0x01 f = true → f.only {} = true →
    exec (.halt c f) s = .next (commit s ((s.issued c).endProgram c 0 0))) ∧
  (∀ (c : Fin 32) f s, s.issuable c 0x02 f = true → f.only { a := true, m := true, i := true } = true →
    f.m ≤ 2 → f.a < 4 → (f.m = 0 → f.a = 0) → f.u < 2048 → f.u < (s.chan c).eng.store.length →
    (f.m = 0 ∨ (f.m = 1 ∧ s.pred c f.a = true) ∨ (f.m = 2 ∧ s.pred c f.a = false)) →
    exec (.br c f) s = .next (commit s (((s.issued c).calm c).modEng c fun e => { e with pc := f.u }))) ∧
  (∀ (c : Fin 32) f s, s.canIssue c 0x02 f = true → f.only { a := true, m := true, i := true } = true →
    f.a < 4 → f.u < 2048 → f.u < (s.chan c).eng.store.length →
    ((f.m = 1 ∧ s.pred c f.a = false) ∨ (f.m = 2 ∧ s.pred c f.a = true)) →
    exec (.br c f) s = .next (commit s ((s.issued c).passed c))) ∧
  (∀ (c : Fin 32) f s, s.issuable c 0x02 f = true → f.only { a := true, m := true, i := true } = true →
    f.m ≤ 2 → f.a < 4 → (f.m = 0 → f.a = 0) → f.u < 2048 → (s.chan c).eng.store.length ≤ f.u →
    exec (.br c f) s = .next (commit s ((s.issued c).endProgram c 1 0x18))) ∧
  (∀ (c : Fin 32) f s, s.canIssue c 0x03 f = true → f.only { i := true } = true → f.u = 0 →
    exec (.wait c f) s = .next (commit s ((s.issued c).passed c))) ∧
  (∀ (c : Fin 32) f s, s.issuable c 0x03 f = true → f.only { i := true } = true → f.u ≠ 0 →
    exec (.wait c f) s = .next (commit s (((s.issued c).setProgress c s.timeBase.toNat).waits c))) ∧
  (∀ (c : Fin 32) f s n, (s.chan c).eng.phase = .running → (s.chan c).eng.waiting = some n →
    (s.chan c).eng.store[(s.chan c).eng.pc]? = some (wordOf 0x03 f) → f.only { i := true } = true → f.u ≠ 0 →
    exec (.instructionWaitEnd c) s = .next (commit s ((s.calmWants c).settleAtt c
      (.done ((s.calmWants c).advanceSince (s.chan c).eng.progress f.u))))) ∧
  (∀ (c : Fin 32) f s, s.canIssue c 0x04 f = true → f.only { d := true } = true →
    exec (.time c f) s = .next (commit s (((s.issued c).setG c f.d s.timeBase).passed c))) ∧
  (∀ (c : Fin 32) f s, s.canIssue c 0x20 f = true →
    f.only { d := true, a := true, b := true, m := true } = true → f.d < 4 → f.m < 6 →
    exec (.cmp c f) s = .next (commit s
      (((s.issued c).setPred c f.d (compareBy f.m (s.g c f.a) (s.g c f.b))).passed c))) ∧
  (∀ (c : Fin 32) f s, s.canIssue c 0x21 f = true →
    f.only { d := true, a := true, m := true, i := true } = true → f.d < 4 → f.m < 6 →
    exec (.cmpi c f) s = .next (commit s
      (((s.issued c).setPred c f.d (compareBy f.m (s.g c f.a) (f.imm.signExtend 64))).passed c))) ∧
  (∀ x y : Word64, compareBy 0 x y = decide (x = y) ∧ compareBy 1 x y = decide (x ≠ y) ∧
    compareBy 2 x y = decide (x.toNat < y.toNat) ∧ compareBy 3 x y = decide (x.toNat ≥ y.toNat) ∧
    compareBy 4 x y = decide (x.toInt < y.toInt) ∧ compareBy 5 x y = decide (x.toInt ≥ y.toInt)) ∧
  (∀ (c : Fin 32) f s, s.canIssue c 0x24 f = true → f.only { d := true } = true →
    exec (.stRd c f) s = .next (commit s (((s.issued c).setG c f.d ((s.chan c).eng.st.setWidth 64)).passed c))) ∧
  (∀ (c : Fin 32) f s, s.canIssue c 0x25 f = true → f.only { i := true } = true → f.imm &&& ~~~0x301#32 = 0 →
    exec (.stClr c f) s = .next (commit s
      (((s.issued c).modEng c fun e => { e with st := stClear e.st f.u }).passed c))) ∧
  (∀ (c : Fin 32) f s x, s.issuable c 0x30 f = true → f.only { d := true, a := true, m := true, i := true } = true →
    f.m ≤ 1 → (f.m = 0 → f.a = 0) →
    x = (s.issued c).access (.eng c (Fin.ofNat 8 (s.chan c).eng.queue)) ((s.issued c).cfgAddr c f) false 0 Given.plain
      .engine →
    exec (.ldCfg c f) s = .next (commit s ((s.issued c).settleAtt c (.done
      ((x.st.setG c f.d (if x.status = .ok then x.data.setWidth 64 else 0)).setCfgStatus c x.status))))) ∧
  (∀ (c : Fin 32) f s x, s.issuable c 0x31 f = true → f.only { a := true, b := true, m := true, i := true } = true →
    f.m ≤ 1 → (f.m = 0 → f.a = 0) → (s.chan c).eng.progress = 0 →
    x = (s.issued c).access (.eng c (Fin.ofNat 8 (s.chan c).eng.queue)) ((s.issued c).cfgAddr c f) true
      ((s.g c f.b).setWidth 32) Given.plain .engine →
    exec (.stCfg c f) s = .next (commit s ((s.issued c).settleAtt c
      (if x.held then .wait (x.st.setProgress c 1) else .done (x.st.setCfgStatus c x.status)))))

/-- An instruction with opcode 0xF0 to 0xFF from any queue but q7 ends its program with CLASS, whatever its other
fields hold. From q7 its operation is internal to firmware, and the model refuses it by name. (R331.) -/
def Obligations.FirmwareOpcodesRunFromQ7Only : Prop :=
  (∀ (c : Fin 32) op f s, s.issuable c op f = true → 0xF0 ≤ op.toNat → (s.chan c).eng.queue ≠ 7 →
    exec (.firmwareInstruction c op f) s = .next (commit s ((s.issued c).endProgram c 1 0x11))) ∧
  (∀ (c : Fin 32) op f s, s.issuable c op f = true → 0xF0 ≤ op.toNat → (s.chan c).eng.queue = 7 →
    exec (.firmwareInstruction c op f) s = .refused .firmwareInternal)

/-- A firmware write of a global-state register by the half that does not hold the token does not apply, completes
IGNORED to that core, raises AUTH_BOUNCE and increments BOUNCES. Host writes are never bounced. (R461.) -/
def Obligations.GlobalWritesOfTheOtherHalfBounce : Prop :=
  (∀ h (a : BitVec 24) w r u i s, s.pathUp (.fw h) = true → s.mode ≠ .fatal → s.refused (.fw h) a.toNat true = none →
    regAt a.toNat = some (r, u, i) →
    ((accessIslands h a.toNat true).all fun k => !s.flag (F.GLB_ISL_STS_GATED k)) = true →
    (a.toNat < 0x10000 ∨ (0x20000 ≤ a.toNat ∧ a.toNat < 0x40000)) → s.holder ≠ h →
    exec (.registerWrite (.fw h) a w) s = .next (commit s
      ((((s.raise 106 (2 ^ halfNum h)).bump F.AUTH_STS_BOUNCES).latch F.POLL_SUMMARY_AUTH).emit
        (.access (pathNum (.fw h)) a.toNat true .ignored 0)))) ∧
  (∀ p (a : Nat) (s : State), hostPath p = true → s.bounces p a = false)

/-- For every well-formed instruction command, with every operand at every value, some reading of what vp.chk sees
makes the decoding of its word that command again; every 64-bit word decodes to a well-formed instruction command
whose encoding is that word on that channel. (R293, R299.) -/
def Obligations.InstructionWordsAndCommandsAgree : Prop :=
  (∀ (i : Instr) c w, i.wf = true → encodeExdun i = some (c, w) → ∃ seen, decodeExdun c w seen = i) ∧
  (∀ (c : Fin 32) (w : Word64) seen, encodeExdun (decodeExdun c w seen) = some (c, w)) ∧
  (∀ (c : Fin 32) (w : Word64) seen, (decodeExdun c w seen).wf = true)

/-- row.load binds a row already pinned, pins a resident one or launches its move-in, waits for a row that is being
filled or whose extent's zero-fill runs, and ends the program with the code of a bad locator or of a full pin set;
row.claim claims a resident row or starts the zero-fill of its extent; row.rel releases; row.wb passes on a clean slot
and launches the move-out of a dirty one; row.loc gives the locator, and ends with H_INVALID on an unbound handle;
slot.ldw and slot.stw read and write a word or the metadata of a pinned row, and slot.stw ends with its code where the
queue may not write the row; slot.ldw, slot.stw and row.wb through a handle whose row has been retired end with
RETIRED (log entry 77). Answers a next state for: rowLoad, rowClaim, rowRel, rowWb, rowLoc, slotLdw, slotStw. (R249,
R261, R281, R282, R295, R297, R308, R309, R310, R311, R312, R363.) -/
def Obligations.ProgramsPinRowsAndReachTheirWords : Prop :=
  (∀ (c : Fin 32) f s k, s.canIssue c 0x40 f = true → f.only { a := true, n := true } = true →
    s.locFault c (readReach (s.chan c).eng.queue) (s.g c f.a) false = none → s.chanOut c = false →
    s.pinnedRow c (s.g c f.a).toNat = some k →
    exec (.rowLoad c f) s = .next (commit s (((s.issued c).bindH c f.n k).passed c))) ∧
  (∀ (c : Fin 32) f s t i, s.issuable c 0x40 f = true → f.only { a := true, n := true } = true →
    s.locFault c (readReach (s.chan c).eng.queue) (s.g c f.a) false = none → s.chanOut c = false →
    s.pinnedRow c (s.g c f.a).toNat = none → (s.chan c).eng.pinCount < 16 →
    t = (s.issued c).useMap (s.g c f.a).toNat → (t.chan c).eng.phase = .running →
    t.findSlot (s.g c f.a).toNat = some i → t.rowWaits (s.g c f.a).toNat true = false →
    t.fillRuns (s.g c f.a).toNat = false →
    exec (.rowLoad c f) s = .next (commit s ((s.issued c).settleAtt c (.done
      ((t.touch (s.g c f.a).toNat).pinSlot c f.n i))))) ∧
  (∀ (c : Fin 32) f s t, s.issuable c 0x40 f = true → f.only { a := true, n := true } = true →
    s.locFault c (readReach (s.chan c).eng.queue) (s.g c f.a) false = none → s.chanOut c = false →
    s.pinnedRow c (s.g c f.a).toNat = none → (s.chan c).eng.pinCount < 16 →
    t = (s.issued c).useMap (s.g c f.a).toNat → (t.chan c).eng.phase = .running →
    (t.rowWaits (s.g c f.a).toNat true = true ∨ t.fillRuns (s.g c f.a).toNat = true) →
    exec (.rowLoad c f) s = .next (commit s ((s.issued c).settleAtt c (.wait t)))) ∧
  (∀ (c : Fin 32) f s t u v i, s.issuable c 0x40 f = true → f.only { a := true, n := true } = true →
    s.locFault c (readReach (s.chan c).eng.queue) (s.g c f.a) false = none → s.chanOut c = false →
    s.pinnedRow c (s.g c f.a).toNat = none → (s.chan c).eng.pinCount < 16 →
    t = (s.issued c).useMap (s.g c f.a).toNat → (t.chan c).eng.phase = .running →
    t.findSlot (s.g c f.a).toNat = none → t.rowWaits (s.g c f.a).toNat true = false →
    t.fillRuns (s.g c f.a).toNat = false → t.freeVictim c = .slot u i →
    u.written (s.g c f.a).toNat = true → (u.chan c).closing (locCbi (s.g c f.a).toNat) = false →
    u.ownCycle c (s.g c f.a).toNat 1 4 = .go v →
    exec (.rowLoad c f) s = .next (commit s ((s.issued c).settleAtt c (.wait
      (v.launchMoveIn c i (s.g c f.a).toNat (none, some (t.eng c).desc.flow)))))) ∧
  (∀ (c : Fin 32) f s code, s.issuable c 0x40 f = true → f.only { a := true, n := true } = true →
    s.locFault c (readReach (s.chan c).eng.queue) (s.g c f.a) false = some code →
    exec (.rowLoad c f) s = .next (commit s ((s.issued c).endProgram c 1 code))) ∧
  (∀ (c : Fin 32) f s, s.issuable c 0x40 f = true → f.only { a := true, n := true } = true →
    s.locFault c (readReach (s.chan c).eng.queue) (s.g c f.a) false = none → s.chanOut c = false →
    s.pinnedRow c (s.g c f.a).toNat = none → (s.chan c).eng.pinCount = 16 →
    exec (.rowLoad c f) s = .next (commit s ((s.issued c).endProgram c 1 0x13))) ∧
  (∀ (c : Fin 32) f s t i, s.issuable c 0x41 f = true → f.only { a := true, n := true } = true →
    s.locFault c (writeReach (s.chan c).eng.queue) (s.g c f.a) false = none → s.chanOut c = false →
    ((s.pinnedRow c (s.g c f.a).toNat).isSome = true ∨ (s.chan c).eng.pinCount < 16) →
    t = (s.issued c).useMap (s.g c f.a).toNat → (t.chan c).eng.phase = .running →
    t.written (s.g c f.a).toNat = true → t.findSlot (s.g c f.a).toNat = some i →
    t.rowWaits (s.g c f.a).toNat true = false → t.rowInCycle (s.g c f.a).toNat = false →
    (t.slot c i).state ≠ .cleaning →
    exec (.rowClaim c f) s = .next (commit s ((s.issued c).settleAtt c (.done
      (t.claimSlot c f.n (s.g c f.a).toNat i))))) ∧
  (∀ (c : Fin 32) f s t, s.issuable c 0x41 f = true → f.only { a := true, n := true } = true →
    s.locFault c (writeReach (s.chan c).eng.queue) (s.g c f.a) false = none → s.chanOut c = false →
    ((s.pinnedRow c (s.g c f.a).toNat).isSome = true ∨ (s.chan c).eng.pinCount < 16) →
    t = (s.issued c).useMap (s.g c f.a).toNat → (t.chan c).eng.phase = .running →
    t.written (s.g c f.a).toNat = false →
    exec (.rowClaim c f) s = .next (commit s ((s.issued c).settleAtt c (.wait
      (t.startFill c (locExtent (s.g c f.a).toNat)))))) ∧
  (∀ (c : Fin 32) f s, s.canIssue c 0x42 f = true → f.only { i := true } = true → f.u < 256 →
    exec (.rowRel c f) s = .next (commit s (((s.issued c).modEng c fun e => e.release f.u).passed c))) ∧
  (∀ (c : Fin 32) f s i, s.canIssue c 0x43 f = true → f.only { n := true } = true → s.hslot c f.n = some i →
    s.handleRetired c f.n = false → s.chanOut c = false → (s.chan c).eng.progress = 0 → (s.slot c i).state ≠ .dirty →
    exec (.rowWb c f) s = .next (commit s ((s.issued c).passed c))) ∧
  (∀ (c : Fin 32) f s i t, s.issuable c 0x43 f = true → f.only { n := true } = true → s.hslot c f.n = some i →
    s.handleRetired c f.n = false → s.chanOut c = false → (s.chan c).eng.progress = 0 → (s.slot c i).state = .dirty →
    (s.chan c).held.contains i = false → (s.issued c).ownCycle c (s.slot c i).loc 1 4 = .go t →
    exec (.rowWb c f) s = .next (commit s ((s.issued c).settleAtt c (.wait
      ((t.launchMoveOut c i .cleaning).modEng c fun e => { e with progress := 1 }))))) ∧
  (∀ (c : Fin 32) f s i, s.canIssue c 0x44 f = true → f.only { d := true, n := true } = true →
    s.hslot c f.n = some i →
    exec (.rowLoc c f) s = .next (commit s
      (((s.issued c).setG c f.d (BitVec.ofNat 64 (s.slot c i).loc)).passed c))) ∧
  (∀ (c : Fin 32) f s, s.issuable c 0x44 f = true → f.only { d := true, n := true } = true →
    s.hslot c f.n = none →
    exec (.rowLoc c f) s = .next (commit s ((s.issued c).endProgram c 1 0x12))) ∧
  (∀ (c : Fin 32) f s i r, s.issuable c 0x45 f = true →
    f.only { d := true, b := true, n := true, m := true, i := true } = true → wordBad f = false →
    s.hslot c f.n = some i → s.handleRetired c f.n = false → s.chanOut c = false →
    r = ((s.issued c).touch (s.slot c i).loc).decodeStored ⟨(s.slot c i).loc, s.wordSector c f⟩ (s.progFor c) →
    exec (.slotLdw c f) s = .next (commit s ((s.issued c).settleAtt c (.done
      ((r.1.seenOf c r.2).setG c f.d
        (if bitOf f.m 0 then BitVec.ofNat 64 r.2.metaByte else sectorWord r.2.data (f.u % 8))))))) ∧
  (∀ (c : Fin 32) f s t i r x, s.issuable c 0x46 f = true →
    f.only { a := true, b := true, n := true, m := true, i := true } = true → wordBad f = false →
    s.hslot c f.n = some i → s.handleRetired c f.n = false → inReach (writeReach (s.chan c).eng.queue) (s.slot c i).loc false = true →
    s.chanOut c = false → t = (s.issued c).useMap (s.slot c i).loc → (t.chan c).eng.phase = .running →
    t.written (s.slot c i).loc = true → x = ⟨(s.slot c i).loc, s.wordSector c f⟩ →
    r = t.decodeStored x (t.progFor c) →
    exec (.slotStw c f) s = .next (commit s ((s.issued c).settleAtt c (.done
      (((r.1.seenOf c r.2).storeHit x (if bitOf f.m 0 then 0 else 0xFF#64 <<< (8 * (f.u % 8)))).setStored x
        (if bitOf f.m 0 then encodeSector r.2.data
            ((s.g c f.a).toNat % 16 + 128 * b2n (bitOf (s.g c f.a).toNat 7 || r.2.poison))
          else encodeSector (putWord r.2.data (f.u % 8) (s.g c f.a))
            (if r.2.poison then putBits r.2.metaByte 7 7 1 else r.2.metaByte))))))) ∧
  (∀ (c : Fin 32) f s i, s.issuable c 0x46 f = true →
    f.only { a := true, b := true, n := true, m := true, i := true } = true → wordBad f = false →
    s.hslot c f.n = some i → s.handleRetired c f.n = false → inReach (writeReach (s.chan c).eng.queue) (s.slot c i).loc false = false →
    exec (.slotStw c f) s = .next (commit s ((s.issued c).endProgram c 1 0x16))) ∧
  (∀ (c : Fin 32) f s i (op : BitVec 8), (i = .slotLdw c f ∧ op = 0x45 ∧ f.only { d := true, b := true, n := true, m := true, i := true } = true ∧
      wordBad f = false ∨
      i = .slotStw c f ∧ op = 0x46 ∧ f.only { a := true, b := true, n := true, m := true, i := true } = true ∧ wordBad f = false ∨
      i = .rowWb c f ∧ op = 0x43 ∧ f.only { n := true } = true ∧ (s.chan c).eng.progress = 0) →
    s.issuable c op f = true → (s.hslot c f.n).isSome = true → s.handleRetired c f.n = true →
    exec i s = .next (commit s ((s.issued c).endProgram c 1 0x15))) ∧
  (∀ (s : State) (c n : Nat), s.handleRetired c n = s.rowRetired (s.slot c ((s.hslot c n).getD 0)).loc)

/-- row.copy, row.fill, row.zero, row.bit, row.cmp, row.popc, row.crc, sec.rdraw and sec.wrraw read and write the
sectors their mask or operand names as their tables say, through handles whose rows are not retired; row.zero with an
empty mask does nothing and on an unwritten extent starts its zero-fill; row.ferry waits for the write at its
destination and gives its result; sec.rdraw waits while the zero-fill of its extent runs, reads zeros of an unwritten
extent and otherwise the sector's image once its access is served, as sec.wrraw writes it; a program's access is a hit
of a resident row where the port is free, and otherwise promotes, waits for a refresh or takes sector cycles by the
rules of host requests; sec.rdraw from a queue below 6 ends its program with CLASS. Answers a next state for: rowCopy,
rowFill, rowZero, rowBit, rowCmp, rowPopc, rowCrc, rowFerry, instructionWaitEnd, secRdraw, secWrraw. (R222, R249,
R282, R285, R313, R314, R315, R316, R317, R318, R320, R363.) -/
def Obligations.RowWideAndRawInstructions : Prop :=
  (∀ (c : Fin 32) f s t r, s.issuable c 0x50 f = true → f.only { a := true, n := true, i := true } = true → f.a < 8 →
    (s.hslot c f.n).isSome = true → (s.hslot c f.a).isSome = true →
    [f.n, f.a].any (s.handleRetired c) = false → inReach (writeReach (s.chan c).eng.queue) (s.hloc c f.n) false = true →
    s.chanOut c = false → f.u ≠ 0 → t = (s.issued c).useMap (s.hloc c f.n) → (t.chan c).eng.phase = .running →
    t.written (s.hloc c f.n) = true →
    r = t.readRow c (t.hloc c f.a) f.u →
    exec (.rowCopy c f) s = .next (commit s ((s.issued c).settleAtt c (.done
      (r.1.writeRow (t.hloc c f.n) f.u (r.2.map fun d => encodeSector d.data d.metaByte)))))) ∧
  (∀ (c : Fin 32) f s t, s.issuable c 0x51 f = true →
    f.only { a := true, n := true, m := true, i := true } = true → f.m < 16 → (s.hslot c f.n).isSome = true →
    [f.n].any (s.handleRetired c) = false → inReach (writeReach (s.chan c).eng.queue) (s.hloc c f.n) false = true →
    s.chanOut c = false → f.u ≠ 0 → t = (s.issued c).useMap (s.hloc c f.n) → (t.chan c).eng.phase = .running →
    t.written (s.hloc c f.n) = true →
    exec (.rowFill c f) s = .next (commit s ((s.issued c).settleAtt c (.done
      (t.writeRow (t.hloc c f.n) f.u
        ((maskSectors f.u).map fun _ => encodeSector (repeatWord (t.g c f.a)) f.m)))))) ∧
  (∀ (c : Fin 32) f s t, s.issuable c 0x52 f = true → f.only { n := true, i := true } = true →
    (s.hslot c f.n).isSome = true →
    [f.n].any (s.handleRetired c) = false → inReach (writeReach (s.chan c).eng.queue) (s.hloc c f.n) false = true →
    s.chanOut c = false → f.u ≠ 0 → t = (s.issued c).useMap (s.hloc c f.n) → (t.chan c).eng.phase = .running →
    t.written (s.hloc c f.n) = true →
    exec (.rowZero c f) s = .next (commit s ((s.issued c).settleAtt c (.done
      (t.writeRow (t.hloc c f.n) f.u ((maskSectors f.u).map fun _ => zeroCode)))))) ∧
  (∀ (c : Fin 32) f s, s.canIssue c 0x52 f = true → f.only { n := true, i := true } = true →
    (s.hslot c f.n).isSome = true → [f.n].any (s.handleRetired c) = false → inReach (writeReach (s.chan c).eng.queue) (s.hloc c f.n) false →
    s.chanOut c = false → f.u = 0 →
    exec (.rowZero c f) s = .next (commit s ((s.issued c).passed c))) ∧
  (∀ (c : Fin 32) f s t, s.issuable c 0x52 f = true → f.only { n := true, i := true } = true →
    (s.hslot c f.n).isSome = true →
    [f.n].any (s.handleRetired c) = false → inReach (writeReach (s.chan c).eng.queue) (s.hloc c f.n) false = true →
    s.chanOut c = false → f.u ≠ 0 → t = (s.issued c).useMap (s.hloc c f.n) → (t.chan c).eng.phase = .running →
    t.written (s.hloc c f.n) = false →
    exec (.rowZero c f) s = .next (commit s ((s.issued c).settleAtt c (.wait
      (t.startFill c (locExtent (s.hloc c f.n))))))) ∧
  (∀ (c : Fin 32) f s t r q, s.issuable c 0x53 f = true →
    f.only { a := true, b := true, n := true, m := true, i := true } = true → f.a < 8 → f.b < 8 → f.m < 4 →
    (s.hslot c f.n).isSome = true → (s.hslot c f.a).isSome = true → (s.hslot c f.b).isSome = true →
    [f.n, f.a, f.b].any (s.handleRetired c) = false → inReach (writeReach (s.chan c).eng.queue) (s.hloc c f.n) false = true →
    s.chanOut c = false → f.u ≠ 0 → t = (s.issued c).useMap (s.hloc c f.n) → (t.chan c).eng.phase = .running →
    t.written (s.hloc c f.n) = true →
    r = t.readRow c (t.hloc c f.a) f.u → q = r.1.readRow c (t.hloc c f.b) f.u →
    exec (.rowBit c f) s = .next (commit s ((s.issued c).settleAtt c (.done
      (q.1.writeRow (t.hloc c f.n) f.u (List.zipWith (fun x y => bitSector f.m x (some y)) r.2 q.2)))))) ∧
  (∀ (c : Fin 32) f s t r, s.issuable c 0x53 f = true →
    f.only { a := true, n := true, m := true, i := true } = true → f.a < 8 → f.m = 4 →
    (s.hslot c f.n).isSome = true → (s.hslot c f.a).isSome = true →
    [f.n, f.a].any (s.handleRetired c) = false → inReach (writeReach (s.chan c).eng.queue) (s.hloc c f.n) false = true →
    s.chanOut c = false → f.u ≠ 0 → t = (s.issued c).useMap (s.hloc c f.n) → (t.chan c).eng.phase = .running →
    t.written (s.hloc c f.n) = true →
    r = t.readRow c (t.hloc c f.a) f.u →
    exec (.rowBit c f) s = .next (commit s ((s.issued c).settleAtt c (.done
      (r.1.writeRow (t.hloc c f.n) f.u (r.2.map fun x => bitSector 4 x none)))))) ∧
  (∀ (c : Fin 32) f s i r, s.issuable c 0x54 f = true →
    f.only { d := true, a := true, b := true, n := true, m := true, i := true } = true → f.m < 16 →
    s.hslot c f.n = some i → s.handleRetired c f.n = false → s.chanOut c = false → r = (s.issued c).readRow c (s.slot c i).loc f.u →
    exec (.rowCmp c f) s = .next (commit s ((s.issued c).settleAtt c (.done (r.1.setG c f.d
      (BitVec.ofNat 64 (matchMask f.u (f.m % 8) (bitOf f.m 3) (s.g c f.a) (s.g c f.b) r.2))))))) ∧
  (∀ (c : Fin 32) f s i r, s.issuable c 0x55 f = true → f.only { d := true, n := true, i := true } = true →
    s.hslot c f.n = some i → s.handleRetired c f.n = false → s.chanOut c = false → r = (s.issued c).readRow c (s.slot c i).loc f.u →
    exec (.rowPopc c f) s = .next (commit s ((s.issued c).settleAtt c (.done (r.1.setG c f.d
      (BitVec.ofNat 64 (r.2.foldl (fun a d => a + popcount 512 d.data.toNat) 0))))))) ∧
  (∀ (c : Fin 32) f s i r, s.issuable c 0x56 f = true →
    f.only { d := true, a := true, n := true, i := true } = true →
    s.hslot c f.n = some i → s.handleRetired c f.n = false → s.chanOut c = false → r = (s.issued c).readRow c (s.slot c i).loc f.u →
    exec (.rowCrc c f) s = .next (commit s ((s.issued c).settleAtt c (.done (r.1.setG c f.d (BitVec.ofNat 64
      (r.2.foldl (fun a d => crcRun a (bytesLE 64 d.data.toNat)) ((s.g c f.a).toNat % 2 ^ 32)))))))) ∧
  (∀ (c : Fin 32) f s i, s.issuable c 0x57 f = true → f.only { d := true, a := true, n := true } = true →
    (s.chan c).eng.progress = 0 → s.hslot c f.n = some i → locValid (s.g c f.a).toNat = true →
    locCh (s.g c f.a).toNat ≠ c → s.rowRetired (s.g c f.a).toNat = false → s.handleRetired c f.n = false →
    inReach (writeReach (s.chan c).eng.queue) (s.g c f.a).toNat false = true →
    (s.chan (locCh (s.g c f.a).toNat)).st = .online → s.chanOut c = false →
    exec (.rowFerry c f) s = .next (commit s ((s.issued c).settleAtt c (.wait
      (((s.issued c).writeIssued (s.g c f.a).toNat).modEng c fun e => { e with progress := 1 }))))) ∧
  (∀ (c : Fin 32) f s, (s.chan c).eng.phase = .running → (s.chan c).eng.waiting.isSome = true →
    (s.chan c).eng.store[(s.chan c).eng.pc]? = some (wordOf 0x57 f) → (s.chan c).eng.progress = 2 →
    exec (.instructionWaitEnd c) s = .next (commit s ((s.calmWants c).settleAtt c (.done (((s.calmWants c).landFerry c).1.setG c f.d
      (resultWord (if ((s.calmWants c).landFerry c).2 then .ok else .internal) 0 0)))))) ∧
  (∀ (c : Fin 32) f s t, s.issuable c 0x60 f = true → f.only { a := true, i := true } = true → f.u < 32 →
    s.mayM c = true → s.locFault c (readReach (s.chan c).eng.queue) (s.g c f.a) false = none → s.chanOut c = false →
    t = (s.issued c).useMap (s.g c f.a).toNat → (t.chan c).eng.phase = .running →
    (t.fillRuns (s.g c f.a).toNat = true →
      exec (.secRdraw c f) s = .next (commit s ((s.issued c).settleAtt c (.wait t)))) ∧
    (t.fillRuns (s.g c f.a).toNat = false → t.written (s.g c f.a).toNat = false →
      exec (.secRdraw c f) s = .next (commit s ((s.issued c).settleAtt c (.done (t.putImage c zeroCode))))) ∧
    (∀ v, t.written (s.g c f.a).toNat = true → t.ownAccess c (s.g c f.a).toNat 1 false = .go v →
      exec (.secRdraw c f) s = .next (commit s ((s.issued c).settleAtt c (.done
        (v.putImage c (v.stored ⟨(s.g c f.a).toNat, f.u⟩)))))) ∧
    (∀ v, t.written (s.g c f.a).toNat = true → t.ownAccess c (s.g c f.a).toNat 1 false = .wait v →
      exec (.secRdraw c f) s = .next (commit s ((s.issued c).settleAtt c (.wait v))))) ∧
  (∀ (c : Fin 32) f s t x, s.issuable c 0x61 f = true → f.only { a := true, m := true, i := true } = true →
    wrrawBad f.m f.u = false →
    s.mayM c = true → s.locFault c (writeReach (s.chan c).eng.queue) (s.g c f.a) false = none → s.chanOut c = false →
    t = (s.issued c).useMap (s.g c f.a).toNat → (t.chan c).eng.phase = .running → x = ⟨(s.g c f.a).toNat, f.u % 32⟩ →
    t.written (s.g c f.a).toNat = true →
    (∀ v, t.ownAccess c (s.g c f.a).toNat 2 true = .go v →
      exec (.secWrraw c f) s = .next (commit s ((s.issued c).settleAtt c (.done
        ((v.storeHit x (BitVec.allOnes 64)).setStored x
          (rawMerge (v.stored x) (v.image c) f.m (bitsOf f.u 11 8))))))) ∧
    (∀ v, t.ownAccess c (s.g c f.a).toNat 2 true = .wait v →
      exec (.secWrraw c f) s = .next (commit s ((s.issued c).settleAtt c (.wait v))))) ∧
  (∀ (s : State) (k n : Nat) (write may : Bool) (w : Want), s.rowWaits w.loc write = false →
    (w.moveIn ≠ some true ∨ write = true) →
    ((s.findSlot w.loc).isSome = true →
      (s.progPort w = true → s.progServe k n write may w =
        .go (((s.dropWant k w.loc).touch w.loc).countCh (locCh w.loc) 4 1 none (some w.flow))) ∧
      (s.progPort w = false → s.progServe k n write may w = .wait (s.putWant k { w with port := true }))) ∧
    (s.findSlot w.loc = none →
      (s.progWay w may = .promoting → s.progServe k n write may w = .wait (s.bringIn k w write)) ∧
      (s.progWay w may = .afterRefresh → s.progServe k n write may w = .wait (s.putWant k { w with refused := true })) ∧
      (s.progWay w may = .sector →
        (∀ t, s.progCycle k w.loc n 1 w = .wait t → s.progServe k n write may w = .wait t) ∧
        (∀ t, s.progCycle k w.loc n 1 w = .go t → s.progServe k n write may w =
          .go ((t.dropWant k w.loc).cyclesAt w.loc n (none, some w.flow)))))) ∧
  (∀ (c : Fin 32) f s, s.issuable c 0x60 f = true → f.only { a := true, i := true } = true → f.u < 32 →
    (s.chan c).eng.queue < 6 →
    exec (.secRdraw c f) s = .next (commit s ((s.issued c).endProgram c 1 0x11)))

/-- rep.retire, rep.row, rep.col with its walk, ref.row, ext.init, vp.spare, vp.chk, vp.pt, stat.res, stat.act, tst.wr
and tst.rd have the effect and the result word of their tables (ref.row is not counted in the trackers: log entry 42;
in the walk a sector is logged by the row as addressed, and one of a spare row that stands for no row is logged
nowhere: log entry 116); rep.retire from a queue below 6 and tst.wr in a program without TEST end it with CLASS.
Answers a next state for: repRetire, repRow, repCol, repColWalkStep, refRow, extInit, vpSpare, vpChk, vpPt, statRes,
statAct, tstWr, tstRd. (R264, R265, R322, R323, R324, R325, R326, R327, R328, R329, R330.) -/
def Obligations.MaintenanceStatisticsAndTestInstructions : Prop :=
  (∀ (c : Fin 32) f s loc, s.issuable c 0x70 f = true → f.only { d := true, a := true } = true →
    (s.chan c).eng.progress = 0 → s.mayM c = true → loc = (s.g c f.a).toNat →
    s.locFault c (readReach (s.chan c).eng.queue) (s.g c f.a) false = none → locClass loc ≠ 2 →
    s.chanOut c = false → s.mode ≠ .safe → s.ledgerFull = false → s.rowPinned loc = false → s.moving loc = false →
    exec (.repRetire c f) s = .next (commit s ((s.issued c).settleAtt c (.wait
      (((s.issued c).ledgerQueue ⟨2, 1, loc, 0, .repRetire c loc⟩).setProgress c 1))))) ∧
  (∀ (c : Fin 32) f s, s.canIssue c 0x70 f = true → f.only { d := true, a := true } = true →
    (s.chan c).eng.progress = 0 → s.mayM c = true →
    s.locFault c (readReach (s.chan c).eng.queue) (s.g c f.a) false = none → locClass (s.g c f.a).toNat ≠ 2 →
    s.chanOut c = false → s.mode ≠ .safe → s.ledgerFull = true →
    exec (.repRetire c f) s = .next (commit s (((s.issued c).setG c f.d (resultWord .ignored 2 0)).passed c))) ∧
  (∀ (c : Fin 32) f s loc k t, s.issuable c 0x71 f = true → f.only { d := true, a := true } = true →
    (s.chan c).eng.progress = 0 → s.mayM c = true → loc = (s.g c f.a).toNat →
    s.locFault c (readReach (s.chan c).eng.queue) (s.g c f.a) false = none →
    s.chanOut c = false → s.mode ≠ .safe → s.ledgerTakes 1 loc = true → s.freeRow loc = some k → s.moving loc = false →
    s.rowWaits loc true = false → (s.issued c).ownCycle c loc (if (s.findSlot loc).isSome then 1 else 2) 4 = .go t →
    exec (.repRow c f) s = .next (commit s ((s.issued c).settleAtt c (.wait
      ((((t.seenRow c loc).moveToSpare loc k (t.progFor c)).ledgerQueue
        ⟨1, 1, loc, k, .repRow c k⟩).setProgress c (1 + k)))))) ∧
  (∀ (c : Fin 32) f s loc k, s.issuable c 0x72 f = true → f.only { d := true, a := true, i := true } = true →
    f.u < 32 → (s.chan c).eng.progress = 0 → (s.chan c).eng.walk = none → s.mayM c = true → loc = (s.g c f.a).toNat →
    s.locFault c (readReach (s.chan c).eng.queue) (s.g c f.a) false = none →
    s.chanOut c = false → s.mode ≠ .safe →
    s.ledgerTakes 3 (targetOf (locCh loc) (locLayer loc) (locBank loc) f.u) = true →
    s.freeCol (locGbi loc) = some k →
    exec (.repCol c f) s = .next (commit s ((s.issued c).settleAtt c (.wait
      ((s.issued c).modEng c fun e => { e with walk := some ⟨locGbi loc, f.u, k, 0, s.now⟩ }))))) ∧
  (∀ (c : Fin 32) s w v row u x, (s.chan c).eng.walk = some w → (s.chan c).eng.store[(s.chan c).eng.pc]? = some v →
    (s.chan c).scrub.buffer = none → row = physRowAt (s.g c (fieldsOf v).a).toNat w.rows →
    u = s.advanceTo (w.lastStep + 16 * s.period) → u.ownCycle c row 2 4 = .wait x →
    exec (.repColWalkStep c) s = .next (commit s s)) ∧
  (∀ (c : Fin 32) s w v loc row u t d y z, (s.chan c).eng.walk = some w →
    (s.chan c).eng.store[(s.chan c).eng.pc]? = some v → (s.chan c).scrub.buffer = none →
    loc = (s.g c (fieldsOf v).a).toNat → row = physRowAt loc w.rows → u = s.advanceTo (w.lastStep + 16 * s.period) →
    u.ownCycle c row 2 4 = .go t →
    d = decodeSector (t.fld (F.ECC_CFG_POLICY c)) (t.physAt (arrayKey row (t.physCol w.gbi w.sector))) →
    y = (match t.addressed row with
      | some a => (((t.activatePhys row 4).activatePhys row 4).noteDecode ⟨a, w.sector⟩ d (t.progFor c) 0).seenOf c d
      | none => (t.activatePhys row 4).activatePhys row 4) →
    z = (y.setPhys (arrayKey row (32 + w.spare)) d.code).modEng c (fun e =>
      { e with walk := some { w with rows := w.rows + 1, lastStep := y.now } }) →
    (w.rows + 1 < 16576 → exec (.repColWalkStep c) s = .next (commit s z)) ∧
    (16576 ≤ w.rows + 1 → exec (.repColWalkStep c) s = .next (commit s
      ((((z.modEng c fun e => { e with walk := none }).spareForCol w.gbi w.sector w.spare).ledgerQueue
        ⟨3, 1, targetOf (locCh loc) (locLayer loc) (locBank loc) w.sector, w.spare, .repCol c w.spare⟩).setProgress c
          (1 + w.spare))))) ∧
  (∀ (c : Fin 32) f s loc, s.issuable c 0x73 f = true → f.only { d := true, a := true, m := true } = true →
    f.m < 2 → s.mayM c = true → loc = (s.g c f.a).toNat →
    s.locFault c (readReach (s.chan c).eng.queue) (s.g c f.a) false = none → s.chanOut c = false →
    (s.bankOpen loc = false → exec (.refRow c f) s = .next (commit s ((s.issued c).settleAtt c (.wait (s.issued c))))) ∧
    (s.bankOpen loc = true → f.m = 0 → exec (.refRow c f) s = .next (commit s ((s.issued c).settleAtt c (.done
      (((s.issued c).charge c (locLayer loc) 4).setG c f.d (resultWord .ok 0 1)))))) ∧
    (s.bankOpen loc = true → f.m = 1 → exec (.refRow c f) s = .next (commit s ((s.issued c).settleAtt c (.done
      (((s.issued c).targetedRefresh c (locLayer loc) (physIndex (s.physRow loc)) false).setG c f.d
        (resultWord .ok 0 (neighbours (physIndex (s.physRow loc))).length))))))) ∧
  (∀ (c : Fin 32) f s loc t, s.issuable c 0x74 f = true → f.only { d := true, a := true, m := true } = true →
    f.m < 2 → s.mayM c = true → loc = (s.g c f.a).toNat →
    s.locFault c (readReach (s.chan c).eng.queue) (s.g c f.a) false = none → locClass loc ≠ 2 → s.chanOut c = false →
    t = (s.issued c).useMap loc → (t.chan c).eng.phase = .running →
    (f.m = 1 → exec (.extInit c f) s = .next (commit s ((s.issued c).settleAtt c
      (t.extClear c (locExtent loc) f)))) ∧
    (f.m = 0 → t.written loc = false → exec (.extInit c f) s = .next (commit s ((s.issued c).settleAtt c (.wait
      ((t.startFill c (locExtent loc)).setProgress c 1))))) ∧
    (f.m = 0 → t.written loc = true → exec (.extInit c f) s = .next (commit s ((s.issued c).settleAtt c (.done
      (t.setG c f.d (resultWord .ok 0 (t.chan c).eng.progress))))))) ∧
  (∀ (c : Fin 32) f s, s.issuable c 0x78 f = true → f.only { d := true, m := true, i := true } = true →
    f.u < 8960 → s.mayM c = true →
    (f.m = 0 → s.replaced c (f.u / 64) = none → exec (.vpSpare c f) s = .next (commit s
      ((s.issued c).settleAtt c (.done (((s.issued c).spareForCond c f.u).setG c f.d
        (resultWord .ok 0 (f.u / 64))))))) ∧
    (f.m = 1 → s.replaced c (f.u / 64) = some f.u → exec (.vpSpare c f) s = .next (commit s
      ((s.issued c).settleAtt c (.done ((((s.issued c).setSpare c (f.u / 64) none).leaveSpare (condKey c (f.u / 64))).setG c f.d
        (resultWord .ok 0 (f.u / 64)))))))) ∧
  (∀ (c : Fin 32) f seen s, s.canIssue c 0x79 f = true → f.only { d := true, i := true } = true → f.u % 256 < 140 →
    f.u < 1024 → s.mayM c = true →
    exec (.vpChk c f seen) s = .next (commit s (((s.issued c).setG c f.d seen).passed c))) ∧
  (∀ (c : Fin 32) f s, s.issuable c 0x7A f = true → f.only { d := true, a := true, m := true, i := true } = true →
    f.m < 2 → f.u < 8960 → s.mayM c = true →
    exec (.vpPt c f) s = .next (commit s ((s.issued c).settleAtt c (.done
      (((s.issued c).modChan c fun x => { x with vpt := { x.vpt with
        codes := x.vpt.codes.set (fun _ => none) (condPlace f.u f.m) (some ((s.g c f.a).toNat % 64)) } }).setG c f.d
        (resultWord .ok 0 (s.codeAt c (condPlace f.u f.m)))))))) ∧
  (∀ (c : Fin 32) f s, s.canIssue c 0x90 f = true → f.only { d := true, a := true } = true →
    s.locFault c (readReach (s.chan c).eng.queue) (s.g c f.a) false = none →
    (s.findSlot (s.g c f.a).toNat = none →
      exec (.statRes c f) s = .next (commit s (((s.issued c).setG c f.d 0).passed c))) ∧
    (∀ i, s.findSlot (s.g c f.a).toNat = some i →
      exec (.statRes c f) s = .next (commit s (((s.issued c).setG c f.d (BitVec.ofNat 64
        (1 + (s.slot c i).state.code * 2 + b2n ((s.chan c).pinned i) * 16 + b2n ((s.chan c).held.contains i) * 32 + i * 256))).passed c)))) ∧
  (∀ (c : Fin 32) f s, s.canIssue c 0x91 f = true → f.only { d := true, a := true } = true → s.mayM c = true →
    s.locFault c (readReach (s.chan c).eng.queue) (s.g c f.a) false = none →
    exec (.statAct c f) s = .next (commit s (((s.issued c).setG c f.d
      (BitVec.ofNat 64 (s.trackerCount (s.g c f.a).toNat % 2 ^ 16))).passed c))) ∧
  (∀ (c : Fin 32) f s loc t, s.issuable c 0xA0 f = true → f.only { a := true, b := true, m := true } = true →
    (f.m < 4 ∧ f.src2 = 0 ∨ f.m = 4) → s.testPinned c (s.g c f.a) = false → s.mayT c = true →
    loc = (s.g c f.a).toNat → s.locFault c (writeReach (s.chan c).eng.queue) (s.g c f.a) true = none →
    s.chanOut c = false → s.findSlot loc = none → s.rowWaits loc true = false →
    (s.issued c).ownCycle c loc 1 4 = .go t → t.findSlot loc = none →
    exec (.tstWr c f) s = .next (commit s ((s.issued c).settleAtt c (.done
      ((((patternRow f.m (s.g c f.b).toNat).zip (List.range 32)).foldl (fun u x => u.setArray ⟨loc, x.2⟩ x.1)
        (((t.activate loc 4).storeHitRow loc).countCh c 7)).writeIssued loc))))) ∧
  (∀ (c : Fin 32) f s loc u t, s.issuable c 0xA1 f = true →
    f.only { d := true, a := true, b := true, m := true } = true →
    (f.m < 4 ∧ f.src2 = 0 ∨ f.m = 4) → s.testPinned c (s.g c f.a) = false → s.mayT c = true →
    loc = (s.g c f.a).toNat → s.locFault c (readReach (s.chan c).eng.queue) (s.g c f.a) true = none →
    s.chanOut c = false → s.findSlot loc = none → s.rowWaits loc true = false →
    (s.issued c).ownCycle c loc 1 4 = .go u → u.findSlot loc = none → t = u.activate loc 4 →
    exec (.tstRd c f) s = .next (commit s ((s.issued c).settleAtt c (.done (t.setG c f.d (BitVec.ofNat 64
      (testReport ((List.range 32).map fun j => t.arrayAt ⟨loc, j⟩) (patternRow f.m (s.g c f.b).toNat)))))))) ∧
  (∀ (c : Fin 32) f s, s.issuable c 0x70 f = true → f.only { d := true, a := true } = true →
    (s.chan c).eng.progress = 0 → (s.chan c).eng.queue < 6 →
    exec (.repRetire c f) s = .next (commit s ((s.issued c).endProgram c 1 0x11))) ∧
  (∀ (c : Fin 32) f s, s.issuable c 0xA0 f = true → f.only { a := true, b := true, m := true } = true →
    (f.m < 4 ∧ f.src2 = 0 ∨ f.m = 4) → s.testPinned c (s.g c f.a) = false → (s.chan c).eng.desc.test = false →
    exec (.tstWr c f) s = .next (commit s ((s.issued c).endProgram c 1 0x11)))

/-- A refresh tick (one owed while the channel is in island reset) applies the channel's shadows whatever its state,
but not while its island is FORCED_OFF, sets band and temperature and makes four banks due where they are refreshed; a
bank whose close is done is refreshed, charged and counted, and in FATAL a due one without a close; a close is done
when every DIRTY slot that is kept has been cleaned once, no other slot of the bank is DIRTY and none is in motion;
the end of a refresh advances the lap, whose wrap empties the tracker; a powered die in self-refresh advances the laps
of its banks, but not of a RETIRED channel's; GLB_FPOINT_NEXT takes a point that has valid records for every tier in
use and is IGNORED otherwise. Answers a next state for: refreshIntervalTick, perBankRefreshIssue, perBankRefreshEnd,
dieSelfRefresh, glbFpointNextWrite. (R73, R242, R372, R373, R374, R375, R379, R384, R387, R77, R451.) -/
def Obligations.BanksAreRefreshed : Prop :=
  (∀ (c : Fin 32) s t u v, s.timerRuns c = true → s.flag (F.GLB_ISL_STS_IN_RESET c) = false →
    t = s.advanceTo ((s.chan c).refresh.tickAt + tREFI (s.fld (F.REF_STS_BAND c))) →
    u = (let y := t.modChan c fun x => { x with refresh := { x.refresh with tickAt := t.now } }
         if s.fld (F.GLB_ISL_CTL_GATE c) = 2 then y else y.applyShadows (domChan c)) →
    v = (u.setFld (F.REF_STS_BAND c) (u.nextBand c)).setFld (F.REF_STS_TEMP c) (u.chanTemp c / 4) →
    exec (.refreshIntervalTick c) s = .next (commit s (v.modChan c fun x => { x with refresh := { x.refresh with
      tick := x.refresh.tick + 1,
      due := x.refresh.due ++ (((List.range 4).map fun l => 32 * l + x.refresh.tick % 32).filter
        fun b => !x.closing b && v.refreshes c b).map fun b => (b, []) } }.noteSats
          (v.fld (F.REF_CFG_TRK_THRESH c))))) ∧
  (∀ (c : Fin 32) s t u, s.timerRuns c = true → s.flag (F.GLB_ISL_STS_IN_RESET c) = true →
    t = s.advanceTo ((s.chan c).refresh.tickAt + tREFI (s.fld (F.REF_STS_BAND c))) →
    u = (t.modChan c fun x => { x with refresh := { x.refresh with tickAt := t.now } }) →
    exec (.refreshIntervalTick c) s = .next (commit s (u.modChan c fun x =>
      { x with refresh := { x.refresh with owed := x.refresh.owed + 1 } }))) ∧
  (∀ (c : Fin 32) s, s.timerRuns c = false → exec (.refreshIntervalTick c) s = .next (commit s s)) ∧
  (∀ (c : Fin 32) (b : Fin 128) s, s.mode ≠ .fatal → s.refreshes c b = true → (s.chan c).closeDone b = true →
    s.bankBusy c b = false →
    exec (.perBankRefreshIssue c b) s = .next (commit s
      (((s.chargeRefresh c (b / 32)).countCh c 10).modChan c fun x => { x.closeClean b with
        refresh := { (x.closeClean b).refresh with
          due := (x.closeClean b).refresh.due.filter (fun e => e.1 != b.val),
          busy := b.val :: (x.closeClean b).refresh.busy } }))) ∧
  (∀ (c : Fin 32) (b : Fin 128) s, s.mode = .fatal → s.refreshes c b = true →
    ((s.chan c).refresh.due.any fun e => e.1 == b.val) = true → b.val ∉ (s.chan c).refresh.busy →
    exec (.perBankRefreshIssue c b) s = .next (commit s
      (((s.chargeRefresh c (b / 32)).countCh c 10).modChan c fun x => { x with refresh := { x.refresh with
        due := x.refresh.due.filter (fun e => e.1 != b.val), busy := b.val :: x.refresh.busy } }))) ∧
  (∀ (c : Fin 32) (b : Fin 128) s, (s.refreshes c b = false ∨
      s.mode ≠ .fatal ∧ ((s.chan c).closeDone b = false ∨ s.bankBusy c b = true)) →
    exec (.perBankRefreshIssue c b) s = .next (commit s s)) ∧
  (∀ (x : Chan) (b : Nat), x.closeDone b = true ↔
    (∃ e ∈ x.refresh.due, e.1 = b ∧ x.toClose b e.2 true = []) ∧ x.toClose b [] false = [] ∧
    ∀ i < 64, (x.slot i).bank = b →
      (x.slot i).state ≠ .filling ∧ (x.slot i).state ≠ .cleaning ∧ (x.slot i).state ≠ .evicting) ∧
  (∀ (x : Chan) (b i : Nat) once stay, i ∈ x.toClose b once stay ↔ i < 64 ∧ (x.slot i).state = .dirty ∧
    (x.slot i).bank = b ∧ x.kept i = stay ∧ (stay = true → i ∉ once)) ∧
  (∀ (c : Fin 32) (b : Fin 128) s, b.val ∈ (s.chan c).refresh.busy →
    exec (.perBankRefreshEnd c b) s = .next (commit s (((s.lapStep c b).modChan c fun x =>
      { x with refresh := { x.refresh with busy := x.refresh.busy.filter (· != b.val) } }).afterClose c b))) ∧
  (∀ (s : State) (c : Fin 32) b, ((s.lapStep c b).chan c).lapPos b = ((s.chan c).lapPos b + 1) % 448 ∧
    (((s.chan c).lapPos b + 1) % 448 = 0 → ((s.lapStep c b).chan c).refresh.trackers.get (fun _ => []) b = [])) ∧
  (∀ (d : Fin 16) (b : Fin 256) s c k, c = 8 * (d.val / 4) + b.val / 32 → k = 32 * (d.val % 4) + b.val % 32 →
    s.dieAsleep d = true → s.dieGood d = true → (s.chan c).st ≠ .retired →
    exec (.dieSelfRefresh d b) s = .next (commit s (s.modChan c fun x =>
      if (x.lapMove k).lapPos k = 0 ∧ k ∉ x.refresh.wrapped then
        { x.lapMove k with refresh := { (x.lapMove k).refresh with wrapped := k :: x.refresh.wrapped } }
      else x.lapMove k))) ∧
  (∀ (d : Fin 16) (b : Fin 256) s,
    (s.dieAsleep d = false ∨ s.dieGood d = false ∨ (s.chan (8 * (d.val / 4) + b.val / 32)).st = .retired) →
    exec (.dieSelfRefresh d b) s = .next (commit s s)) ∧
  (∀ p w s, s.granted p .GLB_FPOINT_NEXT 0 0 w = true →
    (b2n (bitOf w.toNat 8) = s.fld F.GLB_MODE_FPOINT ∨ ∀ t, t < 4 →
      s.flag (F.CAL_REC_VALID (2 * t + b2n (bitOf w.toNat 8))) = true ∨
      ∀ j, j < 8 → (s.chan (8 * t + j)).st = .offline ∨ (s.chan (8 * t + j)).st = .retired) →
    exec (.glbFpointNextWrite p w) s = .next (commit s (s.answered p (adr .GLB_FPOINT_NEXT) w
      (s.plainWrite (pathNum p) .GLB_FPOINT_NEXT 0 0 w)))) ∧
  (∀ p w s t j, s.granted p .GLB_FPOINT_NEXT 0 0 w = true → b2n (bitOf w.toNat 8) ≠ s.fld F.GLB_MODE_FPOINT → t < 4 →
    s.flag (F.CAL_REC_VALID (2 * t + b2n (bitOf w.toNat 8))) = false → j < 8 →
    (s.chan (8 * t + j)).st ≠ .offline → (s.chan (8 * t + j)).st ≠ .retired →
    exec (.glbFpointNextWrite p w) s = .next (commit s (s.turnedAway p (adr .GLB_FPOINT_NEXT))))

/-- CAL_CTL starts RAIL, SENSOR (in an installer's or the maker's session; PRIV without one) and COMMIT runs in ACTIVE
and SAFE when none runs, and a RAIL run is IGNORED otherwise; plausible results are put in force; channel runs end
with what their sweep found, a failed retrain leaving the codes in force, a failed drift run restoring them and taking
OFFLINE a channel that then fails (a fence's part: log entry 117); a tier held in a die reset waits; pending records
are committed after COMMIT_S to the slot not in force, while the core that writes MRAM runs, and a slot that does not
pass the checks of a record, a failed or a late commit raises CAL_WRITE; drift runs start in order over all tiers (in
SAFE too: log entry 28); a suspect position is spared or marks its channel due; VPT_PROBE shows code and window.
Answers a next state for: calRunRail, calRunSensor, calRunCommit, calRunEnd, calRecordCommit, calCommitDone,
calCommitTimeout, driftRunStart, suspectCheck, vptProbeLookup. (R355, R395, R396, R397, R398, R400, R401, R403, R404,
R394, R459, R490.) -/
def Obligations.CalibrationRunsAndCommits : Prop :=
  (∀ p s, s.granted p .CAL_CTL 0 0 (calRun 0) = true → s.flag F.CAL_CTL_BUSY = false →
    (s.mode = .active ∨ s.mode = .safe) →
    exec (.calRunRail p) s = .next (commit s (s.answered p (adr .CAL_CTL) (calRun 0)
      { (s.plainWrite (pathNum p) .CAL_CTL 0 0 (calRun 0)).setFlag F.CAL_CTL_BUSY true with
        calRun := some (0, false) }))) ∧
  (∀ p s, s.granted p .CAL_CTL 0 0 (calRun 1) = true → s.sessionOk p = true → s.flag F.CAL_CTL_BUSY = false →
    (s.mode = .active ∨ s.mode = .safe) →
    exec (.calRunSensor p) s = .next (commit s (s.answered p (adr .CAL_CTL) (calRun 1)
      { (s.plainWrite (pathNum p) .CAL_CTL 0 0 (calRun 1)).setFlag F.CAL_CTL_BUSY true with
        calRun := some (1, false) }))) ∧
  (∀ p s, s.granted p .CAL_CTL 0 0 (calRun 1) = true → s.sessionOk p = false →
    exec (.calRunSensor p) s = .next (commit s
      (((s.accFault 1 (pathNum p) (adr .CAL_CTL) true).bump F.GLB_ACC_COUNT_PRIV_DENY_COUNT).emit
        (.access (pathNum p) (adr .CAL_CTL) true .priv 0)))) ∧
  (∀ p s, s.granted p .CAL_CTL 0 0 (calRun 2) = true → s.flag F.CAL_CTL_BUSY = false →
    (s.mode = .active ∨ s.mode = .safe) →
    exec (.calRunCommit p) s = .next (commit s (s.answered p (adr .CAL_CTL) (calRun 2)
      (({ (s.plainWrite (pathNum p) .CAL_CTL 0 0 (calRun 2)).setFlag F.CAL_CTL_BUSY true with
        calRun := some (2, false) }).each 26 fun i t => t.commitStart i)))) ∧
  (∀ p s, s.granted p .CAL_CTL 0 0 (calRun 0) = true →
    (s.flag F.CAL_CTL_BUSY = true ∨ (s.mode ≠ .active ∧ s.mode ≠ .safe)) →
    exec (.calRunRail p) s = .next (commit s (s.turnedAway p (adr .CAL_CTL)))) ∧
  (∀ env s kind f, env.run = none → s.calRun = some (kind, f) → kind = 0 →
    payloadPlausible 25 (railPayload env.values) = true →
    exec (.calRunEnd env) s = .next (commit s
      ((({ s with calRun := none }.setFlag F.CAL_CTL_BUSY false).putResult 25 (railPayload env.values) 0).endRun 4 0 0
        0))) ∧
  (∀ env s kind f ref, env.run = none → s.calRun = some (kind, f) → kind = 1 → ref = s.fld F.CAL_REF_TEMP_REF →
    sensorsPlausible ref env.values = true →
    exec (.calRunEnd env) s = .next (commit s
      ((({ s with calRun := none }.setFlag F.CAL_CTL_BUSY false).putResult 24 (sensorPayload ref env.values)
        ref).endRun 5 0 0 0))) ∧
  (∀ env s (c : Fin 32) u, env.run = some c → (s.chan c).vpt.run = some .retrain → s.tierHeld (c / 8) = false →
    u = s.sweepChannel c (s.fld F.GLB_MODE_FPOINT) 3 (s.fld (F.VPT_STS_T_CAL c)) false env.sweep →
    (u.checkFails c (env.sweep.erring.map (·.val)) = false → exec (.calRunEnd env) s = .next (commit s
      (((u.runOver c).setChState c .quiesced 1).endRun 2 0 c 0))) ∧
    (u.checkFails c (env.sweep.erring.map (·.val)) = true → exec (.calRunEnd env) s = .next (commit s
      (((((s.sweepFailed c false env.sweep).raise (128 + 4 * c + 1) 1).runOver c).setChState c .quiesced 1).endRun 2 1 c
        0)))) ∧
  (∀ env s (c : Fin 32) u v, env.run = some c → (s.chan c).vpt.run = some .drift → s.tierHeld (c / 8) = false →
    u = s.sweepChannel c (s.fld F.GLB_MODE_FPOINT) 3 (s.fld (F.VPT_STS_T_CAL c)) true env.sweep →
    v = s.sweepFailed c true env.sweep →
    (s.driftBlocked c env.sweep = false → u.checkFails c (env.sweep.erring.map (·.val)) = false →
      exec (.calRunEnd env) s = .next (commit s
        ((((u.runOver c).endRun 3 0 c 0).setChState c .quiesced 5).chanOnline c 5))) ∧
    (s.driftBlocked c env.sweep = true ∨ u.checkFails c (env.sweep.erring.map (·.val)) = true →
      (v.checkFails c (env.sweep.recheck.map (·.val)) = false → exec (.calRunEnd env) s = .next (commit s
        ((((v.runOver c).endRun 3 1 c 0).setChState c .quiesced 5).chanOnline c 5))) ∧
      (v.checkFails c (env.sweep.recheck.map (·.val)) = true → exec (.calRunEnd env) s = .next (commit s
        ((((v.runOver c).endRun 3 1 c 0).chanOffline c 5).raise (128 + 4 * c + 1) 32))))) ∧
  (∀ env s (c : Fin 32), env.run = some c → s.tierHeld (c / 8) = true →
    exec (.calRunEnd env) s = .next (commit s s)) ∧
  (∀ (i : Fin 26) s, s.mramRuns = false → exec (.calRecordCommit i) s = .next (commit s s)) ∧
  (∀ (i : Fin 26) s t u, s.mramRuns = true → s.flag (F.CAL_REC_PENDING i) = true →
    s.mram.calAt.get (fun _ => none) i = some t → u = s.advanceTo (t + 1000000000 * s.fld F.CAL_CFG_COMMIT_S) →
    exec (.calRecordCommit i) s = .next (commit s (u.commitStart i))) ∧
  (∀ (i : Fin 26) (s : State), s.flag (F.CAL_REC_PENDING i) = true → s.mram.calWrite.get (fun _ => none) i = none →
    s.commitStart i =
      { s with mram := { s.mram with calWrite := s.mram.calWrite.set (fun _ => none) i (some (s.newSlot i)) } }) ∧
  (∀ (i : Fin 26) s x t, s.mram.calWrite.get (fun _ => none) i = some x →
    t = { s with mram := { s.mram with calWrite := s.mram.calWrite.set (fun _ => none) i none } } →
    (s.mramRuns = true → slotPasses i x = true → exec (.calCommitDone i true) s = .next (commit s (t.commitSlot i x))) ∧
    (∀ u, s.mramRuns = true → slotPasses i x = false → u = { t.putSlot i x with mram := { (t.putSlot i x).mram with
        calAt := (t.putSlot i x).mram.calAt.set (fun _ => none) i (some t.now) } } →
      exec (.calCommitDone i true) s = .next (commit s
        ({ u with calRun := u.calRun.map fun (r : Nat × Bool) => (r.1, true) }.raise 97 0))) ∧
    (∀ u, u = { t with mram := { t.mram with calAt := t.mram.calAt.set (fun _ => none) i (some t.now) } } →
      exec (.calCommitDone i false) s = .next (commit s
        ({ u with calRun := u.calRun.map fun (r : Nat × Bool) => (r.1, true) }.raise 97 0)) ∧
      exec (.calCommitTimeout i) s = .next (commit s
        ({ u with calRun := u.calRun.map fun (r : Nat × Bool) => (r.1, true) }.raise 97 0)))) ∧
  (∀ (c : Fin 32) s u, s.coreRuns (halfOfChan c) = true → s.flag F.CAL_CFG_AUTO_CAL = true → (s.mode = .active ∨ s.mode = .safe) →
    s.flag (F.VPT_STS_DUE c) = true → (s.chan c).st = .online →
    (∀ j, j < 8 → (s.chan (8 * (c / 8) + j)).vpt.drift = false ∧ (s.chan (8 * (c / 8) + j)).vpt.run ≠ some .drift) →
    (∀ k, k < c.val → s.driftReady (max s.now (s.gapEnd c)) k = false) → u = s.advanceTo (s.gapEnd c) →
    exec (.driftRunStart c) s = .next (commit s
      ((u.chanDrain c 5).modChan c fun x => { x with vpt := { x.vpt with drift := true } }))) ∧
  (∀ (c : Fin 32) (err : BitVec 5) s l, s.coreRuns (halfOfChan c) = true → s.flag (F.ECC_SUSPECT_VALID c) = true → s.flag F.CAL_CFG_AUTO_CAL = true →
    l = (below 5 fun i => err.getLsbD i).map
      (280 * s.fld (F.ECC_SUSPECT_LANE c) + 5 * s.fld (F.ECC_SUSPECT_SYMBOL c) + ·) →
    (l ≠ [] → exec (.suspectCheck c err) s = .next (commit s
      ((s.spareAll c 5 l).setFlag (F.ECC_SUSPECT_VALID c) false))) ∧
    (l = [] → exec (.suspectCheck c err) s = .next (commit s
      (((s.modChan c fun x => { x with vpt := { x.vpt with mark := true } }).updateDue c).setFlag
        (F.ECC_SUSPECT_VALID c) false)))) ∧
  (∀ p (c : Fin 32) w s k t, s.granted p .VPT_PROBE c 0 w = true → bitsOf w.toNat 13 0 ≤ 9147 →
    k = condPlace (bitsOf w.toNat 13 0) (b2n (bitOf w.toNat 30)) → t = s.plainWrite (pathNum p) .VPT_PROBE c 0 w →
    exec (.vptProbeLookup p c w) s = .next (commit s (s.answered p (adr .VPT_PROBE c) w
      (((t.setFld (F.VPT_PROBE_CODE c) (t.codeAt c k)).setFld (F.VPT_PROBE_WIN c)
        ((t.chan c).vpt.windows.get (fun _ => 0) k)).setFlag (F.VPT_PROBE_VALID c) true)))) ∧
  (∀ (s : State) i d n, s.putResult i d n =
    { s with calNow := s.calNow.set (fun _ => []) i d,
             mram := { s.mram with calTemp := s.mram.calTemp.set (fun _ => 0) i n } }.setFlag (F.CAL_REC_PENDING i) true) ∧
  (∀ (s : State) (i : Fin 26) x, s.otherSlot i = 0 →
    (s.putSlot i x).mram.cal.get calFactory i = { s.calRec i with slotA := some x }) ∧
  (∀ (s : State) (i : Fin 26) x, s.otherSlot i ≠ 0 →
    (s.putSlot i x).mram.cal.get calFactory i = { s.calRec i with slotB := some x }) ∧
  (∀ (s : State) (i : Fin 26) x u, u = (s.putSlot i x).forceSlot i (s.otherSlot i) x → s.commitSlot i x =
    ({ u with calNow := u.calNow.set (fun _ => []) i (s.calPayload i),
              calBad := putBits u.calBad i i 0 }.setFlag (F.CAL_REC_PENDING i) (s.calPayload i != x.payload)).settleCalStore)

/-- The scrub time and pointer advance while scrubbing runs (the command's time is scrub time: log entry 38) and stop
otherwise; in an idle vertical cycle with no row queued (out of FATAL, no program or export that takes it, no claim) a
visit goes to its row, its map word checked first, and the pointer passes on, and the end of a lap starts the next; a
lap past its target is set overdue; queued rows are visited first, and dropped where not eligible; the log of an
ONLINE or DRAINING channel whose core runs spills its oldest entry beyond 128 in an idle cycle, or from 248 in one
that claims 1 to 3 leave; an extent lookup shows the map; ECC injection is armed with a kind and IGNORED without.
Answers a next state for: scrubPointerAdvance, scrubVisit, scrubLapOverdue, priorityScrubVisit, logSpillWrite,
eccExtLookup, eccInjArm. (R348, R349, R350, R351, R352, R353, R354, R359, R361, R369, R236.) -/
def Obligations.ScrubbingSpillingAndErrorInjection : Prop :=
  (∀ (c : Fin 32) dt s t, s.scrubRuns c = true → t = s.modScrub c (fun x => { x with time := x.time + dt }) →
    (t.mayPass c = false → 0 < lapLength - (t.chan c).scrub.pointer →
      exec (.scrubPointerAdvance c dt) s = .next (commit s t)) ∧
    exec (.scrubPointerAdvance c dt) s =
      .next (commit s (t.passIneligible c (lapLength - (t.chan c).scrub.pointer)))) ∧
  (∀ (c : Fin 32) dt s, s.scrubRuns c = false → exec (.scrubPointerAdvance c dt) s = .next (commit s s)) ∧
  (∀ (c : Fin 32) s r loc t, s.idleCycle c = some r → r.scrubRuns c = true → (r.chan c).scrub.queue = [] →
    r.mayPass c = true → loc = scrubRow c (r.chan c).scrub.pointer → t = r.useMap loc →
    (t.scrubRuns c = true → t.eligible loc = true → t.visitable loc = true →
      exec (.scrubVisit c) s = .next (commit s ((t.visit loc).passOne c))) ∧
    (t.scrubRuns c = false → exec (.scrubVisit c) s = .next (commit s t))) ∧
  (∀ (c : Fin 32) s r, s.idleCycle c = some r →
    (r.scrubRuns c = false ∨ (r.chan c).scrub.queue ≠ [] ∨ r.mayPass c = false) →
    exec (.scrubVisit c) s = .next (commit s s)) ∧
  (∀ (c : Fin 32) s, s.idleCycle c = none → exec (.scrubVisit c) s = .next (commit s s)) ∧
  (∀ (c : Fin 32) (s : State) claims, (s.mode = .fatal ∨ s.progLeads c = true ∨
      ((s.exportNext c).chan c).lastVc ≠ (s.chan c).lastVc ∨ (claims (s.nextCycle c)).2 = true →
      s.leftCycle c claims = none) ∧
    (s.mode ≠ .fatal → s.progLeads c = false → ((s.exportNext c).chan c).lastVc = (s.chan c).lastVc →
      (claims (s.nextCycle c)).2 = false → s.leftCycle c claims = some (claims (s.nextCycle c)).1)) ∧
  (∀ (c : Fin 32) (s : State), s.idleCycle c = s.leftCycle c fun t => t.workClaims c) ∧
  (∀ (s : State) (c : Fin 32), (s.chan c).scrub.pointer + 1 < lapLength →
    ((s.passOne c).chan c).scrub.pointer = (s.chan c).scrub.pointer + 1) ∧
  (∀ (s : State) (c : Fin 32), lapLength ≤ (s.chan c).scrub.pointer + 1 →
    ((s.passOne c).chan c).scrub.pointer = 0 ∧ ((s.passOne c).chan c).scrub.time = 0 ∧
    ((s.passOne c).chan c).scrub.lap = (s.chan c).scrub.lap + 1) ∧
  (∀ (c : Fin 32) s, s.scrubRuns c = true → (s.chan c).scrub.overdue = false →
    exec (.scrubLapOverdue c) s = .next (commit s ((s.modScrub c fun x => { x with
      overdue := true, time := max x.time (s.fld (F.ECC_SCRUB_CFG_LAP_TARGET c) * 1125000000) }).setFlag
      (F.ECC_SCRUB_STS_LAP_OVERDUE c) true))) ∧
  (∀ (c : Fin 32) s loc rest t, (s.chan c).scrub.queue = loc :: rest → s.scrubRuns c = true → t = s.useMap loc →
    t.scrubRuns c = true → (t.eligible loc = true →
      (∀ u, t.idleCycle c = some u → u.visitable loc = true → exec (.priorityScrubVisit c) s =
        .next (commit s ((u.modScrub c fun x => { x with queue := rest }).visit loc))) ∧
      (t.idleCycle c = none → exec (.priorityScrubVisit c) s = .next (commit s t))) ∧
    (t.eligible loc = false → exec (.priorityScrubVisit c) s =
      .next (commit s (t.modScrub c fun x => { x with queue := rest })))) ∧
  (∀ (c : Fin 32) s, (s.chan c).scrub.queue = [] → exec (.priorityScrubVisit c) s = .next (commit s s)) ∧
  (∀ (c : Fin 32) s e rest o r u i t, (s.chan c).log.entries = e :: rest → 128 ≤ rest.length →
    s.coreRuns (halfOfChan c) = true → s.flag (F.ECC_CFG_SPILL_EN c) = true →
    ((s.chan c).st = .online ∨ (s.chan c).st = .draining) →
    o = 0xC00000 + 32 * s.fld (F.ECC_SPILL_STS_WR_IDX c) → s.spillCycle c = some r →
    r.ringCycles (serviceAt c o).loc = some u → i = u.fld (F.ECC_SPILL_STS_WR_IDX c) →
    t = ((u.putRing c o e).modChan c fun x => { x with log := { x.log with entries := rest } }).setFld
      (F.ECC_SPILL_STS_WR_IDX c) ((i + 1) % 32768) →
    (i ≠ 32767 → exec (.logSpillWrite c) s = .next (commit s t)) ∧
    (i = 32767 → exec (.logSpillWrite c) s = .next (commit s (t.bump (F.ECC_SPILL_STS_WRAPS c))))) ∧
  (∀ (c : Fin 32) s, s.spillCycle c = none → exec (.logSpillWrite c) s = .next (commit s s)) ∧
  (∀ (c : Fin 32) (s : State), ((s.chan c).log.entries.length < 248 → s.spillCycle c = s.idleCycle c) ∧
    (248 ≤ (s.chan c).log.entries.length → s.spillCycle c = s.leftCycle c fun t => t.upperClaims c)) ∧
  (∀ p (c : Fin 32) w s e t, s.granted p .ECC_EXT c 0 w = true → e = bitsOf w.toNat 16 0 →
    t = (s.plainWrite (pathNum p) .ECC_EXT c 0 w).useMapWord c e →
    exec (.eccExtLookup p c w) s = .next (commit s (s.answered p (adr .ECC_EXT c) w
      ((t.setFlag (F.ECC_EXT_WRITTEN c) ((t.chan c).mapBit e)).setFlag (F.ECC_EXT_VALID c)
        true)))) ∧
  (∀ p (c : Fin 32) w s v, v = withBits w 31 31 1 → s.granted p .ECC_INJ_CTL c 0 v = true → bitsOf w.toNat 27 24 ≠ 0 →
    s.flag (F.ECC_INJ_CTL_ARM c) = false →
    exec (.eccInjArm p c w) s = .next (commit s (s.answered p (adr .ECC_INJ_CTL c) v
      ((s.setFld (F.ECC_INJ_CTL_INJECTED c) 0).plainWrite (pathNum p) .ECC_INJ_CTL c 0 v)))) ∧
  (∀ p (c : Fin 32) w s v, v = withBits w 31 31 1 → s.granted p .ECC_INJ_CTL c 0 v = true → bitsOf w.toNat 27 24 = 0 →
    exec (.eccInjArm p c w) s = .next (commit s (s.turnedAway p (adr .ECC_INJ_CTL c))))

/-- A sample takes the sensors' values into readings, maxima, period, thermal step and trip at its period, and does
nothing in RESET and DEEP RETENTION; the second sample at the limit trips; the backstop drives THERMTRIP and, out of
RESET, raises its fault; a share not renewed for 20 ms lapses to the fallback; the effective cap is the least of those
in force; a throttle hold ends 10 ms after its raise. Answers a next state for: sensorSample, backstopTrip,
shareLapse, throttleHoldExpire. (R406, R408, R409, R410, R411, R412, R413, R417, R418, R419, R420, R421.) -/
def Obligations.HeatIsSampledAndBoundsTheDevice : Prop :=
  (∀ (d : Fin 17) raw s x rest t0 t1 t2 t3, s.mode ≠ .reset → s.mode ≠ .deepRetention →
    s.thermal.history.get (fun _ => []) d = x :: rest →
    t0 = s.advanceTo (x.1 + s.samplePeriod d) →
    t1 = { t0 with thermal := { t0.thermal with hotAt := if t0.someHot then some t0.now else t0.thermal.hotAt } } →
    t2 = ((dieSensors d).zip raw).foldl (fun t p => t.sampleSensor p.1 p.2.toNat) t1 →
    t3 = ((((t2.sampleDie d).setMaxima).setPeriod d).thermalStep d).keepHistory d →
    exec (.sensorSample d raw) s = .next (commit s ((if d.val = 16 then t3.measure else
      (List.range 8).foldl (fun t j =>
        (t.noteLow (8 * (d.val / 4) + j)).updateDue (8 * (d.val / 4) + j)) t3).tripStep d))) ∧
  (∀ (d : Fin 17) raw s, (s.mode = .reset ∨ s.mode = .deepRetention) →
    exec (.sensorSample d raw) s = .next (commit s s)) ∧
  (∀ (s : State) d, s.flag F.THM_TRIP_TRIPPED = false → encC (if d = 16 then 115 else 110) ≤ s.inForce d →
    1 ≤ s.thermal.trips.get (fun _ => 0) d → s.tripStep d =
      ({ s with thermal := { s.thermal with trips := s.thermal.trips.set (fun _ => 0) d 2 } }).trip d false
        (s.inForce d)) ∧
  (∀ (d : Fin 17) s, s.mode = .reset →
    exec (.backstopTrip d) s = .next (commit s { s with pins := { s.pins with thermtrip := true } })) ∧
  (∀ (d : Fin 17) s t, s.mode ≠ .reset →
    t = ((({ s with pins := { s.pins with thermtrip := true } }.setFlag F.THM_TRIP_TRIPPED true).setFlag
      F.THM_TRIP_BACKSTOP true).setFld F.THM_TRIP_DIE d).setFld F.THM_TRIP_TEMP 0 →
    exec (.backstopTrip d) s = .next (commit s ({ t with ownSelf := 0xFFFF }.raise 81 (2 ^ d.val)))) ∧
  (∀ s n t, s.thermal.shareAt = some n → s.flag F.PWR_STS_SHARE_VALID = true →
    t = ((s.advanceTo (n + 20000000)).setFlag F.PWR_STS_SHARE_VALID false).setFlag F.PWR_STS_SHARE_LAPSED true →
    exec .shareLapse s = .next (commit s
      (({ t with thermal := { t.thermal with shareAt := none } }.setEffective).raiseCond 82 0))) ∧
  (∀ s : State, s.effective = (if s.flag F.PWR_STS_SHARE_LAPSED then min (s.fld F.PWR_CAP_CAP) (s.fld F.PWR_CAP_FALLBACK)
    else if s.flag F.PWR_STS_SHARE_VALID then min (s.fld F.PWR_CAP_CAP) (s.fld F.PWR_STS_SHARE)
    else s.fld F.PWR_CAP_CAP)) ∧
  (∀ (n : Fin 256) s t, s.coll.holds.get (fun _ => none) n = some t →
    exec (.throttleHoldExpire n) s = .next (commit s { s.advanceTo (t + 10000000) with
      coll := { (s.advanceTo (t + 10000000)).coll with
        holds := (s.advanceTo (t + 10000000)).coll.holds.set (fun _ => none) n none } })) ∧
  (∀ (n : Fin 256) s, s.coll.holds.get (fun _ => none) n = none →
    exec (.throttleHoldExpire n) s = .next (commit s s))

/-- A boundary temperature moves the extreme or, after a reversal of 5 C, counts a half cycle of more than 20 C with
its damage; a wear check of a channel whose core runs spares erring conductors and raises the fault where none is
free; the wear record is written once an hour while the core that writes MRAM runs. Answers a next state for:
wearSample, wearCheck, wearRecordWrite. (R438, R439, R440, R459.) -/
def Obligations.BondWearIsCountedCheckedAndSaved : Prop :=
  (∀ (b : Fin 4) s w t, s.mode ≠ .reset → s.mode ≠ .deepRetention → s.wear[b.val] = some w → t = s.boundaryTemp b →
    (if w.up then w.ext < t else t < w.ext) →
    exec (.wearSample b) s = .next (commit s { s with wear := s.wear.set b (some { w with ext := t }) })) ∧
  (∀ (b : Fin 4) s w t u n, s.mode ≠ .reset → s.mode ≠ .deepRetention → s.wear[b.val] = some w → t = s.boundaryTemp b →
    ¬ (if w.up then w.ext < t else t < w.ext) → 20 ≤ (w.ext - t) + (t - w.ext) →
    u = { s with wear := s.wear.set b (some ⟨w.ext, t, !w.up⟩) } → n = (w.ext - w.ref) + (w.ref - w.ext) →
    (n ≤ 80 → exec (.wearSample b) s = .next (commit s u)) ∧
    (80 < n → exec (.wearSample b) s = .next (commit s (((u.bump (F.THM_WEAR_STS_HALF_CYCLES b)).bump
      (F.THM_WEAR_IDX_INDEX b) (n * n / 400)).setLevel b)))) ∧
  (∀ (c : Fin 32) err s, s.coreRuns (halfOfChan c) = true → s.flag F.CAL_CFG_AUTO_CAL = true → s.mode = .active → (s.chan c).st = .online →
    0 < s.tierLevel (c.val / 8) →
    exec (.wearCheck c err) s = .next (commit s ((err.map (·.val)).foldl (fun t n =>
      if t.condFree c (n / 64) then t.spareCond c n 5
      else t.raise (128 + 4 * c + 1) 8) s))) ∧
  (∀ s n t, s.mramRuns = true → s.mode ≠ .reset → s.mode ≠ .deepRetention → s.mram.wearWrite = none → s.mram.wearAt = some n →
    t = s.advanceTo (n + 3600000000000) →
    exec .wearRecordWrite s = .next (commit s
      { t with mram := { t.mram with wearWrite := some (t.snapshot wearRegs), wearAt := some t.now } }))

/-- REMOVE, FUSE and RECORD_COND are accepted in their modes and sessions (FUSE is IGNORED in SAFE); while the core
that writes MRAM runs REMOVE and FUSE end with their RESULT, RECORD_COND with 6 where the conductor is not replaced;
CANCEL blows its bit or ends with 5; the lookups show ledger entries, test records and fuse records; a tier test runs
its tier and goes on to the next, asking its permit where there is a manager, or ends the test; a permit not given in
5 s is a timeout and the tier is woken. Answers a next state for: ldgRemove, ldgFuse, ldgRecordCond, ledgerActionEnd,
fuseCancel, fuseCancelEnd, calLdgIdxLookup, calTstIdxLookup, calFuseLookup, tierTestStart, testPermitTimeout. (R364,
R431, R432, R433, R434, R436, R441, R459.) -/
def Obligations.LedgerFusesAndTheShutdownTest : Prop :=
  (∀ p w s v, v = withBits w 31 28 1 → s.granted p .CAL_LDG_CTL 0 0 v = true → s.sessionOk p = true →
    s.flag F.CAL_LDG_CTL_BUSY = false → (s.mode = .active ∨ s.mode = .safe) →
    ∀ t, t = (s.plainWrite (pathNum p) .CAL_LDG_CTL 0 0 v).setFlag F.CAL_LDG_CTL_BUSY true →
    exec (.ldgRemove p w) s = .next (commit s (s.answered p (adr .CAL_LDG_CTL) v { t with mram := { t.mram with
      ledgerAct := some ⟨1, s.fld F.CAL_LDG_IDX_INDEX, bitsOf v.toNat 20 16, bitsOf v.toNat 13 0⟩ } }))) ∧
  (∀ p w s v, v = withBits w 31 28 2 → s.granted p .CAL_LDG_CTL 0 0 v = true → s.sessionOk p = true →
    s.flag F.CAL_LDG_CTL_BUSY = false → s.mode = .active →
    ∀ t, t = (s.plainWrite (pathNum p) .CAL_LDG_CTL 0 0 v).setFlag F.CAL_LDG_CTL_BUSY true →
    exec (.ldgFuse p w) s = .next (commit s (s.answered p (adr .CAL_LDG_CTL) v { t with mram := { t.mram with
      ledgerAct := some ⟨2, s.fld F.CAL_LDG_IDX_INDEX, bitsOf v.toNat 20 16, bitsOf v.toNat 13 0⟩ } }))) ∧
  (∀ p w s v, v = withBits w 31 28 3 → s.granted p .CAL_LDG_CTL 0 0 v = true →
    s.flag F.CAL_LDG_CTL_BUSY = false → s.mode = .active →
    ∀ t, t = (s.plainWrite (pathNum p) .CAL_LDG_CTL 0 0 v).setFlag F.CAL_LDG_CTL_BUSY true →
    exec (.ldgRecordCond p w) s = .next (commit s (s.answered p (adr .CAL_LDG_CTL) v { t with mram := { t.mram with
      ledgerAct := some ⟨3, s.fld F.CAL_LDG_IDX_INDEX, bitsOf v.toNat 20 16, bitsOf v.toNat 13 0⟩ } }))) ∧
  (∀ p w s v, v = withBits w 31 28 2 → s.granted p .CAL_LDG_CTL 0 0 v = true → s.sessionOk p = true →
    s.mode = .safe → exec (.ldgFuse p w) s = .next (commit s (s.turnedAway p (adr .CAL_LDG_CTL)))) ∧
  (∀ s a e, s.mramRuns = true → s.mram.ledgerAct = some a → a.action = 1 → s.mram.ledger.get (fun _ => none) a.index = some e →
    exec (.ledgerActionEnd true) s = .next (commit s ((s.setLedger a.index none).ledgerResult 0)) ∧
    exec (.ledgerActionEnd false) s = .next (commit s ((s.raise 101 0).ledgerResult 4))) ∧
  (∀ s a e n, s.mramRuns = true → s.mram.ledgerAct = some a → a.action = 2 → s.mram.ledger.get (fun _ => none) a.index = some e →
    replacing (entType e) = true → s.freeFuse = some n →
    exec (.ledgerActionEnd true) s = .next (commit s
      (((s.setFuse n (BitVec.ofNat 64 (fuseOf e))).setLedger a.index none).ledgerResult 0))) ∧
  (∀ s a ok, s.mramRuns = true → s.mram.ledgerAct = some a → (a.action = 1 ∨ a.action = 2) →
    s.mram.ledger.get (fun _ => none) a.index = none →
    exec (.ledgerActionEnd ok) s = .next (commit s (s.ledgerResult 1))) ∧
  (∀ s a, s.mramRuns = true → s.mram.ledgerAct = some a → a.action = 3 → s.replaced a.ch (a.cond / 64) ≠ some a.cond →
    exec (.ledgerActionEnd true) s = .next (commit s (s.ledgerResult 6))) ∧
  (∀ p w s v n (r : Word64) t, v = withBits w 31 31 1 → s.granted p .CAL_FUSE_CTL 0 0 v = true → s.sessionOk p = true →
    s.mode = .active → s.flag F.CAL_FUSE_CTL_BUSY = false → n = bitsOf v.toNat 10 0 → r = s.fuseRecord n →
    bitsOf r.toNat 63 62 = 2 →
    t = (((((s.plainWrite (pathNum p) .CAL_FUSE_CTL 0 0 v).setReg (adr .CAL_FUSE_REC_LO) (r.setWidth 32)).setReg
      (adr .CAL_FUSE_REC_HI) ((r >>> 32).setWidth 32)).setFlag F.CAL_FUSE_CTL_VALID true).setFlag
      F.CAL_FUSE_CTL_BUSY true) →
    exec (.fuseCancel p w) s = .next (commit s (s.answered p (adr .CAL_FUSE_CTL) v
      { t with mram := { t.mram with fuseCancel := some n } }))) ∧
  (∀ s n t, s.mram.fuseCancel = some n → t = { s with mram := { s.mram with fuseCancel := none } } →
    exec (.fuseCancelEnd true) s = .next (commit s
      ((((t.setFuse n (t.fuseRecord n ||| (1 <<< 62))).setFlag F.CAL_FUSE_CTL_BUSY false).setFld F.CAL_FUSE_CTL_RESULT
        0).latch F.POLL_SUMMARY_DONE)) ∧
    exec (.fuseCancelEnd false) s = .next (commit s
      (((t.setFlag F.CAL_FUSE_CTL_BUSY false).setFld F.CAL_FUSE_CTL_RESULT 5).latch F.POLL_SUMMARY_DONE))) ∧
  (∀ p w s t e, s.granted p .CAL_LDG_IDX 0 0 w = true → t = s.plainWrite (pathNum p) .CAL_LDG_IDX 0 0 w →
    e = t.mram.ledger.get (fun _ => none) (bitsOf w.toNat 10 0) →
    exec (.calLdgIdxLookup p w) s = .next (commit s (s.answered p (adr .CAL_LDG_IDX) w
      (((t.each 8 fun k u => u.setReg (adr .CAL_LDG_ENT 0 k) ((e.getD []).getD k 0)).setFlag F.CAL_LDG_IDX_LIVE
        e.isSome).setFlag F.CAL_LDG_IDX_VALID true)))) ∧
  (∀ p w s t, s.granted p .CAL_TST_IDX 0 0 w = true → t = s.plainWrite (pathNum p) .CAL_TST_IDX 0 0 w →
    exec (.calTstIdxLookup p w) s = .next (commit s (s.answered p (adr .CAL_TST_IDX) w
      ((t.each 4 fun k u => u.setReg (adr .CAL_TST_REC 0 k)
        ((t.testRecord (bitsOf w.toNat 9 0)).getD k 0)).setFlag F.CAL_TST_IDX_VALID true)))) ∧
  (∀ p w s v (r : Word64), v = withBits w 31 31 0 → s.granted p .CAL_FUSE_CTL 0 0 v = true →
    r = s.fuseRecord (bitsOf v.toNat 10 0) →
    exec (.calFuseLookup p w) s = .next (commit s (s.answered p (adr .CAL_FUSE_CTL) v
      ((((s.plainWrite (pathNum p) .CAL_FUSE_CTL 0 0 v).setReg (adr .CAL_FUSE_REC_LO) (r.setWidth 32)).setReg
        (adr .CAL_FUSE_REC_HI) ((r >>> 32).setWidth 32)).setFlag F.CAL_FUSE_CTL_VALID true)))) ∧
  (∀ (t : Fin 4) found s u, s.mode = .shutdownTest → s.flag F.CAL_TST_STS_RUNNING = true →
    s.fld F.CAL_TST_STS_TIER = t.val → s.flag F.CAL_TST_STS_PERMIT_WAIT = false → u = s.runTier t found →
    u.hasManager = false →
    (t.val < 3 → exec (.tierTestStart t found) s = .next (commit s (u.nextTier (t.val + 1)))) ∧
    (t.val = 3 → exec (.tierTestStart t found) s = .next (commit s
      (((u.setFlag F.CAL_TST_STS_RUNNING false).setFlag F.CAL_TST_STS_VALID true).shutdownDone)))) ∧
  (∀ s, s.mode = .shutdownTest → s.flag F.CAL_TST_STS_PERMIT_WAIT = true →
    exec .testPermitTimeout s = .next (commit s
      ((((s.advanceTo (s.cwy.askedAt + 5000000000)).setFlag F.CAL_TST_STS_PERMIT_WAIT false).setFlag
        F.CAL_TST_STS_PERMIT_TIMEOUT true).wakeTier (s.fld F.CAL_TST_STS_TIER)))) ∧
  (∀ (s : State) t u, u = s.setFld F.CAL_TST_STS_TIER t →
    (u.hasManager = true → s.nextTier t = (u.setFlag F.CAL_TST_STS_PERMIT_WAIT true).askPermit 0 t) ∧
    (u.hasManager = false → s.nextTier t = (u.setFlag F.CAL_TST_STS_PERMIT_WAIT false).wakeTier t)) ∧
  (∀ s : State, s.shutdownDone =
    ((s.setFlag F.GLB_MODE_STS_SHUTDOWN_DONE true).setFlag F.GLB_MODE_REQ_BUSY false).latch F.POLL_SUMMARY_DONE)

/-- FLT_STICKY clears by ones except live sources; a listed source that is raised again in the cycle of the clear (an
operand of the command: log entry 109) is raised like any other, its sticky bit kept if it was 1, and an unlisted one
is not; FLT_INJ records a listed source and, with REACT, takes its reaction; an unlisted one is IGNORED; the dump
window fills with a summary or a block of a copy that was written, also one that failed its check, in a channel that
can be read, or shows UNAVAILABLE; FLT_DUMP_CFG takes two channels of different tiers only. Answers a next state for:
fltStickyClear, fltInjGo, fltDumpCtlWrite, fltDumpWindowFilled, fltDumpCfgWrite. (R442, R444, R447, R455, R457, R458,
R446, R452.) -/
def Obligations.FaultRegistersInjectionAndTheDump : Prop :=
  (∀ p (r : Fin 8) w again s, s.granted p .FLT_STICKY 0 r w = true →
    exec (.fltStickyClear p r w again) s = .next (commit s ((s.answered p (adr .FLT_STICKY 0 r) w
      (s.setReg (adr .FLT_STICKY 0 r) (s.reg (adr .FLT_STICKY 0 r) &&& ~~~(w &&& ~~~s.reg (adr .FLT_LIVE 0 r))))).raiseAgain
        s r again))) ∧
  (∀ (s before t : State) (r : Nat) (b : Fin 32) bits rest n, n = 32 * r + b.val → sourceListed n = true →
    t = (if before.flag (stickyFld n) then s.setFlag (stickyFld n) true else s) →
    s.raiseAgain before r ((b, bits) :: rest) = (if sourceIsCondition n then t.raiseCond n bits.toNat
      else t.raise n bits.toNat).raiseAgain before r rest) ∧
  (∀ (s before : State) (r : Nat) (b : Fin 32) bits rest, sourceListed (32 * r + b.val) = false →
    s.raiseAgain before r ((b, bits) :: rest) = s.raiseAgain before r rest) ∧
  (∀ p w s v n bits t, v = withBits w 31 31 1 → s.granted p .FLT_INJ 0 0 v = true → n = bitsOf v.toNat 23 16 →
    bits = 2 ^ bitsOf v.toNat 4 0 → sourceListed n = true → bitOf v.toNat 30 = false →
    t = ((s.plainWrite (pathNum p) .FLT_INJ 0 0 v).recordFault n bits) →
    exec (.fltInjGo p w) s = .next (commit s (s.answered p (adr .FLT_INJ) v
      ((t.setFlag F.FLT_STS_INJ_VALID true).setFld F.FLT_STS_LAST_INJ n)))) ∧
  (∀ p w s v n bits t, v = withBits w 31 31 1 → s.granted p .FLT_INJ 0 0 v = true → n = bitsOf v.toNat 23 16 →
    bits = 2 ^ bitsOf v.toNat 4 0 → sourceListed n = true → bitOf v.toNat 30 = true →
    (sourceReaction n bits).injectable = true → (sourceReaction n bits ≠ .fatal ∨ s.sessionOk p = true) →
    t = ((s.plainWrite (pathNum p) .FLT_INJ 0 0 v).recordFault n bits) →
    exec (.fltInjGo p w) s = .next (commit s (s.answered p (adr .FLT_INJ) v
      (((t.setFlag F.FLT_STS_INJ_VALID true).setFld F.FLT_STS_LAST_INJ n).react n (sourceReaction n bits) true)))) ∧
  (∀ p w s v, v = withBits w 31 31 1 → s.granted p .FLT_INJ 0 0 v = true →
    sourceListed (bitsOf v.toNat 23 16) = false →
    exec (.fltInjGo p w) s = .next (commit s (s.turnedAway p (adr .FLT_INJ)))) ∧
  (∀ p w s, s.granted p .FLT_DUMP_CTL 0 0 w = true → bitsOf w.toNat 25 24 ≠ 3 → bitsOf w.toNat 11 0 ≤ 3583 →
    (bitsOf w.toNat 25 24 = 2 → bitsOf w.toNat 11 0 = 0) →
    exec (.fltDumpCtlWrite p w) s = .next (commit s (s.answered p (adr .FLT_DUMP_CTL) w
      ((s.plainWrite (pathNum p) .FLT_DUMP_CTL 0 0 w).setFlag F.FLT_DUMP_CTL_VALID false)))) ∧
  (∀ p w s, s.granted p .FLT_DUMP_CTL 0 0 w = true →
    ((bitsOf w.toNat 25 24 = 2 ∧ bitsOf w.toNat 11 0 ≠ 0) ∨ 3583 < bitsOf w.toNat 11 0) →
    exec (.fltDumpCtlWrite p w) s = .next (commit s (s.turnedAway p (adr .FLT_DUMP_CTL)))) ∧
  (∀ s, s.flag F.FLT_DUMP_CTL_VALID = true → exec .fltDumpWindowFilled s = .next (commit s s)) ∧
  (∀ s b, s.flag F.FLT_DUMP_CTL_VALID = false → s.fld F.FLT_DUMP_CTL_SEL = 2 → s.coll.newest = some b →
    exec .fltDumpWindowFilled s = .next (commit s
      (s.setWindow .ok ((List.range 64).map fun k => summaryField b (4 * k) 4)))) ∧
  (∀ s c ds, s.flag F.FLT_DUMP_CTL_VALID = false → s.fld F.FLT_DUMP_CTL_SEL = 0 → c = s.fld F.FLT_DUMP_STS_CHA_USED →
    (s.fld F.FLT_DUMP_STS_COPY_A = 1 ∨ s.fld F.FLT_DUMP_STS_COPY_A = 2) → s.copyUsable c = true →
    ds = ((List.range 4).map fun k => decodeSector (s.fld (F.ECC_CFG_POLICY c))
      (s.stored (serviceAt c (0xE00000 + 256 * s.fld F.FLT_DUMP_CTL_BLOCK + 64 * k)))) →
    exec .fltDumpWindowFilled s = .next (commit s (s.setWindow (if ds.any (·.bad) then .poison else .ok)
      (ds.flatMap fun d => (List.range 16).map fun k => bitsOf d.data.toNat (32 * k + 31) (32 * k))))) ∧
  (∀ s, s.flag F.FLT_DUMP_CTL_VALID = false → s.fld F.FLT_DUMP_CTL_SEL = 0 →
    ((s.fld F.FLT_DUMP_STS_COPY_A ≠ 1 ∧ s.fld F.FLT_DUMP_STS_COPY_A ≠ 2) ∨
      s.copyUsable (s.fld F.FLT_DUMP_STS_CHA_USED) = false) →
    exec .fltDumpWindowFilled s = .next (commit s (s.setWindow .unavailable []))) ∧
  (∀ p w s, s.granted p .FLT_DUMP_CFG 0 0 w = true → bitsOf w.toNat 20 16 / 8 ≠ bitsOf w.toNat 4 0 / 8 →
    exec (.fltDumpCfgWrite p w) s = .next (commit s (s.answered p (adr .FLT_DUMP_CFG) w
      (s.plainWrite (pathNum p) .FLT_DUMP_CFG 0 0 w)))) ∧
  (∀ p w s, s.granted p .FLT_DUMP_CFG 0 0 w = true → bitsOf w.toNat 20 16 / 8 = bitsOf w.toNat 4 0 / 8 →
    exec (.fltDumpCfgWrite p w) s = .next (commit s (s.turnedAway p (adr .FLT_DUMP_CFG)))) ∧
  (∀ (s : State) n inj, s.mode ≠ .fatal → (s.react n .none inj = s ∧ (∀ c, s.react n (.fence c) inj = s.chanOffline c 2) ∧
    (∀ b, s.react n (.safe b) inj = s.setSafeCause b) ∧ s.react n .fatal inj = s.fatalEntry n inj))

/-- A heartbeat of a core that runs counts, is current and lets the arbiter hold, hand over or flag a conflict by the
table; a lapsed one raises FW_WATCHDOG in every mode but RESET; AUTH_ASSIGN moves the token to a current half and is
IGNORED otherwise; a firmware update reads its image and checks in order its CRC, its tag and, by the command's
operand, its write to MRAM (log entries 48 and 119: the layout of an image and the key of a new part are the model's),
asks its permit or restarts the other half's core, is IGNORED where it may not start, and a boot that does not beat
falls back and marks the new slot invalid. Answers a next state for: mgmtHeartbeat, heartbeatLapse, authAssign, fwuGo,
fwuBootTimeout. (R459, R460, R461, R462, R463, R479.) -/
def Obligations.AuthorityAndFirmwareUpdates : Prop :=
  (∀ h claim s t, s.coreRuns h = true → s.auth.fwu = none →
    t = (((s.setFld (beatFld h) (s.fld (beatFld h) + 1)).setBeat h (some s.now)).setCurrent h true).setClaims h
      (if claim then s.claimRun h + 1 else 0) →
    exec (.mgmtHeartbeat h claim) s = .next (commit s (t.arbitrate.fwuMoved t))) ∧
  (∀ h claim s, s.coreRuns h = false → exec (.mgmtHeartbeat h claim) s = .next (commit s s)) ∧
  (∀ s : State, s.beatCurrent s.holder = true → s.claimRun s.holder = 0 → s.beatCurrent (halfOther s.holder) = true →
    0 < s.claimRun (halfOther s.holder) → s.arbitrate = s.moveToken (halfOther s.holder)) ∧
  (∀ s : State, s.beatCurrent s.holder = true → 0 < s.claimRun s.holder → s.beatCurrent (halfOther s.holder) = true →
    3 ≤ s.claimRun (halfOther s.holder) →
    s.arbitrate = (s.setFlag F.AUTH_STS_CONFLICT true).raiseCond 105 0) ∧
  (∀ s : State, s.beatCurrent s.holder = false → s.beatCurrent (halfOther s.holder) = true →
    s.arbitrate = s.moveToken (halfOther s.holder)) ∧
  (∀ s : State, s.beatCurrent s.holder = false → s.beatCurrent (halfOther s.holder) = false → s.arbitrate = s) ∧
  (∀ h s n, s.beatAt h = some n → s.beatCurrent h = true → s.mode ≠ .reset →
    exec (.heartbeatLapse h) s = .next (commit s
      ((((s.advanceTo (n + 10000000)).setCurrent h false).setClaims h 0).raise 8 (2 ^ halfNum h)))) ∧
  (∀ p w s v h, v = withBits w 31 31 1 → s.granted p .AUTH_ASSIGN 0 0 v = true →
    h = (if bitOf v.toNat 0 then Half.east else .west) → s.beatCurrent h = true → s.holder ≠ h →
    (s.moveToken h).flag (liveFld 105) = false →
    exec (.authAssign p w) s = .next (commit s (s.answered p (adr .AUTH_ASSIGN) v (s.moveToken h)))) ∧
  (∀ p w s v h, v = withBits w 31 31 1 → s.granted p .AUTH_ASSIGN 0 0 v = true →
    h = (if bitOf v.toNat 0 then Half.east else .west) → s.beatCurrent h = false →
    exec (.authAssign p w) s = .next (commit s (s.turnedAway p (adr .AUTH_ASSIGN)))) ∧
  (∀ p w (x : ImageCheck) s v t u, v = withBits w 31 31 1 → s.granted p .AUTH_FWU_CTL 0 0 v = true → s.mode = .active →
    s.fld F.AUTH_FWU_CTL_STATE ≠ 1 →
    4096 * s.fld F.AUTH_FWU_SRC_OFFSET + 1024 * s.fld F.AUTH_FWU_SRC_LEN ≤ hostAreaEnd →
    t = ((s.plainWrite (pathNum p) .AUTH_FWU_CTL 0 0 v).setFld F.AUTH_FWU_CTL_STATE 1).setFld F.AUTH_FWU_CTL_RESULT 0 →
    u = { t with auth := { t.auth with fwu := some ⟨.permit, t.now, x.major.toNat, x.minor.toNat⟩ },
                 mram := { t.mram with fwOther := some (x.major.toNat, x.minor.toNat) } } →
    exec (.fwuGo p w x) s = .next (commit s (s.answered p (adr .AUTH_FWU_CTL) v
      (if t.imageResult (bitsOf v.toNat 25 21) ≠ 0 then t.endFwu 3 (t.imageResult (bitsOf v.toNat 25 21))
       else if x.mramOk = false then t.endFwu 3 3
       else if u.hasManager then u.askPermit 1 0 else u.fwuRestart)))) ∧
  (∀ (s : State) ch, s.imageBytes ch = none → s.imageResult ch = 1) ∧
  (∀ (s : State) ch l, s.imageBytes ch = some l → s.imageResult ch =
    (if l.length < 36 ∨ ofBytesLE ((l.drop (l.length - 36)).take 4) ≠ crc32c (l.take (l.length - 36)) then 1
     else if l.drop (l.length - 32) ≠ hmac256 (s.fuses.imageKey.map (·.toNat)) (l.take (l.length - 32)) then 2 else 0)) ∧
  (∀ p w (x : ImageCheck) s v, v = withBits w 31 31 1 → s.granted p .AUTH_FWU_CTL 0 0 v = true →
    (s.mode ≠ .active ∨ s.fld F.AUTH_FWU_CTL_STATE = 1 ∨
      hostAreaEnd < 4096 * s.fld F.AUTH_FWU_SRC_OFFSET + 1024 * s.fld F.AUTH_FWU_SRC_LEN) →
    exec (.fwuGo p w x) s = .next (commit s (s.turnedAway p (adr .AUTH_FWU_CTL)))) ∧
  (∀ s f u, s.auth.fwu = some f → f.phase = .firstBoot → u = { s with mram := { s.mram with fwOther := none } } →
    exec .fwuBootTimeout s = .next (commit s
      ((((u.advanceTo (f.since + 100000000)).restartCore (halfOther u.holder)).endFwu 3 4).permitDone 1 0))) ∧
  (∀ (s : State) a r, s.endFwu a r =
    { ((s.setFld F.AUTH_FWU_CTL_STATE a).setFld F.AUTH_FWU_CTL_RESULT r).latch F.POLL_SUMMARY_DONE with
        auth := { s.auth with fwu := none } }) ∧
  (∀ s : State, s.fwuRestart =
    (s.restartCore (halfOther s.holder)).setFwu .firstBoot) ∧
  (∀ (s : State) h, ∃ u : State, s.moveToken h = (u.latch F.POLL_SUMMARY_AUTH).traceEv 9 1 (halfNum h))

/-- HEARTBEAT, STATUS, ANNOUNCE, PERMIT_REQ, PERMIT and PERMIT_DONE frames are taken, passed on or discarded as the
table Causeway messages says, each frame sent with its LEN and CRC-16 (order of bits: log entry 119), and in DEEP
RETENTION a HEARTBEAT is carried on as it is (how a stack knows its own HEARTBEAT: log entry 45); an ambiguity is
raised at once and ends when HEARTBEATs of one stack only have been heard for 10 ms; the manager is elected at listen
end, takes over after its silence, resigns, and gives way to a higher EPOCH; STATUS goes out in BRING-UP too; shares
go out with the HEARTBEAT, permits are granted in order and expire; link states, absent stacks, cutoffs and discards
are counted. Answers a next state for: cwyHeartbeat, cwyStatus, cwyAnnounce, cwyPermitReq, cwyPermit, cwyPermitDone,
cwyFrameCutoff, causewayFrameDiscard, cwyLinkDown, cwyLinkUp, cwyHeartbeatSend, cwyStatusSend, mgrListenEnd,
mgrTakeoverTimeout, stackAbsent, resign, testPermitExpiry. (R465, R466, R467, R468, R469, R470, R471, R472, R473,
R474, R475, R476.) -/
def Obligations.StacksManageThePackage : Prop :=
  (∀ (src : BitVec 4) (l : List (BitVec 8)) s m, s.cwyRuns = true → l.length = 48 → m = l.map (·.toNat) →
    (src.toNat ≠ s.pins.stackId → exec (.cwyHeartbeat src l) s =
      .next (commit s ((s.takeBeat src.toNat m).forwardBeat 0xF src.toNat m))) ∧
    (src.toNat = s.pins.stackId → s.sentIt 1 m = true →
      exec (.cwyHeartbeat src l) s = .next (commit s (s.heardBeat src.toNat))) ∧
    (src.toNat = s.pins.stackId → s.sentIt 1 m = false →
      exec (.cwyHeartbeat src l) s = .next (commit s s.ambiguous))) ∧
  (∀ (src : BitVec 4) (l : List (BitVec 8)) s, s.cwyRuns = true → l.length ≠ 48 →
    exec (.cwyHeartbeat src l) s = .next (commit s s.discardFrame)) ∧
  (∀ (src : BitVec 4) (l : List (BitVec 8)) s, s.cwyRuns = false → s.mode = .deepRetention →
    exec (.cwyHeartbeat src l) s = .next (commit s (s.forward 1 0xF src.toNat (l.map (·.toNat))))) ∧
  (∀ (s : State) type dst src l b, b = [dst * 16 + src, type, l.length] ++ l →
    s.forward type dst src l = s.emit (.frame (b ++ bytesLE 2 (crc16 b)))) ∧
  (∀ (s : State) t, t = ({ s with cwy := { s.cwy with sole := 16, soleSince := s.now } }.raiseCond 108 0) →
    s.ambiguous = t.latch F.POLL_SUMMARY_PKG) ∧
  (∀ (s t : State) k, t = (if s.cwy.sole = k then s else { s with cwy := { s.cwy with sole := k, soleSince := s.now } }) →
    (t.flag (liveFld 108) = true → t.cwy.sole < 16 → t.cwy.soleSince + 10000000 ≤ t.now →
      s.heardBeat k = ((t.endCondition 108).clearSafeCause 1).latch F.POLL_SUMMARY_PKG) ∧
    (t.flag (liveFld 108) = false ∨ 16 ≤ t.cwy.sole ∨ t.now < t.cwy.soleSince + 10000000 → s.heardBeat k = t)) ∧
  (∀ (s : State) src l t, (s.heardBeat src) = t → t.isManager = false → s.takeBeat src l = t.workerBeat src l) ∧
  (∀ (s : State) src l t, (s.heardBeat src) = t → t.isManager = true →
    (t.cwy.epoch < payloadAt l 0 4 → s.takeBeat src l = t.becomeWorker.workerBeat src l) ∧
    (t.cwy.epoch = payloadAt l 0 4 → s.takeBeat src l = t.ambiguous) ∧
    (payloadAt l 0 4 < t.cwy.epoch → s.takeBeat src l = t)) ∧
  (∀ (src : BitVec 4) (l : List (BitVec 8)) s m, s.cwyRuns = true → l.length = 12 → m = l.map (·.toNat) →
    src.toNat ≠ s.pins.stackId →
    exec (.cwyStatus src l) s = .next (commit s ((s.takeStatus src.toNat m).forward 2 0xF src.toNat m))) ∧
  (∀ (src : BitVec 4) (l : List (BitVec 8)) s m, s.cwyRuns = true → l.length = 4 → m = l.map (·.toNat) →
    src.toNat ≠ s.pins.stackId →
    exec (.cwyAnnounce src l) s =
      .next (commit s ((s.takeAnnounce src.toNat (payloadAt m 0 4)).forward 3 0xF src.toNat m))) ∧
  (∀ (dst src : BitVec 4) (kind tier : BitVec 8) s, s.cwyRuns = true → src.toNat ≠ s.pins.stackId →
    dst.toNat = s.pins.stackId → dst.toNat ≠ 15 → s.isManager = true → kind.toNat ≤ 1 →
    exec (.cwyPermitReq dst src kind tier) s = .next (commit s
      ({ s with cwy := { s.cwy with waiting := s.cwy.waiting ++ [Permit.mk src.toNat kind.toNat tier.toNat] } }.grantAll))) ∧
  (∀ (dst src : BitVec 4) (kind tier : BitVec 8) s, s.cwyRuns = true → src.toNat ≠ s.pins.stackId →
    dst.toNat ≠ s.pins.stackId → dst.toNat ≠ 15 →
    exec (.cwyPermitReq dst src kind tier) s = .next (commit s
      (s.forward 4 dst.toNat src.toNat [kind.toNat, tier.toNat]))) ∧
  (∀ (dst src : BitVec 4) (kind tier : BitVec 8) s, s.cwyRuns = true → src.toNat ≠ s.pins.stackId →
    dst.toNat = s.pins.stackId → dst.toNat ≠ 15 →
    exec (.cwyPermit dst src kind tier) s = .next (commit s (s.takePermit kind.toNat tier.toNat))) ∧
  (∀ (dst src : BitVec 4) (kind tier : BitVec 8) s l, s.cwyRuns = true → src.toNat ≠ s.pins.stackId →
    dst.toNat = s.pins.stackId → dst.toNat ≠ 15 → s.isManager = true →
    l = s.cwy.granted.filter (fun g => !(g.1.stack == src.toNat && g.1.kind == kind.toNat)) →
    exec (.cwyPermitDone dst src kind tier) s = .next (commit s
      ({ s with cwy := { s.cwy with granted := l } }.grantAll))) ∧
  (∀ s, s.cwyRuns = true →
    exec .cwyFrameCutoff s = .next (commit s (s.bump F.CWY_STS_DISCARDS)) ∧
    exec .causewayFrameDiscard s = .next (commit s (s.bump F.CWY_STS_DISCARDS))) ∧
  (∀ s, s.cwyRuns = true → s.flag (liveFld 110) = false →
    exec .cwyLinkDown s = .next (commit s
      ((((s.setFlag F.CWY_STS_LINK_UP false).raiseCond 110 0).latch F.POLL_SUMMARY_PKG).traceLink 3))) ∧
  (∀ s, s.cwyRuns = true → s.flag F.CWY_STS_LINK_UP = false →
    exec .cwyLinkUp s = .next (commit s
      ((((s.setFlag F.CWY_STS_LINK_UP true).endCondition 110).latch F.POLL_SUMMARY_PKG).traceLink 4))) ∧
  (∀ s l, s.cwyRuns = true → s.isManager = true →
    l = bytesLE 4 s.cwy.epoch ++ bytesLE 8 s.timeBase.toNat ++ bytesLE 4 0 ++
      ((List.range 16).flatMap fun k => bytesLE 2 (s.shareOf k)) →
    exec .cwyHeartbeatSend s = .next (commit s
      (((s.setFlag F.CWY_STS_BUDGET_LOW (decide (s.budgetLeft < 400 * s.presentStacks.length))).sendFrame 1 0xF l).setShare
        (s.shareOf s.pins.stackId)))) ∧
  (∀ s, s.cwyRuns = true →
    exec .cwyStatusSend s = .next (commit s
      ((s.sendFrame 2 0xF s.statusPayload).takeStatus s.pins.stackId s.statusPayload))) ∧
  (∀ s n, s.cwy.listening = some n →
    exec .mgrListenEnd s = .next (commit s (((s.advanceTo (n + 5000000)).becomeManager 1).beatSend))) ∧
  (∀ s t e, s.cwyRuns = true → s.mode ≠ .bringUp → s.isManager = false → s.cwy.listening = none →
    s.pins.mgrCapable = true → t = s.advanceTo (s.cwy.lastBeat + 50000000 + 2000000 * s.pins.stackId) →
    e = (t.cwy.epoch + 1) % 2 ^ 32 →
    exec .mgrTakeoverTimeout s = .next (commit s
      (((t.sendFrame 3 0xF (bytesLE 4 e)).becomeManager e).noteTakeover (t.fld F.CWY_STS_MANAGER) t.pins.stackId))) ∧
  (∀ (k : Fin 16) s t, s.cwyRuns = true → bitOf (s.fld F.CWY_PRESENT_PRESENT) k = true → k.val ≠ s.pins.stackId →
    t = (s.advanceTo ((s.peer k).heard + 5000000)).setFldBit F.CWY_PRESENT_PRESENT k false →
    exec (.stackAbsent k) s = .next (commit s
      (((t.setReg (adr .CWY_STACK 0 k) 0).setAttn k).latch F.POLL_SUMMARY_PKG))) ∧
  (∀ p w s v t, v = withBits w 30 30 1 → s.granted p .CWY_CFG 0 0 v = true →
    t = s.plainWrite (pathNum p) .CWY_CFG 0 0 v → t.isManager = true →
    exec (.resign p w) s = .next (commit s (s.answered p (adr .CWY_CFG) v
      { t.becomeWorker with cwy := { t.becomeWorker.cwy with lastBeat := t.becomeWorker.now } }))) ∧
  (∀ (k : Fin 16) s g, s.cwy.granted.find? (fun g => g.1.stack == k.val && g.1.kind == 0) = some g →
    exec (.testPermitExpiry k) s = .next (commit s ((s.advanceTo (g.2 + 2000000000)).endPermit k 0))) ∧
  (∀ (s : State) n, s.flag F.CAL_TST_STS_RUNNING = true → s.fld F.CAL_TST_STS_TIER = n →
    s.takePermit 0 n = (s.setFlag F.CAL_TST_STS_PERMIT_WAIT false).wakeTier n) ∧
  (∀ (s : State) n f, s.auth.fwu = some f → f.phase = .permit → s.takePermit 1 n = s.fwuRestart) ∧
  (∀ (s : State) src l n, n = payloadAt l 0 4 → bitOf (s.fld F.CWY_PRESENT_PRESENT) src = true →
    (s.peer src).known = true → (s.peer src).seq = n / 65536 → s.takeStatus src l =
    (((s.setPeer src ⟨true, s.now, payloadAt l 4 2, payloadAt l 6 2, n / 65536⟩).setReg (adr .CWY_STACK 0 src)
      (BitVec.ofNat 32 n)).setFldBit F.CWY_PRESENT_PRESENT src true).setFldBit F.CWY_PRESENT_CAPABLE src
        (bitOf (payloadAt l 10 1) 0))

/-- ADVANCE blows the bits of a transition of the table and is IGNORED where the table has none; its end sets the new
state and is logged; CHALLENGE draws a nonce and is IGNORED with a session open or locked out; OPEN with the
challenge's role binds the session on a right response and counts a failure on a wrong one; OPEN without a challenge,
with another role or beside a session fails and completes IGNORED, also where its value is out of range, and one that
would not fail but is out of range completes IGNORED; a path that is no host's (engines, firmware) gets PRIV whatever
the value; CLOSE ends the session; nonces lapse after 1 s and idle sessions expire, counted on the time base (log
entry 111); strap and training overrides are written in a session; the audit log is looked up. Answers a next state
for: lcAdvance, lcTransitionEnd, lcChallenge, lcOpen, lcClose, nonceLapse, sessionIdleExpiry, lcStrapOvrWrite,
lcTrnOvrWrite, lcAudLookup. (R482, R483, R486, R487, R488, R489, R491, R492, R493, R494, R485.) -/
def Obligations.LifeCycleSessionsAndOverrides : Prop :=
  (∀ p w s b role, s.granted p .LC_CTL 0 0 w = true → b = bitsOf w.toNat 31 29 → b ≠ 0 →
    transitionRole s.lifeState b = some role → s.flag F.LC_CTL_BUSY = false → s.mode ≠ .safe →
    (role = 0 ∨ isSecure p = true ∨ (s.life.session = role ∧ s.life.sessPath = pathNum p)) →
    (s.lifeState = 1 → b = 2 → s.fuses.installerKey.isSome = true) →
    exec (.lcAdvance p w) s = .next (commit s (s.answered p (adr .LC_CTL) w
      { s.setFlag F.LC_CTL_BUSY true with life := { s.life with
        pendingBits := lifeBits b, pendingBy := s.asker (pathNum p) } }))) ∧
  (∀ p w s, s.granted p .LC_CTL 0 0 w = true → bitsOf w.toNat 31 29 ≠ 0 →
    transitionRole s.lifeState (bitsOf w.toNat 31 29) = none →
    exec (.lcAdvance p w) s = .next (commit s (s.turnedAway p (adr .LC_CTL)))) ∧
  (∀ (bits : BitVec 5) s t u, s.flag F.LC_CTL_BUSY = true → s.fuses.life ||| bits.toNat = s.life.pendingBits →
    t = (((({ s with fuses := { s.fuses with life := s.fuses.life ||| bits.toNat } }.setFlag F.LC_CTL_BUSY false).setFld F.LC_CTL_RESULT
      0).latch F.POLL_SUMMARY_DONE)) →
    u = t.audit 9 t.life.pendingBy.1 t.life.pendingBy.2 0 s.lifeState t.lifeState →
    (u.life.session = 0 ∨ sessionPermitted u.lifeState u.life.session = true) →
    exec (.lcTransitionEnd bits) s = .next (commit s u)) ∧
  (∀ (bits : BitVec 5) s, s.flag F.LC_CTL_BUSY = false → exec (.lcTransitionEnd bits) s = .next (commit s s)) ∧
  (∀ p w s v, v = withBits w 31 29 4 → s.granted p .LC_SESS_CTL 0 0 v = true → hostPath p = true → s.life.session = 0 →
    s.life.lockout = false →
    exec (.lcChallenge p w) s = .next (commit s (s.answered p (adr .LC_SESS_CTL) v
      ((s.plainWrite (pathNum p) .LC_SESS_CTL 0 0 v).drawNonce (bitsOf v.toNat 25 24))))) ∧
  (∀ p w s v, v = withBits w 31 29 4 → s.granted p .LC_SESS_CTL 0 0 v = true → hostPath p = true →
    (s.life.session ≠ 0 ∨ s.life.lockout = true) →
    exec (.lcChallenge p w) s = .next (commit s (s.turnedAway p (adr .LC_SESS_CTL)))) ∧
  (∀ p w s v role u t, v = withBits w 31 29 2 → s.granted p .LC_SESS_CTL 0 0 v = true → hostPath p = true →
    role = bitsOf v.toNat 25 24 → s.openFails v = false →
    u = s.plainWrite (pathNum p) .LC_SESS_CTL 0 0 v → t = { u with life := { u.life with nonce := none } } →
    ((sessionPermitted t.lifeState role && t.responseOk role (pathNum p)) = true →
      exec (.lcOpen p w) s = .next (commit s (s.answered p (adr .LC_SESS_CTL) v
        (t.bindSession (pathNum p) role)))) ∧
    ((sessionPermitted t.lifeState role && t.responseOk role (pathNum p)) = false →
      exec (.lcOpen p w) s = .next (commit s (s.answered p (adr .LC_SESS_CTL) v (t.failAttempt (pathNum p) role))))) ∧
  (∀ (s : State) v, s.openFails v = false ↔
    s.life.nonce.isSome = true ∧ bitsOf v.toNat 25 24 = s.life.nonceRole ∧ s.life.session = 0) ∧
  (∀ p w w' s v, v = withBits w 31 29 2 → s.granted p .LC_SESS_CTL 0 0 w' = true → hostPath p = true →
    s.openFails v = true → exec (.lcOpen p w) s = .next (commit s
      ((s.failAttempt (pathNum p) (bitsOf v.toNat 25 24)).emit (.access (pathNum p) (adr .LC_SESS_CTL) true .ignored 0)))) ∧
  (∀ p w w' s v, v = withBits w 31 29 2 → s.granted p .LC_SESS_CTL 0 0 w' = true → hostPath p = true →
    s.openFails v = false → inRange .LC_SESS_CTL v.toNat = false →
    exec (.lcOpen p w) s = .next (commit s (s.turnedAway p (adr .LC_SESS_CTL)))) ∧
  (∀ p w w' s, s.granted p .LC_SESS_CTL 0 0 w' = true → hostPath p = false → exec (.lcOpen p w) s = .next (commit s
    (((s.accFault 1 (pathNum p) (adr .LC_SESS_CTL) true).bump F.GLB_ACC_COUNT_PRIV_DENY_COUNT).emit
      (.access (pathNum p) (adr .LC_SESS_CTL) true .priv 0)))) ∧
  (∀ p w s v, v = withBits w 31 29 1 → s.granted p .LC_SESS_CTL 0 0 v = true → hostPath p = true →
    s.life.session ≠ 0 → s.life.sessPath = pathNum p →
    exec (.lcClose p w) s = .next (commit s (s.answered p (adr .LC_SESS_CTL) v
      ((s.plainWrite (pathNum p) .LC_SESS_CTL 0 0 v).endSession 2)))) ∧
  (∀ s n, s.life.nonce = some n →
    exec .nonceLapse s = .next (commit s
      { s.advanceTo (n + 1000000000) with life := { s.life with nonce := none } })) ∧
  (∀ s, s.life.session ≠ 0 →
    exec .sessionIdleExpiry s = .next (commit s
      ((s.advanceSince s.life.lastUse (1000000000 * s.fld F.LC_SESS_CTL_IDLE_S)).endSession 4))) ∧
  (∀ s, s.life.session = 0 → exec .sessionIdleExpiry s = .next (commit s s)) ∧
  (∀ p w s, s.granted p .LC_STRAP_OVR 0 0 w = true → s.sessionOk p = true →
    (s.life.override = false ∨ bitOf w.toNat 31 = true) →
    exec (.lcStrapOvrWrite p w) s = .next (commit s (s.answered p (adr .LC_STRAP_OVR) w
      (s.plainWrite (pathNum p) .LC_STRAP_OVR 0 0 w)))) ∧
  (∀ p w s, s.granted p .LC_TRN_OVR 0 0 w = true → s.sessionOk p = true →
    exec (.lcTrnOvrWrite p w) s = .next (commit s (s.answered p (adr .LC_TRN_OVR) w
      (s.plainWrite (pathNum p) .LC_TRN_OVR 0 0 w)))) ∧
  (∀ p w s t, s.granted p .LC_AUD_IDX 0 0 w = true → t = s.plainWrite (pathNum p) .LC_AUD_IDX 0 0 w →
    exec (.lcAudLookup p w) s = .next (commit s (s.answered p (adr .LC_AUD_IDX) w
      ((t.each 8 fun k u => u.setReg (adr .LC_AUD_ENT 0 k) ((t.auditAt (bitsOf w.toNat 8 0)).getD k 0)).setFlag
        F.LC_AUD_IDX_VALID true)))) ∧
  (∀ (s : State) p r, s.bindSession p r =
    { s.audit 1 r p 0 0 0 with life := { s.life with session := r, sessPath := p, lastUse := s.timeBase.toNat } }) ∧
  (∀ (s : State) e, s.life.session ≠ 0 → s.endSession e =
    { s.audit e s.life.session s.life.sessPath 0 0 0 with life := { s.life with session := 0 } }) ∧
  (∀ (s : State) r, (s.drawNonce r).life.nonce = some s.now ∧ (s.drawNonce r).life.nonceRole = r)

/-- FREEZE, SNAP and CLEAR wait for the instant they name, 100 ns of the time base on, and act on the counters there,
after what the counters counted up to it, whatever command carries the time past it: snapshot, then clear, then
freeze; tag enable seeds the generators; the oldest tag record due is written to its ring in an idle vertical cycle
whose bank is open and whose budget allows it (log entry 120), waits for one, or is dropped where the channel is not
ONLINE; the trace queues each entry, losing those beyond 64, which the next entry is preceded by a count of (log entry
120); it starts, stops, takes marks, stops after its trigger (by its command: log entry 54) and shows its window; an
export takes the buffer as it stands, goes on in vertical cycles and ends after 4,096 sectors, and is IGNORED while
the trace runs, an export runs or its place does not fit. Answers a next state for: obsFreeze, obsSnap, obsClear,
obsControlInstant, tagEnable, tagRecordWrite, traceStart, traceStop, tracePostTriggerStop, traceExport,
traceExportEnd, traceWindowRead, traceMark. (R496, R500, R502, R503, R504, R505, R506.) -/
def Obligations.CountersTagsAndTheTrace : Prop :=
  (∀ p w s v t, v = withBits w 30 29 0 → s.granted p .OBS_CTL 0 0 v = true →
    t = s.plainWrite (pathNum p) .OBS_CTL 0 0 v →
    exec (.obsFreeze p w) s = .next (commit s (s.answered p (adr .OBS_CTL) v { t with obs := { t.obs with
      instants := t.obs.instants ++ [ObsInstant.mk (s.timeBase.toNat + 100) (some (bitOf v.toNat 31)) false false] } }))) ∧
  (∀ p w s v t, v = withBits w 30 30 1 → s.granted p .OBS_CTL 0 0 v = true →
    t = (s.plainWrite (pathNum p) .OBS_CTL 0 0 v).setFlag F.OBS_CTL_SNAP_VALID false →
    exec (.obsSnap p w) s = .next (commit s (s.answered p (adr .OBS_CTL) v { t with obs := { t.obs with
      instants := t.obs.instants ++
        [ObsInstant.mk (s.timeBase.toNat + 100) (some (bitOf v.toNat 31)) true (bitOf v.toNat 29)] } }))) ∧
  (∀ p w s v t, v = withBits w 29 29 1 → s.granted p .OBS_CTL 0 0 v = true →
    t = (let r := s.plainWrite (pathNum p) .OBS_CTL 0 0 v
      if bitOf v.toNat 30 then r.setFlag F.OBS_CTL_SNAP_VALID false else r) →
    exec (.obsClear p w) s = .next (commit s (s.answered p (adr .OBS_CTL) v { t with obs := { t.obs with
      instants := t.obs.instants ++
        [ObsInstant.mk (s.timeBase.toNat + 100) (some (bitOf v.toNat 31)) (bitOf v.toNat 30) true] } }))) ∧
  (∀ s x rest, s.obs.instants = x :: rest →
    (s.timeBase.toNat < x.due → exec .obsControlInstant s = .next (commit s (s.advanceGain (x.due - s.timeBase.toNat)))) ∧
    (x.due ≤ s.timeBase.toNat → exec .obsControlInstant s = .next (commit s s))) ∧
  (∀ (s before : State) x t u v, t = s.runCounters before x.due [] →
    u = (if x.snap then t.snapshotAt x.due else t) → v = (if x.clear then u.clearCounters else u) →
    (∀ b, x.freeze = some b → s.instantAt before x = v.setFlag F.OBS_CTL_FROZEN b) ∧
    (x.freeze = none → s.instantAt before x = v)) ∧
  (∀ s before : State, s.passInstants before =
    (s.obs.instants.filter fun x => decide (x.due ≤ s.timeBase.toNat)).foldl (fun t x => t.instantAt before x)
      { s with obs := { s.obs with instants := s.obs.instants.filter fun x => !decide (x.due ≤ s.timeBase.toNat) } }) ∧
  (∀ s, s.obs.instants = [] → exec .obsControlInstant s = .next (commit s s)) ∧
  (∀ p w s v t, v = withBits w 31 31 1 → s.granted p .OBS_TAG_CFG 0 0 v = true →
    t = s.plainWrite (pathNum p) .OBS_TAG_CFG 0 0 v → s.flag F.OBS_TAG_CFG_EN = true →
    exec (.tagEnable p w) s = .next (commit s (s.answered p (adr .OBS_TAG_CFG) v t))) ∧
  (∀ p w s v t l, v = withBits w 31 31 1 → s.granted p .OBS_TAG_CFG 0 0 v = true →
    t = s.plainWrite (pathNum p) .OBS_TAG_CFG 0 0 v → s.flag F.OBS_TAG_CFG_EN = false →
    t.flag F.OBS_TAG_CFG_EN = true →
    l = (List.range 12).foldl (fun (d : Store Word) m => d.set (fun _ => 1) m
      (if t.reg (adr .OBS_TAG_SEED) ^^^ BitVec.ofNat 32 m = 0 then 1
        else t.reg (adr .OBS_TAG_SEED) ^^^ BitVec.ofNat 32 m)) t.obs.lfsr →
    exec (.tagEnable p w) s = .next (commit s (s.answered p (adr .OBS_TAG_CFG) v
      { t with obs := { t.obs with lfsr := l } }))) ∧
  (∀ (c : Fin 32) s g, s.tagDue c = some g →
    ((s.chan c).st = .online → ∀ r loc, s.idleCycle c = some r → loc = (serviceAt c (r.tagOff c)).loc →
      (r.rowWaits loc true = false → r.rowInCycle loc = false → r.bankOpen loc = true → r.fitsBudget c 1 = true →
        exec (.tagRecordWrite c) s =
          .next (commit s ((((r.activate loc 1).countCh c 5).dropTag g).putTag c g))) ∧
      (r.rowWaits loc true = true ∨ r.rowInCycle loc = true ∨ r.bankOpen loc = false ∨ r.fitsBudget c 1 = false →
        exec (.tagRecordWrite c) s = .next (commit s s))) ∧
    ((s.chan c).st = .online → s.idleCycle c = none → exec (.tagRecordWrite c) s = .next (commit s s)) ∧
    ((s.chan c).st ≠ .online →
      exec (.tagRecordWrite c) s = .next (commit s ((s.dropTag g).bump F.OBS_TAG_STS_DROPS)))) ∧
  (∀ (c : Fin 32) s, s.tagDue c = none → exec (.tagRecordWrite c) s = .next (commit s s)) ∧
  (∀ p w s v t, v = withBits w 31 29 4 → s.granted p .OBS_TRC_CTL 0 0 v = true →
    t = (((s.plainWrite (pathNum p) .OBS_TRC_CTL 0 0 v).setFlag F.OBS_TRC_STS_RUNNING true).setFlag F.OBS_TRC_STS_FULL
      false).setFld F.OBS_TRC_STS_WR_POS 0 →
    exec (.traceStart p w) s = .next (commit s (s.answered p (adr .OBS_TRC_CTL) v
      { t with obs := { t.obs with postLeft := none, lost := 0 } }))) ∧
  (∀ p w s v t, v = withBits w 31 29 2 → s.granted p .OBS_TRC_CTL 0 0 v = true →
    t = s.plainWrite (pathNum p) .OBS_TRC_CTL 0 0 v →
    exec (.traceStop p w) s = .next (commit s (s.answered p (adr .OBS_TRC_CTL) v
      (if s.flag F.OBS_TRC_STS_RUNNING then t.stopTrace 1 else t)))) ∧
  (∀ s, s.flag F.OBS_TRC_STS_RUNNING = true → s.obs.postLeft = some 0 →
    exec .tracePostTriggerStop s = .next (commit s (s.stopTrace 3))) ∧
  (∀ p w s v t, v = withBits w 31 29 1 → s.granted p .OBS_TRC_CTL 0 0 v = true →
    s.flag F.OBS_TRC_STS_RUNNING = false → exportOk (bitsOf v.toNat 11 0) = true → s.obs.exporting = none →
    t = (s.plainWrite (pathNum p) .OBS_TRC_CTL 0 0 v).setFlag F.OBS_TRC_CTL_EXP_VALID false →
    exec (.traceExport p w) s = .next (commit s (s.answered p (adr .OBS_TRC_CTL) v
      { t with obs := { t.obs with exporting := some ⟨bitsOf v.toNat 24 20, bitsOf v.toNat 11 0, 0, t.obs.trace, []⟩ } }))) ∧
  (∀ p w s v, v = withBits w 31 29 1 → s.granted p .OBS_TRC_CTL 0 0 v = true → 
    (s.flag F.OBS_TRC_STS_RUNNING = true ∨ exportOk (bitsOf v.toNat 11 0) = false ∨ s.obs.exporting ≠ none) →
    exec (.traceExport p w) s = .next (commit s (s.turnedAway p (adr .OBS_TRC_CTL)))) ∧
  (∀ s x, s.obs.exporting = some x →
    (x.next = 4096 → exec .traceExportEnd s = .next (commit s
      ((({ s with obs := { s.obs with exporting := none } }).setFlag F.OBS_TRC_CTL_EXP_VALID true).latch
        F.POLL_SUMMARY_DONE))) ∧
    (x.next ≠ 4096 → exec .traceExportEnd s = .next (commit s s))) ∧
  (∀ s, s.obs.exporting = none → exec .traceExportEnd s = .next (commit s s)) ∧
  (∀ p w s t e, s.granted p .OBS_TRC_RD 0 0 w = true → t = s.plainWrite (pathNum p) .OBS_TRC_RD 0 0 w →
    e = s.obs.trace.get (fun _ => []) (bitsOf w.toNat 13 0) →
    exec (.traceWindowRead p w) s = .next (commit s (s.answered p (adr .OBS_TRC_RD) w
      ((t.each 4 fun k u => u.setReg (adr .OBS_TRC_WIN 0 k) (e.getD k 0)).setFlag F.OBS_TRC_RD_VALID true)))) ∧
  (∀ p w s, s.granted p .OBS_TRC_MARK 0 0 w = true →
    exec (.traceMark p w) s = .next (commit s (s.answered p (adr .OBS_TRC_MARK) w (s.traceEv 0xC 0 w.toNat)))) ∧
  (∀ (s : State) k t, t = (s.setFlag F.OBS_TRC_STS_RUNNING false).setFld F.OBS_TRC_STS_STOPPED_BY k →
    (k = 1 → s.stopTrace k = { t with obs := { t.obs with postLeft := none } }) ∧
    (k ≠ 1 → s.stopTrace k = ({ t with obs := { t.obs with postLeft := none } } : State).latch F.POLL_SUMMARY_OBS)) ∧
  (∀ (s : State) time k a d n, n = s.obs.fifo - (s.now - s.obs.fifoAt) →
    (64 ≤ n → s.queueEntry time k a d =
      { s with obs := { s.obs with fifo := n, fifoAt := s.now, lost := s.obs.lost + 1 } }.countGl 0x11) ∧
    (∀ t, n < 64 → t = { s with obs := { s.obs with fifo := n + 1, fifoAt := s.now, lost := 0 } } →
      s.queueEntry time k a d =
        (if s.obs.lost = 0 then t else t.putEntry time 0xD 0 s.obs.lost).putEntry time k a d)) ∧
  (∀ (s : State) k a d, s.traceEv k a d =
    { s with obs := { s.obs with events := s.obs.events ++ [.entry s.timeBase.toNat k a d] } })
end

