-- ==== Sys2Proof/Laws/Store.lean ====
section
/-!
SUPPORT. The laws of sparse stores: what a key reads as after a write or an erasure, and that the operations keep the
canonical form.
-/
namespace Sys2Proof.Machine

variable {α : Type}

@[simp] theorem Store.get_nil (d : Nat → α) (k : Nat) : Store.get d [] k = d k := rfl

theorem Store.get_erase (d : Nat → α) (p : Nat → Bool) (m : Store α) (k : Nat) :
    Store.get d (Store.erase p m) k = if p k then d k else Store.get d m k := by
  induction m with
  | nil => simp [Store.erase]
  | cons e r ih =>
    obtain ⟨k', v⟩ := e
    by_cases hk : k = k'
    · subst hk; cases hp : p k <;> simp_all [Store.erase, Store.get]
    · cases hp : p k' <;> simp_all [Store.erase, Store.get]

theorem Store.get_insert (d : Nat → α) (m : Store α) (k : Nat) (v : α) (j : Nat)
    (h : ∀ x, (k, x) ∉ m) : Store.get d (Store.insert m k v) j = if j = k then v else Store.get d m j := by
  induction m with
  | nil => simp [Store.insert, Store.get]
  | cons e r ih =>
    obtain ⟨k', v'⟩ := e
    have hk : k ≠ k' := fun hc => h v' (by simp [hc])
    have hr : ∀ x, (k, x) ∉ r := fun x hx => h x (List.mem_cons_of_mem _ hx)
    by_cases hlt : k < k'
    · simp [Store.insert, Store.get, hlt]
    · by_cases hj : j = k'
      · simp [Store.insert, Store.get, hlt, hj, hk.symm]
      · simp [Store.insert, Store.get, hlt, hj, ih hr]

theorem Store.not_mem_erase (m : Store α) (k : Nat) (x : α) : (k, x) ∉ Store.erase (fun j => j == k) m := by
  induction m with
  | nil => simp [Store.erase]
  | cons e r ih =>
    obtain ⟨k', v⟩ := e
    by_cases hk : k' = k
    · simpa [Store.erase, hk] using ih
    · simp [Store.erase, hk, ih, Ne.symm hk]

variable [DecidableEq α]

/-- A read after a write: the key written gives the value, every other key what it gave before. -/
theorem Store.get_set (d : Nat → α) (m : Store α) (k : Nat) (v : α) (j : Nat) :
    Store.get d (Store.set d m k v) j = if j = k then v else Store.get d m j := by
  unfold Store.set
  split
  next h => rw [Store.get_erase]; by_cases hj : j = k <;> simp [hj, h]
  next h =>
    rw [Store.get_insert d _ k v j (fun x => Store.not_mem_erase m k x), Store.get_erase]
    by_cases hj : j = k <;> simp [hj]

@[simp] theorem Store.get_set_same (d : Nat → α) (m : Store α) (k : Nat) (v : α) :
    Store.get d (Store.set d m k v) k = v := by simp [Store.get_set]

theorem Store.get_set_ne (d : Nat → α) (m : Store α) {k j : Nat} (v : α) (h : j ≠ k) :
    Store.get d (Store.set d m k v) j = Store.get d m j := by simp [Store.get_set, h]

/-! ### The canonical form -/

theorem Store.wfFrom_weaken (d : Nat → α) (m : Store α) (a b : Nat) (hab : a ≤ b)
    (h : Store.wfFrom d (some b) m = true) : Store.wfFrom d (some a) m = true := by
  cases m with
  | nil => rfl
  | cons e r =>
    obtain ⟨k, v⟩ := e
    simp only [Store.wfFrom, Bool.and_eq_true, decide_eq_true_eq] at h ⊢
    exact ⟨⟨by omega, h.1.2⟩, h.2⟩

theorem Store.wfFrom_erase (d : Nat → α) (p : Nat → Bool) (m : Store α) (b : Option Nat)
    (h : Store.wfFrom d b m = true) : Store.wfFrom d b (Store.erase p m) = true := by
  induction m generalizing b with
  | nil => simp [Store.erase, Store.wfFrom]
  | cons e r ih =>
    obtain ⟨k, v⟩ := e
    simp only [Store.wfFrom, Bool.and_eq_true] at h
    cases hp : p k
    · have hr := ih (some k) h.2
      simp [Store.erase, hp, Store.wfFrom, h.1, hr]
    · simp only [Store.erase, hp, if_true]
      have hr := ih (some k) h.2
      cases b with
      | none =>
        cases hx : Store.erase p r with
        | nil => rfl
        | cons e' r' =>
          obtain ⟨k', v'⟩ := e'
          rw [hx] at hr
          simp only [Store.wfFrom, Bool.and_eq_true] at hr ⊢
          exact ⟨⟨trivial, hr.1.2⟩, hr.2⟩
      | some a =>
        have ha := h.1.1
        simp only [decide_eq_true_eq] at ha
        exact Store.wfFrom_weaken d _ a k (by omega) hr

/-- Erasing keys keeps the canonical form. -/
theorem Store.wf_erase (d : Nat → α) (p : Nat → Bool) (m : Store α) (h : Store.wf d m = true) :
    Store.wf d (Store.erase p m) = true := Store.wfFrom_erase d p m none h

theorem Store.wfFrom_insert (d : Nat → α) (m : Store α) (k : Nat) (v : α) (b : Option Nat) (hv : v ≠ d k)
    (hk : ∀ x, (k, x) ∉ m) (hb : ∀ x, b = some x → x < k) (h : Store.wfFrom d b m = true) :
    Store.wfFrom d b (Store.insert m k v) = true := by
  induction m generalizing b with
  | nil => cases b <;> simp_all [Store.insert, Store.wfFrom]
  | cons e r ih =>
    obtain ⟨k', v'⟩ := e
    have hne : k ≠ k' := fun hc => hk v' (by simp [hc])
    simp only [Store.wfFrom, Bool.and_eq_true] at h
    by_cases hlt : k < k'
    · simp only [Store.insert, hlt, if_true, Store.wfFrom, Bool.and_eq_true]
      refine ⟨⟨?_, by simp [hv]⟩, ⟨by simp [hlt], h.1.2⟩, h.2⟩
      cases b with
      | none => rfl
      | some a => simpa using hb a rfl
    · simp only [Store.insert, hlt, if_false, Store.wfFrom, Bool.and_eq_true]
      refine ⟨h.1, ih (some k') (fun x hx => hk x (List.mem_cons_of_mem _ hx)) ?_ h.2⟩
      intro x hx; cases hx; omega

/-- A write keeps the canonical form. -/
theorem Store.wf_set (d : Nat → α) (m : Store α) (k : Nat) (v : α) (h : Store.wf d m = true) :
    Store.wf d (Store.set d m k v) = true := by
  unfold Store.set
  split
  · exact Store.wf_erase d _ m h
  next hv =>
    exact Store.wfFrom_insert d _ k v none hv (fun x => Store.not_mem_erase m k x) (by simp)
      (Store.wf_erase d _ m h)

@[simp] theorem Store.wf_nil (d : Nat → α) : Store.wf d ([] : Store α) = true := rfl

end Sys2Proof.Machine
end

