-- ==== Sys2Proof/Laws/State.lean ====
section
/-!
SUPPORT. What each update of the state leaves of each field, and what it makes of its own: no later proof unfolds a
record update.
-/
namespace Sys2Proof.Machine

/-! ### setReg -/

@[simp] theorem State.pending_setReg (s : State) (a : Nat) (w : Word) : (s.setReg a w).pending = s.pending := rfl
@[simp] theorem State.out_setReg (s : State) (a : Nat) (w : Word) : (s.setReg a w).out = s.out := rfl
@[simp] theorem State.free_setReg (s : State) (a : Nat) (w : Word) : (s.setReg a w).free = s.free := rfl
@[simp] theorem State.part_setReg (s : State) (a : Nat) (w : Word) : (s.setReg a w).part = s.part := rfl
@[simp] theorem State.now_setReg (s : State) (a : Nat) (w : Word) : (s.setReg a w).now = s.now := rfl
@[simp] theorem State.timeBase_setReg (s : State) (a : Nat) (w : Word) : (s.setReg a w).timeBase = s.timeBase := rfl
@[simp] theorem State.ppmAcc_setReg (s : State) (a : Nat) (w : Word) : (s.setReg a w).ppmAcc = s.ppmAcc := rfl
@[simp] theorem State.mode_setReg (s : State) (a : Nat) (w : Word) : (s.setReg a w).mode = s.mode := rfl
@[simp] theorem State.shadows_setReg (s : State) (a : Nat) (w : Word) : (s.setReg a w).shadows = s.shadows := rfl
@[simp] theorem State.flowShadows_setReg (s : State) (a : Nat) (w : Word) : (s.setReg a w).flowShadows = s.flowShadows := rfl
@[simp] theorem State.holders_setReg (s : State) (a : Nat) (w : Word) : (s.setReg a w).holders = s.holders := rfl
@[simp] theorem State.latches_setReg (s : State) (a : Nat) (w : Word) : (s.setReg a w).latches = s.latches := rfl
@[simp] theorem State.popHold_setReg (s : State) (a : Nat) (w : Word) : (s.setReg a w).popHold = s.popHold := rfl
@[simp] theorem State.heldAccesses_setReg (s : State) (a : Nat) (w : Word) : (s.setReg a w).heldAccesses = s.heldAccesses := rfl
@[simp] theorem State.fieldCopies_setReg (s : State) (a : Nat) (w : Word) : (s.setReg a w).fieldCopies = s.fieldCopies := rfl
@[simp] theorem State.pins_setReg (s : State) (a : Nat) (w : Word) : (s.setReg a w).pins = s.pins := rfl
@[simp] theorem State.straits_setReg (s : State) (a : Nat) (w : Word) : (s.setReg a w).straits = s.straits := rfl
@[simp] theorem State.rails_setReg (s : State) (a : Nat) (w : Word) : (s.setReg a w).rails = s.rails := rfl
@[simp] theorem State.mods_setReg (s : State) (a : Nat) (w : Word) : (s.setReg a w).mods = s.mods := rfl
@[simp] theorem State.primary_setReg (s : State) (a : Nat) (w : Word) : (s.setReg a w).primary = s.primary := rfl
@[simp] theorem State.primaryNext_setReg (s : State) (a : Nat) (w : Word) : (s.setReg a w).primaryNext = s.primaryNext := rfl
@[simp] theorem State.txns_setReg (s : State) (a : Nat) (w : Word) : (s.setReg a w).txns = s.txns := rfl
@[simp] theorem State.qosFence_setReg (s : State) (a : Nat) (w : Word) : (s.setReg a w).qosFence = s.qosFence := rfl
@[simp] theorem State.guar_setReg (s : State) (a : Nat) (w : Word) : (s.setReg a w).guar = s.guar := rfl
@[simp] theorem State.caps_setReg (s : State) (a : Nat) (w : Word) : (s.setReg a w).caps = s.caps := rfl
@[simp] theorem State.demand_setReg (s : State) (a : Nat) (w : Word) : (s.setReg a w).demand = s.demand := rfl
@[simp] theorem State.served_setReg (s : State) (a : Nat) (w : Word) : (s.setReg a w).served = s.served := rfl
@[simp] theorem State.urgSince_setReg (s : State) (a : Nat) (w : Word) : (s.setReg a w).urgSince = s.urgSince := rfl
@[simp] theorem State.floorStale_setReg (s : State) (a : Nat) (w : Word) : (s.setReg a w).floorStale = s.floorStale := rfl
@[simp] theorem State.chans_setReg (s : State) (a : Nat) (w : Word) : (s.setReg a w).chans = s.chans := rfl
@[simp] theorem State.array_setReg (s : State) (a : Nat) (w : Word) : (s.setReg a w).array = s.array := rfl
@[simp] theorem State.salt_setReg (s : State) (a : Nat) (w : Word) : (s.setReg a w).salt = s.salt := rfl
@[simp] theorem State.unfilled_setReg (s : State) (a : Nat) (w : Word) : (s.setReg a w).unfilled = s.unfilled := rfl
@[simp] theorem State.ctxWrites_setReg (s : State) (a : Nat) (w : Word) : (s.setReg a w).ctxWrites = s.ctxWrites := rfl
@[simp] theorem State.patterned_setReg (s : State) (a : Nat) (w : Word) : (s.setReg a w).patterned = s.patterned := rfl
@[simp] theorem State.repairs_setReg (s : State) (a : Nat) (w : Word) : (s.setReg a w).repairs = s.repairs := rfl
@[simp] theorem State.stopped_setReg (s : State) (a : Nat) (w : Word) : (s.setReg a w).stopped = s.stopped := rfl
@[simp] theorem State.resetting_setReg (s : State) (a : Nat) (w : Word) : (s.setReg a w).resetting = s.resetting := rfl
@[simp] theorem State.ownSelf_setReg (s : State) (a : Nat) (w : Word) : (s.setReg a w).ownSelf = s.ownSelf := rfl
@[simp] theorem State.dieReset_setReg (s : State) (a : Nat) (w : Word) : (s.setReg a w).dieReset = s.dieReset := rfl
@[simp] theorem State.bringUp_setReg (s : State) (a : Nat) (w : Word) : (s.setReg a w).bringUp = s.bringUp := rfl
@[simp] theorem State.retained_setReg (s : State) (a : Nat) (w : Word) : (s.setReg a w).retained = s.retained := rfl
@[simp] theorem State.coll_setReg (s : State) (a : Nat) (w : Word) : (s.setReg a w).coll = s.coll := rfl
@[simp] theorem State.fuses_setReg (s : State) (a : Nat) (w : Word) : (s.setReg a w).fuses = s.fuses := rfl
@[simp] theorem State.mram_setReg (s : State) (a : Nat) (w : Word) : (s.setReg a w).mram = s.mram := rfl
@[simp] theorem State.thermal_setReg (s : State) (a : Nat) (w : Word) : (s.setReg a w).thermal = s.thermal := rfl
@[simp] theorem State.wear_setReg (s : State) (a : Nat) (w : Word) : (s.setReg a w).wear = s.wear := rfl
@[simp] theorem State.calNow_setReg (s : State) (a : Nat) (w : Word) : (s.setReg a w).calNow = s.calNow := rfl
@[simp] theorem State.calRun_setReg (s : State) (a : Nat) (w : Word) : (s.setReg a w).calRun = s.calRun := rfl
@[simp] theorem State.minEye_setReg (s : State) (a : Nat) (w : Word) : (s.setReg a w).minEye = s.minEye := rfl
@[simp] theorem State.aonUpset_setReg (s : State) (a : Nat) (w : Word) : (s.setReg a w).aonUpset = s.aonUpset := rfl
@[simp] theorem State.calBad_setReg (s : State) (a : Nat) (w : Word) : (s.setReg a w).calBad = s.calBad := rfl
@[simp] theorem State.auth_setReg (s : State) (a : Nat) (w : Word) : (s.setReg a w).auth = s.auth := rfl
@[simp] theorem State.cwy_setReg (s : State) (a : Nat) (w : Word) : (s.setReg a w).cwy = s.cwy := rfl
@[simp] theorem State.life_setReg (s : State) (a : Nat) (w : Word) : (s.setReg a w).life = s.life := rfl
@[simp] theorem State.obs_setReg (s : State) (a : Nat) (w : Word) : (s.setReg a w).obs = s.obs := rfl

/-! ### setFld -/

@[simp] theorem State.pending_setFld (s : State) (f : Fld) (v : Nat) : (s.setFld f v).pending = s.pending := rfl
@[simp] theorem State.out_setFld (s : State) (f : Fld) (v : Nat) : (s.setFld f v).out = s.out := rfl
@[simp] theorem State.free_setFld (s : State) (f : Fld) (v : Nat) : (s.setFld f v).free = s.free := rfl
@[simp] theorem State.part_setFld (s : State) (f : Fld) (v : Nat) : (s.setFld f v).part = s.part := rfl
@[simp] theorem State.now_setFld (s : State) (f : Fld) (v : Nat) : (s.setFld f v).now = s.now := rfl
@[simp] theorem State.timeBase_setFld (s : State) (f : Fld) (v : Nat) : (s.setFld f v).timeBase = s.timeBase := rfl
@[simp] theorem State.ppmAcc_setFld (s : State) (f : Fld) (v : Nat) : (s.setFld f v).ppmAcc = s.ppmAcc := rfl
@[simp] theorem State.mode_setFld (s : State) (f : Fld) (v : Nat) : (s.setFld f v).mode = s.mode := rfl
@[simp] theorem State.shadows_setFld (s : State) (f : Fld) (v : Nat) : (s.setFld f v).shadows = s.shadows := rfl
@[simp] theorem State.flowShadows_setFld (s : State) (f : Fld) (v : Nat) : (s.setFld f v).flowShadows = s.flowShadows := rfl
@[simp] theorem State.holders_setFld (s : State) (f : Fld) (v : Nat) : (s.setFld f v).holders = s.holders := rfl
@[simp] theorem State.latches_setFld (s : State) (f : Fld) (v : Nat) : (s.setFld f v).latches = s.latches := rfl
@[simp] theorem State.popHold_setFld (s : State) (f : Fld) (v : Nat) : (s.setFld f v).popHold = s.popHold := rfl
@[simp] theorem State.heldAccesses_setFld (s : State) (f : Fld) (v : Nat) : (s.setFld f v).heldAccesses = s.heldAccesses := rfl
@[simp] theorem State.fieldCopies_setFld (s : State) (f : Fld) (v : Nat) : (s.setFld f v).fieldCopies = s.fieldCopies := rfl
@[simp] theorem State.pins_setFld (s : State) (f : Fld) (v : Nat) : (s.setFld f v).pins = s.pins := rfl
@[simp] theorem State.straits_setFld (s : State) (f : Fld) (v : Nat) : (s.setFld f v).straits = s.straits := rfl
@[simp] theorem State.rails_setFld (s : State) (f : Fld) (v : Nat) : (s.setFld f v).rails = s.rails := rfl
@[simp] theorem State.mods_setFld (s : State) (f : Fld) (v : Nat) : (s.setFld f v).mods = s.mods := rfl
@[simp] theorem State.primary_setFld (s : State) (f : Fld) (v : Nat) : (s.setFld f v).primary = s.primary := rfl
@[simp] theorem State.primaryNext_setFld (s : State) (f : Fld) (v : Nat) : (s.setFld f v).primaryNext = s.primaryNext := rfl
@[simp] theorem State.txns_setFld (s : State) (f : Fld) (v : Nat) : (s.setFld f v).txns = s.txns := rfl
@[simp] theorem State.qosFence_setFld (s : State) (f : Fld) (v : Nat) : (s.setFld f v).qosFence = s.qosFence := rfl
@[simp] theorem State.guar_setFld (s : State) (f : Fld) (v : Nat) : (s.setFld f v).guar = s.guar := rfl
@[simp] theorem State.caps_setFld (s : State) (f : Fld) (v : Nat) : (s.setFld f v).caps = s.caps := rfl
@[simp] theorem State.demand_setFld (s : State) (f : Fld) (v : Nat) : (s.setFld f v).demand = s.demand := rfl
@[simp] theorem State.served_setFld (s : State) (f : Fld) (v : Nat) : (s.setFld f v).served = s.served := rfl
@[simp] theorem State.urgSince_setFld (s : State) (f : Fld) (v : Nat) : (s.setFld f v).urgSince = s.urgSince := rfl
@[simp] theorem State.floorStale_setFld (s : State) (f : Fld) (v : Nat) : (s.setFld f v).floorStale = s.floorStale := rfl
@[simp] theorem State.chans_setFld (s : State) (f : Fld) (v : Nat) : (s.setFld f v).chans = s.chans := rfl
@[simp] theorem State.array_setFld (s : State) (f : Fld) (v : Nat) : (s.setFld f v).array = s.array := rfl
@[simp] theorem State.salt_setFld (s : State) (f : Fld) (v : Nat) : (s.setFld f v).salt = s.salt := rfl
@[simp] theorem State.unfilled_setFld (s : State) (f : Fld) (v : Nat) : (s.setFld f v).unfilled = s.unfilled := rfl
@[simp] theorem State.ctxWrites_setFld (s : State) (f : Fld) (v : Nat) : (s.setFld f v).ctxWrites = s.ctxWrites := rfl
@[simp] theorem State.patterned_setFld (s : State) (f : Fld) (v : Nat) : (s.setFld f v).patterned = s.patterned := rfl
@[simp] theorem State.repairs_setFld (s : State) (f : Fld) (v : Nat) : (s.setFld f v).repairs = s.repairs := rfl
@[simp] theorem State.stopped_setFld (s : State) (f : Fld) (v : Nat) : (s.setFld f v).stopped = s.stopped := rfl
@[simp] theorem State.resetting_setFld (s : State) (f : Fld) (v : Nat) : (s.setFld f v).resetting = s.resetting := rfl
@[simp] theorem State.ownSelf_setFld (s : State) (f : Fld) (v : Nat) : (s.setFld f v).ownSelf = s.ownSelf := rfl
@[simp] theorem State.dieReset_setFld (s : State) (f : Fld) (v : Nat) : (s.setFld f v).dieReset = s.dieReset := rfl
@[simp] theorem State.bringUp_setFld (s : State) (f : Fld) (v : Nat) : (s.setFld f v).bringUp = s.bringUp := rfl
@[simp] theorem State.retained_setFld (s : State) (f : Fld) (v : Nat) : (s.setFld f v).retained = s.retained := rfl
@[simp] theorem State.coll_setFld (s : State) (f : Fld) (v : Nat) : (s.setFld f v).coll = s.coll := rfl
@[simp] theorem State.fuses_setFld (s : State) (f : Fld) (v : Nat) : (s.setFld f v).fuses = s.fuses := rfl
@[simp] theorem State.mram_setFld (s : State) (f : Fld) (v : Nat) : (s.setFld f v).mram = s.mram := rfl
@[simp] theorem State.thermal_setFld (s : State) (f : Fld) (v : Nat) : (s.setFld f v).thermal = s.thermal := rfl
@[simp] theorem State.wear_setFld (s : State) (f : Fld) (v : Nat) : (s.setFld f v).wear = s.wear := rfl
@[simp] theorem State.calNow_setFld (s : State) (f : Fld) (v : Nat) : (s.setFld f v).calNow = s.calNow := rfl
@[simp] theorem State.calRun_setFld (s : State) (f : Fld) (v : Nat) : (s.setFld f v).calRun = s.calRun := rfl
@[simp] theorem State.minEye_setFld (s : State) (f : Fld) (v : Nat) : (s.setFld f v).minEye = s.minEye := rfl
@[simp] theorem State.aonUpset_setFld (s : State) (f : Fld) (v : Nat) : (s.setFld f v).aonUpset = s.aonUpset := rfl
@[simp] theorem State.calBad_setFld (s : State) (f : Fld) (v : Nat) : (s.setFld f v).calBad = s.calBad := rfl
@[simp] theorem State.auth_setFld (s : State) (f : Fld) (v : Nat) : (s.setFld f v).auth = s.auth := rfl
@[simp] theorem State.cwy_setFld (s : State) (f : Fld) (v : Nat) : (s.setFld f v).cwy = s.cwy := rfl
@[simp] theorem State.life_setFld (s : State) (f : Fld) (v : Nat) : (s.setFld f v).life = s.life := rfl
@[simp] theorem State.obs_setFld (s : State) (f : Fld) (v : Nat) : (s.setFld f v).obs = s.obs := rfl

/-! ### setFlag -/

@[simp] theorem State.pending_setFlag (s : State) (f : Fld) (b : Bool) : (s.setFlag f b).pending = s.pending := rfl
@[simp] theorem State.out_setFlag (s : State) (f : Fld) (b : Bool) : (s.setFlag f b).out = s.out := rfl
@[simp] theorem State.free_setFlag (s : State) (f : Fld) (b : Bool) : (s.setFlag f b).free = s.free := rfl
@[simp] theorem State.part_setFlag (s : State) (f : Fld) (b : Bool) : (s.setFlag f b).part = s.part := rfl
@[simp] theorem State.now_setFlag (s : State) (f : Fld) (b : Bool) : (s.setFlag f b).now = s.now := rfl
@[simp] theorem State.timeBase_setFlag (s : State) (f : Fld) (b : Bool) : (s.setFlag f b).timeBase = s.timeBase := rfl
@[simp] theorem State.ppmAcc_setFlag (s : State) (f : Fld) (b : Bool) : (s.setFlag f b).ppmAcc = s.ppmAcc := rfl
@[simp] theorem State.mode_setFlag (s : State) (f : Fld) (b : Bool) : (s.setFlag f b).mode = s.mode := rfl
@[simp] theorem State.shadows_setFlag (s : State) (f : Fld) (b : Bool) : (s.setFlag f b).shadows = s.shadows := rfl
@[simp] theorem State.flowShadows_setFlag (s : State) (f : Fld) (b : Bool) : (s.setFlag f b).flowShadows = s.flowShadows := rfl
@[simp] theorem State.holders_setFlag (s : State) (f : Fld) (b : Bool) : (s.setFlag f b).holders = s.holders := rfl
@[simp] theorem State.latches_setFlag (s : State) (f : Fld) (b : Bool) : (s.setFlag f b).latches = s.latches := rfl
@[simp] theorem State.popHold_setFlag (s : State) (f : Fld) (b : Bool) : (s.setFlag f b).popHold = s.popHold := rfl
@[simp] theorem State.heldAccesses_setFlag (s : State) (f : Fld) (b : Bool) : (s.setFlag f b).heldAccesses = s.heldAccesses := rfl
@[simp] theorem State.fieldCopies_setFlag (s : State) (f : Fld) (b : Bool) : (s.setFlag f b).fieldCopies = s.fieldCopies := rfl
@[simp] theorem State.pins_setFlag (s : State) (f : Fld) (b : Bool) : (s.setFlag f b).pins = s.pins := rfl
@[simp] theorem State.straits_setFlag (s : State) (f : Fld) (b : Bool) : (s.setFlag f b).straits = s.straits := rfl
@[simp] theorem State.rails_setFlag (s : State) (f : Fld) (b : Bool) : (s.setFlag f b).rails = s.rails := rfl
@[simp] theorem State.mods_setFlag (s : State) (f : Fld) (b : Bool) : (s.setFlag f b).mods = s.mods := rfl
@[simp] theorem State.primary_setFlag (s : State) (f : Fld) (b : Bool) : (s.setFlag f b).primary = s.primary := rfl
@[simp] theorem State.primaryNext_setFlag (s : State) (f : Fld) (b : Bool) : (s.setFlag f b).primaryNext = s.primaryNext := rfl
@[simp] theorem State.txns_setFlag (s : State) (f : Fld) (b : Bool) : (s.setFlag f b).txns = s.txns := rfl
@[simp] theorem State.qosFence_setFlag (s : State) (f : Fld) (b : Bool) : (s.setFlag f b).qosFence = s.qosFence := rfl
@[simp] theorem State.guar_setFlag (s : State) (f : Fld) (b : Bool) : (s.setFlag f b).guar = s.guar := rfl
@[simp] theorem State.caps_setFlag (s : State) (f : Fld) (b : Bool) : (s.setFlag f b).caps = s.caps := rfl
@[simp] theorem State.demand_setFlag (s : State) (f : Fld) (b : Bool) : (s.setFlag f b).demand = s.demand := rfl
@[simp] theorem State.served_setFlag (s : State) (f : Fld) (b : Bool) : (s.setFlag f b).served = s.served := rfl
@[simp] theorem State.urgSince_setFlag (s : State) (f : Fld) (b : Bool) : (s.setFlag f b).urgSince = s.urgSince := rfl
@[simp] theorem State.floorStale_setFlag (s : State) (f : Fld) (b : Bool) : (s.setFlag f b).floorStale = s.floorStale := rfl
@[simp] theorem State.chans_setFlag (s : State) (f : Fld) (b : Bool) : (s.setFlag f b).chans = s.chans := rfl
@[simp] theorem State.array_setFlag (s : State) (f : Fld) (b : Bool) : (s.setFlag f b).array = s.array := rfl
@[simp] theorem State.salt_setFlag (s : State) (f : Fld) (b : Bool) : (s.setFlag f b).salt = s.salt := rfl
@[simp] theorem State.unfilled_setFlag (s : State) (f : Fld) (b : Bool) : (s.setFlag f b).unfilled = s.unfilled := rfl
@[simp] theorem State.ctxWrites_setFlag (s : State) (f : Fld) (b : Bool) : (s.setFlag f b).ctxWrites = s.ctxWrites := rfl
@[simp] theorem State.patterned_setFlag (s : State) (f : Fld) (b : Bool) : (s.setFlag f b).patterned = s.patterned := rfl
@[simp] theorem State.repairs_setFlag (s : State) (f : Fld) (b : Bool) : (s.setFlag f b).repairs = s.repairs := rfl
@[simp] theorem State.stopped_setFlag (s : State) (f : Fld) (b : Bool) : (s.setFlag f b).stopped = s.stopped := rfl
@[simp] theorem State.resetting_setFlag (s : State) (f : Fld) (b : Bool) : (s.setFlag f b).resetting = s.resetting := rfl
@[simp] theorem State.ownSelf_setFlag (s : State) (f : Fld) (b : Bool) : (s.setFlag f b).ownSelf = s.ownSelf := rfl
@[simp] theorem State.dieReset_setFlag (s : State) (f : Fld) (b : Bool) : (s.setFlag f b).dieReset = s.dieReset := rfl
@[simp] theorem State.bringUp_setFlag (s : State) (f : Fld) (b : Bool) : (s.setFlag f b).bringUp = s.bringUp := rfl
@[simp] theorem State.retained_setFlag (s : State) (f : Fld) (b : Bool) : (s.setFlag f b).retained = s.retained := rfl
@[simp] theorem State.coll_setFlag (s : State) (f : Fld) (b : Bool) : (s.setFlag f b).coll = s.coll := rfl
@[simp] theorem State.fuses_setFlag (s : State) (f : Fld) (b : Bool) : (s.setFlag f b).fuses = s.fuses := rfl
@[simp] theorem State.mram_setFlag (s : State) (f : Fld) (b : Bool) : (s.setFlag f b).mram = s.mram := rfl
@[simp] theorem State.thermal_setFlag (s : State) (f : Fld) (b : Bool) : (s.setFlag f b).thermal = s.thermal := rfl
@[simp] theorem State.wear_setFlag (s : State) (f : Fld) (b : Bool) : (s.setFlag f b).wear = s.wear := rfl
@[simp] theorem State.calNow_setFlag (s : State) (f : Fld) (b : Bool) : (s.setFlag f b).calNow = s.calNow := rfl
@[simp] theorem State.calRun_setFlag (s : State) (f : Fld) (b : Bool) : (s.setFlag f b).calRun = s.calRun := rfl
@[simp] theorem State.minEye_setFlag (s : State) (f : Fld) (b : Bool) : (s.setFlag f b).minEye = s.minEye := rfl
@[simp] theorem State.aonUpset_setFlag (s : State) (f : Fld) (b : Bool) : (s.setFlag f b).aonUpset = s.aonUpset := rfl
@[simp] theorem State.calBad_setFlag (s : State) (f : Fld) (b : Bool) : (s.setFlag f b).calBad = s.calBad := rfl
@[simp] theorem State.auth_setFlag (s : State) (f : Fld) (b : Bool) : (s.setFlag f b).auth = s.auth := rfl
@[simp] theorem State.cwy_setFlag (s : State) (f : Fld) (b : Bool) : (s.setFlag f b).cwy = s.cwy := rfl
@[simp] theorem State.life_setFlag (s : State) (f : Fld) (b : Bool) : (s.setFlag f b).life = s.life := rfl
@[simp] theorem State.obs_setFlag (s : State) (f : Fld) (b : Bool) : (s.setFlag f b).obs = s.obs := rfl

/-! ### bump -/

@[simp] theorem State.pending_bump (s : State) (f : Fld) (k : Nat) : (s.bump f k).pending = s.pending := rfl
@[simp] theorem State.out_bump (s : State) (f : Fld) (k : Nat) : (s.bump f k).out = s.out := rfl
@[simp] theorem State.free_bump (s : State) (f : Fld) (k : Nat) : (s.bump f k).free = s.free := rfl
@[simp] theorem State.part_bump (s : State) (f : Fld) (k : Nat) : (s.bump f k).part = s.part := rfl
@[simp] theorem State.now_bump (s : State) (f : Fld) (k : Nat) : (s.bump f k).now = s.now := rfl
@[simp] theorem State.timeBase_bump (s : State) (f : Fld) (k : Nat) : (s.bump f k).timeBase = s.timeBase := rfl
@[simp] theorem State.ppmAcc_bump (s : State) (f : Fld) (k : Nat) : (s.bump f k).ppmAcc = s.ppmAcc := rfl
@[simp] theorem State.mode_bump (s : State) (f : Fld) (k : Nat) : (s.bump f k).mode = s.mode := rfl
@[simp] theorem State.shadows_bump (s : State) (f : Fld) (k : Nat) : (s.bump f k).shadows = s.shadows := rfl
@[simp] theorem State.flowShadows_bump (s : State) (f : Fld) (k : Nat) : (s.bump f k).flowShadows = s.flowShadows := rfl
@[simp] theorem State.holders_bump (s : State) (f : Fld) (k : Nat) : (s.bump f k).holders = s.holders := rfl
@[simp] theorem State.latches_bump (s : State) (f : Fld) (k : Nat) : (s.bump f k).latches = s.latches := rfl
@[simp] theorem State.popHold_bump (s : State) (f : Fld) (k : Nat) : (s.bump f k).popHold = s.popHold := rfl
@[simp] theorem State.heldAccesses_bump (s : State) (f : Fld) (k : Nat) : (s.bump f k).heldAccesses = s.heldAccesses := rfl
@[simp] theorem State.fieldCopies_bump (s : State) (f : Fld) (k : Nat) : (s.bump f k).fieldCopies = s.fieldCopies := rfl
@[simp] theorem State.pins_bump (s : State) (f : Fld) (k : Nat) : (s.bump f k).pins = s.pins := rfl
@[simp] theorem State.straits_bump (s : State) (f : Fld) (k : Nat) : (s.bump f k).straits = s.straits := rfl
@[simp] theorem State.rails_bump (s : State) (f : Fld) (k : Nat) : (s.bump f k).rails = s.rails := rfl
@[simp] theorem State.mods_bump (s : State) (f : Fld) (k : Nat) : (s.bump f k).mods = s.mods := rfl
@[simp] theorem State.primary_bump (s : State) (f : Fld) (k : Nat) : (s.bump f k).primary = s.primary := rfl
@[simp] theorem State.primaryNext_bump (s : State) (f : Fld) (k : Nat) : (s.bump f k).primaryNext = s.primaryNext := rfl
@[simp] theorem State.txns_bump (s : State) (f : Fld) (k : Nat) : (s.bump f k).txns = s.txns := rfl
@[simp] theorem State.qosFence_bump (s : State) (f : Fld) (k : Nat) : (s.bump f k).qosFence = s.qosFence := rfl
@[simp] theorem State.guar_bump (s : State) (f : Fld) (k : Nat) : (s.bump f k).guar = s.guar := rfl
@[simp] theorem State.caps_bump (s : State) (f : Fld) (k : Nat) : (s.bump f k).caps = s.caps := rfl
@[simp] theorem State.demand_bump (s : State) (f : Fld) (k : Nat) : (s.bump f k).demand = s.demand := rfl
@[simp] theorem State.served_bump (s : State) (f : Fld) (k : Nat) : (s.bump f k).served = s.served := rfl
@[simp] theorem State.urgSince_bump (s : State) (f : Fld) (k : Nat) : (s.bump f k).urgSince = s.urgSince := rfl
@[simp] theorem State.floorStale_bump (s : State) (f : Fld) (k : Nat) : (s.bump f k).floorStale = s.floorStale := rfl
@[simp] theorem State.chans_bump (s : State) (f : Fld) (k : Nat) : (s.bump f k).chans = s.chans := rfl
@[simp] theorem State.array_bump (s : State) (f : Fld) (k : Nat) : (s.bump f k).array = s.array := rfl
@[simp] theorem State.salt_bump (s : State) (f : Fld) (k : Nat) : (s.bump f k).salt = s.salt := rfl
@[simp] theorem State.unfilled_bump (s : State) (f : Fld) (k : Nat) : (s.bump f k).unfilled = s.unfilled := rfl
@[simp] theorem State.ctxWrites_bump (s : State) (f : Fld) (k : Nat) : (s.bump f k).ctxWrites = s.ctxWrites := rfl
@[simp] theorem State.patterned_bump (s : State) (f : Fld) (k : Nat) : (s.bump f k).patterned = s.patterned := rfl
@[simp] theorem State.repairs_bump (s : State) (f : Fld) (k : Nat) : (s.bump f k).repairs = s.repairs := rfl
@[simp] theorem State.stopped_bump (s : State) (f : Fld) (k : Nat) : (s.bump f k).stopped = s.stopped := rfl
@[simp] theorem State.resetting_bump (s : State) (f : Fld) (k : Nat) : (s.bump f k).resetting = s.resetting := rfl
@[simp] theorem State.ownSelf_bump (s : State) (f : Fld) (k : Nat) : (s.bump f k).ownSelf = s.ownSelf := rfl
@[simp] theorem State.dieReset_bump (s : State) (f : Fld) (k : Nat) : (s.bump f k).dieReset = s.dieReset := rfl
@[simp] theorem State.bringUp_bump (s : State) (f : Fld) (k : Nat) : (s.bump f k).bringUp = s.bringUp := rfl
@[simp] theorem State.retained_bump (s : State) (f : Fld) (k : Nat) : (s.bump f k).retained = s.retained := rfl
@[simp] theorem State.coll_bump (s : State) (f : Fld) (k : Nat) : (s.bump f k).coll = s.coll := rfl
@[simp] theorem State.fuses_bump (s : State) (f : Fld) (k : Nat) : (s.bump f k).fuses = s.fuses := rfl
@[simp] theorem State.mram_bump (s : State) (f : Fld) (k : Nat) : (s.bump f k).mram = s.mram := rfl
@[simp] theorem State.thermal_bump (s : State) (f : Fld) (k : Nat) : (s.bump f k).thermal = s.thermal := rfl
@[simp] theorem State.wear_bump (s : State) (f : Fld) (k : Nat) : (s.bump f k).wear = s.wear := rfl
@[simp] theorem State.calNow_bump (s : State) (f : Fld) (k : Nat) : (s.bump f k).calNow = s.calNow := rfl
@[simp] theorem State.calRun_bump (s : State) (f : Fld) (k : Nat) : (s.bump f k).calRun = s.calRun := rfl
@[simp] theorem State.minEye_bump (s : State) (f : Fld) (k : Nat) : (s.bump f k).minEye = s.minEye := rfl
@[simp] theorem State.aonUpset_bump (s : State) (f : Fld) (k : Nat) : (s.bump f k).aonUpset = s.aonUpset := rfl
@[simp] theorem State.calBad_bump (s : State) (f : Fld) (k : Nat) : (s.bump f k).calBad = s.calBad := rfl
@[simp] theorem State.auth_bump (s : State) (f : Fld) (k : Nat) : (s.bump f k).auth = s.auth := rfl
@[simp] theorem State.cwy_bump (s : State) (f : Fld) (k : Nat) : (s.bump f k).cwy = s.cwy := rfl
@[simp] theorem State.life_bump (s : State) (f : Fld) (k : Nat) : (s.bump f k).life = s.life := rfl
@[simp] theorem State.obs_bump (s : State) (f : Fld) (k : Nat) : (s.bump f k).obs = s.obs := rfl

/-! ### latch -/

@[simp] theorem State.pending_latch (s : State) (f : Fld) : (s.latch f).pending = s.pending := rfl
@[simp] theorem State.out_latch (s : State) (f : Fld) : (s.latch f).out = s.out := rfl
@[simp] theorem State.free_latch (s : State) (f : Fld) : (s.latch f).free = s.free := rfl
@[simp] theorem State.part_latch (s : State) (f : Fld) : (s.latch f).part = s.part := rfl
@[simp] theorem State.now_latch (s : State) (f : Fld) : (s.latch f).now = s.now := rfl
@[simp] theorem State.timeBase_latch (s : State) (f : Fld) : (s.latch f).timeBase = s.timeBase := rfl
@[simp] theorem State.ppmAcc_latch (s : State) (f : Fld) : (s.latch f).ppmAcc = s.ppmAcc := rfl
@[simp] theorem State.mode_latch (s : State) (f : Fld) : (s.latch f).mode = s.mode := rfl
@[simp] theorem State.shadows_latch (s : State) (f : Fld) : (s.latch f).shadows = s.shadows := rfl
@[simp] theorem State.flowShadows_latch (s : State) (f : Fld) : (s.latch f).flowShadows = s.flowShadows := rfl
@[simp] theorem State.holders_latch (s : State) (f : Fld) : (s.latch f).holders = s.holders := rfl
@[simp] theorem State.latches_latch (s : State) (f : Fld) : (s.latch f).latches = s.latches := rfl
@[simp] theorem State.popHold_latch (s : State) (f : Fld) : (s.latch f).popHold = s.popHold := rfl
@[simp] theorem State.heldAccesses_latch (s : State) (f : Fld) : (s.latch f).heldAccesses = s.heldAccesses := rfl
@[simp] theorem State.fieldCopies_latch (s : State) (f : Fld) : (s.latch f).fieldCopies = s.fieldCopies := rfl
@[simp] theorem State.pins_latch (s : State) (f : Fld) : (s.latch f).pins = s.pins := rfl
@[simp] theorem State.straits_latch (s : State) (f : Fld) : (s.latch f).straits = s.straits := rfl
@[simp] theorem State.rails_latch (s : State) (f : Fld) : (s.latch f).rails = s.rails := rfl
@[simp] theorem State.mods_latch (s : State) (f : Fld) : (s.latch f).mods = s.mods := rfl
@[simp] theorem State.primary_latch (s : State) (f : Fld) : (s.latch f).primary = s.primary := rfl
@[simp] theorem State.primaryNext_latch (s : State) (f : Fld) : (s.latch f).primaryNext = s.primaryNext := rfl
@[simp] theorem State.txns_latch (s : State) (f : Fld) : (s.latch f).txns = s.txns := rfl
@[simp] theorem State.qosFence_latch (s : State) (f : Fld) : (s.latch f).qosFence = s.qosFence := rfl
@[simp] theorem State.guar_latch (s : State) (f : Fld) : (s.latch f).guar = s.guar := rfl
@[simp] theorem State.caps_latch (s : State) (f : Fld) : (s.latch f).caps = s.caps := rfl
@[simp] theorem State.demand_latch (s : State) (f : Fld) : (s.latch f).demand = s.demand := rfl
@[simp] theorem State.served_latch (s : State) (f : Fld) : (s.latch f).served = s.served := rfl
@[simp] theorem State.urgSince_latch (s : State) (f : Fld) : (s.latch f).urgSince = s.urgSince := rfl
@[simp] theorem State.floorStale_latch (s : State) (f : Fld) : (s.latch f).floorStale = s.floorStale := rfl
@[simp] theorem State.chans_latch (s : State) (f : Fld) : (s.latch f).chans = s.chans := rfl
@[simp] theorem State.array_latch (s : State) (f : Fld) : (s.latch f).array = s.array := rfl
@[simp] theorem State.salt_latch (s : State) (f : Fld) : (s.latch f).salt = s.salt := rfl
@[simp] theorem State.unfilled_latch (s : State) (f : Fld) : (s.latch f).unfilled = s.unfilled := rfl
@[simp] theorem State.ctxWrites_latch (s : State) (f : Fld) : (s.latch f).ctxWrites = s.ctxWrites := rfl
@[simp] theorem State.patterned_latch (s : State) (f : Fld) : (s.latch f).patterned = s.patterned := rfl
@[simp] theorem State.repairs_latch (s : State) (f : Fld) : (s.latch f).repairs = s.repairs := rfl
@[simp] theorem State.stopped_latch (s : State) (f : Fld) : (s.latch f).stopped = s.stopped := rfl
@[simp] theorem State.resetting_latch (s : State) (f : Fld) : (s.latch f).resetting = s.resetting := rfl
@[simp] theorem State.ownSelf_latch (s : State) (f : Fld) : (s.latch f).ownSelf = s.ownSelf := rfl
@[simp] theorem State.dieReset_latch (s : State) (f : Fld) : (s.latch f).dieReset = s.dieReset := rfl
@[simp] theorem State.bringUp_latch (s : State) (f : Fld) : (s.latch f).bringUp = s.bringUp := rfl
@[simp] theorem State.retained_latch (s : State) (f : Fld) : (s.latch f).retained = s.retained := rfl
@[simp] theorem State.coll_latch (s : State) (f : Fld) : (s.latch f).coll = s.coll := rfl
@[simp] theorem State.fuses_latch (s : State) (f : Fld) : (s.latch f).fuses = s.fuses := rfl
@[simp] theorem State.mram_latch (s : State) (f : Fld) : (s.latch f).mram = s.mram := rfl
@[simp] theorem State.thermal_latch (s : State) (f : Fld) : (s.latch f).thermal = s.thermal := rfl
@[simp] theorem State.wear_latch (s : State) (f : Fld) : (s.latch f).wear = s.wear := rfl
@[simp] theorem State.calNow_latch (s : State) (f : Fld) : (s.latch f).calNow = s.calNow := rfl
@[simp] theorem State.calRun_latch (s : State) (f : Fld) : (s.latch f).calRun = s.calRun := rfl
@[simp] theorem State.minEye_latch (s : State) (f : Fld) : (s.latch f).minEye = s.minEye := rfl
@[simp] theorem State.aonUpset_latch (s : State) (f : Fld) : (s.latch f).aonUpset = s.aonUpset := rfl
@[simp] theorem State.calBad_latch (s : State) (f : Fld) : (s.latch f).calBad = s.calBad := rfl
@[simp] theorem State.auth_latch (s : State) (f : Fld) : (s.latch f).auth = s.auth := rfl
@[simp] theorem State.cwy_latch (s : State) (f : Fld) : (s.latch f).cwy = s.cwy := rfl
@[simp] theorem State.life_latch (s : State) (f : Fld) : (s.latch f).life = s.life := rfl
@[simp] theorem State.obs_latch (s : State) (f : Fld) : (s.latch f).obs = s.obs := rfl

/-! ### setChan -/

@[simp] theorem State.pending_setChan (s : State) (c : Nat) (x : Chan) : (s.setChan c x).pending = s.pending := rfl
@[simp] theorem State.out_setChan (s : State) (c : Nat) (x : Chan) : (s.setChan c x).out = s.out := rfl
@[simp] theorem State.free_setChan (s : State) (c : Nat) (x : Chan) : (s.setChan c x).free = s.free := rfl
@[simp] theorem State.part_setChan (s : State) (c : Nat) (x : Chan) : (s.setChan c x).part = s.part := rfl
@[simp] theorem State.now_setChan (s : State) (c : Nat) (x : Chan) : (s.setChan c x).now = s.now := rfl
@[simp] theorem State.timeBase_setChan (s : State) (c : Nat) (x : Chan) : (s.setChan c x).timeBase = s.timeBase := rfl
@[simp] theorem State.ppmAcc_setChan (s : State) (c : Nat) (x : Chan) : (s.setChan c x).ppmAcc = s.ppmAcc := rfl
@[simp] theorem State.mode_setChan (s : State) (c : Nat) (x : Chan) : (s.setChan c x).mode = s.mode := rfl
@[simp] theorem State.regs_setChan (s : State) (c : Nat) (x : Chan) : (s.setChan c x).regs = s.regs := rfl
@[simp] theorem State.shadows_setChan (s : State) (c : Nat) (x : Chan) : (s.setChan c x).shadows = s.shadows := rfl
@[simp] theorem State.flowShadows_setChan (s : State) (c : Nat) (x : Chan) : (s.setChan c x).flowShadows = s.flowShadows := rfl
@[simp] theorem State.holders_setChan (s : State) (c : Nat) (x : Chan) : (s.setChan c x).holders = s.holders := rfl
@[simp] theorem State.latches_setChan (s : State) (c : Nat) (x : Chan) : (s.setChan c x).latches = s.latches := rfl
@[simp] theorem State.popHold_setChan (s : State) (c : Nat) (x : Chan) : (s.setChan c x).popHold = s.popHold := rfl
@[simp] theorem State.heldAccesses_setChan (s : State) (c : Nat) (x : Chan) : (s.setChan c x).heldAccesses = s.heldAccesses := rfl
@[simp] theorem State.fieldCopies_setChan (s : State) (c : Nat) (x : Chan) : (s.setChan c x).fieldCopies = s.fieldCopies := rfl
@[simp] theorem State.pins_setChan (s : State) (c : Nat) (x : Chan) : (s.setChan c x).pins = s.pins := rfl
@[simp] theorem State.straits_setChan (s : State) (c : Nat) (x : Chan) : (s.setChan c x).straits = s.straits := rfl
@[simp] theorem State.rails_setChan (s : State) (c : Nat) (x : Chan) : (s.setChan c x).rails = s.rails := rfl
@[simp] theorem State.mods_setChan (s : State) (c : Nat) (x : Chan) : (s.setChan c x).mods = s.mods := rfl
@[simp] theorem State.primary_setChan (s : State) (c : Nat) (x : Chan) : (s.setChan c x).primary = s.primary := rfl
@[simp] theorem State.primaryNext_setChan (s : State) (c : Nat) (x : Chan) : (s.setChan c x).primaryNext = s.primaryNext := rfl
@[simp] theorem State.txns_setChan (s : State) (c : Nat) (x : Chan) : (s.setChan c x).txns = s.txns := rfl
@[simp] theorem State.qosFence_setChan (s : State) (c : Nat) (x : Chan) : (s.setChan c x).qosFence = s.qosFence := rfl
@[simp] theorem State.guar_setChan (s : State) (c : Nat) (x : Chan) : (s.setChan c x).guar = s.guar := rfl
@[simp] theorem State.caps_setChan (s : State) (c : Nat) (x : Chan) : (s.setChan c x).caps = s.caps := rfl
@[simp] theorem State.demand_setChan (s : State) (c : Nat) (x : Chan) : (s.setChan c x).demand = s.demand := rfl
@[simp] theorem State.served_setChan (s : State) (c : Nat) (x : Chan) : (s.setChan c x).served = s.served := rfl
@[simp] theorem State.urgSince_setChan (s : State) (c : Nat) (x : Chan) : (s.setChan c x).urgSince = s.urgSince := rfl
@[simp] theorem State.floorStale_setChan (s : State) (c : Nat) (x : Chan) : (s.setChan c x).floorStale = s.floorStale := rfl
@[simp] theorem State.array_setChan (s : State) (c : Nat) (x : Chan) : (s.setChan c x).array = s.array := rfl
@[simp] theorem State.salt_setChan (s : State) (c : Nat) (x : Chan) : (s.setChan c x).salt = s.salt := rfl
@[simp] theorem State.unfilled_setChan (s : State) (c : Nat) (x : Chan) : (s.setChan c x).unfilled = s.unfilled := rfl
@[simp] theorem State.ctxWrites_setChan (s : State) (c : Nat) (x : Chan) : (s.setChan c x).ctxWrites = s.ctxWrites := rfl
@[simp] theorem State.patterned_setChan (s : State) (c : Nat) (x : Chan) : (s.setChan c x).patterned = s.patterned := rfl
@[simp] theorem State.repairs_setChan (s : State) (c : Nat) (x : Chan) : (s.setChan c x).repairs = s.repairs := rfl
@[simp] theorem State.stopped_setChan (s : State) (c : Nat) (x : Chan) : (s.setChan c x).stopped = s.stopped := rfl
@[simp] theorem State.resetting_setChan (s : State) (c : Nat) (x : Chan) : (s.setChan c x).resetting = s.resetting := rfl
@[simp] theorem State.ownSelf_setChan (s : State) (c : Nat) (x : Chan) : (s.setChan c x).ownSelf = s.ownSelf := rfl
@[simp] theorem State.dieReset_setChan (s : State) (c : Nat) (x : Chan) : (s.setChan c x).dieReset = s.dieReset := rfl
@[simp] theorem State.bringUp_setChan (s : State) (c : Nat) (x : Chan) : (s.setChan c x).bringUp = s.bringUp := rfl
@[simp] theorem State.retained_setChan (s : State) (c : Nat) (x : Chan) : (s.setChan c x).retained = s.retained := rfl
@[simp] theorem State.coll_setChan (s : State) (c : Nat) (x : Chan) : (s.setChan c x).coll = s.coll := rfl
@[simp] theorem State.fuses_setChan (s : State) (c : Nat) (x : Chan) : (s.setChan c x).fuses = s.fuses := rfl
@[simp] theorem State.mram_setChan (s : State) (c : Nat) (x : Chan) : (s.setChan c x).mram = s.mram := rfl
@[simp] theorem State.thermal_setChan (s : State) (c : Nat) (x : Chan) : (s.setChan c x).thermal = s.thermal := rfl
@[simp] theorem State.wear_setChan (s : State) (c : Nat) (x : Chan) : (s.setChan c x).wear = s.wear := rfl
@[simp] theorem State.calNow_setChan (s : State) (c : Nat) (x : Chan) : (s.setChan c x).calNow = s.calNow := rfl
@[simp] theorem State.calRun_setChan (s : State) (c : Nat) (x : Chan) : (s.setChan c x).calRun = s.calRun := rfl
@[simp] theorem State.minEye_setChan (s : State) (c : Nat) (x : Chan) : (s.setChan c x).minEye = s.minEye := rfl
@[simp] theorem State.aonUpset_setChan (s : State) (c : Nat) (x : Chan) : (s.setChan c x).aonUpset = s.aonUpset := rfl
@[simp] theorem State.calBad_setChan (s : State) (c : Nat) (x : Chan) : (s.setChan c x).calBad = s.calBad := rfl
@[simp] theorem State.auth_setChan (s : State) (c : Nat) (x : Chan) : (s.setChan c x).auth = s.auth := rfl
@[simp] theorem State.cwy_setChan (s : State) (c : Nat) (x : Chan) : (s.setChan c x).cwy = s.cwy := rfl
@[simp] theorem State.life_setChan (s : State) (c : Nat) (x : Chan) : (s.setChan c x).life = s.life := rfl
@[simp] theorem State.obs_setChan (s : State) (c : Nat) (x : Chan) : (s.setChan c x).obs = s.obs := rfl

/-! ### modChan -/

@[simp] theorem State.pending_modChan (s : State) (c : Nat) (g : Chan → Chan) : (s.modChan c g).pending = s.pending := rfl
@[simp] theorem State.out_modChan (s : State) (c : Nat) (g : Chan → Chan) : (s.modChan c g).out = s.out := rfl
@[simp] theorem State.free_modChan (s : State) (c : Nat) (g : Chan → Chan) : (s.modChan c g).free = s.free := rfl
@[simp] theorem State.part_modChan (s : State) (c : Nat) (g : Chan → Chan) : (s.modChan c g).part = s.part := rfl
@[simp] theorem State.now_modChan (s : State) (c : Nat) (g : Chan → Chan) : (s.modChan c g).now = s.now := rfl
@[simp] theorem State.timeBase_modChan (s : State) (c : Nat) (g : Chan → Chan) : (s.modChan c g).timeBase = s.timeBase := rfl
@[simp] theorem State.ppmAcc_modChan (s : State) (c : Nat) (g : Chan → Chan) : (s.modChan c g).ppmAcc = s.ppmAcc := rfl
@[simp] theorem State.mode_modChan (s : State) (c : Nat) (g : Chan → Chan) : (s.modChan c g).mode = s.mode := rfl
@[simp] theorem State.regs_modChan (s : State) (c : Nat) (g : Chan → Chan) : (s.modChan c g).regs = s.regs := rfl
@[simp] theorem State.shadows_modChan (s : State) (c : Nat) (g : Chan → Chan) : (s.modChan c g).shadows = s.shadows := rfl
@[simp] theorem State.flowShadows_modChan (s : State) (c : Nat) (g : Chan → Chan) : (s.modChan c g).flowShadows = s.flowShadows := rfl
@[simp] theorem State.holders_modChan (s : State) (c : Nat) (g : Chan → Chan) : (s.modChan c g).holders = s.holders := rfl
@[simp] theorem State.latches_modChan (s : State) (c : Nat) (g : Chan → Chan) : (s.modChan c g).latches = s.latches := rfl
@[simp] theorem State.popHold_modChan (s : State) (c : Nat) (g : Chan → Chan) : (s.modChan c g).popHold = s.popHold := rfl
@[simp] theorem State.heldAccesses_modChan (s : State) (c : Nat) (g : Chan → Chan) : (s.modChan c g).heldAccesses = s.heldAccesses := rfl
@[simp] theorem State.fieldCopies_modChan (s : State) (c : Nat) (g : Chan → Chan) : (s.modChan c g).fieldCopies = s.fieldCopies := rfl
@[simp] theorem State.pins_modChan (s : State) (c : Nat) (g : Chan → Chan) : (s.modChan c g).pins = s.pins := rfl
@[simp] theorem State.straits_modChan (s : State) (c : Nat) (g : Chan → Chan) : (s.modChan c g).straits = s.straits := rfl
@[simp] theorem State.rails_modChan (s : State) (c : Nat) (g : Chan → Chan) : (s.modChan c g).rails = s.rails := rfl
@[simp] theorem State.mods_modChan (s : State) (c : Nat) (g : Chan → Chan) : (s.modChan c g).mods = s.mods := rfl
@[simp] theorem State.primary_modChan (s : State) (c : Nat) (g : Chan → Chan) : (s.modChan c g).primary = s.primary := rfl
@[simp] theorem State.primaryNext_modChan (s : State) (c : Nat) (g : Chan → Chan) : (s.modChan c g).primaryNext = s.primaryNext := rfl
@[simp] theorem State.txns_modChan (s : State) (c : Nat) (g : Chan → Chan) : (s.modChan c g).txns = s.txns := rfl
@[simp] theorem State.qosFence_modChan (s : State) (c : Nat) (g : Chan → Chan) : (s.modChan c g).qosFence = s.qosFence := rfl
@[simp] theorem State.guar_modChan (s : State) (c : Nat) (g : Chan → Chan) : (s.modChan c g).guar = s.guar := rfl
@[simp] theorem State.caps_modChan (s : State) (c : Nat) (g : Chan → Chan) : (s.modChan c g).caps = s.caps := rfl
@[simp] theorem State.demand_modChan (s : State) (c : Nat) (g : Chan → Chan) : (s.modChan c g).demand = s.demand := rfl
@[simp] theorem State.served_modChan (s : State) (c : Nat) (g : Chan → Chan) : (s.modChan c g).served = s.served := rfl
@[simp] theorem State.urgSince_modChan (s : State) (c : Nat) (g : Chan → Chan) : (s.modChan c g).urgSince = s.urgSince := rfl
@[simp] theorem State.floorStale_modChan (s : State) (c : Nat) (g : Chan → Chan) : (s.modChan c g).floorStale = s.floorStale := rfl
@[simp] theorem State.array_modChan (s : State) (c : Nat) (g : Chan → Chan) : (s.modChan c g).array = s.array := rfl
@[simp] theorem State.salt_modChan (s : State) (c : Nat) (g : Chan → Chan) : (s.modChan c g).salt = s.salt := rfl
@[simp] theorem State.unfilled_modChan (s : State) (c : Nat) (g : Chan → Chan) : (s.modChan c g).unfilled = s.unfilled := rfl
@[simp] theorem State.ctxWrites_modChan (s : State) (c : Nat) (g : Chan → Chan) : (s.modChan c g).ctxWrites = s.ctxWrites := rfl
@[simp] theorem State.patterned_modChan (s : State) (c : Nat) (g : Chan → Chan) : (s.modChan c g).patterned = s.patterned := rfl
@[simp] theorem State.repairs_modChan (s : State) (c : Nat) (g : Chan → Chan) : (s.modChan c g).repairs = s.repairs := rfl
@[simp] theorem State.stopped_modChan (s : State) (c : Nat) (g : Chan → Chan) : (s.modChan c g).stopped = s.stopped := rfl
@[simp] theorem State.resetting_modChan (s : State) (c : Nat) (g : Chan → Chan) : (s.modChan c g).resetting = s.resetting := rfl
@[simp] theorem State.ownSelf_modChan (s : State) (c : Nat) (g : Chan → Chan) : (s.modChan c g).ownSelf = s.ownSelf := rfl
@[simp] theorem State.dieReset_modChan (s : State) (c : Nat) (g : Chan → Chan) : (s.modChan c g).dieReset = s.dieReset := rfl
@[simp] theorem State.bringUp_modChan (s : State) (c : Nat) (g : Chan → Chan) : (s.modChan c g).bringUp = s.bringUp := rfl
@[simp] theorem State.retained_modChan (s : State) (c : Nat) (g : Chan → Chan) : (s.modChan c g).retained = s.retained := rfl
@[simp] theorem State.coll_modChan (s : State) (c : Nat) (g : Chan → Chan) : (s.modChan c g).coll = s.coll := rfl
@[simp] theorem State.fuses_modChan (s : State) (c : Nat) (g : Chan → Chan) : (s.modChan c g).fuses = s.fuses := rfl
@[simp] theorem State.mram_modChan (s : State) (c : Nat) (g : Chan → Chan) : (s.modChan c g).mram = s.mram := rfl
@[simp] theorem State.thermal_modChan (s : State) (c : Nat) (g : Chan → Chan) : (s.modChan c g).thermal = s.thermal := rfl
@[simp] theorem State.wear_modChan (s : State) (c : Nat) (g : Chan → Chan) : (s.modChan c g).wear = s.wear := rfl
@[simp] theorem State.calNow_modChan (s : State) (c : Nat) (g : Chan → Chan) : (s.modChan c g).calNow = s.calNow := rfl
@[simp] theorem State.calRun_modChan (s : State) (c : Nat) (g : Chan → Chan) : (s.modChan c g).calRun = s.calRun := rfl
@[simp] theorem State.minEye_modChan (s : State) (c : Nat) (g : Chan → Chan) : (s.modChan c g).minEye = s.minEye := rfl
@[simp] theorem State.aonUpset_modChan (s : State) (c : Nat) (g : Chan → Chan) : (s.modChan c g).aonUpset = s.aonUpset := rfl
@[simp] theorem State.calBad_modChan (s : State) (c : Nat) (g : Chan → Chan) : (s.modChan c g).calBad = s.calBad := rfl
@[simp] theorem State.auth_modChan (s : State) (c : Nat) (g : Chan → Chan) : (s.modChan c g).auth = s.auth := rfl
@[simp] theorem State.cwy_modChan (s : State) (c : Nat) (g : Chan → Chan) : (s.modChan c g).cwy = s.cwy := rfl
@[simp] theorem State.life_modChan (s : State) (c : Nat) (g : Chan → Chan) : (s.modChan c g).life = s.life := rfl
@[simp] theorem State.obs_modChan (s : State) (c : Nat) (g : Chan → Chan) : (s.modChan c g).obs = s.obs := rfl

/-! ### modEng -/

@[simp] theorem State.pending_modEng (s : State) (c : Nat) (g : Eng → Eng) : (s.modEng c g).pending = s.pending := rfl
@[simp] theorem State.out_modEng (s : State) (c : Nat) (g : Eng → Eng) : (s.modEng c g).out = s.out := rfl
@[simp] theorem State.free_modEng (s : State) (c : Nat) (g : Eng → Eng) : (s.modEng c g).free = s.free := rfl
@[simp] theorem State.part_modEng (s : State) (c : Nat) (g : Eng → Eng) : (s.modEng c g).part = s.part := rfl
@[simp] theorem State.now_modEng (s : State) (c : Nat) (g : Eng → Eng) : (s.modEng c g).now = s.now := rfl
@[simp] theorem State.timeBase_modEng (s : State) (c : Nat) (g : Eng → Eng) : (s.modEng c g).timeBase = s.timeBase := rfl
@[simp] theorem State.ppmAcc_modEng (s : State) (c : Nat) (g : Eng → Eng) : (s.modEng c g).ppmAcc = s.ppmAcc := rfl
@[simp] theorem State.mode_modEng (s : State) (c : Nat) (g : Eng → Eng) : (s.modEng c g).mode = s.mode := rfl
@[simp] theorem State.regs_modEng (s : State) (c : Nat) (g : Eng → Eng) : (s.modEng c g).regs = s.regs := rfl
@[simp] theorem State.shadows_modEng (s : State) (c : Nat) (g : Eng → Eng) : (s.modEng c g).shadows = s.shadows := rfl
@[simp] theorem State.flowShadows_modEng (s : State) (c : Nat) (g : Eng → Eng) : (s.modEng c g).flowShadows = s.flowShadows := rfl
@[simp] theorem State.holders_modEng (s : State) (c : Nat) (g : Eng → Eng) : (s.modEng c g).holders = s.holders := rfl
@[simp] theorem State.latches_modEng (s : State) (c : Nat) (g : Eng → Eng) : (s.modEng c g).latches = s.latches := rfl
@[simp] theorem State.popHold_modEng (s : State) (c : Nat) (g : Eng → Eng) : (s.modEng c g).popHold = s.popHold := rfl
@[simp] theorem State.heldAccesses_modEng (s : State) (c : Nat) (g : Eng → Eng) : (s.modEng c g).heldAccesses = s.heldAccesses := rfl
@[simp] theorem State.fieldCopies_modEng (s : State) (c : Nat) (g : Eng → Eng) : (s.modEng c g).fieldCopies = s.fieldCopies := rfl
@[simp] theorem State.pins_modEng (s : State) (c : Nat) (g : Eng → Eng) : (s.modEng c g).pins = s.pins := rfl
@[simp] theorem State.straits_modEng (s : State) (c : Nat) (g : Eng → Eng) : (s.modEng c g).straits = s.straits := rfl
@[simp] theorem State.rails_modEng (s : State) (c : Nat) (g : Eng → Eng) : (s.modEng c g).rails = s.rails := rfl
@[simp] theorem State.mods_modEng (s : State) (c : Nat) (g : Eng → Eng) : (s.modEng c g).mods = s.mods := rfl
@[simp] theorem State.primary_modEng (s : State) (c : Nat) (g : Eng → Eng) : (s.modEng c g).primary = s.primary := rfl
@[simp] theorem State.primaryNext_modEng (s : State) (c : Nat) (g : Eng → Eng) : (s.modEng c g).primaryNext = s.primaryNext := rfl
@[simp] theorem State.txns_modEng (s : State) (c : Nat) (g : Eng → Eng) : (s.modEng c g).txns = s.txns := rfl
@[simp] theorem State.qosFence_modEng (s : State) (c : Nat) (g : Eng → Eng) : (s.modEng c g).qosFence = s.qosFence := rfl
@[simp] theorem State.guar_modEng (s : State) (c : Nat) (g : Eng → Eng) : (s.modEng c g).guar = s.guar := rfl
@[simp] theorem State.caps_modEng (s : State) (c : Nat) (g : Eng → Eng) : (s.modEng c g).caps = s.caps := rfl
@[simp] theorem State.demand_modEng (s : State) (c : Nat) (g : Eng → Eng) : (s.modEng c g).demand = s.demand := rfl
@[simp] theorem State.served_modEng (s : State) (c : Nat) (g : Eng → Eng) : (s.modEng c g).served = s.served := rfl
@[simp] theorem State.urgSince_modEng (s : State) (c : Nat) (g : Eng → Eng) : (s.modEng c g).urgSince = s.urgSince := rfl
@[simp] theorem State.floorStale_modEng (s : State) (c : Nat) (g : Eng → Eng) : (s.modEng c g).floorStale = s.floorStale := rfl
@[simp] theorem State.array_modEng (s : State) (c : Nat) (g : Eng → Eng) : (s.modEng c g).array = s.array := rfl
@[simp] theorem State.salt_modEng (s : State) (c : Nat) (g : Eng → Eng) : (s.modEng c g).salt = s.salt := rfl
@[simp] theorem State.unfilled_modEng (s : State) (c : Nat) (g : Eng → Eng) : (s.modEng c g).unfilled = s.unfilled := rfl
@[simp] theorem State.ctxWrites_modEng (s : State) (c : Nat) (g : Eng → Eng) : (s.modEng c g).ctxWrites = s.ctxWrites := rfl
@[simp] theorem State.patterned_modEng (s : State) (c : Nat) (g : Eng → Eng) : (s.modEng c g).patterned = s.patterned := rfl
@[simp] theorem State.repairs_modEng (s : State) (c : Nat) (g : Eng → Eng) : (s.modEng c g).repairs = s.repairs := rfl
@[simp] theorem State.stopped_modEng (s : State) (c : Nat) (g : Eng → Eng) : (s.modEng c g).stopped = s.stopped := rfl
@[simp] theorem State.resetting_modEng (s : State) (c : Nat) (g : Eng → Eng) : (s.modEng c g).resetting = s.resetting := rfl
@[simp] theorem State.ownSelf_modEng (s : State) (c : Nat) (g : Eng → Eng) : (s.modEng c g).ownSelf = s.ownSelf := rfl
@[simp] theorem State.dieReset_modEng (s : State) (c : Nat) (g : Eng → Eng) : (s.modEng c g).dieReset = s.dieReset := rfl
@[simp] theorem State.bringUp_modEng (s : State) (c : Nat) (g : Eng → Eng) : (s.modEng c g).bringUp = s.bringUp := rfl
@[simp] theorem State.retained_modEng (s : State) (c : Nat) (g : Eng → Eng) : (s.modEng c g).retained = s.retained := rfl
@[simp] theorem State.coll_modEng (s : State) (c : Nat) (g : Eng → Eng) : (s.modEng c g).coll = s.coll := rfl
@[simp] theorem State.fuses_modEng (s : State) (c : Nat) (g : Eng → Eng) : (s.modEng c g).fuses = s.fuses := rfl
@[simp] theorem State.mram_modEng (s : State) (c : Nat) (g : Eng → Eng) : (s.modEng c g).mram = s.mram := rfl
@[simp] theorem State.thermal_modEng (s : State) (c : Nat) (g : Eng → Eng) : (s.modEng c g).thermal = s.thermal := rfl
@[simp] theorem State.wear_modEng (s : State) (c : Nat) (g : Eng → Eng) : (s.modEng c g).wear = s.wear := rfl
@[simp] theorem State.calNow_modEng (s : State) (c : Nat) (g : Eng → Eng) : (s.modEng c g).calNow = s.calNow := rfl
@[simp] theorem State.calRun_modEng (s : State) (c : Nat) (g : Eng → Eng) : (s.modEng c g).calRun = s.calRun := rfl
@[simp] theorem State.minEye_modEng (s : State) (c : Nat) (g : Eng → Eng) : (s.modEng c g).minEye = s.minEye := rfl
@[simp] theorem State.aonUpset_modEng (s : State) (c : Nat) (g : Eng → Eng) : (s.modEng c g).aonUpset = s.aonUpset := rfl
@[simp] theorem State.calBad_modEng (s : State) (c : Nat) (g : Eng → Eng) : (s.modEng c g).calBad = s.calBad := rfl
@[simp] theorem State.auth_modEng (s : State) (c : Nat) (g : Eng → Eng) : (s.modEng c g).auth = s.auth := rfl
@[simp] theorem State.cwy_modEng (s : State) (c : Nat) (g : Eng → Eng) : (s.modEng c g).cwy = s.cwy := rfl
@[simp] theorem State.life_modEng (s : State) (c : Nat) (g : Eng → Eng) : (s.modEng c g).life = s.life := rfl
@[simp] theorem State.obs_modEng (s : State) (c : Nat) (g : Eng → Eng) : (s.modEng c g).obs = s.obs := rfl

/-! ### setMod -/

@[simp] theorem State.pending_setMod (s : State) (m : Nat) (x : Mod) : (s.setMod m x).pending = s.pending := rfl
@[simp] theorem State.out_setMod (s : State) (m : Nat) (x : Mod) : (s.setMod m x).out = s.out := rfl
@[simp] theorem State.free_setMod (s : State) (m : Nat) (x : Mod) : (s.setMod m x).free = s.free := rfl
@[simp] theorem State.part_setMod (s : State) (m : Nat) (x : Mod) : (s.setMod m x).part = s.part := rfl
@[simp] theorem State.now_setMod (s : State) (m : Nat) (x : Mod) : (s.setMod m x).now = s.now := rfl
@[simp] theorem State.timeBase_setMod (s : State) (m : Nat) (x : Mod) : (s.setMod m x).timeBase = s.timeBase := rfl
@[simp] theorem State.ppmAcc_setMod (s : State) (m : Nat) (x : Mod) : (s.setMod m x).ppmAcc = s.ppmAcc := rfl
@[simp] theorem State.mode_setMod (s : State) (m : Nat) (x : Mod) : (s.setMod m x).mode = s.mode := rfl
@[simp] theorem State.regs_setMod (s : State) (m : Nat) (x : Mod) : (s.setMod m x).regs = s.regs := rfl
@[simp] theorem State.shadows_setMod (s : State) (m : Nat) (x : Mod) : (s.setMod m x).shadows = s.shadows := rfl
@[simp] theorem State.flowShadows_setMod (s : State) (m : Nat) (x : Mod) : (s.setMod m x).flowShadows = s.flowShadows := rfl
@[simp] theorem State.holders_setMod (s : State) (m : Nat) (x : Mod) : (s.setMod m x).holders = s.holders := rfl
@[simp] theorem State.latches_setMod (s : State) (m : Nat) (x : Mod) : (s.setMod m x).latches = s.latches := rfl
@[simp] theorem State.popHold_setMod (s : State) (m : Nat) (x : Mod) : (s.setMod m x).popHold = s.popHold := rfl
@[simp] theorem State.heldAccesses_setMod (s : State) (m : Nat) (x : Mod) : (s.setMod m x).heldAccesses = s.heldAccesses := rfl
@[simp] theorem State.fieldCopies_setMod (s : State) (m : Nat) (x : Mod) : (s.setMod m x).fieldCopies = s.fieldCopies := rfl
@[simp] theorem State.pins_setMod (s : State) (m : Nat) (x : Mod) : (s.setMod m x).pins = s.pins := rfl
@[simp] theorem State.straits_setMod (s : State) (m : Nat) (x : Mod) : (s.setMod m x).straits = s.straits := rfl
@[simp] theorem State.rails_setMod (s : State) (m : Nat) (x : Mod) : (s.setMod m x).rails = s.rails := rfl
@[simp] theorem State.primary_setMod (s : State) (m : Nat) (x : Mod) : (s.setMod m x).primary = s.primary := rfl
@[simp] theorem State.primaryNext_setMod (s : State) (m : Nat) (x : Mod) : (s.setMod m x).primaryNext = s.primaryNext := rfl
@[simp] theorem State.txns_setMod (s : State) (m : Nat) (x : Mod) : (s.setMod m x).txns = s.txns := rfl
@[simp] theorem State.qosFence_setMod (s : State) (m : Nat) (x : Mod) : (s.setMod m x).qosFence = s.qosFence := rfl
@[simp] theorem State.guar_setMod (s : State) (m : Nat) (x : Mod) : (s.setMod m x).guar = s.guar := rfl
@[simp] theorem State.caps_setMod (s : State) (m : Nat) (x : Mod) : (s.setMod m x).caps = s.caps := rfl
@[simp] theorem State.demand_setMod (s : State) (m : Nat) (x : Mod) : (s.setMod m x).demand = s.demand := rfl
@[simp] theorem State.served_setMod (s : State) (m : Nat) (x : Mod) : (s.setMod m x).served = s.served := rfl
@[simp] theorem State.urgSince_setMod (s : State) (m : Nat) (x : Mod) : (s.setMod m x).urgSince = s.urgSince := rfl
@[simp] theorem State.floorStale_setMod (s : State) (m : Nat) (x : Mod) : (s.setMod m x).floorStale = s.floorStale := rfl
@[simp] theorem State.chans_setMod (s : State) (m : Nat) (x : Mod) : (s.setMod m x).chans = s.chans := rfl
@[simp] theorem State.array_setMod (s : State) (m : Nat) (x : Mod) : (s.setMod m x).array = s.array := rfl
@[simp] theorem State.salt_setMod (s : State) (m : Nat) (x : Mod) : (s.setMod m x).salt = s.salt := rfl
@[simp] theorem State.unfilled_setMod (s : State) (m : Nat) (x : Mod) : (s.setMod m x).unfilled = s.unfilled := rfl
@[simp] theorem State.ctxWrites_setMod (s : State) (m : Nat) (x : Mod) : (s.setMod m x).ctxWrites = s.ctxWrites := rfl
@[simp] theorem State.patterned_setMod (s : State) (m : Nat) (x : Mod) : (s.setMod m x).patterned = s.patterned := rfl
@[simp] theorem State.repairs_setMod (s : State) (m : Nat) (x : Mod) : (s.setMod m x).repairs = s.repairs := rfl
@[simp] theorem State.stopped_setMod (s : State) (m : Nat) (x : Mod) : (s.setMod m x).stopped = s.stopped := rfl
@[simp] theorem State.resetting_setMod (s : State) (m : Nat) (x : Mod) : (s.setMod m x).resetting = s.resetting := rfl
@[simp] theorem State.ownSelf_setMod (s : State) (m : Nat) (x : Mod) : (s.setMod m x).ownSelf = s.ownSelf := rfl
@[simp] theorem State.dieReset_setMod (s : State) (m : Nat) (x : Mod) : (s.setMod m x).dieReset = s.dieReset := rfl
@[simp] theorem State.bringUp_setMod (s : State) (m : Nat) (x : Mod) : (s.setMod m x).bringUp = s.bringUp := rfl
@[simp] theorem State.retained_setMod (s : State) (m : Nat) (x : Mod) : (s.setMod m x).retained = s.retained := rfl
@[simp] theorem State.coll_setMod (s : State) (m : Nat) (x : Mod) : (s.setMod m x).coll = s.coll := rfl
@[simp] theorem State.fuses_setMod (s : State) (m : Nat) (x : Mod) : (s.setMod m x).fuses = s.fuses := rfl
@[simp] theorem State.mram_setMod (s : State) (m : Nat) (x : Mod) : (s.setMod m x).mram = s.mram := rfl
@[simp] theorem State.thermal_setMod (s : State) (m : Nat) (x : Mod) : (s.setMod m x).thermal = s.thermal := rfl
@[simp] theorem State.wear_setMod (s : State) (m : Nat) (x : Mod) : (s.setMod m x).wear = s.wear := rfl
@[simp] theorem State.calNow_setMod (s : State) (m : Nat) (x : Mod) : (s.setMod m x).calNow = s.calNow := rfl
@[simp] theorem State.calRun_setMod (s : State) (m : Nat) (x : Mod) : (s.setMod m x).calRun = s.calRun := rfl
@[simp] theorem State.minEye_setMod (s : State) (m : Nat) (x : Mod) : (s.setMod m x).minEye = s.minEye := rfl
@[simp] theorem State.aonUpset_setMod (s : State) (m : Nat) (x : Mod) : (s.setMod m x).aonUpset = s.aonUpset := rfl
@[simp] theorem State.calBad_setMod (s : State) (m : Nat) (x : Mod) : (s.setMod m x).calBad = s.calBad := rfl
@[simp] theorem State.auth_setMod (s : State) (m : Nat) (x : Mod) : (s.setMod m x).auth = s.auth := rfl
@[simp] theorem State.cwy_setMod (s : State) (m : Nat) (x : Mod) : (s.setMod m x).cwy = s.cwy := rfl
@[simp] theorem State.life_setMod (s : State) (m : Nat) (x : Mod) : (s.setMod m x).life = s.life := rfl
@[simp] theorem State.obs_setMod (s : State) (m : Nat) (x : Mod) : (s.setMod m x).obs = s.obs := rfl

/-! ### modMod -/

@[simp] theorem State.pending_modMod (s : State) (m : Nat) (g : Mod → Mod) : (s.modMod m g).pending = s.pending := rfl
@[simp] theorem State.out_modMod (s : State) (m : Nat) (g : Mod → Mod) : (s.modMod m g).out = s.out := rfl
@[simp] theorem State.free_modMod (s : State) (m : Nat) (g : Mod → Mod) : (s.modMod m g).free = s.free := rfl
@[simp] theorem State.part_modMod (s : State) (m : Nat) (g : Mod → Mod) : (s.modMod m g).part = s.part := rfl
@[simp] theorem State.now_modMod (s : State) (m : Nat) (g : Mod → Mod) : (s.modMod m g).now = s.now := rfl
@[simp] theorem State.timeBase_modMod (s : State) (m : Nat) (g : Mod → Mod) : (s.modMod m g).timeBase = s.timeBase := rfl
@[simp] theorem State.ppmAcc_modMod (s : State) (m : Nat) (g : Mod → Mod) : (s.modMod m g).ppmAcc = s.ppmAcc := rfl
@[simp] theorem State.mode_modMod (s : State) (m : Nat) (g : Mod → Mod) : (s.modMod m g).mode = s.mode := rfl
@[simp] theorem State.regs_modMod (s : State) (m : Nat) (g : Mod → Mod) : (s.modMod m g).regs = s.regs := rfl
@[simp] theorem State.shadows_modMod (s : State) (m : Nat) (g : Mod → Mod) : (s.modMod m g).shadows = s.shadows := rfl
@[simp] theorem State.flowShadows_modMod (s : State) (m : Nat) (g : Mod → Mod) : (s.modMod m g).flowShadows = s.flowShadows := rfl
@[simp] theorem State.holders_modMod (s : State) (m : Nat) (g : Mod → Mod) : (s.modMod m g).holders = s.holders := rfl
@[simp] theorem State.latches_modMod (s : State) (m : Nat) (g : Mod → Mod) : (s.modMod m g).latches = s.latches := rfl
@[simp] theorem State.popHold_modMod (s : State) (m : Nat) (g : Mod → Mod) : (s.modMod m g).popHold = s.popHold := rfl
@[simp] theorem State.heldAccesses_modMod (s : State) (m : Nat) (g : Mod → Mod) : (s.modMod m g).heldAccesses = s.heldAccesses := rfl
@[simp] theorem State.fieldCopies_modMod (s : State) (m : Nat) (g : Mod → Mod) : (s.modMod m g).fieldCopies = s.fieldCopies := rfl
@[simp] theorem State.pins_modMod (s : State) (m : Nat) (g : Mod → Mod) : (s.modMod m g).pins = s.pins := rfl
@[simp] theorem State.straits_modMod (s : State) (m : Nat) (g : Mod → Mod) : (s.modMod m g).straits = s.straits := rfl
@[simp] theorem State.rails_modMod (s : State) (m : Nat) (g : Mod → Mod) : (s.modMod m g).rails = s.rails := rfl
@[simp] theorem State.primary_modMod (s : State) (m : Nat) (g : Mod → Mod) : (s.modMod m g).primary = s.primary := rfl
@[simp] theorem State.primaryNext_modMod (s : State) (m : Nat) (g : Mod → Mod) : (s.modMod m g).primaryNext = s.primaryNext := rfl
@[simp] theorem State.txns_modMod (s : State) (m : Nat) (g : Mod → Mod) : (s.modMod m g).txns = s.txns := rfl
@[simp] theorem State.qosFence_modMod (s : State) (m : Nat) (g : Mod → Mod) : (s.modMod m g).qosFence = s.qosFence := rfl
@[simp] theorem State.guar_modMod (s : State) (m : Nat) (g : Mod → Mod) : (s.modMod m g).guar = s.guar := rfl
@[simp] theorem State.caps_modMod (s : State) (m : Nat) (g : Mod → Mod) : (s.modMod m g).caps = s.caps := rfl
@[simp] theorem State.demand_modMod (s : State) (m : Nat) (g : Mod → Mod) : (s.modMod m g).demand = s.demand := rfl
@[simp] theorem State.served_modMod (s : State) (m : Nat) (g : Mod → Mod) : (s.modMod m g).served = s.served := rfl
@[simp] theorem State.urgSince_modMod (s : State) (m : Nat) (g : Mod → Mod) : (s.modMod m g).urgSince = s.urgSince := rfl
@[simp] theorem State.floorStale_modMod (s : State) (m : Nat) (g : Mod → Mod) : (s.modMod m g).floorStale = s.floorStale := rfl
@[simp] theorem State.chans_modMod (s : State) (m : Nat) (g : Mod → Mod) : (s.modMod m g).chans = s.chans := rfl
@[simp] theorem State.array_modMod (s : State) (m : Nat) (g : Mod → Mod) : (s.modMod m g).array = s.array := rfl
@[simp] theorem State.salt_modMod (s : State) (m : Nat) (g : Mod → Mod) : (s.modMod m g).salt = s.salt := rfl
@[simp] theorem State.unfilled_modMod (s : State) (m : Nat) (g : Mod → Mod) : (s.modMod m g).unfilled = s.unfilled := rfl
@[simp] theorem State.ctxWrites_modMod (s : State) (m : Nat) (g : Mod → Mod) : (s.modMod m g).ctxWrites = s.ctxWrites := rfl
@[simp] theorem State.patterned_modMod (s : State) (m : Nat) (g : Mod → Mod) : (s.modMod m g).patterned = s.patterned := rfl
@[simp] theorem State.repairs_modMod (s : State) (m : Nat) (g : Mod → Mod) : (s.modMod m g).repairs = s.repairs := rfl
@[simp] theorem State.stopped_modMod (s : State) (m : Nat) (g : Mod → Mod) : (s.modMod m g).stopped = s.stopped := rfl
@[simp] theorem State.resetting_modMod (s : State) (m : Nat) (g : Mod → Mod) : (s.modMod m g).resetting = s.resetting := rfl
@[simp] theorem State.ownSelf_modMod (s : State) (m : Nat) (g : Mod → Mod) : (s.modMod m g).ownSelf = s.ownSelf := rfl
@[simp] theorem State.dieReset_modMod (s : State) (m : Nat) (g : Mod → Mod) : (s.modMod m g).dieReset = s.dieReset := rfl
@[simp] theorem State.bringUp_modMod (s : State) (m : Nat) (g : Mod → Mod) : (s.modMod m g).bringUp = s.bringUp := rfl
@[simp] theorem State.retained_modMod (s : State) (m : Nat) (g : Mod → Mod) : (s.modMod m g).retained = s.retained := rfl
@[simp] theorem State.coll_modMod (s : State) (m : Nat) (g : Mod → Mod) : (s.modMod m g).coll = s.coll := rfl
@[simp] theorem State.fuses_modMod (s : State) (m : Nat) (g : Mod → Mod) : (s.modMod m g).fuses = s.fuses := rfl
@[simp] theorem State.mram_modMod (s : State) (m : Nat) (g : Mod → Mod) : (s.modMod m g).mram = s.mram := rfl
@[simp] theorem State.thermal_modMod (s : State) (m : Nat) (g : Mod → Mod) : (s.modMod m g).thermal = s.thermal := rfl
@[simp] theorem State.wear_modMod (s : State) (m : Nat) (g : Mod → Mod) : (s.modMod m g).wear = s.wear := rfl
@[simp] theorem State.calNow_modMod (s : State) (m : Nat) (g : Mod → Mod) : (s.modMod m g).calNow = s.calNow := rfl
@[simp] theorem State.calRun_modMod (s : State) (m : Nat) (g : Mod → Mod) : (s.modMod m g).calRun = s.calRun := rfl
@[simp] theorem State.minEye_modMod (s : State) (m : Nat) (g : Mod → Mod) : (s.modMod m g).minEye = s.minEye := rfl
@[simp] theorem State.aonUpset_modMod (s : State) (m : Nat) (g : Mod → Mod) : (s.modMod m g).aonUpset = s.aonUpset := rfl
@[simp] theorem State.calBad_modMod (s : State) (m : Nat) (g : Mod → Mod) : (s.modMod m g).calBad = s.calBad := rfl
@[simp] theorem State.auth_modMod (s : State) (m : Nat) (g : Mod → Mod) : (s.modMod m g).auth = s.auth := rfl
@[simp] theorem State.cwy_modMod (s : State) (m : Nat) (g : Mod → Mod) : (s.modMod m g).cwy = s.cwy := rfl
@[simp] theorem State.life_modMod (s : State) (m : Nat) (g : Mod → Mod) : (s.modMod m g).life = s.life := rfl
@[simp] theorem State.obs_modMod (s : State) (m : Nat) (g : Mod → Mod) : (s.modMod m g).obs = s.obs := rfl

/-! ### emit -/

@[simp] theorem State.pending_emit (s : State) (o : Out) : (s.emit o).pending = s.pending := rfl
@[simp] theorem State.free_emit (s : State) (o : Out) : (s.emit o).free = s.free := rfl
@[simp] theorem State.part_emit (s : State) (o : Out) : (s.emit o).part = s.part := rfl
@[simp] theorem State.now_emit (s : State) (o : Out) : (s.emit o).now = s.now := rfl
@[simp] theorem State.timeBase_emit (s : State) (o : Out) : (s.emit o).timeBase = s.timeBase := rfl
@[simp] theorem State.ppmAcc_emit (s : State) (o : Out) : (s.emit o).ppmAcc = s.ppmAcc := rfl
@[simp] theorem State.mode_emit (s : State) (o : Out) : (s.emit o).mode = s.mode := rfl
@[simp] theorem State.regs_emit (s : State) (o : Out) : (s.emit o).regs = s.regs := rfl
@[simp] theorem State.shadows_emit (s : State) (o : Out) : (s.emit o).shadows = s.shadows := rfl
@[simp] theorem State.flowShadows_emit (s : State) (o : Out) : (s.emit o).flowShadows = s.flowShadows := rfl
@[simp] theorem State.holders_emit (s : State) (o : Out) : (s.emit o).holders = s.holders := rfl
@[simp] theorem State.latches_emit (s : State) (o : Out) : (s.emit o).latches = s.latches := rfl
@[simp] theorem State.popHold_emit (s : State) (o : Out) : (s.emit o).popHold = s.popHold := rfl
@[simp] theorem State.heldAccesses_emit (s : State) (o : Out) : (s.emit o).heldAccesses = s.heldAccesses := rfl
@[simp] theorem State.fieldCopies_emit (s : State) (o : Out) : (s.emit o).fieldCopies = s.fieldCopies := rfl
@[simp] theorem State.pins_emit (s : State) (o : Out) : (s.emit o).pins = s.pins := rfl
@[simp] theorem State.straits_emit (s : State) (o : Out) : (s.emit o).straits = s.straits := rfl
@[simp] theorem State.rails_emit (s : State) (o : Out) : (s.emit o).rails = s.rails := rfl
@[simp] theorem State.mods_emit (s : State) (o : Out) : (s.emit o).mods = s.mods := rfl
@[simp] theorem State.primary_emit (s : State) (o : Out) : (s.emit o).primary = s.primary := rfl
@[simp] theorem State.primaryNext_emit (s : State) (o : Out) : (s.emit o).primaryNext = s.primaryNext := rfl
@[simp] theorem State.txns_emit (s : State) (o : Out) : (s.emit o).txns = s.txns := rfl
@[simp] theorem State.qosFence_emit (s : State) (o : Out) : (s.emit o).qosFence = s.qosFence := rfl
@[simp] theorem State.guar_emit (s : State) (o : Out) : (s.emit o).guar = s.guar := rfl
@[simp] theorem State.caps_emit (s : State) (o : Out) : (s.emit o).caps = s.caps := rfl
@[simp] theorem State.demand_emit (s : State) (o : Out) : (s.emit o).demand = s.demand := rfl
@[simp] theorem State.served_emit (s : State) (o : Out) : (s.emit o).served = s.served := rfl
@[simp] theorem State.urgSince_emit (s : State) (o : Out) : (s.emit o).urgSince = s.urgSince := rfl
@[simp] theorem State.floorStale_emit (s : State) (o : Out) : (s.emit o).floorStale = s.floorStale := rfl
@[simp] theorem State.chans_emit (s : State) (o : Out) : (s.emit o).chans = s.chans := rfl
@[simp] theorem State.array_emit (s : State) (o : Out) : (s.emit o).array = s.array := rfl
@[simp] theorem State.salt_emit (s : State) (o : Out) : (s.emit o).salt = s.salt := rfl
@[simp] theorem State.unfilled_emit (s : State) (o : Out) : (s.emit o).unfilled = s.unfilled := rfl
@[simp] theorem State.ctxWrites_emit (s : State) (o : Out) : (s.emit o).ctxWrites = s.ctxWrites := rfl
@[simp] theorem State.patterned_emit (s : State) (o : Out) : (s.emit o).patterned = s.patterned := rfl
@[simp] theorem State.repairs_emit (s : State) (o : Out) : (s.emit o).repairs = s.repairs := rfl
@[simp] theorem State.stopped_emit (s : State) (o : Out) : (s.emit o).stopped = s.stopped := rfl
@[simp] theorem State.resetting_emit (s : State) (o : Out) : (s.emit o).resetting = s.resetting := rfl
@[simp] theorem State.ownSelf_emit (s : State) (o : Out) : (s.emit o).ownSelf = s.ownSelf := rfl
@[simp] theorem State.dieReset_emit (s : State) (o : Out) : (s.emit o).dieReset = s.dieReset := rfl
@[simp] theorem State.bringUp_emit (s : State) (o : Out) : (s.emit o).bringUp = s.bringUp := rfl
@[simp] theorem State.retained_emit (s : State) (o : Out) : (s.emit o).retained = s.retained := rfl
@[simp] theorem State.coll_emit (s : State) (o : Out) : (s.emit o).coll = s.coll := rfl
@[simp] theorem State.fuses_emit (s : State) (o : Out) : (s.emit o).fuses = s.fuses := rfl
@[simp] theorem State.mram_emit (s : State) (o : Out) : (s.emit o).mram = s.mram := rfl
@[simp] theorem State.thermal_emit (s : State) (o : Out) : (s.emit o).thermal = s.thermal := rfl
@[simp] theorem State.wear_emit (s : State) (o : Out) : (s.emit o).wear = s.wear := rfl
@[simp] theorem State.calNow_emit (s : State) (o : Out) : (s.emit o).calNow = s.calNow := rfl
@[simp] theorem State.calRun_emit (s : State) (o : Out) : (s.emit o).calRun = s.calRun := rfl
@[simp] theorem State.minEye_emit (s : State) (o : Out) : (s.emit o).minEye = s.minEye := rfl
@[simp] theorem State.aonUpset_emit (s : State) (o : Out) : (s.emit o).aonUpset = s.aonUpset := rfl
@[simp] theorem State.calBad_emit (s : State) (o : Out) : (s.emit o).calBad = s.calBad := rfl
@[simp] theorem State.auth_emit (s : State) (o : Out) : (s.emit o).auth = s.auth := rfl
@[simp] theorem State.cwy_emit (s : State) (o : Out) : (s.emit o).cwy = s.cwy := rfl
@[simp] theorem State.life_emit (s : State) (o : Out) : (s.emit o).life = s.life := rfl
@[simp] theorem State.obs_emit (s : State) (o : Out) : (s.emit o).obs = s.obs := rfl

/-! ### useFree -/

@[simp] theorem State.pending_useFree (s : State) : (s.useFree ).pending = s.pending := rfl
@[simp] theorem State.out_useFree (s : State) : (s.useFree ).out = s.out := rfl
@[simp] theorem State.part_useFree (s : State) : (s.useFree ).part = s.part := rfl
@[simp] theorem State.now_useFree (s : State) : (s.useFree ).now = s.now := rfl
@[simp] theorem State.timeBase_useFree (s : State) : (s.useFree ).timeBase = s.timeBase := rfl
@[simp] theorem State.ppmAcc_useFree (s : State) : (s.useFree ).ppmAcc = s.ppmAcc := rfl
@[simp] theorem State.mode_useFree (s : State) : (s.useFree ).mode = s.mode := rfl
@[simp] theorem State.regs_useFree (s : State) : (s.useFree ).regs = s.regs := rfl
@[simp] theorem State.shadows_useFree (s : State) : (s.useFree ).shadows = s.shadows := rfl
@[simp] theorem State.flowShadows_useFree (s : State) : (s.useFree ).flowShadows = s.flowShadows := rfl
@[simp] theorem State.holders_useFree (s : State) : (s.useFree ).holders = s.holders := rfl
@[simp] theorem State.latches_useFree (s : State) : (s.useFree ).latches = s.latches := rfl
@[simp] theorem State.popHold_useFree (s : State) : (s.useFree ).popHold = s.popHold := rfl
@[simp] theorem State.heldAccesses_useFree (s : State) : (s.useFree ).heldAccesses = s.heldAccesses := rfl
@[simp] theorem State.fieldCopies_useFree (s : State) : (s.useFree ).fieldCopies = s.fieldCopies := rfl
@[simp] theorem State.pins_useFree (s : State) : (s.useFree ).pins = s.pins := rfl
@[simp] theorem State.straits_useFree (s : State) : (s.useFree ).straits = s.straits := rfl
@[simp] theorem State.rails_useFree (s : State) : (s.useFree ).rails = s.rails := rfl
@[simp] theorem State.mods_useFree (s : State) : (s.useFree ).mods = s.mods := rfl
@[simp] theorem State.primary_useFree (s : State) : (s.useFree ).primary = s.primary := rfl
@[simp] theorem State.primaryNext_useFree (s : State) : (s.useFree ).primaryNext = s.primaryNext := rfl
@[simp] theorem State.txns_useFree (s : State) : (s.useFree ).txns = s.txns := rfl
@[simp] theorem State.qosFence_useFree (s : State) : (s.useFree ).qosFence = s.qosFence := rfl
@[simp] theorem State.guar_useFree (s : State) : (s.useFree ).guar = s.guar := rfl
@[simp] theorem State.caps_useFree (s : State) : (s.useFree ).caps = s.caps := rfl
@[simp] theorem State.demand_useFree (s : State) : (s.useFree ).demand = s.demand := rfl
@[simp] theorem State.served_useFree (s : State) : (s.useFree ).served = s.served := rfl
@[simp] theorem State.urgSince_useFree (s : State) : (s.useFree ).urgSince = s.urgSince := rfl
@[simp] theorem State.floorStale_useFree (s : State) : (s.useFree ).floorStale = s.floorStale := rfl
@[simp] theorem State.chans_useFree (s : State) : (s.useFree ).chans = s.chans := rfl
@[simp] theorem State.array_useFree (s : State) : (s.useFree ).array = s.array := rfl
@[simp] theorem State.salt_useFree (s : State) : (s.useFree ).salt = s.salt := rfl
@[simp] theorem State.unfilled_useFree (s : State) : (s.useFree ).unfilled = s.unfilled := rfl
@[simp] theorem State.ctxWrites_useFree (s : State) : (s.useFree ).ctxWrites = s.ctxWrites := rfl
@[simp] theorem State.patterned_useFree (s : State) : (s.useFree ).patterned = s.patterned := rfl
@[simp] theorem State.repairs_useFree (s : State) : (s.useFree ).repairs = s.repairs := rfl
@[simp] theorem State.stopped_useFree (s : State) : (s.useFree ).stopped = s.stopped := rfl
@[simp] theorem State.resetting_useFree (s : State) : (s.useFree ).resetting = s.resetting := rfl
@[simp] theorem State.ownSelf_useFree (s : State) : (s.useFree ).ownSelf = s.ownSelf := rfl
@[simp] theorem State.dieReset_useFree (s : State) : (s.useFree ).dieReset = s.dieReset := rfl
@[simp] theorem State.bringUp_useFree (s : State) : (s.useFree ).bringUp = s.bringUp := rfl
@[simp] theorem State.retained_useFree (s : State) : (s.useFree ).retained = s.retained := rfl
@[simp] theorem State.coll_useFree (s : State) : (s.useFree ).coll = s.coll := rfl
@[simp] theorem State.fuses_useFree (s : State) : (s.useFree ).fuses = s.fuses := rfl
@[simp] theorem State.mram_useFree (s : State) : (s.useFree ).mram = s.mram := rfl
@[simp] theorem State.thermal_useFree (s : State) : (s.useFree ).thermal = s.thermal := rfl
@[simp] theorem State.wear_useFree (s : State) : (s.useFree ).wear = s.wear := rfl
@[simp] theorem State.calNow_useFree (s : State) : (s.useFree ).calNow = s.calNow := rfl
@[simp] theorem State.calRun_useFree (s : State) : (s.useFree ).calRun = s.calRun := rfl
@[simp] theorem State.minEye_useFree (s : State) : (s.useFree ).minEye = s.minEye := rfl
@[simp] theorem State.aonUpset_useFree (s : State) : (s.useFree ).aonUpset = s.aonUpset := rfl
@[simp] theorem State.calBad_useFree (s : State) : (s.useFree ).calBad = s.calBad := rfl
@[simp] theorem State.auth_useFree (s : State) : (s.useFree ).auth = s.auth := rfl
@[simp] theorem State.cwy_useFree (s : State) : (s.useFree ).cwy = s.cwy := rfl
@[simp] theorem State.life_useFree (s : State) : (s.useFree ).life = s.life := rfl
@[simp] theorem State.obs_useFree (s : State) : (s.useFree ).obs = s.obs := rfl

/-! ### note -/

@[simp] theorem State.pending_note (s : State) (e : ObsEv) : (s.note e).pending = s.pending := rfl
@[simp] theorem State.out_note (s : State) (e : ObsEv) : (s.note e).out = s.out := rfl
@[simp] theorem State.free_note (s : State) (e : ObsEv) : (s.note e).free = s.free := rfl
@[simp] theorem State.part_note (s : State) (e : ObsEv) : (s.note e).part = s.part := rfl
@[simp] theorem State.now_note (s : State) (e : ObsEv) : (s.note e).now = s.now := rfl
@[simp] theorem State.timeBase_note (s : State) (e : ObsEv) : (s.note e).timeBase = s.timeBase := rfl
@[simp] theorem State.ppmAcc_note (s : State) (e : ObsEv) : (s.note e).ppmAcc = s.ppmAcc := rfl
@[simp] theorem State.mode_note (s : State) (e : ObsEv) : (s.note e).mode = s.mode := rfl
@[simp] theorem State.regs_note (s : State) (e : ObsEv) : (s.note e).regs = s.regs := rfl
@[simp] theorem State.shadows_note (s : State) (e : ObsEv) : (s.note e).shadows = s.shadows := rfl
@[simp] theorem State.flowShadows_note (s : State) (e : ObsEv) : (s.note e).flowShadows = s.flowShadows := rfl
@[simp] theorem State.holders_note (s : State) (e : ObsEv) : (s.note e).holders = s.holders := rfl
@[simp] theorem State.latches_note (s : State) (e : ObsEv) : (s.note e).latches = s.latches := rfl
@[simp] theorem State.popHold_note (s : State) (e : ObsEv) : (s.note e).popHold = s.popHold := rfl
@[simp] theorem State.heldAccesses_note (s : State) (e : ObsEv) : (s.note e).heldAccesses = s.heldAccesses := rfl
@[simp] theorem State.fieldCopies_note (s : State) (e : ObsEv) : (s.note e).fieldCopies = s.fieldCopies := rfl
@[simp] theorem State.pins_note (s : State) (e : ObsEv) : (s.note e).pins = s.pins := rfl
@[simp] theorem State.straits_note (s : State) (e : ObsEv) : (s.note e).straits = s.straits := rfl
@[simp] theorem State.rails_note (s : State) (e : ObsEv) : (s.note e).rails = s.rails := rfl
@[simp] theorem State.mods_note (s : State) (e : ObsEv) : (s.note e).mods = s.mods := rfl
@[simp] theorem State.primary_note (s : State) (e : ObsEv) : (s.note e).primary = s.primary := rfl
@[simp] theorem State.primaryNext_note (s : State) (e : ObsEv) : (s.note e).primaryNext = s.primaryNext := rfl
@[simp] theorem State.txns_note (s : State) (e : ObsEv) : (s.note e).txns = s.txns := rfl
@[simp] theorem State.qosFence_note (s : State) (e : ObsEv) : (s.note e).qosFence = s.qosFence := rfl
@[simp] theorem State.guar_note (s : State) (e : ObsEv) : (s.note e).guar = s.guar := rfl
@[simp] theorem State.caps_note (s : State) (e : ObsEv) : (s.note e).caps = s.caps := rfl
@[simp] theorem State.demand_note (s : State) (e : ObsEv) : (s.note e).demand = s.demand := rfl
@[simp] theorem State.served_note (s : State) (e : ObsEv) : (s.note e).served = s.served := rfl
@[simp] theorem State.urgSince_note (s : State) (e : ObsEv) : (s.note e).urgSince = s.urgSince := rfl
@[simp] theorem State.floorStale_note (s : State) (e : ObsEv) : (s.note e).floorStale = s.floorStale := rfl
@[simp] theorem State.chans_note (s : State) (e : ObsEv) : (s.note e).chans = s.chans := rfl
@[simp] theorem State.array_note (s : State) (e : ObsEv) : (s.note e).array = s.array := rfl
@[simp] theorem State.salt_note (s : State) (e : ObsEv) : (s.note e).salt = s.salt := rfl
@[simp] theorem State.unfilled_note (s : State) (e : ObsEv) : (s.note e).unfilled = s.unfilled := rfl
@[simp] theorem State.ctxWrites_note (s : State) (e : ObsEv) : (s.note e).ctxWrites = s.ctxWrites := rfl
@[simp] theorem State.patterned_note (s : State) (e : ObsEv) : (s.note e).patterned = s.patterned := rfl
@[simp] theorem State.repairs_note (s : State) (e : ObsEv) : (s.note e).repairs = s.repairs := rfl
@[simp] theorem State.stopped_note (s : State) (e : ObsEv) : (s.note e).stopped = s.stopped := rfl
@[simp] theorem State.resetting_note (s : State) (e : ObsEv) : (s.note e).resetting = s.resetting := rfl
@[simp] theorem State.ownSelf_note (s : State) (e : ObsEv) : (s.note e).ownSelf = s.ownSelf := rfl
@[simp] theorem State.dieReset_note (s : State) (e : ObsEv) : (s.note e).dieReset = s.dieReset := rfl
@[simp] theorem State.bringUp_note (s : State) (e : ObsEv) : (s.note e).bringUp = s.bringUp := rfl
@[simp] theorem State.retained_note (s : State) (e : ObsEv) : (s.note e).retained = s.retained := rfl
@[simp] theorem State.coll_note (s : State) (e : ObsEv) : (s.note e).coll = s.coll := rfl
@[simp] theorem State.fuses_note (s : State) (e : ObsEv) : (s.note e).fuses = s.fuses := rfl
@[simp] theorem State.mram_note (s : State) (e : ObsEv) : (s.note e).mram = s.mram := rfl
@[simp] theorem State.thermal_note (s : State) (e : ObsEv) : (s.note e).thermal = s.thermal := rfl
@[simp] theorem State.wear_note (s : State) (e : ObsEv) : (s.note e).wear = s.wear := rfl
@[simp] theorem State.calNow_note (s : State) (e : ObsEv) : (s.note e).calNow = s.calNow := rfl
@[simp] theorem State.calRun_note (s : State) (e : ObsEv) : (s.note e).calRun = s.calRun := rfl
@[simp] theorem State.minEye_note (s : State) (e : ObsEv) : (s.note e).minEye = s.minEye := rfl
@[simp] theorem State.aonUpset_note (s : State) (e : ObsEv) : (s.note e).aonUpset = s.aonUpset := rfl
@[simp] theorem State.calBad_note (s : State) (e : ObsEv) : (s.note e).calBad = s.calBad := rfl
@[simp] theorem State.auth_note (s : State) (e : ObsEv) : (s.note e).auth = s.auth := rfl
@[simp] theorem State.cwy_note (s : State) (e : ObsEv) : (s.note e).cwy = s.cwy := rfl
@[simp] theorem State.life_note (s : State) (e : ObsEv) : (s.note e).life = s.life := rfl

/-! ### countCh -/

@[simp] theorem State.pending_countCh (s : State) (c ev n : Nat) (m flow : Option Nat) : (s.countCh c ev n m flow).pending = s.pending := rfl
@[simp] theorem State.out_countCh (s : State) (c ev n : Nat) (m flow : Option Nat) : (s.countCh c ev n m flow).out = s.out := rfl
@[simp] theorem State.free_countCh (s : State) (c ev n : Nat) (m flow : Option Nat) : (s.countCh c ev n m flow).free = s.free := rfl
@[simp] theorem State.part_countCh (s : State) (c ev n : Nat) (m flow : Option Nat) : (s.countCh c ev n m flow).part = s.part := rfl
@[simp] theorem State.now_countCh (s : State) (c ev n : Nat) (m flow : Option Nat) : (s.countCh c ev n m flow).now = s.now := rfl
@[simp] theorem State.timeBase_countCh (s : State) (c ev n : Nat) (m flow : Option Nat) : (s.countCh c ev n m flow).timeBase = s.timeBase := rfl
@[simp] theorem State.ppmAcc_countCh (s : State) (c ev n : Nat) (m flow : Option Nat) : (s.countCh c ev n m flow).ppmAcc = s.ppmAcc := rfl
@[simp] theorem State.mode_countCh (s : State) (c ev n : Nat) (m flow : Option Nat) : (s.countCh c ev n m flow).mode = s.mode := rfl
@[simp] theorem State.regs_countCh (s : State) (c ev n : Nat) (m flow : Option Nat) : (s.countCh c ev n m flow).regs = s.regs := rfl
@[simp] theorem State.shadows_countCh (s : State) (c ev n : Nat) (m flow : Option Nat) : (s.countCh c ev n m flow).shadows = s.shadows := rfl
@[simp] theorem State.flowShadows_countCh (s : State) (c ev n : Nat) (m flow : Option Nat) : (s.countCh c ev n m flow).flowShadows = s.flowShadows := rfl
@[simp] theorem State.holders_countCh (s : State) (c ev n : Nat) (m flow : Option Nat) : (s.countCh c ev n m flow).holders = s.holders := rfl
@[simp] theorem State.latches_countCh (s : State) (c ev n : Nat) (m flow : Option Nat) : (s.countCh c ev n m flow).latches = s.latches := rfl
@[simp] theorem State.popHold_countCh (s : State) (c ev n : Nat) (m flow : Option Nat) : (s.countCh c ev n m flow).popHold = s.popHold := rfl
@[simp] theorem State.heldAccesses_countCh (s : State) (c ev n : Nat) (m flow : Option Nat) : (s.countCh c ev n m flow).heldAccesses = s.heldAccesses := rfl
@[simp] theorem State.fieldCopies_countCh (s : State) (c ev n : Nat) (m flow : Option Nat) : (s.countCh c ev n m flow).fieldCopies = s.fieldCopies := rfl
@[simp] theorem State.pins_countCh (s : State) (c ev n : Nat) (m flow : Option Nat) : (s.countCh c ev n m flow).pins = s.pins := rfl
@[simp] theorem State.straits_countCh (s : State) (c ev n : Nat) (m flow : Option Nat) : (s.countCh c ev n m flow).straits = s.straits := rfl
@[simp] theorem State.rails_countCh (s : State) (c ev n : Nat) (m flow : Option Nat) : (s.countCh c ev n m flow).rails = s.rails := rfl
@[simp] theorem State.mods_countCh (s : State) (c ev n : Nat) (m flow : Option Nat) : (s.countCh c ev n m flow).mods = s.mods := rfl
@[simp] theorem State.primary_countCh (s : State) (c ev n : Nat) (m flow : Option Nat) : (s.countCh c ev n m flow).primary = s.primary := rfl
@[simp] theorem State.primaryNext_countCh (s : State) (c ev n : Nat) (m flow : Option Nat) : (s.countCh c ev n m flow).primaryNext = s.primaryNext := rfl
@[simp] theorem State.txns_countCh (s : State) (c ev n : Nat) (m flow : Option Nat) : (s.countCh c ev n m flow).txns = s.txns := rfl
@[simp] theorem State.qosFence_countCh (s : State) (c ev n : Nat) (m flow : Option Nat) : (s.countCh c ev n m flow).qosFence = s.qosFence := rfl
@[simp] theorem State.guar_countCh (s : State) (c ev n : Nat) (m flow : Option Nat) : (s.countCh c ev n m flow).guar = s.guar := rfl
@[simp] theorem State.caps_countCh (s : State) (c ev n : Nat) (m flow : Option Nat) : (s.countCh c ev n m flow).caps = s.caps := rfl
@[simp] theorem State.demand_countCh (s : State) (c ev n : Nat) (m flow : Option Nat) : (s.countCh c ev n m flow).demand = s.demand := rfl
@[simp] theorem State.served_countCh (s : State) (c ev n : Nat) (m flow : Option Nat) : (s.countCh c ev n m flow).served = s.served := rfl
@[simp] theorem State.urgSince_countCh (s : State) (c ev n : Nat) (m flow : Option Nat) : (s.countCh c ev n m flow).urgSince = s.urgSince := rfl
@[simp] theorem State.floorStale_countCh (s : State) (c ev n : Nat) (m flow : Option Nat) : (s.countCh c ev n m flow).floorStale = s.floorStale := rfl
@[simp] theorem State.chans_countCh (s : State) (c ev n : Nat) (m flow : Option Nat) : (s.countCh c ev n m flow).chans = s.chans := rfl
@[simp] theorem State.array_countCh (s : State) (c ev n : Nat) (m flow : Option Nat) : (s.countCh c ev n m flow).array = s.array := rfl
@[simp] theorem State.salt_countCh (s : State) (c ev n : Nat) (m flow : Option Nat) : (s.countCh c ev n m flow).salt = s.salt := rfl
@[simp] theorem State.unfilled_countCh (s : State) (c ev n : Nat) (m flow : Option Nat) : (s.countCh c ev n m flow).unfilled = s.unfilled := rfl
@[simp] theorem State.ctxWrites_countCh (s : State) (c ev n : Nat) (m flow : Option Nat) : (s.countCh c ev n m flow).ctxWrites = s.ctxWrites := rfl
@[simp] theorem State.patterned_countCh (s : State) (c ev n : Nat) (m flow : Option Nat) : (s.countCh c ev n m flow).patterned = s.patterned := rfl
@[simp] theorem State.repairs_countCh (s : State) (c ev n : Nat) (m flow : Option Nat) : (s.countCh c ev n m flow).repairs = s.repairs := rfl
@[simp] theorem State.stopped_countCh (s : State) (c ev n : Nat) (m flow : Option Nat) : (s.countCh c ev n m flow).stopped = s.stopped := rfl
@[simp] theorem State.resetting_countCh (s : State) (c ev n : Nat) (m flow : Option Nat) : (s.countCh c ev n m flow).resetting = s.resetting := rfl
@[simp] theorem State.ownSelf_countCh (s : State) (c ev n : Nat) (m flow : Option Nat) : (s.countCh c ev n m flow).ownSelf = s.ownSelf := rfl
@[simp] theorem State.dieReset_countCh (s : State) (c ev n : Nat) (m flow : Option Nat) : (s.countCh c ev n m flow).dieReset = s.dieReset := rfl
@[simp] theorem State.bringUp_countCh (s : State) (c ev n : Nat) (m flow : Option Nat) : (s.countCh c ev n m flow).bringUp = s.bringUp := rfl
@[simp] theorem State.retained_countCh (s : State) (c ev n : Nat) (m flow : Option Nat) : (s.countCh c ev n m flow).retained = s.retained := rfl
@[simp] theorem State.coll_countCh (s : State) (c ev n : Nat) (m flow : Option Nat) : (s.countCh c ev n m flow).coll = s.coll := rfl
@[simp] theorem State.fuses_countCh (s : State) (c ev n : Nat) (m flow : Option Nat) : (s.countCh c ev n m flow).fuses = s.fuses := rfl
@[simp] theorem State.mram_countCh (s : State) (c ev n : Nat) (m flow : Option Nat) : (s.countCh c ev n m flow).mram = s.mram := rfl
@[simp] theorem State.thermal_countCh (s : State) (c ev n : Nat) (m flow : Option Nat) : (s.countCh c ev n m flow).thermal = s.thermal := rfl
@[simp] theorem State.wear_countCh (s : State) (c ev n : Nat) (m flow : Option Nat) : (s.countCh c ev n m flow).wear = s.wear := rfl
@[simp] theorem State.calNow_countCh (s : State) (c ev n : Nat) (m flow : Option Nat) : (s.countCh c ev n m flow).calNow = s.calNow := rfl
@[simp] theorem State.calRun_countCh (s : State) (c ev n : Nat) (m flow : Option Nat) : (s.countCh c ev n m flow).calRun = s.calRun := rfl
@[simp] theorem State.minEye_countCh (s : State) (c ev n : Nat) (m flow : Option Nat) : (s.countCh c ev n m flow).minEye = s.minEye := rfl
@[simp] theorem State.aonUpset_countCh (s : State) (c ev n : Nat) (m flow : Option Nat) : (s.countCh c ev n m flow).aonUpset = s.aonUpset := rfl
@[simp] theorem State.calBad_countCh (s : State) (c ev n : Nat) (m flow : Option Nat) : (s.countCh c ev n m flow).calBad = s.calBad := rfl
@[simp] theorem State.auth_countCh (s : State) (c ev n : Nat) (m flow : Option Nat) : (s.countCh c ev n m flow).auth = s.auth := rfl
@[simp] theorem State.cwy_countCh (s : State) (c ev n : Nat) (m flow : Option Nat) : (s.countCh c ev n m flow).cwy = s.cwy := rfl
@[simp] theorem State.life_countCh (s : State) (c ev n : Nat) (m flow : Option Nat) : (s.countCh c ev n m flow).life = s.life := rfl

/-! ### traceEv -/

@[simp] theorem State.pending_traceEv (s : State) (kind arg data : Nat) : (s.traceEv kind arg data).pending = s.pending := rfl
@[simp] theorem State.out_traceEv (s : State) (kind arg data : Nat) : (s.traceEv kind arg data).out = s.out := rfl
@[simp] theorem State.free_traceEv (s : State) (kind arg data : Nat) : (s.traceEv kind arg data).free = s.free := rfl
@[simp] theorem State.part_traceEv (s : State) (kind arg data : Nat) : (s.traceEv kind arg data).part = s.part := rfl
@[simp] theorem State.now_traceEv (s : State) (kind arg data : Nat) : (s.traceEv kind arg data).now = s.now := rfl
@[simp] theorem State.timeBase_traceEv (s : State) (kind arg data : Nat) : (s.traceEv kind arg data).timeBase = s.timeBase := rfl
@[simp] theorem State.ppmAcc_traceEv (s : State) (kind arg data : Nat) : (s.traceEv kind arg data).ppmAcc = s.ppmAcc := rfl
@[simp] theorem State.mode_traceEv (s : State) (kind arg data : Nat) : (s.traceEv kind arg data).mode = s.mode := rfl
@[simp] theorem State.regs_traceEv (s : State) (kind arg data : Nat) : (s.traceEv kind arg data).regs = s.regs := rfl
@[simp] theorem State.shadows_traceEv (s : State) (kind arg data : Nat) : (s.traceEv kind arg data).shadows = s.shadows := rfl
@[simp] theorem State.flowShadows_traceEv (s : State) (kind arg data : Nat) : (s.traceEv kind arg data).flowShadows = s.flowShadows := rfl
@[simp] theorem State.holders_traceEv (s : State) (kind arg data : Nat) : (s.traceEv kind arg data).holders = s.holders := rfl
@[simp] theorem State.latches_traceEv (s : State) (kind arg data : Nat) : (s.traceEv kind arg data).latches = s.latches := rfl
@[simp] theorem State.popHold_traceEv (s : State) (kind arg data : Nat) : (s.traceEv kind arg data).popHold = s.popHold := rfl
@[simp] theorem State.heldAccesses_traceEv (s : State) (kind arg data : Nat) : (s.traceEv kind arg data).heldAccesses = s.heldAccesses := rfl
@[simp] theorem State.fieldCopies_traceEv (s : State) (kind arg data : Nat) : (s.traceEv kind arg data).fieldCopies = s.fieldCopies := rfl
@[simp] theorem State.pins_traceEv (s : State) (kind arg data : Nat) : (s.traceEv kind arg data).pins = s.pins := rfl
@[simp] theorem State.straits_traceEv (s : State) (kind arg data : Nat) : (s.traceEv kind arg data).straits = s.straits := rfl
@[simp] theorem State.rails_traceEv (s : State) (kind arg data : Nat) : (s.traceEv kind arg data).rails = s.rails := rfl
@[simp] theorem State.mods_traceEv (s : State) (kind arg data : Nat) : (s.traceEv kind arg data).mods = s.mods := rfl
@[simp] theorem State.primary_traceEv (s : State) (kind arg data : Nat) : (s.traceEv kind arg data).primary = s.primary := rfl
@[simp] theorem State.primaryNext_traceEv (s : State) (kind arg data : Nat) : (s.traceEv kind arg data).primaryNext = s.primaryNext := rfl
@[simp] theorem State.txns_traceEv (s : State) (kind arg data : Nat) : (s.traceEv kind arg data).txns = s.txns := rfl
@[simp] theorem State.qosFence_traceEv (s : State) (kind arg data : Nat) : (s.traceEv kind arg data).qosFence = s.qosFence := rfl
@[simp] theorem State.guar_traceEv (s : State) (kind arg data : Nat) : (s.traceEv kind arg data).guar = s.guar := rfl
@[simp] theorem State.caps_traceEv (s : State) (kind arg data : Nat) : (s.traceEv kind arg data).caps = s.caps := rfl
@[simp] theorem State.demand_traceEv (s : State) (kind arg data : Nat) : (s.traceEv kind arg data).demand = s.demand := rfl
@[simp] theorem State.served_traceEv (s : State) (kind arg data : Nat) : (s.traceEv kind arg data).served = s.served := rfl
@[simp] theorem State.urgSince_traceEv (s : State) (kind arg data : Nat) : (s.traceEv kind arg data).urgSince = s.urgSince := rfl
@[simp] theorem State.floorStale_traceEv (s : State) (kind arg data : Nat) : (s.traceEv kind arg data).floorStale = s.floorStale := rfl
@[simp] theorem State.chans_traceEv (s : State) (kind arg data : Nat) : (s.traceEv kind arg data).chans = s.chans := rfl
@[simp] theorem State.array_traceEv (s : State) (kind arg data : Nat) : (s.traceEv kind arg data).array = s.array := rfl
@[simp] theorem State.salt_traceEv (s : State) (kind arg data : Nat) : (s.traceEv kind arg data).salt = s.salt := rfl
@[simp] theorem State.unfilled_traceEv (s : State) (kind arg data : Nat) : (s.traceEv kind arg data).unfilled = s.unfilled := rfl
@[simp] theorem State.ctxWrites_traceEv (s : State) (kind arg data : Nat) : (s.traceEv kind arg data).ctxWrites = s.ctxWrites := rfl
@[simp] theorem State.patterned_traceEv (s : State) (kind arg data : Nat) : (s.traceEv kind arg data).patterned = s.patterned := rfl
@[simp] theorem State.repairs_traceEv (s : State) (kind arg data : Nat) : (s.traceEv kind arg data).repairs = s.repairs := rfl
@[simp] theorem State.stopped_traceEv (s : State) (kind arg data : Nat) : (s.traceEv kind arg data).stopped = s.stopped := rfl
@[simp] theorem State.resetting_traceEv (s : State) (kind arg data : Nat) : (s.traceEv kind arg data).resetting = s.resetting := rfl
@[simp] theorem State.ownSelf_traceEv (s : State) (kind arg data : Nat) : (s.traceEv kind arg data).ownSelf = s.ownSelf := rfl
@[simp] theorem State.dieReset_traceEv (s : State) (kind arg data : Nat) : (s.traceEv kind arg data).dieReset = s.dieReset := rfl
@[simp] theorem State.bringUp_traceEv (s : State) (kind arg data : Nat) : (s.traceEv kind arg data).bringUp = s.bringUp := rfl
@[simp] theorem State.retained_traceEv (s : State) (kind arg data : Nat) : (s.traceEv kind arg data).retained = s.retained := rfl
@[simp] theorem State.coll_traceEv (s : State) (kind arg data : Nat) : (s.traceEv kind arg data).coll = s.coll := rfl
@[simp] theorem State.fuses_traceEv (s : State) (kind arg data : Nat) : (s.traceEv kind arg data).fuses = s.fuses := rfl
@[simp] theorem State.mram_traceEv (s : State) (kind arg data : Nat) : (s.traceEv kind arg data).mram = s.mram := rfl
@[simp] theorem State.thermal_traceEv (s : State) (kind arg data : Nat) : (s.traceEv kind arg data).thermal = s.thermal := rfl
@[simp] theorem State.wear_traceEv (s : State) (kind arg data : Nat) : (s.traceEv kind arg data).wear = s.wear := rfl
@[simp] theorem State.calNow_traceEv (s : State) (kind arg data : Nat) : (s.traceEv kind arg data).calNow = s.calNow := rfl
@[simp] theorem State.calRun_traceEv (s : State) (kind arg data : Nat) : (s.traceEv kind arg data).calRun = s.calRun := rfl
@[simp] theorem State.minEye_traceEv (s : State) (kind arg data : Nat) : (s.traceEv kind arg data).minEye = s.minEye := rfl
@[simp] theorem State.aonUpset_traceEv (s : State) (kind arg data : Nat) : (s.traceEv kind arg data).aonUpset = s.aonUpset := rfl
@[simp] theorem State.calBad_traceEv (s : State) (kind arg data : Nat) : (s.traceEv kind arg data).calBad = s.calBad := rfl
@[simp] theorem State.auth_traceEv (s : State) (kind arg data : Nat) : (s.traceEv kind arg data).auth = s.auth := rfl
@[simp] theorem State.cwy_traceEv (s : State) (kind arg data : Nat) : (s.traceEv kind arg data).cwy = s.cwy := rfl
@[simp] theorem State.life_traceEv (s : State) (kind arg data : Nat) : (s.traceEv kind arg data).life = s.life := rfl

/-! ### What an update makes of its own field -/

theorem State.regs_setReg (s : State) (a : Nat) (w : Word) : (s.setReg a w).regs = s.regs.set (regReset s.part) a w := rfl

/-- A register read after a register was written. -/
theorem State.reg_setReg (s : State) (a b : Nat) (w : Word) : (s.setReg a w).reg b = if b = a then w else s.reg b :=
  Store.get_set _ _ _ _ _

@[simp] theorem State.reg_setReg_same (s : State) (a : Nat) (w : Word) : (s.setReg a w).reg a = w := by
  simp [State.reg_setReg]

theorem State.reg_setReg_ne (s : State) {a b : Nat} (w : Word) (h : b ≠ a) : (s.setReg a w).reg b = s.reg b := by
  simp [State.reg_setReg, h]

theorem State.reg_setFld_ne (s : State) (f : Fld) (v : Nat) {b : Nat} (h : b ≠ f.addr) :
    (s.setFld f v).reg b = s.reg b := State.reg_setReg_ne _ _ h

theorem State.reg_setFlag_ne (s : State) (f : Fld) (v : Bool) {b : Nat} (h : b ≠ f.addr) :
    (s.setFlag f v).reg b = s.reg b := State.reg_setReg_ne _ _ h

theorem State.reg_bump_ne (s : State) (f : Fld) (k : Nat) {b : Nat} (h : b ≠ f.addr) :
    (s.bump f k).reg b = s.reg b := State.reg_setReg_ne _ _ h

theorem State.reg_latch_ne (s : State) (f : Fld) {b : Nat} (h : b ≠ f.addr) : (s.latch f).reg b = s.reg b :=
  State.reg_setReg_ne _ _ h

/-- A field of another register is left alone. -/
theorem State.fld_setReg_ne (s : State) (a : Nat) (w : Word) (g : Fld) (h : g.addr ≠ a) :
    (s.setReg a w).fld g = s.fld g := by simp [State.fld, State.reg_setReg_ne s w h]

theorem State.fld_setFld_ne (s : State) (f g : Fld) (v : Nat) (h : g.addr ≠ f.addr) :
    (s.setFld f v).fld g = s.fld g := State.fld_setReg_ne _ _ _ _ h

theorem State.flag_setFld_ne (s : State) (f g : Fld) (v : Nat) (h : g.addr ≠ f.addr) :
    (s.setFld f v).flag g = s.flag g := by simp [State.flag, State.fld_setFld_ne _ _ _ _ h]

theorem State.fld_setFlag_ne (s : State) (f g : Fld) (b : Bool) (h : g.addr ≠ f.addr) :
    (s.setFlag f b).fld g = s.fld g := State.fld_setReg_ne _ _ _ _ h

theorem State.flag_setFlag_ne (s : State) (f g : Fld) (b : Bool) (h : g.addr ≠ f.addr) :
    (s.setFlag f b).flag g = s.flag g := by simp [State.flag, State.fld_setFlag_ne _ _ _ _ h]

theorem State.fld_latch_ne (s : State) (f g : Fld) (h : g.addr ≠ f.addr) : (s.latch f).fld g = s.fld g :=
  State.fld_setReg_ne _ _ _ _ h

theorem State.flag_latch_ne (s : State) (f g : Fld) (h : g.addr ≠ f.addr) : (s.latch f).flag g = s.flag g := by
  simp [State.flag, State.fld_latch_ne _ _ _ h]

/-- A field just written reads as the value cut to its width. -/
theorem bitsOf_putBits (n hi lo v : Nat) (h : lo ≤ hi) : bitsOf (putBits n hi lo v) hi lo = v % 2 ^ (hi + 1 - lo) := by
  unfold bitsOf putBits
  have e : 2 ^ (hi + 1) = 2 ^ lo * 2 ^ (hi + 1 - lo) := by rw [← Nat.pow_add]; congr 1; omega
  have hlt : n % 2 ^ lo < 2 ^ lo := Nat.mod_lt _ (Nat.two_pow_pos lo)
  rw [e]
  have : (n / (2 ^ lo * 2 ^ (hi + 1 - lo)) * (2 ^ lo * 2 ^ (hi + 1 - lo)) + v % 2 ^ (hi + 1 - lo) * 2 ^ lo + n % 2 ^ lo)
      = n % 2 ^ lo + 2 ^ lo * (v % 2 ^ (hi + 1 - lo) + 2 ^ (hi + 1 - lo) * (n / (2 ^ lo * 2 ^ (hi + 1 - lo)))) := by
    rw [Nat.mul_add]
    have a : n / (2 ^ lo * 2 ^ (hi + 1 - lo)) * (2 ^ lo * 2 ^ (hi + 1 - lo)) =
      2 ^ lo * (2 ^ (hi + 1 - lo) * (n / (2 ^ lo * 2 ^ (hi + 1 - lo)))) := by
      rw [Nat.mul_comm, Nat.mul_assoc]
    have b : v % 2 ^ (hi + 1 - lo) * 2 ^ lo = 2 ^ lo * (v % 2 ^ (hi + 1 - lo)) := Nat.mul_comm _ _
    omega
  rw [this, Nat.add_mul_div_left _ _ (Nat.two_pow_pos lo), Nat.div_eq_of_lt hlt, Nat.zero_add, Nat.add_mul_mod_self_left,
    Nat.mod_mod]

theorem putBits_lt (n hi lo v : Nat) (h : lo ≤ hi) (hh : hi < 32) (hn : n < 2 ^ 32) : putBits n hi lo v < 2 ^ 32 := by
  unfold putBits
  have e : 2 ^ (hi + 1) = 2 ^ lo * 2 ^ (hi + 1 - lo) := by rw [← Nat.pow_add]; congr 1; omega
  have e2 : 2 ^ 32 = 2 ^ (hi + 1) * 2 ^ (31 - hi) := by rw [← Nat.pow_add]; congr 1; omega
  have h1 : n % 2 ^ lo < 2 ^ lo := Nat.mod_lt _ (Nat.two_pow_pos lo)
  have h2 : v % 2 ^ (hi + 1 - lo) < 2 ^ (hi + 1 - lo) := Nat.mod_lt _ (Nat.two_pow_pos _)
  have h3 : n / 2 ^ (hi + 1) < 2 ^ (31 - hi) := by
    apply Nat.div_lt_of_lt_mul; rw [← e2]; exact hn
  have h4 : v % 2 ^ (hi + 1 - lo) * 2 ^ lo + n % 2 ^ lo < 2 ^ (hi + 1) := by
    rw [e, Nat.mul_comm (2 ^ lo)]
    calc _ < v % 2 ^ (hi + 1 - lo) * 2 ^ lo + 2 ^ lo := by omega
      _ = (v % 2 ^ (hi + 1 - lo) + 1) * 2 ^ lo := by rw [Nat.add_mul]; omega
      _ ≤ _ := Nat.mul_le_mul_right _ h2
  calc n / 2 ^ (hi + 1) * 2 ^ (hi + 1) + v % 2 ^ (hi + 1 - lo) * 2 ^ lo + n % 2 ^ lo
      < n / 2 ^ (hi + 1) * 2 ^ (hi + 1) + 2 ^ (hi + 1) := by omega
    _ = (n / 2 ^ (hi + 1) + 1) * 2 ^ (hi + 1) := by rw [Nat.add_mul]; omega
    _ ≤ 2 ^ (31 - hi) * 2 ^ (hi + 1) := Nat.mul_le_mul_right _ h3
    _ = 2 ^ 32 := by rw [e2, Nat.mul_comm]

/-- A field just written reads as what was written, cut to its width. -/
theorem State.fld_setFld_same (s : State) (f : Fld) (v : Nat) (h : f.lo ≤ f.hi) (hh : f.hi < 32) :
    (s.setFld f v).fld f = v % 2 ^ (f.hi + 1 - f.lo) := by
  have hl := putBits_lt (s.reg f.addr).toNat f.hi f.lo v h hh (s.reg f.addr).isLt
  rw [State.fld, State.setFld, State.reg_setReg_same, BitVec.toNat_ofNat, Nat.mod_eq_of_lt hl, bitsOf_putBits _ _ _ _ h]

theorem State.flag_setFlag_same (s : State) (f : Fld) (b : Bool) (h : f.lo = f.hi) (hh : f.hi < 32) :
    (s.setFlag f b).flag f = b := by
  rw [State.flag, State.setFlag, State.fld_setFld_same _ _ _ (by omega) hh, h]
  cases b <;> simp [b2n, Nat.add_sub_cancel_left]

/-- Bits above or below those put are what they were. -/
theorem bitsOf_putBits_ne (n hi lo v a b : Nat) (h : lo ≤ hi) (d : a < lo ∨ hi < b) :
    bitsOf (putBits n hi lo v) a b = bitsOf n a b := by
  have e : 2 ^ (hi + 1) = 2 ^ lo * 2 ^ (hi + 1 - lo) := by rw [← Nat.pow_add]; congr 1; omega
  rcases d with d | d
  · have cut : ∀ n : Nat, bitsOf n a b = n % 2 ^ (a + 1) / 2 ^ b % 2 ^ (a + 1 - b) := by
      intro n
      unfold bitsOf
      by_cases hb : b ≤ a + 1
      · rw [show n % 2 ^ (a + 1) = n % (2 ^ b * 2 ^ (a + 1 - b)) by rw [← Nat.pow_add, Nat.add_sub_cancel' hb],
          Nat.mod_mul_right_div_self, Nat.mod_mod]
      · rw [show a + 1 - b = 0 by omega]; simp [Nat.mod_one]
    rw [cut, cut n]
    have p1 : 2 ^ (hi + 1) = 2 ^ (a + 1) * 2 ^ (hi - a) := by rw [← Nat.pow_add]; congr 1; omega
    have p2 : 2 ^ lo = 2 ^ (a + 1) * 2 ^ (lo - (a + 1)) := by rw [← Nat.pow_add]; congr 1; omega
    have q1 : ∀ k, k * 2 ^ (hi + 1) % 2 ^ (a + 1) = 0 := fun k => by
      rw [p1, Nat.mul_left_comm]; exact Nat.mul_mod_right _ _
    have q2 : ∀ k, k * 2 ^ lo % 2 ^ (a + 1) = 0 := fun k => by
      rw [p2, Nat.mul_left_comm]; exact Nat.mul_mod_right _ _
    congr 2
    unfold putBits
    rw [Nat.add_mod, Nat.add_mod (n / _ * _), q1, q2]
    simp only [Nat.add_zero, Nat.zero_mod, Nat.zero_add, Nat.mod_mod]
    rw [Nat.mod_mod_of_dvd _ ⟨2 ^ (lo - (a + 1)), p2⟩]
  · have h4 : v % 2 ^ (hi + 1 - lo) * 2 ^ lo + n % 2 ^ lo < 2 ^ (hi + 1) := by
      have h1 : n % 2 ^ lo < 2 ^ lo := Nat.mod_lt _ (Nat.two_pow_pos lo)
      have h2 : v % 2 ^ (hi + 1 - lo) < 2 ^ (hi + 1 - lo) := Nat.mod_lt _ (Nat.two_pow_pos _)
      rw [e, Nat.mul_comm (2 ^ lo)]
      calc _ < v % 2 ^ (hi + 1 - lo) * 2 ^ lo + 2 ^ lo := by omega
        _ = (v % 2 ^ (hi + 1 - lo) + 1) * 2 ^ lo := by rw [Nat.add_mul]; omega
        _ ≤ _ := Nat.mul_le_mul_right _ h2
    have q : putBits n hi lo v / 2 ^ (hi + 1) = n / 2 ^ (hi + 1) := by
      unfold putBits
      rw [Nat.add_assoc, Nat.mul_comm, Nat.mul_add_div (Nat.two_pow_pos _), Nat.div_eq_of_lt h4, Nat.add_zero]
    have p : 2 ^ b = 2 ^ (hi + 1) * 2 ^ (b - (hi + 1)) := by rw [← Nat.pow_add]; congr 1; omega
    unfold bitsOf
    rw [p, ← Nat.div_div_eq_div_mul, ← Nat.div_div_eq_div_mul, q]

/-- Another field of the same register reads as before. -/
theorem State.fld_setFld_beside (s : State) (f g : Fld) (v : Nat) (a : g.addr = f.addr) (h : f.lo ≤ f.hi) (hh : f.hi < 32)
    (d : g.hi < f.lo ∨ f.hi < g.lo) : (s.setFld f v).fld g = s.fld g := by
  have hl := putBits_lt (s.reg f.addr).toNat f.hi f.lo v h hh (s.reg f.addr).isLt
  rw [State.fld, State.setFld, a, State.reg_setReg_same, BitVec.toNat_ofNat, Nat.mod_eq_of_lt hl,
    bitsOf_putBits_ne _ _ _ _ _ _ h d, State.fld, a]

/-- Every field but the one written reads as before. -/
theorem State.fld_setFld_apart (s : State) (f g : Fld) (v : Nat) (h : f.lo ≤ f.hi) (hh : f.hi < 32)
    (d : g.addr ≠ f.addr ∨ g.hi < f.lo ∨ f.hi < g.lo) : (s.setFld f v).fld g = s.fld g := by
  by_cases a : g.addr = f.addr
  · exact s.fld_setFld_beside f g v a h hh (d.resolve_left (fun n => n a))
  · exact s.fld_setFld_ne f g v a

theorem State.flag_setFlag_apart (s : State) (f g : Fld) (b : Bool) (h : f.lo ≤ f.hi) (hh : f.hi < 32)
    (d : g.addr ≠ f.addr ∨ g.hi < f.lo ∨ f.hi < g.lo) : (s.setFlag f b).flag g = s.flag g := by
  unfold State.flag State.setFlag; rw [s.fld_setFld_apart f g _ h hh d]

/-- Channel `d` after channel `c` was replaced. -/
theorem State.chan_setChan (s : State) (c d : Nat) (x : Chan) :
    (s.setChan c x).chan d = if d = c ∧ c < 32 then x else s.chan d := by
  unfold State.chan State.setChan
  by_cases h : d = c
  · subst h
    by_cases h2 : d < 32 <;> simp [h2]
  · simp [h, Ne.symm h]

@[simp] theorem State.chan_setChan_same (s : State) (c : Fin 32) (x : Chan) : (s.setChan c x).chan c = x := by
  simp [State.chan_setChan, c.isLt]

theorem State.chan_setChan_ne (s : State) {c d : Nat} (x : Chan) (h : d ≠ c) : (s.setChan c x).chan d = s.chan d := by
  simp [State.chan_setChan, h]

@[simp] theorem State.chan_modChan_same (s : State) (c : Fin 32) (g : Chan → Chan) :
    (s.modChan c g).chan c = g (s.chan c) := State.chan_setChan_same _ _ _

theorem State.chan_modChan_ne (s : State) {c d : Nat} (g : Chan → Chan) (h : d ≠ c) :
    (s.modChan c g).chan d = s.chan d := State.chan_setChan_ne _ _ h

@[simp] theorem State.chan_modEng_same (s : State) (c : Fin 32) (g : Eng → Eng) :
    (s.modEng c g).chan c = { s.chan c with eng := g (s.chan c).eng } := State.chan_setChan_same _ _ _

theorem State.chan_modEng_ne (s : State) {c d : Nat} (g : Eng → Eng) (h : d ≠ c) :
    (s.modEng c g).chan d = s.chan d := State.chan_setChan_ne _ _ h

theorem State.mod_setMod (s : State) (m k : Nat) (x : Mod) :
    (s.setMod m x).mod k = if k = m ∧ m < 12 then x else s.mod k := by
  unfold State.mod State.setMod
  by_cases h : k = m
  · subst h
    by_cases h2 : k < 12 <;> simp [h2]
  · simp [h, Ne.symm h]

@[simp] theorem State.mod_setMod_same (s : State) (m : Fin 12) (x : Mod) : (s.setMod m x).mod m = x := by
  simp [State.mod_setMod, m.isLt]

theorem State.mod_setMod_ne (s : State) {m k : Nat} (x : Mod) (h : k ≠ m) : (s.setMod m x).mod k = s.mod k := by
  simp [State.mod_setMod, h]

@[simp] theorem State.mod_modMod_same (s : State) (m : Fin 12) (g : Mod → Mod) :
    (s.modMod m g).mod m = g (s.mod m) := State.mod_setMod_same _ _ _

theorem State.mod_modMod_ne (s : State) {m k : Nat} (g : Mod → Mod) (h : k ≠ m) : (s.modMod m g).mod k = s.mod k :=
  State.mod_setMod_ne _ _ h

/-! ### Reads that an update leaves alone -/

@[simp] theorem State.reg_setChan (s : State) (c : Nat) (x : Chan) (a : Nat) : (s.setChan c x).reg a = s.reg a := rfl
@[simp] theorem State.reg_modChan (s : State) (c : Nat) (g : Chan → Chan) (a : Nat) : (s.modChan c g).reg a = s.reg a := rfl
@[simp] theorem State.reg_modEng (s : State) (c : Nat) (g : Eng → Eng) (a : Nat) : (s.modEng c g).reg a = s.reg a := rfl
@[simp] theorem State.reg_setMod (s : State) (m : Nat) (x : Mod) (a : Nat) : (s.setMod m x).reg a = s.reg a := rfl
@[simp] theorem State.reg_modMod (s : State) (m : Nat) (g : Mod → Mod) (a : Nat) : (s.modMod m g).reg a = s.reg a := rfl
@[simp] theorem State.reg_emit (s : State) (o : Out) (a : Nat) : (s.emit o).reg a = s.reg a := rfl
@[simp] theorem State.reg_useFree (s : State) (a : Nat) : s.useFree.reg a = s.reg a := rfl
@[simp] theorem State.reg_note (s : State) (e : ObsEv) (a : Nat) : (s.note e).reg a = s.reg a := rfl
@[simp] theorem State.fld_setChan (s : State) (c : Nat) (x : Chan) (f : Fld) : (s.setChan c x).fld f = s.fld f := rfl
@[simp] theorem State.fld_modChan (s : State) (c : Nat) (g : Chan → Chan) (f : Fld) : (s.modChan c g).fld f = s.fld f := rfl
@[simp] theorem State.fld_modEng (s : State) (c : Nat) (g : Eng → Eng) (f : Fld) : (s.modEng c g).fld f = s.fld f := rfl
@[simp] theorem State.fld_setMod (s : State) (m : Nat) (x : Mod) (f : Fld) : (s.setMod m x).fld f = s.fld f := rfl
@[simp] theorem State.fld_modMod (s : State) (m : Nat) (g : Mod → Mod) (f : Fld) : (s.modMod m g).fld f = s.fld f := rfl
@[simp] theorem State.fld_emit (s : State) (o : Out) (f : Fld) : (s.emit o).fld f = s.fld f := rfl
@[simp] theorem State.fld_useFree (s : State) (f : Fld) : s.useFree.fld f = s.fld f := rfl
@[simp] theorem State.fld_note (s : State) (e : ObsEv) (f : Fld) : (s.note e).fld f = s.fld f := rfl
@[simp] theorem State.flag_setChan (s : State) (c : Nat) (x : Chan) (f : Fld) : (s.setChan c x).flag f = s.flag f := rfl
@[simp] theorem State.flag_modChan (s : State) (c : Nat) (g : Chan → Chan) (f : Fld) : (s.modChan c g).flag f = s.flag f := rfl
@[simp] theorem State.flag_modEng (s : State) (c : Nat) (g : Eng → Eng) (f : Fld) : (s.modEng c g).flag f = s.flag f := rfl
@[simp] theorem State.flag_setMod (s : State) (m : Nat) (x : Mod) (f : Fld) : (s.setMod m x).flag f = s.flag f := rfl
@[simp] theorem State.flag_modMod (s : State) (m : Nat) (g : Mod → Mod) (f : Fld) : (s.modMod m g).flag f = s.flag f := rfl
@[simp] theorem State.flag_emit (s : State) (o : Out) (f : Fld) : (s.emit o).flag f = s.flag f := rfl
@[simp] theorem State.flag_useFree (s : State) (f : Fld) : s.useFree.flag f = s.flag f := rfl
@[simp] theorem State.flag_note (s : State) (e : ObsEv) (f : Fld) : (s.note e).flag f = s.flag f := rfl
@[simp] theorem State.chan_setReg (s : State) (a : Nat) (w : Word) (c : Nat) : (s.setReg a w).chan c = s.chan c := rfl
@[simp] theorem State.chan_setFld (s : State) (f : Fld) (v c : Nat) : (s.setFld f v).chan c = s.chan c := rfl
@[simp] theorem State.chan_setFlag (s : State) (f : Fld) (b : Bool) (c : Nat) : (s.setFlag f b).chan c = s.chan c := rfl
@[simp] theorem State.chan_bump (s : State) (f : Fld) (k c : Nat) : (s.bump f k).chan c = s.chan c := rfl
@[simp] theorem State.chan_latch (s : State) (f : Fld) (c : Nat) : (s.latch f).chan c = s.chan c := rfl
@[simp] theorem State.chan_note (s : State) (e : ObsEv) (c : Nat) : (s.note e).chan c = s.chan c := rfl
@[simp] theorem State.chan_emit (s : State) (o : Out) (c : Nat) : (s.emit o).chan c = s.chan c := rfl
@[simp] theorem State.chan_setMod (s : State) (m : Nat) (x : Mod) (c : Nat) : (s.setMod m x).chan c = s.chan c := rfl
@[simp] theorem State.chan_modMod (s : State) (m : Nat) (g : Mod → Mod) (c : Nat) : (s.modMod m g).chan c = s.chan c := rfl
@[simp] theorem State.mod_setReg (s : State) (a : Nat) (w : Word) (m : Nat) : (s.setReg a w).mod m = s.mod m := rfl
@[simp] theorem State.mod_setFld (s : State) (f : Fld) (v m : Nat) : (s.setFld f v).mod m = s.mod m := rfl
@[simp] theorem State.mod_setFlag (s : State) (f : Fld) (b : Bool) (m : Nat) : (s.setFlag f b).mod m = s.mod m := rfl
@[simp] theorem State.mod_bump (s : State) (f : Fld) (k m : Nat) : (s.bump f k).mod m = s.mod m := rfl
@[simp] theorem State.mod_latch (s : State) (f : Fld) (m : Nat) : (s.latch f).mod m = s.mod m := rfl
@[simp] theorem State.mod_note (s : State) (e : ObsEv) (m : Nat) : (s.note e).mod m = s.mod m := rfl
@[simp] theorem State.mod_emit (s : State) (o : Out) (m : Nat) : (s.emit o).mod m = s.mod m := rfl
@[simp] theorem State.mod_modChan (s : State) (c : Nat) (g : Chan → Chan) (m : Nat) : (s.modChan c g).mod m = s.mod m := rfl
@[simp] theorem State.mod_modEng (s : State) (c : Nat) (g : Eng → Eng) (m : Nat) : (s.modEng c g).mod m = s.mod m := rfl
@[simp] theorem State.reg_countCh (s : State) (c ev n : Nat) (m flow : Option Nat) (a : Nat) :
    (s.countCh c ev n m flow).reg a = s.reg a := rfl
@[simp] theorem State.reg_traceEv (s : State) (kind arg data : Nat) (a : Nat) :
    (s.traceEv kind arg data).reg a = s.reg a := rfl
@[simp] theorem State.fld_countCh (s : State) (c ev n : Nat) (m flow : Option Nat) (f : Fld) :
    (s.countCh c ev n m flow).fld f = s.fld f := rfl
@[simp] theorem State.fld_traceEv (s : State) (kind arg data : Nat) (f : Fld) :
    (s.traceEv kind arg data).fld f = s.fld f := rfl
@[simp] theorem State.flag_countCh (s : State) (c ev n : Nat) (m flow : Option Nat) (f : Fld) :
    (s.countCh c ev n m flow).flag f = s.flag f := rfl
@[simp] theorem State.flag_traceEv (s : State) (kind arg data : Nat) (f : Fld) :
    (s.traceEv kind arg data).flag f = s.flag f := rfl
@[simp] theorem State.chan_countCh (s : State) (c ev n : Nat) (m flow : Option Nat) (k : Nat) :
    (s.countCh c ev n m flow).chan k = s.chan k := rfl
@[simp] theorem State.chan_traceEv (s : State) (kind arg data : Nat) (k : Nat) :
    (s.traceEv kind arg data).chan k = s.chan k := rfl
@[simp] theorem State.mod_countCh (s : State) (c ev n : Nat) (m flow : Option Nat) (k : Nat) :
    (s.countCh c ev n m flow).mod k = s.mod k := rfl
@[simp] theorem State.mod_traceEv (s : State) (kind arg data : Nat) (k : Nat) :
    (s.traceEv kind arg data).mod k = s.mod k := rfl

end Sys2Proof.Machine
end

