-- ==== Sys2Proof/Laws/Access.lean ====
section
/-!
SUPPORT. What a register write on a path comes to: one law for the writes that reach their register.
-/
namespace Sys2Proof.Machine

/-- The bits put into a word are there. -/
theorem bitsOf_withBits (w : Word) (hi lo v : Nat) (h : lo ≤ hi) (hh : hi < 32) (hv : v < 2 ^ (hi + 1 - lo)) :
    bitsOf (withBits w hi lo v).toNat hi lo = v := by
  have e : (withBits w hi lo v).toNat = putBits w.toNat hi lo v := by
    unfold withBits
    rw [BitVec.toNat_ofNat]
    exact Nat.mod_eq_of_lt (putBits_lt _ hi lo _ h hh w.isLt)
  rw [e, bitsOf_putBits _ _ _ _ h, Nat.mod_eq_of_lt hv]

/-- The same for one bit. -/
theorem bitOf_withBits (w : Word) (i : Nat) (b : Bool) (hi : i < 32) : bitOf (withBits w i i (b2n b)).toNat i = b := by
  have := bitsOf_withBits w i i (b2n b) (Nat.le_refl i) hi (by cases b <;> simp [b2n])
  unfold bitsOf at this
  unfold bitOf
  simp at this ⊢
  rw [this]
  cases b <;> simp [b2n]

/-- Bits below those put into a word are what they were. -/
theorem bitsOf_withBits_below (w : Word) (hi lo v a b : Nat) (h : lo ≤ hi) (hh : hi < 32) (ha : a < lo) :
    bitsOf (withBits w hi lo v).toNat a b = bitsOf w.toNat a b := by
  have e : (withBits w hi lo v).toNat = putBits w.toNat hi lo v := by
    unfold withBits
    rw [BitVec.toNat_ofNat]
    exact Nat.mod_eq_of_lt (putBits_lt _ hi lo _ h hh w.isLt)
  have cut : ∀ n : Nat, bitsOf n a b = n % 2 ^ (a + 1) / 2 ^ b % 2 ^ (a + 1 - b) := by
    intro n
    unfold bitsOf
    by_cases hb : b ≤ a + 1
    · rw [show n % 2 ^ (a + 1) = n % (2 ^ b * 2 ^ (a + 1 - b)) by rw [← Nat.pow_add, Nat.add_sub_cancel' hb],
        Nat.mod_mul_right_div_self, Nat.mod_mod]
    · rw [show a + 1 - b = 0 by omega]; simp [Nat.mod_one]
  rw [e, cut, cut w.toNat]
  have : putBits w.toNat hi lo v % 2 ^ (a + 1) = w.toNat % 2 ^ (a + 1) := by
    unfold putBits
    have p1 : 2 ^ (hi + 1) = 2 ^ (a + 1) * 2 ^ (hi - a) := by rw [← Nat.pow_add]; congr 1; omega
    have p2 : 2 ^ lo = 2 ^ (a + 1) * 2 ^ (lo - (a + 1)) := by rw [← Nat.pow_add]; congr 1; omega
    have q1 : ∀ k, k * 2 ^ (hi + 1) % 2 ^ (a + 1) = 0 := fun k => by
      rw [p1, Nat.mul_left_comm]; exact Nat.mul_mod_right _ _
    have q2 : ∀ k, k * 2 ^ lo % 2 ^ (a + 1) = 0 := fun k => by
      rw [p2, Nat.mul_left_comm]; exact Nat.mul_mod_right _ _
    rw [Nat.add_mod, Nat.add_mod (w.toNat / _ * _), q1, q2]
    simp only [Nat.add_zero, Nat.zero_mod, Nat.zero_add, Nat.mod_mod]
    rw [Nat.mod_mod_of_dvd _ ⟨2 ^ (lo - (a + 1)), p2⟩]
  rw [this]

/-! ### A plain write -/

/-- A plain write changes registers and shadows only. -/
theorem State.plainWrite_eq (s : State) (p : PathNum) (r : Reg) (u i : Nat) (w : Word) :
    ∃ x y, s.plainWrite p r u i w = { s with regs := x, shadows := y } := by
  unfold State.plainWrite State.setReg
  simp only
  split <;> split <;> exact ⟨_, _, rfl⟩

@[simp] theorem State.plainWrite_pending (s : State) (p : PathNum) (r : Reg) (u i : Nat) (w : Word) :
    (s.plainWrite p r u i w).pending = s.pending := by
  obtain ⟨x, y, e⟩ := s.plainWrite_eq p r u i w; rw [e]
@[simp] theorem State.plainWrite_out (s : State) (p : PathNum) (r : Reg) (u i : Nat) (w : Word) :
    (s.plainWrite p r u i w).out = s.out := by
  obtain ⟨x, y, e⟩ := s.plainWrite_eq p r u i w; rw [e]
@[simp] theorem State.plainWrite_free (s : State) (p : PathNum) (r : Reg) (u i : Nat) (w : Word) :
    (s.plainWrite p r u i w).free = s.free := by
  obtain ⟨x, y, e⟩ := s.plainWrite_eq p r u i w; rw [e]
@[simp] theorem State.plainWrite_part (s : State) (p : PathNum) (r : Reg) (u i : Nat) (w : Word) :
    (s.plainWrite p r u i w).part = s.part := by
  obtain ⟨x, y, e⟩ := s.plainWrite_eq p r u i w; rw [e]
@[simp] theorem State.plainWrite_now (s : State) (p : PathNum) (r : Reg) (u i : Nat) (w : Word) :
    (s.plainWrite p r u i w).now = s.now := by
  obtain ⟨x, y, e⟩ := s.plainWrite_eq p r u i w; rw [e]
@[simp] theorem State.plainWrite_timeBase (s : State) (p : PathNum) (r : Reg) (u i : Nat) (w : Word) :
    (s.plainWrite p r u i w).timeBase = s.timeBase := by
  obtain ⟨x, y, e⟩ := s.plainWrite_eq p r u i w; rw [e]
@[simp] theorem State.plainWrite_ppmAcc (s : State) (p : PathNum) (r : Reg) (u i : Nat) (w : Word) :
    (s.plainWrite p r u i w).ppmAcc = s.ppmAcc := by
  obtain ⟨x, y, e⟩ := s.plainWrite_eq p r u i w; rw [e]
@[simp] theorem State.plainWrite_mode (s : State) (p : PathNum) (r : Reg) (u i : Nat) (w : Word) :
    (s.plainWrite p r u i w).mode = s.mode := by
  obtain ⟨x, y, e⟩ := s.plainWrite_eq p r u i w; rw [e]
@[simp] theorem State.plainWrite_flowShadows (s : State) (p : PathNum) (r : Reg) (u i : Nat) (w : Word) :
    (s.plainWrite p r u i w).flowShadows = s.flowShadows := by
  obtain ⟨x, y, e⟩ := s.plainWrite_eq p r u i w; rw [e]
@[simp] theorem State.plainWrite_holders (s : State) (p : PathNum) (r : Reg) (u i : Nat) (w : Word) :
    (s.plainWrite p r u i w).holders = s.holders := by
  obtain ⟨x, y, e⟩ := s.plainWrite_eq p r u i w; rw [e]
@[simp] theorem State.plainWrite_latches (s : State) (p : PathNum) (r : Reg) (u i : Nat) (w : Word) :
    (s.plainWrite p r u i w).latches = s.latches := by
  obtain ⟨x, y, e⟩ := s.plainWrite_eq p r u i w; rw [e]
@[simp] theorem State.plainWrite_popHold (s : State) (p : PathNum) (r : Reg) (u i : Nat) (w : Word) :
    (s.plainWrite p r u i w).popHold = s.popHold := by
  obtain ⟨x, y, e⟩ := s.plainWrite_eq p r u i w; rw [e]
@[simp] theorem State.plainWrite_heldAccesses (s : State) (p : PathNum) (r : Reg) (u i : Nat) (w : Word) :
    (s.plainWrite p r u i w).heldAccesses = s.heldAccesses := by
  obtain ⟨x, y, e⟩ := s.plainWrite_eq p r u i w; rw [e]
@[simp] theorem State.plainWrite_fieldCopies (s : State) (p : PathNum) (r : Reg) (u i : Nat) (w : Word) :
    (s.plainWrite p r u i w).fieldCopies = s.fieldCopies := by
  obtain ⟨x, y, e⟩ := s.plainWrite_eq p r u i w; rw [e]
@[simp] theorem State.plainWrite_pins (s : State) (p : PathNum) (r : Reg) (u i : Nat) (w : Word) :
    (s.plainWrite p r u i w).pins = s.pins := by
  obtain ⟨x, y, e⟩ := s.plainWrite_eq p r u i w; rw [e]
@[simp] theorem State.plainWrite_straits (s : State) (p : PathNum) (r : Reg) (u i : Nat) (w : Word) :
    (s.plainWrite p r u i w).straits = s.straits := by
  obtain ⟨x, y, e⟩ := s.plainWrite_eq p r u i w; rw [e]
@[simp] theorem State.plainWrite_rails (s : State) (p : PathNum) (r : Reg) (u i : Nat) (w : Word) :
    (s.plainWrite p r u i w).rails = s.rails := by
  obtain ⟨x, y, e⟩ := s.plainWrite_eq p r u i w; rw [e]
@[simp] theorem State.plainWrite_mods (s : State) (p : PathNum) (r : Reg) (u i : Nat) (w : Word) :
    (s.plainWrite p r u i w).mods = s.mods := by
  obtain ⟨x, y, e⟩ := s.plainWrite_eq p r u i w; rw [e]
@[simp] theorem State.plainWrite_primary (s : State) (p : PathNum) (r : Reg) (u i : Nat) (w : Word) :
    (s.plainWrite p r u i w).primary = s.primary := by
  obtain ⟨x, y, e⟩ := s.plainWrite_eq p r u i w; rw [e]
@[simp] theorem State.plainWrite_primaryNext (s : State) (p : PathNum) (r : Reg) (u i : Nat) (w : Word) :
    (s.plainWrite p r u i w).primaryNext = s.primaryNext := by
  obtain ⟨x, y, e⟩ := s.plainWrite_eq p r u i w; rw [e]
@[simp] theorem State.plainWrite_txns (s : State) (p : PathNum) (r : Reg) (u i : Nat) (w : Word) :
    (s.plainWrite p r u i w).txns = s.txns := by
  obtain ⟨x, y, e⟩ := s.plainWrite_eq p r u i w; rw [e]
@[simp] theorem State.plainWrite_qosFence (s : State) (p : PathNum) (r : Reg) (u i : Nat) (w : Word) :
    (s.plainWrite p r u i w).qosFence = s.qosFence := by
  obtain ⟨x, y, e⟩ := s.plainWrite_eq p r u i w; rw [e]
@[simp] theorem State.plainWrite_guar (s : State) (p : PathNum) (r : Reg) (u i : Nat) (w : Word) :
    (s.plainWrite p r u i w).guar = s.guar := by
  obtain ⟨x, y, e⟩ := s.plainWrite_eq p r u i w; rw [e]
@[simp] theorem State.plainWrite_caps (s : State) (p : PathNum) (r : Reg) (u i : Nat) (w : Word) :
    (s.plainWrite p r u i w).caps = s.caps := by
  obtain ⟨x, y, e⟩ := s.plainWrite_eq p r u i w; rw [e]
@[simp] theorem State.plainWrite_demand (s : State) (p : PathNum) (r : Reg) (u i : Nat) (w : Word) :
    (s.plainWrite p r u i w).demand = s.demand := by
  obtain ⟨x, y, e⟩ := s.plainWrite_eq p r u i w; rw [e]
@[simp] theorem State.plainWrite_served (s : State) (p : PathNum) (r : Reg) (u i : Nat) (w : Word) :
    (s.plainWrite p r u i w).served = s.served := by
  obtain ⟨x, y, e⟩ := s.plainWrite_eq p r u i w; rw [e]
@[simp] theorem State.plainWrite_urgSince (s : State) (p : PathNum) (r : Reg) (u i : Nat) (w : Word) :
    (s.plainWrite p r u i w).urgSince = s.urgSince := by
  obtain ⟨x, y, e⟩ := s.plainWrite_eq p r u i w; rw [e]
@[simp] theorem State.plainWrite_floorStale (s : State) (p : PathNum) (r : Reg) (u i : Nat) (w : Word) :
    (s.plainWrite p r u i w).floorStale = s.floorStale := by
  obtain ⟨x, y, e⟩ := s.plainWrite_eq p r u i w; rw [e]
@[simp] theorem State.plainWrite_chans (s : State) (p : PathNum) (r : Reg) (u i : Nat) (w : Word) :
    (s.plainWrite p r u i w).chans = s.chans := by
  obtain ⟨x, y, e⟩ := s.plainWrite_eq p r u i w; rw [e]
@[simp] theorem State.plainWrite_array (s : State) (p : PathNum) (r : Reg) (u i : Nat) (w : Word) :
    (s.plainWrite p r u i w).array = s.array := by
  obtain ⟨x, y, e⟩ := s.plainWrite_eq p r u i w; rw [e]
@[simp] theorem State.plainWrite_salt (s : State) (p : PathNum) (r : Reg) (u i : Nat) (w : Word) :
    (s.plainWrite p r u i w).salt = s.salt := by
  obtain ⟨x, y, e⟩ := s.plainWrite_eq p r u i w; rw [e]
@[simp] theorem State.plainWrite_unfilled (s : State) (p : PathNum) (r : Reg) (u i : Nat) (w : Word) :
    (s.plainWrite p r u i w).unfilled = s.unfilled := by
  obtain ⟨x, y, e⟩ := s.plainWrite_eq p r u i w; rw [e]
@[simp] theorem State.plainWrite_patterned (s : State) (p : PathNum) (r : Reg) (u i : Nat) (w : Word) :
    (s.plainWrite p r u i w).patterned = s.patterned := by
  obtain ⟨x, y, e⟩ := s.plainWrite_eq p r u i w; rw [e]
@[simp] theorem State.plainWrite_repairs (s : State) (p : PathNum) (r : Reg) (u i : Nat) (w : Word) :
    (s.plainWrite p r u i w).repairs = s.repairs := by
  obtain ⟨x, y, e⟩ := s.plainWrite_eq p r u i w; rw [e]
@[simp] theorem State.plainWrite_ownSelf (s : State) (p : PathNum) (r : Reg) (u i : Nat) (w : Word) :
    (s.plainWrite p r u i w).ownSelf = s.ownSelf := by
  obtain ⟨x, y, e⟩ := s.plainWrite_eq p r u i w; rw [e]
@[simp] theorem State.plainWrite_dieReset (s : State) (p : PathNum) (r : Reg) (u i : Nat) (w : Word) :
    (s.plainWrite p r u i w).dieReset = s.dieReset := by
  obtain ⟨x, y, e⟩ := s.plainWrite_eq p r u i w; rw [e]
@[simp] theorem State.plainWrite_bringUp (s : State) (p : PathNum) (r : Reg) (u i : Nat) (w : Word) :
    (s.plainWrite p r u i w).bringUp = s.bringUp := by
  obtain ⟨x, y, e⟩ := s.plainWrite_eq p r u i w; rw [e]
@[simp] theorem State.plainWrite_retained (s : State) (p : PathNum) (r : Reg) (u i : Nat) (w : Word) :
    (s.plainWrite p r u i w).retained = s.retained := by
  obtain ⟨x, y, e⟩ := s.plainWrite_eq p r u i w; rw [e]
@[simp] theorem State.plainWrite_coll (s : State) (p : PathNum) (r : Reg) (u i : Nat) (w : Word) :
    (s.plainWrite p r u i w).coll = s.coll := by
  obtain ⟨x, y, e⟩ := s.plainWrite_eq p r u i w; rw [e]
@[simp] theorem State.plainWrite_fuses (s : State) (p : PathNum) (r : Reg) (u i : Nat) (w : Word) :
    (s.plainWrite p r u i w).fuses = s.fuses := by
  obtain ⟨x, y, e⟩ := s.plainWrite_eq p r u i w; rw [e]
@[simp] theorem State.plainWrite_mram (s : State) (p : PathNum) (r : Reg) (u i : Nat) (w : Word) :
    (s.plainWrite p r u i w).mram = s.mram := by
  obtain ⟨x, y, e⟩ := s.plainWrite_eq p r u i w; rw [e]
@[simp] theorem State.plainWrite_thermal (s : State) (p : PathNum) (r : Reg) (u i : Nat) (w : Word) :
    (s.plainWrite p r u i w).thermal = s.thermal := by
  obtain ⟨x, y, e⟩ := s.plainWrite_eq p r u i w; rw [e]
@[simp] theorem State.plainWrite_wear (s : State) (p : PathNum) (r : Reg) (u i : Nat) (w : Word) :
    (s.plainWrite p r u i w).wear = s.wear := by
  obtain ⟨x, y, e⟩ := s.plainWrite_eq p r u i w; rw [e]
@[simp] theorem State.plainWrite_calNow (s : State) (p : PathNum) (r : Reg) (u i : Nat) (w : Word) :
    (s.plainWrite p r u i w).calNow = s.calNow := by
  obtain ⟨x, y, e⟩ := s.plainWrite_eq p r u i w; rw [e]
@[simp] theorem State.plainWrite_calRun (s : State) (p : PathNum) (r : Reg) (u i : Nat) (w : Word) :
    (s.plainWrite p r u i w).calRun = s.calRun := by
  obtain ⟨x, y, e⟩ := s.plainWrite_eq p r u i w; rw [e]
@[simp] theorem State.plainWrite_minEye (s : State) (p : PathNum) (r : Reg) (u i : Nat) (w : Word) :
    (s.plainWrite p r u i w).minEye = s.minEye := by
  obtain ⟨x, y, e⟩ := s.plainWrite_eq p r u i w; rw [e]
@[simp] theorem State.plainWrite_calBad (s : State) (p : PathNum) (r : Reg) (u i : Nat) (w : Word) :
    (s.plainWrite p r u i w).calBad = s.calBad := by
  obtain ⟨x, y, e⟩ := s.plainWrite_eq p r u i w; rw [e]
@[simp] theorem State.plainWrite_auth (s : State) (p : PathNum) (r : Reg) (u i : Nat) (w : Word) :
    (s.plainWrite p r u i w).auth = s.auth := by
  obtain ⟨x, y, e⟩ := s.plainWrite_eq p r u i w; rw [e]
@[simp] theorem State.plainWrite_cwy (s : State) (p : PathNum) (r : Reg) (u i : Nat) (w : Word) :
    (s.plainWrite p r u i w).cwy = s.cwy := by
  obtain ⟨x, y, e⟩ := s.plainWrite_eq p r u i w; rw [e]
@[simp] theorem State.plainWrite_life (s : State) (p : PathNum) (r : Reg) (u i : Nat) (w : Word) :
    (s.plainWrite p r u i w).life = s.life := by
  obtain ⟨x, y, e⟩ := s.plainWrite_eq p r u i w; rw [e]
@[simp] theorem State.plainWrite_obs (s : State) (p : PathNum) (r : Reg) (u i : Nat) (w : Word) :
    (s.plainWrite p r u i w).obs = s.obs := by
  obtain ⟨x, y, e⟩ := s.plainWrite_eq p r u i w; rw [e]
@[simp] theorem State.plainWrite_chan (s : State) (p : PathNum) (r : Reg) (u i : Nat) (w : Word) (c : Nat) :
    (s.plainWrite p r u i w).chan c = s.chan c := by
  obtain ⟨x, y, e⟩ := s.plainWrite_eq p r u i w; rw [e]; rfl
@[simp] theorem State.plainWrite_mod (s : State) (p : PathNum) (r : Reg) (u i : Nat) (w : Word) (m : Nat) :
    (s.plainWrite p r u i w).mod m = s.mod m := by
  obtain ⟨x, y, e⟩ := s.plainWrite_eq p r u i w; rw [e]; rfl

/-- A plain write changes its own register and its East copy, and no other register. -/
theorem State.plainWrite_reg_ne (s : State) (p : PathNum) (r : Reg) (u i : Nat) (w : Word) {a : Nat} (h : a ≠ adr r u i)
    (h2 : a ≠ adr r u i + eastOffset) : (s.plainWrite p r u i w).reg a = s.reg a := by
  have e : ∀ (t : State) (x : Store (Option Shadow)), ({ t with shadows := x } : State).reg a = t.reg a := fun _ _ => rfl
  unfold State.plainWrite
  simp only
  rw [apply_ite (fun t : State => t.reg a), e, ite_self]
  split
  · rw [State.reg_setReg_ne _ _ h2, State.reg_setReg_ne _ _ h]
  · rw [State.reg_setReg_ne _ _ h]

/-- What a plain write makes of its register. -/
theorem State.plainWrite_reg (s : State) (p : PathNum) (r : Reg) (u i : Nat) (w : Word) :
    (s.plainWrite p r u i w).reg (adr r u i) = BitVec.ofNat 32 (applyFields r (s.reg (adr r u i)).toNat w.toNat) := by
  have e : ∀ (t : State) (x : Store (Option Shadow)) a, ({ t with shadows := x } : State).reg a = t.reg a :=
    fun _ _ _ => rfl
  have h2 : adr r u i ≠ adr r u i + eastOffset := by unfold eastOffset; omega
  unfold State.plainWrite
  simp only
  rw [apply_ite (fun t : State => t.reg (adr r u i)), e, ite_self]
  split
  · rw [State.reg_setReg_ne _ _ h2, State.reg_setReg_same]
  · rw [State.reg_setReg_same]

theorem State.wake_of_not_gated (s : State) (i : Nat) (h : s.flag (F.GLB_ISL_STS_GATED i) = false) : s.wake i = s := by
  simp [State.wake, h]

theorem foldl_wake (s : State) (l : List Nat) (h : (l.all fun k => !s.flag (F.GLB_ISL_STS_GATED k)) = true) :
    l.foldl State.wake s = s := by
  induction l with
  | nil => rfl
  | cons a r ih =>
    simp only [List.all_cons, Bool.and_eq_true, Bool.not_eq_true'] at h
    rw [List.foldl_cons, s.wake_of_not_gated a h.1]
    exact ih h.2

/-- A granted write is the write of its register. -/
theorem State.access_granted (s : State) (p : Path) (r : Reg) (u i : Nat) (w : Word) (g : Given) (a : Answer)
    (h : s.granted p r u i w = true) :
    s.access p (adr r u i) true w g a =
      (let x := s.writeReg p r u i w g a
       if x.status = .ok then { x with st := s.taken p (adr r u i) w x.st } else x) := by
  simp only [State.granted, Bool.and_eq_true, beq_iff_eq, bne_iff_ne, Bool.or_eq_true, Bool.not_eq_true'] at h
  obtain ⟨⟨⟨⟨⟨⟨⟨⟨-, hm⟩, hr⟩, ha⟩, hw⟩, hp⟩, hb⟩, hl⟩, hi⟩ := h
  have hprv : ¬ ((r.prv && !s.allowed p) = true) := by rcases hp with hp | hp <;> simp [hp]
  simp only [State.access, hr, foldl_wake s _ hw, ha, State.accessReg, hprv, State.writeChecked, hm, hb, hl, hi, if_true,
    if_false, Bool.false_eq_true, Bool.not_true]
  generalize s.writeReg p r u i w g a = x
  by_cases hx : x.status = .ok
  · simp only [hx, if_true, State.taken]
  · simp only [hx, if_false]

/-- A granted write whose register takes it: the effect, and the answer OK on its path. -/
theorem State.direct_done (s : State) (p : Path) (r : Reg) (u i : Nat) (w : Word) (g : Given) (t : State)
    (h : s.granted p r u i w = true) (hx : s.writeReg p r u i w g .direct = Machine.done t) :
    s.direct p (adr r u i) true w g = s.answered p (adr r u i) w t := by
  have hp : s.pathUp p = true := by simp only [State.granted, Bool.and_eq_true] at h; exact h.1.1.1.1.1.1.1.1
  simp only [State.direct, hp, if_true, s.access_granted p r u i w g .direct h, hx, Machine.done, finish]
  rfl

/-- A granted write whose register turns it away: the answer IGNORED and nothing else. -/
theorem State.direct_ignored (s : State) (p : Path) (r : Reg) (u i : Nat) (w : Word) (g : Given)
    (h : s.granted p r u i w = true) (hx : s.writeReg p r u i w g .direct = ignored s) :
    s.direct p (adr r u i) true w g = s.turnedAway p (adr r u i) := by
  have hp : s.pathUp p = true := by simp only [State.granted, Bool.and_eq_true] at h; exact h.1.1.1.1.1.1.1.1
  simp only [State.direct, hp, if_true, s.access_granted p r u i w g .direct h, hx, ignored, finish]
  rfl

/-- A write in range, which would be granted were its fields `v`, that its register refuses: that answer. -/
theorem State.writeOn_refused (s : State) (p : Path) (r : Reg) (u i : Nat) (v w : Word) (t : State) (st : Status)
    (h : s.granted p r u i v = true) (hw : inRange r w.toNat = true) (hs : st ≠ .ok)
    (hx : s.writeReg p r u i w Given.plain .direct = ⟨t, st, 0, false⟩) :
    s.writeOn p r u i w = t.emit (.access (pathNum p) (adr r u i) true st 0) := by
  have h' : s.granted p r u i w = true := by
    simp only [State.granted, Bool.and_eq_true] at h ⊢
    exact ⟨h.1, hw⟩
  have hp : s.pathUp p = true := by simp only [State.granted, Bool.and_eq_true] at h; exact h.1.1.1.1.1.1.1.1
  simp only [State.writeOn, State.direct, hp, if_true, s.access_granted p r u i w _ .direct h', hx, hs, if_false, finish,
    State.complete, Bool.false_eq_true]

/-- A write with a field out of range, which would be granted were its fields `v`: what its register makes of it, and that
answer (R69). -/
theorem State.writeOn_outOfRange (s : State) (p : Path) (r : Reg) (u i : Nat) (v w : Word) (t : State) (st : Status)
    (h : s.granted p r u i v = true) (hw : inRange r w.toNat = false) (hs : st ≠ .ok)
    (hx : s.outOfRange p r u i w = ⟨t, st, 0, false⟩) :
    s.writeOn p r u i w = t.emit (.access (pathNum p) (adr r u i) true st 0) := by
  simp only [State.granted, Bool.and_eq_true, beq_iff_eq, bne_iff_ne, Bool.or_eq_true, Bool.not_eq_true'] at h
  obtain ⟨⟨⟨⟨⟨⟨⟨⟨hu, hm⟩, hr⟩, ha⟩, hg⟩, hp⟩, hb⟩, hl⟩, -⟩ := h
  have hprv : ¬ ((r.prv && !s.allowed p) = true) := by rcases hp with hp | hp <;> simp [hp]
  simp only [State.writeOn, State.direct, hu, State.access, hr, foldl_wake s _ hg, ha, State.accessReg, hprv,
    State.writeChecked, hm, hb, hl, hw, hx, hs, finish, State.complete, if_true, if_false, Bool.false_eq_true, Bool.not_false]

/-- A read that is served: its effect, and the answer OK with its data. -/
theorem State.direct_read (s : State) (p : Path) (r : Reg) (u i : Nat) (t : State) (d : Word)
    (h : s.readable p r u i = true) (hx : s.readReg p r u i = ⟨t, .ok, d, false⟩) :
    s.direct p (adr r u i) false 0 = s.readDone p (adr r u i) d t := by
  simp only [State.readable, Bool.and_eq_true, beq_iff_eq, Bool.or_eq_true, Bool.not_eq_true'] at h
  obtain ⟨⟨⟨⟨hp, hr⟩, ha⟩, hw⟩, hv⟩ := h
  have hprv : ¬ ((r.prv && !s.allowed p) = true) := by rcases hv with hv | hv <;> simp [hv]
  simp only [State.direct, hp, if_true, State.access, hr, foldl_wake s _ hw, ha, State.accessReg, hprv, if_false,
    Bool.false_eq_true, hx, finish]
  rfl

/-- A read that its register answers with another status: that status, and no data. -/
theorem State.direct_unread (s : State) (p : Path) (r : Reg) (u i : Nat) (st : Status) (d : Word)
    (h : s.readable p r u i = true) (hs : st ≠ .ok) (hx : s.readReg p r u i = ⟨s, st, d, false⟩) :
    s.direct p (adr r u i) false 0 = s.emit (.access (pathNum p) (adr r u i) false st 0) := by
  simp only [State.readable, Bool.and_eq_true, beq_iff_eq, Bool.or_eq_true, Bool.not_eq_true'] at h
  obtain ⟨⟨⟨⟨hp, hr⟩, ha⟩, hw⟩, hv⟩ := h
  have hprv : ¬ ((r.prv && !s.allowed p) = true) := by rcases hv with hv | hv <;> simp [hv]
  simp only [State.direct, hp, if_true, State.access, hr, foldl_wake s _ hw, ha, State.accessReg, hprv, if_false,
    Bool.false_eq_true, hx, finish, hs, State.complete]

/-- The same two, as the commands that write a register say it. -/
theorem State.writeOn_done (s : State) (p : Path) (r : Reg) (u i : Nat) (w : Word) (t : State)
    (h : s.granted p r u i w = true) (hx : s.writeReg p r u i w Given.plain .direct = Machine.done t) :
    s.writeOn p r u i w = s.answered p (adr r u i) w t := s.direct_done p r u i w Given.plain t h hx

theorem State.writeOn_ignored (s : State) (p : Path) (r : Reg) (u i : Nat) (w : Word)
    (h : s.granted p r u i w = true) (hx : s.writeReg p r u i w Given.plain .direct = ignored s) :
    s.writeOn p r u i w = s.turnedAway p (adr r u i) := s.direct_ignored p r u i w Given.plain h hx

/-- A granted write that its register holds until it is released: no answer yet (R93). -/
theorem State.direct_held (s : State) (p : Path) (r : Reg) (u i : Nat) (w : Word) (g : Given) (t : State)
    (h : s.granted p r u i w = true) (hx : s.writeReg p r u i w g .direct = ⟨t, .ok, 0, true⟩) :
    s.direct p (adr r u i) true w g = s.taken p (adr r u i) w t := by
  have hp : s.pathUp p = true := by simp only [State.granted, Bool.and_eq_true] at h; exact h.1.1.1.1.1.1.1.1
  simp only [State.direct, hp, if_true, s.access_granted p r u i w g .direct h, hx, finish]

/-- A plain register takes its fields and nothing else, whatever brings the write. -/
theorem State.writeReg_plain_on (s : State) (p : Path) (r : Reg) (u i : Nat) (w : Word) (a : Answer) (h : plainReg r = true) :
    s.writeReg p r u i w Given.plain a = Machine.done (s.plainWrite (pathNum p) r u i w) := by
  have : pairHigh r = none ∧ isPairHigh r = false := by
    revert h; unfold plainReg; split <;> simp
  unfold State.writeReg
  cases r <;> first | (exfalso; revert h; decide) | (simp only [this, Bool.false_eq_true, if_false])

theorem State.writeReg_plain (s : State) (p : Path) (r : Reg) (u i : Nat) (w : Word) (h : plainReg r = true) :
    s.writeReg p r u i w Given.plain .direct = Machine.done (s.plainWrite (pathNum p) r u i w) :=
  s.writeReg_plain_on p r u i w .direct h

/-- A plain register reads as it stands. -/
theorem State.readReg_plain (s : State) (p : Path) (r : Reg) (u i : Nat) (h : plainReg r = true) :
    s.readReg p r u i = ⟨s, .ok, s.view (pathNum p) (pathHalf p) r u i, false⟩ := by
  have : pairHigh r = none ∧ isPairHigh r = false := by
    revert h; unfold plainReg; split <;> simp
  have e : r ≠ .ECC_LOG_POP := by rintro rfl; revert h; decide
  unfold State.readReg
  simp only [e, this, if_false, Bool.false_eq_true]

/-- A read that is served, whatever asks for it. -/
theorem State.access_readable (s : State) (p : Path) (r : Reg) (u i : Nat) (w : Word) (a : Answer)
    (h : s.readable p r u i = true) (g : plainReg r = true) :
    s.access p (adr r u i) false w Given.plain a =
      ⟨s.noteAccess (s.life.session != 0 && s.life.sessPath == pathNum p) (pathNum p) false (adr r u i) w, .ok,
        s.view (pathNum p) (pathHalf p) r u i, false⟩ := by
  simp only [State.readable, Bool.and_eq_true, beq_iff_eq, Bool.or_eq_true, Bool.not_eq_true'] at h
  obtain ⟨⟨⟨⟨-, hr⟩, ha⟩, hw⟩, hv⟩ := h
  have hprv : ¬ ((r.prv && !s.allowed p) = true) := by rcases hv with hv | hv <;> simp [hv]
  simp only [State.access, hr, foldl_wake s _ hw, ha, State.accessReg, hprv, if_false, Bool.false_eq_true,
    s.readReg_plain p r u i g, if_true]

/-- An accepted access changes the account of the session of its path and nothing else. -/
theorem noteAccess_eq (s : State) (b : Bool) (p : PathNum) (wr : Bool) (a : Nat) (w : Word) :
    ∃ l m, s.noteAccess b p wr a w = { s with life := l, mram := m } := by
  have lapse : ∀ t : State, ∃ l m, t.lapseNow = { t with life := l, mram := m } := fun t => by
    unfold State.lapseNow State.endSession
    split
    · split
      · exact ⟨t.life, t.mram, rfl⟩
      · exact ⟨_, _, rfl⟩
    · exact ⟨_, t.mram, rfl⟩
  unfold State.noteAccess
  split
  · generalize (if s.life.session = 0 then _ else _) = r
    cases wr
    · exact lapse s
    · obtain ⟨l, m, e⟩ := lapse (s.audit 7 r p 0 a w.toNat)
      exact ⟨l, m, e⟩
  · exact ⟨s.life, s.mram, rfl⟩

/-- It changes nothing at all for a path without an open session. -/
theorem noteAccess_closed (s : State) (p : PathNum) (wr : Bool) (a : Nat) (w : Word) : s.noteAccess false p wr a w = s := rfl

/-- What the answer of a taken write adds: the message, and the session's account. -/
theorem answered_core (s : State) (p : Path) (a : Nat) (w : Word) (t : State) :
    (s.answered p a w t).core = ({ t with
      life := (s.answered p a w t).life, mram := (s.answered p a w t).mram
      out := t.out ++ [.access (pathNum p) a true .ok 0] } : State).core ∧ (s.answered p a w t).bringUp = t.bringUp ∧
    (s.answered p a w t).regs = t.regs ∧
    ((s.life.session = 0 ∨ s.life.sessPath ≠ pathNum p) → (s.answered p a w t).life = t.life ∧ (s.answered p a w t).mram = t.mram) := by
  unfold State.answered State.taken
  by_cases h : (s.life.session != 0 && s.life.sessPath == pathNum p) = true
  · obtain ⟨l, m, e⟩ := noteAccess_eq (t.traceEv 4 (a / 4) w.toNat) (s.life.session != 0 && s.life.sessPath == pathNum p)
      (pathNum p) true a w
    rw [e]
    refine ⟨rfl, rfl, rfl, fun k => ?_⟩
    simp only [Bool.and_eq_true, bne_iff_ne, beq_iff_eq] at h
    rcases k with k | k
    · exact absurd k h.1
    · exact absurd h.2 k
  · rw [Bool.not_eq_true] at h
    rw [h, noteAccess_closed]
    exact ⟨rfl, rfl, rfl, fun _ => ⟨rfl, rfl⟩⟩

/-- The answer of a taken write changes what it sends and the session's account, and nothing else that `f` reads. -/
theorem answered_of {β : Type} (f : State → β)
    (hf : ∀ (t : State) l m o b, f { t with life := l, mram := m, out := o, obs := b } = f t)
    (s : State) (p : Path) (a : Nat) (w : Word) (t : State) : f (s.answered p a w t) = f t := by
  obtain ⟨l, m, e⟩ := noteAccess_eq (t.traceEv 4 (a / 4) w.toNat) (s.life.session != 0 && s.life.sessPath == pathNum p)
    (pathNum p) true a w
  unfold State.answered State.taken
  rw [e]
  exact hf t l m _ _

@[simp] theorem answered_mode (s : State) (p : Path) (a : Nat) (w : Word) (t : State) :
    (s.answered p a w t).mode = t.mode := answered_of _ (fun _ _ _ _ _ => rfl) s p a w t
@[simp] theorem answered_chans (s : State) (p : Path) (a : Nat) (w : Word) (t : State) :
    (s.answered p a w t).chans = t.chans := answered_of _ (fun _ _ _ _ _ => rfl) s p a w t
@[simp] theorem answered_mods (s : State) (p : Path) (a : Nat) (w : Word) (t : State) :
    (s.answered p a w t).mods = t.mods := answered_of _ (fun _ _ _ _ _ => rfl) s p a w t
@[simp] theorem answered_bringUp (s : State) (p : Path) (a : Nat) (w : Word) (t : State) :
    (s.answered p a w t).bringUp = t.bringUp := answered_of _ (fun _ _ _ _ _ => rfl) s p a w t
@[simp] theorem answered_reg (s : State) (p : Path) (a : Nat) (w : Word) (t : State) (b : Nat) :
    (s.answered p a w t).reg b = t.reg b := answered_of (fun x => x.reg b) (fun _ _ _ _ _ => rfl) s p a w t
@[simp] theorem answered_chan (s : State) (p : Path) (a : Nat) (w : Word) (t : State) (c : Nat) :
    (s.answered p a w t).chan c = t.chan c := answered_of (fun x => x.chan c) (fun _ _ _ _ _ => rfl) s p a w t
@[simp] theorem answered_mod (s : State) (p : Path) (a : Nat) (w : Word) (t : State) (m : Nat) :
    (s.answered p a w t).mod m = t.mod m := answered_of (fun x => x.mod m) (fun _ _ _ _ _ => rfl) s p a w t

end Sys2Proof.Machine
end

