-- ==== Sys2Proof/Laws/Memory.lean ====
section
/-!
SUPPORT. The memory of the device: every operation that writes the array keeps its canonical form; a stored sector that
is written reads back, and no other stored sector changes.
-/
namespace Sys2Proof.Machine

variable {α : Type} [DecidableEq α]

theorem Store.wfFrom_rebase (d e : Nat → α) (m : Store α) (b : Option Nat) (h : Store.wfFrom d b m = true) :
    Store.wfFrom e b (Store.rebase e m) = true := by
  induction m generalizing b with
  | nil => rfl
  | cons x r ih =>
    obtain ⟨k, v⟩ := x
    simp only [Store.wfFrom, Bool.and_eq_true] at h
    have hr := ih (some k) h.2
    unfold Store.rebase
    split
    next hv =>
      cases hx : Store.rebase e r with
      | nil => rfl
      | cons y r' =>
        obtain ⟨k', v'⟩ := y
        rw [hx] at hr
        simp only [Store.wfFrom, Bool.and_eq_true, decide_eq_true_eq] at hr ⊢
        refine ⟨⟨?_, hr.1.2⟩, hr.2⟩
        cases b with
        | none => rfl
        | some a =>
          have := h.1.1
          simp only [decide_eq_true_eq] at this ⊢
          have := hr.1.1
          omega
    next hv => simp only [Store.wfFrom, Bool.and_eq_true]; exact ⟨⟨h.1.1, by simp [hv]⟩, hr⟩

/-- A store brought to other unlisted values is in their canonical form. -/
theorem Store.wf_rebase (d e : Nat → α) (m : Store α) (h : Store.wf d m = true) : Store.wf e (Store.rebase e m) = true :=
  Store.wfFrom_rebase d e m none h

/-! ### Every write of the array keeps the canonical form -/

/-- Only the array and what unlisted places hold decide the canonical form. -/
theorem memory_wf_of_eq {s t : State} (h : t.array = s.array) (hu : t.unfilled = s.unfilled)
    (hp : t.patterned = s.patterned) : Memory.wf t = Memory.wf s := by
  unfold Memory.wf; rw [h, hu, hp]

theorem setPhys_wf (s : State) (k : Nat) (c : Code) (h : Memory.wf s = true) : Memory.wf (s.setPhys k c) = true :=
  Store.wf_set _ _ _ _ h

/-- A write of the array is a write of each place it reaches. -/
theorem setArray_eq (s : State) (x : Place3) (c : Code) :
    s.setArray x c = (s.places x).foldl (fun t k => t.setPhys k c) s := by
  unfold State.setArray State.places
  cases s.walkSpare x <;> rfl

theorem setArray_wf (s : State) (x : Place3) (c : Code) (h : Memory.wf s = true) : Memory.wf (s.setArray x c) = true := by
  unfold State.setArray
  simp only
  split
  · exact setPhys_wf _ _ _ (setPhys_wf _ _ _ h)
  · exact setPhys_wf _ _ _ h

theorem each_wf (s : State) (n : Nat) (f : Nat → State → State)
    (hf : ∀ i t, Memory.wf t = true → Memory.wf (f i t) = true) (h : Memory.wf s = true) : Memory.wf (s.each n f) = true := by
  unfold State.each
  generalize List.range n = l
  induction l generalizing s with
  | nil => exact h
  | cons i r ih => exact ih _ (hf _ _ h)

theorem setArrayRow_wf (s : State) (l : Nat) (d : Store Code) (h : Memory.wf s = true) :
    Memory.wf (s.setArrayRow l d) = true := each_wf _ _ _ (fun _ _ h => setArray_wf _ _ _ h) h

theorem setStored_wf (s : State) (x : Place3) (c : Code) (h : Memory.wf s = true) : Memory.wf (s.setStored x c) = true := by
  unfold State.setStored
  split
  · simp only
    split
    · exact h
    · exact setArray_wf _ _ _ h
  · split
    · exact h
    · exact setArray_wf _ _ _ h

theorem loseArray_wf (s : State) : Memory.wf s.loseArray = true := rfl

theorem rebased_wf (s : State) (p : Nat → Bool) (n : Nat) (m : Store (Option Repairs)) (h : Memory.wf s = true) :
    Memory.wf { s with array := (s.array.erase p).rebase (arrayDefault n m), unfilled := n, patterned := m } = true :=
  Store.wf_rebase (arrayDefault s.unfilled s.patterned) _ _ (Store.wf_erase _ _ _ h)

theorem foldl_wf {β : Type} (f : State → β → State) (hf : ∀ t e, Memory.wf t = true → Memory.wf (f t e) = true)
    (l : List β) (s : State) (h : Memory.wf s = true) : Memory.wf (l.foldl f s) = true := by
  induction l generalizing s with
  | nil => exact h
  | cons e r ih => rw [List.foldl_cons]; exact ih _ (hf _ _ h)

theorem fillService_wf (s : State) (c : Nat) (h : Memory.wf s = true) : Memory.wf (s.fillService c) = true := by
  unfold State.fillService
  extract_lets n b t
  have ht : Memory.wf t = true := rebased_wf s _ n s.patterned h
  exact foldl_wf _ (fun u e hu => each_wf u 40 _ (fun j v hv => setPhys_wf v _ _ hv) hu) _ t ht

theorem patternChannel_wf (s : State) (c : Nat) (h : Memory.wf s = true) : Memory.wf (s.patternChannel c) = true := by
  unfold State.patternChannel
  extract_lets m b
  exact rebased_wf s _ s.unfilled m h

theorem countCtx_wf (s : State) (x : Nat × Nat) (h : Memory.wf s = true) : Memory.wf (s.countCtx x) = true :=
  Store.wf_erase _ _ _ h

theorem setFld_wf (s : State) (f : Fld) (v : Nat) : Memory.wf (s.setFld f v) = Memory.wf s := rfl

theorem retained_wf (s : State) (r : Option Retained) : Memory.wf { s with retained := r } = Memory.wf s := rfl

theorem saveContext_wf (s : State) (x : Nat × Nat) (h : Memory.wf s = true) : Memory.wf (s.saveContext x) = true := by
  unfold State.saveContext
  have ht : Memory.wf (((s.setFlag F.GLB_RET_CTX_VALID true).setFld F.GLB_RET_CTX_CTX_A x.1).setFld F.GLB_RET_CTX_CTX_B x.2)
      = true := by
    rw [setFld_wf, setFld_wf, State.setFlag, setFld_wf]; exact h
  generalize ((s.setFlag F.GLB_RET_CTX_VALID true).setFld F.GLB_RET_CTX_CTX_A x.1).setFld F.GLB_RET_CTX_CTX_B x.2 = t at ht
  exact countCtx_wf _ x ((retained_wf t _).trans ht)

/-! ### A stored sector -/

theorem physAt_setPhys (s : State) (k j : Nat) (c : Code) :
    (s.setPhys k c).physAt j = if j = k then c else s.physAt j := by
  have hc : (s.setPhys k c).contents j = s.contents j := by unfold State.contents; simp only [State.setPhys]
  unfold State.physAt
  rw [hc]
  unfold State.setPhys
  simp only [Store.get_set]
  split <;> simp

/-- What depends on no place of the array is the same after a write of it. -/
theorem setArray_keeps {β : Type} (f : State → β) (hf : ∀ s k c, f (s.setPhys k c) = f s) (s : State) (x : Place3) (c : Code) :
    f (s.setArray x c) = f s := by
  unfold State.setArray
  simp only
  split <;> simp only [hf]

theorem physAt_setArray (s : State) (x : Place3) (k : Nat) (c : Code) :
    (s.setArray x c).physAt k = if k ∈ s.places x then c else s.physAt k := by
  rw [setArray_eq]
  generalize s.places x = l
  induction l generalizing s with
  | nil => rfl
  | cons a r ih =>
    rw [List.foldl_cons, ih, physAt_setPhys]
    by_cases h : k = a <;> simp [h]

theorem physKey_setArray (s : State) (x y : Place3) (c : Code) : (s.setArray x c).physKey y = s.physKey y :=
  setArray_keeps (·.physKey y) (fun _ _ _ => rfl) s x c

theorem arrayAt_setArray (s : State) (x y : Place3) (c : Code) :
    (s.setArray x c).arrayAt y = if s.physKey y ∈ s.places x then c else s.arrayAt y := by
  have h : ∀ t : State, t.arrayAt y = t.physAt (t.physKey y) := fun _ => rfl
  rw [h, h, physKey_setArray, physAt_setArray]

theorem locCh_lt (l : Nat) : locCh l < 32 := Nat.mod_lt _ (by decide)

/-- The slot of a row depends on the state and the locator of the slots only. -/
theorem findSlot_congr (a b : Chan) (l : Nat)
    (h : ∀ i, ((b.slot i).state = .empty ↔ (a.slot i).state = .empty) ∧ (b.slot i).loc = (a.slot i).loc) :
    b.findSlot l = a.findSlot l := by
  unfold Chan.findSlot
  congr 1; funext i
  obtain ⟨h1, h2⟩ := h i
  rw [h2]
  have : ((b.slot i).state == SlotState.empty) = ((a.slot i).state == SlotState.empty) := by
    rw [Bool.eq_iff_iff]; simp [h1]
  rw [bne, bne, this]

theorem slot_setSlot (x : Chan) (i j : Nat) (v : Slot) : (x.setSlot i v).slot j = if j = i then v else x.slot j := by
  unfold Chan.slot Chan.setSlot
  simp only [Store.get_set]

/-- What a slot holds after a sector of it was written. -/
theorem sector_write (v : Slot) (j k : Nat) (c : Code) (now : Nat) :
    (v.write j c now).sector k = if k = j then c else v.sector k := by
  unfold Slot.sector Slot.write
  simp only [Store.get_set]

theorem write_holds (v : Slot) (j : Nat) (c : Code) (now : Nat) (h : v.state.holds = true) :
    (v.write j c now).state.holds = true ∧ (v.write j c now).state ≠ .empty ∧ v.state ≠ .empty := by
  unfold Slot.write
  cases hv : v.state <;> simp_all [SlotState.holds]

theorem State.slot_setSlot (s : State) (c d i j : Nat) (v : Slot) (hc : c < 32) :
    (s.setSlot c i v).slot d j = if d = c ∧ j = i then v else s.slot d j := by
  unfold State.slot State.setSlot
  by_cases hd : d = c
  · subst hd
    have := s.chan_modChan_same ⟨d, hc⟩ fun x => x.setSlot i v
    simp only at this
    rw [this, Machine.slot_setSlot]; simp
  · rw [s.chan_modChan_ne _ hd]; simp [hd]

/-- Writing a sector of a slot that holds its row moves no row. -/
theorem findSlot_setSlot_write (s : State) (c i j : Nat) (e : Code) (n l : Nat) (hc : c < 32)
    (h : (s.slot c i).state.holds = true) : (s.setSlot c i ((s.slot c i).write j e n)).findSlot l = s.findSlot l := by
  unfold State.findSlot
  apply findSlot_congr
  intro k
  change ((State.slot _ (locCh l) k).state = _ ↔ (s.slot (locCh l) k).state = _) ∧
    (State.slot _ (locCh l) k).loc = (s.slot (locCh l) k).loc
  rw [s.slot_setSlot c (locCh l) i k _ hc]
  by_cases q : locCh l = c ∧ k = i
  · rw [if_pos q, q.1, q.2]
    obtain ⟨-, h2, h3⟩ := write_holds (s.slot c i) j e n h
    refine ⟨⟨fun z => absurd z h2, fun z => absurd z h3⟩, ?_⟩
    rfl
  · rw [if_neg q]; exact ⟨Iff.rfl, rfl⟩

/-- A row is where its slot says it is. -/
theorem findSlot_loc (s : State) (l i : Nat) (h : s.findSlot l = some i) : (s.slot (locCh l) i).loc = l := by
  have := List.find?_some h
  simp only [Bool.and_eq_true, beq_iff_eq] at this
  exact this.2

/-- Writing the array moves no row and changes no channel. -/
@[simp] theorem chans_setArray (s : State) (x : Place3) (c : Code) : (s.setArray x c).chans = s.chans :=
  setArray_keeps (·.chans) (fun _ _ _ => rfl) s x c

@[simp] theorem chan_setArray (s : State) (x : Place3) (c : Code) (d : Nat) : (s.setArray x c).chan d = s.chan d := by
  unfold State.chan; rw [chans_setArray]

@[simp] theorem findSlot_setArray (s : State) (x : Place3) (c : Code) (l : Nat) :
    (s.setArray x c).findSlot l = s.findSlot l := by
  unfold State.findSlot; rw [chan_setArray]

@[simp] theorem slot_setArray (s : State) (x : Place3) (c : Code) (d i : Nat) : (s.setArray x c).slot d i = s.slot d i := by
  unfold State.slot; rw [chan_setArray]

@[simp] theorem buffered_setArray (s : State) (x : Place3) (c : Code) (l : Nat) :
    (s.setArray x c).buffered l = s.buffered l := by
  unfold State.buffered; rw [chan_setArray]

@[simp] theorem regs_setArray (s : State) (x : Place3) (c : Code) : (s.setArray x c).regs = s.regs :=
  setArray_keeps (·.regs) (fun _ _ _ => rfl) s x c

/-- A write to the scrub buffer moves no row and changes no slot. -/
theorem slots_scrub (s : State) (c d : Nat) (g : Scrub → Scrub) (h : c < 32) :
    ((s.modChan c fun x => { x with scrub := g x.scrub }).chan d).slots = (s.chan d).slots := by
  by_cases hd : d = c
  · subst hd
    have := s.chan_modChan_same ⟨d, h⟩ fun x => { x with scrub := g x.scrub }
    simp only at this
    rw [this]
  · rw [s.chan_modChan_ne _ hd]

end Sys2Proof.Machine
end

