-- ==== Sys2Proof/Laws/Canon.lean ====
section
/-!
SUPPORT. The canonical form of a state's stores (State.canonical) as a predicate, and the same of everything that carries
a state: how it passes through records, pairs, options, folds and the operations that write a store.
-/
namespace Sys2Proof.Laws
open Sys2Proof Sys2Proof.Machine

/-- The stores of a state are in canonical form. -/
structure Canon (s : State) : Prop where
  ok : s.canonical = true

/-- The state of a pair has canonical stores. -/
structure CanonP {β : Type} (x : State × β) : Prop where
  ok : Canon x.1

/-- The state of an answer to a register access has canonical stores. -/
structure CanonR (x : Res) : Prop where
  ok : Canon x.st

/-- The state of a vertical cycle has canonical stores. -/
structure CanonY (x : Cycle) : Prop where
  ok : Canon x.st

/-- The state of a scrub visit has canonical stores. -/
structure CanonV (x : Visit) : Prop where
  ok : Canon x.st

/-- The state of a decision of the tier test has canonical stores. -/
structure CanonD (x : Decided) : Prop where
  ok : Canon x.st

/-- A state that may be absent has canonical stores. -/
inductive CanonO : Option State → Prop where
  | none : CanonO none
  | some {s : State} (h : Canon s) : CanonO (some s)

/-- What a turn leaves has canonical stores. -/
inductive CanonT : Turn → Prop where
  | go {s : State} (h : Canon s) : CanonT (.go s)
  | wait {s : State} (h : Canon s) : CanonT (.wait s)

/-- What an attempt of an instruction leaves has canonical stores. -/
inductive CanonA : Att → Prop where
  | done {s : State} (h : Canon s) : CanonA (.done s)
  | goto {s : State} {pc : Nat} (h : Canon s) : CanonA (.goto s pc)
  | wait {s : State} (h : Canon s) : CanonA (.wait s)
  | exc {code : Nat} : CanonA (.exc code)
  | ended {s : State} (h : Canon s) : CanonA (.ended s)

/-- What a row's slot comes to has canonical stores. -/
inductive CanonG : Got → Prop where
  | slot {s : State} {i : Nat} (h : Canon s) : CanonG (.slot s i)
  | wait {s : State} (h : Canon s) : CanonG (.wait s)

/-- What a read of an engine comes to has canonical stores. -/
inductive CanonF : Fetch → Prop where
  | got {s : State} {d : Decoded} (h : Canon s) : CanonF (.got s d)
  | wait {s : State} (h : Canon s) : CanonF (.wait s)

/-- The next state of an outcome has canonical stores. -/
inductive CanonN : Host.Outcome State Fault Refusal → Prop where
  | next {s : State} (h : Canon s) : CanonN (.next s)
  | fault {f : Fault} : CanonN (.fault f)
  | refused {r : Refusal} : CanonN (.refused r)

theorem CanonP.mk' {β : Type} {s : State} {b : β} (h : Canon s) : CanonP (s, b) := ⟨h⟩
theorem CanonR.mk' {s : State} {a : Status} {b : Word} {c : Bool} (h : Canon s) : CanonR ⟨s, a, b, c⟩ := ⟨h⟩
theorem CanonY.mk' {s : State} {a : Option Bool} {b : List Nat} {c : List (Nat × Nat)} {d : Bool} (h : Canon s) :
    CanonY ⟨s, a, b, c, d⟩ := ⟨h⟩
theorem CanonV.mk' {s : State} {a : Nat} {b : List (Nat × Nat)} (h : Canon s) : CanonV ⟨s, a, b⟩ := ⟨h⟩
theorem CanonD.mk' {s : State} {a : Nat} (h : Canon s) : CanonD ⟨s, a⟩ := ⟨h⟩

/-! ### The state of what a match has taken apart -/

theorem CanonP.of {β : Type} {x : State × β} {t : State} {b : β} (e : x = (t, b)) (h : CanonP x) : Canon t := by
  subst e; exact h.ok
theorem CanonP.fst {β : Type} {t : State} {b : β} (h : CanonP (t, b)) : Canon t := h.ok
theorem CanonO.of {x : Option State} {t : State} (e : x = Option.some t) (h : CanonO x) : Canon t := by
  subst e; cases h; assumption
theorem CanonO.get {t : State} (h : CanonO (Option.some t)) : Canon t := CanonO.of rfl h
theorem CanonT.ofGo {x : Turn} {t : State} (e : x = .go t) (h : CanonT x) : Canon t := by subst e; cases h; assumption
theorem CanonT.ofWait {x : Turn} {t : State} (e : x = .wait t) (h : CanonT x) : Canon t := by subst e; cases h; assumption
theorem CanonG.ofSlot {x : Got} {t : State} {i : Nat} (e : x = .slot t i) (h : CanonG x) : Canon t := by
  subst e; cases h; assumption
theorem CanonG.ofWait {x : Got} {t : State} (e : x = .wait t) (h : CanonG x) : Canon t := by subst e; cases h; assumption
theorem CanonF.ofGot {x : Fetch} {t : State} {d : Decoded} (e : x = .got t d) (h : CanonF x) : Canon t := by
  subst e; cases h; assumption
theorem CanonF.ofWait {x : Fetch} {t : State} (e : x = .wait t) (h : CanonF x) : Canon t := by subst e; cases h; assumption
theorem CanonA.ofDone {t : State} (h : CanonA (.done t)) : Canon t := by cases h; assumption
theorem CanonA.ofGoto {t : State} {pc : Nat} (h : CanonA (.goto t pc)) : Canon t := by cases h; assumption
theorem CanonA.ofWait {t : State} (h : CanonA (.wait t)) : Canon t := by cases h; assumption
theorem CanonA.ofEnded {t : State} (h : CanonA (.ended t)) : Canon t := by cases h; assumption

/-! ### Conditionals, options, folds -/

theorem ite_canon {α : Type} {p : α → Prop} {c : Prop} {_ : Decidable c} {a b : α} (h : p a) (h' : p b) :
    p (if c then a else b) := by
  by_cases hc : c
  · rw [if_pos hc]; exact h
  · rw [if_neg hc]; exact h'

theorem id_canon {s : State} (h : Canon s) : Canon (id s) := h

theorem getD_canon {o : Option State} {s : State} (ho : CanonO o) (h : Canon s) : Canon (o.getD s) := by
  cases ho <;> assumption

theorem map_canon {β : Type} {o : Option β} {f : β → State} (h : ∀ b, Canon (f b)) : CanonO (o.map f) := by
  cases o with
  | none => exact .none
  | some b => exact .some (h b)

theorem bind_canon {o : Option State} {f : State → Option State} (ho : CanonO o) (h : ∀ t, Canon t → CanonO (f t)) :
    CanonO (o.bind f) := by
  cases ho with
  | none => exact .none
  | some k => exact h _ k

/-- A fold whose every step keeps a property keeps it. -/
theorem foldl_canon {α β : Type} {p : α → Prop} {f : α → β → α} {l : List β} {a : α} (h : p a)
    (k : ∀ x b, p x → p (f x b)) : p (l.foldl f a) := by
  induction l generalizing a with
  | nil => exact h
  | cons b l ih => exact ih (k a b h)

/-! ### Stores -/

theorem Canon.five {t : State} (a : t.regs.wf (regReset t.part) = true) (b : Memory.wf t = true)
    (c : t.shadows.wf (fun _ => none) = true) (d : t.holders.wf (fun _ => none) = true)
    (e : t.latches.wf (fun _ => none) = true) : Canon t :=
  ⟨by simp only [State.canonical, Bool.and_eq_true]; exact ⟨⟨⟨⟨a, b⟩, c⟩, d⟩, e⟩⟩

theorem Canon.parts {s : State} (h : Canon s) :
    s.regs.wf (regReset s.part) = true ∧ Memory.wf s = true ∧ s.shadows.wf (fun _ => none) = true ∧
    s.holders.wf (fun _ => none) = true ∧ s.latches.wf (fun _ => none) = true := by
  have h := h.ok
  simp only [State.canonical, Bool.and_eq_true] at h
  exact ⟨h.1.1.1.1, h.1.1.1.2, h.1.1.2, h.1.2, h.2⟩

/-- A change of the other fields keeps the canonical form. -/
theorem Canon.upd {s : State} (h : Canon s)
    {pending out free now timeBase ppmAcc mode flowShadows popHold heldAccesses fieldCopies pins straits rails mods
    primary primaryNext txns qosFence guar caps demand served urgSince floorStale chans salt ctxWrites repairs
    stopped resetting ownSelf dieReset bringUp retained coll fuses mram thermal wear calNow calRun minEye aonUpset
    calBad auth cwy life obs} :
    Canon ⟨pending, out, free, s.part, now, timeBase, ppmAcc, mode, s.regs, s.shadows, flowShadows, s.holders, s.latches,
      popHold, heldAccesses, fieldCopies, pins, straits, rails, mods, primary, primaryNext, txns, qosFence, guar,
      caps, demand, served, urgSince, floorStale, chans, s.array, salt, s.unfilled, ctxWrites, s.patterned, repairs,
      stopped, resetting, ownSelf, dieReset, bringUp, retained, coll, fuses, mram, thermal, wear, calNow, calRun,
      minEye, aonUpset, calBad, auth, cwy, life, obs⟩ := ⟨h.ok⟩

theorem Canon.setShadow {s : State} {k : Nat} {v : Option Shadow} (h : Canon s) :
    Canon { s with shadows := s.shadows.set (fun _ => none) k v } :=
  .five h.parts.1 h.parts.2.1 (Store.wf_set _ _ _ _ h.parts.2.2.1) h.parts.2.2.2.1 h.parts.2.2.2.2
theorem Canon.setHolder {s : State} {k : Nat} {v : Option Word} (h : Canon s) :
    Canon { s with holders := s.holders.set (fun _ => none) k v } :=
  .five h.parts.1 h.parts.2.1 h.parts.2.2.1 (Store.wf_set _ _ _ _ h.parts.2.2.2.1) h.parts.2.2.2.2
theorem Canon.setLatch {s : State} {k : Nat} {v : Option Word} (h : Canon s) :
    Canon { s with latches := s.latches.set (fun _ => none) k v } :=
  .five h.parts.1 h.parts.2.1 h.parts.2.2.1 h.parts.2.2.2.1 (Store.wf_set _ _ _ _ h.parts.2.2.2.2)

theorem keepParts_wf (s : State) (p : Nat → Bool) (q : Nat → Word → Word) :
    (s.keepParts p q).wf (regReset s.part) = true :=
  foldl_canon (p := fun m : Store Word => m.wf (regReset s.part) = true) (Store.wf_nil _) fun _ _ h => Store.wf_set _ _ _ _ h
theorem Canon.off {s : State} (h : Canon s) {p : Nat → Bool} {q : Nat → Word → Word} {r r' : Nat → Bool}
    {pending out free now timeBase ppmAcc mode flowShadows popHold heldAccesses fieldCopies pins straits rails mods
    primary primaryNext txns qosFence guar caps demand served urgSince floorStale chans salt ctxWrites repairs
    stopped resetting ownSelf dieReset bringUp retained coll fuses mram thermal wear calNow calRun minEye aonUpset
    calBad auth cwy life obs} :
    Canon ⟨pending, out, free, s.part, now, timeBase, ppmAcc, mode, s.keepParts p q, [], flowShadows, s.holders.erase r,
      s.latches.erase r', popHold, heldAccesses, fieldCopies, pins, straits, rails, mods, primary, primaryNext, txns,
      qosFence, guar, caps, demand, served, urgSince, floorStale, chans, s.array, salt, s.unfilled, ctxWrites,
      s.patterned, repairs, stopped, resetting, ownSelf, dieReset, bringUp, retained, coll, fuses, mram, thermal,
      wear, calNow, calRun, minEye, aonUpset, calBad, auth, cwy, life, obs⟩ :=
  .five (keepParts_wf s p q) h.parts.2.1 rfl (Store.wf_erase _ _ _ h.parts.2.2.2.1) (Store.wf_erase _ _ _ h.parts.2.2.2.2)

end Sys2Proof.Laws
end

