-- ==== Sys2Proof/Laws/CanonRegs.lean ====
section
/-!
SUPPORT. Every operation keeps the canonical form of the stores (see Laws/Canon.lean): the shared operations, reactions, links, calibration, heat, transport and QoS.
-/
namespace Sys2Proof.Laws
open Sys2Proof Sys2Proof.Machine

/-! ### Machine/State.lean -/

theorem reset_canon : Canon State.reset := ⟨by decide +kernel⟩

/-! ### Machine/Ops.lean -/

theorem setReg_canon {x0 x1 x2} (h0 : Canon x0) : Canon (State.setReg x0 x1 x2) :=
  .five (Store.wf_set _ _ _ _ h0.parts.1) h0.parts.2.1 h0.parts.2.2.1 h0.parts.2.2.2.1 h0.parts.2.2.2.2
theorem setFld_canon {x0 x1 x2} (h0 : Canon x0) : Canon (@State.setFld x0 x1 x2) := by
  unfold State.setFld
  exact setReg_canon h0
theorem setFlag_canon {x0 x1 x2} (h0 : Canon x0) : Canon (@State.setFlag x0 x1 x2) := by
  unfold State.setFlag
  exact setFld_canon h0
theorem bump_canon {x0 x1 x2} (h0 : Canon x0) : Canon (@State.bump x0 x1 x2) := by
  unfold State.bump
  exact setFld_canon h0
theorem setBoth_canon {x0 x1 x2} (h0 : Canon x0) : Canon (@State.setBoth x0 x1 x2) := by
  unfold State.setBoth
  exact setFld_canon (setFld_canon h0)
theorem bumpBoth_canon {x0 x1 x2} (h0 : Canon x0) : Canon (@State.bumpBoth x0 x1 x2) := by
  unfold State.bumpBoth
  exact bump_canon (bump_canon h0)
theorem setChan_canon {x0 x1 x2} (h0 : Canon x0) : Canon (@State.setChan x0 x1 x2) := by
  unfold State.setChan
  exact Canon.upd h0
theorem modChan_canon {x0 x1 x2} (h0 : Canon x0) : Canon (@State.modChan x0 x1 x2) := by
  unfold State.modChan
  exact setChan_canon h0
theorem setMod_canon {x0 x1 x2} (h0 : Canon x0) : Canon (@State.setMod x0 x1 x2) := by
  unfold State.setMod
  exact Canon.upd h0
theorem modMod_canon {x0 x1 x2} (h0 : Canon x0) : Canon (@State.modMod x0 x1 x2) := by
  unfold State.modMod
  exact setMod_canon h0
theorem modEng_canon {x0 x1 x2} (h0 : Canon x0) : Canon (@State.modEng x0 x1 x2) := by
  unfold State.modEng
  exact modChan_canon h0
theorem each_canon {x0 x1 x2} (h0 : Canon x0) (h1 : ∀ y0 y1, Canon y1 → Canon (x2 y0 y1)) : Canon (@State.each x0 x1 x2)
    := by
  unfold State.each
  exact foldl_canon h0 (fun _ _ k0 => h1 _ _ k0)
theorem advance_canon {x0 x1} (h0 : Canon x0) : Canon (@State.advance x0 x1) := by
  unfold State.advance
  extract_lets v0 v1 v2 v3
  exact Canon.upd h0
theorem advanceTo_canon {x0 x1} (h0 : Canon x0) : Canon (@State.advanceTo x0 x1) := by
  unfold State.advanceTo
  exact ite_canon (advance_canon h0) h0
theorem advanceGain_canon {x0 x1} (h0 : Canon x0) : Canon (@State.advanceGain x0 x1) := by
  unfold State.advanceGain
  exact advance_canon h0
theorem advanceToMultiple_canon {x0 x1} (h0 : Canon x0) : Canon (@State.advanceToMultiple x0 x1) := by
  unfold State.advanceToMultiple
  exact advanceGain_canon h0
theorem advanceSince_canon {x0 x1 x2} (h0 : Canon x0) : Canon (@State.advanceSince x0 x1 x2) := by
  unfold State.advanceSince
  exact advanceGain_canon h0
theorem emit_canon {x0 x1} (h0 : Canon x0) : Canon (@State.emit x0 x1) := by
  unfold State.emit
  exact Canon.upd h0
theorem useFree_canon {x0} (h0 : Canon x0) : Canon (@State.useFree x0) := by
  unfold State.useFree
  exact Canon.upd h0
theorem latch_canon {x0 x1} (h0 : Canon x0) : Canon (@State.latch x0 x1) := by
  unfold State.latch
  exact setFld_canon h0
theorem note_canon {x0 x1} (h0 : Canon x0) : Canon (@State.note x0 x1) := by
  unfold State.note
  extract_lets v0
  exact Canon.upd h0
theorem countCh_canon {x0 x1 x2 x3 x4 x5} (h0 : Canon x0) : Canon (@State.countCh x0 x1 x2 x3 x4 x5) := by
  unfold State.countCh
  exact note_canon h0
theorem countGl_canon {x0 x1 x2 x3 x4} (h0 : Canon x0) : Canon (@State.countGl x0 x1 x2 x3 x4) := by
  unfold State.countGl
  exact note_canon h0
theorem traceEv_canon {x0 x1 x2 x3} (h0 : Canon x0) : Canon (@State.traceEv x0 x1 x2 x3) := by
  unfold State.traceEv
  exact note_canon h0
theorem recordFault_canon {x0 x1 x2} (h0 : Canon x0) : Canon (@State.recordFault x0 x1 x2) := by
  unfold State.recordFault
  extract_lets v0 v1 v2
  have c42 : Canon v0 := ite_canon h0 (setReg_canon (setReg_canon h0))
  have c41 : Canon v1 := setFlag_canon c42
  have c40 : Canon v2 := setReg_canon c41
  exact traceEv_canon (bump_canon c40)
theorem addUnit_canon {x0 x1 x2} (h0 : Canon x0) : Canon (@State.addUnit x0 x1 x2) := by
  unfold State.addUnit
  exact setReg_canon h0
theorem endCondition_canon {x0 x1} (h0 : Canon x0) : Canon (@State.endCondition x0 x1) := by
  unfold State.endCondition
  exact setFlag_canon h0

/-! ### Machine/Integrity.lean -/

theorem setPhys_canon {x0 x1 x2} (h0 : Canon x0) : Canon (State.setPhys x0 x1 x2) :=
  .five h0.parts.1 (setPhys_wf _ _ _ h0.parts.2.1) h0.parts.2.2.1 h0.parts.2.2.2.1 h0.parts.2.2.2.2
theorem writePhys_canon {x0 x1 x2 x3} (h0 : Canon x0) : Canon (@State.writePhys x0 x1 x2 x3) := by
  unfold State.writePhys
  extract_lets v0
  have c40 : Canon v0 := setPhys_canon h0
  have c40 : Canon v0 := setPhys_canon h0
  split
  · exact setPhys_canon c40
  · exact c40
theorem setArray_canon {x0 x1 x2} (h0 : Canon x0) : Canon (@State.setArray x0 x1 x2) := by
  unfold State.setArray
  extract_lets v0
  have c40 : Canon v0 := setPhys_canon h0
  have c40 : Canon v0 := setPhys_canon h0
  split
  · exact setPhys_canon c40
  · exact c40
theorem setSlot_canon {x0 x1 x2 x3} (h0 : Canon x0) : Canon (@State.setSlot x0 x1 x2 x3) := by
  unfold State.setSlot
  exact modChan_canon h0
theorem setStored_canon {x0 x1 x2} (h0 : Canon x0) : Canon (@State.setStored x0 x1 x2) := by
  unfold State.setStored
  split
  · extract_lets v40
    exact ite_canon (setSlot_canon h0) (setArray_canon h0)
  · exact ite_canon (modChan_canon h0) (setArray_canon h0)
theorem storeHit_canon {x0 x1 x2} (h0 : Canon x0) : Canon (@State.storeHit x0 x1 x2) := by
  unfold State.storeHit
  exact ite_canon (each_canon h0 (fun _ _ k0 => ite_canon (modEng_canon k0) k0)) h0
theorem storeHitRow_canon {x0 x1} (h0 : Canon x0) : Canon (@State.storeHitRow x0 x1) := by
  unfold State.storeHitRow
  exact ite_canon (each_canon h0 (fun _ _ k0 => storeHit_canon k0)) h0
theorem fillService_canon {x0 x1} (h0 : Canon x0) : Canon (State.fillService x0 x1) := by
  unfold State.fillService
  extract_lets n b t
  have c : Canon t :=
    .five h0.parts.1 (rebased_wf x0 _ n x0.patterned h0.parts.2.1) h0.parts.2.2.1 h0.parts.2.2.2.1 h0.parts.2.2.2.2
  exact foldl_canon c (fun _ _ k => each_canon k (fun _ _ j => setPhys_canon j))
theorem loseArray_canon {x0} (h0 : Canon x0) : Canon (State.loseArray x0) :=
  .five h0.parts.1 (loseArray_wf _) h0.parts.2.2.1 h0.parts.2.2.2.1 h0.parts.2.2.2.2
theorem setArrayRow_canon {x0 x1 x2} (h0 : Canon x0) : Canon (@State.setArrayRow x0 x1 x2) := by
  unfold State.setArrayRow
  exact each_canon h0 (fun _ _ k0 => setArray_canon k0)
theorem markExtent_canon {x0 x1 x2 x3} (h0 : Canon x0) : Canon (@State.markExtent x0 x1 x2 x3) := by
  unfold State.markExtent
  extract_lets v0 v1
  have c41 : Canon v0 := modChan_canon h0
  have c40 : Canon v1 := setFld_canon c41
  exact ite_canon (setFlag_canon c40) c40
theorem log_canon {x0 x1 x2} (h0 : Canon x0) : Canon (@State.log x0 x1 x2) := by
  unfold State.log
  extract_lets v0 v1
  split
  · exact ite_canon (modChan_canon h0) (ite_canon (bump_canon h0) (modChan_canon h0))
  · exact modChan_canon h0
theorem logRowAction_canon {x0 x1 x2} (h0 : Canon x0) : Canon (@State.logRowAction x0 x1 x2) := by
  unfold State.logRowAction
  exact log_canon h0
theorem queueScrub_canon {x0 x1} (h0 : Canon x0) : Canon (@State.queueScrub x0 x1) := by
  unfold State.queueScrub
  exact modChan_canon h0
theorem noteDecode_canon {x0 x1 x2 x3 x4} (h0 : Canon x0) : Canon (@State.noteDecode x0 x1 x2 x3 x4) := by
  unfold State.noteDecode
  extract_lets v0 v1 v2 v3 v4 v5
  have c41 : Canon v3 := log_canon (bump_canon (bump_canon (countCh_canon h0)))
  have c40 : Canon v4 := recordFault_canon c41
  have c42 : Canon v5 := log_canon (bump_canon (bump_canon (countCh_canon h0)))
  exact ite_canon (ite_canon (queueScrub_canon c40) c40) (ite_canon (ite_canon (queueScrub_canon c42) c42) h0)
theorem decodeStored_canon {x0 x1 x2} (h0 : Canon x0) : CanonP (@State.decodeStored x0 x1 x2) := by
  unfold State.decodeStored
  extract_lets v0
  exact CanonP.mk' (noteDecode_canon h0)
theorem injectWrite_canon {x0 x1 x2} (h0 : Canon x0) : CanonP (@State.injectWrite x0 x1 x2) := by
  unfold State.injectWrite
  extract_lets v0 v1 v2 v3
  have c41 : Canon v2 := bump_canon h0
  have c40 : Canon v3 := ite_canon (setFlag_canon c41) c41
  exact ite_canon (CanonP.mk' c40) (CanonP.mk' h0)

/-! ### Machine/React.lean -/

theorem dropTxn_canon {x0 x1} (h0 : Canon x0) : Canon (@State.dropTxn x0 x1) := by
  unfold State.dropTxn
  exact Canon.upd h0
theorem setTxn_canon {x0 x1 x2} (h0 : Canon x0) : Canon (@State.setTxn x0 x1 x2) := by
  unfold State.setTxn
  exact Canon.upd h0
theorem countStatus_canon {x0 x1 x2 x3 x4} (h0 : Canon x0) : Canon (@State.countStatus x0 x1 x2 x3 x4) := by
  unfold State.countStatus
  extract_lets v0
  have c40 : Canon v0 := by
    unfold v0
    split
    · exact countGl_canon h0
    · exact countGl_canon h0
    · exact countGl_canon h0
    · exact h0
  exact ite_canon (countGl_canon c40) c40
theorem tagMod_canon {x0 x1 x2} (h0 : Canon x0) : Canon (@State.tagMod x0 x1 x2) := by
  unfold State.tagMod
  extract_lets v0
  exact Canon.upd h0
theorem tagAnswer_canon {x0 x1 x2 x3} (h0 : Canon x0) : Canon (@State.tagAnswer x0 x1 x2 x3) := by
  unfold State.tagAnswer
  extract_lets v0
  split
  · exact h0
  · extract_lets v40 v41 v42
    have c81 : Canon v40 := traceEv_canon h0
    have c80 : Canon v41 := bump_canon c81
    exact ite_canon (Canon.upd c80) (tagMod_canon c81)
theorem tagSent_canon {x0 x1 x2 x3} (h0 : Canon x0) : Canon (@State.tagSent x0 x1 x2 x3) := by
  unfold State.tagSent
  extract_lets v0
  exact Canon.upd h0
theorem toEgress_canon {x0 x1 x2 x3} (h0 : Canon x0) : Canon (@State.toEgress x0 x1 x2 x3) := by
  unfold State.toEgress
  exact ite_canon (bump_canon (by
    split
    · exact tagSent_canon h0
    · exact tagSent_canon h0
    · exact h0)) (modMod_canon h0)
theorem countInject_canon {x0} (h0 : Canon x0) : Canon (@State.countInject x0) := by
  unfold State.countInject
  extract_lets v0
  have c40 : Canon v0 := bumpBoth_canon h0
  exact ite_canon (setBoth_canon c40) c40
theorem countPoison_canon {x0 x1 x2} (h0 : Canon x0) : Canon (@State.countPoison x0 x1 x2) := by
  unfold State.countPoison
  exact ite_canon (countInject_canon h0) h0
theorem formReply_canon {x0 x1 x2} (h0 : Canon x0) : Canon (@State.formReply x0 x1 x2) := by
  unfold State.formReply
  extract_lets v0 v1 v2 v3 v4 v5
  have c43 : Canon v1 := countPoison_canon h0
  have c42 : Canon v2 := ite_canon (bumpBoth_canon c43) c43
  have c41 : Canon v4 := tagAnswer_canon (countStatus_canon c42)
  have c40 : Canon v5 := ite_canon (Canon.upd c41) c41
  exact ite_canon (bumpBoth_canon (dropTxn_canon h0)) (toEgress_canon (dropTxn_canon c40))
theorem settle_canon {x0} (h0 : Canon x0) : Canon (@State.settle x0) := by
  unfold State.settle
  extract_lets v0
  have c40 : Canon v0 := foldl_canon h0 (fun _ _ k41 => ite_canon k41 (formReply_canon k41))
  have c40 : Canon v0 := foldl_canon h0 (fun _ _ k41 => ite_canon k41 (formReply_canon k41))
  split
  · extract_lets v42
    have c82 : Canon v42 := setBoth_canon (setBoth_canon (setBoth_canon c40))
    exact ite_canon c40 (latch_canon (Canon.upd c82))
  · exact c40
theorem reply_canon {x0 x1 x2} (h0 : Canon x0) : Canon (@State.reply x0 x1 x2) := by
  unfold State.reply
  exact settle_canon (formReply_canon h0)
theorem landFerry_canon {x0 x1} (h0 : Canon x0) : CanonP (@State.landFerry x0 x1) := by
  unfold State.landFerry
  extract_lets v0
  have c40 : Canon v0 := modEng_canon h0
  have c40 : Canon v0 := modEng_canon h0
  split
  · exact CanonP.mk' h0
  · exact ite_canon (CanonP.mk' (setArrayRow_canon (storeHitRow_canon c40))) (CanonP.mk' (ite_canon (setArrayRow_canon
        (storeHitRow_canon (useFree_canon c40))) (useFree_canon c40)))
theorem finishFerry_canon {x0 x1} (h0 : Canon x0) : Canon (@State.finishFerry x0 x1) := by
  unfold State.finishFerry
  extract_lets v0
  have c40 : CanonP v0 := landFerry_canon h0
  have c40 : CanonP v0 := landFerry_canon h0
  split
  · exact h0
  · exact modEng_canon (c40).ok
theorem endProgram_canon {x0 x1 x2 x3} (h0 : Canon x0) : Canon (@State.endProgram x0 x1 x2 x3) := by
  unfold State.endProgram
  extract_lets v0 v1 v2 v3 v4 v5 v6
  have c43 : Canon v0 := finishFerry_canon h0
  have c42 : Canon v2 := modEng_canon c43
  have c41 : Canon v4 := Canon.upd c42
  have c40 : Canon v5 := ite_canon (traceEv_canon c41) c41
  exact ite_canon c40 (recordFault_canon c40)
theorem abortProgram_canon {x0 x1 x2} (h0 : Canon x0) : Canon (@State.abortProgram x0 x1 x2) := by
  unfold State.abortProgram
  exact ite_canon (endProgram_canon h0) h0
theorem clearTracker_canon {x0 x1 x2} (h0 : Canon x0) : Canon (@State.clearTracker x0 x1 x2) := by
  unfold State.clearTracker
  exact modChan_canon h0
theorem handBack_canon {x0 x1 x2} (h0 : Canon x0) : Canon (@State.handBack x0 x1 x2) := by
  unfold State.handBack
  extract_lets v0 v1
  have c40 : Canon v1 := foldl_canon h0 (fun _ _ k41 => clearTracker_canon k41)
  exact modChan_canon c40
theorem wakeTier_canon {x0 x1} (h0 : Canon x0) : Canon (@State.wakeTier x0 x1) := by
  unfold State.wakeTier
  exact foldl_canon h0 (fun _ _ k0 => handBack_canon k0)
theorem setChState_canon {x0 x1 x2 x3} (h0 : Canon x0) : Canon (@State.setChState x0 x1 x2 x3) := by
  unfold State.setChState
  extract_lets v0 v1 v2 v3 v4
  have c42 : Canon v2 := modChan_canon h0
  have c41 : Canon v3 := traceEv_canon (latch_canon (setFld_canon c42))
  have c40 : Canon v4 := Canon.upd c41
  exact ite_canon c40 (wakeTier_canon c40)
theorem toQueue_canon {x0 x1} (h0 : Canon x0) : Canon (@State.toQueue x0 x1) := by
  unfold State.toQueue
  exact countCh_canon (setTxn_canon h0)
theorem admitHeld_canon {x0 x1} (h0 : Canon x0) : Canon (@State.admitHeld x0 x1) := by
  unfold State.admitHeld
  exact foldl_canon h0 (fun _ _ k0 => toQueue_canon k0)
theorem cutShort_canon {x0 x1} (h0 : Canon x0) : Canon (@State.cutShort x0 x1) := by
  unfold State.cutShort
  extract_lets v0 v1 v2 v3
  have c40 : Canon v2 := useFree_canon h0
  exact ite_canon (setArray_canon (storeHit_canon c40)) (ite_canon (setArray_canon (storeHit_canon c40)) c40)
theorem cutOff_canon {x0 x1 x2 x3} (h0 : Canon x0) : Canon (@State.cutOff x0 x1 x2 x3) := by
  unfold State.cutOff
  exact ite_canon (ite_canon (dropTxn_canon (cutShort_canon h0)) (formReply_canon (cutShort_canon (ite_canon (bump_canon
      h0) h0)))) (ite_canon (dropTxn_canon h0) (formReply_canon h0))
theorem endRun_canon {x0 x1 x2 x3 x4} (h0 : Canon x0) : Canon (@State.endRun x0 x1 x2 x3 x4) := by
  unfold State.endRun
  extract_lets v0 v1 v2
  have c41 : Canon v1 := setReg_canon (setReg_canon (setReg_canon h0))
  have c40 : Canon v2 := bump_canon c41
  exact traceEv_canon (latch_canon (ite_canon c40 (bump_canon c40)))
theorem fenceStep7_canon {x0 x1} (h0 : Canon x0) : Canon (@State.fenceStep7 x0 x1) := by
  unfold State.fenceStep7
  split
  · exact ite_canon (endRun_canon (Canon.upd h0)) h0
  · exact h0
theorem fenceCtl_canon {x0} (h0 : Canon x0) : Canon (@State.fenceCtl x0) := by
  unfold State.fenceCtl
  split
  · exact endRun_canon (setFlag_canon (Canon.upd h0))
  · exact h0
theorem fenceRun_canon {x0 x1} (h0 : Canon x0) : Canon (@State.fenceRun x0 x1) := by
  unfold State.fenceRun
  split
  · exact fenceStep7_canon (modChan_canon h0)
  · exact endRun_canon (setFlag_canon (modChan_canon h0))
theorem abandonNative_canon {x0 x1} (h0 : Canon x0) : Canon (@State.abandonNative x0 x1) := by
  unfold State.abandonNative
  extract_lets v0 v1 v2 v3
  have c40 : Canon v2 := Canon.upd h0
  have c40 : Canon v2 := Canon.upd h0
  have c41 : Canon v3 := foldl_canon c40 (fun _ _ k42 => logRowAction_canon k42)
  have c41 : Canon v3 := foldl_canon c40 (fun _ _ k42 => logRowAction_canon k42)
  split
  · exact logRowAction_canon (modChan_canon c41)
  · exact c41
theorem chanOffline_canon {x0 x1 x2} (h0 : Canon x0) : Canon (@State.chanOffline x0 x1 x2) := by
  unfold State.chanOffline
  extract_lets v0 v1 v2 v3
  have c43 : Canon v0 := abandonNative_canon (fenceCtl_canon (fenceRun_canon (abortProgram_canon h0)))
  have c42 : Canon v1 := foldl_canon c43 (fun _ _ k44 => cutOff_canon k44)
  have c41 : Canon v2 := modChan_canon c42
  have c40 : Canon v3 := setFlag_canon c41
  exact ite_canon h0 (settle_canon (setChState_canon c40))
theorem dropSession_canon {x0} (h0 : Canon x0) : Canon (@State.dropSession x0) := by
  unfold State.dropSession
  extract_lets v0 v1
  exact ite_canon h0 (Canon.upd h0)
theorem fatalEntry_canon {x0 x1 x2} (h0 : Canon x0) : Canon (@State.fatalEntry x0 x1 x2) := by
  unfold State.fatalEntry
  extract_lets v0 v1 v2 v3 v4 v5 v6 v7
  have c44 : Canon v3 := Canon.upd h0
  have c43 : Canon v4 := setFlag_canon (setFld_canon (setFlag_canon c44))
  have c42 : Canon v5 := setFld_canon (setFlag_canon c43)
  have c41 : Canon v6 := foldl_canon c42 (fun _ _ k45 => cutOff_canon k45)
  have c40 : Canon v7 := each_canon c41 (fun _ _ k46 => modEng_canon k46)
  exact ite_canon h0 (dropSession_canon (settle_canon (note_canon c40)))
theorem setSafeCause_canon {x0 x1} (h0 : Canon x0) : Canon (@State.setSafeCause x0 x1) := by
  unfold State.setSafeCause
  extract_lets v0 v1
  have c40 : Canon v1 := ite_canon h0 (setFld_canon h0)
  exact ite_canon (each_canon (Canon.upd c40) (fun _ _ k41 => ite_canon (endProgram_canon k41) k41)) c40
theorem clearSafeCause_canon {x0 x1} (h0 : Canon x0) : Canon (@State.clearSafeCause x0 x1) := by
  unfold State.clearSafeCause
  extract_lets v0
  exact ite_canon (setFld_canon h0) h0
theorem react_canon {x0 x1 x2 x3} (h0 : Canon x0) : Canon (@State.react x0 x1 x2 x3) := by
  unfold State.react
  extract_lets v0
  exact ite_canon h0 (by
    split
    · exact h0
    · exact ite_canon (Canon.upd h0) h0
    · exact chanOffline_canon h0
    · exact setSafeCause_canon h0
    · exact fatalEntry_canon h0)
theorem raise_canon {x0 x1 x2} (h0 : Canon x0) : Canon (@State.raise x0 x1 x2) := by
  unfold State.raise
  exact ite_canon h0 (react_canon (recordFault_canon h0))
theorem raiseCond_canon {x0 x1 x2} (h0 : Canon x0) : Canon (@State.raiseCond x0 x1 x2) := by
  unfold State.raiseCond
  exact ite_canon h0 (ite_canon (addUnit_canon h0) (raise_canon (setFlag_canon h0)))
theorem accFault_canon {x0 x1 x2 x3 x4} (h0 : Canon x0) : Canon (@State.accFault x0 x1 x2 x3 x4) := by
  unfold State.accFault
  extract_lets v0 v1
  have c41 : Canon v0 := setReg_canon h0
  have c40 : Canon v1 := setReg_canon c41
  exact raiseCond_canon c40
theorem fenceDie_canon {x0 x1 x2} (h0 : Canon x0) : Canon (@State.fenceDie x0 x1 x2) := by
  unfold State.fenceDie
  exact each_canon h0 (fun _ _ k40 => ite_canon k40 (raise_canon (ite_canon (setFlag_canon (bump_canon (setFld_canon
      (setFlag_canon (chanOffline_canon k40))))) (bump_canon (setFld_canon (setFlag_canon (chanOffline_canon k40)))))))

/-! ### Machine/Regs.lean -/

theorem done_canon {x0} (h0 : Canon x0) : CanonR (@done x0) := by
  unfold done
  exact CanonR.mk' h0
theorem ignored_canon {x0} (h0 : Canon x0) : CanonR (@ignored x0) := by
  unfold ignored
  exact CanonR.mk' h0
theorem deny_canon {x0 x1 x2 x3} (h0 : Canon x0) : CanonR (@State.deny x0 x1 x2 x3) := by
  unfold State.deny
  exact CanonR.mk' (bump_canon (accFault_canon h0))
theorem lockViolation_canon {x0 x1 x2} (h0 : Canon x0) : CanonR (@State.lockViolation x0 x1 x2) := by
  unfold State.lockViolation
  exact CanonR.mk' (bump_canon (accFault_canon h0))
theorem wake_canon {x0 x1} (h0 : Canon x0) : Canon (@State.wake x0 x1) := by
  unfold State.wake
  exact ite_canon (setFlag_canon h0) h0
theorem putReg_canon {x0 x1 x2 x3 x4} (h0 : Canon x0) : Canon (@State.putReg x0 x1 x2 x3 x4) := by
  unfold State.putReg
  extract_lets v0 v1
  have c40 : Canon v1 := setReg_canon h0
  exact ite_canon (setReg_canon c40) c40
theorem plainWrite_canon {x0 x1 x2 x3 x4 x5} (h0 : Canon x0) : Canon (@State.plainWrite x0 x1 x2 x3 x4 x5) := by
  unfold State.plainWrite
  extract_lets v0 v1 v2
  have c41 : Canon v1 := setReg_canon h0
  have c40 : Canon v2 := ite_canon (setReg_canon c41) c41
  exact ite_canon (Canon.setShadow c40) c40
theorem applyShadow_canon {x0 x1} (h0 : Canon x0) : Canon (@State.applyShadow x0 x1) := by
  unfold State.applyShadow
  extract_lets v0
  have c40 : Canon v0 := Canon.setShadow h0
  have c40 : Canon v0 := Canon.setShadow h0
  split
  · exact ite_canon (putReg_canon c40) (accFault_canon c40)
  · exact h0
theorem applyShadows_canon {x0 x1} (h0 : Canon x0) : Canon (@State.applyShadows x0 x1) := by
  unfold State.applyShadows
  exact foldl_canon h0 (fun _ _ k0 => applyShadow_canon k0)
theorem eraseRegs_canon {x0 x1} (h0 : Canon x0) : Canon (State.eraseRegs x0 x1) :=
  .five (Store.wf_erase _ _ _ h0.parts.1) h0.parts.2.1 (Store.wf_erase _ _ _ h0.parts.2.2.1) h0.parts.2.2.2.1
    h0.parts.2.2.2.2

/-! ### Machine/Life.lean -/

theorem auditOf_canon {x0 x1 x2 x3 x4 x5 x6 x7} (h0 : Canon x0) : Canon (@State.auditOf x0 x1 x2 x3 x4 x5 x6 x7) := by
  unfold State.auditOf
  extract_lets v0
  exact Canon.upd h0
theorem audit_canon {x0 x1 x2 x3 x4 x5 x6} (h0 : Canon x0) : Canon (@State.audit x0 x1 x2 x3 x4 x5 x6) := by
  unfold State.audit
  exact auditOf_canon h0
theorem auditTest_canon {x0 x1 x2 x3} (h0 : Canon x0) : Canon (@State.auditTest x0 x1 x2 x3) := by
  unfold State.auditTest
  exact audit_canon h0
theorem auditEnd_canon {x0 x1} (h0 : Canon x0) : Canon (@State.auditEnd x0 x1) := by
  unfold State.auditEnd
  extract_lets v0
  exact ite_canon h0 (by
    split
    · exact h0
    · extract_lets v80 v81 v82 v83 v84
      have c122 : Canon v80 := Canon.upd h0
      have c121 : Canon v83 := Canon.upd c122
      have c120 : Canon v84 := setFld_canon c121
      exact ite_canon (latch_canon (ite_canon (bump_canon c120) c120)) (bump_canon (raise_canon c122)))
theorem wAudIdx_canon {x0 x1 x2} (h0 : Canon x0) : CanonR (@State.wAudIdx x0 x1 x2) := by
  unfold State.wAudIdx
  extract_lets v0 v1
  have c40 : Canon v0 := plainWrite_canon h0
  exact done_canon (setFlag_canon (each_canon c40 (fun _ _ k41 => setReg_canon k41)))
theorem endSession_canon {x0 x1} (h0 : Canon x0) : Canon (@State.endSession x0 x1) := by
  unfold State.endSession
  extract_lets v0 v1
  have c40 : Canon v0 := audit_canon h0
  exact ite_canon h0 (Canon.upd c40)
theorem failAttempt_canon {x0 x1 x2} (h0 : Canon x0) : Canon (@State.failAttempt x0 x1 x2) := by
  unfold State.failAttempt
  extract_lets v0 v1 v2 v3 v4 v5
  have c42 : Canon v0 := audit_canon (raise_canon h0)
  have c41 : Canon v3 := Canon.upd c42
  have c40 : Canon v4 := audit_canon c41
  exact ite_canon (Canon.upd c40) c41
theorem drawNonce_canon {x0 x1} (h0 : Canon x0) : Canon (@State.drawNonce x0 x1) := by
  unfold State.drawNonce
  extract_lets v0 v1 v2
  have c40 : Canon v1 := each_canon (useFree_canon h0) (fun _ _ k41 => setReg_canon k41)
  exact Canon.upd c40
theorem challenge_canon {x0 x1 x2} (h0 : Canon x0) : CanonR (@State.challenge x0 x1 x2) := by
  unfold State.challenge
  exact ite_canon (ignored_canon h0) (done_canon (drawNonce_canon (plainWrite_canon h0)))
theorem bindSession_canon {x0 x1 x2} (h0 : Canon x0) : Canon (@State.bindSession x0 x1 x2) := by
  unfold State.bindSession
  extract_lets v0 v1
  have c40 : Canon v0 := audit_canon h0
  exact Canon.upd c40
theorem openSession_canon {x0 x1 x2} (h0 : Canon x0) : CanonR (@State.openSession x0 x1 x2) := by
  unfold State.openSession
  extract_lets v0 v1 v2 v3
  have c41 : Canon v1 := plainWrite_canon h0
  have c40 : Canon v3 := Canon.upd c41
  exact ite_canon (CanonR.mk' (failAttempt_canon h0)) (ite_canon (done_canon (bindSession_canon c40)) (done_canon
      (failAttempt_canon c40)))
theorem closeSession_canon {x0 x1 x2} (h0 : Canon x0) : CanonR (@State.closeSession x0 x1 x2) := by
  unfold State.closeSession
  exact ite_canon (done_canon (endSession_canon (plainWrite_canon h0))) (ignored_canon h0)
theorem wSessCtl_canon {x0 x1 x2} (h0 : Canon x0) : CanonR (@State.wSessCtl x0 x1 x2) := by
  unfold State.wSessCtl
  split
  · exact deny_canon h0
  · exact deny_canon h0
  · split
    · exact challenge_canon h0
    · exact openSession_canon h0
    · exact closeSession_canon h0
    · exact done_canon (plainWrite_canon h0)
    · exact ignored_canon h0
  · split
    · exact challenge_canon h0
    · exact openSession_canon h0
    · exact closeSession_canon h0
    · exact done_canon (plainWrite_canon h0)
    · exact ignored_canon h0
theorem wSessBad_canon {x0 x1 x2} (h0 : Canon x0) : CanonR (@State.wSessBad x0 x1 x2) := by
  unfold State.wSessBad
  split
  · exact deny_canon h0
  · exact deny_canon h0
  · exact ite_canon (CanonR.mk' (failAttempt_canon h0)) (ignored_canon h0)
  · exact ite_canon (CanonR.mk' (failAttempt_canon h0)) (ignored_canon h0)
theorem wResp_canon {x0 x1 x2} (h0 : Canon x0) : CanonR (@State.wResp x0 x1 x2) := by
  unfold State.wResp
  extract_lets v0
  exact done_canon (Canon.upd h0)
theorem wLcCtl_canon {x0 x1 x2} (h0 : Canon x0) : CanonR (@State.wLcCtl x0 x1 x2) := by
  unfold State.wLcCtl
  extract_lets v0 v1 v2
  have c40 : Canon v1 := setFlag_canon h0
  exact ite_canon (done_canon h0) (by
    split
    · exact ignored_canon h0
    · exact ite_canon (ignored_canon h0) (ite_canon (deny_canon h0) (ite_canon (ignored_canon h0) (done_canon (Canon.upd
          c40)))))
theorem transitionEnd_canon {x0 x1} (h0 : Canon x0) : Canon (@State.transitionEnd x0 x1) := by
  unfold State.transitionEnd
  extract_lets v0 v1 v2 v3 v4 v5 v6 v7
  have c43 : Canon v4 := Canon.upd h0
  have c42 : Canon v5 := latch_canon (setFld_canon (setFlag_canon c43))
  have c41 : Canon v6 := ite_canon c42 (raise_canon c42)
  have c40 : Canon v7 := audit_canon c41
  exact ite_canon (ite_canon (dropSession_canon c40) c40) h0
theorem wStrapOvr_canon {x0 x1 x2} (h0 : Canon x0) : CanonR (@State.wStrapOvr x0 x1 x2) := by
  unfold State.wStrapOvr
  exact ite_canon (deny_canon h0) (ite_canon (ignored_canon h0) (done_canon (plainWrite_canon h0)))
theorem wTrnOvr_canon {x0 x1 x2} (h0 : Canon x0) : CanonR (@State.wTrnOvr x0 x1 x2) := by
  unfold State.wTrnOvr
  exact ite_canon (deny_canon h0) (done_canon (plainWrite_canon h0))
theorem strapTick_canon {x0} (h0 : Canon x0) : Canon (@State.strapTick x0) := by
  unfold State.strapTick
  extract_lets v0 v1 v2
  have c40 : Canon v2 := Canon.upd h0
  exact ite_canon (ite_canon (clearSafeCause_canon (endCondition_canon c40)) c40) h0
theorem nonceLapse_canon {x0} (h0 : Canon x0) : Canon (@State.nonceLapse x0) := by
  unfold State.nonceLapse
  extract_lets v0
  split
  · extract_lets v40
    have c80 : Canon v40 := advanceTo_canon h0
    exact Canon.upd c80
  · exact h0
theorem idleExpiry_canon {x0} (h0 : Canon x0) : Canon (@State.idleExpiry x0) := by
  unfold State.idleExpiry
  exact ite_canon h0 (endSession_canon (advanceSince_canon h0))
theorem lapseNow_canon {x0} (h0 : Canon x0) : Canon (@State.lapseNow x0) := by
  unfold State.lapseNow
  extract_lets v0
  exact ite_canon (endSession_canon h0) (Canon.upd h0)
theorem noteAccess_canon {x0 x1 x2 x3 x4 x5} (h0 : Canon x0) : Canon (@State.noteAccess x0 x1 x2 x3 x4 x5) := by
  unfold State.noteAccess
  exact ite_canon (lapseNow_canon (ite_canon (audit_canon h0) h0)) h0

/-! ### Machine/Links.lean -/

theorem setStage_canon {x0 x1 x2} (h0 : Canon x0) : Canon (@State.setStage x0 x1 x2) := by
  unfold State.setStage
  extract_lets v0 v1 v2 v3 v4
  have c42 : Canon v2 := ite_canon h0 (traceEv_canon h0)
  have c41 : Canon v3 := setFlag_canon c42
  have c40 : Canon v4 := modMod_canon c41
  exact Canon.upd c40
theorem setTaps_canon {x0 x1 x2 x3 x4} (h0 : Canon x0) : Canon (@State.setTaps x0 x1 x2 x3 x4) := by
  unfold State.setTaps
  exact setFld_canon (setFld_canon (setFld_canon (setFlag_canon h0)))
theorem presetTaps_canon {x0 x1 x2} (h0 : Canon x0) : Canon (@State.presetTaps x0 x1 x2) := by
  unfold State.presetTaps
  extract_lets v0
  exact setTaps_canon h0
theorem followPreset_canon {x0 x1} (h0 : Canon x0) : Canon (@State.followPreset x0 x1) := by
  unfold State.followPreset
  exact ite_canon h0 (presetTaps_canon h0)
theorem moduleBoundary_canon {x0 x1} (h0 : Canon x0) : Canon (@State.moduleBoundary x0 x1) := by
  unfold State.moduleBoundary
  exact followPreset_canon (applyShadows_canon h0)
theorem eqAnswer_canon {x0 x1 x2} (h0 : Canon x0) : Canon (@State.eqAnswer x0 x1 x2) := by
  unfold State.eqAnswer
  exact emit_canon h0
theorem eqTake_canon {x0 x1 x2 x3} (h0 : Canon x0) : Canon (@State.eqTake x0 x1 x2 x3) := by
  unfold State.eqTake
  exact ite_canon (eqAnswer_canon (setTaps_canon h0)) (eqAnswer_canon h0)
theorem eqSet_canon {x0 x1 x2} (h0 : Canon x0) : Canon (@State.eqSet x0 x1 x2) := by
  unfold State.eqSet
  exact ite_canon (eqTake_canon h0) h0
theorem eqGet_canon {x0 x1} (h0 : Canon x0) : Canon (@State.eqGet x0 x1) := by
  unfold State.eqGet
  exact ite_canon (eqAnswer_canon h0) h0
theorem excludeMod_canon {x0 x1 x2} (h0 : Canon x0) : Canon (@State.excludeMod x0 x1 x2) := by
  unfold State.excludeMod
  extract_lets v0 v1 v2 v3 v4 v5
  have c44 : Canon v1 := foldl_canon h0 (fun _ _ k45 => by
    split
    · exact tagSent_canon k45
    · exact tagSent_canon k45
    · exact k45)
  have c43 : Canon v2 := bump_canon c44
  have c42 : Canon v3 := modMod_canon (setStage_canon c43)
  have c41 : Canon v4 := Canon.upd c42
  have c40 : Canon v5 := setFld_canon (setFlag_canon c41)
  exact raiseCond_canon (latch_canon c40)
theorem unexclude_canon {x0 x1} (h0 : Canon x0) : Canon (@State.unexclude x0 x1) := by
  unfold State.unexclude
  extract_lets v0
  have c40 : Canon v0 := setFlag_canon h0
  exact ite_canon (endCondition_canon c40) c40
theorem startTraining_canon {x0 x1 x2} (h0 : Canon x0) : Canon (@State.startTraining x0 x1 x2) := by
  unfold State.startTraining
  exact setFld_canon (setStage_canon h0)
theorem recordRepairs_canon {x0 x1 x2} (h0 : Canon x0) : Canon (@State.recordRepairs x0 x1 x2) := by
  unfold State.recordRepairs
  extract_lets v0 v1 v2
  have c42 : Canon v0 := setReg_canon (setReg_canon h0)
  have c41 : Canon v1 := setFlag_canon (setFlag_canon (setFlag_canon c42))
  have c40 : Canon v2 := each_canon c41 (fun _ _ k43 => raise_canon k43)
  exact ite_canon c40 (latch_canon c40)
theorem rateDowns_canon {x0 x1 x2} (h0 : Canon x0) : Canon (@State.rateDowns x0 x1 x2) := by
  unfold State.rateDowns
  exact ite_canon h0 (latch_canon (each_canon h0 (fun _ _ k0 => raise_canon k0)))
theorem setRate_canon {x0 x1 x2} (h0 : Canon x0) : Canon (@State.setRate x0 x1 x2) := by
  unfold State.setRate
  extract_lets v0
  have c40 : Canon v0 := setFld_canon h0
  exact Canon.upd c40
theorem relock_canon {x0 x1} (h0 : Canon x0) : Canon (@State.relock x0 x1) := by
  unfold State.relock
  exact setFlag_canon h0
theorem trainAt_canon {x0 x1 x2} (h0 : Canon x0) : Canon (@State.trainAt x0 x1 x2) := by
  unfold State.trainAt
  exact presetTaps_canon (setRate_canon h0)
theorem stepDown_canon {x0 x1 x2 x3 x4} (h0 : Canon x0) : Canon (@State.stepDown x0 x1 x2 x3 x4) := by
  unfold State.stepDown
  extract_lets v0
  have c40 : Canon v0 := trainAt_canon (rateDowns_canon h0)
  exact ite_canon h0 (by
    split
    · exact eqTake_canon c40
    · exact c40)
theorem trainWith_canon {x0 x1 x2 x3 x4 x5} (h0 : Canon x0) (h1 : ∀ y0, Canon y0 → Canon (x4 y0)) (h2 : ∀ y0, Canon y0 →
    Canon (x5 y0)) : Canon (@State.trainWith x0 x1 x2 x3 x4 x5) := by
  unfold State.trainWith
  extract_lets v0
  have c40 : Canon v0 := recordRepairs_canon h0
  exact ite_canon (excludeMod_canon h0) (by
    split
    · exact h2 _ (stepDown_canon c40)
    · exact h1 _ (stepDown_canon c40))
theorem lpbkEnd_canon {x0 x1 x2 x3 x4} (h0 : Canon x0) : Canon (@State.lpbkEnd x0 x1 x2 x3 x4) := by
  unfold State.lpbkEnd
  extract_lets v0 v1
  have c40 : Canon v0 := modMod_canon (setStage_canon h0)
  have c40 : Canon v0 := modMod_canon (setStage_canon h0)
  have c41 : Canon v1 := setFlag_canon (setFlag_canon (setFlag_canon c40))
  have c41 : Canon v1 := setFlag_canon (setFlag_canon (setFlag_canon c40))
  split
  · exact h0
  · extract_lets v42 v43 v44
    have c82 : Canon v44 := setFld_canon (setFld_canon c41)
    exact setReg_canon (setReg_canon c82)
theorem attemptFailed_canon {x0 x1} (h0 : Canon x0) : Canon (@State.attemptFailed x0 x1) := by
  unfold State.attemptFailed
  exact ite_canon (setStage_canon h0) (ite_canon (lpbkEnd_canon h0) (excludeMod_canon h0))
theorem lpbkTrained_canon {x0 x1 x2} (h0 : Canon x0) : Canon (@State.lpbkTrained x0 x1 x2) := by
  unfold State.lpbkTrained
  extract_lets v0
  have c40 : Canon v0 := modMod_canon (setStage_canon h0)
  exact ite_canon (emit_canon c40) c40
theorem trainingDone_canon {x0 x1 x2} (h0 : Canon x0) : Canon (@State.trainingDone x0 x1 x2) := by
  unfold State.trainingDone
  split
  · exact relock_canon (trainAt_canon (setStage_canon h0))
  · exact relock_canon (trainAt_canon (setStage_canon h0))
  · exact ite_canon (excludeMod_canon (lpbkEnd_canon h0)) (ite_canon (attemptFailed_canon (recordRepairs_canon h0))
        (lpbkTrained_canon (recordRepairs_canon h0)))
  · exact trainWith_canon h0 (fun _ k0 => setStage_canon k0) (fun _ k1 => attemptFailed_canon k1)
  · exact ite_canon (emit_canon (setStage_canon h0)) (attemptFailed_canon h0)
  · exact h0
theorem enterActive_canon {x0 x1} (h0 : Canon x0) : Canon (@State.enterActive x0 x1) := by
  unfold State.enterActive
  extract_lets v0
  have c40 : Canon v0 := modMod_canon (setStage_canon h0)
  exact emit_canon (unexclude_canon c40)
theorem kyCap_canon {x0 x1 x2} (h0 : Canon x0) : Canon (@State.kyCap x0 x1 x2) := by
  unfold State.kyCap
  extract_lets v0
  have c40 : Canon v0 := setFlag_canon h0
  exact ite_canon (ite_canon (enterActive_canon c40) (excludeMod_canon c40)) h0
theorem kyCapTimeout_canon {x0 x1} (h0 : Canon x0) : Canon (@State.kyCapTimeout x0 x1) := by
  unfold State.kyCapTimeout
  exact ite_canon (enterActive_canon (setFlag_canon h0)) h0
theorem stageTimeout_canon {x0 x1} (h0 : Canon x0) : Canon (@State.stageTimeout x0 x1) := by
  unfold State.stageTimeout
  exact ite_canon (attemptFailed_canon h0) h0
theorem trainRestart_canon {x0 x1} (h0 : Canon x0) : Canon (@State.trainRestart x0 x1) := by
  unfold State.trainRestart
  exact ite_canon (startTraining_canon h0) h0
theorem trainDeadline_canon {x0 x1} (h0 : Canon x0) : Canon (@State.trainDeadline x0 x1) := by
  unfold State.trainDeadline
  split
  · exact ite_canon (excludeMod_canon h0) h0
  · exact h0
theorem lpbkBegin_canon {x0 x1 x2 x3} (h0 : Canon x0) : Canon (@State.lpbkBegin x0 x1 x2 x3) := by
  unfold State.lpbkBegin
  extract_lets v0
  have c40 : Canon v0 := setFlag_canon (setFlag_canon (modMod_canon h0))
  exact ite_canon (startTraining_canon c40) (setStage_canon c40)
theorem lpbkStop_canon {x0 x1} (h0 : Canon x0) : Canon (@State.lpbkStop x0 x1) := by
  unfold State.lpbkStop
  extract_lets v0
  have c40 : Canon v0 := lpbkEnd_canon h0
  exact ite_canon (Canon.upd c40) (lpbkEnd_canon h0)
theorem sidebandUp_canon {x0 x1} (h0 : Canon x0) : Canon (@State.sidebandUp x0 x1) := by
  unfold State.sidebandUp
  extract_lets v0 v1
  have c41 : Canon v0 := setStage_canon (modMod_canon h0)
  have c40 : Canon v1 := ite_canon (Canon.upd c41) c41
  exact ite_canon (by
    split
    · exact ite_canon (startTraining_canon c40) c40
    · exact c40) h0
theorem sidebandFail_canon {x0 x1} (h0 : Canon x0) : Canon (@State.sidebandFail x0 x1) := by
  unfold State.sidebandFail
  extract_lets v0 v1 v2
  have c42 : Canon v0 := ite_canon (lpbkStop_canon h0) h0
  have c41 : Canon v1 := modMod_canon c42
  have c40 : Canon v2 := ite_canon (setStage_canon c41) (excludeMod_canon c41)
  exact ite_canon (ite_canon (endSession_canon c40) c40) h0
theorem primaryLoss_canon {x0} (h0 : Canon x0) : Canon (@State.primaryLoss x0) := by
  unfold State.primaryLoss
  split
  · exact ite_canon h0 (latch_canon (raise_canon (Canon.upd h0)))
  · exact h0
theorem startRetrain_canon {x0 x1 x2} (h0 : Canon x0) : Canon (@State.startRetrain x0 x1 x2) := by
  unfold State.startRetrain
  extract_lets v0
  have c40 : Canon v0 := moduleBoundary_canon (bump_canon (setStage_canon h0))
  exact ite_canon (relock_canon (trainAt_canon c40)) c40
theorem retrainEnd_canon {x0 x1 x2} (h0 : Canon x0) : Canon (@State.retrainEnd x0 x1 x2) := by
  unfold State.retrainEnd
  extract_lets v0 v1
  have c40 : Canon v1 := ite_canon (trainAt_canon h0) h0
  exact ite_canon (trainWith_canon c40 (fun _ k41 => latch_canon (setStage_canon k41)) (fun _ k42 => excludeMod_canon
      k42)) h0
theorem retrainTimeout_canon {x0 x1} (h0 : Canon x0) : Canon (@State.retrainTimeout x0 x1) := by
  unfold State.retrainTimeout
  extract_lets v0
  exact ite_canon (ite_canon (excludeMod_canon h0) (relock_canon (trainAt_canon (rateDowns_canon h0)))) h0
theorem crcFail_canon {x0 x1 x2} (h0 : Canon x0) : Canon (@State.crcFail x0 x1 x2) := by
  unfold State.crcFail
  extract_lets v0 v1 v2
  have c40 : Canon v2 := modMod_canon (countGl_canon (bump_canon h0))
  exact ite_canon (ite_canon (bump_canon h0) (ite_canon (startRetrain_canon c40) c40)) h0
theorem retryExhausted_canon {x0 x1} (h0 : Canon x0) : Canon (@State.retryExhausted x0 x1) := by
  unfold State.retryExhausted
  exact ite_canon (startRetrain_canon h0) h0
theorem l1Timeout_canon {x0 x1} (h0 : Canon x0) : Canon (@State.l1Timeout x0 x1) := by
  unfold State.l1Timeout
  exact ite_canon (excludeMod_canon h0) h0
theorem kyLpbk_canon {x0 x1 x2} (h0 : Canon x0) : Canon (@State.kyLpbk x0 x1 x2) := by
  unfold State.kyLpbk
  exact ite_canon h0 (ite_canon (ite_canon (lpbkBegin_canon (emit_canon h0)) (emit_canon h0)) (ite_canon (lpbkStop_canon
      h0) h0))
theorem kyLpbkRsp_canon {x0 x1 x2} (h0 : Canon x0) : Canon (@State.kyLpbkRsp x0 x1 x2) := by
  unfold State.kyLpbkRsp
  split
  · exact ite_canon (ite_canon (modMod_canon h0) (lpbkEnd_canon h0)) h0
  · exact h0
theorem wLpbkCtl_canon {x0 x1 x2 x3} (h0 : Canon x0) : CanonR (@State.wLpbkCtl x0 x1 x2 x3) := by
  unfold State.wLpbkCtl
  extract_lets v0 v1 v2
  have c40 : Canon v1 := plainWrite_canon h0
  exact ite_canon (ignored_canon h0) (by
    split
    · exact done_canon (plainWrite_canon h0)
    · exact ite_canon (done_canon (lpbkStop_canon (ite_canon (emit_canon c40) c40))) (done_canon c40)
    · exact ite_canon (done_canon (lpbkBegin_canon (plainWrite_canon h0))) (ignored_canon h0)
    · exact ignored_canon h0)
theorem lpbkLapse_canon {x0 x1 x2 x3} (h0 : Canon x0) : Canon (@State.lpbkLapse x0 x1 x2 x3) := by
  unfold State.lpbkLapse
  exact ite_canon (lpbkEnd_canon h0) h0
theorem drainEnd_canon {x0 x1} (h0 : Canon x0) : Canon (@State.drainEnd x0 x1) := by
  unfold State.drainEnd
  exact ite_canon (excludeMod_canon h0) h0
theorem drainTimeout_canon {x0 x1} (h0 : Canon x0) : Canon (@State.drainTimeout x0 x1) := by
  unfold State.drainTimeout
  exact ite_canon (excludeMod_canon h0) h0
theorem detectTimeout_canon {x0 x1} (h0 : Canon x0) : Canon (@State.detectTimeout x0 x1) := by
  unfold State.detectTimeout
  exact ite_canon (setStage_canon h0) h0
theorem refuseL1_canon {x0 x1} (h0 : Canon x0) : Canon (@State.refuseL1 x0 x1) := by
  unfold State.refuseL1
  exact h0
theorem makePrimary_canon {x0 x1} (h0 : Canon x0) : Canon (@State.makePrimary x0 x1) := by
  unfold State.makePrimary
  exact ite_canon (Canon.upd h0) (Canon.upd h0)
theorem settlePrimary_canon {x0} (h0 : Canon x0) : Canon (@State.settlePrimary x0) := by
  unfold State.settlePrimary
  split
  · exact makePrimary_canon h0
  · exact h0
theorem wUciCtl_canon {x0 x1 x2 x3} (h0 : Canon x0) : CanonR (@State.wUciCtl x0 x1 x2 x3) := by
  unfold State.wUciCtl
  extract_lets v0 v1
  have c40 : Canon v1 := plainWrite_canon h0
  exact ite_canon (ignored_canon h0) (by
    split
    · exact done_canon c40
    · exact ite_canon (done_canon (startRetrain_canon c40)) (ignored_canon h0)
    · exact done_canon (moduleBoundary_canon c40)
    · exact ite_canon (done_canon (makePrimary_canon c40)) (ignored_canon h0)
    · exact ite_canon (done_canon (setStage_canon c40)) (ignored_canon h0)
    · exact ite_canon (done_canon (excludeMod_canon c40)) (ignored_canon h0)
    · exact ite_canon (done_canon (modMod_canon (startTraining_canon c40))) (ignored_canon h0)
    · exact ignored_canon h0)
theorem wUciCtlFatal_canon {x0 x1 x2} (h0 : Canon x0) : CanonR (@State.wUciCtlFatal x0 x1 x2) := by
  unfold State.wUciCtlFatal
  exact ite_canon (done_canon (makePrimary_canon h0)) (ignored_canon h0)

/-! ### Machine/Repair.lean -/

theorem setLedger_canon {x0 x1 x2} (h0 : Canon x0) : Canon (@State.setLedger x0 x1 x2) := by
  unfold State.setLedger
  extract_lets v0
  exact Canon.upd h0
theorem ledgerPut_canon {x0 x1} (h0 : Canon x0) : CanonO (@State.ledgerPut x0 x1) := by
  unfold State.ledgerPut
  extract_lets v0
  split
  · exact CanonO.some (setLedger_canon (setLedger_canon h0))
  · exact CanonO.some (setLedger_canon h0)
  · exact CanonO.some (setLedger_canon h0)
  · exact CanonO.none
theorem ledgerLost_canon {x0 x1} (h0 : Canon x0) : Canon (@State.ledgerLost x0 x1) := by
  unfold State.ledgerLost
  split
  · exact setLedger_canon h0
  · exact h0
theorem ledgerQueue_canon {x0 x1} (h0 : Canon x0) : Canon (@State.ledgerQueue x0 x1) := by
  unfold State.ledgerQueue
  extract_lets v0
  exact Canon.upd h0
theorem setRepairs_canon {x0 x1} (h0 : Canon x0) : Canon (@State.setRepairs x0 x1) := by
  unfold State.setRepairs
  exact Canon.upd h0
theorem useSpare_canon {x0 x1} (h0 : Canon x0) : Canon (@State.useSpare x0 x1) := by
  unfold State.useSpare
  extract_lets v0
  exact setRepairs_canon h0
theorem leaveSpare_canon {x0 x1} (h0 : Canon x0) : Canon (@State.leaveSpare x0 x1) := by
  unfold State.leaveSpare
  extract_lets v0
  exact setRepairs_canon h0
theorem spareForRow_canon {x0 x1 x2} (h0 : Canon x0) : Canon (@State.spareForRow x0 x1 x2) := by
  unfold State.spareForRow
  extract_lets v0 v1 v2
  have c41 : Canon v0 := by
    unfold v0
    split
    · exact leaveSpare_canon h0
    · exact h0
  have c40 : Canon v1 := useSpare_canon c41
  exact setRepairs_canon c40
theorem spareForCol_canon {x0 x1 x2 x3} (h0 : Canon x0) : Canon (@State.spareForCol x0 x1 x2 x3) := by
  unfold State.spareForCol
  extract_lets v0 v1 v2 v3
  have c41 : Canon v0 := foldl_canon h0 (fun _ _ k42 => ite_canon (leaveSpare_canon k42) k42)
  have c40 : Canon v1 := useSpare_canon c41
  exact setRepairs_canon c40
theorem setSpare_canon {x0 x1 x2 x3} (h0 : Canon x0) : Canon (@State.setSpare x0 x1 x2 x3) := by
  unfold State.setSpare
  extract_lets v0
  have c40 : Canon v0 := modChan_canon h0
  exact setFld_canon c40
theorem spareForCond_canon {x0 x1 x2} (h0 : Canon x0) : Canon (@State.spareForCond x0 x1 x2) := by
  unfold State.spareForCond
  exact setSpare_canon (useSpare_canon h0)
theorem spareCond_canon {x0 x1 x2 x3} (h0 : Canon x0) : Canon (@State.spareCond x0 x1 x2 x3) := by
  unfold State.spareCond
  exact ledgerQueue_canon (spareForCond_canon h0)
theorem retireRow_canon {x0 x1} (h0 : Canon x0) : Canon (@State.retireRow x0 x1) := by
  unfold State.retireRow
  extract_lets v0
  exact setRepairs_canon h0
theorem emptyRetired_canon {x0 x1} (h0 : Canon x0) : Canon (@State.emptyRetired x0 x1) := by
  unfold State.emptyRetired
  extract_lets v0
  split
  · extract_lets v40
    have c80 : Canon v40 := setSlot_canon h0
    exact ite_canon h0 (Canon.upd c80)
  · exact h0
theorem tellEngine_canon {x0 x1 x2} (h0 : Canon x0) : Canon (@State.tellEngine x0 x1 x2) := by
  unfold State.tellEngine
  exact modEng_canon h0
theorem chanRetired_canon {x0 x1} (h0 : Canon x0) : Canon (@State.chanRetired x0 x1) := by
  unfold State.chanRetired
  extract_lets v0
  exact settle_canon (foldl_canon (setChState_canon h0) (fun _ _ k40 => formReply_canon k40))
theorem ledgerOutcome_canon {x0 x1 x2} (h0 : Canon x0) : Canon (@State.ledgerOutcome x0 x1 x2) := by
  unfold State.ledgerOutcome
  split
  · extract_lets v40
    have c80 : Canon v40 := setFlag_canon h0
    exact ite_canon (chanRetired_canon c80) c80
  · extract_lets v81
    have c121 : Canon v81 := emptyRetired_canon h0
    exact tellEngine_canon (ite_canon (retireRow_canon c121) c121)
  · exact tellEngine_canon h0
  · exact tellEngine_canon h0
  · exact logRowAction_canon (ite_canon (retireRow_canon (emptyRetired_canon h0)) h0)
  · exact logRowAction_canon h0
  · exact h0
theorem ledgerWriteDone_canon {x0 x1} (h0 : Canon x0) : Canon (@State.ledgerWriteDone x0 x1) := by
  unfold State.ledgerWriteDone
  extract_lets v0
  exact ite_canon h0 (by
    split
    · exact h0
    · extract_lets v80
      have c120 : Canon v80 := Canon.upd h0
      have c120 : Canon v80 := Canon.upd h0
      split
      · exact ledgerOutcome_canon (CanonO.of (by assumption) (ite_canon (ledgerPut_canon c120) CanonO.none))
      · exact ledgerOutcome_canon (raise_canon (ledgerLost_canon c120)))
theorem fuseSpare_canon {x0 x1} (h0 : Canon x0) : Canon (@State.fuseSpare x0 x1) := by
  unfold State.fuseSpare
  extract_lets v0 v1
  have c40 : Canon v0 := useSpare_canon h0
  exact setRepairs_canon c40
theorem applyFuse_canon {x0 x1} (h0 : Canon x0) : Canon (@State.applyFuse x0 x1) := by
  unfold State.applyFuse
  extract_lets v0 v1 v2
  split
  · exact fuseSpare_canon (spareForRow_canon h0)
  · exact fuseSpare_canon (spareForCol_canon h0)
  · exact fuseSpare_canon (spareForCond_canon h0)
theorem setFuse_canon {x0 x1 x2} (h0 : Canon x0) : Canon (@State.setFuse x0 x1 x2) := by
  unfold State.setFuse
  extract_lets v0
  exact Canon.upd h0
theorem applyFuses_canon {x0} (h0 : Canon x0) : Canon (@State.applyFuses x0) := by
  unfold State.applyFuses
  extract_lets v0 v1 v2
  exact setFld_canon (setFld_canon (foldl_canon h0 (fun _ _ k40 => applyFuse_canon k40)))
theorem applyEntry_canon {x0 x1} (h0 : Canon x0) : Canon (@State.applyEntry x0 x1) := by
  unfold State.applyEntry
  extract_lets v0
  split
  · exact spareForRow_canon h0
  · exact retireRow_canon h0
  · exact spareForCol_canon h0
  · exact spareForCond_canon h0
  · exact setChState_canon h0
  · exact h0
theorem skipEntry_canon {x0} (h0 : Canon x0) : Canon (@State.skipEntry x0) := by
  unfold State.skipEntry
  exact bump_canon (raise_canon h0)
theorem applyLedger_canon {x0 x1} (h0 : Canon x0) : Canon (@State.applyLedger x0 x1) := by
  unfold State.applyLedger
  exact (foldl_canon (CanonP.mk' (setFld_canon h0)) (fun _ _ k0 => ite_canon (CanonP.mk' (skipEntry_canon (k0).ok))
      (CanonP.mk' (applyEntry_canon (k0).ok)))).ok
theorem wLdgCtl_canon {x0 x1 x2} (h0 : Canon x0) : CanonR (@State.wLdgCtl x0 x1 x2) := by
  unfold State.wLdgCtl
  extract_lets v0 v1 v2 v3
  have c40 : Canon v2 := setFlag_canon (plainWrite_canon h0)
  exact ite_canon (ignored_canon h0) (ite_canon (deny_canon h0) (ite_canon (ignored_canon h0) (done_canon (Canon.upd
      c40))))
theorem ledgerResult_canon {x0 x1} (h0 : Canon x0) : Canon (@State.ledgerResult x0 x1) := by
  unfold State.ledgerResult
  extract_lets v0 v1
  have c40 : Canon v1 := Canon.upd h0
  exact latch_canon (setFld_canon (setFlag_canon c40))
theorem ledgerFuse_canon {x0 x1 x2 x3} (h0 : Canon x0) : Canon (@State.ledgerFuse x0 x1 x2 x3) := by
  unfold State.ledgerFuse
  split
  · exact ledgerResult_canon h0
  · exact ite_canon (ledgerResult_canon (setLedger_canon (setFuse_canon h0))) (ledgerResult_canon (raise_canon
        (setFuse_canon (useFree_canon h0))))
theorem ledgerActionEnd_canon {x0 x1} (h0 : Canon x0) : Canon (@State.ledgerActionEnd x0 x1) := by
  unfold State.ledgerActionEnd
  exact ite_canon h0 (by
    split
    · exact h0
    · extract_lets v80 v81
      exact ite_canon (ite_canon (ledgerResult_canon h0) (ite_canon (ledgerResult_canon h0) (by
        split
        · exact ledgerResult_canon (CanonO.of (by assumption) (ite_canon (ledgerPut_canon h0) CanonO.none))
        · exact ledgerResult_canon (raise_canon (ledgerLost_canon h0))))) (by
        clear_value v80
        split
        · exact ledgerResult_canon h0
        · exact ite_canon (ite_canon (ledgerResult_canon (setLedger_canon h0)) (ledgerResult_canon (raise_canon h0)))
              (ite_canon (ledgerFuse_canon h0) (ledgerResult_canon h0))))
theorem wFuseCtl_canon {x0 x1 x2} (h0 : Canon x0) : CanonR (@State.wFuseCtl x0 x1 x2) := by
  unfold State.wFuseCtl
  extract_lets v0 v1 v2 v3 v4
  have c40 : Canon v3 := setFlag_canon (setFlag_canon (setReg_canon (setReg_canon (plainWrite_canon h0))))
  exact ite_canon (ite_canon (deny_canon h0) (ite_canon (ignored_canon h0) (done_canon (Canon.upd c40)))) (done_canon
      (setFlag_canon (setReg_canon (setReg_canon (plainWrite_canon h0)))))
theorem fuseCancelEnd_canon {x0 x1} (h0 : Canon x0) : Canon (@State.fuseCancelEnd x0 x1) := by
  unfold State.fuseCancelEnd
  extract_lets v0 v1
  have c40 : Canon v1 := Canon.upd h0
  have c40 : Canon v1 := Canon.upd h0
  split
  · exact h0
  · extract_lets v41
    have c81 : Canon v41 := ite_canon (setFuse_canon c40) c40
    exact latch_canon (setFld_canon (setFlag_canon c81))
theorem wLdgIdx_canon {x0 x1 x2} (h0 : Canon x0) : CanonR (@State.wLdgIdx x0 x1 x2) := by
  unfold State.wLdgIdx
  extract_lets v0 v1 v2
  have c41 : Canon v0 := plainWrite_canon h0
  have c40 : Canon v2 := each_canon c41 (fun _ _ k42 => setReg_canon k42)
  exact done_canon (setFlag_canon (setFlag_canon c40))
theorem wTstIdx_canon {x0 x1 x2} (h0 : Canon x0) : CanonR (@State.wTstIdx x0 x1 x2) := by
  unfold State.wTstIdx
  extract_lets v0 v1
  have c40 : Canon v0 := plainWrite_canon h0
  exact done_canon (setFlag_canon (each_canon c40 (fun _ _ k41 => setReg_canon k41)))

/-! ### Machine/Calib.lean -/

theorem spoilSlots_canon {x0 x1} (h0 : Canon x0) : Canon (@State.spoilSlots x0 x1) := by
  unfold State.spoilSlots
  exact each_canon h0 (fun _ _ k40 => ite_canon (Canon.upd k40) k40)
theorem forceSlot_canon {x0 x1 x2 x3} (h0 : Canon x0) : Canon (@State.forceSlot x0 x1 x2 x3) := by
  unfold State.forceSlot
  extract_lets v0
  have c40 : Canon v0 := setFld_canon (setFlag_canon (setFld_canon (setFlag_canon h0)))
  exact Canon.upd c40
theorem loadRecord_canon {x0 x1} (h0 : Canon x0) : Canon (@State.loadRecord x0 x1) := by
  unfold State.loadRecord
  extract_lets v0
  have c40 : Canon v0 := setFlag_canon (setFlag_canon h0)
  have c40 : Canon v0 := setFlag_canon (setFlag_canon h0)
  split
  · exact forceSlot_canon h0
  · exact raiseCond_canon (Canon.upd c40)
theorem settleCalStore_canon {x0} (h0 : Canon x0) : Canon (@State.settleCalStore x0) := by
  unfold State.settleCalStore
  exact ite_canon (clearSafeCause_canon (endCondition_canon h0)) h0
theorem putSlot_canon {x0 x1 x2} (h0 : Canon x0) : Canon (@State.putSlot x0 x1 x2) := by
  unfold State.putSlot
  extract_lets v0 v1 v2
  exact Canon.upd h0
theorem commitSlot_canon {x0 x1 x2} (h0 : Canon x0) : Canon (@State.commitSlot x0 x1 x2) := by
  unfold State.commitSlot
  extract_lets v0 v1
  have c40 : Canon v1 := forceSlot_canon (putSlot_canon h0)
  exact settleCalStore_canon (setFlag_canon (Canon.upd c40))
theorem commitStart_canon {x0 x1} (h0 : Canon x0) : Canon (@State.commitStart x0 x1) := by
  unfold State.commitStart
  extract_lets v0
  exact ite_canon (Canon.upd h0) h0
theorem calRecordCommit_canon {x0 x1} (h0 : Canon x0) : Canon (@State.calRecordCommit x0 x1) := by
  unfold State.calRecordCommit
  exact ite_canon (commitStart_canon (by
    split
    · exact advanceTo_canon h0
    · exact h0)) h0
theorem commitFailed_canon {x0 x1} (h0 : Canon x0) : Canon (@State.commitFailed x0 x1) := by
  unfold State.commitFailed
  extract_lets v0 v1
  have c40 : Canon v1 := Canon.upd h0
  exact raise_canon (Canon.upd c40)
theorem checkSlot_canon {x0 x1 x2} (h0 : Canon x0) : Canon (@State.checkSlot x0 x1 x2) := by
  unfold State.checkSlot
  exact ite_canon (commitSlot_canon h0) (commitFailed_canon (putSlot_canon h0))
theorem calCommitDone_canon {x0 x1 x2} (h0 : Canon x0) : Canon (@State.calCommitDone x0 x1 x2) := by
  unfold State.calCommitDone
  extract_lets v0 v1
  have c40 : Canon v1 := Canon.upd h0
  have c40 : Canon v1 := Canon.upd h0
  split
  · exact h0
  · exact ite_canon (commitFailed_canon c40) (ite_canon (checkSlot_canon c40) h0)
theorem commitPending_canon {x0} (h0 : Canon x0) : Canon (@State.commitPending x0) := by
  unfold State.commitPending
  exact each_canon h0 (fun _ _ k40 => ite_canon (checkSlot_canon (Canon.upd k40)) k40)
theorem putResult_canon {x0 x1 x2 x3} (h0 : Canon x0) : Canon (@State.putResult x0 x1 x2 x3) := by
  unfold State.putResult
  extract_lets v0
  exact setFlag_canon (Canon.upd h0)
theorem putTrims_canon {x0 x1 x2 x3 x4} (h0 : Canon x0) : Canon (@State.putTrims x0 x1 x2 x3 x4) := by
  unfold State.putTrims
  exact foldl_canon h0 (fun _ _ k40 => putResult_canon k40)
theorem spareOne_canon {x0 x1 x2 x3} (h0 : Canon x0) : CanonP (@State.spareOne x0 x1 x2 x3) := by
  unfold State.spareOne
  exact ite_canon (CanonP.mk' h0) (ite_canon (CanonP.mk' (spareCond_canon h0)) (CanonP.mk' h0))
theorem spareList_canon {x0 x1 x2 x3} (h0 : Canon x0) : CanonP (@State.spareList x0 x1 x2 x3) := by
  unfold State.spareList
  exact foldl_canon (CanonP.mk' h0) (fun _ _ k40 => CanonP.mk' ((spareOne_canon (k40).ok).ok))
theorem spareAll_canon {x0 x1 x2 x3} (h0 : Canon x0) : Canon (@State.spareAll x0 x1 x2 x3) := by
  unfold State.spareAll
  exact (spareList_canon h0).ok
theorem sweepCodes_canon {x0 x1 x2 x3 x4 x5 x6} (h0 : Canon x0) : Canon (@State.sweepCodes x0 x1 x2 x3 x4 x5 x6) := by
  unfold State.sweepCodes
  extract_lets v0 v1
  have c40 : Canon v1 := modChan_canon (putResult_canon h0)
  exact spareAll_canon (setFld_canon c40)
theorem sweepChannel_canon {x0 x1 x2 x3 x4 x5 x6} (h0 : Canon x0) : Canon (@State.sweepChannel x0 x1 x2 x3 x4 x5 x6) :=
    by
  unfold State.sweepChannel
  exact putTrims_canon (sweepCodes_canon h0)
theorem updateDue_canon {x0 x1} (h0 : Canon x0) : Canon (@State.updateDue x0 x1) := by
  unfold State.updateDue
  extract_lets v0 v1 v2
  exact setFlag_canon h0
theorem settleDue_canon {x0 x1} (h0 : Canon x0) (h1 : Canon x1) : Canon (@State.settleDue x0 x1) := by
  unfold State.settleDue
  exact ite_canon h0 (each_canon h0 (fun _ _ k0 => updateDue_canon k0))
theorem runStart_canon {x0 x1 x2 x3} (h0 : Canon x0) : Canon (@State.runStart x0 x1 x2 x3) := by
  unfold State.runStart
  extract_lets v0
  have c40 : Canon v0 := modChan_canon (setChState_canon h0)
  exact updateDue_canon (setFlag_canon (setFld_canon c40))
theorem chanOnline_canon {x0 x1 x2} (h0 : Canon x0) : Canon (@State.chanOnline x0 x1 x2) := by
  unfold State.chanOnline
  exact admitHeld_canon (setChState_canon h0)
theorem chanDrain_canon {x0 x1 x2} (h0 : Canon x0) : Canon (@State.chanDrain x0 x1 x2) := by
  unfold State.chanDrain
  exact modChan_canon (setChState_canon h0)
theorem runOver_canon {x0 x1} (h0 : Canon x0) : Canon (@State.runOver x0 x1) := by
  unfold State.runOver
  exact updateDue_canon (setFlag_canon (modChan_canon h0))
theorem sweepFailed_canon {x0 x1 x2 x3} (h0 : Canon x0) : Canon (@State.sweepFailed x0 x1 x2 x3) := by
  unfold State.sweepFailed
  exact spareAll_canon (setFld_canon (modChan_canon h0))
theorem retrainRunEnd_canon {x0 x1 x2} (h0 : Canon x0) : Canon (@State.retrainRunEnd x0 x1 x2) := by
  unfold State.retrainRunEnd
  extract_lets v0 v1 v2
  have c41 : Canon v0 := sweepChannel_canon h0
  have c40 : Canon v2 := ite_canon (raise_canon (sweepFailed_canon h0)) c41
  exact endRun_canon (setChState_canon (runOver_canon c40))
theorem driftRunEnd_canon {x0 x1 x2} (h0 : Canon x0) : Canon (@State.driftRunEnd x0 x1 x2) := by
  unfold State.driftRunEnd
  extract_lets v0 v1 v2 v3 v4
  have c41 : Canon v1 := sweepFailed_canon h0
  have c42 : Canon v0 := sweepChannel_canon h0
  have c40 : Canon v4 := endRun_canon (runOver_canon (ite_canon c41 c42))
  exact ite_canon (raise_canon (chanOffline_canon c40)) (chanOnline_canon (setChState_canon c40))
theorem ctlRunEnd_canon {x0 x1} (h0 : Canon x0) : Canon (@State.ctlRunEnd x0 x1) := by
  unfold State.ctlRunEnd
  extract_lets v0 v1 v2
  have c40 : Canon v0 := setFlag_canon (Canon.upd h0)
  have c40 : Canon v0 := setFlag_canon (Canon.upd h0)
  split
  · exact h0
  · split
    · exact ite_canon (endRun_canon (putResult_canon c40)) (endRun_canon c40)
    · exact ite_canon (endRun_canon (putResult_canon c40)) (endRun_canon c40)
    · exact ite_canon (endRun_canon c40) h0
theorem calRunEnd_canon {x0 x1} (h0 : Canon x0) : Canon (@State.calRunEnd x0 x1) := by
  unfold State.calRunEnd
  split
  · exact ctlRunEnd_canon h0
  · exact ite_canon h0 (by
      split
      · exact retrainRunEnd_canon h0
      · exact driftRunEnd_canon h0
      · exact h0)
theorem wCalCtl_canon {x0 x1 x2} (h0 : Canon x0) : CanonR (@State.wCalCtl x0 x1 x2) := by
  unfold State.wCalCtl
  extract_lets v0 v1 v2
  have c41 : Canon v1 := setFlag_canon (plainWrite_canon h0)
  have c40 : Canon v2 := Canon.upd c41
  exact ite_canon (ignored_canon h0) (ite_canon (done_canon (plainWrite_canon h0)) (ite_canon (deny_canon h0) (ite_canon
      (ignored_canon h0) (done_canon (ite_canon (each_canon c40 (fun _ _ k42 => commitStart_canon k42)) c40)))))
theorem driftRunStart_canon {x0 x1} (h0 : Canon x0) : Canon (@State.driftRunStart x0 x1) := by
  unfold State.driftRunStart
  extract_lets v0
  exact ite_canon (modChan_canon (chanDrain_canon (advanceTo_canon h0))) h0
theorem suspectCheck_canon {x0 x1 x2} (h0 : Canon x0) : Canon (@State.suspectCheck x0 x1 x2) := by
  unfold State.suspectCheck
  extract_lets v0 v1 v2
  have c40 : Canon v2 := ite_canon (updateDue_canon (modChan_canon h0)) (spareAll_canon h0)
  exact ite_canon (setFlag_canon c40) h0
theorem wVptProbe_canon {x0 x1 x2 x3} (h0 : Canon x0) : CanonR (@State.wVptProbe x0 x1 x2 x3) := by
  unfold State.wVptProbe
  extract_lets v0 v1 v2
  have c40 : Canon v2 := plainWrite_canon h0
  exact ite_canon (ignored_canon h0) (done_canon (setFlag_canon (setFld_canon (setFld_canon c40))))
theorem commitNow_canon {x0 x1 x2} (h0 : Canon x0) : Canon (@State.commitNow x0 x1 x2) := by
  unfold State.commitNow
  exact ite_canon (raise_canon h0) (checkSlot_canon h0)
theorem fullChannel_canon {x0 x1 x2} (h0 : Canon x0) : CanonP (@State.fullChannel x0 x1 x2) := by
  unfold State.fullChannel
  extract_lets v0 v1 v2 v3 v4 v5 v6
  have c42 : Canon v3 := modChan_canon (setFld_canon h0)
  have c41 : Canon v4 := sweepCodes_canon (sweepChannel_canon c42)
  have c40 : Canon v6 := ite_canon c41 (sweepFailed_canon (sweepFailed_canon c42))
  exact CanonP.mk' (updateDue_canon (setFld_canon c40))
theorem trainFail_canon {x0 x1} (h0 : Canon x0) : Canon (@State.trainFail x0 x1) := by
  unfold State.trainFail
  exact raise_canon (setChState_canon h0)
theorem fullTier_canon {x0 x1 x2 x3} (h0 : Canon x0) : CanonP (@State.fullTier x0 x1 x2 x3) := by
  unfold State.fullTier
  extract_lets v0 v1
  have c40 : CanonP v1 := foldl_canon (CanonP.mk' (putResult_canon (putResult_canon h0))) (fun _ _ k41 => ite_canon
      (CanonP.mk' ((fullChannel_canon (k41).ok).ok)) (CanonP.mk' (trainFail_canon ((fullChannel_canon (k41).ok).ok))))
  exact CanonP.mk' (foldl_canon (c40).ok (fun _ _ k42 => commitNow_canon k42))
theorem checkChannel_canon {x0 x1 x2} (h0 : Canon x0) : CanonP (@State.checkChannel x0 x1 x2) := by
  unfold State.checkChannel
  extract_lets v0
  have c40 : Canon v0 := spareAll_canon (modChan_canon h0)
  exact CanonP.mk' c40
theorem restoreChannel_canon {x0 x1 x2} (h0 : Canon x0) : CanonP (@State.restoreChannel x0 x1 x2) := by
  unfold State.restoreChannel
  extract_lets v0
  have c40 : Canon v0 := setFld_canon (modChan_canon h0)
  exact checkChannel_canon (updateDue_canon c40)
theorem step7Tier_canon {x0 x1 x2} (h0 : Canon x0) : CanonP (@State.step7Tier x0 x1 x2) := by
  unfold State.step7Tier
  extract_lets v0 v1 v2 v3
  have c40 : CanonP v1 := fullTier_canon h0
  have c41 : CanonP v2 := foldl_canon (CanonP.mk' h0) (fun _ _ k42 => ite_canon (CanonP.mk' ((restoreChannel_canon
      (k42).ok).ok)) (CanonP.mk' ((restoreChannel_canon (k42).ok).ok)))
  have c43 : CanonP v3 := fullTier_canon (c41).ok
  exact ite_canon (CanonP.mk' (c40).ok) (ite_canon (CanonP.mk' (c41).ok) (CanonP.mk' (c43).ok))
theorem endFull_canon {x0 x1 x2 x3} (h0 : Canon x0) : Canon (@State.endFull x0 x1 x2 x3) := by
  unfold State.endFull
  extract_lets v0
  exact endRun_canon h0
theorem step7_canon {x0 x1} (h0 : Canon x0) : CanonP (@State.step7 x0 x1) := by
  unfold State.step7
  extract_lets v0 v1 v2 v3 v4 v5 v6 v7
  have c43 : CanonP v0 := foldl_canon (CanonP.mk' h0) (fun _ _ k44 => CanonP.mk' ((step7Tier_canon (k44).ok).ok))
  have c42 : Canon v4 := setFlag_canon (setFlag_canon (c43).ok)
  have c41 : Canon v6 := ite_canon (setFlag_canon c42) c42
  have c40 : Canon v7 := endRun_canon c41
  exact CanonP.mk' (foldl_canon c40 (fun _ _ k45 => endFull_canon k45))

/-! ### Machine/Refresh.lean -/

theorem charge_canon {x0 x1 x2 x3} (h0 : Canon x0) : Canon (@State.charge x0 x1 x2 x3) := by
  unfold State.charge
  extract_lets v0
  exact Canon.upd h0
theorem chargeRefresh_canon {x0 x1 x2} (h0 : Canon x0) : Canon (@State.chargeRefresh x0 x1 x2) := by
  unfold State.chargeRefresh
  extract_lets v0 v1
  have c40 : Canon v0 := wake_canon h0
  exact Canon.upd c40
theorem stall_canon {x0 x1 x2} (h0 : Canon x0) : Canon (@State.stall x0 x1 x2) := by
  unfold State.stall
  exact ite_canon h0 (modChan_canon (bump_canon (countCh_canon h0)))
theorem takeSpare_canon {x0 x1} (h0 : Canon x0) : Canon (@State.takeSpare x0 x1) := by
  unfold State.takeSpare
  extract_lets v0
  exact ite_canon h0 (Canon.upd h0)
theorem targetedRefresh_canon {x0 x1 x2 x3 x4 x5} (h0 : Canon x0) : Canon (@State.targetedRefresh x0 x1 x2 x3 x4 x5) :=
    by
  unfold State.targetedRefresh
  extract_lets v0 v1
  have c41 : Canon v0 := charge_canon h0
  have c40 : Canon v1 := countCh_canon c41
  exact ite_canon (bump_canon c40) c40
theorem track_canon {x0 x1 x2} (h0 : Canon x0) : Canon (@State.track x0 x1 x2) := by
  unfold State.track
  extract_lets v0 v1 v2 v3
  have c40 : Canon v3 := modChan_canon (countCh_canon h0)
  exact ite_canon (targetedRefresh_canon c40) c40
theorem activatePhys_canon {x0 x1 x2 x3} (h0 : Canon x0) : Canon (@State.activatePhys x0 x1 x2 x3) := by
  unfold State.activatePhys
  exact track_canon (takeSpare_canon (charge_canon (wake_canon h0)))
theorem activate_canon {x0 x1 x2 x3} (h0 : Canon x0) : Canon (@State.activate x0 x1 x2 x3) := by
  unfold State.activate
  exact activatePhys_canon h0
theorem trackFill_canon {x0 x1} (h0 : Canon x0) : Canon (@State.trackFill x0 x1) := by
  unfold State.trackFill
  exact each_canon h0 (fun _ _ k0 => each_canon k0 (fun _ _ k1 => track_canon k1))
theorem restartTrackers_canon {x0 x1} (h0 : Canon x0) : Canon (@State.restartTrackers x0 x1) := by
  unfold State.restartTrackers
  extract_lets v0
  exact modChan_canon h0
theorem lapStep_canon {x0 x1 x2} (h0 : Canon x0) : Canon (@State.lapStep x0 x1 x2) := by
  unfold State.lapStep
  extract_lets v0
  have c40 : Canon v0 := modChan_canon h0
  exact ite_canon (clearTracker_canon c40) c40
theorem spineStop_canon {x0 x1} (h0 : Canon x0) : Canon (@State.spineStop x0 x1) := by
  unfold State.spineStop
  exact ite_canon (Canon.upd h0) h0
theorem dieSelfRefresh_canon {x0 x1 x2} (h0 : Canon x0) : Canon (@State.dieSelfRefresh x0 x1 x2) := by
  unfold State.dieSelfRefresh
  extract_lets v0 v1
  exact ite_canon (modChan_canon h0) h0
theorem noteLow_canon {x0 x1} (h0 : Canon x0) : Canon (@State.noteLow x0 x1) := by
  unfold State.noteLow
  extract_lets v0 v1
  exact modChan_canon h0
theorem tickNow_canon {x0 x1} (h0 : Canon x0) : Canon (@State.tickNow x0 x1) := by
  unfold State.tickNow
  extract_lets v0 v1
  have c41 : Canon v0 := ite_canon h0 (applyShadows_canon h0)
  have c40 : Canon v1 := setFld_canon (setFld_canon c41)
  exact modChan_canon c40
theorem refreshTick_canon {x0 x1} (h0 : Canon x0) : Canon (@State.refreshTick x0 x1) := by
  unfold State.refreshTick
  extract_lets v0 v1
  have c41 : Canon v0 := advanceTo_canon h0
  have c40 : Canon v1 := modChan_canon c41
  exact ite_canon h0 (ite_canon (modChan_canon c40) (tickNow_canon c40))
theorem issueOwed_canon {x0 x1} (h0 : Canon x0) : Canon (@State.issueOwed x0 x1) := by
  unfold State.issueOwed
  exact foldl_canon (modChan_canon h0) (fun _ _ k40 => tickNow_canon k40)
theorem afterClose_canon {x0 x1 x2} (h0 : Canon x0) : Canon (@State.afterClose x0 x1 x2) := by
  unfold State.afterClose
  exact Canon.upd h0
theorem refreshEnd_canon {x0 x1 x2} (h0 : Canon x0) : Canon (@State.refreshEnd x0 x1 x2) := by
  unfold State.refreshEnd
  exact ite_canon (afterClose_canon (modChan_canon (lapStep_canon h0))) h0
theorem wFpointNext_canon {x0 x1 x2} (h0 : Canon x0) : CanonR (@State.wFpointNext x0 x1 x2) := by
  unfold State.wFpointNext
  extract_lets v0 v1
  exact ite_canon (done_canon (plainWrite_canon h0)) (ignored_canon h0)

/-! ### Machine/Thermal.lean -/

theorem sampleSensor_canon {x0 x1 x2} (h0 : Canon x0) : Canon (@State.sampleSensor x0 x1 x2) := by
  unfold State.sampleSensor
  extract_lets v0 v1 v2 v3
  have c40 : Canon v2 := setFld_canon (setFlag_canon (setFlag_canon h0))
  exact ite_canon (Canon.upd c40) c40
theorem setDistrust_canon {x0 x1 x2} (h0 : Canon x0) : Canon (@State.setDistrust x0 x1 x2) := by
  unfold State.setDistrust
  extract_lets v0 v1
  have c40 : Canon v1 := setFlag_canon (setFld_canon h0)
  exact ite_canon (ite_canon h0 (raiseCond_canon (setFlag_canon (setFld_canon (setFld_canon h0))))) (ite_canon
      (ite_canon (endCondition_canon c40) c40) h0)
theorem distrustStep_canon {x0 x1 x2 x3} (h0 : Canon x0) : Canon (@State.distrustStep x0 x1 x2 x3) := by
  unfold State.distrustStep
  extract_lets v0 v1 v2
  split
  · exact setDistrust_canon (Canon.upd h0)
  · extract_lets v40
    exact ite_canon (setDistrust_canon (Canon.upd h0)) (ite_canon (ite_canon (setDistrust_canon (Canon.upd h0))
        (Canon.upd h0)) (Canon.upd h0))
theorem setPeriod_canon {x0 x1} (h0 : Canon x0) : Canon (@State.setPeriod x0 x1) := by
  unfold State.setPeriod
  extract_lets v0
  exact ite_canon (setFld_canon h0) (setReg_canon h0)
theorem setMaxima_canon {x0} (h0 : Canon x0) : Canon (@State.setMaxima x0) := by
  unfold State.setMaxima
  extract_lets v0 v1 v2 v3
  exact setFld_canon (setFld_canon (setFld_canon (setFld_canon h0)))
theorem sampleDie_canon {x0 x1} (h0 : Canon x0) : Canon (@State.sampleDie x0 x1) := by
  unfold State.sampleDie
  extract_lets v0 v1 v2
  have c40 : Canon v2 := distrustStep_canon h0
  exact ite_canon h0 (setFld_canon (setFld_canon (setFld_canon (setFlag_canon c40))))
theorem setSteps_canon {x0 x1 x2} (h0 : Canon x0) : Canon (@State.setSteps x0 x1 x2) := by
  unfold State.setSteps
  exact setFld_canon (setFld_canon (setFld_canon h0))
theorem thermalStep_canon {x0 x1} (h0 : Canon x0) : Canon (@State.thermalStep x0 x1) := by
  unfold State.thermalStep
  extract_lets v0 v1 v2 v3 v4 v5 v6 v7 v8 v9 v10 v11 v12
  have c43 : Canon v9 := Canon.upd h0
  have c42 : Canon v10 := setSteps_canon c43
  have c41 : Canon v11 := ite_canon (raise_canon (bump_canon c42)) c42
  have c40 : Canon v12 := ite_canon (bump_canon c41) c41
  exact ite_canon (raiseCond_canon c40) (ite_canon (endCondition_canon c40) c40)
theorem holdFloor_canon {x0} (h0 : Canon x0) : Canon (@State.holdFloor x0) := by
  unfold State.holdFloor
  extract_lets v0 v1
  exact ite_canon h0 (setSteps_canon (Canon.upd h0))
theorem holdExpire_canon {x0 x1} (h0 : Canon x0) : Canon (@State.holdExpire x0 x1) := by
  unfold State.holdExpire
  split
  · extract_lets v40 v41
    have c80 : Canon v40 := advanceTo_canon h0
    exact Canon.upd c80
  · exact h0
theorem trip_canon {x0 x1 x2 x3} (h0 : Canon x0) : Canon (@State.trip x0 x1 x2 x3) := by
  unfold State.trip
  extract_lets v0 v1 v2
  have c40 : Canon v1 := Canon.upd h0
  have c41 : Canon v2 := setFld_canon (setFld_canon (setFlag_canon (setFlag_canon c40)))
  exact ite_canon c40 (raise_canon (Canon.upd c41))
theorem tripStep_canon {x0 x1} (h0 : Canon x0) : Canon (@State.tripStep x0 x1) := by
  unfold State.tripStep
  extract_lets v0 v1 v2 v3
  have c40 : Canon v3 := Canon.upd h0
  exact ite_canon (trip_canon c40) c40
theorem backstopTrip_canon {x0 x1} (h0 : Canon x0) : Canon (@State.backstopTrip x0 x1) := by
  unfold State.backstopTrip
  exact trip_canon h0
theorem keepHistory_canon {x0 x1} (h0 : Canon x0) : Canon (@State.keepHistory x0 x1) := by
  unfold State.keepHistory
  extract_lets v0 v1 v2
  exact Canon.upd h0
theorem measure_canon {x0} (h0 : Canon x0) : Canon (@State.measure x0) := by
  unfold State.measure
  exact useFree_canon (setReg_canon h0)
theorem sensorSample_canon {x0 x1 x2} (h0 : Canon x0) : Canon (@State.sensorSample x0 x1 x2) := by
  unfold State.sensorSample
  extract_lets v0 v1 v2 v3 v4 v5 v6
  have c45 : Canon v0 := by
    unfold v0
    split
    · exact advanceTo_canon h0
    · exact h0
  have c44 : Canon v2 := Canon.upd c45
  have c43 : Canon v3 := foldl_canon c44 (fun _ _ k46 => sampleSensor_canon k46)
  have c42 : Canon v4 := setPeriod_canon (setMaxima_canon (sampleDie_canon c43))
  have c41 : Canon v5 := keepHistory_canon (thermalStep_canon c42)
  have c40 : Canon v6 := ite_canon (measure_canon c41) (foldl_canon c41 (fun _ _ k47 => updateDue_canon (noteLow_canon
      k47)))
  exact ite_canon h0 (tripStep_canon c40)
theorem setEffective_canon {x0} (h0 : Canon x0) : Canon (@State.setEffective x0) := by
  unfold State.setEffective
  exact setFld_canon h0
theorem powerTick_canon {x0} (h0 : Canon x0) : Canon (@State.powerTick x0) := by
  unfold State.powerTick
  extract_lets v0
  have c40 : Canon v0 := setEffective_canon h0
  exact setSteps_canon c40
theorem setShare_canon {x0 x1} (h0 : Canon x0) : Canon (@State.setShare x0 x1) := by
  unfold State.setShare
  extract_lets v0 v1 v2
  have c41 : Canon v0 := setFlag_canon (setFlag_canon (setFld_canon h0))
  have c40 : Canon v1 := endCondition_canon c41
  exact setEffective_canon (Canon.upd c40)
theorem shareLapse_canon {x0} (h0 : Canon x0) : Canon (@State.shareLapse x0) := by
  unfold State.shareLapse
  split
  · extract_lets v40 v41
    have c80 : Canon v40 := setFlag_canon (setFlag_canon (advanceTo_canon h0))
    exact ite_canon (raiseCond_canon (setEffective_canon (Canon.upd c80))) h0
  · exact h0
theorem setLevel_canon {x0 x1} (h0 : Canon x0) : Canon (@State.setLevel x0 x1) := by
  unfold State.setLevel
  extract_lets v0 v1
  have c40 : Canon v1 := setFld_canon h0
  exact ite_canon (ite_canon c40 (raiseCond_canon c40)) (ite_canon (endCondition_canon c40) c40)
theorem settleLevels_canon {x0 x1} (h0 : Canon x0) (h1 : Canon x1) : Canon (@State.settleLevels x0 x1) := by
  unfold State.settleLevels
  exact ite_canon h0 (foldl_canon h0 (fun _ _ k0 => setLevel_canon k0))
theorem restoreLevels_canon {x0} (h0 : Canon x0) : Canon (@State.restoreLevels x0) := by
  unfold State.restoreLevels
  exact foldl_canon h0 (fun _ _ k0 => setLevel_canon (setFld_canon k0))
theorem wearSample_canon {x0 x1} (h0 : Canon x0) : Canon (@State.wearSample x0 x1) := by
  unfold State.wearSample
  extract_lets v0 v1
  exact ite_canon h0 (by
    split
    · exact Canon.upd h0
    · extract_lets v80 v81
      have c120 : Canon v81 := Canon.upd h0
      exact ite_canon (Canon.upd h0) (ite_canon h0 (ite_canon (setLevel_canon (bump_canon (bump_canon c120))) c120)))
theorem wearCheck_canon {x0 x1 x2} (h0 : Canon x0) : Canon (@State.wearCheck x0 x1 x2) := by
  unfold State.wearCheck
  exact ite_canon (foldl_canon h0 (fun _ _ k0 => ite_canon (spareCond_canon k0) (raise_canon k0))) h0
theorem save_canon {x0 x1} (h0 : Canon x0) : Canon (@State.save x0 x1) := by
  unfold State.save
  extract_lets v0
  exact Canon.upd h0
theorem wearRecordWrite_canon {x0} (h0 : Canon x0) : Canon (@State.wearRecordWrite x0) := by
  unfold State.wearRecordWrite
  extract_lets v0 v1
  have c40 : Canon v0 := by
    unfold v0
    split
    · exact advanceTo_canon h0
    · exact h0
  exact ite_canon h0 (Canon.upd c40)
theorem wWearCfg_canon {x0 x1 x2} (h0 : Canon x0) : CanonR (@State.wWearCfg x0 x1 x2) := by
  unfold State.wWearCfg
  extract_lets v0
  exact ite_canon (done_canon (plainWrite_canon h0)) (ignored_canon h0)

/-! ### Machine/Transport.lean -/

theorem protocolError_canon {x0 x1 x2 x3} (h0 : Canon x0) : Canon (@State.protocolError x0 x1 x2 x3) := by
  unfold State.protocolError
  extract_lets v0 v1 v2 v3
  have c41 : Canon v2 := ite_canon h0 (setBoth_canon (setBoth_canon (setBoth_canon h0)))
  have c40 : Canon v3 := raise_canon (modMod_canon (bumpBoth_canon c41))
  exact ite_canon (excludeMod_canon c40) c40
theorem spendReq_canon {x0 x1 x2} (h0 : Canon x0) : Canon (@State.spendReq x0 x1 x2) := by
  unfold State.spendReq
  exact modMod_canon h0
theorem arriveReq_canon {x0 x1 x2} (h0 : Canon x0) : Canon (@State.arriveReq x0 x1 x2) := by
  unfold State.arriveReq
  exact modMod_canon h0
theorem flitError_canon {x0 x1 x2 x3} (h0 : Canon x0) : Canon (@State.flitError x0 x1 x2 x3) := by
  unfold State.flitError
  exact protocolError_canon (modMod_canon h0)
theorem resumeFlit_canon {x0 x1 x2} (h0 : Canon x0) : Canon (@State.resumeFlit x0 x1 x2) := by
  unfold State.resumeFlit
  exact ite_canon (modMod_canon h0) h0
theorem flitAt_canon {x0 x1 x2} (h0 : Canon x0) : Canon (@State.flitAt x0 x1 x2) := by
  unfold State.flitAt
  extract_lets v0
  have c40 : Canon v0 := resumeFlit_canon (wake_canon h0)
  exact ite_canon (countGl_canon c40) c40
theorem dropCells_canon {x0 x1 x2 x3} (h0 : Canon x0) : Canon (@State.dropCells x0 x1 x2 x3) := by
  unfold State.dropCells
  exact ite_canon (spendReq_canon h0) h0
theorem unknownCell_canon {x0 x1 x2 x3} (h0 : Canon x0) : Canon (@State.unknownCell x0 x1 x2 x3) := by
  unfold State.unknownCell
  extract_lets v0
  exact ite_canon (protocolError_canon h0) (flitError_canon h0)
theorem takeMessage_canon {x0 x1 x2 x3 x4 x5} (h0 : Canon x0) : CanonP (@State.takeMessage x0 x1 x2 x3 x4 x5) := by
  unfold State.takeMessage
  extract_lets v0 v1
  have c40 : Canon v1 := flitAt_canon h0
  exact ite_canon (CanonP.mk' h0) (ite_canon (ite_canon (CanonP.mk' (dropCells_canon h0)) (CanonP.mk' h0)) (ite_canon
      (ite_canon (CanonP.mk' h0) (CanonP.mk' (unknownCell_canon c40))) (ite_canon (CanonP.mk' (flitError_canon
      (ite_canon (spendReq_canon c40) c40))) (ite_canon (CanonP.mk' c40) (ite_canon (CanonP.mk' (protocolError_canon
      c40)) (ite_canon (CanonP.mk' (protocolError_canon (ite_canon (spendReq_canon c40) c40))) (ite_canon (ite_canon
      (CanonP.mk' (protocolError_canon c40)) (CanonP.mk' (arriveReq_canon c40))) (ite_canon (CanonP.mk'
      (protocolError_canon c40)) (CanonP.mk' (modMod_canon c40))))))))))
theorem tagRequest_canon {x0 x1} (h0 : Canon x0) : Canon (@State.tagRequest x0 x1) := by
  unfold State.tagRequest
  extract_lets v0 v1 v2 v3 v4 v5
  have c40 : Canon v0 := countGl_canon h0
  have c41 : Canon v3 := Canon.upd c40
  exact ite_canon h0 (ite_canon c40 (ite_canon c41 (ite_canon (bump_canon c41) (countGl_canon (Canon.upd c41)))))
theorem answerNow_canon {x0 x1 x2} (h0 : Canon x0) : Canon (@State.answerNow x0 x1 x2) := by
  unfold State.answerNow
  exact formReply_canon h0
theorem answerRetry_canon {x0 x1} (h0 : Canon x0) : Canon (@State.answerRetry x0 x1) := by
  unfold State.answerRetry
  exact formReply_canon (useFree_canon h0)
theorem answerOutside_canon {x0 x1 x2} (h0 : Canon x0) : Canon (@State.answerOutside x0 x1 x2) := by
  unfold State.answerOutside
  exact emit_canon (tagSent_canon (tagAnswer_canon (countStatus_canon h0)))
theorem countDemand_canon {x0 x1} (h0 : Canon x0) : Canon (@State.countDemand x0 x1) := by
  unfold State.countDemand
  extract_lets v0
  exact Canon.upd h0
theorem enter_canon {x0 x1} (h0 : Canon x0) : Canon (@State.enter x0 x1) := by
  unfold State.enter
  extract_lets v0 v1
  have c41 : Canon v0 := wake_canon h0
  have c40 : Canon v1 := Canon.upd c41
  exact ite_canon c40 (countDemand_canon c40)
theorem userWrite_canon {x0 x1} (h0 : Canon x0) : Canon (@State.userWrite x0 x1) := by
  unfold State.userWrite
  exact ite_canon (setFlag_canon h0) h0
theorem checkEntry_canon {x0 x1} (h0 : Canon x0) : Canon (@State.checkEntry x0 x1) := by
  unfold State.checkEntry
  extract_lets v0 v1 v2
  have c40 : Canon v2 := ite_canon h0 (userWrite_canon h0)
  exact ite_canon (answerRetry_canon h0) (by
    split
    · exact answerNow_canon c40
    · exact answerNow_canon c40
    · exact ite_canon (answerNow_canon c40) (enter_canon c40)
    · exact enter_canon c40
    · exact enter_canon c40
    · exact enter_canon c40)
theorem inject_canon {x0 x1} (h0 : Canon x0) : Canon (@State.inject x0 x1) := by
  unfold State.inject
  split
  · exact checkEntry_canon h0
  · exact formReply_canon (countInject_canon h0)
  · exact formReply_canon (countInject_canon h0)
  · exact ite_canon (enter_canon (countInject_canon h0)) (answerRetry_canon h0)
  · exact formReply_canon (countInject_canon h0)
theorem turnAway_canon {x0 x1} (h0 : Canon x0) : Canon (@State.turnAway x0 x1) := by
  unfold State.turnAway
  exact ite_canon (answerNow_canon h0) (answerOutside_canon h0)
theorem accept_canon {x0 x1 x2 x3} (h0 : Canon x0) : Canon (@State.accept x0 x1 x2 x3) := by
  unfold State.accept
  extract_lets v0
  have c40 : Canon v0 := tagRequest_canon h0
  exact ite_canon (turnAway_canon c40) (ite_canon (ite_canon (settle_canon (enter_canon c40)) (answerRetry_canon c40))
      (ite_canon (answerNow_canon c40) (ite_canon (answerNow_canon c40) (ite_canon (inject_canon c40) (checkEntry_canon
      c40)))))
theorem admitCells_canon {x0 x1 x2 x3} (h0 : Canon x0) : Canon (@State.admitCells x0 x1 x2 x3) := by
  unfold State.admitCells
  exact modMod_canon h0
theorem letIn_canon {x0 x1} (h0 : Canon x0) : Canon (@State.letIn x0 x1) := by
  unfold State.letIn
  extract_lets v0 v1
  have c40 : Canon v0 := admitCells_canon h0
  exact ite_canon (protocolError_canon c40) (accept_canon c40)
theorem drainIngress_canon {x0 x1} (h0 : Canon x0) : Canon (@State.drainIngress x0 x1) := by
  unfold State.drainIngress
  exact foldl_canon h0 (fun _ _ k0 => by
    split
    · exact k0
    · exact ite_canon (letIn_canon (modMod_canon k0)) k0)
theorem request_canon {x0 x1 x2 x3 x4 x5 x6 x7 x8} (h0 : Canon x0) : Canon (@State.request x0 x1 x2 x3 x4 x5 x6 x7 x8)
    := by
  unfold State.request
  extract_lets v0 v1 v2
  have c40 : CanonP v0 := takeMessage_canon h0
  have c41 : Canon v2 := drainIngress_canon (c40).ok
  exact ite_canon (c40).ok (ite_canon (accept_canon (c40).ok) (ite_canon (letIn_canon c41) (modMod_canon c41)))
theorem takeCredit_canon {x0 x1 x2 x3} (h0 : Canon x0) : Canon (@State.takeCredit x0 x1 x2 x3) := by
  unfold State.takeCredit
  extract_lets v0 v1 v2
  have c40 : CanonP v0 := takeMessage_canon h0
  exact ite_canon (c40).ok (ite_canon (ite_canon (protocolError_canon (c40).ok) (modMod_canon (c40).ok)) (modMod_canon
      (c40).ok))
theorem reqCreditReturn_canon {x0 x1} (h0 : Canon x0) : Canon (@State.reqCreditReturn x0 x1) := by
  unfold State.reqCreditReturn
  extract_lets v0 v1
  have c40 : Canon v0 := drainIngress_canon h0
  exact ite_canon c40 (emit_canon (modMod_canon c40))
theorem sendRsp_canon {x0 x1 x2} (h0 : Canon x0) : Canon (@State.sendRsp x0 x1 x2) := by
  unfold State.sendRsp
  extract_lets v0
  have c40 : Canon v0 := emit_canon h0
  have c40 : Canon v0 := emit_canon h0
  split
  · exact tagSent_canon c40
  · exact tagSent_canon c40
  · exact c40
theorem transmit_canon {x0 x1} (h0 : Canon x0) : Canon (@State.transmit x0 x1) := by
  unfold State.transmit
  extract_lets v0 v1 v2 v3 v4
  have c40 : Canon v2 := modMod_canon h0
  have c42 : Canon v4 := modMod_canon h0
  exact ite_canon h0 (ite_canon (countGl_canon (emit_canon (foldl_canon c40 (fun _ _ k41 => emit_canon k41))))
      (ite_canon h0 (countGl_canon (foldl_canon c42 (fun _ _ k43 => sendRsp_canon k43)))))
theorem requestDeadline_canon {x0 x1 x2} (h0 : Canon x0) : Canon (@State.requestDeadline x0 x1 x2) := by
  unfold State.requestDeadline
  split
  · exact h0
  · extract_lets v40 v41
    have c80 : Canon v40 := advanceTo_canon h0
    have c81 : Canon v41 := ite_canon (setTxn_canon c80) c80
    exact ite_canon (reply_canon c80) (raise_canon (bumpBoth_canon (reply_canon c81)))
theorem wInjCtl_canon {x0 x1 x2} (h0 : Canon x0) : CanonR (@State.wInjCtl x0 x1 x2) := by
  unfold State.wInjCtl
  extract_lets v0 v1
  have c40 : Canon v1 := ite_canon (setBoth_canon h0) h0
  exact ite_canon (ignored_canon h0) (done_canon (plainWrite_canon c40))

/-! ### Machine/Qos.lean -/

theorem putSum_canon {x0} (h0 : Canon x0) : Canon (@State.putSum x0) := by
  unfold State.putSum
  exact setBoth_canon h0
theorem wFlow_canon {x0 x1 x2 x3 x4} (h0 : Canon x0) : CanonR (@State.wFlow x0 x1 x2 x3 x4) := by
  unfold State.wFlow
  extract_lets v0 v1
  exact done_canon (Canon.upd h0)
theorem dropShadow_canon {x0 x1} (h0 : Canon x0) : Canon (@State.dropShadow x0 x1) := by
  unfold State.dropShadow
  exact Canon.upd h0
theorem discardFlow_canon {x0 x1 x2} (h0 : Canon x0) : Canon (@State.discardFlow x0 x1 x2) := by
  unfold State.discardFlow
  exact accFault_canon (dropShadow_canon h0)
theorem applyFlow_canon {x0 x1 x2} (h0 : Canon x0) : Canon (@State.applyFlow x0 x1 x2) := by
  unfold State.applyFlow
  exact putReg_canon (putReg_canon (putReg_canon (dropShadow_canon h0)))
theorem arrive_canon {x0 x1} (h0 : Canon x0) : Canon (@State.arrive x0 x1) := by
  unfold State.arrive
  extract_lets v0 v1
  have c40 : Canon v1 := wake_canon (wake_canon h0)
  have c40 : Canon v1 := wake_canon (wake_canon h0)
  split
  · exact toQueue_canon c40
  · exact countCh_canon (setTxn_canon c40)
  · exact countCh_canon (setTxn_canon c40)
  · exact countCh_canon (setTxn_canon c40)
  · exact reply_canon c40
  · exact reply_canon c40
theorem heldTimeout_canon {x0 x1 x2} (h0 : Canon x0) : Canon (@State.heldTimeout x0 x1 x2) := by
  unfold State.heldTimeout
  split
  · exact h0
  · split
    · exact reply_canon (advanceTo_canon h0)
    · exact h0
theorem modWants_canon {x0 x1 x2} (h0 : Canon x0) : Canon (@State.modWants x0 x1 x2) := by
  unfold State.modWants
  extract_lets v0
  exact ite_canon (modEng_canon h0) (Canon.upd h0)
theorem classify_canon {x0 x1 x2} (h0 : Canon x0) : Canon (@State.classify x0 x1 x2) := by
  unfold State.classify
  split
  · exact h0
  · extract_lets v40 v41 v42 v43 v44 v45 v46 v47 v48
    have c83 : Canon v42 := ite_canon h0 (Canon.upd h0)
    have c82 : Canon v45 := ite_canon (Canon.upd c83) c83
    have c81 : Canon v46 := countGl_canon c82
    have c80 : Canon v47 := ite_canon c81 (countGl_canon c81)
    exact ite_canon h0 (ite_canon (setTxn_canon h0) (arrive_canon (tagMod_canon (setTxn_canon c80))))
theorem starve_canon {x0 x1 x2} (h0 : Canon x0) : Canon (@State.starve x0 x1 x2) := by
  unfold State.starve
  extract_lets v0
  split
  · exact h0
  · exact ite_canon (setTxn_canon (advanceTo_canon h0)) h0
theorem putExceeded_canon {x0} (h0 : Canon x0) : Canon (@State.putExceeded x0) := by
  unfold State.putExceeded
  exact setBoth_canon h0
theorem floorRecompute_canon {x0} (h0 : Canon x0) : Canon (@State.floorRecompute x0) := by
  unfold State.floorRecompute
  extract_lets v0 v1
  have c41 : Canon v0 := setBoth_canon (setBoth_canon h0)
  have c40 : Canon v1 := putExceeded_canon c41
  exact ite_canon (Canon.upd c40) h0
theorem countMisses_canon {x0} (h0 : Canon x0) : Canon (@State.countMisses x0) := by
  unfold State.countMisses
  exact ite_canon h0 (foldl_canon h0 (fun _ _ k0 => bumpBoth_canon (bumpBoth_canon k0)))
theorem putDeliverable_canon {x0} (h0 : Canon x0) : Canon (@State.putDeliverable x0) := by
  unfold State.putDeliverable
  exact setBoth_canon h0
theorem applyLower_canon {x0} (h0 : Canon x0) : Canon (@State.applyLower x0) := by
  unfold State.applyLower
  extract_lets v0 v1 v2
  have c41 : Canon v1 := applyShadows_canon h0
  have c40 : Canon v2 := Canon.upd c41
  exact foldl_canon c40 (fun _ _ k42 => ite_canon (applyFlow_canon k42) (discardFlow_canon k42))
theorem refuseFlow_canon {x0 x1 x2} (h0 : Canon x0) : Canon (@State.refuseFlow x0 x1 x2) := by
  unfold State.refuseFlow
  exact latch_canon (bumpBoth_canon (setBoth_canon (setBoth_canon (discardFlow_canon h0))))
theorem admitRaises_canon {x0} (h0 : Canon x0) : Canon (@State.admitRaises x0) := by
  unfold State.admitRaises
  exact foldl_canon h0 (fun _ _ k40 => ite_canon (applyFlow_canon k40) (refuseFlow_canon k40))
theorem putScales_canon {x0} (h0 : Canon x0) : Canon (@State.putScales x0) := by
  unfold State.putScales
  extract_lets v0 v1 v2 v3 v4 v5 v6
  have c43 : Canon v3 := setBoth_canon (setBoth_canon (setBoth_canon h0))
  have c42 : Canon v4 := foldl_canon c43 (fun _ _ k44 => setBoth_canon k44)
  have c41 : Canon v5 := ite_canon c42 (traceEv_canon c42)
  have c40 : Canon v6 := setBoth_canon c41
  exact ite_canon (countGl_canon (bumpBoth_canon c40)) c40
theorem refill_canon {x0 x1 x2} (h0 : Canon x0) : Canon (@State.refill x0 x1 x2) := by
  unfold State.refill
  extract_lets v0 v1 v2
  exact Canon.upd h0
theorem refillAll_canon {x0} (h0 : Canon x0) : Canon (@State.refillAll x0) := by
  unfold State.refillAll
  extract_lets v0
  have c40 : Canon v0 := foldl_canon h0 (fun _ _ k41 => refill_canon (refill_canon k41))
  exact Canon.upd c40
theorem releaseCapped_canon {x0} (h0 : Canon x0) : Canon (@State.releaseCapped x0) := by
  unfold State.releaseCapped
  exact Canon.upd h0
theorem qosWindow_canon {x0} (h0 : Canon x0) : Canon (@State.qosWindow x0) := by
  unfold State.qosWindow
  extract_lets v0
  have c40 : Canon v0 := admitRaises_canon (applyLower_canon (putDeliverable_canon (countMisses_canon h0)))
  exact releaseCapped_canon (refillAll_canon (putScales_canon (putExceeded_canon (putSum_canon c40))))
theorem qosBoundary_canon {x0} (h0 : Canon x0) : Canon (@State.qosBoundary x0) := by
  unfold State.qosBoundary
  exact qosWindow_canon (advanceToMultiple_canon h0)
theorem urgWires_canon {x0 x1} (h0 : Canon x0) : Canon (@State.urgWires x0 x1) := by
  unfold State.urgWires
  extract_lets v0 v1 v2 v3 v4 v5 v6
  have c42 : Canon v2 := setBoth_canon h0
  have c41 : Canon v4 := Canon.upd c42
  have c40 : Canon v6 := setBoth_canon c41
  exact ite_canon (endCondition_canon c40) c40
theorem urgStuck_canon {x0 x1} (h0 : Canon x0) : Canon (@State.urgStuck x0 x1) := by
  unfold State.urgStuck
  split
  · exact h0
  · extract_lets v40
    have c80 : Canon v40 := advanceTo_canon h0
    exact ite_canon h0 (raiseCond_canon (setBoth_canon c80))
theorem wQosFence_canon {x0 x1} (h0 : Canon x0) : CanonR (@State.wQosFence x0 x1) := by
  unfold State.wQosFence
  extract_lets v0 v1
  have c41 : Canon v0 := setBoth_canon (setBoth_canon h0)
  have c40 : Canon v1 := Canon.upd c41
  exact ite_canon (done_canon h0) (ite_canon (ignored_canon h0) (done_canon (settle_canon c40)))

end Sys2Proof.Laws
end

