-- ==== Sys2Proof/Laws/CanonChannel.lean ====
section
/-!
SUPPORT. Every operation keeps the canonical form of the stores (see Laws/Canon.lean): the channels and engines.
-/
namespace Sys2Proof.Laws
open Sys2Proof Sys2Proof.Machine

/-! ### Machine/Lagoon.lean -/

theorem mapLost_canon {x0 x1} (h0 : Canon x0) : Canon (@State.mapLost x0 x1) := by
  unfold State.mapLost
  exact raise_canon (log_canon (setFlag_canon h0))
theorem useMapWord_canon {x0 x1 x2} (h0 : Canon x0) : Canon (@State.useMapWord x0 x1 x2) := by
  unfold State.useMapWord
  extract_lets v0 v1 v2
  split
  · exact ite_canon h0 (mapLost_canon h0)
  · exact log_canon (setFlag_canon (modChan_canon h0))
  · exact log_canon (setFlag_canon (modChan_canon h0))
  · exact mapLost_canon h0
theorem useMap_canon {x0 x1} (h0 : Canon x0) : Canon (@State.useMap x0 x1) := by
  unfold State.useMap
  exact ite_canon (useMapWord_canon h0) h0
theorem refreshBegin_canon {x0 x1 x2 x3} (h0 : Canon x0) : Canon (@State.refreshBegin x0 x1 x2 x3) := by
  unfold State.refreshBegin
  exact modChan_canon (countCh_canon (chargeRefresh_canon h0))
theorem refreshIssue_canon {x0 x1 x2} (h0 : Canon x0) : Canon (@State.refreshIssue x0 x1 x2) := by
  unfold State.refreshIssue
  exact ite_canon (ite_canon (refreshBegin_canon h0) h0) (ite_canon (refreshBegin_canon h0) h0)
theorem histDecay_canon {x0 x1} (h0 : Canon x0) : Canon (@State.histDecay x0 x1) := by
  unfold State.histDecay
  extract_lets v0
  have c40 : Canon v0 := advanceTo_canon h0
  exact modChan_canon c40
theorem cycleServed_canon {x0 x1} (h0 : Canon x0) : Canon (@State.cycleServed x0 x1) := by
  unfold State.cycleServed
  exact modChan_canon h0
theorem requeueRow_canon {x0 x1} (h0 : Canon x0) : Canon (@State.requeueRow x0 x1) := by
  unfold State.requeueRow
  exact Canon.upd h0
theorem launchMoveIn_canon {x0 x1 x2 x3 x4} (h0 : Canon x0) : Canon (@State.launchMoveIn x0 x1 x2 x3 x4) := by
  unfold State.launchMoveIn
  exact modChan_canon (requeueRow_canon (countCh_canon (activate_canon h0)))
theorem launchMoveOut_canon {x0 x1 x2 x3 x4} (h0 : Canon x0) : Canon (@State.launchMoveOut x0 x1 x2 x3 x4) := by
  unfold State.launchMoveOut
  extract_lets v0
  exact setSlot_canon (countCh_canon (activate_canon h0))
theorem moveOutPrecharge_canon {x0 x1 x2} (h0 : Canon x0) : Canon (@State.moveOutPrecharge x0 x1 x2) := by
  unfold State.moveOutPrecharge
  extract_lets v0
  exact ite_canon h0 (by
    split
    · exact setSlot_canon (setArrayRow_canon h0)
    · exact setSlot_canon (setArrayRow_canon h0)
    · exact h0
    · exact h0
    · exact h0
    · exact h0
    · exact h0)
theorem tagDone_canon {x0 x1 x2} (h0 : Canon x0) : Canon (@State.tagDone x0 x1 x2) := by
  unfold State.tagDone
  exact tagMod_canon h0
theorem touch_canon {x0 x1} (h0 : Canon x0) : Canon (@State.touch x0 x1) := by
  unfold State.touch
  split
  · exact modChan_canon h0
  · exact h0
theorem performRead_canon {x0 x1 x2 x3} (h0 : Canon x0) : Canon (@State.performRead x0 x1 x2 x3) := by
  unfold State.performRead
  extract_lets v0 v1 v2
  have c40 : CanonP v1 := decodeStored_canon (tagDone_canon (touch_canon h0))
  exact reply_canon (c40).ok
theorem partRead_canon {x0 x1} (h0 : Canon x0) : CanonP (@State.partRead x0 x1) := by
  unfold State.partRead
  extract_lets v0 v1 v2
  have c40 : CanonP v0 := decodeStored_canon h0
  exact CanonP.mk' (c40).ok
theorem partWrite_canon {x0 x1 x2} (h0 : Canon x0) : Canon (@State.partWrite x0 x1 x2) := by
  unfold State.partWrite
  extract_lets v0 v1
  have c40 : CanonP v1 := injectWrite_canon h0
  exact reply_canon (setStored_canon (storeHit_canon (c40).ok))
theorem performWrite_canon {x0 x1 x2} (h0 : Canon x0) : Canon (@State.performWrite x0 x1 x2) := by
  unfold State.performWrite
  extract_lets v0 v1 v2 v3
  have c41 : Canon v1 := tagDone_canon h0
  have c40 : CanonP v2 := injectWrite_canon c41
  have c42 : CanonP v3 := partRead_canon c41
  exact ite_canon (reply_canon (setStored_canon (storeHit_canon (c40).ok))) (by
    split
    · exact partWrite_canon c41
    · exact partWrite_canon (c42).ok)
theorem perform_canon {x0 x1 x2 x3} (h0 : Canon x0) : Canon (@State.perform x0 x1 x2 x3) := by
  unfold State.perform
  exact ite_canon (performRead_canon h0) (performWrite_canon h0)
theorem takeUnwritten_canon {x0 x1 x2 x3} (h0 : Canon x0) : Canon (@State.takeUnwritten x0 x1 x2 x3) := by
  unfold State.takeUnwritten
  exact ite_canon (setTxn_canon h0) (ite_canon (reply_canon h0) (modChan_canon (countCh_canon (setTxn_canon h0))))
theorem takeUp_canon {x0 x1} (h0 : Canon x0) : Canon (@State.takeUp x0 x1) := by
  unfold State.takeUp
  extract_lets v0 v1 v2 v3
  have c40 : Canon v2 := tagMod_canon h0
  have c41 : Canon v3 := useMap_canon c40
  exact ite_canon (reply_canon c40) (ite_canon (reply_canon c40) (ite_canon c41 (ite_canon c41 (ite_canon
      (takeUnwritten_canon c41) (setTxn_canon c41)))))
theorem schedulerTakeUp_canon {x0 x1 x2} (h0 : Canon x0) : Canon (@State.schedulerTakeUp x0 x1 x2) := by
  unfold State.schedulerTakeUp
  split
  · exact h0
  · exact ite_canon h0 (takeUp_canon h0)
theorem lagoonHit_canon {x0 x1 x2} (h0 : Canon x0) : Canon (@State.lagoonHit x0 x1 x2) := by
  unfold State.lagoonHit
  split
  · exact h0
  · exact ite_canon h0 (ite_canon (setTxn_canon h0) (ite_canon (perform_canon (countCh_canon h0)) h0))
theorem sectorTransfer_canon {x0 x1} (h0 : Canon x0) : Canon (@State.sectorTransfer x0 x1) := by
  unfold State.sectorTransfer
  extract_lets v0 v1 v2
  have c41 : Canon v1 := cycleServed_canon (countCh_canon h0)
  have c40 : CanonP v2 := partRead_canon c41
  exact ite_canon (setTxn_canon (c40).ok) (perform_canon c41)
theorem sectorCycle_canon {x0 x1 x2} (h0 : Canon x0) : Canon (@State.sectorCycle x0 x1 x2) := by
  unfold State.sectorCycle
  split
  · exact h0
  · exact ite_canon (sectorTransfer_canon h0) h0
theorem mapWants_canon {x0 x1} (h0 : Canon x0) : Canon (@State.mapWants x0 x1) := by
  unfold State.mapWants
  exact each_canon h0 (fun _ _ k0 => modWants_canon k0)
theorem moveInTransferEnd_canon {x0 x1 x2} (h0 : Canon x0) : Canon (@State.moveInTransferEnd x0 x1 x2) := by
  unfold State.moveInTransferEnd
  extract_lets v0
  have c40 : Canon v0 := mapWants_canon h0
  exact ite_canon (by
    split
    · exact performRead_canon c40
    · exact c40) h0
theorem moveInDone_canon {x0 x1 x2} (h0 : Canon x0) : Canon (@State.moveInDone x0 x1 x2) := by
  unfold State.moveInDone
  extract_lets v0 v1 v2
  have c41 : Canon v0 := moveInTransferEnd_canon h0
  have c40 : Canon v2 := mapWants_canon (setSlot_canon c41)
  exact ite_canon (Canon.upd c40) h0
theorem nextCycle_canon {x0 x1} (h0 : Canon x0) : Canon (@State.nextCycle x0 x1) := by
  unfold State.nextCycle
  extract_lets v0
  have c40 : Canon v0 := advanceTo_canon h0
  exact modChan_canon c40
theorem orClaim_canon {x0 x1} (h0 : CanonP x0) (h1 : ∀ y0, Canon y0 → CanonP (x1 y0)) : CanonP (@orClaim x0 x1) := by
  unfold orClaim
  exact ite_canon h0 (h1 _ (h0).ok)
theorem firstClaim_canon {x0 x1 x2 x3} (h0 : ∀ y0 y1, Canon y0 → CanonP (x1 y0 y1)) (h1 : Canon x3) : CanonP
    (@firstClaim x0 x1 x2 x3) := by
  unfold firstClaim
  exact foldl_canon (CanonP.mk' h1) (fun _ _ k0 => orClaim_canon k0 (fun _ k1 => h0 _ _ k1))
theorem claimOn_canon {x0 x1 x2 x3 x4} (h0 : Canon x0) (h1 : ∀ y0, Canon y0 → Canon (x3 y0)) : CanonP (@State.claimOn x0
    x1 x2 x3 x4) := by
  unfold State.claimOn
  exact ite_canon (CanonP.mk' h0) (ite_canon (CanonP.mk' (stall_canon h0)) (CanonP.mk' (h1 _ h0)))
theorem cleanSlot_canon {x0 x1 x2 x3 x4} (h0 : Canon x0) : CanonP (@State.cleanSlot x0 x1 x2 x3 x4) := by
  unfold State.cleanSlot
  exact ite_canon (CanonP.mk' h0) (claimOn_canon h0 (fun _ k0 => launchMoveOut_canon k0))
theorem closeBank_canon {x0 x1 x2} (h0 : Canon x0) : CanonP (@State.closeBank x0 x1 x2) := by
  unfold State.closeBank
  extract_lets v0
  exact orClaim_canon (firstClaim_canon (fun _ _ k40 => cleanSlot_canon k40) h0) (fun _ k41 => firstClaim_canon (fun _ _
      k42 => ite_canon (CanonP.mk' (modChan_canon ((cleanSlot_canon k42).ok))) (cleanSlot_canon k42)) k41)
theorem closeClaim_canon {x0 x1} (h0 : Canon x0) : CanonP (@State.closeClaim x0 x1) := by
  unfold State.closeClaim
  exact firstClaim_canon (fun _ _ k0 => closeBank_canon k0) h0
theorem fillNext_canon {x0 x1 x2} (h0 : Canon x0) : CanonP (@State.fillNext x0 x1 x2) := by
  unfold State.fillNext
  extract_lets v0 v1
  exact ite_canon (CanonP.mk' h0) (ite_canon (CanonP.mk' (modChan_canon h0)) (claimOn_canon h0 (fun _ k40 =>
      modChan_canon (setArrayRow_canon (countCh_canon (activate_canon k40))))))
theorem fillClaim_canon {x0 x1} (h0 : Canon x0) : CanonP (@State.fillClaim x0 x1) := by
  unfold State.fillClaim
  exact firstClaim_canon (fun _ _ k0 => fillNext_canon k0) h0
theorem grantTxn_canon {x0 x1 x2} (h0 : Canon x0) : Canon (@State.grantTxn x0 x1 x2) := by
  unfold State.grantTxn
  exact tagMod_canon (setTxn_canon h0)
theorem packSector_canon {x0 x1 x2} (h0 : CanonY x1) : CanonY (@packSector x0 x1 x2) := by
  unfold packSector
  extract_lets v0 v1 v2 v3
  exact ite_canon h0 (ite_canon (CanonY.mk' (grantTxn_canon (h0).ok)) (ite_canon h0 (ite_canon h0 (ite_canon (CanonY.mk'
      (stall_canon (h0).ok)) (CanonY.mk' (grantTxn_canon (activate_canon (h0).ok)))))))
theorem promote_canon {x0 x1} (h0 : Canon x0) : CanonP (@State.promote x0 x1) := by
  unfold State.promote
  extract_lets v0 v1
  split
  · exact CanonP.mk' (setTxn_canon h0)
  · exact ite_canon (CanonP.mk' (setTxn_canon h0)) (ite_canon (ite_canon (CanonP.mk' h0) (cleanSlot_canon h0))
        (ite_canon (CanonP.mk' h0) (claimOn_canon h0 (fun _ k40 => launchMoveIn_canon (grantTxn_canon k40)))))
theorem packOne_canon {x0 x1 x2} (h0 : CanonY x1) : CanonY (@packOne x0 x1 x2) := by
  unfold packOne
  extract_lets v0
  have c40 : CanonP v0 := promote_canon (h0).ok
  exact ite_canon h0 (ite_canon (ite_canon h0 (CanonY.mk' (c40).ok)) (packSector_canon h0))
theorem requestClaim_canon {x0 x1} (h0 : Canon x0) : CanonP (@State.requestClaim x0 x1) := by
  unfold State.requestClaim
  extract_lets v0
  have c40 : CanonY v0 := foldl_canon (CanonY.mk' h0) (fun _ _ k41 => packOne_canon k41)
  exact CanonP.mk' (c40).ok
theorem bufferFree_canon {x0 x1} (h0 : Canon x0) : Canon (@State.bufferFree x0 x1) := by
  unfold State.bufferFree
  exact modChan_canon h0
theorem copyToSpare_canon {x0 x1 x2 x3} (h0 : Canon x0) : Canon (@State.copyToSpare x0 x1 x2 x3) := by
  unfold State.copyToSpare
  exact each_canon h0 (fun _ _ k40 => writePhys_canon ((decodeStored_canon k40).ok))
theorem moveToSpare_canon {x0 x1 x2 x3} (h0 : Canon x0) : Canon (@State.moveToSpare x0 x1 x2 x3) := by
  unfold State.moveToSpare
  extract_lets v0
  have c40 : Canon v0 := ite_canon h0 (countCh_canon (activate_canon h0))
  exact spareForRow_canon (countCh_canon (activate_canon (copyToSpare_canon c40)))
theorem spareOut_canon {x0 x1 x2 x3} (h0 : Canon x0) : Canon (@State.spareOut x0 x1 x2 x3) := by
  unfold State.spareOut
  extract_lets v0
  have c40 : Canon v0 := ledgerQueue_canon (moveToSpare_canon h0)
  exact modChan_canon (ite_canon (bufferFree_canon c40) c40)
theorem bufferOut_canon {x0 x1} (h0 : Canon x0) : CanonP (@State.bufferOut x0 x1) := by
  unfold State.bufferOut
  split
  · exact claimOn_canon h0 (fun _ k0 => spareOut_canon k0)
  · exact CanonP.mk' h0
  · exact claimOn_canon h0 (fun _ k1 => bufferFree_canon (setArrayRow_canon (countCh_canon (activate_canon k1))))
theorem bufferClaim_canon {x0 x1} (h0 : Canon x0) : CanonP (@State.bufferClaim x0 x1) := by
  unfold State.bufferClaim
  exact ite_canon (bufferOut_canon h0) (CanonP.mk' h0)
theorem commandedClaim_canon {x0 x1} (h0 : Canon x0) : CanonP (@State.commandedClaim x0 x1) := by
  unfold State.commandedClaim
  extract_lets v0 v1
  exact orClaim_canon (firstClaim_canon (fun _ _ k40 => cleanSlot_canon k40) h0) (fun _ k41 => firstClaim_canon (fun _ _
      k42 => ite_canon (CanonP.mk' (modChan_canon ((cleanSlot_canon k42).ok))) (cleanSlot_canon k42)) k41)
theorem forcedClean_canon {x0 x1} (h0 : Canon x0) : CanonP (@State.forcedClean x0 x1) := by
  unfold State.forcedClean
  extract_lets v0
  exact ite_canon (firstClaim_canon (fun _ _ k40 => cleanSlot_canon k40) h0) (CanonP.mk' h0)
theorem idleClean_canon {x0 x1} (h0 : Canon x0) : CanonP (@State.idleClean x0 x1) := by
  unfold State.idleClean
  exact orClaim_canon (bufferOut_canon h0) (fun _ k0 => ite_canon (firstClaim_canon (fun _ _ k1 => cleanSlot_canon k1)
      k0) (CanonP.mk' k0))
theorem upperClaims_canon {x0 x1} (h0 : Canon x0) : CanonP (@State.upperClaims x0 x1) := by
  unfold State.upperClaims
  exact orClaim_canon (orClaim_canon (orClaim_canon (closeClaim_canon h0) (fun _ k0 => fillClaim_canon k0)) (fun _ k1 =>
      requestClaim_canon k1)) (fun _ k2 => bufferClaim_canon k2)
theorem workClaims_canon {x0 x1} (h0 : Canon x0) : CanonP (@State.workClaims x0 x1) := by
  unfold State.workClaims
  exact orClaim_canon (orClaim_canon (upperClaims_canon h0) (fun _ k0 => commandedClaim_canon k0)) (fun _ k1 =>
      forcedClean_canon k1)
theorem putWant_canon {x0 x1 x2} (h0 : Canon x0) : Canon (@State.putWant x0 x1 x2) := by
  unfold State.putWant
  exact modWants_canon h0
theorem dropWant_canon {x0 x1 x2} (h0 : Canon x0) : Canon (@State.dropWant x0 x1 x2) := by
  unfold State.dropWant
  exact modWants_canon h0
theorem waitCycle_canon {x0 x1 x2 x3 x4} (h0 : Canon x0) : CanonT (@State.waitCycle x0 x1 x2 x3 x4) := by
  unfold State.waitCycle
  exact CanonT.wait (putWant_canon h0)
theorem progCycle_canon {x0 x1 x2 x3 x4 x5} (h0 : Canon x0) : CanonT (@State.progCycle x0 x1 x2 x3 x4 x5) := by
  unfold State.progCycle
  extract_lets v0 v1
  have c40 : Canon v1 := nextCycle_canon h0
  exact ite_canon (waitCycle_canon h0) (ite_canon (waitCycle_canon (stall_canon h0)) (CanonT.go (each_canon c40 (fun _ _
      k41 => nextCycle_canon k41))))
theorem cyclesAt_canon {x0 x1 x2 x3} (h0 : Canon x0) : Canon (@State.cyclesAt x0 x1 x2 x3) := by
  unfold State.cyclesAt
  exact each_canon h0 (fun _ _ k0 => cycleServed_canon (countCh_canon (activate_canon k0)))
theorem bringIn_canon {x0 x1 x2 x3} (h0 : Canon x0) : Canon (@State.bringIn x0 x1 x2 x3) := by
  unfold State.bringIn
  extract_lets v0
  split
  · exact h0
  · exact ite_canon (ite_canon h0 (by
      split
      · exact CanonT.ofWait (by assumption) (progCycle_canon h0)
      · exact launchMoveOut_canon (CanonT.ofGo (by assumption) (progCycle_canon h0)))) (by
      split
      · exact CanonT.ofWait (by assumption) (progCycle_canon h0)
      · exact putWant_canon (launchMoveIn_canon (CanonT.ofGo (by assumption) (progCycle_canon h0))))
theorem progHit_canon {x0 x1 x2} (h0 : Canon x0) : CanonT (@State.progHit x0 x1 x2) := by
  unfold State.progHit
  exact ite_canon (CanonT.go (countCh_canon (touch_canon (dropWant_canon h0)))) (CanonT.wait (putWant_canon h0))
theorem progSector_canon {x0 x1 x2 x3} (h0 : Canon x0) : CanonT (@State.progSector x0 x1 x2 x3) := by
  unfold State.progSector
  split
  · exact CanonT.wait (CanonT.ofWait (by assumption) (progCycle_canon h0))
  · exact CanonT.go (cyclesAt_canon (dropWant_canon (CanonT.ofGo (by assumption) (progCycle_canon h0))))
theorem progServe_canon {x0 x1 x2 x3 x4 x5} (h0 : Canon x0) : CanonT (@State.progServe x0 x1 x2 x3 x4 x5) := by
  unfold State.progServe
  exact ite_canon (CanonT.go (dropWant_canon h0)) (ite_canon (CanonT.wait h0) (ite_canon (progHit_canon h0) (by
    split
    · exact CanonT.wait (bringIn_canon h0)
    · exact CanonT.wait (putWant_canon h0)
    · exact progSector_canon h0)))
theorem progAccess_canon {x0 x1 x2 x3 x4 x5 x6 x7} (h0 : Canon x0) : CanonT (@State.progAccess x0 x1 x2 x3 x4 x5 x6 x7)
    := by
  unfold State.progAccess
  extract_lets v0 v1
  exact progServe_canon (putWant_canon h0)
theorem exportWrite_canon {x0 x1} (h0 : CanonT x1) : Canon (@exportWrite x0 x1) := by
  unfold exportWrite
  split
  · exact CanonT.ofWait rfl (by assumption)
  · extract_lets v40 v41
    have c80 : Canon v40 := setStored_canon (storeHit_canon (CanonT.ofGo rfl (by assumption)))
    exact Canon.upd c80
theorem exportNext_canon {x0 x1} (h0 : Canon x0) : Canon (@State.exportNext x0 x1) := by
  unfold State.exportNext
  split
  · exact ite_canon (exportWrite_canon (progAccess_canon h0)) h0
  · exact h0
theorem fillCycle_canon {x0 x1} (h0 : Canon x0) : Canon (@State.fillCycle x0 x1) := by
  unfold State.fillCycle
  extract_lets v0
  have c40 : CanonP v0 := orClaim_canon (workClaims_canon (nextCycle_canon h0)) (fun _ k41 => idleClean_canon k41)
  exact ite_canon (c40).ok (countCh_canon (c40).ok)
theorem verticalCycle_canon {x0 x1} (h0 : Canon x0) : Canon (@State.verticalCycle x0 x1) := by
  unfold State.verticalCycle
  extract_lets v0
  have c40 : Canon v0 := exportNext_canon h0
  exact ite_canon (raise_canon (modChan_canon h0)) (ite_canon h0 (ite_canon (fillCycle_canon c40) c40))
theorem zeroFillComplete_canon {x0 x1} (h0 : Canon x0) : Canon (@State.zeroFillComplete x0 x1) := by
  unfold State.zeroFillComplete
  exact ite_canon h0 (by
    split
    · exact h0
    · extract_lets v80 v81
      have c120 : Canon v80 := useMapWord_canon h0
      have c121 : Canon v81 := modChan_canon (markExtent_canon c120)
      exact ite_canon c120 (Canon.upd c121))
theorem drainComplete_canon {x0 x1} (h0 : Canon x0) : Canon (@State.drainComplete x0 x1) := by
  unfold State.drainComplete
  extract_lets v0
  have c40 : Canon v0 := modChan_canon (setChState_canon h0)
  exact ite_canon (ite_canon (runStart_canon c40) c40) h0
theorem drainPinAbort_canon {x0 x1} (h0 : Canon x0) : Canon (@State.drainPinAbort x0 x1) := by
  unfold State.drainPinAbort
  split
  · exact ite_canon (abortProgram_canon (advanceTo_canon h0)) h0
  · exact h0
theorem moveCycle_canon {x0 x1} (h0 : Canon x0) : Canon (@State.moveCycle x0 x1) := by
  unfold State.moveCycle
  exact each_canon (nextCycle_canon h0) (fun _ _ k0 => ite_canon k0 (nextCycle_canon (stall_canon k0)))
theorem putBack_canon {x0 x1 x2} (h0 : Canon x0) : Canon (@State.putBack x0 x1 x2) := by
  unfold State.putBack
  exact setArrayRow_canon (countCh_canon (activate_canon (moveCycle_canon h0)))
theorem recoverRows_canon {x0 x1} (h0 : Canon x0) : Canon (@State.recoverRows x0 x1) := by
  unfold State.recoverRows
  extract_lets v0 v1 v2
  have c41 : Canon v0 := foldl_canon h0 (fun _ _ k42 => ite_canon (putBack_canon k42) k42)
  have c40 : Canon v2 := foldl_canon c41 (fun _ _ k43 => log_canon (putBack_canon (storeHitRow_canon k43)))
  exact foldl_canon (setFld_canon c40) (fun _ _ k44 => setFld_canon k44)
theorem wakeSpine_canon {x0 x1} (h0 : Canon x0) : Canon (@State.wakeSpine x0 x1) := by
  unfold State.wakeSpine
  extract_lets v0
  have c40 : Canon v0 := advance_canon (wakeTier_canon (modChan_canon h0))
  exact ite_canon h0 (modChan_canon c40)
theorem recoverNow_canon {x0 x1} (h0 : Canon x0) : Canon (@State.recoverNow x0 x1) := by
  unfold State.recoverNow
  exact setChState_canon (setFlag_canon (modChan_canon (recoverRows_canon (wakeSpine_canon h0))))
theorem recover_canon {x0 x1} (h0 : Canon x0) : Canon (@State.recover x0 x1) := by
  unfold State.recover
  exact ite_canon (setFlag_canon (modChan_canon h0)) (recoverNow_canon h0)
theorem recoverTier_canon {x0 x1} (h0 : Canon x0) : Canon (@State.recoverTier x0 x1) := by
  unfold State.recoverTier
  exact each_canon h0 (fun _ _ k40 => ite_canon (ite_canon (recoverNow_canon (setFlag_canon (modChan_canon k40)))
      (setFlag_canon (modChan_canon k40))) k40)
theorem discardFenced_canon {x0 x1} (h0 : Canon x0) : Canon (@State.discardFenced x0 x1) := by
  unfold State.discardFenced
  exact foldl_canon h0 (fun _ _ k40 => ite_canon (setSlot_canon (ite_canon (setFld_canon (setFld_canon k40)) k40)) k40)
theorem wLagCtl_canon {x0 x1 x2} (h0 : Canon x0) : CanonR (@State.wLagCtl x0 x1 x2) := by
  unfold State.wLagCtl
  extract_lets v0 v1
  exact ite_canon (ignored_canon h0) (by
    split
    · exact done_canon h0
    · exact ite_canon (done_canon (setFlag_canon (modChan_canon h0))) (ignored_canon h0)
    · exact ite_canon (done_canon (setFlag_canon (modChan_canon (discardFenced_canon h0)))) (ignored_canon h0)
    · exact ignored_canon h0)
theorem lagActionEnd_canon {x0 x1} (h0 : Canon x0) : Canon (@State.lagActionEnd x0 x1) := by
  unfold State.lagActionEnd
  extract_lets v0
  split
  · exact h0
  · exact ite_canon h0 (latch_canon (setFlag_canon (modChan_canon h0)))
theorem wDieRst_canon {x0 x1 x2} (h0 : Canon x0) : CanonR (@State.wDieRst x0 x1 x2) := by
  unfold State.wDieRst
  extract_lets v0 v1
  have c40 : Canon v1 := setFlag_canon (plainWrite_canon h0)
  exact ite_canon (done_canon (plainWrite_canon h0)) (ite_canon (done_canon (Canon.upd c40)) (ignored_canon h0))
theorem dieResetRelease_canon {x0} (h0 : Canon x0) : Canon (@State.dieResetRelease x0) := by
  unfold State.dieResetRelease
  extract_lets v0
  have c40 : Canon v0 := advanceTo_canon h0
  have c40 : Canon v0 := advanceTo_canon h0
  split
  · exact ite_canon (Canon.upd c40) h0
  · exact h0
theorem dieResetEnd_canon {x0 x1} (h0 : Canon x0) : Canon (@State.dieResetEnd x0 x1) := by
  unfold State.dieResetEnd
  extract_lets v0
  have c40 : Canon v0 := Canon.upd h0
  exact latch_canon (setFld_canon (setFlag_canon c40))
theorem dieResetReady_canon {x0} (h0 : Canon x0) : Canon (@State.dieResetReady x0) := by
  unfold State.dieResetReady
  split
  · exact ite_canon (recoverTier_canon (foldl_canon (dieResetEnd_canon h0) (fun _ _ k0 => handBack_canon k0))) h0
  · exact h0
theorem dieResetTimeout_canon {x0} (h0 : Canon x0) : Canon (@State.dieResetTimeout x0) := by
  unfold State.dieResetTimeout
  split
  · exact ite_canon (recoverTier_canon (fenceDie_canon (dieResetEnd_canon h0))) h0
  · exact h0

/-! ### Machine/Scrub.lean -/

theorem modScrub_canon {x0 x1 x2} (h0 : Canon x0) : Canon (@State.modScrub x0 x1 x2) := by
  unfold State.modScrub
  exact modChan_canon h0
theorem lapEnd_canon {x0 x1} (h0 : Canon x0) : Canon (@State.lapEnd x0 x1) := by
  unfold State.lapEnd
  extract_lets v0
  have c40 : Canon v0 := setFlag_canon (setFld_canon h0)
  exact modScrub_canon (bump_canon c40)
theorem passOne_canon {x0 x1} (h0 : Canon x0) : Canon (@State.passOne x0 x1) := by
  unfold State.passOne
  exact ite_canon (lapEnd_canon h0) (modScrub_canon h0)
theorem passIneligible_canon {x0 x1 x2} (h0 : Canon x0) : Canon (State.passIneligible x0 x1 x2) := by
  induction x2 generalizing x0 with
  | zero => exact h0
  | succ n ih =>
    unfold State.passIneligible
    exact ite_canon (ite_canon (ih (passOne_canon (useMap_canon h0))) (useMap_canon h0)) h0
theorem scrubAdvance_canon {x0 x1 x2} (h0 : Canon x0) : Canon (@State.scrubAdvance x0 x1 x2) := by
  unfold State.scrubAdvance
  extract_lets v0
  have c40 : Canon v0 := modScrub_canon h0
  exact ite_canon (passIneligible_canon c40) h0
theorem lapOverdue_canon {x0 x1} (h0 : Canon x0) : Canon (@State.lapOverdue x0 x1) := by
  unfold State.lapOverdue
  exact ite_canon (setFlag_canon (modScrub_canon h0)) h0
theorem noteSuspect_canon {x0 x1 x2 x3 x4} (h0 : Canon x0) : Canon (@State.noteSuspect x0 x1 x2 x3 x4) := by
  unfold State.noteSuspect
  extract_lets v0 v1 v2 v3
  have c40 : Canon v2 := modScrub_canon h0
  exact ite_canon (raise_canon (setFlag_canon (setFld_canon (setFld_canon (setFld_canon c40))))) c40
theorem visitSector_canon {x0 x1 x2} (h0 : CanonV x1) : CanonV (@visitSector x0 x1 x2) := by
  unfold visitSector
  extract_lets v0 v1 v2 v3 v4
  have c40 : Canon v0 := (h0).ok
  have c122 : Canon v4 := setStored_canon (noteDecode_canon c40)
  exact ite_canon (CanonV.mk' (setStored_canon (noteDecode_canon c40))) (by
    split
    · extract_lets v81
      have c121 : Canon v81 := foldl_canon c122 (fun _ _ k123 => noteSuspect_canon (modScrub_canon k123))
      exact CanonV.mk' c121
    · exact h0)
theorem rowAction_canon {x0 x1 x2} (h0 : Canon x0) : Canon (@State.rowAction x0 x1 x2) := by
  unfold State.rowAction
  extract_lets v0 v1
  exact ite_canon (logRowAction_canon h0) (by
    clear_value v1
    split
    · exact ite_canon (modScrub_canon h0) (logRowAction_canon h0)
    · exact ite_canon (logRowAction_canon h0) (ite_canon (ledgerQueue_canon h0) (logRowAction_canon h0)))
theorem scrubTake_canon {x0 x1} (h0 : Canon x0) : Canon (@State.scrubTake x0 x1) := by
  unfold State.scrubTake
  split
  · exact modChan_canon h0
  · exact modScrub_canon (countCh_canon (activate_canon h0))
theorem scrubRelease_canon {x0 x1} (h0 : Canon x0) : Canon (@State.scrubRelease x0 x1) := by
  unfold State.scrubRelease
  exact modScrub_canon h0
theorem visit_canon {x0 x1} (h0 : Canon x0) : Canon (@State.visit x0 x1) := by
  unfold State.visit
  extract_lets v0 v1 v2 v3
  have c41 : CanonV v1 := foldl_canon (CanonV.mk' (scrubTake_canon h0)) (fun _ _ k42 => visitSector_canon k42)
  have c40 : Canon v2 := ite_canon (scrubRelease_canon (c41).ok) (c41).ok
  exact ite_canon (rowAction_canon c40) c40
theorem leftCycle_canon {x0 x1 x2} (h0 : Canon x0) (h1 : ∀ y0, Canon y0 → CanonP (x2 y0)) : CanonO (@State.leftCycle x0
    x1 x2) := by
  unfold State.leftCycle
  extract_lets v0 v1
  have c40 : CanonP v1 := h1 _ (nextCycle_canon h0)
  exact ite_canon CanonO.none (CanonO.some (c40).ok)
theorem idleCycle_canon {x0 x1} (h0 : Canon x0) : CanonO (@State.idleCycle x0 x1) := by
  unfold State.idleCycle
  exact leftCycle_canon h0 (fun _ k0 => workClaims_canon k0)
theorem scrubVisit_canon {x0 x1} (h0 : Canon x0) : Canon (@State.scrubVisit x0 x1) := by
  unfold State.scrubVisit
  split
  · exact h0
  · extract_lets v40 v41
    have c80 : Canon v41 := useMap_canon (CanonO.of (by assumption) (idleCycle_canon h0))
    exact ite_canon (ite_canon c80 (ite_canon (passOne_canon (visit_canon c80)) h0)) h0
theorem priorityVisit_canon {x0 x1} (h0 : Canon x0) : Canon (@State.priorityVisit x0 x1) := by
  unfold State.priorityVisit
  split
  · exact h0
  · extract_lets v40
    exact ite_canon h0 (ite_canon (useMap_canon h0) (ite_canon (modScrub_canon (useMap_canon h0)) (by
      split
      · exact useMap_canon h0
      · exact ite_canon (visit_canon (modScrub_canon (CanonO.of (by assumption) (idleCycle_canon (useMap_canon h0)))))
            (useMap_canon h0))))
theorem putRing_canon {x0 x1 x2 x3} (h0 : Canon x0) : Canon (@State.putRing x0 x1 x2 x3) := by
  unfold State.putRing
  extract_lets v0 v1
  exact setStored_canon (storeHit_canon h0)
theorem ringCycles_canon {x0 x1} (h0 : Canon x0) : CanonO (@State.ringCycles x0 x1) := by
  unfold State.ringCycles
  exact ite_canon CanonO.none (ite_canon (CanonO.some (countCh_canon (touch_canon h0))) (ite_canon CanonO.none
      (CanonO.some (cyclesAt_canon h0))))
theorem spillCycle_canon {x0 x1} (h0 : Canon x0) : CanonO (@State.spillCycle x0 x1) := by
  unfold State.spillCycle
  exact ite_canon (leftCycle_canon h0 (fun _ k0 => upperClaims_canon k0)) (idleCycle_canon h0)
theorem spillTo_canon {x0 x1 x2 x3 x4 x5} (h0 : Canon x0) (h1 : CanonO x5) : Canon (@State.spillTo x0 x1 x2 x3 x4 x5) :=
    by
  unfold State.spillTo
  split
  · exact h0
  · extract_lets v40 v41 v42
    have c81 : Canon v41 := modChan_canon (putRing_canon (CanonO.get (by assumption)))
    have c80 : Canon v42 := setFld_canon c81
    exact ite_canon (bump_canon c80) c80
theorem logSpill_canon {x0 x1} (h0 : Canon x0) : Canon (@State.logSpill x0 x1) := by
  unfold State.logSpill
  extract_lets v0
  split
  · exact h0
  · exact ite_canon (spillTo_canon h0 (bind_canon (spillCycle_canon h0) (fun _ k40 => ringCycles_canon k40))) h0
theorem popLog_canon {x0 x1 x2} (h0 : Canon x0) : CanonR (@State.popLog x0 x1 x2) := by
  unfold State.popLog
  split
  · exact CanonR.mk' h0
  · extract_lets v40 v41
    have c81 : Canon v40 := modChan_canon h0
    have c80 : Canon v41 := each_canon c81 (fun _ _ k82 => Canon.upd k82)
    exact CanonR.mk' c80
theorem wExt_canon {x0 x1 x2 x3} (h0 : Canon x0) : CanonR (@State.wExt x0 x1 x2 x3) := by
  unfold State.wExt
  extract_lets v0 v1
  have c40 : Canon v1 := useMapWord_canon (plainWrite_canon h0)
  exact done_canon (setFlag_canon (setFlag_canon c40))
theorem wEccInj_canon {x0 x1 x2 x3} (h0 : Canon x0) : CanonR (@State.wEccInj x0 x1 x2 x3) := by
  unfold State.wEccInj
  extract_lets v0
  have c40 : Canon v0 := ite_canon (setFld_canon h0) h0
  exact ite_canon (ignored_canon h0) (done_canon (plainWrite_canon c40))

/-! ### Machine/Engine.lean -/

theorem modQset_canon {x0 x1 x2 x3} (h0 : Canon x0) : Canon (@State.modQset x0 x1 x2 x3) := by
  unfold State.modQset
  exact ite_canon (modEng_canon h0) (modEng_canon h0)
theorem wQcfg_canon {x0 x1 x2 x3 x4} (h0 : Canon x0) : CanonR (@State.wQcfg x0 x1 x2 x3 x4) := by
  unfold State.wQcfg
  exact ite_canon (ignored_canon h0) (done_canon (plainWrite_canon h0))
theorem wQdb_canon {x0 x1 x2 x3} (h0 : Canon x0) : CanonR (@State.wQdb x0 x1 x2 x3) := by
  unfold State.wQdb
  extract_lets v0
  exact ite_canon (ignored_canon h0) (done_canon (modQset_canon h0))
theorem resetIdx_canon {x0 x1 x2} (h0 : Canon x0) : Canon (@State.resetIdx x0 x1 x2) := by
  unfold State.resetIdx
  exact modEng_canon h0
theorem engineDecode_canon {x0 x1 x2 x3} (h0 : Canon x0) : CanonP (@State.engineDecode x0 x1 x2 x3) := by
  unfold State.engineDecode
  exact decodeStored_canon h0
theorem engineRead_canon {x0 x1 x2 x3 x4} (h0 : Canon x0) : CanonF (@State.engineRead x0 x1 x2 x3 x4) := by
  unfold State.engineRead
  split
  · exact CanonF.wait (CanonT.ofWait (by assumption) (progAccess_canon h0))
  · extract_lets v40
    have c80 : CanonP v40 := engineDecode_canon (CanonT.ofGo (by assumption) (progAccess_canon h0))
    exact CanonF.got (c80).ok
theorem takeHead_canon {x0 x1 x2} (h0 : Canon x0) : Canon (@State.takeHead x0 x1 x2) := by
  unfold State.takeHead
  exact setFlag_canon (modQset_canon h0)
theorem abortQueue_canon {x0 x1 x2} (h0 : Canon x0) : Canon (@State.abortQueue x0 x1 x2) := by
  unfold State.abortQueue
  extract_lets v0
  have c40 : Canon v0 := ite_canon (endProgram_canon h0) h0
  exact modEng_canon c40
theorem passHead_canon {x0 x1 x2} (h0 : Canon x0) : Canon (@State.passHead x0 x1 x2) := by
  unfold State.passHead
  extract_lets v0
  exact ite_canon h0 (setFlag_canon (modEng_canon h0))
theorem abortDone_canon {x0 x1 x2 x3} (h0 : Canon x0) : Canon (@State.abortDone x0 x1 x2 x3) := by
  unfold State.abortDone
  exact modEng_canon (passHead_canon h0)
theorem abortNext_canon {x0 x1 x2} (h0 : Canon x0) : Canon (@State.abortNext x0 x1 x2) := by
  unfold State.abortNext
  extract_lets v0 v1
  exact ite_canon (abortDone_canon (dropWant_canon h0)) (by
    split
    · exact CanonF.ofWait (by assumption) (engineRead_canon h0)
    · exact abortDone_canon (CanonF.ofGot (by assumption) (engineRead_canon h0)))
theorem wQctl_canon {x0 x1 x2 x3 x4} (h0 : Canon x0) : CanonR (@State.wQctl x0 x1 x2 x3 x4) := by
  unfold State.wQctl
  extract_lets v0 v1 v2 v3
  have c41 : Canon v2 := ite_canon (abortQueue_canon h0) h0
  have c40 : Canon v3 := plainWrite_canon c41
  exact ite_canon (ignored_canon h0) (ite_canon (ignored_canon h0) (done_canon (ite_canon (resetIdx_canon c40) c40)))
theorem wExdCtl_canon {x0 x1 x2 x3} (h0 : Canon x0) : CanonR (@State.wExdCtl x0 x1 x2 x3) := by
  unfold State.wExdCtl
  extract_lets v0
  exact ite_canon (done_canon h0) (ite_canon (deny_canon h0) (done_canon (abortProgram_canon h0)))
theorem wExdCfg_canon {x0 x1 x2 x3} (h0 : Canon x0) : CanonR (@State.wExdCfg x0 x1 x2 x3) := by
  unfold State.wExdCfg
  exact ite_canon (ignored_canon h0) (done_canon (plainWrite_canon h0))
theorem beginRead_canon {x0 x1 x2} (h0 : Canon x0) : Canon (@State.beginRead x0 x1 x2) := by
  unfold State.beginRead
  exact modEng_canon (takeHead_canon h0)
theorem settleDescriptor_canon {x0 x1 x2} (h0 : Canon x0) : Canon (@State.settleDescriptor x0 x1 x2) := by
  unfold State.settleDescriptor
  extract_lets v0
  split
  · exact endProgram_canon h0
  · exact modEng_canon (ite_canon (auditTest_canon h0) h0)
theorem checkDescriptor_canon {x0 x1 x2} (h0 : Canon x0) : Canon (@State.checkDescriptor x0 x1 x2) := by
  unfold State.checkDescriptor
  extract_lets v0
  have c40 : Canon v0 := modEng_canon h0
  exact settleDescriptor_canon c40
theorem readDescriptor_canon {x0 x1} (h0 : Canon x0) : Canon (@State.readDescriptor x0 x1) := by
  unfold State.readDescriptor
  extract_lets v0 v1
  exact ite_canon (endProgram_canon h0) (by
    split
    · exact CanonF.ofWait (by assumption) (engineRead_canon h0)
    · exact checkDescriptor_canon (CanonF.ofGot (by assumption) (engineRead_canon h0)))
theorem serveNext_canon {x0 x1 x2} (h0 : Canon x0) : Canon (@State.serveNext x0 x1 x2) := by
  unfold State.serveNext
  split
  · exact h0
  · exact readDescriptor_canon (beginRead_canon h0)
theorem descriptorRead_canon {x0 x1} (h0 : Canon x0) : Canon (@State.descriptorRead x0 x1) := by
  unfold State.descriptorRead
  split
  · exact abortNext_canon h0
  · split
    · exact serveNext_canon h0
    · exact readDescriptor_canon h0
    · exact h0
    · exact h0
    · exact h0
theorem readSectors_canon {x0 x1 x2 x3 x4} (h0 : Canon x0) : CanonP (State.readSectors x0 x1 x2 x3 x4) := by
  induction x4 generalizing x0 with
  | nil => exact .mk' h0
  | cons o r ih =>
    unfold State.readSectors
    split
    · exact .mk' (CanonF.ofWait (by assumption) (engineRead_canon h0))
    · exact ih (modEng_canon (CanonF.ofGot (by assumption) (engineRead_canon h0)))
theorem startProgram_canon {x0 x1} (h0 : Canon x0) : Canon (@State.startProgram x0 x1) := by
  unfold State.startProgram
  extract_lets v0
  exact traceEv_canon (modEng_canon h0)
theorem storeProgram_canon {x0 x1 x2} (h0 : Canon x0) : Canon (@State.storeProgram x0 x1 x2) := by
  unfold State.storeProgram
  extract_lets v0
  exact ite_canon (endProgram_canon (modEng_canon h0)) (startProgram_canon (modEng_canon h0))
theorem programFetchDone_canon {x0 x1} (h0 : Canon x0) : Canon (@State.programFetchDone x0 x1) := by
  unfold State.programFetchDone
  extract_lets v0 v1 v2
  have c40 : CanonP v2 := readSectors_canon h0
  exact ite_canon h0 (ite_canon (startProgram_canon h0) (ite_canon (endProgram_canon h0) (ite_canon (storeProgram_canon
      (c40).ok) (c40).ok)))
theorem noteRecord_canon {x0 x1 x2 x3} (h0 : Canon x0) : Canon (@State.noteRecord x0 x1 x2 x3) := by
  unfold State.noteRecord
  extract_lets v0 v1 v2
  have c42 : Canon v0 := setReg_canon h0
  have c41 : Canon v1 := ite_canon (bump_canon c42) (bump_canon c42)
  have c40 : Canon v2 := ite_canon (bump_canon c41) c41
  exact latch_canon (ite_canon (bump_canon c40) c40)
theorem popRecord_canon {x0 x1 x2} (h0 : Canon x0) : Canon (@State.popRecord x0 x1 x2) := by
  unfold State.popRecord
  exact modEng_canon h0
theorem recordIn_canon {x0 x1 x2 x3 x4 x5} (h0 : CanonT x5) : Canon (@State.recordIn x0 x1 x2 x3 x4 x5) := by
  unfold State.recordIn
  split
  · exact CanonT.ofWait rfl (by assumption)
  · exact noteRecord_canon (putRing_canon (popRecord_canon (CanonT.ofGo rfl (by assumption))))
theorem recordTo_canon {x0 x1 x2 x3 x4 x5} (h0 : Canon x0) : Canon (@State.recordTo x0 x1 x2 x3 x4 x5) := by
  unfold State.recordTo
  exact ite_canon (noteRecord_canon (popRecord_canon (dropWant_canon h0))) (recordIn_canon (progAccess_canon h0))
theorem recordWritten_canon {x0 x1} (h0 : Canon x0) : Canon (@State.recordWritten x0 x1) := by
  unfold State.recordWritten
  split
  · exact h0
  · exact recordTo_canon h0
theorem budgetLapse_canon {x0 x1} (h0 : Canon x0) : Canon (@State.budgetLapse x0 x1) := by
  unfold State.budgetLapse
  extract_lets v0 v1
  exact ite_canon h0 (endProgram_canon (advanceSince_canon h0))

/-! ### Machine/Operands.lean -/

theorem setG_canon {x0 x1 x2 x3} (h0 : Canon x0) : Canon (@State.setG x0 x1 x2 x3) := by
  unfold State.setG
  exact modEng_canon h0
theorem setPred_canon {x0 x1 x2 x3} (h0 : Canon x0) : Canon (@State.setPred x0 x1 x2 x3) := by
  unfold State.setPred
  exact modEng_canon h0
theorem bindH_canon {x0 x1 x2 x3} (h0 : Canon x0) : Canon (@State.bindH x0 x1 x2 x3) := by
  unfold State.bindH
  exact modEng_canon h0
theorem pinSlot_canon {x0 x1 x2 x3} (h0 : Canon x0) : Canon (@State.pinSlot x0 x1 x2 x3) := by
  unfold State.pinSlot
  split
  · exact bindH_canon (modEng_canon h0)
  · exact h0

/-! ### Machine/Flags.lean -/

theorem seen_canon {x0 x1 x2 x3} (h0 : Canon x0) : Canon (@State.seen x0 x1 x2 x3) := by
  unfold State.seen
  exact modEng_canon h0
theorem seenOf_canon {x0 x1 x2} (h0 : Canon x0) : Canon (@State.seenOf x0 x1 x2) := by
  unfold State.seenOf
  exact seen_canon h0
theorem setCfgStatus_canon {x0 x1 x2} (h0 : Canon x0) : Canon (@State.setCfgStatus x0 x1 x2) := by
  unfold State.setCfgStatus
  exact modEng_canon h0

/-! ### Machine/Exdun.lean -/

theorem Att_when_canon {x0 x1 x2} (h0 : CanonA x2) : CanonA (@Att.when x0 x1 x2) := by
  unfold Att.when
  exact ite_canon CanonA.exc h0
theorem Att_loc_canon {x0 x1} (h0 : CanonA x1) : CanonA (@Att.loc x0 x1) := by
  unfold Att.loc
  split
  · exact CanonA.exc
  · exact h0
theorem calm_canon {x0 x1} (h0 : Canon x0) : Canon (@State.calm x0 x1) := by
  unfold State.calm
  exact modEng_canon h0
theorem settleAtt_canon {x0 x1 x2} (h0 : Canon x0) (h1 : CanonA x2) : Canon (@State.settleAtt x0 x1 x2) := by
  unfold State.settleAtt
  split
  · extract_lets v40
    have c80 : Canon v40 := calm_canon (CanonA.ofDone (by assumption))
    exact ite_canon (CanonA.ofDone (by assumption)) (ite_canon (endProgram_canon c80) (modEng_canon c80))
  · exact modEng_canon (calm_canon (CanonA.ofGoto (by assumption)))
  · exact ite_canon (CanonA.ofWait (by assumption)) (modEng_canon (CanonA.ofWait (by assumption)))
  · exact endProgram_canon h0
  · exact CanonA.ofEnded (by assumption)
theorem storeParity_canon {x0 x1} (h0 : Canon x0) : Canon (@State.storeParity x0 x1) := by
  unfold State.storeParity
  exact endProgram_canon (modEng_canon h0)
theorem issue_canon {x0 x1 x2 x3 x4} (h0 : Canon x0) (h1 : ∀ y0, Canon y0 → CanonA (x4 y0)) : Canon (@State.issue x0 x1
    x2 x3 x4) := by
  unfold State.issue
  extract_lets v0
  have c40 : Canon v0 := countCh_canon h0
  exact ite_canon (settleAtt_canon c40 (h1 _ c40)) (ite_canon (storeParity_canon h0) h0)
theorem aNop_canon {x0 x1 x2} (h0 : Canon x0) : CanonA (@State.aNop x0 x1 x2) := by
  unfold State.aNop
  exact Att_when_canon (CanonA.done h0)
theorem aHalt_canon {x0 x1 x2} (h0 : Canon x0) : CanonA (@State.aHalt x0 x1 x2) := by
  unfold State.aHalt
  exact Att_when_canon (CanonA.ended (endProgram_canon h0))
theorem aBr_canon {x0 x1 x2} (h0 : Canon x0) : CanonA (@State.aBr x0 x1 x2) := by
  unfold State.aBr
  extract_lets v0 v1
  exact Att_when_canon (Att_when_canon (ite_canon (CanonA.goto h0) (CanonA.done h0)))
theorem aWait_canon {x0 x1 x2} (h0 : Canon x0) : CanonA (@State.aWait x0 x1 x2) := by
  unfold State.aWait
  exact Att_when_canon (ite_canon (CanonA.done h0) (by
    split
    · exact CanonA.wait (modEng_canon h0)
    · exact CanonA.done (advanceSince_canon h0)))
theorem aTime_canon {x0 x1 x2} (h0 : Canon x0) : CanonA (@State.aTime x0 x1 x2) := by
  unfold State.aTime
  exact Att_when_canon (CanonA.done (setG_canon h0))
theorem aGGG_canon {x0 x1 x2 x3} (h0 : Canon x0) : CanonA (@State.aGGG x0 x1 x2 x3) := by
  unfold State.aGGG
  exact Att_when_canon (CanonA.done (setG_canon h0))
theorem aGG_canon {x0 x1 x2 x3} (h0 : Canon x0) : CanonA (@State.aGG x0 x1 x2 x3) := by
  unfold State.aGG
  exact Att_when_canon (CanonA.done (setG_canon h0))
theorem aLi_canon {x0 x1 x2} (h0 : Canon x0) : CanonA (@State.aLi x0 x1 x2) := by
  unfold State.aLi
  exact Att_when_canon (CanonA.done (setG_canon h0))
theorem aLih_canon {x0 x1 x2} (h0 : Canon x0) : CanonA (@State.aLih x0 x1 x2) := by
  unfold State.aLih
  exact Att_when_canon (CanonA.done (setG_canon h0))
theorem aAddi_canon {x0 x1 x2} (h0 : Canon x0) : CanonA (@State.aAddi x0 x1 x2) := by
  unfold State.aAddi
  exact Att_when_canon (CanonA.done (setG_canon h0))
theorem aShift_canon {x0 x1 x2 x3} (h0 : Canon x0) : CanonA (@State.aShift x0 x1 x2 x3) := by
  unfold State.aShift
  exact Att_when_canon (CanonA.done (setG_canon h0))
theorem aCmp_canon {x0 x1 x2} (h0 : Canon x0) : CanonA (@State.aCmp x0 x1 x2) := by
  unfold State.aCmp
  exact Att_when_canon (CanonA.done (setPred_canon h0))
theorem aCmpi_canon {x0 x1 x2} (h0 : Canon x0) : CanonA (@State.aCmpi x0 x1 x2) := by
  unfold State.aCmpi
  exact Att_when_canon (CanonA.done (setPred_canon h0))
theorem aStRd_canon {x0 x1 x2} (h0 : Canon x0) : CanonA (@State.aStRd x0 x1 x2) := by
  unfold State.aStRd
  exact Att_when_canon (CanonA.done (setG_canon h0))
theorem aStClr_canon {x0 x1 x2} (h0 : Canon x0) : CanonA (@State.aStClr x0 x1 x2) := by
  unfold State.aStClr
  exact Att_when_canon (CanonA.done (modEng_canon h0))
theorem writeIssued_canon {x0 x1} (h0 : Canon x0) : Canon (@State.writeIssued x0 x1) := by
  unfold State.writeIssued
  exact ite_canon (setFlag_canon h0) h0
theorem Att_andWrites_canon {x0 x1} (h0 : CanonA x0) : CanonA (@Att.andWrites x0 x1) := by
  unfold Att.andWrites
  split
  · exact CanonA.done (writeIssued_canon (CanonA.ofDone (by assumption)))
  · exact CanonA.wait (writeIssued_canon (CanonA.ofWait (by assumption)))
  · exact h0
  · exact h0
  · exact h0
theorem startFill_canon {x0 x1 x2} (h0 : Canon x0) : Canon (@State.startFill x0 x1 x2) := by
  unfold State.startFill
  extract_lets v0
  have c40 : Canon v0 := setFlag_canon h0
  exact ite_canon c40 (modChan_canon (countCh_canon c40))
theorem ownCycle_canon {x0 x1 x2 x3 x4} (h0 : Canon x0) : CanonT (@State.ownCycle x0 x1 x2 x3 x4) := by
  unfold State.ownCycle
  exact progCycle_canon h0
theorem ownAccess_canon {x0 x1 x2 x3 x4} (h0 : Canon x0) : CanonT (@State.ownAccess x0 x1 x2 x3 x4) := by
  unfold State.ownAccess
  exact progAccess_canon h0
theorem Att_cycle_canon {x0 x1} (h0 : CanonT x0) (h1 : ∀ y0, Canon y0 → CanonA (x1 y0)) : CanonA (@Att.cycle x0 x1) :=
    by
  unfold Att.cycle
  split
  · exact CanonA.wait (CanonT.ofWait rfl (by assumption))
  · exact h1 _ (CanonT.ofGo rfl (by assumption))
theorem Got_launch_canon {x0 x1} (h0 : CanonT x0) (h1 : ∀ y0, Canon y0 → Canon (x1 y0)) : CanonG (@Got.launch x0 x1) :=
    by
  unfold Got.launch
  split
  · exact CanonG.wait (CanonT.ofWait rfl (by assumption))
  · exact CanonG.wait (h1 _ (CanonT.ofGo rfl (by assumption)))
theorem freeVictim_canon {x0 x1} (h0 : Canon x0) : CanonG (@State.freeVictim x0 x1) := by
  unfold State.freeVictim
  split
  · exact CanonG.wait h0
  · extract_lets v40
    exact ite_canon (ite_canon (CanonG.wait h0) (Got_launch_canon (ownCycle_canon h0) (fun _ k80 => launchMoveOut_canon
        k80))) (CanonG.slot h0)
theorem obtain_canon {x0 x1 x2} (h0 : Canon x0) : CanonG (@State.obtain x0 x1 x2) := by
  unfold State.obtain
  exact ite_canon (CanonG.wait h0) (by
    split
    · exact CanonG.slot (touch_canon h0)
    · split
      · exact CanonG.wait (CanonG.ofWait (by assumption) (freeVictim_canon h0))
      · exact ite_canon (CanonG.slot (modChan_canon (CanonG.ofSlot (by assumption) (freeVictim_canon h0)))) (ite_canon
            (CanonG.wait (CanonG.ofSlot (by assumption) (freeVictim_canon h0))) (Got_launch_canon (ownCycle_canon
            (CanonG.ofSlot (by assumption) (freeVictim_canon h0))) (fun _ k0 => launchMoveIn_canon k0))))
theorem loadChecks_canon {x0 x1 x2 x3 x4 x5} (h0 : Canon x0) (h1 : ∀ y0, CanonA (x5 y0)) : CanonA (@State.loadChecks x0
    x1 x2 x3 x4 x5) := by
  unfold State.loadChecks
  extract_lets v0
  exact Att_when_canon (Att_loc_canon (Att_when_canon (Att_when_canon (h1 _))))
theorem aRowLoad_canon {x0 x1 x2} (h0 : Canon x0) : CanonA (@State.aRowLoad x0 x1 x2) := by
  unfold State.aRowLoad
  exact loadChecks_canon h0 (fun _ => by
    extract_lets v40
    have c80 : Canon v40 := ite_canon h0 (useMap_canon h0)
    have c80 : Canon v40 := ite_canon h0 (useMap_canon h0)
    split
    · exact CanonA.done (bindH_canon h0)
    · exact ite_canon (CanonA.ended c80) (by
        split
        · exact CanonA.wait (CanonG.ofWait (by assumption) (obtain_canon c80))
        · exact CanonA.done (pinSlot_canon (CanonG.ofSlot (by assumption) (obtain_canon c80)))))
theorem claimSlot_canon {x0 x1 x2 x3 x4} (h0 : Canon x0) : Canon (@State.claimSlot x0 x1 x2 x3 x4) := by
  unfold State.claimSlot
  extract_lets v0
  have c40 : Canon v0 := setSlot_canon (storeHitRow_canon h0)
  have c40 : Canon v0 := setSlot_canon (storeHitRow_canon h0)
  split
  · exact bindH_canon c40
  · exact pinSlot_canon c40
theorem aRowClaim_canon {x0 x1 x2} (h0 : Canon x0) : CanonA (@State.aRowClaim x0 x1 x2) := by
  unfold State.aRowClaim
  exact loadChecks_canon h0 (fun _ => ite_canon (CanonA.ended (useMap_canon h0)) (ite_canon (CanonA.wait
      (startFill_canon (useMap_canon h0))) (ite_canon (CanonA.wait (useMap_canon h0)) (by
    split
    · exact ite_canon (CanonA.wait (useMap_canon h0)) (CanonA.done (claimSlot_canon (useMap_canon h0)))
    · split
      · exact CanonA.wait (CanonG.ofWait (by assumption) (freeVictim_canon (useMap_canon h0)))
      · exact CanonA.done (claimSlot_canon (modChan_canon (requeueRow_canon (CanonG.ofSlot (by assumption)
            (freeVictim_canon (useMap_canon h0))))))))))
theorem aRowRel_canon {x0 x1 x2} (h0 : Canon x0) : CanonA (@State.aRowRel x0 x1 x2) := by
  unfold State.aRowRel
  exact Att_when_canon (CanonA.done (modEng_canon h0))
theorem aRowWb_canon {x0 x1 x2} (h0 : Canon x0) : CanonA (@State.aRowWb x0 x1 x2) := by
  unfold State.aRowWb
  extract_lets v0 v1
  exact Att_when_canon (Att_when_canon (Att_when_canon (Att_when_canon (ite_canon (ite_canon (CanonA.wait h0)
      (CanonA.done h0)) (ite_canon (CanonA.done h0) (ite_canon (CanonA.wait h0) (Att_cycle_canon (ownCycle_canon h0)
      (fun _ k40 => CanonA.wait (modEng_canon (launchMoveOut_canon k40))))))))))
theorem aRowLoc_canon {x0 x1 x2} (h0 : Canon x0) : CanonA (@State.aRowLoc x0 x1 x2) := by
  unfold State.aRowLoc
  exact Att_when_canon (Att_when_canon (CanonA.done (setG_canon h0)))
theorem aSlotLdw_canon {x0 x1 x2} (h0 : Canon x0) : CanonA (@State.aSlotLdw x0 x1 x2) := by
  unfold State.aSlotLdw
  extract_lets v0 v1
  have c40 : CanonP v1 := decodeStored_canon (touch_canon h0)
  exact Att_when_canon (Att_when_canon (Att_when_canon (Att_when_canon (CanonA.done (setG_canon (seenOf_canon
      (c40).ok))))))
theorem aSlotStw_canon {x0 x1 x2} (h0 : Canon x0) : CanonA (@State.aSlotStw x0 x1 x2) := by
  unfold State.aSlotStw
  extract_lets v0 v1 v2 v3 v4 v5 v6 v7
  have c40 : Canon v1 := useMap_canon h0
  have c41 : CanonP v2 := decodeStored_canon c40
  exact Att_when_canon (Att_when_canon (Att_when_canon (Att_when_canon (Att_when_canon (ite_canon (CanonA.ended c40)
      (ite_canon (CanonA.wait (startFill_canon c40)) (CanonA.done (setStored_canon (storeHit_canon (seenOf_canon
      (c41).ok))))))))))

/-! ### Machine/RowOps.lean -/

theorem readRow_canon {x0 x1 x2 x3} (h0 : Canon x0) : CanonP (@State.readRow x0 x1 x2 x3) := by
  unfold State.readRow
  exact foldl_canon (CanonP.mk' (ite_canon h0 (touch_canon h0))) (fun _ _ k40 => CanonP.mk' (seenOf_canon
      ((decodeStored_canon (k40).ok).ok)))
theorem writeRow_canon {x0 x1 x2 x3} (h0 : Canon x0) : Canon (@State.writeRow x0 x1 x2 x3) := by
  unfold State.writeRow
  exact foldl_canon h0 (fun _ _ k0 => setStored_canon (storeHit_canon k0))
theorem rowChecks_canon {x0 x1 x2 x3 x4} (h0 : Canon x0) (h1 : CanonA x4) : CanonA (@State.rowChecks x0 x1 x2 x3 x4) :=
    by
  unfold State.rowChecks
  exact Att_when_canon (Att_when_canon (Att_when_canon (Att_when_canon h1)))
theorem rowDest_canon {x0 x1 x2 x3 x4 x5 x6} (h0 : Canon x0) (h1 : ∀ y0, Canon y0 → CanonA (x6 y0)) : CanonA
    (@State.rowDest x0 x1 x2 x3 x4 x5 x6) := by
  unfold State.rowDest
  extract_lets v0
  have c40 : Canon v0 := useMap_canon h0
  exact Att_when_canon (Att_when_canon (Att_when_canon (Att_when_canon (Att_when_canon (ite_canon (CanonA.done h0)
      (ite_canon (CanonA.ended c40) (ite_canon (CanonA.wait (startFill_canon c40)) (h1 _ c40))))))))
theorem aRowCopy_canon {x0 x1 x2} (h0 : Canon x0) : CanonA (@State.aRowCopy x0 x1 x2) := by
  unfold State.aRowCopy
  exact rowDest_canon h0 (fun _ k40 => CanonA.done (writeRow_canon ((readRow_canon k40).ok)))
theorem aRowFill_canon {x0 x1 x2} (h0 : Canon x0) : CanonA (@State.aRowFill x0 x1 x2) := by
  unfold State.aRowFill
  exact rowDest_canon h0 (fun _ k0 => CanonA.done (writeRow_canon k0))
theorem aRowZero_canon {x0 x1 x2} (h0 : Canon x0) : CanonA (@State.aRowZero x0 x1 x2) := by
  unfold State.aRowZero
  exact rowDest_canon h0 (fun _ k0 => CanonA.done (writeRow_canon k0))
theorem aRowBit_canon {x0 x1 x2} (h0 : Canon x0) : CanonA (@State.aRowBit x0 x1 x2) := by
  unfold State.aRowBit
  extract_lets v0
  exact rowDest_canon h0 (fun _ k40 => ite_canon (CanonA.done (writeRow_canon ((readRow_canon k40).ok))) (CanonA.done
      (writeRow_canon ((readRow_canon ((readRow_canon k40).ok)).ok))))
theorem aRowCmp_canon {x0 x1 x2} (h0 : Canon x0) : CanonA (@State.aRowCmp x0 x1 x2) := by
  unfold State.aRowCmp
  extract_lets v0
  have c40 : CanonP v0 := readRow_canon h0
  exact rowChecks_canon h0 (CanonA.done (setG_canon (c40).ok))
theorem aRowPopc_canon {x0 x1 x2} (h0 : Canon x0) : CanonA (@State.aRowPopc x0 x1 x2) := by
  unfold State.aRowPopc
  extract_lets v0
  have c40 : CanonP v0 := readRow_canon h0
  exact rowChecks_canon h0 (CanonA.done (setG_canon (c40).ok))
theorem aRowCrc_canon {x0 x1 x2} (h0 : Canon x0) : CanonA (@State.aRowCrc x0 x1 x2) := by
  unfold State.aRowCrc
  extract_lets v0
  have c40 : CanonP v0 := readRow_canon h0
  exact rowChecks_canon h0 (CanonA.done (setG_canon (c40).ok))
theorem ferryWrite_canon {x0 x1 x2 x3 x4} (h0 : Canon x0) : CanonA (@State.ferryWrite x0 x1 x2 x3 x4) := by
  unfold State.ferryWrite
  extract_lets v0 v1 v2
  have c40 : Canon v1 := useMap_canon h0
  exact ite_canon (CanonA.done (setG_canon c40)) (ite_canon (CanonA.wait (startFill_canon c40)) (ite_canon (CanonA.wait
      c40) (ite_canon (CanonA.done (setG_canon (writeRow_canon ((CanonP.mk' ((readRow_canon c40).ok)).ok))))
      (Att_cycle_canon (ownCycle_canon c40) (fun _ k41 => CanonA.wait (modEng_canon (countCh_canon (activate_canon
      ((CanonP.mk' ((readRow_canon k41).ok)).ok)))))))))
theorem aRowFerry_canon {x0 x1 x2} (h0 : Canon x0) : CanonA (@State.aRowFerry x0 x1 x2) := by
  unfold State.aRowFerry
  extract_lets v0 v1
  have c40 : CanonP v0 := landFerry_canon h0
  exact ite_canon (CanonA.done (setG_canon (c40).ok)) (ite_canon (ferryWrite_canon h0) (Att_when_canon (Att_when_canon
      (Att_when_canon (Att_when_canon (Att_when_canon (Att_when_canon (Att_when_canon (CanonA.wait (modEng_canon
      (writeIssued_canon h0)))))))))))
theorem putImage_canon {x0 x1 x2} (h0 : Canon x0) : Canon (@State.putImage x0 x1 x2) := by
  unfold State.putImage
  exact each_canon h0 (fun _ _ k0 => setG_canon k0)
theorem rawChecks_canon {x0 x1 x2 x3 x4 x5 x6} (h0 : Canon x0) (h1 : ∀ y0, CanonA (x6 y0)) : CanonA (@State.rawChecks x0
    x1 x2 x3 x4 x5 x6) := by
  unfold State.rawChecks
  exact Att_when_canon (Att_when_canon (Att_loc_canon (Att_when_canon (h1 _))))
theorem aSecRdraw_canon {x0 x1 x2} (h0 : Canon x0) : CanonA (@State.aSecRdraw x0 x1 x2) := by
  unfold State.aSecRdraw
  exact rawChecks_canon h0 (fun _ => ite_canon (CanonA.ended (ite_canon h0 (useMap_canon h0))) (ite_canon (CanonA.wait
      (ite_canon h0 (useMap_canon h0))) (ite_canon (CanonA.done (putImage_canon (ite_canon h0 (useMap_canon h0))))
      (Att_cycle_canon (ownAccess_canon (ite_canon h0 (useMap_canon h0))) (fun _ k40 => CanonA.done (putImage_canon
      k40))))))
theorem aSecWrraw_canon {x0 x1 x2} (h0 : Canon x0) : CanonA (@State.aSecWrraw x0 x1 x2) := by
  unfold State.aSecWrraw
  exact rawChecks_canon h0 (fun _ => ite_canon (CanonA.ended (useMap_canon h0)) (ite_canon (CanonA.wait (startFill_canon
      (useMap_canon h0))) (Att_cycle_canon (ownAccess_canon (useMap_canon h0)) (fun _ k40 => CanonA.done
      (setStored_canon (storeHit_canon k40))))))
theorem aStatRes_canon {x0 x1 x2} (h0 : Canon x0) : CanonA (@State.aStatRes x0 x1 x2) := by
  unfold State.aStatRes
  extract_lets v0 v1
  exact Att_when_canon (Att_loc_canon (CanonA.done (setG_canon h0)))
theorem aStatAct_canon {x0 x1 x2} (h0 : Canon x0) : CanonA (@State.aStatAct x0 x1 x2) := by
  unfold State.aStatAct
  extract_lets v0
  exact Att_when_canon (Att_when_canon (Att_loc_canon (CanonA.done (setG_canon h0))))
theorem testRow_canon {x0 x1 x2 x3 x4 x5} (h0 : Canon x0) (h1 : ∀ y0 y1, Canon y0 → CanonA (x5 y0 y1)) : CanonA
    (@State.testRow x0 x1 x2 x3 x4 x5) := by
  unfold State.testRow
  extract_lets v0 v1 v2
  exact Att_when_canon (Att_when_canon (Att_loc_canon (Att_when_canon (ite_canon (CanonA.wait h0) (Att_cycle_canon
      (ownCycle_canon h0) (fun _ k40 => h1 _ _ (activate_canon (by
    split
    · exact setSlot_canon k40
    · exact k40))))))))
theorem aTstWr_canon {x0 x1 x2} (h0 : Canon x0) : CanonA (@State.aTstWr x0 x1 x2) := by
  unfold State.aTstWr
  exact Att_andWrites_canon (testRow_canon h0 (fun _ _ k0 => CanonA.done (foldl_canon (countCh_canon (storeHitRow_canon
      k0)) (fun _ _ k1 => setArray_canon k1))))
theorem aTstRd_canon {x0 x1 x2} (h0 : Canon x0) : CanonA (@State.aTstRd x0 x1 x2) := by
  unfold State.aTstRd
  exact testRow_canon h0 (fun _ _ k0 => CanonA.done (setG_canon k0))

/-! ### Machine/Maint.lean -/

theorem maintChecks_canon {x0 x1 x2 x3 x4 x5} (h0 : Canon x0) (h1 : ∀ y0, CanonA (x5 y0)) : CanonA (@State.maintChecks
    x0 x1 x2 x3 x4 x5) := by
  unfold State.maintChecks
  exact Att_when_canon (Att_when_canon (Att_loc_canon (Att_when_canon (Att_when_canon (h1 _)))))
theorem result_canon {x0 x1 x2 x3 x4 x5} (h0 : Canon x0) : CanonA (@State.result x0 x1 x2 x3 x4 x5) := by
  unfold State.result
  exact CanonA.done (setG_canon h0)
theorem ledgerEnd_canon {x0 x1 x2 x3 x4} (h0 : Canon x0) : CanonA (@State.ledgerEnd x0 x1 x2 x3 x4) := by
  unfold State.ledgerEnd
  split
  · exact CanonA.wait h0
  · exact result_canon h0
  · exact result_canon h0
theorem setProgress_canon {x0 x1 x2} (h0 : Canon x0) : Canon (@State.setProgress x0 x1 x2) := by
  unfold State.setProgress
  exact modEng_canon h0
theorem aRepRetire_canon {x0 x1 x2} (h0 : Canon x0) : CanonA (@State.aRepRetire x0 x1 x2) := by
  unfold State.aRepRetire
  exact ite_canon (ledgerEnd_canon h0) (maintChecks_canon h0 (fun _ => ite_canon (result_canon h0) (ite_canon
      (result_canon h0) (ite_canon (result_canon h0) (ite_canon (CanonA.wait h0) (CanonA.wait (setProgress_canon
      (ledgerQueue_canon h0))))))))
theorem seenRow_canon {x0 x1 x2} (h0 : Canon x0) : Canon (@State.seenRow x0 x1 x2) := by
  unfold State.seenRow
  exact foldl_canon h0 (fun _ _ k0 => seenOf_canon k0)
theorem aRepRow_canon {x0 x1 x2} (h0 : Canon x0) : CanonA (@State.aRepRow x0 x1 x2) := by
  unfold State.aRepRow
  exact ite_canon (ledgerEnd_canon h0) (maintChecks_canon h0 (fun _ => ite_canon (result_canon h0) (ite_canon
      (result_canon h0) (by
    split
    · exact result_canon h0
    · exact ite_canon (CanonA.wait h0) (Att_cycle_canon (ownCycle_canon h0) (fun _ k0 => CanonA.wait (setProgress_canon
          (ledgerQueue_canon (moveToSpare_canon (seenRow_canon k0))))))))))
theorem aRepCol_canon {x0 x1 x2} (h0 : Canon x0) : CanonA (@State.aRepCol x0 x1 x2) := by
  unfold State.aRepCol
  extract_lets v0
  exact ite_canon (ledgerEnd_canon h0) (ite_canon (CanonA.wait h0) (maintChecks_canon h0 (fun _ => ite_canon
      (result_canon h0) (ite_canon (result_canon h0) (by
    split
    · exact result_canon h0
    · exact CanonA.wait (modEng_canon h0))))))
theorem walkRow_canon {x0 x1 x2 x3} (h0 : Canon x0) : Canon (@State.walkRow x0 x1 x2 x3) := by
  unfold State.walkRow
  extract_lets v0 v1 v2
  have c41 : Canon v1 := activatePhys_canon (activatePhys_canon h0)
  have c40 : Canon v2 := by
    unfold v2
    split
    · exact seenOf_canon (noteDecode_canon c41)
    · exact c41
  exact modEng_canon (setPhys_canon c40)
theorem walkEnd_canon {x0 x1 x2 x3} (h0 : Canon x0) : Canon (@State.walkEnd x0 x1 x2 x3) := by
  unfold State.walkEnd
  exact setProgress_canon (ledgerQueue_canon (spareForCol_canon (modEng_canon h0)))
theorem repColStep_canon {x0 x1} (h0 : Canon x0) : Canon (@State.repColStep x0 x1) := by
  unfold State.repColStep
  split
  · extract_lets v40 v41 v42
    have c161 : Canon v42 := advanceTo_canon h0
    exact ite_canon h0 (by
      split
      · exact h0
      · extract_lets v120
        have c160 : Canon v120 := walkRow_canon (CanonT.ofGo (by assumption) (ownCycle_canon c161))
        exact ite_canon c160 (walkEnd_canon c160))
  · exact h0
theorem aRefRow_canon {x0 x1 x2} (h0 : Canon x0) : CanonA (@State.aRefRow x0 x1 x2) := by
  unfold State.aRefRow
  exact maintChecks_canon h0 (fun _ => ite_canon (CanonA.wait h0) (ite_canon (result_canon (charge_canon h0))
      (result_canon (targetedRefresh_canon h0))))
theorem requeueExtent_canon {x0 x1 x2} (h0 : Canon x0) : Canon (@State.requeueExtent x0 x1 x2) := by
  unfold State.requeueExtent
  exact Canon.upd h0
theorem extClear_canon {x0 x1 x2 x3} (h0 : Canon x0) : CanonA (@State.extClear x0 x1 x2 x3) := by
  unfold State.extClear
  extract_lets v0
  exact ite_canon (result_canon h0) (ite_canon (CanonA.wait (modEng_canon h0)) (result_canon (markExtent_canon
      (requeueExtent_canon (foldl_canon h0 (fun _ _ k40 => setSlot_canon k40))))))
theorem aExtInit_canon {x0 x1 x2} (h0 : Canon x0) : CanonA (@State.aExtInit x0 x1 x2) := by
  unfold State.aExtInit
  exact maintChecks_canon h0 (fun _ => ite_canon (CanonA.ended (useMap_canon h0)) (ite_canon (extClear_canon
      (useMap_canon h0)) (ite_canon (result_canon (useMap_canon h0)) (CanonA.wait (setProgress_canon (startFill_canon
      (useMap_canon h0)))))))
theorem aVpSpare_canon {x0 x1 x2} (h0 : Canon x0) : CanonA (@State.aVpSpare x0 x1 x2) := by
  unfold State.aVpSpare
  extract_lets v0
  exact Att_when_canon (Att_when_canon (ite_canon (ite_canon (result_canon h0) (result_canon (spareForCond_canon h0)))
      (ite_canon (result_canon h0) (result_canon (leaveSpare_canon (setSpare_canon h0))))))
theorem aVpChk_canon {x0 x1 x2 x3} (h0 : Canon x0) : CanonA (@State.aVpChk x0 x1 x2 x3) := by
  unfold State.aVpChk
  exact Att_when_canon (Att_when_canon (CanonA.done (setG_canon h0)))
theorem aVpPt_canon {x0 x1 x2} (h0 : Canon x0) : CanonA (@State.aVpPt x0 x1 x2) := by
  unfold State.aVpPt
  extract_lets v0
  exact Att_when_canon (Att_when_canon (result_canon (modChan_canon h0)))
theorem reserved_canon {x0 x1 x2 x3} (h0 : Canon x0) : Canon (@State.reserved x0 x1 x2 x3) := by
  unfold State.reserved
  exact ite_canon h0 (issue_canon h0 (fun _ k0 => CanonA.exc))
theorem retry_canon {x0 x1 x2 x3} (h0 : Canon x0) : CanonA (@State.retry x0 x1 x2 x3) := by
  unfold State.retry
  split
  · exact aWait_canon h0
  · exact aRowLoad_canon h0
  · exact aRowClaim_canon h0
  · exact aRowWb_canon h0
  · exact aSlotStw_canon h0
  · exact aRowCopy_canon h0
  · exact aRowFill_canon h0
  · exact aRowZero_canon h0
  · exact aRowBit_canon h0
  · exact aRowFerry_canon h0
  · exact aSecRdraw_canon h0
  · exact aSecWrraw_canon h0
  · exact aRepRetire_canon h0
  · exact aRepRow_canon h0
  · exact aRepCol_canon h0
  · exact aRefRow_canon h0
  · exact aExtInit_canon h0
  · exact aTstWr_canon h0
  · exact aTstRd_canon h0
  · exact CanonA.wait h0
theorem calmWants_canon {x0 x1} (h0 : Canon x0) : Canon (@State.calmWants x0 x1) := by
  unfold State.calmWants
  exact modEng_canon h0
theorem waitEnd_canon {x0 x1} (h0 : Canon x0) : Canon (@State.waitEnd x0 x1) := by
  unfold State.waitEnd
  extract_lets v0
  split
  · exact ite_canon (settleAtt_canon (calmWants_canon h0) (retry_canon (calmWants_canon h0))) h0
  · exact h0

end Sys2Proof.Laws
end

