-- ==== Sys2Proof/Laws/CanonModes.lean ====
section
/-!
SUPPORT. Every operation keeps the canonical form of the stores (see Laws/Canon.lean): faults, islands, authority, observation, modes, register accesses and what ends a step.
-/
namespace Sys2Proof.Laws
open Sys2Proof Sys2Proof.Machine

/-! ### Machine/Faults.lean -/

theorem wSticky_canon {x0 x1 x2} (h0 : Canon x0) : CanonR (@State.wSticky x0 x1 x2) := by
  unfold State.wSticky
  extract_lets v0
  exact done_canon (setReg_canon h0)
theorem raiseAgain_canon {x0 x1 x2 x3} (h0 : Canon x0) (h1 : Canon x1) : Canon (@State.raiseAgain x0 x1 x2 x3) := by
  unfold State.raiseAgain
  exact foldl_canon h0 (fun _ _ k40 => ite_canon k40 (ite_canon (raiseCond_canon (ite_canon (setFlag_canon k40) k40))
      (raise_canon (ite_canon (setFlag_canon k40) k40))))
theorem wPinen_canon {x0 x1 x2} (h0 : Canon x0) : CanonR (@State.wPinen x0 x1 x2) := by
  unfold State.wPinen
  extract_lets v0
  exact done_canon (setReg_canon h0)
theorem wFltInj_canon {x0 x1 x2} (h0 : Canon x0) : CanonR (@State.wFltInj x0 x1 x2) := by
  unfold State.wFltInj
  extract_lets v0 v1 v2 v3 v4 v5
  have c40 : Canon v4 := plainWrite_canon h0
  have c41 : Canon v5 := setFld_canon (setFlag_canon (recordFault_canon c40))
  exact ite_canon (done_canon c40) (ite_canon (ignored_canon h0) (ite_canon (deny_canon h0) (done_canon (ite_canon
      (react_canon c41) c41))))
theorem wDumpCfg_canon {x0 x1 x2} (h0 : Canon x0) : CanonR (@State.wDumpCfg x0 x1 x2) := by
  unfold State.wDumpCfg
  exact ite_canon (ignored_canon h0) (done_canon (plainWrite_canon h0))
theorem writeWords_canon {x0 x1 x2 x3} (h0 : Canon x0) : Canon (@State.writeWords x0 x1 x2 x3) := by
  unfold State.writeWords
  exact each_canon h0 (fun _ _ k40 => setStored_canon k40)
theorem writeCopy_canon {x0 x1 x2 x3 x4} (h0 : Canon x0) : CanonP (@State.writeCopy x0 x1 x2 x3 x4) := by
  unfold State.writeCopy
  extract_lets v0
  split
  · exact CanonP.mk' h0
  · extract_lets v40
    have c80 : Canon v40 := writeWords_canon h0
    exact ite_canon (CanonP.mk' (recordFault_canon c80)) (CanonP.mk' c80)
theorem writeCopies_canon {x0 x1 x2} (h0 : Canon x0) : Canon (@State.writeCopies x0 x1 x2) := by
  unfold State.writeCopies
  extract_lets v0 v1 v2 v3 v4 v5
  have c42 : CanonP v3 := writeCopy_canon h0
  have c41 : CanonP v4 := writeCopy_canon (c42).ok
  have c40 : Canon v5 := ite_canon h0 (setFld_canon (setFld_canon (setFld_canon (setFld_canon (c41).ok))))
  exact setFld_canon (setFlag_canon (setFlag_canon c40))
theorem fatalWriteEnd_canon {x0 x1 x2} (h0 : Canon x0) : Canon (@State.fatalWriteEnd x0 x1 x2) := by
  unfold State.fatalWriteEnd
  extract_lets v0
  split
  · exact h0
  · extract_lets v40 v41 v42
    have c81 : Canon v41 := Canon.upd h0
    have c80 : Canon v42 := ite_canon (setFld_canon (Canon.upd c81)) (setFld_canon (recordFault_canon (recordFault_canon
        c81)))
    exact ite_canon h0 (writeCopies_canon c80)
theorem wDumpCtl_canon {x0 x1 x2} (h0 : Canon x0) : CanonR (@State.wDumpCtl x0 x1 x2) := by
  unfold State.wDumpCtl
  extract_lets v0
  exact ite_canon (ignored_canon h0) (done_canon (setFlag_canon (plainWrite_canon h0)))
theorem setWindow_canon {x0 x1 x2} (h0 : Canon x0) : Canon (@State.setWindow x0 x1 x2) := by
  unfold State.setWindow
  exact setFlag_canon (setFld_canon (each_canon h0 (fun _ _ k0 => setReg_canon k0)))
theorem windowFilled_canon {x0} (h0 : Canon x0) : Canon (@State.windowFilled x0) := by
  unfold State.windowFilled
  extract_lets v0 v1 v2 v3 v4
  exact ite_canon h0 (ite_canon (by
    split
    · exact setWindow_canon h0
    · exact setWindow_canon h0) (ite_canon (setWindow_canon h0) (setWindow_canon h0)))

/-! ### Machine/Islands.lean -/

theorem setLocked_canon {x0 x1 x2} (h0 : Canon x0) : Canon (@State.setLocked x0 x1 x2) := by
  unfold State.setLocked
  exact each_canon h0 (fun _ _ k0 => ite_canon (setFlag_canon k0) k0)
theorem setPll_canon {x0 x1 x2} (h0 : Canon x0) : Canon (@State.setPll x0 x1 x2) := by
  unfold State.setPll
  extract_lets v0
  exact Canon.upd h0
theorem lockPll_canon {x0 x1 x2} (h0 : Canon x0) : Canon (@State.lockPll x0 x1 x2) := by
  unfold State.lockPll
  exact setLocked_canon (setPll_canon h0)
theorem switchMux_canon {x0 x1} (h0 : Canon x0) : Canon (@State.switchMux x0 x1) := by
  unfold State.switchMux
  extract_lets v0
  exact ite_canon (each_canon (Canon.upd h0) (fun _ _ k40 => ite_canon (setFlag_canon (setFlag_canon k40)) k40)) h0
theorem pllLoss_canon {x0 x1} (h0 : Canon x0) : Canon (@State.pllLoss x0 x1) := by
  unfold State.pllLoss
  exact ite_canon (switchMux_canon (lockPll_canon h0)) h0
theorem stopHalf_canon {x0 x1} (h0 : Canon x0) : Canon (@State.stopHalf x0 x1) := by
  unfold State.stopHalf
  exact ite_canon h0 (Canon.upd h0)
theorem pllTimeout_canon {x0 x1} (h0 : Canon x0) : Canon (@State.pllTimeout x0 x1) := by
  unfold State.pllTimeout
  exact ite_canon (raiseCond_canon (stopHalf_canon h0)) h0
theorem wakeHalf_canon {x0 x1} (h0 : Canon x0) : Canon (@State.wakeHalf x0 x1) := by
  unfold State.wakeHalf
  exact ite_canon h0 (foldl_canon h0 (fun _ _ k0 => ite_canon (wakeTier_canon (Canon.upd k0)) k0))
theorem pllRelock_canon {x0 x1} (h0 : Canon x0) : Canon (@State.pllRelock x0 x1) := by
  unfold State.pllRelock
  extract_lets v0 v1
  have c41 : Canon v0 := lockPll_canon h0
  have c40 : Canon v1 := ite_canon (endCondition_canon c41) c41
  exact ite_canon (wakeHalf_canon c40) h0
theorem refMeasure_canon {x0 x1} (h0 : Canon x0) : Canon (@State.refMeasure x0 x1) := by
  unfold State.refMeasure
  exact ite_canon h0 (ite_canon (raiseCond_canon h0) (endCondition_canon h0))
theorem freeRun_canon {x0} (h0 : Canon x0) : Canon (@State.freeRun x0) := by
  unfold State.freeRun
  exact raiseCond_canon (setFlag_canon (setFlag_canon h0))
theorem refAbsent_canon {x0} (h0 : Canon x0) : Canon (@State.refAbsent x0) := by
  unfold State.refAbsent
  extract_lets v0 v1
  have c40 : Canon v1 := Canon.upd h0
  exact ite_canon (ite_canon c40 (freeRun_canon c40)) h0
theorem refReturn_canon {x0} (h0 : Canon x0) : Canon (@State.refReturn x0) := by
  unfold State.refReturn
  extract_lets v0
  exact ite_canon h0 (endCondition_canon (endCondition_canon (setFlag_canon (Canon.upd h0))))
theorem refTimeout_canon {x0} (h0 : Canon x0) : Canon (@State.refTimeout x0) := by
  unfold State.refTimeout
  exact ite_canon (raiseCond_canon h0) h0
theorem setStrait_canon {x0 x1 x2} (h0 : Canon x0) : Canon (@State.setStrait x0 x1 x2) := by
  unfold State.setStrait
  exact Canon.upd h0
theorem straitWrite_canon {x0 x1 x2 x3} (h0 : Canon x0) : Canon (@State.straitWrite x0 x1 x2 x3) := by
  unfold State.straitWrite
  extract_lets v0
  exact ite_canon h0 (setStrait_canon h0)
theorem complete_canon {x0 x1 x2 x3 x4 x5 x6} (h0 : Canon x0) : Canon (@State.complete x0 x1 x2 x3 x4 x5 x6) := by
  unfold State.complete
  split
  · exact ite_canon (emit_canon h0) h0
  · exact ite_canon h0 (modMod_canon h0)
  · exact h0
  · exact emit_canon h0
theorem cfgEnd_canon {x0 x1 x2 x3 x4 x5} (h0 : Canon x0) : Canon (@State.cfgEnd x0 x1 x2 x3 x4 x5) := by
  unfold State.cfgEnd
  extract_lets v0 v1
  have c41 : Canon v0 := Canon.upd h0
  have c40 : Canon v1 := ite_canon c41 (setG_canon c41)
  exact settleAtt_canon c40 (CanonA.done (setCfgStatus_canon c40))
theorem straitEnd_canon {x0 x1 x2 x3 x4 x5 x6} (h0 : Canon x0) : Canon (@State.straitEnd x0 x1 x2 x3 x4 x5 x6) := by
  unfold State.straitEnd
  split
  · split
    · exact cfgEnd_canon h0
    · exact h0
  · exact complete_canon h0
  · exact complete_canon h0
  · exact complete_canon h0
theorem loseOwner_canon {x0 x1 x2} (h0 : Canon x0) : Canon (@State.loseOwner x0 x1 x2) := by
  unfold State.loseOwner
  split
  · exact h0
  · exact ite_canon h0 (straitEnd_canon h0)
  · split
    · exact reply_canon h0
    · exact h0
theorem straitRead_canon {x0 x1 x2} (h0 : Canon x0) : Canon (@State.straitRead x0 x1 x2) := by
  unfold State.straitRead
  extract_lets v0
  split
  · exact h0
  · extract_lets v40
    have c80 : Canon v40 := setStrait_canon h0
    exact ite_canon h0 (ite_canon c80 (loseOwner_canon (raise_canon c80)))
theorem straitCredit_canon {x0 x1} (h0 : Canon x0) : Canon (@State.straitCredit x0 x1) := by
  unfold State.straitCredit
  extract_lets v0
  exact ite_canon (setStrait_canon h0) h0
theorem idleGate_canon {x0 x1} (h0 : Canon x0) : Canon (@State.idleGate x0 x1) := by
  unfold State.idleGate
  exact ite_canon (setFlag_canon h0) h0
theorem islandWake_canon {x0 x1} (h0 : Canon x0) : Canon (@State.islandWake x0 x1) := by
  unfold State.islandWake
  exact ite_canon h0 (wake_canon h0)
theorem copyFields_canon {x0 x1} (h0 : Canon x0) : Canon (@State.copyFields x0 x1) := by
  unfold State.copyFields
  extract_lets v0
  exact Canon.upd h0
theorem resetChannel_canon {x0 x1} (h0 : Canon x0) : Canon (@State.resetChannel x0 x1) := by
  unfold State.resetChannel
  extract_lets v0 v1 v2 v3 v4 v5 v6 v7 v8 v9 v10 v11
  have c45 : Canon v1 := foldl_canon h0 (fun _ _ k46 => reply_canon k46)
  have c44 : Canon v2 := abandonNative_canon (copyFields_canon (Canon.upd c45))
  have c43 : Canon v3 := ite_canon c44 (setChState_canon c44)
  have c42 : Canon v7 := setFlag_canon (setFlag_canon (eraseRegs_canon c43))
  have c41 : Canon v8 := setReg_canon (setReg_canon c42)
  have c40 : Canon v9 := setFld_canon (setFld_canon c41)
  exact modChan_canon (Canon.upd c40)
theorem resetModule_canon {x0 x1} (h0 : Canon x0) : Canon (@State.resetModule x0 x1) := by
  unfold State.resetModule
  extract_lets v0 v1 v2
  have c41 : Canon v1 := setFld_canon (setFlag_canon (eraseRegs_canon (setStage_canon h0)))
  have c40 : Canon v2 := setMod_canon c41
  exact ite_canon (endSession_canon c40) c40
theorem resetFabric_canon {x0 x1} (h0 : Canon x0) : Canon (State.resetFabric x0 x1) := by
  unfold State.resetFabric
  exact setFlag_canon (.five (Store.wf_erase _ _ _ h0.parts.1) h0.parts.2.1 (Store.wf_erase _ _ _ h0.parts.2.2.1)
    h0.parts.2.2.2.1 h0.parts.2.2.2.2)
theorem resetIsland_canon {x0 x1} (h0 : Canon x0) : Canon (@State.resetIsland x0 x1) := by
  unfold State.resetIsland
  extract_lets v0 v1 v2 v3
  have c40 : Canon v1 := eraseRegs_canon h0
  have c41 : Canon v2 := eraseRegs_canon h0
  exact ite_canon (resetChannel_canon h0) (ite_canon h0 (ite_canon (resetModule_canon h0) (ite_canon (resetFabric_canon
      h0) (ite_canon (Canon.upd h0) (ite_canon (Canon.upd h0) (ite_canon (Canon.upd c40) (ite_canon (Canon.upd c41)
      h0)))))))
theorem dropStraits_canon {x0 x1} (h0 : Canon x0) : Canon (@State.dropStraits x0 x1) := by
  unfold State.dropStraits
  exact foldl_canon h0 (fun _ _ k40 => foldl_canon (bump_canon (setStrait_canon k40)) (fun _ _ k41 => loseOwner_canon
      k41))
theorem startIslandReset_canon {x0 x1} (h0 : Canon x0) : Canon (@State.startIslandReset x0 x1) := by
  unfold State.startIslandReset
  extract_lets v0
  have c40 : Canon v0 := setFlag_canon (resetIsland_canon (dropStraits_canon h0))
  exact Canon.upd c40
theorem wIslCtl_canon {x0 x1 x2 x3 x4} (h0 : Canon x0) : CanonR (@State.wIslCtl x0 x1 x2 x3 x4) := by
  unfold State.wIslCtl
  extract_lets v0 v1 v2 v3 v4 v5
  have c42 : Canon v3 := plainWrite_canon h0
  have c41 : Canon v4 := ite_canon (setFlag_canon c42) (ite_canon (setFlag_canon c42) c42)
  have c40 : Canon v5 := startIslandReset_canon c41
  exact ite_canon (ignored_canon h0) (ite_canon (CanonR.mk' (Canon.upd c40)) (done_canon c41))
theorem leaveReset_canon {x0 x1} (h0 : Canon x0) : Canon (@State.leaveReset x0 x1) := by
  unfold State.leaveReset
  extract_lets v0 v1 v2
  have c42 : Canon v0 := foldl_canon (Canon.upd h0) (fun _ _ k43 => setStrait_canon k43)
  have c41 : Canon v1 := bump_canon (setFlag_canon c42)
  have c40 : Canon v2 := ite_canon c41 (setFlag_canon c41)
  exact ite_canon (issueOwed_canon c40) (ite_canon (setStage_canon c40) c40)
theorem islandRelease_canon {x0 x1} (h0 : Canon x0) : Canon (@State.islandRelease x0 x1) := by
  unfold State.islandRelease
  extract_lets v0 v1 v2
  have c41 : Canon v0 := leaveReset_canon h0
  have c40 : Canon v2 := foldl_canon (Canon.upd c41) (fun _ _ k42 => complete_canon k42)
  exact ite_canon (settlePrimary_canon c40) h0
theorem putFields_canon {x0 x1 x2} (h0 : Canon x0) (h1 : Canon x1) : Canon (@State.putFields x0 x1 x2) := by
  unfold State.putFields
  split
  · exact setReg_canon h1
  · exact h1
theorem reloadCal_canon {x0 x1} (h0 : Canon x0) : Canon (@State.reloadCal x0 x1) := by
  unfold State.reloadCal
  exact setFld_canon (ite_canon h0 (setFlag_canon (setFlag_canon h0)))
theorem fieldsRestore_canon {x0 x1} (h0 : Canon x0) : Canon (@State.fieldsRestore x0 x1) := by
  unfold State.fieldsRestore
  exact ite_canon h0 (reloadCal_canon (foldl_canon (modChan_canon h0) (fun _ _ k0 => putFields_canon h0 k0)))
theorem setRail_canon {x0 x1 x2} (h0 : Canon x0) : Canon (@State.setRail x0 x1 x2) := by
  unfold State.setRail
  exact Canon.upd h0
theorem railTaken_canon {x0 x1 x2 x3} (h0 : Canon x0) : Canon (@State.railTaken x0 x1 x2 x3) := by
  unfold State.railTaken
  exact setFld_canon (setFlag_canon (setFlag_canon h0))
theorem settleRails_canon {x0} (h0 : Canon x0) : Canon (@State.settleRails x0) := by
  unfold State.settleRails
  exact ite_canon (endCondition_canon h0) h0
theorem railSample_canon {x0 x1 x2} (h0 : Canon x0) : Canon (@State.railSample x0 x1 x2) := by
  unfold State.railSample
  extract_lets v0 v1 v2 v3
  have c40 : Canon v1 := setRail_canon (railTaken_canon h0)
  have c41 : Canon v3 := settleRails_canon (setRail_canon (railTaken_canon h0))
  exact ite_canon h0 (ite_canon (ite_canon (raiseCond_canon c40) c40) (ite_canon (ite_canon (raiseCond_canon c41) c41)
      (ite_canon (ite_canon (raiseCond_canon c41) c41) (endCondition_canon (endCondition_canon c41)))))
theorem wRailLim_canon {x0 x1 x2 x3} (h0 : Canon x0) : CanonR (@State.wRailLim x0 x1 x2 x3) := by
  unfold State.wRailLim
  extract_lets v0 v1 v2
  exact ite_canon (done_canon (plainWrite_canon h0)) (ignored_canon h0)
theorem setFldBit_canon {x0 x1 x2 x3} (h0 : Canon x0) : Canon (@State.setFldBit x0 x1 x2 x3) := by
  unfold State.setFldBit
  exact setFld_canon h0
theorem pgoodTrip_canon {x0 x1 x2 x3} (h0 : Canon x0) : Canon (@State.pgoodTrip x0 x1 x2 x3) := by
  unfold State.pgoodTrip
  extract_lets v0 v1 v2 v3
  have c42 : Canon v0 := ite_canon (setFldBit_canon h0) h0
  have c41 : Canon v1 := ite_canon (setFldBit_canon c42) c42
  have c40 : Canon v3 := raiseCond_canon c41
  exact ite_canon h0 (ite_canon (fenceDie_canon c40) c40)
theorem pgoodRestore_canon {x0 x1 x2 x3} (h0 : Canon x0) : Canon (@State.pgoodRestore x0 x1 x2 x3) := by
  unfold State.pgoodRestore
  extract_lets v0 v1
  have c41 : Canon v0 := ite_canon (setFldBit_canon h0) h0
  have c40 : Canon v1 := ite_canon (setFldBit_canon c41) c41
  exact ite_canon h0 (ite_canon (endCondition_canon c40) c40)

/-! ### Machine/Authority.lean -/

theorem sendFrame_canon {x0 x1 x2 x3} (h0 : Canon x0) : Canon (@State.sendFrame x0 x1 x2 x3) := by
  unfold State.sendFrame
  extract_lets v0
  exact emit_canon (Canon.upd h0)
theorem setClaims_canon {x0 x1 x2} (h0 : Canon x0) : Canon (@State.setClaims x0 x1 x2) := by
  unfold State.setClaims
  extract_lets v0
  exact Canon.upd h0
theorem setBeat_canon {x0 x1 x2} (h0 : Canon x0) : Canon (@State.setBeat x0 x1 x2) := by
  unfold State.setBeat
  extract_lets v0
  exact Canon.upd h0
theorem setCurrent_canon {x0 x1 x2} (h0 : Canon x0) : Canon (@State.setCurrent x0 x1 x2) := by
  unfold State.setCurrent
  exact setFldBit_canon h0
theorem moveToken_canon {x0 x1} (h0 : Canon x0) : Canon (@State.moveToken x0 x1) := by
  unfold State.moveToken
  extract_lets v0 v1
  have c41 : Canon v0 := raise_canon (setClaims_canon (setFld_canon h0))
  have c40 : Canon v1 := setReg_canon (bump_canon c41)
  exact traceEv_canon (latch_canon (setReg_canon c40))
theorem arbitrate_canon {x0} (h0 : Canon x0) : Canon (@State.arbitrate x0) := by
  unfold State.arbitrate
  extract_lets v0 v1
  exact ite_canon (ite_canon (ite_canon (moveToken_canon h0) h0) (ite_canon (raiseCond_canon (setFlag_canon h0)) h0))
      (ite_canon (moveToken_canon h0) h0)
theorem setFwu_canon {x0 x1} (h0 : Canon x0) : Canon (@State.setFwu x0 x1) := by
  unfold State.setFwu
  extract_lets v0
  split
  · exact Canon.upd h0
  · exact h0
theorem endFwu_canon {x0 x1 x2} (h0 : Canon x0) : Canon (@State.endFwu x0 x1 x2) := by
  unfold State.endFwu
  extract_lets v0 v1
  have c40 : Canon v0 := latch_canon (setFld_canon (setFld_canon h0))
  exact Canon.upd c40
theorem restartCore_canon {x0 x1} (h0 : Canon x0) : Canon (@State.restartCore x0 x1) := by
  unfold State.restartCore
  exact startIslandReset_canon (setClaims_canon h0)
theorem fwuRestart_canon {x0} (h0 : Canon x0) : Canon (@State.fwuRestart x0) := by
  unfold State.fwuRestart
  exact setFwu_canon (restartCore_canon h0)
theorem takePermit_canon {x0 x1 x2} (h0 : Canon x0) : Canon (@State.takePermit x0 x1 x2) := by
  unfold State.takePermit
  exact ite_canon (ite_canon (wakeTier_canon (setFlag_canon h0)) h0) (ite_canon (by
    split
    · exact ite_canon (fwuRestart_canon h0) h0
    · exact h0) h0)
theorem grantOne_canon {x0} (h0 : Canon x0) : Canon (@State.grantOne x0) := by
  unfold State.grantOne
  extract_lets v0
  split
  · exact h0
  · extract_lets v40
    have c80 : Canon v40 := Canon.upd h0
    exact ite_canon (takePermit_canon c80) (sendFrame_canon c80)
theorem grantAll_canon {x0} (h0 : Canon x0) : Canon (@State.grantAll x0) := by
  unfold State.grantAll
  exact each_canon h0 (fun _ _ k0 => grantOne_canon k0)
theorem permitDone_canon {x0 x1 x2} (h0 : Canon x0) : Canon (@State.permitDone x0 x1 x2) := by
  unfold State.permitDone
  extract_lets v0 v1
  exact ite_canon (grantAll_canon (Canon.upd h0)) (ite_canon (sendFrame_canon h0) h0)
theorem askPermit_canon {x0 x1 x2} (h0 : Canon x0) : Canon (@State.askPermit x0 x1 x2) := by
  unfold State.askPermit
  extract_lets v0 v1 v2 v3
  have c40 : Canon v1 := Canon.upd h0
  exact ite_canon (grantAll_canon (Canon.upd c40)) (sendFrame_canon c40)
theorem wFwuCtl_canon {x0 x1 x2 x3} (h0 : Canon x0) : CanonR (@State.wFwuCtl x0 x1 x2 x3) := by
  unfold State.wFwuCtl
  extract_lets v0 v1 v2 v3 v4 v5
  have c40 : Canon v0 := plainWrite_canon h0
  have c41 : Canon v1 := setFld_canon (setFld_canon c40)
  have c42 : Canon v5 := Canon.upd c41
  exact ite_canon (done_canon c40) (ite_canon (ignored_canon h0) (ite_canon (done_canon (endFwu_canon c41)) (ite_canon
      (done_canon (endFwu_canon c41)) (done_canon (ite_canon (askPermit_canon c42) (fwuRestart_canon c42))))))
theorem fwuFinish_canon {x0 x1} (h0 : Canon x0) : Canon (@State.fwuFinish x0 x1) := by
  unfold State.fwuFinish
  extract_lets v0 v1
  have c40 : Canon v1 := Canon.upd h0
  exact endFwu_canon (setFld_canon (setFld_canon c40))
theorem fwuStep_canon {x0 x1} (h0 : Canon x0) : Canon (@State.fwuStep x0 x1) := by
  unfold State.fwuStep
  split
  · exact h0
  · split
    · exact h0
    · exact ite_canon (setFwu_canon h0) h0
    · exact h0
    · exact ite_canon (fwuFinish_canon (permitDone_canon h0)) h0
theorem fwuMoved_canon {x0 x1} (h0 : Canon x0) (h1 : Canon x1) : Canon (@State.fwuMoved x0 x1) := by
  unfold State.fwuMoved
  split
  · exact h0
  · exact ite_canon (setFwu_canon (restartCore_canon h0)) h0
theorem noteBeat_canon {x0 x1 x2} (h0 : Canon x0) : Canon (@State.noteBeat x0 x1 x2) := by
  unfold State.noteBeat
  exact setClaims_canon (setCurrent_canon (setBeat_canon (setFld_canon h0)))
theorem heartbeat_canon {x0 x1 x2} (h0 : Canon x0) : Canon (@State.heartbeat x0 x1 x2) := by
  unfold State.heartbeat
  extract_lets v0
  have c40 : Canon v0 := fwuStep_canon (noteBeat_canon h0)
  exact ite_canon h0 (fwuMoved_canon (arbitrate_canon c40) c40)
theorem heartbeatLapse_canon {x0 x1} (h0 : Canon x0) : Canon (@State.heartbeatLapse x0 x1) := by
  unfold State.heartbeatLapse
  split
  · exact ite_canon (raise_canon (setClaims_canon (setCurrent_canon (advanceTo_canon h0)))) h0
  · exact h0
theorem wAuthAssign_canon {x0 x1} (h0 : Canon x0) : CanonR (@State.wAuthAssign x0 x1) := by
  unfold State.wAuthAssign
  extract_lets v0 v1
  have c40 : Canon v1 := ite_canon h0 (moveToken_canon h0)
  exact ite_canon (done_canon h0) (ite_canon (ignored_canon h0) (ite_canon (done_canon (clearSafeCause_canon
      (endCondition_canon (setFlag_canon (restartCore_canon c40))))) (done_canon c40)))
theorem bounce_canon {x0 x1} (h0 : Canon x0) : CanonR (@State.bounce x0 x1) := by
  unfold State.bounce
  exact ignored_canon (latch_canon (bump_canon (raise_canon h0)))
theorem fwuBootTimeout_canon {x0} (h0 : Canon x0) : Canon (@State.fwuBootTimeout x0) := by
  unfold State.fwuBootTimeout
  extract_lets v0 v1
  have c40 : Canon v1 := Canon.upd h0
  have c40 : Canon v1 := Canon.upd h0
  split
  · exact ite_canon (permitDone_canon (endFwu_canon (restartCore_canon (advanceTo_canon c40)))) h0
  · exact h0

/-! ### Machine/Causeway.lean -/

theorem setPeer_canon {x0 x1 x2} (h0 : Canon x0) : Canon (@State.setPeer x0 x1 x2) := by
  unfold State.setPeer
  extract_lets v0
  exact Canon.upd h0
theorem discardFrame_canon {x0} (h0 : Canon x0) : Canon (@State.discardFrame x0) := by
  unfold State.discardFrame
  exact ite_canon (bump_canon h0) h0
theorem forward_canon {x0 x1 x2 x3 x4} (h0 : Canon x0) : Canon (@State.forward x0 x1 x2 x3 x4) := by
  unfold State.forward
  exact emit_canon h0
theorem repeatFrame_canon {x0 x1 x2 x3 x4} (h0 : Canon x0) : Canon (@State.repeatFrame x0 x1 x2 x3 x4) := by
  unfold State.repeatFrame
  exact ite_canon (forward_canon h0) h0
theorem badLength_canon {x0 x1 x2 x3 x4} (h0 : Canon x0) : Canon (@State.badLength x0 x1 x2 x3 x4) := by
  unfold State.badLength
  exact ite_canon (discardFrame_canon h0) (repeatFrame_canon h0)
theorem ambiguous_canon {x0} (h0 : Canon x0) : Canon (@State.ambiguous x0) := by
  unfold State.ambiguous
  extract_lets v0
  exact latch_canon (raiseCond_canon (Canon.upd h0))
theorem soleCheck_canon {x0} (h0 : Canon x0) : Canon (@State.soleCheck x0) := by
  unfold State.soleCheck
  exact ite_canon (latch_canon (clearSafeCause_canon (endCondition_canon h0))) h0
theorem heardBeat_canon {x0 x1} (h0 : Canon x0) : Canon (@State.heardBeat x0 x1) := by
  unfold State.heardBeat
  extract_lets v0
  exact soleCheck_canon (ite_canon h0 (Canon.upd h0))
theorem becomeWorker_canon {x0} (h0 : Canon x0) : Canon (@State.becomeWorker x0) := by
  unfold State.becomeWorker
  extract_lets v0 v1 v2
  have c41 : Canon v0 := setReg_canon (setFlag_canon (setFlag_canon h0))
  have c40 : Canon v1 := latch_canon (setFld_canon c41)
  exact Canon.upd c40
theorem becomeManager_canon {x0 x1} (h0 : Canon x0) : Canon (@State.becomeManager x0 x1) := by
  unfold State.becomeManager
  extract_lets v0 v1 v2
  have c41 : Canon v0 := setFld_canon (setFlag_canon h0)
  have c40 : Canon v1 := latch_canon (setFld_canon c41)
  exact Canon.upd c40
theorem noteTakeover_canon {x0 x1 x2} (h0 : Canon x0) : Canon (@State.noteTakeover x0 x1 x2) := by
  unfold State.noteTakeover
  exact traceEv_canon (latch_canon (raise_canon (bump_canon (setFld_canon (setFld_canon h0)))))
theorem forwardBeat_canon {x0 x1 x2 x3} (h0 : Canon x0) : Canon (@State.forwardBeat x0 x1 x2 x3) := by
  unfold State.forwardBeat
  extract_lets v0
  exact forward_canon (useFree_canon h0)
theorem frameIn_canon {x0 x1 x2 x3 x4 x5} (h0 : Canon x0) (h1 : ∀ y0, Canon y0 → Canon (x5 y0)) : Canon (@State.frameIn
    x0 x1 x2 x3 x4 x5) := by
  unfold State.frameIn
  extract_lets v0
  exact ite_canon (repeatFrame_canon h0) (ite_canon (ite_canon (ite_canon (heardBeat_canon h0) h0) (ambiguous_canon h0))
      (ite_canon (ite_canon (forwardBeat_canon (h1 _ h0)) (forward_canon (h1 _ h0))) (ite_canon (h1 _ h0) (ite_canon
      (forwardBeat_canon h0) (forward_canon h0)))))
theorem align_canon {x0 x1} (h0 : Canon x0) : Canon (@State.align x0 x1) := by
  unfold State.align
  extract_lets v0 v1 v2 v3 v4
  have c40 : Canon v2 := setFlag_canon (setFld_canon h0)
  exact ite_canon (Canon.upd c40) (Canon.upd c40)
theorem workerBeat_canon {x0 x1 x2} (h0 : Canon x0) : Canon (@State.workerBeat x0 x1 x2) := by
  unfold State.workerBeat
  extract_lets v0 v1 v2
  have c41 : Canon v0 := setFld_canon (setFld_canon h0)
  have c40 : Canon v2 := Canon.upd c41
  exact align_canon (setShare_canon c40)
theorem takeBeat_canon {x0 x1 x2} (h0 : Canon x0) : Canon (@State.takeBeat x0 x1 x2) := by
  unfold State.takeBeat
  extract_lets v0
  have c40 : Canon v0 := heardBeat_canon h0
  exact ite_canon (ite_canon (workerBeat_canon (becomeWorker_canon c40)) (ite_canon (ambiguous_canon c40) c40))
      (workerBeat_canon c40)
theorem cwyHeartbeat_canon {x0 x1 x2} (h0 : Canon x0) : Canon (@State.cwyHeartbeat x0 x1 x2) := by
  unfold State.cwyHeartbeat
  exact ite_canon (badLength_canon h0) (frameIn_canon h0 (fun _ k0 => takeBeat_canon k0))
theorem setAttn_canon {x0 x1} (h0 : Canon x0) : Canon (@State.setAttn x0 x1) := by
  unfold State.setAttn
  exact ite_canon h0 (setFld_canon (setFldBit_canon h0))
theorem takeStatus_canon {x0 x1 x2} (h0 : Canon x0) : Canon (@State.takeStatus x0 x1 x2) := by
  unfold State.takeStatus
  extract_lets v0 v1 v2 v3 v4 v5
  have c42 : Canon v3 := setPeer_canon h0
  have c41 : Canon v4 := setFldBit_canon (setFldBit_canon (setReg_canon c42))
  have c40 : Canon v5 := ite_canon c41 (latch_canon c41)
  exact ite_canon (setAttn_canon c40) c40
theorem cwyStatus_canon {x0 x1 x2} (h0 : Canon x0) : Canon (@State.cwyStatus x0 x1 x2) := by
  unfold State.cwyStatus
  exact ite_canon (badLength_canon h0) (frameIn_canon h0 (fun _ k0 => takeStatus_canon k0))
theorem takeAnnounce_canon {x0 x1 x2} (h0 : Canon x0) : Canon (@State.takeAnnounce x0 x1 x2) := by
  unfold State.takeAnnounce
  extract_lets v0 v1 v2 v3 v4
  have c41 : Canon v1 := noteTakeover_canon h0
  have c40 : Canon v3 := Canon.upd c41
  exact ite_canon (ite_canon (Canon.upd (setFld_canon (setFld_canon (becomeWorker_canon c40)))) (ite_canon
      (ambiguous_canon c40) c40)) (Canon.upd (setFld_canon (setFld_canon c40)))
theorem cwyAnnounce_canon {x0 x1 x2} (h0 : Canon x0) : Canon (@State.cwyAnnounce x0 x1 x2) := by
  unfold State.cwyAnnounce
  exact ite_canon (badLength_canon h0) (frameIn_canon h0 (fun _ k0 => takeAnnounce_canon k0))
theorem cwyPermitReq_canon {x0 x1 x2 x3 x4} (h0 : Canon x0) : Canon (@State.cwyPermitReq x0 x1 x2 x3 x4) := by
  unfold State.cwyPermitReq
  extract_lets v0
  exact frameIn_canon h0 (fun _ k40 => ite_canon (grantAll_canon (Canon.upd k40)) k40)
theorem cwyPermit_canon {x0 x1 x2 x3 x4} (h0 : Canon x0) : Canon (@State.cwyPermit x0 x1 x2 x3 x4) := by
  unfold State.cwyPermit
  exact frameIn_canon h0 (fun _ k0 => takePermit_canon k0)
theorem endPermit_canon {x0 x1 x2} (h0 : Canon x0) : Canon (@State.endPermit x0 x1 x2) := by
  unfold State.endPermit
  extract_lets v0 v1
  exact grantAll_canon (Canon.upd h0)
theorem cwyPermitDone_canon {x0 x1 x2 x3 x4} (h0 : Canon x0) : Canon (@State.cwyPermitDone x0 x1 x2 x3 x4) := by
  unfold State.cwyPermitDone
  exact frameIn_canon h0 (fun _ k0 => ite_canon (endPermit_canon k0) k0)
theorem permitExpiry_canon {x0 x1} (h0 : Canon x0) : Canon (@State.permitExpiry x0 x1) := by
  unfold State.permitExpiry
  split
  · exact endPermit_canon (advanceTo_canon h0)
  · exact h0
theorem traceLink_canon {x0 x1} (h0 : Canon x0) : Canon (@State.traceLink x0 x1) := by
  unfold State.traceLink
  exact traceEv_canon (useFree_canon h0)
theorem cwyDown_canon {x0} (h0 : Canon x0) : Canon (@State.cwyDown x0) := by
  unfold State.cwyDown
  exact ite_canon (traceLink_canon (latch_canon (raiseCond_canon (setFlag_canon h0)))) h0
theorem cwyUp_canon {x0} (h0 : Canon x0) : Canon (@State.cwyUp x0) := by
  unfold State.cwyUp
  exact ite_canon (traceLink_canon (latch_canon (endCondition_canon (setFlag_canon h0)))) h0
theorem statusSend_canon {x0} (h0 : Canon x0) : Canon (@State.statusSend x0) := by
  unfold State.statusSend
  exact ite_canon (takeStatus_canon (sendFrame_canon h0)) h0
theorem beatSend_canon {x0} (h0 : Canon x0) : Canon (@State.beatSend x0) := by
  unfold State.beatSend
  extract_lets v0 v1
  have c40 : Canon v0 := setFlag_canon h0
  exact ite_canon (setShare_canon (sendFrame_canon c40)) h0
theorem listenEnd_canon {x0} (h0 : Canon x0) : Canon (@State.listenEnd x0) := by
  unfold State.listenEnd
  split
  · exact beatSend_canon (becomeManager_canon (advanceTo_canon h0))
  · exact h0
theorem takeover_canon {x0} (h0 : Canon x0) : Canon (@State.takeover x0) := by
  unfold State.takeover
  extract_lets v0 v1 v2
  have c40 : Canon v0 := advanceTo_canon h0
  exact ite_canon (noteTakeover_canon (becomeManager_canon (sendFrame_canon c40))) h0
theorem stackAbsent_canon {x0 x1} (h0 : Canon x0) : Canon (@State.stackAbsent x0 x1) := by
  unfold State.stackAbsent
  extract_lets v0
  have c40 : Canon v0 := setFldBit_canon (advanceTo_canon h0)
  exact ite_canon (latch_canon (setAttn_canon (setReg_canon c40))) h0
theorem wCwyCfg_canon {x0 x1 x2} (h0 : Canon x0) : CanonR (@State.wCwyCfg x0 x1 x2) := by
  unfold State.wCwyCfg
  extract_lets v0 v1 v2
  have c41 : Canon v0 := plainWrite_canon h0
  have c40 : Canon v1 := becomeWorker_canon c41
  exact ite_canon (done_canon (Canon.upd c40)) (done_canon c41)

/-! ### Machine/TierTest.lean -/

theorem nextTier_canon {x0 x1} (h0 : Canon x0) : Canon (@State.nextTier x0 x1) := by
  unfold State.nextTier
  extract_lets v0
  have c40 : Canon v0 := setFld_canon h0
  exact ite_canon (askPermit_canon (setFlag_canon c40)) (wakeTier_canon (setFlag_canon c40))
theorem startTest_canon {x0} (h0 : Canon x0) : Canon (@State.startTest x0) := by
  unfold State.startTest
  extract_lets v0 v1
  have c40 : Canon v0 := setFlag_canon (setReg_canon (setReg_canon h0))
  exact nextTier_canon (Canon.upd c40)
theorem permitTimeout_canon {x0} (h0 : Canon x0) : Canon (@State.permitTimeout x0) := by
  unfold State.permitTimeout
  exact ite_canon (wakeTier_canon (setFlag_canon (setFlag_canon (advanceTo_canon h0)))) h0
theorem patternChannel_canon {x0 x1} (h0 : Canon x0) : Canon (State.patternChannel x0 x1) :=
  .five h0.parts.1 (patternChannel_wf _ _ h0.parts.2.1) h0.parts.2.2.1 h0.parts.2.2.2.1 h0.parts.2.2.2.2
theorem testEntry_canon {x0 x1 x2 x3 x4 x5} (h0 : Canon x0) : CanonD (@State.testEntry x0 x1 x2 x3 x4 x5) := by
  unfold State.testEntry
  extract_lets v0
  split
  · exact ite_canon (CanonD.mk' (raise_canon (ledgerLost_canon h0))) (CanonD.mk' (CanonO.of (by assumption)
        (ledgerPut_canon h0)))
  · exact CanonD.mk' h0
theorem decideCond_canon {x0 x1} (h0 : Canon x0) : CanonD (@State.decideCond x0 x1) := by
  unfold State.decideCond
  extract_lets v0 v1
  exact ite_canon (testEntry_canon (spareForCond_canon h0)) (CanonD.mk' h0)
theorem decideLanes_canon {x0 x1 x2} (h0 : Canon x0) : CanonP (@State.decideLanes x0 x1 x2) := by
  unfold State.decideLanes
  exact foldl_canon (CanonP.mk' h0) (fun _ _ k40 => ite_canon k40 (by
    extract_lets v41
    split
    · exact CanonP.mk' (k40).ok
    · extract_lets v81
      have c121 : CanonD v81 := testEntry_canon (k40).ok
      exact CanonP.mk' (c121).ok))
theorem decideRow_canon {x0 x1 x2 x3} (h0 : Canon x0) : CanonD (@State.decideRow x0 x1 x2 x3) := by
  unfold State.decideRow
  split
  · exact testEntry_canon h0
  · exact ite_canon (testEntry_canon h0) (CanonD.mk' h0)
theorem decideFind_canon {x0 x1 x2 x3} (h0 : Canon x0) : CanonD (@State.decideFind x0 x1 x2 x3) := by
  unfold State.decideFind
  extract_lets v0 v1
  have c40 : CanonD v1 := testEntry_canon h0
  exact ite_canon (by
    split
    · exact CanonD.mk' ((decideRow_canon (c40).ok).ok)
    · exact c40) (ite_canon (CanonD.mk' h0) (ite_canon (decideRow_canon h0) (by
    split
    · exact testEntry_canon h0
    · exact CanonD.mk' h0)))
theorem testNote_canon {x0 x1 x2 x3} (h0 : Canon x0) : Canon (@State.testNote x0 x1 x2 x3) := by
  unfold State.testNote
  extract_lets v0 v1 v2 v3 v4 v5
  have c40 : Canon v5 := ite_canon (setFld_canon (Canon.upd h0)) (bump_canon h0)
  exact ite_canon c40 (bump_canon c40)
theorem testBank_canon {x0 x1 x2 x3} (h0 : Canon x0) : Canon (@State.testBank x0 x1 x2 x3) := by
  unfold State.testBank
  extract_lets v0 v1 v2 v3 v4 v5
  have c41 : CanonP v0 := decideLanes_canon h0
  have c40 : Canon v5 := foldl_canon (c41).ok (fun _ _ k42 => testNote_canon k42)
  exact foldl_canon c40 (fun _ _ k43 => foldl_canon k43 (fun _ _ k44 => testNote_canon ((decideFind_canon k44).ok)))
theorem runTier_canon {x0 x1 x2} (h0 : Canon x0) : Canon (@State.runTier x0 x1 x2) := by
  unfold State.runTier
  extract_lets v0 v1 v2 v3 v4
  have c41 : Canon v2 := foldl_canon h0 (fun _ _ k42 => testNote_canon ((decideCond_canon k42).ok))
  have c40 : Canon v3 := foldl_canon c41 (fun _ _ k43 => ite_canon (patternChannel_canon k43) k43)
  exact foldl_canon c40 (fun _ _ k44 => testBank_canon k44)
theorem shutdownDone_canon {x0} (h0 : Canon x0) : Canon (@State.shutdownDone x0) := by
  unfold State.shutdownDone
  exact latch_canon (setFlag_canon (setFlag_canon h0))
theorem tierTest_canon {x0 x1 x2} (h0 : Canon x0) : Canon (@State.tierTest x0 x1 x2) := by
  unfold State.tierTest
  extract_lets v0 v1
  have c41 : Canon v0 := runTier_canon h0
  have c40 : Canon v1 := ite_canon (permitDone_canon c41) c41
  exact ite_canon (ite_canon (nextTier_canon c40) (shutdownDone_canon (setFlag_canon (setFlag_canon c40)))) h0

/-! ### Machine/Observe.lean -/

theorem wCntCfg_canon {x0 x1 x2 x3 x4 x5} (h0 : Canon x0) : CanonR (@State.wCntCfg x0 x1 x2 x3 x4 x5) := by
  unfold State.wCntCfg
  exact ite_canon (done_canon (plainWrite_canon h0)) (ignored_canon h0)
theorem setCnt_canon {x0 x1 x2 x3} (h0 : Canon x0) : Canon (@State.setCnt x0 x1 x2 x3) := by
  unfold State.setCnt
  exact setReg_canon (setReg_canon h0)
theorem countOne_canon {x0 x1 x2 x3 x4 x5} (h0 : Canon x0) (h1 : CanonP x4) : CanonP (@State.countOne x0 x1 x2 x3 x4 x5)
    := by
  unfold State.countOne
  split
  · exact h1
  · extract_lets v40 v41
    exact CanonP.mk' (ite_canon (h1).ok (setCnt_canon (h1).ok))
theorem runCounters_canon {x0 x1 x2 x3} (h0 : Canon x0) (h1 : Canon x1) : Canon (@State.runCounters x0 x1 x2 x3) := by
  unfold State.runCounters
  extract_lets v0 v1 v2 v3
  have c40 : Canon v3 := Canon.upd h0
  exact ite_canon c40 ((foldl_canon (CanonP.mk' c40) (fun _ _ k41 => countOne_canon h0 k41)).ok)
theorem stopTrace_canon {x0 x1} (h0 : Canon x0) : Canon (@State.stopTrace x0 x1) := by
  unfold State.stopTrace
  extract_lets v0 v1 v2
  have c41 : Canon v0 := setFld_canon (setFlag_canon h0)
  have c40 : Canon v2 := Canon.upd c41
  exact ite_canon c40 (latch_canon c40)
theorem putEntry_canon {x0 x1 x2 x3 x4} (h0 : Canon x0) : Canon (@State.putEntry x0 x1 x2 x3 x4) := by
  unfold State.putEntry
  extract_lets v0 v1 v2 v3 v4 v5
  have c42 : Canon v3 := Canon.upd h0
  have c41 : Canon v4 := setFld_canon c42
  have c40 : Canon v5 := setFlag_canon c41
  exact ite_canon h0 (ite_canon (ite_canon c40 (stopTrace_canon c40)) c41)
theorem trigger_canon {x0 x1 x2} (h0 : Canon x0) : Canon (@State.trigger x0 x1 x2) := by
  unfold State.trigger
  extract_lets v0
  exact ite_canon (Canon.upd h0) h0
theorem queueEntry_canon {x0 x1 x2 x3 x4} (h0 : Canon x0) : Canon (@State.queueEntry x0 x1 x2 x3 x4) := by
  unfold State.queueEntry
  extract_lets v0 v1 v2 v3
  have c40 : Canon v3 := Canon.upd h0
  exact ite_canon (countGl_canon (Canon.upd h0)) (putEntry_canon (ite_canon c40 (putEntry_canon c40)))
theorem traceOne_canon {x0 x1} (h0 : Canon x0) : Canon (@State.traceOne x0 x1) := by
  unfold State.traceOne
  exact ite_canon h0 (by
    split
    · exact h0
    · exact stopTrace_canon h0
    · exact trigger_canon (ite_canon (queueEntry_canon h0) h0))
theorem wObsCtl_canon {x0 x1 x2} (h0 : Canon x0) : CanonR (@State.wObsCtl x0 x1 x2) := by
  unfold State.wObsCtl
  extract_lets v0 v1 v2 v3 v4
  have c41 : Canon v2 := plainWrite_canon h0
  have c40 : Canon v3 := ite_canon (setFlag_canon c41) c41
  exact done_canon (Canon.upd c40)
theorem snapOne_canon {x0 x1 x2} (h0 : Canon x0) : Canon (@State.snapOne x0 x1 x2) := by
  unfold State.snapOne
  extract_lets v0
  exact setReg_canon (setReg_canon h0)
theorem snapshotAt_canon {x0 x1} (h0 : Canon x0) : Canon (@State.snapshotAt x0 x1) := by
  unfold State.snapshotAt
  extract_lets v0 v1 v2 v3
  have c41 : Canon v1 := Canon.upd h0
  have c40 : Canon v2 := foldl_canon c41 (fun _ _ k42 => snapOne_canon k42)
  exact setFlag_canon (setReg_canon (setReg_canon (setReg_canon c40)))
theorem clearCounters_canon {x0} (h0 : Canon x0) : Canon (@State.clearCounters x0) := by
  unfold State.clearCounters
  exact foldl_canon h0 (fun _ _ k0 => ite_canon k0 (setCnt_canon k0))
theorem cntWritten_canon {x0 x1 x2} (h0 : Canon x0) : Canon (@State.cntWritten x0 x1 x2) := by
  unfold State.cntWritten
  extract_lets v0 v1
  have c40 : Canon v1 := Canon.upd h0
  exact ite_canon (snapOne_canon c40) c40
theorem instantAt_canon {x0 x1 x2} (h0 : Canon x0) (h1 : Canon x1) : Canon (@State.instantAt x0 x1 x2) := by
  unfold State.instantAt
  extract_lets v0 v1 v2
  have c40 : Canon v0 := runCounters_canon h0 h1
  have c40 : Canon v0 := runCounters_canon h0 h1
  have c41 : Canon v1 := ite_canon (snapshotAt_canon c40) c40
  have c41 : Canon v1 := ite_canon (snapshotAt_canon c40) c40
  have c42 : Canon v2 := ite_canon (clearCounters_canon c41) c41
  have c42 : Canon v2 := ite_canon (clearCounters_canon c41) c41
  split
  · exact setFlag_canon c42
  · exact c42
theorem passInstants_canon {x0 x1} (h0 : Canon x0) (h1 : Canon x1) : Canon (@State.passInstants x0 x1) := by
  unfold State.passInstants
  extract_lets v0 v1
  exact foldl_canon (Canon.upd h0) (fun _ _ k40 => instantAt_canon k40 h1)
theorem obsInstant_canon {x0} (h0 : Canon x0) : Canon (@State.obsInstant x0) := by
  unfold State.obsInstant
  split
  · exact h0
  · exact ite_canon (advanceGain_canon h0) h0
theorem observe_canon {x0 x1} (h0 : Canon x0) (h1 : Canon x1) : Canon (@State.observe x0 x1) := by
  unfold State.observe
  extract_lets v0 v1 v2 v3 v4
  have c41 : Canon v2 := Canon.upd h0
  have c40 : Canon v3 := foldl_canon (passInstants_canon c41 h1) (fun _ _ k42 => traceOne_canon k42)
  exact runCounters_canon (Canon.upd c40) h1
theorem seedTags_canon {x0 x1} (h0 : Canon x0) (h1 : Canon x1) : Canon (@State.seedTags x0 x1) := by
  unfold State.seedTags
  extract_lets v0 v1 v2
  exact ite_canon (Canon.upd h0) h0
theorem wTagCfg_canon {x0 x1 x2} (h0 : Canon x0) : CanonR (@State.wTagCfg x0 x1 x2) := by
  unfold State.wTagCfg
  exact done_canon (seedTags_canon (plainWrite_canon h0) h0)
theorem setQuiet_canon {x0 x1 x2} (h0 : Canon x0) : Canon (@State.setQuiet x0 x1 x2) := by
  unfold State.setQuiet
  split
  · extract_lets v40
    exact ite_canon (setArray_canon (setSlot_canon h0)) (setStored_canon h0)
  · exact setStored_canon h0
theorem putTag_canon {x0 x1 x2} (h0 : Canon x0) : Canon (@State.putTag x0 x1 x2) := by
  unfold State.putTag
  extract_lets v0 v1 v2 v3 v4 v5 v6
  have c42 : Canon v4 := storeHit_canon h0
  have c41 : Canon v5 := setFld_canon (setQuiet_canon c42)
  have c40 : Canon v6 := ite_canon (bump_canon c41) c41
  exact ite_canon (latch_canon c40) c40
theorem dropTag_canon {x0 x1} (h0 : Canon x0) : Canon (@State.dropTag x0 x1) := by
  unfold State.dropTag
  extract_lets v0
  exact Canon.upd h0
theorem tagTo_canon {x0 x1 x2 x3} (h0 : Canon x0) (h1 : CanonO x3) : Canon (@State.tagTo x0 x1 x2 x3) := by
  unfold State.tagTo
  split
  · exact h0
  · exact putTag_canon (dropTag_canon (CanonO.get (by assumption)))
theorem rowCycle_canon {x0 x1 x2} (h0 : Canon x0) : CanonO (@State.rowCycle x0 x1 x2) := by
  unfold State.rowCycle
  exact ite_canon CanonO.none (CanonO.some (countCh_canon (activate_canon h0)))
theorem tagCycles_canon {x0 x1} (h0 : Canon x0) : CanonO (@State.tagCycles x0 x1) := by
  unfold State.tagCycles
  exact bind_canon (idleCycle_canon h0) (fun _ k0 => rowCycle_canon k0)
theorem tagWrite_canon {x0 x1} (h0 : Canon x0) : Canon (@State.tagWrite x0 x1) := by
  unfold State.tagWrite
  split
  · exact h0
  · exact ite_canon (bump_canon (dropTag_canon h0)) (tagTo_canon h0 (tagCycles_canon h0))
theorem wTrcCtl_canon {x0 x1 x2} (h0 : Canon x0) : CanonR (@State.wTrcCtl x0 x1 x2) := by
  unfold State.wTrcCtl
  extract_lets v0 v1 v2 v3 v4 v5
  have c40 : Canon v1 := plainWrite_canon h0
  have c40 : Canon v1 := plainWrite_canon h0
  have c41 : Canon v2 := setFld_canon (setFlag_canon (setFlag_canon c40))
  have c41 : Canon v2 := setFld_canon (setFlag_canon (setFlag_canon c40))
  have c42 : Canon v4 := setFlag_canon c40
  have c42 : Canon v4 := setFlag_canon c40
  split
  · exact done_canon c40
  · exact done_canon (Canon.upd c41)
  · exact done_canon (ite_canon (stopTrace_canon c40) c40)
  · exact ite_canon (ignored_canon h0) (done_canon (Canon.upd c42))
  · exact ignored_canon h0
theorem postStop_canon {x0} (h0 : Canon x0) : Canon (@State.postStop x0) := by
  unfold State.postStop
  exact ite_canon (stopTrace_canon h0) h0
theorem exportEnd_canon {x0} (h0 : Canon x0) : Canon (@State.exportEnd x0) := by
  unfold State.exportEnd
  extract_lets v0
  split
  · exact h0
  · exact ite_canon (latch_canon (setFlag_canon (Canon.upd h0))) h0
theorem wTrcRd_canon {x0 x1 x2} (h0 : Canon x0) : CanonR (@State.wTrcRd x0 x1 x2) := by
  unfold State.wTrcRd
  extract_lets v0 v1
  have c40 : Canon v0 := plainWrite_canon h0
  exact done_canon (setFlag_canon (each_canon c40 (fun _ _ k41 => setReg_canon k41)))
theorem wTrcMark_canon {x0 x1} (h0 : Canon x0) : CanonR (@State.wTrcMark x0 x1) := by
  unfold State.wTrcMark
  exact done_canon (traceEv_canon h0)

/-! ### Machine/Modes.lean -/

theorem enterReset_canon {x0} (h0 : Canon x0) : Canon (State.enterReset x0) :=
  loseArray_canon (.five (keepParts_wf x0 _ _) rfl rfl rfl rfl)
theorem pwrokFall_canon {x0} (h0 : Canon x0) : Canon (@State.pwrokFall x0) := by
  unfold State.pwrokFall
  extract_lets v0 v1
  have c40 : Canon v1 := Canon.upd h0
  exact ite_canon c40 (enterReset_canon c40)
theorem pwrokRise_canon {x0} (h0 : Canon x0) : Canon (@State.pwrokRise x0) := by
  unfold State.pwrokRise
  extract_lets v0
  exact Canon.upd h0
theorem rstNFall_canon {x0} (h0 : Canon x0) : Canon (@State.rstNFall x0) := by
  unfold State.rstNFall
  extract_lets v0 v1
  have c40 : Canon v1 := Canon.upd h0
  exact ite_canon c40 (enterReset_canon c40)
theorem failStep_canon {x0 x1} (h0 : Canon x0) : Canon (@State.failStep x0 x1) := by
  unfold State.failStep
  extract_lets v0
  exact ite_canon (setFld_canon h0) h0
theorem failWhen_canon {x0 x1 x2 x3} (h0 : Canon x0) (h1 : ∀ y0, Canon y0 → Canon (x3 y0)) : Canon (@State.failWhen x0
    x1 x2 x3) := by
  unfold State.failWhen
  exact ite_canon (failStep_canon (h1 _ h0)) h0
theorem bring1_canon {x0 x1} (h0 : Canon x0) : Canon (@State.bring1 x0 x1) := by
  unfold State.bring1
  extract_lets v0 v1
  exact failWhen_canon (Canon.upd h0) (fun _ k40 => raiseCond_canon k40)
theorem release_canon {x0 x1} (h0 : Canon x0) : Canon (@State.release x0 x1) := by
  unfold State.release
  exact foldl_canon h0 (fun _ _ k0 => setFlag_canon k0)
theorem bring2_canon {x0 x1} (h0 : Canon x0) : Canon (@State.bring2 x0 x1) := by
  unfold State.bring2
  extract_lets v0 v1 v2
  have c40 : Canon v0 := lockPll_canon (lockPll_canon h0)
  have c42 : Canon v1 := ite_canon c40 (stopHalf_canon c40)
  have c41 : Canon v2 := ite_canon c42 (stopHalf_canon c42)
  exact ite_canon (release_canon c40) (failStep_canon (raiseCond_canon c41))
theorem bring3_canon {x0 x1} (h0 : Canon x0) : Canon (@State.bring3 x0 x1) := by
  unfold State.bring3
  exact ite_canon (applyFuses_canon h0) (raise_canon (failStep_canon h0))
theorem fromMram_canon {x0 x1} (h0 : Canon x0) : Canon (@State.fromMram x0 x1) := by
  unfold State.fromMram
  exact foldl_canon h0 (fun _ _ k0 => setReg_canon k0)
theorem setBoot_canon {x0 x1} (h0 : Canon x0) : Canon (@State.setBoot x0 x1) := by
  unfold State.setBoot
  exact each_canon h0 (fun _ _ k0 => setFld_canon k0)
theorem restoreSummary_canon {x0 x1} (h0 : Canon x0) : Canon (@State.restoreSummary x0 x1) := by
  unfold State.restoreSummary
  extract_lets v0
  have c40 : Canon v0 := each_canon (fromMram_canon h0) (fun _ _ k41 => ite_canon (setFld_canon (setReg_canon
      (setReg_canon k41))) (setFld_canon k41))
  exact ite_canon c40 (raise_canon c40)
theorem fallBack_canon {x0 x1} (h0 : Canon x0) : Canon (@State.fallBack x0 x1) := by
  unfold State.fallBack
  extract_lets v0 v1
  split
  · exact ite_canon (Canon.upd h0) h0
  · exact h0
theorem spoilAudit_canon {x0 x1} (h0 : Canon x0) : Canon (@State.spoilAudit x0 x1) := by
  unfold State.spoilAudit
  exact foldl_canon h0 (fun _ _ k40 => ite_canon k40 (Canon.upd k40))
theorem bring4_canon {x0 x1} (h0 : Canon x0) : Canon (@State.bring4 x0 x1) := by
  unfold State.bring4
  extract_lets v0 v1 v2
  have c42 : Canon v0 := fallBack_canon (failWhen_canon h0 (fun _ k43 => raise_canon k43))
  have c41 : Canon v1 := each_canon (spoilSlots_canon c42) (fun _ _ k44 => loadRecord_canon k44)
  have c40 : Canon v2 := failWhen_canon c41 (fun _ k45 => id_canon k45)
  exact ite_canon (raise_canon (failStep_canon h0)) (failWhen_canon (restoreSummary_canon (restoreLevels_canon
      (fromMram_canon (spoilAudit_canon c40)))) (fun _ k46 => id_canon k46))
theorem logEnded_canon {x0} (h0 : Canon x0) : Canon (@State.logEnded x0) := by
  unfold State.logEnded
  extract_lets v0
  exact foldl_canon (Canon.upd h0) (fun _ _ k40 => auditOf_canon k40)
theorem bootCores_canon {x0} (h0 : Canon x0) : Canon (@State.bootCores x0) := by
  unfold State.bootCores
  extract_lets v0
  have c40 : Canon v0 := heartbeat_canon (heartbeat_canon h0)
  exact setFld_canon c40
theorem bring5_canon {x0 x1} (h0 : Canon x0) : Canon (@State.bring5 x0 x1) := by
  unfold State.bring5
  extract_lets v0
  have c40 : Canon v0 := each_canon (release_canon (bootCores_canon h0)) (fun _ _ k41 => ite_canon (setFld_canon
      (setFlag_canon k41)) (ite_canon (sidebandUp_canon (setStage_canon k41)) (setStage_canon k41)))
  exact ite_canon (raise_canon (failStep_canon h0)) (logEnded_canon (Canon.upd c40))
theorem bring6With_canon {x0 x1} (h0 : Canon x0) : Canon (@State.bring6With x0 x1) := by
  unfold State.bring6With
  extract_lets v0 v1
  have c41 : Canon v0 := ite_canon (each_canon h0 (fun _ _ k42 => setChState_canon k42)) (applyLedger_canon h0)
  have c40 : Canon v1 := failWhen_canon c41 (fun _ k43 => id_canon k43)
  exact each_canon c40 (fun _ _ k44 => ite_canon k44 (setChState_canon k44))
theorem bring6_canon {x0 x1} (h0 : Canon x0) : Canon (@State.bring6 x0 x1) := by
  unfold State.bring6
  exact bring6With_canon h0
theorem bring6Late_canon {x0 x1 x2} (h0 : Canon x0) : Canon (@State.bring6Late x0 x1 x2) := by
  unfold State.bring6Late
  extract_lets v0
  exact failStep_canon (each_canon (bring6With_canon h0) (fun _ _ k40 => ite_canon (raise_canon k40) k40))
theorem bring8_canon {x0} (h0 : Canon x0) : Canon (@State.bring8 x0) := by
  unfold State.bring8
  exact each_canon h0 (fun _ _ k0 => ite_canon (startTraining_canon k0) k0)
theorem bring9_canon {x0} (h0 : Canon x0) : Canon (@State.bring9 x0) := by
  unfold State.bring9
  exact setFlag_canon (each_canon h0 (fun _ _ k0 => setFld_canon (modChan_canon k0)))
theorem bring11_canon {x0 x1} (h0 : Canon x0) : Canon (@State.bring11 x0 x1) := by
  unfold State.bring11
  extract_lets v0 v1
  have c41 : Canon v0 := failWhen_canon h0 (fun _ k42 => raiseCond_canon (Canon.upd k42))
  have c40 : Canon v1 := failWhen_canon c41 (fun _ k43 => raiseCond_canon (Canon.upd k43))
  exact each_canon c40 (fun _ _ k44 => sensorSample_canon k44)
theorem loadTimings_canon {x0} (h0 : Canon x0) : Canon (@State.loadTimings x0) := by
  unfold State.loadTimings
  exact each_canon h0 (fun _ _ k0 => ite_canon k0 (setFlag_canon (setFlag_canon k0)))
theorem bring7_canon {x0 x1} (h0 : Canon x0) : Canon (@State.bring7 x0 x1) := by
  unfold State.bring7
  extract_lets v0
  have c40 : CanonP v0 := step7_canon h0
  exact failWhen_canon (loadTimings_canon (c40).ok) (fun _ k41 => id_canon k41)
theorem bring10_canon {x0 x1} (h0 : Canon x0) : Canon (@State.bring10 x0 x1) := by
  unfold State.bring10
  exact each_canon h0 (fun _ _ k0 => ite_canon k0 (ite_canon (failStep_canon (chanOffline_canon k0)) (trackFill_canon
      (fillService_canon k0))))
theorem bring12_canon {x0 x1} (h0 : Canon x0) : Canon (@State.bring12 x0 x1) := by
  unfold State.bring12
  extract_lets v0 v1 v2 v3 v4 v5 v6
  have c42 : Canon v1 := each_canon (failWhen_canon h0 (fun _ k43 => id_canon k43)) (fun _ _ k44 => ite_canon
      (chanOnline_canon k44) k44)
  have c41 : Canon v2 := setFld_canon (setFld_canon c42)
  have c40 : Canon v3 := setFld_canon (setSteps_canon c41)
  exact Canon.upd c40
theorem bringCheck_canon {x0} (h0 : Canon x0) : Canon (@State.bringCheck x0) := by
  unfold State.bringCheck
  split
  · exact ite_canon (bring12_canon h0) h0
  · exact h0
theorem bringStep_canon {x0 x1 x2} (h0 : Canon x0) : Canon (@State.bringStep x0 x1 x2) := by
  unfold State.bringStep
  split
  · exact bring1_canon h0
  · exact bring2_canon h0
  · exact bring3_canon h0
  · exact bring4_canon h0
  · exact bring5_canon h0
  · exact bring6_canon h0
  · exact bring7_canon h0
  · exact bring8_canon h0
  · exact bring9_canon h0
  · exact bring10_canon h0
  · exact bring11_canon h0
  · exact h0
theorem bringAt_canon {x0 x1} (h0 : Canon x0) : Canon (@State.bringAt x0 x1) := by
  unfold State.bringAt
  exact Canon.upd h0
theorem bringRun_canon {x0 x1 x2} (h0 : Canon x0) : Canon (State.bringRun x0 x1 x2) := by
  induction x2 generalizing x0 with
  | nil => exact bringCheck_canon (bringAt_canon h0)
  | cons k r ih =>
    unfold State.bringRun
    exact ite_canon h0 (ite_canon (bringAt_canon h0) (ih (bringStep_canon (bringAt_canon h0))))
theorem diesGood_canon {x0} (h0 : Canon x0) : Canon (@State.diesGood x0) := by
  unfold State.diesGood
  exact setFld_canon (setFld_canon h0)
theorem beginBringUp_canon {x0 x1 x2} (h0 : Canon x0) : Canon (@State.beginBringUp x0 x1 x2) := by
  unfold State.beginBringUp
  exact Canon.upd h0
theorem outOfReset_canon {x0 x1} (h0 : Canon x0) : Canon (@State.outOfReset x0 x1) := by
  unfold State.outOfReset
  exact beginBringUp_canon (diesGood_canon (setFlag_canon (release_canon h0)))
theorem rstNRise_canon {x0 x1} (h0 : Canon x0) : Canon (@State.rstNRise x0 x1) := by
  unfold State.rstNRise
  extract_lets v0 v1
  have c40 : Canon v1 := Canon.upd h0
  exact ite_canon (bringRun_canon (ite_canon (outOfReset_canon c40) (freeRun_canon (outOfReset_canon c40)))) c40
theorem bringFail_canon {x0 x1 x2 x3} (h0 : Canon x0) : Canon (@State.bringFail x0 x1 x2 x3) := by
  unfold State.bringFail
  extract_lets v0
  split
  · exact bring1_canon h0
  · exact bring2_canon h0
  · exact bring3_canon h0
  · exact bring4_canon h0
  · exact bring5_canon h0
  · exact bring6Late_canon h0
  · exact failStep_canon (each_canon (bring7_canon h0) (fun _ _ k40 => ite_canon (trainFail_canon k40) k40))
  · exact failStep_canon (bring9_canon h0)
  · exact failStep_canon (each_canon (bring10_canon h0) (fun _ _ k41 => ite_canon (chanOffline_canon k41) k41))
  · exact bring11_canon h0
  · exact h0
theorem bringTimeout_canon {x0 x1 x2} (h0 : Canon x0) : Canon (@State.bringTimeout x0 x1 x2) := by
  unfold State.bringTimeout
  split
  · extract_lets v40 v41 v42
    have c81 : Canon v42 := bringFail_canon (Canon.upd h0)
    exact ite_canon h0 (ite_canon (bringCheck_canon (each_canon h0 (fun _ _ k80 => ite_canon (trainDeadline_canon k80)
        k80))) (bringRun_canon c81))
  · exact h0
theorem wChState_canon {x0 x1 x2} (h0 : Canon x0) : CanonR (@State.wChState x0 x1 x2) := by
  unfold State.wChState
  extract_lets v0 v1
  exact ite_canon (done_canon h0) (ite_canon (ignored_canon h0) (by
    clear_value v1
    split
    · exact ite_canon (done_canon (chanDrain_canon h0)) (ignored_canon h0)
    · exact ite_canon (done_canon (modChan_canon (chanOnline_canon h0))) (ignored_canon h0)
    · exact ite_canon (done_canon (runStart_canon h0)) (ignored_canon h0)
    · exact ite_canon (done_canon (chanOffline_canon h0)) (ignored_canon h0)
    · exact ite_canon (done_canon (recover_canon h0)) (ignored_canon h0)
    · exact ite_canon (done_canon (ledgerQueue_canon (setFlag_canon h0))) (ignored_canon h0)
    · exact ignored_canon h0))
theorem applyAll_canon {x0} (h0 : Canon x0) : Canon (@State.applyAll x0) := by
  unfold State.applyAll
  exact putExceeded_canon (putSum_canon (admitRaises_canon (applyLower_canon (putDeliverable_canon (each_canon
      (settleLevels_canon (settleDue_canon (applyShadows_canon h0) h0) h0) (fun _ _ k0 => followPreset_canon k0))))))
theorem spareLeft_canon {x0 x1} (h0 : Canon x0) : Canon (@State.spareLeft x0 x1) := by
  unfold State.spareLeft
  split
  · exact spareOut_canon (moveCycle_canon h0)
  · exact h0
theorem emptySlots_canon {x0 x1} (h0 : Canon x0) : Canon (@State.emptySlots x0 x1) := by
  unfold State.emptySlots
  extract_lets v0 v1 v2 v3
  have c43 : Canon v0 := foldl_canon (spareLeft_canon h0) (fun _ _ k44 => lapStep_canon k44)
  have c42 : Canon v1 := foldl_canon c43 (fun _ _ k45 => ite_canon (putBack_canon k45) k45)
  have c41 : Canon v2 := by
    unfold v2
    split
    · exact putBack_canon c42
    · exact c42
  have c40 : Canon v3 := modChan_canon c41
  exact Canon.upd c40
theorem parkLinks_canon {x0} (h0 : Canon x0) : Canon (@State.parkLinks x0) := by
  unfold State.parkLinks
  exact each_canon h0 (fun _ _ k0 => ite_canon (setStage_canon k0) k0)
theorem commitMram_canon {x0} (h0 : Canon x0) : Canon (@State.commitMram x0) := by
  unfold State.commitMram
  extract_lets v0 v1 v2 v3 v4
  have c43 : Canon v0 := each_canon h0 (fun _ _ k44 => ledgerWriteDone_canon k44)
  have c42 : Canon v1 := ite_canon (ledgerActionEnd_canon c43) c43
  have c41 : Canon v2 := each_canon (commitPending_canon c42) (fun _ _ k45 => auditEnd_canon k45)
  have c40 : Canon v3 := save_canon (save_canon c41)
  exact Canon.upd c40
theorem noteEntry_canon {x0} (h0 : Canon x0) : Canon (@State.noteEntry x0) := by
  unfold State.noteEntry
  exact Canon.upd h0
theorem enterSelfRefresh_canon {x0} (h0 : Canon x0) : Canon (@State.enterSelfRefresh x0) := by
  unfold State.enterSelfRefresh
  extract_lets v0 v1
  have c41 : Canon v0 := foldl_canon (applyAll_canon (noteEntry_canon h0)) (fun _ _ k42 => emptySlots_canon k42)
  have c40 : Canon v1 := parkLinks_canon c41
  exact Canon.upd c40
theorem countCtx_canon {x0 x1} (h0 : Canon x0) : Canon (State.countCtx x0 x1) :=
  .five h0.parts.1 (countCtx_wf _ _ h0.parts.2.1) h0.parts.2.2.1 h0.parts.2.2.2.1 h0.parts.2.2.2.2
theorem saveContext_canon {x0 x1} (h0 : Canon x0) : Canon (@State.saveContext x0 x1) := by
  unfold State.saveContext
  extract_lets v0 v1 v2
  have c40 : Canon v0 := setFld_canon (setFld_canon (setFlag_canon h0))
  exact countCtx_canon (Canon.upd c40)
theorem powerOff_canon {x0} (h0 : Canon x0) : Canon (State.powerOff x0) := by
  unfold State.powerOff
  extract_lets a b
  have c : Canon b := each_canon (lockPll_canon (lockPll_canon (dropSession_canon h0))) (fun _ _ k => setFlag_canon k)
  exact Canon.off c
theorem enterDeep_canon {x0 x1} (h0 : Canon x0) : Canon (@State.enterDeep x0 x1) := by
  unfold State.enterDeep
  extract_lets v0
  have c40 : Canon v0 := ite_canon (applyAll_canon h0) (enterSelfRefresh_canon h0)
  exact powerOff_canon (saveContext_canon c40)
theorem exitDone_canon {x0} (h0 : Canon x0) : Canon (@State.exitDone x0) := by
  unfold State.exitDone
  extract_lets v0 v1
  have c40 : Canon v1 := setFlag_canon (Canon.upd h0)
  exact latch_canon (ite_canon c40 (setFlag_canon c40))
theorem checkPoints_canon {x0 x1 x2} (h0 : Canon x0) : Canon (@State.checkPoints x0 x1 x2) := by
  unfold State.checkPoints
  exact each_canon h0 (fun _ _ k40 => ite_canon k40 (ite_canon ((ite_canon (restoreChannel_canon k40)
      (checkChannel_canon k40)).ok) (raise_canon (chanOffline_canon ((ite_canon (restoreChannel_canon k40)
      (checkChannel_canon k40)).ok)))))
theorem wake'_canon {x0 x1 x2} (h0 : Canon x0) : Canon (@State.wake' x0 x1 x2) := by
  unfold State.wake'
  extract_lets v0 v1 v2 v3
  have c42 : Canon v1 := setFld_canon h0
  have c41 : Canon v2 := ite_canon (checkPoints_canon c42) c42
  have c40 : Canon v3 := each_canon (Canon.upd c41) (fun _ _ k43 => modChan_canon (handBack_canon k43))
  exact each_canon c40 (fun _ _ k44 => ite_canon (setStage_canon k44) k44)
theorem restoreFields_canon {x0 x1 x2} (h0 : Canon x0) : Canon (@State.restoreFields x0 x1 x2) := by
  unfold State.restoreFields
  extract_lets v0
  have c40 : Canon v0 := foldl_canon h0 (fun _ _ k41 => by
    split
    · exact setReg_canon k41
    · exact k41)
  exact ite_canon (each_canon (seedTags_canon c40 h0) (fun _ _ k42 => by
    split
    · exact modEng_canon k42
    · exact k42)) (raise_canon h0)
theorem putMap_canon {x0 x1 x2} (h0 : Canon x0) : Canon (@State.putMap x0 x1 x2) := by
  unfold State.putMap
  exact setFld_canon (modChan_canon h0)
theorem putTrackers_canon {x0 x1 x2} (h0 : Canon x0) : Canon (@State.putTrackers x0 x1 x2) := by
  unfold State.putTrackers
  exact modChan_canon h0
theorem restoreMap_canon {x0 x1 x2 x3} (h0 : Canon x0) : Canon (@State.restoreMap x0 x1 x2 x3) := by
  unfold State.restoreMap
  extract_lets v0 v1 v2
  have c40 : Canon v1 := putMap_canon h0
  have c41 : Canon v2 := raise_canon (setFlag_canon (chanOffline_canon h0))
  exact ite_canon h0 (ite_canon (ite_canon (restartTrackers_canon c40) (putTrackers_canon c40)) (ite_canon
      (restartTrackers_canon c41) c41))
theorem exitDeep_canon {x0 x1} (h0 : Canon x0) : Canon (@State.exitDeep x0 x1) := by
  unfold State.exitDeep
  extract_lets v0 v1 v2 v3 v4 v5 v6 v7 v8 v9 v10
  have c41 : Canon v0 := lockPll_canon (lockPll_canon h0)
  have c40 : Canon v1 := each_canon c41 (fun _ _ k42 => setFlag_canon k42)
  have c47 : Canon v4 := setBoot_canon (fromMram_canon (each_canon c40 (fun _ _ k48 => loadRecord_canon k48)))
  have c46 : Canon v5 := restoreFields_canon c47
  have c45 : Canon v6 := each_canon c46 (fun _ _ k49 => restoreMap_canon k49)
  have c44 : Canon v8 := Canon.upd c45
  have c43 : Canon v9 := wake'_canon c44
  exact ite_canon (raiseCond_canon (stopHalf_canon (stopHalf_canon c40))) (exitDone_canon (logEnded_canon (endRun_canon
      (setFlag_canon c43))))
theorem exitSelfRefresh_canon {x0 x1} (h0 : Canon x0) : Canon (@State.exitSelfRefresh x0 x1) := by
  unfold State.exitSelfRefresh
  exact exitDone_canon (wake'_canon h0)
theorem shutdown_canon {x0} (h0 : Canon x0) : Canon (@State.shutdown x0) := by
  unfold State.shutdown
  extract_lets v0
  have c40 : Canon v0 := commitMram_canon (enterSelfRefresh_canon h0)
  exact shutdownDone_canon c40
theorem shutdownTest_canon {x0} (h0 : Canon x0) : Canon (@State.shutdownTest x0) := by
  unfold State.shutdownTest
  extract_lets v0 v1
  have c41 : Canon v0 := setFlag_canon (commitMram_canon h0)
  have c40 : Canon v1 := Canon.upd c41
  exact startTest_canon c40
theorem modeChange_canon {x0 x1 x2} (h0 : Canon x0) : Canon (@State.modeChange x0 x1 x2) := by
  unfold State.modeChange
  split
  · exact latch_canon (enterSelfRefresh_canon h0)
  · split
    · exact latch_canon (enterDeep_canon h0)
    · exact h0
  · exact ite_canon (exitSelfRefresh_canon h0) (ite_canon (exitDeep_canon h0) (exitDone_canon h0))
  · exact shutdown_canon h0
  · exact shutdownTest_canon h0
  · exact h0
theorem wGlbMode_canon {x0 x1 x2} (h0 : Canon x0) : CanonR (@State.wGlbMode x0 x1 x2) := by
  unfold State.wGlbMode
  extract_lets v0
  exact ite_canon (done_canon h0) (ite_canon (done_canon (modeChange_canon h0)) (ignored_canon h0))

/-! ### Machine/Access.lean -/

theorem readReg_canon {x0 x1 x2 x3 x4} (h0 : Canon x0) : CanonR (@State.readReg x0 x1 x2 x3 x4) := by
  unfold State.readReg
  extract_lets v0 v1
  exact ite_canon (popLog_canon h0) (by
    split
    · exact CanonR.mk' (Canon.setLatch h0)
    · exact ite_canon (by
        split
        · exact CanonR.mk' (Canon.setLatch h0)
        · exact CanonR.mk' h0) (CanonR.mk' h0))
theorem setHeld_canon {x0 x1 x2 x3} (h0 : Canon x0) : Canon (@State.setHeld x0 x1 x2 x3) := by
  unfold State.setHeld
  exact Canon.setHolder h0
theorem writeHigh_canon {x0 x1 x2 x3 x4 x5} (h0 : Canon x0) : CanonR (@State.writeHigh x0 x1 x2 x3 x4 x5) := by
  unfold State.writeHigh
  exact done_canon (setHeld_canon h0)
theorem summaryTick_canon {x0} (h0 : Canon x0) : Canon (@State.summaryTick x0) := by
  unfold State.summaryTick
  extract_lets v0 v1
  exact ite_canon (Canon.upd h0) h0
theorem tickWork_canon {x0} (h0 : Canon x0) : Canon (@State.tickWork x0) := by
  unfold State.tickWork
  extract_lets v0
  have c40 : Canon v0 := settleLevels_canon (settleDue_canon (applyShadows_canon h0) h0) h0
  exact ite_canon (raise_canon (Canon.upd c40)) (ite_canon c40 (summaryTick_canon (powerTick_canon (strapTick_canon
      c40))))
theorem ticksPast_canon {x0 x1} (h0 : Canon x0) (h1 : Canon x1) : Canon (@State.ticksPast x0 x1) := by
  unfold State.ticksPast
  extract_lets v0 v1
  have c40 : Canon v1 := ite_canon (qosWindow_canon h0) h0
  exact ite_canon (tickWork_canon c40) c40
theorem writeTimeLo_canon {x0 x1 x2} (h0 : Canon x0) : CanonR (@State.writeTimeLo x0 x1 x2) := by
  unfold State.writeTimeLo
  extract_lets v0 v1 v2
  have c40 : Canon v2 := setHeld_canon h0
  exact done_canon (ticksPast_canon (Canon.upd c40) h0)
theorem writeLow_canon {x0 x1 x2 x3 x4 x5 x6} (h0 : Canon x0) : CanonR (@State.writeLow x0 x1 x2 x3 x4 x5 x6) := by
  unfold State.writeLow
  extract_lets v0
  split
  · exact done_canon (setHeld_canon (plainWrite_canon (plainWrite_canon h0)))
  · exact done_canon (plainWrite_canon h0)
theorem wCnt_canon {x0 x1 x2 x3 x4 x5 x6 x7} (h0 : Canon x0) : CanonR (@State.wCnt x0 x1 x2 x3 x4 x5 x6 x7) := by
  unfold State.wCnt
  extract_lets v0
  have c40 : CanonR v0 := writeLow_canon h0
  exact CanonR.mk' (cntWritten_canon (c40).ok)
theorem wAddrMap_canon {x0 x1 x2} (h0 : Canon x0) : CanonR (@State.wAddrMap x0 x1 x2) := by
  unfold State.wAddrMap
  exact ite_canon (ignored_canon h0) (done_canon (plainWrite_canon h0))
theorem wAccFault_canon {x0 x1 x2} (h0 : Canon x0) : CanonR (@State.wAccFault x0 x1 x2) := by
  unfold State.wAccFault
  extract_lets v0
  have c40 : Canon v0 := plainWrite_canon h0
  exact done_canon (ite_canon (endCondition_canon c40) c40)
theorem wRailLimOf_canon {x0 x1 x2 x3} (h0 : Canon x0) : CanonR (@State.wRailLimOf x0 x1 x2 x3) := by
  unfold State.wRailLimOf
  exact ite_canon (wRailLim_canon h0) (deny_canon h0)
theorem secureQueue_canon {x0 x1 x2 x3 x4 x5} (h0 : Canon x0) (h1 : CanonR x5) : CanonR (@State.secureQueue x0 x1 x2 x3
    x4 x5) := by
  unfold State.secureQueue
  exact ite_canon (deny_canon h0) h1
theorem writeReg_canon {x0 x1 x2 x3 x4 x5 x6 x7} (h0 : Canon x0) : CanonR (@State.writeReg x0 x1 x2 x3 x4 x5 x6 x7) :=
    by
  unfold State.writeReg
  extract_lets v0
  split
  · exact writeTimeLo_canon h0
  · exact wGlbMode_canon h0
  · exact wAccFault_canon h0
  · exact wDieRst_canon h0
  · exact wIslCtl_canon h0
  · exact wFpointNext_canon h0
  · exact wAuthAssign_canon h0
  · exact wFwuCtl_canon h0
  · exact wSessCtl_canon h0
  · exact wResp_canon h0
  · exact wLcCtl_canon h0
  · exact wStrapOvr_canon h0
  · exact wTrnOvr_canon h0
  · exact wAudIdx_canon h0
  · exact wSticky_canon h0
  · exact wPinen_canon h0
  · exact wFltInj_canon h0
  · exact wDumpCfg_canon h0
  · exact wDumpCtl_canon h0
  · exact wRailLimOf_canon h0
  · exact wCalCtl_canon h0
  · exact wLdgCtl_canon h0
  · exact wFuseCtl_canon h0
  · exact wLdgIdx_canon h0
  · exact wTstIdx_canon h0
  · exact wWearCfg_canon h0
  · exact wCwyCfg_canon h0
  · exact wUciCtl_canon h0
  · exact wLpbkCtl_canon h0
  · exact wAddrMap_canon h0
  · exact wInjCtl_canon h0
  · exact wQosFence_canon h0
  · exact wFlow_canon h0
  · exact wFlow_canon h0
  · exact wFlow_canon h0
  · exact wChState_canon h0
  · exact wLagCtl_canon h0
  · exact secureQueue_canon h0 (wQcfg_canon h0)
  · exact secureQueue_canon h0 (wQctl_canon h0)
  · exact secureQueue_canon h0 (wQdb_canon h0)
  · exact secureQueue_canon h0 (done_canon (plainWrite_canon h0))
  · exact secureQueue_canon h0 (done_canon (plainWrite_canon h0))
  · exact wExdCtl_canon h0
  · exact wExdCfg_canon h0
  · exact ignored_canon h0
  · exact wExt_canon h0
  · exact wEccInj_canon h0
  · exact wVptProbe_canon h0
  · exact wCntCfg_canon h0
  · exact wCntCfg_canon h0
  · exact wCnt_canon h0
  · exact wCnt_canon h0
  · exact wObsCtl_canon h0
  · exact wTagCfg_canon h0
  · exact wTrcCtl_canon h0
  · exact wTrcRd_canon h0
  · exact wTrcMark_canon h0
  · exact ite_canon (writeHigh_canon h0) (by
      split
      · exact writeLow_canon h0
      · exact done_canon (plainWrite_canon h0))
theorem writeFatal_canon {x0 x1 x2 x3 x4} (h0 : Canon x0) : CanonR (@State.writeFatal x0 x1 x2 x3 x4) := by
  unfold State.writeFatal
  split
  · exact wDumpCtl_canon h0
  · exact wUciCtlFatal_canon h0
  · exact ignored_canon h0
theorem outOfRange_canon {x0 x1 x2 x3 x4 x5} (h0 : Canon x0) : CanonR (@State.outOfRange x0 x1 x2 x3 x4 x5) := by
  unfold State.outOfRange
  split
  · exact secureQueue_canon h0 (ignored_canon h0)
  · exact secureQueue_canon h0 (ignored_canon h0)
  · exact secureQueue_canon h0 (ignored_canon h0)
  · exact secureQueue_canon h0 (ignored_canon h0)
  · exact secureQueue_canon h0 (ignored_canon h0)
  · exact wSessBad_canon h0
  · exact ignored_canon h0
theorem writeChecked_canon {x0 x1 x2 x3 x4 x5 x6 x7 x8} (h0 : Canon x0) : CanonR (@State.writeChecked x0 x1 x2 x3 x4 x5
    x6 x7 x8) := by
  unfold State.writeChecked
  exact ite_canon (writeFatal_canon h0) (ite_canon (bounce_canon h0) (ite_canon (lockViolation_canon h0) (ite_canon
      (outOfRange_canon h0) (writeReg_canon h0))))
theorem accessReg_canon {x0 x1 x2 x3 x4 x5 x6 x7 x8 x9} (h0 : Canon x0) : CanonR (@State.accessReg x0 x1 x2 x3 x4 x5 x6
    x7 x8 x9) := by
  unfold State.accessReg
  extract_lets v0
  have c40 : CanonR v0 := writeChecked_canon h0
  exact ite_canon (deny_canon h0) (ite_canon (ite_canon (CanonR.mk' (traceEv_canon (c40).ok)) c40) (readReg_canon h0))
theorem access_canon {x0 x1 x2 x3 x4 x5 x6} (h0 : Canon x0) : CanonR (@State.access x0 x1 x2 x3 x4 x5 x6) := by
  unfold State.access
  extract_lets v0 v1 v2
  have c40 : Canon v0 := foldl_canon h0 (fun _ _ k41 => wake_canon k41)
  have c40 : Canon v0 := foldl_canon h0 (fun _ _ k41 => wake_canon k41)
  have c42 : CanonR v2 := by
    unfold v2
    split
    · exact ite_canon (ignored_canon c40) (done_canon c40)
    · exact accessReg_canon c40
  have c42 : CanonR v2 := by
    unfold v2
    split
    · exact ite_canon (ignored_canon c40) (done_canon c40)
    · exact accessReg_canon c40
  split
  · exact CanonR.mk' (accFault_canon h0)
  · exact CanonR.mk' h0
  · exact ite_canon (CanonR.mk' (noteAccess_canon (c42).ok)) c42
theorem finish_canon {x0 x1 x2 x3 x4} (h0 : CanonR x4) : Canon (@finish x0 x1 x2 x3 x4) := by
  unfold finish
  exact ite_canon (h0).ok (complete_canon (h0).ok)
theorem direct_canon {x0 x1 x2 x3 x4 x5} (h0 : Canon x0) : Canon (@State.direct x0 x1 x2 x3 x4 x5) := by
  unfold State.direct
  exact ite_canon (finish_canon (access_canon h0)) (ite_canon (complete_canon h0) h0)
theorem writeOn_canon {x0 x1 x2 x3 x4 x5} (h0 : Canon x0) : Canon (@State.writeOn x0 x1 x2 x3 x4 x5) := by
  unfold State.writeOn
  exact direct_canon h0
theorem sideband_canon {x0 x1 x2 x3} (h0 : Canon x0) : Canon (@State.sideband x0 x1 x2 x3) := by
  unfold State.sideband
  extract_lets v0 v1
  exact ite_canon h0 (ite_canon (bump_canon h0) (finish_canon (access_canon h0)))
theorem sidebandDiscard_canon {x0 x1} (h0 : Canon x0) : Canon (@State.sidebandDiscard x0 x1) := by
  unfold State.sidebandDiscard
  exact ite_canon (bump_canon h0) h0
theorem ctlMessage_canon {x0 x1 x2 x3 x4} (h0 : Canon x0) : Canon (@State.ctlMessage x0 x1 x2 x3 x4) := by
  unfold State.ctlMessage
  extract_lets v0 v1 v2 v3 v4
  have c40 : CanonP v0 := takeMessage_canon h0
  exact ite_canon (c40).ok (ite_canon (emit_canon (c40).ok) (ite_canon (complete_canon (c40).ok) (finish_canon
      (access_canon (c40).ok))))
theorem aLdCfg_canon {x0 x1 x2} (h0 : Canon x0) : CanonA (@State.aLdCfg x0 x1 x2) := by
  unfold State.aLdCfg
  extract_lets v0 v1
  have c40 : CanonR v1 := access_canon h0
  exact Att_when_canon (CanonA.done (setCfgStatus_canon (setG_canon (c40).ok)))
theorem aStCfg_canon {x0 x1 x2} (h0 : Canon x0) : CanonA (@State.aStCfg x0 x1 x2) := by
  unfold State.aStCfg
  extract_lets v0 v1
  have c40 : CanonR v1 := access_canon h0
  exact Att_when_canon (ite_canon (ite_canon (CanonA.wait h0) (CanonA.done (setCfgStatus_canon h0))) (ite_canon
      (CanonA.wait (setProgress_canon (c40).ok)) (CanonA.done (setCfgStatus_canon (c40).ok))))
theorem waitOver_canon {x0 x1} (h0 : Canon x0) : Canon (@State.waitOver x0 x1) := by
  unfold State.waitOver
  extract_lets v0
  split
  · exact ite_canon (settleAtt_canon h0 (aStCfg_canon h0)) (waitEnd_canon h0)
  · exact h0
theorem accessTimeout_canon {x0 x1 x2 x3 x4 x5} (h0 : Canon x0) : Canon (State.accessTimeout x0 x1 x2 x3 x4 x5) := by
  unfold State.accessTimeout
  extract_lets v0 v1 v2
  have c : Canon v2 := accFault_canon (ite_canon (access_canon (useFree_canon h0)).ok (useFree_canon h0))
  clear_value v2
  exact ite_canon h0 (by
    split
    · split
      · exact cfgEnd_canon c
      · exact h0
    all_goals exact complete_canon c)
theorem straitServe_canon {x0 x1 x2 x3 x4 x5} (h0 : Canon x0) : Canon (State.straitServe x0 x1 x2 x3 x4 x5) := by
  unfold State.straitServe
  extract_lets v0
  have c : CanonR v0 := access_canon h0
  clear_value v0
  exact ite_canon c.ok (ite_canon (by
    split
    · exact ite_canon (settleAtt_canon c.ok (CanonA.wait (setProgress_canon c.ok))) c.ok
    all_goals exact c.ok) (straitEnd_canon c.ok))
theorem straitReach_canon {x0 x1 x2} (h0 : Canon x0) : Canon (@State.straitReach x0 x1 x2) := by
  unfold State.straitReach
  split
  · exact ite_canon (straitServe_canon h0) h0
  · exact ite_canon (classify_canon h0) h0
  · exact h0
theorem straitTake_canon {x0 x1 x2} (h0 : Canon x0) : Canon (@State.straitTake x0 x1 x2) := by
  unfold State.straitTake
  extract_lets v0
  have c40 : Canon v0 := straitRead_canon h0
  have c40 : Canon v0 := straitRead_canon h0
  split
  · exact c40
  · exact ite_canon (straitReach_canon c40) c40
theorem pollClear_canon {x0 x1 x2 x3} (h0 : Canon x0) : Canon (@State.pollClear x0 x1 x2 x3) := by
  unfold State.pollClear
  extract_lets v0 v1 v2 v3
  have c40 : Canon v0 := direct_canon h0
  have c41 : Canon v3 := ite_canon c40 (setFld_canon c40)
  exact ite_canon c40 (setReg_canon c41)

/-! ### Machine/Commit.lean -/

theorem managementTick_canon {x0} (h0 : Canon x0) : Canon (@State.managementTick x0) := by
  unfold State.managementTick
  exact ite_canon h0 (tickWork_canon (advanceToMultiple_canon h0))
theorem recordEnd_canon {x0 x1 x2 x3} (h0 : Canon x0) : Canon (@State.recordEnd x0 x1 x2 x3) := by
  unfold State.recordEnd
  split
  · exact h0
  · exact ite_canon (save_canon h0) (raise_canon h0)
theorem mramWriteEnd_canon {x0 x1 x2} (h0 : Canon x0) : Canon (@State.mramWriteEnd x0 x1 x2) := by
  unfold State.mramWriteEnd
  extract_lets v0
  split
  · exact fatalWriteEnd_canon h0
  · exact auditEnd_canon h0
  · exact ite_canon h0 (recordEnd_canon (Canon.upd h0))
  · exact ite_canon h0 (recordEnd_canon (Canon.upd h0))
theorem setThrottle_canon {x0} (h0 : Canon x0) : Canon (@State.setThrottle x0) := by
  unfold State.setThrottle
  exact setFld_canon (holdFloor_canon h0)
theorem noteMode_canon {x0 x1} (h0 : Canon x0) (h1 : Canon x1) : Canon (@State.noteMode x0 x1) := by
  unfold State.noteMode
  extract_lets v0
  exact ite_canon h0 (traceEv_canon (latch_canon h0))
theorem countChange_canon {x0 x1} (h0 : Canon x0) (h1 : Canon x1) : Canon (@State.countChange x0 x1) := by
  unfold State.countChange
  extract_lets v0
  exact ite_canon h0 (setFld_canon h0)
theorem commit_canon {x0 x1} (h0 : Canon x0) (h1 : Canon x1) : Canon (@commit x0 x1) := by
  unfold commit
  extract_lets v0
  exact ite_canon (Canon.upd h1) (countChange_canon (observe_canon (noteMode_canon (setThrottle_canon (bringCheck_canon
      h1)) h0) h0) h0)
theorem finished_canon {x0 x1} (h0 : Canon x0) (h1 : Canon x1) : CanonN (@finished x0 x1) := by
  unfold finished
  exact CanonN.next (commit_canon h0 h1)

end Sys2Proof.Laws
end

