-- ==== Sys2Proof/Laws/CanonExec.lean ====
section
/-!
SUPPORT. Every operation keeps the canonical form of the stores (see Laws/Canon.lean): the commands.
-/
namespace Sys2Proof.Laws
open Sys2Proof Sys2Proof.Machine

/-! ### Machine/ExecPower.lean -/

theorem execPwrokRise_canon {x0} (h0 : Canon x0) : CanonN (@execPwrokRise x0) := by
  unfold execPwrokRise
  exact finished_canon h0 (pwrokRise_canon h0)
theorem execPwrokFall_canon {x0} (h0 : Canon x0) : CanonN (@execPwrokFall x0) := by
  unfold execPwrokFall
  exact finished_canon h0 (pwrokFall_canon h0)
theorem execRstNRise_canon {x0 x1} (h0 : Canon x1) : CanonN (@execRstNRise x0 x1) := by
  unfold execRstNRise
  exact finished_canon h0 (rstNRise_canon h0)
theorem execRstNFall_canon {x0} (h0 : Canon x0) : CanonN (@execRstNFall x0) := by
  unfold execRstNFall
  exact finished_canon h0 (rstNFall_canon h0)
theorem execBringupStepTimeout_canon {x0 x1 x2} (h0 : Canon x2) : CanonN (@execBringupStepTimeout x0 x1 x2) := by
  unfold execBringupStepTimeout
  exact finished_canon h0 (bringTimeout_canon h0)
theorem execCorePllLockLoss_canon {x0 x1} (h0 : Canon x1) : CanonN (@execCorePllLockLoss x0 x1) := by
  unfold execCorePllLockLoss
  exact finished_canon h0 (pllLoss_canon h0)
theorem execPllLockTimeout_canon {x0 x1} (h0 : Canon x1) : CanonN (@execPllLockTimeout x0 x1) := by
  unfold execPllLockTimeout
  exact finished_canon h0 (pllTimeout_canon h0)
theorem execCorePllRelock_canon {x0 x1} (h0 : Canon x1) : CanonN (@execCorePllRelock x0 x1) := by
  unfold execCorePllRelock
  exact finished_canon h0 (pllRelock_canon h0)
theorem execRefclkMeasure_canon {x0 x1} (h0 : Canon x1) : CanonN (@execRefclkMeasure x0 x1) := by
  unfold execRefclkMeasure
  exact finished_canon h0 (refMeasure_canon h0)
theorem execRefclkAbsent_canon {x0} (h0 : Canon x0) : CanonN (@execRefclkAbsent x0) := by
  unfold execRefclkAbsent
  exact finished_canon h0 (refAbsent_canon h0)
theorem execRefclkReturn_canon {x0} (h0 : Canon x0) : CanonN (@execRefclkReturn x0) := by
  unfold execRefclkReturn
  exact finished_canon h0 (refReturn_canon h0)
theorem execRefclkLossTimeout_canon {x0} (h0 : Canon x0) : CanonN (@execRefclkLossTimeout x0) := by
  unfold execRefclkLossTimeout
  exact finished_canon h0 (refTimeout_canon h0)
theorem execSpineStopSelfRefresh_canon {x0 x1} (h0 : Canon x1) : CanonN (@execSpineStopSelfRefresh x0 x1) := by
  unfold execSpineStopSelfRefresh
  exact finished_canon h0 (spineStop_canon h0)
theorem execIslandIdleGate_canon {x0 x1} (h0 : Canon x1) : CanonN (@execIslandIdleGate x0 x1) := by
  unfold execIslandIdleGate
  exact finished_canon h0 (idleGate_canon h0)
theorem execIslandWake_canon {x0 x1} (h0 : Canon x1) : CanonN (@execIslandWake x0 x1) := by
  unfold execIslandWake
  exact finished_canon h0 (islandWake_canon h0)
theorem execIslandResetReq_canon {x0 x1 x2 x3} (h0 : Canon x3) : CanonN (@execIslandResetReq x0 x1 x2 x3) := by
  unfold execIslandResetReq
  exact finished_canon h0 (writeOn_canon h0)
theorem execIslandResetRelease_canon {x0 x1} (h0 : Canon x1) : CanonN (@execIslandResetRelease x0 x1) := by
  unfold execIslandResetRelease
  exact finished_canon h0 (islandRelease_canon h0)
theorem execChannelFieldsRestore_canon {x0 x1} (h0 : Canon x1) : CanonN (@execChannelFieldsRestore x0 x1) := by
  unfold execChannelFieldsRestore
  exact finished_canon h0 (fieldsRestore_canon h0)
theorem execIslandGateWrite_canon {x0 x1 x2 x3} (h0 : Canon x3) : CanonN (@execIslandGateWrite x0 x1 x2 x3) := by
  unfold execIslandGateWrite
  exact finished_canon h0 (writeOn_canon h0)
theorem execStraitEntryWrite_canon {x0 x1 x2 x3} (h0 : Canon x3) : CanonN (@execStraitEntryWrite x0 x1 x2 x3) := by
  unfold execStraitEntryWrite
  exact finished_canon h0 (straitWrite_canon h0)
theorem execStraitEntryRead_canon {x0 x1 x2} (h0 : Canon x2) : CanonN (@execStraitEntryRead x0 x1 x2) := by
  unfold execStraitEntryRead
  exact finished_canon h0 (straitTake_canon h0)
theorem execStraitCreditReturn_canon {x0 x1} (h0 : Canon x1) : CanonN (@execStraitCreditReturn x0 x1) := by
  unfold execStraitCreditReturn
  exact finished_canon h0 (straitCredit_canon h0)
theorem execRailSample_canon {x0 x1 x2} (h0 : Canon x2) : CanonN (@execRailSample x0 x1 x2) := by
  unfold execRailSample
  exact finished_canon h0 (railSample_canon h0)
theorem execPwrRailLimWrite_canon {x0 x1 x2 x3} (h0 : Canon x3) : CanonN (@execPwrRailLimWrite x0 x1 x2 x3) := by
  unfold execPwrRailLimWrite
  exact finished_canon h0 (writeOn_canon h0)
theorem execDiePgoodTrip_canon {x0 x1 x2 x3} (h0 : Canon x3) : CanonN (@execDiePgoodTrip x0 x1 x2 x3) := by
  unfold execDiePgoodTrip
  exact finished_canon h0 (pgoodTrip_canon h0)
theorem execDiePgoodRestore_canon {x0 x1} (h0 : Canon x1) : CanonN (@execDiePgoodRestore x0 x1) := by
  unfold execDiePgoodRestore
  exact finished_canon h0 (pgoodRestore_canon h0)

/-! ### Machine/ExecRegs.lean -/

theorem execGlbTimeLoRead_canon {x0 x1} (h0 : Canon x1) : CanonN (@execGlbTimeLoRead x0 x1) := by
  unfold execGlbTimeLoRead
  exact finished_canon h0 (direct_canon h0)
theorem execGlbTimeHiRead_canon {x0 x1} (h0 : Canon x1) : CanonN (@execGlbTimeHiRead x0 x1) := by
  unfold execGlbTimeHiRead
  exact finished_canon h0 (direct_canon h0)
theorem execGlbTimeHiWrite_canon {x0 x1 x2} (h0 : Canon x2) : CanonN (@execGlbTimeHiWrite x0 x1 x2) := by
  unfold execGlbTimeHiWrite
  exact finished_canon h0 (writeOn_canon h0)
theorem execGlbTimeLoWrite_canon {x0 x1 x2} (h0 : Canon x2) : CanonN (@execGlbTimeLoWrite x0 x1 x2) := by
  unfold execGlbTimeLoWrite
  exact finished_canon h0 (writeOn_canon h0)
theorem execWideRegisterLoRead_canon {x0 x1 x2} (h0 : Canon x2) : CanonN (@execWideRegisterLoRead x0 x1 x2) := by
  unfold execWideRegisterLoRead
  exact finished_canon h0 (direct_canon h0)
theorem execWideRegisterHiWrite_canon {x0 x1 x2 x3} (h0 : Canon x3) : CanonN (@execWideRegisterHiWrite x0 x1 x2 x3) :=
    by
  unfold execWideRegisterHiWrite
  exact finished_canon h0 (direct_canon h0)
theorem execWideRegisterLoWrite_canon {x0 x1 x2 x3} (h0 : Canon x3) : CanonN (@execWideRegisterLoWrite x0 x1 x2 x3) :=
    by
  unfold execWideRegisterLoWrite
  exact finished_canon h0 (direct_canon h0)
theorem execRegisterWrite_canon {x0 x1 x2 x3} (h0 : Canon x3) : CanonN (@execRegisterWrite x0 x1 x2 x3) := by
  unfold execRegisterWrite
  exact finished_canon h0 (direct_canon h0)
theorem execManagementTick_canon {x0} (h0 : Canon x0) : CanonN (@execManagementTick x0) := by
  unfold execManagementTick
  exact finished_canon h0 (managementTick_canon h0)
theorem execRegisterAccessTimeout_canon {x0 x1 x2 x3 x4 x5} (h0 : Canon x5) : CanonN (@execRegisterAccessTimeout x0 x1
    x2 x3 x4 x5) := by
  unfold execRegisterAccessTimeout
  exact finished_canon h0 (accessTimeout_canon h0)
theorem execPollSummaryClear_canon {x0 x1 x2 x3} (h0 : Canon x3) : CanonN (@execPollSummaryClear x0 x1 x2 x3) := by
  unfold execPollSummaryClear
  exact finished_canon h0 (pollClear_canon h0)
theorem execEccLogPop_canon {x0 x1 x2} (h0 : Canon x2) : CanonN (@execEccLogPop x0 x1 x2) := by
  unfold execEccLogPop
  exact finished_canon h0 (direct_canon h0)
theorem execModeReqSelfRefresh_canon {x0 x1} (h0 : Canon x1) : CanonN (@execModeReqSelfRefresh x0 x1) := by
  unfold execModeReqSelfRefresh
  exact finished_canon h0 (writeOn_canon h0)
theorem execModeReqDeepRetention_canon {x0 x1} (h0 : Canon x1) : CanonN (@execModeReqDeepRetention x0 x1) := by
  unfold execModeReqDeepRetention
  exact finished_canon h0 (writeOn_canon h0)
theorem execModeReqActive_canon {x0 x1 x2} (h0 : Canon x2) : CanonN (@execModeReqActive x0 x1 x2) := by
  unfold execModeReqActive
  exact finished_canon h0 (direct_canon h0)
theorem execModeReqShutdown_canon {x0 x1} (h0 : Canon x1) : CanonN (@execModeReqShutdown x0 x1) := by
  unfold execModeReqShutdown
  exact finished_canon h0 (writeOn_canon h0)
theorem execModeReqShutdownTest_canon {x0 x1} (h0 : Canon x1) : CanonN (@execModeReqShutdownTest x0 x1) := by
  unfold execModeReqShutdownTest
  exact finished_canon h0 (writeOn_canon h0)
theorem execChReqDrain_canon {x0 x1 x2} (h0 : Canon x2) : CanonN (@execChReqDrain x0 x1 x2) := by
  unfold execChReqDrain
  exact finished_canon h0 (writeOn_canon h0)
theorem execChReqResume_canon {x0 x1 x2} (h0 : Canon x2) : CanonN (@execChReqResume x0 x1 x2) := by
  unfold execChReqResume
  exact finished_canon h0 (writeOn_canon h0)
theorem execChReqRetrain_canon {x0 x1 x2} (h0 : Canon x2) : CanonN (@execChReqRetrain x0 x1 x2) := by
  unfold execChReqRetrain
  exact finished_canon h0 (writeOn_canon h0)
theorem execChReqOffline_canon {x0 x1 x2} (h0 : Canon x2) : CanonN (@execChReqOffline x0 x1 x2) := by
  unfold execChReqOffline
  exact finished_canon h0 (writeOn_canon h0)
theorem execChReqRecover_canon {x0 x1 x2} (h0 : Canon x2) : CanonN (@execChReqRecover x0 x1 x2) := by
  unfold execChReqRecover
  exact finished_canon h0 (writeOn_canon h0)
theorem execChReqRetire_canon {x0 x1 x2} (h0 : Canon x2) : CanonN (@execChReqRetire x0 x1 x2) := by
  unfold execChReqRetire
  exact finished_canon h0 (writeOn_canon h0)
theorem execDrainComplete_canon {x0 x1} (h0 : Canon x1) : CanonN (@execDrainComplete x0 x1) := by
  unfold execDrainComplete
  exact finished_canon h0 (drainComplete_canon h0)
theorem execHeldRequestTimeout_canon {x0 x1 x2} (h0 : Canon x2) : CanonN (@execHeldRequestTimeout x0 x1 x2) := by
  unfold execHeldRequestTimeout
  exact finished_canon h0 (heldTimeout_canon h0)
theorem execDrainPinAbort_canon {x0 x1} (h0 : Canon x1) : CanonN (@execDrainPinAbort x0 x1) := by
  unfold execDrainPinAbort
  exact finished_canon h0 (drainPinAbort_canon h0)
theorem execLedgerWriteDone_canon {x0 x1} (h0 : Canon x1) : CanonN (@execLedgerWriteDone x0 x1) := by
  unfold execLedgerWriteDone
  exact finished_canon h0 (ledgerWriteDone_canon h0)
theorem execMramWriteEnd_canon {x0 x1 x2} (h0 : Canon x2) : CanonN (@execMramWriteEnd x0 x1 x2) := by
  unfold execMramWriteEnd
  exact finished_canon h0 (mramWriteEnd_canon h0)

/-! ### Machine/ExecLink.lean -/

theorem execSbDetectTimeout_canon {x0 x1} (h0 : Canon x1) : CanonN (@execSbDetectTimeout x0 x1) := by
  unfold execSbDetectTimeout
  exact finished_canon h0 (detectTimeout_canon h0)
theorem execSidebandUp_canon {x0 x1} (h0 : Canon x1) : CanonN (@execSidebandUp x0 x1) := by
  unfold execSidebandUp
  exact finished_canon h0 (sidebandUp_canon h0)
theorem execSidebandLinkFail_canon {x0 x1} (h0 : Canon x1) : CanonN (@execSidebandLinkFail x0 x1) := by
  unfold execSidebandLinkFail
  exact finished_canon h0 (sidebandFail_canon h0)
theorem execMbStageTimeout_canon {x0 x1} (h0 : Canon x1) : CanonN (@execMbStageTimeout x0 x1) := by
  unfold execMbStageTimeout
  exact finished_canon h0 (stageTimeout_canon h0)
theorem execMainbandTrainingDone_canon {x0 x1 x2} (h0 : Canon x2) : CanonN (@execMainbandTrainingDone x0 x1 x2) := by
  unfold execMainbandTrainingDone
  exact finished_canon h0 (trainingDone_canon h0)
theorem execTrainErrorRestart_canon {x0 x1} (h0 : Canon x1) : CanonN (@execTrainErrorRestart x0 x1) := by
  unfold execTrainErrorRestart
  exact finished_canon h0 (trainRestart_canon h0)
theorem execModuleTrainDeadline_canon {x0 x1} (h0 : Canon x1) : CanonN (@execModuleTrainDeadline x0 x1) := by
  unfold execModuleTrainDeadline
  exact finished_canon h0 (trainDeadline_canon h0)
theorem execKyCap_canon {x0 x1 x2} (h0 : Canon x2) : CanonN (@execKyCap x0 x1 x2) := by
  unfold execKyCap
  exact finished_canon h0 (kyCap_canon h0)
theorem execKyCapTimeout_canon {x0 x1} (h0 : Canon x1) : CanonN (@execKyCapTimeout x0 x1) := by
  unfold execKyCapTimeout
  exact finished_canon h0 (kyCapTimeout_canon h0)
theorem execRegRd_canon {x0 x1 x2} (h0 : Canon x2) : CanonN (@execRegRd x0 x1 x2) := by
  unfold execRegRd
  exact finished_canon h0 (sideband_canon h0)
theorem execRegWr_canon {x0 x1 x2} (h0 : Canon x2) : CanonN (@execRegWr x0 x1 x2) := by
  unfold execRegWr
  exact finished_canon h0 (sideband_canon h0)
theorem execSidebandMessageDiscard_canon {x0 x1} (h0 : Canon x1) : CanonN (@execSidebandMessageDiscard x0 x1) := by
  unfold execSidebandMessageDiscard
  exact finished_canon h0 (sidebandDiscard_canon h0)
theorem execEqSet_canon {x0 x1 x2} (h0 : Canon x2) : CanonN (@execEqSet x0 x1 x2) := by
  unfold execEqSet
  exact finished_canon h0 (eqSet_canon h0)
theorem execEqGet_canon {x0 x1} (h0 : Canon x1) : CanonN (@execEqGet x0 x1) := by
  unfold execEqGet
  exact finished_canon h0 (eqGet_canon h0)
theorem execKyLpbk_canon {x0 x1 x2} (h0 : Canon x2) : CanonN (@execKyLpbk x0 x1 x2) := by
  unfold execKyLpbk
  exact finished_canon h0 (kyLpbk_canon h0)
theorem execKyLpbkRsp_canon {x0 x1 x2} (h0 : Canon x2) : CanonN (@execKyLpbkRsp x0 x1 x2) := by
  unfold execKyLpbkRsp
  exact finished_canon h0 (kyLpbkRsp_canon h0)
theorem execKyLpbkRspTimeout_canon {x0 x1} (h0 : Canon x1) : CanonN (@execKyLpbkRspTimeout x0 x1) := by
  unfold execKyLpbkRspTimeout
  exact finished_canon h0 (kyLpbkRsp_canon h0)
theorem execPartnerL1Request_canon {x0 x1} (h0 : Canon x1) : CanonN (@execPartnerL1Request x0 x1) := by
  unfold execPartnerL1Request
  exact finished_canon h0 (refuseL1_canon h0)
theorem execPrimarySbLossTimeout_canon {x0} (h0 : Canon x0) : CanonN (@execPrimarySbLossTimeout x0) := by
  unfold execPrimarySbLossTimeout
  exact finished_canon h0 (primaryLoss_canon h0)
theorem execFlitCrcFail_canon {x0 x1} (h0 : Canon x1) : CanonN (@execFlitCrcFail x0 x1) := by
  unfold execFlitCrcFail
  exact finished_canon h0 (crcFail_canon h0)
theorem execRetryExhausted_canon {x0 x1} (h0 : Canon x1) : CanonN (@execRetryExhausted x0 x1) := by
  unfold execRetryExhausted
  exact finished_canon h0 (retryExhausted_canon h0)
theorem execRetrainEnd_canon {x0 x1 x2} (h0 : Canon x2) : CanonN (@execRetrainEnd x0 x1 x2) := by
  unfold execRetrainEnd
  exact finished_canon h0 (retrainEnd_canon h0)
theorem execRetrainTimeout_canon {x0 x1} (h0 : Canon x1) : CanonN (@execRetrainTimeout x0 x1) := by
  unfold execRetrainTimeout
  exact finished_canon h0 (retrainTimeout_canon h0)
theorem execL1ExitTimeout_canon {x0 x1} (h0 : Canon x1) : CanonN (@execL1ExitTimeout x0 x1) := by
  unfold execL1ExitTimeout
  exact finished_canon h0 (l1Timeout_canon h0)
theorem execRetrainReq_canon {x0 x1 x2 x3} (h0 : Canon x3) : CanonN (@execRetrainReq x0 x1 x2 x3) := by
  unfold execRetrainReq
  exact finished_canon h0 (writeOn_canon h0)
theorem execCommitModule_canon {x0 x1 x2 x3} (h0 : Canon x3) : CanonN (@execCommitModule x0 x1 x2 x3) := by
  unfold execCommitModule
  exact finished_canon h0 (writeOn_canon h0)
theorem execMakePrimary_canon {x0 x1 x2 x3} (h0 : Canon x3) : CanonN (@execMakePrimary x0 x1 x2 x3) := by
  unfold execMakePrimary
  exact finished_canon h0 (writeOn_canon h0)
theorem execExcludeModule_canon {x0 x1 x2 x3} (h0 : Canon x3) : CanonN (@execExcludeModule x0 x1 x2 x3) := by
  unfold execExcludeModule
  exact finished_canon h0 (writeOn_canon h0)
theorem execForceExclude_canon {x0 x1 x2 x3} (h0 : Canon x3) : CanonN (@execForceExclude x0 x1 x2 x3) := by
  unfold execForceExclude
  exact finished_canon h0 (writeOn_canon h0)
theorem execIncludeModule_canon {x0 x1 x2 x3} (h0 : Canon x3) : CanonN (@execIncludeModule x0 x1 x2 x3) := by
  unfold execIncludeModule
  exact finished_canon h0 (writeOn_canon h0)
theorem execExclusionDrainEnd_canon {x0 x1} (h0 : Canon x1) : CanonN (@execExclusionDrainEnd x0 x1) := by
  unfold execExclusionDrainEnd
  exact finished_canon h0 (drainEnd_canon h0)
theorem execExclusionDrainTimeout_canon {x0 x1} (h0 : Canon x1) : CanonN (@execExclusionDrainTimeout x0 x1) := by
  unfold execExclusionDrainTimeout
  exact finished_canon h0 (drainTimeout_canon h0)
theorem execLpbkStart_canon {x0 x1 x2 x3} (h0 : Canon x3) : CanonN (@execLpbkStart x0 x1 x2 x3) := by
  unfold execLpbkStart
  exact finished_canon h0 (writeOn_canon h0)
theorem execLpbkStop_canon {x0 x1 x2 x3} (h0 : Canon x3) : CanonN (@execLpbkStop x0 x1 x2 x3) := by
  unfold execLpbkStop
  exact finished_canon h0 (writeOn_canon h0)
theorem execLoopbackDurationEnd_canon {x0 x1 x2 x3} (h0 : Canon x3) : CanonN (@execLoopbackDurationEnd x0 x1 x2 x3) :=
    by
  unfold execLoopbackDurationEnd
  exact finished_canon h0 (lpbkLapse_canon h0)

/-! ### Machine/ExecTransport.lean -/

theorem execRd_canon {x0 x1 x2 x3} (h0 : Canon x3) : CanonN (@execRd x0 x1 x2 x3) := by
  unfold execRd
  exact finished_canon h0 (request_canon h0)
theorem execWr_canon {x0 x1 x2 x3 x4} (h0 : Canon x4) : CanonN (@execWr x0 x1 x2 x3 x4) := by
  unfold execWr
  exact finished_canon h0 (request_canon h0)
theorem execWrPart_canon {x0 x1 x2 x3 x4 x5} (h0 : Canon x5) : CanonN (@execWrPart x0 x1 x2 x3 x4 x5) := by
  unfold execWrPart
  exact finished_canon h0 (request_canon h0)
theorem execWrZero_canon {x0 x1 x2 x3} (h0 : Canon x3) : CanonN (@execWrZero x0 x1 x2 x3) := by
  unfold execWrZero
  exact finished_canon h0 (request_canon h0)
theorem execFence_canon {x0 x1 x2 x3} (h0 : Canon x3) : CanonN (@execFence x0 x1 x2 x3) := by
  unfold execFence
  exact finished_canon h0 (request_canon h0)
theorem execCredit_canon {x0 x1 x2 x3} (h0 : Canon x3) : CanonN (@execCredit x0 x1 x2 x3) := by
  unfold execCredit
  exact finished_canon h0 (takeCredit_canon h0)
theorem execCfgRd_canon {x0 x1 x2 x3} (h0 : Canon x3) : CanonN (@execCfgRd x0 x1 x2 x3) := by
  unfold execCfgRd
  exact finished_canon h0 (ctlMessage_canon h0)
theorem execCfgWr_canon {x0 x1 x2 x3} (h0 : Canon x3) : CanonN (@execCfgWr x0 x1 x2 x3) := by
  unfold execCfgWr
  exact finished_canon h0 (ctlMessage_canon h0)
theorem execReqCreditReturn_canon {x0 x1} (h0 : Canon x1) : CanonN (@execReqCreditReturn x0 x1) := by
  unfold execReqCreditReturn
  exact finished_canon h0 (reqCreditReturn_canon h0)
theorem execResponseTransmit_canon {x0 x1} (h0 : Canon x1) : CanonN (@execResponseTransmit x0 x1) := by
  unfold execResponseTransmit
  exact finished_canon h0 (transmit_canon h0)
theorem execRequestDeadline_canon {x0 x1 x2} (h0 : Canon x2) : CanonN (@execRequestDeadline x0 x1 x2) := by
  unfold execRequestDeadline
  exact finished_canon h0 (requestDeadline_canon h0)
theorem execXptInjArm_canon {x0 x1 x2} (h0 : Canon x2) : CanonN (@execXptInjArm x0 x1 x2) := by
  unfold execXptInjArm
  exact finished_canon h0 (writeOn_canon h0)

/-! ### Machine/ExecFlow.lean -/

theorem execFlowCtxWord0Write_canon {x0 x1 x2 x3} (h0 : Canon x3) : CanonN (@execFlowCtxWord0Write x0 x1 x2 x3) := by
  unfold execFlowCtxWord0Write
  exact finished_canon h0 (writeOn_canon h0)
theorem execFlowCtxWord1Write_canon {x0 x1 x2 x3} (h0 : Canon x3) : CanonN (@execFlowCtxWord1Write x0 x1 x2 x3) := by
  unfold execFlowCtxWord1Write
  exact finished_canon h0 (writeOn_canon h0)
theorem execFlowCtxWord2Write_canon {x0 x1 x2 x3} (h0 : Canon x3) : CanonN (@execFlowCtxWord2Write x0 x1 x2 x3) := by
  unfold execFlowCtxWord2Write
  exact finished_canon h0 (writeOn_canon h0)
theorem execQosWindowBoundary_canon {x0} (h0 : Canon x0) : CanonN (@execQosWindowBoundary x0) := by
  unfold execQosWindowBoundary
  exact finished_canon h0 (qosBoundary_canon h0)
theorem execRequestClassify_canon {x0 x1 x2} (h0 : Canon x2) : CanonN (@execRequestClassify x0 x1 x2) := by
  unfold execRequestClassify
  exact finished_canon h0 (classify_canon h0)
theorem execUrgWireChange_canon {x0 x1} (h0 : Canon x1) : CanonN (@execUrgWireChange x0 x1) := by
  unfold execUrgWireChange
  exact finished_canon h0 (urgWires_canon h0)
theorem execUrgStuckTimeout_canon {x0 x1} (h0 : Canon x1) : CanonN (@execUrgStuckTimeout x0 x1) := by
  unfold execUrgStuckTimeout
  exact finished_canon h0 (urgStuck_canon h0)
theorem execFloorRecompute_canon {x0} (h0 : Canon x0) : CanonN (@execFloorRecompute x0) := by
  unfold execFloorRecompute
  exact finished_canon h0 (floorRecompute_canon h0)
theorem execQosThrottleWrite_canon {x0 x1 x2} (h0 : Canon x2) : CanonN (@execQosThrottleWrite x0 x1 x2) := by
  unfold execQosThrottleWrite
  exact finished_canon h0 (writeOn_canon h0)
theorem execQosFenceGo_canon {x0 x1} (h0 : Canon x1) : CanonN (@execQosFenceGo x0 x1) := by
  unfold execQosFenceGo
  exact finished_canon h0 (writeOn_canon h0)
theorem execBulkStarvePromote_canon {x0 x1 x2} (h0 : Canon x2) : CanonN (@execBulkStarvePromote x0 x1 x2) := by
  unfold execBulkStarvePromote
  exact finished_canon h0 (starve_canon h0)

/-! ### Machine/ExecLagoon.lean -/

theorem execSchedulerTakeUp_canon {x0 x1 x2} (h0 : Canon x2) : CanonN (@execSchedulerTakeUp x0 x1 x2) := by
  unfold execSchedulerTakeUp
  exact finished_canon h0 (schedulerTakeUp_canon h0)
theorem execLagoonHit_canon {x0 x1 x2} (h0 : Canon x2) : CanonN (@execLagoonHit x0 x1 x2) := by
  unfold execLagoonHit
  exact finished_canon h0 (lagoonHit_canon h0)
theorem execSectorCycle_canon {x0 x1 x2} (h0 : Canon x2) : CanonN (@execSectorCycle x0 x1 x2) := by
  unfold execSectorCycle
  exact finished_canon h0 (sectorCycle_canon h0)
theorem execVerticalCycleSchedule_canon {x0 x1} (h0 : Canon x1) : CanonN (@execVerticalCycleSchedule x0 x1) := by
  unfold execVerticalCycleSchedule
  exact finished_canon h0 (verticalCycle_canon h0)
theorem execMoveInTransferEnd_canon {x0 x1 x2} (h0 : Canon x2) : CanonN (@execMoveInTransferEnd x0 x1 x2) := by
  unfold execMoveInTransferEnd
  exact finished_canon h0 (moveInTransferEnd_canon h0)
theorem execMoveInDone_canon {x0 x1 x2} (h0 : Canon x2) : CanonN (@execMoveInDone x0 x1 x2) := by
  unfold execMoveInDone
  exact finished_canon h0 (moveInDone_canon h0)
theorem execMoveOutPrecharge_canon {x0 x1 x2} (h0 : Canon x2) : CanonN (@execMoveOutPrecharge x0 x1 x2) := by
  unfold execMoveOutPrecharge
  exact finished_canon h0 (moveOutPrecharge_canon h0)
theorem execHistDecay_canon {x0 x1} (h0 : Canon x1) : CanonN (@execHistDecay x0 x1) := by
  unfold execHistDecay
  exact finished_canon h0 (histDecay_canon h0)
theorem execZeroFillComplete_canon {x0 x1} (h0 : Canon x1) : CanonN (@execZeroFillComplete x0 x1) := by
  unfold execZeroFillComplete
  exact finished_canon h0 (zeroFillComplete_canon h0)
theorem execGlbDieRstGo_canon {x0 x1 x2} (h0 : Canon x2) : CanonN (@execGlbDieRstGo x0 x1 x2) := by
  unfold execGlbDieRstGo
  exact finished_canon h0 (writeOn_canon h0)
theorem execCoreDieResetRelease_canon {x0} (h0 : Canon x0) : CanonN (@execCoreDieResetRelease x0) := by
  unfold execCoreDieResetRelease
  exact finished_canon h0 (dieResetRelease_canon h0)
theorem execDieResetReady_canon {x0} (h0 : Canon x0) : CanonN (@execDieResetReady x0) := by
  unfold execDieResetReady
  exact finished_canon h0 (dieResetReady_canon h0)
theorem execDieResetReadyTimeout_canon {x0} (h0 : Canon x0) : CanonN (@execDieResetReadyTimeout x0) := by
  unfold execDieResetReadyTimeout
  exact finished_canon h0 (dieResetTimeout_canon h0)
theorem execWritebackAll_canon {x0 x1 x2} (h0 : Canon x2) : CanonN (@execWritebackAll x0 x1 x2) := by
  unfold execWritebackAll
  exact finished_canon h0 (writeOn_canon h0)
theorem execDiscardFenced_canon {x0 x1 x2} (h0 : Canon x2) : CanonN (@execDiscardFenced x0 x1 x2) := by
  unfold execDiscardFenced
  exact finished_canon h0 (writeOn_canon h0)
theorem execLagActionEnd_canon {x0 x1} (h0 : Canon x1) : CanonN (@execLagActionEnd x0 x1) := by
  unfold execLagActionEnd
  exact finished_canon h0 (lagActionEnd_canon h0)

/-! ### Machine/ExecQueues.lean -/

theorem execExdQdbWrite_canon {x0 x1 x2 x3 x4} (h0 : Canon x4) : CanonN (@execExdQdbWrite x0 x1 x2 x3 x4) := by
  unfold execExdQdbWrite
  exact finished_canon h0 (writeOn_canon h0)
theorem execExdQcfgWrite_canon {x0 x1 x2 x3 x4} (h0 : Canon x4) : CanonN (@execExdQcfgWrite x0 x1 x2 x3 x4) := by
  unfold execExdQcfgWrite
  exact finished_canon h0 (writeOn_canon h0)
theorem execExdQctlEnWrite_canon {x0 x1 x2 x3 x4} (h0 : Canon x4) : CanonN (@execExdQctlEnWrite x0 x1 x2 x3 x4) := by
  unfold execExdQctlEnWrite
  exact finished_canon h0 (writeOn_canon h0)
theorem execExdQctlAbort_canon {x0 x1 x2 x3 x4} (h0 : Canon x4) : CanonN (@execExdQctlAbort x0 x1 x2 x3 x4) := by
  unfold execExdQctlAbort
  exact finished_canon h0 (writeOn_canon h0)
theorem execExdQctlResetIdx_canon {x0 x1 x2 x3} (h0 : Canon x3) : CanonN (@execExdQctlResetIdx x0 x1 x2 x3) := by
  unfold execExdQctlResetIdx
  exact finished_canon h0 (writeOn_canon h0)
theorem execExdCtlAbort_canon {x0 x1 x2} (h0 : Canon x2) : CanonN (@execExdCtlAbort x0 x1 x2) := by
  unfold execExdCtlAbort
  exact finished_canon h0 (writeOn_canon h0)
theorem execDescriptorRead_canon {x0 x1} (h0 : Canon x1) : CanonN (@execDescriptorRead x0 x1) := by
  unfold execDescriptorRead
  exact finished_canon h0 (descriptorRead_canon h0)
theorem execProgramFetchDone_canon {x0 x1} (h0 : Canon x1) : CanonN (@execProgramFetchDone x0 x1) := by
  unfold execProgramFetchDone
  exact finished_canon h0 (programFetchDone_canon h0)
theorem execCompletionRecordWritten_canon {x0 x1} (h0 : Canon x1) : CanonN (@execCompletionRecordWritten x0 x1) := by
  unfold execCompletionRecordWritten
  exact finished_canon h0 (recordWritten_canon h0)
theorem execExdunBudgetLapse_canon {x0 x1} (h0 : Canon x1) : CanonN (@execExdunBudgetLapse x0 x1) := by
  unfold execExdunBudgetLapse
  exact finished_canon h0 (budgetLapse_canon h0)
theorem execInstructionWaitEnd_canon {x0 x1} (h0 : Canon x1) : CanonN (@execInstructionWaitEnd x0 x1) := by
  unfold execInstructionWaitEnd
  exact finished_canon h0 (waitOver_canon h0)

/-! ### Machine/ExecScalar.lean -/

theorem execNop_canon {x0 x1 x2} (h0 : Canon x2) : CanonN (@execNop x0 x1 x2) := by
  unfold execNop
  exact finished_canon h0 (issue_canon h0 (fun _ k0 => aNop_canon k0))
theorem execHalt_canon {x0 x1 x2} (h0 : Canon x2) : CanonN (@execHalt x0 x1 x2) := by
  unfold execHalt
  exact finished_canon h0 (issue_canon h0 (fun _ k0 => aHalt_canon k0))
theorem execBr_canon {x0 x1 x2} (h0 : Canon x2) : CanonN (@execBr x0 x1 x2) := by
  unfold execBr
  exact finished_canon h0 (issue_canon h0 (fun _ k0 => aBr_canon k0))
theorem execWait_canon {x0 x1 x2} (h0 : Canon x2) : CanonN (@execWait x0 x1 x2) := by
  unfold execWait
  exact finished_canon h0 (issue_canon h0 (fun _ k0 => aWait_canon k0))
theorem execTime_canon {x0 x1 x2} (h0 : Canon x2) : CanonN (@execTime x0 x1 x2) := by
  unfold execTime
  exact finished_canon h0 (issue_canon h0 (fun _ k0 => aTime_canon k0))
theorem execLi_canon {x0 x1 x2} (h0 : Canon x2) : CanonN (@execLi x0 x1 x2) := by
  unfold execLi
  exact finished_canon h0 (issue_canon h0 (fun _ k0 => aLi_canon k0))
theorem execLih_canon {x0 x1 x2} (h0 : Canon x2) : CanonN (@execLih x0 x1 x2) := by
  unfold execLih
  exact finished_canon h0 (issue_canon h0 (fun _ k0 => aLih_canon k0))
theorem execMov_canon {x0 x1 x2} (h0 : Canon x2) : CanonN (@execMov x0 x1 x2) := by
  unfold execMov
  exact finished_canon h0 (issue_canon h0 (fun _ k0 => aGG_canon k0))
theorem execAdd_canon {x0 x1 x2} (h0 : Canon x2) : CanonN (@execAdd x0 x1 x2) := by
  unfold execAdd
  exact finished_canon h0 (issue_canon h0 (fun _ k0 => aGGG_canon k0))
theorem execSub_canon {x0 x1 x2} (h0 : Canon x2) : CanonN (@execSub x0 x1 x2) := by
  unfold execSub
  exact finished_canon h0 (issue_canon h0 (fun _ k0 => aGGG_canon k0))
theorem execAddi_canon {x0 x1 x2} (h0 : Canon x2) : CanonN (@execAddi x0 x1 x2) := by
  unfold execAddi
  exact finished_canon h0 (issue_canon h0 (fun _ k0 => aAddi_canon k0))
theorem execAnd_canon {x0 x1 x2} (h0 : Canon x2) : CanonN (@execAnd x0 x1 x2) := by
  unfold execAnd
  exact finished_canon h0 (issue_canon h0 (fun _ k0 => aGGG_canon k0))
theorem execOr_canon {x0 x1 x2} (h0 : Canon x2) : CanonN (@execOr x0 x1 x2) := by
  unfold execOr
  exact finished_canon h0 (issue_canon h0 (fun _ k0 => aGGG_canon k0))
theorem execXor_canon {x0 x1 x2} (h0 : Canon x2) : CanonN (@execXor x0 x1 x2) := by
  unfold execXor
  exact finished_canon h0 (issue_canon h0 (fun _ k0 => aGGG_canon k0))
theorem execShl_canon {x0 x1 x2} (h0 : Canon x2) : CanonN (@execShl x0 x1 x2) := by
  unfold execShl
  exact finished_canon h0 (issue_canon h0 (fun _ k0 => aShift_canon k0))
theorem execShr_canon {x0 x1 x2} (h0 : Canon x2) : CanonN (@execShr x0 x1 x2) := by
  unfold execShr
  exact finished_canon h0 (issue_canon h0 (fun _ k0 => aShift_canon k0))
theorem execCtz_canon {x0 x1 x2} (h0 : Canon x2) : CanonN (@execCtz x0 x1 x2) := by
  unfold execCtz
  exact finished_canon h0 (issue_canon h0 (fun _ k0 => aGG_canon k0))
theorem execPopc_canon {x0 x1 x2} (h0 : Canon x2) : CanonN (@execPopc x0 x1 x2) := by
  unfold execPopc
  exact finished_canon h0 (issue_canon h0 (fun _ k0 => aGG_canon k0))
theorem execMul_canon {x0 x1 x2} (h0 : Canon x2) : CanonN (@execMul x0 x1 x2) := by
  unfold execMul
  exact finished_canon h0 (issue_canon h0 (fun _ k0 => aGGG_canon k0))
theorem execCmp_canon {x0 x1 x2} (h0 : Canon x2) : CanonN (@execCmp x0 x1 x2) := by
  unfold execCmp
  exact finished_canon h0 (issue_canon h0 (fun _ k0 => aCmp_canon k0))
theorem execCmpi_canon {x0 x1 x2} (h0 : Canon x2) : CanonN (@execCmpi x0 x1 x2) := by
  unfold execCmpi
  exact finished_canon h0 (issue_canon h0 (fun _ k0 => aCmpi_canon k0))
theorem execStRd_canon {x0 x1 x2} (h0 : Canon x2) : CanonN (@execStRd x0 x1 x2) := by
  unfold execStRd
  exact finished_canon h0 (issue_canon h0 (fun _ k0 => aStRd_canon k0))
theorem execStClr_canon {x0 x1 x2} (h0 : Canon x2) : CanonN (@execStClr x0 x1 x2) := by
  unfold execStClr
  exact finished_canon h0 (issue_canon h0 (fun _ k0 => aStClr_canon k0))
theorem execLdCfg_canon {x0 x1 x2} (h0 : Canon x2) : CanonN (@execLdCfg x0 x1 x2) := by
  unfold execLdCfg
  exact finished_canon h0 (issue_canon h0 (fun _ k0 => aLdCfg_canon k0))
theorem execStCfg_canon {x0 x1 x2} (h0 : Canon x2) : CanonN (@execStCfg x0 x1 x2) := by
  unfold execStCfg
  exact finished_canon h0 (issue_canon h0 (fun _ k0 => aStCfg_canon k0))
theorem execReservedOpcode_canon {x0 x1 x2 x3} (h0 : Canon x3) : CanonN (@execReservedOpcode x0 x1 x2 x3) := by
  unfold execReservedOpcode
  exact finished_canon h0 (reserved_canon h0)
theorem execFirmwareInstruction_canon {x0 x1 x2 x3} (h0 : Canon x3) : CanonN (@execFirmwareInstruction x0 x1 x2 x3) :=
    by
  unfold execFirmwareInstruction
  exact ite_canon (finished_canon h0 h0) (ite_canon CanonN.refused (finished_canon h0 (issue_canon h0 (fun _ k0 =>
      CanonA.exc))))

/-! ### Machine/ExecRow.lean -/

theorem execRowLoad_canon {x0 x1 x2} (h0 : Canon x2) : CanonN (@execRowLoad x0 x1 x2) := by
  unfold execRowLoad
  exact finished_canon h0 (issue_canon h0 (fun _ k0 => aRowLoad_canon k0))
theorem execRowClaim_canon {x0 x1 x2} (h0 : Canon x2) : CanonN (@execRowClaim x0 x1 x2) := by
  unfold execRowClaim
  exact finished_canon h0 (issue_canon h0 (fun _ k0 => aRowClaim_canon k0))
theorem execRowRel_canon {x0 x1 x2} (h0 : Canon x2) : CanonN (@execRowRel x0 x1 x2) := by
  unfold execRowRel
  exact finished_canon h0 (issue_canon h0 (fun _ k0 => aRowRel_canon k0))
theorem execRowWb_canon {x0 x1 x2} (h0 : Canon x2) : CanonN (@execRowWb x0 x1 x2) := by
  unfold execRowWb
  exact finished_canon h0 (issue_canon h0 (fun _ k0 => aRowWb_canon k0))
theorem execRowLoc_canon {x0 x1 x2} (h0 : Canon x2) : CanonN (@execRowLoc x0 x1 x2) := by
  unfold execRowLoc
  exact finished_canon h0 (issue_canon h0 (fun _ k0 => aRowLoc_canon k0))
theorem execSlotLdw_canon {x0 x1 x2} (h0 : Canon x2) : CanonN (@execSlotLdw x0 x1 x2) := by
  unfold execSlotLdw
  exact finished_canon h0 (issue_canon h0 (fun _ k0 => aSlotLdw_canon k0))
theorem execSlotStw_canon {x0 x1 x2} (h0 : Canon x2) : CanonN (@execSlotStw x0 x1 x2) := by
  unfold execSlotStw
  exact finished_canon h0 (issue_canon h0 (fun _ k0 => aSlotStw_canon k0))
theorem execRowCopy_canon {x0 x1 x2} (h0 : Canon x2) : CanonN (@execRowCopy x0 x1 x2) := by
  unfold execRowCopy
  exact finished_canon h0 (issue_canon h0 (fun _ k0 => aRowCopy_canon k0))
theorem execRowFill_canon {x0 x1 x2} (h0 : Canon x2) : CanonN (@execRowFill x0 x1 x2) := by
  unfold execRowFill
  exact finished_canon h0 (issue_canon h0 (fun _ k0 => aRowFill_canon k0))
theorem execRowZero_canon {x0 x1 x2} (h0 : Canon x2) : CanonN (@execRowZero x0 x1 x2) := by
  unfold execRowZero
  exact finished_canon h0 (issue_canon h0 (fun _ k0 => aRowZero_canon k0))
theorem execRowBit_canon {x0 x1 x2} (h0 : Canon x2) : CanonN (@execRowBit x0 x1 x2) := by
  unfold execRowBit
  exact finished_canon h0 (issue_canon h0 (fun _ k0 => aRowBit_canon k0))
theorem execRowCmp_canon {x0 x1 x2} (h0 : Canon x2) : CanonN (@execRowCmp x0 x1 x2) := by
  unfold execRowCmp
  exact finished_canon h0 (issue_canon h0 (fun _ k0 => aRowCmp_canon k0))
theorem execRowPopc_canon {x0 x1 x2} (h0 : Canon x2) : CanonN (@execRowPopc x0 x1 x2) := by
  unfold execRowPopc
  exact finished_canon h0 (issue_canon h0 (fun _ k0 => aRowPopc_canon k0))
theorem execRowCrc_canon {x0 x1 x2} (h0 : Canon x2) : CanonN (@execRowCrc x0 x1 x2) := by
  unfold execRowCrc
  exact finished_canon h0 (issue_canon h0 (fun _ k0 => aRowCrc_canon k0))
theorem execRowFerry_canon {x0 x1 x2} (h0 : Canon x2) : CanonN (@execRowFerry x0 x1 x2) := by
  unfold execRowFerry
  exact finished_canon h0 (issue_canon h0 (fun _ k0 => aRowFerry_canon k0))
theorem execSecRdraw_canon {x0 x1 x2} (h0 : Canon x2) : CanonN (@execSecRdraw x0 x1 x2) := by
  unfold execSecRdraw
  exact finished_canon h0 (issue_canon h0 (fun _ k0 => aSecRdraw_canon k0))
theorem execSecWrraw_canon {x0 x1 x2} (h0 : Canon x2) : CanonN (@execSecWrraw x0 x1 x2) := by
  unfold execSecWrraw
  exact finished_canon h0 (issue_canon h0 (fun _ k0 => aSecWrraw_canon k0))
theorem execRepRetire_canon {x0 x1 x2} (h0 : Canon x2) : CanonN (@execRepRetire x0 x1 x2) := by
  unfold execRepRetire
  exact finished_canon h0 (issue_canon h0 (fun _ k0 => aRepRetire_canon k0))
theorem execRepRow_canon {x0 x1 x2} (h0 : Canon x2) : CanonN (@execRepRow x0 x1 x2) := by
  unfold execRepRow
  exact finished_canon h0 (issue_canon h0 (fun _ k0 => aRepRow_canon k0))
theorem execRepCol_canon {x0 x1 x2} (h0 : Canon x2) : CanonN (@execRepCol x0 x1 x2) := by
  unfold execRepCol
  exact finished_canon h0 (issue_canon h0 (fun _ k0 => aRepCol_canon k0))
theorem execRepColWalkStep_canon {x0 x1} (h0 : Canon x1) : CanonN (@execRepColWalkStep x0 x1) := by
  unfold execRepColWalkStep
  exact finished_canon h0 (repColStep_canon h0)
theorem execRefRow_canon {x0 x1 x2} (h0 : Canon x2) : CanonN (@execRefRow x0 x1 x2) := by
  unfold execRefRow
  exact finished_canon h0 (issue_canon h0 (fun _ k0 => aRefRow_canon k0))
theorem execExtInit_canon {x0 x1 x2} (h0 : Canon x2) : CanonN (@execExtInit x0 x1 x2) := by
  unfold execExtInit
  exact finished_canon h0 (issue_canon h0 (fun _ k0 => aExtInit_canon k0))
theorem execVpSpare_canon {x0 x1 x2} (h0 : Canon x2) : CanonN (@execVpSpare x0 x1 x2) := by
  unfold execVpSpare
  exact finished_canon h0 (issue_canon h0 (fun _ k0 => aVpSpare_canon k0))
theorem execVpChk_canon {x0 x1 x2 x3} (h0 : Canon x3) : CanonN (@execVpChk x0 x1 x2 x3) := by
  unfold execVpChk
  exact finished_canon h0 (issue_canon h0 (fun _ k0 => aVpChk_canon k0))
theorem execVpPt_canon {x0 x1 x2} (h0 : Canon x2) : CanonN (@execVpPt x0 x1 x2) := by
  unfold execVpPt
  exact finished_canon h0 (issue_canon h0 (fun _ k0 => aVpPt_canon k0))
theorem execStatRes_canon {x0 x1 x2} (h0 : Canon x2) : CanonN (@execStatRes x0 x1 x2) := by
  unfold execStatRes
  exact finished_canon h0 (issue_canon h0 (fun _ k0 => aStatRes_canon k0))
theorem execStatAct_canon {x0 x1 x2} (h0 : Canon x2) : CanonN (@execStatAct x0 x1 x2) := by
  unfold execStatAct
  exact finished_canon h0 (issue_canon h0 (fun _ k0 => aStatAct_canon k0))
theorem execTstWr_canon {x0 x1 x2} (h0 : Canon x2) : CanonN (@execTstWr x0 x1 x2) := by
  unfold execTstWr
  exact finished_canon h0 (issue_canon h0 (fun _ k0 => aTstWr_canon k0))
theorem execTstRd_canon {x0 x1 x2} (h0 : Canon x2) : CanonN (@execTstRd x0 x1 x2) := by
  unfold execTstRd
  exact finished_canon h0 (issue_canon h0 (fun _ k0 => aTstRd_canon k0))

/-! ### Machine/ExecStored.lean -/

theorem execScrubPointerAdvance_canon {x0 x1 x2} (h0 : Canon x2) : CanonN (@execScrubPointerAdvance x0 x1 x2) := by
  unfold execScrubPointerAdvance
  exact finished_canon h0 (scrubAdvance_canon h0)
theorem execScrubVisit_canon {x0 x1} (h0 : Canon x1) : CanonN (@execScrubVisit x0 x1) := by
  unfold execScrubVisit
  exact finished_canon h0 (scrubVisit_canon h0)
theorem execScrubLapOverdue_canon {x0 x1} (h0 : Canon x1) : CanonN (@execScrubLapOverdue x0 x1) := by
  unfold execScrubLapOverdue
  exact finished_canon h0 (lapOverdue_canon h0)
theorem execPriorityScrubVisit_canon {x0 x1} (h0 : Canon x1) : CanonN (@execPriorityScrubVisit x0 x1) := by
  unfold execPriorityScrubVisit
  exact finished_canon h0 (priorityVisit_canon h0)
theorem execLogSpillWrite_canon {x0 x1} (h0 : Canon x1) : CanonN (@execLogSpillWrite x0 x1) := by
  unfold execLogSpillWrite
  exact finished_canon h0 (logSpill_canon h0)
theorem execEccExtLookup_canon {x0 x1 x2 x3} (h0 : Canon x3) : CanonN (@execEccExtLookup x0 x1 x2 x3) := by
  unfold execEccExtLookup
  exact finished_canon h0 (writeOn_canon h0)
theorem execEccInjArm_canon {x0 x1 x2 x3} (h0 : Canon x3) : CanonN (@execEccInjArm x0 x1 x2 x3) := by
  unfold execEccInjArm
  exact finished_canon h0 (writeOn_canon h0)

/-! ### Machine/ExecRefresh.lean -/

theorem execRefreshIntervalTick_canon {x0 x1} (h0 : Canon x1) : CanonN (@execRefreshIntervalTick x0 x1) := by
  unfold execRefreshIntervalTick
  exact finished_canon h0 (refreshTick_canon h0)
theorem execPerBankRefreshIssue_canon {x0 x1 x2} (h0 : Canon x2) : CanonN (@execPerBankRefreshIssue x0 x1 x2) := by
  unfold execPerBankRefreshIssue
  exact finished_canon h0 (refreshIssue_canon h0)
theorem execPerBankRefreshEnd_canon {x0 x1 x2} (h0 : Canon x2) : CanonN (@execPerBankRefreshEnd x0 x1 x2) := by
  unfold execPerBankRefreshEnd
  exact finished_canon h0 (refreshEnd_canon h0)
theorem execDieSelfRefresh_canon {x0 x1 x2} (h0 : Canon x2) : CanonN (@execDieSelfRefresh x0 x1 x2) := by
  unfold execDieSelfRefresh
  exact finished_canon h0 (dieSelfRefresh_canon h0)
theorem execGlbFpointNextWrite_canon {x0 x1 x2} (h0 : Canon x2) : CanonN (@execGlbFpointNextWrite x0 x1 x2) := by
  unfold execGlbFpointNextWrite
  exact finished_canon h0 (writeOn_canon h0)
theorem execCalRunRail_canon {x0 x1} (h0 : Canon x1) : CanonN (@execCalRunRail x0 x1) := by
  unfold execCalRunRail
  exact finished_canon h0 (writeOn_canon h0)
theorem execCalRunSensor_canon {x0 x1} (h0 : Canon x1) : CanonN (@execCalRunSensor x0 x1) := by
  unfold execCalRunSensor
  exact finished_canon h0 (writeOn_canon h0)
theorem execCalRunCommit_canon {x0 x1} (h0 : Canon x1) : CanonN (@execCalRunCommit x0 x1) := by
  unfold execCalRunCommit
  exact finished_canon h0 (writeOn_canon h0)
theorem execCalRunEnd_canon {x0 x1} (h0 : Canon x1) : CanonN (@execCalRunEnd x0 x1) := by
  unfold execCalRunEnd
  exact finished_canon h0 (calRunEnd_canon h0)
theorem execCalRecordCommit_canon {x0 x1} (h0 : Canon x1) : CanonN (@execCalRecordCommit x0 x1) := by
  unfold execCalRecordCommit
  exact finished_canon h0 (calRecordCommit_canon h0)
theorem execCalCommitDone_canon {x0 x1 x2} (h0 : Canon x2) : CanonN (@execCalCommitDone x0 x1 x2) := by
  unfold execCalCommitDone
  exact finished_canon h0 (calCommitDone_canon h0)
theorem execCalCommitTimeout_canon {x0 x1} (h0 : Canon x1) : CanonN (@execCalCommitTimeout x0 x1) := by
  unfold execCalCommitTimeout
  exact finished_canon h0 (calCommitDone_canon h0)
theorem execDriftRunStart_canon {x0 x1} (h0 : Canon x1) : CanonN (@execDriftRunStart x0 x1) := by
  unfold execDriftRunStart
  exact finished_canon h0 (driftRunStart_canon h0)
theorem execSuspectCheck_canon {x0 x1 x2} (h0 : Canon x2) : CanonN (@execSuspectCheck x0 x1 x2) := by
  unfold execSuspectCheck
  exact finished_canon h0 (suspectCheck_canon h0)
theorem execVptProbeLookup_canon {x0 x1 x2 x3} (h0 : Canon x3) : CanonN (@execVptProbeLookup x0 x1 x2 x3) := by
  unfold execVptProbeLookup
  exact finished_canon h0 (writeOn_canon h0)

/-! ### Machine/ExecHeat.lean -/

theorem execSensorSample_canon {x0 x1 x2} (h0 : Canon x2) : CanonN (@execSensorSample x0 x1 x2) := by
  unfold execSensorSample
  exact finished_canon h0 (sensorSample_canon h0)
theorem execBackstopTrip_canon {x0 x1} (h0 : Canon x1) : CanonN (@execBackstopTrip x0 x1) := by
  unfold execBackstopTrip
  exact finished_canon h0 (backstopTrip_canon h0)
theorem execShareLapse_canon {x0} (h0 : Canon x0) : CanonN (@execShareLapse x0) := by
  unfold execShareLapse
  exact finished_canon h0 (shareLapse_canon h0)
theorem execThrottleHoldExpire_canon {x0 x1} (h0 : Canon x1) : CanonN (@execThrottleHoldExpire x0 x1) := by
  unfold execThrottleHoldExpire
  exact finished_canon h0 (holdExpire_canon h0)
theorem execWearSample_canon {x0 x1} (h0 : Canon x1) : CanonN (@execWearSample x0 x1) := by
  unfold execWearSample
  exact finished_canon h0 (wearSample_canon h0)
theorem execWearCheck_canon {x0 x1 x2} (h0 : Canon x2) : CanonN (@execWearCheck x0 x1 x2) := by
  unfold execWearCheck
  exact finished_canon h0 (wearCheck_canon h0)
theorem execWearRecordWrite_canon {x0} (h0 : Canon x0) : CanonN (@execWearRecordWrite x0) := by
  unfold execWearRecordWrite
  exact finished_canon h0 (wearRecordWrite_canon h0)

/-! ### Machine/ExecRepair.lean -/

theorem execLdgRemove_canon {x0 x1 x2} (h0 : Canon x2) : CanonN (@execLdgRemove x0 x1 x2) := by
  unfold execLdgRemove
  exact finished_canon h0 (writeOn_canon h0)
theorem execLdgFuse_canon {x0 x1 x2} (h0 : Canon x2) : CanonN (@execLdgFuse x0 x1 x2) := by
  unfold execLdgFuse
  exact finished_canon h0 (writeOn_canon h0)
theorem execLdgRecordCond_canon {x0 x1 x2} (h0 : Canon x2) : CanonN (@execLdgRecordCond x0 x1 x2) := by
  unfold execLdgRecordCond
  exact finished_canon h0 (writeOn_canon h0)
theorem execLedgerActionEnd_canon {x0 x1} (h0 : Canon x1) : CanonN (@execLedgerActionEnd x0 x1) := by
  unfold execLedgerActionEnd
  exact finished_canon h0 (ledgerActionEnd_canon h0)
theorem execFuseCancel_canon {x0 x1 x2} (h0 : Canon x2) : CanonN (@execFuseCancel x0 x1 x2) := by
  unfold execFuseCancel
  exact finished_canon h0 (writeOn_canon h0)
theorem execFuseCancelEnd_canon {x0 x1} (h0 : Canon x1) : CanonN (@execFuseCancelEnd x0 x1) := by
  unfold execFuseCancelEnd
  exact finished_canon h0 (fuseCancelEnd_canon h0)
theorem execCalLdgIdxLookup_canon {x0 x1 x2} (h0 : Canon x2) : CanonN (@execCalLdgIdxLookup x0 x1 x2) := by
  unfold execCalLdgIdxLookup
  exact finished_canon h0 (writeOn_canon h0)
theorem execCalTstIdxLookup_canon {x0 x1 x2} (h0 : Canon x2) : CanonN (@execCalTstIdxLookup x0 x1 x2) := by
  unfold execCalTstIdxLookup
  exact finished_canon h0 (writeOn_canon h0)
theorem execCalFuseLookup_canon {x0 x1 x2} (h0 : Canon x2) : CanonN (@execCalFuseLookup x0 x1 x2) := by
  unfold execCalFuseLookup
  exact finished_canon h0 (writeOn_canon h0)
theorem execTierTestStart_canon {x0 x1 x2} (h0 : Canon x2) : CanonN (@execTierTestStart x0 x1 x2) := by
  unfold execTierTestStart
  exact finished_canon h0 (tierTest_canon h0)
theorem execTestPermitTimeout_canon {x0} (h0 : Canon x0) : CanonN (@execTestPermitTimeout x0) := by
  unfold execTestPermitTimeout
  exact finished_canon h0 (permitTimeout_canon h0)

/-! ### Machine/ExecFault.lean -/

theorem execFltStickyClear_canon {x0 x1 x2 x3 x4} (h0 : Canon x4) : CanonN (@execFltStickyClear x0 x1 x2 x3 x4) := by
  unfold execFltStickyClear
  exact finished_canon h0 (raiseAgain_canon (writeOn_canon h0) h0)
theorem execFltInjGo_canon {x0 x1 x2} (h0 : Canon x2) : CanonN (@execFltInjGo x0 x1 x2) := by
  unfold execFltInjGo
  exact finished_canon h0 (writeOn_canon h0)
theorem execFltDumpCtlWrite_canon {x0 x1 x2} (h0 : Canon x2) : CanonN (@execFltDumpCtlWrite x0 x1 x2) := by
  unfold execFltDumpCtlWrite
  exact finished_canon h0 (writeOn_canon h0)
theorem execFltDumpWindowFilled_canon {x0} (h0 : Canon x0) : CanonN (@execFltDumpWindowFilled x0) := by
  unfold execFltDumpWindowFilled
  exact finished_canon h0 (windowFilled_canon h0)
theorem execFltDumpCfgWrite_canon {x0 x1 x2} (h0 : Canon x2) : CanonN (@execFltDumpCfgWrite x0 x1 x2) := by
  unfold execFltDumpCfgWrite
  exact finished_canon h0 (writeOn_canon h0)

/-! ### Machine/ExecPackage.lean -/

theorem execMgmtHeartbeat_canon {x0 x1 x2} (h0 : Canon x2) : CanonN (@execMgmtHeartbeat x0 x1 x2) := by
  unfold execMgmtHeartbeat
  exact finished_canon h0 (heartbeat_canon h0)
theorem execHeartbeatLapse_canon {x0 x1} (h0 : Canon x1) : CanonN (@execHeartbeatLapse x0 x1) := by
  unfold execHeartbeatLapse
  exact finished_canon h0 (heartbeatLapse_canon h0)
theorem execAuthAssign_canon {x0 x1 x2} (h0 : Canon x2) : CanonN (@execAuthAssign x0 x1 x2) := by
  unfold execAuthAssign
  exact finished_canon h0 (writeOn_canon h0)
theorem execCwyHeartbeat_canon {x0 x1 x2} (h0 : Canon x2) : CanonN (@execCwyHeartbeat x0 x1 x2) := by
  unfold execCwyHeartbeat
  exact finished_canon h0 (cwyHeartbeat_canon h0)
theorem execCwyStatus_canon {x0 x1 x2} (h0 : Canon x2) : CanonN (@execCwyStatus x0 x1 x2) := by
  unfold execCwyStatus
  exact finished_canon h0 (cwyStatus_canon h0)
theorem execCwyAnnounce_canon {x0 x1 x2} (h0 : Canon x2) : CanonN (@execCwyAnnounce x0 x1 x2) := by
  unfold execCwyAnnounce
  exact finished_canon h0 (cwyAnnounce_canon h0)
theorem execCwyPermitReq_canon {x0 x1 x2 x3 x4} (h0 : Canon x4) : CanonN (@execCwyPermitReq x0 x1 x2 x3 x4) := by
  unfold execCwyPermitReq
  exact finished_canon h0 (cwyPermitReq_canon h0)
theorem execCwyPermit_canon {x0 x1 x2 x3 x4} (h0 : Canon x4) : CanonN (@execCwyPermit x0 x1 x2 x3 x4) := by
  unfold execCwyPermit
  exact finished_canon h0 (cwyPermit_canon h0)
theorem execCwyPermitDone_canon {x0 x1 x2 x3 x4} (h0 : Canon x4) : CanonN (@execCwyPermitDone x0 x1 x2 x3 x4) := by
  unfold execCwyPermitDone
  exact finished_canon h0 (cwyPermitDone_canon h0)
theorem execCwyFrameCutoff_canon {x0} (h0 : Canon x0) : CanonN (@execCwyFrameCutoff x0) := by
  unfold execCwyFrameCutoff
  exact finished_canon h0 (discardFrame_canon h0)
theorem execCausewayFrameDiscard_canon {x0} (h0 : Canon x0) : CanonN (@execCausewayFrameDiscard x0) := by
  unfold execCausewayFrameDiscard
  exact finished_canon h0 (discardFrame_canon h0)
theorem execCwyLinkDown_canon {x0} (h0 : Canon x0) : CanonN (@execCwyLinkDown x0) := by
  unfold execCwyLinkDown
  exact finished_canon h0 (cwyDown_canon h0)
theorem execCwyLinkUp_canon {x0} (h0 : Canon x0) : CanonN (@execCwyLinkUp x0) := by
  unfold execCwyLinkUp
  exact finished_canon h0 (cwyUp_canon h0)
theorem execCwyHeartbeatSend_canon {x0} (h0 : Canon x0) : CanonN (@execCwyHeartbeatSend x0) := by
  unfold execCwyHeartbeatSend
  exact finished_canon h0 (beatSend_canon h0)
theorem execCwyStatusSend_canon {x0} (h0 : Canon x0) : CanonN (@execCwyStatusSend x0) := by
  unfold execCwyStatusSend
  exact finished_canon h0 (statusSend_canon h0)
theorem execMgrListenEnd_canon {x0} (h0 : Canon x0) : CanonN (@execMgrListenEnd x0) := by
  unfold execMgrListenEnd
  exact finished_canon h0 (listenEnd_canon h0)
theorem execMgrTakeoverTimeout_canon {x0} (h0 : Canon x0) : CanonN (@execMgrTakeoverTimeout x0) := by
  unfold execMgrTakeoverTimeout
  exact finished_canon h0 (takeover_canon h0)
theorem execStackAbsent_canon {x0 x1} (h0 : Canon x1) : CanonN (@execStackAbsent x0 x1) := by
  unfold execStackAbsent
  exact finished_canon h0 (stackAbsent_canon h0)
theorem execResign_canon {x0 x1 x2} (h0 : Canon x2) : CanonN (@execResign x0 x1 x2) := by
  unfold execResign
  exact finished_canon h0 (writeOn_canon h0)
theorem execTestPermitExpiry_canon {x0 x1} (h0 : Canon x1) : CanonN (@execTestPermitExpiry x0 x1) := by
  unfold execTestPermitExpiry
  exact finished_canon h0 (permitExpiry_canon h0)
theorem execFwuGo_canon {x0 x1 x2 x3} (h0 : Canon x3) : CanonN (@execFwuGo x0 x1 x2 x3) := by
  unfold execFwuGo
  exact finished_canon h0 (direct_canon h0)
theorem execFwuBootTimeout_canon {x0} (h0 : Canon x0) : CanonN (@execFwuBootTimeout x0) := by
  unfold execFwuBootTimeout
  exact finished_canon h0 (fwuBootTimeout_canon h0)

/-! ### Machine/ExecLife.lean -/

theorem execLcAdvance_canon {x0 x1 x2} (h0 : Canon x2) : CanonN (@execLcAdvance x0 x1 x2) := by
  unfold execLcAdvance
  exact finished_canon h0 (writeOn_canon h0)
theorem execLcTransitionEnd_canon {x0 x1} (h0 : Canon x1) : CanonN (@execLcTransitionEnd x0 x1) := by
  unfold execLcTransitionEnd
  exact finished_canon h0 (transitionEnd_canon h0)
theorem execLcChallenge_canon {x0 x1 x2} (h0 : Canon x2) : CanonN (@execLcChallenge x0 x1 x2) := by
  unfold execLcChallenge
  exact finished_canon h0 (writeOn_canon h0)
theorem execLcOpen_canon {x0 x1 x2} (h0 : Canon x2) : CanonN (@execLcOpen x0 x1 x2) := by
  unfold execLcOpen
  exact finished_canon h0 (writeOn_canon h0)
theorem execLcClose_canon {x0 x1 x2} (h0 : Canon x2) : CanonN (@execLcClose x0 x1 x2) := by
  unfold execLcClose
  exact finished_canon h0 (writeOn_canon h0)
theorem execNonceLapse_canon {x0} (h0 : Canon x0) : CanonN (@execNonceLapse x0) := by
  unfold execNonceLapse
  exact finished_canon h0 (nonceLapse_canon h0)
theorem execSessionIdleExpiry_canon {x0} (h0 : Canon x0) : CanonN (@execSessionIdleExpiry x0) := by
  unfold execSessionIdleExpiry
  exact finished_canon h0 (idleExpiry_canon h0)
theorem execLcStrapOvrWrite_canon {x0 x1 x2} (h0 : Canon x2) : CanonN (@execLcStrapOvrWrite x0 x1 x2) := by
  unfold execLcStrapOvrWrite
  exact finished_canon h0 (writeOn_canon h0)
theorem execLcTrnOvrWrite_canon {x0 x1 x2} (h0 : Canon x2) : CanonN (@execLcTrnOvrWrite x0 x1 x2) := by
  unfold execLcTrnOvrWrite
  exact finished_canon h0 (writeOn_canon h0)
theorem execLcAudLookup_canon {x0 x1 x2} (h0 : Canon x2) : CanonN (@execLcAudLookup x0 x1 x2) := by
  unfold execLcAudLookup
  exact finished_canon h0 (writeOn_canon h0)

/-! ### Machine/ExecObs.lean -/

theorem execObsFreeze_canon {x0 x1 x2} (h0 : Canon x2) : CanonN (@execObsFreeze x0 x1 x2) := by
  unfold execObsFreeze
  exact finished_canon h0 (writeOn_canon h0)
theorem execObsSnap_canon {x0 x1 x2} (h0 : Canon x2) : CanonN (@execObsSnap x0 x1 x2) := by
  unfold execObsSnap
  exact finished_canon h0 (writeOn_canon h0)
theorem execObsClear_canon {x0 x1 x2} (h0 : Canon x2) : CanonN (@execObsClear x0 x1 x2) := by
  unfold execObsClear
  exact finished_canon h0 (writeOn_canon h0)
theorem execObsControlInstant_canon {x0} (h0 : Canon x0) : CanonN (@execObsControlInstant x0) := by
  unfold execObsControlInstant
  exact finished_canon h0 (obsInstant_canon h0)
theorem execTagEnable_canon {x0 x1 x2} (h0 : Canon x2) : CanonN (@execTagEnable x0 x1 x2) := by
  unfold execTagEnable
  exact finished_canon h0 (writeOn_canon h0)
theorem execTagRecordWrite_canon {x0 x1} (h0 : Canon x1) : CanonN (@execTagRecordWrite x0 x1) := by
  unfold execTagRecordWrite
  exact finished_canon h0 (tagWrite_canon h0)
theorem execTraceStart_canon {x0 x1 x2} (h0 : Canon x2) : CanonN (@execTraceStart x0 x1 x2) := by
  unfold execTraceStart
  exact finished_canon h0 (writeOn_canon h0)
theorem execTraceStop_canon {x0 x1 x2} (h0 : Canon x2) : CanonN (@execTraceStop x0 x1 x2) := by
  unfold execTraceStop
  exact finished_canon h0 (writeOn_canon h0)
theorem execTracePostTriggerStop_canon {x0} (h0 : Canon x0) : CanonN (@execTracePostTriggerStop x0) := by
  unfold execTracePostTriggerStop
  exact finished_canon h0 (postStop_canon h0)
theorem execTraceExport_canon {x0 x1 x2} (h0 : Canon x2) : CanonN (@execTraceExport x0 x1 x2) := by
  unfold execTraceExport
  exact finished_canon h0 (writeOn_canon h0)
theorem execTraceExportEnd_canon {x0} (h0 : Canon x0) : CanonN (@execTraceExportEnd x0) := by
  unfold execTraceExportEnd
  exact finished_canon h0 (exportEnd_canon h0)
theorem execTraceWindowRead_canon {x0 x1 x2} (h0 : Canon x2) : CanonN (@execTraceWindowRead x0 x1 x2) := by
  unfold execTraceWindowRead
  exact finished_canon h0 (writeOn_canon h0)
theorem execTraceMark_canon {x0 x1 x2} (h0 : Canon x2) : CanonN (@execTraceMark x0 x1 x2) := by
  unfold execTraceMark
  exact finished_canon h0 (writeOn_canon h0)

/-! ### Machine/Dispatch.lean -/

theorem exec_canon {x0 x1} (h0 : Canon x1) : CanonN (@exec x0 x1) := by
  unfold exec
  split
  · exact execPwrokRise_canon h0
  · exact execPwrokFall_canon h0
  · exact execRstNRise_canon h0
  · exact execRstNFall_canon h0
  · exact execBringupStepTimeout_canon h0
  · exact execCorePllLockLoss_canon h0
  · exact execPllLockTimeout_canon h0
  · exact execRefclkMeasure_canon h0
  · exact execRefclkAbsent_canon h0
  · exact execRefclkReturn_canon h0
  · exact execRefclkLossTimeout_canon h0
  · exact execSpineStopSelfRefresh_canon h0
  · exact execIslandIdleGate_canon h0
  · exact execIslandWake_canon h0
  · exact execIslandResetReq_canon h0
  · exact execIslandResetRelease_canon h0
  · exact execChannelFieldsRestore_canon h0
  · exact execIslandGateWrite_canon h0
  · exact execStraitEntryWrite_canon h0
  · exact execStraitEntryRead_canon h0
  · exact execStraitCreditReturn_canon h0
  · exact execRailSample_canon h0
  · exact execPwrRailLimWrite_canon h0
  · exact execDiePgoodTrip_canon h0
  · exact execDiePgoodRestore_canon h0
  · exact execGlbTimeLoRead_canon h0
  · exact execGlbTimeHiRead_canon h0
  · exact execGlbTimeHiWrite_canon h0
  · exact execGlbTimeLoWrite_canon h0
  · exact execWideRegisterLoRead_canon h0
  · exact execWideRegisterHiWrite_canon h0
  · exact execWideRegisterLoWrite_canon h0
  · exact execRegisterWrite_canon h0
  · exact execManagementTick_canon h0
  · exact execRegisterAccessTimeout_canon h0
  · exact execPollSummaryClear_canon h0
  · exact execEccLogPop_canon h0
  · exact execModeReqSelfRefresh_canon h0
  · exact execModeReqDeepRetention_canon h0
  · exact execModeReqActive_canon h0
  · exact execModeReqShutdown_canon h0
  · exact execModeReqShutdownTest_canon h0
  · exact execChReqDrain_canon h0
  · exact execChReqResume_canon h0
  · exact execChReqRetrain_canon h0
  · exact execChReqOffline_canon h0
  · exact execChReqRecover_canon h0
  · exact execChReqRetire_canon h0
  · exact execDrainComplete_canon h0
  · exact execHeldRequestTimeout_canon h0
  · exact execDrainPinAbort_canon h0
  · exact execLedgerWriteDone_canon h0
  · exact execSbDetectTimeout_canon h0
  · exact execSidebandUp_canon h0
  · exact execSidebandLinkFail_canon h0
  · exact execMbStageTimeout_canon h0
  · exact execMainbandTrainingDone_canon h0
  · exact execTrainErrorRestart_canon h0
  · exact execModuleTrainDeadline_canon h0
  · exact execKyCap_canon h0
  · exact execKyCapTimeout_canon h0
  · exact execRegRd_canon h0
  · exact execRegWr_canon h0
  · exact execEqSet_canon h0
  · exact execEqGet_canon h0
  · exact execKyLpbk_canon h0
  · exact execKyLpbkRsp_canon h0
  · exact execKyLpbkRspTimeout_canon h0
  · exact execPartnerL1Request_canon h0
  · exact execPrimarySbLossTimeout_canon h0
  · exact execFlitCrcFail_canon h0
  · exact execRetryExhausted_canon h0
  · exact execRetrainEnd_canon h0
  · exact execRetrainTimeout_canon h0
  · exact execL1ExitTimeout_canon h0
  · exact execRetrainReq_canon h0
  · exact execCommitModule_canon h0
  · exact execMakePrimary_canon h0
  · exact execExcludeModule_canon h0
  · exact execForceExclude_canon h0
  · exact execIncludeModule_canon h0
  · exact execExclusionDrainEnd_canon h0
  · exact execExclusionDrainTimeout_canon h0
  · exact execLpbkStart_canon h0
  · exact execLpbkStop_canon h0
  · exact execLoopbackDurationEnd_canon h0
  · exact execRd_canon h0
  · exact execWr_canon h0
  · exact execWrPart_canon h0
  · exact execWrZero_canon h0
  · exact execFence_canon h0
  · exact execCredit_canon h0
  · exact execCfgRd_canon h0
  · exact execCfgWr_canon h0
  · exact execReqCreditReturn_canon h0
  · exact execResponseTransmit_canon h0
  · exact execRequestDeadline_canon h0
  · exact execXptInjArm_canon h0
  · exact execFlowCtxWord0Write_canon h0
  · exact execFlowCtxWord1Write_canon h0
  · exact execFlowCtxWord2Write_canon h0
  · exact execQosWindowBoundary_canon h0
  · exact execRequestClassify_canon h0
  · exact execUrgWireChange_canon h0
  · exact execUrgStuckTimeout_canon h0
  · exact execFloorRecompute_canon h0
  · exact execQosThrottleWrite_canon h0
  · exact execQosFenceGo_canon h0
  · exact execBulkStarvePromote_canon h0
  · exact execSchedulerTakeUp_canon h0
  · exact execLagoonHit_canon h0
  · exact execSectorCycle_canon h0
  · exact execVerticalCycleSchedule_canon h0
  · exact execMoveInTransferEnd_canon h0
  · exact execMoveInDone_canon h0
  · exact execMoveOutPrecharge_canon h0
  · exact execHistDecay_canon h0
  · exact execZeroFillComplete_canon h0
  · exact execRefreshIntervalTick_canon h0
  · exact execPerBankRefreshIssue_canon h0
  · exact execPerBankRefreshEnd_canon h0
  · exact execGlbDieRstGo_canon h0
  · exact execDieResetReady_canon h0
  · exact execDieResetReadyTimeout_canon h0
  · exact execWritebackAll_canon h0
  · exact execDiscardFenced_canon h0
  · exact execLagActionEnd_canon h0
  · exact execExdQdbWrite_canon h0
  · exact execExdQcfgWrite_canon h0
  · exact execExdQctlEnWrite_canon h0
  · exact execExdQctlAbort_canon h0
  · exact execExdQctlResetIdx_canon h0
  · exact execExdCtlAbort_canon h0
  · exact execDescriptorRead_canon h0
  · exact execProgramFetchDone_canon h0
  · exact execCompletionRecordWritten_canon h0
  · exact execExdunBudgetLapse_canon h0
  · exact execInstructionWaitEnd_canon h0
  · exact execNop_canon h0
  · exact execHalt_canon h0
  · exact execBr_canon h0
  · exact execWait_canon h0
  · exact execTime_canon h0
  · exact execLi_canon h0
  · exact execLih_canon h0
  · exact execMov_canon h0
  · exact execAdd_canon h0
  · exact execSub_canon h0
  · exact execAddi_canon h0
  · exact execAnd_canon h0
  · exact execOr_canon h0
  · exact execXor_canon h0
  · exact execShl_canon h0
  · exact execShr_canon h0
  · exact execCtz_canon h0
  · exact execPopc_canon h0
  · exact execMul_canon h0
  · exact execCmp_canon h0
  · exact execCmpi_canon h0
  · exact execStRd_canon h0
  · exact execStClr_canon h0
  · exact execLdCfg_canon h0
  · exact execStCfg_canon h0
  · exact execRowLoad_canon h0
  · exact execRowClaim_canon h0
  · exact execRowRel_canon h0
  · exact execRowWb_canon h0
  · exact execRowLoc_canon h0
  · exact execSlotLdw_canon h0
  · exact execSlotStw_canon h0
  · exact execRowCopy_canon h0
  · exact execRowFill_canon h0
  · exact execRowZero_canon h0
  · exact execRowBit_canon h0
  · exact execRowCmp_canon h0
  · exact execRowPopc_canon h0
  · exact execRowCrc_canon h0
  · exact execRowFerry_canon h0
  · exact execSecRdraw_canon h0
  · exact execSecWrraw_canon h0
  · exact execRepRetire_canon h0
  · exact execRepRow_canon h0
  · exact execRepCol_canon h0
  · exact execRepColWalkStep_canon h0
  · exact execRefRow_canon h0
  · exact execExtInit_canon h0
  · exact execVpSpare_canon h0
  · exact execVpChk_canon h0
  · exact execVpPt_canon h0
  · exact execStatRes_canon h0
  · exact execStatAct_canon h0
  · exact execTstWr_canon h0
  · exact execTstRd_canon h0
  · exact execFirmwareInstruction_canon h0
  · exact execReservedOpcode_canon h0
  · exact execScrubPointerAdvance_canon h0
  · exact execScrubVisit_canon h0
  · exact execScrubLapOverdue_canon h0
  · exact execPriorityScrubVisit_canon h0
  · exact execLogSpillWrite_canon h0
  · exact execEccExtLookup_canon h0
  · exact execEccInjArm_canon h0
  · exact execDieSelfRefresh_canon h0
  · exact execGlbFpointNextWrite_canon h0
  · exact execCalRunRail_canon h0
  · exact execCalRunSensor_canon h0
  · exact execCalRunCommit_canon h0
  · exact execCalRunEnd_canon h0
  · exact execCalRecordCommit_canon h0
  · exact execCalCommitDone_canon h0
  · exact execCalCommitTimeout_canon h0
  · exact execDriftRunStart_canon h0
  · exact execSuspectCheck_canon h0
  · exact execVptProbeLookup_canon h0
  · exact execSensorSample_canon h0
  · exact execBackstopTrip_canon h0
  · exact execShareLapse_canon h0
  · exact execThrottleHoldExpire_canon h0
  · exact execLdgRemove_canon h0
  · exact execLdgFuse_canon h0
  · exact execLdgRecordCond_canon h0
  · exact execLedgerActionEnd_canon h0
  · exact execFuseCancel_canon h0
  · exact execFuseCancelEnd_canon h0
  · exact execCalLdgIdxLookup_canon h0
  · exact execCalTstIdxLookup_canon h0
  · exact execCalFuseLookup_canon h0
  · exact execTierTestStart_canon h0
  · exact execTestPermitTimeout_canon h0
  · exact execWearSample_canon h0
  · exact execWearCheck_canon h0
  · exact execWearRecordWrite_canon h0
  · exact execFltStickyClear_canon h0
  · exact execFltInjGo_canon h0
  · exact execFltDumpCtlWrite_canon h0
  · exact execFltDumpWindowFilled_canon h0
  · exact execFltDumpCfgWrite_canon h0
  · exact execMgmtHeartbeat_canon h0
  · exact execHeartbeatLapse_canon h0
  · exact execAuthAssign_canon h0
  · exact execCwyHeartbeat_canon h0
  · exact execCwyStatus_canon h0
  · exact execCwyAnnounce_canon h0
  · exact execCwyPermitReq_canon h0
  · exact execCwyPermit_canon h0
  · exact execCwyPermitDone_canon h0
  · exact execCwyFrameCutoff_canon h0
  · exact execCwyLinkDown_canon h0
  · exact execCwyLinkUp_canon h0
  · exact execCwyHeartbeatSend_canon h0
  · exact execCwyStatusSend_canon h0
  · exact execMgrListenEnd_canon h0
  · exact execMgrTakeoverTimeout_canon h0
  · exact execStackAbsent_canon h0
  · exact execResign_canon h0
  · exact execTestPermitExpiry_canon h0
  · exact execFwuGo_canon h0
  · exact execFwuBootTimeout_canon h0
  · exact execLcAdvance_canon h0
  · exact execLcTransitionEnd_canon h0
  · exact execLcChallenge_canon h0
  · exact execLcOpen_canon h0
  · exact execLcClose_canon h0
  · exact execNonceLapse_canon h0
  · exact execSessionIdleExpiry_canon h0
  · exact execLcStrapOvrWrite_canon h0
  · exact execLcTrnOvrWrite_canon h0
  · exact execLcAudLookup_canon h0
  · exact execObsFreeze_canon h0
  · exact execObsSnap_canon h0
  · exact execObsClear_canon h0
  · exact execObsControlInstant_canon h0
  · exact execTagEnable_canon h0
  · exact execTagRecordWrite_canon h0
  · exact execTraceStart_canon h0
  · exact execTraceStop_canon h0
  · exact execTracePostTriggerStop_canon h0
  · exact execTraceExport_canon h0
  · exact execTraceExportEnd_canon h0
  · exact execTraceWindowRead_canon h0
  · exact execTraceMark_canon h0
  · exact execCorePllRelock_canon h0
  · exact execCoreDieResetRelease_canon h0
  · exact execMramWriteEnd_canon h0
  · exact execSidebandMessageDiscard_canon h0
  · exact execCausewayFrameDiscard_canon h0

/-- What a command that the queue's front holds leaves has canonical stores (see `exec_canon`, `commit_canon`). -/
theorem next_canon {i : Instr} {s t : State} (h : Canon s) (e : exec i s = .next t) : Canon t := by
  have k := exec_canon (x0 := i) h
  rw [e] at k
  cases k
  assumption

end Sys2Proof.Laws
end

