-- ==== Sys2Proof/Laws/Commit.lean ====
section
/-!
SUPPORT. What `commit` adds to a command's own effect: the throttle step, POLL_SUMMARY, counters and trace, and nothing
else.
-/
namespace Sys2Proof.Machine

theorem core_setReg (s : State) (a : Nat) (w : Word) : (s.setReg a w).core = s.core := by
  unfold State.core State.setReg; rfl
theorem core_note (s : State) (e : ObsEv) : (s.note e).core = s.core := by unfold State.core State.note; rfl
theorem core_obs (s : State) (o : Obs) : ({ s with obs := o } : State).core = s.core := by unfold State.core; rfl
theorem core_thermal (s : State) (o : Thermal) : ({ s with thermal := o } : State).core = s.core := by
  unfold State.core; rfl
theorem core_setFld (s : State) (f : Fld) (v : Nat) : (s.setFld f v).core = s.core := by
  rw [State.setFld, core_setReg]
theorem core_setFlag (s : State) (f : Fld) (b : Bool) : (s.setFlag f b).core = s.core := by
  rw [State.setFlag, core_setFld]
theorem core_latch (s : State) (f : Fld) : (s.latch f).core = s.core := by rw [State.latch, core_setFld]
theorem core_traceEv (s : State) (k a d : Nat) : (s.traceEv k a d).core = s.core := by rw [State.traceEv, core_note]
theorem core_setCnt (s : State) (c : Option Nat) (i v : Nat) : (s.setCnt c i v).core = s.core := by
  rw [State.setCnt, core_setReg, core_setReg]

theorem core_foldl {α : Type} (f : State → α → State) (hf : ∀ s x, (f s x).core = s.core) (l : List α) (s : State) :
    (l.foldl f s).core = s.core := by
  induction l generalizing s with
  | nil => rfl
  | cons x r ih => rw [List.foldl_cons, ih, hf]

theorem core_holdFloor (s : State) : s.holdFloor.core = s.core := by
  unfold State.holdFloor
  simp only
  split
  · rfl
  · rw [State.setSteps, core_setFld, core_setFld, core_setFld, core_thermal]

theorem core_setThrottle (s : State) : s.setThrottle.core = s.core := by
  simp only [State.setThrottle, core_setFld, core_holdFloor]

theorem core_noteMode (s b : State) : (s.noteMode b).core = s.core := by
  unfold State.noteMode
  simp only
  split
  · rfl
  · rw [core_traceEv, core_latch]

theorem core_countChange (s b : State) : (s.countChange b).core = s.core := by
  unfold State.countChange
  simp only
  split
  · rfl
  · rw [core_setFld]

theorem core_runCounters (s b : State) (n : Nat) (l : List ObsEv) : (s.runCounters b n l).core = s.core := by
  have key : ∀ (f : State × Nat × Nat → Nat × Word → State × Nat × Nat), (∀ a x, (f a x).1.core = a.1.core) →
      ∀ (m : List (Nat × Word)) a, (m.foldl f a).1.core = a.1.core := by
    intro f hf m
    induction m with
    | nil => intro a; rfl
    | cons x r ih => intro a; rw [List.foldl_cons, ih, hf]
  unfold State.runCounters
  simp only
  split
  · rw [core_obs]
  · rw [key _ (fun a x => ?_)]
    · rw [core_obs]
    · unfold State.countOne
      split
      · rfl
      · rw [apply_ite State.core, core_setCnt, ite_self]

theorem core_stopTrace (s : State) (k : Nat) : (s.stopTrace k).core = s.core := by
  unfold State.stopTrace
  simp only
  split
  · rw [core_obs, core_setFld, core_setFlag]
  · rw [core_latch, core_obs, core_setFld, core_setFlag]

theorem core_putEntry (s : State) (t k a d : Nat) : (s.putEntry t k a d).core = s.core := by
  unfold State.putEntry
  split
  · rfl
  · simp only
    split
    · split
      · rw [core_setFlag, core_setFld, core_obs]
      · rw [core_stopTrace, core_setFlag, core_setFld, core_obs]
    · rw [core_setFld, core_obs]

theorem core_trigger (s : State) (k a : Nat) : (s.trigger k a).core = s.core := by
  unfold State.trigger
  split
  · rw [core_obs]
  · rfl

theorem core_queueEntry (s : State) (t k a d : Nat) : (s.queueEntry t k a d).core = s.core := by
  unfold State.queueEntry
  simp only
  split
  · rw [State.countGl, core_note, core_obs]
  · rw [core_putEntry]
    split
    · rw [core_obs]
    · rw [core_putEntry, core_obs]

theorem core_traceOne (s : State) (e : ObsEv) : (s.traceOne e).core = s.core := by
  unfold State.traceOne
  split
  · rfl
  · split
    · rfl
    · exact core_stopTrace _ _
    · rw [core_trigger]; split
      · exact core_queueEntry _ _ _ _ _
      · rfl

theorem core_snapOne (s : State) (c : Option Nat) (i : Nat) : (s.snapOne c i).core = s.core := by
  unfold State.snapOne
  simp only [core_setReg]

theorem core_instantAt (s b : State) (x : ObsInstant) : (s.instantAt b x).core = s.core := by
  have snap : ∀ (t : State) n, (t.snapshotAt n).core = t.core := fun t n => by
    unfold State.snapshotAt
    simp only [core_setFlag, core_setReg]
    rw [core_foldl (fun (u : State) (z : Option Nat × Nat) => u.snapOne z.1 z.2) (fun u z => core_snapOne u z.1 z.2), core_obs]
  have clear : ∀ t : State, t.clearCounters.core = t.core := fun t => by
    unfold State.clearCounters
    exact core_foldl _ (fun u z => by split <;> simp only [core_setCnt]) _ _
  have h : ((if x.clear = true then (if x.snap = true then (s.runCounters b x.due []).snapshotAt x.due
      else s.runCounters b x.due []).clearCounters else if x.snap = true then (s.runCounters b x.due []).snapshotAt x.due
      else s.runCounters b x.due []) : State).core = s.core := by
    split <;> split <;> simp only [clear, snap, core_runCounters]
  unfold State.instantAt
  simp only
  split
  · rw [core_setFlag]; exact h
  · exact h

theorem core_passInstants (s b : State) : (s.passInstants b).core = s.core := by
  unfold State.passInstants
  simp only
  rw [core_foldl _ (fun t x => core_instantAt t b x), core_obs]

theorem core_observe (s b : State) : (s.observe b).core = s.core := by
  unfold State.observe
  simp only
  rw [core_runCounters, core_obs, core_foldl _ core_traceOne, core_passInstants, core_obs]

/-- Step 8 of BRING-UP does not end with this state. -/
theorem State.bringCheck_of_none {s : State} (h : s.bringUp = none) : s.bringCheck = s := by
  simp [State.bringCheck, h]

theorem State.bringCheck_of_mode {s : State} (h : s.mode ≠ .bringUp) : s.bringCheck = s := by
  unfold State.bringCheck
  split
  · rw [if_neg (fun k => h k.2.1)]
  · rfl

/-- `commit` changes registers, observation and the notes of heat only, unless BRING-UP ends with it. -/
theorem core_commit_of (s t : State) (h : t.bringCheck = t) : (commit s t).core = t.core := by
  unfold commit
  split
  · rfl
  · rw [h, core_countChange, core_observe, core_noteMode, core_setThrottle]

theorem core_commit (s t : State) (h : t.bringUp = none) : (commit s t).core = t.core :=
  core_commit_of s t (State.bringCheck_of_none h)

/-- `commit` keeps the mode, unless BRING-UP ends with it. -/
theorem commit_mode_of (s t : State) (h : t.bringCheck = t) : (commit s t).mode = t.mode :=
  (by have e := congrArg State.mode (core_commit_of s t h); exact e)
theorem commit_pins_of (s t : State) (h : t.bringCheck = t) : (commit s t).pins = t.pins :=
  (by have e := congrArg State.pins (core_commit_of s t h); exact e)
theorem commit_now_of (s t : State) (h : t.bringCheck = t) : (commit s t).now = t.now :=
  (by have e := congrArg State.now (core_commit_of s t h); exact e)
theorem commit_timeBase_of (s t : State) (h : t.bringCheck = t) : (commit s t).timeBase = t.timeBase :=
  (by have e := congrArg State.timeBase (core_commit_of s t h); exact e)
theorem commit_bringUp_of (s t : State) (h : t.bringCheck = t) : (commit s t).bringUp = t.bringUp :=
  (by have e := congrArg State.bringUp (core_commit_of s t h); exact e)
theorem commit_txns_of (s t : State) (h : t.bringCheck = t) : (commit s t).txns = t.txns :=
  (by have e := congrArg State.txns (core_commit_of s t h); exact e)
theorem commit_mods_of (s t : State) (h : t.bringCheck = t) : (commit s t).mods = t.mods :=
  (by have e := congrArg State.mods (core_commit_of s t h); exact e)
theorem commit_chans_of (s t : State) (h : t.bringCheck = t) : (commit s t).chans = t.chans :=
  (by have e := congrArg State.chans (core_commit_of s t h); exact e)
theorem commit_mram_of (s t : State) (h : t.bringCheck = t) : (commit s t).mram = t.mram :=
  (by have e := congrArg State.mram (core_commit_of s t h); exact e)
theorem commit_shadows_of (s t : State) (h : t.bringCheck = t) : (commit s t).shadows = t.shadows :=
  (by have e := congrArg State.shadows (core_commit_of s t h); exact e)
theorem commit_straits_of (s t : State) (h : t.bringCheck = t) : (commit s t).straits = t.straits :=
  (by have e := congrArg State.straits (core_commit_of s t h); exact e)
theorem commit_coll_of (s t : State) (h : t.bringCheck = t) : (commit s t).coll = t.coll :=
  (by have e := congrArg State.coll (core_commit_of s t h); exact e)
theorem commit_cwy_of (s t : State) (h : t.bringCheck = t) : (commit s t).cwy = t.cwy :=
  (by have e := congrArg State.cwy (core_commit_of s t h); exact e)
theorem commit_auth_of (s t : State) (h : t.bringCheck = t) : (commit s t).auth = t.auth :=
  (by have e := congrArg State.auth (core_commit_of s t h); exact e)
theorem commit_life_of (s t : State) (h : t.bringCheck = t) : (commit s t).life = t.life :=
  (by have e := congrArg State.life (core_commit_of s t h); exact e)
theorem commit_chan_of (s t : State) (h : t.bringCheck = t) (c : Nat) : (commit s t).chan c = t.chan c := by
  unfold State.chan; rw [commit_chans_of s t h]
theorem commit_mod_of (s t : State) (h : t.bringCheck = t) (m : Nat) : (commit s t).mod m = t.mod m := by
  unfold State.mod; rw [commit_mods_of s t h]

/-! ### Field by field -/

theorem commit_pending (s t : State) (h : t.bringUp = none) : (commit s t).pending = t.pending := by
  have e := congrArg State.pending (core_commit s t h); exact e
theorem commit_out (s t : State) (h : t.bringUp = none) : (commit s t).out = t.out := by
  have e := congrArg State.out (core_commit s t h); exact e
theorem commit_free (s t : State) (h : t.bringUp = none) : (commit s t).free = t.free := by
  have e := congrArg State.free (core_commit s t h); exact e
theorem commit_stopped (s t : State) (h : t.bringUp = none) : (commit s t).stopped = t.stopped := by
  have e := congrArg State.stopped (core_commit s t h); exact e
theorem commit_resetting (s t : State) (h : t.bringUp = none) : (commit s t).resetting = t.resetting := by
  have e := congrArg State.resetting (core_commit s t h); exact e
theorem commit_ctxWrites (s t : State) (h : t.bringUp = none) : (commit s t).ctxWrites = t.ctxWrites := by
  have e := congrArg State.ctxWrites (core_commit s t h); exact e
theorem commit_part (s t : State) (h : t.bringUp = none) : (commit s t).part = t.part := by
  have e := congrArg State.part (core_commit s t h); exact e
theorem commit_now (s t : State) (h : t.bringUp = none) : (commit s t).now = t.now := by
  have e := congrArg State.now (core_commit s t h); exact e
theorem commit_timeBase (s t : State) (h : t.bringUp = none) : (commit s t).timeBase = t.timeBase := by
  have e := congrArg State.timeBase (core_commit s t h); exact e
theorem commit_ppmAcc (s t : State) (h : t.bringUp = none) : (commit s t).ppmAcc = t.ppmAcc := by
  have e := congrArg State.ppmAcc (core_commit s t h); exact e
theorem commit_mode (s t : State) (h : t.bringUp = none) : (commit s t).mode = t.mode := by
  have e := congrArg State.mode (core_commit s t h); exact e
theorem commit_shadows (s t : State) (h : t.bringUp = none) : (commit s t).shadows = t.shadows := by
  have e := congrArg State.shadows (core_commit s t h); exact e
theorem commit_flowShadows (s t : State) (h : t.bringUp = none) : (commit s t).flowShadows = t.flowShadows := by
  have e := congrArg State.flowShadows (core_commit s t h); exact e
theorem commit_holders (s t : State) (h : t.bringUp = none) : (commit s t).holders = t.holders := by
  have e := congrArg State.holders (core_commit s t h); exact e
theorem commit_latches (s t : State) (h : t.bringUp = none) : (commit s t).latches = t.latches := by
  have e := congrArg State.latches (core_commit s t h); exact e
theorem commit_popHold (s t : State) (h : t.bringUp = none) : (commit s t).popHold = t.popHold := by
  have e := congrArg State.popHold (core_commit s t h); exact e
theorem commit_heldAccesses (s t : State) (h : t.bringUp = none) : (commit s t).heldAccesses = t.heldAccesses := by
  have e := congrArg State.heldAccesses (core_commit s t h); exact e
theorem commit_fieldCopies (s t : State) (h : t.bringUp = none) : (commit s t).fieldCopies = t.fieldCopies := by
  have e := congrArg State.fieldCopies (core_commit s t h); exact e
theorem commit_pins (s t : State) (h : t.bringUp = none) : (commit s t).pins = t.pins := by
  have e := congrArg State.pins (core_commit s t h); exact e
theorem commit_straits (s t : State) (h : t.bringUp = none) : (commit s t).straits = t.straits := by
  have e := congrArg State.straits (core_commit s t h); exact e
theorem commit_rails (s t : State) (h : t.bringUp = none) : (commit s t).rails = t.rails := by
  have e := congrArg State.rails (core_commit s t h); exact e
theorem commit_mods (s t : State) (h : t.bringUp = none) : (commit s t).mods = t.mods := by
  have e := congrArg State.mods (core_commit s t h); exact e
theorem commit_primary (s t : State) (h : t.bringUp = none) : (commit s t).primary = t.primary := by
  have e := congrArg State.primary (core_commit s t h); exact e
theorem commit_primaryNext (s t : State) (h : t.bringUp = none) : (commit s t).primaryNext = t.primaryNext := by
  have e := congrArg State.primaryNext (core_commit s t h); exact e
theorem commit_txns (s t : State) (h : t.bringUp = none) : (commit s t).txns = t.txns := by
  have e := congrArg State.txns (core_commit s t h); exact e
theorem commit_qosFence (s t : State) (h : t.bringUp = none) : (commit s t).qosFence = t.qosFence := by
  have e := congrArg State.qosFence (core_commit s t h); exact e
theorem commit_guar (s t : State) (h : t.bringUp = none) : (commit s t).guar = t.guar := by
  have e := congrArg State.guar (core_commit s t h); exact e
theorem commit_caps (s t : State) (h : t.bringUp = none) : (commit s t).caps = t.caps := by
  have e := congrArg State.caps (core_commit s t h); exact e
theorem commit_demand (s t : State) (h : t.bringUp = none) : (commit s t).demand = t.demand := by
  have e := congrArg State.demand (core_commit s t h); exact e
theorem commit_served (s t : State) (h : t.bringUp = none) : (commit s t).served = t.served := by
  have e := congrArg State.served (core_commit s t h); exact e
theorem commit_urgSince (s t : State) (h : t.bringUp = none) : (commit s t).urgSince = t.urgSince := by
  have e := congrArg State.urgSince (core_commit s t h); exact e
theorem commit_floorStale (s t : State) (h : t.bringUp = none) : (commit s t).floorStale = t.floorStale := by
  have e := congrArg State.floorStale (core_commit s t h); exact e
theorem commit_chans (s t : State) (h : t.bringUp = none) : (commit s t).chans = t.chans := by
  have e := congrArg State.chans (core_commit s t h); exact e
theorem commit_array (s t : State) (h : t.bringUp = none) : (commit s t).array = t.array := by
  have e := congrArg State.array (core_commit s t h); exact e
theorem commit_salt (s t : State) (h : t.bringUp = none) : (commit s t).salt = t.salt := by
  have e := congrArg State.salt (core_commit s t h); exact e
theorem commit_unfilled (s t : State) (h : t.bringUp = none) : (commit s t).unfilled = t.unfilled := by
  have e := congrArg State.unfilled (core_commit s t h); exact e
theorem commit_patterned (s t : State) (h : t.bringUp = none) : (commit s t).patterned = t.patterned := by
  have e := congrArg State.patterned (core_commit s t h); exact e
theorem commit_repairs (s t : State) (h : t.bringUp = none) : (commit s t).repairs = t.repairs := by
  have e := congrArg State.repairs (core_commit s t h); exact e
theorem commit_ownSelf (s t : State) (h : t.bringUp = none) : (commit s t).ownSelf = t.ownSelf := by
  have e := congrArg State.ownSelf (core_commit s t h); exact e
theorem commit_dieReset (s t : State) (h : t.bringUp = none) : (commit s t).dieReset = t.dieReset := by
  have e := congrArg State.dieReset (core_commit s t h); exact e
theorem commit_bringUp (s t : State) (h : t.bringUp = none) : (commit s t).bringUp = t.bringUp := by
  have e := congrArg State.bringUp (core_commit s t h); exact e
theorem commit_retained (s t : State) (h : t.bringUp = none) : (commit s t).retained = t.retained := by
  have e := congrArg State.retained (core_commit s t h); exact e
theorem commit_coll (s t : State) (h : t.bringUp = none) : (commit s t).coll = t.coll := by
  have e := congrArg State.coll (core_commit s t h); exact e
theorem commit_fuses (s t : State) (h : t.bringUp = none) : (commit s t).fuses = t.fuses := by
  have e := congrArg State.fuses (core_commit s t h); exact e
theorem commit_mram (s t : State) (h : t.bringUp = none) : (commit s t).mram = t.mram := by
  have e := congrArg State.mram (core_commit s t h); exact e
theorem commit_wear (s t : State) (h : t.bringUp = none) : (commit s t).wear = t.wear := by
  have e := congrArg State.wear (core_commit s t h); exact e
theorem commit_calNow (s t : State) (h : t.bringUp = none) : (commit s t).calNow = t.calNow := by
  have e := congrArg State.calNow (core_commit s t h); exact e
theorem commit_calRun (s t : State) (h : t.bringUp = none) : (commit s t).calRun = t.calRun := by
  have e := congrArg State.calRun (core_commit s t h); exact e
theorem commit_minEye (s t : State) (h : t.bringUp = none) : (commit s t).minEye = t.minEye := by
  have e := congrArg State.minEye (core_commit s t h); exact e
theorem commit_aonUpset (s t : State) (h : t.bringUp = none) : (commit s t).aonUpset = t.aonUpset := by
  have e := congrArg State.aonUpset (core_commit s t h); exact e
theorem commit_calBad (s t : State) (h : t.bringUp = none) : (commit s t).calBad = t.calBad := by
  have e := congrArg State.calBad (core_commit s t h); exact e
theorem commit_auth (s t : State) (h : t.bringUp = none) : (commit s t).auth = t.auth := by
  have e := congrArg State.auth (core_commit s t h); exact e
theorem commit_cwy (s t : State) (h : t.bringUp = none) : (commit s t).cwy = t.cwy := by
  have e := congrArg State.cwy (core_commit s t h); exact e
theorem commit_life (s t : State) (h : t.bringUp = none) : (commit s t).life = t.life := by
  have e := congrArg State.life (core_commit s t h); exact e

theorem commit_chan (s t : State) (h : t.bringUp = none) (c : Nat) : (commit s t).chan c = t.chan c := by
  unfold State.chan; rw [commit_chans s t h]

theorem commit_mod (s t : State) (h : t.bringUp = none) (m : Nat) : (commit s t).mod m = t.mod m := by
  unfold State.mod; rw [commit_mods s t h]

/-! ### Registers -/

theorem reg_obs (s : State) (o : Obs) (a : Nat) : ({ s with obs := o } : State).reg a = s.reg a := rfl

theorem reg_foldl {α : Type} (f : State → α → State) (a : Nat) (hf : ∀ s x, (f s x).reg a = s.reg a) (l : List α)
    (s : State) : (l.foldl f s).reg a = s.reg a := by
  induction l generalizing s with
  | nil => rfl
  | cons x r ih => rw [List.foldl_cons, ih, hf]

theorem reg_foldl_mem {α : Type} (f : State → α → State) (a : Nat) (l : List α) (hf : ∀ s x, x ∈ l → (f s x).reg a = s.reg a)
    (s : State) : (l.foldl f s).reg a = s.reg a := by
  induction l generalizing s with
  | nil => rfl
  | cons x r ih =>
    rw [List.foldl_cons, ih (fun t y hy => hf t y (List.mem_cons_of_mem _ hy)), hf _ _ List.mem_cons_self]

theorem reg_stopTrace (s : State) (k : Nat) {a : Nat} (h : ¬ ObsWrites a) : (s.stopTrace k).reg a = s.reg a := by
  have h1 : a ≠ F.OBS_TRC_STS_STOPPED_BY.addr := fun e => h (.inr (.inl e))
  have h2 : a ≠ F.OBS_TRC_STS_RUNNING.addr := fun e => h (.inr (.inl e))
  have h3 : a ≠ F.POLL_SUMMARY_OBS.addr := fun e => h (.inl e)
  unfold State.stopTrace
  simp only
  split
  · rw [reg_obs, State.reg_setFld_ne _ _ _ h1, State.reg_setFlag_ne _ _ _ h2]
  · rw [State.reg_latch_ne _ _ h3, reg_obs, State.reg_setFld_ne _ _ _ h1, State.reg_setFlag_ne _ _ _ h2]

theorem reg_traceOne (s : State) (e : ObsEv) {a : Nat} (h : ¬ ObsWrites a) : (s.traceOne e).reg a = s.reg a := by
  have h1 : a ≠ F.OBS_TRC_STS_WR_POS.addr := fun e => h (.inr (.inl e))
  have h2 : a ≠ F.OBS_TRC_STS_FULL.addr := fun e => h (.inr (.inl e))
  unfold State.traceOne
  split
  · rfl
  · split
    · rfl
    · exact reg_stopTrace _ _ h
    · rw [show ∀ (x : State) k b, (x.trigger k b).reg a = x.reg a from ?_]
      · split
        · have put : ∀ (t : State) n k b d, (t.putEntry n k b d).reg a = t.reg a := fun t n k b d => by
            unfold State.putEntry
            split
            · rfl
            · simp only
              split
              · split
                · rw [State.reg_setFlag_ne _ _ _ h2, State.reg_setFld_ne _ _ _ h1, reg_obs]
                · rw [reg_stopTrace _ _ h, State.reg_setFlag_ne _ _ _ h2, State.reg_setFld_ne _ _ _ h1, reg_obs]
              · rw [State.reg_setFld_ne _ _ _ h1, reg_obs]
          unfold State.queueEntry
          simp only
          split
          · rw [State.countGl, State.reg_note, reg_obs]
          · rw [put]
            split
            · rw [reg_obs]
            · rw [put, reg_obs]
        · rfl
      · intro x k b
        unfold State.trigger
        split
        · rw [reg_obs]
        · rfl

theorem reg_setCnt (s : State) (c : Option Nat) (i v : Nat) {a : Nat} (h : ¬ ObsWrites a) :
    (s.setCnt c i v).reg a = s.reg a := by
  have h1 : a ≠ (cntRegs c i).1 := fun e => h (.inr (.inr (.inr ⟨c, i, .inl e⟩)))
  have h2 : a ≠ (cntRegs c i).2 := fun e => h (.inr (.inr (.inr ⟨c, i, .inr e⟩)))
  rw [State.setCnt, State.reg_setReg_ne _ _ h2, State.reg_setReg_ne _ _ h1]

theorem reg_runCounters (s b : State) (n : Nat) (l : List ObsEv) {a : Nat} (h : ¬ ObsWrites a) :
    (s.runCounters b n l).reg a = s.reg a := by
  have key : ∀ (f : State × Nat × Nat → Nat × Word → State × Nat × Nat), (∀ b x, (f b x).1.reg a = b.1.reg a) →
      ∀ (m : List (Nat × Word)) b, (m.foldl f b).1.reg a = b.1.reg a := by
    intro f hf m
    induction m with
    | nil => intro b; rfl
    | cons x r ih => intro b; rw [List.foldl_cons, ih, hf]
  unfold State.runCounters
  simp only
  split
  · rw [reg_obs]
  · rw [key _ (fun b x => ?_)]
    · rw [reg_obs]
    · unfold State.countOne
      split
      · rfl
      · rw [apply_ite (fun z : State => z.reg a), reg_setCnt _ _ _ _ h, ite_self]

theorem reg_instantAt (s b : State) (x : ObsInstant) {a : Nat} (h : ¬ ObsWrites a) : (s.instantAt b x).reg a = s.reg a := by
  have w : ¬ SnapWrites a := fun e => h (.inr (.inr (.inl e)))
  have one : ∀ (t : State) z, z ∈ allCounters → (t.snapOne z.1 z.2).reg a = t.reg a := fun t z hz => by
    unfold State.snapOne
    simp only
    rw [State.reg_setReg_ne _ _ (fun e => w (.inr (.inr (.inr (.inr ⟨z, hz, .inr e⟩))))),
      State.reg_setReg_ne _ _ (fun e => w (.inr (.inr (.inr (.inr ⟨z, hz, .inl e⟩)))))]
  have snap : ∀ (t : State) n, (t.snapshotAt n).reg a = t.reg a := fun t n => by
    unfold State.snapshotAt
    simp only
    rw [State.reg_setFlag_ne _ _ _ (fun e => w (.inl e)), State.reg_setReg_ne _ _ (fun e => w (.inr (.inr (.inr (.inl e))))),
      State.reg_setReg_ne _ _ (fun e => w (.inr (.inr (.inl e)))), State.reg_setReg_ne _ _ (fun e => w (.inr (.inl e))),
      reg_foldl_mem _ a allCounters one, reg_obs]
  have clear : ∀ t : State, t.clearCounters.reg a = t.reg a := fun t => by
    unfold State.clearCounters
    exact reg_foldl _ a (fun u z => by split <;> simp only [reg_setCnt _ _ _ _ h]) _ _
  have hh : ((if x.clear = true then (if x.snap = true then (s.runCounters b x.due []).snapshotAt x.due
      else s.runCounters b x.due []).clearCounters else if x.snap = true then (s.runCounters b x.due []).snapshotAt x.due
      else s.runCounters b x.due []) : State).reg a = s.reg a := by
    split <;> split <;> simp only [clear, snap, reg_runCounters _ _ _ _ h]
  unfold State.instantAt
  simp only
  split
  · rw [State.reg_setFlag_ne _ _ _ (fun e => w (.inl e))]; exact hh
  · exact hh

theorem reg_observe (s b : State) {a : Nat} (h : ¬ ObsWrites a) : (s.observe b).reg a = s.reg a := by
  unfold State.observe State.passInstants
  simp only
  rw [reg_runCounters _ _ _ _ h, reg_obs, reg_foldl _ a (fun t e => reg_traceOne t e h),
    reg_foldl _ a (fun t x => reg_instantAt t b x h), reg_obs]

theorem reg_setThrottle (s : State) {a : Nat} (h : ¬ CommitWrites a) : s.setThrottle.reg a = s.reg a := by
  have h1 : a ≠ F.GLB_MODE_THROTTLE.addr := fun e => h (.inl e)
  have h2 : a ≠ F.THM_STEP_HEAT.addr := fun e => h (.inr (.inl e))
  have h3 : a ≠ F.THM_STEP_POWER.addr := fun e => h (.inr (.inl e))
  have h4 : a ≠ F.THM_STEP_THERMAL.addr := fun e => h (.inr (.inl e))
  rw [State.setThrottle, State.reg_setFld_ne _ _ _ h1]
  unfold State.holdFloor
  simp only
  split
  · rfl
  · rw [State.setSteps, State.reg_setFld_ne _ _ _ h2, State.reg_setFld_ne _ _ _ h3, State.reg_setFld_ne _ _ _ h4]
    rfl

theorem reg_noteMode (s b : State) {a : Nat} (h : ¬ ObsWrites a) : (s.noteMode b).reg a = s.reg a := by
  have h1 : a ≠ F.POLL_SUMMARY_MODE_CHANGE.addr := fun e => h (.inl e)
  unfold State.noteMode
  simp only
  split
  · rfl
  · rw [State.reg_traceEv, State.reg_latch_ne _ _ h1]

theorem reg_countChange (s b : State) {a : Nat} (h : ¬ ObsWrites a) : (s.countChange b).reg a = s.reg a := by
  have h1 : a ≠ F.POLL_SUMMARY_CHANGE_SEQ.addr := fun e => h (.inl e)
  unfold State.countChange
  simp only
  split
  · rfl
  · rw [State.reg_setFld_ne _ _ _ h1]

/-- `commit` leaves every register but those of `CommitWrites`. -/
theorem commit_reg_of (s t : State) (h : t.bringCheck = t) {a : Nat} (ha : ¬ CommitWrites a) :
    (commit s t).reg a = t.reg a := by
  unfold commit
  split
  · rfl
  · have ho : ¬ ObsWrites a := fun e => ha (.inr (.inr e))
    rw [h, reg_countChange _ _ ho, reg_observe _ _ ho, reg_noteMode _ _ ho, reg_setThrottle _ ha]

theorem commit_reg (s t : State) (h : t.bringUp = none) {a : Nat} (ha : ¬ CommitWrites a) :
    (commit s t).reg a = t.reg a := commit_reg_of s t (State.bringCheck_of_none h) ha

/-! ### The throttle step -/

/-- A register that observation does not write. -/
theorem not_obsWrites {a : Nat} (h1 : a ≠ adr .POLL_SUMMARY) (h2 : a ≠ adr .OBS_TRC_STS) (h3 : a < 0xC000 ∨ a % 16 = 0 ∧ 0x10000 ≤ a)
    (h4 : a < 0x100000) : ¬ ObsWrites a := by
  rintro (e | e | (e | e | e | e | ⟨x, hx, e⟩) | ⟨c, i, e⟩)
  · exact h1 e
  · exact h2 e
  · simp only [adr, Reg.place] at e; omega
  · simp only [adr, Reg.place] at e; omega
  · simp only [adr, Reg.place] at e; omega
  · simp only [adr, Reg.place] at e; omega
  · simp only [allCounters, List.mem_append, List.mem_map, List.mem_range, List.mem_flatMap] at hx
    rcases hx with ⟨i, hi, rfl⟩ | ⟨c, hc, i, hi, rfl⟩ <;> simp only [snapReg, adr, Reg.place] at e <;> omega
  · cases c <;> simp only [cntRegs, adr, Reg.place] at e <;> omega

theorem State.fld_of_reg {s t : State} {f : Fld} (h : s.reg f.addr = t.reg f.addr) : s.fld f = t.fld f := by
  unfold State.fld; rw [h]

/-- Time alone changes no register. -/
theorem State.reg_advanceTo (s : State) (t a : Nat) : (s.advanceTo t).reg a = s.reg a := by
  unfold State.advanceTo
  split
  · unfold State.advance; rfl
  · rfl
theorem State.fld_advanceTo (s : State) (t : Nat) (f : Fld) : (s.advanceTo t).fld f = s.fld f :=
  State.fld_of_reg (s.reg_advanceTo t _)
theorem State.flag_advanceTo (s : State) (t : Nat) (f : Fld) : (s.advanceTo t).flag f = s.flag f := by
  unfold State.flag; rw [s.fld_advanceTo]

/-- A register that `commit` does not write. -/
theorem not_commitWrites {a : Nat} (h0 : a ≠ adr .GLB_MODE ∧ a ≠ adr .THM_STEP) (h1 : a ≠ adr .POLL_SUMMARY)
    (h2 : a ≠ adr .OBS_TRC_STS) (h3 : a < 0xC000 ∨ a % 16 = 0 ∧ 0x10000 ≤ a) (h4 : a < 0x100000) : ¬ CommitWrites a := by
  rintro (e | e | e)
  · exact h0.1 e
  · exact h0.2 e
  · exact not_obsWrites h1 h2 h3 h4 e

theorem commit_flag_of (s t : State) (h : t.bringCheck = t) (f : Fld) (ha : ¬ CommitWrites f.addr) :
    (commit s t).flag f = t.flag f := by
  unfold State.flag; rw [State.fld_of_reg (commit_reg_of s t h ha)]

theorem commit_fld_of (s t : State) (h : t.bringCheck = t) (f : Fld) (ha : ¬ CommitWrites f.addr) :
    (commit s t).fld f = t.fld f := State.fld_of_reg (commit_reg_of s t h ha)

/-- After `commit` GLB_MODE.THROTTLE shows the step in force. -/
theorem commit_throttle (s t : State) : (commit s t).throttleShown := by
  intro hm
  unfold commit at hm ⊢
  split
  next h => rw [if_pos h] at hm; exact absurd h hm
  next h =>
    generalize ht : t.bringCheck = b
    generalize hx : b.setThrottle = x
    have r : ∀ a, ¬ ObsWrites a → ((((x.noteMode s).observe s).countChange s)).reg a = x.reg a := fun a ha => by
      rw [reg_countChange _ _ ha, reg_observe _ _ ha, reg_noteMode _ _ ha]
    have m : (((x.noteMode s).observe s).countChange s).mode = x.mode := by
      have e : (((x.noteMode s).observe s).countChange s).core = x.core := by rw [core_countChange, core_observe, core_noteMode]
      have := congrArg State.mode e
      exact this
    have f1 := State.fld_of_reg (f := F.GLB_MODE_THROTTLE) (r (adr .GLB_MODE) (not_obsWrites (by decide) (by decide)
      (.inl (by decide)) (by decide)))
    have f2 := State.fld_of_reg (f := F.QOS_THROTTLE_HOST_STEP) (r (adr .QOS_THROTTLE) (not_obsWrites (by decide)
      (by decide) (.inr (by decide)) (by decide)))
    have f3 := State.fld_of_reg (f := F.THM_STEP_HEAT) (r (adr .THM_STEP) (not_obsWrites (by decide) (by decide)
      (.inl (by decide)) (by decide)))
    rw [f1, State.stepInForce, f2, f3, m, ← hx]
    unfold State.setThrottle
    generalize b.holdFloor = y
    have e : ∀ g : Fld, g.addr ≠ F.GLB_MODE_THROTTLE.addr → (y.setFld F.GLB_MODE_THROTTLE y.stepInForce).fld g = y.fld g :=
      fun g hg => y.fld_setFld_ne _ g _ hg
    have em : (y.setFld F.GLB_MODE_THROTTLE y.stepInForce).mode = y.mode := rfl
    rw [State.fld_setFld_same _ _ _ (by decide) (by decide), e _ (by decide), e _ (by decide), em]
    have k1 : y.fld F.QOS_THROTTLE_HOST_STEP < 16 := Nat.mod_lt _ (by decide)
    have k2 : y.fld F.THM_STEP_HEAT < 16 := Nat.mod_lt _ (by decide)
    have k : y.stepInForce < 16 := by unfold State.stepInForce; split <;> omega
    exact Nat.mod_eq_of_lt k

/-- Every command that is carried out ends with `commit`. -/
theorem exec_next (i : Instr) (s t : State) (h : exec i s = .next t) : ∃ t0, t = commit s t0 := by
  cases i
  case firmwareInstruction c op f =>
    simp only [exec, execFirmwareInstruction] at h
    split at h
    · exact ⟨_, (Host.Outcome.next.inj h).symm⟩
    · split at h
      · cases h
      · exact ⟨_, (Host.Outcome.next.inj h).symm⟩
  all_goals exact ⟨_, (Host.Outcome.next.inj h).symm⟩

end Sys2Proof.Machine
end

