-- ==== Sys2Proof/Laws/Channel.lean ====
section
/-!
SUPPORT. What the operations that change a channel's state leave of it.
-/
namespace Sys2Proof.Machine

theorem foldl_chan_st {α : Type} (d : Nat) (f : State → α → State) (hf : ∀ s x, ((f s x).chan d).st = (s.chan d).st) (l : List α)
    (s : State) : ((l.foldl f s).chan d).st = (s.chan d).st := by
  induction l generalizing s with
  | nil => rfl
  | cons a r ih => rw [List.foldl_cons, ih, hf]

theorem modChan_st (s : State) (c : Nat) (d : Fin 32) (f : Chan → Chan) (hf : ∀ x, (f x).st = x.st) :
    ((s.modChan c f).chan d).st = (s.chan d).st := by
  by_cases h : d.val = c
  · subst h; rw [s.chan_modChan_same, hf]
  · rw [s.chan_modChan_ne _ h]

theorem clearTracker_st (s : State) (c b : Nat) (d : Fin 32) : ((s.clearTracker c b).chan d).st = (s.chan d).st := by
  rw [State.clearTracker]; exact modChan_st _ _ _ _ fun _ => rfl

theorem handBack_st (s : State) (c : Nat) (p : Nat → Bool) (d : Fin 32) : ((s.handBack c p).chan d).st = (s.chan d).st := by
  have h : ∀ (l : List Nat), ((l.foldl (fun t b => t.clearTracker c b) s).chan d).st = (s.chan d).st := fun l =>
    foldl_chan_st d (fun t b => t.clearTracker c b) (fun s b => clearTracker_st s c b d) l s
  rw [State.handBack]
  have k := h ((s.chan c).refresh.wrapped.filter p)
  generalize ((s.chan c).refresh.wrapped.filter p).foldl (fun t b => t.clearTracker c b) s = u at k
  refine Eq.trans (modChan_st u c d _ ?_) k
  intro x; rfl

theorem wakeTier_st (s : State) (t : Nat) (d : Fin 32) : ((s.wakeTier t).chan d).st = (s.chan d).st := by
  rw [State.wakeTier]
  exact foldl_chan_st d _ (fun u j => handBack_st u _ _ d) _ _

theorem chan_stale (s : State) (b : Bool) (c : Nat) : ({ s with floorStale := b } : State).chan c = s.chan c := rfl

/-- The state asked for is the channel's state (R115). -/
theorem setChState_st (s : State) (c : Fin 32) (x : ChState) (k : Nat) : ((s.setChState c x k).chan c).st = x := by
  have e : ((s.modChan c fun y => { y with st := x, drainAt := none }).chan c).st = x := by rw [s.chan_modChan_same]
  rw [State.setChState]
  split
  · rw [chan_stale, State.chan_traceEv, State.chan_latch, State.chan_setFld]; exact e
  · rw [wakeTier_st, chan_stale, State.chan_traceEv, State.chan_latch, State.chan_setFld]; exact e

theorem chanDrain_st (s : State) (c : Fin 32) (k : Nat) : ((s.chanDrain c k).chan c).st = .draining ∧
   ((s.chanDrain c k).chan c).drainAt = some s.now := by
  rw [State.chanDrain, State.chan_modChan_same]; exact ⟨setChState_st .., rfl⟩
theorem updateDue_chan (s : State) (c d : Nat) : (s.updateDue c).chan d = s.chan d := by
  rw [State.updateDue, State.chan_setFlag]
theorem runStart_st (s : State) (c : Fin 32) (k : Nat) (r) : ((s.runStart c k r).chan c).st = .retraining ∧
    ((s.runStart c k r).chan c).vpt.run = some r := by
  have h := setChState_st s c .retraining k
  rw [State.runStart, updateDue_chan, State.chan_setFlag, State.chan_setFld, State.chan_modChan_same]
  exact ⟨h, rfl⟩
theorem recoverNow_st (s : State) (c : Fin 32) : ((s.recoverNow c).chan c).st = .quiesced := by
  rw [State.recoverNow]; exact setChState_st _ c .quiesced 1
/-- A RECOVER is carried out unless a die of the channel's tier is in reset. -/
theorem recover_st (s : State) (c : Fin 32) (h : (s.dieReset.map fun r => r.die / 4) ≠ some (c.val / 8)) :
    ((s.recover c).chan c).st = .quiesced := by
  rw [State.recover, if_neg h]; exact recoverNow_st s c
theorem setTxn_chan (s : State) (t u : Txn) (c : Nat) : (s.setTxn t u).chan c = s.chan c := rfl
theorem toQueue_st (s : State) (t : Txn) (d : Nat) : ((s.toQueue t).chan d).st = (s.chan d).st := by
  rw [State.toQueue, State.chan_countCh, setTxn_chan]
theorem admitHeld_st (s : State) (c d : Nat) : ((s.admitHeld c).chan d).st = (s.chan d).st := by
  rw [State.admitHeld]
  exact foldl_chan_st d State.toQueue (fun u j => toQueue_st u j d) _ _
theorem chanOnline_st (s : State) (c : Fin 32) (k) : ((s.chanOnline c k).chan c).st = .online := by
  rw [State.chanOnline, admitHeld_st]; exact setChState_st ..

theorem chans_bumpBoth (s : State) (f : Fld) (k : Nat) : (s.bumpBoth f k).chans = s.chans := by
  rw [State.bumpBoth, State.chans_bump, State.chans_bump]
theorem chans_countGl (s : State) (e n : Nat) (m f : Option Nat) : (s.countGl e n m f).chans = s.chans := by
  rw [State.countGl, State.chans_note]
theorem chans_countStatus (s : State) (st : Status) (late : Bool) (m f : Nat) : (s.countStatus st late m f).chans = s.chans := by
  unfold State.countStatus
  cases st <;> simp only <;> split <;> simp only [chans_countGl]
theorem chans_obs (s : State) (o : Obs) : ({ s with obs := o } : State).chans = s.chans := rfl
theorem chans_tagMod (s : State) (t : Txn) (f : TagRec → TagRec) : (s.tagMod t f).chans = s.chans := rfl
theorem chans_tagAnswer (s : State) (t : Txn) (st : Status) (late : Bool) : (s.tagAnswer t st late).chans = s.chans := by
  unfold State.tagAnswer
  split
  · rfl
  · simp only
    split
    · rw [chans_obs, State.chans_bump, State.chans_traceEv]
    · rw [chans_tagMod, State.chans_traceEv]
theorem chans_dropTxn (s : State) (t : Txn) : (s.dropTxn t).chans = s.chans := rfl
theorem chans_served (s : State) (x : Store Nat) : ({ s with served := x } : State).chans = s.chans := rfl
theorem chans_tagSent (s : State) (m tag : Nat) (b : Bool) : (s.tagSent m tag b).chans = s.chans := rfl
theorem chans_toEgress (s : State) (m : Nat) (b : Bool) (o : Out) : (s.toEgress m b o).chans = s.chans := by
  unfold State.toEgress
  split
  · rw [State.chans_bump]
    cases o <;> rfl
  · rw [State.chans_modMod]
theorem chans_setBoth (s : State) (f : Fld) (v : Nat) : (s.setBoth f v).chans = s.chans := by
  rw [State.setBoth, State.chans_setFld, State.chans_setFld]
theorem chans_countPoison (s : State) (t : Txn) (st : Status) : (s.countPoison t st).chans = s.chans := by
  unfold State.countPoison State.countInject
  split
  · simp only
    split
    · rw [chans_setBoth, chans_bumpBoth]
    · rw [chans_bumpBoth]
  · rfl
theorem chans_formReply (s : State) (t : Txn) (r : Reply) : (s.formReply t r).chans = s.chans := by
  unfold State.formReply
  split
  · rw [chans_bumpBoth, chans_dropTxn]
  · simp only
    rw [chans_toEgress, chans_dropTxn]
    split
    · rw [chans_served, chans_tagAnswer, chans_countStatus]
      split
      · rw [chans_bumpBoth, chans_countPoison]
      · rw [chans_countPoison]
    · rw [chans_tagAnswer, chans_countStatus]
      split
      · rw [chans_bumpBoth, chans_countPoison]
      · rw [chans_countPoison]

theorem foldl_chans {α : Type} (f : State → α → State) (hf : ∀ s x, (f s x).chans = s.chans) (l : List α) (s : State) :
    (l.foldl f s).chans = s.chans := by
  induction l generalizing s with
  | nil => rfl
  | cons a r ih => rw [List.foldl_cons, ih, hf]

theorem chans_qosFence (s : State) (x : Option Nat) : ({ s with qosFence := x } : State).chans = s.chans := rfl

/-- Fences answered change no channel. -/
theorem chans_settle (s : State) : s.settle.chans = s.chans := by
  have h : ∀ (l : List Txn) (s : State), (l.foldl (fun s t => if (s.before t).any (inScope t) then s
      else s.formReply t (.ack .ok 0)) s).chans = s.chans := by
    intro l s
    refine foldl_chans _ (fun s x => ?_) l s
    split
    · rfl
    · exact chans_formReply ..
  have k := h (s.txns.filter fun t => t.stage == .fence) s
  unfold State.settle
  simp only
  generalize (s.txns.filter fun t => t.stage == .fence).foldl (fun s t => if (s.before t).any (inScope t) then s
      else s.formReply t (.ack .ok 0)) s = u at k
  split
  · split
    · exact k
    · rw [State.chans_latch, chans_qosFence, chans_setBoth, chans_setBoth, chans_setBoth]; exact k
  · exact k

theorem chanOffline_st (s : State) (c : Fin 32) (k : Nat) (h : (s.chan c).st ≠ .retired) (g : (s.chan c).st ≠ .offline) :
    ((s.chanOffline c k).chan c).st = .offline := by
  unfold State.chanOffline
  rw [if_neg (by rintro (x | x); exact h x; exact g x)]
  simp only
  generalize State.setFlag _ (F.LAG_CTL_BUSY c) false = u
  have e : ∀ v : State, v.settle.chan c = v.chan c := fun v => by unfold State.chan; rw [chans_settle]
  rw [e]
  exact setChState_st ..

end Sys2Proof.Machine
end

