-- ==== Sys2Proof/Laws/Exdun.lean ====
section
/-!
SUPPORT. What issuing an Exdun instruction can come to: it completes, branches, waits or raises an exception.
-/
namespace Sys2Proof.Machine

/-- An instruction that the engine can issue is settled by what its attempt comes to. -/
theorem State.issue_settles (s : State) (c : Nat) (op : BitVec 8) (f : Fields) (k : State → Att)
    (h : s.issuable c op f = true) : s.issue c op f k = (s.issued c).settleAtt c (k (s.issued c)) := by
  unfold State.issue State.issued
  rw [if_pos h]

/-- An engine that can issue runs, and waits for nothing. -/
theorem State.issuable_running {s : State} {c : Nat} {op : BitVec 8} {f : Fields} (h : s.issuable c op f = true) :
    (s.eng c).phase = .running ∧ (s.eng c).waiting = none := by
  simp only [State.issuable, State.atWord, Bool.and_eq_true, beq_iff_eq, Option.isNone_iff_eq_none] at h
  exact ⟨h.1.1.1, h.1.1.2⟩

/-- One that raises an exception ends its program. -/
theorem State.issue_exc (s : State) (c : Nat) (op : BitVec 8) (f : Fields) (k : State → Att) (code : Nat)
    (h : s.issuable c op f = true) (hk : k (s.issued c) = .exc code) :
    s.issue c op f k = (s.issued c).endProgram c 1 code := by
  rw [s.issue_settles c op f k h, hk]; rfl

/-- One that completes and leaves its program running before its last instruction passes control on. -/
theorem State.issue_done (s : State) (c : Fin 32) (op : BitVec 8) (f : Fields) (k : State → Att) (t : State)
    (h : s.canIssue c op f = true) (hk : k (s.issued c) = .done t) (hp : (t.chan c).eng.phase = (s.chan c).eng.phase)
    (hs : (t.chan c).eng.store = (s.chan c).eng.store) (hq : (t.chan c).eng.pc = (s.chan c).eng.pc) :
    s.issue c op f k = t.passed c := by
  simp only [State.canIssue, Bool.and_eq_true, decide_eq_true_eq] at h
  have hr : (s.chan c).eng.phase = .running := (State.issuable_running h.1).1
  rw [s.issue_settles c op f k h.1, hk]
  have e : ¬ (((t.calm c).eng c).len ≤ ((t.calm c).eng c).pc + 1) := by
    simp only [State.calm, State.eng, State.chan_modEng_same, Eng.len, hs, hq]
    exact Nat.not_le.2 h.2
  simp only [State.settleAtt]
  rw [if_neg (by rw [State.eng, hp, hr]; simp), if_neg e, State.passed]

/-- One that waits is held at its instruction. -/
theorem State.issue_wait (s : State) (c : Nat) (op : BitVec 8) (f : Fields) (k : State → Att) (t : State)
    (h : s.issuable c op f = true) (hk : k (s.issued c) = .wait t) (hp : (t.eng c).phase = (s.eng c).phase) :
    s.issue c op f k = t.waits c := by
  have hr : (s.eng c).phase = .running := (State.issuable_running h).1
  rw [s.issue_settles c op f k h, hk]
  simp only [State.settleAtt]
  rw [if_neg (by rw [hp, hr]; simp), State.waits]

/-- An instruction whose effect is one general register. -/
theorem State.issue_setG (s : State) (c : Fin 32) (op : BitVec 8) (f : Fields) (k : State → Att) (d : Nat) (v : Word64)
    (h : s.canIssue c op f = true) (hk : k (s.issued c) = .done ((s.issued c).setG c d v)) :
    s.issue c op f k = ((s.issued c).setG c d v).passed c := by
  apply s.issue_done c op f k _ h hk <;> simp [State.setG, State.issued]

/-- An instruction without an effect of its own. -/
theorem State.issue_self (s : State) (c : Fin 32) (op : BitVec 8) (f : Fields) (k : State → Att)
    (h : s.canIssue c op f = true) (hk : k (s.issued c) = .done (s.issued c)) :
    s.issue c op f k = (s.issued c).passed c := by
  apply s.issue_done c op f k _ h hk <;> simp [State.issued]

/-- The opcode of a word is the one it was made with. -/
theorem opOf_wordOf (op : BitVec 8) (f : Fields) : opOf (wordOf op f) = op := by
  unfold opOf wordOf
  apply BitVec.eq_of_getLsbD_eq
  intro i hi
  simp only [BitVec.getLsbD_extractLsb', BitVec.getLsbD_append, hi, decide_true, Bool.true_and]
  rw [if_neg (by omega), if_neg (by omega), if_neg (by omega), if_neg (by omega), if_neg (by omega), if_neg (by omega)]
  congr 1; omega

/-- The fields of a word are those it was made with. -/
theorem fieldsOf_wordOf (op : BitVec 8) (f : Fields) : fieldsOf (wordOf op f) = f := by
  obtain ⟨a, b, d, e, g, h⟩ := f
  unfold fieldsOf wordOf
  simp only [Fields.mk.injEq]
  refine ⟨?_, ?_, ?_, ?_, ?_, ?_⟩ <;> apply BitVec.eq_of_getLsbD_eq <;> intro i hi <;>
    simp only [BitVec.getLsbD_extractLsb', BitVec.getLsbD_append, hi, decide_true, Bool.true_and]
  · rw [if_neg (by omega), if_neg (by omega), if_neg (by omega), if_neg (by omega), if_neg (by omega), if_pos (by omega)]
    congr 1; omega
  · rw [if_neg (by omega), if_neg (by omega), if_neg (by omega), if_neg (by omega), if_pos (by omega)]
    congr 1; omega
  · rw [if_neg (by omega), if_neg (by omega), if_neg (by omega), if_pos (by omega)]
    congr 1; omega
  · rw [if_neg (by omega), if_neg (by omega), if_pos (by omega)]
    congr 1; omega
  · rw [if_neg (by omega), if_pos (by omega)]
    congr 1; omega
  · rw [if_pos (by omega)]
    congr 1; omega

/-- A word is made of its opcode and its fields. -/
theorem wordOf_fieldsOf (w : Word64) : wordOf (opOf w) (fieldsOf w) = w := by
  unfold wordOf opOf fieldsOf
  apply BitVec.eq_of_getLsbD_eq
  intro i hi
  simp only [BitVec.getLsbD_extractLsb', BitVec.getLsbD_append]
  by_cases h1 : i < 32
  · simp [h1]
  by_cases h2 : i < 40
  · rw [if_neg h1, if_pos (by omega)]; rw [decide_eq_true (by omega), Bool.true_and]; congr 1; omega
  by_cases h3 : i < 44
  · rw [if_neg h1, if_neg (by omega), if_pos (by omega)]; rw [decide_eq_true (by omega), Bool.true_and]; congr 1; omega
  by_cases h4 : i < 48
  · rw [if_neg h1, if_neg (by omega), if_neg (by omega), if_pos (by omega)]; rw [decide_eq_true (by omega), Bool.true_and]; congr 1; omega
  by_cases h5 : i < 52
  · rw [if_neg h1, if_neg (by omega), if_neg (by omega), if_neg (by omega), if_pos (by omega)]; rw [decide_eq_true (by omega), Bool.true_and]; congr 1; omega
  by_cases h6 : i < 56
  · rw [if_neg h1, if_neg (by omega), if_neg (by omega), if_neg (by omega), if_neg (by omega), if_pos (by omega)]; rw [decide_eq_true (by omega), Bool.true_and]; congr 1; omega
  · rw [if_neg h1, if_neg (by omega), if_neg (by omega), if_neg (by omega), if_neg (by omega), if_neg (by omega)]; rw [decide_eq_true (by omega), Bool.true_and]; congr 1; omega

theorem word_of_op {w : Word64} {n : Nat} (h : (opOf w).toNat = n) : wordOf (BitVec.ofNat 8 n) (fieldsOf w) = w := by
  rw [← h, BitVec.ofNat_toNat, BitVec.setWidth_eq, wordOf_fieldsOf]

/-- Two changes of an engine are one: the second change sees the first. -/
theorem modEng_modEng (s : State) (c : Fin 32) (f g : Eng → Eng) :
    (s.modEng c f).modEng c g = s.modEng c fun e => g (f e) := by
  unfold State.modEng State.modChan
  rw [State.chan_setChan_same]
  unfold State.setChan
  simp only [Vector.setIfInBounds_setIfInBounds]

theorem modEng_core (s : State) (c : Fin 32) (f : Eng → Eng) :
    (s.modEng c f).core = (s.setChan c { s.chan c with eng := f (s.eng c) }).core := rfl

/-- A row-wide write whose checks pass and whose destination is written goes on, with the map word used. -/
theorem State.rowDest_go (u t : State) (c : Nat) (bad : Bool) (hs : List Nat) (dest mask : Nat) (k : State → Att)
    (hb : bad = false) (hh : (hs.any fun n => (u.hslot c n).isNone) = false)
    (hv : hs.any (u.handleRetired c) = false)
    (hi : inReach (writeReach (u.eng c).queue) (u.hloc c dest) false = true) (ho : u.chanOut c = false) (hm : mask ≠ 0)
    (ht : t = u.useMap (u.hloc c dest)) (hr : (t.eng c).phase = .running) (hw : t.written (u.hloc c dest) = true) :
    u.rowDest c bad hs dest mask k = k t := by
  unfold State.rowDest
  simp only [hb, hh, hv, hi, ho, hm, ← ht, hr, hw, Att.when, Bool.not_true, Bool.false_eq_true, if_false, ne_eq,
    not_true_eq_false]

/-- A row-wide write to a destination in an unwritten extent starts the zero-fill and waits. -/
theorem State.rowDest_fill (u t : State) (c : Nat) (bad : Bool) (hs : List Nat) (dest mask : Nat) (k : State → Att)
    (hb : bad = false) (hh : (hs.any fun n => (u.hslot c n).isNone) = false)
    (hv : hs.any (u.handleRetired c) = false)
    (hi : inReach (writeReach (u.eng c).queue) (u.hloc c dest) false = true) (ho : u.chanOut c = false) (hm : mask ≠ 0)
    (ht : t = u.useMap (u.hloc c dest)) (hr : (t.eng c).phase = .running) (hw : t.written (u.hloc c dest) = false) :
    u.rowDest c bad hs dest mask k = .wait (t.startFill c (locExtent (u.hloc c dest))) := by
  unfold State.rowDest
  simp only [hb, hh, hv, hi, ho, hm, ← ht, hr, hw, Att.when, Bool.not_true, Bool.not_false, Bool.false_eq_true, if_false,
    if_true, ne_eq, not_true_eq_false]

end Sys2Proof.Machine
end

