-- ==== Sys2Proof/Laws/Transport.lean ====
section
/-!
SUPPORT. What becomes of a REQ message: taken, and entered when every check passes.
-/
namespace Sys2Proof.Machine

/-- A module's island runs on: a field outside the gates reads as before. -/
theorem State.fld_wake (s : State) (i : Nat) (f : Fld) (h : f.addr ≠ adr .GLB_ISL_STS 0 i) : (s.wake i).fld f = s.fld f := by
  unfold State.wake
  split
  · exact s.fld_setFlag_ne _ f _ h
  · rfl

/-- What a module keeps through the arrival of REQ cells: its stage, its ingress buffer, its window and its tags, and every
field outside the gates. -/
structure Kept (s t : State) (m : Nat) : Prop where
  stage : (t.mod m).stage = (s.mod m).stage
  ingress : (t.mod m).ingress = (s.mod m).ingress
  win : (t.mod m).admWin = (s.mod m).admWin
  count : (t.mod m).admCount = (s.mod m).admCount
  now : t.now = s.now
  mode : t.mode = s.mode
  txns : t.txns = s.txns
  fld : ∀ f : Fld, f.addr ≠ adr .GLB_ISL_STS 0 (36 + m) → t.fld f = s.fld f

theorem Kept.trans {s t u : State} {m : Nat} (a : Kept s t m) (b : Kept t u m) : Kept s u m :=
  ⟨b.stage.trans a.stage, b.ingress.trans a.ingress, b.win.trans a.win, b.count.trans a.count, b.now.trans a.now,
    b.mode.trans a.mode, b.txns.trans a.txns, fun f h => (b.fld f h).trans (a.fld f h)⟩

theorem Kept.wake (s : State) (m : Nat) : Kept s (s.wake (36 + m)) m := by
  refine ⟨?_, ?_, ?_, ?_, ?_, ?_, ?_, fun f h => s.fld_wake _ f h⟩ <;> (unfold State.wake; split <;> rfl)

theorem Kept.modMod (s : State) (m : Fin 12) (f : Mod → Mod) (h1 : ∀ x, (f x).stage = x.stage)
    (h2 : ∀ x, (f x).ingress = x.ingress) (h3 : ∀ x, (f x).admWin = x.admWin) (h4 : ∀ x, (f x).admCount = x.admCount) :
    Kept s (s.modMod m f) m := by
  refine ⟨?_, ?_, ?_, ?_, rfl, rfl, rfl, fun _ _ => rfl⟩ <;> rw [s.mod_modMod_same] <;> simp only [h1, h2, h3, h4]

/-- The arrival of a well-formed message keeps them. -/
theorem State.kept_flitAt (s : State) (m : Fin 12) (cell : Nat) : Kept s (s.flitAt m cell) m := by
  unfold State.flitAt State.resumeFlit
  simp only
  have k1 : Kept (s.wake (36 + m)) (if ((s.wake (36 + m)).mod m).skip.any (fun e => decide (cell ≤ e.1)) = true then
      (s.wake (36 + m)).modMod m fun x => { x with skip := none } else s.wake (36 + m)) m := by
    split
    · exact Kept.modMod _ m _ (fun _ => rfl) (fun _ => rfl) (fun _ => rfl) (fun _ => rfl)
    · exact ⟨rfl, rfl, rfl, rfl, rfl, rfl, rfl, fun _ _ => rfl⟩
  generalize (if ((s.wake (36 + m)).mod m).skip.any (fun e => decide (cell ≤ e.1)) = true then
      (s.wake (36 + m)).modMod m fun x => { x with skip := none } else s.wake (36 + m)) = t at k1
  have k2 : Kept t (if cell = 0 then t.countGl 9 1 (some m) else t) m := by
    split <;> exact ⟨rfl, rfl, rfl, rfl, rfl, rfl, rfl, fun _ _ => rfl⟩
  exact (Kept.wake s m).trans (k1.trans k2)

theorem State.kept_arrivedReq (s : State) (m : Fin 12) (cell n : Nat) : Kept s (s.arrivedReq m cell n) m := by
  unfold State.arrivedReq State.arriveReq
  exact (s.kept_flitAt m cell).trans (Kept.modMod _ m _ (fun _ => rfl) (fun _ => rfl) (fun _ => rfl) (fun _ => rfl))

theorem State.tagHeld_arrivedReq (s : State) (m : Fin 12) (cell n k : Nat) :
    (s.arrivedReq m cell n).tagHeld m k = s.tagHeld m k := by
  unfold State.tagHeld; rw [(s.kept_arrivedReq m cell n).txns]

/-- A well-formed message goes on. -/
theorem State.takeMessage_wellSent (s : State) (m cell size b h : Nat) (hb : b / 32 = 1)
    (g : s.wellSent m cell size b h = true) : s.takeMessage m cell size b h = (s.arrivedReq m cell size, true) := by
  simp only [State.wellSent, Bool.and_eq_true, beq_iff_eq, decide_eq_true_eq, Bool.not_eq_true'] at g
  obtain ⟨⟨⟨⟨⟨⟨h1, h0⟩, h2⟩, h3⟩, h4⟩, h5⟩, h6⟩ := g
  unfold State.takeMessage State.arrivedReq
  simp only [State.receives, h1, h0, Stage.receives, Stage.carries, Bool.true_or, Bool.not_true, Bool.or_self,
    Bool.false_eq_true, if_false, h2, ne_eq, not_true_eq_false, Nat.not_lt.2 h3, hb, Nat.one_ne_zero,
    decide_false, h4, h5, if_true, Nat.not_lt.2 h6]

/-- What the fields of a module and of the throttle read after the arrival. -/
theorem State.windowTakes_arrivedReq (s : State) (m : Fin 12) (cell n k : Nat) :
    (s.arrivedReq m cell n).windowTakes m k = s.windowTakes m k := by
  have e := s.kept_arrivedReq m cell n
  unfold State.windowTakes State.admitted State.admWindow
  rw [e.win, e.count, e.now, e.fld F.GLB_MODE_THROTTLE (by simp only [F.GLB_MODE_THROTTLE, adr, Reg.place]; omega),
    e.fld (F.UCI_STS_RATE m) (by simp only [F.UCI_STS_RATE, adr, Reg.place]; omega)]

theorem State.excluded_arrivedReq (s : State) (m : Fin 12) (cell n : Nat) :
    (s.arrivedReq m cell n).flag (F.UCI_STS_EXCLUDED m) = s.flag (F.UCI_STS_EXCLUDED m) := by
  unfold State.flag
  rw [(s.kept_arrivedReq m cell n).fld (F.UCI_STS_EXCLUDED m) (by simp only [F.UCI_STS_EXCLUDED, adr, Reg.place]; omega)]

/-- The ingress of a module where nothing waits has nothing to admit. -/
theorem State.drain_arrivedReq (s : State) (m : Fin 12) (cell n : Nat) (h : (s.mod m).ingress = []) :
    (s.arrivedReq m cell n).drainIngress m = s.arrivedReq m cell n := by
  unfold State.drainIngress; rw [(s.kept_arrivedReq m cell n).ingress, h]; rfl

theorem State.wellSent_active {s : State} {m cell size b h : Nat} (g : s.wellSent m cell size b h = true) :
    (s.mod m).stage = .active := by
  simp only [State.wellSent, Bool.and_eq_true, beq_iff_eq] at g; exact g.1.1.1.1.1.1

/-- Every REQ message is taken by the one operation. -/
theorem exec_reqCmd (op : ReqOp) (m : Fin 12) (cell : Fin 15) (h : BitVec 128) (d : BitVec 512) (be : BitVec 64) (s : State) :
    exec (reqCmd op m cell h d be) s =
      .next (commit s (s.request m cell (reqSize op) (reqCode op) h.toNat op (reqData op d) (reqMask op be))) := by
  cases op <;> rfl

/-- A request that the window has no room for waits in the ingress buffer (R219). -/
theorem State.request_waits (s : State) (m : Fin 12) (cell size b h : Nat) (op : ReqOp) (d : Sector) (be : BitVec 64)
    (hb : b / 32 = 1) (g : s.wellSent m cell size b h = true) (hi : (s.mod m).ingress = [])
    (hw : s.windowTakes m size = false) :
    s.request m cell size b h op d be = (s.arrivedReq m cell size).modMod m fun y =>
      { y with ingress := y.ingress ++ [⟨(s.arrivedReq m cell size).headerTxn m op h d be, (s.arrivedReq m cell size).privTaken m h,
                                          cell, size, !s.flag (F.UCI_STS_EXCLUDED m)⟩] } := by
  have k := s.kept_arrivedReq m cell size
  have act := State.wellSent_active g
  unfold State.request
  rw [s.takeMessage_wellSent _ _ _ _ _ hb g]
  simp only [Bool.not_true, Bool.false_eq_true, if_false]
  rw [k.stage, act, s.drain_arrivedReq m cell size hi, k.ingress, hi, s.windowTakes_arrivedReq, hw, s.excluded_arrivedReq]
  simp only [Stage.carries, Bool.not_true, Bool.false_eq_true, if_false, Bool.and_false, beq_self_eq_true, Bool.true_and]

/-- A request that nothing waits before and that the window admits is let in. -/
theorem State.request_letIn (s : State) (m : Fin 12) (cell size b h : Nat) (op : ReqOp) (d : Sector) (be : BitVec 64)
    (hb : b / 32 = 1) (g : s.wellSent m cell size b h = true) (hi : (s.mod m).ingress = [])
    (hw : s.windowTakes m size = true) :
    s.request m cell size b h op d be = (s.arrivedReq m cell size).letIn
      ⟨(s.arrivedReq m cell size).headerTxn m op h d be, (s.arrivedReq m cell size).privTaken m h, cell, size,
        !s.flag (F.UCI_STS_EXCLUDED m)⟩ := by
  have k := s.kept_arrivedReq m cell size
  have act := State.wellSent_active g
  unfold State.request
  rw [s.takeMessage_wellSent _ _ _ _ _ hb g]
  simp only [Bool.not_true, Bool.false_eq_true, if_false]
  rw [k.stage, act, s.drain_arrivedReq m cell size hi, k.ingress, hi, s.windowTakes_arrivedReq, hw, s.excluded_arrivedReq]
  simp only [Stage.carries, Bool.not_true, Bool.false_eq_true, if_false, List.isEmpty_nil, Bool.and_self, if_true,
    beq_self_eq_true, Bool.true_and]

/-- A request that is taken at once is accepted. -/
theorem State.request_taken (s : State) (m : Fin 12) (cell size b h : Nat) (op : ReqOp) (d : Sector) (be : BitVec 64)
    (hb : b / 32 = 1) (g : s.takesReq m cell size b h = true) :
    s.request m cell size b h op d be =
      (s.afterReq m cell size).accept ((s.afterReq m cell size).headerTxn m op h d be)
        ((s.afterReq m cell size).privTaken m h) true := by
  simp only [State.takesReq, Bool.and_eq_true, Bool.not_eq_true', List.isEmpty_iff] at g
  obtain ⟨⟨⟨⟨g, hx⟩, hi⟩, hw⟩, ht⟩ := g
  rw [s.request_letIn m cell size b h op d be hb g hi hw, hx]
  unfold State.letIn
  have ht2 : ((s.arrivedReq m cell size).admitCells m size false).tagHeld m (bitsOf h 21 8) = false :=
    (s.tagHeld_arrivedReq m cell size _).trans ht
  simp only
  rw [if_neg (by
    rw [Bool.and_eq_true, not_and]
    intro e
    exact absurd (ht2.symm.trans e) (by decide))]
  rfl

/-- A request whose TAG its module still has in flight is discarded (R165). -/
theorem State.request_repeated (s : State) (m : Fin 12) (cell size b h : Nat) (op : ReqOp) (d : Sector) (be : BitVec 64)
    (hb : b / 32 = 1) (g : s.wellSent m cell size b h = true) (hi : (s.mod m).ingress = [])
    (hw : s.windowTakes m size = true) (ht : s.tagHeld m (bitsOf h 21 8) = true) :
    s.request m cell size b h op d be = (s.afterReq m cell size).protocolError m cell 5 := by
  rw [s.request_letIn m cell size b h op d be hb g hi hw]
  unfold State.letIn
  have ht2 : ((s.arrivedReq m cell size).admitCells m size false).tagHeld m (bitsOf h 21 8) = true :=
    (s.tagHeld_arrivedReq m cell size _).trans ht
  exact if_pos (by rw [Bool.and_eq_true]; exact ⟨ht2, rfl⟩)

/-- A request that passes every check takes its entry. -/
theorem State.accept_admitted (s : State) (t : Txn) (priv : Bool) (hop : t.op ≠ .fence)
    (g : (s.tagRequest t).admits t priv = true) : s.accept t priv true = ((s.tagRequest t).userWrite t).enter t := by
  simp only [State.admits, Bool.and_eq_true, Bool.or_eq_true, beq_iff_eq, Bool.not_eq_true'] at g
  obtain ⟨⟨⟨⟨⟨⟨⟨⟨h2, h3⟩, h4⟩, h5⟩, h6⟩, h7⟩, h8⟩, h9⟩, h10⟩ := g
  have c3 : ¬ ((!inUser t.byteAddr && !inAperture t.byteAddr) = true) := by rcases h3 with h | h <;> simp [h]
  have c4 : ¬ ((inAperture t.byteAddr && (!priv || !serviceAllows t.op (locRow ((s.tagRequest t).txnPlace t).loc))) = true)
      := by
    rcases h4 with h | ⟨ha, hb⟩
    · have : inAperture t.byteAddr = false := by simp only [inUser, inAperture, decide_eq_true_eq] at h ⊢; simp; omega
      simp [this]
    · simp [ha, hb]
  simp only [State.accept, h2, Bool.not_true, Bool.false_eq_true, if_false, hop, c3, c4, h5,
    State.checkEntry, h6, h7, h8, h9, h10, Bool.or_self]

end Sys2Proof.Machine
end

