-- ==== Sys2Proof/Tests/Slice0.lean ====
section
/-!
SUPPORT. Tests: ill-formed commands, instruction words and worked examples of the manual, single steps, and for every
obligation with hypotheses states and operands that meet them, clause by clause.
-/
section
-- one theorem after another: the many evaluations at once take more memory than a check allows
set_option Elab.async false
namespace Sys2Proof.Tests
open Sys2Proof Sys2Proof.Machine

/-! ### States and operands -/

/-- An ACTIVE device: every island out of reset, every module ACTIVE with unlimited credit, every channel ONLINE, both
cores running, the token with the West half. -/
def act : State := { State.reset with
  mode := .active
  now := 1000000
  timeBase := 1000000
  unfilled := 0
  pins := { State.reset.pins with pwrok := true, rstN := true, lockWest := true, lockEast := true }
  mods := Vector.replicate 12 { Mod.reset with stage := .active, sbUp := true, initOut := true, initIn := true, rspCredit := none, ctlCredit := none }
  primary := some 0
  regs := (List.range 57).map fun i => (adr .GLB_ISL_STS 0 i, 0)
  chans := Vector.replicate 32 { Chan.reset with st := .online }
  auth := { State.reset.auth with beatW := some 1000000, beatE := some 1000000 } }

/-- No operand. -/
def f0 : Fields := ⟨0, 0, 0, 0, 0, 0⟩

/-- The engine of channel 3 runs a program of queue `q` that starts with the instruction. -/
def prog (op : BitVec 8) (f : Fields) (q : Nat := 6) : State :=
  act.modEng 3 fun e => { e with phase := .running, queue := q, store := [wordOf op f, 0], start := 1000000, desc := { Desc.none with test := true } }

/-- The channel 3 changed. -/
def ch3 (s : State) (k : Chan → Chan) : State := s.modChan 3 k

/-- The module 3 changed. -/
def mod3 (s : State) (k : Mod → Mod) : State := s.modMod 3 k

/-- `act` with other pins. -/
def pin (k : Pins → Pins) : State := { act with pins := k act.pins }

/-- `act` with one entry waiting in every strait. -/
def busy : State := { act with
  straits := (List.range 270).map fun k => (k, ⟨[⟨[5], [evenParity 5], .item, false⟩], 1⟩) }

/-- A sweep that finds the widest window everywhere. -/
def sweep0 : Sweep := ⟨0, 63, [], [], [], []⟩

/-- An exit from retention that meets nothing amiss. -/
def exit0 : ExitEnv := ⟨true, true, 0xFFFFFFFF, 0xFFFFFFFF, true, [], 0⟩

/-- A training that passes at 32 GT/s. -/
def link0 : LinkEnv := ⟨3, some 3, 0, 0, 0, 0, 0, 0, 0, 0, true, none⟩

/-- A bring-up that meets nothing amiss. -/
def env0 : BringUpEnv :=
  { strapsAgree := true, stackId := 0, mgrEn := true, mgrCapable := true, pllWest := true, pllEast := true
    fusesAgree := true, imageA := true, imageB := true, boots := true, sbUp := 0xFFF, badSlots := 0, badEntries := []
    badSummary := 0, badAudit := [], restoreErr := [], sweep := sweep0, sweeps := [], pairs := 0, commitFails := 0, fillFails := 0
    sensorsOk := true, railsOk := true, stallAt := none
    scan := (List.range 17).map fun d => (dieSensors d).map fun _ => 500 }

/-- `act` in another mode. -/
def inMode (m : Mode) : State := { act with mode := m }

/-- `act` with the channel 3 in another state. -/
def inState (x : ChState) : State := act.modChan 3 ({ · with st := x })

/-- `act` with every channel in another state. -/
def allIn (x : ChState) : State := { act with chans := act.chans.map ({ · with st := x }) }

/-- A request of module 3 with TAG 5. -/
def txn (op : ReqOp) (st : TxnStage) : Txn :=
  { m := 3, tag := 5, op := op, addr := 0, metaByte := 0, metaEn := false, flow := 2, urg := 0, data := 0, be := 0
    t0 := 900000, stage := st, guaranteed := false, starved := false, inject := false, pre := false, launched := false
    answered := false, rowRetired := false, merged := none, orphan := false, filled := false }

/-- `act` with one request. -/
def with1 (t : Txn) : State := { act with txns := [t] }

/-- The module 3 of `act` in another stage. -/
def inStage (x : Stage) : State := act.modMod 3 ({ · with stage := x })

/-- A request of module 3 for the first sector of the service area of channel 0. -/
def svc (op : ReqOp) (st : TxnStage) : Txn := { txn op st with addr := 2 ^ 31 }

/-- A slot of channel 0 that holds that sector's row. -/
def held (st : SlotState) : State := act.modChan 0
  ({ · with slots := [(3, { Slot.empty with state := st, loc := mkLoc 0 0 0 2 0 })] })

/-- A service row of channel 3. -/
def row3 : Nat := mkLoc 3 0 0 2 0

/-- `prog` with row `l` in the channel's slot 3, which pin entry 0 and handle h0 name while `pin` says so; g1 holds the
locator. -/
def rows (op : BitVec 8) (f : Fields) (st : SlotState) (l : Nat := row3) (pin : Bool := true) (q : Nat := 6) : State :=
  (prog op f q).modChan 3 fun x => { x with
    slots := if st = .empty then [] else [(3, { Slot.empty with state := st, loc := l })]
    eng := { x.eng with
      g := x.eng.g.set 1 (BitVec.ofNat 64 l)
      h := if pin then x.eng.h.set 0 (some 0) else x.eng.h
      pins := if pin then x.eng.pins.set 0 (some 3) else x.eng.pins } }

/-- The instruction waits. -/
def waits3 (s : State) (n : Nat) : State := s.modEng 3 ({ · with waiting := some 1000000, progress := n })

/-- A row of the user area of channel 3. -/
def user3 : Nat := mkLoc 3 0 0 0 5

/-- Its extent marked written. -/
def wr3 (s : State) : State := s.modChan 3 (·.setMapBit (locExtent user3) true)

/-- Stack 3 of the package, which can manage it; its role. -/
def stack (manager : Bool) : State :=
  ({ act with pins := { act.pins with mgrEn := true, stackId := 3, mgrCapable := true } } : State).setFlag F.CWY_STS_ROLE
    manager

/-- A host session of a role on the sideband of module 0. -/
def sess (role : Nat) : State := { act with life := { act.life with session := role, sessPath := 0 } }

/-- An engagement device with an installer's key and a nonce drawn for the installer's role. -/
def keyed : State := { act with
  fuses := { act.fuses with life := 3, installerKey := some (List.replicate 32 7) }
  life := { act.life with nonce := some 5, nonceRole := 1 } }

/-- The LC_RESP words that answer it on path 0. -/
def answer : Store Word :=
  let h := hmac256 (List.replicate 32 7) (keyed.sessionMessage 1 0)
  (List.range 8).map fun i => (i, BitVec.ofNat 32 ((h.getD (4 * i) 0) + 256 * (h.getD (4 * i + 1) 0) + 65536 * (h.getD (4 * i + 2) 0) + 16777216 * (h.getD (4 * i + 3) 0)))

/-- A read got its sector. -/
def gotAll : Fetch → Bool
  | .got .. => true
  | .wait _ => false

/-- The state that a read leaves. -/
def fetchState : Fetch → State
  | .got s _ => s
  | .wait s => s

/-- The sector that a read got. -/
def fetchData : Fetch → Decoded
  | .got _ d => d
  | .wait _ => noData

theorem fetch_got (f : Fetch) (h : gotAll f = true) : f = .got (fetchState f) (fetchData f) := by
  cases f with
  | got s ds => rfl
  | wait s => simp [gotAll] at h

theorem fetch_wait (f : Fetch) (h : gotAll f = false) : f = .wait (fetchState f) := by
  cases f with
  | got s ds => simp [gotAll] at h
  | wait s => rfl

/-- The state that a turn leaves. -/
def turnState : Turn → State
  | .go s => s
  | .wait s => s

/-- A turn goes on. -/
def goes : Turn → Bool
  | .go _ => true
  | .wait _ => false

theorem turn_go (f : Turn) (h : goes f = true) : f = .go (turnState f) := by
  cases f with
  | go s => rfl
  | wait s => simp [goes] at h

theorem turn_wait (f : Turn) (h : goes f = false) : f = .wait (turnState f) := by
  cases f with
  | go s => simp [goes] at h
  | wait s => rfl

/-- Queue 6 of channel 3 is enabled and holds one descriptor, stored as `w`. -/
def queue6 (w : Sector) : State :=
  ((act.setFlag (F.EXD_QCTL_EN 3 6) true).modEng 3 fun e => { e with own := e.own.set 6 ⟨0, 1, true⟩ }).setStored
    (serviceAt 3 0) (encodeSector w 0)

/-- A descriptor of version 1 for one word at offset 8. -/
def desc1 : Sector := BitVec.ofNat 512 (1 + 8 * 2 ^ 64 + 2 ^ 96)

/-- The engine of channel 3 reads that descriptor. -/
def reading6 (w : Sector) : State := (queue6 w).beginRead 3 6

/-- What it reads. -/
def read6 (w : Sector) : Decoded := fetchData ((reading6 w).engineRead 3 3 0 0)

/-- The descriptor at index 0 of queue 6 is to be aborted. -/
def aborting6 (w : Sector) : State := (queue6 w).modEng 3 ({ · with aborts := [⟨6, 0, true, false, true⟩] })

/-- What the engine then reads. -/
def aborted6 (w : Sector) : Decoded := fetchData ((aborting6 w).engineRead 3 3 0 0)

theorem pair_snd (x : State × Bool) (b : Bool) (h : x.2 = b) : x = (x.1, b) := h ▸ rfl

/-- Channel 3 holds a row of its service area in its scrub buffer. -/
def buffered3 (s : State) : State := s.modChan 3 fun x => { x with scrub := { x.scrub with buffer := some (serviceAt 3 0).loc } }

/-- The engine of channel 3 fetches its program of one word at offset 8, stored in a sector with a metadata byte. -/
def fetching3 (m : Nat) : State :=
  (act.modEng 3 ({ · with phase := .fetching, desc := { Desc.none with version := 1, progLen := 1, progOff := 8, args := [7] } })
    ).setStored (serviceAt 3 0) (encodeSector 0 m)

/-- The four stacks of the manual's sharing example: BUDGET 3,000, demands 1,000, 800, 600 and 400. -/
def fourStacks : State :=
  let t := (((stack true).setFld F.CWY_PKG_BUDGET_BUDGET 3000).setFld F.CWY_PRESENT_PRESENT 0xF)
  { t with cwy := { t.cwy with
      peers := [(0, ⟨true, 0, 1000, 400, 0⟩), (1, ⟨true, 0, 800, 400, 0⟩), (2, ⟨true, 0, 600, 400, 0⟩),
        (3, ⟨true, 0, 400, 400, 0⟩)] } }

/-! ### Ill-formed commands are refused by each check of `Instr.wf` -/

theorem test_wf_refuses_a_short_scan : (Instr.rstNRise { env0 with scan := [] }).wf = false ∧
    (Instr.rstNRise env0).wf = true := by decide +kernel
theorem test_wf_refuses_an_entry_too_long : (Instr.straitEntryWrite 0 (List.replicate 100 0) .item).wf = false := by
  decide +kernel
theorem test_wf_refuses_a_low_word_that_is_none : (Instr.wideRegisterLoRead (.sb 0) 0x14).wf = false := by decide +kernel
theorem test_wf_refuses_a_high_word_that_is_none : (Instr.wideRegisterHiWrite (.sb 0) 0x14 0).wf = false := by
  decide +kernel
theorem test_wf_refuses_a_low_word_to_write_that_is_none : (Instr.wideRegisterLoWrite (.sb 0) 0x14 0).wf = false := by
  decide +kernel
theorem test_wf_refuses_reserved_bits_of_sideband_messages :
    (Instr.kyCap 0 (1 <<< 10)).wf = false ∧ (Instr.regRd 0 (1 <<< 32)).wf = false ∧ (Instr.regRd 0 (1 <<< 9)).wf = false ∧
    (Instr.regWr 0 (1 <<< 8)).wf = false ∧ (Instr.eqSet 0 (1 <<< 16)).wf = false ∧ (Instr.kyLpbk 0 (1 <<< 15)).wf = false ∧
    (Instr.kyLpbk 0 1).wf = false := by decide +kernel
theorem test_wf_refuses_another_class_and_op :
    (Instr.rd 0 0 0x22).wf = false ∧ (Instr.wr 0 0 0x21 0).wf = false ∧ (Instr.wrPart 0 0 0x22 0 0).wf = false ∧
    (Instr.wrZero 0 0 0x25).wf = false ∧ (Instr.fence 0 0 0x24).wf = false ∧ (Instr.credit 0 0 0x21).wf = false ∧
    (Instr.cfgRd 0 0 0x62).wf = false ∧ (Instr.cfgWr 0 0 0x61).wf = false := by decide +kernel
/-- A message of no requester and one past its flit arrive all the same: each is a protocol error (R191). -/
theorem test_wf_takes_unknown_and_spanning_messages :
    (Instr.rd 0 0 0xFF).wf = true ∧ (Instr.wr 0 11 0x22 0).wf = true ∧ (Instr.wrPart 0 10 0x23 0 0).wf = true := by
  decide +kernel
theorem test_wf_refuses_a_run_of_another_number_of_values :
    (Instr.calRunEnd ⟨none, sweep0, [1]⟩).wf = false ∧ (Instr.calRunEnd ⟨none, sweep0, List.replicate 12 0⟩).wf = true := by
  decide +kernel
theorem test_wf_refuses_opcodes_of_others :
    (Instr.firmwareInstruction 0 0xEF f0).wf = false ∧ (Instr.reservedOpcode 0 0x13 f0).wf = false ∧
    (Instr.reservedOpcode 0 0xF0 f0).wf = false := by decide +kernel
theorem test_wf_refuses_another_number_of_values :
    (Instr.sensorSample 0 []).wf = false ∧ (Instr.cwyHeartbeat 1 []).wf = false ∧ (Instr.cwyStatus 1 []).wf = false ∧
    (Instr.cwyAnnounce 1 []).wf = false := by decide +kernel

/-! ### Instruction words -/

/-- The words of the manual's four-row copy (Worked programs, R260) spell the instructions that it lists. -/
theorem test_words_of_the_row_copy :
    decodeExdun 6 0x1240000000000000 0 = .mov 6 ⟨4, 0, 0, 0, 0, 0⟩ ∧
    decodeExdun 6 0x1000000000000000 0 = .li 6 ⟨0, 0, 0, 0, 0, 0⟩ ∧
    decodeExdun 6 0x4004000000000000 0 = .rowLoad 6 ⟨0, 4, 0, 0, 0, 0⟩ ∧
    decodeExdun 6 0x4101010000000000 0 = .rowClaim 6 ⟨0, 1, 0, 1, 0, 0⟩ ∧
    decodeExdun 6 0x50000100FFFFFFFF 0 = .rowCopy 6 ⟨0, 0, 0, 1, 0, 0xFFFFFFFF⟩ ∧
    decodeExdun 6 0x4200000000000003 0 = .rowRel 6 ⟨0, 0, 0, 0, 0, 3⟩ ∧
    decodeExdun 6 0x1544000000000001 0 = .addi 6 ⟨4, 4, 0, 0, 0, 1⟩ ∧
    decodeExdun 6 0x2000200200000000 0 = .cmp 6 ⟨0, 0, 2, 0, 2, 0⟩ ∧
    decodeExdun 6 0x0200000100000002 0 = .br 6 ⟨0, 0, 0, 0, 1, 2⟩ ∧
    decodeExdun 6 0x0100000000000000 0 = .halt 6 ⟨0, 0, 0, 0, 0, 0⟩ := by decide +kernel

/-- The opcode of one instruction of each further group of the table Opcode map. -/
theorem test_words_of_the_other_groups :
    decodeExdun 1 0x2412000000000000 0 = .stRd 1 ⟨1, 2, 0, 0, 0, 0⟩ ∧
    decodeExdun 1 0x3010000000000020 0 = .ldCfg 1 ⟨1, 0, 0, 0, 0, 0x20⟩ ∧
    decodeExdun 1 0x6004000000000005 0 = .secRdraw 1 ⟨0, 4, 0, 0, 0, 5⟩ ∧
    decodeExdun 1 0x7112000000000000 0 = .repRow 1 ⟨1, 2, 0, 0, 0, 0⟩ ∧
    decodeExdun 1 0x7900000000000000 9 = .vpChk 1 ⟨0, 0, 0, 0, 0, 0⟩ 9 ∧
    decodeExdun 1 0x9012000000000000 0 = .statRes 1 ⟨1, 2, 0, 0, 0, 0⟩ ∧
    decodeExdun 1 0xA102000000000000 0 = .tstRd 1 ⟨0, 2, 0, 0, 0, 0⟩ ∧
    decodeExdun 1 0xF100000000000000 0 = .firmwareInstruction 1 0xF1 ⟨0, 0, 0, 0, 0, 0⟩ ∧
    decodeExdun 1 0x0500000000000000 0 = .reservedOpcode 1 0x05 ⟨0, 0, 0, 0, 0, 0⟩ := by decide +kernel

/-! ### The manual's worked examples -/

/-- The manual's user address under FINE, COARSE and TIER (table Interleave fields). -/
theorem test_user_address_decomposes :
    decompose 0 0x0A5C3E7A40 = ⟨mkLoc 6 1 30 0 5304, 13⟩ ∧ mkLoc 6 1 30 0 5304 = 0x33E014B8 ∧
    decompose 1 0x0A5C3E7A40 = ⟨mkLoc 10 2 15 0 5903, 9⟩ ∧
    decompose 2 0x0A5C3E7A40 = ⟨mkLoc 8 3 25 0 4833, 29⟩ := by decide +kernel

/-- The manual's aperture address (R31), and its row's extent (R30). -/
theorem test_aperture_address_and_extent :
    decomposeAperture 0x201F042A80 = ⟨mkLoc 31 0 5 2 1, 10⟩ ∧ locExtent 0x33E014B8 = 54456 := by decide +kernel

/-- The manual's sector whose only 1 bit is bit 0 (R334). -/
theorem test_check_symbols_of_one_bit :
    checkSymbols 1 = 0x040 + 0x078 * 2 ^ 10 + 0x036 * 2 ^ 20 + 0x00F * 2 ^ 30 ∧
    (decodeSector 0 (encodeBits 1 ^^^ 0x100)).corr = true := by decide +kernel

/-- The manual's REG_WR of REQ 0x3 into GLB_MODE names GLB_MODE (R138). -/
theorem test_address_of_glb_mode : adr .GLB_MODE = 0x14 ∧ adr .GLB_ISL_CTL 0 0 ≠ 0x14 ∧ adr .XPT_ADDR_MAP = 0x20040 := by
  decide +kernel

/-- The manual's four stacks of demands 1,000, 800, 600 and 400 under a budget of 3,000 (R474). -/
theorem test_shares_of_four_stacks : (List.range 4).map fourStacks.shareOf = [1100, 866, 633, 400] := by decide +kernel

/-! ### One step -/

/-- addi g4, g4, 1 of the row copy adds 1 to g4, and PC advances. -/
theorem test_addi_steps :
    (match exec (.addi 3 ⟨4, 4, 0, 0, 0, 1⟩) (prog 0x15 ⟨4, 4, 0, 0, 0, 1⟩) with
     | .next t => t.g 3 4 == 1 && (t.eng 3).pc == 1
     | _ => false) = true := by decide +kernel

/-- PWROK rising from reset leaves the device in RESET, and RST_N rising starts BRING-UP, which stalls at step 4 (R103, R110). -/
theorem test_power_up :
    (match exec .pwrokRise State.reset with
     | .next t => t.mode == .reset && (match exec (.rstNRise { env0 with stallAt := some 4 }) t with
        | .next u => u.mode == .bringUp
        | _ => false)
     | _ => false) = true := by decide +kernel

/-- The queue is served first in, first out, and an empty queue idles. -/
theorem test_step_takes_the_front :
    (match step { State.reset with pending := [.pwrokRise, .pwrokFall] } with
     | .next t => t.pending == [.pwrokFall] && t.pins.pwrok
     | _ => false) = true := by decide +kernel

/-! ### States and operands that meet the hypotheses of the obligations -/

/-- States and operands that meet the hypotheses of the clauses of `PinsTakenAsTheyChange`. -/
theorem witness_PinsTakenAsTheyChange :
    (∃ (s : State), s.mode ≠ .reset) ∧
    (∃ (s : State), s.mode ≠ .reset ∧ s.mode ≠ .fatal) ∧
    (∃ (s : State), (s.mode = .fatal ∨ s.mode = .reset)) ∧
    (∃ (s : State), s.mode = .reset) :=
  ⟨⟨act, by decide +kernel⟩,
   ⟨act, by decide +kernel⟩,
   ⟨State.reset, by decide +kernel⟩,
   ⟨State.reset, by decide +kernel⟩⟩

/-- States and operands that meet the hypotheses of the clauses of `ClocksAndReference`. -/
theorem witness_ClocksAndReference :
    (∃ (h : Half) (s : State), s.clocked = true ∧ s.pllLocked h = true) ∧
    (∃ (h : Half) (s : State), s.clocked = true ∧ s.pllLocked h = false) ∧
    (∃ (h : Half) (s : State), s.clocked = true ∧ s.pllLocked h = false ∧ s.halfStopped h = false ∧ s.pllLocked
      (halfOther h) = true) ∧
    (∃ (h : Half) (s : State), s.clocked = true ∧ s.pllLocked h = false ∧ s.halfStopped h = false ∧ s.pllLocked
      (halfOther h) = false) ∧
    (∃ (h : Half) (s : State), s.halfStopped h = true) ∧
    (∃ (khz : Nat) (s : State), s.mode ≠ .reset ∧ (khz < 99000 ∨ 101000 < khz)) ∧
    (∃ (khz : Nat) (s : State), s.mode ≠ .reset ∧ 99000 ≤ khz ∧ khz ≤ 101000) ∧
    (∃ (s : State), s.pins.refclk = true ∧ s.mode ≠ .reset) ∧
    (∃ (s : State), s.pins.refclk = false) ∧
    (∃ (s : State), s.pins.refclk = false ∧ s.clocked = true) ∧
    (∃ (s : State), s.pins.refclk = true ∧ s.mode = .reset) ∧
    (∃ (d : Fin 16) (s : State), s.clocked = true ∧ s.pllLocked (halfOfChan (8 * (d.val / 4))) = false ∧ bitOf s.ownSelf
      d = false) :=
  ⟨⟨.east, act, by decide +kernel⟩,
   ⟨.east, pin ({ · with lockEast := false }), by decide +kernel⟩,
   ⟨.east, pin ({ · with lockEast := false }), by decide +kernel⟩,
   ⟨.east, pin ({ · with lockEast := false, lockWest := false }), by decide +kernel⟩,
   ⟨.east, { act with stopped := 3 }, by decide +kernel⟩,
   ⟨98999, act, by decide +kernel⟩,
   ⟨101000, act, by decide +kernel⟩,
   ⟨act, by decide +kernel⟩,
   ⟨pin ({ · with refclk := false }), by decide +kernel⟩,
   ⟨pin ({ · with refclk := false }), by decide +kernel⟩,
   ⟨State.reset, by decide +kernel⟩,
   ⟨15, { pin ({ · with lockEast := false }) with mode := .fatal }, by decide +kernel⟩⟩

/-- States and operands that meet the hypotheses of the clauses of `StepTakesTheFrontCommand`. -/
theorem witness_StepTakesTheFrontCommand :
    (∃ (s : State), s.pending = [] ∧ s.mode ≠ .reset) ∧
    (∃ (s : State), s.pending = [] ∧ s.mode = .reset) ∧
    (∃ (i : Instr), (∀ c op f, i ≠ .firmwareInstruction c op f)) :=
  ⟨⟨act, by decide +kernel⟩,
   ⟨State.reset, by decide +kernel⟩,
   ⟨.pwrokRise, fun _ _ _ => nofun⟩⟩

/-- States and operands that meet the hypotheses of the clauses of `EveryStepKeepsTheInvariants`. -/
theorem witness_EveryStepKeepsTheInvariants :
    (∃ (s t : State), step s = .next t ∧ s.throttleShown) ∧
    (∃ (s t : State), step s = .next t ∧ s.canonical = true) :=
  ⟨⟨act, _, rfl, fun _ => by decide +kernel⟩,
   ⟨act, _, rfl, by decide +kernel⟩⟩

/-- States and operands that meet the hypotheses of the clauses of `IslandsGateAndReset`. -/
theorem witness_IslandsGateAndReset :
    (∃ (i : Fin 57) (s : State), s.mode ≠ .reset ∧ s.fld (F.GLB_ISL_CTL_GATE i) = 0 ∧ s.flag (F.GLB_ISL_STS_IN_RESET i) =
      false ∧ s.quietIn i = true ∧ s.islandWorks i = false) ∧
    (∃ (i : Fin 57) (s : State), s.fld (F.GLB_ISL_CTL_GATE i) = 0 ∧ s.flag (F.GLB_ISL_STS_GATED i) = true ∧ s.quietIn i =
      false) ∧
    (∃ (p : Path) (i : Fin 57) (w v : Word) (s : State), v = withBits w 31 31 1 ∧ s.granted p .GLB_ISL_CTL 0 i v = true ∧
      bitsOf v.toNat 9 8 = 1 ∧ bitsOf v.toNat 7 0 ≠ 0 ∧ s.flag (F.GLB_ISL_STS_IN_RESET i) = false ∧ s.resetPermitted p i =
      true) ∧
    (∃ (p : Path) (i : Fin 57) (w v : Word) (s : State), v = withBits w 31 31 0 ∧ s.granted p .GLB_ISL_CTL 0 i v = true ∧
      bitsOf v.toNat 9 8 = 1 ∧ bitsOf v.toNat 7 0 ≠ 0) ∧
    (∃ (p : Path) (i : Fin 57) (w v : Word) (s : State), v = withBits w 31 31 0 ∧ s.granted p .GLB_ISL_CTL 0 i v = true ∧
      bitsOf v.toNat 9 8 = 2 ∧ bitsOf v.toNat 7 0 ≠ 0 ∧ s.offPermitted i = true ∧ (i.val < 52 ∨ 54 < i.val)) ∧
    (∃ (i : Fin 57) (s : State), s.mode ≠ .reset ∧ s.flag (F.GLB_ISL_STS_IN_RESET i) = true ∧ bitOf s.resetting i = true) ∧
    (∃ (i : Fin 57) (s : State), bitOf s.resetting i = false) ∧
    (∃ (p : Path) (i : Fin 57) (w v : Word) (s : State), v = withBits w 31 31 0 ∧ s.granted p .GLB_ISL_CTL 0 i v = true ∧
      bitsOf v.toNat 9 8 = 0 ∧ bitsOf v.toNat 7 0 ≠ 0 ∧ (i.val < 52 ∨ 54 < i.val)) ∧
    (∃ (p : Path) (i : Fin 57) (w v : Word) (s : State), v = withBits w 31 31 0 ∧ s.granted p .GLB_ISL_CTL 0 i v = true ∧
      ((52 ≤ i.val ∧ i.val ≤ 54 ∧ bitsOf v.toNat 9 8 ≠ 1) ∨ (bitsOf v.toNat 9 8 = 2 ∧ s.offPermitted i = false))) ∧
    (∃ (p : Path) (i : Fin 57) (w v w' : Word) (s : State), v = withBits w 31 31 0 ∧ s.granted p .GLB_ISL_CTL 0 i w' =
      true ∧ (bitsOf v.toNat 9 8 = 3 ∨ bitsOf v.toNat 7 0 = 0)) ∧
    (∃ (p : Path) (i : Fin 57) (w v : Word) (s : State), v = withBits w 31 31 1 ∧ s.granted p .GLB_ISL_CTL 0 i v = true ∧
      (s.flag (F.GLB_ISL_STS_IN_RESET i) = true ∨ s.resetPermitted p i = false)) ∧
    (∃ (c : Fin 32) (s : State), s.mode ≠ .reset ∧ s.flag (F.GLB_ISL_STS_IN_RESET c) = false ∧ (s.chan c).toRestore =
      true) ∧
    (∃ (c : Fin 32) (s : State), (s.chan c).toRestore = false) ∧
    (∃ (r : Reg) (u i a : Nat), regAt a = some (r, u, i)) :=
  ⟨⟨3, act, by decide +kernel⟩,
   ⟨3, busy.setFlag (F.GLB_ISL_STS_GATED 3) true, by decide +kernel⟩,
   ⟨.fw .west, 55, 0x1FF#32, _, act, rfl, by decide +kernel⟩,
   ⟨.fw .west, 55, 0x101#32, _, act, rfl, by decide +kernel⟩,
   ⟨.fw .west, 55, 0x201#32, _, act, rfl, by decide +kernel⟩,
   ⟨3, { act.setFlag (F.GLB_ISL_STS_IN_RESET 3) true with resetting := 8 }, by decide +kernel⟩,
   ⟨3, act, by decide +kernel⟩,
   ⟨.fw .west, 55, 0x001#32, _, act, rfl, by decide +kernel⟩,
   ⟨.fw .west, 52, 0x201#32, _, act, rfl, by decide +kernel⟩,
   ⟨.fw .west, 55, 0x301#32, _, 0x101#32, act, rfl, by decide +kernel⟩,
   ⟨.fw .west, 3, 0x101#32, _, act, rfl, by decide +kernel⟩,
   ⟨3, act.modChan 3 ({ · with toRestore := true }), by decide +kernel⟩,
   ⟨3, act, by decide +kernel⟩,
   ⟨.GLB_MODE, 0, 0, adr .GLB_MODE, by decide +kernel⟩⟩

/-- States and operands that meet the hypotheses of the clauses of `StraitsSpendAndReturnCredits`. -/
theorem witness_StraitsSpendAndReturnCredits :
    (∃ (k : Fin 270) (words : List (BitVec 32)) (s : State), s.straitClosed k = false ∧ (s.strait k).used < straitDepth k
      ∧ words.length ≤ straitWords k) ∧
    (∃ (k : Fin 270) (s : State), straitDepth k ≤ (s.strait k).used) ∧
    (∃ (k : Fin 270) (hit : Option StraitHit) (e : StraitEntry) (rest : List StraitEntry) (s : State), s.straitClosed k =
      false ∧ s.flag (F.GLB_ISL_STS_GATED (straitEnds k).2) = false ∧ (s.strait k).entries = e :: rest ∧ (hitWords e.words
      hit).map evenParity = e.parity) ∧
    (∃ (k : Fin 270) (hit : Option StraitHit) (e : StraitEntry) (rest : List StraitEntry) (s : State), s.straitClosed k =
      false ∧ s.flag (F.GLB_ISL_STS_GATED (straitEnds k).2) = false ∧ (s.strait k).entries = e :: rest ∧ (hitWords e.words
      hit).map evenParity = e.parity ∧ e.owner = .item) ∧
    (∃ (k : Fin 270) (e : StraitEntry) (p : Path) (a : BitVec 24) (w : Bool) (tag : BitVec 14) (s : State) (x : Res),
      e.owner = .access p a w tag ∧ e.mute = false ∧ (accessIslands (pathHalf p) a.toNat w).contains (straitEnds k).2 =
      true ∧ x = s.access p a.toNat w e.data Given.plain (answerOf p tag.toNat) ∧ x.held = false) ∧
    (∃ (k : Fin 270) (e : StraitEntry) (m : Fin 12) (tag : BitVec 14), e.owner = .txn m tag ∧ ((straitEnds k).2 = 48 ∨
      (straitEnds k).2 = 49)) ∧
    (∃ (e : StraitEntry) (p : Path) (a : BitVec 24) (w : Bool) (tag : BitVec 14), e.owner = .access p a w tag ∧ e.mute =
      false) ∧
    (∃ (c : Fin 32) (a : Nat) (w : Bool) (f : Fields) (s : State), s.cfgAt c a w = some f) ∧
    (∃ (e : StraitEntry) (m : Fin 12) (tag : BitVec 14) (t : Txn) (s : State), e.owner = .txn m tag ∧ s.straitTxn m
      tag.toNat e.mute = some t) ∧
    (∃ (k : Fin 270) (hit : Option StraitHit) (e : StraitEntry) (rest : List StraitEntry) (s : State), s.straitClosed k =
      false ∧ s.flag (F.GLB_ISL_STS_GATED (straitEnds k).2) = false ∧ (s.strait k).entries = e :: rest ∧ (hitWords e.words
      hit).map evenParity ≠ e.parity) ∧
    (∃ (k : Fin 270) (s : State), s.flag (F.GLB_ISL_STS_GATED (straitEnds k).2) = true ∧ (s.strait k).entries ≠ []) ∧
    (∃ (k : Fin 270) (s : State), (s.strait k).entries.length < (s.strait k).used) :=
  ⟨⟨269, [], act, by decide +kernel⟩,
   ⟨269, { act with straits := [(269, ⟨[], 4⟩)] }, by decide +kernel⟩,
   ⟨269, none, ⟨[5], [evenParity 5], .item, false⟩, [], busy, by decide +kernel⟩,
   ⟨269, none, ⟨[5], [evenParity 5], .item, false⟩, [], busy, by decide +kernel⟩,
   ⟨2, ⟨[5], [evenParity 5], .access (.sb 0) (BitVec.ofNat 24 (adr .QOS_THROTTLE)) true 0, false⟩, .sb 0, BitVec.ofNat
     24 (adr .QOS_THROTTLE), true, 0#14, act, _, by decide +kernel, (by decide +kernel), by decide +kernel, rfl,
     by decide +kernel⟩,
   ⟨6, ⟨[5], [evenParity 5], .txn 3 5, false⟩, 3, 5, by decide +kernel⟩,
   ⟨⟨[5], [evenParity 5], .access (.fw .west) 0 true 0, false⟩, .fw .west, 0#24, true, 0#14, by decide +kernel⟩,
   ⟨3, (prog 0x30 { f0 with imm := 0x20 }).cfgAddr 3 { f0 with imm := 0x20 }, false, { f0 with imm := 0x20 }, prog 0x30
     { f0 with imm := 0x20 }, by decide +kernel⟩,
   ⟨⟨[5], [evenParity 5], .txn 3 5, false⟩, 3, 5, txn .rd .accepted, with1 (txn .rd .accepted), by decide +kernel⟩,
   ⟨269, some ⟨0, 3⟩, ⟨[5], [evenParity 5], .item, false⟩, [], busy, by decide +kernel⟩,
   ⟨269, busy.setFlag (F.GLB_ISL_STS_GATED 52) true, by decide +kernel⟩,
   ⟨3, { act with straits := [(3, ⟨[], 1⟩)] }, by decide +kernel⟩⟩

/-- States and operands that meet the hypotheses of the clauses of `RailsAreSampledAndJudged`. -/
theorem witness_RailsAreSampledAndJudged :
    (∃ (k : Fin 6) (mv : BitVec 16) (s : State), s.mode ≠ .reset ∧ s.islandDown (if k.val = 0 then 52 else 54) = false ∧
      railImplausible k mv.toNat (s.rail k).prev = true ∧ (s.rail k).impl ≠ 2) ∧
    (∃ (k : Fin 6) (mv : BitVec 16) (s : State), s.mode ≠ .reset ∧ s.islandDown (if k.val = 0 then 52 else 54) = false ∧
      railImplausible k mv.toNat (s.rail k).prev = true ∧ (s.rail k).impl = 2) ∧
    (∃ (k : Fin 6) (mv : BitVec 16) (s : State), s.mode ≠ .reset ∧ s.islandDown (if k.val = 0 then 52 else 54) = false ∧
      railImplausible k mv.toNat (s.rail k).prev = false ∧ s.fld (F.PWR_RAIL_LIM_LO_MV k) ≤ mv.toNat ∧ mv.toNat ≤ s.fld
      (F.PWR_RAIL_LIM_HI_MV k)) ∧
    (∃ (k : Fin 6) (mv : BitVec 16) (s : State), s.mode ≠ .reset ∧ s.islandDown (if k.val = 0 then 52 else 54) = false ∧
      railImplausible k mv.toNat (s.rail k).prev = false ∧ mv.toNat < s.fld (F.PWR_RAIL_LIM_LO_MV k) ∧ 2 ≤ (s.rail
      k).below + (s.rail k).above) ∧
    (∃ (k : Fin 6) (mv : BitVec 16) (s : State), s.mode ≠ .reset ∧ s.islandDown (if k.val = 0 then 52 else 54) = false ∧
      railImplausible k mv.toNat (s.rail k).prev = false ∧ s.fld (F.PWR_RAIL_LIM_LO_MV k) ≤ mv.toNat ∧ s.fld
      (F.PWR_RAIL_LIM_HI_MV k) < mv.toNat ∧ 2 ≤ (s.rail k).below + (s.rail k).above) ∧
    (∃ (p : Path) (k : Fin 6) (w : BitVec 32) (s : State), s.granted p .PWR_RAIL_LIM 0 k w = true ∧ s.sessionOk p = true
      ∧ (railWindow k).1 ≤ bitsOf w.toNat 15 0 ∧ bitsOf w.toNat 15 0 < bitsOf w.toNat 31 16 ∧ bitsOf w.toNat 31 16 ≤
      (railWindow k).2) ∧
    (∃ (p : Path) (k : Fin 6) (w : BitVec 32) (s : State), s.granted p .PWR_RAIL_LIM 0 k w = true ∧ s.sessionOk p = true
      ∧ (bitsOf w.toNat 15 0 < (railWindow k).1 ∨ bitsOf w.toNat 31 16 ≤ bitsOf w.toNat 15 0 ∨ (railWindow k).2 < bitsOf
      w.toNat 31 16)) ∧
    (∃ (arr vpp : Bool) (s : State), s.mode ≠ .reset ∧ (arr || vpp) = true) ∧
    (∃ (d : PgoodReport) (s t : State), s.mode ≠ .reset ∧ (d.arr || d.vpp) = true ∧ t = (if d.vpp then (fun u : State =>
      u.setFldBit F.PWR_DIE_PGOOD_VPP_OK d.die true) else id) (if d.arr then s.setFldBit F.PWR_DIE_PGOOD_ARR_OK d.die true
      else s)) :=
  ⟨⟨3, 374, act, by decide +kernel⟩,
   ⟨3, 374, { act with rails := [(3, ⟨none, 0, 0, 2⟩)] }, by decide +kernel⟩,
   ⟨3, 713, act, by decide +kernel⟩,
   ⟨3, 712, { act with rails := [(3, ⟨none, 2, 0, 0⟩)] }, by decide +kernel⟩,
   ⟨3, 800, { act with rails := [(3, ⟨none, 2, 0, 0⟩)] }, by decide +kernel⟩,
   ⟨.fw .west, 3, BitVec.ofNat 32 (825 * 65536 + 675), act, by decide +kernel⟩,
   ⟨.fw .west, 3, BitVec.ofNat 32 (825 * 65536 + 674), act, by decide +kernel⟩,
   ⟨true, false, act, by decide +kernel⟩,
   ⟨⟨3, true, false⟩, act, _, by decide +kernel, (by decide +kernel), rfl⟩⟩

/-- States and operands that meet the hypotheses of the clauses of `TheTimeBaseIsReadAndWrittenInPairs`. -/
theorem witness_TheTimeBaseIsReadAndWrittenInPairs :
    (∃ (p : Path) (s : State), s.readable p .GLB_TIME_LO 0 0 = true) ∧
    (∃ (p : Path) (x : Word) (s : State), s.readable p .GLB_TIME_HI 0 0 = true ∧ s.latches.get (fun _ => none) (pathKey
      (pathNum p) (adr .GLB_TIME_HI)) = some x) ∧
    (∃ (p : Path) (s : State), s.readable p .GLB_TIME_HI 0 0 = true ∧ s.latches.get (fun _ => none) (pathKey (pathNum p)
      (adr .GLB_TIME_HI)) = none) ∧
    (∃ (p : Path) (w : BitVec 32) (s : State), s.granted p .GLB_TIME_HI 0 0 w = true) ∧
    (∃ (p : Path) (w : BitVec 32) (x : Word) (s : State), s.granted p .GLB_TIME_LO 0 0 w = true ∧ s.held (pathNum p) (adr
      .GLB_TIME_HI) = some x) ∧
    (∃ (p : Path) (w : BitVec 32) (s : State), s.granted p .GLB_TIME_LO 0 0 w = true ∧ s.held (pathNum p) (adr
      .GLB_TIME_HI) = none) ∧
    (∃ (t s : State), t.timeBase.toNat / 1000 = s.timeBase.toNat / 1000) ∧
    (∃ (t s : State), t.timeBase.toNat / 10000 ≠ s.timeBase.toNat / 10000 ∧ t.mode ≠ .deepRetention) :=
  ⟨⟨.fw .west, act, by decide +kernel⟩,
   ⟨.fw .west, 7, { act with latches := [(pathKey 48 (adr .GLB_TIME_HI), some 7)] }, by decide +kernel⟩,
   ⟨.fw .west, act, by decide +kernel⟩,
   ⟨.fw .west, 0#32, act, by decide +kernel⟩,
   ⟨.fw .west, 0#32, 7, { act with holders := [(pathKey 48 (adr .GLB_TIME_HI), some 7)] }, by decide +kernel⟩,
   ⟨.fw .west, 0#32, act, by decide +kernel⟩,
   ⟨act, act, by decide +kernel⟩,
   ⟨act, State.reset, by decide +kernel⟩⟩

/-- States and operands that meet the hypotheses of the clauses of `WideRegistersWorkInPairs`. -/
theorem witness_WideRegistersWorkInPairs :
    (∃ (p : Path) (a : BitVec 24) (r hi : Reg) (u i : Nat) (s : State), pairHigh r = some hi ∧ a.toNat = adr r u i ∧
      s.readable p r u i = true) ∧
    (∃ (p : Path) (a : BitVec 24) (w : BitVec 32) (r : Reg) (u i : Nat) (s : State), isPairHigh r = true ∧ a.toNat = adr
      r u i ∧ s.granted p r u i w = true) ∧
    (∃ (p : Path) (a : BitVec 24) (w : BitVec 32) (r hi : Reg) (u i : Nat) (s : State) (x : Word), pairHigh r = some hi ∧
      plainPair r = true ∧ a.toNat = adr r u i ∧ s.granted p r u i w = true ∧ s.held (pathNum p) (adr hi u i) = some x) ∧
    (∃ (p : Path) (a : BitVec 24) (w : BitVec 32) (r hi : Reg) (u i : Nat) (s : State), pairHigh r = some hi ∧ plainPair
      r = true ∧ a.toNat = adr r u i ∧ s.granted p r u i w = true ∧ s.held (pathNum p) (adr hi u i) = none) ∧
    (∃ (p : Path) (a : BitVec 24) (w : BitVec 32) (k : Fin 64) (s : State), a.toNat = adr .OBS_CNT_LO 0 k ∧ s.granted p
      .OBS_CNT_LO 0 k w = true) ∧
    (∃ (p : Path) (a : BitVec 24) (w : BitVec 32) (c : Fin 32) (k : Fin 16) (s : State), a.toNat = adr .CH_CNT_LO c k ∧
      s.granted p .CH_CNT_LO c k w = true) ∧
    (∃ (p : PathNum) (hi : Reg) (u i : Nat) (x : Word) (s : State), s.held p (adr hi u i) = some x) :=
  ⟨⟨.fw .west, BitVec.ofNat 24 (adr .GLB_TIME_LO), .GLB_TIME_LO, .GLB_TIME_HI, 0, 0, act, by decide +kernel⟩,
   ⟨.fw .west, BitVec.ofNat 24 (adr .OBS_CNT_HI 0 3), 0#32, .OBS_CNT_HI, 0, 3, act, by decide +kernel⟩,
   ⟨.fw .west, BitVec.ofNat 24 (adr .FLT_FIRST_LO 0 3), 0#32, .FLT_FIRST_LO, .FLT_FIRST_HI, 0, 3,
     { act with holders := [(pathKey 48 (adr .FLT_FIRST_HI 0 3), some 9)] }, 9, by decide +kernel⟩,
   ⟨.fw .west, BitVec.ofNat 24 (adr .FLT_FIRST_LO 0 3), 0#32, .FLT_FIRST_LO, .FLT_FIRST_HI, 0, 3, act,
     by decide +kernel⟩,
   ⟨.fw .west, BitVec.ofNat 24 (adr .OBS_CNT_LO 0 3), 0#32, 3, act, by decide +kernel⟩,
   ⟨.fw .west, BitVec.ofNat 24 (adr .CH_CNT_LO 3 3), 0#32, 3, 3, act, by decide +kernel⟩,
   ⟨48, .FLT_FIRST_HI, 0, 3, 9, { act with holders := [(pathKey 48 (adr .FLT_FIRST_HI 0 3), some 9)] },
     by decide +kernel⟩⟩

/-- States and operands that meet the hypotheses of the clauses of `RegisterWritesAreServedOrRefused`. -/
theorem witness_RegisterWritesAreServedOrRefused :
    (∃ (p : Path) (a : BitVec 24) (w : BitVec 32) (r : Reg) (u i : Nat) (s : State), plainReg r = true ∧ a.toNat = adr r
      u i ∧ s.granted p r u i w = true) ∧
    (∃ (p : Path) (a : BitVec 24) (s : State), s.pathUp p = true ∧ s.modeStatus p = none ∧ (a.toNat % 4 ≠ 0 ∨ inBlock
      a.toNat = false)) ∧
    (∃ (p : Path) (s : State) (st : Status), s.pathUp p = true ∧ s.modeStatus p = some st ∧ st ≠ .unmapped) ∧
    (∃ (p : Path) (a : BitVec 24) (s : State), s.pathUp p = true ∧ s.modeStatus p = none ∧ a.toNat % 4 = 0 ∧ inBlock
      a.toNat = true ∧ (accessIslands (pathHalf p) a.toNat true).any s.islandDown = true) ∧
    (∃ (p : Path) (a : BitVec 24) (s : State), s.pathUp p = true ∧ s.refused p a.toNat true = none ∧ regAt a.toNat = none
      ∧ ((accessIslands (pathHalf p) a.toNat true).all fun k => !s.flag (F.GLB_ISL_STS_GATED k)) = true ∧ s.mode = .fatal) ∧
    (∃ (p : Path) (a : BitVec 24) (s : State), s.pathUp p = true ∧ s.refused p a.toNat true = none ∧ regAt a.toNat = none
      ∧ ((accessIslands (pathHalf p) a.toNat true).all fun k => !s.flag (F.GLB_ISL_STS_GATED k)) = true ∧ s.mode ≠ .fatal) ∧
    (∃ (p : Path) (a : BitVec 24) (r : Reg) (u i : Nat) (s : State), s.pathUp p = true ∧ s.refused p a.toNat true = none
      ∧ regAt a.toNat = some (r, u, i) ∧ ((accessIslands (pathHalf p) a.toNat true).all fun k => !s.flag
      (F.GLB_ISL_STS_GATED k)) = true ∧ r.prv = true ∧ s.allowed p = false) ∧
    (∃ (p : Path) (a : BitVec 24) (r : Reg) (u i : Nat) (s : State), s.pathUp p = true ∧ s.refused p a.toNat true = none
      ∧ regAt a.toNat = some (r, u, i) ∧ ((accessIslands (pathHalf p) a.toNat true).all fun k => !s.flag
      (F.GLB_ISL_STS_GATED k)) = true ∧ (r.prv = false ∨ s.allowed p = true) ∧ s.mode ≠ .fatal ∧ s.bounces p a.toNat =
      false ∧ s.locked r a.toNat = true) ∧
    (∃ (p : Path) (a : BitVec 24) (w : BitVec 32) (r : Reg) (u i : Nat) (s : State), s.pathUp p = true ∧ s.refused p
      a.toNat true = none ∧ regAt a.toNat = some (r, u, i) ∧ ((accessIslands (pathHalf p) a.toNat true).all fun k =>
      !s.flag (F.GLB_ISL_STS_GATED k)) = true ∧ (r.prv = false ∨ s.allowed p = true) ∧ s.mode ≠ .fatal ∧ s.bounces p
      a.toNat = false ∧ s.locked r a.toNat = false ∧ inRange r w.toNat = false ∧ refusesFirst r = false) ∧
    (∃ (p : Path) (a : BitVec 24) (w : BitVec 32) (r : Reg) (u : Nat) (s : State), s.pathUp p = true ∧ s.refused p
      a.toNat true = none ∧ regAt a.toNat = some (r, u, 7) ∧ ((accessIslands (pathHalf p) a.toNat true).all fun k =>
      !s.flag (F.GLB_ISL_STS_GATED k)) = true ∧ (r.prv = false ∨ s.allowed p = true) ∧ s.mode ≠ .fatal ∧ s.bounces p
      a.toNat = false ∧ s.locked r a.toNat = false ∧ inRange r w.toNat = false ∧ refusesFirst r = true ∧ r ≠ .LC_SESS_CTL
      ∧ isSecure p = false) :=
  ⟨⟨.sb 0, BitVec.ofNat 24 (adr .LAG_CFG 3), BitVec.ofNat 32 (fieldsReset Reg.LAG_CFG.fields), .LAG_CFG, 3, 0, act,
     by decide +kernel⟩,
   ⟨.fw .west, 2#24, act, by decide +kernel⟩,
   ⟨.ctl 3 true, inMode .shutdownTest, .unavailable, by decide +kernel⟩,
   ⟨.fw .west, BitVec.ofNat 24 (adr .LAG_CFG 3), act.setFlag (F.GLB_ISL_STS_IN_RESET 3) true, by decide +kernel⟩,
   ⟨.sb 0, BitVec.ofNat 24 (adr .LAG_CFG 3 + 0xFC), inMode .fatal, by decide +kernel⟩,
   ⟨.fw .west, BitVec.ofNat 24 (adr .LAG_CFG 3 + 0xFC), act, by decide +kernel⟩,
   ⟨.sb 3, BitVec.ofNat 24 (adr .LAG_CFG 3), .LAG_CFG, 3, 0, act, by decide +kernel⟩,
   ⟨.sb 0, BitVec.ofNat 24 (adr .XPT_ADDR_MAP), .XPT_ADDR_MAP, 0, 0, act.setReg (adr .XPT_ADDR_MAP) 0x80000000#32,
     by decide +kernel⟩,
   ⟨.sb 0, BitVec.ofNat 24 (adr .GLB_ISL_CTL 0 3), 0x300#32, .GLB_ISL_CTL, 0, 3, act, by decide +kernel⟩,
   ⟨.sb 0, BitVec.ofNat 24 (adr .EXD_QCFG 3 7), 0x1F#32, .EXD_QCFG, 3, act, by decide +kernel⟩⟩

/-- States and operands that meet the hypotheses of the clauses of `ManagementWorkRunsAtTicks`. -/
theorem witness_ManagementWorkRunsAtTicks :
    (∃ (s u : State), s.mode ≠ .reset ∧ s.mode ≠ .deepRetention ∧ s.mode ≠ .fatal ∧ s.aonUpset = false ∧ u =
      s.advanceToMultiple 10000) ∧
    (∃ (s u : State), (s.mode = .deepRetention ∨ s.mode = .fatal) ∧ s.aonUpset = false ∧ u = s.advanceToMultiple 10000) ∧
    (∃ (s u v : State), s.mode ≠ .reset ∧ s.aonUpset = true ∧ u = s.advanceToMultiple 10000 ∧ v = ((u.applyShadows
      domGlobal).settleDue u).settleLevels u) :=
  ⟨⟨act, _, by decide +kernel, (by decide +kernel), by decide +kernel, (by decide +kernel), rfl⟩,
   ⟨inMode .fatal, _, by decide +kernel, (by decide +kernel), rfl⟩,
   ⟨{ act with aonUpset := true }, _, _, by decide +kernel, (by decide +kernel), rfl, rfl⟩⟩

/-- States and operands that meet the hypotheses of the clauses of `OtherAccessesHaveTheirOwnEffects`. -/
theorem witness_OtherAccessesHaveTheirOwnEffects :
    (∃ (p : Path) (s : State), s.mode ≠ .reset ∧ (∀ c q, p ≠ .eng c q)) ∧
    (∃ (c : Fin 32) (a : BitVec 24) (f : Fields) (s u v : State), s.mode ≠ .reset ∧ s.cfgAt c a.toNat false = some f ∧ v
      = s.useFree.accFault 3 (16 + c.val) a.toNat false ∧ u =
      ({ v with heldAccesses := v.heldAccesses.filter fun h => !(h.answer == Answer.engine && h.path == 16 + c.val) } :
      State).setG c f.d 0) ∧
    (∃ (p : Path) (w : BitVec 32) (s t : State), s.granted p .POLL_SUMMARY 0 0 w = true ∧ t = s.answered p (adr
      .POLL_SUMMARY) w (s.plainWrite (pathNum p) .POLL_SUMMARY 0 0 w)) ∧
    (∃ (p : Path) (c : Fin 32) (e : List Word) (rest : List (List Word)) (s : State), s.readable p .ECC_LOG_POP c 0 =
      true ∧ (s.chan c).log.entries = e :: rest) ∧
    (∃ (p : Path) (c : Fin 32) (s : State), s.readable p .ECC_LOG_POP c 0 = true ∧ (s.chan c).log.entries = []) :=
  ⟨⟨.fw .west, act, by decide +kernel⟩,
   ⟨3, BitVec.ofNat 24 ((prog 0x30 { f0 with imm := 0x20 }).cfgAddr 3 { f0 with imm := 0x20 }), { f0 with imm := 0x20 },
     prog 0x30 { f0 with imm := 0x20 }, _, _, by decide +kernel, (by decide +kernel), rfl, rfl⟩,
   ⟨.fw .west, 0#32, act, _, by decide +kernel, rfl⟩,
   ⟨.fw .west, 3, [], [], act.modChan 3 ({ · with log := ⟨[[]], 1⟩ }), by decide +kernel⟩,
   ⟨.fw .west, 3, act, by decide +kernel⟩⟩

/-- States and operands that meet the hypotheses of the clauses of `BringUpRunsItsSteps`. -/
theorem witness_BringUpRunsItsSteps :
    (∃ (e : BringUpEnv) (s u : State), s.mode = .reset ∧ s.pins.pwrok = true ∧ u =
      ({ s with pins := { s.pins with rstN := true } } : State).outOfReset e) ∧
    (∃ (e : BringUpEnv) (s u : State), s.mode = .reset ∧ s.pins.pwrok = true ∧ u =
      ({ s with pins := { s.pins with rstN := true } } : State).outOfReset e ∧ s.pins.refclk = true) ∧
    (∃ (e : BringUpEnv) (s u : State), s.mode = .reset ∧ s.pins.pwrok = true ∧ u =
      ({ s with pins := { s.pins with rstN := true } } : State).outOfReset e ∧ s.pins.refclk = false) ∧
    (∃ (e : BringUpEnv) (s : State), s.mode = .reset ∧ s.pins.pwrok = true ∧ s.pins.refclk = true ∧ e.stallAt = some 1) ∧
    (∃ (e : BringUpEnv) (s : State), s.mode = .reset ∧ s.pins.pwrok = true ∧ s.pins.refclk = true ∧ e.stallAt = some 2 ∧
      e.strapsAgree = true) ∧
    (∃ (s : State), s.pins.pwrok = false) ∧
    (∃ (k : Fin 13) (b : BringUp) (s : State), s.bringUp = some b ∧ s.mode = .bringUp ∧ b.waiting = k.val ∧ k.val ≠ 8) ∧
    (∃ (k : Fin 13) (b : BringUp) (s : State), s.bringUp = some b ∧ s.mode = .bringUp ∧ b.waiting = k.val ∧ k.val = 8) ∧
    (∃ (which : BitVec 32) (b : BringUp) (s u : State), s.bringUp = some b ∧ s.mode = .bringUp ∧ b.waiting = 8 ∧ u =
      s.each 12 (fun m t => if bitOf which.toNat m then t.trainDeadline m else t) ∧ u.bringUp = some b ∧ u.mode = .bringUp
      ∧ u.modulesSettled = true) :=
  ⟨⟨env0, { State.reset with pins := { State.reset.pins with pwrok := true } }, _, by decide +kernel,
     (by decide +kernel), rfl⟩,
   ⟨env0, { State.reset with pins := { State.reset.pins with pwrok := true } }, _, by decide +kernel,
     (by decide +kernel), rfl, by decide +kernel⟩,
   ⟨env0, { State.reset with pins := { State.reset.pins with pwrok := true, refclk := false } }, _, by decide +kernel,
     (by decide +kernel), rfl, by decide +kernel⟩,
   ⟨{ env0 with stallAt := some 1 }, { State.reset with pins := { State.reset.pins with pwrok := true } },
     by decide +kernel⟩,
   ⟨{ env0 with stallAt := some 2 }, { State.reset with pins := { State.reset.pins with pwrok := true } },
     by decide +kernel⟩,
   ⟨State.reset, by decide +kernel⟩,
   ⟨12, ⟨env0, 0, 12, 0, false⟩, { act with mode := .bringUp, bringUp := some ⟨env0, 0, 12, 0, false⟩ },
     by decide +kernel⟩,
   ⟨8, ⟨env0, 0, 8, 0, false⟩, { act with mode := .bringUp, bringUp := some ⟨env0, 0, 8, 0, false⟩ }, by decide +kernel⟩,
   ⟨0#32, ⟨env0, 0, 8, 0, false⟩, { act with mode := .bringUp, bringUp := some ⟨env0, 0, 8, 0, false⟩ }, _,
     by decide +kernel, (by decide +kernel), by decide +kernel, rfl, by decide +kernel⟩⟩

/-- States and operands that meet the hypotheses of the clauses of `ModeRequestsChangeTheMode`. -/
theorem witness_ModeRequestsChangeTheMode :
    (∃ (p : Path) (s : State), s.granted p .GLB_MODE 0 0 0x10000000#32 = true ∧ s.reqOk 1 = true) ∧
    (∃ (p : Path) (x : Nat × Nat) (s : State), s.granted p .GLB_MODE 0 0 0x20000000#32 = true ∧ s.reqOk 2 = true ∧
      s.context = some x) ∧
    (∃ (p : Path) (s : State), s.granted p .GLB_MODE 0 0 0x30000000#32 = true ∧ s.reqOk 3 = true ∧ s.mode = .selfRefresh) ∧
    (∃ (p : Path) (s : State), s.granted p .GLB_MODE 0 0 0x30000000#32 = true ∧ s.reqOk 3 = true ∧ s.mode =
      .deepRetention) ∧
    (∃ (p : Path) (s : State), s.granted p .GLB_MODE 0 0 0x30000000#32 = true ∧ s.reqOk 3 = true ∧ s.mode = .safe) ∧
    (∃ (p : Path) (s : State), s.granted p .GLB_MODE 0 0 0x40000000#32 = true ∧ s.reqOk 4 = true) ∧
    (∃ (p : Path) (s : State), s.granted p .GLB_MODE 0 0 0x50000000#32 = true ∧ s.reqOk 5 = true) ∧
    (∃ (p : Path) (s : State), s.granted p .GLB_MODE 0 0 0x20000000#32 = true ∧ s.reqOk 2 = true) ∧
    (∃ (p : Path) (s : State), s.granted p .GLB_MODE 0 0 0x30000000#32 = true ∧ s.reqOk 3 = true ∧ s.mode ≠
      .deepRetention) ∧
    (∃ (p : Path) (s : State), s.granted p .GLB_MODE 0 0 0x40000000#32 = true ∧ s.reqOk 4 = true ∧
      s.enterSelfRefresh.commitMram.bringUp = none) ∧
    (∃ (p : Path) (s u : State), s.granted p .GLB_MODE 0 0 0x50000000#32 = true ∧ s.reqOk 5 = true ∧ u =
      ({ s.commitMram.setFlag F.GLB_MODE_REQ_BUSY true with mode := .shutdownTest } : State) ∧ u.hasManager = false) ∧
    (∃ (p : Path) (s : State), s.granted p .GLB_MODE 0 0 0x10000000#32 = true ∧ s.reqOk 1 = false) ∧
    (∃ (p : Path) (s : State), s.granted p .GLB_MODE 0 0 0x20000000#32 = true ∧ s.reqOk 2 = false) ∧
    (∃ (p : Path) (s : State), s.granted p .GLB_MODE 0 0 0x30000000#32 = true ∧ s.reqOk 3 = false) ∧
    (∃ (p : Path) (s : State), s.granted p .GLB_MODE 0 0 0x40000000#32 = true ∧ s.reqOk 4 = false) ∧
    (∃ (p : Path) (s : State), s.granted p .GLB_MODE 0 0 0x50000000#32 = true ∧ s.reqOk 5 = false) :=
  ⟨⟨.fw .west, act, by decide +kernel⟩,
   ⟨.fw .west, (0, 31), act, by decide +kernel⟩,
   ⟨.fw .west, inMode .selfRefresh, by decide +kernel⟩,
   ⟨.sb 0, inMode .deepRetention, by decide +kernel⟩,
   ⟨.fw .west, inMode .safe, by decide +kernel⟩,
   ⟨.fw .west, act, by decide +kernel⟩,
   ⟨.fw .west, act, by decide +kernel⟩,
   ⟨.fw .west, act, by decide +kernel⟩,
   ⟨.fw .west, inMode .safe, by decide +kernel⟩,
   ⟨.fw .west, act, by decide +kernel⟩,
   ⟨.fw .west, act, _, by decide +kernel, (by decide +kernel), rfl, by decide +kernel⟩,
   ⟨.fw .west, inMode .safe, by decide +kernel⟩,
   ⟨.fw .west, inMode .safe, by decide +kernel⟩,
   ⟨.fw .west, act, by decide +kernel⟩,
   ⟨.fw .west, inMode .selfRefresh, by decide +kernel⟩,
   ⟨.fw .west, inMode .safe, by decide +kernel⟩⟩

/-- States and operands that meet the hypotheses of the clauses of `ChannelRequestsChangeTheState`. -/
theorem witness_ChannelRequestsChangeTheState :
    (∃ (p : Path) (c : Fin 32) (s : State), s.granted p .CH_STATE c 0 0x10000000#32 = true ∧ s.serves = true ∧ s.flag
      (F.CH_STATE_REQ_BUSY c) = false ∧ (s.chan c).st = .online) ∧
    (∃ (p : Path) (c : Fin 32) (s : State), s.granted p .CH_STATE c 0 0x20000000#32 = true ∧ s.serves = true ∧ s.flag
      (F.CH_STATE_REQ_BUSY c) = false ∧ ((s.chan c).st = .quiesced ∨ (s.chan c).st = .draining)) ∧
    (∃ (p : Path) (c : Fin 32) (s : State), s.granted p .CH_STATE c 0 0x30000000#32 = true ∧ s.mode = .active ∧ s.flag
      (F.CH_STATE_REQ_BUSY c) = false ∧ (s.chan c).st = .quiesced) ∧
    (∃ (p : Path) (c : Fin 32) (s : State), s.granted p .CH_STATE c 0 0x40000000#32 = true ∧ s.mode = .active ∧ s.flag
      (F.CH_STATE_REQ_BUSY c) = false ∧ (s.chan c).st = .quiesced) ∧
    (∃ (p : Path) (c : Fin 32) (s : State), s.granted p .CH_STATE c 0 0x50000000#32 = true ∧ s.mode = .active ∧ s.flag
      (F.CH_STATE_REQ_BUSY c) = false ∧ (s.chan c).st = .offline ∧ s.recoverable c = true) ∧
    (∃ (p : Path) (c : Fin 32) (s : State), s.granted p .CH_STATE c 0 0x60000000#32 = true ∧ s.mode = .active ∧ s.flag
      (F.CH_STATE_REQ_BUSY c) = false ∧ ((s.chan c).st = .quiesced ∨ (s.chan c).st = .offline) ∧ s.ledgerTakes 5 (targetOf
      c 0 0 0) = true) ∧
    (∃ (p : Path) (c : Fin 32) (s : State), s.granted p .CH_STATE c 0 0x10000000#32 = true ∧ (s.serves = false ∨ s.flag
      (F.CH_STATE_REQ_BUSY c) = true ∨ (s.chan c).st ≠ .online)) ∧
    (∃ (p : Path) (c : Fin 32) (s : State), s.granted p .CH_STATE c 0 0x40000000#32 = true ∧ (s.mode ≠ .active ∨ s.flag
      (F.CH_STATE_REQ_BUSY c) = true ∨ (s.chan c).st ≠ .quiesced)) ∧
    (∃ (p : Path) (c : Fin 32) (s : State), s.granted p .CH_STATE c 0 0x50000000#32 = true ∧ (s.mode ≠ .active ∨ s.flag
      (F.CH_STATE_REQ_BUSY c) = true ∨ (s.chan c).st ≠ .offline ∨ s.recoverable c = false)) ∧
    (∃ (s : State) (c : Fin 32), (s.chan c).st ≠ .retired ∧ (s.chan c).st ≠ .offline) ∧
    (∃ (s : State) (c : Fin 32), (s.dieReset.map fun r => r.die / 4) ≠ some (c.val / 8)) ∧
    (∃ (s : State) (c : Fin 32), (s.dieReset.map fun r => r.die / 4) = some (c.val / 8)) :=
  ⟨⟨.fw .west, 3, act, by decide +kernel⟩,
   ⟨.fw .west, 3, inState .draining, by decide +kernel⟩,
   ⟨.fw .west, 3, inState .quiesced, by decide +kernel⟩,
   ⟨.fw .west, 3, inState .quiesced, by decide +kernel⟩,
   ⟨.fw .west, 3, inState .offline, by decide +kernel⟩,
   ⟨.fw .west, 3, inState .offline, by decide +kernel⟩,
   ⟨.fw .west, 3, inState .retired, by decide +kernel⟩,
   ⟨.fw .west, 3, inState .offline, by decide +kernel⟩,
   ⟨.fw .west, 3, inState .retired, by decide +kernel⟩,
   ⟨act, 3, by decide +kernel⟩,
   ⟨act, 3, by decide +kernel⟩,
   ⟨{ act with dieReset := some ⟨1, 2⟩ }, 3, by decide +kernel⟩⟩

/-- States and operands that meet the hypotheses of the clauses of `ChannelsDrainAndLetGo`. -/
theorem witness_ChannelsDrainAndLetGo :
    (∃ (c : Fin 32) (s : State), (s.chan c).st = .draining ∧ s.drained c = true ∧ (s.chan c).vpt.drift = false) ∧
    (∃ (c : Fin 32) (s : State), (s.chan c).st = .draining ∧ s.drained c = true ∧ (s.chan c).vpt.drift = true) ∧
    (∃ (m : Fin 12) (tag : BitVec 14) (t : Txn) (since : Nat) (s : State), s.findTxn m tag.toNat = some t ∧ t.stage =
      .held since) ∧
    (∃ (c : Fin 32) (t0 : Nat) (s : State), (s.chan c).st = .draining ∧ (s.chan c).drainAt = some t0 ∧ (s.chan
      c).eng.busy = true) :=
  ⟨⟨3, inState .draining, by decide +kernel⟩,
   ⟨3, (inState .draining).modChan 3 fun x => { x with vpt := { x.vpt with drift := true } }, by decide +kernel⟩,
   ⟨3, 5, txn .rd (.held 900000), 900000, with1 (txn .rd (.held 900000)), by decide +kernel⟩,
   ⟨3, 900000, ((inState .draining).modChan 3 ({ · with drainAt := some 900000 })).modEng 3
     ({ · with phase := .running }), by decide +kernel⟩⟩

/-- States and operands that meet the hypotheses of the clauses of `WritesToMramEnd`. -/
theorem witness_WritesToMramEnd :
    (∃ (j : LedgerJob) (rest : List LedgerJob) (s t : State), s.mramRuns = true ∧ s.mram.ledgerJobs = j :: rest ∧
      ({ s with mram := { s.mram with ledgerJobs := rest } } : State).ledgerPut j = some t) ∧
    (∃ (j : LedgerJob) (rest : List LedgerJob) (s : State), s.mramRuns = true ∧ s.mram.ledgerJobs = j :: rest) ∧
    (∃ (e : Words) (rest : List Words) (s t : State), s.mramRuns = true ∧ s.mram.auditWait = e :: rest ∧ s.fld
      F.LC_AUD_STS_NEXT ≠ 511 ∧ t =
      ({ s with mram := { s.mram with auditWait := rest, audit := s.mram.audit.set (fun _ => []) (s.fld F.LC_AUD_STS_NEXT) e } }
      : State)) ∧
    (∃ (e : Words) (rest : List Words) (s : State), s.mramRuns = true ∧ s.mram.auditWait = e :: rest) ∧
    (∃ (l : Store Word) (s : State), s.mramRuns = true ∧ s.mram.summaryWrite = some l) ∧
    (∃ (l : Store Word) (s : State), s.mramRuns = true ∧ s.mram.wearWrite = some l) ∧
    (∃ (f : Fatal) (s t : State), s.coll.fatal = some f ∧ f.writing = true ∧ t =
      ({ s with coll := { s.coll with fatal := some { f with writing := false, summary := s.summaryBytes f } } } : State)) ∧
    (∃ (s : State), s.mramRuns = false) ∧
    (∃ (s : State) (c : Fin 32) (t : State), t = s.setFlag (F.CH_STATE_REQ_BUSY c) false) ∧
    (∃ (s : State) (c : Fin 32) (t : State), t = s.setFlag (F.CH_STATE_REQ_BUSY c) false ∧ ((t.chan c).st = .quiesced ∨
      (t.chan c).st = .offline)) :=
  ⟨⟨⟨2, 1, 0, 0, .conductor⟩, [], { act with mram := { act.mram with ledgerJobs := [⟨2, 1, 0, 0, .conductor⟩] } }, _,
     by decide +kernel, (by decide +kernel), (Option.some_get (show Option.isSome _ = true by decide +kernel)).symm⟩,
   ⟨⟨2, 1, 0, 0, .conductor⟩, [], { act with mram := { act.mram with ledgerJobs := [⟨2, 1, 0, 0, .conductor⟩] } },
     by decide +kernel⟩,
   ⟨[7], [], { act with mram := { act.mram with auditWait := [[7]] } }, _, by decide +kernel, (by decide +kernel),
     by decide +kernel, rfl⟩,
   ⟨[7], [], { act with mram := { act.mram with auditWait := [[7]] } }, by decide +kernel⟩,
   ⟨[], { act with mram := { act.mram with summaryWrite := some [] } }, by decide +kernel⟩,
   ⟨[], { act with mram := { act.mram with wearWrite := some [] } }, by decide +kernel⟩,
   ⟨⟨.active, false, 0, 0, 0, true, []⟩,
     { act with coll := { act.coll with fatal := some ⟨.active, false, 0, 0, 0, true, []⟩ } }, _, by decide +kernel,
     (by decide +kernel), rfl⟩,
   ⟨State.reset, by decide +kernel⟩,
   ⟨act, 3, _, rfl⟩,
   ⟨inState .quiesced, 3, _, rfl, by decide +kernel⟩⟩

/-- States and operands that meet the hypotheses of the clauses of `SidebandsComeUpAndGoDown`. -/
theorem witness_SidebandsComeUpAndGoDown :
    (∃ (m : Fin 12) (s : State), (s.mod m).stage = .sbDetect) ∧
    (∃ (m : Fin 12) (s : State), (s.mod m).stage = .sbDetect ∧ s.flag (F.UCI_STS_EXCLUDED m) = false ∧ s.bringUp = none) ∧
    (∃ (m : Fin 12) (s : State), (s.mod m).sbUp = true ∧ s.flag (F.UCI_STS_EXCLUDED m) = false) ∧
    (∃ (m : Nat) (s : State), s.primary = some m ∧ (s.mod m).sbUp = false) ∧
    (∃ (m : Fin 12) (s : State), s.mode ≠ .reset ∧ (s.mod m).sbUp = true) ∧
    (∃ (m : Fin 12) (s : State), s.mode ≠ .reset ∧ (s.mod m).sbUp = true ∧ s.sbHeld m < 4) ∧
    (∃ (m : Fin 12) (s : State), s.mode ≠ .reset ∧ (s.mod m).sbUp = true ∧ 4 ≤ s.sbHeld m) ∧
    (∃ (m : Fin 12) (d : BitVec 64) (r : Reg) (u i : Nat) (w : BitVec 32) (s : State), plainReg r = true ∧ 4 * bitsOf
      d.toNat 31 10 = adr r u i ∧ w = BitVec.ofNat 32 (bitsOf d.toNat 63 32) ∧ s.granted (.sb m) r u i w = true ∧ s.sbHeld
      m < 4) ∧
    (∃ (m : Fin 12) (d : BitVec 64) (r : Reg) (u i : Nat) (s : State), plainReg r = true ∧ 4 * bitsOf d.toNat 31 10 = adr
      r u i ∧ s.readable (.sb m) r u i = true ∧ s.sbHeld m < 4) :=
  ⟨⟨3, inStage .sbDetect, by decide +kernel⟩,
   ⟨3, inStage .sbDetect, by decide +kernel⟩,
   ⟨3, act, by decide +kernel⟩,
   ⟨0, act.modMod 0 ({ · with sbUp := false }), by decide +kernel⟩,
   ⟨3, act, by decide +kernel⟩,
   ⟨3, act, by decide +kernel⟩,
   ⟨3, { act with heldAccesses := (List.range 4).map fun k => ⟨3, 0, true, .sideband 3 k, 36⟩ }, by decide +kernel⟩,
   ⟨0, BitVec.ofNat 64 (256 * adr .QOS_THROTTLE), .QOS_THROTTLE, 0, 0, _, act, by decide +kernel, (by decide +kernel),
     rfl, by decide +kernel⟩,
   ⟨0, BitVec.ofNat 64 (256 * adr .QOS_THROTTLE), .QOS_THROTTLE, 0, 0, act, by decide +kernel⟩⟩

/-- States and operands that meet the hypotheses of the clauses of `MainbandsTrain`. -/
theorem witness_MainbandsTrain :
    (∃ (m : Fin 12) (s : State), ((s.mod m).stage = .mbInit ∨ (s.mod m).stage = .mbTrain) ∧ s.fld (F.UCI_STS_ATTEMPTS m)
      < 4) ∧
    (∃ (m : Fin 12) (s : State), ((s.mod m).stage = .mbInit ∨ (s.mod m).stage = .mbTrain) ∧ 4 ≤ s.fld (F.UCI_STS_ATTEMPTS
      m) ∧ s.looping m = false) ∧
    (∃ (m : Fin 12) (s : State), ((s.mod m).stage = .mbInit ∨ (s.mod m).stage = .mbTrain) ∧ 4 ≤ s.fld (F.UCI_STS_ATTEMPTS
      m) ∧ s.looping m = true) ∧
    (∃ (m : Fin 12) (s : State), (s.mod m).stage = .mbInit ∧ (s.mod m).lpbk = none) ∧
    (∃ (m : Fin 12) (e : LinkEnv) (r : BitVec 2) (s : State), (s.mod m).stage = .mbTrain ∧ (s.mod m).lpbk = none ∧
      repairExhausted e = false ∧ e.passes = some r ∧ s.fld (F.UCI_STS_RATE m) ≤ r.toNat) ∧
    (∃ (m : Fin 12) (e : LinkEnv) (r : BitVec 2) (r0 : Nat) (s : State), (s.mod m).stage = .mbTrain ∧ (s.mod m).lpbk =
      none ∧ repairExhausted e = false ∧ e.passes = some r ∧ e.lateSet = none ∧ r0 = s.fld (F.UCI_STS_RATE m) ∧ r.toNat <
      r0) ∧
    (∃ (m : Fin 12) (e : LinkEnv) (s : State), (s.mod m).stage = .mbTrain ∧ (s.mod m).lpbk = none ∧ repairExhausted e =
      true) ∧
    (∃ (m : Fin 12) (e : LinkEnv) (r0 : Nat) (s : State), (s.mod m).stage = .mbTrain ∧ (s.mod m).lpbk = none ∧
      repairExhausted e = false ∧ e.passes = none ∧ e.lateSet = none ∧ r0 = s.fld (F.UCI_STS_RATE m) ∧ 0 < r0) ∧
    (∃ (m : Fin 12) (e : LinkEnv) (s : State), (s.mod m).stage = .locked ∧ e.offers = true) ∧
    (∃ (m : Fin 12) (e : LinkEnv) (s : State), (s.mod m).stage = .locked ∧ e.offers = false) ∧
    (∃ (m : Fin 12) (s : State), (s.mod m).stage = .trainError) ∧
    (∃ (m : Fin 12) (b : BringUp) (s : State), s.bringUp = some b ∧ 7 ≤ b.waiting ∧ (s.mod m).stage ≠ .active ∧ (s.mod
      m).stage ≠ .retrain ∧ (s.mod m).stage ≠ .drain ∧ (s.mod m).stage ≠ .l1 ∧ s.flag (F.UCI_STS_EXCLUDED m) = false ∧
      bitOf s.part.usable m = true) ∧
    (∃ (m : Fin 12) (d : BitVec 64) (s : State), (s.mod m).stage = .capExchange ∧ bitsOf d.toNat 7 4 = 1) ∧
    (∃ (m : Fin 12) (d : BitVec 64) (s : State), (s.mod m).stage = .capExchange ∧ bitsOf d.toNat 7 4 ≠ 1) ∧
    (∃ (m : Fin 12) (s : State), (s.mod m).stage = .capExchange) ∧
    (∃ (m : Fin 12) (s : State), (s.mod m).stage = .l1) :=
  ⟨⟨3, (inStage .mbTrain).setFld (F.UCI_STS_ATTEMPTS 3) 3, by decide +kernel⟩,
   ⟨3, (inStage .mbTrain).setFld (F.UCI_STS_ATTEMPTS 3) 4, by decide +kernel⟩,
   ⟨3, (act.modMod 3 ({ · with stage := .mbTrain, lpbk := some ⟨3, 1, false⟩ })).setFld (F.UCI_STS_ATTEMPTS 3) 4,
     by decide +kernel⟩,
   ⟨3, (act.modMod 3 ({ · with stage := .mbInit })), by decide +kernel⟩,
   ⟨3, link0, 3, (act.modMod 3 ({ · with stage := .mbTrain })).setFld (F.UCI_STS_RATE 3) 3, by decide +kernel⟩,
   ⟨3, { link0 with passes := some 1 }, 1, _, (act.modMod 3 ({ · with stage := .mbTrain })).setFld (F.UCI_STS_RATE 3) 3,
     by decide +kernel, (by decide +kernel), by decide +kernel, (by decide +kernel), by decide +kernel, rfl,
     by decide +kernel⟩,
   ⟨3, { link0 with lanesTx := 0xFFFFFFFFFFFFFFFF }, (act.modMod 3 ({ · with stage := .mbTrain })), by decide +kernel⟩,
   ⟨3, { link0 with passes := none }, _, (act.modMod 3 ({ · with stage := .mbTrain })).setFld (F.UCI_STS_RATE 3) 3,
     by decide +kernel, (by decide +kernel), by decide +kernel, (by decide +kernel), by decide +kernel, rfl,
     by decide +kernel⟩,
   ⟨3, link0, (act.modMod 3 ({ · with stage := .locked })), by decide +kernel⟩,
   ⟨3, { link0 with offers := false }, (act.modMod 3 ({ · with stage := .locked })), by decide +kernel⟩,
   ⟨3, inStage .trainError, by decide +kernel⟩,
   ⟨3, ⟨env0, 0, 7, 0, false⟩, { inStage .mbTrain with bringUp := some ⟨env0, 0, 7, 0, false⟩ }, by decide +kernel⟩,
   ⟨3, 0x10#64, inStage .capExchange, by decide +kernel⟩,
   ⟨3, 0x20#64, inStage .capExchange, by decide +kernel⟩,
   ⟨3, inStage .capExchange, by decide +kernel⟩,
   ⟨3, inStage .l1, by decide +kernel⟩⟩

/-- States and operands that meet the hypotheses of the clauses of `LinksRetrainAndEqualise`. -/
theorem witness_LinksRetrainAndEqualise :
    (∃ (m : Fin 12) (d : BitVec 64) (s : State), (s.mod m).sbUp = true ∧ (s.mod m).stage = .mbTrain ∧ 2 ≤ s.fld
      (F.UCI_STS_RATE m) ∧ s.flag (F.UCI_CTL_EQ_AUTO m) = true ∧ bitsOf d.toNat 15 8 ≤ 4 ∧ bitsOf d.toNat 7 0 ≤ 8) ∧
    (∃ (m : Fin 12) (d : BitVec 64) (s : State), (s.mod m).sbUp = true ∧ ((s.mod m).stage ≠ .mbTrain ∨ s.fld
      (F.UCI_STS_RATE m) < 2 ∨ s.flag (F.UCI_CTL_EQ_AUTO m) = false ∨ 4 < bitsOf d.toNat 15 8 ∨ 8 < bitsOf d.toNat 7 0)) ∧
    (∃ (m : Fin 12) (s : State), (s.mod m).sbUp = true) ∧
    (∃ (m : Fin 12) (s : State), (s.mod m).stage = .active) ∧
    (∃ (m : Fin 12) (n : Nat) (s t : State), (s.mod m).stage = .drain ∧ n = (if (s.mod m).crcWin = s.timeBase.toNat /
      1000000 then (s.mod m).crcCount + 1 else 1) ∧ t = (((s.bump (F.UCI_LINK_CNT_CRC_ERR m)).countGl 11 1 (some
      m.val)).modMod m fun x => { x with crcWin := s.timeBase.toNat / 1000000, crcCount := n })) ∧
    (∃ (m : Fin 12) (n : Nat) (s t : State), (s.mod m).stage = .active ∧ n = (if (s.mod m).crcWin = s.timeBase.toNat /
      1000000 then (s.mod m).crcCount + 1 else 1) ∧ t = (((s.bump (F.UCI_LINK_CNT_CRC_ERR m)).countGl 11 1 (some
      m.val)).modMod m fun x => { x with crcWin := s.timeBase.toNat / 1000000, crcCount := n })) ∧
    (∃ (m : Fin 12) (e : LinkEnv) (r : BitVec 2) (s : State), (s.mod m).stage = .retrain ∧ repairExhausted e = false ∧
      e.passes = some r ∧ s.fld (F.UCI_STS_RATE m) ≤ e.partnerMax.toNat ∧ s.fld (F.UCI_STS_RATE m) ≤ r.toNat) ∧
    (∃ (m : Fin 12) (e : LinkEnv) (r : BitVec 2) (r0 : Nat) (s : State), (s.mod m).stage = .retrain ∧ repairExhausted e =
      false ∧ e.passes = some r ∧ s.fld (F.UCI_STS_RATE m) ≤ e.partnerMax.toNat ∧ e.lateSet = none ∧ r0 = s.fld
      (F.UCI_STS_RATE m) ∧ r.toNat < r0) ∧
    (∃ (m : Fin 12) (e : LinkEnv) (r0 : Nat) (s : State), (s.mod m).stage = .retrain ∧ repairExhausted e = false ∧
      e.passes = none ∧ s.fld (F.UCI_STS_RATE m) ≤ e.partnerMax.toNat ∧ e.lateSet = none ∧ r0 = s.fld (F.UCI_STS_RATE m) ∧
      0 < r0) ∧
    (∃ (m : Fin 12) (e : LinkEnv) (s : State), (s.mod m).stage = .retrain ∧ repairExhausted e = true) ∧
    (∃ (m : Fin 12) (s : State), (s.mod m).stage = .retrain ∧ s.fld (F.UCI_STS_RATE m) = 0) ∧
    (∃ (m : Fin 12) (r : Nat) (s : State), (s.mod m).stage = .retrain ∧ s.fld (F.UCI_STS_RATE m) = r + 1) :=
  ⟨⟨3, 0x408#64, ((inStage .mbTrain).setFld (F.UCI_STS_RATE 3) 2).setFlag (F.UCI_CTL_EQ_AUTO 3) true, by decide +kernel⟩,
   ⟨3, 0#64, act, by decide +kernel⟩,
   ⟨3, act, by decide +kernel⟩,
   ⟨3, act, by decide +kernel⟩,
   ⟨3, _, (act.modMod 3 ({ · with stage := .drain })), _, by decide +kernel, rfl, rfl⟩,
   ⟨3, _, act, _, by decide +kernel, rfl, rfl⟩,
   ⟨3, link0, 3, inStage .retrain, by decide +kernel⟩,
   ⟨3, { link0 with passes := some 1 }, 1, _, (act.modMod 3 ({ · with stage := .retrain })).setFld (F.UCI_STS_RATE 3) 3,
     by decide +kernel, (by decide +kernel), by decide +kernel, (by decide +kernel), by decide +kernel, rfl,
     by decide +kernel⟩,
   ⟨3, { link0 with passes := none }, _, (act.modMod 3 ({ · with stage := .retrain })).setFld (F.UCI_STS_RATE 3) 3,
     by decide +kernel, (by decide +kernel), by decide +kernel, (by decide +kernel), by decide +kernel, rfl,
     by decide +kernel⟩,
   ⟨3, { link0 with lanesTx := 0xFFFFFFFFFFFFFFFF }, inStage .retrain, by decide +kernel⟩,
   ⟨3, inStage .retrain, by decide +kernel⟩,
   ⟨3, 0, (inStage .retrain).setFld (F.UCI_STS_RATE 3) 1, by decide +kernel⟩⟩

/-- States and operands that meet the hypotheses of the clauses of `ModuleActionsAreTaken`. -/
theorem witness_ModuleActionsAreTaken :
    (∃ (p : Path) (m : Fin 12) (w v : Word) (s : State), v = withBits w 31 26 32 ∧ s.granted p .UCI_CTL m 0 v = true ∧
      (bitsOf v.toNat 1 0 ≠ 3 ∨ s.part.maxRate = 3) ∧ (s.mod m).stage = .active) ∧
    (∃ (p : Path) (m : Fin 12) (w v : Word) (s : State), v = withBits w 31 26 16 ∧ s.granted p .UCI_CTL m 0 v = true ∧
      (bitsOf v.toNat 1 0 ≠ 3 ∨ s.part.maxRate = 3)) ∧
    (∃ (p : Path) (m : Fin 12) (w v : Word) (s : State), v = withBits w 31 26 8 ∧ s.granted p .UCI_CTL m 0 v = true ∧
      (bitsOf v.toNat 1 0 ≠ 3 ∨ s.part.maxRate = 3) ∧ (s.mod m).sbUp = true) ∧
    (∃ (p : Path) (m : Fin 12) (w v : Word) (s : State), v = withBits w 31 26 4 ∧ s.granted p .UCI_CTL m 0 v = true ∧
      (bitsOf v.toNat 1 0 ≠ 3 ∨ s.part.maxRate = 3) ∧ s.flag (F.UCI_STS_EXCLUDED m) = false ∧ (s.mod m).stage ≠ .drain) ∧
    (∃ (p : Path) (m : Fin 12) (w v : Word) (s : State), v = withBits w 31 26 2 ∧ s.granted p .UCI_CTL m 0 v = true ∧
      (bitsOf v.toNat 1 0 ≠ 3 ∨ s.part.maxRate = 3) ∧ s.flag (F.UCI_STS_EXCLUDED m) = false ∧ (s.mod m).stage ≠ .drain) ∧
    (∃ (p : Path) (m : Fin 12) (w v : Word) (s : State), v = withBits w 31 26 1 ∧ s.granted p .UCI_CTL m 0 v = true ∧
      (bitsOf v.toNat 1 0 ≠ 3 ∨ s.part.maxRate = 3) ∧ s.flag (F.UCI_STS_EXCLUDED m) = true ∧ (s.mod m).stage = .excluded ∧
      s.looping m = false) ∧
    (∃ (p : Path) (m : Fin 12) (w v : Word) (s : State), v = withBits w 31 26 32 ∧ s.granted p .UCI_CTL m 0 v = true ∧
      (s.mod m).stage ≠ .active) ∧
    (∃ (p : Path) (m : Fin 12) (w v : Word) (s : State), v = withBits w 31 26 4 ∧ s.granted p .UCI_CTL m 0 v = true ∧
      (s.flag (F.UCI_STS_EXCLUDED m) = true ∨ (s.mod m).stage = .drain)) ∧
    (∃ (m : Fin 12) (s : State), (s.mod m).stage = .drain ∧ s.drainDone m = true) ∧
    (∃ (m : Fin 12) (s : State), (s.mod m).stage = .drain) ∧
    (∃ (k : Nat), k < 16) ∧
    (∃ (s : State), (s.heldAccesses.any fun h => some h.path == s.primary) = false) ∧
    (∃ (s : State), (s.heldAccesses.any fun h => some h.path == s.primary) = true) :=
  ⟨⟨.fw .west, 3, BitVec.ofNat 32 (fieldsReset Reg.UCI_CTL.fields), _, act, rfl, by decide +kernel⟩,
   ⟨.fw .west, 3, BitVec.ofNat 32 (fieldsReset Reg.UCI_CTL.fields), _, act, rfl, by decide +kernel⟩,
   ⟨.fw .west, 3, BitVec.ofNat 32 (fieldsReset Reg.UCI_CTL.fields), _, act, rfl, by decide +kernel⟩,
   ⟨.fw .west, 3, BitVec.ofNat 32 (fieldsReset Reg.UCI_CTL.fields), _, act, rfl, by decide +kernel⟩,
   ⟨.fw .west, 3, BitVec.ofNat 32 (fieldsReset Reg.UCI_CTL.fields), _, act, rfl, by decide +kernel⟩,
   ⟨.fw .west, 3, BitVec.ofNat 32 (fieldsReset Reg.UCI_CTL.fields), _, (inStage .excluded).setFlag (F.UCI_STS_EXCLUDED
     3) true, rfl, by decide +kernel⟩,
   ⟨.fw .west, 3, BitVec.ofNat 32 (fieldsReset Reg.UCI_CTL.fields), _, inStage .mbTrain, rfl, by decide +kernel⟩,
   ⟨.fw .west, 3, BitVec.ofNat 32 (fieldsReset Reg.UCI_CTL.fields), _, (inStage .excluded).setFlag (F.UCI_STS_EXCLUDED
     3) true, rfl, by decide +kernel⟩,
   ⟨3, inStage .drain, by decide +kernel⟩,
   ⟨3, inStage .drain, by decide +kernel⟩,
   ⟨0, by decide +kernel⟩,
   ⟨act, by decide +kernel⟩,
   ⟨{ act with heldAccesses := [⟨0, 0, true, .engine, 36⟩] }, by decide +kernel⟩⟩

/-- States and operands that meet the hypotheses of the clauses of `LoopbacksRun`. -/
theorem witness_LoopbacksRun :
    (∃ (m : Fin 12) (d : BitVec 64) (s : State), (s.mod m).sbUp = true ∧ bitOf d.toNat 14 = true ∧ (s.mod m).stage =
      .excluded) ∧
    (∃ (m : Fin 12) (d : BitVec 64) (s : State), (s.mod m).sbUp = true ∧ bitOf d.toNat 14 = true ∧ (s.mod m).stage ≠
      .excluded) ∧
    (∃ (m : Fin 12) (d : BitVec 64) (s : State), (s.mod m).sbUp = true ∧ bitOf d.toNat 14 = false ∧ s.looping m = true) ∧
    (∃ (m : Fin 12) (l : Lpbk) (s : State), (s.mod m).stage = .loopback ∧ (s.mod m).lpbk = some l ∧ l.waiting = true) ∧
    (∃ (m : Fin 12) (st : BitVec 4) (l : Lpbk) (s : State), (s.mod m).stage = .loopback ∧ (s.mod m).lpbk = some l ∧
      l.waiting = true ∧ st ≠ 0) ∧
    (∃ (p : Path) (m : Fin 12) (w v : Word) (s : State), v = withBits w 31 30 2 ∧ s.granted p .UCI_LPBK_CTL m 0 v = true
      ∧ bitsOf v.toNat 5 4 ≤ s.part.maxRate ∧ (s.mod m).stage = .excluded ∧ bitsOf v.toNat 1 0 < 2) ∧
    (∃ (p : Path) (m : Fin 12) (w v : Word) (s : State), v = withBits w 31 30 2 ∧ s.granted p .UCI_LPBK_CTL m 0 v = true
      ∧ bitsOf v.toNat 5 4 ≤ s.part.maxRate ∧ (s.mod m).stage = .excluded ∧ 2 ≤ bitsOf v.toNat 1 0) ∧
    (∃ (m : Fin 12) (l : Lpbk) (s : State), (s.mod m).stage = .mbInit ∧ (s.mod m).lpbk = some l) ∧
    (∃ (m : Fin 12) (e : LinkEnv) (l : Lpbk) (s : State), (s.mod m).stage = .mbTrain ∧ (s.mod m).lpbk = some l ∧
      repairExhausted e = true) ∧
    (∃ (m : Fin 12) (e : LinkEnv) (l : Lpbk) (s : State), (s.mod m).stage = .mbTrain ∧ (s.mod m).lpbk = some l ∧
      repairExhausted e = false ∧ (∀ r, e.passes = some r → r.toNat < l.rate)) ∧
    (∃ (m : Fin 12) (e : LinkEnv) (l : Lpbk) (r : BitVec 2) (s : State), (s.mod m).stage = .mbTrain ∧ (s.mod m).lpbk =
      some l ∧ repairExhausted e = false ∧ e.passes = some r ∧ l.rate ≤ r.toNat ∧ l.mode ≠ 2) ∧
    (∃ (m : Fin 12) (e : LinkEnv) (l : Lpbk) (r : BitVec 2) (s u : State), (s.mod m).stage = .mbTrain ∧ (s.mod m).lpbk =
      some l ∧ repairExhausted e = false ∧ e.passes = some r ∧ l.rate ≤ r.toNat ∧ l.mode = 2 ∧ u = (((s.recordRepairs m
      e).setStage m .loopback).modMod m fun x => { x with lpbk := some { l with waiting := true } })) ∧
    (∃ (p : Path) (m : Fin 12) (w v : Word) (s : State), v = withBits w 31 30 2 ∧ s.granted p .UCI_LPBK_CTL m 0 v = true
      ∧ (s.part.maxRate < bitsOf v.toNat 5 4 ∨ (s.mod m).stage ≠ .excluded)) ∧
    (∃ (p : Path) (m : Fin 12) (w v : Word) (l : Lpbk) (s : State), v = withBits w 31 30 1 ∧ s.granted p .UCI_LPBK_CTL m
      0 v = true ∧ bitsOf v.toNat 5 4 ≤ s.part.maxRate ∧ (s.mod m).lpbk = some l) ∧
    (∃ (m : Fin 12) (l : Lpbk) (s : State), (s.mod m).stage = .loopback ∧ (s.mod m).lpbk = some l ∧ l.waiting = false) ∧
    (∃ (s : State) (m : Fin 12) (l : Lpbk), (s.mod m).lpbk = some l) ∧
    (∃ (s : State) (m : Fin 12), s.lpbkRuns m = false) :=
  ⟨⟨3, 0x4030#64, (inStage .excluded).setFlag (F.UCI_STS_EXCLUDED 3) true, by decide +kernel⟩,
   ⟨3, 0x4000#64, act, by decide +kernel⟩,
   ⟨3, 0#64, act.modMod 3 ({ · with lpbk := some ⟨3, 1, true⟩, stage := .excluded }), by decide +kernel⟩,
   ⟨3, ⟨3, 1, true⟩, (act.modMod 3 ({ · with stage := .loopback, lpbk := some ⟨3, 1, true⟩ })), by decide +kernel⟩,
   ⟨3, 1, ⟨3, 1, true⟩, (act.modMod 3 ({ · with stage := .loopback, lpbk := some ⟨3, 1, true⟩ })), by decide +kernel⟩,
   ⟨.fw .west, 3, BitVec.ofNat 32 (fieldsReset Reg.UCI_LPBK_CTL.fields), _, (inStage .excluded).setFlag
     (F.UCI_STS_EXCLUDED 3) true, rfl, by decide +kernel⟩,
   ⟨.fw .west, 3, BitVec.ofNat 32 (fieldsReset Reg.UCI_LPBK_CTL.fields + 0x32), _, (inStage .excluded).setFlag
     (F.UCI_STS_EXCLUDED 3) true, rfl, by decide +kernel⟩,
   ⟨3, ⟨3, 1, false⟩, (act.modMod 3 ({ · with stage := .mbInit, lpbk := some ⟨3, 1, false⟩ })), by decide +kernel⟩,
   ⟨3, { link0 with lanesTx := 0xFFFFFFFFFFFFFFFF }, ⟨3, 1, false⟩, (act.modMod 3
     ({ · with stage := .mbTrain, lpbk := some ⟨3, 1, false⟩ })), by decide +kernel⟩,
   ⟨3, { link0 with passes := none }, ⟨3, 1, false⟩, (act.modMod 3
     ({ · with stage := .mbTrain, lpbk := some ⟨3, 1, false⟩ })), by decide +kernel, (by decide +kernel),
     by decide +kernel, (fun r h => absurd h (by simp))⟩,
   ⟨3, link0, ⟨3, 1, false⟩, 3, (act.modMod 3 ({ · with stage := .mbTrain, lpbk := some ⟨3, 1, false⟩ })),
     by decide +kernel⟩,
   ⟨3, link0, ⟨2, 1, false⟩, 3, (act.modMod 3 ({ · with stage := .mbTrain, lpbk := some ⟨2, 1, false⟩ })), _,
     by decide +kernel, (by decide +kernel), by decide +kernel, (by decide +kernel), by decide +kernel,
     (by decide +kernel), rfl⟩,
   ⟨.fw .west, 3, BitVec.ofNat 32 (fieldsReset Reg.UCI_LPBK_CTL.fields), _, act, rfl, by decide +kernel⟩,
   ⟨.fw .west, 3, BitVec.ofNat 32 (fieldsReset Reg.UCI_LPBK_CTL.fields), _, ⟨3, 1, false⟩, act.modMod 3
     ({ · with lpbk := some ⟨3, 1, false⟩, stage := .excluded }), rfl, by decide +kernel⟩,
   ⟨3, ⟨3, 1, false⟩, (act.modMod 3 ({ · with stage := .loopback, lpbk := some ⟨3, 1, false⟩ })), by decide +kernel⟩,
   ⟨(act.modMod 3 ({ · with stage := .loopback, lpbk := some ⟨3, 1, false⟩ })), 3, ⟨3, 1, false⟩, by decide +kernel⟩,
   ⟨act, 3, by decide +kernel⟩⟩

/-- States and operands that meet the hypotheses of the clauses of `RequestsTakeTheirEntries`. -/
theorem witness_RequestsTakeTheirEntries :
    (∃ (m : Fin 12) (cell : Fin 15) (h : BitVec 128) (t : Txn) (s : State), s.takesReq m cell 1 0x21 h.toNat = true ∧ t =
      (s.afterReq m cell 1).headerTxn m .rd h.toNat 0 0 ∧ ((s.afterReq m cell 1).tagRequest t).admits t ((s.afterReq m
      cell 1).privTaken m h.toNat) = true) ∧
    (∃ (m : Fin 12) (cell : Fin 15) (h : BitVec 128) (d : BitVec 512) (t : Txn) (s : State), s.takesReq m cell 5 0x22
      h.toNat = true ∧ t = (s.afterReq m cell 5).headerTxn m .wr h.toNat d (BitVec.allOnes 64) ∧ ((s.afterReq m cell
      5).tagRequest t).admits t ((s.afterReq m cell 5).privTaken m h.toNat) = true) ∧
    (∃ (m : Fin 12) (cell : Fin 15) (h : BitVec 128) (d : BitVec 512) (be : BitVec 64) (t : Txn) (s : State), s.takesReq
      m cell 6 0x23 h.toNat = true ∧ t = (s.afterReq m cell 6).headerTxn m .wrPart h.toNat d be ∧ ((s.afterReq m cell
      6).tagRequest t).admits t ((s.afterReq m cell 6).privTaken m h.toNat) = true) ∧
    (∃ (m : Fin 12) (cell : Fin 15) (h : BitVec 128) (t : Txn) (s : State), s.takesReq m cell 1 0x24 h.toNat = true ∧ t =
      (s.afterReq m cell 1).headerTxn m .wrZero h.toNat 0 (BitVec.allOnes 64) ∧ ((s.afterReq m cell 1).tagRequest
      t).admits t ((s.afterReq m cell 1).privTaken m h.toNat) = true) ∧
    (∃ (m : Fin 12) (cell : Fin 15) (h : BitVec 128) (t : Txn) (u s : State), s.takesReq m cell 1 0x25 h.toNat = true ∧ u
      = s.afterReq m cell 1 ∧ t = u.headerTxn m .fence h.toNat 0 0 ∧ u.serves = true ∧ u.entryFree m = true) ∧
    (∃ (m : Fin 12) (cell : Fin 15) (h : BitVec 128) (u s : State), s.wellSent m cell 6 0x23 h.toNat = true ∧ (s.mod
      m).ingress = [] ∧ s.windowTakes m 6 = false ∧ u = s.arrivedReq m cell 6) :=
  ⟨⟨3, 0, 0x1121#128, _, act, by decide +kernel, rfl, by decide +kernel⟩,
   ⟨3, 10, 0x1122#128, 0, _, act, by decide +kernel, rfl, by decide +kernel⟩,
   ⟨3, 9, 0x1123#128, 0, 0#64, _, act, by decide +kernel, rfl, by decide +kernel⟩,
   ⟨3, 14, 0x1124#128, _, act, by decide +kernel, rfl, by decide +kernel⟩,
   ⟨3, 0, 0x1125#128, _, _, act, by decide +kernel, rfl, rfl, by decide +kernel⟩,
   ⟨3, 9, 0x1123#128, _, ((act.setFld F.GLB_MODE_THROTTLE 15).modMod 3
     ({ · with admWin := act.admWindow 3, admCount := 12 })), by decide +kernel, (by decide +kernel), by decide +kernel,
     rfl⟩⟩

/-- States and operands that meet the hypotheses of the clauses of `RequestsAreRefusedInOrder`. -/
theorem witness_RequestsAreRefusedInOrder :
    (∃ (op : ReqOp) (m : Fin 12) (cell : Fin 15) (h : BitVec 128) (d : BitVec 512) (be : BitVec 64) (t : Txn) (u : State)
      (p : Bool) (s : State), s.takesReq m cell (reqSize op) (reqCode op) h.toNat = true ∧ t = (s.afterReq m cell (reqSize
      op)).headerTxn m op h.toNat (reqData op d) (reqMask op be) ∧ u = (s.afterReq m cell (reqSize op)).tagRequest t ∧ p =
      (s.afterReq m cell (reqSize op)).privTaken m h.toNat ∧ u.serves = false) ∧
    (∃ (op : ReqOp) (m : Fin 12) (cell : Fin 15) (h : BitVec 128) (d : BitVec 512) (be : BitVec 64) (t : Txn) (u : State)
      (p : Bool) (s : State), s.takesReq m cell (reqSize op) (reqCode op) h.toNat = true ∧ t = (s.afterReq m cell (reqSize
      op)).headerTxn m op h.toNat (reqData op d) (reqMask op be) ∧ u = (s.afterReq m cell (reqSize op)).tagRequest t ∧ p =
      (s.afterReq m cell (reqSize op)).privTaken m h.toNat ∧ op = .fence ∧ u.serves = true ∧ u.entryFree m = false) ∧
    (∃ (op : ReqOp) (m : Fin 12) (cell : Fin 15) (h : BitVec 128) (d : BitVec 512) (be : BitVec 64) (t : Txn) (u : State)
      (p : Bool) (s : State), s.takesReq m cell (reqSize op) (reqCode op) h.toNat = true ∧ t = (s.afterReq m cell (reqSize
      op)).headerTxn m op h.toNat (reqData op d) (reqMask op be) ∧ u = (s.afterReq m cell (reqSize op)).tagRequest t ∧ p =
      (s.afterReq m cell (reqSize op)).privTaken m h.toNat ∧ op ≠ .fence ∧ u.serves = true ∧ inUser t.byteAddr = false ∧
      inAperture t.byteAddr = false) ∧
    (∃ (op : ReqOp) (m : Fin 12) (cell : Fin 15) (h : BitVec 128) (d : BitVec 512) (be : BitVec 64) (t : Txn) (u : State)
      (p : Bool) (s : State), s.takesReq m cell (reqSize op) (reqCode op) h.toNat = true ∧ t = (s.afterReq m cell (reqSize
      op)).headerTxn m op h.toNat (reqData op d) (reqMask op be) ∧ u = (s.afterReq m cell (reqSize op)).tagRequest t ∧ p =
      (s.afterReq m cell (reqSize op)).privTaken m h.toNat ∧ op ≠ .fence ∧ u.serves = true ∧ inAperture t.byteAddr = true
      ∧ (p = false ∨ serviceAllows op (locRow (u.txnPlace t).loc) = false)) ∧
    (∃ (op : ReqOp) (m : Fin 12) (cell : Fin 15) (h : BitVec 128) (d : BitVec 512) (be : BitVec 64) (t : Txn) (u : State)
      (p : Bool) (s : State), s.takesReq m cell (reqSize op) (reqCode op) h.toNat = true ∧ t = (s.afterReq m cell (reqSize
      op)).headerTxn m op h.toNat (reqData op d) (reqMask op be) ∧ u = (s.afterReq m cell (reqSize op)).tagRequest t ∧ p =
      (s.afterReq m cell (reqSize op)).privTaken m h.toNat ∧ op ≠ .fence ∧ u.serves = true ∧ u.opens t p = true ∧
      u.injMatches t = false ∧ (u.entryFree m = false ∨ u.chanEntryFree (locCh (u.txnPlace t).loc) = false)) ∧
    (∃ (op : ReqOp) (m : Fin 12) (cell : Fin 15) (h : BitVec 128) (d : BitVec 512) (be : BitVec 64) (t : Txn) (u : State)
      (p : Bool) (s : State), s.takesReq m cell (reqSize op) (reqCode op) h.toNat = true ∧ t = (s.afterReq m cell (reqSize
      op)).headerTxn m op h.toNat (reqData op d) (reqMask op be) ∧ u = (s.afterReq m cell (reqSize op)).tagRequest t ∧ p =
      (s.afterReq m cell (reqSize op)).privTaken m h.toNat ∧ op ≠ .fence ∧ u.serves = true ∧ u.opens t p = true ∧
      u.injMatches t = false ∧ u.entryFree m = true ∧ u.chanEntryFree (locCh (u.txnPlace t).loc) = true ∧ (u.chan (locCh
      (u.txnPlace t).loc)).st = .offline) ∧
    (∃ (op : ReqOp) (m : Fin 12) (cell : Fin 15) (h : BitVec 128) (d : BitVec 512) (be : BitVec 64) (t : Txn) (u : State)
      (p : Bool) (s : State), s.takesReq m cell (reqSize op) (reqCode op) h.toNat = true ∧ t = (s.afterReq m cell (reqSize
      op)).headerTxn m op h.toNat (reqData op d) (reqMask op be) ∧ u = (s.afterReq m cell (reqSize op)).tagRequest t ∧ p =
      (s.afterReq m cell (reqSize op)).privTaken m h.toNat ∧ op ≠ .fence ∧ u.serves = true ∧ u.opens t p = true ∧
      u.injMatches t = false ∧ u.entryFree m = true ∧ u.chanEntryFree (locCh (u.txnPlace t).loc) = true ∧ ((u.chan (locCh
      (u.txnPlace t).loc)).st = .retired ∨ ((u.chan (locCh (u.txnPlace t).loc)).st = .online ∧ u.rowRetired (u.txnPlace
      t).loc = true))) ∧
    (∃ (op : ReqOp) (m : Fin 12) (cell : Fin 15) (h : BitVec 128) (d : BitVec 512) (be : BitVec 64) (t : Txn) (u : State)
      (p : Bool) (s : State), s.takesReq m cell (reqSize op) (reqCode op) h.toNat = true ∧ t = (s.afterReq m cell (reqSize
      op)).headerTxn m op h.toNat (reqData op d) (reqMask op be) ∧ u = (s.afterReq m cell (reqSize op)).tagRequest t ∧ p =
      (s.afterReq m cell (reqSize op)).privTaken m h.toNat ∧ op ≠ .fence ∧ u.serves = true ∧ u.opens t p = true ∧
      u.injMatches t = false ∧ u.entryFree m = true ∧ u.chanEntryFree (locCh (u.txnPlace t).loc) = true ∧ ((u.chan (locCh
      (u.txnPlace t).loc)).st = .draining ∨ (u.chan (locCh (u.txnPlace t).loc)).st = .quiesced ∨ (u.chan (locCh
      (u.txnPlace t).loc)).st = .retraining)) :=
  ⟨⟨.rd, 3, 0, 0x1121#128, 0, 0#64, _, _, _, inMode .selfRefresh, by decide +kernel, rfl, rfl, rfl, by decide +kernel⟩,
   ⟨.fence, 3, 0, 0x1125#128, 0, 0#64, _, _, _,
     { act with txns := List.replicate 5120 { txn .rd .queued with tag := 100 } }, by decide +kernel, rfl, rfl, rfl, rfl,
     by decide +kernel⟩,
   ⟨.wr, 3, 0, BitVec.ofNat 128 (2 ^ 80 + 0x1122), 0, 0#64, _, _, _, act, by decide +kernel, rfl, rfl, rfl,
     by decide +kernel⟩,
   ⟨.wr, 3, 0, BitVec.ofNat 128 (2 ^ 79 + 0x1122), 0, 0#64, _, _, _, act, by decide +kernel, rfl, rfl, rfl,
     by decide +kernel⟩,
   ⟨.wrZero, 3, 0, 0x1124#128, 0, 0#64, _, _, _,
     { act with txns := (List.range 512).map fun k => { txn .rd .queued with tag := 100 + k } }, by decide +kernel, rfl,
     rfl, rfl, by decide +kernel⟩,
   ⟨.rd, 3, 0, 0x1121#128, 0, 0#64, _, _, _, allIn .offline, by decide +kernel, rfl, rfl, rfl, by decide +kernel⟩,
   ⟨.wrPart, 3, 0, 0x1123#128, 0, 0#64, _, _, _, allIn .retired, by decide +kernel, rfl, rfl, rfl, by decide +kernel⟩,
   ⟨.wr, 3, 0, 0x1122#128, 0, 0#64, _, _, _, allIn .draining, by decide +kernel, rfl, rfl, rfl, by decide +kernel⟩⟩

/-- States and operands that meet the hypotheses of the clauses of `BadMessagesAreProtocolErrors`. -/
theorem witness_BadMessagesAreProtocolErrors :
    (∃ (op : ReqOp) (m : Fin 12) (cell : Fin 15) (h : BitVec 128) (u s : State), (s.mod m).stage = .active ∧ u = s.flitAt
      m cell ∧ s.skipped m cell = true ∧ h.toNat % 256 = reqCode op) ∧
    (∃ (m : Fin 12) (cell : Fin 15) (h : BitVec 128) (u s : State), (s.mod m).stage = .active ∧ u = s.flitAt m cell ∧
      s.skipped m cell = false ∧ requesterOp (h.toNat % 256) = false ∧ h.toNat % 256 ≠ 0x42 ∧ h.toNat % 256 ≠ 0x71) ∧
    (∃ (m : Fin 12) (cell : Fin 15) (h : BitVec 128) (u s : State), (s.mod m).stage = .active ∧ u = s.flitAt m cell ∧
      s.skipped m cell = false ∧ (h.toNat % 256 = 0x42 ∨ h.toNat % 256 = 0x71) ∧ bitsOf h.toNat 127 64 ≠ 0 ∧ bitsOf
      h.toNat 71 69 ≠ bitsOf h.toNat 7 5) ∧
    (∃ (op : ReqOp) (m : Fin 12) (cell : Fin 15) (h : BitVec 128) (u s : State), (s.mod m).stage = .active ∧ u = s.flitAt
      m cell ∧ s.skipped m cell = false ∧ h.toNat % 256 = reqCode op ∧ 15 < cell.val + reqSize op) ∧
    (∃ (op : ReqOp) (m : Fin 12) (cell : Fin 15) (h : BitVec 128) (u s : State), (s.mod m).stage = .active ∧ u = s.flitAt
      m cell ∧ s.skipped m cell = false ∧ h.toNat % 256 = reqCode op ∧ cell.val + reqSize op ≤ 15 ∧ (s.mod m).initOut =
      false) ∧
    (∃ (op : ReqOp) (m : Fin 12) (cell : Fin 15) (h : BitVec 128) (u s : State), (s.mod m).stage = .active ∧ u = s.flitAt
      m cell ∧ s.skipped m cell = false ∧ h.toNat % 256 = reqCode op ∧ cell.val + reqSize op ≤ 15 ∧ (s.mod m).initOut =
      true ∧ (s.mod m).initIn = false) ∧
    (∃ (op : ReqOp) (m : Fin 12) (cell : Fin 15) (h : BitVec 128) (u s : State), (s.mod m).stage = .active ∧ u = s.flitAt
      m cell ∧ s.skipped m cell = false ∧ h.toNat % 256 = reqCode op ∧ cell.val + reqSize op ≤ 15 ∧ (s.mod m).initOut =
      true ∧ (s.mod m).initIn = true ∧ 2048 < (s.mod m).reqUsed + reqSize op) ∧
    (∃ (op : ReqOp) (m : Fin 12) (cell : Fin 15) (h : BitVec 128) (u s : State), (s.mod m).stage = .active ∧ u = s.flitAt
      m cell ∧ s.skipped m cell = false ∧ s.wellSent m cell (reqSize op) (reqCode op) h.toNat = true ∧ (s.mod m).ingress =
      [] ∧ s.windowTakes m (reqSize op) = true ∧ s.tagHeld m (bitsOf h.toNat 21 8) = true) ∧
    (∃ (m : Fin 12) (cell : Fin 15) (h : BitVec 128) (i : Instr) (b : Nat) (u s : State), (i = .cfgRd m cell h ∧ b = 0x61
      ∨ i = .cfgWr m cell h ∧ b = 0x62) ∧ (s.mod m).stage = .active ∧ u = s.flitAt m cell ∧ s.skipped m cell = true) ∧
    (∃ (m : Fin 12) (cell : Fin 15) (h : BitVec 128) (i : Instr) (b : Nat) (u s : State), (i = .cfgRd m cell h ∧ b = 0x61
      ∨ i = .cfgWr m cell h ∧ b = 0x62) ∧ (s.mod m).stage = .active ∧ u = s.flitAt m cell ∧ s.skipped m cell = false ∧
      requesterOp (h.toNat % 256) = false ∧ h.toNat % 256 ≠ 0x42 ∧ h.toNat % 256 ≠ 0x71) ∧
    (∃ (m : Fin 12) (cell : Fin 15) (h : BitVec 128) (i : Instr) (b : Nat) (u s : State), (i = .cfgRd m cell h ∧ b = 0x61
      ∨ i = .cfgWr m cell h ∧ b = 0x62) ∧ (s.mod m).stage = .active ∧ u = s.flitAt m cell ∧ s.skipped m cell = false ∧
      h.toNat % 256 = b ∧ ((s.mod m).initOut = false ∨ (s.mod m).initIn = false)) ∧
    (∃ (m : Fin 12) (cell : Fin 15) (h : BitVec 128) (i : Instr) (b : Nat) (u s : State), (i = .cfgRd m cell h ∧ b = 0x61
      ∨ i = .cfgWr m cell h ∧ b = 0x62) ∧ (s.mod m).stage = .active ∧ u = s.flitAt m cell ∧ s.skipped m cell = false ∧
      h.toNat % 256 = b ∧ (s.mod m).initOut = true ∧ (s.mod m).initIn = true ∧ 32 ≤ (s.mod m).ctlUsed) :=
  ⟨⟨.wr, 3, 11, 0x22#128, _, act.modMod 3 ({ · with skip := some (4, 1000000) }), by decide +kernel, rfl,
     by decide +kernel⟩,
   ⟨3, 0, 0xFF#128, _, act, by decide +kernel, rfl, by decide +kernel⟩,
   ⟨3, 0, BitVec.ofNat 128 (0x42 + 0x21 * 2 ^ 64), _, act, by decide +kernel, rfl, by decide +kernel⟩,
   ⟨.wr, 3, 11, 0x22#128, _, act, by decide +kernel, rfl, by decide +kernel⟩,
   ⟨.wr, 3, 10, 0x22#128, _, act.modMod 3 ({ · with initOut := false }), by decide +kernel, rfl, by decide +kernel⟩,
   ⟨.wr, 3, 10, 0x22#128, _, act.modMod 3 ({ · with initIn := false }), by decide +kernel, rfl, by decide +kernel⟩,
   ⟨.wr, 3, 10, 0x22#128, _, act.modMod 3 ({ · with reqUsed := 2044 }), by decide +kernel, rfl, by decide +kernel⟩,
   ⟨.wr, 3, 10, 0x522#128, _, with1 (txn .rd .queued), by decide +kernel, rfl, by decide +kernel⟩,
   ⟨3, 11, 0x61#128, .cfgRd 3 11 0x61#128, 0x61, _, act.modMod 3 ({ · with skip := some (4, 1000000) }),
     .inl ⟨rfl, rfl⟩, by decide +kernel, rfl, by decide +kernel⟩,
   ⟨3, 11, 0xFF#128, .cfgWr 3 11 0xFF#128, 0x62, _, act, .inr ⟨rfl, rfl⟩, by decide +kernel, rfl, by decide +kernel⟩,
   ⟨3, 11, 0x61#128, .cfgRd 3 11 0x61#128, 0x61, _, act.modMod 3 ({ · with initIn := false }), .inl ⟨rfl, rfl⟩,
     by decide +kernel, rfl, by decide +kernel⟩,
   ⟨3, 11, 0x62#128, .cfgWr 3 11 0x62#128, 0x62, _, act.modMod 3 ({ · with ctlUsed := 32 }), .inr ⟨rfl, rfl⟩,
     by decide +kernel, rfl, by decide +kernel⟩⟩

/-- States and operands that meet the hypotheses of the clauses of `CreditsAreGivenAndSpent`. -/
theorem witness_CreditsAreGivenAndSpent :
    (∃ (m : Fin 12) (cell : Fin 15) (h : BitVec 128) (s : State), (s.mod m).stage = .active ∧ h.toNat % 256 = 1 ∧
      s.skipped m cell = false ∧ bitOf h.toNat 40 = true ∧ 160 ≤ bitsOf h.toNat 31 20 ∧ 2 ≤ bitsOf h.toNat 39 32) ∧
    (∃ (m : Fin 12) (cell : Fin 15) (h : BitVec 128) (s : State), (s.mod m).stage = .active ∧ h.toNat % 256 = 1 ∧
      s.skipped m cell = false ∧ bitOf h.toNat 40 = true ∧ (bitsOf h.toNat 31 20 < 160 ∨ bitsOf h.toNat 39 32 < 2)) ∧
    (∃ (m : Fin 12) (cell : Fin 15) (h : BitVec 128) (s : State), (s.mod m).stage = .active ∧ h.toNat % 256 = 1 ∧
      s.skipped m cell = false ∧ bitOf h.toNat 40 = false) ∧
    (∃ (m : Fin 12) (s u : State), u = s.drainIngress m ∧ (u.mod m).stage = .active ∧ (u.mod m).reqFreed ≠ 0) ∧
    (∃ (m : Fin 12) (s : State), (s.mod m).stage.carries = true ∧ (s.mod m).initIn = true ∧ (s.mod m).ctlOut ≠ [] ∧
      hasCredit (s.mod m).ctlCredit 1 = true) ∧
    (∃ (m : Fin 12) (l : List Out) (n : Nat) (s : State), (s.mod m).stage.carries = true ∧ (s.mod m).initIn = true ∧
      (s.mod m).ctlOut = [] ∧ firstMessages (s.mod m).egress = (l, n) ∧ l ≠ [] ∧ hasCredit (s.mod m).rspCredit n = true) ∧
    (∃ (m : Fin 12) (s : State), (s.mod m).ctlOut = [] ∧ hasCredit (s.mod m).rspCredit (firstMessages (s.mod m).egress).2
      = false) :=
  ⟨⟨3, 0, BitVec.ofNat 128 (2 ^ 40 + 2 * 2 ^ 32 + 160 * 2 ^ 20 + 1), act, by decide +kernel⟩,
   ⟨3, 0, BitVec.ofNat 128 (2 ^ 40 + 2 * 2 ^ 32 + 159 * 2 ^ 20 + 1), act, by decide +kernel⟩,
   ⟨3, 0, 1, act, by decide +kernel⟩,
   ⟨3, act.modMod 3 ({ · with reqFreed := 5000 }), _, rfl, by decide +kernel⟩,
   ⟨3, act.modMod 3 ({ · with ctlOut := [.ack 3 5 .ok false 0] }), by decide +kernel⟩,
   ⟨3, [.ack 3 5 .ok false 0], 1, act.modMod 3 ({ · with egress := [.ack 3 5 .ok false 0] }), by decide +kernel⟩,
   ⟨3, act.modMod 3 ({ · with egress := [.ack 3 5 .ok false 0], rspCredit := some 0 }), by decide +kernel⟩⟩

/-- States and operands that meet the hypotheses of the clauses of `ConfigurationMessagesAccessRegisters`. -/
theorem witness_ConfigurationMessagesAccessRegisters :
    (∃ (m : Fin 12) (cell : Fin 15) (h : BitVec 128) (t s : State), (s.mod m).stage = .active ∧ s.flag
      (F.UCI_STS_EXCLUDED m) = false ∧ (s.mod m).initOut = true ∧ (s.mod m).initIn = true ∧ (s.mod m).ctlUsed < 32 ∧
      s.skipped m cell = false ∧ t = ((s.flitAt m cell).modMod m fun y => { y with ctlUsed := y.ctlUsed + 1 }) ∧ h.toNat %
      256 = 0x61) ∧
    (∃ (m : Fin 12) (cell : Fin 15) (h : BitVec 128) (t s : State), (s.mod m).stage = .active ∧ s.flag
      (F.UCI_STS_EXCLUDED m) = false ∧ (s.mod m).initOut = true ∧ (s.mod m).initIn = true ∧ (s.mod m).ctlUsed < 32 ∧
      s.skipped m cell = false ∧ t = ((s.flitAt m cell).modMod m fun y => { y with ctlUsed := y.ctlUsed + 1 }) ∧ h.toNat %
      256 = 0x62) ∧
    (∃ (m : Fin 12) (cell : Fin 15) (h : BitVec 128) (t : State) (r : Reg) (u i : Nat) (w : BitVec 32) (p : Path) (s :
      State), (s.mod m).stage = .active ∧ s.flag (F.UCI_STS_EXCLUDED m) = false ∧ (s.mod m).initOut = true ∧ (s.mod
      m).initIn = true ∧ (s.mod m).ctlUsed < 32 ∧ s.skipped m cell = false ∧ t = ((s.flitAt m cell).modMod m fun y =>
      { y with ctlUsed := y.ctlUsed + 1 }) ∧ p = .ctl m (bitOf h.toNat 36) ∧ plainReg r = true ∧ 4 * bitsOf h.toNat 61 40
      = adr r u i ∧ w = BitVec.ofNat 32 (bitsOf h.toNat 127 96) ∧ h.toNat % 256 = 0x61 ∧ t.readable p r u i = true) ∧
    (∃ (m : Fin 12) (cell : Fin 15) (h : BitVec 128) (t : State) (r : Reg) (u i : Nat) (w : BitVec 32) (p : Path) (s :
      State), (s.mod m).stage = .active ∧ s.flag (F.UCI_STS_EXCLUDED m) = false ∧ (s.mod m).initOut = true ∧ (s.mod
      m).initIn = true ∧ (s.mod m).ctlUsed < 32 ∧ s.skipped m cell = false ∧ t = ((s.flitAt m cell).modMod m fun y =>
      { y with ctlUsed := y.ctlUsed + 1 }) ∧ p = .ctl m (bitOf h.toNat 36) ∧ plainReg r = true ∧ 4 * bitsOf h.toNat 61 40
      = adr r u i ∧ w = BitVec.ofNat 32 (bitsOf h.toNat 127 96) ∧ h.toNat % 256 = 0x62 ∧ t.granted p r u i w = true) ∧
    (∃ (s : State) (m : Fin 12), s.flag (F.UCI_STS_EXCLUDED m) = false) :=
  ⟨⟨3, 0, 0x61#128, _, act, by decide +kernel, (by decide +kernel), by decide +kernel, (by decide +kernel),
     by decide +kernel, (by decide +kernel), rfl, by decide +kernel⟩,
   ⟨3, 0, 0x62#128, _, act, by decide +kernel, (by decide +kernel), by decide +kernel, (by decide +kernel),
     by decide +kernel, (by decide +kernel), rfl, by decide +kernel⟩,
   ⟨3, 1, BitVec.ofNat 128 (0x61 + 2 ^ 36 + adr .QOS_THROTTLE / 4 * 2 ^ 40), _, .QOS_THROTTLE, 0, 0, _, _, act,
     by decide +kernel, (by decide +kernel), by decide +kernel, (by decide +kernel), by decide +kernel,
     (by decide +kernel), rfl, rfl, by decide +kernel, (by decide +kernel), rfl, by decide +kernel⟩,
   ⟨3, 1, BitVec.ofNat 128 (0x62 + 2 ^ 36 + adr .QOS_THROTTLE / 4 * 2 ^ 40), _, .QOS_THROTTLE, 0, 0, _, _, act,
     by decide +kernel, (by decide +kernel), by decide +kernel, (by decide +kernel), by decide +kernel,
     (by decide +kernel), rfl, rfl, by decide +kernel, (by decide +kernel), rfl, by decide +kernel⟩,
   ⟨act, 3, by decide +kernel⟩⟩

/-- States and operands that meet the hypotheses of the clauses of `DeadlinesAndInjection`. -/
theorem witness_DeadlinesAndInjection :
    (∃ (m : Fin 12) (tag : BitVec 14) (t : Txn) (s : State), s.findTxn m tag.toNat = some t ∧ t.stage ≠ .injTimeout ∧
      t.stage.working = false) ∧
    (∃ (m : Fin 12) (tag : BitVec 14) (t : Txn) (s : State), s.findTxn m tag.toNat = some t ∧ t.stage.working = true) ∧
    (∃ (m : Fin 12) (tag : BitVec 14) (t : Txn) (s : State), s.findTxn m tag.toNat = some t ∧ t.stage = .injTimeout) ∧
    (∃ (p : Path) (w v : Word) (s : State), v = withBits w 31 31 1 ∧ s.granted p .XPT_INJ_CTL 0 0 v = true ∧ (bitsOf
      v.toNat 27 24 ≠ 1 ∨ bitsOf v.toNat 11 10 = 0)) ∧
    (∃ (p : Path) (w v : Word) (s : State), v = withBits w 31 31 1 ∧ s.granted p .XPT_INJ_CTL 0 0 v = true ∧ bitsOf
      v.toNat 27 24 = 1 ∧ bitsOf v.toNat 11 10 ≠ 0) :=
  ⟨⟨3, 5, txn .rd .queued, with1 (txn .rd .queued), by decide +kernel⟩,
   ⟨3, 5, txn .rd (.moveIn 3), with1 (txn .rd (.moveIn 3)), by decide +kernel⟩,
   ⟨3, 5, txn .rd .injTimeout, with1 (txn .rd .injTimeout), by decide +kernel⟩,
   ⟨.fw .west, BitVec.ofNat 32 (fieldsReset Reg.XPT_INJ_CTL.fields), _, act, rfl, by decide +kernel⟩,
   ⟨.fw .west, BitVec.ofNat 32 (fieldsReset Reg.XPT_INJ_CTL.fields - 0x1000000), _, act, rfl, by decide +kernel⟩⟩

/-- States and operands that meet the hypotheses of the clauses of `FlowContextsAndTheHostSteer`. -/
theorem witness_FlowContextsAndTheHostSteer :
    (∃ (p : Path) (f : BitVec 12) (w : BitVec 32) (old : FlowShadow) (s : State), s.granted p .FLOW_W0 0 f.toNat w = true
      ∧ old = (s.flowShadows.get (fun _ => none) f.toNat).getD ⟨s.reg (flowAddr f.toNat 0), s.reg (flowAddr f.toNat 1),
      s.reg (flowAddr f.toNat 2), false, pathNum p⟩) ∧
    (∃ (p : Path) (f : BitVec 12) (w : BitVec 32) (old : FlowShadow) (s : State), s.granted p .FLOW_W1 0 f.toNat w = true
      ∧ old = (s.flowShadows.get (fun _ => none) f.toNat).getD ⟨s.reg (flowAddr f.toNat 0), s.reg (flowAddr f.toNat 1),
      s.reg (flowAddr f.toNat 2), false, pathNum p⟩) ∧
    (∃ (p : Path) (f : BitVec 12) (w : BitVec 32) (old : FlowShadow) (s : State), s.granted p .FLOW_W2 0 f.toNat w = true
      ∧ old = (s.flowShadows.get (fun _ => none) f.toNat).getD ⟨s.reg (flowAddr f.toNat 0), s.reg (flowAddr f.toNat 1),
      s.reg (flowAddr f.toNat 2), false, pathNum p⟩) ∧
    (∃ (p : Path) (w : BitVec 32) (s : State), s.granted p .QOS_THROTTLE 0 0 w = true) ∧
    (∃ (p : Path) (t s : State), s.granted p .QOS_FENCE 0 0 0x40000000#32 = true ∧ s.flag F.QOS_FENCE_BUSY = false ∧ t =
      (s.setBoth F.QOS_FENCE_VALID 0).setBoth F.QOS_FENCE_BUSY 1) ∧
    (∃ (p : Path) (s : State), s.granted p .QOS_FENCE 0 0 0x40000000#32 = true ∧ s.flag F.QOS_FENCE_BUSY = true) :=
  ⟨⟨.fw .west, 4095, 0#32, _, act, by decide +kernel, rfl⟩,
   ⟨.fw .west, 4095, 0#32, _, act, by decide +kernel, rfl⟩,
   ⟨.fw .west, 4095, BitVec.ofNat 32 (fieldsReset Reg.FLOW_W2.fields), _, act, by decide +kernel, rfl⟩,
   ⟨.fw .west, 0#32, act, by decide +kernel⟩,
   ⟨.fw .west, _, act, by decide +kernel, (by decide +kernel), rfl⟩,
   ⟨.fw .west, act.setFlag F.QOS_FENCE_BUSY true, by decide +kernel⟩⟩

/-- States and operands that meet the hypotheses of the clauses of `QosWindowsAndClassification`. -/
theorem witness_QosWindowsAndClassification :
    (∃ (m : Fin 12) (tag : BitVec 14) (t : Txn) (s : State), s.findTxn m tag.toNat = some t ∧ t.stage = .accepted ∧
      s.fabricTurn t = true ∧ s.maxRate t.flow ≠ 0 ∧ s.caps.get (fun _ => 0) (bucket t) < 16) ∧
    (∃ (m : Fin 12) (tag : BitVec 14) (t : Txn) (s : State), s.findTxn m tag.toNat = some t ∧ t.stage = .accepted ∧
      s.fabricTurn t = true ∧ s.maxRate t.flow = 0 ∧ s.guar.get (fun _ => 0) (bucket t) < 16) ∧
    (∃ (m : Fin 12) (tag : BitVec 14) (t : Txn) (s : State), s.findTxn m tag.toNat = some t ∧ t.stage = .accepted ∧
      s.fabricTurn t = true ∧ s.maxRate t.flow = 0 ∧ 16 ≤ s.guar.get (fun _ => 0) (bucket t)) ∧
    (∃ (m : Fin 12) (tag : BitVec 14) (t : Txn) (s : State), s.findTxn m tag.toNat = some t ∧ s.fld
      F.QOS_ARB_CFG_STARVE_US ≠ 0 ∧ t.op ≠ .fence ∧ t.guaranteed = false ∧ s.flowClass t.flow = 2) ∧
    (∃ (s : State), s.floorStale = true) ∧
    (∃ (m : Fin 12) (tag : BitVec 14) (t : Txn) (s : State), s.findTxn m tag.toNat = some t ∧ t.stage = .accepted ∧
      s.fabricTurn t = false) ∧
    (∃ (x : BitVec 8) (level : Nat) (s : State), s.fld F.QOS_URG_STS_STUCK = 0 ∧ s.flag (liveFld 38) = false ∧ level =
      (List.range 8).foldl (fun a w => if s.urgTaken x.toNat w then a + 2 ^ w else a) 0) ∧
    (∃ (w : Fin 8) (t0 : Nat) (t s : State), s.urgSince.get (fun _ => none) w.val = some t0 ∧ bitOf (s.fld
      F.QOS_URG_STS_STUCK) w = false ∧ t = s.advanceTo (t0 + 1000000 * s.fld F.QOS_URG_CFG_STUCK_MS)) :=
  ⟨⟨3, 5, txn .rd .accepted, (with1 (txn .rd .accepted)).setFld (F.FLOW_W2_MAX_RATE 2) 1, by decide +kernel⟩,
   ⟨3, 5, txn .rd .accepted, { with1 (txn .rd .accepted) with guar := [(4, 15)] }, by decide +kernel⟩,
   ⟨3, 5, txn .rd .accepted, { with1 (txn .rd .accepted) with guar := [(4, 16)] }, by decide +kernel⟩,
   ⟨3, 5, txn .rd .queued, ((with1 (txn .rd .queued)).setFld F.QOS_ARB_CFG_STARVE_US 1).setFld (F.FLOW_W0_CLASS 2) 2,
     by decide +kernel⟩,
   ⟨{ act with floorStale := true }, by decide +kernel⟩,
   ⟨3, 5, txn .rd .accepted, { act with txns := [txn .rd .accepted, { txn .rd .accepted with tag := 6, t0 := 100 }] },
     by decide +kernel⟩,
   ⟨0#8, _, act, by decide +kernel, (by decide +kernel), rfl⟩,
   ⟨3, 5, _, { act with urgSince := [(3, some 5)] }, by decide +kernel, (by decide +kernel), rfl⟩⟩

/-- States and operands that meet the hypotheses of the clauses of `SchedulersTakeRequestsUp`. -/
theorem witness_SchedulersTakeRequestsUp :
    (∃ (m : Fin 12) (tag : BitVec 14) (t : Txn) (u : State) (x : Place3) (c : Nat) (s : State) (i : Nat), s.findAt m
      tag.toNat (· == .queued) = some t ∧ s.blocked t = false ∧ s.bankTurn t = true ∧ t.rowRetired = false ∧ (¬ (t.op =
      .wrPart ∧ t.be = 0 ∧ t.metaEn = false)) ∧ x = s.txnPlace t ∧ c = locCh x.loc ∧ u = (s.tagMod t fun g =>
      { g with dChannel := some (g.dChannel.getD (s.now - t.t0)) }).useMap x.loc ∧ (u.chan c).st ≠ .offline ∧ u.rowWaits
      x.loc (t.op != .rd) = false ∧ u.written x.loc = true ∧ u.findSlot x.loc = some i) ∧
    (∃ (m : Fin 12) (tag : BitVec 14) (t : Txn) (u : State) (x : Place3) (c : Nat) (s : State), s.findAt m tag.toNat (·
      == .queued) = some t ∧ s.blocked t = false ∧ s.bankTurn t = true ∧ t.rowRetired = false ∧ (¬ (t.op = .wrPart ∧ t.be
      = 0 ∧ t.metaEn = false)) ∧ x = s.txnPlace t ∧ c = locCh x.loc ∧ u = (s.tagMod t fun g =>
      { g with dChannel := some (g.dChannel.getD (s.now - t.t0)) }).useMap x.loc ∧ (u.chan c).st ≠ .offline ∧ u.rowWaits
      x.loc (t.op != .rd) = false ∧ u.written x.loc = true ∧ u.findSlot x.loc = none ∧ ((u.chan c).victim = none ∨
      u.promotes x.loc = false)) ∧
    (∃ (m : Fin 12) (tag : BitVec 14) (t : Txn) (u : State) (x : Place3) (c : Nat) (s : State) (i : Nat), s.findAt m
      tag.toNat (· == .queued) = some t ∧ s.blocked t = false ∧ s.bankTurn t = true ∧ t.rowRetired = false ∧ (¬ (t.op =
      .wrPart ∧ t.be = 0 ∧ t.metaEn = false)) ∧ x = s.txnPlace t ∧ c = locCh x.loc ∧ u = (s.tagMod t fun g =>
      { g with dChannel := some (g.dChannel.getD (s.now - t.t0)) }).useMap x.loc ∧ (u.chan c).st ≠ .offline ∧ u.rowWaits
      x.loc (t.op != .rd) = false ∧ u.written x.loc = true ∧ u.findSlot x.loc = none ∧ (u.chan c).victim = some i ∧
      u.promotes x.loc = true ∧ (u.chan c).closing (locCbi x.loc) = false) ∧
    (∃ (m : Fin 12) (tag : BitVec 14) (t : Txn) (u : State) (x : Place3) (c : Nat) (s : State) (i : Nat), s.findAt m
      tag.toNat (· == .queued) = some t ∧ s.blocked t = false ∧ s.bankTurn t = true ∧ t.rowRetired = false ∧ (¬ (t.op =
      .wrPart ∧ t.be = 0 ∧ t.metaEn = false)) ∧ x = s.txnPlace t ∧ c = locCh x.loc ∧ u = (s.tagMod t fun g =>
      { g with dChannel := some (g.dChannel.getD (s.now - t.t0)) }).useMap x.loc ∧ (u.chan c).st ≠ .offline ∧ u.rowWaits
      x.loc (t.op != .rd) = false ∧ u.written x.loc = true ∧ u.findSlot x.loc = none ∧ (u.chan c).victim = some i ∧
      u.promotes x.loc = true ∧ (u.chan c).closing (locCbi x.loc) = true) ∧
    (∃ (m : Fin 12) (tag : BitVec 14) (t : Txn) (u : State) (x : Place3) (c : Nat) (s : State), s.findAt m tag.toNat (·
      == .queued) = some t ∧ s.blocked t = false ∧ s.bankTurn t = true ∧ t.rowRetired = false ∧ t.op = .rd ∧ t.inject =
      false ∧ x = s.txnPlace t ∧ c = locCh x.loc ∧ u = (s.tagMod t fun g =>
      { g with dChannel := some (g.dChannel.getD (s.now - t.t0)) }).useMap x.loc ∧ (u.chan c).st ≠ .offline ∧ u.rowWaits
      x.loc false = false ∧ u.written x.loc = false ∧ ((u.chan c).fills.any fun f => f.extent == locExtent x.loc) = false) ∧
    (∃ (m : Fin 12) (tag : BitVec 14) (t : Txn) (s : State), s.findAt m tag.toNat (· == .queued) = some t ∧ (s.blocked t
      = true ∨ s.bankTurn t = false)) :=
  ⟨⟨3, 5, svc .rd .queued, _, _, _, { held .clean with txns := [svc .rd .queued] }, 3, by decide +kernel,
     (by decide +kernel), by decide +kernel, (by decide +kernel), by decide +kernel, rfl, rfl, rfl, by decide +kernel⟩,
   ⟨3, 5, svc .rd .queued, _, _, _, with1 (svc .rd .queued), by decide +kernel, (by decide +kernel), by decide +kernel,
     (by decide +kernel), by decide +kernel, rfl, rfl, rfl, by decide +kernel⟩,
   ⟨3, 5, svc .rd .queued, _, _, _, (with1 (svc .rd .queued)).modChan 0 ({ · with hist := [(mkLoc 0 0 0 2 0, 8)] }), 0,
     by decide +kernel, (by decide +kernel), by decide +kernel, (by decide +kernel), by decide +kernel, rfl, rfl, rfl,
     by decide +kernel⟩,
   ⟨3, 5, svc .rd .queued, _, _, _, (with1 (svc .rd .queued)).modChan 0 fun x =>
     { x with hist := [(mkLoc 0 0 0 2 0, 8)], refresh := { x.refresh with due := [(locCbi (mkLoc 0 0 0 2 0), [])] } }, 0,
     by decide +kernel, (by decide +kernel), by decide +kernel, (by decide +kernel), by decide +kernel, rfl, rfl, rfl,
     by decide +kernel⟩,
   ⟨3, 5, txn .rd .queued, _, _, _, with1 (txn .rd .queued), by decide +kernel, (by decide +kernel), by decide +kernel,
     (by decide +kernel), by decide +kernel, (by decide +kernel), rfl, rfl, rfl, by decide +kernel⟩,
   ⟨3, 5, svc .rd .queued, { with1 (svc .rd .queued) with qosFence := some 0 }, by decide +kernel⟩⟩

/-- States and operands that meet the hypotheses of the clauses of `RequestsArePerformed`. -/
theorem witness_RequestsArePerformed :
    (∃ (m : Fin 12) (tag : BitVec 14) (t : Txn) (s : State), s.findAt m tag.toNat (· == .hit) = some t ∧ s.blocked t =
      false ∧ s.servable t = true ∧ s.portTurn t = true) ∧
    (∃ (m : Fin 12) (tag : BitVec 14) (t : Txn) (s : State), s.findAt m tag.toNat (· == .hit) = some t ∧ s.blocked t =
      false ∧ s.findSlot (s.txnPlace t).loc = none) ∧
    (∃ (m : Fin 12) (tag : BitVec 14) (t : Txn) (i : Nat) (s : State), s.findAt m tag.toNat (· == .hit) = some t ∧
      s.blocked t = false ∧ s.findSlot (s.txnPlace t).loc = some i ∧ (s.slot (locCh (s.txnPlace t).loc) i).state =
      .evicting ∧ t.op ≠ .rd) ∧
    (∃ (m : Fin 12) (tag : BitVec 14) (t : Txn) (u : State) (x : Place3) (s : State), s.findAt m tag.toNat (· == .sector)
      = some t ∧ t.launched = true ∧ x = s.txnPlace t ∧ u = (s.countCh (locCh x.loc) 5 1 (some t.m) (some
      t.flow)).cycleServed x.loc ∧ t.op = .rd) ∧
    (∃ (m : Fin 12) (tag : BitVec 14) (t : Txn) (u : State) (x : Place3) (s : State), s.findAt m tag.toNat (· == .sector)
      = some t ∧ t.launched = true ∧ x = s.txnPlace t ∧ u = (s.countCh (locCh x.loc) 5 1 (some t.m) (some
      t.flow)).cycleServed x.loc ∧ t.op ≠ .rd ∧ (t.wholeWrite = true ∨ t.merged ≠ none)) ∧
    (∃ (m : Fin 12) (tag : BitVec 14) (t : Txn) (u : State) (x : Place3) (s : State), s.findAt m tag.toNat (· == .sector)
      = some t ∧ t.launched = true ∧ x = s.txnPlace t ∧ u = (s.countCh (locCh x.loc) 5 1 (some t.m) (some
      t.flow)).cycleServed x.loc ∧ t.wholeWrite = false ∧ t.merged = none) ∧
    (∃ (m : Fin 12) (tag : BitVec 14) (t : Txn) (s : State), s.findAt m tag.toNat (· == .sector) = some t ∧ t.launched =
      false) ∧
    (∃ (k : Cycle) (t : Txn) (x : Place3) (up : Bool) (seg : Nat × Nat), k.full = false ∧ t.stage = .sector ∧ x =
      k.st.txnPlace t ∧ seg = (x.loc, x.sector / 8) ∧ up = (t.op == .rd || (!t.wholeWrite && t.merged.isNone)) ∧ (k.dir =
      some (!up) ∨ x.sector ∈ k.lanes)) ∧
    (∃ (k : Cycle) (t : Txn) (x : Place3) (up : Bool) (seg : Nat × Nat), k.full = false ∧ t.stage = .sector ∧ x =
      k.st.txnPlace t ∧ seg = (x.loc, x.sector / 8) ∧ up = (t.op == .rd || (!t.wholeWrite && t.merged.isNone)) ∧ k.dir ≠
      some (!up) ∧ x.sector ∉ k.lanes ∧ seg ∈ k.acts) ∧
    (∃ (k : Cycle) (t : Txn) (x : Place3) (up : Bool) (seg : Nat × Nat), k.full = false ∧ t.stage = .sector ∧ x =
      k.st.txnPlace t ∧ seg = (x.loc, x.sector / 8) ∧ up = (t.op == .rd || (!t.wholeWrite && t.merged.isNone)) ∧ k.dir ≠
      some (!up) ∧ x.sector ∉ k.lanes ∧ seg ∉ k.acts ∧ ((∃ a ∈ k.acts, locCbi a.1 = locCbi x.loc) ∨ k.st.bankOpen x.loc =
      false)) ∧
    (∃ (c : Nat) (k : Cycle) (t : Txn) (x : Place3) (up : Bool) (seg : Nat × Nat), k.full = false ∧ t.stage = .sector ∧ x
      = k.st.txnPlace t ∧ seg = (x.loc, x.sector / 8) ∧ up = (t.op == .rd || (!t.wholeWrite && t.merged.isNone)) ∧ k.dir ≠
      some (!up) ∧ x.sector ∉ k.lanes ∧ seg ∉ k.acts ∧ (∀ a ∈ k.acts, locCbi a.1 ≠ locCbi x.loc) ∧ k.st.bankOpen x.loc =
      true ∧ k.st.fitsBudget c 1 = false) ∧
    (∃ (c : Nat) (k : Cycle) (t : Txn) (x : Place3) (up : Bool) (seg : Nat × Nat), k.full = false ∧ t.stage = .sector ∧ x
      = k.st.txnPlace t ∧ seg = (x.loc, x.sector / 8) ∧ up = (t.op == .rd || (!t.wholeWrite && t.merged.isNone)) ∧ k.dir ≠
      some (!up) ∧ x.sector ∉ k.lanes ∧ seg ∉ k.acts ∧ (∀ a ∈ k.acts, locCbi a.1 ≠ locCbi x.loc) ∧ k.st.bankOpen x.loc =
      true ∧ k.st.fitsBudget c 1 = true) ∧
    (∃ (k : Cycle) (t : Txn), (k.full = true ∨ (t.stage = .promoting ∧ k.lanes ≠ []))) ∧
    (∃ (k : Cycle) (t : Txn) (loc : Nat), k.full = false ∧ t.stage = .promoting ∧ k.lanes = [] ∧ loc = (k.st.txnPlace
      t).loc ∧ (k.st.chan (locCh loc)).victim = none) ∧
    (∃ (k : Cycle) (t : Txn) (loc i : Nat), k.full = false ∧ t.stage = .promoting ∧ k.lanes = [] ∧ loc = (k.st.txnPlace
      t).loc ∧ (k.st.chan (locCh loc)).victim = some i ∧ (k.st.chan (locCh loc)).closing (locCbi loc) = true) ∧
    (∃ (k : Cycle) (t : Txn) (loc i : Nat), k.full = false ∧ t.stage = .promoting ∧ k.lanes = [] ∧ loc = (k.st.txnPlace
      t).loc ∧ (k.st.chan (locCh loc)).victim = some i ∧ (k.st.chan (locCh loc)).closing (locCbi loc) = false ∧ (k.st.slot
      (locCh loc) i).state ≠ .dirty ∧ k.st.rowInCycle loc = false ∧ k.st.bankOpen loc = true ∧ k.st.fitsBudget (locCh loc)
      4 = true) :=
  ⟨⟨3, 5, svc .rd .hit, { held .dirty with txns := [svc .rd .hit] }, by decide +kernel⟩,
   ⟨3, 5, svc .rd .hit, with1 (svc .rd .hit), by decide +kernel⟩,
   ⟨3, 5, svc .wr .hit, 3, { held .evicting with txns := [svc .wr .hit] }, by decide +kernel⟩,
   ⟨3, 5, { svc .rd .sector with launched := true }, _, _, with1 { svc .rd .sector with launched := true },
     by decide +kernel, (by decide +kernel), rfl, rfl, by decide +kernel⟩,
   ⟨3, 5, { svc .wr .sector with launched := true, be := 0xFFFFFFFFFFFFFFFF }, _, _, with1
     { svc .wr .sector with launched := true, be := 0xFFFFFFFFFFFFFFFF }, by decide +kernel, (by decide +kernel), rfl,
     rfl, by decide +kernel⟩,
   ⟨3, 5, { svc .wrPart .sector with launched := true, be := 1 }, _, _, with1
     { svc .wrPart .sector with launched := true, be := 1 }, by decide +kernel, (by decide +kernel), rfl, rfl,
     by decide +kernel⟩,
   ⟨3, 5, svc .rd .sector, with1 (svc .rd .sector), by decide +kernel⟩,
   ⟨⟨with1 (svc .rd .sector), none, [0], [], false⟩, svc .rd .sector, _, _, _, by decide +kernel, (by decide +kernel),
     rfl, rfl, rfl, by decide +kernel⟩,
   ⟨⟨with1 (svc .rd .sector), none, [], [(mkLoc 0 0 0 2 0, 0)], false⟩, svc .rd .sector, _, _, _, by decide +kernel,
     (by decide +kernel), rfl, rfl, rfl, by decide +kernel⟩,
   ⟨⟨with1 (svc .rd .sector), none, [], [(mkLoc 0 0 0 2 0, 3)], false⟩, svc .rd .sector, _, _, _, by decide +kernel,
     (by decide +kernel), rfl, rfl, rfl, by decide +kernel⟩,
   ⟨0, ⟨(with1 (svc .rd .sector)).charge 0 0 100000, none, [], [], false⟩, svc .rd .sector, _, _, _, by decide +kernel,
     (by decide +kernel), rfl, rfl, rfl, by decide +kernel⟩,
   ⟨0, ⟨with1 (svc .rd .sector), none, [], [], false⟩, svc .rd .sector, _, _, _, by decide +kernel, (by decide +kernel),
     rfl, rfl, rfl, by decide +kernel⟩,
   ⟨⟨with1 (svc .rd .sector), none, [], [], true⟩, svc .rd .sector, by decide +kernel⟩,
   ⟨⟨(with1 (svc .rd .promoting)).modChan 0
     ({ · with slots := (List.range 64).map fun i => (i, { Slot.empty with state := .filling }) }), none, [], [], false⟩,
     svc .rd .promoting, _, by decide +kernel, (by decide +kernel), by decide +kernel, rfl, by decide +kernel⟩,
   ⟨⟨(with1 (svc .rd .promoting)).modChan 0 fun x =>
     { x with refresh := { x.refresh with due := [(locCbi (mkLoc 0 0 0 2 0), [])] } }, none, [], [], false⟩, svc .rd
     .promoting, _, 0, by decide +kernel, (by decide +kernel), by decide +kernel, rfl, by decide +kernel⟩,
   ⟨⟨with1 (svc .rd .promoting), none, [], [], false⟩, svc .rd .promoting, _, 0, by decide +kernel, (by decide +kernel),
     by decide +kernel, rfl, by decide +kernel⟩⟩

/-- States and operands that meet the hypotheses of the clauses of `SlotsFillAndEmpty`. -/
theorem witness_SlotsFillAndEmpty :
    (∃ (c : Fin 32) (s u : State) (a b d e f g h : State × Bool), (s.chan c).upset = 0 ∧ s.mode ≠ .fatal ∧ s.progLeads c
      = false ∧ u = s.exportNext c ∧ a = (u.nextCycle c).closeClaim c ∧ b = a.1.fillClaim c ∧ d = b.1.requestClaim c ∧ e =
      d.1.bufferClaim c ∧ f = e.1.commandedClaim c ∧ g = f.1.forcedClean c ∧ h = g.1.idleClean c ∧ (u.chan c).lastVc ≠
      (s.chan c).lastVc) ∧
    (∃ (c : Fin 32) (s u : State) (a b d e f g h : State × Bool), (s.chan c).upset = 0 ∧ s.mode ≠ .fatal ∧ s.progLeads c
      = false ∧ u = s.exportNext c ∧ a = (u.nextCycle c).closeClaim c ∧ b = a.1.fillClaim c ∧ d = b.1.requestClaim c ∧ e =
      d.1.bufferClaim c ∧ f = e.1.commandedClaim c ∧ g = f.1.forcedClean c ∧ h = g.1.idleClean c ∧ (u.chan c).lastVc =
      (s.chan c).lastVc ∧ a.2 = true) ∧
    (∃ (c : Fin 32) (s u : State) (a b d e f g h : State × Bool), (s.chan c).upset = 0 ∧ s.mode ≠ .fatal ∧ s.progLeads c
      = false ∧ u = s.exportNext c ∧ a = (u.nextCycle c).closeClaim c ∧ b = a.1.fillClaim c ∧ d = b.1.requestClaim c ∧ e =
      d.1.bufferClaim c ∧ f = e.1.commandedClaim c ∧ g = f.1.forcedClean c ∧ h = g.1.idleClean c ∧ (u.chan c).lastVc =
      (s.chan c).lastVc ∧ a.2 = false ∧ b.2 = true) ∧
    (∃ (c : Fin 32) (s u : State) (a b d e f g h : State × Bool), (s.chan c).upset = 0 ∧ s.mode ≠ .fatal ∧ s.progLeads c
      = false ∧ u = s.exportNext c ∧ a = (u.nextCycle c).closeClaim c ∧ b = a.1.fillClaim c ∧ d = b.1.requestClaim c ∧ e =
      d.1.bufferClaim c ∧ f = e.1.commandedClaim c ∧ g = f.1.forcedClean c ∧ h = g.1.idleClean c ∧ (u.chan c).lastVc =
      (s.chan c).lastVc ∧ a.2 = false ∧ b.2 = false ∧ d.2 = true) ∧
    (∃ (c : Fin 32) (s u : State) (a b d e f g h : State × Bool), (s.chan c).upset = 0 ∧ s.mode ≠ .fatal ∧ s.progLeads c
      = false ∧ u = s.exportNext c ∧ a = (u.nextCycle c).closeClaim c ∧ b = a.1.fillClaim c ∧ d = b.1.requestClaim c ∧ e =
      d.1.bufferClaim c ∧ f = e.1.commandedClaim c ∧ g = f.1.forcedClean c ∧ h = g.1.idleClean c ∧ (u.chan c).lastVc =
      (s.chan c).lastVc ∧ a.2 = false ∧ b.2 = false ∧ d.2 = false ∧ e.2 = true) ∧
    (∃ (c : Fin 32) (s u : State) (a b d e f g h : State × Bool), (s.chan c).upset = 0 ∧ s.mode ≠ .fatal ∧ s.progLeads c
      = false ∧ u = s.exportNext c ∧ a = (u.nextCycle c).closeClaim c ∧ b = a.1.fillClaim c ∧ d = b.1.requestClaim c ∧ e =
      d.1.bufferClaim c ∧ f = e.1.commandedClaim c ∧ g = f.1.forcedClean c ∧ h = g.1.idleClean c ∧ (u.chan c).lastVc =
      (s.chan c).lastVc ∧ a.2 = false ∧ b.2 = false ∧ d.2 = false ∧ e.2 = false ∧ f.2 = true) ∧
    (∃ (c : Fin 32) (s u : State) (a b d e f g h : State × Bool), (s.chan c).upset = 0 ∧ s.mode ≠ .fatal ∧ s.progLeads c
      = false ∧ u = s.exportNext c ∧ a = (u.nextCycle c).closeClaim c ∧ b = a.1.fillClaim c ∧ d = b.1.requestClaim c ∧ e =
      d.1.bufferClaim c ∧ f = e.1.commandedClaim c ∧ g = f.1.forcedClean c ∧ h = g.1.idleClean c ∧ (u.chan c).lastVc =
      (s.chan c).lastVc ∧ a.2 = false ∧ b.2 = false ∧ d.2 = false ∧ e.2 = false ∧ f.2 = false ∧ g.2 = true) ∧
    (∃ (c : Fin 32) (s u : State) (a b d e f g h : State × Bool), (s.chan c).upset = 0 ∧ s.mode ≠ .fatal ∧ s.progLeads c
      = false ∧ u = s.exportNext c ∧ a = (u.nextCycle c).closeClaim c ∧ b = a.1.fillClaim c ∧ d = b.1.requestClaim c ∧ e =
      d.1.bufferClaim c ∧ f = e.1.commandedClaim c ∧ g = f.1.forcedClean c ∧ h = g.1.idleClean c ∧ (u.chan c).lastVc =
      (s.chan c).lastVc ∧ a.2 = false ∧ b.2 = false ∧ d.2 = false ∧ e.2 = false ∧ f.2 = false ∧ g.2 = false ∧ h.2 = true) ∧
    (∃ (c : Fin 32) (s u : State) (a b d e f g h : State × Bool), (s.chan c).upset = 0 ∧ s.mode ≠ .fatal ∧ s.progLeads c
      = false ∧ u = s.exportNext c ∧ a = (u.nextCycle c).closeClaim c ∧ b = a.1.fillClaim c ∧ d = b.1.requestClaim c ∧ e =
      d.1.bufferClaim c ∧ f = e.1.commandedClaim c ∧ g = f.1.forcedClean c ∧ h = g.1.idleClean c ∧ (u.chan c).lastVc =
      (s.chan c).lastVc ∧ a.2 = false ∧ b.2 = false ∧ d.2 = false ∧ e.2 = false ∧ f.2 = false ∧ g.2 = false ∧ h.2 = false) ∧
    (∃ (c : Fin 32) (s : State), (s.chan c).upset = 0 ∧ (s.mode = .fatal ∨ s.progLeads c = true)) ∧
    (∃ (c : Fin 32) (s : State), (s.chan c).upset ≠ 0) ∧
    (∃ (c : Fin 32) (k : Fin 64) (u s : State) (t : Txn), (s.slot c k).state = .filling ∧ s.mode ≠ .fatal ∧ u =
      s.mapWants (Want.transferred (s.slot c k).loc) ∧ (u.txns.find? fun y => y.stage == .moveIn k && u.txnIn c y && y.op
      == .rd) = some t) ∧
    (∃ (c : Fin 32) (k : Fin 64) (u s : State), (s.slot c k).state = .filling ∧ s.mode ≠ .fatal ∧ u = s.mapWants
      (Want.transferred (s.slot c k).loc) ∧ (u.txns.find? fun y => y.stage == .moveIn k && u.txnIn c y && y.op == .rd) =
      none) ∧
    (∃ (c : Fin 32) (k : Fin 64) (u v s : State), (s.slot c k).state = .filling ∧ s.mode ≠ .fatal ∧ u =
      s.moveInTransferEnd c k ∧ v = (u.setSlot c k
      { u.slot c k with state := .clean, data := u.arrayRow (u.slot c k).loc, last := u.now }).mapWants (Want.filledBy
      (u.slot c k).loc)) ∧
    (∃ (v : State) (c i loc : Nat) (t : Txn), (v.txnIn c t = true ∧ t.op ≠ .fence ∧ (t.stage = .moveIn i ∨ (t.stage =
      .queued ∧ (v.txnPlace t).loc = loc)))) ∧
    (∃ (v : State) (c i loc : Nat) (t : Txn), (¬ (v.txnIn c t = true ∧ t.op ≠ .fence ∧ (t.stage = .moveIn i ∨ (t.stage =
      .queued ∧ (v.txnPlace t).loc = loc))))) ∧
    (∃ (c : Fin 32) (k : Fin 64) (s : State), s.mode ≠ .fatal ∧ (s.slot c k).state = .evicting) ∧
    (∃ (c : Fin 32) (k : Fin 64) (s : State), s.mode ≠ .fatal ∧ (s.slot c k).state = .cleaning) ∧
    (∃ (s : State), s.mode = .fatal) ∧
    (∃ (c : Fin 32) (s u : State), u = s.advanceTo ((s.chan c).histAt + 500 * 2 ^ s.fld (F.LAG_CFG_HIST_DECAY c))) ∧
    (∃ (c : Fin 32) (f : Fill) (u s : State), s.mode ≠ .fatal ∧ (s.chan c).fills.find? (fun f => f.launched == 16) = some
      f ∧ ((s.useMapWord c f.extent).chan c).st ≠ .offline ∧ u = (((s.useMapWord c f.extent).markExtent c f.extent
      true).modChan c fun x => { x with fills := x.fills.filter fun g => g.extent != f.extent })) :=
  ⟨⟨3, { act with obs := { act.obs with exporting := some ⟨3, 0, 0, [], []⟩ } }, _, _, _, _, _, _, _, _,
     by decide +kernel, (by decide +kernel), by decide +kernel, rfl, rfl, rfl, rfl, rfl, rfl, rfl, rfl, by decide +kernel⟩,
   ⟨0, (held .dirty).modChan 0 fun x =>
     { x with refresh := { x.refresh with due := [(locCbi (mkLoc 0 0 0 2 0), [])] } }, _, _, _, _, _, _, _, _,
     by decide +kernel, (by decide +kernel), by decide +kernel, rfl, rfl, rfl, rfl, rfl, rfl, rfl, rfl, by decide +kernel⟩,
   ⟨3, act.modChan 3 ({ · with fills := [⟨0, 0⟩] }), _, _, _, _, _, _, _, _, by decide +kernel, (by decide +kernel),
     by decide +kernel, rfl, rfl, rfl, rfl, rfl, rfl, rfl, rfl, by decide +kernel⟩,
   ⟨0, with1 (svc .rd .sector), _, _, _, _, _, _, _, _, by decide +kernel, (by decide +kernel), by decide +kernel, rfl,
     rfl, rfl, rfl, rfl, rfl, rfl, rfl, by decide +kernel⟩,
   ⟨0, (with1 (svc .rd .queued)).modChan 0 fun x =>
     { x with scrub := { x.scrub with buffer := some (mkLoc 0 0 0 2 0) } }, _, _, _, _, _, _, _, _, by decide +kernel,
     (by decide +kernel), by decide +kernel, rfl, rfl, rfl, rfl, rfl, rfl, rfl, rfl, by decide +kernel⟩,
   ⟨0, (held .dirty).modChan 0 ({ · with st := .draining }), _, _, _, _, _, _, _, _, by decide +kernel,
     (by decide +kernel), by decide +kernel, rfl, rfl, rfl, rfl, rfl, rfl, rfl, rfl, by decide +kernel⟩,
   ⟨0, (held .dirty).setFld (F.LAG_CFG_DIRTY_MAX 0) 0, _, _, _, _, _, _, _, _, by decide +kernel, (by decide +kernel),
     by decide +kernel, rfl, rfl, rfl, rfl, rfl, rfl, rfl, rfl, by decide +kernel⟩,
   ⟨0, held .dirty, _, _, _, _, _, _, _, _, by decide +kernel, (by decide +kernel), by decide +kernel, rfl, rfl, rfl,
     rfl, rfl, rfl, rfl, rfl, by decide +kernel⟩,
   ⟨3, act, _, _, _, _, _, _, _, _, by decide +kernel, (by decide +kernel), by decide +kernel, rfl, rfl, rfl, rfl, rfl,
     rfl, rfl, rfl, by decide +kernel⟩,
   ⟨3, inMode .fatal, by decide +kernel⟩,
   ⟨3, act.modChan 3 ({ · with upset := 1 }), by decide +kernel⟩,
   ⟨0, 3, _, { held .filling with txns := [svc .rd (.moveIn 3)] }, svc .rd (.moveIn 3), by decide +kernel,
     (by decide +kernel), rfl, by decide +kernel⟩,
   ⟨0, 3, _, held .filling, by decide +kernel, (by decide +kernel), rfl, by decide +kernel⟩,
   ⟨0, 3, _, _, held .filling, by decide +kernel, (by decide +kernel), rfl, rfl⟩,
   ⟨act, 0, 3, mkLoc 0 0 0 2 0, svc .rd (.moveIn 3), by decide +kernel⟩,
   ⟨act, 0, 3, mkLoc 0 0 0 2 0, svc .rd .accepted, by decide +kernel⟩,
   ⟨0, 3, held .evicting, by decide +kernel⟩,
   ⟨0, 3, held .cleaning, by decide +kernel⟩,
   ⟨inMode .fatal, by decide +kernel⟩,
   ⟨3, act, _, rfl⟩,
   ⟨3, ⟨0, 16⟩, _, act.modChan 3 ({ · with fills := [⟨0, 16⟩] }), by decide +kernel, (by decide +kernel),
     by decide +kernel, rfl⟩⟩

/-- States and operands that meet the hypotheses of the clauses of `DiesAreResetAndSlotsCommanded`. -/
theorem witness_DiesAreResetAndSlotsCommanded :
    (∃ (p : Path) (d : Fin 16) (v : BitVec 32) (s : State), v = BitVec.ofNat 32 (2 ^ 31 + d.val) ∧ s.granted p
      .GLB_DIE_RST 0 0 v = true ∧ s.serves = true ∧ s.flag F.GLB_DIE_RST_BUSY = false ∧ (∀ j < 8, (s.chan (8 * (d.val / 4)
      + j)).st.resettable = true)) ∧
    (∃ (r : DieReset) (s : State), s.dieReset = some r ∧ r.step = 2) ∧
    (∃ (r : DieReset) (s : State), s.dieReset = some r ∧ r.step = 3) ∧
    (∃ (p : Path) (c : Fin 32) (s : State), s.granted p .LAG_CTL c 0 0x80000000#32 = true ∧ s.flag (F.LAG_CTL_BUSY c) =
      false ∧ ((s.chan c).st = .online ∨ (s.chan c).st = .draining)) ∧
    (∃ (p : Path) (c : Fin 32) (s : State), s.granted p .LAG_CTL c 0 0x40000000#32 = true ∧ s.flag (F.LAG_CTL_BUSY c) =
      false ∧ (s.chan c).st = .offline) ∧
    (∃ (p : Path) (c : Fin 32) (s : State), s.granted p .LAG_CTL c 0 0x40000000#32 = true ∧ (s.flag (F.LAG_CTL_BUSY c) =
      true ∨ (s.chan c).st ≠ .offline)) ∧
    (∃ (c : Fin 32) (l : List Nat) (s : State), (s.chan c).lagAct = some l ∧ (l.any fun i => ((s.chan c).slot i).state ==
      .dirty) = false ∧ ((s.chan c).slots.any fun e => e.2.state == .cleaning) = false) :=
  ⟨⟨.fw .west, 3, _, allIn .offline, rfl, by decide +kernel⟩,
   ⟨⟨3, 2⟩, { act with dieReset := some ⟨3, 2⟩ }, by decide +kernel⟩,
   ⟨⟨3, 3⟩, { act with dieReset := some ⟨3, 3⟩ }, by decide +kernel⟩,
   ⟨.fw .west, 3, act, by decide +kernel⟩,
   ⟨.fw .west, 3, inState .offline, by decide +kernel⟩,
   ⟨.fw .west, 3, act, by decide +kernel⟩,
   ⟨3, [], act.modChan 3 ({ · with lagAct := some [] }), by decide +kernel⟩⟩

/-- States and operands that meet the hypotheses of the clauses of `AStoredSectorReadsBackAndNoOtherChanges`. -/
theorem witness_AStoredSectorReadsBackAndNoOtherChanges :
    (∃ (s : State) (x y : Place3), y.loc ≠ x.loc ∧ s.physKey y ∉ s.places x) ∧
    (∃ (s : State) (x y : Place3), y.loc = x.loc ∧ y.sector ≠ x.sector ∧ s.physKey y ∉ s.places x) ∧
    (∃ (s : State) (x : Place3), s.walkSpare x = none) :=
  ⟨⟨act, ⟨0, 31⟩, ⟨1, 31⟩, by decide +kernel⟩,
   ⟨act, ⟨0, 31⟩, ⟨0, 0⟩, by decide +kernel⟩,
   ⟨act, ⟨0, 31⟩, by decide +kernel⟩⟩

/-- States and operands that meet the hypotheses of the clauses of `QueuesAreSetUpAndRung`. -/
theorem witness_QueuesAreSetUpAndRung :
    (∃ (p : Path) (c : Fin 32) (q : Fin 8) (w : BitVec 32) (s : State), s.granted p .EXD_QDB c q w = true ∧ (q.val ≠ 7 ∨
      isSecure p = true) ∧ s.flag (F.EXD_QCTL_EN c q) = true ∧ bitsOf w.toNat 9 0 < s.ringSize c q) ∧
    (∃ (p : Path) (c : Fin 32) (q : Fin 8) (w : BitVec 32) (s : State), s.granted p .EXD_QDB c q w = true ∧ (q.val ≠ 7 ∨
      isSecure p = true) ∧ (s.flag (F.EXD_QCTL_EN c q) = false ∨ s.ringSize c q ≤ bitsOf w.toNat 9 0)) ∧
    (∃ (p : Path) (c : Fin 32) (q : Fin 8) (w : BitVec 32) (s : State), s.granted p .EXD_QCFG c q w = true ∧ (q.val ≠ 7 ∨
      isSecure p = true) ∧ s.flag (F.EXD_QCTL_EN c q) = false ∧ ringsOk w.toNat = true) ∧
    (∃ (p : Path) (c : Fin 32) (q : Fin 8) (w : BitVec 32) (s : State), s.granted p .EXD_QCFG c q w = true ∧ (q.val ≠ 7 ∨
      isSecure p = true) ∧ (s.flag (F.EXD_QCTL_EN c q) = true ∨ ringsOk w.toNat = false)) ∧
    (∃ (p : Path) (c : Fin 32) (q : Fin 8) (en : Bool) (v : BitVec 32) (s : State), v = BitVec.ofNat 32 (2 ^ 31 * b2n en)
      ∧ s.granted p .EXD_QCTL c q v = true ∧ (q.val ≠ 7 ∨ isSecure p = true) ∧ (en = true ∨ s.flag (F.EXD_QCTL_EN c q) =
      false ∨ (s.chan c).eng.busy = false ∨ (s.chan c).eng.queue ≠ q.val)) ∧
    (∃ (p : Path) (c : Fin 32) (q : Fin 8) (en : Bool) (v : BitVec 32) (s : State), v = BitVec.ofNat 32 (2 ^ 31 * b2n en
      + 2 ^ 30) ∧ s.granted p .EXD_QCTL c q v = true ∧ (q.val ≠ 7 ∨ isSecure p = true) ∧ (en = true ∨ s.flag
      (F.EXD_QCTL_EN c q) = false ∨ (s.chan c).eng.busy = false ∨ (s.chan c).eng.queue ≠ q.val)) ∧
    (∃ (p : Path) (c : Fin 32) (q : Fin 8) (s : State), s.granted p .EXD_QCTL c q 0x20000000#32 = true ∧ (q.val ≠ 7 ∨
      isSecure p = true) ∧ s.flag (F.EXD_QCTL_EN c q) = false) ∧
    (∃ (p : Path) (c : Fin 32) (q : Fin 8) (s : State), s.granted p .EXD_QCTL c q 0x20000000#32 = true ∧ (q.val ≠ 7 ∨
      isSecure p = true) ∧ s.flag (F.EXD_QCTL_EN c q) = true) ∧
    (∃ (p : Path) (c : Fin 32) (q : Fin 8) (v : BitVec 32) (s : State), (v = 0#32 ∨ v = 0x40000000#32) ∧ s.granted p
      .EXD_QCTL c q v = true ∧ (q.val ≠ 7 ∨ isSecure p = true) ∧ s.flag (F.EXD_QCTL_EN c q) = true ∧ (s.chan c).eng.busy =
      true ∧ (s.chan c).eng.queue = q.val ∧ v = 0#32) ∧
    (∃ (p : Path) (c : Fin 32) (q : Fin 8) (v : BitVec 32) (s : State), (v = 0#32 ∨ v = 0x40000000#32) ∧ s.granted p
      .EXD_QCTL c q v = true ∧ (q.val ≠ 7 ∨ isSecure p = true) ∧ s.flag (F.EXD_QCTL_EN c q) = true ∧ (s.chan c).eng.busy =
      true ∧ (s.chan c).eng.queue = q.val ∧ v = 0x40000000#32) ∧
    (∃ (p : Path) (c : Fin 32) (s : State), s.granted p .EXD_CTL c 0 0x80000000#32 = true ∧ ((s.chan c).eng.busy = false
      ∨ (s.chan c).eng.queue ≠ 7 ∨ isSecure p = true)) ∧
    (∃ (p : Path) (c : Fin 32) (q : Fin 8) (r : Reg) (i : Instr) (w : BitVec 32) (s : State), (i = .exdQdbWrite p c q w ∧
      r = .EXD_QDB ∨ i = .exdQcfgWrite p c q w ∧ r = .EXD_QCFG ∨ i = .exdQctlEnWrite p c q true ∧ r = .EXD_QCTL ∧ w =
      0x80000000#32 ∨ i = .exdQctlEnWrite p c q false ∧ r = .EXD_QCTL ∧ w = 0#32 ∨ i = .exdQctlAbort p c q true ∧ r =
      .EXD_QCTL ∧ w = 0xC0000000#32 ∨ i = .exdQctlAbort p c q false ∧ r = .EXD_QCTL ∧ w = 0x40000000#32 ∨ i =
      .exdQctlResetIdx p c q ∧ r = .EXD_QCTL ∧ w = 0x20000000#32) ∧ s.granted p r c q w = true ∧ q.val = 7 ∧ isSecure p =
      false) ∧
    (∃ (p : Path) (c : Fin 32) (s : State), s.granted p .EXD_CTL c 0 0x80000000#32 = true ∧ (s.chan c).eng.busy = true ∧
      (s.chan c).eng.queue = 7 ∧ isSecure p = false) ∧
    (∃ (s : State) (c : Fin 32), (s.chan c).eng.busy = false) ∧
    (∃ (s : State) (c : Fin 32), (s.chan c).eng.busy = true) ∧
    (∃ (s : State) (c q : Nat), ((s.chan c).eng.busy && (s.chan c).eng.queue == q) = true) ∧
    (∃ (s : State) (c q : Nat), ((s.chan c).eng.busy && (s.chan c).eng.queue == q) = false) :=
  ⟨⟨.fw .west, 3, 7, 15#32, (act.setFlag (F.EXD_QCTL_EN 3 7) true).setFld (F.EXD_QCFG_SIZE_LOG2 3 7) 4,
     by decide +kernel⟩,
   ⟨.fw .west, 3, 7, 16#32, (act.setFlag (F.EXD_QCTL_EN 3 7) true).setFld (F.EXD_QCFG_SIZE_LOG2 3 7) 4,
     by decide +kernel⟩,
   ⟨.fw .west, 3, 7, BitVec.ofNat 32 (4 * 2 ^ 28 + 2 ^ 16), act, by decide +kernel⟩,
   ⟨.fw .west, 3, 7, BitVec.ofNat 32 (4 * 2 ^ 28), act, by decide +kernel⟩,
   ⟨.fw .west, 3, 7, true, _, act, rfl, by decide +kernel⟩,
   ⟨.fw .west, 3, 7, false, _, act, rfl, by decide +kernel⟩,
   ⟨.fw .west, 3, 7, act, by decide +kernel⟩,
   ⟨.fw .west, 3, 7, act.setFlag (F.EXD_QCTL_EN 3 7) true, by decide +kernel⟩,
   ⟨.fw .west, 3, 6, 0#32, (prog 0x10 f0).setFlag (F.EXD_QCTL_EN 3 6) true, .inl rfl, by decide +kernel⟩,
   ⟨.fw .west, 3, 6, 0x40000000#32, (prog 0x10 f0).setFlag (F.EXD_QCTL_EN 3 6) true, .inr rfl, by decide +kernel⟩,
   ⟨.fw .west, 3, act, by decide +kernel⟩,
   ⟨.sb 0, 3, 7, .EXD_QDB, .exdQdbWrite (.sb 0) 3 7 0, 0#32, act, .inl ⟨rfl, rfl⟩, by decide +kernel⟩,
   ⟨.sb 0, 3, prog 0x10 f0 7, by decide +kernel⟩,
   ⟨act, 3, by decide +kernel⟩,
   ⟨prog 0x10 f0, 3, by decide +kernel⟩,
   ⟨prog 0x10 f0, 3, 6, by decide +kernel⟩,
   ⟨act, 0, 0, by decide +kernel⟩⟩

/-- States and operands that meet the hypotheses of the clauses of `EnginesRunTheirPrograms`. -/
theorem witness_EnginesRunTheirPrograms :
    (∃ (c : Fin 32) (s u : State) (ch off : Nat), (s.chan c).eng.aborts = [] ∧ ((s.chan c).eng.phase = .reading ∧ u = s ∨
      (s.chan c).eng.phase = .idle ∧ ∃ q, s.nextQueue c = some q ∧ u = s.beginRead c q) ∧ ch = (if (u.chan c).eng.proxy
      then u.fld (F.EXD_CFG_PROXY_CH c) else c.val) ∧ off = 4096 * u.fld (F.EXD_QCFG_DESC_BASE c (u.chan c).eng.queue) +
      64 * (u.chan c).eng.index ∧ u.ringGone ch = true) ∧
    (∃ (c : Fin 32) (s u : State) (ch off : Nat) (t : State), (s.chan c).eng.aborts = [] ∧ ((s.chan c).eng.phase =
      .reading ∧ u = s ∨ (s.chan c).eng.phase = .idle ∧ ∃ q, s.nextQueue c = some q ∧ u = s.beginRead c q) ∧ ch = (if
      (u.chan c).eng.proxy then u.fld (F.EXD_CFG_PROXY_CH c) else c.val) ∧ off = 4096 * u.fld (F.EXD_QCFG_DESC_BASE c
      (u.chan c).eng.queue) + 64 * (u.chan c).eng.index ∧ u.ringGone ch = false ∧ u.engineRead c ch off 0 = .wait t) ∧
    (∃ (c : Fin 32) (s u : State) (ch off : Nat) (t : State) (x : Decoded) (d : Desc) (v : State) (q : Nat), (s.chan
      c).eng.aborts = [] ∧ ((s.chan c).eng.phase = .reading ∧ u = s ∨ (s.chan c).eng.phase = .idle ∧ ∃ q, s.nextQueue c =
      some q ∧ u = s.beginRead c q) ∧ ch = (if (u.chan c).eng.proxy then u.fld (F.EXD_CFG_PROXY_CH c) else c.val) ∧ off =
      4096 * u.fld (F.EXD_QCFG_DESC_BASE c (u.chan c).eng.queue) + 64 * (u.chan c).eng.index ∧ u.ringGone ch = false ∧
      u.engineRead c ch off 0 = .got t x ∧ d = descRead x ∧ v = t.modEng c (fun e => { e with desc := d }) ∧ q = (v.chan
      c).eng.queue ∧ v.refusal q d x.poison = none) ∧
    (∃ (c : Fin 32) (s u : State) (ch off : Nat) (t : State) (x : Decoded) (d : Desc) (v : State) (q code : Nat), (s.chan
      c).eng.aborts = [] ∧ ((s.chan c).eng.phase = .reading ∧ u = s ∨ (s.chan c).eng.phase = .idle ∧ ∃ q, s.nextQueue c =
      some q ∧ u = s.beginRead c q) ∧ ch = (if (u.chan c).eng.proxy then u.fld (F.EXD_CFG_PROXY_CH c) else c.val) ∧ off =
      4096 * u.fld (F.EXD_QCFG_DESC_BASE c (u.chan c).eng.queue) + 64 * (u.chan c).eng.index ∧ u.ringGone ch = false ∧
      u.engineRead c ch off 0 = .got t x ∧ d = descRead x ∧ v = t.modEng c (fun e => { e with desc := d }) ∧ q = (v.chan
      c).eng.queue ∧ v.refusal q d x.poison = some code) ∧
    (∃ (c : Fin 32) (s : State), (s.chan c).eng.aborts = [] ∧ ((s.chan c).eng.phase = .idle ∧ s.nextQueue c = none ∨
      (s.chan c).eng.phase = .fetching ∨ (s.chan c).eng.phase = .running ∨ (s.chan c).eng.phase = .ending)) ∧
    (∃ (c : Fin 32) (a : Abort) (rest : List Abort) (ch off : Nat) (s : State), (s.chan c).eng.aborts = a :: rest ∧ ch =
      (if a.proxy then s.fld (F.EXD_CFG_PROXY_CH c) else c.val) ∧ off = 4096 * s.fld (F.EXD_QCFG_DESC_BASE c a.queue) + 64
      * a.index ∧ s.ringGone ch = true) ∧
    (∃ (c : Fin 32) (a : Abort) (rest : List Abort) (ch off : Nat) (s t : State), (s.chan c).eng.aborts = a :: rest ∧ ch
      = (if a.proxy then s.fld (F.EXD_CFG_PROXY_CH c) else c.val) ∧ off = 4096 * s.fld (F.EXD_QCFG_DESC_BASE c a.queue) +
      64 * a.index ∧ s.ringGone ch = false ∧ s.engineRead c ch off 0 = .wait t) ∧
    (∃ (c : Fin 32) (a : Abort) (rest : List Abort) (ch off : Nat) (s t : State) (x : Decoded), (s.chan c).eng.aborts = a
      :: rest ∧ ch = (if a.proxy then s.fld (F.EXD_CFG_PROXY_CH c) else c.val) ∧ off = 4096 * s.fld (F.EXD_QCFG_DESC_BASE
      c a.queue) + 64 * a.index ∧ s.ringGone ch = false ∧ s.engineRead c ch off 0 = .got t x) ∧
    (∃ (c : Fin 32) (s : State), (s.chan c).eng.phase = .fetching ∧ (s.chan c).eng.proxy = false ∧ (s.chan
      c).eng.storeValid = true ∧ (s.chan c).eng.storeCh = c.val ∧ (s.chan c).eng.storeOff = (s.chan c).eng.desc.progOff ∧
      (s.chan c).eng.store.length = (s.chan c).eng.desc.progLen) ∧
    (∃ (k : Nat), k < 5) ∧
    (∃ (k j : Nat), k < 5 ∧ 5 ≤ j) ∧
    (∃ (c : Fin 32) (s : State) (ch : Nat) (l : List Nat), (s.chan c).eng.phase = .fetching ∧ (s.chan c).eng.storeValid =
      false ∧ ch = (if (s.chan c).eng.proxy then s.fld (F.EXD_CFG_PROXY_CH c) else c.val) ∧ l = (progSectors (s.chan
      c).eng.desc.progOff (s.chan c).eng.desc.progLen).drop (s.chan c).eng.got.length ∧ s.ringGone ch = true) ∧
    (∃ (c : Fin 32) (s : State) (ch : Nat) (l : List Nat) (t : State), (s.chan c).eng.phase = .fetching ∧ (s.chan
      c).eng.storeValid = false ∧ ch = (if (s.chan c).eng.proxy then s.fld (F.EXD_CFG_PROXY_CH c) else c.val) ∧ l =
      (progSectors (s.chan c).eng.desc.progOff (s.chan c).eng.desc.progLen).drop (s.chan c).eng.got.length ∧ s.ringGone ch
      = false ∧ s.readSectors c ch (s.chan c).eng.desc.flow l = (t, false)) ∧
    (∃ (c : Fin 32) (s : State) (ch : Nat) (l : List Nat) (t : State), (s.chan c).eng.phase = .fetching ∧ (s.chan
      c).eng.storeValid = false ∧ ch = (if (s.chan c).eng.proxy then s.fld (F.EXD_CFG_PROXY_CH c) else c.val) ∧ l =
      (progSectors (s.chan c).eng.desc.progOff (s.chan c).eng.desc.progLen).drop (s.chan c).eng.got.length ∧ s.ringGone ch
      = false ∧ s.readSectors c ch (s.chan c).eng.desc.flow l = (t, true) ∧ (t.chan c).eng.got.any (fun x => x.2) = true) ∧
    (∃ (c : Fin 32) (s : State) (ch : Nat) (l : List Nat) (t : State), (s.chan c).eng.phase = .fetching ∧ (s.chan
      c).eng.storeValid = false ∧ ch = (if (s.chan c).eng.proxy then s.fld (F.EXD_CFG_PROXY_CH c) else c.val) ∧ l =
      (progSectors (s.chan c).eng.desc.progOff (s.chan c).eng.desc.progLen).drop (s.chan c).eng.got.length ∧ s.ringGone ch
      = false ∧ s.readSectors c ch (s.chan c).eng.desc.flow l = (t, true) ∧ (t.chan c).eng.got.any (fun x => x.2) = false) ∧
    (∃ (s : State) (k ch flow o : Nat) (t : State), s.engineRead k ch o flow = .wait t) ∧
    (∃ (s : State) (k ch flow o : Nat) (t : State) (x : Decoded), s.engineRead k ch o flow = .got t x) ∧
    (∃ (c : Fin 32) (s : State) (r : Record) (rest : List Record) (off : Nat) (t : State), (s.chan c).eng.records = r ::
      rest ∧ r.proxy = false ∧ off = 4096 * s.fld (F.EXD_QCFG_CPL_BASE c r.queue) + 32 * r.index ∧ (s.chan c).st = .online
      ∧ s.progAccess c (serviceAt c off).loc 2 r.flow s.now true true = .go t) ∧
    (∃ (c : Fin 32) (s : State) (r : Record) (rest : List Record) (off : Nat) (t : State), (s.chan c).eng.records = r ::
      rest ∧ r.proxy = false ∧ off = 4096 * s.fld (F.EXD_QCFG_CPL_BASE c r.queue) + 32 * r.index ∧ (s.chan c).st = .online
      ∧ s.progAccess c (serviceAt c off).loc 2 r.flow s.now true true = .wait t) ∧
    (∃ (c : Fin 32) (s : State) (r : Record) (rest : List Record) (off : Nat), (s.chan c).eng.records = r :: rest ∧
      r.proxy = false ∧ ((s.chan c).st = .offline ∨ (s.chan c).st = .retired) ∧ off = 4096 * s.fld (F.EXD_QCFG_CPL_BASE c
      r.queue) + 32 * r.index) ∧
    (∃ (c : Fin 32) (s : State) (us : Nat), (s.chan c).eng.phase = .running ∧ us = (if (s.chan c).eng.desc.budget = 0
      then s.fld (F.EXD_CFG_DEFAULT_BUDGET_US c) else (s.chan c).eng.desc.budget)) ∧
    (∃ (c : Fin 32) (s : State) (w : Word64), (s.chan c).eng.phase = .running ∧ (s.chan c).eng.waiting.isSome = true ∧
      (s.chan c).eng.store[(s.chan c).eng.pc]? = some w ∧ opOf w ≠ 0x31#8) :=
  ⟨⟨3, (reading6 desc1).modChan 3 ({ · with st := .offline }), _, _, _, by decide +kernel,
     .inl ⟨(by decide +kernel), rfl⟩, rfl, rfl, by decide +kernel⟩,
   ⟨3, buffered3 (reading6 desc1), _, _, _, _, by decide +kernel, .inl ⟨(by decide +kernel), rfl⟩, rfl, rfl,
     by decide +kernel, fetch_wait _ (by decide +kernel)⟩,
   ⟨3, reading6 desc1, _, _, _, _, read6 desc1, _, _, _, by decide +kernel, .inl ⟨(by decide +kernel), rfl⟩, rfl, rfl,
     by decide +kernel, fetch_got _ (by decide +kernel), rfl, rfl, rfl, by decide +kernel⟩,
   ⟨3, reading6 0, _, _, _, _, read6 0, _, _, _, 1, by decide +kernel, .inl ⟨(by decide +kernel), rfl⟩, rfl, rfl,
     by decide +kernel, fetch_got _ (by decide +kernel), rfl, rfl, rfl, by decide +kernel⟩,
   ⟨3, act, by decide +kernel⟩,
   ⟨3, ⟨6, 0, true, false, true⟩, [], _, _, (aborting6 desc1).modChan 3 ({ · with st := .offline }), by decide +kernel,
     rfl, rfl, by decide +kernel⟩,
   ⟨3, ⟨6, 0, true, false, true⟩, [], _, _, buffered3 (aborting6 desc1), _, by decide +kernel, rfl, rfl,
     by decide +kernel, fetch_wait _ (by decide +kernel)⟩,
   ⟨3, ⟨6, 0, true, false, true⟩, [], _, _, aborting6 desc1, _, aborted6 desc1, by decide +kernel, rfl, rfl,
     by decide +kernel, fetch_got _ (by decide +kernel)⟩,
   ⟨3, act.modEng 3
     ({ · with phase := .fetching, storeValid := true, storeCh := 3, storeOff := 8, store := [0], desc := { Desc.none with version := 1, progLen := 1, progOff := 8, args := [7] } }),
     by decide +kernel⟩,
   ⟨4, by decide +kernel⟩,
   ⟨4, 5, by decide +kernel⟩,
   ⟨3, (fetching3 0).modChan 3 ({ · with st := .offline }), _, _, by decide +kernel, (by decide +kernel), rfl, rfl,
     by decide +kernel⟩,
   ⟨3, buffered3 (fetching3 0), _, _, _, by decide +kernel, (by decide +kernel), rfl, rfl, by decide +kernel,
     pair_snd _ _ (by decide +kernel)⟩,
   ⟨3, fetching3 0x80, _, _, _, by decide +kernel, (by decide +kernel), rfl, rfl, by decide +kernel,
     pair_snd _ _ (by decide +kernel), by decide +kernel⟩,
   ⟨3, fetching3 0, _, _, _, by decide +kernel, (by decide +kernel), rfl, rfl, by decide +kernel,
     pair_snd _ _ (by decide +kernel), by decide +kernel⟩,
   ⟨buffered3 act, 3, 3, 0, 0, _, fetch_wait _ (by decide +kernel)⟩,
   ⟨act, 3, 3, 0, 0, _, fetchData (act.engineRead 3 3 0 0), fetch_got _ (by decide +kernel)⟩,
   ⟨3, act.modEng 3 ({ · with records := [⟨0, 0, 0, 6, 0, true, false, true, 0, 0, 0, 0, 0, 0, false, false⟩] }), ⟨0, 0,
     0, 6, 0, true, false, true, 0, 0, 0, 0, 0, 0, false, false⟩, [], _, _, by decide +kernel, (by decide +kernel), rfl,
     by decide +kernel, turn_go _ (by decide +kernel)⟩,
   ⟨3, (buffered3 act).modEng 3
     ({ · with records := [⟨0, 0, 0, 6, 0, true, false, true, 0, 0, 0, 0, 0, 0, false, false⟩] }), ⟨0, 0, 0, 6, 0, true,
     false, true, 0, 0, 0, 0, 0, 0, false, false⟩, [], _, _, by decide +kernel, (by decide +kernel), rfl,
     by decide +kernel, turn_wait _ (by decide +kernel)⟩,
   ⟨3, (inState .offline).modEng 3
     ({ · with records := [⟨0, 0, 0, 6, 0, true, false, true, 0, 0, 0, 0, 0, 0, false, false⟩] }), ⟨0, 0, 0, 6, 0, true,
     false, true, 0, 0, 0, 0, 0, 0, false, false⟩, [], _, by decide +kernel, (by decide +kernel), by decide +kernel, rfl⟩,
   ⟨3, prog 0 f0, _, by decide +kernel, rfl⟩,
   ⟨3, waits3 (prog 0x70 f0) 1, wordOf 0x70 f0, by decide +kernel⟩⟩

/-- States and operands that meet the hypotheses of the clauses of `ScalarInstructionsWriteTheirRegister`. -/
theorem witness_ScalarInstructionsWriteTheirRegister :
    (∃ (c : Fin 32) (f : Fields) (s : State), s.canIssue c 0x10 f = true ∧ f.only { d := true, i := true } = true) ∧
    (∃ (c : Fin 32) (f : Fields) (s : State), s.canIssue c 0x11 f = true ∧ f.only { d := true, i := true } = true) ∧
    (∃ (c : Fin 32) (f : Fields) (s : State), s.canIssue c 0x12 f = true ∧ f.only { d := true, a := true } = true) ∧
    (∃ (c : Fin 32) (f : Fields) (s : State), s.canIssue c 0x13 f = true ∧ f.only { d := true, a := true, b := true } =
      true) ∧
    (∃ (c : Fin 32) (f : Fields) (s : State), s.canIssue c 0x14 f = true ∧ f.only { d := true, a := true, b := true } =
      true) ∧
    (∃ (c : Fin 32) (f : Fields) (s : State), s.canIssue c 0x15 f = true ∧ f.only { d := true, a := true, i := true } =
      true) ∧
    (∃ (c : Fin 32) (f : Fields) (s : State), s.canIssue c 0x16 f = true ∧ f.only { d := true, a := true, b := true } =
      true) ∧
    (∃ (c : Fin 32) (f : Fields) (s : State), s.canIssue c 0x17 f = true ∧ f.only { d := true, a := true, b := true } =
      true) ∧
    (∃ (c : Fin 32) (f : Fields) (s : State), s.canIssue c 0x18 f = true ∧ f.only { d := true, a := true, b := true } =
      true) ∧
    (∃ (c : Fin 32) (f : Fields) (s : State), s.canIssue c 0x19 f = true ∧ f.only { d := true, a := true, i := true } =
      true ∧ f.u < 64) ∧
    (∃ (c : Fin 32) (f : Fields) (s : State), s.canIssue c 0x1A f = true ∧ f.only { d := true, a := true, i := true } =
      true ∧ f.u < 64) ∧
    (∃ (c : Fin 32) (f : Fields) (s : State) (k : Nat), s.canIssue c 0x1B f = true ∧ f.only { d := true, a := true } =
      true ∧ (∀ j, j < k → (s.g c f.a).getLsbD j = false) ∧ (k = 64 ∨ (s.g c f.a).getLsbD k = true)) ∧
    (∃ (c : Fin 32) (f : Fields) (s : State), s.canIssue c 0x1C f = true ∧ f.only { d := true, a := true } = true) ∧
    (∃ (c : Fin 32) (f : Fields) (s : State), s.canIssue c 0x1D f = true ∧ f.only { d := true, a := true, b := true } =
      true) ∧
    (∃ (c : Fin 32) (f : Fields) (op : BitVec 8) (i : Instr) (ok : Bool) (s : State), (op, i, ok) ∈ [ (0x10#8, Instr.li c
      f, f.only { d := true, i := true }), (0x11#8, .lih c f, f.only { d := true, i := true }), (0x12#8, .mov c f, f.only
      { d := true, a := true }), (0x13#8, .add c f, f.only { d := true, a := true, b := true }), (0x14#8, .sub c f, f.only
      { d := true, a := true, b := true }), (0x15#8, .addi c f, f.only { d := true, a := true, i := true }), (0x16#8, .and
      c f, f.only { d := true, a := true, b := true }), (0x17#8, .or c f, f.only { d := true, a := true, b := true }),
      (0x18#8, .xor c f, f.only { d := true, a := true, b := true }), (0x19#8, .shl c f, f.only
      { d := true, a := true, i := true } && decide (f.u < 64)), (0x1A#8, .shr c f, f.only
      { d := true, a := true, i := true } && decide (f.u < 64)), (0x1B#8, .ctz c f, f.only { d := true, a := true }),
      (0x1C#8, .popc c f, f.only { d := true, a := true }), (0x1D#8, .mul c f, f.only
      { d := true, a := true, b := true })] ∧ ok = false ∧ s.issuable c op f = true) ∧
    (∃ (c : Fin 32) (op : BitVec 8) (f : Fields) (s : State), s.issuable c op f = true ∧ opKnown op.toNat = false) :=
  ⟨⟨3, f0, prog 0x10 f0, by decide +kernel⟩,
   ⟨3, f0, prog 0x11 f0, by decide +kernel⟩,
   ⟨3, f0, prog 0x12 f0, by decide +kernel⟩,
   ⟨3, f0, prog 0x13 f0, by decide +kernel⟩,
   ⟨3, f0, prog 0x14 f0, by decide +kernel⟩,
   ⟨3, f0, prog 0x15 f0, by decide +kernel⟩,
   ⟨3, f0, prog 0x16 f0, by decide +kernel⟩,
   ⟨3, f0, prog 0x17 f0, by decide +kernel⟩,
   ⟨3, f0, prog 0x18 f0, by decide +kernel⟩,
   ⟨3, { f0 with imm := 63 }, prog 0x19 { f0 with imm := 63 }, by decide +kernel⟩,
   ⟨3, { f0 with imm := 63 }, prog 0x1A { f0 with imm := 63 }, by decide +kernel⟩,
   ⟨3, f0, prog 0x1B f0, 64, by decide +kernel⟩,
   ⟨3, f0, prog 0x1C f0, by decide +kernel⟩,
   ⟨3, f0, prog 0x1D f0, by decide +kernel⟩,
   ⟨3, { f0 with imm := 64 }, 0x19#8, .shl 3 { f0 with imm := 64 }, false, prog 0x19 { f0 with imm := 64 },
     by simp [Fields.only, Fields.u, f0], by decide +kernel⟩,
   ⟨3, 0x0F#8, f0, prog 0x0F f0, by decide +kernel⟩⟩

/-- States and operands that meet the hypotheses of the clauses of `APlainRegisterWriteLeavesTheRest`. -/
theorem witness_APlainRegisterWriteLeavesTheRest :
    (∃ (p : Path) (a : BitVec 24) (w : Word) (r : Reg) (u i : Nat) (s t : State) (b : Nat), plainReg r = true ∧ a.toNat =
      adr r u i ∧ s.granted p r u i w = true ∧ s.bringUp = none ∧ exec (.registerWrite p a w) s = .next t ∧ b ≠ adr r u i
      ∧ b ≠ adr r u i + eastOffset ∧ (¬ CommitWrites b)) ∧
    (∃ (p : Path) (a : BitVec 24) (w : Word) (r : Reg) (u i : Nat) (s t : State), plainReg r = true ∧ a.toNat = adr r u i
      ∧ s.granted p r u i w = true ∧ s.bringUp = none ∧ exec (.registerWrite p a w) s = .next t ∧ (¬ CommitWrites (adr r u
      i))) ∧
    (∃ (p : Path) (a : BitVec 24) (w : Word) (r : Reg) (u i : Nat) (s t : State), plainReg r = true ∧ a.toNat = adr r u i
      ∧ s.granted p r u i w = true ∧ s.bringUp = none ∧ exec (.registerWrite p a w) s = .next t) ∧
    (∃ (p : Path) (a : BitVec 24) (w : Word) (r : Reg) (u i : Nat) (s t : State), plainReg r = true ∧ a.toNat = adr r u i
      ∧ s.granted p r u i w = true ∧ s.bringUp = none ∧ exec (.registerWrite p a w) s = .next t ∧ (s.life.session = 0 ∨
      s.life.sessPath ≠ pathNum p)) :=
  ⟨⟨.fw .west, BitVec.ofNat 24 (adr .QOS_THROTTLE), 3#32, .QOS_THROTTLE, 0, 0, act, _, 0, by decide +kernel,
     (by decide +kernel), by decide +kernel, (by decide +kernel), rfl, by decide +kernel, (by decide +kernel),
     (by rintro (h | h | h) <;> first | exact absurd h (by decide +kernel) | exact not_obsWrites (by decide +kernel) (by decide +kernel) (by decide +kernel) (by decide +kernel) h)⟩,
   ⟨.fw .west, BitVec.ofNat 24 (adr .QOS_THROTTLE), 3#32, .QOS_THROTTLE, 0, 0, act, _, by decide +kernel,
     (by decide +kernel), by decide +kernel, (by decide +kernel), rfl,
     (by rintro (h | h | h) <;> first | exact absurd h (by decide +kernel) | exact not_obsWrites (by decide +kernel) (by decide +kernel) (by decide +kernel) (by decide +kernel) h)⟩,
   ⟨.fw .west, BitVec.ofNat 24 (adr .QOS_THROTTLE), 3#32, .QOS_THROTTLE, 0, 0, act, _, by decide +kernel,
     (by decide +kernel), by decide +kernel, (by decide +kernel), rfl⟩,
   ⟨.fw .west, BitVec.ofNat 24 (adr .QOS_THROTTLE), 3#32, .QOS_THROTTLE, 0, 0, act, _, by decide +kernel,
     (by decide +kernel), by decide +kernel, (by decide +kernel), rfl, by decide +kernel⟩⟩

/-- States and operands that meet the hypotheses of the clauses of `ScalarInstructionsLeaveTheRest`. -/
theorem witness_ScalarInstructionsLeaveTheRest :
    (∃ (c : Fin 32) (f : Fields) (op : BitVec 8) (i : Instr) (ok : Bool) (s t : State), (op, i, ok) ∈ [ (0x10#8, Instr.li
      c f, f.only { d := true, i := true }), (0x11#8, .lih c f, f.only { d := true, i := true }), (0x12#8, .mov c f,
      f.only { d := true, a := true }), (0x13#8, .add c f, f.only { d := true, a := true, b := true }), (0x14#8, .sub c f,
      f.only { d := true, a := true, b := true }), (0x15#8, .addi c f, f.only { d := true, a := true, i := true }),
      (0x16#8, .and c f, f.only { d := true, a := true, b := true }), (0x17#8, .or c f, f.only
      { d := true, a := true, b := true }), (0x18#8, .xor c f, f.only { d := true, a := true, b := true }), (0x19#8, .shl
      c f, f.only { d := true, a := true, i := true } && decide (f.u < 64)), (0x1A#8, .shr c f, f.only
      { d := true, a := true, i := true } && decide (f.u < 64)), (0x1B#8, .ctz c f, f.only { d := true, a := true }),
      (0x1C#8, .popc c f, f.only { d := true, a := true }), (0x1D#8, .mul c f, f.only
      { d := true, a := true, b := true })] ∧ ok = true ∧ s.canIssue c op f = true ∧ s.bringUp = none ∧ exec i s = .next t) ∧
    (∃ (c : Fin 32) (f : Fields) (op : BitVec 8) (i : Instr) (ok : Bool) (s t : State) (k : Nat), (op, i, ok) ∈ [
      (0x10#8, Instr.li c f, f.only { d := true, i := true }), (0x11#8, .lih c f, f.only { d := true, i := true }),
      (0x12#8, .mov c f, f.only { d := true, a := true }), (0x13#8, .add c f, f.only { d := true, a := true, b := true }),
      (0x14#8, .sub c f, f.only { d := true, a := true, b := true }), (0x15#8, .addi c f, f.only
      { d := true, a := true, i := true }), (0x16#8, .and c f, f.only { d := true, a := true, b := true }), (0x17#8, .or c
      f, f.only { d := true, a := true, b := true }), (0x18#8, .xor c f, f.only { d := true, a := true, b := true }),
      (0x19#8, .shl c f, f.only { d := true, a := true, i := true } && decide (f.u < 64)), (0x1A#8, .shr c f, f.only
      { d := true, a := true, i := true } && decide (f.u < 64)), (0x1B#8, .ctz c f, f.only { d := true, a := true }),
      (0x1C#8, .popc c f, f.only { d := true, a := true }), (0x1D#8, .mul c f, f.only
      { d := true, a := true, b := true })] ∧ ok = true ∧ s.canIssue c op f = true ∧ s.bringUp = none ∧ exec i s = .next t
      ∧ k ≠ f.d) ∧
    (∃ (c : Fin 32) (f : Fields) (op : BitVec 8) (i : Instr) (ok : Bool) (s t : State) (a : Nat), (op, i, ok) ∈ [
      (0x10#8, Instr.li c f, f.only { d := true, i := true }), (0x11#8, .lih c f, f.only { d := true, i := true }),
      (0x12#8, .mov c f, f.only { d := true, a := true }), (0x13#8, .add c f, f.only { d := true, a := true, b := true }),
      (0x14#8, .sub c f, f.only { d := true, a := true, b := true }), (0x15#8, .addi c f, f.only
      { d := true, a := true, i := true }), (0x16#8, .and c f, f.only { d := true, a := true, b := true }), (0x17#8, .or c
      f, f.only { d := true, a := true, b := true }), (0x18#8, .xor c f, f.only { d := true, a := true, b := true }),
      (0x19#8, .shl c f, f.only { d := true, a := true, i := true } && decide (f.u < 64)), (0x1A#8, .shr c f, f.only
      { d := true, a := true, i := true } && decide (f.u < 64)), (0x1B#8, .ctz c f, f.only { d := true, a := true }),
      (0x1C#8, .popc c f, f.only { d := true, a := true }), (0x1D#8, .mul c f, f.only
      { d := true, a := true, b := true })] ∧ ok = true ∧ s.canIssue c op f = true ∧ s.bringUp = none ∧ exec i s = .next t
      ∧ (¬ CommitWrites a)) :=
  ⟨⟨3, f0, 0x10#8, .li 3 f0, true, prog 0x10 f0, _, by simp [Fields.only, f0], by decide +kernel, (by decide +kernel),
     by decide +kernel, rfl⟩,
   ⟨3, f0, 0x10#8, .li 3 f0, true, prog 0x10 f0, _, 15, by simp [Fields.only, f0], by decide +kernel,
     (by decide +kernel), by decide +kernel, rfl, by decide +kernel⟩,
   ⟨3, f0, 0x10#8, .li 3 f0, true, prog 0x10 f0, _, 0, by simp [Fields.only, f0], by decide +kernel,
     (by decide +kernel), by decide +kernel, rfl,
     (by rintro (h | h | h) <;> first | exact absurd h (by decide +kernel) | exact not_obsWrites (by decide +kernel) (by decide +kernel) (by decide +kernel) (by decide +kernel) h)⟩⟩

/-- States and operands that meet the hypotheses of the clauses of `ControlComparisonAndStatusInstructions`. -/
theorem witness_ControlComparisonAndStatusInstructions :
    (∃ (c : Fin 32) (f : Fields) (s : State), s.canIssue c 0x00 f = true ∧ f.only {} = true) ∧
    (∃ (c : Fin 32) (f : Fields) (s : State), s.issuable c 0x00 f = true ∧ f.only {} = true ∧ (s.chan c).eng.store.length
      ≤ (s.chan c).eng.pc + 1) ∧
    (∃ (c : Fin 32) (f : Fields) (s : State), s.issuable c 0x01 f = true ∧ f.only {} = true) ∧
    (∃ (c : Fin 32) (f : Fields) (s : State), s.issuable c 0x02 f = true ∧ f.only { a := true, m := true, i := true } =
      true ∧ f.m ≤ 2 ∧ f.a < 4 ∧ (f.m = 0 → f.a = 0) ∧ f.u < 2048 ∧ f.u < (s.chan c).eng.store.length ∧ (f.m = 0 ∨ (f.m =
      1 ∧ s.pred c f.a = true) ∨ (f.m = 2 ∧ s.pred c f.a = false))) ∧
    (∃ (c : Fin 32) (f : Fields) (s : State), s.canIssue c 0x02 f = true ∧ f.only { a := true, m := true, i := true } =
      true ∧ f.a < 4 ∧ f.u < 2048 ∧ f.u < (s.chan c).eng.store.length ∧ ((f.m = 1 ∧ s.pred c f.a = false) ∨ (f.m = 2 ∧
      s.pred c f.a = true))) ∧
    (∃ (c : Fin 32) (f : Fields) (s : State), s.issuable c 0x02 f = true ∧ f.only { a := true, m := true, i := true } =
      true ∧ f.m ≤ 2 ∧ f.a < 4 ∧ (f.m = 0 → f.a = 0) ∧ f.u < 2048 ∧ (s.chan c).eng.store.length ≤ f.u) ∧
    (∃ (c : Fin 32) (f : Fields) (s : State), s.canIssue c 0x03 f = true ∧ f.only { i := true } = true ∧ f.u = 0) ∧
    (∃ (c : Fin 32) (f : Fields) (s : State), s.issuable c 0x03 f = true ∧ f.only { i := true } = true ∧ f.u ≠ 0) ∧
    (∃ (c : Fin 32) (f : Fields) (s : State) (n : Nat), (s.chan c).eng.phase = .running ∧ (s.chan c).eng.waiting = some n
      ∧ (s.chan c).eng.store[(s.chan c).eng.pc]? = some (wordOf 0x03 f) ∧ f.only { i := true } = true ∧ f.u ≠ 0) ∧
    (∃ (c : Fin 32) (f : Fields) (s : State), s.canIssue c 0x04 f = true ∧ f.only { d := true } = true) ∧
    (∃ (c : Fin 32) (f : Fields) (s : State), s.canIssue c 0x20 f = true ∧ f.only
      { d := true, a := true, b := true, m := true } = true ∧ f.d < 4 ∧ f.m < 6) ∧
    (∃ (c : Fin 32) (f : Fields) (s : State), s.canIssue c 0x21 f = true ∧ f.only
      { d := true, a := true, m := true, i := true } = true ∧ f.d < 4 ∧ f.m < 6) ∧
    (∃ (c : Fin 32) (f : Fields) (s : State), s.canIssue c 0x24 f = true ∧ f.only { d := true } = true) ∧
    (∃ (c : Fin 32) (f : Fields) (s : State), s.canIssue c 0x25 f = true ∧ f.only { i := true } = true ∧ f.imm &&&
      ~~~0x301#32 = 0) ∧
    (∃ (c : Fin 32) (f : Fields) (s : State) (x : Res), s.issuable c 0x30 f = true ∧ f.only
      { d := true, a := true, m := true, i := true } = true ∧ f.m ≤ 1 ∧ (f.m = 0 → f.a = 0) ∧ x = (s.issued c).access
      (.eng c (Fin.ofNat 8 (s.chan c).eng.queue)) ((s.issued c).cfgAddr c f) false 0 Given.plain .engine) ∧
    (∃ (c : Fin 32) (f : Fields) (s : State) (x : Res), s.issuable c 0x31 f = true ∧ f.only
      { a := true, b := true, m := true, i := true } = true ∧ f.m ≤ 1 ∧ (f.m = 0 → f.a = 0) ∧ (s.chan c).eng.progress = 0
      ∧ x = (s.issued c).access (.eng c (Fin.ofNat 8 (s.chan c).eng.queue)) ((s.issued c).cfgAddr c f) true ((s.g c
      f.b).setWidth 32) Given.plain .engine) :=
  ⟨⟨3, f0, prog 0x00 f0, by decide +kernel⟩,
   ⟨3, f0, (prog 0x00 f0).modEng 3 ({ · with store := [wordOf 0x00 f0] }), by decide +kernel⟩,
   ⟨3, f0, prog 0x01 f0, by decide +kernel⟩,
   ⟨3, { f0 with mod := 2, imm := 1, src1 := 3 }, prog 0x02 { f0 with mod := 2, imm := 1, src1 := 3 },
     by decide +kernel⟩,
   ⟨3, { f0 with mod := 1, imm := 1, src1 := 3 }, prog 0x02 { f0 with mod := 1, imm := 1, src1 := 3 },
     by decide +kernel⟩,
   ⟨3, { f0 with mod := 0, imm := 2, src1 := 0 }, prog 0x02 { f0 with mod := 0, imm := 2, src1 := 0 },
     by decide +kernel⟩,
   ⟨3, f0, prog 0x03 f0, by decide +kernel⟩,
   ⟨3, { f0 with imm := 1 }, prog 0x03 { f0 with imm := 1 }, by decide +kernel⟩,
   ⟨3, { f0 with imm := 1 }, waits3 (prog 0x03 { f0 with imm := 1 }) 0, 1000000, by decide +kernel⟩,
   ⟨3, f0, prog 0x04 f0, by decide +kernel⟩,
   ⟨3, { f0 with mod := 5, dst := 3 }, prog 0x20 { f0 with mod := 5, dst := 3 }, by decide +kernel⟩,
   ⟨3, { f0 with mod := 5, dst := 3 }, prog 0x21 { f0 with mod := 5, dst := 3 }, by decide +kernel⟩,
   ⟨3, f0, prog 0x24 f0, by decide +kernel⟩,
   ⟨3, { f0 with imm := 0x301 }, prog 0x25 { f0 with imm := 0x301 }, by decide +kernel⟩,
   ⟨3, f0, prog 0x30 f0, _, by decide +kernel, (by decide +kernel), by decide +kernel, (by decide +kernel), rfl⟩,
   ⟨3, f0, prog 0x31 f0, _, by decide +kernel, (by decide +kernel), by decide +kernel, (by decide +kernel),
     by decide +kernel, rfl⟩⟩

/-- States and operands that meet the hypotheses of the clauses of `FirmwareOpcodesRunFromQ7Only`. -/
theorem witness_FirmwareOpcodesRunFromQ7Only :
    (∃ (c : Fin 32) (op : BitVec 8) (f : Fields) (s : State), s.issuable c op f = true ∧ 0xF0 ≤ op.toNat ∧ (s.chan
      c).eng.queue ≠ 7) ∧
    (∃ (c : Fin 32) (op : BitVec 8) (f : Fields) (s : State), s.issuable c op f = true ∧ 0xF0 ≤ op.toNat ∧ (s.chan
      c).eng.queue = 7) :=
  ⟨⟨3, 0xF0#8, f0, prog 0xF0 f0, by decide +kernel⟩,
   ⟨3, 0xFF#8, f0, prog 0xFF f0 7, by decide +kernel⟩⟩

/-- States and operands that meet the hypotheses of the clauses of `GlobalWritesOfTheOtherHalfBounce`. -/
theorem witness_GlobalWritesOfTheOtherHalfBounce :
    (∃ (h : Half) (a : BitVec 24) (r : Reg) (u i : Nat) (s : State), s.pathUp (.fw h) = true ∧ s.mode ≠ .fatal ∧
      s.refused (.fw h) a.toNat true = none ∧ regAt a.toNat = some (r, u, i) ∧ ((accessIslands h a.toNat true).all fun k
      => !s.flag (F.GLB_ISL_STS_GATED k)) = true ∧ (a.toNat < 0x10000 ∨ (0x20000 ≤ a.toNat ∧ a.toNat < 0x40000)) ∧
      s.holder ≠ h) ∧
    (∃ (p : Path), hostPath p = true) :=
  ⟨⟨.east, BitVec.ofNat 24 (adr .GLB_ISL_CTL 0 3), .GLB_ISL_CTL, 0, 3, act, by decide +kernel⟩,
   ⟨.sb 3, by decide +kernel⟩⟩

/-- States and operands that meet the hypotheses of the clauses of `InstructionWordsAndCommandsAgree`. -/
theorem witness_InstructionWordsAndCommandsAgree : ∃ (i : Instr) (c : Fin 32) (w : Word64), i.wf = true ∧ encodeExdun i = some (c, w) :=
  ⟨.li 3 f0, 3, wordOf 0x10 f0, by decide +kernel, rfl⟩

/-- States and operands that meet the hypotheses of the clauses of `ProgramsPinRowsAndReachTheirWords`. -/
theorem witness_ProgramsPinRowsAndReachTheirWords :
    (∃ (c : Fin 32) (f : Fields) (s : State) (k : Fin 16), s.canIssue c 0x40 f = true ∧ f.only { a := true, n := true } =
      true ∧ s.locFault c (readReach (s.chan c).eng.queue) (s.g c f.a) false = none ∧ s.chanOut c = false ∧ s.pinnedRow c
      (s.g c f.a).toNat = some k) ∧
    (∃ (c : Fin 32) (f : Fields) (s t : State) (i : Nat), s.issuable c 0x40 f = true ∧ f.only { a := true, n := true } =
      true ∧ s.locFault c (readReach (s.chan c).eng.queue) (s.g c f.a) false = none ∧ s.chanOut c = false ∧ s.pinnedRow c
      (s.g c f.a).toNat = none ∧ (s.chan c).eng.pinCount < 16 ∧ t = (s.issued c).useMap (s.g c f.a).toNat ∧ (t.chan
      c).eng.phase = .running ∧ t.findSlot (s.g c f.a).toNat = some i ∧ t.rowWaits (s.g c f.a).toNat true = false ∧
      t.fillRuns (s.g c f.a).toNat = false) ∧
    (∃ (c : Fin 32) (f : Fields) (s t : State), s.issuable c 0x40 f = true ∧ f.only { a := true, n := true } = true ∧
      s.locFault c (readReach (s.chan c).eng.queue) (s.g c f.a) false = none ∧ s.chanOut c = false ∧ s.pinnedRow c (s.g c
      f.a).toNat = none ∧ (s.chan c).eng.pinCount < 16 ∧ t = (s.issued c).useMap (s.g c f.a).toNat ∧ (t.chan c).eng.phase
      = .running ∧ (t.rowWaits (s.g c f.a).toNat true = true ∨ t.fillRuns (s.g c f.a).toNat = true)) ∧
    (∃ (c : Fin 32) (f : Fields) (s t u v : State) (i : Nat), s.issuable c 0x40 f = true ∧ f.only
      { a := true, n := true } = true ∧ s.locFault c (readReach (s.chan c).eng.queue) (s.g c f.a) false = none ∧ s.chanOut
      c = false ∧ s.pinnedRow c (s.g c f.a).toNat = none ∧ (s.chan c).eng.pinCount < 16 ∧ t = (s.issued c).useMap (s.g c
      f.a).toNat ∧ (t.chan c).eng.phase = .running ∧ t.findSlot (s.g c f.a).toNat = none ∧ t.rowWaits (s.g c f.a).toNat
      true = false ∧ t.fillRuns (s.g c f.a).toNat = false ∧ t.freeVictim c = .slot u i ∧ u.written (s.g c f.a).toNat =
      true ∧ (u.chan c).closing (locCbi (s.g c f.a).toNat) = false ∧ u.ownCycle c (s.g c f.a).toNat 1 4 = .go v) ∧
    (∃ (c : Fin 32) (f : Fields) (s : State) (code : Nat), s.issuable c 0x40 f = true ∧ f.only { a := true, n := true } =
      true ∧ s.locFault c (readReach (s.chan c).eng.queue) (s.g c f.a) false = some code) ∧
    (∃ (c : Fin 32) (f : Fields) (s : State), s.issuable c 0x40 f = true ∧ f.only { a := true, n := true } = true ∧
      s.locFault c (readReach (s.chan c).eng.queue) (s.g c f.a) false = none ∧ s.chanOut c = false ∧ s.pinnedRow c (s.g c
      f.a).toNat = none ∧ (s.chan c).eng.pinCount = 16) ∧
    (∃ (c : Fin 32) (f : Fields) (s t : State) (i : Nat), s.issuable c 0x41 f = true ∧ f.only { a := true, n := true } =
      true ∧ s.locFault c (writeReach (s.chan c).eng.queue) (s.g c f.a) false = none ∧ s.chanOut c = false ∧ ((s.pinnedRow
      c (s.g c f.a).toNat).isSome = true ∨ (s.chan c).eng.pinCount < 16) ∧ t = (s.issued c).useMap (s.g c f.a).toNat ∧
      (t.chan c).eng.phase = .running ∧ t.written (s.g c f.a).toNat = true ∧ t.findSlot (s.g c f.a).toNat = some i ∧
      t.rowWaits (s.g c f.a).toNat true = false ∧ t.rowInCycle (s.g c f.a).toNat = false ∧ (t.slot c i).state ≠ .cleaning) ∧
    (∃ (c : Fin 32) (f : Fields) (s t : State), s.issuable c 0x41 f = true ∧ f.only { a := true, n := true } = true ∧
      s.locFault c (writeReach (s.chan c).eng.queue) (s.g c f.a) false = none ∧ s.chanOut c = false ∧ ((s.pinnedRow c (s.g
      c f.a).toNat).isSome = true ∨ (s.chan c).eng.pinCount < 16) ∧ t = (s.issued c).useMap (s.g c f.a).toNat ∧ (t.chan
      c).eng.phase = .running ∧ t.written (s.g c f.a).toNat = false) ∧
    (∃ (c : Fin 32) (f : Fields) (s : State), s.canIssue c 0x42 f = true ∧ f.only { i := true } = true ∧ f.u < 256) ∧
    (∃ (c : Fin 32) (f : Fields) (s : State) (i : Nat), s.canIssue c 0x43 f = true ∧ f.only { n := true } = true ∧
      s.hslot c f.n = some i ∧ s.handleRetired c f.n = false ∧ s.chanOut c = false ∧ (s.chan c).eng.progress = 0 ∧ (s.slot
      c i).state ≠ .dirty) ∧
    (∃ (c : Fin 32) (f : Fields) (s : State) (i : Nat) (t : State), s.issuable c 0x43 f = true ∧ f.only { n := true } =
      true ∧ s.hslot c f.n = some i ∧ s.handleRetired c f.n = false ∧ s.chanOut c = false ∧ (s.chan c).eng.progress = 0 ∧
      (s.slot c i).state = .dirty ∧ (s.chan c).held.contains i = false ∧ (s.issued c).ownCycle c (s.slot c i).loc 1 4 =
      .go t) ∧
    (∃ (c : Fin 32) (f : Fields) (s : State) (i : Nat), s.canIssue c 0x44 f = true ∧ f.only { d := true, n := true } =
      true ∧ s.hslot c f.n = some i) ∧
    (∃ (c : Fin 32) (f : Fields) (s : State), s.issuable c 0x44 f = true ∧ f.only { d := true, n := true } = true ∧
      s.hslot c f.n = none) ∧
    (∃ (c : Fin 32) (f : Fields) (s : State) (i : Nat) (r : State × Decoded), s.issuable c 0x45 f = true ∧ f.only
      { d := true, b := true, n := true, m := true, i := true } = true ∧ wordBad f = false ∧ s.hslot c f.n = some i ∧
      s.handleRetired c f.n = false ∧ s.chanOut c = false ∧ r = ((s.issued c).touch (s.slot c i).loc).decodeStored
      ⟨(s.slot c i).loc, s.wordSector c f⟩ (s.progFor c)) ∧
    (∃ (c : Fin 32) (f : Fields) (s t : State) (i : Nat) (r : State × Decoded) (x : Place3), s.issuable c 0x46 f = true ∧
      f.only { a := true, b := true, n := true, m := true, i := true } = true ∧ wordBad f = false ∧ s.hslot c f.n = some i
      ∧ s.handleRetired c f.n = false ∧ inReach (writeReach (s.chan c).eng.queue) (s.slot c i).loc false = true ∧
      s.chanOut c = false ∧ t = (s.issued c).useMap (s.slot c i).loc ∧ (t.chan c).eng.phase = .running ∧ t.written (s.slot
      c i).loc = true ∧ x = ⟨(s.slot c i).loc, s.wordSector c f⟩ ∧ r = t.decodeStored x (t.progFor c)) ∧
    (∃ (c : Fin 32) (f : Fields) (s : State) (i : Nat), s.issuable c 0x46 f = true ∧ f.only
      { a := true, b := true, n := true, m := true, i := true } = true ∧ wordBad f = false ∧ s.hslot c f.n = some i ∧
      s.handleRetired c f.n = false ∧ inReach (writeReach (s.chan c).eng.queue) (s.slot c i).loc false = false) ∧
    (∃ (c : Fin 32) (f : Fields) (s : State) (i : Instr) (op : BitVec 8), (i = .slotLdw c f ∧ op = 0x45 ∧ f.only
      { d := true, b := true, n := true, m := true, i := true } = true ∧ wordBad f = false ∨ i = .slotStw c f ∧ op = 0x46
      ∧ f.only { a := true, b := true, n := true, m := true, i := true } = true ∧ wordBad f = false ∨ i = .rowWb c f ∧ op
      = 0x43 ∧ f.only { n := true } = true ∧ (s.chan c).eng.progress = 0) ∧ s.issuable c op f = true ∧ (s.hslot c
      f.n).isSome = true ∧ s.handleRetired c f.n = true) :=
  ⟨⟨3, { f0 with src1 := 1 }, rows 0x40 ({ f0 with src1 := 1 }) .clean, 0, by decide +kernel⟩,
   ⟨3, { f0 with src1 := 1 }, rows 0x40 ({ f0 with src1 := 1 }) .dirty row3 false, _, 3, by decide +kernel,
     (by decide +kernel), by decide +kernel, (by decide +kernel), by decide +kernel, (by decide +kernel), rfl,
     by decide +kernel⟩,
   ⟨3, { f0 with src1 := 1 }, rows 0x40 ({ f0 with src1 := 1 }) .filling row3 false, _, by decide +kernel,
     (by decide +kernel), by decide +kernel, (by decide +kernel), by decide +kernel, (by decide +kernel), rfl,
     by decide +kernel⟩,
   ⟨3, { f0 with src1 := 1 }, rows 0x40 ({ f0 with src1 := 1 }) .empty row3 false, _, _, _, 0, by decide +kernel,
     (by decide +kernel), by decide +kernel, (by decide +kernel), by decide +kernel, (by decide +kernel), rfl,
     by decide +kernel, (by decide +kernel), by decide +kernel, (by decide +kernel), rfl, by decide +kernel,
     (by decide +kernel), turn_go _ (by decide +kernel)⟩,
   ⟨3, { f0 with src1 := 2 }, rows 0x40 ({ f0 with src1 := 2 }) .clean, 0x14, by decide +kernel⟩,
   ⟨3, { f0 with src1 := 1 }, (rows 0x40 ({ f0 with src1 := 1 }) .empty row3 false).modEng 3
     ({ · with pins := Vector.replicate 16 (some 9) }), by decide +kernel⟩,
   ⟨3, { f0 with src1 := 1 }, wr3 (rows 0x41 ({ f0 with src1 := 1 }) .dirty user3 false), _, 3, by decide +kernel,
     (by decide +kernel), by decide +kernel, (by decide +kernel), by decide +kernel, rfl, by decide +kernel⟩,
   ⟨3, { f0 with src1 := 1 }, rows 0x41 ({ f0 with src1 := 1 }) .empty user3 false, _, by decide +kernel,
     (by decide +kernel), by decide +kernel, (by decide +kernel), by decide +kernel, rfl, by decide +kernel⟩,
   ⟨3, { f0 with imm := 255 }, rows 0x42 ({ f0 with imm := 255 }) .clean, by decide +kernel⟩,
   ⟨3, f0, rows 0x43 f0 .clean, 3, by decide +kernel⟩,
   ⟨3, f0, rows 0x43 f0 .dirty, 3, _, by decide +kernel, (by decide +kernel), by decide +kernel, (by decide +kernel),
     by decide +kernel, (by decide +kernel), by decide +kernel, (by decide +kernel), turn_go _ (by decide +kernel)⟩,
   ⟨3, f0, rows 0x44 f0 .clean, 3, by decide +kernel⟩,
   ⟨3, f0, rows 0x44 f0 .clean row3 false, by decide +kernel⟩,
   ⟨3, f0, rows 0x45 f0 .clean, 3, _, by decide +kernel, (by decide +kernel), by decide +kernel, (by decide +kernel),
     by decide +kernel, (by decide +kernel), rfl⟩,
   ⟨3, f0, rows 0x46 f0 .clean, _, 3, _, _, by decide +kernel, (by decide +kernel), by decide +kernel,
     (by decide +kernel), by decide +kernel, (by decide +kernel), by decide +kernel, rfl, by decide +kernel,
     (by decide +kernel), rfl, rfl⟩,
   ⟨3, f0, rows 0x46 f0 .clean (mkLoc 3 0 0 2 48), 3, by decide +kernel⟩,
   ⟨3, f0, (rows 0x43 f0 .clean).retireRow row3, .rowWb 3 f0, 0x43#8,
     .inr (.inr ⟨rfl, rfl, (by decide +kernel), (by decide +kernel)⟩), by decide +kernel⟩⟩

/-- States and operands that meet the hypotheses of the clauses of `RowWideAndRawInstructions`. -/
theorem witness_RowWideAndRawInstructions :
    (∃ (c : Fin 32) (f : Fields) (s t : State) (r : State × List Decoded), s.issuable c 0x50 f = true ∧ f.only
      { a := true, n := true, i := true } = true ∧ f.a < 8 ∧ (s.hslot c f.n).isSome = true ∧ (s.hslot c f.a).isSome = true
      ∧ [f.n, f.a].any (s.handleRetired c) = false ∧ inReach (writeReach (s.chan c).eng.queue) (s.hloc c f.n) false = true
      ∧ s.chanOut c = false ∧ f.u ≠ 0 ∧ t = (s.issued c).useMap (s.hloc c f.n) ∧ (t.chan c).eng.phase = .running ∧
      t.written (s.hloc c f.n) = true ∧ r = t.readRow c (t.hloc c f.a) f.u) ∧
    (∃ (c : Fin 32) (f : Fields) (s t : State), s.issuable c 0x51 f = true ∧ f.only
      { a := true, n := true, m := true, i := true } = true ∧ f.m < 16 ∧ (s.hslot c f.n).isSome = true ∧ [f.n].any
      (s.handleRetired c) = false ∧ inReach (writeReach (s.chan c).eng.queue) (s.hloc c f.n) false = true ∧ s.chanOut c =
      false ∧ f.u ≠ 0 ∧ t = (s.issued c).useMap (s.hloc c f.n) ∧ (t.chan c).eng.phase = .running ∧ t.written (s.hloc c
      f.n) = true) ∧
    (∃ (c : Fin 32) (f : Fields) (s t : State), s.issuable c 0x52 f = true ∧ f.only { n := true, i := true } = true ∧
      (s.hslot c f.n).isSome = true ∧ [f.n].any (s.handleRetired c) = false ∧ inReach (writeReach (s.chan c).eng.queue)
      (s.hloc c f.n) false = true ∧ s.chanOut c = false ∧ f.u ≠ 0 ∧ t = (s.issued c).useMap (s.hloc c f.n) ∧ (t.chan
      c).eng.phase = .running ∧ t.written (s.hloc c f.n) = true) ∧
    (∃ (c : Fin 32) (f : Fields) (s : State), s.canIssue c 0x52 f = true ∧ f.only { n := true, i := true } = true ∧
      (s.hslot c f.n).isSome = true ∧ [f.n].any (s.handleRetired c) = false ∧ inReach (writeReach (s.chan c).eng.queue)
      (s.hloc c f.n) false ∧ s.chanOut c = false ∧ f.u = 0) ∧
    (∃ (c : Fin 32) (f : Fields) (s t : State), s.issuable c 0x52 f = true ∧ f.only { n := true, i := true } = true ∧
      (s.hslot c f.n).isSome = true ∧ [f.n].any (s.handleRetired c) = false ∧ inReach (writeReach (s.chan c).eng.queue)
      (s.hloc c f.n) false = true ∧ s.chanOut c = false ∧ f.u ≠ 0 ∧ t = (s.issued c).useMap (s.hloc c f.n) ∧ (t.chan
      c).eng.phase = .running ∧ t.written (s.hloc c f.n) = false) ∧
    (∃ (c : Fin 32) (f : Fields) (s t : State) (r q : State × List Decoded), s.issuable c 0x53 f = true ∧ f.only
      { a := true, b := true, n := true, m := true, i := true } = true ∧ f.a < 8 ∧ f.b < 8 ∧ f.m < 4 ∧ (s.hslot c
      f.n).isSome = true ∧ (s.hslot c f.a).isSome = true ∧ (s.hslot c f.b).isSome = true ∧ [f.n, f.a, f.b].any
      (s.handleRetired c) = false ∧ inReach (writeReach (s.chan c).eng.queue) (s.hloc c f.n) false = true ∧ s.chanOut c =
      false ∧ f.u ≠ 0 ∧ t = (s.issued c).useMap (s.hloc c f.n) ∧ (t.chan c).eng.phase = .running ∧ t.written (s.hloc c
      f.n) = true ∧ r = t.readRow c (t.hloc c f.a) f.u ∧ q = r.1.readRow c (t.hloc c f.b) f.u) ∧
    (∃ (c : Fin 32) (f : Fields) (s t : State) (r : State × List Decoded), s.issuable c 0x53 f = true ∧ f.only
      { a := true, n := true, m := true, i := true } = true ∧ f.a < 8 ∧ f.m = 4 ∧ (s.hslot c f.n).isSome = true ∧ (s.hslot
      c f.a).isSome = true ∧ [f.n, f.a].any (s.handleRetired c) = false ∧ inReach (writeReach (s.chan c).eng.queue)
      (s.hloc c f.n) false = true ∧ s.chanOut c = false ∧ f.u ≠ 0 ∧ t = (s.issued c).useMap (s.hloc c f.n) ∧ (t.chan
      c).eng.phase = .running ∧ t.written (s.hloc c f.n) = true ∧ r = t.readRow c (t.hloc c f.a) f.u) ∧
    (∃ (c : Fin 32) (f : Fields) (s : State) (i : Nat) (r : State × List Decoded), s.issuable c 0x54 f = true ∧ f.only
      { d := true, a := true, b := true, n := true, m := true, i := true } = true ∧ f.m < 16 ∧ s.hslot c f.n = some i ∧
      s.handleRetired c f.n = false ∧ s.chanOut c = false ∧ r = (s.issued c).readRow c (s.slot c i).loc f.u) ∧
    (∃ (c : Fin 32) (f : Fields) (s : State) (i : Nat) (r : State × List Decoded), s.issuable c 0x55 f = true ∧ f.only
      { d := true, n := true, i := true } = true ∧ s.hslot c f.n = some i ∧ s.handleRetired c f.n = false ∧ s.chanOut c =
      false ∧ r = (s.issued c).readRow c (s.slot c i).loc f.u) ∧
    (∃ (c : Fin 32) (f : Fields) (s : State) (i : Nat) (r : State × List Decoded), s.issuable c 0x56 f = true ∧ f.only
      { d := true, a := true, n := true, i := true } = true ∧ s.hslot c f.n = some i ∧ s.handleRetired c f.n = false ∧
      s.chanOut c = false ∧ r = (s.issued c).readRow c (s.slot c i).loc f.u) ∧
    (∃ (c : Fin 32) (f : Fields) (s : State) (i : Nat), s.issuable c 0x57 f = true ∧ f.only
      { d := true, a := true, n := true } = true ∧ (s.chan c).eng.progress = 0 ∧ s.hslot c f.n = some i ∧ locValid (s.g c
      f.a).toNat = true ∧ locCh (s.g c f.a).toNat ≠ c ∧ s.rowRetired (s.g c f.a).toNat = false ∧ s.handleRetired c f.n =
      false ∧ inReach (writeReach (s.chan c).eng.queue) (s.g c f.a).toNat false = true ∧ (s.chan (locCh (s.g c
      f.a).toNat)).st = .online ∧ s.chanOut c = false) ∧
    (∃ (c : Fin 32) (f : Fields) (s : State), (s.chan c).eng.phase = .running ∧ (s.chan c).eng.waiting.isSome = true ∧
      (s.chan c).eng.store[(s.chan c).eng.pc]? = some (wordOf 0x57 f) ∧ (s.chan c).eng.progress = 2) ∧
    (∃ (c : Fin 32) (f : Fields) (s t : State), s.issuable c 0x60 f = true ∧ f.only { a := true, i := true } = true ∧ f.u
      < 32 ∧ s.mayM c = true ∧ s.locFault c (readReach (s.chan c).eng.queue) (s.g c f.a) false = none ∧ s.chanOut c =
      false ∧ t = (s.issued c).useMap (s.g c f.a).toNat ∧ (t.chan c).eng.phase = .running ∧ t.fillRuns (s.g c f.a).toNat =
      true) ∧
    (∃ (c : Fin 32) (f : Fields) (s t : State), s.issuable c 0x60 f = true ∧ f.only { a := true, i := true } = true ∧ f.u
      < 32 ∧ s.mayM c = true ∧ s.locFault c (readReach (s.chan c).eng.queue) (s.g c f.a) false = none ∧ s.chanOut c =
      false ∧ t = (s.issued c).useMap (s.g c f.a).toNat ∧ (t.chan c).eng.phase = .running ∧ t.fillRuns (s.g c f.a).toNat =
      false ∧ t.written (s.g c f.a).toNat = false) ∧
    (∃ (c : Fin 32) (f : Fields) (s t v : State), s.issuable c 0x60 f = true ∧ f.only { a := true, i := true } = true ∧
      f.u < 32 ∧ s.mayM c = true ∧ s.locFault c (readReach (s.chan c).eng.queue) (s.g c f.a) false = none ∧ s.chanOut c =
      false ∧ t = (s.issued c).useMap (s.g c f.a).toNat ∧ (t.chan c).eng.phase = .running ∧ t.written (s.g c f.a).toNat =
      true ∧ t.ownAccess c (s.g c f.a).toNat 1 false = .go v) ∧
    (∃ (c : Fin 32) (f : Fields) (s t v : State), s.issuable c 0x60 f = true ∧ f.only { a := true, i := true } = true ∧
      f.u < 32 ∧ s.mayM c = true ∧ s.locFault c (readReach (s.chan c).eng.queue) (s.g c f.a) false = none ∧ s.chanOut c =
      false ∧ t = (s.issued c).useMap (s.g c f.a).toNat ∧ (t.chan c).eng.phase = .running ∧ t.written (s.g c f.a).toNat =
      true ∧ t.ownAccess c (s.g c f.a).toNat 1 false = .wait v) ∧
    (∃ (c : Fin 32) (f : Fields) (s t : State) (x : Place3) (v : State), s.issuable c 0x61 f = true ∧ f.only
      { a := true, m := true, i := true } = true ∧ wrrawBad f.m f.u = false ∧ s.mayM c = true ∧ s.locFault c (writeReach
      (s.chan c).eng.queue) (s.g c f.a) false = none ∧ s.chanOut c = false ∧ t = (s.issued c).useMap (s.g c f.a).toNat ∧
      (t.chan c).eng.phase = .running ∧ x = ⟨(s.g c f.a).toNat, f.u % 32⟩ ∧ t.written (s.g c f.a).toNat = true ∧
      t.ownAccess c (s.g c f.a).toNat 2 true = .go v) ∧
    (∃ (c : Fin 32) (f : Fields) (s t : State) (x : Place3) (v : State), s.issuable c 0x61 f = true ∧ f.only
      { a := true, m := true, i := true } = true ∧ wrrawBad f.m f.u = false ∧ s.mayM c = true ∧ s.locFault c (writeReach
      (s.chan c).eng.queue) (s.g c f.a) false = none ∧ s.chanOut c = false ∧ t = (s.issued c).useMap (s.g c f.a).toNat ∧
      (t.chan c).eng.phase = .running ∧ x = ⟨(s.g c f.a).toNat, f.u % 32⟩ ∧ t.written (s.g c f.a).toNat = true ∧
      t.ownAccess c (s.g c f.a).toNat 2 true = .wait v) ∧
    (∃ (s : State) (write : Bool) (w : Want), s.rowWaits w.loc write = false ∧ (w.moveIn ≠ some true ∨ write = true) ∧
      (s.findSlot w.loc).isSome = true ∧ s.progPort w = true) ∧
    (∃ (s : State) (write : Bool) (w : Want), s.rowWaits w.loc write = false ∧ (w.moveIn ≠ some true ∨ write = true) ∧
      (s.findSlot w.loc).isSome = true ∧ s.progPort w = false) ∧
    (∃ (s : State) (write may : Bool) (w : Want), s.rowWaits w.loc write = false ∧ (w.moveIn ≠ some true ∨ write = true)
      ∧ s.findSlot w.loc = none ∧ s.progWay w may = .promoting) ∧
    (∃ (s : State) (write may : Bool) (w : Want), s.rowWaits w.loc write = false ∧ (w.moveIn ≠ some true ∨ write = true)
      ∧ s.findSlot w.loc = none ∧ s.progWay w may = .afterRefresh) ∧
    (∃ (s : State) (k n : Nat) (write may : Bool) (w : Want) (t : State), s.rowWaits w.loc write = false ∧ (w.moveIn ≠
      some true ∨ write = true) ∧ s.findSlot w.loc = none ∧ s.progWay w may = .sector ∧ s.progCycle k w.loc n 1 w = .wait
      t) ∧
    (∃ (s : State) (k n : Nat) (write may : Bool) (w : Want) (t : State), s.rowWaits w.loc write = false ∧ (w.moveIn ≠
      some true ∨ write = true) ∧ s.findSlot w.loc = none ∧ s.progWay w may = .sector ∧ s.progCycle k w.loc n 1 w = .go t) ∧
    (∃ (c : Fin 32) (f : Fields) (s : State), s.issuable c 0x60 f = true ∧ f.only { a := true, i := true } = true ∧ f.u <
      32 ∧ (s.chan c).eng.queue < 6) :=
  ⟨⟨3, { f0 with imm := 0x80000000 }, rows 0x50 ({ f0 with imm := 0x80000000 }) .dirty, _, _, by decide +kernel,
     (by decide +kernel), by decide +kernel, (by decide +kernel), by decide +kernel, (by decide +kernel),
     by decide +kernel, (by decide +kernel), by decide +kernel, rfl, by decide +kernel, (by decide +kernel), rfl⟩,
   ⟨3, { f0 with imm := 1, mod := 15 }, rows 0x51 ({ f0 with imm := 1, mod := 15 }) .dirty, _, by decide +kernel,
     (by decide +kernel), by decide +kernel, (by decide +kernel), by decide +kernel, (by decide +kernel),
     by decide +kernel, (by decide +kernel), rfl, by decide +kernel⟩,
   ⟨3, { f0 with imm := 0x80000000 }, rows 0x52 ({ f0 with imm := 0x80000000 }) .dirty, _, by decide +kernel,
     (by decide +kernel), by decide +kernel, (by decide +kernel), by decide +kernel, (by decide +kernel),
     by decide +kernel, rfl, by decide +kernel⟩,
   ⟨3, f0, rows 0x52 f0 .dirty, by decide +kernel⟩,
   ⟨3, { f0 with imm := 0x80000000 }, rows 0x52 ({ f0 with imm := 0x80000000 }) .dirty user3, _, by decide +kernel,
     (by decide +kernel), by decide +kernel, (by decide +kernel), by decide +kernel, (by decide +kernel),
     by decide +kernel, rfl, by decide +kernel⟩,
   ⟨3, { f0 with imm := 1, mod := 3 }, rows 0x53 ({ f0 with imm := 1, mod := 3 }) .dirty, _, _, _, by decide +kernel,
     (by decide +kernel), by decide +kernel, (by decide +kernel), by decide +kernel, (by decide +kernel),
     by decide +kernel, (by decide +kernel), by decide +kernel, (by decide +kernel), by decide +kernel,
     (by decide +kernel), rfl, by decide +kernel, (by decide +kernel), rfl, rfl⟩,
   ⟨3, { f0 with imm := 1, mod := 4 }, rows 0x53 ({ f0 with imm := 1, mod := 4 }) .dirty, _, _, by decide +kernel,
     (by decide +kernel), by decide +kernel, (by decide +kernel), by decide +kernel, (by decide +kernel),
     by decide +kernel, (by decide +kernel), by decide +kernel, (by decide +kernel), rfl, by decide +kernel,
     (by decide +kernel), rfl⟩,
   ⟨3, { f0 with imm := 1, mod := 15 }, rows 0x54 ({ f0 with imm := 1, mod := 15 }) .dirty, 3, _, by decide +kernel,
     (by decide +kernel), by decide +kernel, (by decide +kernel), by decide +kernel, (by decide +kernel), rfl⟩,
   ⟨3, { f0 with imm := 0x80000000 }, rows 0x55 ({ f0 with imm := 0x80000000 }) .dirty, 3, _, by decide +kernel,
     (by decide +kernel), by decide +kernel, (by decide +kernel), by decide +kernel, rfl⟩,
   ⟨3, { f0 with imm := 0x80000000 }, rows 0x56 ({ f0 with imm := 0x80000000 }) .dirty, 3, _, by decide +kernel,
     (by decide +kernel), by decide +kernel, (by decide +kernel), by decide +kernel, rfl⟩,
   ⟨3, { f0 with src1 := 2 }, (rows 0x57 ({ f0 with src1 := 2 }) .dirty ).modEng 3 fun e =>
     { e with g := e.g.set 2 (BitVec.ofNat 64 (mkLoc 4 0 0 2 0)) }, 3, by decide +kernel⟩,
   ⟨3, f0, waits3 (prog 0x57 f0) 2, by decide +kernel⟩,
   ⟨3, { f0 with src1 := 1, imm := 31 }, (rows 0x60 ({ f0 with src1 := 1, imm := 31 }) .empty user3 false).modChan 3
     ({ · with fills := [⟨locExtent user3, 0⟩] }), _, by decide +kernel, (by decide +kernel), by decide +kernel,
     (by decide +kernel), by decide +kernel, (by decide +kernel), rfl, by decide +kernel⟩,
   ⟨3, { f0 with src1 := 1, imm := 31 }, rows 0x60 ({ f0 with src1 := 1, imm := 31 }) .empty user3 false, _,
     by decide +kernel, (by decide +kernel), by decide +kernel, (by decide +kernel), by decide +kernel,
     (by decide +kernel), rfl, by decide +kernel⟩,
   ⟨3, { f0 with src1 := 1, imm := 31 }, rows 0x60 ({ f0 with src1 := 1, imm := 31 }) .clean, _, _, by decide +kernel,
     (by decide +kernel), by decide +kernel, (by decide +kernel), by decide +kernel, (by decide +kernel), rfl,
     by decide +kernel, (by decide +kernel), turn_go _ (by decide +kernel)⟩,
   ⟨3, { f0 with src1 := 1, imm := 31 }, buffered3 (rows 0x60 ({ f0 with src1 := 1, imm := 31 }) .empty row3 false), _,
     _, by decide +kernel, (by decide +kernel), by decide +kernel, (by decide +kernel), by decide +kernel,
     (by decide +kernel), rfl, by decide +kernel, (by decide +kernel), turn_wait _ (by decide +kernel)⟩,
   ⟨3, { f0 with src1 := 1, imm := 3871, mod := 5 }, rows 0x61 ({ f0 with src1 := 1, imm := 3871, mod := 5 }) .clean, _,
     _, _, by decide +kernel, (by decide +kernel), by decide +kernel, (by decide +kernel), by decide +kernel,
     (by decide +kernel), rfl, by decide +kernel, rfl, by decide +kernel, turn_go _ (by decide +kernel)⟩,
   ⟨3, { f0 with src1 := 1, imm := 3871, mod := 5 }, buffered3 (rows 0x61 ({ f0 with src1 := 1, imm := 3871, mod := 5 })
     .empty row3 false), _, _, _, by decide +kernel, (by decide +kernel), by decide +kernel, (by decide +kernel),
     by decide +kernel, (by decide +kernel), rfl, by decide +kernel, rfl, by decide +kernel,
     turn_wait _ (by decide +kernel)⟩,
   ⟨held .clean, true, newWant (mkLoc 0 0 0 2 0) true 0 2000000, by decide +kernel⟩,
   ⟨{ held .clean with txns := [{ svc .rd .hit with urg := 3 }] }, true, newWant (mkLoc 0 0 0 2 0) true 0 2000000,
     by decide +kernel⟩,
   ⟨act.modChan 0 fun x => { x with hist := [(mkLoc 0 0 0 2 0, 8)] }, true, true, newWant (mkLoc 0 0 0 2 0) true 0
     2000000, by decide +kernel⟩,
   ⟨act.modChan 0 fun x =>
     { x with hist := [(mkLoc 0 0 0 2 0, 8)], refresh := { x.refresh with due := [(locCbi (mkLoc 0 0 0 2 0), [])] } },
     true, true, newWant (mkLoc 0 0 0 2 0) true 0 2000000, by decide +kernel⟩,
   ⟨act.modChan 0 fun x => { x with refresh := { x.refresh with busy := [locCbi (mkLoc 0 0 0 2 0)] } }, 0, 1, true,
     true, newWant (mkLoc 0 0 0 2 0) true 0 2000000, _, by decide +kernel, (by decide +kernel), by decide +kernel,
     (by decide +kernel), turn_wait _ (by decide +kernel)⟩,
   ⟨act, 0, 1, true, true, newWant (mkLoc 0 0 0 2 0) true 0 2000000, _, by decide +kernel, (by decide +kernel),
     by decide +kernel, (by decide +kernel), turn_go _ (by decide +kernel)⟩,
   ⟨3, { f0 with imm := 31 }, prog 0x60 { f0 with imm := 31 } 5, by decide +kernel⟩⟩

/-- States and operands that meet the hypotheses of the clauses of `MaintenanceStatisticsAndTestInstructions`. -/
theorem witness_MaintenanceStatisticsAndTestInstructions :
    (∃ (c : Fin 32) (f : Fields) (s : State) (loc : Nat), s.issuable c 0x70 f = true ∧ f.only { d := true, a := true } =
      true ∧ (s.chan c).eng.progress = 0 ∧ s.mayM c = true ∧ loc = (s.g c f.a).toNat ∧ s.locFault c (readReach (s.chan
      c).eng.queue) (s.g c f.a) false = none ∧ locClass loc ≠ 2 ∧ s.chanOut c = false ∧ s.mode ≠ .safe ∧ s.ledgerFull =
      false ∧ s.rowPinned loc = false ∧ s.moving loc = false) ∧
    (∃ (c : Fin 32) (f : Fields) (s : State), s.canIssue c 0x70 f = true ∧ f.only { d := true, a := true } = true ∧
      (s.chan c).eng.progress = 0 ∧ s.mayM c = true ∧ s.locFault c (readReach (s.chan c).eng.queue) (s.g c f.a) false =
      none ∧ locClass (s.g c f.a).toNat ≠ 2 ∧ s.chanOut c = false ∧ s.mode ≠ .safe ∧ s.ledgerFull = true) ∧
    (∃ (c : Fin 32) (f : Fields) (s : State) (loc k : Nat) (t : State), s.issuable c 0x71 f = true ∧ f.only
      { d := true, a := true } = true ∧ (s.chan c).eng.progress = 0 ∧ s.mayM c = true ∧ loc = (s.g c f.a).toNat ∧
      s.locFault c (readReach (s.chan c).eng.queue) (s.g c f.a) false = none ∧ s.chanOut c = false ∧ s.mode ≠ .safe ∧
      s.ledgerTakes 1 loc = true ∧ s.freeRow loc = some k ∧ s.moving loc = false ∧ s.rowWaits loc true = false ∧ (s.issued
      c).ownCycle c loc (if (s.findSlot loc).isSome then 1 else 2) 4 = .go t) ∧
    (∃ (c : Fin 32) (f : Fields) (s : State) (loc k : Nat), s.issuable c 0x72 f = true ∧ f.only
      { d := true, a := true, i := true } = true ∧ f.u < 32 ∧ (s.chan c).eng.progress = 0 ∧ (s.chan c).eng.walk = none ∧
      s.mayM c = true ∧ loc = (s.g c f.a).toNat ∧ s.locFault c (readReach (s.chan c).eng.queue) (s.g c f.a) false = none ∧
      s.chanOut c = false ∧ s.mode ≠ .safe ∧ s.ledgerTakes 3 (targetOf (locCh loc) (locLayer loc) (locBank loc) f.u) =
      true ∧ s.freeCol (locGbi loc) = some k) ∧
    (∃ (c : Fin 32) (s : State) (w : Walk) (v : Word64) (row : Nat) (u x : State), (s.chan c).eng.walk = some w ∧ (s.chan
      c).eng.store[(s.chan c).eng.pc]? = some v ∧ (s.chan c).scrub.buffer = none ∧ row = physRowAt (s.g c (fieldsOf
      v).a).toNat w.rows ∧ u = s.advanceTo (w.lastStep + 16 * s.period) ∧ u.ownCycle c row 2 4 = .wait x) ∧
    (∃ (c : Fin 32) (s : State) (w : Walk) (v : Word64) (loc row : Nat) (u t : State) (d : Decoded) (y z : State),
      (s.chan c).eng.walk = some w ∧ (s.chan c).eng.store[(s.chan c).eng.pc]? = some v ∧ (s.chan c).scrub.buffer = none ∧
      loc = (s.g c (fieldsOf v).a).toNat ∧ row = physRowAt loc w.rows ∧ u = s.advanceTo (w.lastStep + 16 * s.period) ∧
      u.ownCycle c row 2 4 = .go t ∧ d = decodeSector (t.fld (F.ECC_CFG_POLICY c)) (t.physAt (arrayKey row (t.physCol
      w.gbi w.sector))) ∧ y = (match t.addressed row with | some a => (((t.activatePhys row 4).activatePhys row
      4).noteDecode ⟨a, w.sector⟩ d (t.progFor c) 0).seenOf c d | none => (t.activatePhys row 4).activatePhys row 4) ∧ z =
      (y.setPhys (arrayKey row (32 + w.spare)) d.code).modEng c (fun e =>
      { e with walk := some { w with rows := w.rows + 1, lastStep := y.now } }) ∧ w.rows + 1 < 16576) ∧
    (∃ (c : Fin 32) (s : State) (w : Walk) (v : Word64) (loc row : Nat) (u t : State) (d : Decoded) (y z : State),
      (s.chan c).eng.walk = some w ∧ (s.chan c).eng.store[(s.chan c).eng.pc]? = some v ∧ (s.chan c).scrub.buffer = none ∧
      loc = (s.g c (fieldsOf v).a).toNat ∧ row = physRowAt loc w.rows ∧ u = s.advanceTo (w.lastStep + 16 * s.period) ∧
      u.ownCycle c row 2 4 = .go t ∧ d = decodeSector (t.fld (F.ECC_CFG_POLICY c)) (t.physAt (arrayKey row (t.physCol
      w.gbi w.sector))) ∧ y = (match t.addressed row with | some a => (((t.activatePhys row 4).activatePhys row
      4).noteDecode ⟨a, w.sector⟩ d (t.progFor c) 0).seenOf c d | none => (t.activatePhys row 4).activatePhys row 4) ∧ z =
      (y.setPhys (arrayKey row (32 + w.spare)) d.code).modEng c (fun e =>
      { e with walk := some { w with rows := w.rows + 1, lastStep := y.now } }) ∧ 16576 ≤ w.rows + 1) ∧
    (∃ (c : Fin 32) (f : Fields) (s : State) (loc : Nat), s.issuable c 0x73 f = true ∧ f.only
      { d := true, a := true, m := true } = true ∧ f.m < 2 ∧ s.mayM c = true ∧ loc = (s.g c f.a).toNat ∧ s.locFault c
      (readReach (s.chan c).eng.queue) (s.g c f.a) false = none ∧ s.chanOut c = false ∧ s.bankOpen loc = false) ∧
    (∃ (c : Fin 32) (f : Fields) (s : State) (loc : Nat), s.issuable c 0x73 f = true ∧ f.only
      { d := true, a := true, m := true } = true ∧ f.m < 2 ∧ s.mayM c = true ∧ loc = (s.g c f.a).toNat ∧ s.locFault c
      (readReach (s.chan c).eng.queue) (s.g c f.a) false = none ∧ s.chanOut c = false ∧ s.bankOpen loc = true ∧ f.m = 0) ∧
    (∃ (c : Fin 32) (f : Fields) (s : State) (loc : Nat), s.issuable c 0x73 f = true ∧ f.only
      { d := true, a := true, m := true } = true ∧ f.m < 2 ∧ s.mayM c = true ∧ loc = (s.g c f.a).toNat ∧ s.locFault c
      (readReach (s.chan c).eng.queue) (s.g c f.a) false = none ∧ s.chanOut c = false ∧ s.bankOpen loc = true ∧ f.m = 1) ∧
    (∃ (c : Fin 32) (f : Fields) (s : State) (loc : Nat) (t : State), s.issuable c 0x74 f = true ∧ f.only
      { d := true, a := true, m := true } = true ∧ f.m < 2 ∧ s.mayM c = true ∧ loc = (s.g c f.a).toNat ∧ s.locFault c
      (readReach (s.chan c).eng.queue) (s.g c f.a) false = none ∧ locClass loc ≠ 2 ∧ s.chanOut c = false ∧ t = (s.issued
      c).useMap loc ∧ (t.chan c).eng.phase = .running ∧ f.m = 1) ∧
    (∃ (c : Fin 32) (f : Fields) (s : State) (loc : Nat) (t : State), s.issuable c 0x74 f = true ∧ f.only
      { d := true, a := true, m := true } = true ∧ f.m < 2 ∧ s.mayM c = true ∧ loc = (s.g c f.a).toNat ∧ s.locFault c
      (readReach (s.chan c).eng.queue) (s.g c f.a) false = none ∧ locClass loc ≠ 2 ∧ s.chanOut c = false ∧ t = (s.issued
      c).useMap loc ∧ (t.chan c).eng.phase = .running ∧ f.m = 0 ∧ t.written loc = false) ∧
    (∃ (c : Fin 32) (f : Fields) (s : State) (loc : Nat) (t : State), s.issuable c 0x74 f = true ∧ f.only
      { d := true, a := true, m := true } = true ∧ f.m < 2 ∧ s.mayM c = true ∧ loc = (s.g c f.a).toNat ∧ s.locFault c
      (readReach (s.chan c).eng.queue) (s.g c f.a) false = none ∧ locClass loc ≠ 2 ∧ s.chanOut c = false ∧ t = (s.issued
      c).useMap loc ∧ (t.chan c).eng.phase = .running ∧ f.m = 0 ∧ t.written loc = true) ∧
    (∃ (c : Fin 32) (f : Fields) (s : State), s.issuable c 0x78 f = true ∧ f.only { d := true, m := true, i := true } =
      true ∧ f.u < 8960 ∧ s.mayM c = true ∧ f.m = 0 ∧ s.replaced c (f.u / 64) = none) ∧
    (∃ (c : Fin 32) (f : Fields) (s : State), s.issuable c 0x78 f = true ∧ f.only { d := true, m := true, i := true } =
      true ∧ f.u < 8960 ∧ s.mayM c = true ∧ f.m = 1 ∧ s.replaced c (f.u / 64) = some f.u) ∧
    (∃ (c : Fin 32) (f : Fields) (s : State), s.canIssue c 0x79 f = true ∧ f.only { d := true, i := true } = true ∧ f.u %
      256 < 140 ∧ f.u < 1024 ∧ s.mayM c = true) ∧
    (∃ (c : Fin 32) (f : Fields) (s : State), s.issuable c 0x7A f = true ∧ f.only
      { d := true, a := true, m := true, i := true } = true ∧ f.m < 2 ∧ f.u < 8960 ∧ s.mayM c = true) ∧
    (∃ (c : Fin 32) (f : Fields) (s : State), s.canIssue c 0x90 f = true ∧ f.only { d := true, a := true } = true ∧
      s.locFault c (readReach (s.chan c).eng.queue) (s.g c f.a) false = none ∧ s.findSlot (s.g c f.a).toNat = none) ∧
    (∃ (c : Fin 32) (f : Fields) (s : State) (i : Nat), s.canIssue c 0x90 f = true ∧ f.only { d := true, a := true } =
      true ∧ s.locFault c (readReach (s.chan c).eng.queue) (s.g c f.a) false = none ∧ s.findSlot (s.g c f.a).toNat = some
      i) ∧
    (∃ (c : Fin 32) (f : Fields) (s : State), s.canIssue c 0x91 f = true ∧ f.only { d := true, a := true } = true ∧
      s.mayM c = true ∧ s.locFault c (readReach (s.chan c).eng.queue) (s.g c f.a) false = none) ∧
    (∃ (c : Fin 32) (f : Fields) (s : State) (loc : Nat) (t : State), s.issuable c 0xA0 f = true ∧ f.only
      { a := true, b := true, m := true } = true ∧ (f.m < 4 ∧ f.src2 = 0 ∨ f.m = 4) ∧ s.testPinned c (s.g c f.a) = false ∧
      s.mayT c = true ∧ loc = (s.g c f.a).toNat ∧ s.locFault c (writeReach (s.chan c).eng.queue) (s.g c f.a) true = none ∧
      s.chanOut c = false ∧ s.findSlot loc = none ∧ s.rowWaits loc true = false ∧ (s.issued c).ownCycle c loc 1 4 = .go t
      ∧ t.findSlot loc = none) ∧
    (∃ (c : Fin 32) (f : Fields) (s : State) (loc : Nat) (u t : State), s.issuable c 0xA1 f = true ∧ f.only
      { d := true, a := true, b := true, m := true } = true ∧ (f.m < 4 ∧ f.src2 = 0 ∨ f.m = 4) ∧ s.testPinned c (s.g c
      f.a) = false ∧ s.mayT c = true ∧ loc = (s.g c f.a).toNat ∧ s.locFault c (readReach (s.chan c).eng.queue) (s.g c f.a)
      true = none ∧ s.chanOut c = false ∧ s.findSlot loc = none ∧ s.rowWaits loc true = false ∧ (s.issued c).ownCycle c
      loc 1 4 = .go u ∧ u.findSlot loc = none ∧ t = u.activate loc 4) ∧
    (∃ (c : Fin 32) (f : Fields) (s : State), s.issuable c 0x70 f = true ∧ f.only { d := true, a := true } = true ∧
      (s.chan c).eng.progress = 0 ∧ (s.chan c).eng.queue < 6) ∧
    (∃ (c : Fin 32) (f : Fields) (s : State), s.issuable c 0xA0 f = true ∧ f.only { a := true, b := true, m := true } =
      true ∧ (f.m < 4 ∧ f.src2 = 0 ∨ f.m = 4) ∧ s.testPinned c (s.g c f.a) = false ∧ (s.chan c).eng.desc.test = false) :=
  ⟨⟨3, { f0 with src1 := 1 }, rows 0x70 ({ f0 with src1 := 1 }) .clean user3 false, _, by decide +kernel,
     (by decide +kernel), by decide +kernel, (by decide +kernel), rfl, by decide +kernel⟩,
   ⟨3, { f0 with src1 := 1 },
     { rows 0x70 ({ f0 with src1 := 1 }) .clean user3 false with mram := { act.mram with ledger := (List.range 2048).map fun k => (k, some []) } },
     by decide +kernel⟩,
   ⟨3, { f0 with src1 := 1 }, rows 0x71 ({ f0 with src1 := 1 }) .empty user3 false, _, 0, _, by decide +kernel,
     (by decide +kernel), by decide +kernel, (by decide +kernel), rfl, by decide +kernel, (by decide +kernel),
     by decide +kernel, (by decide +kernel), by decide +kernel, (by decide +kernel), by decide +kernel,
     turn_go _ (by decide +kernel)⟩,
   ⟨3, { f0 with src1 := 1, imm := 31 }, rows 0x72 ({ f0 with src1 := 1, imm := 31 }) .empty user3 false, _, 0,
     by decide +kernel, (by decide +kernel), by decide +kernel, (by decide +kernel), by decide +kernel,
     (by decide +kernel), rfl, by decide +kernel⟩,
   ⟨3,
     { (rows 0x72 ({ f0 with src1 := 1, imm := 31 }) .empty user3 false).modEng 3 fun e => { e with walk := some ⟨0, 31, 0, 7, 1000000⟩ } with ownSelf := 0xFFFF },
     ⟨0, 31, 0, 7, 1000000⟩, wordOf 0x72 ({ f0 with src1 := 1, imm := 31 }), _, _, _, by decide +kernel,
     (by decide +kernel), by decide +kernel, rfl, rfl, turn_wait _ (by decide +kernel)⟩,
   ⟨3, (rows 0x72 ({ f0 with src1 := 1, imm := 31 }) .empty user3 false).modEng 3 fun e =>
     { e with walk := some ⟨0, 31, 0, 7, 1000000⟩ }, ⟨0, 31, 0, 7, 1000000⟩, wordOf 0x72
     ({ f0 with src1 := 1, imm := 31 }), _, _, _, _, _, _, _, by decide +kernel, (by decide +kernel), by decide +kernel,
     rfl, rfl, rfl, turn_go _ (by decide +kernel), rfl, rfl, rfl, by decide +kernel⟩,
   ⟨3, (rows 0x72 ({ f0 with src1 := 1, imm := 31 }) .empty user3 false).modEng 3 fun e =>
     { e with walk := some ⟨0, 31, 0, 16575, 1000000⟩ }, ⟨0, 31, 0, 16575, 1000000⟩, wordOf 0x72
     ({ f0 with src1 := 1, imm := 31 }), _, _, _, _, _, _, _, by decide +kernel, (by decide +kernel), by decide +kernel,
     rfl, rfl, rfl, turn_go _ (by decide +kernel), rfl, rfl, rfl, by decide +kernel⟩,
   ⟨3, { f0 with src1 := 1, mod := 1 },
     { rows 0x73 ({ f0 with src1 := 1, mod := 1 }) .empty user3 false with ownSelf := 0xFFFF }, _, by decide +kernel,
     (by decide +kernel), by decide +kernel, (by decide +kernel), rfl, by decide +kernel⟩,
   ⟨3, { f0 with src1 := 1 }, rows 0x73 ({ f0 with src1 := 1 }) .empty user3 false, _, by decide +kernel,
     (by decide +kernel), by decide +kernel, (by decide +kernel), rfl, by decide +kernel⟩,
   ⟨3, { f0 with src1 := 1, mod := 1 }, rows 0x73 ({ f0 with src1 := 1, mod := 1 }) .empty user3 false, _,
     by decide +kernel, (by decide +kernel), by decide +kernel, (by decide +kernel), rfl, by decide +kernel⟩,
   ⟨3, { f0 with src1 := 1, mod := 1 }, rows 0x74 ({ f0 with src1 := 1, mod := 1 }) .empty user3 false, _, _,
     by decide +kernel, (by decide +kernel), by decide +kernel, (by decide +kernel), rfl, by decide +kernel,
     (by decide +kernel), by decide +kernel, rfl, by decide +kernel⟩,
   ⟨3, { f0 with src1 := 1 }, rows 0x74 ({ f0 with src1 := 1 }) .empty user3 false, _, _, by decide +kernel,
     (by decide +kernel), by decide +kernel, (by decide +kernel), rfl, by decide +kernel, (by decide +kernel),
     by decide +kernel, rfl, by decide +kernel⟩,
   ⟨3, { f0 with src1 := 1 }, wr3 (rows 0x74 ({ f0 with src1 := 1 }) .empty user3 false), _, _, by decide +kernel,
     (by decide +kernel), by decide +kernel, (by decide +kernel), rfl, by decide +kernel, (by decide +kernel),
     by decide +kernel, rfl, by decide +kernel⟩,
   ⟨3, { f0 with imm := 8959 }, prog 0x78 { f0 with imm := 8959 }, by decide +kernel⟩,
   ⟨3, { f0 with imm := 8959, mod := 1 }, (prog 0x78 { f0 with imm := 8959, mod := 1 }).setSpare 3 139 (some 8959),
     by decide +kernel⟩,
   ⟨3, { f0 with imm := 907 }, prog 0x79 { f0 with imm := 907 }, by decide +kernel⟩,
   ⟨3, { f0 with imm := 8959, mod := 1 }, prog 0x7A { f0 with imm := 8959, mod := 1 }, by decide +kernel⟩,
   ⟨3, { f0 with src1 := 1 }, rows 0x90 ({ f0 with src1 := 1 }) .empty row3 false, by decide +kernel⟩,
   ⟨3, { f0 with src1 := 1 }, rows 0x90 ({ f0 with src1 := 1 }) .fenced row3 false, 3, by decide +kernel⟩,
   ⟨3, { f0 with src1 := 1 }, rows 0x91 ({ f0 with src1 := 1 }) .empty row3 false, by decide +kernel⟩,
   ⟨3, { f0 with src1 := 1, mod := 4 }, (rows 0xA0 ({ f0 with src1 := 1, mod := 4 }) .empty row3 false).modEng 3 id, _,
     _, by decide +kernel, (by decide +kernel), by decide +kernel, (by decide +kernel), by decide +kernel, rfl,
     by decide +kernel, (by decide +kernel), by decide +kernel, (by decide +kernel), turn_go _ (by decide +kernel),
     by decide +kernel⟩,
   ⟨3, { f0 with src1 := 1, mod := 4 }, rows 0xA1 ({ f0 with src1 := 1, mod := 4 }) .empty row3 false, _, _, _,
     by decide +kernel, (by decide +kernel), by decide +kernel, (by decide +kernel), by decide +kernel, rfl,
     by decide +kernel, (by decide +kernel), by decide +kernel, (by decide +kernel), turn_go _ (by decide +kernel),
     by decide +kernel, rfl⟩,
   ⟨3, f0, prog 0x70 f0 5, by decide +kernel⟩,
   ⟨3, { f0 with src1 := 1, mod := 4 }, (rows 0xA0 ({ f0 with src1 := 1, mod := 4 }) .empty row3 false).modEng 3
     ({ · with desc := Desc.none }), by decide +kernel⟩⟩

/-- States and operands that meet the hypotheses of the clauses of `BanksAreRefreshed`. -/
theorem witness_BanksAreRefreshed :
    (∃ (c : Fin 32) (s t u v : State), s.timerRuns c = true ∧ s.flag (F.GLB_ISL_STS_IN_RESET c) = false ∧ t = s.advanceTo ((s.chan c).refresh.tickAt + tREFI (s.fld (F.REF_STS_BAND c))) ∧ u = (let y := t.modChan c fun x => { x with refresh := { x.refresh with tickAt := t.now } }
         if s.fld (F.GLB_ISL_CTL_GATE c) = 2 then y else y.applyShadows (domChan c)) ∧ v = (u.setFld (F.REF_STS_BAND c) (u.nextBand c)).setFld (F.REF_STS_TEMP c) (u.chanTemp c / 4)) ∧
    (∃ (c : Fin 32) (s t u : State), s.timerRuns c = true ∧ s.flag (F.GLB_ISL_STS_IN_RESET c) = true ∧ t = s.advanceTo
      ((s.chan c).refresh.tickAt + tREFI (s.fld (F.REF_STS_BAND c))) ∧ u = (t.modChan c fun x =>
      { x with refresh := { x.refresh with tickAt := t.now } })) ∧
    (∃ (c : Fin 32) (s : State), s.timerRuns c = false) ∧
    (∃ (c : Fin 32) (b : Fin 128) (s : State), s.mode ≠ .fatal ∧ s.refreshes c b = true ∧ (s.chan c).closeDone b = true ∧
      s.bankBusy c b = false) ∧
    (∃ (c : Fin 32) (b : Fin 128) (s : State), s.mode = .fatal ∧ s.refreshes c b = true ∧ ((s.chan c).refresh.due.any fun
      e => e.1 == b.val) = true ∧ b.val ∉ (s.chan c).refresh.busy) ∧
    (∃ (c : Fin 32) (b : Fin 128) (s : State), (s.refreshes c b = false ∨ s.mode ≠ .fatal ∧ ((s.chan c).closeDone b =
      false ∨ s.bankBusy c b = true))) ∧
    (∃ (c : Fin 32) (b : Fin 128) (s : State), b.val ∈ (s.chan c).refresh.busy) ∧
    (∃ (s : State) (c : Fin 32) (b : Nat), ((s.chan c).lapPos b + 1) % 448 = 0) ∧
    (∃ (d : Fin 16) (b : Fin 256) (s : State) (c k : Nat), c = 8 * (d.val / 4) + b.val / 32 ∧ k = 32 * (d.val % 4) +
      b.val % 32 ∧ s.dieAsleep d = true ∧ s.dieGood d = true ∧ (s.chan c).st ≠ .retired) ∧
    (∃ (d : Fin 16) (b : Fin 256) (s : State), (s.dieAsleep d = false ∨ s.dieGood d = false ∨ (s.chan (8 * (d.val / 4) +
      b.val / 32)).st = .retired)) ∧
    (∃ (p : Path) (w : BitVec 32) (s : State), s.granted p .GLB_FPOINT_NEXT 0 0 w = true ∧ (b2n (bitOf w.toNat 8) = s.fld
      F.GLB_MODE_FPOINT ∨ ∀ t, t < 4 → s.flag (F.CAL_REC_VALID (2 * t + b2n (bitOf w.toNat 8))) = true ∨ ∀ j, j < 8 →
      (s.chan (8 * t + j)).st = .offline ∨ (s.chan (8 * t + j)).st = .retired)) ∧
    (∃ (p : Path) (w : BitVec 32) (s : State) (t j : Nat), s.granted p .GLB_FPOINT_NEXT 0 0 w = true ∧ b2n (bitOf w.toNat
      8) ≠ s.fld F.GLB_MODE_FPOINT ∧ t < 4 ∧ s.flag (F.CAL_REC_VALID (2 * t + b2n (bitOf w.toNat 8))) = false ∧ j < 8 ∧
      (s.chan (8 * t + j)).st ≠ .offline ∧ (s.chan (8 * t + j)).st ≠ .retired) :=
  ⟨⟨3, act, _, _, _, by decide +kernel, (by decide +kernel), rfl, rfl, rfl⟩,
   ⟨3, act.setFlag (F.GLB_ISL_STS_IN_RESET 3) true, _, _, by decide +kernel, (by decide +kernel), rfl, rfl⟩,
   ⟨3, inMode .selfRefresh, by decide +kernel⟩,
   ⟨3, 127, act.modChan 3 fun x => { x with refresh := { x.refresh with due := [(127, [])] } }, by decide +kernel⟩,
   ⟨3, 127, (inMode .fatal).modChan 3 fun x => { x with refresh := { x.refresh with due := [(127, [])] } },
     by decide +kernel⟩,
   ⟨3, 3, act, by decide +kernel⟩,
   ⟨3, 127, act.modChan 3 fun x => { x with refresh := { x.refresh with busy := [127] } }, by decide +kernel⟩,
   ⟨act.modChan 3 fun x => { x with refresh := { x.refresh with lap := [(3, 447)] } }, 3, 3, by decide +kernel⟩,
   ⟨15, 255, ((inMode .selfRefresh).setFldBit F.PWR_DIE_PGOOD_ARR_OK 15 true).setFldBit F.PWR_DIE_PGOOD_VPP_OK 15 true,
     _, _, rfl, rfl, by decide +kernel⟩,
   ⟨3, 3, act, by decide +kernel⟩,
   ⟨.fw .west, 0#32, act, by decide +kernel⟩,
   ⟨.fw .west, 0x100#32, act.setFlag (F.CAL_REC_VALID 7) false, 3, 7, by decide +kernel⟩⟩

/-- States and operands that meet the hypotheses of the clauses of `CalibrationRunsAndCommits`. -/
theorem witness_CalibrationRunsAndCommits :
    (∃ (p : Path) (s : State), s.granted p .CAL_CTL 0 0 (calRun 0) = true ∧ s.flag F.CAL_CTL_BUSY = false ∧ (s.mode =
      .active ∨ s.mode = .safe)) ∧
    (∃ (p : Path) (s : State), s.granted p .CAL_CTL 0 0 (calRun 1) = true ∧ s.sessionOk p = true ∧ s.flag F.CAL_CTL_BUSY
      = false ∧ (s.mode = .active ∨ s.mode = .safe)) ∧
    (∃ (p : Path) (s : State), s.granted p .CAL_CTL 0 0 (calRun 1) = true ∧ s.sessionOk p = false) ∧
    (∃ (p : Path) (s : State), s.granted p .CAL_CTL 0 0 (calRun 2) = true ∧ s.flag F.CAL_CTL_BUSY = false ∧ (s.mode =
      .active ∨ s.mode = .safe)) ∧
    (∃ (p : Path) (s : State), s.granted p .CAL_CTL 0 0 (calRun 0) = true ∧ (s.flag F.CAL_CTL_BUSY = true ∨ (s.mode ≠
      .active ∧ s.mode ≠ .safe))) ∧
    (∃ (env : CalEnv) (s : State) (kind : Nat) (f : Bool), env.run = none ∧ s.calRun = some (kind, f) ∧ kind = 0 ∧
      payloadPlausible 25 (railPayload env.values) = true) ∧
    (∃ (env : CalEnv) (s : State) (kind : Nat) (f : Bool) (ref : Nat), env.run = none ∧ s.calRun = some (kind, f) ∧ kind
      = 1 ∧ ref = s.fld F.CAL_REF_TEMP_REF ∧ sensorsPlausible ref env.values = true) ∧
    (∃ (env : CalEnv) (s : State) (c : Fin 32) (u : State), env.run = some c ∧ (s.chan c).vpt.run = some .retrain ∧
      s.tierHeld (c / 8) = false ∧ u = s.sweepChannel c (s.fld F.GLB_MODE_FPOINT) 3 (s.fld (F.VPT_STS_T_CAL c)) false
      env.sweep ∧ u.checkFails c (env.sweep.erring.map (·.val)) = false) ∧
    (∃ (env : CalEnv) (s : State) (c : Fin 32) (u : State), env.run = some c ∧ (s.chan c).vpt.run = some .retrain ∧
      s.tierHeld (c / 8) = false ∧ u = s.sweepChannel c (s.fld F.GLB_MODE_FPOINT) 3 (s.fld (F.VPT_STS_T_CAL c)) false
      env.sweep ∧ u.checkFails c (env.sweep.erring.map (·.val)) = true) ∧
    (∃ (env : CalEnv) (s : State) (c : Fin 32) (u v : State), env.run = some c ∧ (s.chan c).vpt.run = some .drift ∧
      s.tierHeld (c / 8) = false ∧ u = s.sweepChannel c (s.fld F.GLB_MODE_FPOINT) 3 (s.fld (F.VPT_STS_T_CAL c)) true
      env.sweep ∧ v = s.sweepFailed c true env.sweep ∧ s.driftBlocked c env.sweep = false ∧ u.checkFails c
      (env.sweep.erring.map (·.val)) = false) ∧
    (∃ (env : CalEnv) (s : State) (c : Fin 32) (u v : State), env.run = some c ∧ (s.chan c).vpt.run = some .drift ∧
      s.tierHeld (c / 8) = false ∧ u = s.sweepChannel c (s.fld F.GLB_MODE_FPOINT) 3 (s.fld (F.VPT_STS_T_CAL c)) true
      env.sweep ∧ v = s.sweepFailed c true env.sweep ∧ (s.driftBlocked c env.sweep = true ∨ u.checkFails c
      (env.sweep.erring.map (·.val)) = true) ∧ v.checkFails c (env.sweep.recheck.map (·.val)) = false) ∧
    (∃ (env : CalEnv) (s : State) (c : Fin 32) (u v : State), env.run = some c ∧ (s.chan c).vpt.run = some .drift ∧
      s.tierHeld (c / 8) = false ∧ u = s.sweepChannel c (s.fld F.GLB_MODE_FPOINT) 3 (s.fld (F.VPT_STS_T_CAL c)) true
      env.sweep ∧ v = s.sweepFailed c true env.sweep ∧ (s.driftBlocked c env.sweep = true ∨ u.checkFails c
      (env.sweep.erring.map (·.val)) = true) ∧ v.checkFails c (env.sweep.recheck.map (·.val)) = true) ∧
    (∃ (env : CalEnv) (s : State) (c : Fin 32), env.run = some c ∧ s.tierHeld (c / 8) = true) ∧
    (∃ (s : State), s.mramRuns = false) ∧
    (∃ (i : Fin 26) (s : State) (t : Nat) (u : State), s.mramRuns = true ∧ s.flag (F.CAL_REC_PENDING i) = true ∧
      s.mram.calAt.get (fun _ => none) i = some t ∧ u = s.advanceTo (t + 1000000000 * s.fld F.CAL_CFG_COMMIT_S)) ∧
    (∃ (i : Fin 26) (s : State), s.flag (F.CAL_REC_PENDING i) = true ∧ s.mram.calWrite.get (fun _ => none) i = none) ∧
    (∃ (i : Fin 26) (s : State) (x : CalSlot) (t : State), s.mram.calWrite.get (fun _ => none) i = some x ∧ t =
      { s with mram := { s.mram with calWrite := s.mram.calWrite.set (fun _ => none) i none } } ∧ s.mramRuns = true ∧
      slotPasses i x = true) ∧
    (∃ (i : Fin 26) (s : State) (x : CalSlot) (t u : State), s.mram.calWrite.get (fun _ => none) i = some x ∧ t =
      { s with mram := { s.mram with calWrite := s.mram.calWrite.set (fun _ => none) i none } } ∧ s.mramRuns = true ∧
      slotPasses i x = false ∧ u =
      { t.putSlot i x with mram := { (t.putSlot i x).mram with calAt := (t.putSlot i x).mram.calAt.set (fun _ => none) i (some t.now) } }) ∧
    (∃ (i : Fin 26) (s : State) (x : CalSlot) (t u : State), s.mram.calWrite.get (fun _ => none) i = some x ∧ t =
      { s with mram := { s.mram with calWrite := s.mram.calWrite.set (fun _ => none) i none } } ∧ u =
      { t with mram := { t.mram with calAt := t.mram.calAt.set (fun _ => none) i (some t.now) } }) ∧
    (∃ (c : Fin 32) (s u : State), s.coreRuns (halfOfChan c) = true ∧ s.flag F.CAL_CFG_AUTO_CAL = true ∧ (s.mode =
      .active ∨ s.mode = .safe) ∧ s.flag (F.VPT_STS_DUE c) = true ∧ (s.chan c).st = .online ∧ (∀ j, j < 8 → (s.chan (8 *
      (c / 8) + j)).vpt.drift = false ∧ (s.chan (8 * (c / 8) + j)).vpt.run ≠ some .drift) ∧ (∀ k, k < c.val → s.driftReady
      (max s.now (s.gapEnd c)) k = false) ∧ u = s.advanceTo (s.gapEnd c)) ∧
    (∃ (c : Fin 32) (err : BitVec 5) (s : State) (l : List Nat), s.coreRuns (halfOfChan c) = true ∧ s.flag
      (F.ECC_SUSPECT_VALID c) = true ∧ s.flag F.CAL_CFG_AUTO_CAL = true ∧ l = (below 5 fun i => err.getLsbD i).map (280 *
      s.fld (F.ECC_SUSPECT_LANE c) + 5 * s.fld (F.ECC_SUSPECT_SYMBOL c) + ·) ∧ l ≠ []) ∧
    (∃ (c : Fin 32) (err : BitVec 5) (s : State) (l : List Nat), s.coreRuns (halfOfChan c) = true ∧ s.flag
      (F.ECC_SUSPECT_VALID c) = true ∧ s.flag F.CAL_CFG_AUTO_CAL = true ∧ l = (below 5 fun i => err.getLsbD i).map (280 *
      s.fld (F.ECC_SUSPECT_LANE c) + 5 * s.fld (F.ECC_SUSPECT_SYMBOL c) + ·) ∧ l = []) ∧
    (∃ (p : Path) (c : Fin 32) (w : BitVec 32) (s : State) (k : Nat) (t : State), s.granted p .VPT_PROBE c 0 w = true ∧
      bitsOf w.toNat 13 0 ≤ 9147 ∧ k = condPlace (bitsOf w.toNat 13 0) (b2n (bitOf w.toNat 30)) ∧ t = s.plainWrite
      (pathNum p) .VPT_PROBE c 0 w) ∧
    (∃ (s : State) (i : Fin 26), s.otherSlot i = 0) ∧
    (∃ (s : State) (i : Fin 26), s.otherSlot i ≠ 0) ∧
    (∃ (s : State) (i : Fin 26) (x : CalSlot) (u : State), u = (s.putSlot i x).forceSlot i (s.otherSlot i) x) :=
  ⟨⟨.fw .west, act, by decide +kernel⟩,
   ⟨.sb 0, sess 2, by decide +kernel⟩,
   ⟨.sb 0, act, by decide +kernel⟩,
   ⟨.fw .west, act, by decide +kernel⟩,
   ⟨.fw .west, inMode .selfRefresh, by decide +kernel⟩,
   ⟨⟨none, sweep0, []⟩, { act with calRun := some (0, false) }, 0, false, by decide +kernel⟩,
   ⟨⟨none, sweep0, List.replicate 176 100⟩, { (act.setFld F.CAL_REF_TEMP_REF 25) with calRun := some (1, false) }, 1,
     false, _, by decide +kernel, (by decide +kernel), by decide +kernel, rfl, by decide +kernel⟩,
   ⟨⟨some 3, { sweep0 with erring := [], recheck := [] }, []⟩, act.modChan 3 fun x =>
     { x with vpt := { x.vpt with run := some .retrain } }, 3, _, by decide +kernel, (by decide +kernel),
     by decide +kernel, rfl, by decide +kernel⟩,
   ⟨⟨some 3, { sweep0 with erring := [0, 1], recheck := [] }, []⟩, act.modChan 3 fun x =>
     { x with vpt := { x.vpt with run := some .retrain } }, 3, _, by decide +kernel, (by decide +kernel),
     by decide +kernel, rfl, by decide +kernel⟩,
   ⟨⟨some 3, { sweep0 with erring := [], recheck := [] }, []⟩, act.modChan 3 fun x =>
     { x with vpt := { x.vpt with run := some .drift } }, 3, _, _, by decide +kernel, (by decide +kernel),
     by decide +kernel, rfl, rfl, by decide +kernel⟩,
   ⟨⟨some 3, { sweep0 with erring := [0, 1], recheck := [] }, []⟩, act.modChan 3 fun x =>
     { x with vpt := { x.vpt with run := some .drift } }, 3, _, _, by decide +kernel, (by decide +kernel),
     by decide +kernel, rfl, rfl, by decide +kernel⟩,
   ⟨⟨some 3, { sweep0 with erring := [0, 1], recheck := [0, 1] }, []⟩, act.modChan 3 fun x =>
     { x with vpt := { x.vpt with run := some .drift } }, 3, _, _, by decide +kernel, (by decide +kernel),
     by decide +kernel, rfl, rfl, by decide +kernel⟩,
   ⟨⟨some 3, { sweep0 with erring := [], recheck := [] }, []⟩, { act with dieReset := some ⟨1, 2⟩ }, 3,
     by decide +kernel⟩,
   ⟨State.reset, by decide +kernel⟩,
   ⟨25, { act.setFlag (F.CAL_REC_PENDING 25) true with mram := { act.mram with calAt := [(25, some 5)] } }, 5, _,
     by decide +kernel, (by decide +kernel), by decide +kernel, rfl⟩,
   ⟨25, act.setFlag (F.CAL_REC_PENDING 25) true, by decide +kernel⟩,
   ⟨25, { act with mram := { act.mram with calWrite := [(25, (act.calRec 25).slotA)] } }, ((act.calRec 25).slotA.getD
     ⟨0, 2, 0, 0, 0, [], 0⟩), _, by decide +kernel, rfl, by decide +kernel⟩,
   ⟨0, { act with mram := { act.mram with calWrite := [(0, some ⟨0, 2, 0, 0, 0, [], 0⟩)] } }, ⟨0, 2, 0, 0, 0, [], 0⟩, _,
     _, by decide +kernel, rfl, by decide +kernel, (by decide +kernel), rfl⟩,
   ⟨25, { act with mram := { act.mram with calWrite := [(25, some ⟨0, 2, 0, 0, 0, [], 0⟩)] } }, ⟨0, 2, 0, 0, 0, [], 0⟩,
     _, _, by decide +kernel, rfl, rfl⟩,
   ⟨3, ((act.setFlag F.CAL_CFG_AUTO_CAL true).setFlag (F.VPT_STS_DUE 3) true).modChan 3 fun x =>
     { x with vpt := { x.vpt with lastRun := some 5 } }, _, by decide +kernel, (by decide +kernel), by decide +kernel,
     (by decide +kernel), by decide +kernel, (by decide +kernel), by decide +kernel, rfl⟩,
   ⟨3, 0x11, (act.setFlag F.CAL_CFG_AUTO_CAL true).setFlag (F.ECC_SUSPECT_VALID 3) true, _, by decide +kernel,
     (by decide +kernel), by decide +kernel, rfl, by decide +kernel⟩,
   ⟨3, 0, (act.setFlag F.CAL_CFG_AUTO_CAL true).setFlag (F.ECC_SUSPECT_VALID 3) true, _, by decide +kernel,
     (by decide +kernel), by decide +kernel, rfl, by decide +kernel⟩,
   ⟨.fw .west, 3, 9147#32, act, _, _, by decide +kernel, (by decide +kernel), rfl, rfl⟩,
   ⟨act, 3, by decide +kernel⟩,
   ⟨act.setFlag (F.CAL_REC_VALID 3) true, 3, by decide +kernel⟩,
   ⟨act, 3, ⟨0, 2, 0, 0, 0, [], 0⟩, _, rfl⟩⟩

/-- States and operands that meet the hypotheses of the clauses of `ScrubbingSpillingAndErrorInjection`. -/
theorem witness_ScrubbingSpillingAndErrorInjection :
    (∃ (c : Fin 32) (dt : Nat) (s t : State), s.scrubRuns c = true ∧ t = s.modScrub c (fun x =>
      { x with time := x.time + dt }) ∧ t.mayPass c = false ∧ 0 < lapLength - (t.chan c).scrub.pointer) ∧
    (∃ (c : Fin 32) (dt : Nat) (s t : State), s.scrubRuns c = true ∧ t = s.modScrub c (fun x =>
      { x with time := x.time + dt })) ∧
    (∃ (c : Fin 32) (s : State), s.scrubRuns c = false) ∧
    (∃ (c : Fin 32) (s r : State) (loc : Nat) (t : State), s.idleCycle c = some r ∧ r.scrubRuns c = true ∧ (r.chan
      c).scrub.queue = [] ∧ r.mayPass c = true ∧ loc = scrubRow c (r.chan c).scrub.pointer ∧ t = r.useMap loc ∧
      t.scrubRuns c = true ∧ t.eligible loc = true ∧ t.visitable loc = true) ∧
    (∃ (c : Fin 32) (s r : State) (loc : Nat) (t : State), s.idleCycle c = some r ∧ r.scrubRuns c = true ∧ (r.chan
      c).scrub.queue = [] ∧ r.mayPass c = true ∧ loc = scrubRow c (r.chan c).scrub.pointer ∧ t = r.useMap loc ∧
      t.scrubRuns c = false) ∧
    (∃ (c : Fin 32) (s r : State), s.idleCycle c = some r ∧ (r.scrubRuns c = false ∨ (r.chan c).scrub.queue ≠ [] ∨
      r.mayPass c = false)) ∧
    (∃ (c : Fin 32) (s : State), s.idleCycle c = none) ∧
    (∃ (c : Fin 32) (s : State) (claims : State → State × Bool), (s.mode = .fatal ∨ s.progLeads c = true ∨ ((s.exportNext
      c).chan c).lastVc ≠ (s.chan c).lastVc ∨ (claims (s.nextCycle c)).2 = true)) ∧
    (∃ (c : Fin 32) (s : State) (claims : State → State × Bool), s.mode ≠ .fatal ∧ s.progLeads c = false ∧ ((s.exportNext
      c).chan c).lastVc = (s.chan c).lastVc ∧ (claims (s.nextCycle c)).2 = false) ∧
    (∃ (s : State) (c : Fin 32), (s.chan c).scrub.pointer + 1 < lapLength) ∧
    (∃ (s : State) (c : Fin 32), lapLength ≤ (s.chan c).scrub.pointer + 1) ∧
    (∃ (c : Fin 32) (s : State), s.scrubRuns c = true ∧ (s.chan c).scrub.overdue = false) ∧
    (∃ (c : Fin 32) (s : State) (loc : Nat) (rest : List Nat) (t u : State), (s.chan c).scrub.queue = loc :: rest ∧
      s.scrubRuns c = true ∧ t = s.useMap loc ∧ t.scrubRuns c = true ∧ t.eligible loc = true ∧ t.idleCycle c = some u ∧
      u.visitable loc = true) ∧
    (∃ (c : Fin 32) (s : State) (loc : Nat) (rest : List Nat) (t : State), (s.chan c).scrub.queue = loc :: rest ∧
      s.scrubRuns c = true ∧ t = s.useMap loc ∧ t.scrubRuns c = true ∧ t.eligible loc = true ∧ t.idleCycle c = none) ∧
    (∃ (c : Fin 32) (s : State) (loc : Nat) (rest : List Nat) (t : State), (s.chan c).scrub.queue = loc :: rest ∧
      s.scrubRuns c = true ∧ t = s.useMap loc ∧ t.scrubRuns c = true ∧ t.eligible loc = false) ∧
    (∃ (c : Fin 32) (s : State), (s.chan c).scrub.queue = []) ∧
    (∃ (c : Fin 32) (s : State) (e : List Word) (rest : List (List Word)) (o : Nat) (r u : State) (i : Nat) (t : State),
      (s.chan c).log.entries = e :: rest ∧ 128 ≤ rest.length ∧ s.coreRuns (halfOfChan c) = true ∧ s.flag
      (F.ECC_CFG_SPILL_EN c) = true ∧ ((s.chan c).st = .online ∨ (s.chan c).st = .draining) ∧ o = 0xC00000 + 32 * s.fld
      (F.ECC_SPILL_STS_WR_IDX c) ∧ s.spillCycle c = some r ∧ r.ringCycles (serviceAt c o).loc = some u ∧ i = u.fld
      (F.ECC_SPILL_STS_WR_IDX c) ∧ t = ((u.putRing c o e).modChan c fun x =>
      { x with log := { x.log with entries := rest } }).setFld (F.ECC_SPILL_STS_WR_IDX c) ((i + 1) % 32768) ∧ i ≠ 32767) ∧
    (∃ (c : Fin 32) (s : State) (e : List Word) (rest : List (List Word)) (o : Nat) (r u : State) (i : Nat) (t : State),
      (s.chan c).log.entries = e :: rest ∧ 128 ≤ rest.length ∧ s.coreRuns (halfOfChan c) = true ∧ s.flag
      (F.ECC_CFG_SPILL_EN c) = true ∧ ((s.chan c).st = .online ∨ (s.chan c).st = .draining) ∧ o = 0xC00000 + 32 * s.fld
      (F.ECC_SPILL_STS_WR_IDX c) ∧ s.spillCycle c = some r ∧ r.ringCycles (serviceAt c o).loc = some u ∧ i = u.fld
      (F.ECC_SPILL_STS_WR_IDX c) ∧ t = ((u.putRing c o e).modChan c fun x =>
      { x with log := { x.log with entries := rest } }).setFld (F.ECC_SPILL_STS_WR_IDX c) ((i + 1) % 32768) ∧ i = 32767) ∧
    (∃ (c : Fin 32) (s : State), s.spillCycle c = none) ∧
    (∃ (c : Fin 32) (s : State), (s.chan c).log.entries.length < 248) ∧
    (∃ (c : Fin 32) (s : State), 248 ≤ (s.chan c).log.entries.length) ∧
    (∃ (p : Path) (c : Fin 32) (w : BitVec 32) (s : State) (e : Nat) (t : State), s.granted p .ECC_EXT c 0 w = true ∧ e =
      bitsOf w.toNat 16 0 ∧ t = (s.plainWrite (pathNum p) .ECC_EXT c 0 w).useMapWord c e) ∧
    (∃ (p : Path) (c : Fin 32) (w : Word) (s : State) (v : Word), v = withBits w 31 31 1 ∧ s.granted p .ECC_INJ_CTL c 0 v
      = true ∧ bitsOf w.toNat 27 24 ≠ 0 ∧ s.flag (F.ECC_INJ_CTL_ARM c) = false) ∧
    (∃ (p : Path) (c : Fin 32) (w : Word) (s : State) (v : Word), v = withBits w 31 31 1 ∧ s.granted p .ECC_INJ_CTL c 0 v
      = true ∧ bitsOf w.toNat 27 24 = 0) :=
  ⟨⟨3, 0, act, _, by decide +kernel, rfl, by decide +kernel⟩,
   ⟨3, 0, act, _, by decide +kernel, rfl⟩,
   ⟨3, inState .offline, by decide +kernel⟩,
   ⟨3, (act.modScrub 3 fun x => { x with time := 1000000000000000000 }).modChan 3 (·.setMapBit (locExtent (scrubRow 3
     0)) true), _, _, _, (Option.some_get (show Option.isSome _ = true by decide +kernel)).symm, by decide +kernel,
     (by decide +kernel), by decide +kernel, rfl, rfl, by decide +kernel⟩,
   ⟨3, (act.modScrub 3 fun x => { x with time := 1000000000000000000 }).modChan 3
     ({ · with parityA := [(locExtent (scrubRow 3 0) / 64, true)], parityB := [(locExtent (scrubRow 3 0) / 64, true)] }),
     _, _, _, (Option.some_get (show Option.isSome _ = true by decide +kernel)).symm, by decide +kernel,
     (by decide +kernel), by decide +kernel, rfl, rfl, by decide +kernel⟩,
   ⟨3, act, _, (Option.some_get (show Option.isSome _ = true by decide +kernel)).symm, by decide +kernel⟩,
   ⟨0, with1 (svc .rd .sector), by decide +kernel⟩,
   ⟨3, inMode .fatal, (fun t => (t, false)), by decide +kernel⟩,
   ⟨3, act, (fun t => (t, false)), by decide +kernel⟩,
   ⟨act.modScrub 3 fun x => { x with pointer := 2105342 }, 3, by decide +kernel⟩,
   ⟨act.modScrub 3 fun x => { x with pointer := 2105343 }, 3, by decide +kernel⟩,
   ⟨3, act, by decide +kernel⟩,
   ⟨3, act.modScrub 3 fun x => { x with queue := [row3] }, row3, [], _, _, by decide +kernel, (by decide +kernel), rfl,
     by decide +kernel, (by decide +kernel), (Option.some_get (show Option.isSome _ = true by decide +kernel)).symm,
     by decide +kernel⟩,
   ⟨0, (with1 (svc .rd .sector)).modScrub 0 fun x => { x with queue := [mkLoc 0 0 0 2 16] }, mkLoc 0 0 0 2 16, [], _,
     by decide +kernel, (by decide +kernel), rfl, by decide +kernel⟩,
   ⟨3, act.modScrub 3 fun x => { x with queue := [user3] }, user3, [], _, by decide +kernel, (by decide +kernel), rfl,
     by decide +kernel⟩,
   ⟨3, act, by decide +kernel⟩,
   ⟨3, act.modChan 3 fun x => { x with log := ⟨List.replicate 129 [], 129⟩ }, [], List.replicate 128 [], _, _, _, _, _,
     by decide +kernel, (by decide +kernel), by decide +kernel, (by decide +kernel), by decide +kernel, rfl,
     (Option.some_get (show Option.isSome _ = true by decide +kernel)).symm,
     (Option.some_get (show Option.isSome _ = true by decide +kernel)).symm, rfl, rfl, by decide +kernel⟩,
   ⟨3, (act.setFld (F.ECC_SPILL_STS_WR_IDX 3) 32767).modChan 3 fun x => { x with log := ⟨List.replicate 129 [], 129⟩ },
     [], List.replicate 128 [], _, _, _, _, _, by decide +kernel, (by decide +kernel), by decide +kernel,
     (by decide +kernel), by decide +kernel, rfl, (Option.some_get (show Option.isSome _ = true by decide +kernel)).symm,
     (Option.some_get (show Option.isSome _ = true by decide +kernel)).symm, rfl, rfl, by decide +kernel⟩,
   ⟨0, with1 (svc .rd .sector), by decide +kernel⟩,
   ⟨3, act, by decide +kernel⟩,
   ⟨3, act.modChan 3 fun x => { x with log := ⟨List.replicate 248 [], 248⟩ }, by decide +kernel⟩,
   ⟨.fw .west, 3, 0#32, act, _, _, by decide +kernel, rfl, rfl⟩,
   ⟨.fw .west, 3, BitVec.ofNat 32 (fieldsReset Reg.ECC_INJ_CTL.fields), act, _, rfl, by decide +kernel⟩,
   ⟨.fw .west, 3, BitVec.ofNat 32 (fieldsReset Reg.ECC_INJ_CTL.fields - 2 ^ 24), act, _, rfl, by decide +kernel⟩⟩

/-- States and operands that meet the hypotheses of the clauses of `HeatIsSampledAndBoundsTheDevice`. -/
theorem witness_HeatIsSampledAndBoundsTheDevice :
    (∃ (d : Fin 17) (raw : List (BitVec 10)) (s : State) (x : Nat × Nat) (rest : List (Nat × Nat)) (t0 t1 t2 t3 : State),
      s.mode ≠ .reset ∧ s.mode ≠ .deepRetention ∧ s.thermal.history.get (fun _ => []) d = x :: rest ∧ t0 = s.advanceTo
      (x.1 + s.samplePeriod d) ∧ t1 =
      { t0 with thermal := { t0.thermal with hotAt := if t0.someHot then some t0.now else t0.thermal.hotAt } } ∧ t2 =
      ((dieSensors d).zip raw).foldl (fun t p => t.sampleSensor p.1 p.2.toNat) t1 ∧ t3 = ((((t2.sampleDie
      d).setMaxima).setPeriod d).thermalStep d).keepHistory d) ∧
    (∃ (s : State), (s.mode = .reset ∨ s.mode = .deepRetention)) ∧
    (∃ (s : State) (d : Nat), s.flag F.THM_TRIP_TRIPPED = false ∧ encC (if d = 16 then 115 else 110) ≤ s.inForce d ∧ 1 ≤
      s.thermal.trips.get (fun _ => 0) d) ∧
    (∃ (s : State), s.mode = .reset) ∧
    (∃ (d : Fin 17) (s t : State), s.mode ≠ .reset ∧ t = ((({ s with pins := { s.pins with thermtrip := true } }.setFlag
      F.THM_TRIP_TRIPPED true).setFlag F.THM_TRIP_BACKSTOP true).setFld F.THM_TRIP_DIE d).setFld F.THM_TRIP_TEMP 0) ∧
    (∃ (s : State) (n : Nat) (t : State), s.thermal.shareAt = some n ∧ s.flag F.PWR_STS_SHARE_VALID = true ∧ t =
      ((s.advanceTo (n + 20000000)).setFlag F.PWR_STS_SHARE_VALID false).setFlag F.PWR_STS_SHARE_LAPSED true) ∧
    (∃ (n : Fin 256) (s : State) (t : Nat), s.coll.holds.get (fun _ => none) n = some t) ∧
    (∃ (n : Fin 256) (s : State), s.coll.holds.get (fun _ => none) n = none) :=
  ⟨⟨16, [], { act with thermal := { act.thermal with history := [(16, [(5, 100)])] } }, (5, 100), [], _, _, _, _,
     by decide +kernel, (by decide +kernel), by decide +kernel, rfl, rfl, rfl, rfl⟩,
   ⟨inMode .deepRetention, by decide +kernel⟩,
   ⟨{ (act.setFld (F.THM_DIE_IN_FORCE 3) 696) with thermal := { act.thermal with trips := [(3, 1)] } }, 3,
     by decide +kernel⟩,
   ⟨State.reset, by decide +kernel⟩,
   ⟨16, act, _, by decide +kernel, rfl⟩,
   ⟨{ act.setFlag F.PWR_STS_SHARE_VALID true with thermal := { act.thermal with shareAt := some 5 } }, 5, _,
     by decide +kernel, (by decide +kernel), rfl⟩,
   ⟨255, { act with coll := { act.coll with holds := [(255, some 5)] } }, 5, by decide +kernel⟩,
   ⟨255, act, by decide +kernel⟩⟩

/-- States and operands that meet the hypotheses of the clauses of `BondWearIsCountedCheckedAndSaved`. -/
theorem witness_BondWearIsCountedCheckedAndSaved :
    (∃ (b : Fin 4) (s : State) (w : Wear) (t : Nat), s.mode ≠ .reset ∧ s.mode ≠ .deepRetention ∧ s.wear[b.val] = some w ∧
      t = s.boundaryTemp b ∧ if w.up then w.ext < t else t < w.ext) ∧
    (∃ (b : Fin 4) (s : State) (w : Wear) (t : Nat) (u : State) (n : Nat), s.mode ≠ .reset ∧ s.mode ≠ .deepRetention ∧
      s.wear[b.val] = some w ∧ t = s.boundaryTemp b ∧ (¬ (if w.up then w.ext < t else t < w.ext)) ∧ 20 ≤ (w.ext - t) + (t
      - w.ext) ∧ u = { s with wear := s.wear.set b (some ⟨w.ext, t, !w.up⟩) } ∧ n = (w.ext - w.ref) + (w.ref - w.ext) ∧ n
      ≤ 80) ∧
    (∃ (b : Fin 4) (s : State) (w : Wear) (t : Nat) (u : State) (n : Nat), s.mode ≠ .reset ∧ s.mode ≠ .deepRetention ∧
      s.wear[b.val] = some w ∧ t = s.boundaryTemp b ∧ (¬ (if w.up then w.ext < t else t < w.ext)) ∧ 20 ≤ (w.ext - t) + (t
      - w.ext) ∧ u = { s with wear := s.wear.set b (some ⟨w.ext, t, !w.up⟩) } ∧ n = (w.ext - w.ref) + (w.ref - w.ext) ∧ 80
      < n) ∧
    (∃ (c : Fin 32) (s : State), s.coreRuns (halfOfChan c) = true ∧ s.flag F.CAL_CFG_AUTO_CAL = true ∧ s.mode = .active ∧
      (s.chan c).st = .online ∧ 0 < s.tierLevel (c.val / 8)) ∧
    (∃ (s : State) (n : Nat) (t : State), s.mramRuns = true ∧ s.mode ≠ .reset ∧ s.mode ≠ .deepRetention ∧
      s.mram.wearWrite = none ∧ s.mram.wearAt = some n ∧ t = s.advanceTo (n + 3600000000000)) :=
  ⟨⟨3, { act.setFld (F.THM_DIE_IN_FORCE 11) 401 with wear := act.wear.set 3 (some ⟨300, 400, true⟩) }, ⟨300, 400, true⟩,
     _, by decide +kernel, (by decide +kernel), by decide +kernel, rfl, by decide +kernel⟩,
   ⟨3, { act.setFld (F.THM_DIE_IN_FORCE 11) 360 with wear := act.wear.set 3 (some ⟨300, 380, true⟩) }, ⟨300, 380, true⟩,
     _, _, _, by decide +kernel, (by decide +kernel), by decide +kernel, rfl, by decide +kernel, (by decide +kernel), rfl,
     rfl, by decide +kernel⟩,
   ⟨3, { act.setFld (F.THM_DIE_IN_FORCE 11) 361 with wear := act.wear.set 3 (some ⟨300, 381, true⟩) }, ⟨300, 381, true⟩,
     _, _, _, by decide +kernel, (by decide +kernel), by decide +kernel, rfl, by decide +kernel, (by decide +kernel), rfl,
     rfl, by decide +kernel⟩,
   ⟨3, (act.setFlag F.CAL_CFG_AUTO_CAL true).setFld (F.THM_WEAR_STS_LEVEL 0) 1, by decide +kernel⟩,
   ⟨{ act with mram := { act.mram with wearAt := some 5 } }, 5, _, by decide +kernel, (by decide +kernel),
     by decide +kernel, (by decide +kernel), by decide +kernel, rfl⟩⟩

/-- States and operands that meet the hypotheses of the clauses of `LedgerFusesAndTheShutdownTest`. -/
theorem witness_LedgerFusesAndTheShutdownTest :
    (∃ (p : Path) (w : Word) (s : State) (v : Word) (t : State), v = withBits w 31 28 1 ∧ s.granted p .CAL_LDG_CTL 0 0 v
      = true ∧ s.sessionOk p = true ∧ s.flag F.CAL_LDG_CTL_BUSY = false ∧ (s.mode = .active ∨ s.mode = .safe) ∧ t =
      (s.plainWrite (pathNum p) .CAL_LDG_CTL 0 0 v).setFlag F.CAL_LDG_CTL_BUSY true) ∧
    (∃ (p : Path) (w : Word) (s : State) (v : Word) (t : State), v = withBits w 31 28 2 ∧ s.granted p .CAL_LDG_CTL 0 0 v
      = true ∧ s.sessionOk p = true ∧ s.flag F.CAL_LDG_CTL_BUSY = false ∧ s.mode = .active ∧ t = (s.plainWrite (pathNum p)
      .CAL_LDG_CTL 0 0 v).setFlag F.CAL_LDG_CTL_BUSY true) ∧
    (∃ (p : Path) (w : Word) (s : State) (v : Word) (t : State), v = withBits w 31 28 3 ∧ s.granted p .CAL_LDG_CTL 0 0 v
      = true ∧ s.flag F.CAL_LDG_CTL_BUSY = false ∧ s.mode = .active ∧ t = (s.plainWrite (pathNum p) .CAL_LDG_CTL 0 0
      v).setFlag F.CAL_LDG_CTL_BUSY true) ∧
    (∃ (p : Path) (w : Word) (s : State) (v : Word), v = withBits w 31 28 2 ∧ s.granted p .CAL_LDG_CTL 0 0 v = true ∧
      s.sessionOk p = true ∧ s.mode = .safe) ∧
    (∃ (s : State) (a : LedgerAct) (e : Words), s.mramRuns = true ∧ s.mram.ledgerAct = some a ∧ a.action = 1 ∧
      s.mram.ledger.get (fun _ => none) a.index = some e) ∧
    (∃ (s : State) (a : LedgerAct) (e : Words) (n : Nat), s.mramRuns = true ∧ s.mram.ledgerAct = some a ∧ a.action = 2 ∧
      s.mram.ledger.get (fun _ => none) a.index = some e ∧ replacing (entType e) = true ∧ s.freeFuse = some n) ∧
    (∃ (s : State) (a : LedgerAct), s.mramRuns = true ∧ s.mram.ledgerAct = some a ∧ (a.action = 1 ∨ a.action = 2) ∧
      s.mram.ledger.get (fun _ => none) a.index = none) ∧
    (∃ (s : State) (a : LedgerAct), s.mramRuns = true ∧ s.mram.ledgerAct = some a ∧ a.action = 3 ∧ s.replaced a.ch
      (a.cond / 64) ≠ some a.cond) ∧
    (∃ (p : Path) (w : Word) (s : State) (v : Word) (n : Nat) (r : Word64) (t : State), v = withBits w 31 31 1 ∧
      s.granted p .CAL_FUSE_CTL 0 0 v = true ∧ s.sessionOk p = true ∧ s.mode = .active ∧ s.flag F.CAL_FUSE_CTL_BUSY =
      false ∧ n = bitsOf v.toNat 10 0 ∧ r = s.fuseRecord n ∧ bitsOf r.toNat 63 62 = 2 ∧ t = (((((s.plainWrite (pathNum p)
      .CAL_FUSE_CTL 0 0 v).setReg (adr .CAL_FUSE_REC_LO) (r.setWidth 32)).setReg (adr .CAL_FUSE_REC_HI) ((r >>>
      32).setWidth 32)).setFlag F.CAL_FUSE_CTL_VALID true).setFlag F.CAL_FUSE_CTL_BUSY true)) ∧
    (∃ (s : State) (n : Nat) (t : State), s.mram.fuseCancel = some n ∧ t =
      { s with mram := { s.mram with fuseCancel := none } }) ∧
    (∃ (p : Path) (w : BitVec 32) (s t : State) (e : Option Words), s.granted p .CAL_LDG_IDX 0 0 w = true ∧ t =
      s.plainWrite (pathNum p) .CAL_LDG_IDX 0 0 w ∧ e = t.mram.ledger.get (fun _ => none) (bitsOf w.toNat 10 0)) ∧
    (∃ (p : Path) (w : BitVec 32) (s t : State), s.granted p .CAL_TST_IDX 0 0 w = true ∧ t = s.plainWrite (pathNum p)
      .CAL_TST_IDX 0 0 w) ∧
    (∃ (p : Path) (w : Word) (s : State) (v : Word) (r : Word64), v = withBits w 31 31 0 ∧ s.granted p .CAL_FUSE_CTL 0 0
      v = true ∧ r = s.fuseRecord (bitsOf v.toNat 10 0)) ∧
    (∃ (t : Fin 4) (found : List TestFind) (s u : State), s.mode = .shutdownTest ∧ s.flag F.CAL_TST_STS_RUNNING = true ∧
      s.fld F.CAL_TST_STS_TIER = t.val ∧ s.flag F.CAL_TST_STS_PERMIT_WAIT = false ∧ u = s.runTier t found ∧ u.hasManager =
      false ∧ t.val < 3) ∧
    (∃ (t : Fin 4) (found : List TestFind) (s u : State), s.mode = .shutdownTest ∧ s.flag F.CAL_TST_STS_RUNNING = true ∧
      s.fld F.CAL_TST_STS_TIER = t.val ∧ s.flag F.CAL_TST_STS_PERMIT_WAIT = false ∧ u = s.runTier t found ∧ u.hasManager =
      false ∧ t.val = 3) ∧
    (∃ (s : State), s.mode = .shutdownTest ∧ s.flag F.CAL_TST_STS_PERMIT_WAIT = true) ∧
    (∃ (s : State) (t : Nat) (u : State), u = s.setFld F.CAL_TST_STS_TIER t ∧ u.hasManager = true) ∧
    (∃ (s : State) (t : Nat) (u : State), u = s.setFld F.CAL_TST_STS_TIER t ∧ u.hasManager = false) :=
  ⟨⟨.fw .west, 0#32, act, _, _, rfl, by decide +kernel, (by decide +kernel), by decide +kernel, (by decide +kernel),
     rfl⟩,
   ⟨.fw .west, 0#32, act, _, _, rfl, by decide +kernel, (by decide +kernel), by decide +kernel, (by decide +kernel),
     rfl⟩,
   ⟨.fw .west, 0#32, act, _, _, rfl, by decide +kernel, (by decide +kernel), by decide +kernel, rfl⟩,
   ⟨.fw .west, 0#32, inMode .safe, _, rfl, by decide +kernel⟩,
   ⟨{ act with mram := { act.mram with ledgerAct := some ⟨1, 2047, 3, 64⟩, ledger := [(2047, some [0x20000000, 0, 0, 0, 0, 0, 0, 0])] } },
     ⟨1, 2047, 3, 64⟩, [0x20000000, 0, 0, 0, 0, 0, 0, 0], by decide +kernel⟩,
   ⟨{ act with mram := { act.mram with ledgerAct := some ⟨2, 2047, 3, 64⟩, ledger := [(2047, some [0x10000000, 0, 0, 0, 0, 0, 0, 0])] } },
     ⟨2, 2047, 3, 64⟩, [0x10000000, 0, 0, 0, 0, 0, 0, 0], 0, by decide +kernel⟩,
   ⟨{ act with mram := { act.mram with ledgerAct := some ⟨2, 2047, 3, 64⟩, ledger := [] } }, ⟨2, 2047, 3, 64⟩,
     by decide +kernel⟩,
   ⟨{ act with mram := { act.mram with ledgerAct := some ⟨3, 2047, 3, 64⟩, ledger := [] } }, ⟨3, 2047, 3, 64⟩,
     by decide +kernel⟩,
   ⟨.fw .west, 2047#32, { act with fuses := { act.fuses with records := [(2047, 0x8000000000000000#64)] } }, _, _, _, _,
     rfl, by decide +kernel, (by decide +kernel), by decide +kernel, (by decide +kernel), rfl, rfl, by decide +kernel,
     rfl⟩,
   ⟨{ act with mram := { act.mram with fuseCancel := some 2047 } }, 2047, _, by decide +kernel, rfl⟩,
   ⟨.fw .west, 0#32, act, _, _, by decide +kernel, rfl, rfl⟩,
   ⟨.fw .west, 0#32, act, _, by decide +kernel, rfl⟩,
   ⟨.fw .west, 0#32, act, _, _, rfl, by decide +kernel, rfl⟩,
   ⟨2, [], ((inMode .shutdownTest).setFlag F.CAL_TST_STS_RUNNING true).setFld F.CAL_TST_STS_TIER 2, _,
     by decide +kernel, (by decide +kernel), by decide +kernel, (by decide +kernel), rfl, by decide +kernel⟩,
   ⟨3, [], ((inMode .shutdownTest).setFlag F.CAL_TST_STS_RUNNING true).setFld F.CAL_TST_STS_TIER 3, _,
     by decide +kernel, (by decide +kernel), by decide +kernel, (by decide +kernel), rfl, by decide +kernel⟩,
   ⟨(inMode .shutdownTest).setFlag F.CAL_TST_STS_PERMIT_WAIT true, by decide +kernel⟩,
   ⟨stack true, 0, _, rfl, by decide +kernel⟩,
   ⟨act, 0, _, rfl, by decide +kernel⟩⟩

/-- States and operands that meet the hypotheses of the clauses of `FaultRegistersInjectionAndTheDump`. -/
theorem witness_FaultRegistersInjectionAndTheDump :
    (∃ (p : Path) (r : Fin 8) (w : BitVec 32) (s : State), s.granted p .FLT_STICKY 0 r w = true) ∧
    (∃ (s before t : State) (r : Nat) (b : Fin 32) (n : Nat), n = 32 * r + b.val ∧ sourceListed n = true ∧ t = (if
      before.flag (stickyFld n) then s.setFlag (stickyFld n) true else s)) ∧
    (∃ (r : Nat) (b : Fin 32), sourceListed (32 * r + b.val) = false) ∧
    (∃ (p : Path) (w : Word) (s : State) (v : Word) (n bits : Nat) (t : State), v = withBits w 31 31 1 ∧ s.granted p
      .FLT_INJ 0 0 v = true ∧ n = bitsOf v.toNat 23 16 ∧ bits = 2 ^ bitsOf v.toNat 4 0 ∧ sourceListed n = true ∧ bitOf
      v.toNat 30 = false ∧ t = ((s.plainWrite (pathNum p) .FLT_INJ 0 0 v).recordFault n bits)) ∧
    (∃ (p : Path) (w : Word) (s : State) (v : Word) (n bits : Nat) (t : State), v = withBits w 31 31 1 ∧ s.granted p
      .FLT_INJ 0 0 v = true ∧ n = bitsOf v.toNat 23 16 ∧ bits = 2 ^ bitsOf v.toNat 4 0 ∧ sourceListed n = true ∧ bitOf
      v.toNat 30 = true ∧ (sourceReaction n bits).injectable = true ∧ (sourceReaction n bits ≠ .fatal ∨ s.sessionOk p =
      true) ∧ t = ((s.plainWrite (pathNum p) .FLT_INJ 0 0 v).recordFault n bits)) ∧
    (∃ (p : Path) (w : Word) (s : State) (v : Word), v = withBits w 31 31 1 ∧ s.granted p .FLT_INJ 0 0 v = true ∧
      sourceListed (bitsOf v.toNat 23 16) = false) ∧
    (∃ (p : Path) (w : BitVec 32) (s : State), s.granted p .FLT_DUMP_CTL 0 0 w = true ∧ bitsOf w.toNat 25 24 ≠ 3 ∧ bitsOf
      w.toNat 11 0 ≤ 3583 ∧ (bitsOf w.toNat 25 24 = 2 → bitsOf w.toNat 11 0 = 0)) ∧
    (∃ (p : Path) (w : BitVec 32) (s : State), s.granted p .FLT_DUMP_CTL 0 0 w = true ∧ ((bitsOf w.toNat 25 24 = 2 ∧
      bitsOf w.toNat 11 0 ≠ 0) ∨ 3583 < bitsOf w.toNat 11 0)) ∧
    (∃ (s : State), s.flag F.FLT_DUMP_CTL_VALID = true) ∧
    (∃ (s : State) (b : List Byte), s.flag F.FLT_DUMP_CTL_VALID = false ∧ s.fld F.FLT_DUMP_CTL_SEL = 2 ∧ s.coll.newest =
      some b) ∧
    (∃ (s : State) (c : Nat) (ds : List Decoded), s.flag F.FLT_DUMP_CTL_VALID = false ∧ s.fld F.FLT_DUMP_CTL_SEL = 0 ∧ c
      = s.fld F.FLT_DUMP_STS_CHA_USED ∧ (s.fld F.FLT_DUMP_STS_COPY_A = 1 ∨ s.fld F.FLT_DUMP_STS_COPY_A = 2) ∧ s.copyUsable
      c = true ∧ ds = ((List.range 4).map fun k => decodeSector (s.fld (F.ECC_CFG_POLICY c)) (s.stored (serviceAt c
      (0xE00000 + 256 * s.fld F.FLT_DUMP_CTL_BLOCK + 64 * k))))) ∧
    (∃ (s : State), s.flag F.FLT_DUMP_CTL_VALID = false ∧ s.fld F.FLT_DUMP_CTL_SEL = 0 ∧ ((s.fld F.FLT_DUMP_STS_COPY_A ≠
      1 ∧ s.fld F.FLT_DUMP_STS_COPY_A ≠ 2) ∨ s.copyUsable (s.fld F.FLT_DUMP_STS_CHA_USED) = false)) ∧
    (∃ (p : Path) (w : BitVec 32) (s : State), s.granted p .FLT_DUMP_CFG 0 0 w = true ∧ bitsOf w.toNat 20 16 / 8 ≠ bitsOf
      w.toNat 4 0 / 8) ∧
    (∃ (p : Path) (w : BitVec 32) (s : State), s.granted p .FLT_DUMP_CFG 0 0 w = true ∧ bitsOf w.toNat 20 16 / 8 = bitsOf
      w.toNat 4 0 / 8) ∧
    (∃ (s : State), s.mode ≠ .fatal) :=
  ⟨⟨.fw .west, 3, 0#32, act, by decide +kernel⟩,
   ⟨act, act, _, 0, 3, _, rfl, by decide +kernel, rfl⟩,
   ⟨0, 20, by decide +kernel⟩,
   ⟨.fw .west, 0x00FF001F#32, act, _, _, _, _, rfl, by decide +kernel, rfl, rfl, by decide +kernel, (by decide +kernel),
     rfl⟩,
   ⟨.fw .west, 0x40000000#32, act, _, _, _, _, rfl, by decide +kernel, rfl, rfl, by decide +kernel, (by decide +kernel),
     by decide +kernel, (by decide +kernel), rfl⟩,
   ⟨.fw .west, 0x000A0000#32, act, _, rfl, by decide +kernel⟩,
   ⟨.fw .west, 3583#32, act, by decide +kernel⟩,
   ⟨.fw .west, 3584#32, act, by decide +kernel⟩,
   ⟨act.setFlag F.FLT_DUMP_CTL_VALID true, by decide +kernel⟩,
   ⟨{ act.setFld F.FLT_DUMP_CTL_SEL 2 with coll := { act.coll with summaries := [[7]] } }, [7], by decide +kernel⟩,
   ⟨(((act.setFld F.FLT_DUMP_STS_COPY_A 1).setFld F.FLT_DUMP_STS_CHA_USED 31).setFlag (F.GLB_ISL_STS_LOCKED 31) true),
     _, _, by decide +kernel, (by decide +kernel), rfl, by decide +kernel, (by decide +kernel), rfl⟩,
   ⟨act, by decide +kernel⟩,
   ⟨.fw .west, 8#32, act, by decide +kernel⟩,
   ⟨.fw .west, 0#32, act, by decide +kernel⟩,
   ⟨act, by decide +kernel⟩⟩

/-- States and operands that meet the hypotheses of the clauses of `AuthorityAndFirmwareUpdates`. -/
theorem witness_AuthorityAndFirmwareUpdates :
    (∃ (h : Half) (claim : Bool) (s t : State), s.coreRuns h = true ∧ s.auth.fwu = none ∧ t = (((s.setFld (beatFld h)
      (s.fld (beatFld h) + 1)).setBeat h (some s.now)).setCurrent h true).setClaims h (if claim then s.claimRun h + 1 else
      0)) ∧
    (∃ (h : Half) (s : State), s.coreRuns h = false) ∧
    (∃ (s : State), s.beatCurrent s.holder = true ∧ s.claimRun s.holder = 0 ∧ s.beatCurrent (halfOther s.holder) = true ∧
      0 < s.claimRun (halfOther s.holder)) ∧
    (∃ (s : State), s.beatCurrent s.holder = true ∧ 0 < s.claimRun s.holder ∧ s.beatCurrent (halfOther s.holder) = true ∧
      3 ≤ s.claimRun (halfOther s.holder)) ∧
    (∃ (s : State), s.beatCurrent s.holder = false ∧ s.beatCurrent (halfOther s.holder) = true) ∧
    (∃ (s : State), s.beatCurrent s.holder = false ∧ s.beatCurrent (halfOther s.holder) = false) ∧
    (∃ (h : Half) (s : State) (n : Nat), s.beatAt h = some n ∧ s.beatCurrent h = true ∧ s.mode ≠ .reset) ∧
    (∃ (p : Path) (w : Word) (s : State) (v : Word) (h : Half), v = withBits w 31 31 1 ∧ s.granted p .AUTH_ASSIGN 0 0 v =
      true ∧ h = (if bitOf v.toNat 0 then Half.east else .west) ∧ s.beatCurrent h = true ∧ s.holder ≠ h ∧ (s.moveToken
      h).flag (liveFld 105) = false) ∧
    (∃ (p : Path) (w : Word) (s : State) (v : Word) (h : Half), v = withBits w 31 31 1 ∧ s.granted p .AUTH_ASSIGN 0 0 v =
      true ∧ h = (if bitOf v.toNat 0 then Half.east else .west) ∧ s.beatCurrent h = false) ∧
    (∃ (p : Path) (w : Word) (x : ImageCheck) (s : State) (v : Word) (t u : State), v = withBits w 31 31 1 ∧ s.granted p
      .AUTH_FWU_CTL 0 0 v = true ∧ s.mode = .active ∧ s.fld F.AUTH_FWU_CTL_STATE ≠ 1 ∧ 4096 * s.fld F.AUTH_FWU_SRC_OFFSET
      + 1024 * s.fld F.AUTH_FWU_SRC_LEN ≤ hostAreaEnd ∧ t = ((s.plainWrite (pathNum p) .AUTH_FWU_CTL 0 0 v).setFld
      F.AUTH_FWU_CTL_STATE 1).setFld F.AUTH_FWU_CTL_RESULT 0 ∧ u =
      { t with auth := { t.auth with fwu := some ⟨.permit, t.now, x.major.toNat, x.minor.toNat⟩ }, mram := { t.mram with fwOther := some (x.major.toNat, x.minor.toNat) } }) ∧
    (∃ (s : State) (ch : Nat), s.imageBytes ch = none) ∧
    (∃ (s : State) (ch : Nat) (l : List Nat), s.imageBytes ch = some l) ∧
    (∃ (p : Path) (w : Word) (s : State) (v : Word), v = withBits w 31 31 1 ∧ s.granted p .AUTH_FWU_CTL 0 0 v = true ∧
      (s.mode ≠ .active ∨ s.fld F.AUTH_FWU_CTL_STATE = 1 ∨ hostAreaEnd < 4096 * s.fld F.AUTH_FWU_SRC_OFFSET + 1024 * s.fld
      F.AUTH_FWU_SRC_LEN)) ∧
    (∃ (s : State) (f : Fwu) (u : State), s.auth.fwu = some f ∧ f.phase = .firstBoot ∧ u =
      { s with mram := { s.mram with fwOther := none } }) :=
  ⟨⟨.west, true, act, _, by decide +kernel, (by decide +kernel), rfl⟩,
   ⟨.east, State.reset, by decide +kernel⟩,
   ⟨{ act.setFld F.AUTH_STS_CURRENT 3 with auth := { act.auth with claimsE := 1 } }, by decide +kernel⟩,
   ⟨{ act.setFld F.AUTH_STS_CURRENT 3 with auth := { act.auth with claimsW := 1, claimsE := 3 } }, by decide +kernel⟩,
   ⟨act.setFld F.AUTH_STS_CURRENT 2, by decide +kernel⟩,
   ⟨act.setFld F.AUTH_STS_CURRENT 0, by decide +kernel⟩,
   ⟨.west, act.setFld F.AUTH_STS_CURRENT 1, 1000000, by decide +kernel⟩,
   ⟨.fw .west, 1#32, act.setFld F.AUTH_STS_CURRENT 2, _, _, rfl, by decide +kernel, rfl, by decide +kernel⟩,
   ⟨.fw .west, 1#32, act.setFld F.AUTH_STS_CURRENT 1, _, _, rfl, by decide +kernel, rfl, by decide +kernel⟩,
   ⟨.fw .west, 0#32, ⟨true, 1, 0⟩, act.setFld F.AUTH_FWU_SRC_LEN 64, _, _, _, rfl, by decide +kernel,
     (by decide +kernel), by decide +kernel, (by decide +kernel), rfl, rfl⟩,
   ⟨allIn .offline, 0, by decide +kernel⟩,
   ⟨act, 0, _, (Option.some_get (show Option.isSome _ = true by decide +kernel)).symm⟩,
   ⟨.fw .west, 0#32, act.setFld F.AUTH_FWU_CTL_STATE 1, _, rfl, by decide +kernel⟩,
   ⟨{ act with auth := { act.auth with fwu := some ⟨.firstBoot, 5, 1, 0⟩ } }, ⟨.firstBoot, 5, 1, 0⟩, _,
     by decide +kernel, (by decide +kernel), rfl⟩⟩

/-- States and operands that meet the hypotheses of the clauses of `StacksManageThePackage`. -/
theorem witness_StacksManageThePackage :
    (∃ (src : BitVec 4) (l : List (BitVec 8)) (s : State) (m : List Nat), s.cwyRuns = true ∧ l.length = 48 ∧ m = l.map
      (·.toNat) ∧ src.toNat ≠ s.pins.stackId) ∧
    (∃ (src : BitVec 4) (l : List (BitVec 8)) (s : State) (m : List Nat), s.cwyRuns = true ∧ l.length = 48 ∧ m = l.map
      (·.toNat) ∧ src.toNat = s.pins.stackId ∧ s.sentIt 1 m = true) ∧
    (∃ (src : BitVec 4) (l : List (BitVec 8)) (s : State) (m : List Nat), s.cwyRuns = true ∧ l.length = 48 ∧ m = l.map
      (·.toNat) ∧ src.toNat = s.pins.stackId ∧ s.sentIt 1 m = false) ∧
    (∃ (l : List (BitVec 8)) (s : State), s.cwyRuns = true ∧ l.length ≠ 48) ∧
    (∃ (s : State), s.cwyRuns = false ∧ s.mode = .deepRetention) ∧
    (∃ (type dst src : Nat) (l b : List Nat), b = [dst * 16 + src, type, l.length] ++ l) ∧
    (∃ (s t : State), t = ({ s with cwy := { s.cwy with sole := 16, soleSince := s.now } }.raiseCond 108 0)) ∧
    (∃ (s t : State) (k : Nat), t = (if s.cwy.sole = k then s else
      { s with cwy := { s.cwy with sole := k, soleSince := s.now } }) ∧ t.flag (liveFld 108) = true ∧ t.cwy.sole < 16 ∧
      t.cwy.soleSince + 10000000 ≤ t.now) ∧
    (∃ (s t : State) (k : Nat), t = (if s.cwy.sole = k then s else
      { s with cwy := { s.cwy with sole := k, soleSince := s.now } }) ∧ (t.flag (liveFld 108) = false ∨ 16 ≤ t.cwy.sole ∨
      t.now < t.cwy.soleSince + 10000000)) ∧
    (∃ (s : State) (src : Nat) (t : State), (s.heardBeat src) = t ∧ t.isManager = false) ∧
    (∃ (s : State) (src : Nat) (l : List Nat) (t : State), (s.heardBeat src) = t ∧ t.isManager = true ∧ t.cwy.epoch <
      payloadAt l 0 4) ∧
    (∃ (s : State) (src : Nat) (l : List Nat) (t : State), (s.heardBeat src) = t ∧ t.isManager = true ∧ t.cwy.epoch =
      payloadAt l 0 4) ∧
    (∃ (s : State) (src : Nat) (l : List Nat) (t : State), (s.heardBeat src) = t ∧ t.isManager = true ∧ payloadAt l 0 4 <
      t.cwy.epoch) ∧
    (∃ (src : BitVec 4) (l : List (BitVec 8)) (s : State) (m : List Nat), s.cwyRuns = true ∧ l.length = 12 ∧ m = l.map
      (·.toNat) ∧ src.toNat ≠ s.pins.stackId) ∧
    (∃ (src : BitVec 4) (l : List (BitVec 8)) (s : State) (m : List Nat), s.cwyRuns = true ∧ l.length = 4 ∧ m = l.map
      (·.toNat) ∧ src.toNat ≠ s.pins.stackId) ∧
    (∃ (dst src : BitVec 4) (kind : BitVec 8) (s : State), s.cwyRuns = true ∧ src.toNat ≠ s.pins.stackId ∧ dst.toNat =
      s.pins.stackId ∧ dst.toNat ≠ 15 ∧ s.isManager = true ∧ kind.toNat ≤ 1) ∧
    (∃ (dst src : BitVec 4) (s : State), s.cwyRuns = true ∧ src.toNat ≠ s.pins.stackId ∧ dst.toNat ≠ s.pins.stackId ∧
      dst.toNat ≠ 15) ∧
    (∃ (dst src : BitVec 4) (s : State), s.cwyRuns = true ∧ src.toNat ≠ s.pins.stackId ∧ dst.toNat = s.pins.stackId ∧
      dst.toNat ≠ 15) ∧
    (∃ (dst src : BitVec 4) (kind : BitVec 8) (s : State) (l : List (Permit × Nat)), s.cwyRuns = true ∧ src.toNat ≠
      s.pins.stackId ∧ dst.toNat = s.pins.stackId ∧ dst.toNat ≠ 15 ∧ s.isManager = true ∧ l = s.cwy.granted.filter (fun g
      => !(g.1.stack == src.toNat && g.1.kind == kind.toNat))) ∧
    (∃ (s : State), s.cwyRuns = true) ∧
    (∃ (s : State), s.cwyRuns = true ∧ s.flag (liveFld 110) = false) ∧
    (∃ (s : State), s.cwyRuns = true ∧ s.flag F.CWY_STS_LINK_UP = false) ∧
    (∃ (s : State) (l : List Nat), s.cwyRuns = true ∧ s.isManager = true ∧ l = bytesLE 4 s.cwy.epoch ++ bytesLE 8
      s.timeBase.toNat ++ bytesLE 4 0 ++ ((List.range 16).flatMap fun k => bytesLE 2 (s.shareOf k))) ∧
    (∃ (s : State) (n : Nat), s.cwy.listening = some n) ∧
    (∃ (s t : State) (e : Nat), s.cwyRuns = true ∧ s.mode ≠ .bringUp ∧ s.isManager = false ∧ s.cwy.listening = none ∧
      s.pins.mgrCapable = true ∧ t = s.advanceTo (s.cwy.lastBeat + 50000000 + 2000000 * s.pins.stackId) ∧ e = (t.cwy.epoch
      + 1) % 2 ^ 32) ∧
    (∃ (k : Fin 16) (s t : State), s.cwyRuns = true ∧ bitOf (s.fld F.CWY_PRESENT_PRESENT) k = true ∧ k.val ≠
      s.pins.stackId ∧ t = (s.advanceTo ((s.peer k).heard + 5000000)).setFldBit F.CWY_PRESENT_PRESENT k false) ∧
    (∃ (p : Path) (w : Word) (s : State) (v : Word) (t : State), v = withBits w 30 30 1 ∧ s.granted p .CWY_CFG 0 0 v =
      true ∧ t = s.plainWrite (pathNum p) .CWY_CFG 0 0 v ∧ t.isManager = true) ∧
    (∃ (k : Fin 16) (s : State) (g : Permit × Nat), s.cwy.granted.find? (fun g => g.1.stack == k.val && g.1.kind == 0) =
      some g) ∧
    (∃ (s : State) (n : Nat), s.flag F.CAL_TST_STS_RUNNING = true ∧ s.fld F.CAL_TST_STS_TIER = n) ∧
    (∃ (s : State) (f : Fwu), s.auth.fwu = some f ∧ f.phase = .permit) ∧
    (∃ (s : State) (src : Nat) (l : List Nat) (n : Nat), n = payloadAt l 0 4 ∧ bitOf (s.fld F.CWY_PRESENT_PRESENT) src =
      true ∧ (s.peer src).known = true ∧ (s.peer src).seq = n / 65536) :=
  ⟨⟨4, List.replicate 48 0#8, stack false, _, by decide +kernel, (by decide +kernel), rfl, by decide +kernel⟩,
   ⟨3, List.replicate 48 0#8, { stack false with cwy := { act.cwy with sent := [(1, List.replicate 48 0)] } }, _,
     by decide +kernel, (by decide +kernel), rfl, by decide +kernel⟩,
   ⟨3, List.replicate 48 0#8, stack false, _, by decide +kernel, (by decide +kernel), rfl, by decide +kernel⟩,
   ⟨[], stack false, by decide +kernel⟩,
   ⟨inMode .deepRetention, by decide +kernel⟩,
   ⟨0, 0, 0, [], _, rfl⟩,
   ⟨act, _, rfl⟩,
   ⟨{ act.setFlag (liveFld 108) true with now := 20000000, cwy := { act.cwy with sole := 0, soleSince := 0 } }, _, 0,
     rfl, by decide +kernel⟩,
   ⟨act, _, 0, rfl, by decide +kernel⟩,
   ⟨stack false, 0, _, rfl, by decide +kernel⟩,
   ⟨stack true, 0, [1, 0, 0, 0], _, rfl, by decide +kernel⟩,
   ⟨stack true, 0, [0, 0, 0, 0], _, rfl, by decide +kernel⟩,
   ⟨{ stack true with cwy := { act.cwy with epoch := 1 } }, 0, [0, 0, 0, 0], _, rfl, by decide +kernel⟩,
   ⟨4, List.replicate 12 0#8, stack false, _, by decide +kernel, (by decide +kernel), rfl, by decide +kernel⟩,
   ⟨4, List.replicate 4 0#8, stack false, _, by decide +kernel, (by decide +kernel), rfl, by decide +kernel⟩,
   ⟨3, 4, 1, stack true, by decide +kernel⟩,
   ⟨14, 4, stack false, by decide +kernel⟩,
   ⟨3, 4, stack false, by decide +kernel⟩,
   ⟨3, 4, 0#8, stack true, _, by decide +kernel, (by decide +kernel), by decide +kernel, (by decide +kernel),
     by decide +kernel, rfl⟩,
   ⟨stack false, by decide +kernel⟩,
   ⟨stack false, by decide +kernel⟩,
   ⟨stack false, by decide +kernel⟩,
   ⟨stack true, _, by decide +kernel, (by decide +kernel), rfl⟩,
   ⟨{ stack false with cwy := { act.cwy with listening := some 5 } }, 5, by decide +kernel⟩,
   ⟨stack false, _, _, by decide +kernel, (by decide +kernel), by decide +kernel, (by decide +kernel),
     by decide +kernel, rfl, rfl⟩,
   ⟨15, (stack false).setFld F.CWY_PRESENT_PRESENT 0x8000, _, by decide +kernel, (by decide +kernel), by decide +kernel,
     rfl⟩,
   ⟨.fw .west, 0x01000000#32, stack true, _, _, rfl, by decide +kernel, rfl, by decide +kernel⟩,
   ⟨15, { stack true with cwy := { act.cwy with granted := [(⟨15, 0, 0⟩, 5)] } }, (⟨15, 0, 0⟩, 5), by decide +kernel⟩,
   ⟨act.setFlag F.CAL_TST_STS_RUNNING true, 0, by decide +kernel⟩,
   ⟨{ act with auth := { act.auth with fwu := some ⟨.permit, 5, 1, 0⟩ } }, ⟨.permit, 5, 1, 0⟩, by decide +kernel⟩,
   ⟨{ (stack true).setFld F.CWY_PRESENT_PRESENT 0xF with cwy := { act.cwy with peers := [(2, ⟨true, 0, 600, 400, 0⟩)] } },
     2, [0, 0, 0, 0], _, rfl, by decide +kernel⟩⟩

/-- States and operands that meet the hypotheses of the clauses of `LifeCycleSessionsAndOverrides`. -/
theorem witness_LifeCycleSessionsAndOverrides :
    (∃ (p : Path) (w : BitVec 32) (s : State) (b role : Nat), s.granted p .LC_CTL 0 0 w = true ∧ b = bitsOf w.toNat 31 29
      ∧ b ≠ 0 ∧ transitionRole s.lifeState b = some role ∧ s.flag F.LC_CTL_BUSY = false ∧ s.mode ≠ .safe ∧ (role = 0 ∨
      isSecure p = true ∨ (s.life.session = role ∧ s.life.sessPath = pathNum p)) ∧ (s.lifeState = 1 → b = 2 →
      s.fuses.installerKey.isSome = true)) ∧
    (∃ (p : Path) (w : BitVec 32) (s : State), s.granted p .LC_CTL 0 0 w = true ∧ bitsOf w.toNat 31 29 ≠ 0 ∧
      transitionRole s.lifeState (bitsOf w.toNat 31 29) = none) ∧
    (∃ (bits : BitVec 5) (s t u : State), s.flag F.LC_CTL_BUSY = true ∧ s.fuses.life ||| bits.toNat = s.life.pendingBits
      ∧ t = (((({ s with fuses := { s.fuses with life := s.fuses.life ||| bits.toNat } }.setFlag F.LC_CTL_BUSY
      false).setFld F.LC_CTL_RESULT 0).latch F.POLL_SUMMARY_DONE)) ∧ u = t.audit 9 t.life.pendingBy.1 t.life.pendingBy.2 0
      s.lifeState t.lifeState ∧ (u.life.session = 0 ∨ sessionPermitted u.lifeState u.life.session = true)) ∧
    (∃ (s : State), s.flag F.LC_CTL_BUSY = false) ∧
    (∃ (p : Path) (w : Word) (s : State) (v : Word), v = withBits w 31 29 4 ∧ s.granted p .LC_SESS_CTL 0 0 v = true ∧
      hostPath p = true ∧ s.life.session = 0 ∧ s.life.lockout = false) ∧
    (∃ (p : Path) (w : Word) (s : State) (v : Word), v = withBits w 31 29 4 ∧ s.granted p .LC_SESS_CTL 0 0 v = true ∧
      hostPath p = true ∧ (s.life.session ≠ 0 ∨ s.life.lockout = true)) ∧
    (∃ (p : Path) (w : Word) (s : State) (v : Word) (role : Nat) (u t : State), v = withBits w 31 29 2 ∧ s.granted p
      .LC_SESS_CTL 0 0 v = true ∧ hostPath p = true ∧ role = bitsOf v.toNat 25 24 ∧ s.openFails v = false ∧ u =
      s.plainWrite (pathNum p) .LC_SESS_CTL 0 0 v ∧ t = { u with life := { u.life with nonce := none } } ∧
      (sessionPermitted t.lifeState role && t.responseOk role (pathNum p)) = true) ∧
    (∃ (p : Path) (w : Word) (s : State) (v : Word) (role : Nat) (u t : State), v = withBits w 31 29 2 ∧ s.granted p
      .LC_SESS_CTL 0 0 v = true ∧ hostPath p = true ∧ role = bitsOf v.toNat 25 24 ∧ s.openFails v = false ∧ u =
      s.plainWrite (pathNum p) .LC_SESS_CTL 0 0 v ∧ t = { u with life := { u.life with nonce := none } } ∧
      (sessionPermitted t.lifeState role && t.responseOk role (pathNum p)) = false) ∧
    (∃ (p : Path) (w w' : Word) (s : State) (v : Word), v = withBits w 31 29 2 ∧ s.granted p .LC_SESS_CTL 0 0 w' = true ∧
      hostPath p = true ∧ s.openFails v = true) ∧
    (∃ (p : Path) (w w' : Word) (s : State) (v : Word), v = withBits w 31 29 2 ∧ s.granted p .LC_SESS_CTL 0 0 w' = true ∧
      hostPath p = true ∧ s.openFails v = false ∧ inRange .LC_SESS_CTL v.toNat = false) ∧
    (∃ (p : Path) (w' : Word) (s : State), s.granted p .LC_SESS_CTL 0 0 w' = true ∧ hostPath p = false) ∧
    (∃ (p : Path) (w : Word) (s : State) (v : Word), v = withBits w 31 29 1 ∧ s.granted p .LC_SESS_CTL 0 0 v = true ∧
      hostPath p = true ∧ s.life.session ≠ 0 ∧ s.life.sessPath = pathNum p) ∧
    (∃ (s : State) (n : Nat), s.life.nonce = some n) ∧
    (∃ (s : State), s.life.session ≠ 0) ∧
    (∃ (s : State), s.life.session = 0) ∧
    (∃ (p : Path) (w : BitVec 32) (s : State), s.granted p .LC_STRAP_OVR 0 0 w = true ∧ s.sessionOk p = true ∧
      (s.life.override = false ∨ bitOf w.toNat 31 = true)) ∧
    (∃ (p : Path) (w : BitVec 32) (s : State), s.granted p .LC_TRN_OVR 0 0 w = true ∧ s.sessionOk p = true) ∧
    (∃ (p : Path) (w : BitVec 32) (s t : State), s.granted p .LC_AUD_IDX 0 0 w = true ∧ t = s.plainWrite (pathNum p)
      .LC_AUD_IDX 0 0 w) :=
  ⟨⟨.fw .west, 0x80000000#32, { act with fuses := { act.fuses with life := 7 } }, _, 1, by decide +kernel, rfl,
     by decide +kernel⟩,
   ⟨.fw .west, 0x20000000#32, act, by decide +kernel⟩,
   ⟨15, { act.setFlag F.LC_CTL_BUSY true with life := { act.life with pendingBits := 15 } }, _, _, by decide +kernel,
     (by decide +kernel), rfl, rfl, by decide +kernel⟩,
   ⟨act, by decide +kernel⟩,
   ⟨.sb 0, BitVec.ofNat 32 (fieldsReset Reg.LC_SESS_CTL.fields), act, _, rfl, by decide +kernel⟩,
   ⟨.sb 0, BitVec.ofNat 32 (fieldsReset Reg.LC_SESS_CTL.fields), { act with life := { act.life with lockout := true } },
     _, rfl, by decide +kernel⟩,
   ⟨.sb 0, 16777816#32, { keyed with life := { keyed.life with resp := answer } }, _, _, _, _, rfl, by decide +kernel,
     (by decide +kernel), rfl, by decide +kernel, rfl, rfl, by decide +kernel⟩,
   ⟨.sb 0, BitVec.ofNat 32 (fieldsReset Reg.LC_SESS_CTL.fields),
     { act with life := { act.life with nonce := some 5, nonceRole := 1 } }, _, _, _, _, rfl, by decide +kernel,
     (by decide +kernel), rfl, by decide +kernel, rfl, rfl, by decide +kernel⟩,
   ⟨.sb 0, 0#32, 16777816#32, act, _, rfl, by decide +kernel⟩,
   ⟨.sb 0, 0x01000001#32, 16777816#32, { act with life := { act.life with nonce := some 5, nonceRole := 1 } }, _, rfl,
     by decide +kernel⟩,
   ⟨.fw .west, 16777816#32, act, by decide +kernel⟩,
   ⟨.sb 0, BitVec.ofNat 32 (fieldsReset Reg.LC_SESS_CTL.fields), sess 1, _, rfl, by decide +kernel⟩,
   ⟨{ act with life := { act.life with nonce := some 5 } }, 5, by decide +kernel⟩,
   ⟨sess 1, by decide +kernel⟩,
   ⟨act, by decide +kernel⟩,
   ⟨.fw .west, BitVec.ofNat 32 (fieldsReset Reg.LC_STRAP_OVR.fields), act, by decide +kernel⟩,
   ⟨.fw .west, 6#32, act, by decide +kernel⟩,
   ⟨.fw .west, 0#32, act, _, by decide +kernel, rfl⟩⟩

/-- States and operands that meet the hypotheses of the clauses of `CountersTagsAndTheTrace`. -/
theorem witness_CountersTagsAndTheTrace :
    (∃ (p : Path) (w : Word) (s : State) (v : Word) (t : State), v = withBits w 30 29 0 ∧ s.granted p .OBS_CTL 0 0 v =
      true ∧ t = s.plainWrite (pathNum p) .OBS_CTL 0 0 v) ∧
    (∃ (p : Path) (w : Word) (s : State) (v : Word) (t : State), v = withBits w 30 30 1 ∧ s.granted p .OBS_CTL 0 0 v =
      true ∧ t = (s.plainWrite (pathNum p) .OBS_CTL 0 0 v).setFlag F.OBS_CTL_SNAP_VALID false) ∧
    (∃ (p : Path) (w : Word) (s : State) (v : Word) (t : State), v = withBits w 29 29 1 ∧ s.granted p .OBS_CTL 0 0 v = true ∧ t = (let r := s.plainWrite (pathNum p) .OBS_CTL 0 0 v
      if bitOf v.toNat 30 then r.setFlag F.OBS_CTL_SNAP_VALID false else r)) ∧
    (∃ (s : State) (x : ObsInstant) (rest : List ObsInstant), s.obs.instants = x :: rest ∧ s.timeBase.toNat < x.due) ∧
    (∃ (s : State) (x : ObsInstant) (rest : List ObsInstant), s.obs.instants = x :: rest ∧ x.due ≤ s.timeBase.toNat) ∧
    (∃ (s before : State) (x : ObsInstant) (t u v : State) (b : Bool), t = s.runCounters before x.due [] ∧ u = (if x.snap
      then t.snapshotAt x.due else t) ∧ v = (if x.clear then u.clearCounters else u) ∧ x.freeze = some b) ∧
    (∃ (s before : State) (x : ObsInstant) (t u v : State), t = s.runCounters before x.due [] ∧ u = (if x.snap then
      t.snapshotAt x.due else t) ∧ v = (if x.clear then u.clearCounters else u) ∧ x.freeze = none) ∧
    (∃ (s : State), s.obs.instants = []) ∧
    (∃ (p : Path) (w : Word) (s : State) (v : Word) (t : State), v = withBits w 31 31 1 ∧ s.granted p .OBS_TAG_CFG 0 0 v
      = true ∧ t = s.plainWrite (pathNum p) .OBS_TAG_CFG 0 0 v ∧ s.flag F.OBS_TAG_CFG_EN = true) ∧
    (∃ (p : Path) (w : Word) (s : State) (v : Word) (t : State) (l : Store Word), v = withBits w 31 31 1 ∧ s.granted p
      .OBS_TAG_CFG 0 0 v = true ∧ t = s.plainWrite (pathNum p) .OBS_TAG_CFG 0 0 v ∧ s.flag F.OBS_TAG_CFG_EN = false ∧
      t.flag F.OBS_TAG_CFG_EN = true ∧ l = (List.range 12).foldl (fun (d : Store Word) m => d.set (fun _ => 1) m (if t.reg
      (adr .OBS_TAG_SEED) ^^^ BitVec.ofNat 32 m = 0 then 1 else t.reg (adr .OBS_TAG_SEED) ^^^ BitVec.ofNat 32 m))
      t.obs.lfsr) ∧
    (∃ (c : Fin 32) (s : State) (g : TagRec) (r : State) (loc : Nat), s.tagDue c = some g ∧ (s.chan c).st = .online ∧
      s.idleCycle c = some r ∧ loc = (serviceAt c (r.tagOff c)).loc ∧ r.rowWaits loc true = false ∧ r.rowInCycle loc =
      false ∧ r.bankOpen loc = true ∧ r.fitsBudget c 1 = true) ∧
    (∃ (c : Fin 32) (s : State) (g : TagRec) (r : State) (loc : Nat), s.tagDue c = some g ∧ (s.chan c).st = .online ∧
      s.idleCycle c = some r ∧ loc = (serviceAt c (r.tagOff c)).loc ∧ (r.rowWaits loc true = true ∨ r.rowInCycle loc =
      true ∨ r.bankOpen loc = false ∨ r.fitsBudget c 1 = false)) ∧
    (∃ (c : Fin 32) (s : State) (g : TagRec), s.tagDue c = some g ∧ (s.chan c).st = .online ∧ s.idleCycle c = none) ∧
    (∃ (c : Fin 32) (s : State) (g : TagRec), s.tagDue c = some g ∧ (s.chan c).st ≠ .online) ∧
    (∃ (c : Fin 32) (s : State), s.tagDue c = none) ∧
    (∃ (p : Path) (w : Word) (s : State) (v : Word) (t : State), v = withBits w 31 29 4 ∧ s.granted p .OBS_TRC_CTL 0 0 v
      = true ∧ t = (((s.plainWrite (pathNum p) .OBS_TRC_CTL 0 0 v).setFlag F.OBS_TRC_STS_RUNNING true).setFlag
      F.OBS_TRC_STS_FULL false).setFld F.OBS_TRC_STS_WR_POS 0) ∧
    (∃ (p : Path) (w : Word) (s : State) (v : Word) (t : State), v = withBits w 31 29 2 ∧ s.granted p .OBS_TRC_CTL 0 0 v
      = true ∧ t = s.plainWrite (pathNum p) .OBS_TRC_CTL 0 0 v) ∧
    (∃ (s : State), s.flag F.OBS_TRC_STS_RUNNING = true ∧ s.obs.postLeft = some 0) ∧
    (∃ (p : Path) (w : Word) (s : State) (v : Word) (t : State), v = withBits w 31 29 1 ∧ s.granted p .OBS_TRC_CTL 0 0 v
      = true ∧ s.flag F.OBS_TRC_STS_RUNNING = false ∧ exportOk (bitsOf v.toNat 11 0) = true ∧ s.obs.exporting = none ∧ t =
      (s.plainWrite (pathNum p) .OBS_TRC_CTL 0 0 v).setFlag F.OBS_TRC_CTL_EXP_VALID false) ∧
    (∃ (p : Path) (w : Word) (s : State) (v : Word), v = withBits w 31 29 1 ∧ s.granted p .OBS_TRC_CTL 0 0 v = true ∧
      (s.flag F.OBS_TRC_STS_RUNNING = true ∨ exportOk (bitsOf v.toNat 11 0) = false ∨ s.obs.exporting ≠ none)) ∧
    (∃ (s : State) (x : Export), s.obs.exporting = some x ∧ x.next = 4096) ∧
    (∃ (s : State) (x : Export), s.obs.exporting = some x ∧ x.next ≠ 4096) ∧
    (∃ (s : State), s.obs.exporting = none) ∧
    (∃ (p : Path) (w : BitVec 32) (s t : State) (e : List Word), s.granted p .OBS_TRC_RD 0 0 w = true ∧ t = s.plainWrite
      (pathNum p) .OBS_TRC_RD 0 0 w ∧ e = s.obs.trace.get (fun _ => []) (bitsOf w.toNat 13 0)) ∧
    (∃ (p : Path) (w : BitVec 32) (s : State), s.granted p .OBS_TRC_MARK 0 0 w = true) ∧
    (∃ (s : State) (k : Nat) (t : State), t = (s.setFlag F.OBS_TRC_STS_RUNNING false).setFld F.OBS_TRC_STS_STOPPED_BY k ∧
      k = 1) ∧
    (∃ (s : State) (k : Nat) (t : State), t = (s.setFlag F.OBS_TRC_STS_RUNNING false).setFld F.OBS_TRC_STS_STOPPED_BY k ∧
      k ≠ 1) ∧
    (∃ (s : State) (n : Nat), n = s.obs.fifo - (s.now - s.obs.fifoAt) ∧ 64 ≤ n) ∧
    (∃ (s : State) (n : Nat) (t : State), n = s.obs.fifo - (s.now - s.obs.fifoAt) ∧ n < 64 ∧ t =
      { s with obs := { s.obs with fifo := n + 1, fifoAt := s.now, lost := 0 } }) :=
  ⟨⟨.fw .west, 0#32, act, _, _, rfl, by decide +kernel, rfl⟩,
   ⟨.fw .west, 0#32, act, _, _, rfl, by decide +kernel, rfl⟩,
   ⟨.fw .west, 0#32, act, _, _, rfl, by decide +kernel, rfl⟩,
   ⟨{ act with obs := { act.obs with instants := [⟨1000100, some true, false, true⟩] } }, ⟨1000100, some true, false,
     true⟩, [], by decide +kernel⟩,
   ⟨{ act with obs := { act.obs with instants := [⟨0, some true, false, true⟩] } }, ⟨0, some true, false, true⟩, [],
     by decide +kernel⟩,
   ⟨act, act, ⟨0, some true, true, true⟩, _, _, _, true, rfl, rfl, rfl, by decide +kernel⟩,
   ⟨act, act, ⟨0, none, true, false⟩, _, _, _, rfl, rfl, rfl, by decide +kernel⟩,
   ⟨act, by decide +kernel⟩,
   ⟨.fw .west, 0#32, act.setFlag F.OBS_TAG_CFG_EN true, _, _, rfl, by decide +kernel, rfl, by decide +kernel⟩,
   ⟨.fw .west, 0#32, act, _, _, _, rfl, by decide +kernel, rfl, by decide +kernel, (by decide +kernel), rfl⟩,
   ⟨3,
     { act with obs := { act.obs with tags := [{ m := 3, tag := 5, kind := 0, flow := 2, addr := 0, t0 := 5, base := 5, ch := 3, dFabric := none, dChannel := none, dGrant := none, dDone := none, dRsp := none, dSent := none, status := 0, served := 0, guar := false, late := false, urg := 0, due := true }] } },
     { m := 3, tag := 5, kind := 0, flow := 2, addr := 0, t0 := 5, base := 5, ch := 3, dFabric := none, dChannel := none, dGrant := none, dDone := none, dRsp := none, dSent := none, status := 0, served := 0, guar := false, late := false, urg := 0, due := true },
     _, _, by decide +kernel, (by decide +kernel), (Option.some_get (show Option.isSome _ = true by decide +kernel)).symm,
     rfl, by decide +kernel⟩,
   ⟨3,
     { (act.modChan 3 fun x => { x with refresh := { x.refresh with busy := [locCbi (serviceAt 3 (act.tagOff 3)).loc] } }) with obs := { act.obs with tags := [{ m := 3, tag := 5, kind := 0, flow := 2, addr := 0, t0 := 5, base := 5, ch := 3, dFabric := none, dChannel := none, dGrant := none, dDone := none, dRsp := none, dSent := none, status := 0, served := 0, guar := false, late := false, urg := 0, due := true }] } },
     { m := 3, tag := 5, kind := 0, flow := 2, addr := 0, t0 := 5, base := 5, ch := 3, dFabric := none, dChannel := none, dGrant := none, dDone := none, dRsp := none, dSent := none, status := 0, served := 0, guar := false, late := false, urg := 0, due := true },
     _, _, by decide +kernel, (by decide +kernel), (Option.some_get (show Option.isSome _ = true by decide +kernel)).symm,
     rfl, by decide +kernel⟩,
   ⟨0,
     { with1 (svc .rd .sector) with obs := { act.obs with tags := [{ m := 3, tag := 5, kind := 0, flow := 2, addr := 0, t0 := 5, base := 5, ch := 0, dFabric := none, dChannel := none, dGrant := none, dDone := none, dRsp := none, dSent := none, status := 0, served := 0, guar := false, late := false, urg := 0, due := true }] } },
     { m := 3, tag := 5, kind := 0, flow := 2, addr := 0, t0 := 5, base := 5, ch := 0, dFabric := none, dChannel := none, dGrant := none, dDone := none, dRsp := none, dSent := none, status := 0, served := 0, guar := false, late := false, urg := 0, due := true },
     by decide +kernel⟩,
   ⟨3,
     { inState .offline with obs := { act.obs with tags := [{ m := 3, tag := 5, kind := 0, flow := 2, addr := 0, t0 := 5, base := 5, ch := 3, dFabric := none, dChannel := none, dGrant := none, dDone := none, dRsp := none, dSent := none, status := 0, served := 0, guar := false, late := false, urg := 0, due := true }] } },
     { m := 3, tag := 5, kind := 0, flow := 2, addr := 0, t0 := 5, base := 5, ch := 3, dFabric := none, dChannel := none, dGrant := none, dDone := none, dRsp := none, dSent := none, status := 0, served := 0, guar := false, late := false, urg := 0, due := true },
     by decide +kernel⟩,
   ⟨3, act, by decide +kernel⟩,
   ⟨.fw .west, 0#32, act, _, _, rfl, by decide +kernel, rfl⟩,
   ⟨.fw .west, 0#32, act, _, _, rfl, by decide +kernel, rfl⟩,
   ⟨{ act.setFlag F.OBS_TRC_STS_RUNNING true with obs := { act.obs with postLeft := some 0 } }, by decide +kernel⟩,
   ⟨.fw .west, 0#32, act, _, _, rfl, by decide +kernel, (by decide +kernel), by decide +kernel, (by decide +kernel),
     rfl⟩,
   ⟨.fw .west, 0#32, act.setFlag F.OBS_TRC_STS_RUNNING true, _, rfl, by decide +kernel⟩,
   ⟨{ act with obs := { act.obs with exporting := some ⟨3, 0, 4096, [], []⟩ } }, ⟨3, 0, 4096, [], []⟩,
     by decide +kernel⟩,
   ⟨{ act with obs := { act.obs with exporting := some ⟨3, 0, 0, [], []⟩ } }, ⟨3, 0, 0, [], []⟩, by decide +kernel⟩,
   ⟨act, by decide +kernel⟩,
   ⟨.fw .west, 0#32, act, _, _, by decide +kernel, rfl, rfl⟩,
   ⟨.fw .west, 0#32, act, by decide +kernel⟩,
   ⟨act, _, _, rfl, rfl⟩,
   ⟨act, 0, _, rfl, by decide +kernel⟩,
   ⟨{ act with obs := { act.obs with fifo := 64, fifoAt := act.now } }, _, rfl, by decide +kernel⟩,
   ⟨act, _, _, rfl, by decide +kernel, rfl⟩⟩

end Sys2Proof.Tests
end
end

