-- ==== Sys2Proof/Proofs/StoredSector.lean ====
section
/-!
PROOFS. A stored sector is held by a slot, by the scrub buffer or by the array; a write of it changes that copy alone.
-/
namespace Sys2Proof.Machine

/-! ### Where the authoritative copy of a row is -/

/-- The row's authoritative copy is in slot `i` of its channel (R224). -/
def State.InSlot (s : State) (l i : Nat) : Prop := s.findSlot l = some i ∧ (s.slot (locCh l) i).state.holds = true

/-- The row's authoritative copy is in the scrub buffer of its channel (R248). -/
def State.InBuffer (s : State) (l : Nat) : Prop := s.findSlot l = none ∧ s.buffered l = true

/-- The row's authoritative copy is in the array: no slot holds its data, nor does the scrub buffer. -/
def State.InArray (s : State) (l : Nat) : Prop :=
  (∃ i, s.findSlot l = some i ∧ (s.slot (locCh l) i).state.holds = false) ∨ s.findSlot l = none ∧ s.buffered l = false

theorem copy_cases (s : State) (l : Nat) : (∃ i, s.InSlot l i) ∨ s.InBuffer l ∨ s.InArray l := by
  unfold State.InSlot State.InBuffer State.InArray
  cases hf : s.findSlot l with
  | some i => cases hh : (s.slot (locCh l) i).state.holds <;> simp [hh]
  | none => cases hb : s.buffered l <;> simp

/-- Sector `j` of the row in slot `i` of channel `c` written (R228). -/
def State.writeSlot (s : State) (c i j : Nat) (e : Code) : State :=
  s.setSlot c i ((s.slot c i).write j e s.now)

/-- Sector `j` of the row in the scrub buffer of channel `c` written (R248). -/
def State.writeBuffer (s : State) (c j : Nat) (e : Code) : State :=
  s.modChan c fun y => { y with scrub := y.scrub.put j e }

section Cases
variable {s : State} {x : Place3} {i : Nat}

theorem stored_inSlot (h : s.InSlot x.loc i) : s.stored x = (s.slot (locCh x.loc) i).sector x.sector := by
  obtain ⟨hf, hh⟩ := h
  simp [State.stored, hf, hh]

theorem stored_inBuffer (h : s.InBuffer x.loc) :
    s.stored x = (s.chan (locCh x.loc)).scrub.bufData.get (fun _ => zeroCode) x.sector := by
  obtain ⟨hf, hb⟩ := h
  simp [State.stored, hf, hb]

theorem stored_inArray (h : s.InArray x.loc) : s.stored x = s.arrayAt x := by
  obtain ⟨j, hf, hh⟩ | ⟨hf, hb⟩ := h
  · simp [State.stored, hf, hh]
  · simp [State.stored, hf, hb]

theorem setStored_inSlot (c : Code) (h : s.InSlot x.loc i) :
    s.setStored x c = s.writeSlot (locCh x.loc) i x.sector c := by
  obtain ⟨hf, hh⟩ := h
  simp [State.setStored, State.writeSlot, hf, hh]

theorem setStored_inBuffer (c : Code) (h : s.InBuffer x.loc) :
    s.setStored x c = s.writeBuffer (locCh x.loc) x.sector c := by
  obtain ⟨hf, hb⟩ := h
  simp [State.setStored, State.writeBuffer, hf, hb]

theorem setStored_inArray (c : Code) (h : s.InArray x.loc) : s.setStored x c = s.setArray x c := by
  obtain ⟨j, hf, hh⟩ | ⟨hf, hb⟩ := h
  · simp [State.setStored, hf, hh]
  · simp [State.setStored, hf, hb]

end Cases

/-! ### Two states that hold a sector alike -/

/-- A sector reads the same in a state that has its row in the same place, with the same sector in the slot and in the
scrub buffer and the same sector in the array. -/
theorem stored_congr {s t : State} {y : Place3} (hf : t.findSlot y.loc = s.findSlot y.loc)
    (hs : ∀ i, s.findSlot y.loc = some i →
      (t.slot (locCh y.loc) i).state.holds = (s.slot (locCh y.loc) i).state.holds ∧
      (t.slot (locCh y.loc) i).sector y.sector = (s.slot (locCh y.loc) i).sector y.sector)
    (hb : t.buffered y.loc = s.buffered y.loc)
    (hd : s.buffered y.loc = true → (t.chan (locCh y.loc)).scrub.bufData.get (fun _ => zeroCode) y.sector =
      (s.chan (locCh y.loc)).scrub.bufData.get (fun _ => zeroCode) y.sector)
    (ha : t.arrayAt y = s.arrayAt y) : t.stored y = s.stored y := by
  obtain ⟨i, hi⟩ | hi | hi := copy_cases s y.loc
  · obtain ⟨hh, hv⟩ := hs i hi.1
    rw [stored_inSlot hi, stored_inSlot (s := t) ⟨hf.trans hi.1, hh.trans hi.2⟩, hv]
  · rw [stored_inBuffer hi, stored_inBuffer (s := t) ⟨hf.trans hi.1, hb.trans hi.2⟩, hd hi.2]
  · have ht : t.InArray y.loc := hi.imp (fun ⟨i, h, hh⟩ => ⟨i, hf.trans h, (hs i h).1.trans hh⟩)
      (fun ⟨h, hn⟩ => ⟨hf.trans h, hb.trans hn⟩)
    rw [stored_inArray hi, stored_inArray ht, ha]

theorem chan_modChan (s : State) (c d : Nat) (g : Chan → Chan) (hc : c < 32) :
    (s.modChan c g).chan d = if d = c then g (s.chan d) else s.chan d := by
  by_cases hd : d = c
  · subst hd
    rw [if_pos rfl]
    exact s.chan_modChan_same ⟨d, hc⟩ g
  · rw [s.chan_modChan_ne _ hd, if_neg hd]

theorem sector_ne_of_loc_eq {x y : Place3} (hxy : y ≠ x) (hloc : y.loc = x.loc) : y.sector ≠ x.sector := fun hs =>
  hxy (by cases x; cases y; simp_all)

/-! ### A write to a slot -/

theorem slot_writeSlot (s : State) (c d i k j : Nat) (e : Code) (hc : c < 32) :
    (s.writeSlot c i j e).slot d k = if d = c ∧ k = i then (s.slot c i).write j e s.now else s.slot d k :=
  s.slot_setSlot c d i k _ hc

theorem findSlot_writeSlot (s : State) (c i j l : Nat) (e : Code) (hc : c < 32) (h : (s.slot c i).state.holds = true) :
    (s.writeSlot c i j e).findSlot l = s.findSlot l := findSlot_setSlot_write s c i j e s.now l hc h

theorem scrub_writeSlot (s : State) (c d i j : Nat) (e : Code) (hc : c < 32) :
    ((s.writeSlot c i j e).chan d).scrub = (s.chan d).scrub := by
  rw [State.writeSlot, State.setSlot, chan_modChan _ _ _ _ hc]
  split <;> rfl

theorem stored_writeSlot_same (s : State) (x : Place3) (c : Code) (i : Nat) (h : s.InSlot x.loc i) :
    (s.writeSlot (locCh x.loc) i x.sector c).stored x = c := by
  obtain ⟨hf, hh⟩ := h
  have hslot := slot_writeSlot s (locCh x.loc) (locCh x.loc) i i x.sector c (locCh_lt _)
  rw [if_pos ⟨rfl, rfl⟩] at hslot
  have ht : (s.writeSlot (locCh x.loc) i x.sector c).InSlot x.loc i :=
    ⟨(findSlot_writeSlot _ _ _ _ _ _ (locCh_lt _) hh).trans hf, hslot ▸ (write_holds _ _ _ _ hh).1⟩
  rw [stored_inSlot ht, hslot, sector_write, if_pos rfl]

/-- Another sector that is in the slot written is one of the same row, since a slot holds one row. -/
theorem stored_writeSlot_ne (s : State) (x y : Place3) (c : Code) (i : Nat) (h : s.InSlot x.loc i) (hxy : y ≠ x) :
    (s.writeSlot (locCh x.loc) i x.sector c).stored y = s.stored y := by
  obtain ⟨hf, hh⟩ := h
  have hscrub := scrub_writeSlot s (locCh x.loc) (locCh y.loc) i x.sector c (locCh_lt _)
  refine stored_congr (findSlot_writeSlot _ _ _ _ _ _ (locCh_lt _) hh) (fun j hj => ?_)
    (by rw [State.buffered, hscrub, State.buffered]) (fun _ => by rw [hscrub]) rfl
  rw [slot_writeSlot _ _ _ _ _ _ _ (locCh_lt _)]
  split
  next hslot =>
    obtain ⟨hch, rfl⟩ := hslot
    have hloc : y.loc = x.loc := by rw [← findSlot_loc s _ _ hj, hch, findSlot_loc s _ _ hf]
    rw [hch, sector_write, if_neg (sector_ne_of_loc_eq hxy hloc)]
    exact ⟨(write_holds _ _ _ _ hh).1.trans hh.symm, rfl⟩
  · exact ⟨rfl, rfl⟩

/-! ### A write to the scrub buffer -/

theorem scrub_writeBuffer (s : State) (c d j : Nat) (e : Code) (hc : c < 32) :
    ((s.writeBuffer c j e).chan d).scrub = if d = c then (s.chan d).scrub.put j e else (s.chan d).scrub := by
  rw [State.writeBuffer, chan_modChan _ _ _ _ hc]
  split <;> rfl

theorem slot_writeBuffer (s : State) (c d i j : Nat) (e : Code) (hc : c < 32) :
    (s.writeBuffer c j e).slot d i = s.slot d i :=
  congrArg (Store.get (fun _ => Slot.empty) · i) (slots_scrub s c d (·.put j e) hc)

theorem findSlot_writeBuffer (s : State) (c j l : Nat) (e : Code) (hc : c < 32) :
    (s.writeBuffer c j e).findSlot l = s.findSlot l :=
  findSlot_congr _ _ _ fun i => by
    have h : ((s.writeBuffer c j e).chan (locCh l)).slot i = (s.chan (locCh l)).slot i := slot_writeBuffer s c _ i j e hc
    rw [h]
    exact ⟨Iff.rfl, rfl⟩

theorem buffered_writeBuffer (s : State) (c j l : Nat) (e : Code) (hc : c < 32) :
    (s.writeBuffer c j e).buffered l = s.buffered l := by
  rw [State.buffered, scrub_writeBuffer s c (locCh l) j e hc]
  split <;> rfl

theorem stored_writeBuffer_same (s : State) (x : Place3) (c : Code) (h : s.InBuffer x.loc) :
    (s.writeBuffer (locCh x.loc) x.sector c).stored x = c := by
  obtain ⟨hf, hb⟩ := h
  have ht : (s.writeBuffer (locCh x.loc) x.sector c).InBuffer x.loc :=
    ⟨(findSlot_writeBuffer _ _ _ _ _ (locCh_lt _)).trans hf, (buffered_writeBuffer _ _ _ _ _ (locCh_lt _)).trans hb⟩
  rw [stored_inBuffer ht, scrub_writeBuffer _ _ _ _ _ (locCh_lt _), if_pos rfl]
  exact Store.get_set_same _ _ _ _

/-- Another sector that is in the scrub buffer written is one of the same row, since the buffer holds one row. -/
theorem stored_writeBuffer_ne (s : State) (x y : Place3) (c : Code) (h : s.InBuffer x.loc) (hxy : y ≠ x) :
    (s.writeBuffer (locCh x.loc) x.sector c).stored y = s.stored y := by
  obtain ⟨-, hx⟩ := h
  refine stored_congr (findSlot_writeBuffer _ _ _ _ _ (locCh_lt _))
    (fun i _ => by rw [slot_writeBuffer _ _ _ _ _ _ (locCh_lt _)]; exact ⟨rfl, rfl⟩)
    (buffered_writeBuffer _ _ _ _ _ (locCh_lt _)) (fun hy => ?_) rfl
  rw [scrub_writeBuffer _ _ _ _ _ (locCh_lt _)]
  split
  next hch =>
    simp only [State.buffered, beq_iff_eq, hch] at hx hy
    have hloc : y.loc = x.loc := Option.some.inj (hy.symm.trans hx)
    exact Store.get_set_ne _ _ _ (sector_ne_of_loc_eq hxy hloc)
  · rfl

/-! ### A write to the array -/

theorem stored_setArray_same (s : State) (x : Place3) (c : Code) (h : s.InArray x.loc) : (s.setArray x c).stored x = c := by
  have ht : (s.setArray x c).InArray x.loc := by simpa [State.InArray] using h
  have hk : s.physKey x ∈ s.places x := List.mem_cons_self
  rw [stored_inArray ht, arrayAt_setArray, if_pos hk]

theorem stored_setArray_of_not_mem (s : State) (x y : Place3) (c : Code) (hk : s.physKey y ∉ s.places x) :
    (s.setArray x c).stored y = s.stored y :=
  stored_congr (by simp) (by simp) (by simp) (by simp) (by rw [arrayAt_setArray, if_neg hk])

/-! ### A write of the authoritative copy -/

theorem stored_setStored_same (s : State) (x : Place3) (c : Code) : (s.setStored x c).stored x = c := by
  obtain ⟨i, h⟩ | h | h := copy_cases s x.loc
  · rw [setStored_inSlot c h]; exact stored_writeSlot_same s x c i h
  · rw [setStored_inBuffer c h]; exact stored_writeBuffer_same s x c h
  · rw [setStored_inArray c h]; exact stored_setArray_same s x c h

/-- A write of a sector leaves every other sector whose place in the array it does not reach. -/
theorem stored_setStored_ne (s : State) (x y : Place3) (c : Code) (hxy : y ≠ x) (hk : s.physKey y ∉ s.places x) :
    (s.setStored x c).stored y = s.stored y := by
  obtain ⟨i, h⟩ | h | h := copy_cases s x.loc
  · rw [setStored_inSlot c h]; exact stored_writeSlot_ne s x y c i h hxy
  · rw [setStored_inBuffer c h]; exact stored_writeBuffer_ne s x y c h hxy
  · rw [setStored_inArray c h]; exact stored_setArray_of_not_mem s x y c hk

theorem regs_setStored (s : State) (x : Place3) (c : Code) : (s.setStored x c).regs = s.regs := by
  obtain ⟨i, h⟩ | h | h := copy_cases s x.loc
  · rw [setStored_inSlot c h]; rfl
  · rw [setStored_inBuffer c h]; rfl
  · rw [setStored_inArray c h]; exact regs_setArray s x c

theorem places_of_no_walk (s : State) (x : Place3) (h : s.walkSpare x = none) : s.places x = [s.physKey x] := by
  simp [State.places, h]

end Sys2Proof.Machine

namespace Sys2Proof
open Machine

/-- Settles O37: by where the authoritative copy is, a slot, the scrub buffer or the array, whose write is read back
from the same copy and seen by no sector but the one written. -/
theorem aStoredSectorReadsBackAndNoOtherChanges : Obligations.AStoredSectorReadsBackAndNoOtherChanges := by
  unfold Obligations.AStoredSectorReadsBackAndNoOtherChanges
  refine ⟨stored_setStored_same, ?_, ?_, places_of_no_walk, regs_setStored⟩
  · intro s x y c hloc hk
    exact stored_setStored_ne s x y c (fun h => hloc (congrArg Place3.loc h)) hk
  · intro s x y c _ hsec hk
    exact stored_setStored_ne s x y c (fun h => hsec (congrArg Place3.sector h)) hk

end Sys2Proof
end

