-- ==== Sys2Proof/Proofs/IslandsAndPower.lean ====
section
/-!
PROOFS. The step itself, clocks, islands, straits, rails, the time base and the credits of the transport: what each
operation makes of the state in each of its cases, and the statements that these cases settle.
-/
namespace Sys2Proof.Machine

/-- A command whose own effect is `u` leaves what `commit` makes of it. -/
theorem finished_eq {s t u : State} (h : t = u) : finished s t = .next (commit s u) := congrArg (finished s) h

/-! ### The step -/

/-- The meaning of a command answers a next state. -/
def HasNext (o : Host.Outcome State Fault Refusal) : Prop := ∃ t, o = .next t

theorem hasNext_finished (s t : State) : HasNext (finished s t) := ⟨commit s t, rfl⟩

/-- Only FIRMWARE_INSTRUCTION can refuse: every other meaning is a `finished`. -/
theorem hasNext_exec (i : Instr) (s : State) (h : ∀ c op f, i ≠ .firmwareInstruction c op f) : HasNext (exec i s) := by
  cases i with
  | firmwareInstruction c op f => exact absurd rfl (h c op f)
  | _ => exact hasNext_finished s _

/-! ### Clocks -/

section Clocks
variable {s : State} {h : Half}

theorem pllLoss_of_locked (hc : s.clocked = true) (hl : s.pllLocked h = true) :
    s.pllLoss h = (s.lockPll h false).switchMux h := if_pos ⟨hc, hl⟩

theorem pllTimeout_of_unlocked (hc : s.clocked = true) (hl : s.pllLocked h = false) :
    s.pllTimeout h = (s.stopHalf h).raiseCond 0 (2 ^ halfNum h) := if_pos ⟨hc, by simp [hl]⟩

theorem bitOf_add_two_pow {n i : Nat} (hb : bitOf n i = false) : bitOf (n + 2 ^ i) i = true := by
  unfold bitOf at *
  rw [Nat.add_div_right _ (Nat.two_pow_pos i)]
  simp only [beq_iff_eq, beq_eq_false_iff_ne] at *
  omega

theorem halfStopped_stopHalf (s : State) (h : Half) : (s.stopHalf h).halfStopped h = true := by
  unfold State.stopHalf
  split
  next hs => exact hs
  next hs => exact bitOf_add_two_pow (Bool.eq_false_iff.mpr hs)

/-- Which islands read LOCKED is a matter of registers: the pins keep their locks. -/
theorem pins_setLocked (s : State) (h : Half) (b : Bool) : (s.setLocked h b).pins = s.pins := by
  have hcore : (s.setLocked h b).core = s.core := by
    unfold State.setLocked State.each
    refine core_foldl _ (fun t i => ?_) _ s
    dsimp only
    split
    · exact core_setFlag _ _ _
    · rfl
  have e := congrArg State.pins hcore
  exact e

/-- After a half's PLL has locked, both are locked when the other half's was. -/
theorem bothLocked_lockPll (s : State) (h : Half) :
    ((s.lockPll h true).pins.lockWest = true ∧ (s.lockPll h true).pins.lockEast = true) ↔
      s.pllLocked (halfOther h) = true := by
  unfold State.lockPll
  rw [pins_setLocked]
  cases h <;> simp [State.setPll, State.pllLocked, halfOther]

theorem pllRelock_of_running (hc : s.clocked = true) (hl : s.pllLocked h = false) (hs : s.halfStopped h = false) :
    s.pllRelock h = (if s.pllLocked (halfOther h) = true then (s.lockPll h true).endCondition 0
      else s.lockPll h true).wakeHalf h := by
  unfold State.pllRelock
  rw [if_pos ⟨hc, by simp [hl], by simp [hs]⟩]
  simp only [bothLocked_lockPll]

theorem pllRelock_of_stopped (hs : s.halfStopped h = true) : s.pllRelock h = s :=
  if_neg fun ⟨_, _, hn⟩ => by simp [hs] at hn

theorem refMeasure_outside {khz : Nat} (hm : s.mode ≠ .reset) (hk : khz < 99000 ∨ 101000 < khz) :
    s.refMeasure khz = s.raiseCond 2 0 := by rw [State.refMeasure, if_neg hm, if_pos hk]

theorem refMeasure_inside {khz : Nat} (hm : s.mode ≠ .reset) (hl : 99000 ≤ khz) (hh : khz ≤ 101000) :
    s.refMeasure khz = s.endCondition 2 := by rw [State.refMeasure, if_neg hm, if_neg (by omega)]

theorem refAbsent_running (hr : s.pins.refclk = true) (hm : s.mode ≠ .reset) :
    s.refAbsent = ({ s with pins := { s.pins with refclk := false } } : State).freeRun := by
  unfold State.refAbsent
  rw [if_pos hr]
  exact if_neg hm

theorem refAbsent_inReset (hr : s.pins.refclk = true) (hm : s.mode = .reset) :
    s.refAbsent = { s with pins := { s.pins with refclk := false } } := by
  unfold State.refAbsent
  rw [if_pos hr]
  exact if_pos hm

theorem refReturn_of_absent (hr : s.pins.refclk = false) :
    s.refReturn = ((({ s with pins := { s.pins with refclk := true } } : State).setFlag
      F.GLB_TIME_CFG_FREE_RUN false).endCondition 3).endCondition 1 := if_neg (by simp [hr])

theorem refTimeout_of_absent (hr : s.pins.refclk = false) (hc : s.clocked = true) :
    s.refTimeout = s.raiseCond 1 0 := if_pos ⟨by simp [hr], hc⟩

theorem spineStop_of_unlocked {d : Nat} (hc : s.clocked = true) (hl : s.pllLocked (halfOfChan (8 * (d / 4))) = false)
    (ho : bitOf s.ownSelf d = false) : s.spineStop d = { s with ownSelf := s.ownSelf + 2 ^ d } :=
  if_pos (by simp [hc, hl, ho])

end Clocks

/-! ### Islands -/

/-- A write of GLB_ISL_CTLi that is turned away whatever else holds: its GATE or IDLE_THRESH has no such value or is not
permitted, or it asks for a reset that is not (R52, R54). -/
def State.refusesIslCtl (s : State) (p : Path) (i : Nat) (w : Word) : Prop :=
  bitsOf w.toNat 9 8 = 3 ∨ bitsOf w.toNat 7 0 = 0 ∨ (52 ≤ i ∧ i ≤ 54 ∧ bitsOf w.toNat 9 8 ≠ 1) ∨
    (bitsOf w.toNat 9 8 = 2 ∧ !s.offPermitted i) ∨
    (bitOf w.toNat 31 ∧ (s.flag (F.GLB_ISL_STS_IN_RESET i) ∨ !s.resetPermitted p i))

/-- What a GATE that is taken makes of the island's clock, the fields written (R52). -/
def State.gateTaken (s : State) (p : Path) (i : Nat) (w : Word) : State :=
  let t := s.plainWrite (pathNum p) .GLB_ISL_CTL 0 i w
  if bitsOf w.toNat 9 8 = 2 then t.setFlag (F.GLB_ISL_STS_GATED i) true
  else if bitsOf w.toNat 9 8 = 1 ∨ s.fld (F.GLB_ISL_CTL_GATE i) = 2 then t.setFlag (F.GLB_ISL_STS_GATED i) false else t

/-- An island reset whose write waits for its end, with the answer it then has (R53, log entry 69). -/
def State.resetHeld (s : State) (p : Path) (i : Nat) (a : Answer) : State :=
  let t := s.startIslandReset i
  { t with heldAccesses := t.heldAccesses ++ [⟨pathNum p, adr .GLB_ISL_CTL 0 i, true, a, i⟩] }

section IslCtl
variable {s : State} {p : Path} {i : Nat} {w : Word}

theorem wIslCtl_refused (a : Answer) (h : s.refusesIslCtl p i w) : s.wIslCtl p i w a = ignored s := if_pos h

theorem wIslCtl_taken (a : Answer) (h : ¬ s.refusesIslCtl p i w) (hr : bitOf w.toNat 31 = false) :
    s.wIslCtl p i w a = done (s.gateTaken p i w) := by
  have hn : ¬ (bitOf w.toNat 31 = true) := by simp [hr]
  exact (if_neg h).trans (if_neg hn)

theorem wIslCtl_held (a : Answer) (h : ¬ s.refusesIslCtl p i w) (hr : bitOf w.toNat 31 = true) :
    s.wIslCtl p i w a = ⟨(s.gateTaken p i w).resetHeld p i a, .ok, 0, true⟩ := (if_neg h).trans (if_pos hr)

/-- A write without RESET_REQ is refused for its GATE or its IDLE_THRESH alone. -/
theorem not_refusesIslCtl_of_gate (hr : bitOf w.toNat 31 = false) (h3 : bitsOf w.toNat 9 8 ≠ 3) (ht : bitsOf w.toNat 7 0 ≠ 0)
    (hc : bitsOf w.toNat 9 8 = 1 ∨ i < 52 ∨ 54 < i) (ho : bitsOf w.toNat 9 8 = 2 → s.offPermitted i = true) :
    ¬ s.refusesIslCtl p i w := by
  rintro (h | h | ⟨hl, hh, h1⟩ | ⟨h2, hn⟩ | ⟨hq, -⟩)
  · exact h3 h
  · exact ht h
  · omega
  · simp [ho h2] at hn
  · simp [hr] at hq

/-- The reset that a write asks for is permitted, and its GATE is ON. -/
theorem not_refusesIslCtl_of_reset (h1 : bitsOf w.toNat 9 8 = 1) (ht : bitsOf w.toNat 7 0 ≠ 0)
    (hr : s.flag (F.GLB_ISL_STS_IN_RESET i) = false) (hp : s.resetPermitted p i = true) : ¬ s.refusesIslCtl p i w := by
  rintro (h | h | ⟨-, -, h⟩ | ⟨h, -⟩ | ⟨-, h | h⟩)
  · omega
  · exact ht h
  · exact h h1
  · omega
  · simp [hr] at h
  · simp [hp] at h

theorem gateTaken_on (h : bitsOf w.toNat 9 8 = 1) :
    s.gateTaken p i w = (s.plainWrite (pathNum p) .GLB_ISL_CTL 0 i w).setFlag (F.GLB_ISL_STS_GATED i) false := by
  simp [State.gateTaken, h]

theorem gateTaken_off (h : bitsOf w.toNat 9 8 = 2) :
    s.gateTaken p i w = (s.plainWrite (pathNum p) .GLB_ISL_CTL 0 i w).setFlag (F.GLB_ISL_STS_GATED i) true := by
  simp [State.gateTaken, h]

theorem gateTaken_auto (h : bitsOf w.toNat 9 8 = 0) :
    s.gateTaken p i w = (if s.fld (F.GLB_ISL_CTL_GATE i) = 2
      then (s.plainWrite (pathNum p) .GLB_ISL_CTL 0 i w).setFlag (F.GLB_ISL_STS_GATED i) false
      else s.plainWrite (pathNum p) .GLB_ISL_CTL 0 i w) := by
  simp [State.gateTaken, h]

/-- A granted write of GLB_ISL_CTLi that is refused completes IGNORED. -/
theorem writeOn_islCtl_refused (hg : s.granted p .GLB_ISL_CTL 0 i w = true) (h : s.refusesIslCtl p i w) :
    s.writeOn p .GLB_ISL_CTL 0 i w = s.turnedAway p (adr .GLB_ISL_CTL 0 i) :=
  s.writeOn_ignored p .GLB_ISL_CTL 0 i w hg (wIslCtl_refused .direct h)

/-- So does a refused write whose fields are out of range, where the access itself would be granted (R69). -/
theorem writeOn_islCtl_refused_of_granted {v : Word} (hg : s.granted p .GLB_ISL_CTL 0 i v = true)
    (h : s.refusesIslCtl p i w) : s.writeOn p .GLB_ISL_CTL 0 i w = s.turnedAway p (adr .GLB_ISL_CTL 0 i) := by
  cases hw : inRange .GLB_ISL_CTL w.toNat with
  | true => exact s.writeOn_refused p .GLB_ISL_CTL 0 i v w s .ignored hg hw nofun (wIslCtl_refused .direct h)
  | false => exact s.writeOn_outOfRange p .GLB_ISL_CTL 0 i v w s .ignored hg hw nofun rfl

/-- A granted GATE write completes OK. -/
theorem writeOn_islCtl_taken (hg : s.granted p .GLB_ISL_CTL 0 i w = true) (h : ¬ s.refusesIslCtl p i w)
    (hr : bitOf w.toNat 31 = false) :
    s.writeOn p .GLB_ISL_CTL 0 i w = s.answered p (adr .GLB_ISL_CTL 0 i) w (s.gateTaken p i w) :=
  s.writeOn_done p .GLB_ISL_CTL 0 i w _ hg (wIslCtl_taken .direct h hr)

/-- A granted RESET_REQ starts the reset and is answered later. -/
theorem writeOn_islCtl_held (hg : s.granted p .GLB_ISL_CTL 0 i w = true) (h : ¬ s.refusesIslCtl p i w)
    (hr : bitOf w.toNat 31 = true) :
    s.writeOn p .GLB_ISL_CTL 0 i w =
      s.taken p (adr .GLB_ISL_CTL 0 i) w ((s.gateTaken p i w).resetHeld p i .direct) :=
  s.direct_held p .GLB_ISL_CTL 0 i w Given.plain _ hg (wIslCtl_held .direct h hr)

end IslCtl

section Islands
variable {s : State} {i c : Nat}

theorem bit31_gateWrite (w : Word) : bitOf (withBits w 31 31 0).toNat 31 = false := bitOf_withBits w 31 false (by decide)
theorem bit31_resetReq (w : Word) : bitOf (withBits w 31 31 1).toNat 31 = true := bitOf_withBits w 31 true (by decide)

theorem idleGate_of_idle (hm : s.mode ≠ .reset) (hg : s.fld (F.GLB_ISL_CTL_GATE i) = 0)
    (hr : s.flag (F.GLB_ISL_STS_IN_RESET i) = false) (hq : s.quietIn i = true) (hw : s.islandWorks i = false) :
    s.idleGate i = s.setFlag (F.GLB_ISL_STS_GATED i) true := if_pos ⟨hm, hg, by simp [hr], hq, by simp [hw]⟩

theorem islandWake_of_entry (hg : s.fld (F.GLB_ISL_CTL_GATE i) = 0) (hs : s.flag (F.GLB_ISL_STS_GATED i) = true)
    (hq : s.quietIn i = false) : s.islandWake i = s.setFlag (F.GLB_ISL_STS_GATED i) false := by
  rw [State.islandWake, if_neg (by simp [hq]), State.wake, if_pos ⟨hg, hs⟩]

/-- The end of a reset that a RESET_REQ began: the island leaves it, and the writes held for it complete. -/
theorem islandRelease_of_resetting (hm : s.mode ≠ .reset) (hr : s.flag (F.GLB_ISL_STS_IN_RESET i) = true)
    (hb : bitOf s.resetting i = true) :
    s.islandRelease i = (((s.leaveReset i).heldAccesses.filter fun h : HeldAccess => h.island == i).foldl
      (fun (t : State) (h : HeldAccess) => t.complete h.path h.addr h.write h.answer .ok 0)
      { s.leaveReset i with
        heldAccesses := (s.leaveReset i).heldAccesses.filter fun h : HeldAccess => h.island != i }).settlePrimary :=
  if_pos ⟨hm, hr, hb⟩

theorem islandRelease_of_not_resetting (hb : bitOf s.resetting i = false) : s.islandRelease i = s :=
  if_neg fun ⟨_, _, h⟩ => by simp [hb] at h

theorem fieldsRestore_due (hm : s.mode ≠ .reset) (hr : s.flag (F.GLB_ISL_STS_IN_RESET c) = false)
    (ht : (s.chan c).toRestore = true) :
    s.fieldsRestore c = ((restoredRegs c).foldl (fun t x => s.putFields t x.2)
      (s.modChan c fun x => { x with toRestore := false })).reloadCal c := if_neg (by simp [hm, hr, ht])

theorem fieldsRestore_of_not_due (ht : (s.chan c).toRestore = false) : s.fieldsRestore c = s := if_pos (by simp [ht])

theorem putFields_of_reg {a u k : Nat} {r : Reg} (t : State) (h : regAt a = some (r, u, k)) :
    s.putFields t a = t.setReg a (BitVec.ofNat 32
      (savedFields r (t.reg a).toNat (s.fieldCopies.get (regReset s.part) a).toNat)) := by simp only [State.putFields, h]

end Islands

/-! ### Straits -/

section Straits
variable {s : State} {k : Nat}

theorem straitWrite_of_credit {words : List Word} (o : Owner) (hc : s.straitClosed k = false)
    (hu : (s.strait k).used < straitDepth k) (hw : words.length ≤ straitWords k) :
    s.straitWrite k words o = s.setStrait k
      ⟨(s.strait k).entries ++ [⟨words, words.map evenParity, o, false⟩], (s.strait k).used + 1⟩ :=
  if_neg (by simp only [hc, Bool.false_eq_true, false_or]; omega)

theorem straitWrite_of_no_credit (words : List Word) (o : Owner) (hu : straitDepth k ≤ (s.strait k).used) :
    s.straitWrite k words o = s := if_pos (.inr (.inl hu))

@[simp] theorem strait_setStrait_same (s : State) (k : Nat) (x : Strait) : (s.setStrait k x).strait k = x :=
  Store.get_set_same _ _ _ _

section Read
variable {hit : Option StraitHit} {e : StraitEntry} {rest : List StraitEntry}

/-- The oldest entry is off the strait, and its parity good: nothing else happens to it here. -/
theorem straitRead_good (hc : s.straitClosed k = false) (hg : s.flag (F.GLB_ISL_STS_GATED (straitEnds k).2) = false)
    (he : (s.strait k).entries = e :: rest) (hp : (hitWords e.words hit).map evenParity = e.parity) :
    s.straitRead k hit = s.setStrait k ⟨rest, (s.strait k).used⟩ := by
  simp only [State.straitRead, he, hc, hg, Bool.false_eq_true, or_self, if_false, hp, if_true]

theorem straitRead_bad (hc : s.straitClosed k = false) (hg : s.flag (F.GLB_ISL_STS_GATED (straitEnds k).2) = false)
    (he : (s.strait k).entries = e :: rest) (hp : (hitWords e.words hit).map evenParity ≠ e.parity) :
    s.straitRead k hit =
      ((s.setStrait k ⟨rest, (s.strait k).used⟩).raise 4 (2 ^ straitClass k)).loseOwner e .internal := by
  simp only [State.straitRead, he, hc, hg, Bool.false_eq_true, or_self, if_false, hp]

theorem straitRead_gated (hit : Option StraitHit) (hg : s.flag (F.GLB_ISL_STS_GATED (straitEnds k).2) = true) :
    s.straitRead k hit = s := by
  cases he : (s.strait k).entries with
  | nil => simp only [State.straitRead, he]
  | cons e rest => simp only [State.straitRead, he, hg, or_true, if_true]

theorem straitTake_good (hc : s.straitClosed k = false) (hg : s.flag (F.GLB_ISL_STS_GATED (straitEnds k).2) = false)
    (he : (s.strait k).entries = e :: rest) (hp : (hitWords e.words hit).map evenParity = e.parity) :
    s.straitTake k hit = (s.setStrait k ⟨rest, (s.strait k).used⟩).straitReach k e := by
  simp only [State.straitTake, he, straitRead_good hc hg he hp, strait_setStrait_same, hp, and_self, if_true]

theorem straitTake_bad (hc : s.straitClosed k = false) (hg : s.flag (F.GLB_ISL_STS_GATED (straitEnds k).2) = false)
    (he : (s.strait k).entries = e :: rest) (hp : (hitWords e.words hit).map evenParity ≠ e.parity) :
    s.straitTake k hit =
      ((s.setStrait k ⟨rest, (s.strait k).used⟩).raise 4 (2 ^ straitClass k)).loseOwner e .internal := by
  simp only [State.straitTake, he, straitRead_bad hc hg he hp, hp, and_false, if_false]

/-- A gated destination leaves the entry where it is, so the entry reaches nothing. -/
theorem straitTake_gated (hit : Option StraitHit) (hg : s.flag (F.GLB_ISL_STS_GATED (straitEnds k).2) = true) :
    s.straitTake k hit = s := by
  unfold State.straitTake
  rw [straitRead_gated hit hg]
  cases he : (s.strait k).entries with
  | nil => rfl
  | cons e rest => exact if_neg fun h => by simp [he] at h

end Read

theorem straitCredit_due (h : (s.strait k).entries.length < (s.strait k).used) :
    s.straitCredit k = s.setStrait k ⟨(s.strait k).entries, (s.strait k).used - 1⟩ := if_pos h

section Owner
variable {e : StraitEntry} {p : Path} {a : BitVec 24} {w : Bool} {tag : BitVec 14}

theorem straitReach_item (ho : e.owner = .item) : s.straitReach k e = s := by simp only [State.straitReach, ho]

/-- An access at its last island is carried out there, and completes unless its register holds it. -/
theorem straitReach_access (ho : e.owner = .access p a w tag) (hm : e.mute = false)
    (hi : (accessIslands (pathHalf p) a.toNat w).contains (straitEnds k).2 = true) {x : Res}
    (hx : x = s.access p a.toNat w e.data Given.plain (answerOf p tag.toNat)) (hh : x.held = false) :
    s.straitReach k e = x.st.straitEnd p a.toNat w tag.toNat x.status (if x.status = .ok then x.data else 0) := by
  simp only [State.straitReach, ho, hi, if_true, State.straitServe, hm, Bool.false_eq_true, if_false, ← hx, hh]

theorem straitReach_request {m : Fin 12} (ho : e.owner = .txn m tag) (hk : (straitEnds k).2 = 48 ∨ (straitEnds k).2 = 49) :
    s.straitReach k e = s.classify m tag.toNat := by simp only [State.straitReach, ho, hk, if_true]

theorem loseOwner_access (st : Status) (ho : e.owner = .access p a w tag) (hm : e.mute = false) :
    s.loseOwner e st = s.straitEnd p a.toNat w tag.toNat st 0 := by
  simp only [State.loseOwner, ho, hm, Bool.false_eq_true, if_false]

theorem loseOwner_request {m : Fin 12} {t : Txn} (st : Status) (ho : e.owner = .txn m tag)
    (ht : s.straitTxn m tag.toNat e.mute = some t) : s.loseOwner e st = s.reply t (.ack st 0) := by
  simp only [State.loseOwner, ho, ht]

theorem straitEnd_engine {c : Fin 32} {a : Nat} {f : Fields} (q : Fin 8) (n : Nat) (st : Status) (d : Word)
    (hf : s.cfgAt c a w = some f) : s.straitEnd (.eng c q) a w n st d = s.cfgEnd c f w st d := by
  simp only [State.straitEnd, hf]

end Owner

end Straits

/-! ### Rails and power-good -/

section Rails
variable {s : State} {k mv : Nat}

/-- Outside RESET a rail is sampled while its island serves: the always-on island for rail 0, the thermal island for the
others (R56). -/
theorem rail_sampled_of_island_up (hm : s.mode ≠ .reset) (hd : s.islandDown (if k = 0 then 52 else 54) = false) :
    ¬ (s.mode = .reset ∨ s.islandDown (if k = 0 then 52 else 54) = true) := by simp [hm, hd]

/-- An implausible sample counts; the third in a row raises RAIL_MON_IMPLAUSIBLE (R57). -/
theorem railSample_implausible (hm : s.mode ≠ .reset) (hd : s.islandDown (if k = 0 then 52 else 54) = false)
    (hi : railImplausible k mv (s.rail k).prev = true) :
    s.railSample k mv =
      (let t := (s.railTaken k mv false).setRail k { s.rail k with prev := some mv, impl := (s.rail k).impl + 1 }
       if (s.rail k).impl = 2 then t.raiseCond 76 (2 ^ k) else t) := by
  unfold State.railSample
  rw [if_neg (rail_sampled_of_island_up hm hd)]
  exact if_pos hi

/-- What a plausible sample leaves before the faults of its limits: the sample shown and the violations counted. -/
def State.railJudged (s : State) (k mv : Nat) : State :=
  ((s.railTaken k mv true).setRail k (s.railAfter k mv)).settleRails

/-- A plausible sample: the third violation in a row raises the fault of the limit it violates itself, and a sample within
both limits ends the rail's faults (R57). -/
theorem railSample_plausible (hm : s.mode ≠ .reset) (hd : s.islandDown (if k = 0 then 52 else 54) = false)
    (hi : railImplausible k mv (s.rail k).prev = false) :
    s.railSample k mv =
      (if mv < s.fld (F.PWR_RAIL_LIM_LO_MV k) then
         if 3 ≤ (s.railAfter k mv).below + (s.railAfter k mv).above then (s.railJudged k mv).raiseCond (64 + k) 0
         else s.railJudged k mv
       else if s.fld (F.PWR_RAIL_LIM_HI_MV k) < mv then
         if 3 ≤ (s.railAfter k mv).below + (s.railAfter k mv).above then (s.railJudged k mv).raiseCond (70 + k) 0
         else s.railJudged k mv
       else ((s.railJudged k mv).endCondition (64 + k)).endCondition (70 + k)) := by
  unfold State.railSample
  rw [if_neg (rail_sampled_of_island_up hm hd)]
  exact if_neg (by simp [hi])

theorem railAfter_below (hl : mv < s.fld (F.PWR_RAIL_LIM_LO_MV k)) :
    s.railAfter k mv = ⟨some mv, (s.rail k).below + 1, (s.rail k).above, 0⟩ := if_pos hl

theorem railAfter_above (hl : s.fld (F.PWR_RAIL_LIM_LO_MV k) ≤ mv) (hh : s.fld (F.PWR_RAIL_LIM_HI_MV k) < mv) :
    s.railAfter k mv = ⟨some mv, (s.rail k).below, (s.rail k).above + 1, 0⟩ :=
  (if_neg (Nat.not_lt.mpr hl)).trans (if_pos hh)

theorem railAfter_within (hl : s.fld (F.PWR_RAIL_LIM_LO_MV k) ≤ mv) (hh : mv ≤ s.fld (F.PWR_RAIL_LIM_HI_MV k)) :
    s.railAfter k mv = ⟨some mv, 0, 0, 0⟩ := (if_neg (Nat.not_lt.mpr hl)).trans (if_neg (Nat.not_lt.mpr hh))

variable {p : Path} {w : Word}

theorem writeReg_railLim_taken (hs : s.sessionOk p = true) (hl : (railWindow k).1 ≤ bitsOf w.toNat 15 0)
    (hw : bitsOf w.toNat 15 0 < bitsOf w.toNat 31 16) (hh : bitsOf w.toNat 31 16 ≤ (railWindow k).2) :
    s.writeReg p .PWR_RAIL_LIM 0 k w Given.plain .direct = done (s.plainWrite (pathNum p) .PWR_RAIL_LIM 0 k w) :=
  (if_pos hs).trans (if_pos ⟨hl, hw, hh⟩)

theorem writeReg_railLim_refused (hs : s.sessionOk p = true)
    (hw : bitsOf w.toNat 15 0 < (railWindow k).1 ∨ bitsOf w.toNat 31 16 ≤ bitsOf w.toNat 15 0 ∨
      (railWindow k).2 < bitsOf w.toNat 31 16) :
    s.writeReg p .PWR_RAIL_LIM 0 k w Given.plain .direct = ignored s :=
  (if_pos hs).trans (if_neg fun ⟨_, _, _⟩ => by omega)

variable {d : Nat} {arr vpp : Bool}

/-- The bits of die `d` for the rails that a report names, set or cleared (R59). -/
def State.setPgood (s : State) (d : Nat) (arr vpp b : Bool) : State :=
  (if vpp then (fun t : State => t.setFldBit F.PWR_DIE_PGOOD_VPP_OK d b) else id)
    (if arr then s.setFldBit F.PWR_DIE_PGOOD_ARR_OK d b else s)

theorem pgoodTrip_reported (hm : s.mode ≠ .reset) (ha : (arr || vpp) = true) :
    s.pgoodTrip d arr vpp =
      (if s.dieGood d = true then ((s.setPgood d arr vpp false).raiseCond 77 (2 ^ d)).fenceDie d true
       else (s.setPgood d arr vpp false).raiseCond 77 (2 ^ d)) := by
  unfold State.pgoodTrip
  rw [if_neg (by simp [hm, ha])]
  cases vpp <;> rfl

theorem pgoodRestore_reported (hm : s.mode ≠ .reset) (ha : (arr || vpp) = true) :
    s.pgoodRestore d arr vpp =
      (if (s.setPgood d arr vpp true).flag (liveFld 77) = true ∧
          ((List.range 16).all fun j => (s.setPgood d arr vpp true).dieGood j) = true
       then (s.setPgood d arr vpp true).endCondition 77 else s.setPgood d arr vpp true) := by
  unfold State.pgoodRestore
  rw [if_neg (by simp [hm, ha])]
  cases vpp <;> rfl

end Rails

/-! ### The time base -/

section TimeBase
variable {s : State} {p : Path}

theorem view_timeLo (s : State) (n : PathNum) (h : Half) : s.view n h .GLB_TIME_LO 0 0 = s.timeBase.setWidth 32 := by
  apply BitVec.eq_of_toNat_eq
  simp [State.view, pendingBit]

theorem view_timeHi (s : State) (n : PathNum) (h : Half) :
    s.view n h .GLB_TIME_HI 0 0 = (s.timeBase >>> 32).setWidth 32 := by
  apply BitVec.eq_of_toNat_eq
  simp [State.view, pendingBit, Nat.shiftRight_eq_div_pow]

/-- A read of GLB_TIME_LO latches the upper half for its path (R62). -/
theorem readReg_timeLo (s : State) (p : Path) :
    s.readReg p .GLB_TIME_LO 0 0 =
      ⟨{ s with latches := s.latches.set (fun _ => none) (pathKey (pathNum p) (adr .GLB_TIME_HI))
                    (some ((s.timeBase >>> 32).setWidth 32)) }, .ok, s.timeBase.setWidth 32, false⟩ := by
  rw [← view_timeLo s (pathNum p) (pathHalf p), ← view_timeHi s (pathNum p) (pathHalf p)]
  rfl

theorem isPairHigh_timeHi : isPairHigh .GLB_TIME_HI = true := by decide

theorem readReg_timeHi_latched {x : Word}
    (h : s.latches.get (fun _ => none) (pathKey (pathNum p) (adr .GLB_TIME_HI)) = some x) :
    s.readReg p .GLB_TIME_HI 0 0 =
      ⟨{ s with latches := s.latches.set (fun _ => none) (pathKey (pathNum p) (adr .GLB_TIME_HI)) none }, .ok, x, false⟩ := by
  simp [State.readReg, pairHigh, isPairHigh_timeHi, h]

theorem readReg_timeHi_live (h : s.latches.get (fun _ => none) (pathKey (pathNum p) (adr .GLB_TIME_HI)) = none) :
    s.readReg p .GLB_TIME_HI 0 0 = ⟨s, .ok, (s.timeBase >>> 32).setWidth 32, false⟩ := by
  simp [State.readReg, pairHigh, isPairHigh_timeHi, h, view_timeHi]

theorem writeReg_timeHi (s : State) (p : Path) (w : Word) :
    s.writeReg p .GLB_TIME_HI 0 0 w Given.plain .direct = done (s.setHeld (pathNum p) (adr .GLB_TIME_HI) (some w)) :=
  by simp only [State.writeReg, isPairHigh_timeHi, if_true, State.writeHigh]

/-- The upper half that a write of GLB_TIME_LO loads: what its own path holds, or that of the time base (R63). -/
theorem writeReg_timeLo (s : State) (p : Path) (w : Word) :
    s.writeReg p .GLB_TIME_LO 0 0 w Given.plain .direct =
      done (({ s.setHeld (pathNum p) (adr .GLB_TIME_HI) none with
        timeBase := (s.held (pathNum p) (adr .GLB_TIME_HI)).getD ((s.timeBase >>> 32).setWidth 32) ++ w } :
          State).ticksPast s) := rfl

/-- Within one microsecond a write of the time base passes no window boundary, and so no tick. -/
theorem ticksPast_same (t s : State) (h : t.timeBase.toNat / 1000 = s.timeBase.toNat / 1000) : t.ticksPast s = t := by
  have h10 : t.timeBase.toNat / 10000 = s.timeBase.toNat / 10000 := by omega
  simp [State.ticksPast, h, h10]

/-- Past a multiple of 10,000 ns it passes one of 1,000 ns too, whose boundary comes first (log entry 103). -/
theorem ticksPast_tick (t s : State) (h : t.timeBase.toNat / 10000 ≠ s.timeBase.toNat / 10000) (hm : t.mode ≠ .deepRetention) :
    t.ticksPast s = t.qosWindow.tickWork := by
  have h1 : t.timeBase.toNat / 1000 ≠ s.timeBase.toNat / 1000 := fun e => h (by omega)
  simp [State.ticksPast, h, h1, hm]

end TimeBase

/-! ### Credits -/

section Credits
variable {s : State} {m : Fin 12}

/-- A CREDIT cell that nothing discards is taken: it spends no credit of its own (R167). -/
theorem takeMessage_credit {h : Nat} (cell : Fin 15) (ha : (s.mod m).stage = .active) (hb : h % 256 = 1)
    (hk : s.skipped m cell = false) : s.takeMessage m cell 1 0x01 h = (s.flitAt m cell, true) := by
  have hr : s.receives m = true := by simp [State.receives, ha, Stage.receives]
  have hfit : ¬ 15 < cell.val + 1 := by omega
  simp [State.takeMessage, hr, hk, hb, hfit]

/-- What a CREDIT cell of an ACTIVE module does, by its INIT bit and the minimums (R167 to R169). -/
theorem takeCredit_active {h : Nat} (cell : Fin 15) (ha : (s.mod m).stage = .active) (hb : h % 256 = 1)
    (hk : s.skipped m cell = false) :
    s.takeCredit m cell h =
      (if bitOf h 40 = true then
        if bitsOf h 31 20 < 160 ∨ bitsOf h 39 32 < 2 then (s.flitAt m cell).protocolError m cell 7
        else (s.flitAt m cell).modMod m fun x =>
          { x with initIn := true
                   rspCredit := if bitsOf h 31 20 = 0xFFF then none else some (bitsOf h 31 20)
                   ctlCredit := if bitsOf h 39 32 = 0xFF then none else some (bitsOf h 39 32) }
       else (s.flitAt m cell).modMod m fun x =>
          { x with rspCredit := x.rspCredit.map (· + bitsOf h 31 20)
                   ctlCredit := x.ctlCredit.map (· + bitsOf h 39 32) }) := by
  unfold State.takeCredit
  simp only [takeMessage_credit cell ha hb hk]
  exact if_neg (by simp [ha, Stage.carries])

/-- Freed cells go back once what the window admits has been taken (R170). -/
theorem reqCreditReturn_freed {u : State} (hu : u = s.drainIngress m) (ha : (u.mod m).stage = .active)
    (hf : (u.mod m).reqFreed ≠ 0) :
    s.reqCreditReturn m = (u.modMod m fun x =>
      { x with reqUsed := x.reqUsed - min 4095 (u.mod m).reqFreed
               reqFreed := x.reqFreed - min 4095 (u.mod m).reqFreed }).emit
        (.credit m false 0 0 (min 4095 (u.mod m).reqFreed)) := by
  subst hu
  exact if_neg (by simp only [ha, ne_eq, not_true_eq_false, or_false]; omega)

theorem transmit_ctl (hc : (s.mod m).stage.carries = true) (hi : (s.mod m).initIn = true) (ho : (s.mod m).ctlOut ≠ [])
    (hk : hasCredit (s.mod m).ctlCredit 1 = true) :
    s.transmit m =
      ((((s.mod m).ctlOut.take 2).foldl State.emit (s.modMod m fun y =>
        { y with ctlOut := y.ctlOut.drop 2, ctlCredit := lessCredit y.ctlCredit 1,
                 ctlUsed := y.ctlUsed - ((s.mod m).ctlOut.take 2).length })).emit
          (.credit m false ((s.mod m).ctlOut.take 2).length 0 0)).countGl 0xA 1 (some m.val) := by
  unfold State.transmit
  exact (if_neg (by simp [hc, hi])).trans (if_pos (by simp [ho, hk]))

theorem transmit_rsp {l : List Out} {n : Nat} (hc : (s.mod m).stage.carries = true) (hi : (s.mod m).initIn = true)
    (ho : (s.mod m).ctlOut = []) (hf : firstMessages (s.mod m).egress = (l, n)) (hl : l ≠ [])
    (hk : hasCredit (s.mod m).rspCredit n = true) :
    s.transmit m =
      (l.foldl (fun t o => t.sendRsp m o) (s.modMod m fun y =>
        { y with egress := y.egress.drop l.length, rspCredit := lessCredit y.rspCredit n })).countGl 0xA 1
          (some m.val) := by
  simp [State.transmit, hc, hi, ho, hf, hl, hk]

theorem transmit_without_credit (ho : (s.mod m).ctlOut = [])
    (hk : hasCredit (s.mod m).rspCredit (firstMessages (s.mod m).egress).2 = false) : s.transmit m = s := by
  simp [State.transmit, ho, hk]

end Credits

end Sys2Proof.Machine

namespace Sys2Proof
open Machine

/-- Settles O4: `step` is a case distinction on the queue, and every meaning but one is a `finished`. -/
theorem stepTakesTheFrontCommand : Obligations.StepTakesTheFrontCommand := by
  unfold Obligations.StepTakesTheFrontCommand
  refine ⟨fun _ _ _ => rfl, fun s hp hm => ?_, fun s hp hm => ?_, hasNext_exec⟩
  · simp only [step, hp, hm, if_false]
  · simp only [step, hp, hm, if_true]

/-- Settles O3: each command is one operation on clocks, whose case is the clause's. -/
theorem clocksAndReference : Obligations.ClocksAndReference := by
  unfold Obligations.ClocksAndReference
  refine ⟨?_, ?_, ?_, ?_, ?_, ?_, ?_, ?_, ?_, ?_, ?_, ?_, ?_⟩
  · exact fun h s hc hl => finished_eq (pllLoss_of_locked hc hl)
  · exact fun h s hc hl => finished_eq (pllTimeout_of_unlocked hc hl)
  · exact fun h s => halfStopped_stopHalf s h
  · exact fun h s hc hl hs ho => finished_eq (by rw [pllRelock_of_running hc hl hs, if_pos ho])
  · exact fun h s hc hl hs ho => finished_eq (by rw [pllRelock_of_running hc hl hs, if_neg (by simp [ho])])
  · exact fun h s hs => finished_eq (pllRelock_of_stopped hs)
  · exact fun khz s hm hk => finished_eq (refMeasure_outside hm hk)
  · exact fun khz s hm hl hh => finished_eq (refMeasure_inside hm hl hh)
  · exact fun s hr hm => finished_eq (refAbsent_running hr hm)
  · exact fun s hr => finished_eq (refReturn_of_absent hr)
  · exact fun s hr hc => finished_eq (refTimeout_of_absent hr hc)
  · exact fun s hr hm => finished_eq (refAbsent_inReset hr hm)
  · exact fun d s hc hl ho => finished_eq (spineStop_of_unlocked hc hl ho)

/-- Settles O7: a write of GLB_ISL_CTL is refused, taken or held; the other commands have one operation each. -/
theorem islandsGateAndReset : Obligations.IslandsGateAndReset := by
  unfold Obligations.IslandsGateAndReset
  refine ⟨?_, ?_, ?_, ?_, ?_, ?_, ?_, ?_, ?_, ?_, ?_, ?_, ?_, ?_⟩
  · exact fun i s hm hg hr hq hw => finished_eq (idleGate_of_idle hm hg hr hq hw)
  · exact fun i s hg hs hq => finished_eq (islandWake_of_entry hg hs hq)
  · rintro p i w v s rfl hg h1 ht hr hp
    refine finished_eq ?_
    rw [writeOn_islCtl_held hg (not_refusesIslCtl_of_reset h1 ht hr hp) (bit31_resetReq w), gateTaken_on h1]
    rfl
  · rintro p i w v s rfl hg h1 ht
    have hn := not_refusesIslCtl_of_gate (s := s) (p := p) (i := i) (bit31_gateWrite w) (by omega) ht (.inl h1) (by omega)
    exact finished_eq (by rw [writeOn_islCtl_taken hg hn (bit31_gateWrite w), gateTaken_on h1])
  · rintro p i w v s rfl hg h2 ht ho hc
    have hn := not_refusesIslCtl_of_gate (p := p) (bit31_gateWrite w) (by omega) ht (.inr hc) fun _ => ho
    exact finished_eq (by rw [writeOn_islCtl_taken hg hn (bit31_gateWrite w), gateTaken_off h2])
  · exact fun i s hm hr hb => finished_eq (islandRelease_of_resetting hm hr hb)
  · exact fun i s hb => finished_eq (islandRelease_of_not_resetting hb)
  · rintro p i w v s rfl hg h0 ht hc
    have hn := not_refusesIslCtl_of_gate (s := s) (p := p) (bit31_gateWrite w) (by omega) ht (.inr hc) (by omega)
    exact finished_eq (by rw [writeOn_islCtl_taken hg hn (bit31_gateWrite w), gateTaken_auto h0])
  · rintro p i w v s rfl hg hc
    refine finished_eq (writeOn_islCtl_refused hg ?_)
    rcases hc with hc | ⟨h2, ho⟩
    · exact .inr (.inr (.inl hc))
    · exact .inr (.inr (.inr (.inl ⟨h2, by simp [ho]⟩)))
  · rintro p i w v w' s rfl hg hc
    refine finished_eq (writeOn_islCtl_refused_of_granted hg ?_)
    exact hc.imp id .inl
  · rintro p i w v s rfl hg hc
    refine finished_eq (writeOn_islCtl_refused hg (.inr (.inr (.inr (.inr ⟨bit31_resetReq w, ?_⟩)))))
    exact hc.imp id fun h => by simp [h]
  · exact fun c s hm hr ht => finished_eq (fieldsRestore_due hm hr ht)
  · exact fun c s ht => finished_eq (fieldsRestore_of_not_due ht)
  · exact fun s t r u i a h => putFields_of_reg t h

/-- Settles O8: a write spends a credit, a read is good, bad or none, and what it carries decides where it goes. -/
theorem straitsSpendAndReturnCredits : Obligations.StraitsSpendAndReturnCredits := by
  unfold Obligations.StraitsSpendAndReturnCredits
  refine ⟨?_, ?_, ?_, ?_, ?_, ?_, ?_, ?_, ?_, ?_, ?_, ?_, ?_⟩
  · exact fun k words o s hc hu hw => finished_eq (straitWrite_of_credit o hc hu hw)
  · exact fun k words o s hu => finished_eq (straitWrite_of_no_credit words o hu)
  · refine fun k hit e rest s hc hg he hp => ⟨finished_eq (straitTake_good hc hg he hp), fun ho => finished_eq ?_⟩
    rw [straitTake_good hc hg he hp, straitReach_item ho]
  · exact fun k e p a w tag s x ho hm hi hx hh => straitReach_access ho hm hi hx hh
  · exact fun k e m tag s ho hk => straitReach_request ho hk
  · exact fun e p a w tag st s ho hm => loseOwner_access st ho hm
  · exact fun _ _ _ _ _ _ _ => rfl
  · exact fun _ _ _ _ _ _ _ _ => rfl
  · exact fun c q a w tag st d f s hf => straitEnd_engine q tag st d hf
  · exact fun e m tag t st s ho ht => loseOwner_request st ho ht
  · exact fun k hit e rest s hc hg he hp => finished_eq (straitTake_bad hc hg he hp)
  · exact fun k hit s hg _ => finished_eq (straitTake_gated hit hg)
  · exact fun k s h => finished_eq (straitCredit_due h)

/-- Settles O9: a sample is implausible, below, above or within its limits; a write of the limits lies in the window or
not; a detector's report sets or clears its own bits. -/
theorem railsAreSampledAndJudged : Obligations.RailsAreSampledAndJudged := by
  unfold Obligations.RailsAreSampledAndJudged
  refine ⟨?_, ?_, ?_, ?_, ?_, ?_, ?_, ?_, ?_⟩
  · exact fun k mv s hm hd hi hn => finished_eq ((railSample_implausible hm hd hi).trans (if_neg hn))
  · exact fun k mv s hm hd hi h2 => finished_eq (by
      rw [railSample_implausible hm hd hi]
      simp only [h2, if_true])
  · exact fun k mv s hm hd hi hl hh => finished_eq (by
      rw [railSample_plausible hm hd hi, if_neg (Nat.not_lt.mpr hl), if_neg (Nat.not_lt.mpr hh), State.railJudged,
        railAfter_within hl hh])
  · exact fun k mv s hm hd hi hl hn => finished_eq (by
      rw [railSample_plausible hm hd hi, if_pos hl, State.railJudged, railAfter_below hl, if_pos (by simp only; omega)])
  · exact fun k mv s hm hd hi hl hh hn => finished_eq (by
      rw [railSample_plausible hm hd hi, if_neg (Nat.not_lt.mpr hl), if_pos hh, State.railJudged, railAfter_above hl hh,
        if_pos (by simp only; omega)])
  · exact fun p k w s hg hs hl hw hh =>
      finished_eq (s.writeOn_done p .PWR_RAIL_LIM 0 k w _ hg (writeReg_railLim_taken hs hl hw hh))
  · exact fun p k w s hg hs hw => finished_eq (s.writeOn_ignored p .PWR_RAIL_LIM 0 k w hg (writeReg_railLim_refused hs hw))
  · exact fun d arr vpp s hm ha => finished_eq (pgoodTrip_reported hm ha)
  · rintro d s t hm ha rfl
    exact finished_eq (pgoodRestore_reported hm ha)

/-- Settles O10: what the read or write of each half makes of the latch and the holder of its path. -/
theorem theTimeBaseIsReadAndWrittenInPairs : Obligations.TheTimeBaseIsReadAndWrittenInPairs := by
  unfold Obligations.TheTimeBaseIsReadAndWrittenInPairs
  refine ⟨?_, ?_, ?_, ?_, ?_, ?_, ticksPast_same, ticksPast_tick⟩
  · exact fun p s hr => finished_eq (s.direct_read p .GLB_TIME_LO 0 0 _ _ hr (readReg_timeLo s p))
  · exact fun p x s hr hx => finished_eq (s.direct_read p .GLB_TIME_HI 0 0 _ _ hr (readReg_timeHi_latched hx))
  · exact fun p s hr hx => finished_eq (s.direct_read p .GLB_TIME_HI 0 0 _ _ hr (readReg_timeHi_live hx))
  · exact fun p w s hg => finished_eq (s.writeOn_done p .GLB_TIME_HI 0 0 w _ hg (writeReg_timeHi s p w))
  · exact fun p w x s hg hx => finished_eq (by
      rw [s.writeOn_done p .GLB_TIME_LO 0 0 w _ hg (writeReg_timeLo s p w), hx, Option.getD_some])
  · exact fun p w s hg hx => finished_eq (by
      rw [s.writeOn_done p .GLB_TIME_LO 0 0 w _ hg (writeReg_timeLo s p w), hx, Option.getD_none])

/-- Settles O28: a CREDIT cell by its INIT bit, the return of freed cells, and what leaves a module first. -/
theorem creditsAreGivenAndSpent : Obligations.CreditsAreGivenAndSpent := by
  unfold Obligations.CreditsAreGivenAndSpent
  refine ⟨?_, ?_, ?_, ?_, ?_, ?_, ?_⟩
  · exact fun m cell h s ha hb hk hi hr hc => finished_eq (by
      rw [takeCredit_active cell ha hb hk, if_pos hi, if_neg (by omega)])
  · exact fun m cell h s ha hb hk hi hl => finished_eq (by rw [takeCredit_active cell ha hb hk, if_pos hi, if_pos hl])
  · exact fun m cell h s ha hb hk hi => finished_eq (by rw [takeCredit_active cell ha hb hk, if_neg (by simp [hi])])
  · exact fun m s u hu ha hf => finished_eq (reqCreditReturn_freed hu ha hf)
  · exact fun m s hc hi ho hk => finished_eq (transmit_ctl hc hi ho hk)
  · exact fun m l n s hc hi ho hf hl hk => finished_eq (transmit_rsp hc hi ho hf hl hk)
  · exact fun m s ho hk => finished_eq (transmit_without_credit ho hk)

end Sys2Proof
end

