-- ==== Sys2Proof/Proofs/RegisterAccesses.lean ====
section
/-!
PROOFS. Register accesses: what each check of an access that fails answers, the halves of wide registers, the accesses with
effects of their own, the management tick, the words of a flow context and the host's throttle and fence.
-/
namespace Sys2Proof.Machine

/-! ### The state before power-up -/

theorem chan_reset (c : Nat) : State.reset.chan c = Chan.reset := by
  rw [State.chan, State.reset, Vector.getElem?_replicate]
  split <;> rfl

theorem throttleShown_of_reset {s : State} (h : s.mode = .reset) : s.throttleShown := fun hm => absurd h hm

/-! ### An access that is refused before its register is looked at -/

section Refused
variable {s : State} {p : Path} {a : Nat} {w : Word} {wr : Bool}

/-- A write on a path that is there, whose access ends at once: its answer, with no data. -/
theorem direct_ended {t : State} {st : Status} (hp : s.pathUp p = true)
    (hx : s.access p a true w Given.plain .direct = ⟨t, st, 0, false⟩) :
    s.direct p a true w = t.emit (.access (pathNum p) a true st 0) := by
  simp only [State.direct, hp, hx, finish, State.complete, ite_self, if_true, Bool.false_eq_true, if_false]

theorem refused_of_modeStatus {st : Status} (h : s.modeStatus p = some st) : s.refused p a wr = some st := by
  simp only [State.refused, h]

theorem refused_of_unmapped (hm : s.modeStatus p = none) (ha : a % 4 ≠ 0 ∨ inBlock a = false) :
    s.refused p a wr = some .unmapped := by
  simp only [State.refused, hm]
  exact if_pos (ha.imp id fun h => by simp [h])

theorem refused_of_islandDown (hm : s.modeStatus p = none) (ha : a % 4 = 0) (hb : inBlock a = true)
    (hd : (accessIslands (pathHalf p) a wr).any s.islandDown = true) : s.refused p a wr = some .unavailable := by
  simp only [State.refused, hm, ha, hb, hd, ne_eq, not_true_eq_false, Bool.not_true, Bool.false_eq_true, or_self, if_false,
    if_true]

theorem access_unmapped (h : s.refused p a wr = some .unmapped) (g : Given) (ans : Answer) :
    s.access p a wr w g ans = ⟨s.accFault 2 (pathNum p) a wr, .unmapped, 0, false⟩ := by
  simp only [State.access, h]

theorem access_refused {st : Status} (h : s.refused p a wr = some st) (hs : st ≠ .unmapped) (g : Given) (ans : Answer) :
    s.access p a wr w g ans = ⟨s, st, 0, false⟩ := by
  unfold State.access
  split
  next h' => exact absurd (Option.some.inj (h.symm.trans h')) hs
  next h' => rw [Option.some.inj (h.symm.trans h')]
  next h' => simp [h] at h'

end Refused

/-! ### A write that a check of its register refuses -/

section Checks
variable {s : State} {p : Path} {a : Nat} {w : Word} {g : Given} {ans : Answer} {r : Reg} {u i : Nat}

/-- A write whose address no register names is IGNORED in FATAL. -/
theorem access_unnamed_fatal (hr : s.refused p a true = none)
    (hg : ((accessIslands (pathHalf p) a true).all fun k => !s.flag (F.GLB_ISL_STS_GATED k)) = true) (ha : regAt a = none)
    (hm : s.mode = .fatal) : s.access p a true w g ans = ignored s := by
  simp only [State.access, hr, foldl_wake s _ hg, ha, hm, and_self, if_true]
  exact if_neg nofun

/-- Elsewhere it completes OK and is an access of its session (R68, R489). -/
theorem access_unnamed (hr : s.refused p a true = none)
    (hg : ((accessIslands (pathHalf p) a true).all fun k => !s.flag (F.GLB_ISL_STS_GATED k)) = true) (ha : regAt a = none)
    (hm : s.mode ≠ .fatal) : s.access p a true w g ans =
      ⟨s.noteAccess (s.life.session != 0 && s.life.sessPath == pathNum p) (pathNum p) true a w, .ok, 0, false⟩ := by
  simp only [State.access, hr, foldl_wake s _ hg, ha, hm, and_false, if_false]
  rfl

/-- A write that the register refuses is refused with that answer, and keeps no session open. -/
theorem access_of_refusing {x : Res} (hr : s.refused p a true = none)
    (hg : ((accessIslands (pathHalf p) a true).all fun k => !s.flag (F.GLB_ISL_STS_GATED k)) = true)
    (ha : regAt a = some (r, u, i)) (hx : s.accessReg p a r u i true w g ans = x) (hs : x.status ≠ .ok) :
    s.access p a true w g ans = x := by
  simp only [State.access, hr, foldl_wake s _ hg, ha, hx, hs, if_false]

theorem accessReg_denied (wr : Bool) (hv : r.prv = true) (hn : s.allowed p = false) :
    s.accessReg p a r u i wr w g ans = s.deny p a wr := if_pos (by simp [hv, hn])

/-- A write of a register that the path may access is decided by the checks common to all registers. -/
theorem accessReg_of_refusing {x : Res} (hv : r.prv = false ∨ s.allowed p = true)
    (hx : s.writeChecked p a r u i w g ans = x) (hs : x.status ≠ .ok) : s.accessReg p a r u i true w g ans = x := by
  have hprv : ¬ ((r.prv && !s.allowed p) = true) := by rcases hv with hv | hv <;> simp [hv]
  simp only [State.accessReg, hprv, hx, hs, if_true, if_false, Bool.false_eq_true]

theorem writeChecked_locked (hm : s.mode ≠ .fatal) (hb : s.bounces p a = false) (hl : s.locked r a = true) :
    s.writeChecked p a r u i w g ans = s.lockViolation p a := by
  simp only [State.writeChecked, hm, hb, hl, if_true, if_false, Bool.false_eq_true]

theorem writeChecked_outOfRange (hm : s.mode ≠ .fatal) (hb : s.bounces p a = false) (hl : s.locked r a = false)
    (hi : inRange r w.toNat = false) : s.writeChecked p a r u i w g ans = s.outOfRange p r u i w := by
  simp only [State.writeChecked, hm, hb, hl, hi, if_true, if_false, Bool.false_eq_true, Bool.not_false]

/-- A register that refuses no path first takes a field out of range as IGNORED (R69). -/
theorem outOfRange_ignored (h : refusesFirst r = false) : s.outOfRange p r u i w = ignored s := by
  unfold State.outOfRange
  split
  case h_7 => rfl
  all_goals exact absurd h (by decide)

theorem refusesFirst_cases (h : refusesFirst r = true) :
    r = .EXD_QCFG ∨ r = .EXD_QCTL ∨ r = .EXD_QDB ∨ r = .EXD_QCNT ∨ r = .EXD_QSTS ∨ r = .LC_SESS_CTL := by
  unfold refusesFirst at h
  split at h <;> simp at h ⊢

/-- The registers of q7 refuse a path that is not secure before they look at the value (R266). -/
theorem outOfRange_secure (h : refusesFirst r = true) (hn : r ≠ .LC_SESS_CTL) (hs : isSecure p = false) :
    s.outOfRange p r u 7 w = s.deny p (adr r u 7) true := by
  have hq : s.secureQueue p r u 7 (ignored s) = s.deny p (adr r u 7) true := if_pos ⟨rfl, by simp [hs]⟩
  rw [← hq]
  obtain rfl | rfl | rfl | rfl | rfl | rfl := refusesFirst_cases h
  case inr.inr.inr.inr.inr => exact absurd rfl hn
  all_goals rfl

end Checks

/-! ### The halves of a pair -/

section Pairs
variable {s : State} {p : Path} {r hi : Reg} {u i : Nat} {w : Word}

/-- A low word reads as it stands, and its path latches the high word (R85). -/
theorem readReg_pairLow (h : pairHigh r = some hi) :
    s.readReg p r u i =
      ⟨{ s with latches := s.latches.set (fun _ => none) (pathKey (pathNum p) (adr hi u i))
                  (some (s.view (pathNum p) (pathHalf p) hi u i)) }, .ok, s.view (pathNum p) (pathHalf p) r u i, false⟩ := by
  have hn : r ≠ .ECC_LOG_POP := by rintro rfl; cases h
  simp only [State.readReg, hn, h, if_false]

theorem isPairHigh_iff : isPairHigh r = true ↔ ∃ l ∈ Reg.all, pairHigh l = some r := by
  simp only [isPairHigh, List.any_eq_true, beq_iff_eq]

/-- No high word has an effect of its own: its write is held for the path. -/
theorem writeReg_pairHigh (h : isPairHigh r = true) (g : Given) (ans : Answer) :
    s.writeReg p r u i w g ans = done (s.setHeld (pathNum p) (adr r u i) (some w)) := by
  obtain ⟨l, -, hl⟩ := isPairHigh_iff.mp h
  unfold pairHigh at hl
  split at hl <;> cases hl <;> simp only [State.writeReg, h, if_true, State.writeHigh]

theorem not_isPairHigh_of_pairLow (h : pairHigh r = some hi) : isPairHigh r = false := by
  unfold pairHigh at h
  split at h <;> cases h <;> decide

/-- A plain low word applies with what its path holds of the high word. -/
theorem writeReg_pairLow (h : pairHigh r = some hi) (hp : plainPair r = true) (g : Given) (ans : Answer) :
    s.writeReg p r u i w g ans = s.writeLow (pathNum p) r hi u i w := by
  have hn := not_isPairHigh_of_pairLow h
  have hl := h
  unfold pairHigh at h
  split at h <;> cases h
  case h_1 | h_8 | h_9 => exact absurd hp (by decide)
  all_goals simp only [State.writeReg, hn, hl, Bool.false_eq_true, if_false]

theorem writeLow_held {n : PathNum} {x : Word} (h : s.held n (adr hi u i) = some x) :
    s.writeLow n r hi u i w = done (((s.plainWrite n r u i w).plainWrite n hi u i x).setHeld n (adr hi u i) none) := by
  simp only [State.writeLow, h]

theorem writeLow_alone {n : PathNum} (h : s.held n (adr hi u i) = none) :
    s.writeLow n r hi u i w = done (s.plainWrite n r u i w) := by
  simp only [State.writeLow, h]

/-- A counter is written as any pair, and goes on from the value written (R500). -/
theorem wCnt_eq (s : State) (n : PathNum) (r hi : Reg) (c : Option Nat) (u i : Nat) (w : Word) :
    s.wCnt n r hi c u i w = done ((s.writeLow n r hi u i w).st.cntWritten c i) := by
  cases h : s.held n (adr hi u i) with
  | some x => rw [State.wCnt, writeLow_held h]; rfl
  | none => rw [State.wCnt, writeLow_alone h]; rfl

end Pairs

/-! ### The management tick -/

section Tick
variable {s : State}

theorem managementTick_running (h : s.mode ≠ .reset) : s.managementTick = (s.advanceToMultiple 10000).tickWork := if_neg h

/-- The global shadows applied, with DUE and the wear LEVELs brought up to date (R73). -/
def State.globalsApplied (u : State) : State := ((u.applyShadows domGlobal).settleDue u).settleLevels u

theorem tickWork_upset (h : s.aonUpset = true) :
    s.tickWork = ({ s.globalsApplied with aonUpset := false } : State).raise 9 0 := if_pos h

theorem tickWork_still (h : s.aonUpset = false) (hm : s.mode = .deepRetention ∨ s.mode = .fatal) :
    s.tickWork = s.globalsApplied := (if_neg (by simp [h])).trans (if_pos hm)

theorem tickWork_full (h : s.aonUpset = false) (hd : s.mode ≠ .deepRetention) (hf : s.mode ≠ .fatal) :
    s.tickWork = s.globalsApplied.strapTick.powerTick.summaryTick :=
  (if_neg (by simp [h])).trans (if_neg (by simp [hd, hf]))

end Tick

/-! ### Accesses that do not complete, clears and pops -/

section Others
variable {s : State} {p : Path} {a tag : Nat} {w : Word}

/-- Out of RESET an access of a host or firmware path is answered TIMEOUT and noted (R92). -/
theorem accessTimeout_host (hm : s.mode ≠ .reset) (hp : ∀ c q, p ≠ .eng c q) (wr : Bool) :
    s.accessTimeout p a wr w tag =
      (((if wr ∧ Config.freeBool s.free then (s.useFree.access p a true w Given.plain .direct).st else s.useFree).accFault 3
        (pathNum p) a wr).complete (pathNum p) a wr (answerOf p tag) .timeout 0) := by
  cases p with
  | eng c q => exact absurd rfl (hp c q)
  | _ => exact if_neg hm

/-- An engine's read ends its ld.cfg with the status TIMEOUT (R306). -/
theorem accessTimeout_engineRead {c : Fin 32} {q : Fin 8} {f : Fields} (hm : s.mode ≠ .reset)
    (hf : s.cfgAt c a false = some f) :
    s.accessTimeout (.eng c q) a false w tag =
      (s.useFree.accFault 3 (pathNum (.eng c q)) a false).cfgEnd c f false .timeout 0 := by
  simp only [State.accessTimeout, hm, hf, Bool.false_eq_true, false_and, if_false]

theorem mode_of_granted {r : Reg} {u i : Nat} (h : s.granted p r u i w = true) : s.mode ≠ .reset := fun e => by
  simp [State.granted, State.pathUp, e] at h

theorem pollClear_running (again : Word) (hm : s.mode ≠ .reset) :
    s.pollClear p w again =
      (let t := s.direct p (adr .POLL_SUMMARY) true w
       let u := if s.reg (adr .POLL_SUMMARY) &&& ~~~t.reg (adr .POLL_SUMMARY) &&& (again &&& 0x7FF#32) = 0 then t
         else t.setFld F.POLL_SUMMARY_CHANGE_SEQ (t.fld F.POLL_SUMMARY_CHANGE_SEQ + 1)
       u.setReg (adr .POLL_SUMMARY) (u.reg (adr .POLL_SUMMARY) ||| (again &&& 0x7FF#32))) := if_neg hm

theorem readReg_eccLogPop (s : State) (p : Path) (u i : Nat) : s.readReg p .ECC_LOG_POP u i = s.popLog (pathNum p) u := by
  simp only [State.readReg, if_true]

/-- What a pop leaves of the log of channel `c`, whose oldest entry was `e`, and in the holding registers of path `n`. -/
def State.popped (s : State) (n : PathNum) (c : Nat) (e : List Word) (rest : List (List Word)) : State :=
  (s.modChan c fun x => { x with log := { x.log with entries := rest } }).each 8 fun k t =>
    { t with popHold := t.popHold.set (fun _ => 0) ((n * 32 + c) * 8 + k) (e.getD k 0) }

theorem popLog_cons {n : PathNum} {c : Nat} {e : List Word} {rest : List (List Word)}
    (h : (s.chan c).log.entries = e :: rest) : s.popLog n c = ⟨s.popped n c e rest, .ok, e.getD 0 0, false⟩ := by
  simp only [State.popLog, h]
  rfl

theorem popLog_nil {n : PathNum} {c : Nat} (h : (s.chan c).log.entries = []) : s.popLog n c = ⟨s, .empty, 0, false⟩ := by
  simp only [State.popLog, h]

end Others

/-! ### Flow contexts, the host's throttle and its fence -/

section Flows
variable {s : State}

/-- GO while no fence runs marks the requests not yet answered (R220). -/
theorem wQosFence_go {w : Word} {t : State} (hg : bitOf w.toNat 30 = true) (hb : s.flag F.QOS_FENCE_BUSY = false)
    (ht : t = (s.setBoth F.QOS_FENCE_VALID 0).setBoth F.QOS_FENCE_BUSY 1) :
    s.wQosFence w = done ({ t with
      qosFence := some t.now, txns := t.txns.map fun (x : Txn) => { x with pre := !x.answered } } : State).settle := by
  subst ht
  simp only [State.wQosFence, hg, hb, Bool.not_true, Bool.false_eq_true, if_false]

theorem wQosFence_running {w : Word} (hg : bitOf w.toNat 30 = true) (hb : s.flag F.QOS_FENCE_BUSY = true) :
    s.wQosFence w = ignored s := by
  simp only [State.wQosFence, hg, hb, Bool.not_true, Bool.false_eq_true, if_false, if_true]

end Flows

end Sys2Proof.Machine

namespace Sys2Proof
open Machine

/-- Settles O6: in RESET nothing is asked of the throttle, and every store and channel is at its reset value. -/
theorem theStateBeforePowerUp : Obligations.TheStateBeforePowerUp := by
  unfold Obligations.TheStateBeforePowerUp
  refine ⟨throttleShown_of_reset rfl, Laws.reset_canon.ok, rfl, rfl, fun _ => rfl, fun c => chan_reset c, fun c => ?_⟩
  rw [chan_reset]
  exact ⟨rfl, rfl, rfl⟩

/-- Settles O13: the tick is the work at the next boundary, by the mode and whether an upset is found. -/
theorem managementWorkRunsAtTicks : Obligations.ManagementWorkRunsAtTicks := by
  unfold Obligations.ManagementWorkRunsAtTicks
  refine ⟨?_, ?_, ?_⟩
  · rintro s u hr hd hf ha rfl
    exact finished_eq ((managementTick_running hr).trans (tickWork_full ha hd hf))
  · rintro s u hm ha rfl
    have hr : s.mode ≠ .reset := by rcases hm with h | h <;> simp [h]
    exact finished_eq ((managementTick_running hr).trans (tickWork_still ha hm))
  · rintro s u v hr ha rfl rfl
    exact finished_eq ((managementTick_running hr).trans (tickWork_upset ha))

/-- Settles O11: a read of a low word latches, a write of a high word is held, and a write of a low word takes what is held,
of a plain pair and of a counter. -/
theorem wideRegistersWorkInPairs : Obligations.WideRegistersWorkInPairs := by
  unfold Obligations.WideRegistersWorkInPairs
  refine ⟨?_, ?_, ?_, ?_, ?_, ?_, ?_⟩
  · exact fun p a r hi u i s hl ha hr => finished_eq (by rw [ha]; exact s.direct_read p r u i _ _ hr (readReg_pairLow hl))
  · exact fun p a w r u i s hh ha hg => finished_eq (by
      rw [ha]; exact s.direct_done p r u i w _ _ hg (writeReg_pairHigh hh _ _))
  · exact fun p a w r hi u i s x hl hp ha hg hx => finished_eq (by
      rw [ha]; exact s.direct_done p r u i w _ _ hg ((writeReg_pairLow hl hp _ _).trans (writeLow_held hx)))
  · exact fun p a w r hi u i s hl hp ha hg hx => finished_eq (by
      rw [ha]; exact s.direct_done p r u i w _ _ hg ((writeReg_pairLow hl hp _ _).trans (writeLow_alone hx)))
  · exact fun p a w k s ha hg => finished_eq (by
      rw [ha]; exact s.direct_done p .OBS_CNT_LO 0 k w _ _ hg (wCnt_eq s _ _ _ none 0 k w))
  · exact fun p a w c k s ha hg => finished_eq (by
      rw [ha]; exact s.direct_done p .CH_CNT_LO c k w _ _ hg (wCnt_eq s _ _ _ (some c.val) c k w))
  · exact fun p r hi u i w x s hx => congrArg Res.st (writeLow_held hx)

/-- Settles O12: the check that fails first gives the answer, and a plain register takes a write that passes them all. -/
theorem registerWritesAreServedOrRefused : Obligations.RegisterWritesAreServedOrRefused := by
  unfold Obligations.RegisterWritesAreServedOrRefused
  refine ⟨?_, ?_, ?_, ?_, ?_, ?_, ?_, ?_, ?_, ?_⟩
  · exact fun p a w r u i s hr ha hg => finished_eq (by
      rw [ha]; exact s.direct_done p r u i w _ _ hg (s.writeReg_plain p r u i w hr))
  · exact fun p a w s hp hm ha => finished_eq (direct_ended hp (access_unmapped (refused_of_unmapped hm ha) _ _))
  · exact fun p a w s st hp hm hs => finished_eq (direct_ended hp (access_refused (refused_of_modeStatus hm) hs _ _))
  · exact fun p a w s hp hm ha hb hd => finished_eq
      (direct_ended hp (access_refused (refused_of_islandDown hm ha hb hd) nofun _ _))
  · exact fun p a w s hp hr ha hg hm => finished_eq (direct_ended hp (access_unnamed_fatal hr hg ha hm))
  · exact fun p a w s hp hr ha hg hm => finished_eq (direct_ended hp (access_unnamed hr hg ha hm))
  · exact fun p a w r u i s hp hr ha hg hv hn => finished_eq
      (direct_ended hp (access_of_refusing hr hg ha (accessReg_denied true hv hn) nofun))
  · exact fun p a w r u i s hp hr ha hg hv hm hb hl => finished_eq (direct_ended hp
      (access_of_refusing hr hg ha (accessReg_of_refusing hv (writeChecked_locked hm hb hl) nofun) nofun))
  · exact fun p a w r u i s hp hr ha hg hv hm hb hl hi hf => finished_eq (direct_ended hp
      (access_of_refusing hr hg ha (accessReg_of_refusing hv
        ((writeChecked_outOfRange hm hb hl hi).trans (outOfRange_ignored hf)) nofun) nofun))
  · exact fun p a w r u s hp hr ha hg hv hm hb hl hi hf hn hs => finished_eq (direct_ended hp
      (access_of_refusing hr hg ha (accessReg_of_refusing hv
        ((writeChecked_outOfRange hm hb hl hi).trans (outOfRange_secure hf hn hs)) nofun) nofun))

/-- Settles O14: a timed-out access by its path, a clear by what is set again, a pop by whether the log is empty. -/
theorem otherAccessesHaveTheirOwnEffects : Obligations.OtherAccessesHaveTheirOwnEffects := by
  unfold Obligations.OtherAccessesHaveTheirOwnEffects
  refine ⟨?_, ?_, ?_, ?_, ?_, ?_⟩
  · exact fun p a w tag s hm hp => finished_eq (by rw [accessTimeout_host hm hp, if_neg (by simp)])
  · exact fun p a w tag s hm hp => finished_eq (by simp only [accessTimeout_host hm hp, true_and])
  · rintro c q a w tag f s u v hm hf rfl rfl
    exact finished_eq (accessTimeout_engineRead hm hf)
  · rintro p w again s t hg rfl
    have hw := s.direct_done p .POLL_SUMMARY 0 0 w Given.plain _ hg (s.writeReg_plain p .POLL_SUMMARY 0 0 w (by decide))
    exact finished_eq (by rw [pollClear_running again (mode_of_granted hg), hw])
  · exact fun p c e rest s hr he => finished_eq
      (s.direct_read p .ECC_LOG_POP c 0 _ _ hr ((readReg_eccLogPop s p c 0).trans (popLog_cons he)))
  · exact fun p c s hr he => finished_eq
      (s.direct_unread p .ECC_LOG_POP c 0 .empty 0 hr nofun ((readReg_eccLogPop s p c 0).trans (popLog_nil he)))

/-- Settles O31: each word goes to the shadow of its flow, HOST_STEP is a plain register, and a fence runs alone. -/
theorem flowContextsAndTheHostSteer : Obligations.FlowContextsAndTheHostSteer := by
  unfold Obligations.FlowContextsAndTheHostSteer
  refine ⟨?_, ?_, ?_, ?_, ?_, ?_⟩
  · rintro p f w old s hg rfl
    exact finished_eq (s.writeOn_done p .FLOW_W0 0 f.toNat w _ hg rfl)
  · rintro p f w old s hg rfl
    exact finished_eq (s.writeOn_done p .FLOW_W1 0 f.toNat w _ hg rfl)
  · rintro p f w old s hg rfl
    exact finished_eq (s.writeOn_done p .FLOW_W2 0 f.toNat w _ hg rfl)
  · exact fun p w s hg => finished_eq
      (s.writeOn_done p .QOS_THROTTLE 0 0 w _ hg (s.writeReg_plain p .QOS_THROTTLE 0 0 w (by decide)))
  · exact fun p t s hg hb ht => finished_eq
      (s.writeOn_done p .QOS_FENCE 0 0 _ _ hg (wQosFence_go (by decide) hb ht))
  · exact fun p s hg hb => finished_eq (s.writeOn_ignored p .QOS_FENCE 0 0 _ hg (wQosFence_running (by decide) hb))

end Sys2Proof
end

