-- ==== Sys2Proof/Proofs/ModeRequests.lean ====
section
/-!
PROOFS. Requests of GLB_MODE: what a request that is accepted changes, and that a refused one changes nothing.
-/
namespace Sys2Proof.Machine

/-! ### The write of GLB_MODE -/

section Requests
variable {s : State} {p : Path} {w : Word} {r : Nat}

theorem wGlbMode_taken (hr : bitsOf w.toNat 31 28 = r) (h0 : r ≠ 0) (h : s.reqOk r = true) (e : ExitEnv) :
    s.wGlbMode w e = done (s.modeChange r e) := by
  subst hr
  exact (if_neg h0).trans (if_pos h)

theorem wGlbMode_refused (hr : bitsOf w.toNat 31 28 = r) (h0 : r ≠ 0) (h : s.reqOk r = false) (e : ExitEnv) :
    s.wGlbMode w e = ignored s := by
  subst hr
  exact (if_neg h0).trans (if_neg (by simp [h]))

/-- An accepted request changes the mode and completes OK. -/
theorem modeRequest_taken {u : State} (r : Nat) (g : Given) (hg : s.granted p .GLB_MODE 0 0 w = true)
    (h : s.reqOk r = true) (hr : bitsOf w.toNat 31 28 = r) (h0 : r ≠ 0) (hu : s.modeChange r g.exit = u) :
    finished s (s.direct p (adr .GLB_MODE) true w g) = .next (commit s (s.answered p (adr .GLB_MODE) w u)) :=
  finished_eq (hu ▸ s.direct_done p .GLB_MODE 0 0 w g _ hg (wGlbMode_taken hr h0 h g.exit))

/-- A refused request completes IGNORED. -/
theorem modeRequest_refused (r : Nat) (g : Given) (hg : s.granted p .GLB_MODE 0 0 w = true)
    (h : s.reqOk r = false) (hr : bitsOf w.toNat 31 28 = r) (h0 : r ≠ 0) :
    finished s (s.direct p (adr .GLB_MODE) true w g) = .next (commit s (s.turnedAway p (adr .GLB_MODE))) :=
  finished_eq (s.direct_ignored p .GLB_MODE 0 0 w g hg (wGlbMode_refused hr h0 h g.exit))

theorem modeChange_selfRefresh (s : State) (e : ExitEnv) :
    s.modeChange 1 e = s.enterSelfRefresh.latch F.POLL_SUMMARY_DONE := rfl
theorem modeChange_shutdown (s : State) (e : ExitEnv) :
    s.modeChange 4 e = s.enterSelfRefresh.commitMram.shutdownDone := rfl
theorem modeChange_shutdownTest (s : State) (e : ExitEnv) :
    s.modeChange 5 e =
      ({ s.commitMram.setFlag F.GLB_MODE_REQ_BUSY true with mode := .shutdownTest } : State).startTest := by
  unfold State.modeChange State.shutdownTest
  simp

theorem modeChange_deep {x : Nat × Nat} (h : s.context = some x) (e : ExitEnv) :
    s.modeChange 2 e = (s.enterDeep x).latch F.POLL_SUMMARY_DONE := by
  unfold State.modeChange
  simp [h]

theorem modeChange_ofSelfRefresh (h : s.mode = .selfRefresh) (e : ExitEnv) : s.modeChange 3 e = s.exitSelfRefresh e :=
  if_pos h

theorem modeChange_ofDeep (h : s.mode = .deepRetention) (e : ExitEnv) : s.modeChange 3 e = s.exitDeep e :=
  (if_neg (by simp [h])).trans (if_pos h)

theorem modeChange_ofSafe (h : s.mode = .safe) (e : ExitEnv) : s.modeChange 3 e = s.exitDone :=
  (if_neg (by simp [h])).trans (if_neg (by simp [h]))

/-- ACTIVE is asked for in three modes (table Mode transitions). -/
theorem mode_of_reqOk_active (h : s.reqOk 3 = true) : s.mode = .selfRefresh ∨ s.mode = .deepRetention ∨ s.mode = .safe := by
  simp only [State.reqOk, Bool.and_eq_true] at h
  obtain ⟨⟨hf, -⟩, -⟩ := h
  revert hf
  cases s.mode <;> simp [reqFrom]

/-- DEEP RETENTION is taken only where two channels can hold the context (R119). -/
theorem context_of_reqOk_deep (h : s.reqOk 2 = true) : ∃ x, s.context = some x := by
  rw [State.reqOk, if_neg (by decide)] at h
  simp only [Bool.and_eq_true] at h
  obtain ⟨-, -, hx⟩ := h
  exact Option.isSome_iff_exists.mp (by simpa using hx)

end Requests

/-! ### What an answered command leaves, after all that follows it -/

section Answered
variable {s t : State} {p : Path} {a : Nat} {w : Word}

/-- Out of BRING-UP, what follows an answered write leaves all but the registers, the observation, the notes of heat, the
session's account and the messages. -/
theorem commit_answered_of {β : Type} (f : State → β)
    (hf : ∀ (t : State) g b h l m o, f { t with regs := g, obs := b, thermal := h, life := l, mram := m, out := o } = f t)
    (ht : t.mode ≠ .bringUp) : f (commit s (s.answered p a w t)) = f t := by
  have hb : (s.answered p a w t).bringCheck = s.answered p a w t := State.bringCheck_of_mode (by rwa [answered_mode])
  have hc (x : State) : f x.core = f x := hf x [] State.reset.obs State.reset.thermal x.life x.mram x.out
  calc f (commit s (s.answered p a w t))
      = f (s.answered p a w t) := by rw [← hc (commit s _), core_commit_of _ _ hb, hc]
    _ = f t := answered_of f (fun t l m o b => hf t t.regs b t.thermal l m o) s p a w t

theorem commit_answered_mode (ht : t.mode ≠ .bringUp) : (commit s (s.answered p a w t)).mode = t.mode :=
  commit_answered_of State.mode (fun _ _ _ _ _ _ _ => rfl) ht

/-- A field that `commit` does not write. -/
theorem commit_answered_fld {f : Fld} (hf : ¬ CommitWrites f.addr) (hb : (s.answered p a w t).bringCheck = s.answered p a w t) :
    (commit s (s.answered p a w t)).fld f = t.fld f :=
  (commit_fld_of s _ hb f hf).trans (State.fld_of_reg (answered_reg s p a w t _))

theorem commit_answered_flag {f : Fld} (hf : ¬ CommitWrites f.addr) (hb : (s.answered p a w t).bringCheck = s.answered p a w t) :
    (commit s (s.answered p a w t)).flag f = t.flag f := by
  rw [State.flag, commit_answered_fld hf hb, State.flag]

end Answered

/-! ### The modes entered -/

theorem enterSelfRefresh_mode (s : State) : s.enterSelfRefresh.mode = .selfRefresh := rfl
theorem enterSelfRefresh_ownSelf (s : State) : s.enterSelfRefresh.ownSelf = 0 := rfl
theorem enterDeep_mode (s : State) (x : Nat × Nat) : (s.enterDeep x).mode = .deepRetention := rfl
theorem enterDeep_shadows (s : State) (x : Nat × Nat) : (s.enterDeep x).shadows = [] := rfl
theorem enterDeep_straits (s : State) (x : Nat × Nat) : (s.enterDeep x).straits = [] := rfl
theorem enterDeep_calRun (s : State) (x : Nat × Nat) : (s.enterDeep x).calRun = none := rfl

/-- An exit enters ACTIVE, or SAFE while a cause is set (R106). -/
theorem exitDone_mode (s : State) : s.exitDone.mode = .active ∨ s.exitDone.mode = .safe := by
  unfold State.exitDone
  cases s.fld F.GLB_MODE_STS_SAFE_CAUSE != 0 with
  | true => exact .inr rfl
  | false => exact .inl rfl

theorem exitDone_retained (s : State) : s.exitDone.retained = none := by
  unfold State.exitDone
  cases s.fld F.GLB_MODE_STS_SAFE_CAUSE != 0 <;> rfl

/-- An exit that does not restore from DEEP RETENTION ends with `exitDone`. -/
theorem modeChange_active_exitDone {s : State} (h : s.reqOk 3 = true) (hd : s.mode ≠ .deepRetention) (e : ExitEnv) :
    ∃ u : State, s.modeChange 3 e = u.exitDone := by
  obtain hm | hm | hm := mode_of_reqOk_active h
  · exact ⟨_, modeChange_ofSelfRefresh hm e⟩
  · exact absurd hm hd
  · exact ⟨_, modeChange_ofSafe hm e⟩

theorem shutdownDone_flag (s : State) : s.shutdownDone.flag F.GLB_MODE_STS_SHUTDOWN_DONE = true := by
  unfold State.shutdownDone State.latch
  rw [State.flag, State.fld_setFld_ne _ _ _ _ (by decide), ← State.flag,
    State.flag_setFlag_apart _ _ _ _ (by decide) (by decide) (.inl (by decide)),
    State.flag_setFlag_same _ _ _ (by decide) (by decide)]

theorem shutdownDone_bringUp (s : State) : s.shutdownDone.bringUp = s.bringUp := by
  rw [State.shutdownDone, State.bringUp_latch, State.bringUp_setFlag, State.bringUp_setFlag]

/-! ### The shutdown test -/

/-- The dies of a tier that wake change no register and leave the mode. -/
theorem wakeTier_of {β : Type} (f : State → β) (hf : ∀ (s : State) c g, f (s.modChan c g) = f s) (s : State) (t : Nat) :
    f (s.wakeTier t) = f s := by
  have hb (u : State) (c : Nat) (q : Nat → Bool) : f (u.handBack c q) = f u := by
    unfold State.handBack
    refine (hf _ c _).trans ?_
    exact Laws.foldl_canon (p := fun v => f v = f u) rfl fun v b hv => (hf v c _).trans hv
  exact Laws.foldl_canon (p := fun v => f v = f s) rfl fun v j hv => (hb v _ _).trans hv

/-- Without a manager tier `t` needs no permit (R433). -/
theorem nextTier_unmanaged {s : State} {t : Nat} (h : (s.setFld F.CAL_TST_STS_TIER t).hasManager = false) :
    s.nextTier t = ((s.setFld F.CAL_TST_STS_TIER t).setFlag F.CAL_TST_STS_PERMIT_WAIT false).wakeTier t :=
  if_neg (by simp [h])

/-- Whether the package has a manager is read off CWY_STS. -/
theorem hasManager_of_reg {s t : State} (h : s.reg (adr .CWY_STS) = t.reg (adr .CWY_STS)) : s.hasManager = t.hasManager := by
  have hr : s.fld F.CWY_STS_ROLE = t.fld F.CWY_STS_ROLE := State.fld_of_reg h
  have hm : s.fld F.CWY_STS_MANAGER = t.fld F.CWY_STS_MANAGER := State.fld_of_reg h
  simp only [State.hasManager, State.isManager, State.flag, hr, hm]

/-- The record area of the test cleared (R436). -/
def State.noTests (s : State) : State := { s with mram := { s.mram with tests := [] } }

theorem reg_noTests (s : State) (a : Nat) : s.noTests.reg a = s.reg a := rfl
theorem mode_noTests (s : State) : s.noTests.mode = s.mode := rfl

/-- The test's registers and its record area cleared, the test running (R436). -/
def State.testCleared (s : State) : State :=
  (((s.setReg (adr .CAL_TST_STS) 0).setReg (adr .CAL_TST_CNT) 0).setFlag F.CAL_TST_STS_RUNNING true).noTests

theorem reg_testCleared (s : State) {a : Nat} (h1 : a ≠ adr .CAL_TST_STS) (h2 : a ≠ adr .CAL_TST_CNT) :
    s.testCleared.reg a = s.reg a := by
  rw [State.testCleared, reg_noTests, State.reg_setFlag_ne _ _ _ h1, State.reg_setReg_ne _ _ h2, State.reg_setReg_ne _ _ h1]

theorem flag_testCleared_running (s : State) : s.testCleared.flag F.CAL_TST_STS_RUNNING = true := by
  rw [State.testCleared, State.flag, State.fld_of_reg (reg_noTests _ _), ← State.flag]
  exact State.flag_setFlag_same _ _ _ (by decide) (by decide)

theorem mode_testCleared (s : State) : s.testCleared.mode = s.mode := by
  rw [State.testCleared, mode_noTests, State.mode_setFlag, State.mode_setReg, State.mode_setReg]

theorem startTest_unmanaged {s : State} (h : s.hasManager = false) :
    s.startTest = ((s.testCleared.setFld F.CAL_TST_STS_TIER 0).setFlag F.CAL_TST_STS_PERMIT_WAIT false).wakeTier 0 := by
  have hm : (s.testCleared.setFld F.CAL_TST_STS_TIER 0).hasManager = s.hasManager := hasManager_of_reg (by
    rw [State.reg_setFld_ne _ _ _ (by decide), reg_testCleared s (by decide) (by decide)])
  exact nextTier_unmanaged (hm.trans h)

theorem startTest_mode {s : State} (h : s.hasManager = false) : s.startTest.mode = s.mode := by
  rw [startTest_unmanaged h, wakeTier_of State.mode fun _ _ _ => rfl, State.mode_setFlag, State.mode_setFld, mode_testCleared]

/-- RUNNING reads 1 as the test starts. -/
theorem startTest_running {s : State} (h : s.hasManager = false) : s.startTest.flag F.CAL_TST_STS_RUNNING = true := by
  rw [startTest_unmanaged h, wakeTier_of (·.flag F.CAL_TST_STS_RUNNING) fun _ _ _ => rfl,
    State.flag_setFlag_apart _ _ _ _ (by decide) (by decide) (.inr (.inr (by decide))), State.flag,
    State.fld_setFld_apart _ _ _ _ (by decide) (by decide) (.inr (.inr (by decide))), ← State.flag]
  exact flag_testCleared_running s

/-- The test starts with tier 0. -/
theorem startTest_tier {s : State} (h : s.hasManager = false) : s.startTest.fld F.CAL_TST_STS_TIER = 0 := by
  rw [startTest_unmanaged h, wakeTier_of (·.fld F.CAL_TST_STS_TIER) fun _ _ _ => rfl, State.setFlag,
    State.fld_setFld_apart _ _ _ _ (by decide) (by decide) (.inr (.inr (by decide))),
    State.fld_setFld_same _ _ _ (by decide) (by decide)]
  exact Nat.zero_mod _

end Sys2Proof.Machine

namespace Sys2Proof
open Machine

/-- Settles O16: an accepted request is the change of its mode, from which the mode and the fields named are read off; a
refused one is turned away. -/
theorem modeRequestsChangeTheMode : Obligations.ModeRequestsChangeTheMode := by
  unfold Obligations.ModeRequestsChangeTheMode
  refine ⟨?_, ?_, ?_, ?_, ?_, ?_, ?_, ?_, ?_, ?_, ?_, ?_, ?_, ?_, ?_, ?_, ?_⟩
  · exact fun p s hg h => modeRequest_taken 1 Given.plain hg h (by decide) nofun (modeChange_selfRefresh s _)
  · exact fun p x s hg h hx => modeRequest_taken 2 Given.plain hg h (by decide) nofun (modeChange_deep hx _)
  · exact fun p e s hg h hm => modeRequest_taken 3 ⟨e, _⟩ hg h (by decide) nofun (modeChange_ofSelfRefresh hm e)
  · exact fun p e s hg h hm => modeRequest_taken 3 ⟨e, _⟩ hg h (by decide) nofun (modeChange_ofDeep hm e)
  · exact fun p e s hg h hm => modeRequest_taken 3 ⟨e, _⟩ hg h (by decide) nofun (modeChange_ofSafe hm e)
  · exact fun p s hg h => modeRequest_taken 4 Given.plain hg h (by decide) nofun (modeChange_shutdown s _)
  · exact fun p s hg h => modeRequest_taken 5 Given.plain hg h (by decide) nofun (modeChange_shutdownTest s _)
  · intro p s hg h
    have hm : (s.enterSelfRefresh.latch F.POLL_SUMMARY_DONE).mode = .selfRefresh := enterSelfRefresh_mode s
    have hb : (s.enterSelfRefresh.latch F.POLL_SUMMARY_DONE).mode ≠ .bringUp := by rw [hm]; decide
    refine ⟨_, modeRequest_taken 1 Given.plain hg h (by decide) nofun (modeChange_selfRefresh s _), ?_, ?_⟩
    · exact (commit_answered_mode hb).trans hm
    · exact (commit_answered_of State.ownSelf (fun _ _ _ _ _ _ _ => rfl) hb).trans (enterSelfRefresh_ownSelf s)
  · intro p s hg h
    obtain ⟨x, hx⟩ := context_of_reqOk_deep h
    have hm : ((s.enterDeep x).latch F.POLL_SUMMARY_DONE).mode = .deepRetention := enterDeep_mode s x
    have hb : ((s.enterDeep x).latch F.POLL_SUMMARY_DONE).mode ≠ .bringUp := by rw [hm]; decide
    refine ⟨_, modeRequest_taken 2 Given.plain hg h (by decide) nofun (modeChange_deep hx _), ?_, ?_, ?_, ?_⟩
    · exact (commit_answered_mode hb).trans hm
    · exact (commit_answered_of State.shadows (fun _ _ _ _ _ _ _ => rfl) hb).trans (enterDeep_shadows s x)
    · exact (commit_answered_of State.straits (fun _ _ _ _ _ _ _ => rfl) hb).trans (enterDeep_straits s x)
    · exact (commit_answered_of State.calRun (fun _ _ _ _ _ _ _ => rfl) hb).trans (enterDeep_calRun s x)
  · intro p e s hg h hd
    obtain ⟨u, hu⟩ := modeChange_active_exitDone h hd e
    have hb : u.exitDone.mode ≠ .bringUp := by rcases exitDone_mode u with hm | hm <;> simp [hm]
    refine ⟨_, modeRequest_taken 3 ⟨e, _⟩ hg h (by decide) nofun hu, ?_, ?_⟩
    · rw [commit_answered_mode hb]
      exact exitDone_mode u
    · exact (commit_answered_of State.retained (fun _ _ _ _ _ _ _ => rfl) hb).trans (exitDone_retained u)
  · intro p s hg h hb
    refine ⟨_, modeRequest_taken 4 Given.plain hg h (by decide) nofun (modeChange_shutdown s _), ?_⟩
    have hn : ¬ CommitWrites F.GLB_MODE_STS_SHUTDOWN_DONE.addr :=
      not_commitWrites (by decide) (by decide) (by decide) (.inl (by decide)) (by decide)
    have hc := State.bringCheck_of_none ((answered_bringUp s p (adr .GLB_MODE) 0x40000000#32 _).trans
      ((shutdownDone_bringUp _).trans hb))
    exact (commit_answered_flag hn hc).trans (shutdownDone_flag _)
  · intro p s u hg h hu hm
    have ht : u.startTest.mode = .shutdownTest := (startTest_mode hm).trans (hu ▸ rfl)
    have hb : u.startTest.mode ≠ .bringUp := by rw [ht]; decide
    have hc : (s.answered p (adr .GLB_MODE) 0x50000000#32 u.startTest).bringCheck = _ :=
      State.bringCheck_of_mode (by rwa [answered_mode])
    have hn : ¬ CommitWrites (adr .CAL_TST_STS) :=
      not_commitWrites (by decide) (by decide) (by decide) (.inl (by decide)) (by decide)
    refine ⟨_, modeRequest_taken 5 Given.plain hg h (by decide) nofun (hu ▸ modeChange_shutdownTest s _), ?_, ?_, ?_⟩
    · exact (commit_answered_mode hb).trans ht
    · exact (commit_answered_flag hn hc).trans (startTest_running hm)
    · exact (commit_answered_fld hn hc).trans (startTest_tier hm)
  · exact fun p s hg h => modeRequest_refused 1 Given.plain hg h (by decide) nofun
  · exact fun p s hg h => modeRequest_refused 2 Given.plain hg h (by decide) nofun
  · exact fun p e s hg h => modeRequest_refused 3 ⟨e, Given.plain.image⟩ hg h (by decide) nofun
  · exact fun p s hg h => modeRequest_refused 4 Given.plain hg h (by decide) nofun
  · exact fun p s hg h => modeRequest_refused 5 Given.plain hg h (by decide) nofun

end Sys2Proof
end

