-- ==== Sys2Proof/Proofs/Refresh.lean ====
section
/-!
PROOFS. Refresh of the banks: the tick of a channel, the close of a bank, the issue and the end of a refresh, the laps, and
the frequency point of the next exit.
-/
namespace Sys2Proof.Machine

/-! ### The tick -/

section Tick
variable {s : State} {c : Nat}

/-- The moment of the channel's next tick, noted as such (R373). -/
def State.atTick (s : State) (c : Nat) : State :=
  let t := s.advanceTo ((s.chan c).refresh.tickAt + tREFI (s.fld (F.REF_STS_BAND c)))
  t.modChan c fun x => { x with refresh := { x.refresh with tickAt := t.now } }

theorem fld_atTick (s : State) (c : Nat) (f : Fld) : (s.atTick c).fld f = s.fld f := s.fld_advanceTo _ f
theorem flag_atTick (s : State) (c : Nat) (f : Fld) : (s.atTick c).flag f = s.flag f := s.flag_advanceTo _ f

theorem refreshTick_stopped (h : s.timerRuns c = false) : s.refreshTick c = s := if_pos (by simp [h])

theorem refreshTick_running (h : s.timerRuns c = true) :
    s.refreshTick c = (if s.flag (F.GLB_ISL_STS_IN_RESET c) then
      (s.atTick c).modChan c fun x => { x with refresh := { x.refresh with owed := x.refresh.owed + 1 } }
      else (s.atTick c).tickNow c) := by
  rw [← flag_atTick s c]
  exact if_neg (by simp [h])

/-- The shadows of the channel applied at a tick, unless its island is FORCED_OFF (R51, R77). -/
def State.tickShadows (s : State) (c : Nat) : State :=
  if s.fld (F.GLB_ISL_CTL_GATE c) = 2 then s.atTick c else (s.atTick c).applyShadows (domChan c)

/-- The band and the temperature of channel `c` brought up to date (R376, R377). -/
def State.bandSet (s : State) (c : Nat) : State :=
  (s.setFld (F.REF_STS_BAND c) (s.nextBand c)).setFld (F.REF_STS_TEMP c) (s.chanTemp c / 4)

/-- Four banks come due where they are refreshed (R373). -/
def State.banksDue (v : State) (c : Nat) : State :=
  v.modChan c fun x => { x with refresh := { x.refresh with
    tick := x.refresh.tick + 1
    due := x.refresh.due ++ (((List.range 4).map fun l => 32 * l + x.refresh.tick % 32).filter
      fun b => !x.closing b && v.refreshes c b).map fun b => (b, []) } }.noteSats (v.fld (F.REF_CFG_TRK_THRESH c))

theorem tickNow_atTick (s : State) (c : Nat) : (s.atTick c).tickNow c = ((s.tickShadows c).bandSet c).banksDue c := by
  rw [State.tickShadows, ← fld_atTick s c]
  rfl

end Tick

/-! ### The close of a bank -/

section Close
variable {x : Chan} {b : Nat}

theorem mem_toClose {i : Nat} {once : List Nat} {stay : Bool} :
    i ∈ x.toClose b once stay ↔ i < 64 ∧ (x.slot i).state = .dirty ∧ (x.slot i).bank = b ∧ x.kept i = stay ∧
      (stay = true → i ∉ once) := by
  simp only [Chan.toClose, below, List.mem_filter, List.mem_range, Bool.and_eq_true, beq_iff_eq, Bool.not_eq_true',
    Bool.and_eq_false_imp, List.contains_eq_mem, decide_eq_false_iff_not, and_assoc]

/-- A close is done when nothing is left to write back and no slot of the bank is in motion (R242). -/
theorem closeDone_iff : x.closeDone b = true ↔
    (∃ e ∈ x.refresh.due, e.1 = b ∧ x.toClose b e.2 true = []) ∧ x.toClose b [] false = [] ∧
      ∀ i < 64, (x.slot i).bank = b →
        (x.slot i).state ≠ .filling ∧ (x.slot i).state ≠ .cleaning ∧ (x.slot i).state ≠ .evicting := by
  simp only [Chan.closeDone, Bool.and_eq_true, List.any_eq_true, List.all_eq_true, List.mem_range, List.isEmpty_iff,
    beq_iff_eq, Bool.or_eq_true, bne_iff_ne, ne_eq, and_assoc]
  refine and_congr_right' (and_congr_right' (forall₂_congr fun i _ => ?_))
  rw [← Decidable.imp_iff_not_or]
  refine imp_congr_right fun _ => ?_
  cases (x.slot i).state <;> simp

end Close

/-! ### The issue and the end of a refresh -/

section Issue
variable {s : State} {c b : Nat}

theorem refreshIssue_closed (hm : s.mode ≠ .fatal) (hr : s.refreshes c b = true) (hd : (s.chan c).closeDone b = true)
    (hb : s.bankBusy c b = false) : s.refreshIssue c b = s.refreshBegin c b fun x => x.closeClean b :=
  (if_neg hm).trans (if_pos (by simp [State.refreshDue, hr, hd, hb]))

theorem refreshBegin_closing (s : State) (c b : Nat) :
    (s.refreshBegin c b fun x => x.closeClean b) =
      ((s.chargeRefresh c (b / 32)).countCh c 10).modChan c fun x => { x.closeClean b with
        refresh := { (x.closeClean b).refresh with
          due := (x.closeClean b).refresh.due.filter (fun e => e.1 != b)
          busy := b :: (x.closeClean b).refresh.busy } } := by
  unfold State.refreshBegin
  dsimp only

theorem refreshIssue_fatal (hm : s.mode = .fatal) (hr : s.refreshes c b = true)
    (hd : ((s.chan c).refresh.due.any fun e => e.1 == b) = true) (hb : b ∉ (s.chan c).refresh.busy) :
    s.refreshIssue c b = s.refreshBegin c b id :=
  (if_pos hm).trans (if_pos (by simp only [hr, hd, List.contains_eq_mem, hb, decide_false, Bool.not_false, Bool.and_self]))

theorem refreshIssue_refused (h : s.refreshes c b = false ∨
    s.mode ≠ .fatal ∧ ((s.chan c).closeDone b = false ∨ s.bankBusy c b = true)) : s.refreshIssue c b = s := by
  unfold State.refreshIssue
  obtain hr | ⟨hm, hc⟩ := h
  · simp only [State.refreshDue, hr, Bool.false_and, Bool.false_eq_true, if_false, ite_self]
  · rw [if_neg hm]
    exact if_neg (by rcases hc with hc | hc <;> simp [State.refreshDue, hc])

theorem refreshEnd_busy (h : b ∈ (s.chan c).refresh.busy) :
    s.refreshEnd c b = ((s.lapStep c b).modChan c fun x =>
      { x with refresh := { x.refresh with busy := x.refresh.busy.filter (· != b) } }).afterClose c b :=
  if_pos (by simpa using h)

end Issue

/-! ### Laps -/

section Laps
variable {s : State} {b : Nat}

theorem lapPos_lapMove (x : Chan) (b : Nat) : (x.lapMove b).lapPos b = (x.lapPos b + 1) % 448 := Store.get_set_same _ _ _ _

theorem lapPos_clearTracker (s : State) (c : Fin 32) (b k : Nat) :
    ((s.clearTracker c b).chan c).lapPos k = (s.chan c).lapPos k := by
  rw [State.clearTracker, State.chan_modChan_same]
  rfl

theorem trackers_clearTracker (s : State) (c : Fin 32) (b : Nat) :
    ((s.clearTracker c b).chan c).refresh.trackers.get (fun _ => []) b = [] := by
  rw [State.clearTracker, State.chan_modChan_same]
  simp only [Store.get_set_same]

/-- The end of a refresh moves the bank's lap on. -/
theorem lapPos_lapStep (s : State) (c : Fin 32) (b : Nat) :
    ((s.lapStep c b).chan c).lapPos b = ((s.chan c).lapPos b + 1) % 448 := by
  rw [← lapPos_lapMove, ← s.chan_modChan_same c fun x => x.lapMove b]
  unfold State.lapStep
  dsimp only
  split
  · exact lapPos_clearTracker _ c b b
  · rfl

/-- A lap that wraps empties the bank's tracker (R379). -/
theorem trackers_lapStep_wrap (s : State) (c : Fin 32) (b : Nat) (h : ((s.chan c).lapPos b + 1) % 448 = 0) :
    ((s.lapStep c b).chan c).refresh.trackers.get (fun _ => []) b = [] := by
  have hw : ((s.modChan c fun x => x.lapMove b).chan c).lapPos b = 0 := by
    rw [s.chan_modChan_same, lapPos_lapMove, h]
  rw [State.lapStep, if_pos hw]
  exact trackers_clearTracker _ c b

/-- A powered die in self-refresh moves the lap of its bank on, and notes its wrap once for the exit (R383, R384). -/
theorem dieSelfRefresh_asleep {d c k : Nat} (hc : c = 8 * (d / 4) + b / 32) (hk : k = 32 * (d % 4) + b % 32)
    (ha : s.dieAsleep d = true) (hg : s.dieGood d = true) (hr : (s.chan c).st ≠ .retired) :
    s.dieSelfRefresh d b = s.modChan c fun x =>
      if (x.lapMove k).lapPos k = 0 ∧ k ∉ x.refresh.wrapped then
        { x.lapMove k with refresh := { (x.lapMove k).refresh with wrapped := k :: x.refresh.wrapped } }
      else x.lapMove k := by
  subst hc hk
  refine (if_pos (by simp [ha, hg, hr])).trans ?_
  simp only [List.contains_eq_mem, Bool.not_eq_true', decide_eq_false_iff_not]
  rfl

theorem dieSelfRefresh_none {d : Nat} (h : s.dieAsleep d = false ∨ s.dieGood d = false ∨
    (s.chan (8 * (d / 4) + b / 32)).st = .retired) : s.dieSelfRefresh d b = s :=
  if_neg (by rcases h with h | h | h <;> simp [h])

end Laps

/-! ### The frequency point of the next exit -/

section Point
variable {s : State}

/-- Every tier in use has a valid record of frequency point `n` (R387). -/
def State.PointHeld (s : State) (n : Nat) : Prop :=
  ∀ t, t < 4 → s.flag (F.CAL_REC_VALID (2 * t + n)) = true ∨
    ∀ j, j < 8 → (s.chan (8 * t + j)).st = .offline ∨ (s.chan (8 * t + j)).st = .retired

theorem pointHeld_iff (s : State) (n : Nat) : ((List.range 4).all fun t =>
    s.flag (F.CAL_REC_VALID (2 * t + n)) || (List.range 8).all fun j =>
      (s.chan (8 * t + j)).st == .offline || (s.chan (8 * t + j)).st == .retired) = true ↔ s.PointHeld n := by
  simp only [State.PointHeld, List.all_eq_true, List.mem_range, Bool.or_eq_true, beq_iff_eq]

theorem wFpointNext_taken {p : PathNum} {w : Word}
    (h : b2n (bitOf w.toNat 8) = s.fld F.GLB_MODE_FPOINT ∨ s.PointHeld (b2n (bitOf w.toNat 8))) :
    s.wFpointNext p w = done (s.plainWrite p .GLB_FPOINT_NEXT 0 0 w) := if_pos (h.imp id (pointHeld_iff s _).mpr)

theorem wFpointNext_refused {p : PathNum} {w : Word} (hn : b2n (bitOf w.toNat 8) ≠ s.fld F.GLB_MODE_FPOINT)
    (h : ¬ s.PointHeld (b2n (bitOf w.toNat 8))) : s.wFpointNext p w = ignored s :=
  if_neg (not_or.mpr ⟨hn, fun h' => h ((pointHeld_iff s _).mp h')⟩)

/-- A channel in use of a tier without a record shuts the point out. -/
theorem not_pointHeld {n t j : Nat} (ht : t < 4) (hv : s.flag (F.CAL_REC_VALID (2 * t + n)) = false) (hj : j < 8)
    (ho : (s.chan (8 * t + j)).st ≠ .offline) (hr : (s.chan (8 * t + j)).st ≠ .retired) : ¬ s.PointHeld n := fun h => by
  obtain hf | hs := h t ht
  · simp [hv] at hf
  · exact (hs j hj).elim ho hr

end Point

end Sys2Proof.Machine

namespace Sys2Proof
open Machine

/-- Settles O50: each command is one operation of refresh, by its case, and the laws of the close and of the lap. -/
theorem banksAreRefreshed : Obligations.BanksAreRefreshed := by
  unfold Obligations.BanksAreRefreshed
  refine ⟨?_, ?_, ?_, ?_, ?_, ?_, ?_, ?_, ?_, ?_, ?_, ?_, ?_, ?_⟩
  · rintro c s t u v hr hi rfl rfl rfl
    exact finished_eq (by rw [refreshTick_running hr, hi]; exact tickNow_atTick s c)
  · rintro c s t u hr hi rfl rfl
    exact finished_eq (by rw [refreshTick_running hr, hi]; rfl)
  · exact fun c s hr => finished_eq (refreshTick_stopped hr)
  · exact fun c b s hm hr hd hb => finished_eq ((refreshIssue_closed hm hr hd hb).trans (refreshBegin_closing s c b))
  · exact fun c b s hm hr hd hb => finished_eq (refreshIssue_fatal hm hr hd hb)
  · exact fun c b s h => finished_eq (refreshIssue_refused h)
  · exact fun x b => closeDone_iff
  · exact fun x b i once stay => mem_toClose
  · exact fun c b s hb => finished_eq (refreshEnd_busy hb)
  · exact fun s c b => ⟨lapPos_lapStep s c b, trackers_lapStep_wrap s c b⟩
  · exact fun d b s c k hc hk ha hg hr => finished_eq (dieSelfRefresh_asleep hc hk ha hg hr)
  · exact fun d b s h => finished_eq (dieSelfRefresh_none h)
  · exact fun p w s hg h => finished_eq (s.writeOn_done p .GLB_FPOINT_NEXT 0 0 w _ hg (wFpointNext_taken h))
  · exact fun p w s t j hg hn ht hv hj ho hr => finished_eq
      (s.writeOn_ignored p .GLB_FPOINT_NEXT 0 0 w hg (wFpointNext_refused hn (not_pointHeld ht hv hj ho hr)))

end Sys2Proof
end

