-- ==== Sys2Proof/Proofs/ResetAndBringUp.lean ====
section
/-!
PROOFS. The entry into RESET and what lasts through it; BRING-UP: its start, the steps that hang, that run over their time,
and its end.
-/
namespace Sys2Proof.Machine

/-! ### RESET -/

theorem mod_reset (m : Nat) : State.reset.mod m = Mod.reset := by
  rw [State.mod, State.reset, Vector.getElem?_replicate]
  split <;> rfl

/-- A key that is not kept reads as unlisted. -/
theorem get_keepParts_of_lost (s : State) (keep : Nat → Bool) (part : Nat → Word → Word) {a : Nat}
    (h : keep a = false) :
    Store.get (regReset s.part) (s.keepParts keep part) a = regReset s.part a := by
  have hne : ∀ e ∈ s.regs.filter fun e => keep e.1, a ≠ e.1 := by
    rintro e he rfl
    simp [h] at he
  unfold State.keepParts
  generalize s.regs.filter (fun e => keep e.1) = l at hne
  suffices ∀ m : Store Word, (l.foldl (fun m e => m.set (regReset s.part) e.1 (part e.1 e.2)) m).get (regReset s.part) a =
      m.get (regReset s.part) a from this []
  induction l with
  | nil => exact fun _ => rfl
  | cons e l ih =>
    intro m
    rw [List.foldl_cons, ih fun x hx => hne x (List.mem_cons_of_mem _ hx),
      Store.get_set_ne _ _ _ (hne e List.mem_cons_self)]

/-- The end of a session is noted in MRAM beside the ledger and the calibration store. -/
theorem dropSession_mram (s : State) :
    s.dropSession.mram.ledger = s.mram.ledger ∧ s.dropSession.mram.cal = s.mram.cal := by
  unfold State.dropSession
  split <;> exact ⟨rfl, rfl⟩

theorem enterReset_chan (s : State) (c : Nat) : s.enterReset.chan c = Chan.reset := chan_reset c
theorem enterReset_mod (s : State) (m : Nat) : s.enterReset.mod m = Mod.reset := mod_reset m

/-- A register of which MRAM holds nothing is at its reset value. -/
theorem enterReset_reg (s : State) {a : Nat} (h : inMram a = false) : s.enterReset.reg a = regReset s.part a :=
  get_keepParts_of_lost s inMram mramPart h

/-! ### The start of BRING-UP -/

section Start
variable {s : State} {e : BringUpEnv}

theorem reg_diesGood (s : State) {a : Nat} (h : a ≠ adr .PWR_DIE_PGOOD) : s.diesGood.reg a = s.reg a := by
  rw [State.diesGood, State.reg_setFld_ne _ _ _ h, State.reg_setFld_ne _ _ _ h]

/-- Every die reports both its rails good. -/
theorem fld_diesGood (s : State) :
    s.diesGood.fld F.PWR_DIE_PGOOD_ARR_OK = 0xFFFF ∧ s.diesGood.fld F.PWR_DIE_PGOOD_VPP_OK = 0xFFFF := by
  refine ⟨?_, ?_⟩
  · rw [State.diesGood, State.fld_setFld_apart _ F.PWR_DIE_PGOOD_VPP_OK _ _ (by decide) (by decide) (by decide),
      State.fld_setFld_same _ _ _ (by decide) (by decide)]
    rfl
  · rw [State.diesGood, State.fld_setFld_same _ _ _ (by decide) (by decide)]
    rfl

theorem pins_diesGood (s : State) : s.diesGood.pins = s.pins := by
  rw [State.diesGood, State.pins_setFld, State.pins_setFld]

theorem reg_beginBringUp (s : State) (e : BringUpEnv) (n a : Nat) : (s.beginBringUp e n).reg a = s.reg a := rfl
theorem pins_beginBringUp (s : State) (e : BringUpEnv) (n : Nat) : (s.beginBringUp e n).pins = s.pins := rfl

/-- The always-on island out of reset and locked. -/
def State.alwaysOn (s : State) : State := (s.release [52]).setFlag (F.GLB_ISL_STS_LOCKED 52) true

theorem pins_alwaysOn (s : State) : s.alwaysOn.pins = s.pins := rfl
theorem reg_alwaysOn (s : State) {a : Nat} (h : a ≠ adr .GLB_ISL_STS 0 52) : s.alwaysOn.reg a = s.reg a :=
  (State.reg_setFlag_ne _ (F.GLB_ISL_STS_LOCKED 52) _ h).trans (State.reg_setFlag_ne _ (F.GLB_ISL_STS_IN_RESET 52) _ h)

theorem outOfReset_mode (s : State) (e : BringUpEnv) : (s.outOfReset e).mode = .bringUp := rfl
theorem outOfReset_now (s : State) (e : BringUpEnv) : (s.outOfReset e).now = 0 := rfl
theorem outOfReset_timeBase (s : State) (e : BringUpEnv) : (s.outOfReset e).timeBase = 0 := rfl
theorem outOfReset_eq (s : State) (e : BringUpEnv) :
    s.outOfReset e = s.alwaysOn.diesGood.beginBringUp e (s.fld F.LC_TRN_OVR_MIN_EYE) := rfl

theorem outOfReset_pins (s : State) (e : BringUpEnv) : (s.outOfReset e).pins = s.pins := by
  rw [outOfReset_eq, pins_beginBringUp, pins_diesGood, pins_alwaysOn]

theorem outOfReset_locked (s : State) (e : BringUpEnv) : (s.outOfReset e).flag (F.GLB_ISL_STS_LOCKED 52) = true := by
  rw [outOfReset_eq, State.flag, State.fld_of_reg (reg_beginBringUp _ _ _ _), State.fld_of_reg (reg_diesGood _ (by decide)),
    ← State.flag]
  exact State.flag_setFlag_same _ _ _ (by decide) (by decide)

theorem outOfReset_dies (s : State) (e : BringUpEnv) :
    (s.outOfReset e).fld F.PWR_DIE_PGOOD_ARR_OK = 0xFFFF ∧ (s.outOfReset e).fld F.PWR_DIE_PGOOD_VPP_OK = 0xFFFF := by
  rw [outOfReset_eq, State.fld_of_reg (reg_beginBringUp _ _ _ _), State.fld_of_reg (reg_beginBringUp _ _ _ _)]
  exact fld_diesGood _

/-- FORCE_FULL is taken as it read before (R492). -/
theorem outOfReset_bringUp (s : State) (e : BringUpEnv) :
    (s.outOfReset e).bringUp = some ⟨e, 0, 1, 0, s.flag F.LC_TRN_OVR_FORCE_FULL⟩ := by
  have hf : s.alwaysOn.diesGood.flag F.LC_TRN_OVR_FORCE_FULL = s.flag F.LC_TRN_OVR_FORCE_FULL := by
    rw [State.flag, State.fld_of_reg (reg_diesGood _ (by decide)), State.fld_of_reg (reg_alwaysOn s (by decide)),
      ← State.flag]
  rw [outOfReset_eq, State.beginBringUp, hf]

/-- The state as RST_N has risen. -/
def State.risen (s : State) : State := { s with pins := { s.pins with rstN := true } }

theorem risen_pins (s : State) : s.risen.pins = { s.pins with rstN := true } := rfl

theorem rstNRise_clocked (hm : s.mode = .reset) (hp : s.pins.pwrok = true) (hc : s.pins.refclk = true) :
    s.rstNRise e = (s.risen.outOfReset e).bringRun e bringOrder :=
  (if_pos ⟨hm, hp⟩).trans (by rw [if_pos hc]; rfl)

theorem rstNRise_free (hm : s.mode = .reset) (hp : s.pins.pwrok = true) (hc : s.pins.refclk = false) :
    s.rstNRise e = (s.risen.outOfReset e).freeRun.bringRun e bringOrder :=
  (if_pos ⟨hm, hp⟩).trans (by rw [if_neg (by simp [hc])]; rfl)

theorem rstNRise_unpowered (hp : s.pins.pwrok = false) : s.rstNRise e = s.risen := if_neg fun h => by simp [hp] at h

/-! ### The steps -/

theorem bringAt_mode (s : State) (k : Nat) : (s.bringAt k).mode = s.mode := rfl
theorem bringAt_now (s : State) (k : Nat) : (s.bringAt k).now = s.now := rfl
theorem bringAt_timeBase (s : State) (k : Nat) : (s.bringAt k).timeBase = s.timeBase := rfl
theorem bringAt_pins (s : State) (k : Nat) : (s.bringAt k).pins = s.pins := rfl
theorem fld_bringAt (s : State) (k : Nat) (f : Fld) : (s.bringAt k).fld f = s.fld f := rfl
theorem flag_bringAt (s : State) (k : Nat) (f : Fld) : (s.bringAt k).flag f = s.flag f := rfl

theorem bringAt_bringUp {b : BringUp} (hb : s.bringUp = some b) (k : Nat) :
    (s.bringAt k).bringUp = some { b with waiting := k } := by
  rw [State.bringAt, hb]
  rfl

/-- BRING-UP waits at a step that hangs. -/
theorem bringRun_stalled {k : Nat} {rest : List Nat} (hm : s.mode = .bringUp) (h : e.stallAt.map (·.val) = some k)
    (h8 : k ≠ 8) : s.bringRun e (k :: rest) = s.bringAt k := by
  rw [State.bringRun, if_neg (by simp [hm]), if_pos ⟨h, h8⟩]

/-- A step that does not hang runs, and the others after it. -/
theorem bringRun_runs {k : Nat} {rest : List Nat} (hm : s.mode = .bringUp) (h : e.stallAt.map (·.val) ≠ some k) :
    s.bringRun e (k :: rest) = ((s.bringAt k).bringStep e k).bringRun e rest := by
  rw [State.bringRun, if_neg (by simp [hm]), if_neg fun hs => h hs.1]

/-- The straps taken as they read (R110). -/
def State.strapped (s : State) (e : BringUpEnv) : State :=
  { s with pins := { s.pins with stackId := e.stackId.toNat, mgrEn := e.mgrEn, mgrCapable := e.mgrCapable } }

/-- Straps that agree are latched. -/
theorem bring1_agree (h : e.strapsAgree = true) : s.bring1 e = s.strapped e := by
  unfold State.bring1 State.failWhen
  simp only [h, if_true, Bool.not_true, Bool.false_eq_true, if_false]
  rfl

theorem strapped_mode (s : State) (e : BringUpEnv) : (s.strapped e).mode = s.mode := rfl
theorem strapped_pins (s : State) (e : BringUpEnv) : (s.strapped e).pins =
    { s.pins with stackId := e.stackId.toNat, mgrEn := e.mgrEn, mgrCapable := e.mgrCapable } := rfl
theorem strapped_bringUp (s : State) (e : BringUpEnv) : (s.strapped e).bringUp = s.bringUp := rfl

/-- BRING-UP does not end at a step other than step 8. -/
theorem bringCheck_bringAt {k : Nat} (h8 : k ≠ 8) : (s.bringAt k).bringCheck = s.bringAt k := by
  unfold State.bringCheck State.bringAt
  cases s.bringUp with
  | none => rfl
  | some b => exact if_neg fun h => h8 h.1

/-- Step 8 settled for every module ends BRING-UP. -/
theorem bringCheck_settled {b : BringUp} (hb : s.bringUp = some b) (hw : b.waiting = 8) (hm : s.mode = .bringUp)
    (hs : s.modulesSettled = true) : s.bringCheck = s.bring12 b := by
  unfold State.bringCheck
  rw [hb]
  exact if_pos ⟨hw, hm, hs⟩

theorem bring12_bringUp (s : State) (b : BringUp) : (s.bring12 b).bringUp = none := rfl

theorem bring12_mode (s : State) (b : BringUp) : (s.bring12 b).mode = .active ∨ (s.bring12 b).mode = .safe := by
  unfold State.bring12
  dsimp only
  split
  · exact .inl rfl
  · exact .inr rfl

end Start

/-! ### The time of a step -/

section Timeout
variable {s : State} {b : BringUp} {k which : Nat}

theorem bringTimeout_step (hb : s.bringUp = some b) (hm : s.mode = .bringUp) (hw : b.waiting = k) (h8 : k ≠ 8) :
    s.bringTimeout k which =
      (({ s with bringUp := some { b with env := { b.env with stallAt := none } } } : State).bringFail
        { b.env with stallAt := none } k which).bringRun { b.env with stallAt := none }
          ((bringOrder.dropWhile (· != k)).drop 1) := by
  unfold State.bringTimeout
  rw [hb]
  exact (if_neg (by simp [hm, hw])).trans (if_neg h8)

/-- Of step 8 the modules named miss their deadline. -/
theorem bringTimeout_modules (hb : s.bringUp = some b) (hm : s.mode = .bringUp) (hw : b.waiting = 8) :
    s.bringTimeout 8 which =
      (s.each 12 fun m t => if bitOf which m then t.trainDeadline m else t).bringCheck := by
  unfold State.bringTimeout
  rw [hb]
  exact (if_neg (by simp [hm, hw])).trans (if_pos rfl)

end Timeout

/-! ### The rise of RST_N with a step that hangs -/

section Hangs
variable {e : BringUpEnv} {s : State}

/-- Step 1 hangs: BRING-UP waits there, the device out of RESET. -/
theorem rstNRise_of_strapStall (hm : s.mode = .reset) (hp : s.pins.pwrok = true) (hc : s.pins.refclk = true)
    (he : e.stallAt = some 1) : s.rstNRise e = (s.risen.outOfReset e).bringAt 1 :=
  (rstNRise_clocked hm hp hc).trans (bringRun_stalled rfl (by rw [he]; rfl) (by decide))

/-- Step 2 hangs: BRING-UP waits there, the straps latched. -/
theorem rstNRise_of_pllStall (hm : s.mode = .reset) (hp : s.pins.pwrok = true) (hc : s.pins.refclk = true)
    (he : e.stallAt = some 2) (ha : e.strapsAgree = true) :
    s.rstNRise e = (((s.risen.outOfReset e).bringAt 1).strapped e).bringAt 2 := by
  have h1 : e.stallAt.map (·.val) ≠ some 1 := by rw [he]; decide
  rw [rstNRise_clocked hm hp hc, bringOrder, bringRun_runs rfl h1, State.bringStep, bring1_agree ha]
  exact bringRun_stalled rfl (by rw [he]; rfl) (by decide)

end Hangs

end Sys2Proof.Machine

namespace Sys2Proof
open Machine

/-- Settles O2: RESET is the state before power-up with what it keeps, so the rest is read off that state. -/
theorem resetLeavesWhatLasts : Obligations.ResetLeavesWhatLasts := by
  unfold Obligations.ResetLeavesWhatLasts
  intro s t
  obtain ⟨hl, hc⟩ := dropSession_mram s
  refine ⟨rfl, rfl, rfl, rfl, rfl, rfl, rfl, rfl, rfl, hl, hc, fun c => ?_, fun m => enterReset_mod s m,
    fun a ha => enterReset_reg s ha⟩
  have h : t.chan c = Chan.reset := enterReset_chan s c
  rw [h]
  exact ⟨rfl, rfl, rfl, rfl, rfl⟩

/-- Settles O15: the rise of RST_N is the run of the steps from the state out of RESET, which stops at one that hangs; a
timeout is the failure of its step and the run of the rest, or at step 8 the check whether all modules are settled. -/
theorem bringUpRunsItsSteps : Obligations.BringUpRunsItsSteps := by
  unfold Obligations.BringUpRunsItsSteps
  refine ⟨?_, ?_, ?_, ?_, ?_, ?_, ?_⟩
  · intro e s u hm hp hu
    obtain rfl : u = s.risen.outOfReset e := hu
    refine ⟨outOfReset_mode _ e, outOfReset_timeBase _ e, ?_, fun hc => finished_eq (rstNRise_clocked hm hp hc),
      fun hc => finished_eq (rstNRise_free hm hp hc)⟩
    rw [outOfReset_pins, risen_pins]
  · intro e s hm hp hc he
    have hr := rstNRise_of_strapStall hm hp hc he
    have hb := bringAt_bringUp (outOfReset_bringUp s.risen e) 1
    have hk : ((s.risen.outOfReset e).bringAt 1).bringCheck = _ := bringCheck_bringAt (by decide)
    have hn : ¬ CommitWrites (adr .GLB_ISL_STS 0 52) :=
      not_commitWrites (by decide) (by decide) (by decide) (.inl (by decide)) (by decide)
    have hd : ¬ CommitWrites (adr .PWR_DIE_PGOOD) :=
      not_commitWrites (by decide) (by decide) (by decide) (.inl (by decide)) (by decide)
    obtain ⟨harr, hvpp⟩ := outOfReset_dies s.risen e
    refine ⟨_, finished_eq hr, ?_, ?_, ?_, ?_, (commit_bringUp_of _ _ hk).trans hb, ?_, ?_, ?_⟩
    · rw [commit_mode_of _ _ hk, bringAt_mode, outOfReset_mode]
    · rw [commit_pins_of _ _ hk, bringAt_pins, outOfReset_pins, risen_pins]
    · rw [commit_now_of _ _ hk, bringAt_now, outOfReset_now]
    · rw [commit_timeBase_of _ _ hk, bringAt_timeBase, outOfReset_timeBase]
    · rw [commit_flag_of _ _ hk _ hn, flag_bringAt]
      exact outOfReset_locked s.risen e
    · rw [commit_fld_of _ _ hk _ hd, fld_bringAt, harr]
    · rw [commit_fld_of _ _ hk _ hd, fld_bringAt, hvpp]
  · intro e s hm hp hc he ha
    have hr := rstNRise_of_pllStall hm hp hc he ha
    have hb := bringAt_bringUp ((strapped_bringUp _ e).trans (bringAt_bringUp (outOfReset_bringUp s.risen e) 1)) 2
    have hk : ((((s.risen.outOfReset e).bringAt 1).strapped e).bringAt 2).bringCheck = _ := bringCheck_bringAt (by decide)
    refine ⟨_, finished_eq hr, ?_, (commit_bringUp_of _ _ hk).trans hb, ?_⟩
    · rw [commit_mode_of _ _ hk, bringAt_mode, strapped_mode, bringAt_mode, outOfReset_mode]
    · rw [commit_pins_of _ _ hk, bringAt_pins, strapped_pins, bringAt_pins, outOfReset_pins, risen_pins]
  · exact fun e s hp => finished_eq (rstNRise_unpowered hp)
  · exact fun k which b s hb hm hw h8 => finished_eq (bringTimeout_step hb hm hw h8)
  · intro k which b s hb hm hw h8
    obtain rfl : k = 8 := Fin.ext h8
    exact finished_eq (bringTimeout_modules hb hm hw)
  · rintro which b s u hb hm hw hu hub hum hus
    have ht : s.bringTimeout 8 which.toNat = u.bring12 b := by
      rw [bringTimeout_modules hb hm hw, ← hu, bringCheck_settled hub hw hum hus]
    have hk := State.bringCheck_of_none (bring12_bringUp u b)
    refine ⟨_, finished_eq ht, ?_, commit_bringUp_of _ _ hk⟩
    rw [commit_mode_of _ _ hk]
    exact bring12_mode u b

end Sys2Proof
end

