-- ==== Sys2Proof/Proofs/ChannelRequests.lean ====
section
/-!
PROOFS. Requests of CH_STATE: what each changes where the table Channel transitions accepts it, and that a refused one
changes nothing; the end of a drain, of a held request and of a program that still pins a slot.
-/
namespace Sys2Proof.Machine

/-! ### The write of CH_STATE -/

/-- No request `r` of channel `c` is taken up: the device serves none, one of the channel runs, or SAFE does not know it
(R115, R117). -/
def State.chReqShut (s : State) (c r : Nat) : Prop :=
  (!s.serves) = true ∨ s.flag (F.CH_STATE_REQ_BUSY c) = true ∨ (s.mode = .safe ∧ r ≠ 1 ∧ r ≠ 2)

section Requests
variable {s : State} {c : Fin 32} {p : Path}

/-- DRAIN and RESUME are taken up in every mode that serves. -/
theorem not_chReqShut_of_serves {c r : Nat} (hs : s.serves = true) (hb : s.flag (F.CH_STATE_REQ_BUSY c) = false)
    (hr : r = 1 ∨ r = 2) : ¬ s.chReqShut c r := by
  rintro (h | h | ⟨-, h1, h2⟩)
  · simp [hs] at h
  · simp [hb] at h
  · exact hr.elim h1 h2

/-- Every request is taken up in ACTIVE. -/
theorem not_chReqShut_of_active {c : Nat} (hm : s.mode = .active) (hb : s.flag (F.CH_STATE_REQ_BUSY c) = false) (r : Nat) :
    ¬ s.chReqShut c r := by
  rintro (h | h | ⟨h, -⟩)
  · simp [State.serves, hm] at h
  · simp [hb] at h
  · simp [hm] at h

/-- Out of ACTIVE no request is taken up but DRAIN and RESUME. -/
theorem chReqShut_of_not_active {c r : Nat} (hm : s.mode ≠ .active) (h1 : r ≠ 1) (h2 : r ≠ 2) : s.chReqShut c r := by
  by_cases hs : s.mode = .safe
  · exact .inr (.inr ⟨hs, h1, h2⟩)
  · exact .inl (by simp [State.serves, hm, hs])

theorem wChState_shut {c r : Nat} {w : Word} (hr : bitsOf w.toNat 31 28 = r) (h0 : r ≠ 0) (h : s.chReqShut c r) :
    s.wChState c w = ignored s := by
  subst hr
  exact (if_neg h0).trans (if_pos h)

theorem wChState_drain (h : ¬ s.chReqShut c 1) :
    s.wChState c 0x10000000#32 = if (s.chan c).st = .online then done (s.chanDrain c 1) else ignored s := if_neg h

theorem wChState_resume (h : ¬ s.chReqShut c 2) :
    s.wChState c 0x20000000#32 = if (s.chan c).st = .quiesced ∨ (s.chan c).st = .draining then
      done ((s.chanOnline c 1).modChan c fun x => { x with vpt := { x.vpt with drift := false } }) else ignored s :=
  if_neg h

theorem wChState_retrain (h : ¬ s.chReqShut c 3) :
    s.wChState c 0x30000000#32 = if (s.chan c).st = .quiesced then done (s.runStart c 1 .retrain) else ignored s := if_neg h

theorem wChState_offline (h : ¬ s.chReqShut c 4) :
    s.wChState c 0x40000000#32 = if (s.chan c).st = .quiesced then done (s.chanOffline c 1) else ignored s := if_neg h

theorem wChState_recover (h : ¬ s.chReqShut c 5) :
    s.wChState c 0x50000000#32 = if (s.chan c).st = .offline ∧ s.recoverable c then done (s.recover c) else ignored s :=
  if_neg h

theorem wChState_retire (h : ¬ s.chReqShut c 6) :
    s.wChState c 0x60000000#32 =
      if ((s.chan c).st = .quiesced ∨ (s.chan c).st = .offline) ∧ s.ledgerTakes 5 (targetOf c 0 0 0) then
        done ((s.setFlag (F.CH_STATE_REQ_BUSY c) true).ledgerQueue ⟨5, 6, targetOf c 0 0 0, 0, .chRetire c⟩)
      else ignored s :=
  if_neg h

/-- An accepted request changes its channel and completes OK. -/
theorem chReq_taken {w : Word} {t : State} (hg : s.granted p .CH_STATE c 0 w = true) (h : s.wChState c w = done t) :
    finished s (s.writeOn p .CH_STATE c 0 w) = .next (commit s (s.answered p (adr .CH_STATE c) w t)) :=
  finished_eq (s.writeOn_done p .CH_STATE c 0 w t hg h)

/-- A refused request completes IGNORED. -/
theorem chReq_refused {w : Word} (hg : s.granted p .CH_STATE c 0 w = true) (h : s.wChState c w = ignored s) :
    finished s (s.writeOn p .CH_STATE c 0 w) = .next (commit s (s.turnedAway p (adr .CH_STATE c))) :=
  finished_eq (s.writeOn_ignored p .CH_STATE c 0 w hg h)

/-- A request that is not taken up, or whose condition on its channel fails, is refused. -/
theorem wChState_refused {c r : Nat} {w : Word} {P : Prop} [Decidable P] {x : Res}
    (hr : bitsOf w.toNat 31 28 = r) (h0 : r ≠ 0)
    (hx : ¬ s.chReqShut c r → s.wChState c w = if P then x else ignored s) (h : s.chReqShut c r ∨ ¬ P) :
    s.wChState c w = ignored s := by
  by_cases hs : s.chReqShut c r
  · exact wChState_shut hr h0 hs
  · exact (hx hs).trans (if_neg (h.resolve_left hs))

theorem drain_refused (h : s.serves = false ∨ s.flag (F.CH_STATE_REQ_BUSY c) = true ∨ (s.chan c).st ≠ .online) :
    s.wChState c 0x10000000#32 = ignored s := by
  refine wChState_refused (r := 1) (by decide) (by decide) wChState_drain ?_
  rcases h with h | h | h
  · exact .inl (.inl (by simp [h]))
  · exact .inl (.inr (.inl h))
  · exact .inr h

theorem offline_refused (h : s.mode ≠ .active ∨ s.flag (F.CH_STATE_REQ_BUSY c) = true ∨ (s.chan c).st ≠ .quiesced) :
    s.wChState c 0x40000000#32 = ignored s := by
  refine wChState_refused (r := 4) (by decide) (by decide) wChState_offline ?_
  rcases h with h | h | h
  · exact .inl (chReqShut_of_not_active h (by decide) (by decide))
  · exact .inl (.inr (.inl h))
  · exact .inr h

theorem recover_refused (h : s.mode ≠ .active ∨ s.flag (F.CH_STATE_REQ_BUSY c) = true ∨ (s.chan c).st ≠ .offline ∨
    s.recoverable c = false) : s.wChState c 0x50000000#32 = ignored s := by
  refine wChState_refused (r := 5) (by decide) (by decide) wChState_recover ?_
  rcases h with h | h | h | h
  · exact .inl (chReqShut_of_not_active h (by decide) (by decide))
  · exact .inl (.inr (.inl h))
  · exact .inr fun k => h k.1
  · exact .inr fun k => by simp [h] at k

end Requests

/-! ### The end of a drain -/

section Drain
variable {s : State}

/-- What the end of a drain makes of the channel: QUIESCED, every slot EMPTY (R115, R243). -/
def State.quiet (s : State) (c : Nat) : State :=
  (s.setChState c .quiesced (s.fld (F.CH_STATE_LAST_CAUSE c))).modChan c fun x => { x with slots := [] }

theorem drainComplete_drained {c : Nat} (hd : (s.chan c).st = .draining) (h : s.drained c = true) :
    s.drainComplete c = if (s.chan c).vpt.drift = true then (s.quiet c).runStart c 5 .drift else s.quiet c :=
  if_pos ⟨hd, h⟩

theorem heldTimeout_held {m tag since : Nat} {t : Txn} (hf : s.findTxn m tag = some t) (h : t.stage = .held since) :
    s.heldTimeout m tag = (s.advanceTo (since + 20000)).reply t (.ack .unavailable 0) := by
  simp only [State.heldTimeout, hf, h]

theorem drainPinAbort_busy {c t0 : Nat} (hd : (s.chan c).st = .draining) (ht : (s.chan c).drainAt = some t0)
    (hb : (s.chan c).eng.busy = true) : s.drainPinAbort c = (s.advanceTo (t0 + 50000)).abortProgram c 0x21 := by
  simp only [State.drainPinAbort, hd, ht, hb, if_true]

end Drain

end Sys2Proof.Machine

namespace Sys2Proof
open Machine

/-- Settles O17: a request that is taken up and finds its channel in the state it asks for is carried out, one that is not
is turned away; the states are those that the operations on a channel give. -/
theorem channelRequestsChangeTheState : Obligations.ChannelRequestsChangeTheState := by
  unfold Obligations.ChannelRequestsChangeTheState
  refine ⟨?_, ?_, ?_, ?_, ?_, ?_, ?_, ?_, ?_, ?_, ?_, ?_, ?_, ?_, ?_, ?_⟩
  · exact fun p c s hg hs hb hst =>
      chReq_taken hg ((wChState_drain (not_chReqShut_of_serves hs hb (.inl rfl))).trans (if_pos hst))
  · exact fun p c s hg hs hb hst =>
      chReq_taken hg ((wChState_resume (not_chReqShut_of_serves hs hb (.inr rfl))).trans (if_pos hst))
  · exact fun p c s hg hm hb hst =>
      chReq_taken hg ((wChState_retrain (not_chReqShut_of_active hm hb 3)).trans (if_pos hst))
  · exact fun p c s hg hm hb hst =>
      chReq_taken hg ((wChState_offline (not_chReqShut_of_active hm hb 4)).trans (if_pos hst))
  · exact fun p c s hg hm hb hst hr =>
      chReq_taken hg ((wChState_recover (not_chReqShut_of_active hm hb 5)).trans (if_pos ⟨hst, hr⟩))
  · exact fun p c s hg hm hb hst hl =>
      chReq_taken hg ((wChState_retire (not_chReqShut_of_active hm hb 6)).trans (if_pos ⟨hst, hl⟩))
  · exact fun p c s hg h => chReq_refused hg (drain_refused h)
  · exact fun p c s hg h => chReq_refused hg (offline_refused h)
  · exact fun p c s hg h => chReq_refused hg (recover_refused h)
  · exact setChState_st
  · exact chanDrain_st
  · exact chanOnline_st
  · exact runStart_st
  · exact chanOffline_st
  · exact recover_st
  · exact fun s c h => if_pos h

/-- Settles O18: a drained channel is quiet and goes on to the drift run that waits for it; the two bounds bring time to
their end before they act. -/
theorem channelsDrainAndLetGo : Obligations.ChannelsDrainAndLetGo := by
  unfold Obligations.ChannelsDrainAndLetGo
  refine ⟨?_, ?_, ?_, ?_⟩
  · exact fun c s hd h hn => finished_eq ((drainComplete_drained hd h).trans (if_neg (by simp [hn])))
  · exact fun c s hd h hr => finished_eq ((drainComplete_drained hd h).trans (if_pos hr))
  · exact fun m tag t since s hf h => finished_eq (heldTimeout_held hf h)
  · exact fun c t0 s hd ht hb => finished_eq (drainPinAbort_busy hd ht hb)

end Sys2Proof
end

