-- ==== Sys2Proof/Proofs/MramWrites.lean ====
section
/-!
PROOFS. The ends of MRAM writes: a ledger entry and what its end brings about, an audit entry, the records that are saved,
and the fatal summary.
-/
namespace Sys2Proof.Machine

section Waits
variable {s : State}

/-! ### The core of the token's holder does not run: what waits goes on waiting (R459) -/

theorem ledgerWriteDone_waits (h : s.mramRuns = false) (ok : Bool) : s.ledgerWriteDone ok = s := if_pos (by simp [h])
theorem auditEnd_waits (h : s.mramRuns = false) (ok : Bool) : s.auditEnd ok = s := if_pos (by simp [h])
theorem summaryEnd_waits (h : s.mramRuns = false) (ok : Bool) : s.mramWriteEnd .summary ok = s := if_pos (by simp [h])
theorem wearEnd_waits (h : s.mramRuns = false) (ok : Bool) : s.mramWriteEnd .wear ok = s := if_pos (by simp [h])

end Waits

/-! ### The ledger -/

section Ledger
variable {s : State} {j : LedgerJob} {rest : List LedgerJob}

/-- The ledger's writes without the one that ends. -/
def State.withJobs (s : State) (l : List LedgerJob) : State := { s with mram := { s.mram with ledgerJobs := l } }

/-- A committed entry lands in the ledger and has its outcome. -/
theorem ledgerWriteDone_committed {t : State} (h : s.mramRuns = true) (hj : s.mram.ledgerJobs = j :: rest)
    (ht : (s.withJobs rest).ledgerPut j = some t) : s.ledgerWriteDone true = t.ledgerOutcome j.why true := by
  rw [State.withJobs] at ht
  simp only [State.ledgerWriteDone, h, hj, ht, Bool.not_true, Bool.false_eq_true, if_false, if_true]

/-- A lost one raises the ledger fault (R427). -/
theorem ledgerWriteDone_failed (h : s.mramRuns = true) (hj : s.mram.ledgerJobs = j :: rest) :
    s.ledgerWriteDone false = (((s.withJobs rest).ledgerLost j).raise 101 0).ledgerOutcome j.why false := by
  simp only [State.ledgerWriteDone, State.withJobs, h, hj, Bool.not_true, Bool.false_eq_true, if_false]

theorem ledgerOutcome_chRetire_committed {c : Nat} {t : State} (ht : t = s.setFlag (F.CH_STATE_REQ_BUSY c) false)
    (h : (t.chan c).st = .quiesced ∨ (t.chan c).st = .offline) : s.ledgerOutcome (.chRetire c) true = t.chanRetired c := by
  subst ht
  exact if_pos ⟨rfl, h⟩

theorem ledgerOutcome_chRetire_failed (s : State) (c : Nat) :
    s.ledgerOutcome (.chRetire c) false = s.setFlag (F.CH_STATE_REQ_BUSY c) false := rfl

end Ledger

/-! ### Audit entries and records -/

section Records
variable {s : State}

/-- A committed audit entry lands at NEXT, which advances. -/
theorem auditEnd_committed {e : Words} {rest : List Words} (h : s.mramRuns = true) (he : s.mram.auditWait = e :: rest)
    (hn : s.fld F.LC_AUD_STS_NEXT ≠ 511) : s.auditEnd true =
      (({ s with mram := { s.mram with
          auditWait := rest
          audit := s.mram.audit.set (fun _ => []) (s.fld F.LC_AUD_STS_NEXT) e } } : State).setFld F.LC_AUD_STS_NEXT
        (s.fld F.LC_AUD_STS_NEXT + 1)).latch F.POLL_SUMMARY_AUDIT := by
  unfold State.auditEnd
  rw [if_neg (by simp [h]), he]
  exact congrArg (State.latch · F.POLL_SUMMARY_AUDIT) (if_neg hn)

/-- A failed one is counted as lost. -/
theorem auditEnd_failed {e : Words} {rest : List Words} (h : s.mramRuns = true) (he : s.mram.auditWait = e :: rest) :
    s.auditEnd false =
      (({ s with mram := { s.mram with auditWait := rest } } : State).raise 104 2).bump F.LC_AUD_STS_LOST := by
  unfold State.auditEnd
  rw [if_neg (by simp [h]), he]
  rfl

theorem recordEnd_some (s : State) (l : Store Word) (ok : Bool) (bits : Nat) :
    s.recordEnd (some l) ok bits = if ok then s.save l else s.raise 104 bits := rfl

theorem summaryEnd_runs {l : Store Word} (h : s.mramRuns = true) (hl : s.mram.summaryWrite = some l) (ok : Bool) :
    s.mramWriteEnd .summary ok =
      if ok then ({ s with mram := { s.mram with summaryWrite := none } } : State).save l
      else ({ s with mram := { s.mram with summaryWrite := none } } : State).raise 104 4 := by
  simp only [State.mramWriteEnd, h, hl, recordEnd_some, Bool.not_true, Bool.false_eq_true, if_false]

theorem wearEnd_runs {l : Store Word} (h : s.mramRuns = true) (hl : s.mram.wearWrite = some l) (ok : Bool) :
    s.mramWriteEnd .wear ok =
      if ok then ({ s with mram := { s.mram with wearWrite := none } } : State).save l
      else ({ s with mram := { s.mram with wearWrite := none } } : State).raise 104 8 := by
  simp only [State.mramWriteEnd, h, hl, recordEnd_some, Bool.not_true, Bool.false_eq_true, if_false]

end Records

/-! ### The fatal summary -/

section Fatal
variable {s : State} {f : Fatal}

/-- The fatal summary taken, its write at an end. -/
def State.summed (s : State) (f : Fatal) : State :=
  { s with coll := { s.coll with fatal := some { f with writing := false, summary := s.summaryBytes f } } }

theorem fatalWriteEnd_writing (hf : s.coll.fatal = some f) (hw : f.writing = true) (ok : Bool) (fails : BitVec 2) :
    s.fatalWriteEnd ok fails =
      (if ok then
        ({ s.summed f with coll := (s.summed f).coll.put (s.summaryBytes f) } : State).setFld F.FLT_DUMP_STS_SUMMARY 1
       else (((s.summed f).recordFault 104 1).recordFault 113 4).setFld F.FLT_DUMP_STS_SUMMARY 2).writeCopies f fails := by
  unfold State.fatalWriteEnd
  rw [hf]
  exact if_neg (by simp [hw])

end Fatal

end Sys2Proof.Machine

namespace Sys2Proof
open Machine

/-- Settles O19: every write ends by its kind, with its commit or its failure, while the core that writes it runs; what the
end of a ledger write brings about is read off its cause. -/
theorem writesToMramEnd : Obligations.WritesToMramEnd := by
  unfold Obligations.WritesToMramEnd
  refine ⟨?_, ?_, ?_, ?_, ?_, ?_, ?_, ?_, ?_, ?_, ?_, ?_, ?_, ?_, ?_⟩
  · exact fun j rest s t h hj ht => finished_eq (ledgerWriteDone_committed h hj ht)
  · exact fun j rest s h hj => finished_eq (ledgerWriteDone_failed h hj)
  · rintro e rest s t h he hn rfl
    exact finished_eq (auditEnd_committed h he hn)
  · exact fun e rest s h he => finished_eq (auditEnd_failed h he)
  · exact fun l s h hl => finished_eq (summaryEnd_runs h hl true)
  · exact fun l s h hl => finished_eq (wearEnd_runs h hl true)
  · exact fun l s h hl => finished_eq (summaryEnd_runs h hl false)
  · exact fun l s h hl => finished_eq (wearEnd_runs h hl false)
  · rintro f k s t hf hw rfl
    exact finished_eq (fatalWriteEnd_writing hf hw true k)
  · rintro f k s t hf hw rfl
    exact finished_eq (fatalWriteEnd_writing hf hw false k)
  · exact fun ok s h => ⟨finished_eq (ledgerWriteDone_waits h ok), finished_eq (auditEnd_waits h ok),
      finished_eq (summaryEnd_waits h ok), finished_eq (wearEnd_waits h ok)⟩
  · exact fun s c => ⟨rfl, rfl, rfl⟩
  · exact fun s l => ⟨rfl, rfl, rfl, rfl⟩
  · exact fun s c l => ⟨rfl, rfl⟩
  · rintro s c t ht
    exact ⟨(ledgerOutcome_chRetire_failed s c).trans ht.symm, ledgerOutcome_chRetire_committed ht⟩

end Sys2Proof
end

