-- ==== Sys2Proof/Proofs/RequestChecks.lean ====
section
/-!
PROOFS. The checks of an accepted memory request in their order (table Request checks, R177): the answer of the first check
that fails, and the entry of a request that its channel holds.
-/
namespace Sys2Proof.Machine

/-! ### What taking a request leaves of the modules -/

/-- Tags are a matter of registers and observation: a request counted and tagged leaves the modules. -/
theorem mods_tagRequest (s : State) (t : Txn) : (s.tagRequest t).mods = s.mods := by
  have h : (s.countGl 2 1 (some t.m) (some t.flow)).mods = s.mods := State.mods_note _ _
  unfold State.tagRequest
  generalize s.countGl 2 1 (some t.m) (some t.flow) = u at h
  dsimp only
  split
  · rfl
  · split
    · exact h
    · split
      · exact h
      · split
        · exact (State.mods_bump _ _ _).trans h
        · exact (State.mods_note _ _).trans h

/-- The module of a request that is taken is ACTIVE still. -/
theorem stage_afterReq {s : State} {m : Fin 12} {cell size b h : Nat} (g : s.takesReq m cell size b h = true) :
    ((s.afterReq m cell size).mod m).stage = .active := by
  simp only [State.takesReq, Bool.and_eq_true] at g
  obtain ⟨⟨⟨⟨hw, -⟩, -⟩, -⟩, -⟩ := g
  calc ((s.afterReq m cell size).mod m).stage
      = ((s.arrivedReq m cell size).mod m).stage := by rw [State.afterReq, State.admitCells, State.mod_modMod_same]
    _ = (s.mod m).stage := (s.kept_arrivedReq m cell size).stage
    _ = .active := State.wellSent_active hw

/-! ### The checks -/

section Checks
variable {s : State} {t : Txn} {priv : Bool}

/-- Where the device does not serve, a request of an ACTIVE module is answered in its egress. -/
theorem accept_unserved (hs : (s.tagRequest t).serves = false) (hm : (s.mod t.m).stage = .active) :
    s.accept t priv true = (s.tagRequest t).formReply t (.ack .unavailable 0) := by
  have hu : ((s.tagRequest t).mod t.m).stage = .active := by
    unfold State.mod at hm ⊢
    rwa [mods_tagRequest]
  simp only [State.accept, hs, State.turnAway, hu, Stage.carries, State.answerNow, Bool.not_true, Bool.not_false,
    Bool.or_true, Bool.true_or, if_true]

theorem accept_fence_retry (hf : t.op = .fence) (hs : (s.tagRequest t).serves = true)
    (he : (s.tagRequest t).entryFree t.m = false) : s.accept t priv true = (s.tagRequest t).answerRetry t := by
  simp only [State.accept, hs, hf, he, Bool.not_true, Bool.or_self, Bool.false_eq_true, if_false, if_true]

/-- An address of the aperture lies outside the user range. -/
theorem not_inUser_of_inAperture {a : Nat} (h : inAperture a = true) : inUser a = false := by
  simp only [inAperture, inUser, Bool.and_eq_true, decide_eq_true_eq, decide_eq_false_iff_not] at h ⊢
  omega

section Memory
variable (hf : t.op ≠ .fence) (hs : (s.tagRequest t).serves = true)
include hf hs

theorem accept_unmapped (hu : inUser t.byteAddr = false) (ha : inAperture t.byteAddr = false) :
    s.accept t priv true = (s.tagRequest t).answerNow t .unmapped := by
  simp only [State.accept, hs, hf, hu, ha, Bool.not_true, Bool.not_false, Bool.or_self, Bool.and_self, Bool.false_eq_true,
    if_false, if_true]

theorem accept_priv (ha : inAperture t.byteAddr = true)
    (hp : priv = false ∨ serviceAllows t.op (locRow ((s.tagRequest t).txnPlace t).loc) = false) :
    s.accept t priv true = (s.tagRequest t).answerNow t .priv := by
  have hn : (!priv || !serviceAllows t.op (locRow ((s.tagRequest t).txnPlace t).loc)) = true := by
    rcases hp with hp | hp <;> simp [hp]
  simp only [State.accept, hs, hf, ha, hn, Bool.not_true, Bool.or_self, Bool.and_self, Bool.and_false, Bool.false_eq_true,
    if_false, if_true]

/-- A request whose address is open to it and that no injection meets asks for its entry. -/
theorem accept_opens (ho : (s.tagRequest t).opens t priv = true) (hi : (s.tagRequest t).injMatches t = false) :
    s.accept t priv true = (s.tagRequest t).checkEntry t := by
  have hmap : (!inUser t.byteAddr && !inAperture t.byteAddr) = false ∧
      (inAperture t.byteAddr && (!priv || !serviceAllows t.op (locRow ((s.tagRequest t).txnPlace t).loc))) = false := by
    simp only [State.opens, Bool.or_eq_true, Bool.and_eq_true] at ho
    rcases ho with hu | ⟨⟨ha, hp⟩, hv⟩
    · have ha : inAperture t.byteAddr = false :=
        Bool.eq_false_iff.mpr fun ha => by simp [not_inUser_of_inAperture ha] at hu
      simp [hu, ha]
    · simp [ha, hp, hv]
  simp only [State.accept, hs, hf, hmap, hi, Bool.not_true, Bool.or_self, Bool.false_eq_true, if_false]

end Memory

/-! ### The entry and the channel -/

theorem checkEntry_retry (h : s.entryFree t.m = false ∨ s.chanEntryFree (locCh (s.txnPlace t).loc) = false) :
    s.checkEntry t = s.answerRetry t := if_pos (by rcases h with h | h <;> simp [h])

section Entry
variable (he : s.entryFree t.m = true) (hc : s.chanEntryFree (locCh (s.txnPlace t).loc) = true) (hj : t.inject = false)
include he hc hj

theorem checkEntry_offline (h : (s.chan (locCh (s.txnPlace t).loc)).st = .offline) :
    s.checkEntry t = (s.userWrite t).answerNow t .unavailable := by
  simp only [State.checkEntry, he, hc, hj, h, Bool.not_true, Bool.or_self, Bool.false_eq_true, if_false]

theorem checkEntry_retired (h : (s.chan (locCh (s.txnPlace t).loc)).st = .retired ∨
    ((s.chan (locCh (s.txnPlace t).loc)).st = .online ∧ s.rowRetired (s.txnPlace t).loc = true)) :
    s.checkEntry t = (s.userWrite t).answerNow t .retired := by
  rcases h with h | ⟨h, hr⟩
  · simp only [State.checkEntry, he, hc, hj, h, Bool.not_true, Bool.or_self, Bool.false_eq_true, if_false]
  · simp only [State.checkEntry, he, hc, hj, h, hr, Bool.not_true, Bool.or_self, Bool.false_eq_true, if_false, if_true]

/-- A channel that admits none holds the request (R114). -/
theorem checkEntry_held (h : (s.chan (locCh (s.txnPlace t).loc)).st = .draining ∨
    (s.chan (locCh (s.txnPlace t).loc)).st = .quiesced ∨ (s.chan (locCh (s.txnPlace t).loc)).st = .retraining) :
    s.checkEntry t = (s.userWrite t).enter { t with rowRetired := s.rowRetired (s.txnPlace t).loc } := by
  rcases h with h | h | h <;>
    simp only [State.checkEntry, he, hc, hj, h, Bool.not_true, Bool.or_self, Bool.false_eq_true, if_false]

end Entry

end Checks

/-! ### The command -/

/-- A request that is taken answers as the checks of its acceptance say. -/
theorem exec_reqCmd_taken {op : ReqOp} {m : Fin 12} {cell : Fin 15} {h : BitVec 128} {d : BitVec 512} {be : BitVec 64}
    {s x : State} (g : s.takesReq m cell (reqSize op) (reqCode op) h.toNat = true)
    (hx : (s.afterReq m cell (reqSize op)).accept
      ((s.afterReq m cell (reqSize op)).headerTxn m op h.toNat (reqData op d) (reqMask op be))
      ((s.afterReq m cell (reqSize op)).privTaken m h.toNat) true = x) :
    exec (reqCmd op m cell h d be) s = .next (commit s x) := by
  have hb : reqCode op / 32 = 1 := by cases op <;> decide
  rw [exec_reqCmd, s.request_taken m cell (reqSize op) (reqCode op) h.toNat op _ _ hb g, hx]

end Sys2Proof.Machine

namespace Sys2Proof
open Machine

/-- Settles O26: a taken request is accepted at once, and its answer is that of the first check of the table that it
fails. -/
theorem requestsAreRefusedInOrder : Obligations.RequestsAreRefusedInOrder := by
  unfold Obligations.RequestsAreRefusedInOrder
  rintro op m cell h d be t u p s g rfl rfl rfl
  refine ⟨fun hs => ?_, fun hf hs he => ?_, fun hf hs => ⟨fun hu ha => ?_, fun ha hp => ?_, fun ho hi => ⟨fun he => ?_,
    fun he hc => ⟨fun hst => ?_, fun hst => ?_, fun hst => ?_⟩⟩⟩⟩
  · exact exec_reqCmd_taken g (accept_unserved hs (stage_afterReq g))
  · exact exec_reqCmd_taken g (accept_fence_retry hf hs he)
  · exact exec_reqCmd_taken g (accept_unmapped hf hs hu ha)
  · exact exec_reqCmd_taken g (accept_priv hf hs ha hp)
  · exact exec_reqCmd_taken g ((accept_opens hf hs ho hi).trans (checkEntry_retry he))
  · exact exec_reqCmd_taken g ((accept_opens hf hs ho hi).trans (checkEntry_offline he hc rfl hst))
  · exact exec_reqCmd_taken g ((accept_opens hf hs ho hi).trans (checkEntry_retired he hc rfl hst))
  · exact exec_reqCmd_taken g ((accept_opens hf hs ho hi).trans (checkEntry_held he hc rfl hst))

end Sys2Proof
end

