-- ==== Sys2Proof/Proofs/UcieModules.lean ====
section
/-!
PROOFS. The modules of the UCIe attachment: what a stage set and an exclusion leave of a module, the rise and the loss of
its sideband, register messages, and the actions of UCI_CTL.
-/
namespace Sys2Proof.Machine

/-! ### A stage set -/

/-- A stage set is a matter of the module's record, of registers, of observation and of the floor's mark. -/
theorem setStage_eq (s : State) (m : Nat) (g : Stage) : ∃ r o f, s.setStage m g =
    { s.modMod m (fun x => { x with stage := g }) with regs := r, obs := o, floorStale := f } := by
  unfold State.setStage
  by_cases h : (s.mod m).stage = g
  · exact ⟨_, _, _, by simp only [h, if_true]; rfl⟩
  · exact ⟨_, _, _, by simp only [h, if_false]; rfl⟩

/-- A module is read off the list of modules. -/
theorem mod_of_mods {s t : State} (h : s.mods = t.mods) (m : Nat) : s.mod m = t.mod m := by
  unfold State.mod
  rw [h]

theorem setStage_mods (s : State) (m : Nat) (g : Stage) :
    (s.setStage m g).mods = (s.modMod m fun x => { x with stage := g }).mods := by
  obtain ⟨r, o, f, h⟩ := setStage_eq s m g
  rw [h]

@[simp] theorem setStage_mod (s : State) (m : Fin 12) (g : Stage) :
    (s.setStage m g).mod m = { s.mod m with stage := g } :=
  (mod_of_mods (setStage_mods s m g) m).trans (s.mod_modMod_same m _)

@[simp] theorem setStage_primary (s : State) (m : Nat) (g : Stage) : (s.setStage m g).primary = s.primary := by
  obtain ⟨r, o, f, h⟩ := setStage_eq s m g
  rw [h, State.primary_modMod]

@[simp] theorem setStage_bringUp (s : State) (m : Nat) (g : Stage) : (s.setStage m g).bringUp = s.bringUp := by
  obtain ⟨r, o, f, h⟩ := setStage_eq s m g
  rw [h, State.bringUp_modMod]

/-! ### An exclusion -/

section Exclusion

/-- What an exclusion leaves of the module (table Exclusion drain, step 4, R146): nothing to send, and the requests that wait
in its ingress buffer served without an answer. -/
def Mod.leftOut (x : Mod) : Mod :=
  { x with
    stage := if x.sbUp then .excluded else .sbDetect, egress := [], ctlOut := [], initOut := false, initIn := false
    including := false, lpbk := none, skip := none
    ingress := x.ingress.map fun w => { w with txn := { w.txn with orphan := true } } }

/-- The unsent responses of module `m` discarded and counted (R146). -/
def State.unsent (s : State) (m : Nat) : State :=
  ((s.mod m).egress.foldl (fun t o => match o with | .rdData _ tag .. | .ack _ tag .. => t.tagSent m tag false | _ => t)
    s).bump (F.UCI_DROP_CNT_RSP_DISCARD m) (s.mod m).egress.length

theorem unsent_mods (s : State) (m : Nat) : (s.unsent m).mods = s.mods :=
  (State.mods_bump _ _ _).trans <| Laws.foldl_canon (p := fun t : State => t.mods = s.mods) rfl fun t o h => by
    refine Eq.trans ?_ h
    split <;> rfl

/-- Module `m` in the stage that an exclusion leaves it in, with nothing to send and nothing to answer. -/
def State.emptied (s : State) (m : Nat) : State :=
  ((s.unsent m).setStage m (if (s.mod m).sbUp then .excluded else .sbDetect)).modMod m fun y =>
    { y with egress := [], ctlOut := [], initOut := false, initIn := false, including := false, lpbk := none, skip := none,
             ingress := y.ingress.map fun w => { w with txn := { w.txn with orphan := true } } }

theorem emptied_mod (s : State) (m : Fin 12) : (s.emptied m).mod m = (s.mod m).leftOut := by
  rw [State.emptied, State.mod_modMod_same, setStage_mod, mod_of_mods (unsent_mods s m)]
  rfl

/-- What the device holds for module `m` elsewhere is answered no more: its requests, its register accesses and its
entries of the straits. -/
def State.muted (s : State) (m : Nat) : State :=
  { s with
    txns := s.txns.map fun (t : Txn) => if t.m = m then { t with orphan := true } else t
    heldAccesses := s.heldAccesses.filter fun h => !h.answer.onCtl m
    straits := s.straits.map fun (x : Nat × Strait) =>
      (x.1, { x.2 with entries := x.2.entries.map (StraitEntry.muteOf m) }) }

/-- The module EXCLUDED with its cause, and LINK set. -/
def State.leftOut (s : State) (m cause : Nat) : State :=
  ((((s.emptied m).muted m).setFlag (F.UCI_STS_EXCLUDED m) true).setFld (F.UCI_STS_EXCL_CAUSE m) cause).latch
    F.POLL_SUMMARY_LINK

theorem excludeMod_eq (s : State) (m cause : Nat) :
    s.excludeMod m cause = (s.leftOut m cause).raiseCond 34 (modBit m) := rfl

theorem muted_mods (s : State) (m : Nat) : (s.muted m).mods = s.mods := rfl

theorem leftOut_mods (s : State) (m cause : Nat) : (s.leftOut m cause).mods = (s.emptied m).mods := by
  rw [State.leftOut, State.mods_latch, State.mods_setFld, State.mods_setFlag, muted_mods]

theorem leftOut_mod (s : State) (m : Fin 12) (cause : Nat) : (s.leftOut m cause).mod m = (s.mod m).leftOut :=
  (mod_of_mods (leftOut_mods s m cause) m).trans (emptied_mod s m)

theorem uciSts_ne_pollSummary : ∀ m : Fin 12, adr .UCI_STS m ≠ adr .POLL_SUMMARY := by decide

theorem leftOut_excluded (s : State) (m : Fin 12) (cause : Nat) :
    (s.leftOut m cause).flag (F.UCI_STS_EXCLUDED m) = true := by
  rw [State.leftOut, State.flag_latch_ne _ _ _ (uciSts_ne_pollSummary m), State.flag,
    State.fld_setFld_apart _ (F.UCI_STS_EXCL_CAUSE m) (F.UCI_STS_EXCLUDED m) _ (show 20 ≤ 23 by decide)
      (show 23 < 32 by decide) (.inr (.inr (show 23 < 24 by decide))), ← State.flag,
    State.flag_setFlag_same _ _ _ rfl (show 24 < 32 by decide)]

theorem leftOut_cause (s : State) (m : Fin 12) {cause : Nat} (h : cause < 16) :
    (s.leftOut m cause).fld (F.UCI_STS_EXCL_CAUSE m) = cause := by
  rw [State.leftOut, State.fld_latch_ne _ _ _ (uciSts_ne_pollSummary m),
    State.fld_setFld_same _ (F.UCI_STS_EXCL_CAUSE m) _ (show 20 ≤ 23 by decide) (show 23 < 32 by decide)]
  exact Nat.mod_eq_of_lt h

end Exclusion

/-- A retrain at the rate in force counts and is a staging boundary (R143). -/
theorem startRetrain_kept (s : State) (m : Nat) : s.startRetrain m false =
    ((s.setStage m .retrain).bump (F.UCI_STS_RETRAIN_COUNT m)).moduleBoundary m := by
  simp only [State.startRetrain, Bool.false_eq_true, false_and, if_false]

/-! ### The sideband -/

section Sideband
variable {s : State} {m : Fin 12}

/-- Out of BRING-UP the sideband of a module in service comes up alone; the first one is the primary (R133, R140). -/
theorem sidebandUp_serving (hg : (s.mod m).stage = .sbDetect) (he : s.flag (F.UCI_STS_EXCLUDED m) = false)
    (hb : s.bringUp = none) : s.sidebandUp m =
      (let t := (s.modMod m fun x => { x with sbUp := true }).setStage m .sbUp
       if s.primary = none then { t with primary := some m.val } else t) := by
  simp only [State.sidebandUp, hg, he, setStage_primary, setStage_bringUp, State.primary_modMod, State.bringUp_modMod, hb,
    Option.isNone_iff_eq_none, Option.map_none, Option.getD_none, if_true, if_false, Bool.false_eq_true]
  by_cases hp : s.primary = none <;> simp [hp, hb]

theorem sidebandFail_serving (hu : (s.mod m).sbUp = true) (he : s.flag (F.UCI_STS_EXCLUDED m) = false) :
    s.sidebandFail m =
      (let t := (s.modMod m fun x => { x with sbUp := false, lpbk := none }).excludeMod m 9
       if s.life.session ≠ 0 ∧ s.life.sessPath = m.val then t.endSession 3 else t) := by
  simp only [State.sidebandFail, hu, he, State.flag_modMod, Bool.false_eq_true, false_and, if_true, if_false]

theorem primaryLoss_down {k : Nat} (hp : s.primary = some k) (hd : (s.mod k).sbUp = false) :
    s.primaryLoss = (({ s with primary := s.lowestUp } : State).raise 35 (modBit k)).latch F.POLL_SUMMARY_LINK := by
  simp only [State.primaryLoss, hp, hd, Bool.false_eq_true, if_false]

end Sideband

/-! ### Register messages -/

section Messages
variable {s : State} {m : Fin 12} {d : Nat} {write : Bool}

theorem sideband_served (hm : s.mode ≠ .reset) (hu : (s.mod m).sbUp = true) (hh : s.sbHeld m < 4) :
    s.sideband m d write =
      finish (.sb m) (4 * bitsOf d 31 10) write (.sideband m (bitsOf d 7 0)) (s.access (.sb m) (4 * bitsOf d 31 10) write
        (BitVec.ofNat 32 (bitsOf d 63 32)) Given.plain (.sideband m (bitsOf d 7 0))) :=
  (if_neg (by simp [hm, hu])).trans (if_neg (by omega))

theorem sideband_overrun (hm : s.mode ≠ .reset) (hu : (s.mod m).sbUp = true) (hh : 4 ≤ s.sbHeld m) :
    s.sideband m d write = s.bump (F.UCI_DROP_CNT_SB_OVERRUN m) :=
  (if_neg (by simp [hm, hu])).trans (if_pos hh)

/-- A sideband on which accesses are served is up. -/
theorem sideband_of_pathUp (h : s.pathUp (.sb m) = true) : s.mode ≠ .reset ∧ (s.mod m).sbUp = true := by
  simpa [State.pathUp] using h

/-- An access of a sideband that is up still when it ends is answered by one REG_CPL (R138). -/
theorem finish_sideband {t : State} {a seq : Nat} {data : Word} (hu : (t.mod m).sbUp = true) :
    finish (.sb m) a write (.sideband m seq) ⟨t, .ok, data, false⟩ = t.emit (.regCpl m seq .ok data) := by
  simp only [finish, State.complete, hu, Bool.false_eq_true, if_false, if_true]

theorem noteAccess_mod (s : State) (b : Bool) (p : PathNum) (wr : Bool) (a : Nat) (w : Word) (k : Nat) :
    (s.noteAccess b p wr a w).mod k = s.mod k := by
  obtain ⟨l, r, h⟩ := noteAccess_eq s b p wr a w
  rw [h]
  rfl

/-- The account of a session notes no data of a read. -/
theorem noteAccess_read (s : State) (b : Bool) (p : PathNum) (a : Nat) (w : Word) :
    s.noteAccess b p false a w = s.noteAccess b p false a 0 := by
  simp only [State.noteAccess, Bool.false_eq_true, if_false]

variable {r : Reg} {u i : Nat}

theorem pathUp_of_granted {p : Path} {w : Word} (h : s.granted p r u i w = true) : s.pathUp p = true := by
  simp only [State.granted, Bool.and_eq_true] at h
  obtain ⟨⟨⟨⟨⟨⟨⟨⟨hp, -⟩, -⟩, -⟩, -⟩, -⟩, -⟩, -⟩, -⟩ := h
  exact hp

theorem pathUp_of_readable {p : Path} (h : s.readable p r u i = true) : s.pathUp p = true := by
  simp only [State.readable, Bool.and_eq_true] at h
  obtain ⟨⟨⟨⟨hp, -⟩, -⟩, -⟩, -⟩ := h
  exact hp

/-- A plain register that takes a write of the sideband answers OK. -/
theorem sideband_written (hr : plainReg r = true) (ha : 4 * bitsOf d 31 10 = adr r u i)
    (hg : s.granted (.sb m) r u i (BitVec.ofNat 32 (bitsOf d 63 32)) = true) (hh : s.sbHeld m < 4) :
    s.sideband m d true =
      (s.taken (.sb m) (adr r u i) (BitVec.ofNat 32 (bitsOf d 63 32))
        (s.plainWrite (pathNum (.sb m)) r u i (BitVec.ofNat 32 (bitsOf d 63 32)))).emit
        (.regCpl m (bitsOf d 7 0) .ok 0) := by
  obtain ⟨hm, hu⟩ := sideband_of_pathUp (pathUp_of_granted hg)
  rw [sideband_served hm hu hh, ha, s.access_granted _ _ _ _ _ _ _ hg, s.writeReg_plain_on _ _ _ _ _ _ hr]
  refine finish_sideband ?_
  rw [State.taken, noteAccess_mod, State.mod_traceEv]
  exact (congrArg Mod.sbUp (s.plainWrite_mod _ r u i _ m)).trans hu

/-- A served read of a plain register is answered OK with its value. -/
theorem sideband_read (hr : plainReg r = true) (ha : 4 * bitsOf d 31 10 = adr r u i)
    (hg : s.readable (.sb m) r u i = true) (hh : s.sbHeld m < 4) :
    s.sideband m d false =
      (s.noteAccess (s.life.session != 0 && s.life.sessPath == pathNum (.sb m)) (pathNum (.sb m)) false (adr r u i) 0).emit
        (.regCpl m (bitsOf d 7 0) .ok (s.view (pathNum (.sb m)) (pathHalf (.sb m)) r u i)) := by
  obtain ⟨hm, hu⟩ := sideband_of_pathUp (pathUp_of_readable hg)
  rw [sideband_served hm hu hh, ha, s.access_readable _ _ _ _ _ _ hg hr, noteAccess_read]
  refine finish_sideband ?_
  rw [noteAccess_mod]
  exact hu

end Messages

/-! ### The actions of UCI_CTL -/

section Actions
variable {s : State} {m : Fin 12} {n : PathNum} {v : Word}

/-- A MAX_RATE above the part's grade is refused, whatever the action (R135, R153). -/
theorem wUciCtl_overRated (hr : bitsOf v.toNat 1 0 = 3 ∧ s.part.maxRate ≠ 3) : s.wUciCtl n m v = ignored s := if_pos hr

/-- MAX_RATE of a write of UCI_CTL is within the part's grade. -/
def State.rateOk (s : State) (v : Word) : Prop := bitsOf v.toNat 1 0 ≠ 3 ∨ s.part.maxRate = 3

section Rated
variable (hr : s.rateOk v)
include hr

theorem not_overRated : ¬ (bitsOf v.toNat 1 0 = 3 ∧ s.part.maxRate ≠ 3) := fun h => hr.elim (· h.1) h.2

theorem wUciCtl_retrain (ha : bitsOf v.toNat 31 26 = 32) (hg : (s.mod m).stage = .active) :
    s.wUciCtl n m v = done ((s.plainWrite n .UCI_CTL m 0 v).startRetrain m true) := by
  simp only [State.wUciCtl, not_overRated hr, ha, hg, if_true, if_false]

theorem wUciCtl_commit (ha : bitsOf v.toNat 31 26 = 16) :
    s.wUciCtl n m v = done ((s.plainWrite n .UCI_CTL m 0 v).moduleBoundary m) := by
  simp only [State.wUciCtl, not_overRated hr, ha, if_false]

theorem wUciCtl_makePrimary (ha : bitsOf v.toNat 31 26 = 8) (hu : (s.mod m).sbUp = true) :
    s.wUciCtl n m v = done ((s.plainWrite n .UCI_CTL m 0 v).makePrimary m) := by
  simp only [State.wUciCtl, not_overRated hr, ha, hu, if_true, if_false]

section Serving
variable (he : s.flag (F.UCI_STS_EXCLUDED m) = false) (hd : (s.mod m).stage ≠ .drain)
include he hd

theorem wUciCtl_exclude (ha : bitsOf v.toNat 31 26 = 4) :
    s.wUciCtl n m v = done ((s.plainWrite n .UCI_CTL m 0 v).setStage m .drain) := by
  simp only [State.wUciCtl, not_overRated hr, ha, he, hd, Bool.not_false, ne_eq, not_false_eq_true, and_self, if_true,
    if_false]

theorem wUciCtl_forceExclude (ha : bitsOf v.toNat 31 26 = 2) :
    s.wUciCtl n m v = done ((s.plainWrite n .UCI_CTL m 0 v).excludeMod m 2) := by
  simp only [State.wUciCtl, not_overRated hr, ha, he, hd, Bool.not_false, ne_eq, not_false_eq_true, and_self, if_true,
    if_false]

end Serving

theorem wUciCtl_include (ha : bitsOf v.toNat 31 26 = 1) (he : s.flag (F.UCI_STS_EXCLUDED m) = true)
    (hg : (s.mod m).stage = .excluded) (hl : s.looping m = false) :
    s.wUciCtl n m v = done (((s.plainWrite n .UCI_CTL m 0 v).startTraining m 1).modMod m fun x =>
      { x with including := true }) := by
  simp only [State.wUciCtl, not_overRated hr, ha, he, hg, hl, Bool.not_false, and_self, if_true, if_false]

end Rated

theorem wUciCtl_retrain_refused (ha : bitsOf v.toNat 31 26 = 32) (hg : (s.mod m).stage ≠ .active) :
    s.wUciCtl n m v = ignored s := by
  by_cases hr : bitsOf v.toNat 1 0 = 3 ∧ s.part.maxRate ≠ 3
  · exact wUciCtl_overRated hr
  · simp only [State.wUciCtl, hr, ha, hg, if_false]

theorem wUciCtl_exclude_refused (ha : bitsOf v.toNat 31 26 = 4)
    (h : s.flag (F.UCI_STS_EXCLUDED m) = true ∨ (s.mod m).stage = .drain) : s.wUciCtl n m v = ignored s := by
  have hn : ¬ ((!s.flag (F.UCI_STS_EXCLUDED m)) = true ∧ (s.mod m).stage ≠ .drain) := fun k =>
    h.elim (fun he => by simp [he] at k) k.2
  by_cases hr : bitsOf v.toNat 1 0 = 3 ∧ s.part.maxRate ≠ 3
  · exact wUciCtl_overRated hr
  · simp only [State.wUciCtl, hr, ha, hn, if_false]

/-- The word of an action carries its bit alone. -/
theorem action_of_withBits (w : Word) {k : Nat} (hk : k < 64) : bitsOf (withBits w 31 26 k).toNat 31 26 = k :=
  bitsOf_withBits w 31 26 k (by decide) (by decide) hk

end Actions

end Sys2Proof.Machine

namespace Sys2Proof
open Machine

/-- Settles O20: a sideband out of BRING-UP comes up alone, its loss excludes the module, and a register message is the
access that it names, answered on the sideband, which a plain access leaves up. -/
theorem sidebandsComeUpAndGoDown : Obligations.SidebandsComeUpAndGoDown := by
  unfold Obligations.SidebandsComeUpAndGoDown
  refine ⟨?_, ?_, ?_, ?_, ?_, ?_, ?_, ?_, ?_, ?_⟩
  · exact fun m s hg => finished_eq (if_pos hg)
  · exact fun m s hg he hb => finished_eq (sidebandUp_serving hg he hb)
  · exact fun m s hu he => finished_eq (sidebandFail_serving hu he)
  · exact fun m s hp hd => finished_eq (primaryLoss_down hp hd)
  · exact fun m s hm hu => finished_eq (if_pos ⟨hm, hu⟩)
  · exact fun m d s hm hu hh => finished_eq (sideband_served hm hu hh)
  · exact fun m d s hm hu hh => finished_eq (sideband_served hm hu hh)
  · exact fun m d s hm hu hh => ⟨finished_eq (sideband_overrun hm hu hh), finished_eq (sideband_overrun hm hu hh)⟩
  · rintro m d r u i w s hr ha rfl hg hh
    exact finished_eq (sideband_written hr ha hg hh)
  · exact fun m d r u i s hr ha hg hh => finished_eq (sideband_read hr ha hg hh)

/-- Settles O23: an action of UCI_CTL is the write of its word, taken or refused by the stage and the flags of its module;
what an exclusion leaves is read off the module before its fault is raised. -/
theorem moduleActionsAreTaken : Obligations.ModuleActionsAreTaken := by
  unfold Obligations.ModuleActionsAreTaken
  refine ⟨?_, ?_, ?_, ?_, ?_, ?_, ?_, ?_, ?_, ?_, ?_, ?_, ?_, ?_, ?_, ?_⟩
  · rintro p m w v s rfl h hr hg
    exact finished_eq (s.writeOn_done _ _ _ _ _ _ h (wUciCtl_retrain hr (action_of_withBits w (by decide)) hg))
  · rintro p m w v s rfl h hr
    exact finished_eq (s.writeOn_done _ _ _ _ _ _ h (wUciCtl_commit hr (action_of_withBits w (by decide))))
  · rintro p m w v s rfl h hr hu
    exact finished_eq (s.writeOn_done _ _ _ _ _ _ h (wUciCtl_makePrimary hr (action_of_withBits w (by decide)) hu))
  · rintro p m w v s rfl h hr he hd
    exact finished_eq (s.writeOn_done _ _ _ _ _ _ h (wUciCtl_exclude hr he hd (action_of_withBits w (by decide))))
  · rintro p m w v s rfl h hr he hd
    exact finished_eq (s.writeOn_done _ _ _ _ _ _ h (wUciCtl_forceExclude hr he hd (action_of_withBits w (by decide))))
  · rintro p m w v s rfl h hr he hg hl
    exact finished_eq (s.writeOn_done _ _ _ _ _ _ h (wUciCtl_include hr (action_of_withBits w (by decide)) he hg hl))
  · rintro p m w v s rfl h hg
    exact finished_eq (s.writeOn_ignored _ _ _ _ _ h (wUciCtl_retrain_refused (action_of_withBits w (by decide)) hg))
  · rintro p m w v s rfl h hn
    exact finished_eq (s.writeOn_ignored _ _ _ _ _ h (wUciCtl_exclude_refused (action_of_withBits w (by decide)) hn))
  · exact fun m s hg hd => finished_eq (if_pos ⟨hg, hd⟩)
  · exact fun m s hg => finished_eq (if_pos hg)
  · exact fun s m g => congrArg Mod.stage (setStage_mod s m g)
  · intro s m k hk
    have h := leftOut_mod s m k
    exact ⟨s.leftOut m k, excludeMod_eq s m k, congrArg Mod.stage h, congrArg Mod.egress h, congrArg Mod.ingress h,
      leftOut_excluded s m k, leftOut_cause s m hk⟩
  · exact fun s m => startRetrain_kept s m
  · exact fun s m k => rfl
  · exact fun s m => rfl
  · exact fun s m => ⟨fun h => if_neg (by simp [h]), fun h => if_pos h⟩

end Sys2Proof
end

