-- ==== Sys2Proof/Proofs/UcieTraining.lean ====
section
/-!
PROOFS. The trainings of the UCIe modules: the stages of a mainband's training and what each failure leads to, equalisation,
retrains, and loopbacks.
-/
namespace Sys2Proof.Machine

/-! ### The repairs and the rate of a training -/

section Rates
variable {s : State} {m r0 : Nat} {e : LinkEnv} {next fail : State → State}

/-- A check that passes at the rate in force steps nothing down. -/
theorem stepDown_kept {r : Nat} (h : r0 ≤ r) : s.stepDown m r0 r e = s := if_pos h

/-- Each step down is raised, and MB_TRAIN starts again at the lower rate (R135). -/
theorem stepDown_lower {r : Nat} (h : r < r0) (hl : e.lateSet = none) :
    s.stepDown m r0 r e = (s.rateDowns m (r0 - r)).trainAt m r := by
  simp only [State.stepDown, Nat.not_le.mpr h, hl, if_false]

theorem trainWith_exhausted (hx : repairExhausted e = true) : s.trainWith m r0 e next fail = s.excludeMod m 4 := if_pos hx

/-- With repairs enough, a training goes on at the rate that passes the speed check. -/
theorem trainWith_passes {r : BitVec 2} (hx : repairExhausted e = false) (hp : e.passes = some r) :
    s.trainWith m r0 e next fail = next ((s.recordRepairs m e).stepDown m r0 r.toNat e) := by
  simp only [State.trainWith, hx, hp, Bool.false_eq_true, if_false]

/-- With every rate failed it fails at 16 GT/s. -/
theorem trainWith_fails (hx : repairExhausted e = false) (hp : e.passes = none) (hl : e.lateSet = none) (h0 : 0 < r0) :
    s.trainWith m r0 e next fail = fail (((s.recordRepairs m e).rateDowns m r0).trainAt m 0) := by
  simp only [State.trainWith, hx, hp, stepDown_lower h0 hl, Nat.sub_zero, Bool.false_eq_true, if_false]

end Rates

/-! ### An attempt that fails -/

section Attempts
variable {s : State} {m : Nat}

theorem attemptFailed_again (h : s.fld (F.UCI_STS_ATTEMPTS m) < 4) : s.attemptFailed m = s.setStage m .trainError := if_pos h

theorem attemptFailed_excludes (h : 4 ≤ s.fld (F.UCI_STS_ATTEMPTS m)) (hl : s.looping m = false) :
    s.attemptFailed m = s.excludeMod m 3 :=
  (if_neg (Nat.not_lt.mpr h)).trans (if_neg (by simp [hl]))

theorem attemptFailed_endsLoopback (h : 4 ≤ s.fld (F.UCI_STS_ATTEMPTS m)) (hl : s.looping m = true) :
    s.attemptFailed m = s.lpbkEnd m false 0 0 :=
  (if_neg (Nat.not_lt.mpr h)).trans (if_pos hl)

/-- The deadline of step 8 meets a usable module in service that has not reached ACTIVE (R134). -/
theorem trainDeadline_missed {b : BringUp} (hb : s.bringUp = some b) (hw : 7 ≤ b.waiting)
    (hg : (s.mod m).stage.reached = false) (he : s.flag (F.UCI_STS_EXCLUDED m) = false)
    (hu : bitOf s.part.usable m = true) : s.trainDeadline m = s.excludeMod m 3 := by
  simp only [State.trainDeadline, hb, hw, hg, he, hu, Bool.not_false, and_self, if_true]

theorem Stage.not_reached {g : Stage} (ha : g ≠ .active) (hr : g ≠ .retrain) (hd : g ≠ .drain) (hl : g ≠ .l1) :
    g.reached = false := by
  cases g
  case active => exact absurd rfl ha
  case retrain => exact absurd rfl hr
  case drain => exact absurd rfl hd
  case l1 => exact absurd rfl hl
  all_goals rfl

end Attempts

/-! ### A stage of a training that ends -/

section Training
variable {s : State} {m : Nat} {e : LinkEnv}

theorem trainingDone_mbInit (hg : (s.mod m).stage = .mbInit) (hl : (s.mod m).lpbk = none) :
    s.trainingDone m e = ((s.setStage m .mbTrain).trainAt m (min (s.topRate m) e.partnerMax.toNat)).relock m := by
  simp only [State.trainingDone, hg, hl]

theorem trainingDone_mbInit_loopback {l : Lpbk} (hg : (s.mod m).stage = .mbInit) (hl : (s.mod m).lpbk = some l) :
    s.trainingDone m e = ((s.setStage m .mbTrain).trainAt m l.rate).relock m := by
  simp only [State.trainingDone, hg, hl]

theorem trainingDone_mbTrain (hg : (s.mod m).stage = .mbTrain) (hl : (s.mod m).lpbk = none) :
    s.trainingDone m e =
      s.trainWith m (s.fld (F.UCI_STS_RATE m)) e (·.setStage m .locked) (·.attemptFailed m) := by
  simp only [State.trainingDone, hg, hl]

theorem trainingDone_mbTrain_loopback {l : Lpbk} (hg : (s.mod m).stage = .mbTrain) (hl : (s.mod m).lpbk = some l) :
    s.trainingDone m e =
      if repairExhausted e then (s.lpbkEnd m false 0 0).excludeMod m 4
      else if !(e.passes.any fun hp => l.rate ≤ hp.toNat) then (s.recordRepairs m e).attemptFailed m
      else (s.recordRepairs m e).lpbkTrained m l := by
  simp only [State.trainingDone, hg, hl]

theorem trainingDone_locked (hg : (s.mod m).stage = .locked) :
    s.trainingDone m e =
      if e.offers then (s.setStage m .capExchange).emit (.kyCap m kyCapData) else s.attemptFailed m := by
  simp only [State.trainingDone, hg]

theorem kyCap_exchanging {d : Nat} (hg : (s.mod m).stage = .capExchange) :
    s.kyCap m d =
      if bitsOf d 7 4 = 1 then (s.setFlag (F.UCI_STS_KY_PARTNER m) true).enterActive m
      else (s.setFlag (F.UCI_STS_KY_PARTNER m) true).excludeMod m 6 := if_pos hg

end Training

/-! ### Equalisation -/

section Equalise
variable {s : State} {m d : Nat}

theorem eqSet_up (hu : (s.mod m).sbUp = true) : s.eqSet m d = s.eqTake m (bitsOf d 15 8) (bitsOf d 7 0) := if_pos hu

/-- Taps that are not taken are answered IGNORED (R142). -/
theorem eqTake_ignored {pre post : Nat} (h : (s.mod m).stage ≠ .mbTrain ∨ s.fld (F.UCI_STS_RATE m) < 2 ∨
    s.flag (F.UCI_CTL_EQ_AUTO m) = false ∨ 4 < pre ∨ 8 < post) : s.eqTake m pre post = s.eqAnswer m .ignored := by
  refine if_neg ?_
  rintro ⟨hg, hr, ha, h1, h2⟩
  rcases h with h | h | h | h | h
  · exact h hg
  · exact Nat.not_lt.mpr hr h
  · simp [h] at ha
  · exact Nat.not_lt.mpr h1 h
  · exact Nat.not_lt.mpr h2 h

end Equalise

/-! ### Retrains -/

section Retrain
variable {s : State} {m : Nat} {e : LinkEnv}

/-- How many flits of the present 1 ms window have failed with the next (R143). -/
def State.crcNext (s : State) (m : Nat) : Nat :=
  if (s.mod m).crcWin = s.timeBase.toNat / 1000000 then (s.mod m).crcCount + 1 else 1

/-- A received flit that fails counted, in all and in its window (R143, R153). -/
def State.crcCounted (s : State) (m : Nat) : State :=
  ((s.bump (F.UCI_LINK_CNT_CRC_ERR m)).countGl 11 1 (some m)).modMod m fun x =>
    { x with crcWin := s.timeBase.toNat / 1000000, crcCount := s.crcNext m }

theorem crcFail_sent (hg : (s.mod m).stage = .active) : s.crcFail m true = s.bump (F.UCI_LINK_CNT_REPLAYS m) :=
  (if_pos (.inl hg)).trans (if_pos rfl)

theorem crcFail_received (hg : (s.mod m).stage = .active ∨ (s.mod m).stage = .drain) :
    s.crcFail m false =
      if (s.mod m).stage = .active ∧ (s.crcCounted m).flag (F.UCI_CTL_AUTO_RETRAIN m) ∧
          (s.crcCounted m).fld (F.UCI_ERR_CFG_RETRY_THRESH m) ≤ s.crcNext m then
        (s.crcCounted m).startRetrain m false else s.crcCounted m := by
  simp only [State.crcFail, State.crcCounted, State.crcNext, hg, Bool.false_eq_true, if_true, if_false]
  exact ite_congr rfl (fun _ => rfl) fun _ => rfl

theorem crcFail_draining (hg : (s.mod m).stage = .drain) : s.crcFail m false = s.crcCounted m :=
  (crcFail_received (.inr hg)).trans (if_neg (by simp [hg]))

theorem crcFail_active (hg : (s.mod m).stage = .active) :
    s.crcFail m false =
      if (s.crcCounted m).flag (F.UCI_CTL_AUTO_RETRAIN m) ∧
          (s.crcCounted m).fld (F.UCI_ERR_CFG_RETRY_THRESH m) ≤ s.crcNext m then
        (s.crcCounted m).startRetrain m false else s.crcCounted m :=
  (crcFail_received (.inl hg)).trans (ite_congr (propext (and_iff_right hg)) (fun _ => rfl) fun _ => rfl)

/-- A retrain ends as a training at the rate in force, which a lower maximum of the partner replaces. -/
theorem retrainEnd_retraining (hg : (s.mod m).stage = .retrain) :
    s.retrainEnd m e =
      (let t := if e.partnerMax.toNat < s.fld (F.UCI_STS_RATE m) then s.trainAt m e.partnerMax.toNat else s
       t.trainWith m (t.fld (F.UCI_STS_RATE m)) e (fun u => (u.setStage m .active).latch F.POLL_SUMMARY_LINK)
         (fun u => u.excludeMod m 5)) := if_pos hg

theorem retrainEnd_inRate (hg : (s.mod m).stage = .retrain) (hr : s.fld (F.UCI_STS_RATE m) ≤ e.partnerMax.toNat) :
    s.retrainEnd m e =
      s.trainWith m (s.fld (F.UCI_STS_RATE m)) e (fun t => (t.setStage m .active).latch F.POLL_SUMMARY_LINK)
        (fun t => t.excludeMod m 5) := by
  simp only [retrainEnd_retraining hg, Nat.not_lt.mpr hr, if_false]

theorem retrainTimeout_lowest (hg : (s.mod m).stage = .retrain) (hr : s.fld (F.UCI_STS_RATE m) = 0) :
    s.retrainTimeout m = s.excludeMod m 5 := (if_pos hg).trans (if_pos hr)

theorem retrainTimeout_lower {r : Nat} (hg : (s.mod m).stage = .retrain) (hr : s.fld (F.UCI_STS_RATE m) = r + 1) :
    s.retrainTimeout m = ((s.rateDowns m 1).trainAt m r).relock m := by
  simp only [State.retrainTimeout, hg, hr, Nat.add_sub_cancel, Nat.add_one_ne_zero, if_true, if_false]

end Retrain

/-! ### Loopbacks -/

section Loopback
variable {s : State} {m : Nat} {l : Lpbk}

/-- A loopback put into its module, its last results void (R151). -/
def State.lpbkPut (s : State) (m mode rate : Nat) : State :=
  ((s.modMod m fun x => { x with lpbk := some ⟨mode, rate, false⟩ }).setFlag (F.UCI_LPBK_STS_VALID m) false).setFlag
    (F.UCI_LPBK_STS_LPBK_ACTIVE m) true

/-- Modes 0b00 and 0b01 need no training. -/
theorem lpbkBegin_local {mode : Nat} (rate : Nat) (h : mode < 2) :
    s.lpbkBegin m mode rate = (s.lpbkPut m mode rate).setStage m .loopback := if_neg (Nat.not_le.mpr h)

theorem lpbkBegin_trains {mode : Nat} (rate : Nat) (h : 2 ≤ mode) :
    s.lpbkBegin m mode rate = (s.lpbkPut m mode rate).startTraining m 1 := if_pos h

theorem lpbkTrained_alone (h : l.mode ≠ 2) :
    s.lpbkTrained m l = (s.setStage m .loopback).modMod m fun x => { x with lpbk := some { l with waiting := false } } := by
  simp only [State.lpbkTrained, h, if_false, beq_eq_false_iff_ne.mpr h]

/-- Mode 0b10 asks the partner, and waits for its answer (R150). -/
theorem lpbkTrained_asks {u : State} (h : l.mode = 2)
    (hu : u = (s.setStage m .loopback).modMod m fun x => { x with lpbk := some { l with waiting := true } }) :
    s.lpbkTrained m l = u.emit (.kyLpbk m true (u.fld (F.UCI_LPBK_CTL_DURATION m)) l.rate) := by
  subst hu
  simp only [State.lpbkTrained, h, if_true, beq_self_eq_true]

section Partner
variable {d : Nat} (hu : (s.mod m).sbUp = true)
include hu

theorem kyLpbk_start (hd : bitOf d 14 = true) (hg : (s.mod m).stage = .excluded) :
    s.kyLpbk m d = ((s.emit (.kyLpbkRsp m .ok)).lpbkPut m 3 (bitsOf d 5 4)).startTraining m 1 := by
  simp only [State.kyLpbk, hu, hd, hg, Bool.not_true, Bool.false_eq_true, if_true, if_false,
    lpbkBegin_trains _ (show 2 ≤ 3 by decide)]

theorem kyLpbk_ignored (hd : bitOf d 14 = true) (hg : (s.mod m).stage ≠ .excluded) :
    s.kyLpbk m d = s.emit (.kyLpbkRsp m .ignored) := by
  simp only [State.kyLpbk, hu, hd, hg, Bool.not_true, Bool.false_eq_true, if_true, if_false]

theorem kyLpbk_stop (hd : bitOf d 14 = false) (hl : s.looping m = true) : s.kyLpbk m d = s.lpbkStop m := by
  simp only [State.kyLpbk, hu, hd, hl, Bool.not_true, Bool.false_eq_true, if_true, if_false]

end Partner

/-- The partner's answer lets a waiting loopback run, or ends it refused. -/
theorem kyLpbkRsp_waiting (hg : (s.mod m).stage = .loopback) (hl : (s.mod m).lpbk = some l) (hw : l.waiting = true)
    (ok : Bool) : s.kyLpbkRsp m ok =
      if ok then s.modMod m fun x => { x with lpbk := some { l with waiting := false } } else s.lpbkEnd m true 0 0 := by
  simp only [State.kyLpbkRsp, hg, hl, hw, and_self, if_true]

/-- No rate that passes reaches the loopback's. -/
theorem passes_none_of_lower {e : LinkEnv} {rate : Nat} (h : ∀ r, e.passes = some r → r.toNat < rate) :
    (e.passes.any fun hp => decide (rate ≤ hp.toNat)) = false := by
  cases hp : e.passes with
  | none => rfl
  | some r => exact decide_eq_false (Nat.not_le.mpr (h r hp))

theorem lpbkRuns_checking (hg : (s.mod m).stage = .loopback) (hl : (s.mod m).lpbk = some l) (hw : l.waiting = false) :
    s.lpbkRuns m = true := by
  simp [State.lpbkRuns, hg, hl, hw]

/-- The module of an ended loopback is EXCLUDED again, with none. -/
theorem lpbkEnd_mod {m : Fin 12} (hl : (s.mod m).lpbk = some l) (refused : Bool) (lanes errors : Nat) :
    (s.lpbkEnd m refused lanes errors).mod m = { s.mod m with stage := .excluded, lpbk := none } := by
  have h : (s.lpbkEnd m refused lanes errors).mods =
      ((s.setStage m .excluded).modMod m fun x => { x with lpbk := none }).mods := by
    simp only [State.lpbkEnd, hl, State.mods_setReg, State.mods_setFld, State.mods_setFlag]
  rw [mod_of_mods h, State.mod_modMod_same, setStage_mod]

section Write
variable {n : PathNum} {v : Word}

theorem wLpbkCtl_overRated (hr : s.part.maxRate < bitsOf v.toNat 5 4) : s.wLpbkCtl n m v = ignored s := if_pos hr

/-- START on an excluded module begins a loopback (R149). -/
theorem wLpbkCtl_start (ha : bitsOf v.toNat 31 30 = 2) (hr : bitsOf v.toNat 5 4 ≤ s.part.maxRate)
    (hg : (s.mod m).stage = .excluded) :
    s.wLpbkCtl n m v =
      done ((s.plainWrite n .UCI_LPBK_CTL m 0 v).lpbkBegin m (bitsOf v.toNat 1 0) (bitsOf v.toNat 5 4)) := by
  simp only [State.wLpbkCtl, ha, hg, gt_iff_lt, Nat.not_lt.mpr hr, if_true, if_false]

theorem wLpbkCtl_start_refused (ha : bitsOf v.toNat 31 30 = 2)
    (h : s.part.maxRate < bitsOf v.toNat 5 4 ∨ (s.mod m).stage ≠ .excluded) : s.wLpbkCtl n m v = ignored s := by
  by_cases hr : s.part.maxRate < bitsOf v.toNat 5 4
  · exact wLpbkCtl_overRated hr
  · simp only [State.wLpbkCtl, ha, gt_iff_lt, hr, h.resolve_left hr, if_false]

/-- STOP ends a loopback, in mode 0b10 after telling the partner (R150). -/
theorem wLpbkCtl_stop (ha : bitsOf v.toNat 31 30 = 1) (hr : bitsOf v.toNat 5 4 ≤ s.part.maxRate)
    (hl : (s.mod m).lpbk = some l) :
    s.wLpbkCtl n m v = done
      (let t := s.plainWrite n .UCI_LPBK_CTL m 0 v
       (if (s.mod m).stage = .loopback ∧ l.mode = 2 then t.emit (.kyLpbk m false 0 0) else t).lpbkStop m) := by
  have hk : (s.plainWrite n .UCI_LPBK_CTL m 0 v).looping m = true := by simp [State.looping, hl]
  simp only [State.wLpbkCtl, ha, gt_iff_lt, Nat.not_lt.mpr hr, hk, hl, State.plainWrite_mod, Option.any_some,
    Bool.and_eq_true, beq_iff_eq, if_true, if_false]

end Write

/-- The word of START or STOP carries its bit alone. -/
theorem lpbkAction_of_withBits (w : Word) {k : Nat} (hk : k < 4) : bitsOf (withBits w 31 30 k).toNat 31 30 = k :=
  bitsOf_withBits w 31 30 k (by decide) (by decide) hk

end Loopback

end Sys2Proof.Machine

namespace Sys2Proof
open Machine

/-- Settles O21: the end of a stage is read off the stage and the loopback of the module; a training goes on at the rate
that passes, or counts an attempt. -/
theorem mainbandsTrain : Obligations.MainbandsTrain := by
  unfold Obligations.MainbandsTrain
  refine ⟨?_, ?_, ?_, ?_, ?_, ?_, ?_, ?_, ?_, ?_, ?_, ?_, ?_, ?_, ?_, ?_, ?_⟩
  · exact fun m s hg ha => finished_eq ((if_pos hg).trans (attemptFailed_again ha))
  · exact fun m s hg ha hl => finished_eq ((if_pos hg).trans (attemptFailed_excludes ha hl))
  · exact fun m s hg ha hl => finished_eq ((if_pos hg).trans (attemptFailed_endsLoopback ha hl))
  · exact fun m e s hg hl => finished_eq (trainingDone_mbInit hg hl)
  · intro m e r s hg hl hx hp hr
    exact finished_eq (by rw [trainingDone_mbTrain hg hl, trainWith_passes hx hp, stepDown_kept hr])
  · rintro m e r r0 s hg hl hx hp hs rfl hr
    exact finished_eq (by rw [trainingDone_mbTrain hg hl, trainWith_passes hx hp, stepDown_lower hr hs])
  · exact fun m e s hg hl hx => finished_eq ((trainingDone_mbTrain hg hl).trans (trainWith_exhausted hx))
  · rintro m e r0 s hg hl hx hp hs rfl h0
    exact finished_eq ((trainingDone_mbTrain hg hl).trans (trainWith_fails hx hp hs h0))
  · exact fun m e s hg ho => finished_eq ((trainingDone_locked hg).trans (if_pos ho))
  · exact fun m e s hg ho => finished_eq ((trainingDone_locked hg).trans (if_neg (by simp [ho])))
  · exact fun m s hg => finished_eq (if_pos hg)
  · exact fun m b s hb hw ha hr hd hl he hu =>
      finished_eq (trainDeadline_missed hb hw (Stage.not_reached ha hr hd hl) he hu)
  · exact fun m d s hg hd => finished_eq ((kyCap_exchanging hg).trans (if_pos hd))
  · exact fun m d s hg hd => finished_eq ((kyCap_exchanging hg).trans (if_neg hd))
  · exact fun m s hg => finished_eq (if_pos hg)
  · exact fun m s => rfl
  · exact fun m s hg => finished_eq (if_pos hg)

/-- Settles O22: a retrain ends as a training does, at the rate that its partner allows; taps are taken or answered
IGNORED, and a failed flit is counted before its window is compared. -/
theorem linksRetrainAndEqualise : Obligations.LinksRetrainAndEqualise := by
  unfold Obligations.LinksRetrainAndEqualise
  refine ⟨?_, ?_, ?_, ?_, ?_, ?_, ?_, ?_, ?_, ?_, ?_, ?_, ?_⟩
  · exact fun m d s hu hg hr ha h1 h2 => finished_eq ((eqSet_up hu).trans (if_pos ⟨hg, hr, ha, h1, h2⟩))
  · exact fun m d s hu h => finished_eq ((eqSet_up hu).trans (eqTake_ignored h))
  · exact fun m s hu => finished_eq (if_pos hu)
  · exact fun m s hg => finished_eq (crcFail_sent hg)
  · rintro m n s t hg rfl rfl
    exact finished_eq (crcFail_draining hg)
  · rintro m n s t hg rfl rfl
    exact finished_eq (crcFail_active hg)
  · exact fun m s hg => finished_eq (if_pos hg)
  · intro m e r s hg hx hp hm hr
    exact finished_eq (by rw [retrainEnd_inRate hg hm, trainWith_passes hx hp, stepDown_kept hr])
  · rintro m e r r0 s hg hx hp hm hs rfl hr
    exact finished_eq (by rw [retrainEnd_inRate hg hm, trainWith_passes hx hp, stepDown_lower hr hs])
  · rintro m e r0 s hg hx hp hm hs rfl h0
    exact finished_eq ((retrainEnd_inRate hg hm).trans (trainWith_fails hx hp hs h0))
  · exact fun m e s hg hx => finished_eq ((retrainEnd_retraining hg).trans (trainWith_exhausted hx))
  · exact fun m s hg hr => finished_eq (retrainTimeout_lowest hg hr)
  · exact fun m r s hg hr => finished_eq (retrainTimeout_lower hg hr)

/-- Settles O24: a loopback begins with its module's record and trains where its mode asks for it; its training is one that
passes at its rate or fails, and its end leaves the module EXCLUDED. -/
theorem loopbacksRun : Obligations.LoopbacksRun := by
  unfold Obligations.LoopbacksRun
  refine ⟨?_, ?_, ?_, ?_, ?_, ?_, ?_, ?_, ?_, ?_, ?_, ?_, ?_, ?_, ?_, ?_, ?_, ?_⟩
  · exact fun m d s hu hd hg => finished_eq (kyLpbk_start hu hd hg)
  · exact fun m d s hu hd hg => finished_eq (kyLpbk_ignored hu hd hg)
  · exact fun m d s hu hd hl => finished_eq (kyLpbk_stop hu hd hl)
  · exact fun m l s hg hl hw => finished_eq ((kyLpbkRsp_waiting hg hl hw _).trans (if_pos rfl))
  · exact fun m st l s hg hl hw hs => finished_eq ((kyLpbkRsp_waiting hg hl hw _).trans (if_neg fun h => hs (eq_of_beq h)))
  · exact fun m l s hg hl hw => finished_eq ((kyLpbkRsp_waiting hg hl hw false).trans (if_neg nofun))
  · rintro p m w v s rfl h hr hg hm
    have hw := wLpbkCtl_start (n := pathNum p) (lpbkAction_of_withBits w (k := 2) (by decide)) hr hg
    rw [lpbkBegin_local _ hm] at hw
    exact finished_eq (s.writeOn_done _ _ _ _ _ _ h hw)
  · rintro p m w v s rfl h hr hg hm
    have hw := wLpbkCtl_start (n := pathNum p) (lpbkAction_of_withBits w (k := 2) (by decide)) hr hg
    rw [lpbkBegin_trains _ hm] at hw
    exact finished_eq (s.writeOn_done _ _ _ _ _ _ h hw)
  · exact fun m e l s hg hl => finished_eq (trainingDone_mbInit_loopback hg hl)
  · exact fun m e l s hg hl hx => finished_eq ((trainingDone_mbTrain_loopback hg hl).trans (if_pos hx))
  · intro m e l s hg hl hx hp
    refine finished_eq ((trainingDone_mbTrain_loopback hg hl).trans ?_)
    simp only [hx, passes_none_of_lower hp, Bool.not_false, Bool.false_eq_true, if_true, if_false]
  · intro m e l r s hg hl hx hp hr hm
    refine finished_eq ((trainingDone_mbTrain_loopback hg hl).trans ?_)
    simp only [hx, hp, hr, Option.any_some, decide_true, Bool.not_true, Bool.false_eq_true, if_false, lpbkTrained_alone hm]
  · intro m e l r s u hg hl hx hp hr hm hu
    refine finished_eq ((trainingDone_mbTrain_loopback hg hl).trans ?_)
    simp only [hx, hp, hr, Option.any_some, decide_true, Bool.not_true, Bool.false_eq_true, if_false,
      lpbkTrained_asks hm hu]
  · rintro p m w v s rfl h hn
    exact finished_eq (s.writeOn_ignored _ _ _ _ _ h (wLpbkCtl_start_refused (lpbkAction_of_withBits w (by decide)) hn))
  · rintro p m w v l s rfl h hr hl
    exact finished_eq (s.writeOn_done _ _ _ _ _ _ h (wLpbkCtl_stop (lpbkAction_of_withBits w (by decide)) hr hl))
  · exact fun m lanes errors l s hg hl hw => finished_eq (if_pos (lpbkRuns_checking hg hl hw))
  · intro s m l r n e hl
    have h := lpbkEnd_mod hl r n e
    exact ⟨congrArg Mod.stage h, congrArg Mod.lpbk h⟩
  · exact fun s m h => if_neg (by simp [h])

end Sys2Proof
end

