-- ==== Sys2Proof/Proofs/RequesterMessages.lean ====
section
/-!
PROOFS. The messages of a requester: what a message that is discarded leaves (table Protocol errors), the entry of a request
that passes every check, and a register access of the CTL class.
-/
namespace Sys2Proof.Machine

/-! ### A message taken from its cells -/

section Cells
variable {s : State} {m cell size b h : Nat}

/-- What is left to ask of a message of a known CLASS that parses (R165 to R168): the INITs, and the credits of its class. -/
def State.takeParsed (s : State) (m cell size b : Nat) : State × Bool :=
  let x := s.mod m
  let u := s.flitAt m cell
  if !x.initOut then (u.protocolError m cell 6, false)
  else if !x.initIn then ((if b / 32 = 1 then u.spendReq m size else u).protocolError m cell 6, false)
  else if b / 32 = 1 then
    if 2048 < x.reqUsed + size then (u.protocolError m cell 4, false) else (u.arriveReq m size, true)
  else if 32 < x.ctlUsed + 1 then (u.protocolError m cell 4, false)
  else (u.modMod m fun y => { y with ctlUsed := y.ctlUsed + 1 }, true)

variable (ha : (s.mod m).stage = .active)
include ha

theorem receives_of_active : s.receives m = true := by simp [State.receives, ha, Stage.receives]

theorem takeMessage_skipped (hk : s.skipped m cell = true) (hb : h % 256 = b) :
    s.takeMessage m cell size b h = (s.dropCells m size b, false) := by
  simp only [State.takeMessage, receives_of_active ha, hk, hb, Bool.not_true, Bool.false_eq_true, if_false, if_true]

/-- A discarded message that is no request leaves nothing: its cells spend no REQ credit (R170). -/
theorem takeMessage_skipped_ctl (hk : s.skipped m cell = true) (hb : b / 32 ≠ 1) :
    s.takeMessage m cell size b h = (s, false) := by
  simp only [State.takeMessage, State.dropCells, receives_of_active ha, hk, hb, Bool.not_true, decide_false, Bool.false_and,
    Bool.false_eq_true, if_false, if_true, ite_self]

theorem dropCells_req (hb : b / 32 = 1) : s.dropCells m size b = s.spendReq m size :=
  if_pos (by simp [hb, ha, Stage.carries])

theorem takeMessage_unknown (hk : s.skipped m cell = false) (hb : h % 256 ≠ b) (hr : requesterOp (h % 256) = false) :
    s.takeMessage m cell size b h = ((s.flitAt m cell).unknownCell m cell h, false) := by
  simp only [State.takeMessage, receives_of_active ha, hk, hb, hr, Bool.not_true, Bool.false_eq_true, if_false, if_true,
    ne_eq, not_false_eq_true]

theorem takeMessage_span (hk : s.skipped m cell = false) (hb : h % 256 = b) (hs : 15 < cell + size) :
    s.takeMessage m cell size b h =
      ((if b / 32 = 1 then (s.flitAt m cell).spendReq m size else s.flitAt m cell).flitError m cell 2, false) := by
  simp only [State.takeMessage, receives_of_active ha, hk, hb, hs, Bool.not_true, Bool.false_eq_true, if_false, if_true,
    ne_eq, not_true_eq_false]

theorem takeMessage_parsed (hk : s.skipped m cell = false) (hb : h % 256 = b) (hs : cell + size ≤ 15) (hc : b / 32 ≠ 0) :
    s.takeMessage m cell size b h = s.takeParsed m cell size b := by
  simp only [State.takeMessage, State.takeParsed, receives_of_active ha, ha, hk, hb, Nat.not_lt.2 hs, hc, Stage.carries,
    Bool.not_true, Bool.false_or, Bool.false_eq_true, decide_false, if_false, ne_eq, not_true_eq_false]

end Cells

section Parsed
variable {s : State} {m cell size b : Nat}

/-- A message ahead of the requester's own view of the link is EARLY and spends nothing (R168, log entry 34). -/
theorem takeParsed_initOut (ho : (s.mod m).initOut = false) :
    s.takeParsed m cell size b = ((s.flitAt m cell).protocolError m cell 6, false) := if_pos (by simp [ho])

theorem takeParsed_initIn (ho : (s.mod m).initOut = true) (hi : (s.mod m).initIn = false) :
    s.takeParsed m cell size b =
      ((if b / 32 = 1 then (s.flitAt m cell).spendReq m size else s.flitAt m cell).protocolError m cell 6, false) := by
  simp only [State.takeParsed, ho, hi, Bool.not_true, Bool.not_false, Bool.false_eq_true, if_false, if_true]

variable (ho : (s.mod m).initOut = true) (hi : (s.mod m).initIn = true)
include ho hi

theorem takeParsed_req_overdrawn (hb : b / 32 = 1) (hu : 2048 < (s.mod m).reqUsed + size) :
    s.takeParsed m cell size b = ((s.flitAt m cell).protocolError m cell 4, false) := by
  simp only [State.takeParsed, ho, hi, hb, hu, Bool.not_true, Bool.false_eq_true, if_false, if_true]

theorem takeParsed_ctl_overdrawn (hb : b / 32 ≠ 1) (hu : 32 ≤ (s.mod m).ctlUsed) :
    s.takeParsed m cell size b = ((s.flitAt m cell).protocolError m cell 4, false) := by
  simp only [State.takeParsed, ho, hi, hb, Nat.lt_succ_of_le hu, Bool.not_true, Bool.false_eq_true, if_false, if_true]

theorem takeParsed_ctl (hb : b / 32 ≠ 1) (hu : (s.mod m).ctlUsed < 32) :
    s.takeParsed m cell size b =
      ((s.flitAt m cell).modMod m fun y => { y with ctlUsed := y.ctlUsed + 1 }, true) := by
  simp only [State.takeParsed, ho, hi, hb, Nat.not_lt.2 hu, Bool.not_true, Bool.false_eq_true, if_false]

end Parsed

/-! ### A first cell that is no message -/

section Unknown
variable {s : State} {m cell h : Nat}

theorem unknownCell_single (h2 : h % 256 ≠ 0x42) (h1 : h % 256 ≠ 0x71) : s.unknownCell m cell h = s.flitError m cell 1 :=
  if_neg (by simp [h2, h1])

/-- A half cell in use whose CLASS is not that of the cell's first half breaks the layout of a pair (R158). -/
theorem unknownCell_pair (hp : h % 256 = 0x42 ∨ h % 256 = 0x71) (hn : bitsOf h 127 64 ≠ 0)
    (hc : bitsOf h 71 69 ≠ bitsOf h 7 5) : s.unknownCell m cell h = s.protocolError m cell 3 :=
  if_pos (by simp [hp, hn, hc])

/-- No requester sends a pair of half cells (table Messages). -/
theorem requesterOp_pair (hp : h % 256 = 0x42 ∨ h % 256 = 0x71) : requesterOp (h % 256) = false := by
  rcases hp with e | e <;> rw [e] <;> decide

end Unknown

/-! ### The commands of a requester's messages -/

theorem reqCode_class (op : ReqOp) : reqCode op / 32 = 1 := by cases op <;> decide

theorem requesterOp_reqCode (op : ReqOp) : requesterOp (reqCode op) = true := by cases op <;> decide

/-- A cell that no requester sends is not the message that a command names. -/
theorem ne_of_requesterOp {a b : Nat} (hb : requesterOp b = true) (ha : requesterOp a = false) : a ≠ b := fun e => by
  rw [e, hb] at ha
  cases ha

section Discarded
variable {s u : State} {m : Fin 12} {cell : Fin 15} {h : BitVec 128}

/-- A request that is discarded leaves what its discarding does. -/
theorem exec_reqCmd_discarded {op : ReqOp} {d : BitVec 512} {be : BitVec 64}
    (hr : s.takeMessage m cell (reqSize op) (reqCode op) h.toNat = (u, false)) :
    exec (reqCmd op m cell h d be) s = .next (commit s u) := by
  rw [exec_reqCmd, State.request, hr]
  rfl

/-- The command of a CTL message and the CLASS and OP of its cell (table Messages). -/
def CfgCmd (i : Instr) (m : Fin 12) (cell : Fin 15) (h : BitVec 128) (b : Nat) : Prop :=
  i = .cfgRd m cell h ∧ b = 0x61 ∨ i = .cfgWr m cell h ∧ b = 0x62

theorem CfgCmd.code {i : Instr} {b : Nat} (c : CfgCmd i m cell h b) : requesterOp b = true ∧ b / 32 = 3 := by
  rcases c with ⟨-, rfl⟩ | ⟨-, rfl⟩ <;> decide

theorem ctlMessage_discarded {write : Bool} {n : Nat}
    (hr : s.takeMessage m cell 1 (if write then 0x62 else 0x61) n = (u, false)) : s.ctlMessage m cell n write = u := by
  simp only [State.ctlMessage, hr, Bool.not_false, if_true]

theorem exec_cfg_discarded {i : Instr} {b : Nat} (c : CfgCmd i m cell h b)
    (hr : s.takeMessage m cell 1 b h.toNat = (u, false)) : exec i s = .next (commit s u) := by
  rcases c with ⟨rfl, rfl⟩ | ⟨rfl, rfl⟩
  · exact finished_eq (ctlMessage_discarded (write := false) hr)
  · exact finished_eq (ctlMessage_discarded (write := true) hr)

end Discarded

/-! ### The entry of a request -/

section Entry
variable {s : State} {m : Fin 12} {cell : Fin 15} {h : BitVec 128}

/-- A read writes no place of the user range. -/
theorem userWrite_rd {t : Txn} (ho : t.op = .rd) : s.userWrite t = s := if_neg fun c => c.1 ho

/-- A fence takes no part in the sampling of tags. -/
theorem tagRequest_fence {t : Txn} (ho : t.op = .fence) : s.tagRequest t = s := if_pos ho

theorem accept_fence_entered {t : Txn} {priv : Bool} (ho : t.op = .fence) (hs : s.serves = true)
    (he : s.entryFree t.m = true) : s.accept t priv true = (s.enter { t with stage := .fence }).settle := by
  simp only [State.accept, tagRequest_fence ho, hs, ho, he, Bool.not_true, Bool.or_self, Bool.false_eq_true, if_false,
    if_true]

/-- A request of memory that is taken and passes every check is tagged and enters. -/
theorem exec_reqCmd_entered {op : ReqOp} {d : BitVec 512} {be : BitVec 64} {t : Txn} (hf : op ≠ .fence)
    (g : s.takesReq m cell (reqSize op) (reqCode op) h.toNat = true)
    (ht : t = (s.afterReq m cell (reqSize op)).headerTxn m op h.toNat (reqData op d) (reqMask op be))
    (ho : ((s.afterReq m cell (reqSize op)).tagRequest t).admits t
      ((s.afterReq m cell (reqSize op)).privTaken m h.toNat) = true) :
    exec (reqCmd op m cell h d be) s =
      .next (commit s ((((s.afterReq m cell (reqSize op)).tagRequest t).userWrite t).enter t)) := by
  subst ht
  exact exec_reqCmd_taken g (State.accept_admitted _ _ _ hf ho)

end Entry

/-! ### Register accesses of the CTL class -/

section Ctl
variable {s t : State} {m : Fin 12} {cell : Fin 15} {n : Nat} {write : Bool}

/-- The module serves a CTL message that comes at `cell`: it is in service, both INITs have passed, a credit is left, and no
error of the flit discards the cell (R148, R166 to R168, R192). -/
structure ServesCtl (s : State) (m : Fin 12) (cell : Fin 15) : Prop where
  active : (s.mod m).stage = .active
  included : s.flag (F.UCI_STS_EXCLUDED m) = false
  initOut : (s.mod m).initOut = true
  initIn : (s.mod m).initIn = true
  credit : (s.mod m).ctlUsed < 32
  kept : s.skipped m cell = false

/-- What the arrival of a CTL message leaves: its flit counted and a credit spent (R166). -/
def State.afterCtl (s : State) (m cell : Nat) : State :=
  (s.flitAt m cell).modMod m fun y => { y with ctlUsed := y.ctlUsed + 1 }

theorem takeMessage_ctl (g : ServesCtl s m cell) {b : Nat} (hb : n % 256 = b) (hc : b / 32 = 3) :
    s.takeMessage m cell 1 b n = (s.afterCtl m cell, true) :=
  (takeMessage_parsed g.active g.kept hb (by omega) (by omega)).trans
    (takeParsed_ctl g.initOut g.initIn (by omega) g.credit)

/-- A CTL message that is served is the access that it names, answered on its path (R173 to R175). -/
theorem ctlMessage_served (g : ServesCtl s m cell) (hb : n % 256 = if write then 0x62 else 0x61) :
    s.ctlMessage m cell n write =
      finish (.ctl m (bitOf n 36)) (4 * bitsOf n 61 40) write (.ctl m (bitsOf n 21 8))
        ((s.afterCtl m cell).access (.ctl m (bitOf n 36)) (4 * bitsOf n 61 40) write (BitVec.ofNat 32 (bitsOf n 127 96))
          Given.plain (.ctl m (bitsOf n 21 8))) := by
  simp only [State.ctlMessage, takeMessage_ctl g hb (by cases write <;> rfl), g.active, g.included, Bool.not_true,
    Bool.false_eq_true, ne_eq, not_true_eq_false, or_self, false_and, if_false]

variable {p : Path} {r : Reg} {u i : Nat} {w : Word} {a : Answer}

theorem finish_read (hr : plainReg r = true) (hg : t.readable p r u i = true) :
    finish p (adr r u i) false a (t.access p (adr r u i) false w Given.plain a) =
      (t.noteAccess (t.life.session != 0 && t.life.sessPath == pathNum p) (pathNum p) false (adr r u i) w).complete
        (pathNum p) (adr r u i) false a .ok (t.view (pathNum p) (pathHalf p) r u i) := by
  rw [t.access_readable _ _ _ _ _ _ hg hr]
  rfl

theorem finish_written (hr : plainReg r = true) (hg : t.granted p r u i w = true) :
    finish p (adr r u i) true a (t.access p (adr r u i) true w Given.plain a) =
      (t.taken p (adr r u i) w (t.plainWrite (pathNum p) r u i w)).complete (pathNum p) (adr r u i) true a .ok 0 := by
  rw [t.access_granted _ _ _ _ _ _ _ hg, t.writeReg_plain_on _ _ _ _ _ _ hr]
  rfl

end Ctl

end Sys2Proof.Machine

namespace Sys2Proof
open Machine

/-- Settles O25: each of the five messages is the request of its operation; one that is admitted enters with the operands
of its cells, and one that the window has no room for waits. -/
theorem requestsTakeTheirEntries : Obligations.RequestsTakeTheirEntries := by
  unfold Obligations.RequestsTakeTheirEntries
  refine ⟨?_, ?_, ?_, ?_, ?_, ?_⟩
  · rintro m cell h t s g ht ho
    have hx := exec_reqCmd_entered (op := .rd) (d := 0) (be := 0) nofun g ht ho
    rwa [userWrite_rd (ht ▸ rfl)] at hx
  · exact fun m cell h d t s g ht ho => exec_reqCmd_entered (op := .wr) (be := 0) nofun g ht ho
  · exact fun m cell h d be t s g ht ho => exec_reqCmd_entered (op := .wrPart) nofun g ht ho
  · exact fun m cell h t s g ht ho => exec_reqCmd_entered (op := .wrZero) (d := 0) (be := 0) nofun g ht ho
  · rintro m cell h t u s g rfl rfl hs he
    exact exec_reqCmd_taken (op := .fence) (d := 0) (be := 0) g (accept_fence_entered rfl hs he)
  · rintro m cell h d be u s g hi hw rfl
    exact finished_eq (s.request_waits m cell 6 0x23 h.toNat .wrPart d be rfl g hi hw)

/-- Settles O27: a message is discarded at the first of the checks of its cells that it fails, by the law of the one
operation that takes messages; a request then goes no further, nor does a register access. -/
theorem badMessagesAreProtocolErrors : Obligations.BadMessagesAreProtocolErrors := by
  unfold Obligations.BadMessagesAreProtocolErrors
  refine ⟨?_, ?_, fun s m cell code => rfl⟩
  · rintro op m cell h d be u s ha rfl
    have hc := reqCode_class op
    have hne {a : Nat} : requesterOp a = false → a ≠ reqCode op := ne_of_requesterOp (requesterOp_reqCode op)
    refine ⟨fun hk hb => ?_, fun hk => ⟨fun hr h2 h1 => ?_, fun hp hn hd => ?_, fun hb hs => ?_, fun hb hs => ?_, ?_⟩⟩
    · exact exec_reqCmd_discarded ((takeMessage_skipped ha hk hb).trans (by rw [dropCells_req ha hc]))
    · exact exec_reqCmd_discarded ((takeMessage_unknown ha hk (hne hr) hr).trans (by rw [unknownCell_single h2 h1]))
    · have hr := requesterOp_pair hp
      exact exec_reqCmd_discarded ((takeMessage_unknown ha hk (hne hr) hr).trans (by rw [unknownCell_pair hp hn hd]))
    · exact exec_reqCmd_discarded ((takeMessage_span ha hk hb hs).trans (by rw [if_pos hc]))
    · have hx := takeMessage_parsed ha hk hb hs (by omega)
      refine ⟨fun ho => ?_, fun ho hi => ?_, fun ho hi hu => ?_⟩
      · exact exec_reqCmd_discarded (hx.trans (takeParsed_initOut ho))
      · exact exec_reqCmd_discarded (hx.trans ((takeParsed_initIn ho hi).trans (by rw [if_pos hc])))
      · exact exec_reqCmd_discarded (hx.trans (takeParsed_req_overdrawn ho hi hc hu))
    · intro g hi hw ht
      rw [exec_reqCmd, s.request_repeated m cell _ _ _ op _ _ hc g hi hw ht]
      rfl
  · rintro m cell h i b u s c ha rfl
    obtain ⟨hb, hc⟩ := CfgCmd.code c
    refine ⟨fun hk => ?_, fun hk => ⟨fun hr h2 h1 => ?_, fun he => ?_⟩⟩
    · exact exec_cfg_discarded c (takeMessage_skipped_ctl ha hk (by omega))
    · exact exec_cfg_discarded c
        ((takeMessage_unknown ha hk (ne_of_requesterOp hb hr) hr).trans (by rw [unknownCell_single h2 h1]))
    · have hx := takeMessage_parsed (size := 1) ha hk he (by omega) (by omega)
      have hq : b / 32 ≠ 1 := by omega
      refine ⟨fun hi => ?_, fun ho hi hu => ?_⟩
      · refine exec_cfg_discarded c (hx.trans ?_)
        cases ho : (s.mod m).initOut
        · exact takeParsed_initOut ho
        · exact (takeParsed_initIn ho (hi.resolve_left (by simp [ho]))).trans (by rw [if_neg hq])
      · exact exec_cfg_discarded c (hx.trans (takeParsed_ctl_overdrawn ho hi hq hu))

/-- Settles O29: a CTL message that its module serves is the access of its register on the path of the module and of
PRIVREQ, and the answer of that access is queued there. -/
theorem configurationMessagesAccessRegisters : Obligations.ConfigurationMessagesAccessRegisters := by
  unfold Obligations.ConfigurationMessagesAccessRegisters
  refine ⟨?_, ?_, ?_⟩
  · rintro m cell h t s ha hx ho hi hu hk rfl
    have g : ServesCtl s m cell := ⟨ha, hx, ho, hi, hu, hk⟩
    exact ⟨fun hb => finished_eq (ctlMessage_served (write := false) g hb),
      fun hb => finished_eq (ctlMessage_served (write := true) g hb)⟩
  · rintro m cell h t r u i w p s ha hx ho hi hu hk rfl rfl hr hadr rfl
    have g : ServesCtl s m cell := ⟨ha, hx, ho, hi, hu, hk⟩
    refine ⟨fun hb hg => finished_eq ?_, fun hb hg => finished_eq ?_⟩
    · rw [ctlMessage_served (write := false) g hb, hadr]
      exact finish_read hr hg
    · rw [ctlMessage_served (write := true) g hb, hadr]
      exact finish_written hr hg
  · exact fun s m n a wr tag st d hx => if_neg (by simp [hx])

end Sys2Proof
end

