-- ==== Sys2Proof/Proofs/Deadlines.lean ====
section
/-!
PROOFS. The deadline of a request, and the arming of transport injection.
-/
namespace Sys2Proof.Machine

section Deadline
variable {s : State} {m tag : Nat} {t : Txn} (hf : s.findTxn m tag = some t)
include hf

/-- An injected timeout counts nowhere (R194). -/
theorem requestDeadline_injected (hg : t.stage = .injTimeout) :
    s.requestDeadline m tag = (s.advanceTo (t.t0 + 50000)).reply t (.ack .timeout 0) := by
  simp only [State.requestDeadline, hf, hg, if_true]

/-- Another is counted; a channel that works on the request keeps its entry, answered (R188). -/
theorem requestDeadline_counted (hg : t.stage ≠ .injTimeout) :
    s.requestDeadline m tag =
      ((((if t.stage.working then (s.advanceTo (t.t0 + 50000)).setTxn t { t with answered := true }
        else s.advanceTo (t.t0 + 50000)).reply t (.ack .timeout 0)).bumpBoth F.XPT_TIMEOUT_CNT_TIMEOUTS).raise 37
          (modBit m)) := by
  simp only [State.requestDeadline, hf, hg, if_false]

end Deadline

/-- No channel works on an injected timeout. -/
theorem not_injTimeout_of_working {g : TxnStage} (h : g.working = true) : g ≠ .injTimeout := by
  rintro rfl
  cases h

section Arm
variable {s : State} {p : PathNum} {v : Word}

/-- POISON on writes only is the reserved combination (R194). -/
theorem wInjCtl_reserved (ha : bitOf v.toNat 31 = true) (hs : bitsOf v.toNat 27 24 = 1) (hk : bitsOf v.toNat 11 10 ≠ 0) :
    s.wInjCtl p v = ignored s := if_pos (by simp [ha, hs, hk])

theorem wInjCtl_arm (ha : bitOf v.toNat 31 = true) (hn : bitsOf v.toNat 27 24 ≠ 1 ∨ bitsOf v.toNat 11 10 = 0) :
    s.wInjCtl p v =
      done ((if s.flag F.XPT_INJ_CTL_ARM then s else s.setBoth F.XPT_INJ_CTL_INJECTED 0).plainWrite p .XPT_INJ_CTL 0 0 v) := by
  refine (if_neg (by rcases hn with h | h <;> simp [h])).trans ?_
  cases s.flag F.XPT_INJ_CTL_ARM <;> simp [ha]

end Arm

end Sys2Proof.Machine

namespace Sys2Proof
open Machine

/-- Settles O30: a deadline that passes is an answer, counted unless it was injected; a write that arms injection is one of
XPT_INJ_CTL with its ARM bit put in. -/
theorem deadlinesAndInjection : Obligations.DeadlinesAndInjection := by
  unfold Obligations.DeadlinesAndInjection
  refine ⟨?_, ?_, ?_, ?_, ?_⟩
  · exact fun m tag t s hf hg hw =>
      finished_eq ((requestDeadline_counted hf hg).trans (by simp only [hw, Bool.false_eq_true, if_false]))
  · exact fun m tag t s hf hw =>
      finished_eq ((requestDeadline_counted hf (not_injTimeout_of_working hw)).trans (by simp only [hw, if_true]))
  · exact fun m tag t s hf hg => finished_eq (requestDeadline_injected hf hg)
  · rintro p w v s rfl h hn
    exact finished_eq (s.writeOn_done _ _ _ _ _ _ h (wInjCtl_arm (bitOf_withBits w 31 true (by decide)) hn))
  · rintro p w v s rfl h hs hk
    exact finished_eq (s.writeOn_ignored _ _ _ _ _ h (wInjCtl_reserved (bitOf_withBits w 31 true (by decide)) hs hk))

end Sys2Proof
end

