-- ==== Sys2Proof/Proofs/RequestsPerformed.lean ====
section
/-!
PROOFS. The performing of a request: a hit through a column port, the transfer of a sector cycle, and the claim of the
requests in a vertical cycle.
-/
namespace Sys2Proof.Machine

/-! ### A hit -/

section Hit
variable {s : State} {t : Txn} {i : Nat}

theorem hitGone_absent (hs : s.findSlot (s.txnPlace t).loc = none) : s.hitGone t = true := by
  simp only [State.hitGone, hs]

theorem hitGone_evicting (hs : s.findSlot (s.txnPlace t).loc = some i)
    (he : (s.slot (locCh (s.txnPlace t).loc) i).state = .evicting) (ho : t.op ≠ .rd) : s.hitGone t = true := by
  simp [State.hitGone, hs, he, ho]

/-- A slot that serves a request holds its row (R245). -/
theorem hitGone_of_servable (h : s.servable t = true) : s.hitGone t = false := by
  simp only [State.servable, Bool.and_eq_true, Bool.not_eq_true', Option.isSome_iff_exists] at h
  obtain ⟨⟨-, i, hs⟩, hw⟩ := h
  simp only [State.rowWaits, hs, Bool.or_eq_false_iff] at hw
  obtain ⟨-, -, hst⟩ := hw
  simp only [State.hitGone, hs]
  exact hst

section Command
variable {m tag : Nat} (hf : s.findAt m tag (· == .hit) = some t) (hb : s.blocked t = false)
include hf hb

theorem lagoonHit_gone (hg : s.hitGone t = true) : s.lagoonHit m tag = s.setTxn t { t with stage := .queued } := by
  simp only [State.lagoonHit, hf, hb, hg, Bool.false_eq_true, if_false, if_true]

theorem lagoonHit_served (hs : s.servable t = true) (hp : s.portTurn t = true) :
    s.lagoonHit m tag = (s.countCh (locCh (s.txnPlace t).loc) 4 1 (some t.m) (some t.flow)).perform t 0 true := by
  simp only [State.lagoonHit, hf, hb, hitGone_of_servable hs, hs, hp, Bool.and_self, Bool.false_eq_true, if_false, if_true]

end Command

end Hit

/-! ### A sector cycle -/

section Transfer
variable {s : State} {t : Txn}

/-- The state in which a sector cycle of a request transfers: counted, and its bank served. -/
def State.inSectorCycle (s : State) (t : Txn) : State :=
  (s.countCh (locCh (s.txnPlace t).loc) 5 1 (some t.m) (some t.flow)).cycleServed (s.txnPlace t).loc

theorem wholeWrite_rd (ho : t.op = .rd) : t.wholeWrite = true := by simp [Txn.wholeWrite, ho]

/-- A WR_PART reads and merges before it writes (R239). -/
theorem sectorTransfer_merge (hw : t.wholeWrite = false) (hm : t.merged = none) :
    s.sectorTransfer t = ((s.inSectorCycle t).partRead t).1.setTxn t
      { t with launched := false, merged := some ((s.inSectorCycle t).partRead t).2 } :=
  if_pos (by simp [hw, hm])

theorem sectorTransfer_perform (h : t.wholeWrite = true ∨ t.merged ≠ none) :
    s.sectorTransfer t = (s.inSectorCycle t).perform t 1 false :=
  if_neg (by rcases h with h | h <;> simp [h])

theorem sectorTransfer_read (ho : t.op = .rd) : s.sectorTransfer t = (s.inSectorCycle t).performRead t 1 false :=
  (sectorTransfer_perform (.inl (wholeWrite_rd ho))).trans (if_pos ho)

theorem sectorTransfer_write (ho : t.op ≠ .rd) (h : t.wholeWrite = true ∨ t.merged ≠ none) :
    s.sectorTransfer t = (s.inSectorCycle t).performWrite t 1 := (sectorTransfer_perform h).trans (if_neg ho)

variable {m tag : Nat} (hf : s.findAt m tag (· == .sector) = some t)
include hf

theorem sectorCycle_launched (hl : t.launched = true) : s.sectorCycle m tag = s.sectorTransfer t := by
  simp only [State.sectorCycle, hf, hl, if_true]

theorem sectorCycle_waiting (hl : t.launched = false) : s.sectorCycle m tag = s := by
  simp only [State.sectorCycle, hf, hl, Bool.false_eq_true, if_false]

end Transfer

/-! ### The claim of the requests -/

theorem requestClaim_taken (s : State) (c : Nat) {k : Cycle}
    (hk : k = ((s.waitingCycles c).filter (s.beforeProgs c)).foldl (packOne c) ⟨s, none, [], [], false⟩) :
    (s.requestClaim c).2 = true ↔ k.full = true ∨ k.lanes ≠ [] := by
  subst hk
  simp only [State.requestClaim, Bool.or_eq_true, Bool.not_eq_true', List.isEmpty_eq_false_iff]

section Pack
variable {c : Nat} {k : Cycle} {t : Txn}

theorem packOne_full (h : k.full = true) : packOne c k t = k := if_pos h

theorem packOne_promotion_beside (ht : t.stage = .promoting) (hl : k.lanes ≠ []) : packOne c k t = k := by
  simp [packOne, ht, hl]

theorem packOne_promotion (hk : k.full = false) (ht : t.stage = .promoting) (hl : k.lanes = []) :
    packOne c k t = { k with st := (k.st.promote t).1, full := (k.st.promote t).2 } := by
  simp only [packOne, hk, ht, hl, List.isEmpty_nil, Bool.not_true, Bool.false_eq_true, if_false, if_true]

end Pack

section Sector
variable {c : Nat} {k : Cycle} {t : Txn} {x : Place3} {up : Bool} {seg : Nat × Nat}

/-- A sector cycle at place `x`, in the segment `seg` of its row, in direction `up`, put into a vertical cycle (R234, R235,
R240). -/
def Cycle.putSector (k : Cycle) (c : Nat) (t : Txn) (x : Place3) (up : Bool) (seg : Nat × Nat) : Cycle :=
  if (k.dir.getD up) != up || k.lanes.contains x.sector then k
  else if k.acts.contains seg then
    { k with st := k.st.grantTxn t { t with launched := true }, lanes := x.sector :: k.lanes }
  else if k.acts.any fun a => locCbi a.1 == locCbi x.loc then k
  else if !k.st.bankOpen x.loc then k
  else if !k.st.fitsBudget c 1 then { k with st := k.st.stall c (some t.m, some t.flow) }
  else ⟨(k.st.activate x.loc 1 (some t.m, some t.flow)).grantTxn t { t with launched := true }, some up,
    x.sector :: k.lanes, seg :: k.acts, k.full⟩

theorem packOne_sector (hk : k.full = false) (ht : t.stage = .sector) (hx : x = k.st.txnPlace t)
    (hs : seg = (x.loc, x.sector / 8)) (hu : up = (t.op == .rd || (!t.wholeWrite && t.merged.isNone))) :
    packOne c k t = k.putSector c t x up seg := by
  subst hu hs hx
  simp only [packOne, hk, ht, reduceCtorEq, Bool.false_eq_true, if_false]
  rfl

/-- A cycle of the other direction, or whose lane of the sector is taken, is not for the request (R234, R235). -/
theorem putSector_misfit (h : k.dir = some (!up) ∨ x.sector ∈ k.lanes) : k.putSector c t x up seg = k :=
  if_pos (by rcases h with h | h <;> simp [h])

/-- The bank has another row in the cycle, or is not open (R235, R240). -/
theorem putSector_bankTaken (hs : seg ∉ k.acts)
    (h : (∃ a ∈ k.acts, locCbi a.1 = locCbi x.loc) ∨ k.st.bankOpen x.loc = false) :
    k.putSector c t x up seg = k := by
  rcases h with ⟨a, ha, hb⟩ | h
  · have hany : (k.acts.any fun a => locCbi a.1 == locCbi x.loc) = true := List.any_eq_true.mpr ⟨a, ha, beq_iff_eq.mpr hb⟩
    simp only [Cycle.putSector, hany, if_true, ite_self, if_neg (mt List.contains_iff_mem.mp hs)]
  · simp [Cycle.putSector, h, hs]

/-- A cycle that has no direction yet takes that of its first sector. -/
theorem getD_of_ne_some_not {d : Option Bool} (hd : d ≠ some (!up)) : d.getD up = up := by
  cases d with
  | none => rfl
  | some b => exact Bool.not_eq_not.mp fun e => hd (congrArg some e)

section Fits
variable (hd : k.dir ≠ some (!up)) (hl : x.sector ∉ k.lanes)
include hd hl

theorem putSector_joins (hs : seg ∈ k.acts) : k.putSector c t x up seg =
    { k with st := k.st.grantTxn t { t with launched := true }, lanes := x.sector :: k.lanes } := by
  simp [Cycle.putSector, getD_of_ne_some_not hd, hl, hs]

variable (hs : seg ∉ k.acts)
include hs

variable (hb : ∀ a ∈ k.acts, locCbi a.1 ≠ locCbi x.loc) (ho : k.st.bankOpen x.loc = true)
include hb ho

theorem putSector_stalls (hc : k.st.fitsBudget c 1 = false) : k.putSector c t x up seg =
    { k with st := k.st.stall c (some t.m, some t.flow) } := by
  have hany : (k.acts.any fun a => locCbi a.1 == locCbi x.loc) = false := by simpa using hb
  simp [Cycle.putSector, getD_of_ne_some_not hd, hl, hs, hany, ho, hc]

theorem putSector_activates (hc : k.st.fitsBudget c 1 = true) : k.putSector c t x up seg =
    ⟨(k.st.activate x.loc 1 (some t.m, some t.flow)).grantTxn t { t with launched := true }, some up,
      x.sector :: k.lanes, seg :: k.acts, k.full⟩ := by
  have hany : (k.acts.any fun a => locCbi a.1 == locCbi x.loc) = false := by simpa using hb
  simp [Cycle.putSector, getD_of_ne_some_not hd, hl, hs, hany, ho, hc]

end Fits

end Sector

section Promotion
variable {s : State} {t : Txn} {loc i : Nat} (hl : loc = (s.txnPlace t).loc)
include hl

theorem promote_without_victim (hv : (s.chan (locCh loc)).victim = none) :
    s.promote t = (s.setTxn t { t with stage := .sector }, false) := by
  subst hl
  simp only [State.promote, hv]

variable (hv : (s.chan (locCh loc)).victim = some i)
include hv

theorem promote_closing (hc : (s.chan (locCh loc)).closing (locCbi loc) = true) :
    s.promote t = (s.setTxn t { t with stage := .afterRefresh }, false) := by
  subst hl
  simp only [State.promote, hv, hc, if_true]

/-- A victim that holds nothing to write back gives way to the row's move-in (R231, R236). -/
theorem promote_moveIn (hc : (s.chan (locCh loc)).closing (locCbi loc) = false)
    (hd : (s.slot (locCh loc) i).state ≠ .dirty) (hr : s.rowInCycle loc = false) (ho : s.bankOpen loc = true)
    (hb : s.fitsBudget (locCh loc) 4 = true) :
    s.promote t = ((s.grantTxn t { t with stage := .moveIn i }).launchMoveIn (locCh loc) i loc (some t.m, some t.flow),
      true) := by
  subst hl
  simp only [State.promote, State.claimOn, Txn.by_, hv, hc, hd, hr, ho, hb, Bool.not_true, Bool.false_eq_true, if_false]

end Promotion

end Sys2Proof.Machine

namespace Sys2Proof
open Machine

/-- Settles O34: a hit and a sector cycle by what their slot and their launch say; the claim of a vertical cycle by what one
request more makes of it, a sector by its fit and a promotion by its victim. -/
theorem requestsArePerformed : Obligations.RequestsArePerformed := by
  unfold Obligations.RequestsArePerformed
  refine ⟨?_, ?_, ?_, ?_, ?_, ?_, ?_, ?_, ?_⟩
  · exact fun m tag t s hf hb hs hp => finished_eq (lagoonHit_served hf hb hs hp)
  · exact fun m tag t s hf hb hn => finished_eq (lagoonHit_gone hf hb (hitGone_absent hn))
  · exact fun m tag t i s hf hb hs he ho => finished_eq (lagoonHit_gone hf hb (hitGone_evicting hs he ho))
  · rintro m tag t u x s hf hl rfl rfl
    have hx := sectorCycle_launched hf hl
    exact ⟨fun ho => finished_eq (hx.trans (sectorTransfer_read ho)),
      fun ho hw => finished_eq (hx.trans (sectorTransfer_write ho hw)),
      fun hw hm => finished_eq (hx.trans (sectorTransfer_merge hw hm))⟩
  · exact fun m tag t s hf hl => finished_eq (sectorCycle_waiting hf hl)
  · exact fun c s => ⟨rfl, requestClaim_taken s c rfl⟩
  · intro c k t x up seg hk ht hx hs hu
    rw [packOne_sector hk ht hx hs hu]
    refine ⟨putSector_misfit, fun hd hl => ⟨putSector_joins hd hl, putSector_bankTaken, fun hn hb ho => ⟨?_, ?_⟩⟩⟩
    · exact putSector_stalls hd hl hn hb ho
    · exact fun hc => (putSector_activates hd hl hn hb ho hc).trans (by rw [hk])
  · rintro c k t (hk | ⟨ht, hl⟩)
    · exact packOne_full hk
    · exact packOne_promotion_beside ht hl
  · intro c k t loc hk ht hl hx
    have hp := packOne_promotion (c := c) hk ht hl
    refine ⟨fun hv => ?_, fun i hv hc => ?_, fun i hv hc hd hr ho hb => ?_⟩
    · rw [hp, promote_without_victim hx hv]
    · rw [hp, promote_closing hx hv hc]
    · rw [hp, promote_moveIn hx hv hc hd hr ho hb]

end Sys2Proof
end

