-- ==== Sys2Proof/Proofs/StepInvariants.lean ====
section
/-!
PROOFS. What a step can make of a state, and the two invariants that every step keeps: the throttle step shown and the
canonical form of the stores.
-/
namespace Sys2Proof.Machine
open Sys2Proof.Laws

/-- A step carries out the front command, lets an edge of the time base pass, or rests in RESET (R60, log entry 1). -/
theorem step_cases {s t : State} (h : step s = .next t) :
    (∃ i rest, exec i { s with pending := rest } = .next t) ∨ t = commit s (s.advance 1) ∨ (s.mode = .reset ∧ t = s) := by
  unfold step at h
  split at h
  next i rest _ => exact .inl ⟨i, rest, h⟩
  next =>
    split at h
    next hm => exact .inr (.inr ⟨hm, (Host.Outcome.next.inj h).symm⟩)
    next => exact .inr (.inl (Host.Outcome.next.inj h).symm)

/-- The throttle step is shown after any step, whatever was shown before: every command ends with `commit` (R219, R414). -/
theorem step_throttleShown {s t : State} (h : step s = .next t) : t.throttleShown := by
  obtain ⟨i, rest, he⟩ | rfl | ⟨hm, rfl⟩ := step_cases h
  · obtain ⟨u, rfl⟩ := exec_next i _ t he
    exact commit_throttle _ u
  · exact commit_throttle s _
  · exact throttleShown_of_reset hm

theorem step_canon {s t : State} (hc : Canon s) (h : step s = .next t) : Canon t := by
  obtain ⟨i, rest, he⟩ | rfl | ⟨-, rfl⟩ := step_cases h
  · exact next_canon hc.upd he
  · exact commit_canon hc (advance_canon hc)
  · exact hc

end Sys2Proof.Machine

namespace Sys2Proof
open Machine

/-- Settles O5: `commit` ends every command by showing the step in force, and every operation keeps the canonical form. -/
theorem everyStepKeepsTheInvariants : Obligations.EveryStepKeepsTheInvariants := by
  unfold Obligations.EveryStepKeepsTheInvariants
  exact fun s t h => ⟨fun _ => step_throttleShown h, fun hc => (step_canon ⟨hc⟩ h).ok⟩

end Sys2Proof
end

