-- ==== Sys2Proof/Proofs/ServiceGuarantees.lean ====
section
/-!
PROOFS. The QoS window, the classification of a request by its cap and its guarantee, and the urgency wires.
-/
namespace Sys2Proof.Machine

/-! ### Classification -/

section Classify
variable {s : State} {m tag : Nat} {t : Txn}

/-- The cap of a request's flow lets it through: the flow has none, or its bucket holds a whole sector (R201). -/
def State.capAllows (s : State) (t : Txn) : Prop := s.maxRate t.flow = 0 ∨ 16 ≤ s.caps.get (fun _ => 0) (bucket t)

/-- The request's bucket holds a guaranteed token (R201). -/
def State.holdsToken (s : State) (t : Txn) : Bool := decide (16 ≤ s.guar.get (fun _ => 0) (bucket t))

/-- The cap of a request's flow paid (R201). -/
def State.payCap (s : State) (t : Txn) : State :=
  if s.maxRate t.flow = 0 then s
  else { s with caps := s.caps.set (fun _ => 0) (bucket t) (s.caps.get (fun _ => 0) (bucket t) - 16) }

/-- A guaranteed token of a request's bucket spent, where it holds one (R201). -/
def State.payGuar (s : State) (t : Txn) : State :=
  if s.holdsToken t then { s with guar := s.guar.set (fun _ => 0) (bucket t) (s.guar.get (fun _ => 0) (bucket t) - 16) }
  else s

/-- A request whose buckets are charged in `w` leaves the fabric of `s` for its channel: counted as guaranteed or excess,
its way to the other half counted, its tag's times noted (R201, R498). -/
def State.sendToChannel (s w : State) (m : Nat) (t : Txn) (g : Bool) : State :=
  let u := w.countGl (if g then 7 else 8) 1 (some m) (some t.flow)
  let v := if halfOfMod m = halfOfChan (locCh (s.txnPlace t).loc) then u else u.countGl 0xD 1 (some m) (some t.flow)
  ((v.setTxn t { t with guaranteed := g }).tagMod t fun x => { x with dFabric := some (s.now - t.t0), guar := g }).arrive
    { t with guaranteed := g }

theorem payCap_uncapped (h : s.maxRate t.flow = 0) : s.payCap t = s := if_pos h

theorem payCap_holdsToken : (s.payCap t).holdsToken t = s.holdsToken t := by
  unfold State.payCap
  split <;> rfl

variable (hf : s.findTxn m tag = some t)
include hf

theorem classify_outOfTurn (ht : s.fabricTurn t = false) : s.classify m tag = s := by
  simp only [State.classify, hf, ht, Bool.not_false, or_true, if_true]

variable (ha : t.stage = .accepted) (ht : s.fabricTurn t = true)
include ha ht

theorem classify_capped (hc : ¬ s.capAllows t) : s.classify m tag = s.setTxn t { t with stage := .capWait } := by
  obtain ⟨hm, hb⟩ := not_or.mp hc
  simp only [State.classify, hf]
  rw [if_neg (by simp [ha, ht]), if_pos ⟨hm, Nat.lt_of_not_le hb⟩]

theorem classify_sent (hc : s.capAllows t) :
    s.classify m tag = s.sendToChannel ((s.payCap t).payGuar t) m t ((s.payCap t).holdsToken t) := by
  simp only [State.classify, hf]
  rw [if_neg (by simp [ha, ht]), if_neg (fun h => hc.elim h.1 (Nat.not_le.mpr h.2))]
  rfl

theorem classify_guaranteed (hc : s.capAllows t) (hg : s.holdsToken t = true) :
    s.classify m tag = s.sendToChannel ((s.payCap t).payGuar t) m t true := by
  rw [classify_sent hf ha ht hc, payCap_holdsToken, hg]

theorem classify_excess (hc : s.capAllows t) (hg : s.holdsToken t = false) :
    s.classify m tag = s.sendToChannel (s.payCap t) m t false := by
  rw [classify_sent hf ha ht hc, payCap_holdsToken, hg, State.payGuar, payCap_holdsToken, hg, if_neg Bool.false_ne_true]

end Classify

theorem starve_excess {s : State} {m tag : Nat} {t : Txn} (hf : s.findTxn m tag = some t)
    (hu : s.fld F.QOS_ARB_CFG_STARVE_US ≠ 0) (ho : t.op ≠ .fence) (hg : t.guaranteed = false)
    (hk : s.flowClass t.flow = 2) :
    s.starve m tag =
      (s.advanceTo (t.t0 + 1000 * s.fld F.QOS_ARB_CFG_STARVE_US)).setTxn t { t with starved := true } := by
  simp only [State.starve, hf]
  exact if_pos ⟨hu, ho, by simp [hg], hk⟩

/-! ### The urgency wires -/

section Wires
variable {s : State} {x w : Nat}

/-- The levels of the eight wires after a sample (R206). -/
def State.urgLevel (s : State) (x : Nat) : Nat :=
  (List.range 8).foldl (fun a w => if s.urgTaken x w then a + 2 ^ w else a) 0

/-- A sample taken with the levels it gives; a wire asserted before keeps the time since when it is (R206, log entry 94). -/
def State.takeSample (s : State) (x level : Nat) : State :=
  { s.setBoth F.QOS_URG_STS_LEVEL level with
    pins := { s.pins with urgRaw := x, urgOld := s.pins.urgRaw }
    urgSince := (List.range 8).foldl (fun d w => d.set (fun _ => none) w
      (if bitOf level w then some ((s.urgSince.get (fun _ => none) w).getD s.now) else none)) [] }

/-- The condition of stuck wires goes on where a wire stays stuck, and none ends where none was raised. -/
theorem urgWires_of_condition_kept
    (h : ¬ (s.fld F.QOS_URG_STS_STUCK &&& s.urgLevel x = 0 ∧ s.flag (liveFld 38) = true)) :
    s.urgWires x =
      (s.takeSample x (s.urgLevel x)).setBoth F.QOS_URG_STS_STUCK (s.fld F.QOS_URG_STS_STUCK &&& s.urgLevel x) :=
  if_neg h

theorem urgStuck_asserted {t0 : Nat} (hs : s.urgSince.get (fun _ => none) w = some t0)
    (hb : bitOf (s.fld F.QOS_URG_STS_STUCK) w = false) {t : State}
    (ht : t = s.advanceTo (t0 + 1000000 * s.fld F.QOS_URG_CFG_STUCK_MS)) :
    s.urgStuck w =
      (t.setBoth F.QOS_URG_STS_STUCK (t.fld F.QOS_URG_STS_STUCK + 2 ^ w)).raiseCond 38 (2 ^ w) := by
  subst ht
  simp only [State.urgStuck, hs, hb, Bool.false_eq_true, if_false]

end Wires

end Sys2Proof.Machine

namespace Sys2Proof
open Machine

/-- Settles O32: a request whose turn it is waits for its cap or is sent with or without a guaranteed token; a boundary
runs its sequence, and the other commands are one operation each. -/
theorem qosWindowsAndClassification : Obligations.QosWindowsAndClassification := by
  unfold Obligations.QosWindowsAndClassification
  refine ⟨?_, ?_, ?_, ?_, ?_, ?_, ?_, ?_, ?_⟩
  · exact fun s => rfl
  · exact fun m tag t s hf ha ht hm hb =>
      finished_eq (classify_capped hf ha ht (not_or.mpr ⟨hm, Nat.not_le.mpr hb⟩))
  · intro m tag t s hf ha ht hm hb
    have hg : s.holdsToken t = false := decide_eq_false (Nat.not_le.mpr hb)
    have hx := classify_excess hf ha ht (.inl hm) hg
    exact finished_eq (by rw [hx, payCap_uncapped hm]; rfl)
  · intro m tag t s hf ha ht hm hb
    have hg : s.holdsToken t = true := decide_eq_true hb
    have hx := classify_guaranteed hf ha ht (.inl hm) hg
    exact finished_eq (by rw [hx, payCap_uncapped hm, State.payGuar, if_pos hg]; rfl)
  · exact fun m tag t s hf hu ho hg hk => finished_eq (starve_excess hf hu ho hg hk)
  · exact fun s hs => finished_eq (if_pos hs)
  · exact fun m tag t s hf _ ht => finished_eq (classify_outOfTurn hf ht)
  · rintro x level s hs hl rfl
    have hx := urgWires_of_condition_kept (s := s) (x := x.toNat) (by simp [hl])
    exact finished_eq (by rw [hx, hs, Nat.zero_and]; rfl)
  · exact fun w t0 t s hs hb ht => finished_eq (urgStuck_asserted hs hb ht)

end Sys2Proof
end

