-- ==== Sys2Proof/Proofs/LagoonScheduling.lean ====
section
/-!
PROOFS. How a channel's scheduler takes a request up, which claim a vertical cycle goes to, what the ends of moves and
fills leave of a slot, and the commands of GLB_DIE_RST and LAG_CTL.
-/
namespace Sys2Proof.Machine

/-! ### Take-up -/

section TakeUp
variable {s u : State} {t : Txn} {m tag : Nat}

theorem schedulerTakeUp_inTurn (hf : s.findAt m tag (· == .queued) = some t) (hb : s.blocked t = false)
    (ht : s.bankTurn t = true) : s.schedulerTakeUp m tag = s.takeUp t := by
  simp only [State.schedulerTakeUp, hf, hb, ht, Bool.not_true, Bool.or_self, Bool.false_eq_true, if_false]

theorem schedulerTakeUp_stays (hf : s.findAt m tag (· == .queued) = some t)
    (h : s.blocked t = true ∨ s.bankTurn t = false) : s.schedulerTakeUp m tag = s := by
  simp only [State.schedulerTakeUp, hf]
  exact if_pos (by rcases h with h | h <;> simp [h])

/-- The state in which a request that has come to its channel finds the array: its arrival noted, the map word of its row
used (R347, R503). -/
def State.atChannel (s : State) (t : Txn) : State :=
  (s.tagMod t fun g => { g with dChannel := some (g.dChannel.getD (s.now - t.t0)) }).useMap (s.txnPlace t).loc

/-- A request that finds its channel in service, its row not retired and free to be accessed, and that asks for
something (R184, R245, R363). -/
structure State.TakesUp (s : State) (t : Txn) (u : State) : Prop where
  found : u = s.atChannel t
  live : t.rowRetired = false
  asks : ¬ (t.op = .wrPart ∧ t.be = 0 ∧ t.metaEn = false)
  inService : (u.chan (locCh (s.txnPlace t).loc)).st ≠ .offline
  free : u.rowWaits (s.txnPlace t).loc (t.op != .rd) = false

/-- What becomes of it depends on whether its extent is written (R222, R249). -/
theorem State.TakesUp.takeUp_eq (h : s.TakesUp t u) :
    s.takeUp t = if !u.written (s.txnPlace t).loc then
        u.takeUnwritten (locCh (s.txnPlace t).loc) (locExtent (s.txnPlace t).loc) t
      else u.setTxn t { t with stage :=
        if (u.findSlot (s.txnPlace t).loc).isSome then .hit else u.wayOf (s.txnPlace t).loc } := by
  obtain ⟨rfl, hl, ha, hs, hw⟩ := h
  have ha' : ¬ (t.op = .wrPart ∧ t.be = 0 ∧ (!t.metaEn) = true) := by simpa using ha
  rw [State.atChannel] at hs hw ⊢
  simp only [State.takeUp, hl, ha', hs, hw, Bool.false_eq_true, if_false]

theorem State.TakesUp.takeUp_resident {i : Nat} (h : s.TakesUp t u) (hw : u.written (s.txnPlace t).loc = true)
    (hi : u.findSlot (s.txnPlace t).loc = some i) : s.takeUp t = u.setTxn t { t with stage := .hit } := by
  simp only [h.takeUp_eq, hw, hi, Bool.not_true, Option.isSome_some, Bool.false_eq_true, if_false, if_true]

theorem State.TakesUp.takeUp_absent (h : s.TakesUp t u) (hw : u.written (s.txnPlace t).loc = true)
    (hi : u.findSlot (s.txnPlace t).loc = none) :
    s.takeUp t = u.setTxn t { t with stage := u.wayOf (s.txnPlace t).loc } := by
  simp only [h.takeUp_eq, hw, hi, Bool.not_true, Option.isSome_none, Bool.false_eq_true, if_false]

theorem State.TakesUp.takeUp_unwritten (h : s.TakesUp t u) (hw : u.written (s.txnPlace t).loc = false) :
    s.takeUp t = u.takeUnwritten (locCh (s.txnPlace t).loc) (locExtent (s.txnPlace t).loc) t := by
  simp only [h.takeUp_eq, hw, Bool.not_false, if_true]

/-- A read of an extent whose zero-fill has not started returns zeros, marked as an unwritten extent's (R185, R232). -/
theorem takeUnwritten_read {c e : Nat} (ho : t.op = .rd) (hi : t.inject = false)
    (hf : ((s.chan c).fills.any fun f => f.extent == e) = false) :
    s.takeUnwritten c e t = s.reply t (.data .ok false true false 0 0) := by
  simp only [State.takeUnwritten, hf, ho, hi, Bool.false_eq_true, if_false, if_true]

section Way
variable {loc i : Nat}

theorem wayOf_sector (h : (s.chan (locCh loc)).victim = none ∨ s.promotes loc = false) : s.wayOf loc = .sector :=
  if_neg (by rcases h with h | h <;> simp [h])

variable (hv : (s.chan (locCh loc)).victim = some i) (hp : s.promotes loc = true)
include hv hp

theorem wayOf_promoting (hc : (s.chan (locCh loc)).closing (locCbi loc) = false) : s.wayOf loc = .promoting := by
  simp [State.wayOf, hv, hp, hc]

theorem wayOf_afterRefresh (hc : (s.chan (locCh loc)).closing (locCbi loc) = true) : s.wayOf loc = .afterRefresh := by
  simp [State.wayOf, hv, hp, hc]

end Way

end TakeUp

/-! ### The vertical cycle -/

section Vertical
variable {s : State} {c : Nat}

/-- The claims on a vertical cycle, the highest first: a close, a zero-fill, the requests, the scrub buffer that one of them
needs, the commanded and the forced cleaning, and what an idle cycle is used for (R236). -/
def claimOrder (c : Nat) : List (State → State × Bool) :=
  [(·.closeClaim c), (·.fillClaim c), (·.requestClaim c), (·.bufferClaim c), (·.commandedClaim c), (·.forcedClean c),
    (·.idleClean c)]

/-- The cycle left to the rest of the claims, `a` being what those before them made of it; one that none can use is counted
idle. -/
def leaveTo (c : Nat) (rest : List (State → State × Bool)) (a : State × Bool) : State :=
  if (rest.foldl orClaim a).2 then (rest.foldl orClaim a).1 else (rest.foldl orClaim a).1.countCh c 0x11

theorem fillCycle_leaveTo (s : State) (c : Nat) : s.fillCycle c = leaveTo c (claimOrder c) (s.nextCycle c, false) := rfl

section Claims
variable {a b : State × Bool} {f : State → State × Bool} {rest : List (State → State × Bool)}

theorem foldl_orClaim_taken (h : a.2 = true) : rest.foldl orClaim a = a := by
  induction rest with
  | nil => rfl
  | cons f r ih => rw [List.foldl_cons, orClaim, if_pos h, ih]

/-- No claim takes a cycle that a higher one has taken. -/
theorem leaveTo_taken (h : a.2 = true) : leaveTo c rest a = a.1 := by
  rw [leaveTo, foldl_orClaim_taken h, if_pos h]

theorem leaveTo_passed (h : a.2 = false) (hb : b = f a.1) : leaveTo c (f :: rest) a = leaveTo c rest b := by
  have hf : orClaim a f = b := hb ▸ if_neg (by simp [h])
  rw [leaveTo, leaveTo, List.foldl_cons, hf]

theorem leaveTo_idle (h : a.2 = false) : leaveTo c [] a = a.1.countCh c 0x11 := if_neg (by simp [h])

end Claims

theorem verticalCycle_upset (h : (s.chan c).upset ≠ 0) : s.verticalCycle c =
    (s.modChan c fun x => { x with upset := 0 }).raise (128 + 4 * c + 3) (s.chan c).upset := if_pos h

theorem verticalCycle_still (hu : (s.chan c).upset = 0) (h : s.mode = .fatal ∨ s.progLeads c = true) :
    s.verticalCycle c = s := (if_neg fun n => n hu).trans (if_pos h)

section Runs
variable (hu : (s.chan c).upset = 0) (hm : s.mode ≠ .fatal) (hp : s.progLeads c = false)
include hu hm hp

theorem verticalCycle_runs : s.verticalCycle c =
    if ((s.exportNext c).chan c).lastVc = (s.chan c).lastVc then (s.exportNext c).fillCycle c else s.exportNext c :=
  (if_neg fun n => n hu).trans (if_neg (by simp [hm, hp]))

theorem verticalCycle_writesTrace {u : State} (hx : u = s.exportNext c) (h : (u.chan c).lastVc ≠ (s.chan c).lastVc) :
    s.verticalCycle c = u := by
  subst hx
  exact (verticalCycle_runs hu hm hp).trans (if_neg h)

/-- A cycle that is not used for the trace goes to the first claim that can use it; `a` is what a close makes of it. -/
theorem verticalCycle_claims {u : State} {a : State × Bool} (hx : u = s.exportNext c)
    (h : (u.chan c).lastVc = (s.chan c).lastVc) (ha : a = (u.nextCycle c).closeClaim c) :
    s.verticalCycle c = leaveTo c (claimOrder c).tail a := by
  subst hx
  exact ((verticalCycle_runs hu hm hp).trans (if_pos h)).trans
    ((fillCycle_leaveTo _ c).trans (leaveTo_passed (b := a) rfl ha))

end Runs

end Vertical

/-! ### The ends of moves and fills -/

section Moves
variable {s u : State} {c i : Nat}

section MoveIn
variable (hs : (s.slot c i).state = .filling) (hm : s.mode ≠ .fatal)
include hs hm

theorem moveInTransferEnd_read {t : Txn} (hu : u = s.mapWants (Want.transferred (s.slot c i).loc))
    (hf : (u.txns.find? fun y => y.stage == .moveIn i && u.txnIn c y && y.op == .rd) = some t) :
    s.moveInTransferEnd c i = u.performRead t 2 false := by
  subst hu
  exact (if_pos ⟨hs, hm⟩).trans (by simp only [hf])

theorem moveInTransferEnd_no_read (hu : u = s.mapWants (Want.transferred (s.slot c i).loc))
    (hf : (u.txns.find? fun y => y.stage == .moveIn i && u.txnIn c y && y.op == .rd) = none) :
    s.moveInTransferEnd c i = u := by
  subst hu
  exact (if_pos ⟨hs, hm⟩).trans (by simp only [hf])

theorem moveInDone_filled {v : State} (hu : u = s.moveInTransferEnd c i)
    (hv : v =
      (u.setSlot c i { u.slot c i with state := .clean, data := u.arrayRow (u.slot c i).loc, last := u.now }).mapWants
        (Want.filledBy (u.slot c i).loc)) :
    s.moveInDone c i = { v with txns := v.txns.map (v.fillTxn c i (u.slot c i).loc) } := by
  subst hu hv
  exact if_pos ⟨hs, hm⟩

end MoveIn

/-- In FATAL no slot changes (R451). -/
theorem slot_moves_rest_in_fatal (hm : s.mode = .fatal) :
    s.moveOutPrecharge c i = s ∧ s.moveInTransferEnd c i = s ∧ s.moveInDone c i = s :=
  ⟨if_pos hm, if_neg fun h => h.2 hm, if_neg fun h => h.2 hm⟩

section MoveOut
variable (hm : s.mode ≠ .fatal)
include hm

theorem moveOutPrecharge_evicting (hs : (s.slot c i).state = .evicting) :
    s.moveOutPrecharge c i = (s.setArrayRow (s.slot c i).loc (s.slot c i).snap).setSlot c i Slot.empty :=
  (if_neg hm).trans (by simp only [hs])

theorem moveOutPrecharge_cleaning (hs : (s.slot c i).state = .cleaning) :
    s.moveOutPrecharge c i = (s.setArrayRow (s.slot c i).loc (s.slot c i).snap).setSlot c i
      { s.slot c i with state := if (s.slot c i).redirty then .dirty else .clean, redirty := false, snap := [] } :=
  (if_neg hm).trans (by simp only [hs])

/-- The finished fill of an extent whose map word is good: the extent is written, and its requests queue again (R249). -/
theorem zeroFillComplete_written {f : Fill} (hf : (s.chan c).fills.find? (fun f => f.launched == 16) = some f)
    (ho : ((s.useMapWord c f.extent).chan c).st ≠ .offline)
    (hu : u = ((s.useMapWord c f.extent).markExtent c f.extent true).modChan c fun x =>
      { x with fills := x.fills.filter fun g => g.extent != f.extent }) :
    s.zeroFillComplete c = { u with txns := u.txns.map fun t =>
      if t.stage = .waitFill ∧ u.txnIn c t ∧ locExtent (u.txnPlace t).loc = f.extent then { t with stage := .queued }
      else t } := by
  subst hu
  simp only [State.zeroFillComplete, hm, hf, ho, if_false]

end MoveOut

end Moves

/-! ### The reset of a core die -/

section DieReset
variable {s : State} {r : DieReset}

/-- GO and its die read back from the word that is written. -/
theorem dieRst_word (d : Fin 16) : bitOf (BitVec.ofNat 32 (2 ^ 31 + d.val)).toNat 31 = true ∧
    bitsOf (BitVec.ofNat 32 (2 ^ 31 + d.val)).toNat 3 0 = d.val := by
  revert d
  decide

theorem wDieRst_go {p : PathNum} {d : Fin 16} {v : Word} (hv : v = BitVec.ofNat 32 (2 ^ 31 + d.val)) (hs : s.serves = true)
    (hb : s.flag F.GLB_DIE_RST_BUSY = false) (hc : ∀ j < 8, (s.chan (8 * (d.val / 4) + j)).st.resettable = true) :
    s.wDieRst p v = done { (s.plainWrite p .GLB_DIE_RST 0 0 v).setFlag F.GLB_DIE_RST_BUSY true with
      dieReset := some ⟨d.val, 2⟩ } := by
  subst hv
  obtain ⟨hgo, hd⟩ := dieRst_word d
  have hall : ((List.range 8).all fun j => (s.chan (8 * (d.val / 4) + j)).st.resettable) = true := by simpa using hc
  simp only [State.wDieRst, hgo, hd, hs, hb, hall, Bool.not_true, Bool.not_false, Bool.and_self, Bool.false_eq_true,
    if_false, if_true]

variable (h : s.dieReset = some r)
include h

theorem dieResetRelease_held (hr : r.step = 2) :
    s.dieResetRelease = { s.advanceTo (s.now + 2000) with dieReset := some { r with step := 3 } } := by
  simp only [State.dieResetRelease, h, hr, if_true]

theorem dieResetReady_released (hr : r.step = 3) :
    s.dieResetReady = ((List.range 8).foldl (fun t j => t.handBack (8 * (r.die / 4) + j) fun b => b / 32 == r.die % 4)
      (s.dieResetEnd 1)).recoverTier (r.die / 4) := by
  simp only [State.dieResetReady, h, hr, if_true]

theorem dieResetTimeout_released (hr : r.step = 3) :
    s.dieResetTimeout = ((s.dieResetEnd 2).fenceDie r.die true).recoverTier (r.die / 4) := by
  simp only [State.dieResetTimeout, h, hr, if_true]

end DieReset

/-! ### LAG_CTL -/

section LagCtl
variable {s : State} {c : Nat}

theorem wLagCtl_writeback (hb : s.flag (F.LAG_CTL_BUSY c) = false)
    (hs : (s.chan c).st = .online ∨ (s.chan c).st = .draining) :
    s.wLagCtl c 0x80000000#32 = done ((s.modChan c fun x =>
      { x with lagAct := some (below 64 fun i => ((s.chan c).slot i).state == .dirty) }).setFlag (F.LAG_CTL_BUSY c) true) :=
  (if_neg (by simp [hb])).trans (if_pos hs)

theorem wLagCtl_discard (hb : s.flag (F.LAG_CTL_BUSY c) = false) (hs : (s.chan c).st = .offline) :
    s.wLagCtl c 0x40000000#32 = done (((s.discardFenced c).modChan c fun x => { x with lagAct := some [] }).setFlag
      (F.LAG_CTL_BUSY c) true) :=
  (if_neg (by simp [hb])).trans (if_pos hs)

theorem wLagCtl_discard_refused (h : s.flag (F.LAG_CTL_BUSY c) = true ∨ (s.chan c).st ≠ .offline) :
    s.wLagCtl c 0x40000000#32 = ignored s := by
  by_cases hb : s.flag (F.LAG_CTL_BUSY c) = true
  · exact if_pos hb
  · exact (if_neg hb).trans (if_neg (h.resolve_left hb))

/-- An action with no slot left to clean, none of the channel being cleaned, ends (R258). -/
theorem lagActionEnd_done {l : List Nat} (hl : (s.chan c).lagAct = some l)
    (hd : (l.any fun i => ((s.chan c).slot i).state == .dirty) = false)
    (hs : ((s.chan c).slots.any fun e => e.2.state == .cleaning) = false) :
    s.lagActionEnd c =
      ((s.modChan c fun y => { y with lagAct := none }).setFlag (F.LAG_CTL_BUSY c) false).latch F.POLL_SUMMARY_DONE := by
  simp only [State.lagActionEnd, hl, hd, hs, Bool.or_self, Bool.false_eq_true, if_false]

end LagCtl

end Sys2Proof.Machine

namespace Sys2Proof
open Machine

/-- Settles O33: a request in its bank's turn is taken up by whether its row is resident, its extent written, and its row to
be promoted; any other stays. -/
theorem schedulersTakeRequestsUp : Obligations.SchedulersTakeRequestsUp := by
  unfold Obligations.SchedulersTakeRequestsUp
  refine ⟨?_, ?_, ?_⟩
  · rintro m tag t u x c s hf hb ht hr he rfl rfl hu ho hw hx
    have hk : s.TakesUp t u := ⟨hu, hr, he, ho, hw⟩
    have hup := schedulerTakeUp_inTurn hf hb ht
    refine ⟨fun i hi => ?_, fun hi hv => ?_, fun i hi hv hp hc => ?_, fun i hi hv hp hc => ?_⟩
    · exact finished_eq (hup.trans (hk.takeUp_resident hx hi))
    · exact finished_eq (by rw [hup, hk.takeUp_absent hx hi, wayOf_sector hv])
    · exact finished_eq (by rw [hup, hk.takeUp_absent hx hi, wayOf_promoting hv hp hc])
    · exact finished_eq (by rw [hup, hk.takeUp_absent hx hi, wayOf_afterRefresh hv hp hc])
  · rintro m tag t u x c s hf hb ht hr ho hi rfl rfl hu hs hw hx hn
    have hk : s.TakesUp t u := ⟨hu, hr, by simp [ho], hs, by simpa [ho] using hw⟩
    exact finished_eq ((schedulerTakeUp_inTurn hf hb ht).trans
      ((hk.takeUp_unwritten hx).trans (takeUnwritten_read ho hi hn)))
  · exact fun m tag t s hf h => finished_eq (schedulerTakeUp_stays hf h)

/-- Settles O35: a vertical cycle is left by each claim that cannot use it to the next one; the end of a move or of a fill is
what the slot's state and the mode make of it. -/
theorem slotsFillAndEmpty : Obligations.SlotsFillAndEmpty := by
  unfold Obligations.SlotsFillAndEmpty
  refine ⟨?_, ?_, ?_, ?_, ?_, ?_, ?_, ?_, ?_, ?_, ?_⟩
  · intro c s u a b d e f g h hu hm hp hx ha hb hd he hf hg hh
    refine ⟨fun hl => finished_eq (verticalCycle_writesTrace hu hm hp hx hl), fun hl => ?_⟩
    have hA := verticalCycle_claims hu hm hp hx hl ha
    have hB (na : a.2 = false) := hA.trans (leaveTo_passed na hb)
    have hD (na : a.2 = false) (nb : b.2 = false) := (hB na).trans (leaveTo_passed nb hd)
    have hE (na : a.2 = false) (nb : b.2 = false) (nd : d.2 = false) := (hD na nb).trans (leaveTo_passed nd he)
    have hF (na : a.2 = false) (nb : b.2 = false) (nd : d.2 = false) (ne : e.2 = false) :=
      (hE na nb nd).trans (leaveTo_passed ne hf)
    have hG (na : a.2 = false) (nb : b.2 = false) (nd : d.2 = false) (ne : e.2 = false) (nf : f.2 = false) :=
      (hF na nb nd ne).trans (leaveTo_passed nf hg)
    have hH (na : a.2 = false) (nb : b.2 = false) (nd : d.2 = false) (ne : e.2 = false) (nf : f.2 = false)
        (ng : g.2 = false) := (hG na nb nd ne nf).trans (leaveTo_passed ng hh)
    refine ⟨?_, ?_, ?_, ?_, ?_, ?_, ?_, ?_⟩
    · exact fun ta => finished_eq (hA.trans (leaveTo_taken ta))
    · exact fun na tb => finished_eq ((hB na).trans (leaveTo_taken tb))
    · exact fun na nb td => finished_eq ((hD na nb).trans (leaveTo_taken td))
    · exact fun na nb nd te => finished_eq ((hE na nb nd).trans (leaveTo_taken te))
    · exact fun na nb nd ne tf => finished_eq ((hF na nb nd ne).trans (leaveTo_taken tf))
    · exact fun na nb nd ne nf tg => finished_eq ((hG na nb nd ne nf).trans (leaveTo_taken tg))
    · exact fun na nb nd ne nf ng th => finished_eq ((hH na nb nd ne nf ng).trans (leaveTo_taken th))
    · exact fun na nb nd ne nf ng nh => finished_eq ((hH na nb nd ne nf ng).trans (leaveTo_idle nh))
  · exact fun c s hu h => finished_eq (verticalCycle_still hu h)
  · exact fun c s hu => finished_eq (verticalCycle_upset hu)
  · exact fun c k u s hs hm hu => ⟨fun t hf => finished_eq (moveInTransferEnd_read hs hm hu hf),
      fun hf => finished_eq (moveInTransferEnd_no_read hs hm hu hf)⟩
  · exact fun c k u v s hs hm hu hv => finished_eq (moveInDone_filled hs hm hu hv)
  · exact fun v c i loc t => ⟨fun h => if_pos h, fun h => if_neg h⟩
  · exact fun c k s hm hs => finished_eq (moveOutPrecharge_evicting hm hs)
  · exact fun c k s hm hs => finished_eq (moveOutPrecharge_cleaning hm hs)
  · intro c k s hm
    obtain ⟨hout, htransfer, hin⟩ := slot_moves_rest_in_fatal (c := c) (i := k) hm
    exact ⟨finished_eq hout, finished_eq htransfer, finished_eq hin⟩
  · rintro c s u rfl
    exact finished_eq rfl
  · exact fun c f u s hm hf ho hu => finished_eq (zeroFillComplete_written hm hf ho hu)

/-- Settles O36: GO starts a die reset whose step tells what its next event does; an action of LAG_CTL is accepted by the
channel's state, and ends once no slot of it is left. -/
theorem diesAreResetAndSlotsCommanded : Obligations.DiesAreResetAndSlotsCommanded := by
  unfold Obligations.DiesAreResetAndSlotsCommanded
  refine ⟨?_, ?_, ?_, ?_, ?_, ?_, ?_, ?_⟩
  · rintro p d v s rfl hg hs hb hc
    exact finished_eq (s.writeOn_done p .GLB_DIE_RST 0 0 _ _ hg (wDieRst_go rfl hs hb hc))
  · exact fun r s h hr => finished_eq (dieResetRelease_held h hr)
  · exact fun r s h hr => finished_eq (dieResetReady_released h hr)
  · exact fun r s h hr => finished_eq (dieResetTimeout_released h hr)
  · exact fun p c s hg hb hs => finished_eq (s.writeOn_done p .LAG_CTL c 0 _ _ hg (wLagCtl_writeback hb hs))
  · exact fun p c s hg hb hs => finished_eq (s.writeOn_done p .LAG_CTL c 0 _ _ hg (wLagCtl_discard hb hs))
  · exact fun p c s hg h => finished_eq (s.writeOn_ignored p .LAG_CTL c 0 _ hg (wLagCtl_discard_refused h))
  · exact fun c l s hl hd hs => finished_eq (lagActionEnd_done hl hd hs)

end Sys2Proof
end

