-- ==== Sys2Proof/Proofs/RowInstructions.lean ====
section
/-!
PROOFS. What an attempt of an Exdun instruction on rows comes to: the pinning of rows and the words of pinned rows (R308 to
R312), row-wide instructions and row.ferry (R313 to R317), and raw sector access (R318 to R321).
-/
namespace Sys2Proof.Machine

/-! ### An issued instruction -/

section Issued
variable {s : State} {c : Nat}

/-! Issuing an instruction is only counted: what it reads of the state is as before. -/

@[simp] theorem chan_issued (d : Nat) : (s.issued c).chan d = s.chan d := rfl
@[simp] theorem eng_issued (d : Nat) : (s.issued c).eng d = s.eng d := rfl
@[simp] theorem slot_issued (d i : Nat) : (s.issued c).slot d i = s.slot d i := rfl
@[simp] theorem g_issued (d r : Nat) : (s.issued c).g d r = s.g d r := rfl
@[simp] theorem hslot_issued (d n : Nat) : (s.issued c).hslot d n = s.hslot d n := rfl
@[simp] theorem hloc_issued (d n : Nat) : (s.issued c).hloc d n = s.hloc d n := rfl
@[simp] theorem pinnedRow_issued (d loc : Nat) : (s.issued c).pinnedRow d loc = s.pinnedRow d loc := rfl
@[simp] theorem rowRetired_issued (loc : Nat) : (s.issued c).rowRetired loc = s.rowRetired loc := rfl
@[simp] theorem handleRetired_issued (d n : Nat) : (s.issued c).handleRetired d n = s.handleRetired d n := rfl
@[simp] theorem locFault_issued (d reach : Nat) (v : Word64) (b : Bool) :
    (s.issued c).locFault d reach v b = s.locFault d reach v b := rfl
@[simp] theorem chanOut_issued (d : Nat) : (s.issued c).chanOut d = s.chanOut d := rfl
@[simp] theorem mayM_issued (d : Nat) : (s.issued c).mayM d = s.mayM d := rfl
@[simp] theorem wordSector_issued (d : Nat) (f : Fields) : (s.issued c).wordSector d f = s.wordSector d f := rfl

end Issued

section Checks
variable {code : Nat} {k : Att}

@[simp] theorem Att.when_false : Att.when false code k = k := rfl
@[simp] theorem Att.when_true : Att.when true code k = .exc code := rfl
@[simp] theorem Att.loc_none : Att.loc none k = k := rfl
@[simp] theorem Att.loc_some : Att.loc (some code) k = .exc code := rfl
@[simp] theorem Att.cycle_go (t : State) (k : State → Att) : Att.cycle (.go t) k = k t := rfl
@[simp] theorem Att.cycle_wait (t : State) (k : State → Att) : Att.cycle (.wait t) k = .wait t := rfl

end Checks

section Outcomes
variable {s : State} {c : Fin 32} {op : BitVec 8} {f : Fields} {k : State → Att}

/-- An instruction that can issue leaves what its attempt settles to. -/
theorem finished_attempt {a : Att} (h : s.issuable c op f = true) (ha : k (s.issued c) = a) :
    finished s (s.issue c op f k) = .next (commit s ((s.issued c).settleAtt c a)) :=
  finished_eq ((s.issue_settles c op f k h).trans (by rw [ha]))

theorem finished_exc {code : Nat} (h : s.issuable c op f = true) (ha : k (s.issued c) = .exc code) :
    finished s (s.issue c op f k) = .next (commit s ((s.issued c).endProgram c 1 code)) :=
  finished_eq (s.issue_exc c op f k code h ha)

/-- One that can issue, before the last of its program, and changes nothing passes on. -/
theorem finished_pass (h : s.canIssue c op f = true) (ha : k (s.issued c) = .done (s.issued c)) :
    finished s (s.issue c op f k) = .next (commit s ((s.issued c).passed c)) := finished_eq (s.issue_self c op f k h ha)

/-- The same of one that changes its engine's handles and pins only. -/
theorem finished_engine {g : Eng → Eng} (h : s.canIssue c op f = true)
    (ha : k (s.issued c) = .done ((s.issued c).modEng c g))
    (hg : ∀ e, (g e).phase = e.phase ∧ (g e).store = e.store ∧ (g e).pc = e.pc) :
    finished s (s.issue c op f k) = .next (commit s (((s.issued c).modEng c g).passed c)) := by
  obtain ⟨hp, hs, hq⟩ := hg (s.chan c).eng
  refine finished_eq (s.issue_done c op f k _ h ha ?_ ?_ ?_) <;> simpa

end Outcomes

theorem hloc_of_hslot {s : State} {c n i : Nat} (h : s.hslot c n = some i) : s.hloc c n = (s.slot c i).loc := by
  rw [State.hloc, h, Option.getD_some]

/-! ### row.load -/

section Load
variable {s : State} {c : Nat} {f : Fields} (ho : f.only { a := true, n := true } = true)
include ho

theorem loadChecks_badLocator {reach code : Nat} {offOk : Bool} {k : Nat → Att}
    (hl : s.locFault c reach (s.g c f.a) false = some code) :
    (s.issued c).loadChecks c f reach offOk k = .exc code := by
  simp [State.loadChecks, ho, hl]

section Passed
variable {reach : Nat} {offOk : Bool} {k : Nat → Att} (hl : s.locFault c reach (s.g c f.a) false = none)
  (hc : s.chanOut c = false)
include hl hc

theorem loadChecks_pinLimit (hp : s.pinnedRow c (s.g c f.a).toNat = none) (hn : (s.chan c).eng.pinCount = 16) :
    (s.issued c).loadChecks c f reach offOk k = .exc 0x13 := by
  simp [State.loadChecks, ho, hl, hc, hp, hn]

theorem loadChecks_passed (hp : (s.pinnedRow c (s.g c f.a).toNat).isSome = true ∨ (s.chan c).eng.pinCount < 16) :
    (s.issued c).loadChecks c f reach offOk k = k (s.g c f.a).toNat := by
  have hlim : ((s.pinnedRow c (s.g c f.a).toNat).isNone && (s.chan c).eng.pinCount == 16) = false := by
    rcases hp with hp | hp
    · simp [Option.isSome_iff_ne_none.mp hp]
    · simp [Nat.ne_of_lt hp]
  simp [State.loadChecks, ho, hl, hc, hlim]

end Passed

theorem aRowLoad_badLocator {code : Nat} (hl : s.locFault c (readReach (s.chan c).eng.queue) (s.g c f.a) false = some code) :
    (s.issued c).aRowLoad c f = .exc code := loadChecks_badLocator ho hl

variable (hl : s.locFault c (readReach (s.chan c).eng.queue) (s.g c f.a) false = none) (hc : s.chanOut c = false)
include hl hc

theorem aRowLoad_pinLimit (hp : s.pinnedRow c (s.g c f.a).toNat = none) (hn : (s.chan c).eng.pinCount = 16) :
    (s.issued c).aRowLoad c f = .exc 0x13 := loadChecks_pinLimit ho hl hc hp hn

theorem aRowLoad_pinned {k : Fin 16} (hp : s.pinnedRow c (s.g c f.a).toNat = some k) :
    (s.issued c).aRowLoad c f = .done ((s.issued c).bindH c f.n k) := by
  refine (loadChecks_passed ho hl hc (.inl (by simp [hp]))).trans ?_
  simp only [pinnedRow_issued, hp]

variable (hp : s.pinnedRow c (s.g c f.a).toNat = none) (hn : (s.chan c).eng.pinCount < 16) {t : State}
  (ht : t = (s.issued c).useMap (s.g c f.a).toNat) (hr : (t.chan c).eng.phase = .running)
include hp hn ht hr

theorem aRowLoad_got {v : State} {i : Nat} (hg : t.obtain c (s.g c f.a).toNat = .slot v i) :
    (s.issued c).aRowLoad c f = .done (v.pinSlot c f.n i) := by
  subst ht
  refine (loadChecks_passed ho hl hc (.inr hn)).trans ?_
  simp only [pinnedRow_issued, chanOut_issued, hp, hc, hr, hg, Bool.false_eq_true, if_false, ne_eq, not_true_eq_false]

theorem aRowLoad_waits {v : State} (hg : t.obtain c (s.g c f.a).toNat = .wait v) :
    (s.issued c).aRowLoad c f = .wait v := by
  subst ht
  refine (loadChecks_passed ho hl hc (.inr hn)).trans ?_
  simp only [pinnedRow_issued, chanOut_issued, hp, hc, hr, hg, Bool.false_eq_true, if_false, ne_eq, not_true_eq_false]

end Load

section Obtain
variable {s : State} {c loc : Nat}

theorem obtain_waits (h : s.rowWaits loc true = true ∨ s.fillRuns loc = true) : s.obtain c loc = .wait s :=
  if_pos (by rcases h with h | h <;> simp [h])

variable (hw : s.rowWaits loc true = false) (hf : s.fillRuns loc = false)
include hw hf

theorem obtain_resident {i : Nat} (hi : s.findSlot loc = some i) : s.obtain c loc = .slot (s.touch loc) i := by
  simp only [State.obtain, hw, hf, hi, Bool.or_self, Bool.false_eq_true, if_false]

/-- A row of a written extent is moved into the victim in a cycle of the program's own (R309). -/
theorem obtain_moveIn {u v : State} {i : Nat} (hi : s.findSlot loc = none) (hv : s.freeVictim c = .slot u i)
    (hx : u.written loc = true) (hc : (u.chan c).closing (locCbi loc) = false) (hg : u.ownCycle c loc 1 4 = .go v) :
    s.obtain c loc = .wait (v.launchMoveIn c i loc (none, some (s.eng c).desc.flow)) := by
  simp only [State.obtain, Got.launch, hw, hf, hi, hv, hx, hc, hg, Bool.or_self, Bool.not_true, Bool.false_eq_true, if_false]

end Obtain

/-! ### row.claim -/

section Claim
variable {s t : State} {c : Nat} {f : Fields} (ho : f.only { a := true, n := true } = true)
  (hl : s.locFault c (writeReach (s.chan c).eng.queue) (s.g c f.a) false = none) (hc : s.chanOut c = false)
  (hp : (s.pinnedRow c (s.g c f.a).toNat).isSome = true ∨ (s.chan c).eng.pinCount < 16)
  (ht : t = (s.issued c).useMap (s.g c f.a).toNat) (hr : (t.chan c).eng.phase = .running)
include ho hl hc hp ht hr

theorem aRowClaim_unwritten (hx : t.written (s.g c f.a).toNat = false) :
    (s.issued c).aRowClaim c f = .wait (t.startFill c (locExtent (s.g c f.a).toNat)) := by
  subst ht
  refine (loadChecks_passed ho hl hc hp).trans ?_
  simp only [hr, hx, Bool.not_false, if_true, if_false, ne_eq, not_true_eq_false]

theorem aRowClaim_resident {i : Nat} (hx : t.written (s.g c f.a).toNat = true) (hi : t.findSlot (s.g c f.a).toNat = some i)
    (hw : t.rowWaits (s.g c f.a).toNat true = false) (hy : t.rowInCycle (s.g c f.a).toNat = false)
    (hs : (t.slot c i).state ≠ .cleaning) :
    (s.issued c).aRowClaim c f = .done (t.claimSlot c f.n (s.g c f.a).toNat i) := by
  subst ht
  refine (loadChecks_passed ho hl hc hp).trans ?_
  simp only [hr, hx, hi, hw, hy, hs, Bool.not_true, Bool.or_self, Bool.false_eq_true, if_false, ne_eq, not_true_eq_false]

end Claim

/-! ### row.rel, row.wb and row.loc -/

section Pinned
variable {s : State} {c : Nat} {f : Fields}

theorem aRowRel_releases (ho : f.only { i := true } = true) (hu : f.u < 256) :
    (s.issued c).aRowRel c f = .done ((s.issued c).modEng c fun e => e.release f.u) := by
  have hb : decide (256 ≤ f.u) = false := decide_eq_false (Nat.not_le.mpr hu)
  simp [State.aRowRel, ho, hb]

section Loc
variable (ho : f.only { d := true, n := true } = true)
include ho

theorem aRowLoc_bound {i : Nat} (hs : s.hslot c f.n = some i) :
    (s.issued c).aRowLoc c f = .done ((s.issued c).setG c f.d (BitVec.ofNat 64 (s.slot c i).loc)) := by
  simp [State.aRowLoc, ho, hs, hloc_of_hslot hs]

theorem aRowLoc_unbound (hs : s.hslot c f.n = none) : (s.issued c).aRowLoc c f = .exc 0x12 := by
  simp [State.aRowLoc, ho, hs]

end Loc

section Wb
variable (ho : f.only { n := true } = true) (hp : (s.chan c).eng.progress = 0)
include ho hp

theorem aRowWb_retired (hs : (s.hslot c f.n).isSome = true) (hv : s.handleRetired c f.n = true) :
    (s.issued c).aRowWb c f = .exc 0x15 := by
  simp [State.aRowWb, ho, hp, hv, Option.isNone_eq_false_iff.mpr hs]

variable {i : Nat} (hs : s.hslot c f.n = some i) (hv : s.handleRetired c f.n = false) (hc : s.chanOut c = false)
include hs hv hc

theorem aRowWb_clean (hd : (s.slot c i).state ≠ .dirty) : (s.issued c).aRowWb c f = .done (s.issued c) := by
  simp [State.aRowWb, ho, hp, hs, hv, hc, hd]

theorem aRowWb_dirty {t : State} (hd : (s.slot c i).state = .dirty) (hh : (s.chan c).held.contains i = false)
    (hg : (s.issued c).ownCycle c (s.slot c i).loc 1 4 = .go t) :
    (s.issued c).aRowWb c f = .wait ((t.launchMoveOut c i .cleaning).modEng c fun e => { e with progress := 1 }) := by
  have hh' : i ∉ (s.chan c).held := by simpa using hh
  simp [State.aRowWb, ho, hp, hs, hv, hc, hd, hh', hg]

end Wb

end Pinned

/-! ### slot.ldw and slot.stw -/

section Words
variable {s : State} {c : Nat} {f : Fields} (hb : wordBad f = false)
include hb

section Ldw
variable (ho : f.only { d := true, b := true, n := true, m := true, i := true } = true)
include ho

theorem aSlotLdw_retired (hs : (s.hslot c f.n).isSome = true) (hv : s.handleRetired c f.n = true) :
    (s.issued c).aSlotLdw c f = .exc 0x15 := by
  simp [State.aSlotLdw, ho, hb, hv, Option.isNone_eq_false_iff.mpr hs]

theorem aSlotLdw_reads {i : Nat} {r : State × Decoded} (hs : s.hslot c f.n = some i) (hv : s.handleRetired c f.n = false)
    (hc : s.chanOut c = false)
    (hr : r = ((s.issued c).touch (s.slot c i).loc).decodeStored ⟨(s.slot c i).loc, s.wordSector c f⟩ (s.progFor c)) :
    (s.issued c).aSlotLdw c f = .done ((r.1.seenOf c r.2).setG c f.d
      (if bitOf f.m 0 then BitVec.ofNat 64 r.2.metaByte else sectorWord r.2.data (f.u % 8))) := by
  have hd : (s.issued c).progFor c = s.progFor c := rfl
  subst hr
  simp only [State.aSlotLdw, ho, hb, hs, hv, hc, hd, hloc_of_hslot hs, hslot_issued, hloc_issued, handleRetired_issued,
    chanOut_issued, wordSector_issued, Option.isNone_some, Bool.not_true, Bool.or_self, Bool.false_and, Att.when_false]

end Ldw

section Stw
variable (ho : f.only { a := true, b := true, n := true, m := true, i := true } = true)
include ho

theorem aSlotStw_retired (hs : (s.hslot c f.n).isSome = true) (hv : s.handleRetired c f.n = true) :
    (s.issued c).aSlotStw c f = .exc 0x15 := by
  simp [State.aSlotStw, ho, hb, hv, Option.isNone_eq_false_iff.mpr hs]

variable {i : Nat} (hs : s.hslot c f.n = some i) (hv : s.handleRetired c f.n = false)
include hs hv

theorem aSlotStw_area (hi : inReach (writeReach (s.chan c).eng.queue) (s.slot c i).loc false = false) :
    (s.issued c).aSlotStw c f = .exc 0x16 := by
  simp [State.aSlotStw, ho, hb, hs, hv, hloc_of_hslot hs, hi]

/-- The sector that slot.stw stores of a decoded one: its metadata, or one of its words, replaced; poison stays (R312). -/
def wordStored (f : Fields) (d : Decoded) (v : Word64) : Code :=
  if bitOf f.m 0 then encodeSector d.data (v.toNat % 16 + 128 * b2n (bitOf v.toNat 7 || d.poison))
  else encodeSector (putWord d.data (f.u % 8) v) (if d.poison then putBits d.metaByte 7 7 1 else d.metaByte)

theorem aSlotStw_writes {t : State} {x : Place3} {r : State × Decoded}
    (hi : inReach (writeReach (s.chan c).eng.queue) (s.slot c i).loc false = true) (hc : s.chanOut c = false)
    (ht : t = (s.issued c).useMap (s.slot c i).loc) (hp : (t.chan c).eng.phase = .running)
    (hw : t.written (s.slot c i).loc = true) (hx : x = ⟨(s.slot c i).loc, s.wordSector c f⟩)
    (hr : r = t.decodeStored x (t.progFor c)) :
    (s.issued c).aSlotStw c f = .done (((r.1.seenOf c r.2).storeHit x
      (if bitOf f.m 0 then 0 else 0xFF#64 <<< (8 * (f.u % 8)))).setStored x (wordStored f r.2 (s.g c f.a))) := by
  subst ht hx hr
  simp only [State.aSlotStw, ho, hb, hs, hv, hc, hloc_of_hslot hs, hi, hp, hw, hslot_issued, hloc_issued, g_issued,
    handleRetired_issued, chanOut_issued, wordSector_issued, eng_issued, Option.isNone_some, Bool.not_true, Bool.or_self,
    Att.when_false, Bool.false_eq_true, if_false, ne_eq, not_true_eq_false]
  rfl

end Stw

end Words

/-! ### Row-wide instructions -/

/-- A row-wide write that selects a sector finds its handles `hs` bound to rows not retired, and its destination in reach, in
a channel that is not OFFLINE; with the destination's map word used, the program runs still in `t` (R281, R314, R347). -/
structure State.DestOpen (s : State) (c : Nat) (hs : List Nat) (dest mask : Nat) (t : State) : Prop where
  bound : ∀ n ∈ hs, (s.hslot c n).isSome = true
  live : hs.any (s.handleRetired c) = false
  reach : inReach (writeReach (s.chan c).eng.queue) (s.hloc c dest) false = true
  online : s.chanOut c = false
  selects : mask ≠ 0
  mapped : t = (s.issued c).useMap (s.hloc c dest)
  runs : (t.chan c).eng.phase = .running

section RowWide
variable {s t : State} {c : Nat} {f : Fields}

section Dest
variable {hs : List Nat} {dest mask : Nat} {bad : Bool} {k : State → Att}

theorem any_isNone_of_bound (h : ∀ n ∈ hs, (s.hslot c n).isSome = true) :
    (hs.any fun n => (s.hslot c n).isNone) = false := by
  simpa [Option.isSome_iff_ne_none] using h

theorem State.DestOpen.go (h : s.DestOpen c hs dest mask t) (hb : bad = false) (hw : t.written (s.hloc c dest) = true) :
    (s.issued c).rowDest c bad hs dest mask k = k t :=
  State.rowDest_go _ t c bad hs dest mask k hb (any_isNone_of_bound h.bound) h.live h.reach h.online h.selects h.mapped
    h.runs hw

theorem State.DestOpen.fill (h : s.DestOpen c hs dest mask t) (hb : bad = false) (hw : t.written (s.hloc c dest) = false) :
    (s.issued c).rowDest c bad hs dest mask k = .wait (t.startFill c (locExtent (s.hloc c dest))) :=
  State.rowDest_fill _ t c bad hs dest mask k hb (any_isNone_of_bound h.bound) h.live h.reach h.online h.selects h.mapped
    h.runs hw

end Dest

theorem aRowCopy_copies {r : State × List Decoded} (h : s.DestOpen c [f.n, f.a] f.n f.u t)
    (ho : f.only { a := true, n := true, i := true } = true) (ha : f.a < 8) (hw : t.written (s.hloc c f.n) = true)
    (hr : r = t.readRow c (t.hloc c f.a) f.u) :
    (s.issued c).aRowCopy c f =
      .done (r.1.writeRow (t.hloc c f.n) f.u (r.2.map fun d => encodeSector d.data d.metaByte)) := by
  subst hr
  exact h.go (by simp [ho, ha]) hw

theorem aRowFill_fills (h : s.DestOpen c [f.n] f.n f.u t)
    (ho : f.only { a := true, n := true, m := true, i := true } = true) (hm : f.m < 16)
    (hw : t.written (s.hloc c f.n) = true) :
    (s.issued c).aRowFill c f = .done (t.writeRow (t.hloc c f.n) f.u
      ((maskSectors f.u).map fun _ => encodeSector (repeatWord (t.g c f.a)) f.m)) :=
  h.go (by simp [ho, hm]) hw

section Zero
variable (ho : f.only { n := true, i := true } = true)
include ho

theorem aRowZero_zeroes (h : s.DestOpen c [f.n] f.n f.u t) (hw : t.written (s.hloc c f.n) = true) :
    (s.issued c).aRowZero c f = .done (t.writeRow (t.hloc c f.n) f.u ((maskSectors f.u).map fun _ => zeroCode)) :=
  h.go (by simp [ho]) hw

theorem aRowZero_startsFill (h : s.DestOpen c [f.n] f.n f.u t) (hw : t.written (s.hloc c f.n) = false) :
    (s.issued c).aRowZero c f = .wait (t.startFill c (locExtent (s.hloc c f.n))) := h.fill (by simp [ho]) hw

/-- An empty mask selects nothing (R313). -/
theorem aRowZero_empty (hs : (s.hslot c f.n).isSome = true) (hv : [f.n].any (s.handleRetired c) = false)
    (hi : inReach (writeReach (s.chan c).eng.queue) (s.hloc c f.n) false = true) (hc : s.chanOut c = false) (hu : f.u = 0) :
    (s.issued c).aRowZero c f = .done (s.issued c) := by
  simp only [List.any_cons, List.any_nil, Bool.or_false] at hv
  simp [State.aRowZero, State.rowDest, ho, hv, Option.isNone_eq_false_iff.mpr hs, hi, hc, hu]

end Zero

section Bit

theorem aRowBit_two {r q : State × List Decoded} (h : s.DestOpen c [f.n, f.a, f.b] f.n f.u t)
    (ho : f.only { a := true, b := true, n := true, m := true, i := true } = true) (ha : f.a < 8) (hb : f.b < 8)
    (hm : f.m < 4) (hw : t.written (s.hloc c f.n) = true) (hr : r = t.readRow c (t.hloc c f.a) f.u)
    (hq : q = r.1.readRow c (t.hloc c f.b) f.u) :
    (s.issued c).aRowBit c f =
      .done (q.1.writeRow (t.hloc c f.n) f.u (List.zipWith (fun x y => bitSector f.m x (some y)) r.2 q.2)) := by
  subst hr hq
  have h4 : (f.m == 4) = false := beq_eq_false_iff_ne.mpr (Nat.ne_of_lt hm)
  simp only [State.aRowBit, h4, Bool.false_eq_true, if_false]
  exact h.go (by simp [ho, ha, hb, Nat.le_of_lt hm]) hw

/-- Fields that do not name SRC2 have it 0 (R294). -/
theorem only_of_no_src2 (ho : f.only { a := true, n := true, m := true, i := true } = true) :
    f.only { a := true, b := true, n := true, m := true, i := true } = true ∧ f.src2 = 0 := by
  simpa [Fields.only, and_assoc, and_comm, and_left_comm] using ho

theorem aRowBit_not {r : State × List Decoded} (h : s.DestOpen c [f.n, f.a] f.n f.u t)
    (ho : f.only { a := true, n := true, m := true, i := true } = true) (ha : f.a < 8) (hm : f.m = 4)
    (hw : t.written (s.hloc c f.n) = true) (hr : r = t.readRow c (t.hloc c f.a) f.u) :
    (s.issued c).aRowBit c f = .done (r.1.writeRow (t.hloc c f.n) f.u (r.2.map fun x => bitSector 4 x none)) := by
  subst hr
  obtain ⟨hall, hb⟩ := only_of_no_src2 ho
  have h4 : (f.m == 4) = true := beq_iff_eq.mpr hm
  simp only [State.aRowBit, h4, if_true]
  exact h.go (by simp [hall, ha, hb, hm, Fields.b]) hw

end Bit

section Reads
variable {i : Nat} {r : State × List Decoded} (hs : s.hslot c f.n = some i) (hv : s.handleRetired c f.n = false)
  (hc : s.chanOut c = false)
include hs hv hc

theorem rowChecks_passed {bad : Bool} {k : Att} (hb : bad = false) : (s.issued c).rowChecks c bad [f.n] k = k := by
  simp [State.rowChecks, hb, hs, hv, hc]

variable (hr : r = (s.issued c).readRow c (s.slot c i).loc f.u)
include hr

theorem aRowCmp_matches (ho : f.only { d := true, a := true, b := true, n := true, m := true, i := true } = true)
    (hm : f.m < 16) : (s.issued c).aRowCmp c f = .done (r.1.setG c f.d
      (BitVec.ofNat 64 (matchMask f.u (f.m % 8) (bitOf f.m 3) (s.g c f.a) (s.g c f.b) r.2))) := by
  rw [State.aRowCmp, rowChecks_passed hs hv hc (by simp [ho, hm]), hr, hloc_issued, hloc_of_hslot hs, g_issued, g_issued]

theorem aRowPopc_counts (ho : f.only { d := true, n := true, i := true } = true) :
    (s.issued c).aRowPopc c f = .done (r.1.setG c f.d
      (BitVec.ofNat 64 (r.2.foldl (fun a d => a + popcount 512 d.data.toNat) 0))) := by
  rw [State.aRowPopc, rowChecks_passed hs hv hc (by simp [ho]), hr, hloc_issued, hloc_of_hslot hs]

theorem aRowCrc_runs (ho : f.only { d := true, a := true, n := true, i := true } = true) :
    (s.issued c).aRowCrc c f = .done (r.1.setG c f.d (BitVec.ofNat 64
      (r.2.foldl (fun a d => crcRun a (bytesLE 64 d.data.toNat)) ((s.g c f.a).toNat % 2 ^ 32)))) := by
  rw [State.aRowCrc, rowChecks_passed hs hv hc (by simp [ho]), hr, hloc_issued, hloc_of_hslot hs, g_issued]

end Reads

end RowWide

/-! ### row.ferry -/

section Ferry
variable {s : State} {f : Fields}

/-- A ferry issues, and waits for what its destination's channel does with it (R317). -/
theorem aRowFerry_issues {c i : Nat} (ho : f.only { d := true, a := true, n := true } = true)
    (hp : (s.chan c).eng.progress = 0) (hs : s.hslot c f.n = some i) (hl : locValid (s.g c f.a).toNat = true)
    (hd : locCh (s.g c f.a).toNat ≠ c) (hv : s.rowRetired (s.g c f.a).toNat = false) (hh : s.handleRetired c f.n = false)
    (hi : inReach (writeReach (s.chan c).eng.queue) (s.g c f.a).toNat false = true)
    (hk : (s.chan (locCh (s.g c f.a).toNat)).st = .online) (hc : s.chanOut c = false) :
    (s.issued c).aRowFerry c f =
      .wait (((s.issued c).writeIssued (s.g c f.a).toNat).modEng c fun e => { e with progress := 1 }) := by
  simp [State.aRowFerry, hp, ho, hs, hl, hd, hv, hh, hi, hk, hc]

/-- One whose row has been launched lands, and says whether its destination took it. -/
theorem aRowFerry_lands {c : Nat} (hp : (s.eng c).progress = 2) :
    s.aRowFerry c f = .done ((s.landFerry c).1.setG c f.d
      (resultWord (if (s.landFerry c).2 then .ok else .internal) 0 0)) := if_pos hp

variable {c : Fin 32}

/-- An instruction that waits, but st.cfg, is attempted again once nothing but its requests is waited for (R298). -/
theorem waitOver_retries {w : Word64} (hr : (s.chan c).eng.phase = .running) (hw : (s.chan c).eng.waiting.isSome = true)
    (hx : (s.chan c).eng.store[(s.chan c).eng.pc]? = some w) (ho : opOf w ≠ 0x31#8) :
    s.waitOver c = (s.calmWants c).settleAtt c ((s.calmWants c).retry c (opOf w).toNat (fieldsOf w)) := by
  simp only [State.waitOver, State.waitEnd, State.eng, hx, hr, hw, ho, and_false, and_self, if_false, if_true]

theorem progress_calmWants : ((s.calmWants c).eng c).progress = (s.chan c).eng.progress := by
  simp only [State.calmWants, State.eng, State.chan_modEng_same]

theorem waitOver_ferry (hr : (s.chan c).eng.phase = .running) (hw : (s.chan c).eng.waiting.isSome = true)
    (hx : (s.chan c).eng.store[(s.chan c).eng.pc]? = some (wordOf 0x57 f)) (hp : (s.chan c).eng.progress = 2) :
    s.waitOver c = (s.calmWants c).settleAtt c (.done (((s.calmWants c).landFerry c).1.setG c f.d
      (resultWord (if ((s.calmWants c).landFerry c).2 then .ok else .internal) 0 0))) := by
  have hop : opOf (wordOf 0x57 f) ≠ 0x31#8 := by rw [opOf_wordOf]; decide
  rw [waitOver_retries hr hw hx hop, opOf_wordOf, fieldsOf_wordOf]
  exact congrArg _ (aRowFerry_lands (progress_calmWants.trans hp))

end Ferry

/-! ### Raw sector access -/

section Raw
variable {s t : State} {c : Nat} {f : Fields}

theorem rawChecks_class {bad offOk : Bool} {reach : Nat} {v : Word64} {k : Nat → Att} (hb : bad = false)
    (hq : (s.chan c).eng.queue < 6) : (s.issued c).rawChecks c bad reach v offOk k = .exc 0x11 := by
  have hm : s.mayM c = false := decide_eq_false (Nat.not_le.mpr hq)
  simp [State.rawChecks, hb, hm]

theorem rawChecks_passed {bad offOk : Bool} {reach : Nat} {v : Word64} {k : Nat → Att} (hb : bad = false)
    (hm : s.mayM c = true) (hl : s.locFault c reach v false = none) (hc : s.chanOut c = false) :
    (s.issued c).rawChecks c bad reach v offOk k = k v.toNat := by
  simp [State.rawChecks, hb, hm, hl, hc]

theorem fillRuns_of_written {loc : Nat} (hw : t.written loc = true) : t.fillRuns loc = false := by simp [State.fillRuns, hw]

section Rdraw
variable (ho : f.only { a := true, i := true } = true) (hu : f.u < 32)
include ho hu

theorem aSecRdraw_class (hq : (s.chan c).eng.queue < 6) : (s.issued c).aSecRdraw c f = .exc 0x11 :=
  rawChecks_class (by simp [ho, hu]) hq

variable (hm : s.mayM c = true) (hl : s.locFault c (readReach (s.chan c).eng.queue) (s.g c f.a) false = none)
  (hc : s.chanOut c = false) (ht : t = (s.issued c).useMap (s.g c f.a).toNat) (hr : (t.chan c).eng.phase = .running)
include hm hl hc ht hr

/-- A sec.rdraw that passes its checks goes by the state of its row's extent (R320). -/
theorem aSecRdraw_passed : (s.issued c).aSecRdraw c f =
    if t.fillRuns (s.g c f.a).toNat then .wait t
    else if !t.written (s.g c f.a).toNat then .done (t.putImage c zeroCode)
    else .cycle (t.ownAccess c (s.g c f.a).toNat 1 false) fun v =>
      .done (v.putImage c (v.stored ⟨(s.g c f.a).toNat, f.u⟩)) := by
  subst ht
  refine (rawChecks_passed (by simp [ho, hu]) hm hl hc).trans ?_
  simp only [chanOut_issued, hc, hr, Bool.false_eq_true, if_false, ne_eq, not_true_eq_false]

theorem aSecRdraw_fillRuns (hf : t.fillRuns (s.g c f.a).toNat = true) : (s.issued c).aSecRdraw c f = .wait t :=
  (aSecRdraw_passed ho hu hm hl hc ht hr).trans (if_pos hf)

theorem aSecRdraw_unwritten (hf : t.fillRuns (s.g c f.a).toNat = false) (hw : t.written (s.g c f.a).toNat = false) :
    (s.issued c).aSecRdraw c f = .done (t.putImage c zeroCode) := by
  simp only [aSecRdraw_passed ho hu hm hl hc ht hr, hf, hw, Bool.not_false, Bool.false_eq_true, if_false, if_true]

theorem aSecRdraw_accesses (hw : t.written (s.g c f.a).toNat = true) : (s.issued c).aSecRdraw c f =
    .cycle (t.ownAccess c (s.g c f.a).toNat 1 false) fun v =>
      .done (v.putImage c (v.stored ⟨(s.g c f.a).toNat, f.u⟩)) := by
  simp only [aSecRdraw_passed ho hu hm hl hc ht hr, fillRuns_of_written hw, hw, Bool.not_true, Bool.false_eq_true, if_false]

end Rdraw

theorem aSecWrraw_accesses {x : Place3} (ho : f.only { a := true, m := true, i := true } = true)
    (hb : wrrawBad f.m f.u = false) (hm : s.mayM c = true)
    (hl : s.locFault c (writeReach (s.chan c).eng.queue) (s.g c f.a) false = none) (hc : s.chanOut c = false)
    (ht : t = (s.issued c).useMap (s.g c f.a).toNat) (hr : (t.chan c).eng.phase = .running)
    (hx : x = ⟨(s.g c f.a).toNat, f.u % 32⟩) (hw : t.written (s.g c f.a).toNat = true) :
    (s.issued c).aSecWrraw c f = .cycle (t.ownAccess c (s.g c f.a).toNat 2 true) fun v =>
      .done ((v.storeHit x (BitVec.allOnes 64)).setStored x (rawMerge (v.stored x) (v.image c) f.m (bitsOf f.u 11 8))) := by
  subst ht hx
  refine (rawChecks_passed (by simp [ho, hb]) hm hl hc).trans ?_
  simp only [hr, hw, Bool.not_true, Bool.false_eq_true, if_false, ne_eq, not_true_eq_false]

end Raw

/-! ### The access of a claimant -/

section Access
variable {s : State} {k n : Nat} {write may : Bool} {w : Want}

theorem progHit_port (h : s.progPort w = true) :
    s.progHit k w = .go (((s.dropWant k w.loc).touch w.loc).countCh (locCh w.loc) 4 1 none (some w.flow)) := if_pos h

theorem progHit_queues (h : s.progPort w = false) : s.progHit k w = .wait (s.putWant k { w with port := true }) :=
  if_neg (by simp [h])

theorem progSector_waits {t : State} (h : s.progCycle k w.loc n 1 w = .wait t) : s.progSector k n w = .wait t := by
  simp only [State.progSector, h]

theorem progSector_goes {t : State} (h : s.progCycle k w.loc n 1 w = .go t) :
    s.progSector k n w = .go ((t.dropWant k w.loc).cyclesAt w.loc n (none, some w.flow)) := by
  simp only [State.progSector, h]

variable (hw : s.rowWaits w.loc write = false)
include hw

/-- An access to a resident row is a hit, but that of a read whose move-in's transfer has ended (R245, R529). -/
theorem progServe_resident (hm : w.moveIn ≠ some true ∨ write = true) (hs : (s.findSlot w.loc).isSome = true) :
    s.progServe k n write may w = s.progHit k w := by
  have hd : ¬ (w.moveIn = some true ∧ (!write) = true) := by rcases hm with h | h <;> simp [h]
  simp only [State.progServe, ← and_assoc, hd, hw, hs, false_and, Bool.false_eq_true, if_false, if_true]

section Absent
variable (hs : s.findSlot w.loc = none)
include hs

theorem progServe_promotes (h : s.progWay w may = .promoting) :
    s.progServe k n write may w = .wait (s.bringIn k w write) := by
  simp [State.progServe, hs, hw, h]

theorem progServe_refused (h : s.progWay w may = .afterRefresh) :
    s.progServe k n write may w = .wait (s.putWant k { w with refused := true }) := by
  simp [State.progServe, hs, hw, h]

theorem progServe_sector (h : s.progWay w may = .sector) : s.progServe k n write may w = s.progSector k n w := by
  simp [State.progServe, hs, hw, h]

end Absent

end Access

end Sys2Proof.Machine

namespace Sys2Proof
open Machine

/-- Settles O47: the attempt of each instruction by its checks, its row's slot and the state of the row's extent; one that
needs no wait and leaves its program running passes on. -/
theorem programsPinRowsAndReachTheirWords : Obligations.ProgramsPinRowsAndReachTheirWords := by
  unfold Obligations.ProgramsPinRowsAndReachTheirWords
  refine ⟨?_, ?_, ?_, ?_, ?_, ?_, ?_, ?_, ?_, ?_, ?_, ?_, ?_, ?_, ?_, ?_, ?_, ?_⟩
  · exact fun c f s k h ho hl hc hp =>
      finished_engine h (aRowLoad_pinned ho hl hc hp) fun e => ⟨rfl, rfl, rfl⟩
  · exact fun c f s t i h ho hl hc hp hn ht hr hi hw hf =>
      finished_attempt h (aRowLoad_got ho hl hc hp hn ht hr (obtain_resident hw hf hi))
  · exact fun c f s t h ho hl hc hp hn ht hr hw =>
      finished_attempt h (aRowLoad_waits ho hl hc hp hn ht hr (obtain_waits hw))
  · exact fun c f s t u v i h ho hl hc hp hn ht hr hi hw hf hv hx hcl hg =>
      finished_attempt h (aRowLoad_waits ho hl hc hp hn ht hr (obtain_moveIn hw hf hi hv hx hcl hg))
  · exact fun c f s code h ho hl => finished_exc h (aRowLoad_badLocator ho hl)
  · exact fun c f s h ho hl hc hp hn => finished_exc h (aRowLoad_pinLimit ho hl hc hp hn)
  · exact fun c f s t i h ho hl hc hp ht hr hx hi hw hy hs =>
      finished_attempt h (aRowClaim_resident ho hl hc hp ht hr hx hi hw hy hs)
  · exact fun c f s t h ho hl hc hp ht hr hx => finished_attempt h (aRowClaim_unwritten ho hl hc hp ht hr hx)
  · exact fun c f s h ho hu => finished_engine h (aRowRel_releases ho hu) fun e => ⟨rfl, rfl, rfl⟩
  · exact fun c f s i h ho hs hv hc hp hd => finished_pass h (aRowWb_clean ho hp hs hv hc hd)
  · exact fun c f s i t h ho hs hv hc hp hd hh hg => finished_attempt h (aRowWb_dirty ho hp hs hv hc hd hh hg)
  · exact fun c f s i h ho hs => finished_eq (s.issue_setG c 0x44 f _ f.d _ h (aRowLoc_bound ho hs))
  · exact fun c f s h ho hs => finished_exc h (aRowLoc_unbound ho hs)
  · exact fun c f s i r h ho hb hs hv hc hr => finished_attempt h (aSlotLdw_reads hb ho hs hv hc hr)
  · exact fun c f s t i r x h ho hb hs hv hi hc ht hp hw hx hr =>
      finished_attempt h (aSlotStw_writes hb ho hs hv hi hc ht hp hw hx hr)
  · exact fun c f s i h ho hb hs hv hi => finished_exc h (aSlotStw_area hb ho hs hv hi)
  · rintro c f s i op (⟨rfl, rfl, ho, hb⟩ | ⟨rfl, rfl, ho, hb⟩ | ⟨rfl, rfl, ho, hp⟩) h hs hv
    · exact finished_exc h (aSlotLdw_retired hb ho hs hv)
    · exact finished_exc h (aSlotStw_retired hb ho hs hv)
    · exact finished_exc h (aRowWb_retired ho hp hs hv)
  · exact fun s c n => rfl

/-- Settles O48: a row-wide write by whether its destination's extent is written, a raw access by the state of its row's
extent and the turn of its access. -/
theorem rowWideAndRawInstructions : Obligations.RowWideAndRawInstructions := by
  unfold Obligations.RowWideAndRawInstructions
  refine ⟨?_, ?_, ?_, ?_, ?_, ?_, ?_, ?_, ?_, ?_, ?_, ?_, ?_, ?_, ?_, ?_⟩
  · exact fun c f s t r h ho ha hn hsa hv hi hc hu ht hp hw hr =>
      finished_attempt h (aRowCopy_copies ⟨by simp [hn, hsa], hv, hi, hc, hu, ht, hp⟩ ho ha hw hr)
  · exact fun c f s t h ho hm hn hv hi hc hu ht hp hw =>
      finished_attempt h (aRowFill_fills ⟨by simp [hn], hv, hi, hc, hu, ht, hp⟩ ho hm hw)
  · exact fun c f s t h ho hn hv hi hc hu ht hp hw =>
      finished_attempt h (aRowZero_zeroes ho ⟨by simp [hn], hv, hi, hc, hu, ht, hp⟩ hw)
  · exact fun c f s h ho hn hv hi hc hu => finished_pass h (aRowZero_empty ho hn hv hi hc hu)
  · exact fun c f s t h ho hn hv hi hc hu ht hp hw =>
      finished_attempt h (aRowZero_startsFill ho ⟨by simp [hn], hv, hi, hc, hu, ht, hp⟩ hw)
  · exact fun c f s t r q h ho ha hb hm hn hsa hsb hv hi hc hu ht hp hw hr hq => finished_attempt h
      (aRowBit_two ⟨by simp [hn, hsa, hsb], hv, hi, hc, hu, ht, hp⟩ ho ha hb hm hw hr hq)
  · exact fun c f s t r h ho ha hm hn hsa hv hi hc hu ht hp hw hr =>
      finished_attempt h (aRowBit_not ⟨by simp [hn, hsa], hv, hi, hc, hu, ht, hp⟩ ho ha hm hw hr)
  · exact fun c f s i r h ho hm hs hv hc hr => finished_attempt h (aRowCmp_matches hs hv hc hr ho hm)
  · exact fun c f s i r h ho hs hv hc hr => finished_attempt h (aRowPopc_counts hs hv hc hr ho)
  · exact fun c f s i r h ho hs hv hc hr => finished_attempt h (aRowCrc_runs hs hv hc hr ho)
  · exact fun c f s i h ho hp hs hl hd hv hh hi hk hc => finished_attempt h (aRowFerry_issues ho hp hs hl hd hv hh hi hk hc)
  · exact fun c f s hr hw hx hp => finished_eq (waitOver_ferry hr hw hx hp)
  · intro c f s t h ho hu hm hl hc ht hr
    refine ⟨fun hf => ?_, fun hf hw => ?_, fun v hw hv => ?_, fun v hw hv => ?_⟩
    · exact finished_attempt h (aSecRdraw_fillRuns ho hu hm hl hc ht hr hf)
    · exact finished_attempt h (aSecRdraw_unwritten ho hu hm hl hc ht hr hf hw)
    · exact finished_attempt h (by rw [aSecRdraw_accesses ho hu hm hl hc ht hr hw, hv, Att.cycle_go])
    · exact finished_attempt h (by rw [aSecRdraw_accesses ho hu hm hl hc ht hr hw, hv, Att.cycle_wait])
  · intro c f s t x h ho hb hm hl hc ht hr hx hw
    have ha := aSecWrraw_accesses ho hb hm hl hc ht hr hx hw
    exact ⟨fun v hv => finished_attempt h (by rw [ha, hv, Att.cycle_go]),
      fun v hv => finished_attempt h (by rw [ha, hv, Att.cycle_wait])⟩
  · intro s k n write may w hw hm
    refine ⟨fun hs => ?_, fun hs => ⟨?_, ?_, fun h => ?_⟩⟩
    · rw [progServe_resident hw hm hs]
      exact ⟨progHit_port, progHit_queues⟩
    · exact progServe_promotes hw hs
    · exact progServe_refused hw hs
    · rw [progServe_sector hw hs h]
      exact ⟨fun t => progSector_waits, fun t => progSector_goes⟩
  · exact fun c f s h ho hu hq => finished_exc h (aSecRdraw_class ho hu hq)

end Sys2Proof
end

