-- ==== Sys2Proof/Proofs/ExdunQueues.lean ====
section
/-!
PROOFS. The registers of an Exdun queue: what a doorbell, a placement of the rings and a write of EXD_QCTL do, who may write
those of queue 7, and what an abort leaves (R266 to R269, R289 to R292).
-/
namespace Sys2Proof.Machine

/-! ### The registers of queue 7 -/

section Secure
variable {s t : State} {p : Path} {r : Reg} {c q : Nat} {w : Word} {k : Res}

theorem secureQueue_permitted (h : q ≠ 7 ∨ isSecure p = true) : s.secureQueue p r c q k = k :=
  if_neg fun ⟨h7, hs⟩ => h.elim (absurd h7) fun h => by simp [h] at hs

theorem secureQueue_denied (hq : q = 7) (hs : isSecure p = false) :
    s.secureQueue p r c q k = s.deny p (adr r c q) true := if_pos ⟨hq, by simp [hs]⟩

variable (hg : s.granted p r c q w = true) (hx : s.writeReg p r c q w Given.plain .direct = s.secureQueue p r c q k)
include hg hx

theorem queueWrite_done (h : q ≠ 7 ∨ isSecure p = true) (hk : k = done t) :
    finished s (s.writeOn p r c q w) = .next (commit s (s.answered p (adr r c q) w t)) :=
  finished_eq (s.writeOn_done p r c q w t hg (hx.trans ((secureQueue_permitted h).trans hk)))

theorem queueWrite_ignored (h : q ≠ 7 ∨ isSecure p = true) (hk : k = ignored s) :
    finished s (s.writeOn p r c q w) = .next (commit s (s.turnedAway p (adr r c q))) :=
  finished_eq (s.writeOn_ignored p r c q w hg (hx.trans ((secureQueue_permitted h).trans hk)))

end Secure

/-- A granted write that its register denies its path completes PRIV (R79). -/
theorem writeOn_denied {s : State} {p : Path} {r : Reg} {u i : Nat} {w : Word} (hg : s.granted p r u i w = true)
    (hx : s.writeReg p r u i w Given.plain .direct = s.deny p (adr r u i) true) :
    finished s (s.writeOn p r u i w) = .next (commit s
      (((s.accFault 1 (pathNum p) (adr r u i) true).bump F.GLB_ACC_COUNT_PRIV_DENY_COUNT).emit
        (.access (pathNum p) (adr r u i) true .priv 0))) := by
  have hi : inRange r w.toNat = true := (Bool.and_eq_true_iff.mp hg).2
  exact finished_eq (s.writeOn_refused p r u i w w _ .priv hg hi nofun hx)

/-! ### Doorbells and rings -/

section Rings
variable {s : State} {p : Path} {c q : Nat} {w : Word}

theorem wQdb_moves (he : s.flag (F.EXD_QCTL_EN c q) = true) (ht : bitsOf w.toNat 9 0 < s.ringSize c q) :
    s.wQdb c q w = done (s.modQset c q fun x => { x with tail := bitsOf w.toNat 9 0 }) := by
  simp only [State.wQdb, he, Nat.not_le.mpr ht, Bool.not_true, decide_false, Bool.or_self, Bool.false_eq_true, if_false]

theorem wQdb_outside (h : s.flag (F.EXD_QCTL_EN c q) = false ∨ s.ringSize c q ≤ bitsOf w.toNat 9 0) :
    s.wQdb c q w = ignored s := if_pos (by rcases h with h | h <;> simp [h])

theorem wQcfg_places {n : PathNum} (he : s.flag (F.EXD_QCTL_EN c q) = false) (hr : ringsOk w.toNat = true) :
    s.wQcfg n c q w = done (s.plainWrite n .EXD_QCFG c q w) := if_neg (by simp [he, hr])

theorem wQcfg_outside {n : PathNum} (h : s.flag (F.EXD_QCTL_EN c q) = true ∨ ringsOk w.toNat = false) :
    s.wQcfg n c q w = ignored s := if_pos (by rcases h with h | h <;> simp [h])

end Rings

/-! ### EXD_QCTL -/

section Control
variable {s : State} {n : PathNum} {c q : Nat} {w : Word}

/-- RESET_IDX is for a disabled queue that stays so (R292). -/
theorem wQctl_resets (h29 : bitOf w.toNat 29 = true) (h30 : bitOf w.toNat 30 = false) (h31 : bitOf w.toNat 31 = false)
    (he : s.flag (F.EXD_QCTL_EN c q) = false) :
    s.wQctl n c q w = done ((s.plainWrite n .EXD_QCTL c q w).resetIdx c q) := by
  simp [State.wQctl, h29, h30, h31, he]

theorem wQctl_resetsEnabled (h29 : bitOf w.toNat 29 = true) (he : s.flag (F.EXD_QCTL_EN c q) = true) :
    s.wQctl n c q w = ignored s := by
  simp [State.wQctl, h29, he]

variable (h29 : bitOf w.toNat 29 = false)
include h29

/-- A write that disables the queue of the running program is IGNORED (R292). -/
theorem wQctl_disablesRunning (h31 : bitOf w.toNat 31 = false) (he : s.flag (F.EXD_QCTL_EN c q) = true)
    (hb : (s.chan c).eng.busy = true) (hq : (s.chan c).eng.queue = q) : s.wQctl n c q w = ignored s := by
  simp [State.wQctl, h29, h31, he, hb, hq]

/-- Any other write without RESET_IDX is taken, after the abort that it asks for. -/
theorem wQctl_taken (h : bitOf w.toNat 31 = true ∨ s.flag (F.EXD_QCTL_EN c q) = false ∨ (s.chan c).eng.busy = false ∨
      (s.chan c).eng.queue ≠ q) :
    s.wQctl n c q w = done ((if bitOf w.toNat 30 then s.abortQueue c q else s).plainWrite n .EXD_QCTL c q w) := by
  have hr : (!bitOf w.toNat 31 && s.flag (F.EXD_QCTL_EN c q) && (s.chan c).eng.busy && (s.chan c).eng.queue == q) = false := by
    rcases h with h | h | h | h <;> simp [h]
  simp only [State.wQctl, h29, hr, Bool.false_and, Bool.false_eq_true, if_false]

end Control

/-- The words that the writes of EN and of ABORT write. -/
theorem bits_enWord (en : Bool) : bitOf (BitVec.ofNat 32 (2 ^ 31 * b2n en)).toNat 29 = false ∧
    bitOf (BitVec.ofNat 32 (2 ^ 31 * b2n en)).toNat 30 = false ∧
    bitOf (BitVec.ofNat 32 (2 ^ 31 * b2n en)).toNat 31 = en := by cases en <;> decide

theorem bits_abortWord (en : Bool) : bitOf (BitVec.ofNat 32 (2 ^ 31 * b2n en + 2 ^ 30)).toNat 29 = false ∧
    bitOf (BitVec.ofNat 32 (2 ^ 31 * b2n en + 2 ^ 30)).toNat 30 = true ∧
    bitOf (BitVec.ofNat 32 (2 ^ 31 * b2n en + 2 ^ 30)).toNat 31 = en := by cases en <;> decide

/-! ### Aborts and the end of a program -/

section Abort
variable {s : State} {p : Path} {c : Nat} {w : Word}

theorem abortProgram_idle {k : Nat} (h : (s.chan c).eng.busy = false) : s.abortProgram c k = s := if_neg (by simp [h])

theorem abortProgram_busy {k : Nat} (h : (s.chan c).eng.busy = true) : s.abortProgram c k = s.endProgram c 3 k := if_pos h

theorem wExdCtl_aborts (hw : bitOf w.toNat 31 = true)
    (h : (s.chan c).eng.busy = false ∨ (s.chan c).eng.queue ≠ 7 ∨ isSecure p = true) :
    s.wExdCtl p c w = done (s.abortProgram c 0x20) := by
  have hd : ((s.chan c).eng.busy && (s.chan c).eng.queue == 7 && !isSecure p) = false := by
    rcases h with h | h | h <;> simp [h]
  simp only [State.wExdCtl, hw, hd, Bool.not_true, Bool.false_eq_true, if_false]

/-- The program of queue 7 is aborted by a secure access only (R289, R290). -/
theorem wExdCtl_denied (hw : bitOf w.toNat 31 = true) (hb : (s.chan c).eng.busy = true) (hq : (s.chan c).eng.queue = 7)
    (hs : isSecure p = false) : s.wExdCtl p c w = s.deny p (adr .EXD_CTL c) true := by
  simp [State.wExdCtl, hw, hb, hq, hs]

theorem chan_recordFault (s : State) (n bits d : Nat) : (s.recordFault n bits).chan d = s.chan d := by
  simp only [State.recordFault, State.chan_traceEv, State.chan_bump, State.chan_setReg, State.chan_setFlag]
  split <;> simp only [State.chan_setReg]

/-- The engine once its program has ended (R262, R286). -/
theorem eng_endProgram (s : State) (c : Fin 32) (st k : Nat) : ((s.endProgram c st k).chan c).eng =
    { ((s.finishFerry c).chan c).eng with
      phase := .ending
      records := ((s.finishFerry c).chan c).eng.records ++ [(s.finishFerry c).makeRecord c st k]
      pins := Vector.replicate 16 none, h := Vector.replicate 8 none
      waiting := none, progress := 0, walk := none, wants := [], ledger := none, clearing := none } := by
  unfold State.endProgram
  generalize s.finishFerry c = u
  have hm : ∀ (t : State) m, ({ t with mram := m } : State).chan c = t.chan c := fun _ _ => rfl
  simp only
  split <;> split <;> simp only [chan_recordFault, State.chan_traceEv, hm, State.chan_modEng_same]

end Abort

end Sys2Proof.Machine

namespace Sys2Proof
open Machine

/-- Settles O38: a write of a queue's register by whether its queue is enabled, runs or is queue 7; an abort by whether a
program runs. -/
theorem queuesAreSetUpAndRung : Obligations.QueuesAreSetUpAndRung := by
  unfold Obligations.QueuesAreSetUpAndRung
  refine ⟨?_, ?_, ?_, ?_, ?_, ?_, ?_, ?_, ?_, ?_, ?_, ?_, ?_, ?_, ?_, ?_, ?_⟩
  · exact fun p c q w s hg hq he ht => queueWrite_done hg rfl hq (wQdb_moves he ht)
  · exact fun p c q w s hg hq h => queueWrite_ignored hg rfl hq (wQdb_outside h)
  · exact fun p c q w s hg hq he hr => queueWrite_done hg rfl hq (wQcfg_places he hr)
  · exact fun p c q w s hg hq h => queueWrite_ignored hg rfl hq (wQcfg_outside h)
  · rintro p c q en _ s rfl hg hq h
    obtain ⟨h29, h30, h31⟩ := bits_enWord en
    exact queueWrite_done hg rfl hq (by rw [wQctl_taken h29 (by rwa [h31]), h30, if_neg nofun])
  · rintro p c q en _ s rfl hg hq h
    obtain ⟨h29, h30, h31⟩ := bits_abortWord en
    exact queueWrite_done hg rfl hq (by rw [wQctl_taken h29 (by rwa [h31]), h30, if_pos rfl])
  · exact fun p c q s hg hq he =>
      queueWrite_done hg rfl hq (wQctl_resets (by decide) (by decide) (by decide) he)
  · exact fun p c q s hg hq he => queueWrite_ignored hg rfl hq (wQctl_resetsEnabled (by decide) he)
  · rintro p c q v s - hg hq he hb hr
    refine ⟨?_, ?_⟩
    · rintro rfl
      exact queueWrite_ignored hg rfl hq (wQctl_disablesRunning (by decide) (by decide) he hb hr)
    · rintro rfl
      exact queueWrite_ignored hg rfl hq (wQctl_disablesRunning (by decide) (by decide) he hb hr)
  · exact fun p c s hg h => finished_eq (s.writeOn_done p .EXD_CTL c 0 _ _ hg
      (wExdCtl_aborts (w := 0x80000000#32) (by decide) h))
  · intro p c q r i w s hi hg hq hs
    obtain ⟨rfl, rfl⟩ | ⟨rfl, rfl⟩ | ⟨rfl, rfl, rfl⟩ | ⟨rfl, rfl, rfl⟩ | ⟨rfl, rfl, rfl⟩ | ⟨rfl, rfl, rfl⟩ |
      ⟨rfl, rfl, rfl⟩ := hi
    all_goals exact writeOn_denied hg (secureQueue_denied hq hs)
  · exact fun p c s hg hb hq hs => writeOn_denied hg
      (wExdCtl_denied (w := 0x80000000#32) (by decide) hb hq hs)
  · exact fun s c k h => abortProgram_idle h
  · exact fun s c k h => abortProgram_busy h
  · intro s c q h
    rw [State.abortQueue, if_pos h]
  · intro s c q h
    rw [State.abortQueue, if_neg (by simp [h])]
  · exact fun s c st k => by
      rw [eng_endProgram]
      exact ⟨rfl, rfl⟩

end Sys2Proof
end

