-- ==== Sys2Proof/Proofs/ExdunPrograms.lean ====
section
/-!
PROOFS. The life of an Exdun program: the descriptors that an ABORT completes, the descriptor read and checked, the program
fetched and started, its completion record and its budget (R267 to R291).
-/
namespace Sys2Proof.Machine

/-! ### The descriptor -/

section Descriptor
variable {s t u : State} {c : Nat} {x : Decoded}

theorem readDescriptor_gone (h : s.ringGone (s.areaOf c (s.chan c).eng.proxy) = true) :
    s.readDescriptor c = s.endProgram c 3 0x23 := if_pos h

section Read
variable (h : s.ringGone (s.areaOf c (s.chan c).eng.proxy) = false)
include h

theorem readDescriptor_waits (hr : s.engineRead c (s.areaOf c (s.chan c).eng.proxy)
      (s.descOff c (s.chan c).eng.queue (s.chan c).eng.index) 0 = .wait t) : s.readDescriptor c = t := by
  simp only [State.readDescriptor, h, hr, Bool.false_eq_true, if_false]

theorem readDescriptor_got (hr : s.engineRead c (s.areaOf c (s.chan c).eng.proxy)
      (s.descOff c (s.chan c).eng.queue (s.chan c).eng.index) 0 = .got t x) :
    s.readDescriptor c = t.checkDescriptor c x := by
  simp only [State.readDescriptor, h, hr, Bool.false_eq_true, if_false]

end Read

/-- A descriptor read is checked in the state that holds it (R274). -/
theorem checkDescriptor_settles {o : Option Nat} (hu : u = t.modEng c fun e => { e with desc := descRead x })
    (ho : u.refusal (u.chan c).eng.queue (descRead x) x.poison = o) :
    t.checkDescriptor c x = u.settleDescriptor c o := by
  subst hu ho
  rfl

variable (ha : (s.chan c).eng.aborts = [])
include ha

/-- Nothing to complete for an ABORT: the engine reads on, or chooses a queue to serve (R267). -/
theorem descriptorRead_reads (hu : (s.chan c).eng.phase = .reading ∧ u = s ∨
      (s.chan c).eng.phase = .idle ∧ ∃ q, s.nextQueue c = some q ∧ u = s.beginRead c q) :
    s.descriptorRead c = u.readDescriptor c := by
  obtain ⟨hp, rfl⟩ | ⟨hp, q, hq, rfl⟩ := hu
  · simp only [State.descriptorRead, ha, hp]
  · simp only [State.descriptorRead, ha, hp, hq, State.serveNext]

theorem descriptorRead_rests (hp : (s.chan c).eng.phase = .idle ∧ s.nextQueue c = none ∨
      (s.chan c).eng.phase = .fetching ∨ (s.chan c).eng.phase = .running ∨ (s.chan c).eng.phase = .ending) :
    s.descriptorRead c = s := by
  obtain ⟨hp, hq⟩ | hp | hp | hp := hp
  · simp only [State.descriptorRead, ha, hp, hq, State.serveNext]
  all_goals simp only [State.descriptorRead, ha, hp]

end Descriptor

theorem eng_beginRead (s : State) (c : Fin 32) (q : Nat) : ((s.beginRead c q).chan c).eng.phase = .reading ∧
    ((s.beginRead c q).chan c).eng.queue = q ∧ ((s.beginRead c q).chan c).eng.index = (s.qset c q).head ∧
    ((s.beginRead c q).chan c).eng.proxy = (s.proxyNow c && decide (6 ≤ q)) := by
  rw [State.beginRead, State.chan_modEng_same]
  exact ⟨rfl, rfl, rfl, rfl⟩

/-! ### The descriptors of an ABORT -/

section Aborts
variable {s t : State} {c : Nat} {a : Abort} {x : Decoded}

theorem descriptorRead_aborts {rest : List Abort} (h : (s.chan c).eng.aborts = a :: rest) :
    s.descriptorRead c = s.abortNext c a := by
  simp only [State.descriptorRead, h]

theorem abortNext_gone (h : s.ringGone (s.areaOf c a.proxy) = true) : s.abortNext c a =
    (s.dropWant c (serviceAt (s.areaOf c a.proxy) (s.descOff c a.queue a.index)).loc).abortDone c a Desc.none := if_pos h

variable (h : s.ringGone (s.areaOf c a.proxy) = false)
include h

theorem abortNext_waits (hr : s.engineRead c (s.areaOf c a.proxy) (s.descOff c a.queue a.index) 0 = .wait t) :
    s.abortNext c a = t := by
  simp only [State.abortNext, h, hr, Bool.false_eq_true, if_false]

theorem abortNext_got (hr : s.engineRead c (s.areaOf c a.proxy) (s.descOff c a.queue a.index) 0 = .got t x) :
    s.abortNext c a = t.abortDone c a (descRead x) := by
  simp only [State.abortNext, h, hr, Bool.false_eq_true, if_false]

end Aborts

theorem records_abortDone (s : State) (c : Fin 32) (a : Abort) (d : Desc) : ((s.abortDone c a d).chan c).eng.records =
    ((s.passHead c a).chan c).eng.records ++ [abortRecord a d] := by
  rw [State.abortDone, State.chan_modEng_same]

/-! ### The fetch -/

section Fetch
variable {s t : State} {c : Nat}

/-- The sectors of the program that the engine has yet to read from the area of channel `ch`. -/
def State.fetchRest (s : State) (c ch : Nat) : State × Bool :=
  s.readSectors c ch (s.chan c).eng.desc.flow
    ((progSectors (s.chan c).eng.desc.progOff (s.chan c).eng.desc.progLen).drop (s.chan c).eng.got.length)

variable (hp : (s.chan c).eng.phase = .fetching)
include hp

/-- A program that the store holds is not read again (R276). -/
theorem programFetchDone_held (hv : (s.chan c).eng.storeValid = true)
    (hc : (s.chan c).eng.storeCh = s.areaOf c (s.chan c).eng.proxy)
    (ho : (s.chan c).eng.storeOff = (s.chan c).eng.desc.progOff)
    (hl : (s.chan c).eng.store.length = (s.chan c).eng.desc.progLen) : s.programFetchDone c = s.startProgram c := by
  simp only [State.programFetchDone, hp, hv, hc, ho, hl, ne_eq, not_true_eq_false, if_false, and_self, if_true]

variable (hv : (s.chan c).eng.storeValid = false)
include hv

theorem programFetchDone_gone (h : s.ringGone (s.areaOf c (s.chan c).eng.proxy) = true) :
    s.programFetchDone c = s.endProgram c 3 0x23 := by
  simp only [State.programFetchDone, hp, hv, h, ne_eq, not_true_eq_false, Bool.false_eq_true, false_and, if_false, if_true]

variable (h : s.ringGone (s.areaOf c (s.chan c).eng.proxy) = false)
include h

theorem programFetchDone_fetches : s.programFetchDone c =
    if (s.fetchRest c (s.areaOf c (s.chan c).eng.proxy)).2 then
      (s.fetchRest c (s.areaOf c (s.chan c).eng.proxy)).1.storeProgram c (s.areaOf c (s.chan c).eng.proxy)
    else (s.fetchRest c (s.areaOf c (s.chan c).eng.proxy)).1 :=
  (if_neg (by simp [hp])).trans ((if_neg (by simp [hv])).trans (if_neg (by simp [h])))

theorem programFetchDone_waits (hr : s.fetchRest c (s.areaOf c (s.chan c).eng.proxy) = (t, false)) :
    s.programFetchDone c = t := by
  rw [programFetchDone_fetches hp hv h, hr, if_neg nofun]

theorem programFetchDone_read (hr : s.fetchRest c (s.areaOf c (s.chan c).eng.proxy) = (t, true)) :
    s.programFetchDone c = t.storeProgram c (s.areaOf c (s.chan c).eng.proxy) := by
  rw [programFetchDone_fetches hp hv h, hr, if_pos rfl]

end Fetch

section Sectors
variable {s t : State} {k ch flow o : Nat} {r : List Nat} {x : Decoded}

theorem readSectors_waits (h : s.engineRead k ch o flow = .wait t) : s.readSectors k ch flow (o :: r) = (t, false) := by
  simp only [State.readSectors, h]

theorem readSectors_got (h : s.engineRead k ch o flow = .got t x) : s.readSectors k ch flow (o :: r) =
    (t.modEng k fun e => { e with got := e.got ++ [(x.data, x.poison)] }).readSectors k ch flow r := by
  simp only [State.readSectors, h]

end Sectors

/-! ### The start -/

/-- A vector whose first `n` entries were set one after another. -/
theorem getElem?_foldl_setIfInBounds {α : Type} {m : Nat} (f : Nat → α) (v : Vector α m) (n j : Nat) :
    ((List.range n).foldl (fun g k => g.setIfInBounds k (f k)) v)[j]? = if j < n ∧ j < m then some (f j) else v[j]? := by
  induction n with
  | zero => simp
  | succ n ih =>
    rw [List.range_succ, List.foldl_append, List.foldl_cons, List.foldl_nil, Vector.getElem?_setIfInBounds, ih]
    by_cases hj : n = j
    · subst hj
      by_cases hm : n < m <;> simp [hm]
    · have : j < n + 1 ↔ j < n := by omega
      simp [hj, this]

section Start
variable (s : State) (c : Fin 32)

/-- The machine state that a program starts from, and the budget's start (R259, R287). -/
theorem eng_startProgram : ((s.startProgram c).chan c).eng = { (s.chan c).eng with
      phase := .running, pc := 0, st := 0, p := 0, start := s.timeBase.toNat, waiting := none, progress := 0, ledger := none
      g := (List.range 5).foldl (fun g k => g.setIfInBounds k (BitVec.ofNat 64 ((s.chan c).eng.desc.args.getD k 0)))
        (Vector.replicate 16 0)
      h := Vector.replicate 8 none, pins := Vector.replicate 16 none } := by
  rw [State.startProgram, State.chan_traceEv, State.chan_modEng_same]

theorem g_startProgram (j : Nat) : (s.startProgram c).g c j =
    if j < 5 then BitVec.ofNat 64 ((s.chan c).eng.desc.args.getD j 0) else 0 := by
  rw [State.g, State.eng, eng_startProgram, getElem?_foldl_setIfInBounds, Vector.getElem?_replicate]
  by_cases h : j < 5
  · have : j < 16 := by omega
    simp [h, this]
  · by_cases h' : j < 16 <;> simp [h, h']

theorem hslot_startProgram (j : Nat) : (s.startProgram c).hslot c j = none := by
  rw [State.hslot, State.eng, eng_startProgram, Eng.entry, Vector.getElem?_replicate]
  split <;> rfl

end Start

/-! ### The completion record and the budget -/

section Record
variable {s t : State} {c : Nat} {r : Record} {rest : List Record} (h : (s.chan c).eng.records = r :: rest)
  (hx : r.proxy = false)
include h hx

theorem recordWritten_own : s.recordWritten c =
    s.recordTo c r rest c (4096 * s.fld (F.EXD_QCFG_CPL_BASE c r.queue) + 32 * r.index) := by
  simp only [State.recordWritten, h, hx, State.areaOf, Bool.false_eq_true, if_false]

/-- The record of a channel in service goes to its ring when its turn comes (R271). -/
theorem recordWritten_online {o : Turn} (hs : (s.chan c).st = .online)
    (ho : s.progAccess c (serviceAt c (4096 * s.fld (F.EXD_QCFG_CPL_BASE c r.queue) + 32 * r.index)).loc 2 r.flow s.now
      true true = o) :
    s.recordWritten c =
      State.recordIn c r rest c (4096 * s.fld (F.EXD_QCFG_CPL_BASE c r.queue) + 32 * r.index) o := by
  have hg : s.ringGone c = false := by rw [State.ringGone, hs]; rfl
  rw [recordWritten_own h hx, State.recordTo, if_neg (by simp [hg]), ho]

theorem recordWritten_lost (hs : (s.chan c).st = .offline ∨ (s.chan c).st = .retired) : s.recordWritten c =
    ((s.dropWant c (serviceAt c (4096 * s.fld (F.EXD_QCFG_CPL_BASE c r.queue) + 32 * r.index)).loc).popRecord
      c rest).noteRecord c r true := by
  have hg : s.ringGone c = true := by rcases hs with hs | hs <;> rw [State.ringGone, hs] <;> rfl
  rw [recordWritten_own h hx, State.recordTo, if_pos hg]

end Record

theorem budgetLapse_running {s : State} {c : Nat} (hp : (s.chan c).eng.phase = .running) : s.budgetLapse c =
    (s.advanceSince (s.chan c).eng.start (1000 * if (s.chan c).eng.desc.budget = 0 then
      s.fld (F.EXD_CFG_DEFAULT_BUDGET_US c) else (s.chan c).eng.desc.budget)).endProgram c 2 0 := by
  rw [State.budgetLapse, if_neg (by simp [hp])]

end Sys2Proof.Machine

namespace Sys2Proof
open Machine

/-- Settles O39: the descriptors of an ABORT first, then the steps of a program's life, each by what its read comes to. -/
theorem enginesRunTheirPrograms : Obligations.EnginesRunTheirPrograms := by
  unfold Obligations.EnginesRunTheirPrograms
  refine ⟨?_, ?_, ?_, ?_, ?_, ?_, ?_, ?_, ?_, ?_, ?_, ?_, ?_⟩
  · rintro c s u _ _ ha hu rfl rfl
    have hd := descriptorRead_reads ha hu
    refine ⟨fun hg => ?_, fun hg => ⟨fun t hr => ?_, ?_⟩⟩
    · exact finished_eq (hd.trans (readDescriptor_gone hg))
    · exact finished_eq (hd.trans (readDescriptor_waits hg hr))
    · rintro t x _ v _ hr rfl hv rfl
      have hc := hd.trans (readDescriptor_got hg hr)
      exact ⟨fun ho => finished_eq (hc.trans (checkDescriptor_settles hv ho)),
        fun code ho => finished_eq (hc.trans (checkDescriptor_settles hv ho))⟩
  · exact fun s c q => eng_beginRead s c q
  · exact fun c s ha hp => finished_eq (descriptorRead_rests ha hp)
  · rintro c a rest _ _ s ha rfl rfl
    have hd := descriptorRead_aborts ha
    exact ⟨fun hg => finished_eq (hd.trans (abortNext_gone hg)),
      fun t hg hr => finished_eq (hd.trans (abortNext_waits hg hr)),
      fun t x hg hr => finished_eq (hd.trans (abortNext_got hg hr))⟩
  · exact fun s c a d => ⟨records_abortDone s c a d, rfl, rfl, rfl, rfl, rfl⟩
  · exact fun c s hp hx hv hc ho hl => finished_eq (programFetchDone_held hp hv (by rw [hx]; exact hc) ho hl)
  · intro c s k hk
    rw [eng_startProgram]
    exact ⟨rfl, rfl, rfl, rfl, rfl, (g_startProgram s c k).trans (if_pos hk),
      fun j hj => (g_startProgram s c j).trans (if_neg (Nat.not_lt.mpr hj)), hslot_startProgram s c⟩
  · rintro c s _ _ hp hv rfl rfl
    refine ⟨fun hg => finished_eq (programFetchDone_gone hp hv hg),
      fun t hg hr => finished_eq (programFetchDone_waits hp hv hg hr), fun t hg hr => ⟨fun hb => ?_, fun hb => ?_⟩⟩
    · exact finished_eq ((programFetchDone_read hp hv hg hr).trans (if_pos hb))
    · exact finished_eq ((programFetchDone_read hp hv hg hr).trans (if_neg (by simp [hb])))
  · exact fun s k ch flow o r => ⟨fun t => readSectors_waits, fun t x => readSectors_got, rfl⟩
  · rintro c s r rest _ h hx rfl hs
    exact ⟨fun t ho => finished_eq (recordWritten_online h hx hs ho),
      fun t ho => finished_eq (recordWritten_online h hx hs ho)⟩
  · rintro c s r rest _ h hx hs rfl
    exact finished_eq (recordWritten_lost h hx hs)
  · rintro c s _ hp rfl
    exact finished_eq (budgetLapse_running hp)
  · exact fun c s w hp hw hx ho => finished_eq (waitOver_retries hp hw hx ho)

end Sys2Proof
end

