-- ==== Sys2Proof/Proofs/ScalarInstructions.lean ====
section
/-!
PROOFS. The scalar instructions of Exdun (R303): what each writes to gD, when it is ILLEGAL, and what it leaves alone.
-/
namespace Sys2Proof.Machine

/-! ### An instruction that writes one general register -/

/-- The command `i` issues an instruction with opcode `op` that writes the value `v` to gD and has no other effect; with
fields that are not `ok` it is ILLEGAL (R294, R303). -/
def WritesReg (c : Fin 32) (f : Fields) (op : BitVec 8) (i : Instr) (ok : Bool) (v : State → Word64) : Prop :=
  ∀ s, exec i s = finished s (s.issue c op f fun t => .when (!ok) 0x10 (.done (t.setG c f.d (v t))))

section Writes
variable {c : Fin 32} {f : Fields} {op : BitVec 8} {i : Instr} {ok : Bool} {v : State → Word64} {s : State}
  (w : WritesReg c f op i ok v)
include w

theorem WritesReg.passes (h : s.canIssue c op f = true) (ho : ok = true) :
    exec i s = .next (commit s (((s.issued c).setG c f.d (v (s.issued c))).passed c)) := by
  subst ho
  exact (w s).trans (finished_eq (s.issue_setG c op f _ f.d _ h rfl))

theorem WritesReg.illegal (h : s.issuable c op f = true) (ho : ok = false) :
    exec i s = .next (commit s ((s.issued c).endProgram c 1 0x10)) := by
  subst ho
  exact (w s).trans (finished_exc h rfl)

end Writes

/-! ### The values -/

section Values
variable {c : Fin 32} {f : Fields}

/-- A shift of 64 or more is refused with the fields that are not used (R303). -/
theorem writesReg_shift {op : BitVec 8} {i : Instr} {g : Word64 → Nat → Word64}
    (h : ∀ s, exec i s = finished s (s.issue c op f fun t => t.aShift c f g)) :
    WritesReg c f op i (f.only { d := true, a := true, i := true } && decide (f.u < 64)) fun t => g (t.g c f.a) f.u := by
  have hb : (!f.only { d := true, a := true, i := true } || decide (64 ≤ f.u)) =
      !(f.only { d := true, a := true, i := true } && decide (f.u < 64)) := by
    simp only [Bool.not_and, ← decide_not, Nat.not_lt]
  intro s
  simp only [h, State.aShift, hb]

/-- The first set bit is the number of trailing zero bits. -/
theorem ctz64_eq {x : Word64} {k : Nat} (hz : ∀ j, j < k → x.getLsbD j = false) (hk : k = 64 ∨ x.getLsbD k = true) :
    ctz64 x = BitVec.ofNat 64 k := by
  rcases hk with rfl | hk
  · have hn : (List.range 64).find? (fun j => x.getLsbD j) = none :=
      List.find?_eq_none.mpr fun j hj => by simp [hz j (List.mem_range.mp hj)]
    rw [ctz64, hn, Option.getD_none]
  · have hs : (List.range 64).find? (fun j => x.getLsbD j) = some k :=
      List.find?_range_eq_some.mpr ⟨hk, List.mem_range.mpr (BitVec.lt_of_getLsbD hk), fun j hj => by simp [hz j hj]⟩
    rw [ctz64, hs, Option.getD_some]

theorem popc64_eq (x : Word64) : popc64 x = BitVec.ofNat 64 ((List.range 64).countP fun k => x.getLsbD k) := by
  have hb : bitOf x.toNat = fun k => x.getLsbD k := funext fun _ => Nat.testBit_eq_decide_div_mod_eq.symm
  rw [popc64, popcount, below, List.countP_eq_length_filter, hb]

/-! What each writes (table of R303). -/

theorem writesReg_li : WritesReg c f 0x10 (.li c f) (f.only { d := true, i := true }) fun _ => f.simm :=
  fun _ => rfl
theorem writesReg_lih : WritesReg c f 0x11 (.lih c f) (f.only { d := true, i := true })
    fun t => f.imm ++ (t.g c f.d).setWidth 32 := fun _ => rfl
theorem writesReg_mov : WritesReg c f 0x12 (.mov c f) (f.only { d := true, a := true }) fun t => t.g c f.a :=
  fun _ => rfl
theorem writesReg_add : WritesReg c f 0x13 (.add c f) (f.only { d := true, a := true, b := true })
    fun t => t.g c f.a + t.g c f.b := fun _ => rfl
theorem writesReg_sub : WritesReg c f 0x14 (.sub c f) (f.only { d := true, a := true, b := true })
    fun t => t.g c f.a - t.g c f.b := fun _ => rfl
theorem writesReg_addi : WritesReg c f 0x15 (.addi c f) (f.only { d := true, a := true, i := true })
    fun t => t.g c f.a + f.simm := fun _ => rfl
theorem writesReg_and : WritesReg c f 0x16 (.and c f) (f.only { d := true, a := true, b := true })
    fun t => t.g c f.a &&& t.g c f.b := fun _ => rfl
theorem writesReg_or : WritesReg c f 0x17 (.or c f) (f.only { d := true, a := true, b := true })
    fun t => t.g c f.a ||| t.g c f.b := fun _ => rfl
theorem writesReg_xor : WritesReg c f 0x18 (.xor c f) (f.only { d := true, a := true, b := true })
    fun t => t.g c f.a ^^^ t.g c f.b := fun _ => rfl
theorem writesReg_shl : WritesReg c f 0x19 (.shl c f) (f.only { d := true, a := true, i := true } && decide (f.u < 64))
    fun t => t.g c f.a <<< f.u := writesReg_shift fun _ => rfl
theorem writesReg_shr : WritesReg c f 0x1A (.shr c f) (f.only { d := true, a := true, i := true } && decide (f.u < 64))
    fun t => t.g c f.a >>> f.u := writesReg_shift fun _ => rfl
theorem writesReg_ctz : WritesReg c f 0x1B (.ctz c f) (f.only { d := true, a := true }) fun t => ctz64 (t.g c f.a) :=
  fun _ => rfl
theorem writesReg_popc : WritesReg c f 0x1C (.popc c f) (f.only { d := true, a := true }) fun t => popc64 (t.g c f.a) :=
  fun _ => rfl
theorem writesReg_mul : WritesReg c f 0x1D (.mul c f) (f.only { d := true, a := true, b := true })
    fun t => t.g c f.a * t.g c f.b := fun _ => rfl

/-- The scalar instructions, their opcodes and what their fields must be. -/
def scalarTable (c : Fin 32) (f : Fields) : List (BitVec 8 × Instr × Bool) :=
  [(0x10#8, .li c f, f.only { d := true, i := true }), (0x11#8, .lih c f, f.only { d := true, i := true }),
    (0x12#8, .mov c f, f.only { d := true, a := true }),
    (0x13#8, .add c f, f.only { d := true, a := true, b := true }),
    (0x14#8, .sub c f, f.only { d := true, a := true, b := true }),
    (0x15#8, .addi c f, f.only { d := true, a := true, i := true }),
    (0x16#8, .and c f, f.only { d := true, a := true, b := true }),
    (0x17#8, .or c f, f.only { d := true, a := true, b := true }),
    (0x18#8, .xor c f, f.only { d := true, a := true, b := true }),
    (0x19#8, .shl c f, f.only { d := true, a := true, i := true } && decide (f.u < 64)),
    (0x1A#8, .shr c f, f.only { d := true, a := true, i := true } && decide (f.u < 64)),
    (0x1B#8, .ctz c f, f.only { d := true, a := true }), (0x1C#8, .popc c f, f.only { d := true, a := true }),
    (0x1D#8, .mul c f, f.only { d := true, a := true, b := true })]

theorem writesReg_of_mem {op : BitVec 8} {i : Instr} {ok : Bool} (h : (op, i, ok) ∈ scalarTable c f) :
    ∃ v, WritesReg c f op i ok v := by
  suffices ∀ x ∈ scalarTable c f, ∃ v, WritesReg c f x.1 x.2.1 x.2.2 v from this _ h
  simp only [scalarTable, List.forall_mem_cons]
  exact ⟨⟨_, writesReg_li⟩, ⟨_, writesReg_lih⟩, ⟨_, writesReg_mov⟩, ⟨_, writesReg_add⟩, ⟨_, writesReg_sub⟩,
    ⟨_, writesReg_addi⟩, ⟨_, writesReg_and⟩, ⟨_, writesReg_or⟩, ⟨_, writesReg_xor⟩, ⟨_, writesReg_shl⟩,
    ⟨_, writesReg_shr⟩, ⟨_, writesReg_ctz⟩, ⟨_, writesReg_popc⟩, ⟨_, writesReg_mul⟩,
    fun _ h => absurd h List.not_mem_nil⟩

end Values

/-! ### What a scalar instruction leaves alone -/

section Frame
variable {c : Fin 32} {s : State} {d : Nat} {v : Word64}

/-- The engine of a program that passes a scalar instruction (R301, R303). -/
theorem passed_setG_eq : ((s.issued c).setG c d v).passed c = (s.issued c).modEng c fun e =>
    { e with g := e.g.setIfInBounds d v, pc := e.pc + 1, waiting := none, progress := 0, walk := none, wants := [],
             ledger := none, clearing := none } := by
  rw [State.passed, State.calm, State.setG, modEng_modEng, modEng_modEng]

theorem g_passed_setG : ((((s.issued c).setG c d v).passed c).chan c).eng.g = (s.chan c).eng.g.setIfInBounds d v := by
  rw [passed_setG_eq, State.chan_modEng_same, chan_issued]

theorem reg_passed_setG (a : Nat) : (((s.issued c).setG c d v).passed c).reg a = s.reg a := by
  rw [passed_setG_eq, State.reg_modEng, State.issued, State.reg_countCh]

theorem bringUp_passed_setG : (((s.issued c).setG c d v).passed c).bringUp = s.bringUp := by
  rw [passed_setG_eq, State.bringUp_modEng, State.issued, State.bringUp_countCh]

theorem core_passed_setG : (((s.issued c).setG c d v).passed c).core =
    ((s.setChan c { s.chan c with eng := { s.eng c with
      g := (s.eng c).g.setIfInBounds d v, pc := (s.eng c).pc + 1, waiting := none, progress := 0, walk := none,
      wants := [], ledger := none, clearing := none } })).core := by
  rw [passed_setG_eq, modEng_core]
  rfl

end Frame

end Sys2Proof.Machine

namespace Sys2Proof
open Machine

/-- Settles O40: each instruction by the value it writes; one whose fields are not as its entry says is ILLEGAL. -/
theorem scalarInstructionsWriteTheirRegister : Obligations.ScalarInstructionsWriteTheirRegister := by
  unfold Obligations.ScalarInstructionsWriteTheirRegister
  refine ⟨?_, ?_, ?_, ?_, ?_, ?_, ?_, ?_, ?_, ?_, ?_, ?_, ?_, ?_, ?_, ?_⟩
  · exact fun c f s h ho => writesReg_li.passes h ho
  · exact fun c f s h ho => writesReg_lih.passes h ho
  · exact fun c f s h ho => writesReg_mov.passes h ho
  · exact fun c f s h ho => writesReg_add.passes h ho
  · exact fun c f s h ho => writesReg_sub.passes h ho
  · exact fun c f s h ho => writesReg_addi.passes h ho
  · exact fun c f s h ho => writesReg_and.passes h ho
  · exact fun c f s h ho => writesReg_or.passes h ho
  · exact fun c f s h ho => writesReg_xor.passes h ho
  · exact fun c f s h ho hu => writesReg_shl.passes h (by simp [ho, hu])
  · exact fun c f s h ho hu => writesReg_shr.passes h (by simp [ho, hu])
  · intro c f s k h ho hz hk
    rw [← ctz64_eq hz hk]
    exact writesReg_ctz.passes h ho
  · intro c f s h ho
    rw [← popc64_eq]
    exact writesReg_popc.passes h ho
  · exact fun c f s h ho => writesReg_mul.passes h ho
  · intro c f op i ok s hm hok h
    obtain ⟨v, w⟩ := writesReg_of_mem hm
    exact w.illegal h hok
  · exact fun c op f s h hk => (congrArg (finished s) (if_neg (by simp [hk]))).trans (finished_exc h rfl)

/-- Settles O42: a scalar instruction writes gD and passes on, and what follows every command writes no other register. -/
theorem scalarInstructionsLeaveTheRest : Obligations.ScalarInstructionsLeaveTheRest := by
  unfold Obligations.ScalarInstructionsLeaveTheRest
  intro c f op i ok s t hm hok h hb ht
  obtain ⟨v, w⟩ := writesReg_of_mem hm
  obtain rfl := Host.Outcome.next.inj ((w.passes h hok).symm.trans ht)
  generalize v (s.issued c) = x
  have hb' : (((s.issued c).setG c f.d x).passed c).bringUp = none := bringUp_passed_setG.trans hb
  have hg : ((commit s (((s.issued c).setG c f.d x).passed c)).eng c).g = (s.chan c).eng.g.setIfInBounds f.d x :=
    (congrArg (·.eng.g) (commit_chan s _ hb' c)).trans g_passed_setG
  refine ⟨?_, fun k hk => ?_, fun a ha => ?_⟩
  · rw [core_commit s _ hb', core_passed_setG, hg]
  · rw [State.g, hg, Vector.getElem?_setIfInBounds_ne hk.symm, State.g]
  · rw [commit_reg s _ hb' ha, reg_passed_setG]

end Sys2Proof
end

