-- ==== Sys2Proof/Proofs/MaintenanceInstructions.lean ====
section
/-!
PROOFS. What an attempt of a maintenance, vertical-path, statistics or test instruction comes to, and the steps of the walk of
rep.col (R322 to R330).
-/
namespace Sys2Proof.Machine

/-! ### Issuing is only counted -/

section Issued
variable {s : State} {c : Nat}

@[simp] theorem mode_issued : (s.issued c).mode = s.mode := rfl
@[simp] theorem now_issued : (s.issued c).now = s.now := rfl
@[simp] theorem mayT_issued (d : Nat) : (s.issued c).mayT d = s.mayT d := rfl
@[simp] theorem findSlot_issued (loc : Nat) : (s.issued c).findSlot loc = s.findSlot loc := rfl
@[simp] theorem moving_issued (loc : Nat) : (s.issued c).moving loc = s.moving loc := rfl
@[simp] theorem rowWaits_issued (loc : Nat) (b : Bool) : (s.issued c).rowWaits loc b = s.rowWaits loc b := rfl
@[simp] theorem rowPinned_issued (loc : Nat) : (s.issued c).rowPinned loc = s.rowPinned loc := rfl
@[simp] theorem testPinned_issued (d : Nat) (v : Word64) : (s.issued c).testPinned d v = s.testPinned d v := rfl
@[simp] theorem ledgerFull_issued : (s.issued c).ledgerFull = s.ledgerFull := rfl
@[simp] theorem ledgerTakes_issued (k x : Nat) : (s.issued c).ledgerTakes k x = s.ledgerTakes k x := rfl
@[simp] theorem freeRow_issued (loc : Nat) : (s.issued c).freeRow loc = s.freeRow loc := rfl
@[simp] theorem freeCol_issued (g : Nat) : (s.issued c).freeCol g = s.freeCol g := rfl
@[simp] theorem physRow_issued (loc : Nat) : (s.issued c).physRow loc = s.physRow loc := rfl
@[simp] theorem bankOpen_issued (loc : Nat) : (s.issued c).bankOpen loc = s.bankOpen loc := rfl
@[simp] theorem replaced_issued (d g : Nat) : (s.issued c).replaced d g = s.replaced d g := rfl
@[simp] theorem trackerCount_issued (loc : Nat) : (s.issued c).trackerCount loc = s.trackerCount loc := rfl

end Issued

/-! ### The checks of a maintenance instruction -/

section Checks
variable {s : State} {c reach : Nat} {bad service : Bool} {v : Word64} {k : Nat → Att} (hb : bad = false)
include hb

theorem maintChecks_class (hq : (s.chan c).eng.queue < 6) : (s.issued c).maintChecks c bad v service k = .exc 0x11 := by
  have hm : s.mayM c = false := decide_eq_false (Nat.not_le.mpr hq)
  simp [State.maintChecks, hb, hm]

theorem maintChecks_passed (hm : s.mayM c = true)
    (hl : s.locFault c (readReach (s.chan c).eng.queue) v false = none) (ha : locClass v.toNat ≠ 2 ∨ service = true)
    (hc : s.chanOut c = false) : (s.issued c).maintChecks c bad v service k = k v.toNat := by
  have hs : (locClass v.toNat == 2 && !service) = false := by rcases ha with ha | ha <;> simp [ha]
  simp [State.maintChecks, hb, hm, hl, hs, hc]

end Checks

/-! ### Retirement and soft repair -/

section Repair
variable {s : State} {c : Nat} {f : Fields}

section Retire
variable (ho : f.only { d := true, a := true } = true) (hp : (s.chan c).eng.progress = 0)
include ho hp

theorem aRepRetire_class (hq : (s.chan c).eng.queue < 6) : (s.issued c).aRepRetire c f = .exc 0x11 :=
  (if_neg (by simp [hp])).trans (maintChecks_class (by simp [ho]) hq)

variable (hm : s.mayM c = true) (hl : s.locFault c (readReach (s.chan c).eng.queue) (s.g c f.a) false = none)
  (ha : locClass (s.g c f.a).toNat ≠ 2) (hc : s.chanOut c = false) (hs : s.mode ≠ .safe)
include hm hl ha hc hs

theorem aRepRetire_asks (hf : s.ledgerFull = false) (hr : s.rowPinned (s.g c f.a).toNat = false)
    (hv : s.moving (s.g c f.a).toNat = false) : (s.issued c).aRepRetire c f =
      .wait (((s.issued c).ledgerQueue ⟨2, 1, (s.g c f.a).toNat, 0, .repRetire c (s.g c f.a).toNat⟩).setProgress c 1) := by
  refine (if_neg (by simp [hp])).trans ((maintChecks_passed (by simp [ho]) hm hl (.inl ha) hc).trans ?_)
  simp [hs, hf, hr, hv]

theorem aRepRetire_full (hf : s.ledgerFull = true) : (s.issued c).aRepRetire c f =
    .done ((s.issued c).setG c f.d (resultWord .ignored 2 0)) := by
  refine (if_neg (by simp [hp])).trans ((maintChecks_passed (by simp [ho]) hm hl (.inl ha) hc).trans ?_)
  simp [hs, hf, State.result]

end Retire

variable (hp : (s.chan c).eng.progress = 0) (hm : s.mayM c = true)
  (hl : s.locFault c (readReach (s.chan c).eng.queue) (s.g c f.a) false = none) (hc : s.chanOut c = false)
  (hs : s.mode ≠ .safe) {k : Nat}
include hp hm hl hc hs

/-- rep.row moves the row in cycles of the program's own, and then asks for the ledger write (R324). -/
theorem aRepRow_moves {t : State} (ho : f.only { d := true, a := true } = true)
    (ht : s.ledgerTakes 1 (s.g c f.a).toNat = true) (hk : s.freeRow (s.g c f.a).toNat = some k)
    (hv : s.moving (s.g c f.a).toNat = false) (hw : s.rowWaits (s.g c f.a).toNat true = false)
    (hg : (s.issued c).ownCycle c (s.g c f.a).toNat (if (s.findSlot (s.g c f.a).toNat).isSome then 1 else 2) 4 = .go t) :
    (s.issued c).aRepRow c f = .wait ((((t.seenRow c (s.g c f.a).toNat).moveToSpare (s.g c f.a).toNat k
      (t.progFor c)).ledgerQueue ⟨1, 1, (s.g c f.a).toNat, k, .repRow c k⟩).setProgress c (1 + k)) := by
  refine (if_neg (by simp [hp])).trans ((maintChecks_passed (by simp [ho]) hm hl (.inr rfl) hc).trans ?_)
  simp only [mode_issued, ledgerTakes_issued, freeRow_issued, moving_issued, rowWaits_issued, hs, ht, hk, hv, hw,
    Bool.not_true, Bool.or_self, Bool.false_eq_true, if_false]
  exact congrArg (Att.cycle · _) hg

/-- rep.col starts its walk (R325). -/
theorem aRepCol_walks (ho : f.only { d := true, a := true, i := true } = true) (hu : f.u < 32)
    (hn : (s.chan c).eng.walk = none)
    (ht : s.ledgerTakes 3 (targetOf (locCh (s.g c f.a).toNat) (locLayer (s.g c f.a).toNat) (locBank (s.g c f.a).toNat) f.u) =
      true) (hk : s.freeCol (locGbi (s.g c f.a).toNat) = some k) : (s.issued c).aRepCol c f =
    .wait ((s.issued c).modEng c fun e => { e with walk := some ⟨locGbi (s.g c f.a).toNat, f.u, k, 0, s.now⟩ }) := by
  refine (if_neg (by simp [hp])).trans ((if_neg (by simp [hn])).trans
    ((maintChecks_passed (by simp [ho, hu]) hm hl (.inr rfl) hc).trans ?_))
  simp [hs, ht, hk]

end Repair

/-! ### The walk of rep.col -/

section Walk
variable {s t x : State} {c : Nat} {w : Walk} {v : Word64} (hw : (s.chan c).eng.walk = some w)
  (hv : (s.chan c).eng.store[(s.chan c).eng.pc]? = some v) (hb : (s.chan c).scrub.buffer = none)
include hw hv hb

theorem repColStep_waits (hg : (s.advanceTo (w.lastStep + 16 * s.period)).ownCycle c
      (physRowAt (s.g c (fieldsOf v).a).toNat w.rows) 2 4 = .wait x) : s.repColStep c = s := by
  simp only [State.repColStep, State.eng, hw, hv, hb, hg, Option.isSome_none, Bool.false_eq_true, if_false]

variable (hg : (s.advanceTo (w.lastStep + 16 * s.period)).ownCycle c
  (physRowAt (s.g c (fieldsOf v).a).toNat w.rows) 2 4 = .go t)
include hg

theorem repColStep_goesOn (hr : w.rows + 1 < 16576) :
    s.repColStep c = t.walkRow c (physRowAt (s.g c (fieldsOf v).a).toNat w.rows) w := by
  simp only [State.repColStep, State.eng, hw, hv, hb, hg, hr, Option.isSome_none, Bool.false_eq_true, if_false, if_true]

/-- After the last row the column is switched (R325). -/
theorem repColStep_ends (hr : 16576 ≤ w.rows + 1) : s.repColStep c =
    (t.walkRow c (physRowAt (s.g c (fieldsOf v).a).toNat w.rows) w).walkEnd c (s.g c (fieldsOf v).a).toNat w := by
  simp only [State.repColStep, State.eng, hw, hv, hb, hg, Nat.not_lt.mpr hr, Option.isSome_none, Bool.false_eq_true, if_false]

end Walk

/-! ### Refresh and extents -/

section Rows
variable {s t : State} {c : Nat} {f : Fields} (ho : f.only { d := true, a := true, m := true } = true) (hf : f.m < 2)
  (hm : s.mayM c = true) (hl : s.locFault c (readReach (s.chan c).eng.queue) (s.g c f.a) false = none)
  (hc : s.chanOut c = false)
include ho hf hm hl hc

theorem aRefRow_waits (hb : s.bankOpen (s.g c f.a).toNat = false) : (s.issued c).aRefRow c f = .wait (s.issued c) := by
  refine (maintChecks_passed (by simp [ho, hf]) hm hl (.inr rfl) hc).trans ?_
  simp [hb]

theorem aRefRow_activates (hb : s.bankOpen (s.g c f.a).toNat = true) (h0 : f.m = 0) : (s.issued c).aRefRow c f =
    .done (((s.issued c).charge c (locLayer (s.g c f.a).toNat) 4).setG c f.d (resultWord .ok 0 1)) := by
  refine (maintChecks_passed (by simp [ho, hf]) hm hl (.inr rfl) hc).trans ?_
  simp [hb, h0, State.result]

theorem aRefRow_neighbours (hb : s.bankOpen (s.g c f.a).toNat = true) (h1 : f.m = 1) : (s.issued c).aRefRow c f =
    .done (((s.issued c).targetedRefresh c (locLayer (s.g c f.a).toNat) (physIndex (s.physRow (s.g c f.a).toNat))
      false).setG c f.d (resultWord .ok 0 (neighbours (physIndex (s.physRow (s.g c f.a).toNat))).length)) := by
  refine (maintChecks_passed (by simp [ho, hf]) hm hl (.inr rfl) hc).trans ?_
  simp [hb, h1, State.result]

variable (ha : locClass (s.g c f.a).toNat ≠ 2) (ht : t = (s.issued c).useMap (s.g c f.a).toNat)
  (hr : (t.chan c).eng.phase = .running)
include ha ht hr

/-- An ext.init that passes its checks clears its extent, or has it zero-filled until it is written (R326). -/
theorem aExtInit_passed : (s.issued c).aExtInit c f =
    if f.m = 1 then t.extClear c (locExtent (s.g c f.a).toNat) f
    else if t.written (s.g c f.a).toNat then .done (t.setG c f.d (resultWord .ok 0 (t.chan c).eng.progress))
    else .wait ((t.startFill c (locExtent (s.g c f.a).toNat)).setProgress c 1) := by
  subst ht
  exact (maintChecks_passed (by simp [ho, hf]) hm hl (.inl ha) hc).trans (if_neg (by simp [hr]))

theorem aExtInit_clears (h1 : f.m = 1) : (s.issued c).aExtInit c f = t.extClear c (locExtent (s.g c f.a).toNat) f :=
  (aExtInit_passed ho hf hm hl hc ha ht hr).trans (if_pos h1)

theorem aExtInit_fills (h0 : f.m = 0) (hx : t.written (s.g c f.a).toNat = false) : (s.issued c).aExtInit c f =
    .wait ((t.startFill c (locExtent (s.g c f.a).toNat)).setProgress c 1) :=
  (aExtInit_passed ho hf hm hl hc ha ht hr).trans ((if_neg (by simp [h0])).trans (if_neg (by simp [hx])))

theorem aExtInit_written (h0 : f.m = 0) (hx : t.written (s.g c f.a).toNat = true) : (s.issued c).aExtInit c f =
    .done (t.setG c f.d (resultWord .ok 0 (t.chan c).eng.progress)) :=
  (aExtInit_passed ho hf hm hl hc ha ht hr).trans ((if_neg (by simp [h0])).trans (if_pos hx))

end Rows

/-! ### Vertical-path steps -/

section Vertical
variable {s : State} {c : Nat} {f : Fields} (hm : s.mayM c = true)
include hm

/-- ILLEGAL and CLASS pass (R295). -/
theorem stepChecks_passed {bad : Bool} {k : Att} (hb : bad = false) :
    Att.when bad 0x10 (Att.when (!(s.issued c).mayM c) 0x11 k) = k := by
  simp only [hb, mayM_issued, hm, Bool.not_true, Att.when_false]

section Spare
variable (ho : f.only { d := true, m := true, i := true } = true) (hu : f.u < 8960)
include ho hu

theorem aVpSpare_replaces (h0 : f.m = 0) (hr : s.replaced c (f.u / 64) = none) : (s.issued c).aVpSpare c f =
    .done (((s.issued c).spareForCond c f.u).setG c f.d (resultWord .ok 0 (f.u / 64))) :=
  (stepChecks_passed hm (by simp [ho, hu, h0])).trans ((if_pos h0).trans (if_neg (by simp [hr])))

theorem aVpSpare_releases (h1 : f.m = 1) (hr : s.replaced c (f.u / 64) = some f.u) : (s.issued c).aVpSpare c f =
    .done ((((s.issued c).setSpare c (f.u / 64) none).leaveSpare (condKey c (f.u / 64))).setG c f.d
      (resultWord .ok 0 (f.u / 64))) :=
  (stepChecks_passed hm (by simp [ho, hu, h1])).trans ((if_neg (by simp [h1])).trans (if_neg (by simp [hr])))

end Spare

theorem aVpChk_reports {seen : Word64} (ho : f.only { d := true, i := true } = true) (hg : f.u % 256 < 140)
    (hu : f.u < 1024) : (s.issued c).aVpChk c f seen = .done ((s.issued c).setG c f.d seen) :=
  stepChecks_passed hm (by simp [ho, hg, hu])

theorem aVpPt_sets (ho : f.only { d := true, a := true, m := true, i := true } = true) (hf : f.m < 2) (hu : f.u < 8960) :
    (s.issued c).aVpPt c f = .done (((s.issued c).modChan c fun x => { x with vpt := { x.vpt with
      codes := x.vpt.codes.set (fun _ => none) (condPlace f.u f.m) (some ((s.g c f.a).toNat % 64)) } }).setG c f.d
      (resultWord .ok 0 (s.codeAt c (condPlace f.u f.m)))) :=
  stepChecks_passed hm (by simp [ho, hf, hu])

end Vertical

/-! ### Statistics -/

section Statistics
variable {s : State} {c : Nat} {f : Fields} (ho : f.only { d := true, a := true } = true)
  (hl : s.locFault c (readReach (s.chan c).eng.queue) (s.g c f.a) false = none)
include ho hl

theorem aStatRes_absent (hn : s.findSlot (s.g c f.a).toNat = none) :
    (s.issued c).aStatRes c f = .done ((s.issued c).setG c f.d 0) := by
  simp [State.aStatRes, ho, hl, hn]

theorem aStatRes_resident {i : Nat} (hi : s.findSlot (s.g c f.a).toNat = some i) :
    (s.issued c).aStatRes c f = .done ((s.issued c).setG c f.d (BitVec.ofNat 64 (1 + (s.slot c i).state.code * 2 +
      b2n ((s.chan c).pinned i) * 16 + b2n ((s.chan c).held.contains i) * 32 + i * 256))) := by
  simp only [State.aStatRes, ho, hl, hi, g_issued, locFault_issued, findSlot_issued, slot_issued, chan_issued, eng_issued,
    Bool.not_true, Att.when_false, Att.loc_none]

theorem aStatAct_counts (hm : s.mayM c = true) : (s.issued c).aStatAct c f =
    .done ((s.issued c).setG c f.d (BitVec.ofNat 64 (s.trackerCount (s.g c f.a).toNat % 2 ^ 16))) := by
  simp only [State.aStatAct, ho, hl, hm, g_issued, locFault_issued, mayM_issued, eng_issued, trackerCount_issued,
    Bool.not_true, Att.when_false, Att.loc_none]

end Statistics

/-! ### Test patterns -/

section Test
variable {s t : State} {c reach : Nat} {f : Fields} {x : Uses} {k : State → Nat → Att} (ho : f.only x = true)
  (hf : f.m < 4 ∧ f.src2 = 0 ∨ f.m = 4) (hp : s.testPinned c (s.g c f.a) = false)
include ho hf hp

theorem testFields_valid : (!f.only x || 4 < f.m || (f.m != 4 && f.src2 != 0) || s.testPinned c (s.g c f.a)) = false := by
  obtain ⟨hm, hs⟩ | hm := hf
  · simp [ho, hp, hs, Nat.lt_asymm hm]
  · simp [ho, hp, hm]

theorem testRow_class (hx : (s.chan c).eng.desc.test = false) : (s.issued c).testRow c f x reach k = .exc 0x11 := by
  have ht : s.mayT c = false := hx
  simp only [State.testRow, g_issued, testPinned_issued, testFields_valid ho hf hp, mayT_issued, ht, Bool.not_false,
    Att.when_false, Att.when_true]

theorem testRow_cycles (hx : s.mayT c = true) (hl : s.locFault c reach (s.g c f.a) true = none)
    (hc : s.chanOut c = false) (hs : s.findSlot (s.g c f.a).toNat = none)
    (hw : s.rowWaits (s.g c f.a).toNat true = false) (hg : (s.issued c).ownCycle c (s.g c f.a).toNat 1 4 = .go t)
    (hn : t.findSlot (s.g c f.a).toNat = none) :
    (s.issued c).testRow c f x reach k = k (t.activate (s.g c f.a).toNat 4) (s.g c f.a).toNat := by
  simp only [State.testRow, g_issued, testPinned_issued, testFields_valid ho hf hp, mayT_issued, hx, locFault_issued, hl,
    chanOut_issued, hc, findSlot_issued, hs, rowWaits_issued, hw, hg, hn, Bool.not_true, Bool.or_self, Bool.false_eq_true,
    if_false, Att.when_false, Att.loc_none, Att.cycle_go]

end Test

end Sys2Proof.Machine

namespace Sys2Proof
open Machine

/-- Settles O49: the attempt of each instruction by its checks and what it finds; a step of the walk by its cycle. -/
theorem maintenanceStatisticsAndTestInstructions : Obligations.MaintenanceStatisticsAndTestInstructions := by
  unfold Obligations.MaintenanceStatisticsAndTestInstructions
  refine ⟨?_, ?_, ?_, ?_, ?_, ?_, ?_, ?_, ?_, ?_, ?_, ?_, ?_, ?_, ?_, ?_, ?_⟩
  · rintro c f s _ h ho hp hm rfl hl ha hc hs hf hr hv
    exact finished_attempt h (aRepRetire_asks ho hp hm hl ha hc hs hf hr hv)
  · exact fun c f s h ho hp hm hl ha hc hs hf =>
      finished_eq (s.issue_setG c 0x70 f _ f.d _ h (aRepRetire_full ho hp hm hl ha hc hs hf))
  · rintro c f s _ k t h ho hp hm rfl hl hc hs ht hk hv hw hg
    exact finished_attempt h (aRepRow_moves hp hm hl hc hs ho ht hk hv hw hg)
  · rintro c f s _ k h ho hu hp hn hm rfl hl hc hs ht hk
    exact finished_attempt h (aRepCol_walks hp hm hl hc hs ho hu hn ht hk)
  · rintro c s w v _ _ x hw hv hb rfl rfl hg
    exact finished_eq (repColStep_waits hw hv hb hg)
  · rintro c s w v _ _ _ t d y z hw hv hb rfl rfl rfl hg hd hy hz
    have hr : z = t.walkRow c (physRowAt (s.g c (fieldsOf v).a).toNat w.rows) w := by
      rw [hz, hy, hd]
      rfl
    rw [hr]
    exact ⟨fun hn => finished_eq (repColStep_goesOn hw hv hb hg hn),
      fun hn => finished_eq (repColStep_ends hw hv hb hg hn)⟩
  · rintro c f s _ h ho hf hm rfl hl hc
    exact ⟨fun hb => finished_attempt h (aRefRow_waits ho hf hm hl hc hb),
      fun hb h0 => finished_attempt h (aRefRow_activates ho hf hm hl hc hb h0),
      fun hb h1 => finished_attempt h (aRefRow_neighbours ho hf hm hl hc hb h1)⟩
  · rintro c f s _ t h ho hf hm rfl hl ha hc ht hr
    exact ⟨fun h1 => finished_attempt h (aExtInit_clears ho hf hm hl hc ha ht hr h1),
      fun h0 hx => finished_attempt h (aExtInit_fills ho hf hm hl hc ha ht hr h0 hx),
      fun h0 hx => finished_attempt h (aExtInit_written ho hf hm hl hc ha ht hr h0 hx)⟩
  · exact fun c f s h ho hu hm => ⟨fun h0 hr => finished_attempt h (aVpSpare_replaces hm ho hu h0 hr),
      fun h1 hr => finished_attempt h (aVpSpare_releases hm ho hu h1 hr)⟩
  · exact fun c f seen s h ho hg hu hm => finished_eq (s.issue_setG c 0x79 f _ f.d _ h (aVpChk_reports hm ho hg hu))
  · exact fun c f s h ho hf hu hm => finished_attempt h (aVpPt_sets hm ho hf hu)
  · exact fun c f s h ho hl =>
      ⟨fun hn => finished_eq (s.issue_setG c 0x90 f _ f.d _ h (aStatRes_absent ho hl hn)),
        fun i hi => finished_eq (s.issue_setG c 0x90 f _ f.d _ h (aStatRes_resident ho hl hi))⟩
  · exact fun c f s h ho hm hl => finished_eq (s.issue_setG c 0x91 f _ f.d _ h (aStatAct_counts ho hl hm))
  · rintro c f s _ t h ho hf hp hx rfl hl hc hs hw hg hn
    exact finished_attempt h (congrArg (Att.andWrites · _) (testRow_cycles ho hf hp hx hl hc hs hw hg hn))
  · rintro c f s _ u _ h ho hf hp hx rfl hl hc hs hw hg hn rfl
    exact finished_attempt h (testRow_cycles ho hf hp hx hl hc hs hw hg hn)
  · exact fun c f s h ho hp hq => finished_exc h (aRepRetire_class ho hp hq)
  · exact fun c f s h ho hf hp hx =>
      finished_exc h (congrArg (Att.andWrites · _) (testRow_class ho hf hp hx))

end Sys2Proof
end

