-- ==== Sys2Proof/Proofs/InstructionWords.lean ====
section
/-!
PROOFS. The words of Exdun instructions and the commands that issue them (R293, R299): decoding and encoding are inverse.
-/
namespace Sys2Proof

open Machine

/-! ### The opcodes with a command of their own, firmware's, and the reserved ones -/

section Opcodes
variable {c : Fin 32} {op : BitVec 8} {f : Fields} {seen : Word64}

theorem wf_firmwareInstruction : (Instr.firmwareInstruction c op f).wf = decide (0xF0 ≤ op.toNat) := rfl
theorem wf_reservedOpcode : (Instr.reservedOpcode c op f).wf = !opKnown op.toNat := rfl

theorem decodeExdun_firmware (h : 0xF0 ≤ op.toNat) :
    decodeExdun c (wordOf op f) seen = .firmwareInstruction c op f := by
  rw [decodeExdun, opOf_wordOf, fieldsOf_wordOf]
  split
  case h_55 => exact if_pos h
  all_goals omega

theorem decodeExdun_reserved (h : opKnown op.toNat = false) :
    decodeExdun c (wordOf op f) seen = .reservedOpcode c op f := by
  rw [decodeExdun, opOf_wordOf, fieldsOf_wordOf]
  split
  case h_55 => exact if_neg fun hf => by simp [opKnown, hf] at h
  all_goals next hn => rw [hn] at h; cases h

end Opcodes

/-! ### From a word to its command and back -/

/-- The word's opcode decides: one with a command of its own, firmware's, or reserved (R299, R331). -/
theorem encodeExdun_decodeExdun_and_wf (c : Fin 32) (w seen : Word64) :
    encodeExdun (decodeExdun c w seen) = some (c, w) ∧ (decodeExdun c w seen).wf = true := by
  have word_of_fields : some (c, wordOf (opOf w) (fieldsOf w)) = some (c, w) := by rw [wordOf_fieldsOf]
  unfold decodeExdun
  extract_lets f
  split
  case h_55 =>
    split
    case isTrue hf => exact ⟨word_of_fields, wf_firmwareInstruction.trans (decide_eq_true hf)⟩
    case isFalse hf =>
      -- each opcode of the table Opcode map below 0xF0 is one of those that the cases exclude
      have hk : opKnown (opOf w).toNat = false := by
        simp only [imp_false] at *
        simp only [← Bool.not_eq_true, opKnown, Bool.or_eq_true, Bool.and_eq_true, decide_eq_true_eq, beq_iff_eq]
        omega
      exact ⟨word_of_fields, by rw [wf_reservedOpcode, hk]; rfl⟩
  all_goals exact ⟨congrArg (fun w => some (c, w)) (word_of_op ‹_›), rfl⟩

/-! ### From a command to its word and back -/

/-- What vp.chk finds on its conductors, the one operand of an instruction command that its word does not spell. -/
def Instr.chkSeen : Instr → Word64
  | .vpChk _ _ seen => seen
  | _ => 0

theorem decodeExdun_encodeExdun {i : Instr} {c : Fin 32} {w : Word64} (hw : i.wf = true)
    (h : encodeExdun i = some (c, w)) : decodeExdun c w i.chkSeen = i := by
  unfold encodeExdun at h
  split at h <;> cases h
  case h_55 => exact decodeExdun_firmware (by simpa only [wf_firmwareInstruction, decide_eq_true_eq] using hw)
  case h_56 op _ => exact decodeExdun_reserved (by simpa [wf_reservedOpcode] using hw)
  all_goals
    rw [decodeExdun, opOf_wordOf, fieldsOf_wordOf]
    rfl

/-- Settles O46: the word of a command is its opcode and fields, and each opcode's command is well-formed. -/
theorem instructionWordsAndCommandsAgree : Obligations.InstructionWordsAndCommandsAgree := by
  unfold Obligations.InstructionWordsAndCommandsAgree
  exact ⟨fun i _ _ hw h => ⟨i.chkSeen, decodeExdun_encodeExdun hw h⟩,
    fun c w seen => (encodeExdun_decodeExdun_and_wf c w seen).1,
    fun c w seen => (encodeExdun_decodeExdun_and_wf c w seen).2⟩

end Sys2Proof
end

