-- ==== Sys2Proof/Proofs/ControlInstructions.lean ====
section
/-!
PROOFS. The control, comparison, status and register-access instructions of Exdun (R300 to R306), and the opcodes that only
firmware's queue runs (R331).
-/
namespace Sys2Proof.Machine

/-! ### The last instruction of a program -/

/-- An instruction at PROG_LEN - 1 that completes ends its program with PC (R301). -/
theorem settleAtt_done_last {s t : State} {c : Fin 32} (hr : (t.chan c).eng.phase = .running)
    (hl : (t.chan c).eng.store.length ≤ (t.chan c).eng.pc + 1) :
    s.settleAtt c (.done t) = (t.calm c).endProgram c 1 0x18 := by
  have hl' : ((t.calm c).eng c).len ≤ ((t.calm c).eng c).pc + 1 := by
    simpa only [State.calm, State.eng, State.chan_modEng_same, Eng.len] using hl
  rw [State.settleAtt, if_neg (by simpa using hr), if_pos hl']

theorem aHalt_ok {s : State} {c : Nat} {f : Fields} (ho : f.only {} = true) :
    s.aHalt c f = .ended (s.endProgram c 0 0) := by
  simp only [State.aHalt, ho, Bool.not_true, Att.when_false]

/-! ### br -/

section Branch
variable {s : State} {c : Nat} {f : Fields} (ho : f.only { a := true, m := true, i := true } = true) (hm : f.m ≤ 2)
  (ha : f.a < 4) (h0 : f.m = 0 → f.a = 0) (hu : f.u < 2048)
include ho hm ha h0 hu

theorem brFields_ok : (!f.only { a := true, m := true, i := true } || decide (2 < f.m) || decide (4 ≤ f.a) ||
    (f.m == 0 && f.a != 0) || decide (2048 ≤ f.u)) = false := by
  have h0' : (f.m == 0 && f.a != 0) = false := by simpa using h0
  simp [ho, h0', Nat.not_lt.mpr hm, Nat.not_le.mpr ha, Nat.not_le.mpr hu]

theorem aBr_outside (hl : (s.chan c).eng.store.length ≤ f.u) : s.aBr c f = .exc 0x18 := by
  have hl' : decide ((s.eng c).len ≤ f.u) = true := decide_eq_true hl
  simp only [State.aBr, brFields_ok ho hm ha h0 hu, hl', Att.when_false, Att.when_true]

variable (hl : f.u < (s.chan c).eng.store.length)
include hl

theorem aBr_taken (ht : f.m = 0 ∨ (f.m = 1 ∧ s.pred c f.a = true) ∨ (f.m = 2 ∧ s.pred c f.a = false)) :
    s.aBr c f = .goto s f.u := by
  have hl' : decide ((s.eng c).len ≤ f.u) = false := decide_eq_false (Nat.not_le.mpr hl)
  simp only [State.aBr, brFields_ok ho hm ha h0 hu, hl', Att.when_false]
  rcases ht with ht | ⟨ht, hp⟩ | ⟨ht, hp⟩ <;> simp [*]

theorem aBr_notTaken (ht : (f.m = 1 ∧ s.pred c f.a = false) ∨ (f.m = 2 ∧ s.pred c f.a = true)) :
    s.aBr c f = .done s := by
  have hl' : decide ((s.eng c).len ≤ f.u) = false := decide_eq_false (Nat.not_le.mpr hl)
  simp only [State.aBr, brFields_ok ho hm ha h0 hu, hl', Att.when_false]
  rcases ht with ⟨ht, hp⟩ | ⟨ht, hp⟩ <;> simp [*]

end Branch

/-! ### wait -/

section Wait
variable {s : State} {c : Fin 32} {f : Fields} (ho : f.only { i := true } = true)
include ho

theorem aWait_zero (hu : f.u = 0) : s.aWait c f = .done s := by
  simp only [State.aWait, ho, Bool.not_true, Att.when_false, if_pos hu]

variable (hu : f.u ≠ 0)
include hu

/-- At its issue wait notes the time base (R302, log entry 111). -/
theorem aWait_begins (hw : (s.chan c).eng.waiting = none) : s.aWait c f = .wait (s.setProgress c s.timeBase.toNat) := by
  simp only [State.aWait, ho, Bool.not_true, Att.when_false, if_neg hu, State.eng, hw, State.setProgress]

theorem aWait_ends {n : Nat} (hw : (s.chan c).eng.waiting = some n) :
    s.aWait c f = .done (s.advanceSince (s.chan c).eng.progress f.u) := by
  simp only [State.aWait, ho, Bool.not_true, Att.when_false, if_neg hu, State.eng, hw]

/-- The end of the wait: what the engine noted of the wait is kept by the retry (R298, R302). -/
theorem waitOver_wait {n : Nat} (hr : (s.chan c).eng.phase = .running) (hw : (s.chan c).eng.waiting = some n)
    (hx : (s.chan c).eng.store[(s.chan c).eng.pc]? = some (wordOf 0x03 f)) :
    s.waitOver c = (s.calmWants c).settleAtt c
      (.done ((s.calmWants c).advanceSince (s.chan c).eng.progress f.u)) := by
  have hop : opOf (wordOf 0x03 f) ≠ 0x31#8 := by rw [opOf_wordOf]; decide
  have hw' : ((s.calmWants c).chan c).eng.waiting = some n := by
    rw [State.calmWants, State.chan_modEng_same]
    exact hw
  have hp : ((s.calmWants c).chan c).eng.progress = (s.chan c).eng.progress := by
    rw [State.calmWants, State.chan_modEng_same]
  have ha : (s.calmWants c).retry c (opOf (wordOf 0x03 f)).toNat (fieldsOf (wordOf 0x03 f)) =
      .done ((s.calmWants c).advanceSince (s.chan c).eng.progress f.u) := by
    rw [opOf_wordOf, fieldsOf_wordOf, ← hp]
    exact aWait_ends ho hu hw'
  rw [waitOver_retries hr (by rw [hw]; rfl) hx hop, ha]

end Wait

/-! ### Comparisons and status -/

section Compare
variable {s : State} {c : Nat} {f : Fields}

theorem aCmp_ok (ho : f.only { d := true, a := true, b := true, m := true } = true) (hd : f.d < 4) (hm : f.m < 6) :
    s.aCmp c f = .done (s.setPred c f.d (compareBy f.m (s.g c f.a) (s.g c f.b))) := by
  simp [State.aCmp, ho, Nat.not_le.mpr hd, Nat.not_le.mpr hm]

theorem aCmpi_ok (ho : f.only { d := true, a := true, m := true, i := true } = true) (hd : f.d < 4) (hm : f.m < 6) :
    s.aCmpi c f = .done (s.setPred c f.d (compareBy f.m (s.g c f.a) f.simm)) := by
  simp [State.aCmpi, ho, Nat.not_le.mpr hd, Nat.not_le.mpr hm]

theorem aStClr_ok (ho : f.only { i := true } = true) (hi : f.imm &&& ~~~0x301#32 = 0) :
    s.aStClr c f = .done (s.modEng c fun e => { e with st := stClear e.st f.u }) := by
  simp only [State.aStClr, ho, hi, Bool.not_true, Bool.or_self, bne_self_eq_false, Att.when_false]

end Compare

/-- The conditions EQ, NE, LTU, GEU, LTS, GES (R304). -/
theorem compareBy_eq (x y : Word64) : compareBy 0 x y = decide (x = y) ∧ compareBy 1 x y = decide (x ≠ y) ∧
    compareBy 2 x y = decide (x.toNat < y.toNat) ∧ compareBy 3 x y = decide (x.toNat ≥ y.toNat) ∧
    compareBy 4 x y = decide (x.toInt < y.toInt) ∧ compareBy 5 x y = decide (x.toInt ≥ y.toInt) := by
  refine ⟨rfl, (decide_not (p := x = y)).symm, rfl, ?_, rfl, ?_⟩
  · simp [compareBy, BitVec.ult, ← decide_not]
  · simp [compareBy, BitVec.slt, ← decide_not]

/-- An instruction that writes one predicate and completes before the last of its program passes on. -/
theorem finished_setPred {s : State} {c : Fin 32} {op : BitVec 8} {f : Fields} {k : State → Att} {d : Nat} {b : Bool}
    (h : s.canIssue c op f = true) (ha : k (s.issued c) = .done ((s.issued c).setPred c d b)) :
    finished s (s.issue c op f k) = .next (commit s (((s.issued c).setPred c d b).passed c)) :=
  finished_engine h ha fun _ => ⟨rfl, rfl, rfl⟩

/-! ### The two that only read -/

section Reads
variable {c : Fin 32} {f : Fields}

theorem writesReg_time : WritesReg c f 0x04 (.time c f) (f.only { d := true }) fun t => t.timeBase := fun _ => rfl
theorem writesReg_stRd : WritesReg c f 0x24 (.stRd c f) (f.only { d := true }) fun t => (t.chan c).eng.st.setWidth 64 :=
  fun _ => rfl

end Reads

/-! ### ld.cfg and st.cfg -/

section Config
variable {s : State} {c : Fin 32} {f : Fields} {x : Res} (hm : f.m ≤ 1) (h0 : f.m = 0 → f.a = 0)
include hm h0

/-- MOD names one of two forms, of which 0 takes no register (R306). -/
theorem cfgFields_ok {u : Uses} (ho : f.only u = true) :
    (!f.only u || decide (1 < f.m) || (f.m == 0 && f.a != 0)) = false := by
  have h0' : (f.m == 0 && f.a != 0) = false := by simpa using h0
  simp [ho, h0', Nat.not_lt.mpr hm]

theorem aLdCfg_ok (ho : f.only { d := true, a := true, m := true, i := true } = true)
    (hx : x = s.access (.eng c (Fin.ofNat 8 (s.chan c).eng.queue)) (s.cfgAddr c f) false 0 Given.plain .engine) :
    s.aLdCfg c f =
      .done ((x.st.setG c f.d (if x.status = .ok then x.data.setWidth 64 else 0)).setCfgStatus c x.status) := by
  subst hx
  simp only [State.aLdCfg, cfgFields_ok hm h0 ho, Att.when_false]

theorem aStCfg_ok (ho : f.only { a := true, b := true, m := true, i := true } = true)
    (hp : (s.chan c).eng.progress = 0)
    (hx : x = s.access (.eng c (Fin.ofNat 8 (s.chan c).eng.queue)) (s.cfgAddr c f) true ((s.g c f.b).setWidth 32)
      Given.plain .engine) :
    s.aStCfg c f = if x.held then .wait (x.st.setProgress c 1) else .done (x.st.setCfgStatus c x.status) := by
  subst hx
  simp only [State.aStCfg, cfgFields_ok hm h0 ho, Att.when_false, State.eng, hp, Nat.zero_ne_one, if_false]

end Config

/-! ### Firmware's opcodes -/

/-- Such an instruction that can issue is judged by its program's queue alone (R331). -/
theorem exec_firmware {s : State} {c : Fin 32} {op : BitVec 8} {f : Fields} (h : s.issuable c op f = true)
    (hop : 0xF0 ≤ op.toNat) : exec (.firmwareInstruction c op f) s =
      if (s.chan c).eng.queue = 7 then .refused .firmwareInternal else finished s (s.issue c op f fun _ => .exc 0x11) :=
  if_neg (by simp [h, Nat.not_lt.mpr hop])

end Sys2Proof.Machine

namespace Sys2Proof
open Machine

/-- Settles O43: each instruction by what its attempt comes to, and the end of the program at its last instruction. -/
theorem controlComparisonAndStatusInstructions : Obligations.ControlComparisonAndStatusInstructions := by
  unfold Obligations.ControlComparisonAndStatusInstructions
  refine ⟨?_, ?_, ?_, ?_, ?_, ?_, ?_, ?_, ?_, ?_, ?_, ?_, ?_, ?_, ?_, ?_, ?_⟩
  · exact fun c f s h ho => finished_pass h (by simp [State.aNop, ho])
  · intro c f s h ho hl
    rw [← settleAtt_done_last (s := s.issued c) (t := s.issued c) (State.issuable_running h).1 hl]
    exact finished_attempt h (by simp [State.aNop, ho])
  · exact fun c f s h ho => finished_attempt (a := .ended _) h (aHalt_ok ho)
  · exact fun c f s h ho hm ha h0 hu hl ht => finished_attempt (a := .goto _ f.u) h (aBr_taken ho hm ha h0 hu hl ht)
  · intro c f s h ho ha hu hl ht
    have hm : f.m ≤ 2 := by omega
    exact finished_pass h (aBr_notTaken ho hm ha (by omega) hu hl ht)
  · exact fun c f s h ho hm ha h0 hu hl => finished_exc h (aBr_outside ho hm ha h0 hu hl)
  · exact fun c f s h ho hu => finished_pass h (aWait_zero ho hu)
  · intro c f s h ho hu
    refine finished_eq (s.issue_wait c 0x03 f _ _ h (aWait_begins ho hu (State.issuable_running h).2) ?_)
    rw [State.setProgress, State.eng, State.chan_modEng_same, chan_issued]
  · exact fun c f s n hr hw hx ho hu => finished_eq (waitOver_wait ho hu hr hw hx)
  · exact fun c f s h ho => writesReg_time.passes h ho
  · exact fun c f s h ho hd hm => finished_setPred h (aCmp_ok ho hd hm)
  · exact fun c f s h ho hd hm => finished_setPred h (aCmpi_ok ho hd hm)
  · exact compareBy_eq
  · exact fun c f s h ho => writesReg_stRd.passes h ho
  · exact fun c f s h ho hi => finished_engine h (aStClr_ok ho hi) fun _ => ⟨rfl, rfl, rfl⟩
  · exact fun c f s x h ho hm h0 hx => finished_attempt h (aLdCfg_ok hm h0 ho hx)
  · exact fun c f s x h ho hm h0 hp hx => finished_attempt h (aStCfg_ok hm h0 ho hp hx)

/-- Settles O44: the queue of the program decides, before the word's other fields are looked at. -/
theorem firmwareOpcodesRunFromQ7Only : Obligations.FirmwareOpcodesRunFromQ7Only := by
  unfold Obligations.FirmwareOpcodesRunFromQ7Only
  constructor
  · intro c op f s h hop hq
    exact (exec_firmware h hop).trans ((if_neg hq).trans (finished_exc h rfl))
  · exact fun c op f s h hop hq => (exec_firmware h hop).trans (if_pos hq)

end Sys2Proof
end

