-- ==== Sys2Proof/Proofs/CalibrationRuns.lean ====
section
/-!
PROOFS. Calibration: the runs of CAL_CTL, what the end of a run leaves in force, the commits of its records, drift runs and
suspect checks.
-/
namespace Sys2Proof.Machine

/-! ### Runs of CAL_CTL -/

section Control
variable {s : State} {p : Path} {k : Nat}

/-- The word that starts a run of kind `k` carries its kind and RUN. -/
theorem bits_calRun (hk : k < 3) : bitsOf (calRun k).toNat 25 24 = k ∧ bitOf (calRun k).toNat 31 = true := by
  match k, hk with
  | 0, _ | 1, _ | 2, _ => exact ⟨by decide, by decide⟩

/-- What CAL_CTL holds, and the run that is noted, when a run of kind `k` starts (R398, R404). -/
def State.calBegun (s : State) (p : Path) (k : Nat) : State :=
  { (s.plainWrite (pathNum p) .CAL_CTL 0 0 (Machine.calRun k)).setFlag F.CAL_CTL_BUSY true with calRun := some (k, false) }

/-- A run is started where the path may, none runs, and the mode is one of the two in which runs are. -/
theorem wCalCtl_starts (hk : k < 3) (ho : k = 1 → s.sessionOk p = true) (hb : s.flag F.CAL_CTL_BUSY = false)
    (hm : s.mode = .active ∨ s.mode = .safe) : s.wCalCtl p (calRun k) =
      done (if k = 2 then (s.calBegun p k).each 26 fun i t => t.commitStart i else s.calBegun p k) := by
  obtain ⟨hkind, hrun⟩ := bits_calRun hk
  have hs : ¬ (k = 1 ∧ s.sessionOk p = false) := fun h => by simp [ho h.1] at h
  have hmode : (s.mode == .active || s.mode == .safe) = true := by simpa using hm
  simp only [State.wCalCtl, hkind, hrun, hs, hb, hmode, Nat.ne_of_lt hk, Bool.not_true, Bool.not_eq_true',
    Bool.false_eq_true, or_self, if_false]
  rfl

theorem wCalCtl_denied (ho : s.sessionOk p = false) : s.wCalCtl p (calRun 1) = s.deny p (adr .CAL_CTL) true := by
  obtain ⟨hkind, hrun⟩ := bits_calRun (k := 1) (by decide)
  simp [State.wCalCtl, hkind, hrun, ho]

theorem wCalCtl_ignored (hk : k < 3) (h1 : k ≠ 1)
    (h : s.flag F.CAL_CTL_BUSY = true ∨ (s.mode ≠ .active ∧ s.mode ≠ .safe)) : s.wCalCtl p (calRun k) = ignored s := by
  obtain ⟨hkind, hrun⟩ := bits_calRun hk
  have hstop : s.flag F.CAL_CTL_BUSY = true ∨ (s.mode == .active || s.mode == .safe) = false := by simpa using h
  simp only [State.wCalCtl, hkind, hrun, hstop, h1, Nat.ne_of_lt hk, Bool.not_true, Bool.not_eq_true', Bool.false_eq_true,
    false_and, if_true, if_false]

end Control

/-! ### The ends of runs -/

section RunEnds
variable {s : State} {e : CalEnv} {c : Fin 32}

theorem ctlRunEnd_rail {v : List (BitVec 16)} {f : Bool} (hr : s.calRun = some (0, f))
    (hp : payloadPlausible 25 (railPayload v) = true) : s.ctlRunEnd v =
      (({ s with calRun := none }.setFlag F.CAL_CTL_BUSY false).putResult 25 (railPayload v) 0).endRun 4 0 0 0 := by
  simp only [State.ctlRunEnd, hr, hp, if_true]

theorem ctlRunEnd_sensor {v : List (BitVec 16)} {f : Bool} (hr : s.calRun = some (1, f))
    (hp : sensorsPlausible (s.fld F.CAL_REF_TEMP_REF) v = true) : s.ctlRunEnd v =
      (({ s with calRun := none }.setFlag F.CAL_CTL_BUSY false).putResult 24 (sensorPayload (s.fld F.CAL_REF_TEMP_REF) v)
        (s.fld F.CAL_REF_TEMP_REF)).endRun 5 0 0 0 := by
  simp only [State.ctlRunEnd, hr, hp, if_true]

theorem calRunEnd_control (he : e.run = none) : s.calRunEnd e = s.ctlRunEnd e.values := by
  simp only [State.calRunEnd, he]

/-- The run of a channel whose tier is in a die reset goes on (R251). -/
theorem calRunEnd_held (he : e.run = some c) (ht : s.tierHeld (c.val / 8) = true) : s.calRunEnd e = s := by
  simp only [State.calRunEnd, he, ht, if_true]

theorem calRunEnd_retrain (he : e.run = some c) (ht : s.tierHeld (c.val / 8) = false)
    (hr : (s.chan c).vpt.run = some .retrain) : s.calRunEnd e = s.retrainRunEnd c e.sweep := by
  simp only [State.calRunEnd, he, ht, hr, Bool.false_eq_true, if_false]

theorem calRunEnd_drift (he : e.run = some c) (ht : s.tierHeld (c.val / 8) = false)
    (hr : (s.chan c).vpt.run = some .drift) : s.calRunEnd e = s.driftRunEnd c e.sweep := by
  simp only [State.calRunEnd, he, ht, hr, Bool.false_eq_true, if_false]

end RunEnds

section Sweeps
variable {s u v : State} {c : Nat} {x : Sweep}

/-- A channel retrain whose check passes puts what it found in force (R399). -/
theorem retrainRunEnd_passed (hu : u = s.sweepChannel c (s.fld F.GLB_MODE_FPOINT) 3 (s.fld (F.VPT_STS_T_CAL c)) false x)
    (hf : u.checkFails c (x.erring.map (·.val)) = false) :
    s.retrainRunEnd c x = ((u.runOver c).setChState c .quiesced 1).endRun 2 0 c 0 := by
  simp only [State.retrainRunEnd, ← hu, hf, Bool.false_eq_true, if_false, b2n]

/-- One whose check fails leaves the codes in force and raises CH_VP. -/
theorem retrainRunEnd_failed (hu : u = s.sweepChannel c (s.fld F.GLB_MODE_FPOINT) 3 (s.fld (F.VPT_STS_T_CAL c)) false x)
    (hf : u.checkFails c (x.erring.map (·.val)) = true) : s.retrainRunEnd c x =
      ((((s.sweepFailed c false x).raise (128 + 4 * c + 1) 1).runOver c).setChState c .quiesced 1).endRun 2 1 c 0 := by
  simp only [State.retrainRunEnd, ← hu, hf, if_true, b2n]

/-- A drift run that passes puts what it found in force and resumes its channel (R401). -/
theorem driftRunEnd_passed (hu : u = s.sweepChannel c (s.fld F.GLB_MODE_FPOINT) 3 (s.fld (F.VPT_STS_T_CAL c)) true x)
    (hd : s.driftBlocked c x = false) (hf : u.checkFails c (x.erring.map (·.val)) = false) : s.driftRunEnd c x =
      (((u.runOver c).endRun 3 0 c 0).setChState c .quiesced 5).chanOnline c 5 := by
  simp only [State.driftRunEnd, ← hu, hd, hf, Bool.or_self, Bool.false_and, Bool.false_eq_true, if_false, b2n]

/-- One that fails leaves what was in force; its channel is resumed where that passes the check, else it goes OFFLINE. -/
theorem driftRunEnd_failed (hu : u = s.sweepChannel c (s.fld F.GLB_MODE_FPOINT) 3 (s.fld (F.VPT_STS_T_CAL c)) true x)
    (hv : v = s.sweepFailed c true x)
    (h : s.driftBlocked c x = true ∨ u.checkFails c (x.erring.map (·.val)) = true) : s.driftRunEnd c x =
      if v.checkFails c (x.recheck.map (·.val)) = true then
        ((((v.runOver c).endRun 3 1 c 0).chanOffline c 5).raise (128 + 4 * c + 1) 32)
      else (((v.runOver c).endRun 3 1 c 0).setChState c .quiesced 5).chanOnline c 5 := by
  have hfail : (s.driftBlocked c x || u.checkFails c (x.erring.map (·.val))) = true := by simpa using h
  simp only [State.driftRunEnd, ← hu, ← hv, hfail, Bool.true_and, if_true, b2n]

end Sweeps

/-! ### Commits -/

section Commits
variable {s t : State} {i : Nat} {x : CalSlot}

theorem calRecordCommit_stopped (h : s.mramRuns = false) : s.calRecordCommit i = s := if_neg (by simp [h])

/-- A pending record is committed no sooner than COMMIT_S after its last commit (R396). -/
theorem calRecordCommit_due {n : Nat} (hr : s.mramRuns = true) (hp : s.flag (F.CAL_REC_PENDING i) = true)
    (hn : s.mram.calAt.get (fun _ => none) i = some n) :
    s.calRecordCommit i = (s.advanceTo (n + 1000000000 * s.fld F.CAL_CFG_COMMIT_S)).commitStart i := by
  simp only [State.calRecordCommit, hr, hp, hn, Bool.and_self, if_true]

theorem commitStart_pending (hp : s.flag (F.CAL_REC_PENDING i) = true)
    (hw : s.mram.calWrite.get (fun _ => none) i = none) : s.commitStart i =
      { s with mram := { s.mram with calWrite := s.mram.calWrite.set (fun _ => none) i (some (s.newSlot i)) } } :=
  if_pos (by simp [hp, hw])

/-- The write of a record's slot is over. -/
def State.slotWritten (s : State) (i : Nat) : State :=
  { s with mram := { s.mram with calWrite := s.mram.calWrite.set (fun _ => none) i none } }

/-- A slot that passes the checks of a record comes into force (R395). -/
theorem calCommitDone_passed (hx : s.mram.calWrite.get (fun _ => none) i = some x) (hr : s.mramRuns = true)
    (hp : slotPasses i x = true) : s.calCommitDone i true = (s.slotWritten i).commitSlot i x := by
  simp only [State.calCommitDone, hx, hr, State.checkSlot, hp, Bool.not_true, Bool.false_eq_true, if_true, if_false]
  rfl

/-- One that does not pass them fails its commit, and stands in MRAM. -/
theorem calCommitDone_spoilt (hx : s.mram.calWrite.get (fun _ => none) i = some x) (hr : s.mramRuns = true)
    (hp : slotPasses i x = false) : s.calCommitDone i true = ((s.slotWritten i).putSlot i x).commitFailed i := by
  simp only [State.calCommitDone, hx, hr, State.checkSlot, hp, Bool.not_true, Bool.false_eq_true, if_true, if_false]
  rfl

theorem calCommitDone_failed (hx : s.mram.calWrite.get (fun _ => none) i = some x) :
    s.calCommitDone i false = (s.slotWritten i).commitFailed i := by
  simp only [State.calCommitDone, hx, Bool.not_false, if_true]
  rfl

theorem commitFailed_eq (ht : t = { s with mram := { s.mram with
      calAt := s.mram.calAt.set (fun _ => none) i (some s.now) } }) :
    s.commitFailed i = { t with calRun := t.calRun.map fun (r : Nat × Bool) => (r.1, true) }.raise 97 0 := by
  subst ht; rfl

theorem cal_putSlot_first (h : s.otherSlot i = 0) :
    (s.putSlot i x).mram.cal.get calFactory i = { s.calRec i with slotA := some x } := by
  simp only [State.putSlot, h, if_true, Store.get_set_same]

theorem cal_putSlot_second (h : s.otherSlot i ≠ 0) :
    (s.putSlot i x).mram.cal.get calFactory i = { s.calRec i with slotB := some x } := by
  simp only [State.putSlot, h, if_false, Store.get_set_same]

end Commits

/-! ### Drift runs, suspect checks and the probe -/

section Drift
variable {s : State} {c : Nat}

theorem driftReady_iff {t k : Nat} : s.driftReady t k = true ↔
    s.flag (F.VPT_STS_DUE k) = true ∧ (s.chan k).st = .online ∧ s.gapEnd k ≤ t ∧
      ∀ j, j < 8 → (s.chan (8 * (k / 8) + j)).vpt.drift = false ∧ (s.chan (8 * (k / 8) + j)).vpt.run ≠ some .drift := by
  simp only [State.driftReady, Bool.and_eq_true, List.all_eq_true, List.mem_range, beq_iff_eq, bne_iff_ne,
    Bool.not_eq_true', decide_eq_true_eq, and_assoc]

/-- The lowest channel that is ready starts its drift run: it drains (R400). -/
theorem driftRunStart_ready (hc : s.coreRuns (halfOfChan c) = true) (ha : s.flag F.CAL_CFG_AUTO_CAL = true)
    (hm : s.mode = .active ∨ s.mode = .safe) (hr : s.driftReady (max s.now (s.gapEnd c)) c = true)
    (hl : ∀ k, k < c → s.driftReady (max s.now (s.gapEnd c)) k = false) : s.driftRunStart c =
      ((s.advanceTo (s.gapEnd c)).chanDrain c 5).modChan c fun x => { x with vpt := { x.vpt with drift := true } } := by
  have hmode : (s.mode == .active || s.mode == .safe) = true := by simpa using hm
  have hlow : ((List.range c).all fun k => !s.driftReady (max s.now (s.gapEnd c)) k) = true := by simpa using hl
  exact if_pos (by simp only [hc, ha, hmode, hr, hlow, Bool.and_self])

theorem suspectCheck_runs {err : BitVec 5} (hc : s.coreRuns (halfOfChan c) = true)
    (hv : s.flag (F.ECC_SUSPECT_VALID c) = true) (ha : s.flag F.CAL_CFG_AUTO_CAL = true) {l : List Nat}
    (hl : l = (below 5 fun i => err.getLsbD i).map
      (280 * s.fld (F.ECC_SUSPECT_LANE c) + 5 * s.fld (F.ECC_SUSPECT_SYMBOL c) + ·)) : s.suspectCheck c err =
      (if l = [] then (s.modChan c fun x => { x with vpt := { x.vpt with mark := true } }).updateDue c
        else s.spareAll c 5 l).setFlag (F.ECC_SUSPECT_VALID c) false := by
  simp only [State.suspectCheck, hc, hv, ha, ← hl, Bool.and_self, if_true, List.isEmpty_iff]

theorem wVptProbe_looks {n : PathNum} {w : Word} (h : bitsOf w.toNat 13 0 ≤ 9147) {k : Nat} {t : State}
    (hk : k = condPlace (bitsOf w.toNat 13 0) (b2n (bitOf w.toNat 30))) (ht : t = s.plainWrite n .VPT_PROBE c 0 w) :
    s.wVptProbe n c w = done (((t.setFld (F.VPT_PROBE_CODE c) (t.codeAt c k)).setFld (F.VPT_PROBE_WIN c)
      ((t.chan c).vpt.windows.get (fun _ => 0) k)).setFlag (F.VPT_PROBE_VALID c) true) := by
  rw [State.wVptProbe, if_neg (Nat.not_lt.mpr h), ← hk, ← ht]

end Drift

end Sys2Proof.Machine

namespace Sys2Proof
open Machine

/-- Settles O51: each command by the case of its operation, the two writes of a record's slot apart. -/
theorem calibrationRunsAndCommits : Obligations.CalibrationRunsAndCommits := by
  unfold Obligations.CalibrationRunsAndCommits
  refine ⟨?_, ?_, ?_, ?_, ?_, ?_, ?_, ?_, ?_, ?_, ?_, ?_, ?_, ?_, ?_, ?_, ?_, ?_, ?_, ?_, ?_⟩
  · exact fun p s hg hb hm => finished_eq
      (s.writeOn_done p .CAL_CTL 0 0 _ _ hg (wCalCtl_starts (k := 0) (by decide) nofun hb hm))
  · exact fun p s hg ho hb hm => finished_eq
      (s.writeOn_done p .CAL_CTL 0 0 _ _ hg (wCalCtl_starts (k := 1) (by decide) (fun _ => ho) hb hm))
  · exact fun p s hg ho => writeOn_denied hg (wCalCtl_denied ho)
  · exact fun p s hg hb hm => finished_eq
      (s.writeOn_done p .CAL_CTL 0 0 _ _ hg (wCalCtl_starts (k := 2) (by decide) nofun hb hm))
  · exact fun p s hg h => finished_eq
      (s.writeOn_ignored p .CAL_CTL 0 0 _ hg (wCalCtl_ignored (k := 0) (by decide) (by decide) h))
  · rintro env s _ f he hr rfl hp
    exact finished_eq ((calRunEnd_control he).trans (ctlRunEnd_rail hr hp))
  · rintro env s _ f _ he hr rfl rfl hp
    exact finished_eq ((calRunEnd_control he).trans (ctlRunEnd_sensor hr hp))
  · intro env s c u he hr ht hu
    have hend := calRunEnd_retrain he ht hr
    exact ⟨fun hf => finished_eq (hend.trans (retrainRunEnd_passed hu hf)),
      fun hf => finished_eq (hend.trans (retrainRunEnd_failed hu hf))⟩
  · intro env s c u v he hr ht hu hv
    have hend := calRunEnd_drift he ht hr
    refine ⟨fun hd hf => finished_eq (hend.trans (driftRunEnd_passed hu hd hf)), fun h => ⟨fun hf => ?_, fun hf => ?_⟩⟩
    · exact finished_eq (hend.trans ((driftRunEnd_failed hu hv h).trans (if_neg (by simp [hf]))))
    · exact finished_eq (hend.trans ((driftRunEnd_failed hu hv h).trans (if_pos hf)))
  · exact fun env s c he ht => finished_eq (calRunEnd_held he ht)
  · exact fun i s h => finished_eq (calRecordCommit_stopped h)
  · rintro i s n _ hr hp hn rfl
    exact finished_eq (calRecordCommit_due hr hp hn)
  · exact fun i s hp hw => commitStart_pending hp hw
  · rintro i s x _ hx rfl
    refine ⟨fun hr hp => finished_eq (calCommitDone_passed hx hr hp), fun u hr hp hu => ?_, fun u hu => ⟨?_, ?_⟩⟩
    · exact finished_eq ((calCommitDone_spoilt hx hr hp).trans (commitFailed_eq hu))
    · exact finished_eq ((calCommitDone_failed hx).trans (commitFailed_eq hu))
    · exact finished_eq ((calCommitDone_failed hx).trans (commitFailed_eq hu))
  · rintro c s _ hc ha hm hd ho ht hl rfl
    exact finished_eq (driftRunStart_ready hc ha hm (driftReady_iff.mpr ⟨hd, ho, Nat.le_max_right _ _, ht⟩) hl)
  · intro c err s l hc hv ha hl
    have h := suspectCheck_runs hc hv ha hl
    exact ⟨fun hn => finished_eq (h.trans (by rw [if_neg hn])), fun hn => finished_eq (h.trans (by rw [if_pos hn]))⟩
  · exact fun p c w s k t hg hn hk ht => finished_eq (s.writeOn_done p .VPT_PROBE c 0 w _ hg (wVptProbe_looks hn hk ht))
  · exact fun s i d n => rfl
  · exact fun s i x h => cal_putSlot_first h
  · exact fun s i x h => cal_putSlot_second h
  · rintro s i x _ rfl
    rfl

end Sys2Proof
end

