-- ==== Sys2Proof/Proofs/ScrubbingAndSpilling.lean ====
section
/-!
PROOFS. Stored data: the scrub pointer and its laps, the visits of the scrubber, the spill of the correction log, the extent
map's lookup and the arming of injection.
-/
namespace Sys2Proof.Machine

/-! ### The pointer -/

section Pointer
variable {s : State} {c : Nat}

/-- Where scrub time does not allow to pass the position it stands at, the pointer stays (R350). -/
theorem passIneligible_of_not_mayPass (h : s.mayPass c = false) (n : Nat) : s.passIneligible c n = s := by
  cases n with
  | zero => rfl
  | succ n => exact if_neg (by simp [h])

theorem scrubAdvance_stopped {dt : Nat} (h : s.scrubRuns c = false) : s.scrubAdvance c dt = s := if_neg (by simp [h])

theorem scrubAdvance_running {dt : Nat} {t : State} (h : s.scrubRuns c = true)
    (ht : t = s.modScrub c (fun x => { x with time := x.time + dt })) :
    s.scrubAdvance c dt = t.passIneligible c (lapLength - (t.chan c).scrub.pointer) := by
  rw [State.scrubAdvance, if_pos h, ← ht]

theorem scrub_modScrub_same (s : State) (c : Fin 32) (g : Scrub → Scrub) :
    ((s.modScrub c g).chan c).scrub = g (s.chan c).scrub := by
  rw [State.modScrub, State.chan_modChan_same]

theorem scrub_passOne_within {c : Fin 32} (h : (s.chan c).scrub.pointer + 1 < lapLength) :
    ((s.passOne c).chan c).scrub = { (s.chan c).scrub with pointer := (s.chan c).scrub.pointer + 1 } := by
  rw [State.passOne, if_neg (Nat.not_le.mpr h), scrub_modScrub_same]

/-- Past the last position the next lap starts (R352). -/
theorem scrub_passOne_end {c : Fin 32} (h : lapLength ≤ (s.chan c).scrub.pointer + 1) :
    ((s.passOne c).chan c).scrub = { (s.chan c).scrub with
      pointer := 0, time := 0, lap := (s.chan c).scrub.lap + 1, overdue := false, suspects := [] } := by
  rw [State.passOne, if_pos h, State.lapEnd, scrub_modScrub_same]
  rw [State.chan_bump, State.chan_setFlag, State.chan_setFld]

theorem lapOverdue_running (hr : s.scrubRuns c = true) (ho : (s.chan c).scrub.overdue = false) : s.lapOverdue c =
    (s.modScrub c fun x => { x with
      overdue := true, time := max x.time (s.fld (F.ECC_SCRUB_CFG_LAP_TARGET c) * 1125000000) }).setFlag
      (F.ECC_SCRUB_STS_LAP_OVERDUE c) true := if_pos (by simp [hr, ho])

end Pointer

/-! ### Cycles that claims leave -/

section Cycles
variable {s : State} {c : Nat} {claims : State → State × Bool}

theorem leftCycle_taken (h : s.mode = .fatal ∨ s.progLeads c = true ∨
    ((s.exportNext c).chan c).lastVc ≠ (s.chan c).lastVc ∨ (claims (s.nextCycle c)).2 = true) :
    s.leftCycle c claims = none := if_pos h

theorem leftCycle_left (hm : s.mode ≠ .fatal) (hp : s.progLeads c = false)
    (he : ((s.exportNext c).chan c).lastVc = (s.chan c).lastVc) (hc : (claims (s.nextCycle c)).2 = false) :
    s.leftCycle c claims = some (claims (s.nextCycle c)).1 := if_neg (by simp [hm, hp, he, hc])

end Cycles

/-! ### Visits -/

section Visits
variable {s r t : State} {c loc : Nat}

theorem scrubVisit_noCycle (h : s.idleCycle c = none) : s.scrubVisit c = s := by
  simp only [State.scrubVisit, h]

/-- No visit where the scrubber does not run, a row is queued, or scrub time does not allow it (R350, R354). -/
theorem scrubVisit_notNow (hi : s.idleCycle c = some r)
    (h : r.scrubRuns c = false ∨ (r.chan c).scrub.queue ≠ [] ∨ r.mayPass c = false) : s.scrubVisit c = s := by
  have hno : (r.scrubRuns c && (r.chan c).scrub.queue.isEmpty && r.mayPass c) = false := by
    rcases h with h | h | h <;> simp [h]
  simp only [State.scrubVisit, hi, hno, Bool.false_eq_true, if_false]

/-- Where the scrubber's turn has come, the map word of its row is checked first; a check that stops the scrubber ends the
command, else the row is visited and passed (R347, R353). -/
theorem scrubVisit_turn (hi : s.idleCycle c = some r) (hr : r.scrubRuns c = true) (hq : (r.chan c).scrub.queue = [])
    (hp : r.mayPass c = true) (hl : loc = scrubRow c (r.chan c).scrub.pointer) (ht : t = r.useMap loc) :
    s.scrubVisit c = if !t.scrubRuns c then t
      else if t.eligible loc && t.visitable loc then (t.visit loc).passOne c else s := by
  simp only [State.scrubVisit, hi, hr, hq, hp, ← hl, ← ht, List.isEmpty_nil, Bool.and_self, if_true]

theorem priorityVisit_empty (h : (s.chan c).scrub.queue = []) : s.priorityVisit c = s := by
  simp only [State.priorityVisit, h]

section Queued
variable {rest : List Nat} (hq : (s.chan c).scrub.queue = loc :: rest) (hs : s.scrubRuns c = true) (ht : t = s.useMap loc)
  (hr : t.scrubRuns c = true)
include hq hs ht hr

/-- A queued row that is eligible is visited in an idle cycle and leaves the queue (R354). -/
theorem priorityVisit_visits {u : State} (he : t.eligible loc = true) (hi : t.idleCycle c = some u)
    (hv : u.visitable loc = true) :
    s.priorityVisit c = (u.modScrub c fun x => { x with queue := rest }).visit loc := by
  simp only [State.priorityVisit, hq, hs, ← ht, hr, he, hi, hv, Bool.not_true, Bool.false_eq_true, if_true, if_false]

theorem priorityVisit_waits (he : t.eligible loc = true) (hi : t.idleCycle c = none) : s.priorityVisit c = t := by
  simp only [State.priorityVisit, hq, hs, ← ht, hr, he, hi, Bool.not_true, Bool.false_eq_true, if_false]

theorem priorityVisit_drops (he : t.eligible loc = false) :
    s.priorityVisit c = t.modScrub c fun x => { x with queue := rest } := by
  simp only [State.priorityVisit, hq, hs, ← ht, hr, he, Bool.not_true, Bool.not_false, Bool.false_eq_true, if_true, if_false]

end Queued

end Visits

/-! ### The spill of the log -/

section Spill
variable {s u : State} {c : Nat}

theorem spillCycle_few (h : (s.chan c).log.entries.length < 248) : s.spillCycle c = s.idleCycle c :=
  if_neg (Nat.not_le.mpr h)

theorem spillCycle_many (h : 248 ≤ (s.chan c).log.entries.length) :
    s.spillCycle c = s.leftCycle c fun t => t.upperClaims c := if_pos h

/-- Without a cycle for it no entry is spilled. -/
theorem logSpill_noCycle (h : s.spillCycle c = none) : s.logSpill c = s := by
  unfold State.logSpill
  split
  · rfl
  · simp only [h, Option.bind_none, State.spillTo, ite_self]

/-- Beyond 128 entries the oldest goes to the ring, in the cycles it was given (R359). -/
theorem logSpill_spills {r : State} {e : List Word} {rest : List (List Word)} {o : Nat}
    (hl : (s.chan c).log.entries = e :: rest) (hn : 128 ≤ rest.length) (hc : s.coreRuns (halfOfChan c) = true)
    (he : s.flag (F.ECC_CFG_SPILL_EN c) = true) (hs : (s.chan c).st = .online ∨ (s.chan c).st = .draining)
    (ho : o = 0xC00000 + 32 * s.fld (F.ECC_SPILL_STS_WR_IDX c)) (hr : s.spillCycle c = some r)
    (hu : r.ringCycles (serviceAt c o).loc = some u) : s.logSpill c = s.spillTo c o e rest (some u) := by
  rw [State.logSpill, hl]
  dsimp only
  rw [if_pos ⟨hc, hn, he, hs⟩, ← ho, hr, Option.bind_some, hu]

end Spill

/-! ### Injection -/

section Injection
variable {s : State} {n : PathNum} {c : Nat} {v : Word}

/-- Arming where none is armed starts the count of injections anew (R369). -/
theorem wEccInj_arms (ha : bitOf v.toNat 31 = true) (hk : bitsOf v.toNat 27 24 ≠ 0)
    (hf : s.flag (F.ECC_INJ_CTL_ARM c) = false) :
    s.wEccInj n c v = done ((s.setFld (F.ECC_INJ_CTL_INJECTED c) 0).plainWrite n .ECC_INJ_CTL c 0 v) := by
  simp [State.wEccInj, ha, hk, hf]

theorem wEccInj_noKind (ha : bitOf v.toNat 31 = true) (hk : bitsOf v.toNat 27 24 = 0) : s.wEccInj n c v = ignored s :=
  if_pos (by simp [ha, hk])

/-- The word that arms carries ARM and the kind of the word written. -/
theorem bits_armWord (w : Word) : bitOf (withBits w 31 31 1).toNat 31 = true ∧
    bitsOf (withBits w 31 31 1).toNat 27 24 = bitsOf w.toNat 27 24 :=
  ⟨bitOf_withBits w 31 true (by decide), bitsOf_withBits_below w 31 31 1 27 24 (by decide) (by decide) (by decide)⟩

end Injection

end Sys2Proof.Machine

namespace Sys2Proof
open Machine

/-- Settles O52: each command by the case of its operation, and the laws of the pointer, of the cycles that claims leave and
of the spill's cycle. -/
theorem scrubbingSpillingAndErrorInjection : Obligations.ScrubbingSpillingAndErrorInjection := by
  unfold Obligations.ScrubbingSpillingAndErrorInjection
  refine ⟨?_, ?_, ?_, ?_, ?_, ?_, ?_, ?_, ?_, ?_, ?_, ?_, ?_, ?_, ?_, ?_, ?_, ?_⟩
  · intro c dt s t hr ht
    have hrun := scrubAdvance_running hr ht
    exact ⟨fun hp _ => finished_eq (hrun.trans (passIneligible_of_not_mayPass hp _)), finished_eq hrun⟩
  · exact fun c dt s h => finished_eq (scrubAdvance_stopped h)
  · intro c s r loc t hi hr hq hp hl ht
    have hturn := scrubVisit_turn hi hr hq hp hl ht
    exact ⟨fun hs he hv => finished_eq (hturn.trans (by simp [hs, he, hv])),
      fun hs => finished_eq (hturn.trans (by simp [hs]))⟩
  · exact fun c s r hi h => finished_eq (scrubVisit_notNow hi h)
  · exact fun c s h => finished_eq (scrubVisit_noCycle h)
  · exact fun c s claims => ⟨leftCycle_taken, leftCycle_left⟩
  · exact fun c s => rfl
  · exact fun s c h => congrArg Scrub.pointer (scrub_passOne_within h)
  · intro s c h
    rw [scrub_passOne_end h]
    exact ⟨rfl, rfl, rfl⟩
  · exact fun c s hr ho => finished_eq (lapOverdue_running hr ho)
  · intro c s loc rest t hq hs ht hr
    exact ⟨fun he => ⟨fun u hi hv => finished_eq (priorityVisit_visits hq hs ht hr he hi hv),
      fun hi => finished_eq (priorityVisit_waits hq hs ht hr he hi)⟩,
      fun he => finished_eq (priorityVisit_drops hq hs ht hr he)⟩
  · exact fun c s h => finished_eq (priorityVisit_empty h)
  · rintro c s e rest o r u _ _ hl hn hc he hs ho hr hu rfl rfl
    have hspill := logSpill_spills hl hn hc he hs ho hr hu
    exact ⟨fun hi => finished_eq (hspill.trans (if_neg hi)), fun hi => finished_eq (hspill.trans (if_pos hi))⟩
  · exact fun c s h => finished_eq (logSpill_noCycle h)
  · exact fun c s => ⟨spillCycle_few, spillCycle_many⟩
  · rintro p c w s _ _ hg rfl rfl
    exact finished_eq (s.writeOn_done p .ECC_EXT c 0 w _ hg rfl)
  · rintro p c w s _ rfl hg hk hf
    obtain ⟨harm, hkind⟩ := bits_armWord w
    exact finished_eq (s.writeOn_done p .ECC_INJ_CTL c 0 _ _ hg (wEccInj_arms harm (hkind ▸ hk) hf))
  · rintro p c w s _ rfl hg hk
    obtain ⟨harm, hkind⟩ := bits_armWord w
    exact finished_eq (s.writeOn_ignored p .ECC_INJ_CTL c 0 _ hg (wEccInj_noKind harm (hkind.trans hk)))

end Sys2Proof
end

