-- ==== Sys2Proof/Proofs/LedgerActionsAndFuses.lean ====
section
/-!
PROOFS. The repair ledger's actions and their ends, fuse records, the lookups of both and of the test's records, and the
tiers of the shutdown test.
-/
namespace Sys2Proof.Machine

/-! ### Actions of the ledger -/

section Actions
variable {s : State} {p : Path} {v : Word} {k : Nat}

/-- The word of an action carries its number alone. -/
theorem ledgerAction_of_withBits (w : Word) (hk : k < 16) : bitsOf (withBits w 31 28 k).toNat 31 28 = k :=
  bitsOf_withBits w 31 28 k (by decide) (by decide) hk

/-- What CAL_LDG_CTL holds, and the action that is noted, when action `k` is accepted (R431, R441). -/
def State.actionBegun (s : State) (p : Path) (v : Word) (k : Nat) : State :=
  let t := (s.plainWrite (pathNum p) .CAL_LDG_CTL 0 0 v).setFlag F.CAL_LDG_CTL_BUSY true
  { t with mram := { t.mram with
    ledgerAct := some ⟨k, s.fld F.CAL_LDG_IDX_INDEX, bitsOf v.toNat 20 16, bitsOf v.toNat 13 0⟩ } }

/-- An action is accepted in ACTIVE while none runs, REMOVE in SAFE too; RECORD_COND alone asks no session. -/
theorem wLdgCtl_accepts (hv : bitsOf v.toNat 31 28 = k) (hk : k = 1 ∨ k = 2 ∨ k = 3)
    (ho : k = 3 ∨ s.sessionOk p = true) (hb : s.flag F.CAL_LDG_CTL_BUSY = false)
    (hm : s.mode = .active ∨ k = 1 ∧ s.mode = .safe) : s.wLdgCtl p v = done (s.actionBegun p v k) := by
  have hnum : ¬ (k = 0 ∨ 3 < k) := by omega
  have hsess : ¬ ((k = 1 ∨ k = 2) ∧ (!s.sessionOk p) = true) := by
    rintro ⟨hk', hno⟩
    rcases ho with rfl | ho
    · omega
    · simp [ho] at hno
  have hmode : (s.mode == .active || (k == 1 && s.mode == .safe)) = true := by simpa using hm
  simp only [State.wLdgCtl, hv, hnum, hsess, hb, hmode, Bool.not_true, Bool.false_eq_true, or_self, if_false]
  rfl

theorem wLdgCtl_fuse_safe (hv : bitsOf v.toNat 31 28 = 2) (ho : s.sessionOk p = true) (hm : s.mode = .safe) :
    s.wLdgCtl p v = ignored s := by
  simp [State.wLdgCtl, hv, ho, hm]

end Actions

/-- A fuse blown from an entry takes the lowest free record, and the entry goes (R431). -/
theorem ledgerFuse_free {s : State} {e : Words} {n index : Nat} (hf : s.freeFuse = some n) : s.ledgerFuse index e true =
    ((s.setFuse n (BitVec.ofNat 64 (fuseOf e))).setLedger index none).ledgerResult 0 := by
  unfold State.ledgerFuse
  split
  next hn => exact absurd (hf.symm.trans hn) nofun
  next m hm =>
    cases hf.symm.trans hm
    exact if_pos rfl

section ActionEnds
variable {s : State} {a : LedgerAct} (hr : s.mramRuns = true) (ha : s.mram.ledgerAct = some a)
include hr ha

/-- RECORD_COND of a conductor that its group's spare does not replace ends with 6 (R431). -/
theorem ledgerActionEnd_notReplaced (h3 : a.action = 3) (hn : s.replaced a.ch (a.cond / 64) ≠ some a.cond) (ok : Bool) :
    s.ledgerActionEnd ok = s.ledgerResult 6 := by
  simp only [State.ledgerActionEnd, hr, ha, h3, hn, ne_eq, not_false_eq_true, Bool.not_true, Bool.false_eq_true, if_true,
    if_false]

/-- REMOVE and FUSE of an empty position end with 1. -/
theorem ledgerActionEnd_noEntry (h3 : a.action ≠ 3) (he : s.mram.ledger.get (fun _ => none) a.index = none) (ok : Bool) :
    s.ledgerActionEnd ok = s.ledgerResult 1 := by
  simp only [State.ledgerActionEnd, hr, ha, h3, he, Bool.not_true, Bool.false_eq_true, if_false]

/-- REMOVE frees the position of its entry; FUSE blows a record from an entry of a spare and ends with 3 at any other. -/
theorem ledgerActionEnd_entry {e : Words} (h3 : a.action ≠ 3) (he : s.mram.ledger.get (fun _ => none) a.index = some e)
    (ok : Bool) : s.ledgerActionEnd ok =
      if a.action = 1 then
        if ok then (s.setLedger a.index none).ledgerResult 0 else (s.raise 101 0).ledgerResult 4
      else if replacing (entType e) then s.ledgerFuse a.index e ok
      else s.ledgerResult 3 := by
  simp only [State.ledgerActionEnd, hr, ha, h3, he, Bool.not_true, Bool.false_eq_true, if_false]

theorem ledgerActionEnd_remove {e : Words} (h1 : a.action = 1)
    (he : s.mram.ledger.get (fun _ => none) a.index = some e) (ok : Bool) : s.ledgerActionEnd ok =
      if ok then (s.setLedger a.index none).ledgerResult 0 else (s.raise 101 0).ledgerResult 4 :=
  (ledgerActionEnd_entry hr ha (by omega) he ok).trans (if_pos h1)

theorem ledgerActionEnd_fuse {e : Words} (h2 : a.action = 2) (he : s.mram.ledger.get (fun _ => none) a.index = some e)
    (ht : replacing (entType e) = true) (ok : Bool) : s.ledgerActionEnd ok = s.ledgerFuse a.index e ok :=
  (ledgerActionEnd_entry hr ha (by omega) he ok).trans ((if_neg (by omega)).trans (if_pos ht))

end ActionEnds

/-! ### Fuse records -/

section Fuses
variable {s : State} {p : Path} {v : Word}

/-- What a lookup of a fuse record shows (R441). -/
def State.fuseShown (s : State) (p : Path) (v : Word) : State :=
  (((s.plainWrite (pathNum p) .CAL_FUSE_CTL 0 0 v).setReg (adr .CAL_FUSE_REC_LO)
    ((s.fuseRecord (bitsOf v.toNat 10 0)).setWidth 32)).setReg (adr .CAL_FUSE_REC_HI)
    ((s.fuseRecord (bitsOf v.toNat 10 0) >>> 32).setWidth 32)).setFlag F.CAL_FUSE_CTL_VALID true

theorem wFuseCtl_looks (hc : bitOf v.toNat 31 = false) : s.wFuseCtl p v = done (s.fuseShown p v) :=
  if_neg (by simp [hc])

/-- CANCEL of a record in use is noted, with the record shown (R432). -/
theorem wFuseCtl_cancels (hc : bitOf v.toNat 31 = true) (ho : s.sessionOk p = true) (hm : s.mode = .active)
    (hb : s.flag F.CAL_FUSE_CTL_BUSY = false) (hu : bitsOf (s.fuseRecord (bitsOf v.toNat 10 0)).toNat 63 62 = 2) :
    s.wFuseCtl p v =
      let t := (s.fuseShown p v).setFlag F.CAL_FUSE_CTL_BUSY true
      done { t with mram := { t.mram with fuseCancel := some (bitsOf v.toNat 10 0) } } := by
  simp only [State.wFuseCtl, hc, ho, hm, hb, hu, ne_eq, not_true_eq_false, Bool.not_true, Bool.false_eq_true, or_self,
    if_true, if_false]
  rfl

theorem fuseCancelEnd_eq {n : Nat} {t : State} (hn : s.mram.fuseCancel = some n)
    (ht : t = { s with mram := { s.mram with fuseCancel := none } }) (ok : Bool) : s.fuseCancelEnd ok =
      (((if ok then t.setFuse n (t.fuseRecord n ||| (1 <<< 62)) else t).setFlag F.CAL_FUSE_CTL_BUSY false).setFld
        F.CAL_FUSE_CTL_RESULT (if ok then 0 else 5)).latch F.POLL_SUMMARY_DONE := by
  simp only [State.fuseCancelEnd, hn, ← ht]

end Fuses

/-! ### The shutdown test -/

section Test
variable {s u : State} {t : Nat} {found : List TestFind}

/-- Without a manager a tier that was tested hands over to the next, and the last ends the test (R433). -/
theorem tierTest_unmanaged (hm : s.mode = .shutdownTest) (hr : s.flag F.CAL_TST_STS_RUNNING = true)
    (ht : s.fld F.CAL_TST_STS_TIER = t) (hw : s.flag F.CAL_TST_STS_PERMIT_WAIT = false) (hu : u = s.runTier t found)
    (hn : u.hasManager = false) : s.tierTest t found =
      if t < 3 then u.nextTier (t + 1)
      else ((u.setFlag F.CAL_TST_STS_RUNNING false).setFlag F.CAL_TST_STS_VALID true).shutdownDone := by
  simp only [State.tierTest, hm, hr, ht, hw, ← hu, hn, Bool.not_false, Bool.false_eq_true, and_self, if_true, if_false]

theorem permitTimeout_waiting (hm : s.mode = .shutdownTest) (hw : s.flag F.CAL_TST_STS_PERMIT_WAIT = true) :
    s.permitTimeout = (((s.advanceTo (s.cwy.askedAt + 5000000000)).setFlag F.CAL_TST_STS_PERMIT_WAIT false).setFlag
      F.CAL_TST_STS_PERMIT_TIMEOUT true).wakeTier (s.fld F.CAL_TST_STS_TIER) := if_pos ⟨hm, hw⟩

theorem nextTier_managed (h : (s.setFld F.CAL_TST_STS_TIER t).hasManager = true) : s.nextTier t =
    ((s.setFld F.CAL_TST_STS_TIER t).setFlag F.CAL_TST_STS_PERMIT_WAIT true).askPermit 0 t := if_pos h

end Test

end Sys2Proof.Machine

namespace Sys2Proof
open Machine

/-- Settles O55: each write by what its register makes of its word, each end by the action it ends, and the test by its
tier. -/
theorem ledgerFusesAndTheShutdownTest : Obligations.LedgerFusesAndTheShutdownTest := by
  unfold Obligations.LedgerFusesAndTheShutdownTest
  refine ⟨?_, ?_, ?_, ?_, ?_, ?_, ?_, ?_, ?_, ?_, ?_, ?_, ?_, ?_, ?_, ?_, ?_⟩
  · rintro p w s _ rfl hg ho hb hm _ rfl
    have hmode : s.mode = .active ∨ 1 = 1 ∧ s.mode = .safe := hm.imp_right fun h => ⟨rfl, h⟩
    exact finished_eq (s.writeOn_done p .CAL_LDG_CTL 0 0 _ _ hg
      (wLdgCtl_accepts (ledgerAction_of_withBits w (by decide)) (by decide) (.inr ho) hb hmode))
  · rintro p w s _ rfl hg ho hb hm _ rfl
    exact finished_eq (s.writeOn_done p .CAL_LDG_CTL 0 0 _ _ hg
      (wLdgCtl_accepts (ledgerAction_of_withBits w (by decide)) (by decide) (.inr ho) hb (.inl hm)))
  · rintro p w s _ rfl hg hb hm _ rfl
    exact finished_eq (s.writeOn_done p .CAL_LDG_CTL 0 0 _ _ hg
      (wLdgCtl_accepts (ledgerAction_of_withBits w (by decide)) (by decide) (.inl rfl) hb (.inl hm)))
  · rintro p w s _ rfl hg ho hm
    exact finished_eq (s.writeOn_ignored p .CAL_LDG_CTL 0 0 _ hg
      (wLdgCtl_fuse_safe (ledgerAction_of_withBits w (by decide)) ho hm))
  · exact fun s a e hr ha h1 he =>
      ⟨finished_eq (ledgerActionEnd_remove hr ha h1 he true), finished_eq (ledgerActionEnd_remove hr ha h1 he false)⟩
  · exact fun s a e n hr ha h2 he ht hf => finished_eq
      ((ledgerActionEnd_fuse hr ha h2 he ht true).trans (ledgerFuse_free hf))
  · exact fun s a ok hr ha h he => finished_eq (ledgerActionEnd_noEntry hr ha (by omega) he ok)
  · exact fun s a hr ha h3 hn => finished_eq (ledgerActionEnd_notReplaced hr ha h3 hn true)
  · rintro p w s _ _ _ _ rfl hg ho hm hb rfl rfl hu rfl
    exact finished_eq (s.writeOn_done p .CAL_FUSE_CTL 0 0 _ _ hg
      (wFuseCtl_cancels (bitOf_withBits w 31 true (by decide)) ho hm hb hu))
  · exact fun s n t hn ht => ⟨finished_eq (fuseCancelEnd_eq hn ht true), finished_eq (fuseCancelEnd_eq hn ht false)⟩
  · rintro p w s _ _ hg rfl rfl
    exact finished_eq (s.writeOn_done p .CAL_LDG_IDX 0 0 w _ hg rfl)
  · rintro p w s _ hg rfl
    exact finished_eq (s.writeOn_done p .CAL_TST_IDX 0 0 w _ hg rfl)
  · rintro p w s _ _ rfl hg rfl
    exact finished_eq (s.writeOn_done p .CAL_FUSE_CTL 0 0 _ _ hg
      (wFuseCtl_looks (bitOf_withBits w 31 false (by decide))))
  · intro t found s u hm hr ht hw hu hn
    have htest := tierTest_unmanaged hm hr ht hw hu hn
    exact ⟨fun h => finished_eq (htest.trans (if_pos h)), fun h => finished_eq (htest.trans (if_neg (by omega)))⟩
  · exact fun s hm hw => finished_eq (permitTimeout_waiting hm hw)
  · rintro s t _ rfl
    exact ⟨nextTier_managed, nextTier_unmanaged⟩
  · exact fun s => rfl

end Sys2Proof
end

