-- ==== Sys2Proof/Proofs/PinsHeatAndWear.lean ====
section
/-!
PROOFS. The pins taken as they change; the sample of a die, trips, the manager's share and the holds of THROTTLE sources; the
wear of bonds, counted, checked and saved.
-/
namespace Sys2Proof.Machine

/-! ### Pins -/

section Pins
variable {s : State}

theorem pwrokFall_running (h : s.mode ≠ .reset) : s.pwrokFall =
    State.enterReset { s with pins := { s.pins with pwrok := false, thermtrip := false } } := if_neg h

theorem pwrokFall_inReset (h : s.mode = .reset) : s.pwrokFall =
    { s with pins := { s.pins with pwrok := false, thermtrip := false } } := if_pos h

theorem rstNFall_running (hr : s.mode ≠ .reset) (hf : s.mode ≠ .fatal) : s.rstNFall =
    State.enterReset { s with pins := { s.pins with rstN := false } } := if_neg (not_or.mpr ⟨hr, hf⟩)

/-- FATAL and RESET only note the pin (R104). -/
theorem rstNFall_noted (h : s.mode = .reset ∨ s.mode = .fatal) : s.rstNFall =
    { s with pins := { s.pins with rstN := false } } := if_pos h

end Pins

/-! ### The sample of a die -/

section Sample
variable {s : State} {d : Nat}

theorem sensorSample_unsampled (h : s.mode = .reset ∨ s.mode = .deepRetention) (raw : List (BitVec 10)) :
    s.sensorSample d raw = s := if_pos h

/-- The sensors of die `d` converted, a die near its limit noted first (R406, R416). -/
def State.converted (s : State) (d : Nat) (raw : List (BitVec 10)) : State :=
  ((dieSensors d).zip raw).foldl (fun t p => t.sampleSensor p.1 p.2.toNat)
    { s with thermal := { s.thermal with hotAt := if s.someHot then some s.now else s.thermal.hotAt } }

/-- What the readings of die `d` make of its estimate, the maxima, its period, the thermal step and its history (R409 to
R417). -/
def State.judged (s : State) (d : Nat) : State :=
  ((((s.sampleDie d).setMaxima).setPeriod d).thermalStep d).keepHistory d

/-- What follows from the temperature of die `d`: the power measured with the base die, and for a core die the refresh that
its tier's channels owe. -/
def State.heatFollowed (s : State) (d : Nat) : State :=
  if d = 16 then s.measure else (List.range 8).foldl (fun t j => (t.noteLow (8 * (d / 4) + j)).updateDue (8 * (d / 4) + j)) s

/-- A sample of a die that was sampled before comes a period after its last (R408). -/
theorem sensorSample_due {x : Nat × Nat} {rest : List (Nat × Nat)} (hr : s.mode ≠ .reset) (hd : s.mode ≠ .deepRetention)
    (hx : s.thermal.history.get (fun _ => []) d = x :: rest) (raw : List (BitVec 10)) : s.sensorSample d raw =
      ((((s.advanceTo (x.1 + s.samplePeriod d)).converted d raw).judged d).heatFollowed d).tripStep d := by
  unfold State.sensorSample
  rw [if_neg (not_or.mpr ⟨hr, hd⟩), hx]
  rfl

end Sample

/-! ### Trips -/

section Trips
variable {s : State} {d : Nat} {backstop : Bool} {temp : Nat}

theorem trip_inReset (h : s.mode = .reset) : s.trip d backstop temp = { s with pins := { s.pins with thermtrip := true } } :=
  if_pos h

theorem trip_running (h : s.mode ≠ .reset) : s.trip d backstop temp =
    { (((({ s with pins := { s.pins with thermtrip := true } }.setFlag F.THM_TRIP_TRIPPED true).setFlag
        F.THM_TRIP_BACKSTOP backstop).setFld F.THM_TRIP_DIE d).setFld F.THM_TRIP_TEMP temp) with ownSelf := 0xFFFF }.raise
      81 (2 ^ d) := if_neg h

/-- The second hot sample in a row trips, once (R420). -/
theorem tripStep_second (ht : s.flag F.THM_TRIP_TRIPPED = false)
    (hh : encC (if d = 16 then 115 else 110) ≤ s.inForce d) (h1 : 1 ≤ s.thermal.trips.get (fun _ => 0) d) :
    s.tripStep d = ({ s with thermal := { s.thermal with trips := s.thermal.trips.set (fun _ => 0) d 2 } }).trip d false
      (s.inForce d) := by
  have h2 : 2 ≤ s.thermal.trips.get (fun _ => 0) d + 1 := by omega
  simp only [State.tripStep, hh, ht, h2, Nat.min_eq_right, decide_true, Bool.not_false, Bool.and_self, if_true]

end Trips

/-! ### The share and the holds -/

section Share
variable {s : State} {n t : Nat}

/-- A share not renewed for 20 ms lapses (R419). -/
theorem shareLapse_valid {u : State} (hn : s.thermal.shareAt = some n) (hv : s.flag F.PWR_STS_SHARE_VALID = true)
    (hu : u = ((s.advanceTo (n + 20000000)).setFlag F.PWR_STS_SHARE_VALID false).setFlag F.PWR_STS_SHARE_LAPSED true) :
    s.shareLapse = ({ u with thermal := { u.thermal with shareAt := none } }.setEffective).raiseCond 82 0 := by
  simp only [State.shareLapse, hn, hv, hu, if_true]

theorem holdExpire_held (h : s.coll.holds.get (fun _ => none) n = some t) : s.holdExpire n =
    { s.advanceTo (t + 10000000) with
      coll := { (s.advanceTo (t + 10000000)).coll with
        holds := (s.advanceTo (t + 10000000)).coll.holds.set (fun _ => none) n none } } := by
  simp only [State.holdExpire, h]

theorem holdExpire_free (h : s.coll.holds.get (fun _ => none) n = none) : s.holdExpire n = s := by
  simp only [State.holdExpire, h]

end Share

/-! ### Bond wear -/

section Wear
variable {s : State} {b : Fin 4} {w : Wear}

section Sampled
variable (hr : s.mode ≠ .reset) (hd : s.mode ≠ .deepRetention) (hw : s.wear[b.val] = some w)
include hr hd hw

/-- A temperature beyond the extreme moves the extreme. -/
theorem wearSample_further (he : if w.up then w.ext < s.boundaryTemp b else s.boundaryTemp b < w.ext) :
    s.wearSample b = { s with wear := s.wear.set b.val (some { w with ext := s.boundaryTemp b }) } := by
  unfold State.wearSample
  rw [if_neg (not_or.mpr ⟨hr, hd⟩), hw]
  exact if_pos he

/-- A reversal of 5 °C ends a half cycle, which counts when its range is above 20 °C (R439). -/
theorem wearSample_reversed {t n : Nat} {u : State} (ht : t = s.boundaryTemp b)
    (he : ¬ (if w.up then w.ext < t else t < w.ext)) (hc : 20 ≤ (w.ext - t) + (t - w.ext))
    (hu : u = { s with wear := s.wear.set b.val (some ⟨w.ext, t, !w.up⟩) }) (hn : n = (w.ext - w.ref) + (w.ref - w.ext)) :
    s.wearSample b = if 80 < n then ((u.bump (F.THM_WEAR_STS_HALF_CYCLES b)).bump (F.THM_WEAR_IDX_INDEX b)
      (n * n / 400)).setLevel b else u := by
  subst ht hu hn
  unfold State.wearSample
  rw [if_neg (not_or.mpr ⟨hr, hd⟩), hw]
  exact (if_neg he).trans (if_neg (Nat.not_lt.mpr hc))

end Sampled

theorem wearCheck_runs {c : Nat} (hc : s.coreRuns (halfOfChan c) = true) (ha : s.flag F.CAL_CFG_AUTO_CAL = true)
    (hm : s.mode = .active) (ho : (s.chan c).st = .online) (ht : 0 < s.tierLevel (c / 8)) (err : List Nat) :
    s.wearCheck c err = err.foldl (fun t n =>
      if t.condFree c (n / 64) then t.spareCond c n 5 else t.raise (128 + 4 * c + 1) 8) s :=
  if_pos (by simp [hc, ha, hm, ho, ht])

/-- The record is written an hour after the last (R439). -/
theorem wearRecordWrite_due {n : Nat} {t : State} (hm : s.mramRuns = true) (hr : s.mode ≠ .reset)
    (hd : s.mode ≠ .deepRetention) (hw : s.mram.wearWrite = none) (hn : s.mram.wearAt = some n)
    (ht : t = s.advanceTo (n + 3600000000000)) : s.wearRecordWrite =
      { t with mram := { t.mram with wearWrite := some (t.snapshot wearRegs), wearAt := some t.now } } := by
  have hno : ¬ (s.mode = .reset ∨ s.mode = .deepRetention ∨ s.mram.wearWrite.isSome = true ∨ (!s.mramRuns) = true) := by
    simp [hm, hr, hd, hw]
  unfold State.wearRecordWrite
  rw [if_neg hno]
  simp only [hn, ht]

end Wear

end Sys2Proof.Machine

namespace Sys2Proof
open Machine

/-- Settles O1: each change of a pin by the mode it finds. -/
theorem pinsTakenAsTheyChange : Obligations.PinsTakenAsTheyChange := by
  unfold Obligations.PinsTakenAsTheyChange
  refine ⟨?_, ?_, ?_, ?_, ?_⟩
  · exact fun s => rfl
  · exact fun s h => finished_eq (pwrokFall_running h)
  · exact fun s hr hf => finished_eq (rstNFall_running hr hf)
  · exact fun s h => finished_eq (rstNFall_noted h.symm)
  · exact fun s h => finished_eq (pwrokFall_inReset h)

/-- Settles O53: a sample at its period, a trip by the mode, and the share and the holds by what runs. -/
theorem heatIsSampledAndBoundsTheDevice : Obligations.HeatIsSampledAndBoundsTheDevice := by
  unfold Obligations.HeatIsSampledAndBoundsTheDevice
  refine ⟨?_, ?_, ?_, ?_, ?_, ?_, ?_, ?_, ?_⟩
  · rintro d raw s x rest _ _ _ _ hr hd hx rfl rfl rfl rfl
    exact finished_eq (sensorSample_due hr hd hx raw)
  · exact fun d raw s h => finished_eq (sensorSample_unsampled h raw)
  · exact fun s d ht hh h1 => tripStep_second ht hh h1
  · exact fun d s h => finished_eq (trip_inReset h)
  · rintro d s _ h rfl
    exact finished_eq (trip_running h)
  · exact fun s n t hn hv ht => finished_eq (shareLapse_valid hn hv ht)
  · exact fun s => rfl
  · exact fun n s t h => finished_eq (holdExpire_held h)
  · exact fun n s h => finished_eq (holdExpire_free h)

/-- Settles O54: a boundary temperature by where it lies from the extreme; the check and the record where their cores run. -/
theorem bondWearIsCountedCheckedAndSaved : Obligations.BondWearIsCountedCheckedAndSaved := by
  unfold Obligations.BondWearIsCountedCheckedAndSaved
  refine ⟨?_, ?_, ?_, ?_⟩
  · rintro b s w _ hr hd hw rfl he
    exact finished_eq (wearSample_further hr hd hw he)
  · intro b s w t u n hr hd hw ht he hc hu hn
    have h := wearSample_reversed hr hd hw ht he hc hu hn
    exact ⟨fun hle => finished_eq (h.trans (if_neg (Nat.not_lt.mpr hle))), fun hlt => finished_eq (h.trans (if_pos hlt))⟩
  · exact fun c err s hc ha hm ho ht => finished_eq (wearCheck_runs hc ha hm ho ht _)
  · exact fun s n t hm hr hd hw hn ht => finished_eq (wearRecordWrite_due hm hr hd hw hn ht)

end Sys2Proof
end

