-- ==== Sys2Proof/Proofs/FaultRegistersAndDump.lean ====
section
/-!
PROOFS. Sticky bits that clear and are raised again, the injection of faults, the dump window and the dump's channels.
-/
namespace Sys2Proof.Machine

/-! ### Sources raised in the cycle of a clear -/

section RaiseAgain
variable {s before : State} {r : Nat} {b : Fin 32} {bits : BitVec 32} {rest : List (Fin 32 × BitVec 32)}

/-- A listed source is raised like any other, its sticky bit kept at 1 if it was 1 (R446, R447). -/
theorem raiseAgain_listed {t : State} {n : Nat} (hn : n = 32 * r + b.val) (hl : sourceListed n = true)
    (ht : t = if before.flag (stickyFld n) then s.setFlag (stickyFld n) true else s) :
    s.raiseAgain before r ((b, bits) :: rest) =
      (if sourceIsCondition n then t.raiseCond n bits.toNat else t.raise n bits.toNat).raiseAgain before r rest := by
  subst hn ht
  exact congrArg (fun t : State => t.raiseAgain before r rest) (if_neg (by simp [hl]))

theorem raiseAgain_unlisted (hl : sourceListed (32 * r + b.val) = false) :
    s.raiseAgain before r ((b, bits) :: rest) = s.raiseAgain before r rest :=
  congrArg (fun t : State => t.raiseAgain before r rest) (if_pos (by simp [hl]))

end RaiseAgain

/-! ### Injection -/

section Injection
variable {s : State} {p : Path} {v : Word} {n bits : Nat}

/-- The record that an injection of source `n` leaves (R457). -/
def State.injectionNoted (s : State) (p : Path) (v : Word) (n bits : Nat) : State :=
  (((s.plainWrite (pathNum p) .FLT_INJ 0 0 v).recordFault n bits).setFlag F.FLT_STS_INJ_VALID true).setFld
    F.FLT_STS_LAST_INJ n

theorem wFltInj_unlisted (hg : bitOf v.toNat 31 = true) (hl : sourceListed (bitsOf v.toNat 23 16) = false) :
    s.wFltInj p v = ignored s := by
  simp [State.wFltInj, hg, hl]

section Listed
variable (hg : bitOf v.toNat 31 = true) (hn : n = bitsOf v.toNat 23 16) (hb : bits = 2 ^ bitsOf v.toNat 4 0)
  (hl : sourceListed n = true)
include hg hn hb hl

/-- Without REACT an injection only records its source. -/
theorem wFltInj_records (hr : bitOf v.toNat 30 = false) : s.wFltInj p v = done (s.injectionNoted p v n bits) := by
  subst hn hb
  simp only [State.wFltInj, hg, hl, hr, Bool.not_true, Bool.false_and, Bool.or_self, Bool.false_eq_true, if_false]
  rfl

/-- With REACT it takes the reaction too; FATAL asks a session (R457). -/
theorem wFltInj_reacts (hr : bitOf v.toNat 30 = true) (hi : (sourceReaction n bits).injectable = true)
    (hf : sourceReaction n bits ≠ .fatal ∨ s.sessionOk p = true) :
    s.wFltInj p v = done ((s.injectionNoted p v n bits).react n (sourceReaction n bits) true) := by
  subst hn hb
  have hdeny : (sourceReaction (bitsOf v.toNat 23 16) (2 ^ bitsOf v.toNat 4 0) == .fatal && !s.sessionOk p) = false := by
    rcases hf with hf | hf <;> simp [hf]
  simp only [State.wFltInj, hg, hl, hr, hi, hdeny, Bool.not_true, Bool.true_and, Bool.or_self, Bool.false_eq_true,
    if_true, if_false]
  rfl

end Listed

/-- Out of FATAL each reaction has its effect (R443). -/
theorem react_running (hm : s.mode ≠ .fatal) (inj : Bool) : s.react n .none inj = s ∧
    (∀ c, s.react n (.fence c) inj = s.chanOffline c 2) ∧ (∀ b, s.react n (.safe b) inj = s.setSafeCause b) ∧
    s.react n .fatal inj = s.fatalEntry n inj :=
  ⟨if_neg hm, fun _ => if_neg hm, fun _ => if_neg hm, if_neg hm⟩

end Injection

/-! ### The dump -/

section Dump
variable {s : State} {n : PathNum} {w : Word}

theorem wDumpCtl_takes (h3 : bitsOf w.toNat 25 24 ≠ 3) (hb : bitsOf w.toNat 11 0 ≤ 3583)
    (h2 : bitsOf w.toNat 25 24 = 2 → bitsOf w.toNat 11 0 = 0) :
    s.wDumpCtl n w = done ((s.plainWrite n .FLT_DUMP_CTL 0 0 w).setFlag F.FLT_DUMP_CTL_VALID false) := if_neg (by
  rintro (h | ⟨h, h0⟩ | h)
  · exact h3 h
  · exact h0 (h2 h)
  · omega)

/-- A summary has block 0 only, a copy 3,584 blocks (R455). -/
theorem wDumpCtl_noBlock (h : (bitsOf w.toNat 25 24 = 2 ∧ bitsOf w.toNat 11 0 ≠ 0) ∨ 3583 < bitsOf w.toNat 11 0) :
    s.wDumpCtl n w = ignored s := if_pos (.inr h)

theorem wDumpCfg_apart (h : bitsOf w.toNat 20 16 / 8 ≠ bitsOf w.toNat 4 0 / 8) :
    s.wDumpCfg n w = done (s.plainWrite n .FLT_DUMP_CFG 0 0 w) := if_neg h

theorem wDumpCfg_sameTier (h : bitsOf w.toNat 20 16 / 8 = bitsOf w.toNat 4 0 / 8) : s.wDumpCfg n w = ignored s := if_pos h

theorem windowFilled_filled (h : s.flag F.FLT_DUMP_CTL_VALID = true) : s.windowFilled = s := if_pos h

section Filling
variable (hv : s.flag F.FLT_DUMP_CTL_VALID = false)
include hv

theorem windowFilled_summary {b : List Byte} (h2 : s.fld F.FLT_DUMP_CTL_SEL = 2) (hb : s.coll.newest = some b) :
    s.windowFilled = s.setWindow .ok ((List.range 64).map fun k => summaryField b (4 * k) 4) := by
  simp only [State.windowFilled, hv, h2, hb, Bool.false_eq_true, if_true, if_false]

section CopyA
variable (h0 : s.fld F.FLT_DUMP_CTL_SEL = 0)
include h0

/-- A block of copy A is shown where the copy was written, also when it failed its check (R455). -/
theorem windowFilled_copyA {c : Nat} {ds : List Decoded} (hc : c = s.fld F.FLT_DUMP_STS_CHA_USED)
    (ha : s.fld F.FLT_DUMP_STS_COPY_A = 1 ∨ s.fld F.FLT_DUMP_STS_COPY_A = 2) (hu : s.copyUsable c = true)
    (hd : ds = ((List.range 4).map fun k => decodeSector (s.fld (F.ECC_CFG_POLICY c))
      (s.stored (serviceAt c (0xE00000 + 256 * s.fld F.FLT_DUMP_CTL_BLOCK + 64 * k))))) :
    s.windowFilled = s.setWindow (if ds.any (·.bad) then .poison else .ok)
      (ds.flatMap fun d => (List.range 16).map fun k => bitsOf d.data.toNat (32 * k + 31) (32 * k)) := by
  subst hc hd
  have hshown : ¬ ((s.fld F.FLT_DUMP_STS_COPY_A ≠ 1 ∧ s.fld F.FLT_DUMP_STS_COPY_A ≠ 2) ∨
      (!s.copyUsable (s.fld F.FLT_DUMP_STS_CHA_USED)) = true) := by
    rintro (⟨h1, h2⟩ | h)
    · exact ha.elim h1 h2
    · simp [hu] at h
  simp only [State.windowFilled, hv, h0, hshown, Bool.false_eq_true, if_true, if_false, OfNat.zero_ne_ofNat]

theorem windowFilled_noCopyA (h : (s.fld F.FLT_DUMP_STS_COPY_A ≠ 1 ∧ s.fld F.FLT_DUMP_STS_COPY_A ≠ 2) ∨
    s.copyUsable (s.fld F.FLT_DUMP_STS_CHA_USED) = false) : s.windowFilled = s.setWindow .unavailable [] := by
  have hno : (s.fld F.FLT_DUMP_STS_COPY_A ≠ 1 ∧ s.fld F.FLT_DUMP_STS_COPY_A ≠ 2) ∨
      (!s.copyUsable (s.fld F.FLT_DUMP_STS_CHA_USED)) = true := h.imp_right fun h => by simp [h]
  simp only [State.windowFilled, hv, h0, hno, Bool.false_eq_true, if_true, if_false, OfNat.zero_ne_ofNat]

end CopyA

end Filling

end Dump

end Sys2Proof.Machine

namespace Sys2Proof
open Machine

/-- Settles O56: each write by what its register makes of its word, a source raised again by whether it is listed, and the
window by what is selected and can be read. -/
theorem faultRegistersInjectionAndTheDump : Obligations.FaultRegistersInjectionAndTheDump := by
  unfold Obligations.FaultRegistersInjectionAndTheDump
  refine ⟨?_, ?_, ?_, ?_, ?_, ?_, ?_, ?_, ?_, ?_, ?_, ?_, ?_, ?_, ?_⟩
  · exact fun p r w again s hg => finished_eq
      (congrArg (fun t : State => t.raiseAgain s r again) (s.writeOn_done p .FLT_STICKY 0 r w _ hg rfl))
  · exact fun s before t r b bits rest n hn hl ht => raiseAgain_listed hn hl ht
  · exact fun s before r b bits rest hl => raiseAgain_unlisted hl
  · rintro p w s _ n bits _ rfl hg hn hb hl hr rfl
    exact finished_eq (s.writeOn_done p .FLT_INJ 0 0 _ _ hg
      (wFltInj_records (bitOf_withBits w 31 true (by decide)) hn hb hl hr))
  · rintro p w s _ n bits _ rfl hg hn hb hl hr hi hf rfl
    exact finished_eq (s.writeOn_done p .FLT_INJ 0 0 _ _ hg
      (wFltInj_reacts (bitOf_withBits w 31 true (by decide)) hn hb hl hr hi hf))
  · rintro p w s _ rfl hg hl
    exact finished_eq (s.writeOn_ignored p .FLT_INJ 0 0 _ hg
      (wFltInj_unlisted (bitOf_withBits w 31 true (by decide)) hl))
  · exact fun p w s hg h3 hb h2 => finished_eq (s.writeOn_done p .FLT_DUMP_CTL 0 0 w _ hg (wDumpCtl_takes h3 hb h2))
  · exact fun p w s hg h => finished_eq (s.writeOn_ignored p .FLT_DUMP_CTL 0 0 w hg (wDumpCtl_noBlock h))
  · exact fun s h => finished_eq (windowFilled_filled h)
  · exact fun s b hv h2 hb => finished_eq (windowFilled_summary hv h2 hb)
  · exact fun s c ds hv h0 hc ha hu hd => finished_eq (windowFilled_copyA hv h0 hc ha hu hd)
  · exact fun s hv h0 h => finished_eq (windowFilled_noCopyA hv h0 h)
  · exact fun p w s hg h => finished_eq (s.writeOn_done p .FLT_DUMP_CFG 0 0 w _ hg (wDumpCfg_apart h))
  · exact fun p w s hg h => finished_eq (s.writeOn_ignored p .FLT_DUMP_CFG 0 0 w hg (wDumpCfg_sameTier h))
  · exact fun s n inj hm => react_running hm inj

end Sys2Proof
end

