-- ==== Sys2Proof/Proofs/PackageManagement.lean ====
section
/-!
PROOFS. The global-state writes that the token does not permit; the frames of the Causeway, who manages the package, its
shares, permits and links.
-/
namespace Sys2Proof.Machine

/-! ### Bounced writes -/

section Bounced
variable {s : State}

theorem bounces_other {h : Half} {a : Nat} (ha : a < 0x10000 ∨ (0x20000 ≤ a ∧ a < 0x40000)) (ho : s.holder ≠ h) :
    s.bounces (.fw h) a = true := by
  simp [State.bounces, ha, ho]

theorem not_bounces_host {p : Path} (h : hostPath p = true) (a : Nat) : s.bounces p a = false := by
  cases p with
  | sb | ctl => rfl
  | fw | eng => cases h

theorem writeChecked_bounced {p : Path} {a u i : Nat} {r : Reg} {w : Word} {g : Given} {ans : Answer}
    (hm : s.mode ≠ .fatal) (hb : s.bounces p a = true) : s.writeChecked p a r u i w g ans = s.bounce (pathHalf p) :=
  (if_neg hm).trans (if_pos hb)

/-- A write that reaches a register of the other half's token ends with the bounce alone (R461). -/
theorem access_bounced {h : Half} {a u i : Nat} {r : Reg} {w : Word} (hm : s.mode ≠ .fatal)
    (hr : s.refused (.fw h) a true = none) (ha : regAt a = some (r, u, i))
    (hg : ((accessIslands h a true).all fun k => !s.flag (F.GLB_ISL_STS_GATED k)) = true)
    (hb : s.bounces (.fw h) a = true) : s.access (.fw h) a true w Given.plain .direct = s.bounce h :=
  access_of_refusing hr hg ha (accessReg_of_refusing (.inr rfl) (writeChecked_bounced hm hb) nofun) nofun

end Bounced

/-! ### Frames received -/

section Frames
variable {s : State} {type dst src : Nat} {l : List Nat} {take : State → State}

theorem discardFrame_running (h : s.cwyRuns = true) : s.discardFrame = s.bump F.CWY_STS_DISCARDS := if_pos h

theorem frameIn_stopped (h : s.cwyRuns = false) : s.frameIn type dst src l take = s.repeatFrame type dst src l :=
  if_pos (by simp [h])

theorem badLength_running (h : s.cwyRuns = true) : s.badLength type dst src l = s.discardFrame := if_pos h
theorem badLength_stopped (h : s.cwyRuns = false) : s.badLength type dst src l = s.repeatFrame type dst src l :=
  if_neg (by simp [h])

section Running
variable (hc : s.cwyRuns = true)
include hc

/-- A frame of this stack's own SRC is one it sent, or another stack has its STACK_ID (R471). -/
theorem frameIn_own (hs : src = s.pins.stackId) : s.frameIn type dst src l take =
    if s.sentIt type l then (if type = 1 then s.heardBeat src else s) else s.ambiguous :=
  (if_neg (by simp [hc])).trans (if_pos hs)

section Foreign
variable (hs : src ≠ s.pins.stackId)
include hs

/-- A broadcast is taken and passed on (R465). -/
theorem frameIn_broadcast : s.frameIn type 0xF src l take =
    if type = 1 then (take s).forwardBeat 0xF src l else (take s).forward type 0xF src l :=
  (if_neg (by simp [hc])).trans ((if_neg hs).trans (if_pos rfl))

theorem frameIn_mine (hd : dst = s.pins.stackId) (hf : dst ≠ 0xF) : s.frameIn type dst src l take = take s :=
  (if_neg (by simp [hc])).trans ((if_neg hs).trans ((if_neg hf).trans (if_pos hd)))

theorem frameIn_passing (hd : dst ≠ s.pins.stackId) (hf : dst ≠ 0xF) : s.frameIn type dst src l take =
    if type = 1 then s.forwardBeat dst src l else s.forward type dst src l :=
  (if_neg (by simp [hc])).trans ((if_neg hs).trans ((if_neg hf).trans (if_neg hd)))

end Foreign

end Running

/-- In DEEP RETENTION the repeater carries a HEARTBEAT on, whatever its length (R468). -/
theorem cwyHeartbeat_repeated (hc : s.cwyRuns = false) (hm : s.mode = .deepRetention) :
    s.cwyHeartbeat src l = s.forward 1 0xF src l := by
  have hrep : s.repeatFrame 1 0xF src l = s.forward 1 0xF src l := if_pos hm
  unfold State.cwyHeartbeat
  rw [badLength_stopped hc, frameIn_stopped hc, hrep, ite_self]

theorem cwyHeartbeat_framed (h : l.length = 48) :
    s.cwyHeartbeat src l = s.frameIn 1 0xF src l fun t => t.takeBeat src l := if_neg (not_not.mpr h)

theorem cwyHeartbeat_badLength (hc : s.cwyRuns = true) (h : l.length ≠ 48) : s.cwyHeartbeat src l = s.discardFrame :=
  (if_pos h).trans (badLength_running hc)

theorem cwyStatus_foreign (hc : s.cwyRuns = true) (h : l.length = 12) (hs : src ≠ s.pins.stackId) :
    s.cwyStatus src l = (s.takeStatus src l).forward 2 0xF src l :=
  (if_neg (not_not.mpr h)).trans (frameIn_broadcast hc hs)

theorem cwyAnnounce_foreign (hc : s.cwyRuns = true) (h : l.length = 4) (hs : src ≠ s.pins.stackId) :
    s.cwyAnnounce src l = (s.takeAnnounce src (payloadAt l 0 4)).forward 3 0xF src l :=
  (if_neg (not_not.mpr h)).trans (frameIn_broadcast hc hs)

end Frames

/-! ### HEARTBEATs and STATUS taken -/

section Beats
variable {s t : State} {src : Nat} {l : List Nat}

/-- An ambiguity ends once one stack alone has been heard for 10 ms (R471). -/
theorem soleCheck_over (ha : t.flag (liveFld 108) = true) (hs : t.cwy.sole < 16) (ht : t.cwy.soleSince + 10000000 ≤ t.now) :
    t.soleCheck = ((t.endCondition 108).clearSafeCause 1).latch F.POLL_SUMMARY_PKG := if_pos ⟨ha, hs, ht⟩

theorem soleCheck_stands (h : t.flag (liveFld 108) = false ∨ 16 ≤ t.cwy.sole ∨ t.now < t.cwy.soleSince + 10000000) :
    t.soleCheck = t := if_neg (by
  rintro ⟨ha, hs, ht⟩
  rcases h with h | h | h
  · simp [h] at ha
  · omega
  · omega)

theorem takeBeat_worker (hb : s.heardBeat src = t) (hm : t.isManager = false) : s.takeBeat src l = t.workerBeat src l := by
  subst hb
  exact if_neg (by simp [hm])

/-- A manager gives way to a higher EPOCH, is ambiguous at its own and does not heed a lower one (R471). -/
theorem takeBeat_manager (hb : s.heardBeat src = t) (hm : t.isManager = true) : s.takeBeat src l =
    if t.cwy.epoch < payloadAt l 0 4 then t.becomeWorker.workerBeat src l
    else if t.cwy.epoch = payloadAt l 0 4 then t.ambiguous else t := by
  subst hb
  exact if_pos hm

/-- A STATUS of a present stack that counted no change raises no attention (R472, R473). -/
theorem takeStatus_unchanged {n : Nat} (hn : n = payloadAt l 0 4) (hp : bitOf (s.fld F.CWY_PRESENT_PRESENT) src = true)
    (hk : (s.peer src).known = true) (hq : (s.peer src).seq = n / 65536) : s.takeStatus src l =
      (((s.setPeer src ⟨true, s.now, payloadAt l 4 2, payloadAt l 6 2, n / 65536⟩).setReg (adr .CWY_STACK 0 src)
        (BitVec.ofNat 32 n)).setFldBit F.CWY_PRESENT_PRESENT src true).setFldBit F.CWY_PRESENT_CAPABLE src
          (bitOf (payloadAt l 10 1) 0) := by
  subst hn
  simp only [State.takeStatus, hp, hk, hq, ne_eq, not_true_eq_false, and_false, Bool.not_true, Bool.false_eq_true, or_self,
    if_true, if_false]

end Beats

/-! ### Permits -/

section Permits
variable {s : State} {dst src kind tier n : Nat}

/-- The manager queues a request for a permit and grants what it can (R476). -/
theorem cwyPermitReq_manager (hc : s.cwyRuns = true) (hs : src ≠ s.pins.stackId) (hd : dst = s.pins.stackId)
    (hf : dst ≠ 0xF) (hm : s.isManager = true) (hk : kind ≤ 1) : s.cwyPermitReq dst src kind tier =
      { s with cwy := { s.cwy with waiting := s.cwy.waiting ++ [Permit.mk src kind tier] } }.grantAll :=
  (frameIn_mine hc hs hd hf).trans (if_pos ⟨hm, hk⟩)

theorem cwyPermitReq_passing (hc : s.cwyRuns = true) (hs : src ≠ s.pins.stackId) (hd : dst ≠ s.pins.stackId)
    (hf : dst ≠ 0xF) : s.cwyPermitReq dst src kind tier = s.forward 4 dst src [kind, tier] := frameIn_passing hc hs hd hf

theorem cwyPermitDone_manager (hc : s.cwyRuns = true) (hs : src ≠ s.pins.stackId) (hd : dst = s.pins.stackId)
    (hf : dst ≠ 0xF) (hm : s.isManager = true) : s.cwyPermitDone dst src kind tier = s.endPermit src kind :=
  (frameIn_mine hc hs hd hf).trans (if_pos hm)

theorem permitExpiry_granted {g : Permit × Nat}
    (h : s.cwy.granted.find? (fun g => g.1.stack == n && g.1.kind == 0) = some g) :
    s.permitExpiry n = (s.advanceTo (g.2 + 2000000000)).endPermit n 0 := by
  simp only [State.permitExpiry, h]

/-- The permit of the tier whose test waits starts it (R433). -/
theorem takePermit_test (hr : s.flag F.CAL_TST_STS_RUNNING = true) (ht : s.fld F.CAL_TST_STS_TIER = n) :
    s.takePermit 0 n = (s.setFlag F.CAL_TST_STS_PERMIT_WAIT false).wakeTier n :=
  (if_pos rfl).trans (if_pos ⟨hr, ht⟩)

/-- The permit of an update that waits for it restarts the other half's core (R479). -/
theorem takePermit_update {f : Fwu} (hf : s.auth.fwu = some f) (hp : f.phase = .permit) :
    s.takePermit 1 n = s.fwuRestart := by
  simp only [State.takePermit, hf, hp, one_ne_zero, if_true, if_false]

end Permits

/-! ### The link, and what the stack sends -/

section Sends
variable {s : State}

theorem cwyDown_up (hc : s.cwyRuns = true) (hl : s.flag (liveFld 110) = false) : s.cwyDown =
    (((s.setFlag F.CWY_STS_LINK_UP false).raiseCond 110 0).latch F.POLL_SUMMARY_PKG).traceLink 3 :=
  if_pos ⟨hc, by simp [hl]⟩

theorem cwyUp_down (hc : s.cwyRuns = true) (hl : s.flag F.CWY_STS_LINK_UP = false) : s.cwyUp =
    (((s.setFlag F.CWY_STS_LINK_UP true).endCondition 110).latch F.POLL_SUMMARY_PKG).traceLink 4 :=
  if_pos ⟨hc, by simp [hl]⟩

/-- The manager's HEARTBEAT carries the shares of all stacks, its own taking effect (R467, R474). -/
theorem beatSend_manager {l : List Nat} (hc : s.cwyRuns = true) (hm : s.isManager = true)
    (hl : l = bytesLE 4 s.cwy.epoch ++ bytesLE 8 s.timeBase.toNat ++ bytesLE 4 0 ++
      ((List.range 16).flatMap fun k => bytesLE 2 (s.shareOf k))) : s.beatSend =
      ((s.setFlag F.CWY_STS_BUDGET_LOW (decide (s.budgetLeft < 400 * s.presentStacks.length))).sendFrame 1 0xF l).setShare
        (s.shareOf s.pins.stackId) := by
  subst hl
  exact if_pos ⟨hc, hm⟩

theorem statusSend_running (hc : s.cwyRuns = true) : s.statusSend =
    (s.sendFrame 2 0xF s.statusPayload).takeStatus s.pins.stackId s.statusPayload := if_pos hc

theorem listenEnd_listening {n : Nat} (h : s.cwy.listening = some n) :
    s.listenEnd = ((s.advanceTo (n + 5000000)).becomeManager 1).beatSend := by
  simp only [State.listenEnd, h]

/-- A capable worker that heard no HEARTBEAT announces itself with the next EPOCH (R470). -/
theorem takeover_silent {t : State} {e : Nat} (hc : s.cwyRuns = true) (hb : s.mode ≠ .bringUp) (hw : s.isManager = false)
    (hl : s.cwy.listening = none) (hp : s.pins.mgrCapable = true)
    (ht : t = s.advanceTo (s.cwy.lastBeat + 50000000 + 2000000 * s.pins.stackId)) (he : e = (t.cwy.epoch + 1) % 2 ^ 32) :
    s.takeover = ((t.sendFrame 3 0xF (bytesLE 4 e)).becomeManager e).noteTakeover (t.fld F.CWY_STS_MANAGER)
      t.pins.stackId := by
  subst ht he
  exact if_pos ⟨hc, hb, by simp [hw], by simp [hl], hp⟩

/-- A stack not heard for 5 ms is absent (R472). -/
theorem stackAbsent_present {k : Nat} {t : State} (hc : s.cwyRuns = true)
    (hp : bitOf (s.fld F.CWY_PRESENT_PRESENT) k = true) (hk : k ≠ s.pins.stackId)
    (ht : t = (s.advanceTo ((s.peer k).heard + 5000000)).setFldBit F.CWY_PRESENT_PRESENT k false) : s.stackAbsent k =
      ((t.setReg (adr .CWY_STACK 0 k) 0).setAttn k).latch F.POLL_SUMMARY_PKG := by
  subst ht
  exact if_pos ⟨hc, hp, hk⟩

/-- RESIGN makes a manager a worker, whose takeover time starts now (R471). -/
theorem wCwyCfg_resigns {n : PathNum} {v : Word} {t : State} (hv : bitOf v.toNat 30 = true)
    (ht : t = s.plainWrite n .CWY_CFG 0 0 v) (hm : t.isManager = true) : s.wCwyCfg n v =
      done { t.becomeWorker with cwy := { t.becomeWorker.cwy with lastBeat := t.becomeWorker.now } } := by
  subst ht
  exact if_pos ⟨hv, hm⟩

end Sends

end Sys2Proof.Machine

namespace Sys2Proof
open Machine

/-- Settles O45: the bounce is the access's answer before the register is looked at, and only firmware's paths bounce. -/
theorem globalWritesOfTheOtherHalfBounce : Obligations.GlobalWritesOfTheOtherHalfBounce := by
  unfold Obligations.GlobalWritesOfTheOtherHalfBounce
  refine ⟨?_, ?_⟩
  · exact fun h a w r u i s hp hm hr ha hg hb ho => finished_eq
      (direct_ended hp (access_bounced hm hr ha hg (bounces_other hb ho)))
  · exact fun p a s h => not_bounces_host h a

/-- Settles O58: a frame by whose it is and whom it is for, what is sent by who manages, and each timeout by its
condition. -/
theorem stacksManageThePackage : Obligations.StacksManageThePackage := by
  unfold Obligations.StacksManageThePackage
  refine ⟨?_, ?_, ?_, ?_, ?_, ?_, ?_, ?_, ?_, ?_, ?_, ?_, ?_, ?_, ?_, ?_, ?_, ?_, ?_, ?_, ?_, ?_, ?_, ?_, ?_, ?_, ?_⟩
  · rintro src l s m hc hl rfl
    have hlen : (l.map (·.toNat)).length = 48 := (List.length_map _).trans hl
    have hframe := cwyHeartbeat_framed (s := s) (src := src.toNat) hlen
    refine ⟨fun hs => finished_eq (hframe.trans (frameIn_broadcast hc hs)), fun hs hi => ?_, fun hs hi => ?_⟩
    · exact finished_eq (hframe.trans ((frameIn_own hc hs).trans (if_pos hi)))
    · exact finished_eq (hframe.trans ((frameIn_own hc hs).trans (if_neg (by simp [hi]))))
  · exact fun src l s hc hl => finished_eq (cwyHeartbeat_badLength hc (by rwa [List.length_map]))
  · exact fun src l s hc hm => finished_eq (cwyHeartbeat_repeated hc hm)
  · rintro s type dst src l _ rfl
    rfl
  · rintro s _ rfl
    rfl
  · rintro s _ k rfl
    exact ⟨soleCheck_over, soleCheck_stands⟩
  · exact fun s src l t hb hm => takeBeat_worker hb hm
  · intro s src l t hb hm
    have h := takeBeat_manager (l := l) hb hm
    exact ⟨fun hlt => h.trans (if_pos hlt), fun he => h.trans ((if_neg (by omega)).trans (if_pos he)),
      fun hgt => h.trans ((if_neg (by omega)).trans (if_neg (by omega)))⟩
  · rintro src l s _ hc hl rfl hs
    exact finished_eq (cwyStatus_foreign hc ((List.length_map _).trans hl) hs)
  · rintro src l s _ hc hl rfl hs
    exact finished_eq (cwyAnnounce_foreign hc ((List.length_map _).trans hl) hs)
  · exact fun dst src kind tier s hc hs hd hf hm hk => finished_eq (cwyPermitReq_manager hc hs hd hf hm hk)
  · exact fun dst src kind tier s hc hs hd hf => finished_eq (cwyPermitReq_passing hc hs hd hf)
  · exact fun dst src kind tier s hc hs hd hf => finished_eq (frameIn_mine hc hs hd hf)
  · rintro dst src kind tier s _ hc hs hd hf hm rfl
    exact finished_eq (cwyPermitDone_manager hc hs hd hf hm)
  · exact fun s hc => ⟨finished_eq (discardFrame_running hc), finished_eq (discardFrame_running hc)⟩
  · exact fun s hc hl => finished_eq (cwyDown_up hc hl)
  · exact fun s hc hl => finished_eq (cwyUp_down hc hl)
  · exact fun s l hc hm hl => finished_eq (beatSend_manager hc hm hl)
  · exact fun s hc => finished_eq (statusSend_running hc)
  · exact fun s n h => finished_eq (listenEnd_listening h)
  · exact fun s t e hc hb hw hl hp ht he => finished_eq (takeover_silent hc hb hw hl hp ht he)
  · exact fun k s t hc hp hk ht => finished_eq (stackAbsent_present hc hp hk ht)
  · rintro p w s _ t rfl hg ht hm
    exact finished_eq (s.writeOn_done p .CWY_CFG 0 0 _ _ hg (wCwyCfg_resigns (bitOf_withBits w 30 true (by decide)) ht hm))
  · exact fun k s g h => finished_eq (permitExpiry_granted h)
  · exact fun s n hr ht => takePermit_test hr ht
  · exact fun s n f hf hp => takePermit_update hf hp
  · exact fun s src l n hn hp hk hq => takeStatus_unchanged hn hp hk hq

end Sys2Proof
end

