-- ==== Sys2Proof/Proofs/LifeCycleAndSessions.lean ====
section
/-!
PROOFS. The transitions of the life cycle, the actions on a session and how it ends, the overrides and the lookup of the
audit log.
-/
namespace Sys2Proof.Machine

/-! ### Transitions -/

section Transitions
variable {s : State} {p : Path} {w : Word}

/-- A transition of the table, asked for by the role it requires, blows its fuse bits (R482). -/
theorem wLcCtl_advances {b role : Nat} (hb : b = bitsOf w.toNat 31 29) (h0 : b ≠ 0)
    (hr : transitionRole s.lifeState b = some role) (hf : s.flag F.LC_CTL_BUSY = false) (hm : s.mode ≠ .safe)
    (ho : role = 0 ∨ isSecure p = true ∨ (s.life.session = role ∧ s.life.sessPath = pathNum p))
    (hk : s.lifeState = 1 → b = 2 → s.fuses.installerKey.isSome = true) : s.wLcCtl p w =
      done { s.setFlag F.LC_CTL_BUSY true with
        life := { s.life with pendingBits := lifeBits b, pendingBy := s.asker (pathNum p) } } := by
  subst hb
  have hallowed : ¬ (role ≠ 0 ∧ (!(isSecure p || (s.life.session == role && s.life.sessPath == pathNum p))) = true) := by
    rintro ⟨hne, hno⟩
    rcases ho with ho | ho | ⟨hs, hp⟩
    · exact hne ho
    · simp [ho] at hno
    · simp [hs, hp] at hno
  have hkey : ¬ (s.lifeState = 1 ∧ bitsOf w.toNat 31 29 = 2 ∧ s.fuses.installerKey.isNone = true) := by
    rintro ⟨h1, h2, hn⟩
    exact absurd (hk h1 h2) (by simp [Option.isNone_iff_eq_none.mp hn])
  have hidle : ¬ (s.flag F.LC_CTL_BUSY = true ∨ s.mode = .safe) := by simp [hf, hm]
  simp only [State.wLcCtl, h0, hr, if_false]
  rw [if_neg hidle, if_neg hallowed, if_neg hkey]

theorem wLcCtl_noTransition (h0 : bitsOf w.toNat 31 29 ≠ 0) (hr : transitionRole s.lifeState (bitsOf w.toNat 31 29) = none) :
    s.wLcCtl p w = ignored s := by
  simp only [State.wLcCtl, h0, hr, if_false]

theorem transitionEnd_idle (h : s.flag F.LC_CTL_BUSY = false) (bits : Nat) : s.transitionEnd bits = s := if_neg (by simp [h])

/-- The bits read back as asked: the new state is in force and logged; a session it permits stays open (R482, R493). -/
theorem transitionEnd_blown {bits : Nat} {t u : State} (hf : s.flag F.LC_CTL_BUSY = true)
    (hb : s.fuses.life ||| bits = s.life.pendingBits)
    (ht : t = (({ s with fuses := { s.fuses with life := s.fuses.life ||| bits } }.setFlag F.LC_CTL_BUSY false).setFld
      F.LC_CTL_RESULT 0).latch F.POLL_SUMMARY_DONE)
    (hu : u = t.audit 9 t.life.pendingBy.1 t.life.pendingBy.2 0 s.lifeState t.lifeState)
    (hs : u.life.session = 0 ∨ sessionPermitted u.lifeState u.life.session = true) : s.transitionEnd bits = u := by
  have hkeep : ¬ (u.life.session ≠ 0 ∧ (!sessionPermitted u.lifeState u.life.session) = true) := by
    rintro ⟨hne, hno⟩
    rcases hs with hs | hs
    · exact hne hs
    · simp [hs] at hno
  have hok : (s.fuses.life ||| bits == s.life.pendingBits) = true := beq_iff_eq.mpr hb
  have hz : b2n (!true) = 0 := rfl
  simp only [State.transitionEnd, hf, hok, hz, if_true, ← ht, ← hu]
  exact if_neg hkeep

end Transitions

/-! ### Actions on a session -/

section Sessions
variable {s : State} {p : Path} {v w : Word}

/-- The word of an action on a session carries that action alone. -/
theorem sessAction_of_withBits (w : Word) {k : Nat} (hk : k < 8) : bitsOf (withBits w 31 29 k).toNat 31 29 = k :=
  bitsOf_withBits w 31 29 k (by decide) (by decide) hk

/-- No path but a host's acts on a session, whatever the value (R485). -/
theorem wSessCtl_denied (h : hostPath p = false) : s.wSessCtl p v = s.deny p (adr .LC_SESS_CTL) true := by
  cases p with
  | sb | ctl => cases h
  | fw | eng => rfl

theorem wSessBad_denied (h : hostPath p = false) : s.wSessBad p v = s.deny p (adr .LC_SESS_CTL) true := by
  cases p with
  | sb | ctl => cases h
  | fw | eng => rfl

section Host
variable (h : hostPath p = true)
include h

theorem wSessCtl_challenge (hv : bitsOf v.toNat 31 29 = 4) : s.wSessCtl p v = s.challenge (pathNum p) v := by
  cases p with
  | sb | ctl => simp only [State.wSessCtl, hv]
  | fw | eng => cases h

theorem wSessCtl_open (hv : bitsOf v.toNat 31 29 = 2) : s.wSessCtl p v = s.openSession (pathNum p) v := by
  cases p with
  | sb | ctl => simp only [State.wSessCtl, hv]
  | fw | eng => cases h

theorem wSessCtl_close (hv : bitsOf v.toNat 31 29 = 1) : s.wSessCtl p v = s.closeSession (pathNum p) v := by
  cases p with
  | sb | ctl => simp only [State.wSessCtl, hv]
  | fw | eng => cases h

/-- A value out of range is IGNORED, an OPEN that fails at once a failed attempt all the same (R69, R486). -/
theorem wSessBad_host : s.wSessBad p v =
    if bitsOf v.toNat 31 29 = 2 ∧ s.openFails v then
      ⟨s.failAttempt (pathNum p) (bitsOf v.toNat 25 24), .ignored, 0, false⟩ else ignored s := by
  cases p with
  | sb | ctl => rfl
  | fw | eng => cases h

end Host

variable {n : PathNum}

theorem challenge_draws (hs : s.life.session = 0) (hl : s.life.lockout = false) : s.challenge n v =
    done ((s.plainWrite n .LC_SESS_CTL 0 0 v).drawNonce (bitsOf v.toNat 25 24)) := if_neg (by simp [hs, hl])

theorem challenge_refused (h : s.life.session ≠ 0 ∨ s.life.lockout = true) : s.challenge n v = ignored s := if_pos h

theorem openFails_false_iff : s.openFails v = false ↔
    s.life.nonce.isSome = true ∧ bitsOf v.toNat 25 24 = s.life.nonceRole ∧ s.life.session = 0 := by
  simp [State.openFails, Option.isSome_iff_ne_none, and_assoc]

theorem openSession_failing (h : s.openFails v = true) : s.openSession n v =
    ⟨s.failAttempt n (bitsOf v.toNat 25 24), .ignored, 0, false⟩ := if_pos h

/-- An OPEN that does not fail at once uses up its nonce; a right response of a permitted role binds the session, any other
is a failed attempt (R486, R487, R488). -/
theorem openSession_judged {role : Nat} {t : State} (h : s.openFails v = false) (hr : role = bitsOf v.toNat 25 24)
    (ht : t = { s.plainWrite n .LC_SESS_CTL 0 0 v with
      life := { (s.plainWrite n .LC_SESS_CTL 0 0 v).life with nonce := none } }) : s.openSession n v =
      if (sessionPermitted t.lifeState role && t.responseOk role n) = true then done (t.bindSession n role)
      else done (t.failAttempt n role) := by
  subst hr ht
  exact if_neg (by simp [h])

/-- Where a path may write LC_SESS_CTL, an OPEN that fails at once is a failed attempt, in range or not. -/
theorem writeOn_open_failing {w' : Word} (hg : s.granted p .LC_SESS_CTL 0 0 w' = true) (hp : hostPath p = true)
    (hv : bitsOf v.toNat 31 29 = 2) (hf : s.openFails v = true) : s.writeOn p .LC_SESS_CTL 0 0 v =
      (s.failAttempt (pathNum p) (bitsOf v.toNat 25 24)).emit (.access (pathNum p) (adr .LC_SESS_CTL) true .ignored 0) := by
  cases hr : inRange .LC_SESS_CTL v.toNat
  case false =>
    exact s.writeOn_outOfRange p .LC_SESS_CTL 0 0 w' v _ _ hg hr nofun ((wSessBad_host hp).trans (if_pos ⟨hv, hf⟩))
  case true =>
    exact s.writeOn_refused p .LC_SESS_CTL 0 0 w' v _ _ hg hr nofun
      ((wSessCtl_open hp hv).trans (openSession_failing hf))

theorem writeOn_open_outOfRange {w' : Word} (hg : s.granted p .LC_SESS_CTL 0 0 w' = true) (hp : hostPath p = true)
    (hf : s.openFails v = false) (hr : inRange .LC_SESS_CTL v.toNat = false) :
    s.writeOn p .LC_SESS_CTL 0 0 v = s.turnedAway p (adr .LC_SESS_CTL) :=
  s.writeOn_outOfRange p .LC_SESS_CTL 0 0 w' v _ _ hg hr nofun ((wSessBad_host hp).trans (if_neg (by simp [hf])))

theorem writeOn_sessCtl_denied {w' : Word} (hg : s.granted p .LC_SESS_CTL 0 0 w' = true) (hp : hostPath p = false) :
    s.writeOn p .LC_SESS_CTL 0 0 v =
      ((s.accFault 1 (pathNum p) (adr .LC_SESS_CTL) true).bump F.GLB_ACC_COUNT_PRIV_DENY_COUNT).emit
        (.access (pathNum p) (adr .LC_SESS_CTL) true .priv 0) := by
  cases hr : inRange .LC_SESS_CTL v.toNat
  case false => exact s.writeOn_outOfRange p .LC_SESS_CTL 0 0 w' v _ _ hg hr nofun (wSessBad_denied hp)
  case true => exact s.writeOn_refused p .LC_SESS_CTL 0 0 w' v _ _ hg hr nofun (wSessCtl_denied hp)

theorem closeSession_bound (hs : s.life.session ≠ 0) (hp : s.life.sessPath = n) : s.closeSession n v =
    done ((s.plainWrite n .LC_SESS_CTL 0 0 v).endSession 2) := if_pos ⟨hs, hp⟩

theorem now_of_core_eq {t : State} (h : s.core = t.core) : s.now = t.now := by
  have hnow : s.core.now = t.core.now := congrArg State.now h
  exact hnow

/-- A nonce drawn waits from now on, for its role (R486). -/
theorem drawNonce_waits (s : State) (r : Nat) :
    (s.drawNonce r).life.nonce = some s.now ∧ (s.drawNonce r).life.nonceRole = r := by
  have hnow : (s.useFree.each 8 fun k t => t.setReg (adr .LC_CHAL 0 k)
      ((Config.freeNonce s.free >>> (32 * k)).setWidth 32)).now = s.useFree.now :=
    now_of_core_eq (core_foldl _ (fun _ _ => core_setReg _ _ _) (List.range 8) s.useFree)
  exact ⟨congrArg some hnow, rfl⟩

theorem nonceLapse_waiting {k : Nat} (h : s.life.nonce = some k) : s.nonceLapse =
    { s.advanceTo (k + 1000000000) with life := { s.life with nonce := none } } := by
  simp only [State.nonceLapse, h]

theorem idleExpiry_open (h : s.life.session ≠ 0) : s.idleExpiry =
    (s.advanceSince s.life.lastUse (1000000000 * s.fld F.LC_SESS_CTL_IDLE_S)).endSession 4 := if_neg h

theorem idleExpiry_closed (h : s.life.session = 0) : s.idleExpiry = s := if_pos h

end Sessions

/-! ### Overrides -/

section Overrides
variable {s : State} {p : Path} {w : Word}

/-- An override in force is replaced, and not ended (R491). -/
theorem wStrapOvr_takes (ho : s.sessionOk p = true) (h : s.life.override = false ∨ bitOf w.toNat 31 = true) :
    s.wStrapOvr p w = done (s.plainWrite (pathNum p) .LC_STRAP_OVR 0 0 w) := by
  have hends : ¬ (s.life.override = true ∧ (!bitOf w.toNat 31) = true) := by
    rintro ⟨hi, hno⟩
    rcases h with h | h
    · simp [h] at hi
    · simp [h] at hno
  exact (if_neg (by simp [ho])).trans (if_neg hends)

theorem wTrnOvr_takes (ho : s.sessionOk p = true) :
    s.wTrnOvr p w = done (s.plainWrite (pathNum p) .LC_TRN_OVR 0 0 w) := if_neg (by simp [ho])

end Overrides

end Sys2Proof.Machine

namespace Sys2Proof
open Machine

/-- Settles O59: a transition by the table and who asks, an action by its path and the session's state, and what lapses by
what waits. -/
theorem lifeCycleSessionsAndOverrides : Obligations.LifeCycleSessionsAndOverrides := by
  unfold Obligations.LifeCycleSessionsAndOverrides
  refine ⟨?_, ?_, ?_, ?_, ?_, ?_, ?_, ?_, ?_, ?_, ?_, ?_, ?_, ?_, ?_, ?_, ?_, ?_, ?_, ?_, ?_⟩
  · exact fun p w s b role hg hb h0 hr hf hm ho hk => finished_eq
      (s.writeOn_done p .LC_CTL 0 0 w _ hg (wLcCtl_advances hb h0 hr hf hm ho hk))
  · exact fun p w s hg h0 hr => finished_eq (s.writeOn_ignored p .LC_CTL 0 0 w hg (wLcCtl_noTransition h0 hr))
  · exact fun bits s t u hf hb ht hu hs => finished_eq (transitionEnd_blown hf hb ht hu hs)
  · exact fun bits s h => finished_eq (transitionEnd_idle h _)
  · rintro p w s _ rfl hg hp hs hl
    exact finished_eq (s.writeOn_done p .LC_SESS_CTL 0 0 _ _ hg
      ((wSessCtl_challenge hp (sessAction_of_withBits w (by decide))).trans (challenge_draws hs hl)))
  · rintro p w s _ rfl hg hp h
    exact finished_eq (s.writeOn_ignored p .LC_SESS_CTL 0 0 _ hg
      ((wSessCtl_challenge hp (sessAction_of_withBits w (by decide))).trans (challenge_refused h)))
  · rintro p w s _ role _ t rfl hg hp hr hf rfl ht
    have hopen := (wSessCtl_open hp (sessAction_of_withBits w (by decide))).trans (openSession_judged hf hr ht)
    exact ⟨fun h => finished_eq (s.writeOn_done p .LC_SESS_CTL 0 0 _ _ hg (hopen.trans (if_pos h))),
      fun h => finished_eq (s.writeOn_done p .LC_SESS_CTL 0 0 _ _ hg (hopen.trans (if_neg (by simp [h]))))⟩
  · exact fun s v => openFails_false_iff
  · rintro p w w' s _ rfl hg hp hf
    exact finished_eq (writeOn_open_failing hg hp (sessAction_of_withBits w (by decide)) hf)
  · rintro p w w' s _ rfl hg hp hf hr
    exact finished_eq (writeOn_open_outOfRange hg hp hf hr)
  · exact fun p w w' s hg hp => finished_eq (writeOn_sessCtl_denied hg hp)
  · rintro p w s _ rfl hg hp hs hn
    exact finished_eq (s.writeOn_done p .LC_SESS_CTL 0 0 _ _ hg
      ((wSessCtl_close hp (sessAction_of_withBits w (by decide))).trans (closeSession_bound hs hn)))
  · exact fun s n h => finished_eq (nonceLapse_waiting h)
  · exact fun s h => finished_eq (idleExpiry_open h)
  · exact fun s h => finished_eq (idleExpiry_closed h)
  · exact fun p w s hg ho h => finished_eq (s.writeOn_done p .LC_STRAP_OVR 0 0 w _ hg (wStrapOvr_takes ho h))
  · exact fun p w s hg ho => finished_eq (s.writeOn_done p .LC_TRN_OVR 0 0 w _ hg (wTrnOvr_takes ho))
  · rintro p w s _ hg rfl
    exact finished_eq (s.writeOn_done p .LC_AUD_IDX 0 0 w _ hg rfl)
  · exact fun s p r => rfl
  · exact fun s e h => if_neg h
  · exact fun s r => drawNonce_waits s r

end Sys2Proof
end

