-- ==== Sys2Proof/Proofs/CountersTagsAndTrace.lean ====
section
/-!
PROOFS. The instants that OBS_CTL asks for, the seeds of tagging and the write of tag records, the trace's controls, its
queue and the write of its image.
-/
namespace Sys2Proof.Machine

/-! ### Instants -/

section Instants
variable {s before : State} {n : PathNum} {w : Word}

/-- The state that waits for one more instant. -/
def State.awaiting (s : State) (x : ObsInstant) : State :=
  { s with obs := { s.obs with instants := s.obs.instants ++ [x] } }

/-- Whatever a write of OBS_CTL asks waits 100 ns; SNAP clears SNAP_VALID at once (R86, R500). -/
theorem wObsCtl_eq (s : State) (n : PathNum) (w : Word) : s.wObsCtl n w =
    done ((let r := s.plainWrite n .OBS_CTL 0 0 w
      if bitOf w.toNat 30 then r.setFlag F.OBS_CTL_SNAP_VALID false else r).awaiting
        ⟨s.timeBase.toNat + 100, some (bitOf w.toNat 31), bitOf w.toNat 30, bitOf w.toNat 29⟩) := rfl

theorem wObsCtl_freeze (h30 : bitOf w.toNat 30 = false) (h29 : bitOf w.toNat 29 = false) : s.wObsCtl n w =
    done ((s.plainWrite n .OBS_CTL 0 0 w).awaiting
      ⟨s.timeBase.toNat + 100, some (bitOf w.toNat 31), false, false⟩) := by
  simp only [wObsCtl_eq, h30, h29, Bool.false_eq_true, if_false]

theorem wObsCtl_snap (h30 : bitOf w.toNat 30 = true) : s.wObsCtl n w =
    done (((s.plainWrite n .OBS_CTL 0 0 w).setFlag F.OBS_CTL_SNAP_VALID false).awaiting
      ⟨s.timeBase.toNat + 100, some (bitOf w.toNat 31), true, bitOf w.toNat 29⟩) := by
  simp only [wObsCtl_eq, h30, if_true]

theorem wObsCtl_clear (h29 : bitOf w.toNat 29 = true) : s.wObsCtl n w =
    done ((let r := s.plainWrite n .OBS_CTL 0 0 w
      if bitOf w.toNat 30 then r.setFlag F.OBS_CTL_SNAP_VALID false else r).awaiting
        ⟨s.timeBase.toNat + 100, some (bitOf w.toNat 31), bitOf w.toNat 30, true⟩) := by
  rw [wObsCtl_eq, h29]

/-- The word of a FREEZE asks for no snapshot and no clear. -/
theorem bits_freezeWord (w : Word) :
    bitOf (withBits w 30 29 0).toNat 30 = false ∧ bitOf (withBits w 30 29 0).toNat 29 = false := by
  have h : (withBits w 30 29 0).toNat / 2 ^ 29 % 2 ^ 2 = 0 := bitsOf_withBits w 30 29 0 (by decide) (by decide) (by decide)
  simp only [bitOf, beq_eq_false_iff_ne]
  omega

theorem obsInstant_none (h : s.obs.instants = []) : s.obsInstant = s := by
  simp only [State.obsInstant, h]

theorem obsInstant_first {x : ObsInstant} {rest : List ObsInstant} (h : s.obs.instants = x :: rest) : s.obsInstant =
    if s.timeBase.toNat < x.due then s.advanceGain (x.due - s.timeBase.toNat) else s := by
  simp only [State.obsInstant, h]

/-- At an instant: what comes before it is counted, then the snapshot, the clear and the freeze (R500). -/
theorem instantAt_ordered {x : ObsInstant} {t u v : State} (ht : t = s.runCounters before x.due [])
    (hu : u = if x.snap then t.snapshotAt x.due else t) (hv : v = if x.clear then u.clearCounters else u) :
    (∀ b, x.freeze = some b → s.instantAt before x = v.setFlag F.OBS_CTL_FROZEN b) ∧
      (x.freeze = none → s.instantAt before x = v) := by
  subst ht hu hv
  refine ⟨fun b h => ?_, fun h => ?_⟩ <;> simp only [State.instantAt, h]

end Instants

/-! ### Tagging -/

section Tags
variable {s r : State} {c : Nat} {g : TagRec}

theorem wTagCfg_on (h : s.flag F.OBS_TAG_CFG_EN = true) (n : PathNum) (w : Word) :
    s.wTagCfg n w = done (s.plainWrite n .OBS_TAG_CFG 0 0 w) := congrArg done (if_neg (by simp [h]))

/-- Enabling seeds each module's generator, with 1 where the seed would be 0 (R502). -/
theorem wTagCfg_seeds {n : PathNum} {w : Word} {t : State} {l : Store Word} (ht : t = s.plainWrite n .OBS_TAG_CFG 0 0 w)
    (hb : s.flag F.OBS_TAG_CFG_EN = false) (ha : t.flag F.OBS_TAG_CFG_EN = true)
    (hl : l = (List.range 12).foldl (fun (d : Store Word) m => d.set (fun _ => 1) m
      (if t.reg (adr .OBS_TAG_SEED) ^^^ BitVec.ofNat 32 m = 0 then 1
        else t.reg (adr .OBS_TAG_SEED) ^^^ BitVec.ofNat 32 m)) t.obs.lfsr) :
    s.wTagCfg n w = done { t with obs := { t.obs with lfsr := l } } := by
  subst ht hl
  exact congrArg done (if_pos ⟨by simp [hb], ha⟩)

theorem tagWrite_none (h : s.tagDue c = none) : s.tagWrite c = s := by
  simp only [State.tagWrite, h]

section Due
variable (hg : s.tagDue c = some g)
include hg

/-- A channel that is not ONLINE drops its records (R503). -/
theorem tagWrite_dropped (ho : (s.chan c).st ≠ .online) : s.tagWrite c = (s.dropTag g).bump F.OBS_TAG_STS_DROPS := by
  simp only [State.tagWrite, hg, ne_eq, ho, not_false_eq_true, if_true]

theorem tagWrite_online (ho : (s.chan c).st = .online) : s.tagWrite c = s.tagTo c g (s.tagCycles c) := by
  simp only [State.tagWrite, hg, ho, ne_eq, not_true_eq_false, if_false]

end Due

theorem tagCycles_noCycle (h : s.idleCycle c = none) : s.tagCycles c = none := by
  rw [State.tagCycles, h, Option.bind_none]

theorem tagCycles_idle (h : s.idleCycle c = some r) :
    s.tagCycles c = r.rowCycle c (serviceAt c (r.tagOff c)).loc := by
  rw [State.tagCycles, h, Option.bind_some]

/-- The idle cycle writes the row where it is open, free and within the budget (R236, R496). -/
theorem rowCycle_granted {loc : Nat} (hw : r.rowWaits loc true = false) (hi : r.rowInCycle loc = false)
    (ho : r.bankOpen loc = true) (hb : r.fitsBudget c 1 = true) :
    r.rowCycle c loc = some ((r.activate loc 1).countCh c 5) := if_neg (by simp [hw, hi, ho, hb])

theorem rowCycle_refused {loc : Nat} (h : r.rowWaits loc true = true ∨ r.rowInCycle loc = true ∨ r.bankOpen loc = false ∨
    r.fitsBudget c 1 = false) : r.rowCycle c loc = none := if_pos (by rcases h with h | h | h | h <;> simp [h])

end Tags

/-! ### The trace -/

section Trace
variable {s : State} {n : PathNum} {w : Word}

/-- The word of an action on the trace carries that action alone. -/
theorem traceAction_of_withBits (w : Word) {k : Nat} (hk : k < 8) : bitsOf (withBits w 31 29 k).toNat 31 29 = k :=
  bitsOf_withBits w 31 29 k (by decide) (by decide) hk

theorem wTrcCtl_start {t : State} (hw : bitsOf w.toNat 31 29 = 4)
    (ht : t = (((s.plainWrite n .OBS_TRC_CTL 0 0 w).setFlag F.OBS_TRC_STS_RUNNING true).setFlag F.OBS_TRC_STS_FULL
      false).setFld F.OBS_TRC_STS_WR_POS 0) :
    s.wTrcCtl n w = done { t with obs := { t.obs with postLeft := none, lost := 0 } } := by
  subst ht
  simp only [State.wTrcCtl, hw]

theorem wTrcCtl_stop (hw : bitsOf w.toNat 31 29 = 2) : s.wTrcCtl n w =
    done (if s.flag F.OBS_TRC_STS_RUNNING then (s.plainWrite n .OBS_TRC_CTL 0 0 w).stopTrace 1
      else s.plainWrite n .OBS_TRC_CTL 0 0 w) := by
  simp only [State.wTrcCtl, hw]

/-- The image is of the buffer as it stands (R506). -/
theorem wTrcCtl_exports {t : State} (hw : bitsOf w.toNat 31 29 = 1) (hr : s.flag F.OBS_TRC_STS_RUNNING = false)
    (ho : exportOk (bitsOf w.toNat 11 0) = true) (he : s.obs.exporting = none)
    (ht : t = (s.plainWrite n .OBS_TRC_CTL 0 0 w).setFlag F.OBS_TRC_CTL_EXP_VALID false) : s.wTrcCtl n w =
      done { t with obs := { t.obs with
        exporting := some ⟨bitsOf w.toNat 24 20, bitsOf w.toNat 11 0, 0, t.obs.trace, []⟩ } } := by
  subst ht
  simp only [State.wTrcCtl, hw, hr, ho, he, Option.isSome_none, Bool.not_true, Bool.false_eq_true, or_self, if_false]

theorem wTrcCtl_noExport (hw : bitsOf w.toNat 31 29 = 1) (h : s.flag F.OBS_TRC_STS_RUNNING = true ∨
    exportOk (bitsOf w.toNat 11 0) = false ∨ s.obs.exporting ≠ none) : s.wTrcCtl n w = ignored s := by
  have hno : s.flag F.OBS_TRC_STS_RUNNING = true ∨ (!exportOk (bitsOf w.toNat 11 0)) = true ∨
      s.obs.exporting.isSome = true :=
    h.imp_right (Or.imp (fun h => by simp [h]) Option.isSome_iff_ne_none.mpr)
  simp only [State.wTrcCtl, hw, hno, if_true]

theorem postStop_reached (hr : s.flag F.OBS_TRC_STS_RUNNING = true) (hp : s.obs.postLeft = some 0) :
    s.postStop = s.stopTrace 3 := if_pos ⟨hr, hp⟩

theorem exportEnd_none (h : s.obs.exporting = none) : s.exportEnd = s := by
  simp only [State.exportEnd, h]

theorem exportEnd_exporting {x} (h : s.obs.exporting = some x) : s.exportEnd =
    if x.next = 4096 then
      (({ s with obs := { s.obs with exporting := none } }).setFlag F.OBS_TRC_CTL_EXP_VALID true).latch F.POLL_SUMMARY_DONE
    else s := by
  simp only [State.exportEnd, h]

/-- Every stop but that of a STOP write sets POLL_SUMMARY.OBS (R505). -/
theorem stopTrace_byWrite {t : State} (ht : t = (s.setFlag F.OBS_TRC_STS_RUNNING false).setFld F.OBS_TRC_STS_STOPPED_BY 1) :
    s.stopTrace 1 = { t with obs := { t.obs with postLeft := none } } := by
  subst ht
  rfl

theorem stopTrace_byDevice {t : State} {k : Nat} (hk : k ≠ 1)
    (ht : t = (s.setFlag F.OBS_TRC_STS_RUNNING false).setFld F.OBS_TRC_STS_STOPPED_BY k) :
    s.stopTrace k = ({ t with obs := { t.obs with postLeft := none } } : State).latch F.POLL_SUMMARY_OBS := by
  subst ht
  exact if_neg hk

section Queue
variable {time k a d m : Nat} (hm : m = s.obs.fifo - (s.now - s.obs.fifoAt))
include hm

/-- An entry that finds 64 queued is lost (R505). -/
theorem queueEntry_lost (h : 64 ≤ m) : s.queueEntry time k a d =
    { s with obs := { s.obs with fifo := m, fifoAt := s.now, lost := s.obs.lost + 1 } }.countGl 0x11 := by
  subst hm
  exact if_pos h

/-- The next entry that is taken comes after a count of those lost (log entry 120). -/
theorem queueEntry_taken {t : State} (h : m < 64)
    (ht : t = { s with obs := { s.obs with fifo := m + 1, fifoAt := s.now, lost := 0 } }) : s.queueEntry time k a d =
      (if s.obs.lost = 0 then t else t.putEntry time 0xD 0 s.obs.lost).putEntry time k a d := by
  subst hm ht
  exact if_neg (Nat.not_le.mpr h)

end Queue

end Trace

end Sys2Proof.Machine

namespace Sys2Proof
open Machine

/-- Settles O60: each write by what its register makes of its word, a tag record by its channel and its cycle, and the
trace by its queue and what it writes out. -/
theorem countersTagsAndTheTrace : Obligations.CountersTagsAndTheTrace := by
  unfold Obligations.CountersTagsAndTheTrace
  refine ⟨?_, ?_, ?_, ?_, ?_, ?_, ?_, ?_, ?_, ?_, ?_, ?_, ?_, ?_, ?_, ?_, ?_, ?_, ?_, ?_, ?_, ?_, ?_⟩
  · rintro p w s _ _ rfl hg rfl
    obtain ⟨h30, h29⟩ := bits_freezeWord w
    exact finished_eq (s.writeOn_done p .OBS_CTL 0 0 _ _ hg (wObsCtl_freeze h30 h29))
  · rintro p w s _ _ rfl hg rfl
    exact finished_eq (s.writeOn_done p .OBS_CTL 0 0 _ _ hg (wObsCtl_snap (bitOf_withBits w 30 true (by decide))))
  · rintro p w s _ _ rfl hg rfl
    exact finished_eq (s.writeOn_done p .OBS_CTL 0 0 _ _ hg (wObsCtl_clear (bitOf_withBits w 29 true (by decide))))
  · intro s x rest h
    have hx := obsInstant_first h
    exact ⟨fun hlt => finished_eq (hx.trans (if_pos hlt)), fun hle => finished_eq (hx.trans (if_neg (Nat.not_lt.mpr hle)))⟩
  · exact fun s before x t u v ht hu hv => instantAt_ordered ht hu hv
  · exact fun s before => rfl
  · exact fun s h => finished_eq (obsInstant_none h)
  · rintro p w s _ _ rfl hg rfl h
    exact finished_eq (s.writeOn_done p .OBS_TAG_CFG 0 0 _ _ hg (wTagCfg_on h _ _))
  · rintro p w s _ t l rfl hg ht hb ha hl
    exact finished_eq (s.writeOn_done p .OBS_TAG_CFG 0 0 _ _ hg (wTagCfg_seeds ht hb ha hl))
  · intro c s g hg
    refine ⟨?_, fun ho hi => ?_, fun ho => finished_eq (tagWrite_dropped hg ho)⟩
    · rintro ho r _ hi rfl
      have hcyc := tagCycles_idle hi
      refine ⟨fun hw hin hb hf => finished_eq ?_, fun h => finished_eq ?_⟩
      · rw [tagWrite_online hg ho, hcyc, rowCycle_granted hw hin hb hf]
        rfl
      · rw [tagWrite_online hg ho, hcyc, rowCycle_refused h]
        rfl
    · exact finished_eq (by rw [tagWrite_online hg ho, tagCycles_noCycle hi]; rfl)
  · exact fun c s h => finished_eq (tagWrite_none h)
  · rintro p w s _ t rfl hg ht
    exact finished_eq (s.writeOn_done p .OBS_TRC_CTL 0 0 _ _ hg (wTrcCtl_start (traceAction_of_withBits w (by decide)) ht))
  · rintro p w s _ _ rfl hg rfl
    exact finished_eq (s.writeOn_done p .OBS_TRC_CTL 0 0 _ _ hg (wTrcCtl_stop (traceAction_of_withBits w (by decide))))
  · exact fun s hr hp => finished_eq (postStop_reached hr hp)
  · rintro p w s _ t rfl hg hr ho he ht
    exact finished_eq (s.writeOn_done p .OBS_TRC_CTL 0 0 _ _ hg
      (wTrcCtl_exports (traceAction_of_withBits w (by decide)) hr ho he ht))
  · rintro p w s _ rfl hg h
    exact finished_eq (s.writeOn_ignored p .OBS_TRC_CTL 0 0 _ hg
      (wTrcCtl_noExport (traceAction_of_withBits w (by decide)) h))
  · intro s x h
    have hx := exportEnd_exporting h
    exact ⟨fun hn => finished_eq (hx.trans (if_pos hn)), fun hn => finished_eq (hx.trans (if_neg hn))⟩
  · exact fun s h => finished_eq (exportEnd_none h)
  · rintro p w s _ _ hg rfl rfl
    exact finished_eq (s.writeOn_done p .OBS_TRC_RD 0 0 w _ hg rfl)
  · exact fun p w s hg => finished_eq (s.writeOn_done p .OBS_TRC_MARK 0 0 w _ hg rfl)
  · intro s k t ht
    refine ⟨?_, fun hk => stopTrace_byDevice hk ht⟩
    rintro rfl
    exact stopTrace_byWrite ht
  · exact fun s time k a d n hn => ⟨queueEntry_lost hn, fun t h ht => queueEntry_taken hn h ht⟩
  · exact fun s k a d => rfl

end Sys2Proof
end
